-- ==== Sys2Proof/Word.lean ====
section
/-! DEFINITION. The widths of the machine's words, and tables with a default (R2, R5, R14). -/
namespace Sys2Proof

/-- A scalar register, a system register or a memory-mapped register: 64 bits. -/
abbrev Word := BitVec 64
/-- A vector register: VW = 2,048 bits (R14). -/
abbrev Vec := BitVec 2048
/-- A predicate: 256 bits, bit i for byte lane i (R31). -/
abbrev Pred := BitVec 256
/-- A byte. -/
abbrev Byte := BitVec 8

/-- A table with few entries: an unlisted key has the table's default. -/
abbrev Tab (α : Type) := List (Nat × α)

end Sys2Proof
end

