-- ==== Sys2Proof/Syntax.lean ====
section
/-! DEFINITION. The steps of the module as syntax: one constructor for each row of the opcode table.
The first part holds the lead-word instructions (R202-R204), the second the arithmetic words (R205),
the third the module's other indivisible steps (spec/95_what_each_step_holds.md), whose outside
inputs (physics, host values, replies of peers and of firmware) are constructor arguments. -/
namespace Sys2Proof

/-- An immediate field of `n` bits, or the 32-bit literal of a lone bundle (R185). -/
inductive Imm (n : Nat) where
  | imm (v : BitVec n)
  | lit (v : BitVec 32)
  deriving DecidableEq, Repr

/-- The condition codes of `bc` (R202). -/
inductive BCond where
  | eqz | nez | ltz | gez | gtz | lez | pany | pall | pnone
  deriving DecidableEq, Repr

/-- Scope codes (R132). -/
inductive Scope where
  | core | clu | die | mod | fab | sys
  deriving DecidableEq, Repr

/-- Size codes of scalar loads (R285). -/
inductive LdSz where
  | w8 | i8 | w16 | i16 | w32 | i32 | w64
  deriving DecidableEq, Repr

/-- Sizes of one element, or of an unsigned scalar access: 1, 2, 4 or 8 bytes (R285). -/
inductive ESz where
  | e1 | e2 | e4 | e8
  deriving DecidableEq, Repr

/-- Atomic types (R285). -/
inductive ATy where
  | w32 | i32 | w64 | i64
  deriving DecidableEq, Repr

/-- Cache levels of `pref` (R285). -/
inductive Lvl where
  | l1 | l2 | l3
  deriving DecidableEq, Repr

/-- The integer family of type codes (R197). -/
inductive ITy where
  | i32 | w32 | i16 | w16 | i8 | w8 | i64
  deriving DecidableEq, Repr

/-- The float family of type codes (R197). -/
inductive FTy where
  | f32 | bf16 | f16 | e4m3 | e5m2 | pw8
  deriving DecidableEq, Repr

/-- A type read in the family that the modifier selects (R273). -/
inductive RTy where
  | f (t : FTy)
  | i (t : ITy)
  deriving DecidableEq, Repr

/-- Rounding codes (R114, R163). -/
inductive Rnd where
  | rne | rz | rd | ru | rna | rs
  deriving DecidableEq, Repr

/-- The modifier of a float instruction that rounds (R198). -/
structure FMod where
  rnd : Rnd
  sat : Bool
  deriving DecidableEq, Repr

/-- Integer compare codes (R198). -/
inductive ICc where
  | eq | ne | lt | le | gt | ge
  deriving DecidableEq, Repr

/-- Float compare codes (R198). -/
inductive FCc where
  | eq | ne | lt | le | gt | ge | un | or
  deriving DecidableEq, Repr

/-- The flags of a copy's literal (R306). -/
structure CopyFlags where
  dcl : BitVec 4
  dk : Bool
  ss : Bool
  scope : Scope
  deriving DecidableEq, Repr

/-- KIND and FS of `scvt` (R268). -/
inductive ScvtKind where
  | ff (fs : FTy)
  | fromI64
  | toI64
  deriving DecidableEq, Repr

/-- Why a bundle does not decode (R206, R429, R502). -/
inductive DecodeErr where
  | reservedOp6 | reservedOp7 | reservedCode | nonzeroField | loneRule | repArith | reservedSysReg
  deriving DecidableEq, Repr

/-- What an atomic does with the old value (R297). -/
inductive AOp where
  | add | min | max | and | or | xor | swap | fadd
  | cas (expected : Word)
  deriving DecidableEq, Repr

/-- What a flit from a peer carries (R401): an access to a module address that performs here, under the owner of its page (64 ×
partition + KEY, R112), a commit of a tile homed
here with the bytes to write, a message to a thread, a cancel, the return of allowance (R402), or nothing. -/
inductive Flit where
  | write (own maddr len value : Nat)
  | read (own maddr len : Nat)
  | atomic (own maddr : Nat) (op : AOp) (t : ATy) (x : Word)
  | commit (part launch task attempt : Nat) (base : BitVec 32) (desc : Word) (maddr size data : Nat)
  | msg (th launch : Nat) (header : Word) (len payload : Nat)
  | cancel (launch task exempt : Nat)
  | allowance (n : Nat)
  | idle
  deriving DecidableEq, Repr

/-- What became of an access that its home or the host answers (R451, R452, R481): it performed; it
failed with a code and a detail; or it was applied and answered with an error (an atomic). -/
inductive HomeAnswer where
  | ok
  | failed (code : BitVec 8) (detail : BitVec 64)
  | applied (detail : BitVec 64)
  deriving DecidableEq, Repr

/-- A message operation as it reaches its destination, with the answer where that is on another module (R324, R401). -/
structure MsgArrival where
  id : Nat
  ans : HomeAnswer
  deriving DecidableEq, Repr

/-- A posted store as its home's report names it: its address, or the device with 0x73, and the cycle in which it issued (R447). -/
structure StoreName where
  addr : BitVec 64
  issued : Nat
  deriving DecidableEq, Repr

/-- A piece of a copy as it is carried out, with the answer where a home outside the module gives one (R448, R481). -/
structure PieceAnswer where
  piece : Nat
  ans : HomeAnswer
  deriving DecidableEq, Repr

/-- Bytes that the host or its firmware writes to host memory: the host address, the length, the little-endian value (R125, R155). -/
structure HostWrite where
  addr : Nat
  len : Nat
  value : Nat
  deriving DecidableEq, Repr

/-- A service's answer: its value, and what firmware writes to host memory through CXL.io before it answers (R239, R489). -/
structure SvcAnswer where
  value : BitVec 64
  writes : List HostWrite
  deriving DecidableEq, Repr

/-- A coherent host line as the host takes it from the module, with what the host then writes itself (R125, R155). -/
structure HostLine where
  addr : Nat
  writes : List HostWrite
  deriving DecidableEq, Repr

/-- The end of a recovery of a control complex: the array recovered, and whether its image was good (R478, R479). -/
structure RecoveryEnd where
  array : Nat
  ok : Bool
  deriving DecidableEq, Repr

/-- The physical dies that failed to train, and those of which an HBM stack did (R484). -/
structure FailedDies where
  late : BitVec 8
  hbm : BitVec 8
  deriving DecidableEq, Repr

/-- A wavelength, and the errors counted in its last window of 2^32 bits (R401). -/
structure LamErrors where
  lam : Nat
  errors : Nat
  deriving DecidableEq, Repr

/-- A rope and the current of its supply, in mA (R375). -/
structure RopeSupply where
  rope : Nat
  cur : Nat
  deriving DecidableEq, Repr

/-- An attempt as modules name it to each other: its launch, task and number (R80, R481). -/
structure AttemptName where
  launch : Nat
  task : Nat
  attempt : Nat
  deriving DecidableEq, Repr

/-- The module's answer to SPDM GET_MEASUREMENTS is asked for by index (R395). -/
inductive MeasIndex where
  | image | windows
  deriving DecidableEq, Repr

/-- One constructor for each row of the opcode table. Operand names are the table's field names where
it has them: d, a, b registers; p governing predicate; h handle. -/
inductive Instr where
  -- lead group 0b00: control, search and task (R202, R208)
  | nop
  | bra (off : Imm 20)
  | bc (c : BCond) (r : BitVec 5) (off : Imm 11)
  | call (off : Imm 20)
  | calli (d a : BitVec 5)
  | ret (a : BitVec 5)
  | jmpi (a : BitVec 5)
  | rep (creg : BitVec 5) (cnt : BitVec 6) (stepO stepD stepA stepB : Bool)
  | yield (map : Imm 15)
  | safe (map : Imm 15)
  | endCont
  | work (d : BitVec 5) (amount : Imm 15)
  | wait (h : BitVec 4)
  | ftest (d : BitVec 5) (h : BitVec 4)
  | fcancel (h : BitVec 4)
  | fget (d : BitVec 5) (h : BitVec 4)
  | fput (h : BitVec 4) (a : BitVec 5)
  | tryChoice (a b : BitVec 5) (n : BitVec 7) (map : BitVec 16)
  | fail
  | cut (d : BitVec 5) (depth : BitVec 15)
  | mark (d : BitVec 5)
  | commit (h : BitVec 4) (a : BitVec 5) (map : BitVec 16)
  | tread (d a b : BitVec 5) (h : BitVec 4) (ver : BitVec 32)
  | tver (d a : BitVec 5)
  | quit
  | svc (d : BitVec 5) (n : Imm 15)
  | lit (d : BitVec 5) (v : Imm 15)
  | lithi (d : BitVec 5) (v : Imm 15)
  | vlit (d : BitVec 5) (v : Imm 15)
  -- lead group 0b01: memory (R203, R285)
  | ldW8 (d a : BitVec 5) (off : Imm 10)
  | ldI8 (d a : BitVec 5) (off : Imm 10)
  | ldW16 (d a : BitVec 5) (off : Imm 10)
  | ldI16 (d a : BitVec 5) (off : Imm 10)
  | ldW32 (d a : BitVec 5) (off : Imm 10)
  | ldI32 (d a : BitVec 5) (off : Imm 10)
  | ldW64 (d a : BitVec 5) (off : Imm 10)
  | stW8 (d a : BitVec 5) (off : Imm 10)
  | stW16 (d a : BitVec 5) (off : Imm 10)
  | stW32 (d a : BitVec 5) (off : Imm 10)
  | stW64 (d a : BitVec 5) (off : Imm 10)
  | ldx (d a b : BitVec 5) (sc : Bool) (sz : LdSz) (off : Option (BitVec 32))
  | stx (d a b : BitVec 5) (sc : Bool) (sz : ESz) (off : Option (BitVec 32))
  | vld (d a : BitVec 5) (off : Imm 10)
  | vst (d a : BitVec 5) (off : Imm 10)
  | vlds (d a b : BitVec 5) (e : ESz) (p : BitVec 3) (off : Option (BitVec 32))
  | vsts (d a b : BitVec 5) (e : ESz) (p : BitVec 3) (off : Option (BitVec 32))
  | vgat (d a b : BitVec 5) (e : ESz) (p : BitVec 3) (off : Option (BitVec 32))
  | vsct (d a b : BitVec 5) (e : ESz) (p : BitVec 3) (off : Option (BitVec 32))
  | vldb (d a : BitVec 5) (e : ESz) (p : BitVec 3) (off : Option (BitVec 32))
  | ldsync (d a : BitVec 5) (sz : LdSz) (off : Option (BitVec 32))
  | vldsync (d a : BitVec 5) (off : Imm 10)
  | stfull (d a : BitVec 5) (off : Imm 10)
  | vstfull (d a : BitVec 5) (off : Imm 10)
  | femp (a b : BitVec 5) (off : Option (BitVec 32))
  | ldacq (d a : BitVec 5) (sz : ESz) (sc : Scope) (off : Option (BitVec 32))
  | strel (d a : BitVec 5) (sz : ESz) (sc : Scope) (off : Option (BitVec 32))
  | afadd (d a b : BitVec 5) (t : ATy) (sc : Scope) (off : Option (BitVec 32))
  | afmin (d a b : BitVec 5) (t : ATy) (sc : Scope) (off : Option (BitVec 32))
  | afmax (d a b : BitVec 5) (t : ATy) (sc : Scope) (off : Option (BitVec 32))
  | afand (d a b : BitVec 5) (t : ATy) (sc : Scope) (off : Option (BitVec 32))
  | afor (d a b : BitVec 5) (t : ATy) (sc : Scope) (off : Option (BitVec 32))
  | afxor (d a b : BitVec 5) (t : ATy) (sc : Scope) (off : Option (BitVec 32))
  | aswap (d a b : BitVec 5) (t : ATy) (sc : Scope) (off : Option (BitVec 32))
  | affadd (d a b : BitVec 5) (sc : Scope) (off : Option (BitVec 32))
  | acas (d a b : BitVec 5) (t : ATy) (sc : Scope) (off : BitVec 24) (new : BitVec 5)
  | pref (a : BitVec 5) (lvl : Lvl) (off : Option (BitVec 32))
  | pin (d a b : BitVec 5) (l3 : Bool) (off : Option (BitVec 32))
  | unpin (a b : BitVec 5) (l3 : Bool) (off : Option (BitVec 32))
  | cflush (a b : BitVec 5) (off : Option (BitVec 32))
  | cinv (a b : BitVec 5) (off : Option (BitVec 32))
  -- lead group 0b10: engines and synchronisation (R204, R305)
  | copy (h : BitVec 4) (d s n : BitVec 5) (fl : Option CopyFlags)
  | copy2 (h : BitVec 4) (d s k : BitVec 5) (fl : Option CopyFlags)
  | copym (h : BitVec 4) (d s n : BitVec 5) (fl : Option CopyFlags)
  | stage (n : BitVec 15)
  | mxld (h : BitVec 4) (a : BitVec 5) (off : Option (BitVec 32))
  | mxmm (h : BitVec 4) (a b code : BitVec 5) (off : Option (BitVec 32))
  | mxsp (h : BitVec 4) (a b c : BitVec 5) (off : Option (BitVec 32))
  | mxgrp (h : BitVec 4) (a b k : BitVec 5) (off : Option (BitVec 32))
  | mxrot (h : BitVec 4) (lone : Bool)
  | mxrd (h : BitVec 4) (a b c : BitVec 5) (lone : Bool)
  | mxclr (h : BitVec 4) (b : BitVec 5) (lone : Bool)
  | mxmeta (h : BitVec 4) (a b c : BitVec 5) (lone : Bool)
  | mxcmd (h : BitVec 4) (a b : BitVec 5) (cap : BitVec 32)
  | msg (h : BitVec 4) (a b c : BitVec 5) (tag : Option (BitVec 32))
  | recv (d a : BitVec 5)
  | bar (level : BitVec 5) (map : Imm 15)
  | barl
  | fence (sc : Scope)
  -- lead group 0b11: system (R204, R326)
  | gets (d : BitVec 5) (n : BitVec 15)
  | puts (d : BitVec 5) (n : BitVec 15)
  | hand (d a : BitVec 5)
  | hret (a : BitVec 5)
  | rseed (a b : BitVec 5)
  | park (a : BitVec 5)
  -- arithmetic words (R205): scalar integer
  | arithNop
  | add (p : BitVec 3) (d a b : BitVec 5) (t : ITy)
  | sub (p : BitVec 3) (d a b : BitVec 5) (t : ITy)
  | mul (p : BitVec 3) (d a b : BitVec 5) (t : ITy)
  | mulh (p : BitVec 3) (d a b : BitVec 5) (t : ITy)
  | div (p : BitVec 3) (d a b : BitVec 5) (t : ITy)
  | rem (p : BitVec 3) (d a b : BitVec 5) (t : ITy)
  | and (p : BitVec 3) (d a b : BitVec 5) (t : ITy)
  | or (p : BitVec 3) (d a b : BitVec 5) (t : ITy)
  | xor (p : BitVec 3) (d a b : BitVec 5) (t : ITy)
  | andn (p : BitVec 3) (d a b : BitVec 5) (t : ITy)
  | shl (p : BitVec 3) (d a b : BitVec 5) (t : ITy)
  | shr (p : BitVec 3) (d a b : BitVec 5) (t : ITy)
  | sra (p : BitVec 3) (d a b : BitVec 5) (t : ITy)
  | rot (p : BitVec 3) (d a b : BitVec 5) (t : ITy)
  | min (p : BitVec 3) (d a b : BitVec 5) (t : ITy)
  | max (p : BitVec 3) (d a b : BitVec 5) (t : ITy)
  | set (p : BitVec 3) (d a b : BitVec 5) (t : ITy) (c : ICc)
  | sel (p : BitVec 3) (d a b : BitVec 5) (t : ITy)
  | adds (p : BitVec 3) (d a b : BitVec 5) (t : ITy)
  | clz (p : BitVec 3) (d a : BitVec 5) (t : ITy)
  | popc (p : BitVec 3) (d a : BitVec 5) (t : ITy)
  | bext (p : BitVec 3) (d a b : BitVec 5) (t : ITy)
  | bins (p : BitVec 3) (d a b : BitVec 5) (t : ITy)
  | mov (p : BitVec 3) (d a : BitVec 5) (t : ITy)
  | addi (p : BitVec 3) (d a : BitVec 5) (i : BitVec 12)
  | andi (p : BitVec 3) (d a : BitVec 5) (i : BitVec 12)
  | ori (p : BitVec 3) (d a : BitVec 5) (i : BitVec 12)
  | xori (p : BitVec 3) (d a : BitVec 5) (i : BitVec 12)
  | shli (p : BitVec 3) (d a : BitVec 5) (k : BitVec 6)
  | shri (p : BitVec 3) (d a : BitVec 5) (k : BitVec 6)
  -- vector integer
  | vadd (p : BitVec 3) (d a b : BitVec 5) (t : ITy)
  | vsub (p : BitVec 3) (d a b : BitVec 5) (t : ITy)
  | vmul (p : BitVec 3) (d a b : BitVec 5) (t : ITy)
  | vmulh (p : BitVec 3) (d a b : BitVec 5) (t : ITy)
  | vaddsat (p : BitVec 3) (d a b : BitVec 5) (t : ITy)
  | vsubsat (p : BitVec 3) (d a b : BitVec 5) (t : ITy)
  | vand (p : BitVec 3) (d a b : BitVec 5) (t : ITy)
  | vor (p : BitVec 3) (d a b : BitVec 5) (t : ITy)
  | vxor (p : BitVec 3) (d a b : BitVec 5) (t : ITy)
  | vandn (p : BitVec 3) (d a b : BitVec 5) (t : ITy)
  | vshl (p : BitVec 3) (d a b : BitVec 5) (t : ITy)
  | vshr (p : BitVec 3) (d a b : BitVec 5) (t : ITy)
  | vsra (p : BitVec 3) (d a b : BitVec 5) (t : ITy)
  | vmin (p : BitVec 3) (d a b : BitVec 5) (t : ITy)
  | vmax (p : BitVec 3) (d a b : BitVec 5) (t : ITy)
  | vabs (p : BitVec 3) (d a : BitVec 5) (t : ITy)
  | vneg (p : BitVec 3) (d a : BitVec 5) (t : ITy)
  | vdot4 (p : BitVec 3) (d a b : BitVec 5) (t : ITy) (sat : Bool)
  | vcmp (p : BitVec 3) (d : BitVec 3) (a b : BitVec 5) (t : ITy) (c : ICc)
  | vsel (p : BitVec 3) (d a : BitVec 5) (b : BitVec 3) (t : ITy)
  -- vector float
  | vfadd (p : BitVec 3) (d a b : BitVec 5) (t : FTy) (m : FMod)
  | vfsub (p : BitVec 3) (d a b : BitVec 5) (t : FTy) (m : FMod)
  | vfmul (p : BitVec 3) (d a b : BitVec 5) (t : FTy) (m : FMod)
  | vfma (p : BitVec 3) (d a b : BitVec 5) (t : FTy) (m : FMod)
  | vfms (p : BitVec 3) (d a b : BitVec 5) (t : FTy) (m : FMod)
  | vfnma (p : BitVec 3) (d a b : BitVec 5) (t : FTy) (m : FMod)
  | vfmin (p : BitVec 3) (d a b : BitVec 5) (t : FTy)
  | vfmax (p : BitVec 3) (d a b : BitVec 5) (t : FTy)
  | vfabs (p : BitVec 3) (d a : BitVec 5) (t : FTy)
  | vfneg (p : BitVec 3) (d a : BitVec 5) (t : FTy)
  | vfcmp (p : BitVec 3) (d : BitVec 3) (a b : BitVec 5) (t : FTy) (c : FCc)
  | vfrcp (p : BitVec 3) (d a : BitVec 5) (t : FTy) (m : FMod)
  | vfrsq (p : BitVec 3) (d a : BitVec 5) (t : FTy) (m : FMod)
  | vfsqrt (p : BitVec 3) (d a : BitVec 5) (t : FTy) (m : FMod)
  | vfexp2 (p : BitVec 3) (d a : BitVec 5) (t : FTy) (m : FMod)
  | vflog2 (p : BitVec 3) (d a : BitVec 5) (t : FTy) (m : FMod)
  | vftanh (p : BitVec 3) (d a : BitVec 5) (t : FTy) (m : FMod)
  | vfsinpi (p : BitVec 3) (d a : BitVec 5) (t : FTy) (m : FMod)
  | vfcospi (p : BitVec 3) (d a : BitVec 5) (t : FTy) (m : FMod)
  | vfscale (p : BitVec 3) (d a b : BitVec 5) (t : FTy) (m : FMod)
  | vfdot2 (p : BitVec 3) (d a b : BitVec 5) (t : FTy) (m : FMod)
  -- conversions
  | vcvt (p : BitVec 3) (d a : BitVec 5) (q : BitVec 2) (ts td : FTy) (m : FMod)
  | vcvti (p : BitVec 3) (d a : BitVec 5) (q : Bool) (toFloat : Bool) (f : FTy) (t : ITy) (m : FMod)
  | vpack (p : BitVec 3) (d a b : BitVec 5) (t : FTy) (m : FMod)
  | vunpk (p : BitVec 3) (d a : BitVec 5) (h : Bool) (t : FTy)
  | scvt (p : BitVec 3) (d a : BitVec 5) (k : ScvtKind) (t : FTy) (m : FMod)
  -- predicates
  | vbnd (p : BitVec 3) (d : BitVec 3) (a b : BitVec 5) (t : ITy)
  | pand (p d a b : BitVec 3)
  | por (p d a b : BitVec 3)
  | pxor (p d a b : BitVec 3)
  | pnot (p d a : BitVec 3)
  | pcnt (p : BitVec 3) (d : BitVec 5) (a : BitVec 3)
  | pfirst (p : BitVec 3) (d : BitVec 5) (a : BitVec 3)
  | pset (p d : BitVec 3) (z : BitVec 2) (n : BitVec 9)
  -- reductions, scans, permutations, random numbers, width
  | vrsum (p : BitVec 3) (d a : BitVec 5) (t : RTy)
  | vrmax (p : BitVec 3) (d a : BitVec 5) (t : RTy)
  | vrmin (p : BitVec 3) (d a : BitVec 5) (t : RTy)
  | vramax (p : BitVec 3) (d a : BitVec 5) (t : FTy)
  | vperm (p : BitVec 3) (d a b : BitVec 5) (t : ITy)
  | vbcast (p : BitVec 3) (d a : BitVec 5) (t : ITy)
  | vslide (p : BitVec 3) (d a b : BitVec 5) (t : ITy)
  | vzip (p : BitVec 3) (d a b : BitVec 5) (t : ITy) (h : Bool)
  | vunzip (p : BitVec 3) (d a b : BitVec 5) (t : ITy) (h : Bool)
  | vcomp (p : BitVec 3) (d a : BitVec 5) (b : BitVec 3) (t : ITy)
  | vscan (p : BitVec 3) (d a : BitVec 5) (t : RTy)
  | vmovs (p : BitVec 3) (d a b : BitVec 5) (t : ITy)
  | vins (p : BitVec 3) (d a b : BitVec 5) (t : ITy)
  | rand (p : BitVec 3) (d : BitVec 5) (t : ITy)
  | randf (p : BitVec 3) (d a : BitVec 5) (t : FTy)
  | vwid (p : BitVec 3) (d : BitVec 5) (t : ITy)
  -- the module's other steps: memory and conditions
  | storeDrain (core : Nat)
  | loadReply (th : Nat) (ans : HomeAnswer)
  | syncLoadWake (th : Nat)
  | homeErrorReport (rid : Nat) (code : BitVec 8) (x : StoreName)
  | takeLaterCondition (th : Nat)
  | parkRelease (core : Nat) (resume : BitVec 64)
  | parkAbort (core : Nat)
  | svcReply (th : Nat) (a : SvcAnswer)
  -- dispensers
  | pickup (th : Nat)
  | grantRecord (die : Nat)
  | shadowFill (core : Nat)
  | prefetchDone (core slot : Nat)
  | priorityAging (rid : Nat)
  -- the front end
  | sqDbWrite (q : Nat) (tail : BitVec 16)
  | cqDbWrite (q : Nat) (head : BitVec 16)
  | sqCfgWrite (q : Nat) (value : BitVec 64)
  | cqCfgWrite (q : Nat) (value : BitVec 64)
  | admitLaunch (q : Nat)
  | launchDispatch (launch : Nat)
  | gangPlace (launch : Nat)
  | gangReserve (launch : Nat)
  | postCompletion (q : Nat)
  | tlbiPage (part : Nat) (va : BitVec 40)
  | cqCoalTimer (q : Nat)
  | launchDone (launch : Nat)
  | preemptHold (launch : Nat)
  | preemptRelease (launch : Nat)
  | launchCancel (launch : Nat)
  | tlbiPartition (part : Nat)
  | tlbiDone
  | partCluWrite (die clu : Nat) (value : BitVec 64)
  | registerWrite (bank off : Nat) (value : BitVec 64)
  -- tasks, commit, hedging, search
  | cancelDelivery (launch task exempt : Nat)
  | lineageCancel (die launch task : Nat) (tag : BitVec 64)
  | commitAtHome (id : Nat)
  | commitReply (id : Nat)
  | treadAtHome (id : Nat)
  | treadReply (id : Nat)
  | treadWatchdog (id : Nat)
  | tverReply (th : Nat) (ans : HomeAnswer)
  | stragglerTest (die : Nat)
  | hedgeBudgetRequest (dev launch task attempt : Nat)
  | backupOffer (launch task attempt : Nat) (base : BitVec 32)
  | backupOfferAnswer (launch task attempt : Nat) (accepted : Bool)
  | endNotice (launch : Nat) (status : Nat)
  | hedgeDecay
  | rangeStealRequest (die victim launch : Nat)
  | rangeStealAnswer (die launch lo hi : Nat)
  | idleScan (th : Nat)
  | theft (th victim : Nat)
  | thiefBlockRequest (die launch task : Nat)
  | thiefBlockGrant (die launch task : Nat) (block : Nat)
  -- barriers, engines, messages
  | barrierComplete (launch level inst : Nat)
  | barrierWatchdog (launch level inst : Nat)
  | copyPiece (op : Nat) (p : PieceAnswer)
  | copyDone (op : Nat)
  | schedEntry (launch idx : Nat)
  | mxeJobStart (clu : Nat)
  | mxeJobDone (clu : Nat)
  | latchArrive (clu : Nat)
  | mxcmdAccept (id : Nat)
  | msgDeliver (m : MsgArrival)
  | fillerBurst (clu : Nat)
  -- ropes, clocks and power
  | patternChange (die : Nat)
  | ropePolWrite (rope : Nat) (value : BitVec 64)
  | ropeImbRefresh (rope : RopeSupply) (i0 i1 i2 i3 : Nat)
  | ropePolicyEngage (rope : Nat)
  | throtEscalate (rope : Nat)
  | ropePolicyDisengage (rope : Nat)
  | railSample (rope v0 v1 v2 v3 : Nat)
  | writeAssistChange (rope : Nat)
  | ropeClamp (rope cause : Nat)
  | ropeUnclamp (rope : Nat)
  | ropeLost (rope : Nat)
  | ropeHotChange (rope temp : Nat)
  | ropeOvbChange (rope power : Nat)
  | moduleCapInterval (watts : Nat)
  | floorAccount (launch : Nat)
  | hbmThermalChange (die stack temp : Nat)
  -- errors, dies and trips
  | eccError (die array inst row unit : Nat) (correctable : Bool)
  | eccWindow (die : Nat)
  | ccRecovery (die array : Nat)
  | ccRecoveryDone (die : Nat) (e : RecoveryEnd)
  | dieLost (die cause : Nat)
  | moduleTrip (thermal : Bool)
  -- host, bring-up
  | cxlMemAccess (off len : Nat) (store : Option Nat)
  | spdmGetMeasurements (i : MeasIndex)
  | powerUp
  | bootGo
  | verifyDone
  | bringupReduced
  | bringupFull (failed : FailedDies)
  | bringupDieTimeout (die : Nat) (hbm : Bool)
  -- fabric, cuts
  | iluCfgWrite (value : BitVec 64)
  | iluRouteWrite (dev : Nat) (value : BitVec 64)
  | flitReceive (port : Nat) (f : Flit)
  | wavelengthLeave (port : Nat) (l : LamErrors)
  | wavelengthRejoin (port lam : Nat)
  | wavelengthFailed (port lam : Nat)
  | portDark (port : Nat)
  | portLinkUp (port peer allowance lam : Nat)
  | darkPortTimeout (port : Nat)
  | backupUnreachable (b : AttemptName)
  | cutGo (id grp : Nat)
  | belayMarker (port id init grp : Nat)
  | cutRel
  | cutAbort
  -- bivouac
  | bivEnter (grp : Nat)
  | bivWriteback
  | bivForcedStop (th : Nat)
  | bivFlush
  | bivSelfref
  | bivEntryFail
  | bivResume
  | bivRestore
  | bivReplay
  | bivWakeFail
  -- Ethernet
  | ethqCfgWrite (port q : Nat) (value : BitVec 64)
  | ethqPtrWrite (port q : Nat) (value : BitVec 64)
  | ethDescriptorFetch (port q : Nat)
  | ethFrameSent (port q : Nat)
  | ethFrameReceived (port : Nat) (frame : List (BitVec 8)) (fcsOk : Bool)
  | ethLinkDown (port : Nat)
  | reservedCodeDecode (e : DecodeErr) (bundle : BitVec 64)
  | barrierNetworkFault (launch level inst : Nat)
  | hedgeBudgetAnswer (launch task attempt : Nat) (granted : Option Nat)
  | backupEndCharge (b : AttemptName) (cycles : Nat)
  | cxlCacheSnoop (h : HostLine) (invalidate : Bool)
  | ethLinkUp (port : Nat)
  | pauseFrameReceived (port : Nat) (pfc : Option (BitVec 8)) (quanta : Nat)
  | pauseHoldExpiry (port : Nat)
  | virtualDieRemap (vdie pdie : Nat)
  deriving DecidableEq, Repr

/-- A bundle (R181, R182): the wait count of its lead word, the lead instruction and the arithmetic
instruction. A lone bundle has `arithNop` here and its literal inside the lead instruction (R185). -/
structure Bundle where
  wait : BitVec 3
  lead : Instr
  arith : Instr
  deriving DecidableEq, Repr

end Sys2Proof
end

