-- ==== Sys2Proof/WellFormed.lean ====
section
/-! DEFINITION. Which instructions and bundles are well formed: exactly the operand values that no
decode rule refuses (R185, R194-R198, R206, R245, R285, R305), and for the event rows the ranges of
the module's numbers (R5). -/
namespace Sys2Proof

/-- Codes 0 to 5 of `bc` test a scalar (R202). -/
def BCond.scalar : BCond → Bool
  | .pany | .pall | .pnone => false
  | _ => true

/-- Width in bits of an integer type (R159). -/
def ITy.bits : ITy → Nat
  | .i32 | .w32 => 32
  | .i16 | .w16 => 16
  | .i8 | .w8 => 8
  | .i64 => 64

/-- The i types are signed, the w types unsigned (R159). -/
def ITy.signed : ITy → Bool
  | .i32 | .i16 | .i8 | .i64 => true
  | .w32 | .w16 | .w8 => false

/-- i64 is for scalar instructions only (R197). -/
def ITy.vec : ITy → Bool
  | .i64 => false
  | _ => true

/-- Width in bits of a float format (R157, R160). -/
def FTy.bits : FTy → Nat
  | .f32 => 32
  | .bf16 | .f16 => 16
  | .e4m3 | .e5m2 | .pw8 => 8

/-- The types of the vector float instructions (R257). -/
def FTy.arith : FTy → Bool
  | .f32 | .bf16 | .f16 => true
  | _ => false

/-- The types of a reduction (R273). -/
def RTy.reduce : RTy → Bool
  | .f t => t.arith
  | .i t => t.vec

/-- The types of `vscan` (R274). -/
def RTy.scan : RTy → Bool
  | .f t => t == .f32
  | .i t => t.vec

/-- 4 and 8 bytes: the element sizes of gathers and scatters (R290). -/
def ESz.wide : ESz → Bool
  | .e4 | .e8 => true
  | _ => false

/-- A literal that carries a live-map index or a service number holds it in [15:0] (R208). -/
def Imm.lit16 {n : Nat} : Imm n → Bool
  | .imm _ => true
  | .lit v => decide (v.toNat < 65536)

/-- The value comes from the literal of a lone bundle. -/
def Imm.isLit {n : Nat} : Imm n → Bool
  | .imm _ => false
  | .lit _ => true

/-- A field named k names s[k], s[k+1] and s[k+2] (R305). -/
def kTriple (k : BitVec 5) : Bool := decide (1 ≤ k.toNat ∧ k.toNat ≤ 29)

/-- How many parts a conversion between elements of `a` and `b` bits has (R263). -/
def ratio (a b : Nat) : Nat := if a < b then b / a else a / b

/-- The width pairs of `vcvti` (R265). -/
def widthPair (a b : Nat) : Bool := a == b || a == 2 * b || b == 2 * a

/-- `p` of the value, if there is one. -/
def optAll {α : Type} (o : Option α) (p : α → Bool) : Bool :=
  match o with
  | none => true
  | some a => p a

/-- The instruction has no operand value that its reference refuses. -/
def Instr.wf : Instr → Bool
  | .nop => true
  | .bra _ => true
  | .bc c r _ => c.scalar || decide (r < 8)
  | .call _ => true
  | .calli _ _ => true
  | .ret _ => true
  | .jmpi _ => true
  | .rep creg cnt _ _ _ _ => creg == 0 || cnt == 0
  | .yield map => map.lit16
  | .safe map => map.lit16
  | .endCont => true
  | .work _ _ => true
  | .wait _ => true
  | .ftest _ _ => true
  | .fcancel _ => true
  | .fget _ _ => true
  | .fput _ _ => true
  | .tryChoice _ b n _ => b == 0 || n == 0
  | .fail => true
  | .cut d depth => if d == 0 then decide (depth ≤ 255) else depth == 0
  | .mark _ => true
  | .commit _ _ _ => true
  | .tread _ _ _ _ _ => true
  | .tver _ _ => true
  | .quit => true
  | .svc _ n => n.lit16
  | .lit _ _ => true
  | .lithi _ _ => true
  | .vlit d _ => d != 31
  | .ldW8 _ _ _ => true
  | .ldI8 _ _ _ => true
  | .ldW16 _ _ _ => true
  | .ldI16 _ _ _ => true
  | .ldW32 _ _ _ => true
  | .ldI32 _ _ _ => true
  | .ldW64 .. => true
  | .stW8 _ _ _ => true
  | .stW16 _ _ _ => true
  | .stW32 _ _ _ => true
  | .stW64 _ _ _ => true
  | .ldx _ _ _ _ _ _ => true
  | .stx _ _ _ _ _ _ => true
  | .vld d _ _ => d != 31
  | .vst _ _ _ => true
  | .vlds d _ _ _ _ _ => d != 31
  | .vsts _ _ _ _ _ _ => true
  | .vgat d _ _ e _ _ => d != 31 && e.wide
  | .vsct _ _ _ e _ _ => e.wide
  | .vldb d _ _ _ _ => d != 31
  | .ldsync _ _ _ _ => true
  | .vldsync d _ _ => d != 31
  | .stfull _ _ _ => true
  | .vstfull _ _ _ => true
  | .femp _ _ _ => true
  | .ldacq _ _ _ _ _ => true
  | .strel _ _ _ _ _ => true
  | .afadd _ _ _ _ _ _ => true
  | .afmin _ _ _ _ _ _ => true
  | .afmax _ _ _ _ _ _ => true
  | .afand _ _ _ _ _ _ => true
  | .afor .. => true
  | .afxor _ _ _ _ _ _ => true
  | .aswap _ _ _ _ _ _ => true
  | .affadd _ _ _ _ _ => true
  | .acas _ _ _ _ _ _ _ => true
  | .pref _ _ _ => true
  | .pin _ _ _ _ _ => true
  | .unpin _ _ _ _ => true
  | .cflush _ _ _ => true
  | .cinv _ _ _ => true
  | .copy _ _ _ _ fl => optAll fl fun f => f.dk || f.dcl == 0
  | .copy2 _ _ _ k fl => kTriple k && optAll fl fun f => f.dk || f.dcl == 0
  | .copym _ _ _ _ fl => optAll fl fun f => f.dcl == 0
  | .stage _ => true
  | .mxld _ _ _ => true
  | .mxmm _ _ _ code _ => decide (code ≤ 8)
  | .mxsp _ _ _ _ _ => true
  | .mxgrp _ _ _ k _ => kTriple k
  | .mxrot _ _ => true
  | .mxrd _ _ _ _ _ => true
  | .mxclr _ _ _ => true
  | .mxmeta _ _ _ _ _ => true
  | .mxcmd _ _ _ _ => true
  | .msg _ _ _ _ _ => true
  | .recv _ _ => true
  | .bar level map => map.lit16 && decide (1 ≤ level ∧ level ≤ 4)
  | .barl => true
  | .fence _ => true
  | .gets _ n => decide (n < 0x1E)
  | .puts _ n => decide (n < 0x1E)
  | .hand _ _ => true
  | .hret _ => true
  | .rseed _ _ => true
  | .park _ => true
  | .arithNop => true
  | .add _ _ _ _ _ => true
  | .sub _ _ _ _ _ => true
  | .mul _ _ _ _ _ => true
  | .mulh _ _ _ _ _ => true
  | .div .. => true
  | .rem _ _ _ _ _ => true
  | .and _ _ _ _ _ => true
  | .or _ _ _ _ _ => true
  | .xor _ _ _ _ _ => true
  | .andn _ _ _ _ _ => true
  | .shl .. => true
  | .shr _ _ _ _ _ => true
  | .sra _ _ _ _ _ => true
  | .rot _ _ _ _ _ => true
  | .min _ _ _ _ _ => true
  | .max _ _ _ _ _ => true
  | .set .. => true
  | .sel _ _ _ _ _ => true
  | .adds _ _ _ _ _ => true
  | .clz _ _ _ _ => true
  | .popc _ _ _ _ => true
  | .bext _ _ _ _ _ => true
  | .bins _ _ _ _ _ => true
  | .mov _ _ _ _ => true
  | .addi _ _ _ _ => true
  | .andi _ _ _ _ => true
  | .ori _ _ _ _ => true
  | .xori .. => true
  | .shli _ _ _ _ => true
  | .shri _ _ _ _ => true
  | .vadd _ _ _ _ t => t.vec
  | .vsub _ _ _ _ t => t.vec
  | .vmul _ _ _ _ t => t.vec
  | .vmulh _ _ _ _ t => t.vec
  | .pand .. => true
  | .vaddsat _ _ _ _ t => t.vec
  | .vsubsat _ _ _ _ t => t.vec
  | .vand _ _ _ _ t => t.vec
  | .vor _ _ _ _ t => t.vec
  | .vxor _ _ _ _ t => t.vec
  | .por .. => true
  | .vandn _ _ _ _ t => t.vec
  | .vshl _ _ _ _ t => t.vec
  | .vshr _ _ _ _ t => t.vec
  | .vsra _ _ _ _ t => t.vec
  | .vmin _ _ _ _ t => t.vec
  | .pxor .. => true
  | .vmax _ _ _ _ t => t.vec
  | .vabs _ _ _ t => t.vec
  | .vneg _ _ _ t => t.vec
  | .vdot4 _ _ _ _ t _ => t == .i8 || t == .w8
  | .vcmp _ _ _ _ t _ => t.vec
  | .vsel _ _ _ _ t => t.vec
  | .vfadd _ _ _ _ t _ => t.arith
  | .vfsub _ _ _ _ t _ => t.arith
  | .vfmul _ _ _ _ t _ => t.arith
  | .vfma _ _ _ _ t _ => t.arith
  | .pnot .. => true
  | .vfms _ _ _ _ t _ => t.arith
  | .vfnma _ _ _ _ t _ => t.arith
  | .vfmin _ _ _ _ t => t.arith
  | .vfmax _ _ _ _ t => t.arith
  | .vfabs _ _ _ t => t.arith
  | .vfneg _ _ _ t => t.arith
  | .vfcmp _ _ _ _ t _ => t.arith
  | .vfrcp _ _ _ t _ => t.arith
  | .vfrsq _ _ _ t _ => t.arith
  | .vfsqrt _ _ _ t _ => t.arith
  | .vfexp2 _ _ _ t _ => t.arith
  | .pcnt .. => true
  | .vflog2 _ _ _ t _ => t.arith
  | .vftanh _ _ _ t _ => t.arith
  | .vfsinpi _ _ _ t _ => t.arith
  | .vfcospi _ _ _ t _ => t.arith
  | .vfscale _ _ _ _ t _ => t.arith
  | .vfdot2 _ _ _ _ t _ => t == .bf16 || t == .f16
  | .vcvt _ _ _ q ts td _ => decide (q.toNat < ratio ts.bits td.bits)
  | .vcvti _ _ _ q toFloat f t m => widthPair f.bits t.bits && t.vec && (!q || f.bits != t.bits) && (toFloat || !m.sat)
  | .vpack _ _ _ _ t _ => t != .f32
  | .vunpk _ _ _ _ t => t != .f32
  | .scvt _ _ _ k _ m => k != .toI64 || !m.sat
  | .vbnd _ _ _ _ t => t.vec
  | .pfirst _ _ _ => true
  | .pset _ _ _ n => decide (n ≤ 256)
  | .vrsum _ _ _ t => t.reduce
  | .vrmax _ _ _ t => t.reduce
  | .vrmin _ _ _ t => t.reduce
  | .vramax _ _ _ t => t.arith
  | .vperm _ _ _ _ t => t.vec
  | .vbcast _ _ _ t => t.vec
  | .vslide _ _ _ _ t => t.vec
  | .vzip _ _ _ _ t _ => t.vec
  | .vunzip _ _ _ _ t _ => t.vec
  | .vcomp _ _ _ _ t => t.vec
  | .vscan _ _ _ t => t.scan
  | .vmovs _ _ _ _ t => t.vec
  | .vins _ _ _ _ t => t.vec
  | .rand _ _ t => t == .w32 || t == .i32 || t == .i64
  | .randf _ _ _ t => t.arith
  | .vwid _ _ t => t.vec
  | .storeDrain core => decide (core < 1024)
  | .loadReply th _ => decide (th < 4096)
  | .syncLoadWake th => decide (th < 4096)
  | .homeErrorReport _ _ _ => true
  | .takeLaterCondition th => decide (th < 4096)
  | .parkRelease core _ => decide (core < 1024)
  | .parkAbort core => decide (core < 1024)
  | .svcReply th _ => decide (th < 4096)
  | .pickup th => decide (th < 4096)
  | .grantRecord die => decide (die < 8)
  | .shadowFill core => decide (core < 1024)
  | .prefetchDone core slot => decide (core < 1024) && decide (slot < 2)
  | .priorityAging _ => true
  | .sqDbWrite q _ => decide (q < 64)
  | .cqDbWrite q _ => decide (q < 64)
  | .sqCfgWrite q _ => decide (q < 64)
  | .cqCfgWrite q _ => decide (q < 64)
  | .admitLaunch q => decide (q < 64)
  | .launchDispatch _ => true
  | .gangPlace _ => true
  | .gangReserve _ => true
  | .postCompletion q => decide (q < 64)
  | .cqCoalTimer q => decide (q < 64)
  | .launchDone _ => true
  | .preemptHold _ => true
  | .preemptRelease _ => true
  | .launchCancel _ => true
  | .tlbiPage part _ => decide (part < 64)
  | .tlbiPartition part => decide (part < 64)
  | .tlbiDone => true
  | .partCluWrite die clu _ => decide (die < 8) && decide (clu < 16)
  | .registerWrite bank _ _ => decide (bank < 2)
  | .cancelDelivery _ _ _ => true
  | .lineageCancel die _ _ _ => decide (die < 8)
  | .commitAtHome _ => true
  | .commitReply _ => true
  | .treadAtHome _ => true
  | .treadReply _ => true
  | .treadWatchdog _ => true
  | .tverReply th _ => decide (th < 4096)
  | .stragglerTest die => decide (die < 8)
  | .hedgeBudgetRequest _ _ _ _ => true
  | .backupOffer _ _ _ _ => true
  | .backupOfferAnswer _ _ _ _ => true
  | .endNotice _ _ => true
  | .hedgeDecay => true
  | .rangeStealRequest die victim _ => decide (die < 8) && decide (victim < 64)
  | .rangeStealAnswer die _ _ _ => decide (die < 8)
  | .idleScan th => decide (th < 4096)
  | .theft th victim => decide (th < 4096) && decide (victim < 4096)
  | .thiefBlockRequest die _ _ => decide (die < 8)
  | .thiefBlockGrant die _ _ _ => decide (die < 8)
  | .barrierComplete _ _ _ => true
  | .barrierWatchdog _ _ _ => true
  | .copyPiece _ _ => true
  | .copyDone _ => true
  | .schedEntry _ _ => true
  | .mxeJobStart clu => decide (clu < 128)
  | .mxeJobDone clu => decide (clu < 128)
  | .latchArrive clu => decide (clu < 128)
  | .mxcmdAccept _ => true
  | .msgDeliver _ => true
  | .fillerBurst clu => decide (clu < 128)
  | .patternChange die => decide (die < 8)
  | .ropePolWrite rope _ => decide (rope < 32)
  | .ropeImbRefresh x _ _ _ _ => decide (x.rope < 32)
  | .ropePolicyEngage rope => decide (rope < 32)
  | .throtEscalate rope => decide (rope < 32)
  | .ropePolicyDisengage rope => decide (rope < 32)
  | .railSample rope _ _ _ _ => decide (rope < 32)
  | .writeAssistChange rope => decide (rope < 32)
  | .ropeClamp rope _ => decide (rope < 32)
  | .ropeUnclamp rope => decide (rope < 32)
  | .ropeLost rope => decide (rope < 32)
  | .ropeHotChange rope _ => decide (rope < 32)
  | .ropeOvbChange rope _ => decide (rope < 32)
  | .moduleCapInterval _ => true
  | .floorAccount _ => true
  | .hbmThermalChange die stack _ => decide (die < 8) && decide (stack < 2)
  | .eccError die array _ _ unit _ => decide (die < 9) && decide (array < 16) && decide (unit < 8)
  | .eccWindow die => decide (die < 9)
  | .ccRecovery die _ => decide (die < 9)
  | .ccRecoveryDone die _ => decide (die < 9)
  | .dieLost die _ => decide (die < 8)
  | .moduleTrip _ => true
  | .cxlMemAccess _ _ _ => true
  | .spdmGetMeasurements _ => true
  | .powerUp => true
  | .bootGo => true
  | .verifyDone => true
  | .bringupReduced => true
  | .bringupFull _ => true
  | .bringupDieTimeout die _ => decide (die < 8)
  | .iluCfgWrite _ => true
  | .iluRouteWrite _ _ => true
  | .flitReceive port _ => decide (port < 64)
  | .wavelengthLeave port l => decide (port < 64) && decide (l.lam < 8)
  | .wavelengthRejoin port lam => decide (port < 64) && decide (lam < 8)
  | .wavelengthFailed port lam => decide (port < 64) && decide (lam < 8)
  | .portDark port => decide (port < 64)
  | .portLinkUp port _ _ lam => decide (port < 64) && decide (lam ≤ 8)
  | .darkPortTimeout port => decide (port < 64)
  | .backupUnreachable _ => true
  | .cutGo _ _ => true
  | .belayMarker port _ _ _ => decide (port < 64)
  | .cutRel => true
  | .cutAbort => true
  | .bivEnter _ => true
  | .bivWriteback => true
  | .bivForcedStop th => decide (th < 4096)
  | .bivFlush => true
  | .bivSelfref => true
  | .bivEntryFail => true
  | .bivResume => true
  | .bivRestore => true
  | .bivReplay => true
  | .bivWakeFail => true
  | .ethqCfgWrite port q _ => decide (port < 8) && decide (q < 16)
  | .ethqPtrWrite port q _ => decide (port < 8) && decide (q < 16)
  | .ethDescriptorFetch port q => decide (port < 8) && decide (q < 16)
  | .ethFrameSent port q => decide (port < 8) && decide (q < 16)
  | .ethFrameReceived port _ _ => decide (port < 8)
  | .ethLinkDown port => decide (port < 8)
  | .reservedCodeDecode _ _ => true
  | .barrierNetworkFault _ _ _ => true
  | .hedgeBudgetAnswer _ _ _ _ => true
  | .backupEndCharge _ _ => true
  | .cxlCacheSnoop _ _ => true
  | .ethLinkUp port => decide (port < 8)
  | .pauseFrameReceived port _ _ => decide (port < 8)
  | .pauseHoldExpiry port => decide (port < 8)
  | .virtualDieRemap vdie pdie => decide (vdie < 8) && decide (pdie < 8)

/-- The rows with a lead word (R202-R204). -/
def Instr.isLead : Instr → Bool
  | .nop | .bra .. | .bc .. | .call .. | .calli .. | .ret .. | .jmpi .. | .rep .. | .yield .. | .safe .. | .endCont
  | .work .. | .wait .. | .ftest .. | .fcancel .. | .fget .. | .fput .. | .tryChoice .. | .fail | .cut .. | .mark ..
  | .commit .. | .tread .. | .tver .. | .quit | .svc .. | .lit .. | .lithi .. | .vlit .. | .ldW8 .. | .ldI8 ..
  | .ldW16 .. | .ldI16 .. | .ldW32 .. | .ldI32 .. | .ldW64 _ _ _ | .stW8 .. | .stW16 .. | .stW32 .. | .stW64 ..
  | .ldx .. | .stx .. | .vld .. | .vst .. | .vlds .. | .vsts .. | .vgat _ _ _ _ _ _ | .vsct .. | .vldb ..
  | .ldsync .. | .vldsync .. | .stfull .. | .vstfull .. | .femp .. | .ldacq .. | .strel .. | .afadd ..
  | .afmin _ _ _ _ _ _ | .afmax .. | .afand .. | .afor .. | .afxor .. | .aswap .. | .affadd .. | .acas .. | .pref ..
  | .pin .. | .unpin .. | .cflush _ _ _ | .cinv .. | .copy .. | .copy2 .. | .copym .. | .stage .. | .mxld ..
  | .mxmm .. | .mxsp .. | .mxgrp .. | .mxrot .. | .mxrd _ _ _ _ _ | .mxclr .. | .mxmeta .. | .mxcmd .. | .msg ..
  | .recv .. | .bar .. | .barl | .fence .. | .gets .. | .puts .. | .hand .. | .hret .. | .rseed .. | .park .. => true
  | _ => false

/-- The rows with an arithmetic word (R205). -/
def Instr.isArith : Instr → Bool
  | .arithNop | .add .. | .sub .. | .mul .. | .mulh .. | .div .. | .rem .. | .and .. | .or .. | .xor .. | .andn ..
  | .shl _ _ _ _ _ | .shr .. | .sra .. | .rot .. | .min .. | .max .. | .set .. | .sel .. | .adds .. | .clz ..
  | .popc .. | .bext _ _ _ _ _ | .bins .. | .mov .. | .addi .. | .andi .. | .ori .. | .xori .. | .shli .. | .shri ..
  | .vadd .. | .vsub .. | .vmul _ _ _ _ _ | .vmulh .. | .vaddsat .. | .vsubsat .. | .vand .. | .vor .. | .vxor ..
  | .vandn .. | .vshl .. | .vshr .. | .vsra .. | .vmin _ _ _ _ _ | .vmax .. | .vabs .. | .vneg .. | .vdot4 ..
  | .vcmp .. | .vsel .. | .vfadd .. | .vfsub .. | .vfmul .. | .vfma .. | .vfms _ _ _ _ _ _ | .vfnma .. | .vfmin ..
  | .vfmax .. | .vfabs .. | .vfneg .. | .vfcmp .. | .vfrcp .. | .vfrsq .. | .vfsqrt .. | .vfexp2 ..
  | .vflog2 _ _ _ _ _ | .vftanh .. | .vfsinpi .. | .vfcospi .. | .vfscale .. | .vfdot2 .. | .vcvt .. | .vcvti ..
  | .vpack .. | .vunpk .. | .scvt .. | .vbnd _ _ _ _ _ | .pand .. | .por .. | .pxor .. | .pnot .. | .pcnt ..
  | .pfirst .. | .pset .. | .vrsum .. | .vrmax .. | .vrmin .. | .vramax _ _ _ _ | .vperm .. | .vbcast .. | .vslide ..
  | .vzip .. | .vunzip .. | .vcomp .. | .vscan .. | .vmovs .. | .vins .. | .rand .. | .randf _ _ _ _ | .vwid .. => true
  | _ => false

/-- The bundle of this lead instruction is lone: its word 1 is a literal (R182, R185). -/
def Instr.isLone : Instr → Bool
  | .bra x => x.isLit
  | .bc _ _ x => x.isLit
  | .call x => x.isLit
  | .yield x => x.isLit
  | .safe x => x.isLit
  | .work _ x => x.isLit
  | .tryChoice .. => true
  | .commit .. => true
  | .tread .. => true
  | .svc _ x => x.isLit
  | .lit _ x => x.isLit
  | .lithi _ x => x.isLit
  | .vlit _ x => x.isLit
  | .ldW8 _ _ x => x.isLit
  | .ldI8 _ _ x => x.isLit
  | .ldW16 _ _ x => x.isLit
  | .ldI16 _ _ x => x.isLit
  | .ldW32 _ _ x => x.isLit
  | .acas .. => true
  | .ldI32 _ _ x => x.isLit
  | .ldW64 _ _ x => x.isLit
  | .stW8 _ _ x => x.isLit
  | .stW16 _ _ x => x.isLit
  | .stW32 _ _ x => x.isLit
  | .ldx _ _ _ _ _ x => x.isSome
  | .stW64 _ _ x => x.isLit
  | .stx _ _ _ _ _ x => x.isSome
  | .vld _ _ x => x.isLit
  | .vst _ _ x => x.isLit
  | .vlds _ _ _ _ _ x => x.isSome
  | .vsts _ _ _ _ _ x => x.isSome
  | .vgat _ _ _ _ _ x => x.isSome
  | .vsct _ _ _ _ _ x => x.isSome
  | .mxcmd .. => true
  | .vldb _ _ _ _ x => x.isSome
  | .ldsync _ _ _ x => x.isSome
  | .vldsync _ _ x => x.isLit
  | .stfull _ _ x => x.isLit
  | .vstfull _ _ x => x.isLit
  | .femp _ _ x => x.isSome
  | .ldacq _ _ _ _ x => x.isSome
  | .strel _ _ _ _ x => x.isSome
  | .afadd _ _ _ _ _ x => x.isSome
  | .afmin _ _ _ _ _ x => x.isSome
  | .afmax _ _ _ _ _ x => x.isSome
  | .afand _ _ _ _ _ x => x.isSome
  | .mxrot _ x => x
  | .afor _ _ _ _ _ x => x.isSome
  | .afxor _ _ _ _ _ x => x.isSome
  | .aswap _ _ _ _ _ x => x.isSome
  | .affadd _ _ _ _ x => x.isSome
  | .pref _ _ x => x.isSome
  | .pin _ _ _ _ x => x.isSome
  | .unpin _ _ _ x => x.isSome
  | .cflush _ _ x => x.isSome
  | .cinv _ _ x => x.isSome
  | .copy _ _ _ _ x => x.isSome
  | .copy2 _ _ _ _ x => x.isSome
  | .copym _ _ _ _ x => x.isSome
  | .mxld _ _ x => x.isSome
  | .mxmm _ _ _ _ x => x.isSome
  | .mxsp _ _ _ _ x => x.isSome
  | .mxgrp _ _ _ _ x => x.isSome
  | .mxrd _ _ _ _ x => x
  | .mxclr _ _ x => x
  | .mxmeta _ _ _ _ x => x
  | .msg _ _ _ _ x => x.isSome
  | .bar _ x => x.isLit
  | _ => false

/-- A well-formed bundle: a lead instruction beside an arithmetic one; a lone bundle and a `rep`
bundle have no arithmetic instruction (R182, R185, R200). -/
def Bundle.wf (b : Bundle) : Bool :=
  b.lead.isLead && b.lead.wf && b.arith.isArith && b.arith.wf &&
    (!b.lead.isLone || b.arith == .arithNop) &&
    (match b.lead with | .rep .. => b.arith == .arithNop | _ => true)

end Sys2Proof
end

