-- ==== Sys2Proof/Machine/Operands.lean ====
section
/-! DEFINITION. Operand forms: integer values of typed operands, elements of vectors, predicate lanes,
immediates and literals (R159, R185, R196, R207, R243). -/
namespace Sys2Proof

/-- The access size of a scalar load, and whether it is sign-extended (R285, R286). -/
def LdSz.bytes : LdSz → Nat
  | .w8 | .i8 => 1
  | .w16 | .i16 => 2
  | .w32 | .i32 => 4
  | .w64 => 8

def LdSz.signed : LdSz → Bool
  | .i8 | .i16 | .i32 => true
  | _ => false

def ESz.bytes : ESz → Nat
  | .e1 => 1
  | .e2 => 2
  | .e4 => 4
  | .e8 => 8

def ATy.bytes : ATy → Nat
  | .w32 | .i32 => 4
  | .w64 | .i64 => 8

def ATy.ity : ATy → ITy
  | .w32 => .w32
  | .i32 => .i32
  | .w64 | .i64 => .i64

def ATy.signed : ATy → Bool
  | .i32 | .i64 => true
  | _ => false

/-- The number of a scope code: scopes nest in its order (R132). -/
def Scope.num : Scope → Nat
  | .core => 0 | .clu => 1 | .die => 2 | .mod => 3 | .fab => 4 | .sys => 5

/-- `.mod` and wider (R137). -/
def Scope.wide (s : Scope) : Bool := decide (3 ≤ s.num)

end Sys2Proof

namespace Sys2Proof.Machine
open Sys2Proof

/-! Integers of a type (R243). -/

/-- `Lo(x, n)`. -/
def lo (n x : Nat) : Nat := x % 2 ^ n

/-- The low n bits of an integer: wrapping modulo 2^n (R159). -/
def wrapN (n : Nat) (x : Int) : Nat := (x % (2 : Int) ^ n).toNat

/-- The low n bits read in two's complement. -/
def sval (n x : Nat) : Int := if lo n x < 2 ^ (n - 1) then (lo n x : Int) else (lo n x : Int) - (2 : Int) ^ n

/-- `Val(x, T)`. -/
def tval (t : ITy) (x : Nat) : Int := if t.signed then sval t.bits x else (lo t.bits x : Int)

/-- `Ext(x, T)` for an exact result x: its low n bits, extended by T. -/
def text (t : ITy) (x : Int) : Word := BitVec.ofInt 64 (tval t (wrapN t.bits x))

/-- The least and the greatest value of an integer type (R159). -/
def tmin (t : ITy) : Int := if t.signed then -((2 : Int) ^ (t.bits - 1)) else 0
def tmax (t : ITy) : Int := if t.signed then (2 : Int) ^ (t.bits - 1) - 1 else (2 : Int) ^ t.bits - 1

/-- Clamp to a range. -/
def clampI (l h x : Int) : Int := if x < l then l else if h < x then h else x

/-- `Sat(x, T)` of an integer type (R165). -/
def tsat (t : ITy) (x : Int) : Int := clampI (tmin t) (tmax t) x

/-- Shift right, filling with bit n - 1. -/
def sraN (n x k : Nat) : Int := sval n x / (2 : Int) ^ k

/-- Rotate right within n bits. -/
def rotN (n x k : Nat) : Nat := lo n (lo n x / 2 ^ k + lo n x * 2 ^ (n - k))

/-- The number of one bits among the low n bits. -/
def popN : Nat → Nat → Nat
  | 0, _ => 0
  | n + 1, x => (if x.testBit n then 1 else 0) + popN n x

/-- The number of leading zero bits of the low n bits. -/
def clzN : Nat → Nat → Nat
  | 0, _ => 0
  | n + 1, x => if x.testBit n then 0 else clzN n x + 1

/-- The index of the lowest set bit at or above `i`, looking at `n` bits. -/
def firstBit (x : Nat) : Nat → Nat → Option Nat
  | 0, _ => none
  | n + 1, i => if x.testBit i then some i else firstBit x n (i + 1)

/-- Bits [2n-1:n] of the exact product (R248). -/
def mulhI (n : Nat) (x y : Int) : Int := (x * y) / (2 : Int) ^ n

/-- The bit of a scalar that a scalar instruction's governing predicate gives it (R196). -/
def predOn (p : Pred) : Bool := p.getLsbD 0

/-! Elements of vectors (R243): element i of width n is bits [n×i+n-1 : n×i]. -/

/-- Build `n` elements of `w` bits from a function of the index. -/
def packN (w : Nat) (f : Nat → Nat) : Nat → Nat
  | 0 => 0
  | n + 1 => packN w f n + (f n % 2 ^ w) * 2 ^ (w * n)

/-- `el(x, i)` of width w. -/
def elN (w x i : Nat) : Nat := x / 2 ^ (w * i) % 2 ^ w

def vel (w : Nat) (x : Vec) (i : Nat) : Nat := elN w x.toNat i

/-- The number of elements of width w (R243). -/
def vcount (w : Nat) : Nat := 2048 / w

/-- `active(i)` for elements of w bits (R196). -/
def active (p : Pred) (w i : Nat) : Bool := p.toNat.testBit (i * (w / 8))

/-- A vector with element i given by `f` where the element is active, else the old element (R196). -/
def vmask (w : Nat) (p : Pred) (old : Vec) (f : Nat → Nat) : Vec :=
  BitVec.ofNat 2048 (packN w (fun i => if active p w i then f i else vel w old i) (vcount w))

/-- A predicate whose bits i×z .. i×z+z-1 are `active(i) AND c i` (R255). -/
def pmask (w : Nat) (p : Pred) (c : Nat → Bool) : Pred :=
  BitVec.ofNat 256 (packN (w / 8) (fun i => if active p w i && c i then 2 ^ (w / 8) - 1 else 0) (vcount w))

/-! Immediates and literals. -/

/-- The immediate, sign-extended: SX(imm, n), or SX(lit32, 32) in a lone bundle (R185, R207). -/
def immS {n : Nat} : Imm n → Word
  | .imm v => v.signExtend 64
  | .lit v => v.signExtend 64

/-- The immediate, zero-extended. -/
def immU {n : Nat} : Imm n → Nat
  | .imm v => v.toNat
  | .lit v => v.toNat

/-- The live-map index or service number of a literal or immediate, in its low 16 bits (R208). -/
def immMap {n : Nat} (i : Imm n) : Nat := immU i % 65536

/-- `off` of an LM form: SX(offset10, 10) × z, or SX(lit32, 32) unscaled (R192, R283). -/
def offLM (z : Nat) : Imm 10 → Word
  | .imm v => v.signExtend 64 * BitVec.ofNat 64 z
  | .lit v => v.signExtend 64

/-- `off` of an LR or LE form: 0, or SX(lit32, 32) in a lone bundle (R283). -/
def offLR : Option (BitVec 32) → Word
  | none => 0
  | some v => v.signExtend 64

/-- `Val(x, T)` of an atomic type (R297). -/
def atval (t : ATy) (x : Nat) : Int := if t.signed then sval (8 * t.bytes) x else (lo (8 * t.bytes) x : Int)

/-- `Ext` of a loaded value of `z` bytes (R286). -/
def extLoad (z : Nat) (sg : Bool) (x : Nat) : Word :=
  if sg then BitVec.ofInt 64 (sval (8 * z) x) else BitVec.ofNat 64 (lo (8 * z) x)

end Sys2Proof.Machine
end

