-- ==== Sys2Proof/Machine/Flags.lean ====
section
/-! DEFINITION. Tests: the compare codes of R198 and the conditions of `bc` (R202, R211). The machine has
no flag register; its predicates take the results of compares (R255, R259). -/
namespace Sys2Proof.Machine
open Sys2Proof

/-- The integer column of R198. -/
def iCompare : ICc → Int → Int → Bool
  | .eq, x, y => x == y
  | .ne, x, y => x != y
  | .lt, x, y => decide (x < y)
  | .le, x, y => decide (x ≤ y)
  | .gt, x, y => decide (y < x)
  | .ge, x, y => decide (y ≤ x)

/-- The float column of R198, from the order of the operands: none when either is NaN; `or` then fails
(log 72). -/
def fCompare : FCc → Option Ordering → Bool
  | .eq, o => o == some .eq
  | .ne, o => o != some .eq
  | .lt, o => o == some .lt
  | .le, o => o == some .lt || o == some .eq
  | .gt, o => o == some .gt
  | .ge, o => o == some .gt || o == some .eq
  | .un, o => o == none
  | .or, o => o != none

/-- The scalar tests of `bc` read 64 bits as signed (R202, R211). -/
def bcScalar : BCond → Word → Bool
  | .eqz, x => x == 0
  | .nez, x => x != 0
  | .ltz, x => decide (x.toInt < 0)
  | .gez, x => decide (0 ≤ x.toInt)
  | .gtz, x => decide (0 < x.toInt)
  | .lez, x => decide (x.toInt ≤ 0)
  | _, _ => false

/-- The predicate tests of `bc` read all 256 bits (R211). -/
def bcPred : BCond → Pred → Bool
  | .pany, x => x != 0
  | .pall, x => x == BitVec.allOnes 256
  | .pnone, x => x == 0
  | _, _ => false

end Sys2Proof.Machine
end

