-- ==== Sys2Proof/Machine/FloatFmt.lean ====
section
/-! DEFINITION. Number formats: exact values, widening, rounding once, saturation, encoding, and the
conversions of R157-R170; the conversions through a format window (R114-R117). -/
namespace Sys2Proof.Machine
open Sys2Proof

/-- An exact value (R165). `fin neg m e more` is ±(m + δ) × 2^e with δ = 0, or 0 < δ < 1 where `more`. -/
inductive XVal where
  | nan
  | inf (neg : Bool)
  | fin (neg : Bool) (m : Nat) (e : Int) (more : Bool)
  deriving DecidableEq, Repr

/-- A binary format: exponent bits, fraction bits, bias, whether it has infinities, its canonical NaN. -/
structure FFmt where
  eb : Nat
  fb : Nat
  bias : Nat
  inf : Bool
  nan : Nat
  deriving DecidableEq, Repr

def fmtF32 : FFmt := { eb := 8, fb := 23, bias := 127, inf := true, nan := 0x7FC00000 }
def fmtBF16 : FFmt := { eb := 8, fb := 7, bias := 127, inf := true, nan := 0x7FC0 }
def fmtF16 : FFmt := { eb := 5, fb := 10, bias := 15, inf := true, nan := 0x7E00 }
def fmtE4M3 : FFmt := { eb := 4, fb := 3, bias := 7, inf := false, nan := 0x7F }
def fmtE5M2 : FFmt := { eb := 5, fb := 2, bias := 15, inf := true, nan := 0x7E }

/-- The binary format of a float type (R157). PW8 has none: every user treats it apart. -/
def ffmt : FTy → FFmt
  | .f32 => fmtF32
  | .bf16 => fmtBF16
  | .f16 => fmtF16
  | .e4m3 => fmtE4M3
  | .e5m2 => fmtE5M2
  | .pw8 => fmtF32

def bitLen (m : Nat) : Nat := if m = 0 then 0 else Nat.log2 m + 1

/-- m × 2^k, rounded down. -/
def shiftI (m : Nat) (k : Int) : Nat := if 0 ≤ k then m * 2 ^ k.toNat else m / 2 ^ (-k).toNat

def xzero (neg : Bool) : XVal := .fin neg 0 0 false
def xint (x : Int) : XVal := .fin (decide (x < 0)) x.natAbs 0 false

/-! Widening (R157-R161, R165). -/

/-- The exponent of the least significant bit in the subnormal range. -/
def FFmt.emin (f : FFmt) : Int := 1 - (f.bias : Int) - (f.fb : Int)

def widenF (f : FFmt) (x : Nat) : XVal :=
  let s := x.testBit (f.eb + f.fb)
  let ex := x / 2 ^ f.fb % 2 ^ f.eb
  let fr := x % 2 ^ f.fb
  if ex = 2 ^ f.eb - 1 ∧ f.inf = true then (if fr = 0 then .inf s else .nan)
  else if ex = 2 ^ f.eb - 1 ∧ fr = 2 ^ f.fb - 1 then .nan
  else if ex = 0 then .fin s fr f.emin false
  else .fin s (2 ^ f.fb + fr) ((ex : Int) + f.emin - 1) false

/-- A PW8 byte with e1 = 0 and e2 ≠ 0 (R161). -/
def pw8Reserved (x : Nat) : Bool := x / 16 % 8 == 0 && x % 8 != 0

/-- One term of a PW8 byte in units of 2^-6 (R160). -/
def pw8Term (s : Bool) (e : Nat) : Int := if e = 0 then 0 else if s then -((2 : Int) ^ (e - 1)) else (2 : Int) ^ (e - 1)

def widenPw8 (x : Nat) : XVal :=
  let n := pw8Term (x.testBit 7) (x / 16 % 8) + pw8Term (x.testBit 3) (x % 8)
  .fin (decide (n < 0)) n.natAbs (-6) false

/-- `Widen` (R165); a reserved PW8 byte is refused by the caller. -/
def widen (t : FTy) (x : Nat) : XVal :=
  match t with
  | .pw8 => widenPw8 x
  | t => widenF (ffmt t) x

/-! Exact arithmetic. -/

def xneg : XVal → XVal
  | .nan => .nan
  | .inf s => .inf (!s)
  | .fin s m e r => .fin (!s) m e r

def xabs : XVal → XVal
  | .nan => .nan
  | .inf _ => .inf false
  | .fin _ m e r => .fin false m e r

/-- The exact product of two exact values; 0 × Inf is invalid (R166). -/
def xmul : XVal → XVal → XVal
  | .nan, _ => .nan
  | _, .nan => .nan
  | .inf s, .inf t => .inf (s != t)
  | .inf s, .fin t m _ _ => if m = 0 then .nan else .inf (s != t)
  | .fin s m _ _, .inf t => if m = 0 then .nan else .inf (s != t)
  | .fin s m e _, .fin t n f _ => .fin (s != t) (m * n) (e + f) false

/-- The exact quotient to at least 128 bits, with whether more follows. The divisor is finite. -/
def xdiv : XVal → XVal → XVal
  | .nan, _ => .nan
  | _, .nan => .nan
  | .inf s, .inf _ => .inf s
  | .inf s, .fin t _ _ _ => .inf (s != t)
  | .fin s _ _ _, .inf t => xzero (s != t)
  | .fin s m e _, .fin t n f _ =>
    if n = 0 then (if m = 0 then .nan else .inf (s != t))
    else
      let k := 128 + bitLen n
      .fin (s != t) (m * 2 ^ k / n) (e - f - k) (m * 2 ^ k % n != 0)

/-- The least exponent of a list of finite values. -/
def minExp : List XVal → Int → Int
  | [], e => e
  | .fin _ _ f _ :: r, e => minExp r (min f e)
  | _ :: r, e => minExp r e

/-- The signed sum in units of 2^e. -/
def sumAt (e : Int) : List XVal → Int
  | [] => 0
  | .fin s m f _ :: r => (if s then -((m : Int) * (2 : Int) ^ (f - e).toNat) else (m : Int) * (2 : Int) ^ (f - e).toNat) + sumAt e r
  | _ :: r => sumAt e r

def isNan : XVal → Bool
  | .nan => true
  | _ => false

def isInf (neg : Bool) : XVal → Bool
  | .inf s => s == neg
  | _ => false

def isNegZero : XVal → Bool
  | .fin s m _ _ => s && m == 0
  | _ => false

/-- The exact sum. Inf - Inf is invalid (R166). A zero sum of zeros that are all -0 is -0; any other zero
sum is +0, or -0 under RD (R170). -/
def xsum (rd : Bool) (l : List XVal) : XVal :=
  if l.any isNan then .nan
  else if l.any (isInf false) then (if l.any (isInf true) then .nan else .inf false)
  else if l.any (isInf true) then .inf true
  else
    let e := minExp l 0
    let n := sumAt e l
    if n = 0 then xzero (if l.all isNegZero then true else rd && l.any (fun x => match x with | .fin s m _ _ => s || m != 0 | _ => false))
    else .fin (decide (n < 0)) n.natAbs e false

/-- The order of two exact values; none when either is NaN. -0 equals +0 (R198). -/
def xcmp : XVal → XVal → Option Ordering
  | .nan, _ => none
  | _, .nan => none
  | .inf s, .inf t => some (if s == t then .eq else if s then .lt else .gt)
  | .inf s, .fin _ _ _ _ => some (if s then .lt else .gt)
  | .fin _ _ _ _, .inf t => some (if t then .gt else .lt)
  | .fin s m e _, .fin t n f _ =>
    let k := min e f
    some (compare (sumAt k [.fin s m e false]) (sumAt k [.fin t n f false]))

def xneg? : XVal → Bool
  | .nan => false
  | .inf s => s
  | .fin s _ _ _ => s

/-- Float min: the lesser, with -0 below +0; the other operand when one is NaN (R169). -/
def xmin (x y : XVal) : XVal :=
  match xcmp x y with
  | none => if isNan x then y else x
  | some .lt => x
  | some .gt => y
  | some .eq => if xneg? x then x else y

def xmax (x y : XVal) : XVal :=
  match xcmp x y with
  | none => if isNan x then y else x
  | some .lt => y
  | some .gt => x
  | some .eq => if xneg? x then y else x

/-! Rounding (R163-R165). -/

/-- Whether a value rounds away from zero: l is the neighbour towards zero, r the rest in units of 2^-sh of
the spacing, `more` whether a further rest follows, u the draw. -/
def roundUp (mode : Rnd) (u : Nat) (neg : Bool) (l r sh : Nat) (more : Bool) : Bool :=
  match mode with
  | .rne => decide (2 ^ sh < 2 * r) || (decide (2 ^ sh = 2 * r) && (more || l % 2 == 1))
  | .rz => false
  | .rd => neg && (r != 0 || more)
  | .ru => !neg && (r != 0 || more)
  | .rna => decide (2 ^ sh ≤ 2 * r)
  | .rs => (r != 0 || more) && decide (u < r * 2 ^ 32 / 2 ^ sh)

/-- (m + δ) × 2^e rounded to a multiple of 2^q, in units of 2^q. -/
def roundAt (mode : Rnd) (u : Nat) (neg : Bool) (m : Nat) (e : Int) (more : Bool) (q : Int) : Nat :=
  if q ≤ e then m * 2 ^ (e - q).toNat
  else
    let sh := (q - e).toNat
    m / 2 ^ sh + (if roundUp mode u neg (m / 2 ^ sh) (m % 2 ^ sh) sh more then 1 else 0)

/-- The exponent of the spacing of a format at a value (R164). -/
def ulp (f : FFmt) (m : Nat) (e : Int) : Int := max (e + bitLen m - (f.fb + 1)) f.emin

/-- `RoundUnbounded` for a binary format. -/
def roundUnbounded (f : FFmt) (mode : Rnd) (u : Nat) : XVal → XVal
  | .fin s m e r => .fin s (roundAt mode u s m e r (ulp f m e)) (ulp f m e) false
  | x => x

/-- `Max(F)` as a significand and an exponent (R157, R158, R165). -/
def maxM (f : FFmt) : Nat := if f.inf then 2 ^ (f.fb + 1) - 1 else 2 ^ (f.fb + 1) - 2
def maxE (f : FFmt) : Int := (if f.inf then 2 ^ f.eb - 2 else 2 ^ f.eb - 1 : Int) - f.bias - f.fb

/-- |y| > Max(F) for a rounded finite y. -/
def overMax (f : FFmt) (m : Nat) (q : Int) : Bool :=
  if q ≤ maxE f then decide (maxM f * 2 ^ (maxE f - q).toNat < m) else decide (maxM f < m * 2 ^ (q - maxE f).toNat)

/-! Encoding (R165). -/

def signBit (f : FFmt) (neg : Bool) : Nat := if neg then 2 ^ (f.eb + f.fb) else 0

/-- The bits of a finite rounded value m × 2^q of the format. -/
def encFin (f : FFmt) (neg : Bool) (m : Nat) (q : Int) : Nat :=
  let m' := if m = 2 ^ (f.fb + 1) then 2 ^ f.fb else m
  let q' := if m = 2 ^ (f.fb + 1) then q + 1 else q
  signBit f neg + (if m' < 2 ^ f.fb then m' else (q' + f.bias + f.fb).toNat * 2 ^ f.fb + m' % 2 ^ f.fb)

def encInf (f : FFmt) (neg : Bool) : Nat := if f.inf then signBit f neg + (2 ^ f.eb - 1) * 2 ^ f.fb else f.nan
def encMax (f : FFmt) (neg : Bool) : Nat := encFin f neg (maxM f) (maxE f)

/-- The unsaturated overflow result (R166). -/
def overflow (f : FFmt) (mode : Rnd) (neg : Bool) : Nat :=
  if !f.inf then f.nan
  else match mode with
    | .rz => encMax f neg
    | .rd => if neg then encInf f neg else encMax f neg
    | .ru => if neg then encMax f neg else encInf f neg
    | _ => encInf f neg

/-- `Arith(exact, F, mode, sat)` (R166), as the bits of the result. -/
def arith (f : FFmt) (mode : Rnd) (sat : Bool) (u : Nat) (x : XVal) : Nat :=
  match x with
  | .nan => f.nan
  | .inf s => encInf f s
  | .fin s m e r =>
    let q := ulp f m e
    let n := roundAt mode u s m e r q
    if overMax f n q then (if sat then encMax f s else overflow f mode s) else encFin f s n q

/-! Conversion (R162, R167). -/

/-- The distance from y to a member of S, both in units of 2^-17. -/
def dist17 (y c : Int) : Nat := (y - c).natAbs

/-- The members of S in ascending order, in units of 2^-17 (R162). -/
def setS : List Int :=
  [-131072, -65536, -32768, -16384, -8192, -4096, -2048, 0, 2048, 4096, 8192, 16384, 32768, 65536, 131072]

/-- `Nearest(y, S)`: the closest member; of two equally close, the smaller. -/
def nearestS (y : Int) : List Int → Int → Int
  | [], b => b
  | c :: r, b => nearestS y r (if dist17 y c < dist17 y b then c else b)

/-- log2 of a member of S above 0, plus 7; 0 for 0 (R162). -/
def pw8Exp (t : Int) : Nat := if t = 0 then 0 else Nat.log2 t.natAbs - 10

/-- The canonical encoding of sign × (t1 + t2) (R161, R162; log 22). -/
def pw8Enc (neg : Bool) (t1 t2 : Int) : Nat :=
  if t1 = 0 then 0
  else (if neg then 128 else 0) + 16 * pw8Exp t1 + (if neg != decide (t2 < 0) then 8 else 0) + pw8Exp t2

/-- `ToPW8` of a finite magnitude in units of 2^-17, odd where a rest follows (R162). -/
def pw8Fin (neg : Bool) (m : Nat) : Nat :=
  if 262144 ≤ m then pw8Enc neg 131072 131072
  else if 131072 ≤ m then pw8Enc neg 131072 (nearestS ((m : Int) - 131072) setS (-131072))
  else if 2048 ≤ m then
    let k := Nat.log2 m
    let t1 : Int := if 2 * m ≤ 3 * 2 ^ k then (2 : Int) ^ k else (2 : Int) ^ (k + 1)
    pw8Enc neg t1 (nearestS ((m : Int) - t1) setS (-131072))
  else if 1024 < m then pw8Enc neg 2048 0
  else pw8Enc neg 0 0

/-- `ToPW8` (R162). Every threshold is a multiple of 2^-8, so a rest below 2^-16 counts only as a rest. -/
def toPw8 : XVal → Nat
  | .nan => 0
  | .inf s => pw8Fin s 262144
  | .fin s m e r =>
    let k := e + 16
    if 0 ≤ k then pw8Fin s (2 * (m * 2 ^ k.toNat) + (if r then 1 else 0))
    else pw8Fin s (2 * (m / 2 ^ (-k).toNat) + (if r || m % 2 ^ (-k).toNat != 0 then 1 else 0))

/-- `Convert` to a float format; none for a NaN bound for PW8 (R167). An infinity clamps under sat whatever its source (log 71). -/
def convertF (t : FTy) (mode : Rnd) (sat : Bool) (u : Nat) (x : XVal) : Option Nat :=
  match t with
  | .pw8 => if isNan x then none else some (toPw8 x)
  | t =>
    let f := ffmt t
    match x with
    | .inf s => some (if sat then encMax f s else encInf f s)
    | x => some (arith f mode sat u x)

/-- `Convert` to an integer range; none for a NaN (R167). -/
def convertI (l h : Int) (mode : Rnd) (u : Nat) (x : XVal) : Option Int :=
  match x with
  | .nan => none
  | .inf s => some (if s then l else h)
  | .fin s m e r =>
    let n : Int := roundAt mode u s m e r 0
    some (clampI l h (if s then -n else n))

/-! Format windows (R114-R117). -/

/-- The rounding mode of a 3-bit code; none for a reserved code (R114). -/
def rndOf : Nat → Option Rnd
  | 0 => some .rne
  | 1 => some .rz
  | 2 => some .rd
  | 3 => some .ru
  | 4 => some .rna
  | 5 => some .rs
  | _ => none

/-- What a window stores (R115). -/
inductive WFmt where
  | f (t : FTy)
  | int8
  deriving DecidableEq, Repr

/-- A format window in use: its format, mode, saturation and scale. -/
structure Window where
  fmt : WFmt
  rnd : Rnd
  sat : Bool
  scale : Nat
  deriving DecidableEq, Repr

/-- zw (R115). -/
def WFmt.bytes : WFmt → Nat
  | .f .f32 => 4
  | .f .bf16 => 2
  | .f .f16 => 2
  | _ => 1

/-- The window format of an FMT code; none for raw and for the reserved codes (R115). -/
def wfmtOf : Nat → Option WFmt
  | 1 => some (.f .bf16)
  | 2 => some (.f .f16)
  | 3 => some (.f .e4m3)
  | 4 => some (.f .e5m2)
  | 5 => some (.f .pw8)
  | 6 => some .int8
  | 7 => some (.f .f32)
  | _ => none

/-- The check of a window control word at an access: none is a word that breaks R115 (0x08); `some none`
is a raw window; a format window comes with whether its scale is allowed (0x14). -/
def windowOf (w : Word) : Option (Option (Window × Bool)) :=
  let x := w.toNat
  if x / 256 % 2 ^ 24 != 0 || decide (8 ≤ x % 16) then none
  else match rndOf (x / 16 % 8) with
    | none => none
    | some r =>
      match wfmtOf (x % 16) with
      | none => some none
      | some f =>
        let sc := x / 2 ^ 32
        some (some ({ fmt := f, rnd := r, sat := x.testBit 7, scale := sc },
          match widenF fmtF32 sc with
          | .fin _ m _ _ => m != 0
          | _ => false))

/-- `WinLoad` of the stored bytes of one element: the FP32 bits (R116). -/
def winLoad (w : Window) (u x : Nat) : Nat :=
  let v := match w.fmt with
    | .f t => widen t x
    | .int8 => xint (sval 8 x)
  let y := arith fmtF32 w.rnd false u (xmul v (widenF fmtF32 w.scale))
  match v, widenF fmtF32 y with
  | .fin _ _ _ _, .inf s => if w.sat then encMax fmtF32 s else y
  | _, _ => y

/-- A stored PW8 byte that `Widen` refuses (R116, R161). -/
def winLoadBad (w : Window) (x : Nat) : Bool := w.fmt == .f .pw8 && pw8Reserved x

/-- `WinStore` of FP32 bits: the stored bytes of one element; none for a NaN into INT8 or PW8 (R116). -/
def winStore (w : Window) (u y : Nat) : Option Nat :=
  let v := widenF fmtF32 y
  let q := xdiv v (widenF fmtF32 w.scale)
  match w.fmt with
  | .int8 => (convertI (-128) 127 w.rnd u q).map (wrapN 8)
  | .f t => if isNan v then (if t == .pw8 then none else some (ffmt t).nan) else convertF t w.rnd w.sat u q

end Sys2Proof.Machine
end

