-- ==== Sys2Proof/Config.lean ====
section
/-! DEFINITION. What an implementation fixes and the spec leaves open: latencies of steps whose time the
spec does not give (log 2), and the free values (log 10). Nothing in Lean can evaluate an opaque constant. -/
namespace Sys2Proof.Config

/-! Times in master-clock cycles between the cause of a step and the step, where the spec gives none
(log 2: DESIGN CHOICE; only the order of steps rests on them). -/
def drainTime : Nat := 4
def fillTime : Nat := 8
def seamTime : Nat := 16
def fabricTime : Nat := 64
def pieceTime : Nat := 8
def commitTime : Nat := 16
def grantTime : Nat := 2
def barTime : Nat := 4
def scanTime : Nat := 16
def mailTime : Nat := 64

/-- Free values. Each use draws the next index from the state's counter (log 10). -/
opaque freeWord : Nat → Word
opaque freeByte : Nat → Byte
/-- A measurement digest or a signature answer of SPDM and of the boot ROM, whose SM2 and SM3 values the
spec takes from standards by name (log 15). -/
opaque digest : Nat → BitVec 256
/-- Whether an image with this digest and these signature bytes is signed as the ROM asks (R394; log 15). -/
opaque imageSigned : BitVec 256 → Nat → Bool
/-- Whether the header of an image, given as its bytes, is well formed; the spec gives no layout for it (R393; log 15). -/
opaque headerGood : Nat → Bool
/-- What the HBM controller gives for a sector that was written under one key slot and is read under another: the slot read
with, the slot written with, the sector's key, its plaintext (R112; log 54). -/
opaque wrongKey : Nat → Nat → Nat → Nat → Nat
/-- The signature over a measurement that the module answers, made with a key that the spec does not give (R395; log 15). -/
opaque signed : Nat → BitVec 256 → BitVec 512
/-- The handle token of a handle of a thread in a frame, which the spec calls opaque (R31; log 14). -/
opaque token : Nat → Word

end Sys2Proof.Config
end

