-- ==== Sys2Proof/Machine/State.lean ====
section
/-! DEFINITION. The state of one module, as plain data (R5, R13, R24, R31, R86; INVENTORY.md lists every
field), the reasons a step can stop, and the state right after reset. -/
namespace Sys2Proof.Machine

open Sys2Proof

/-- Why the machine stops. -/
inductive Fault where
  /-- Raised by `step` when nothing can ever happen again: no event is due and no thread can issue (the
  module is off, asleep, or every thread waits for an outside event). Safe: the hardware waits too. -/
  | asleep
  deriving DecidableEq, Repr

/-- Why the model gives no meaning. -/
inductive Refusal where
  /-- Raised by an arm of the dispatch that has no meaning yet. Safe: no next state is claimed. -/
  | notModelled (mnemonic : String)
  deriving DecidableEq, Repr

/-! Conditions and handles. -/

/-- A condition: its code (R429), its detail, and bits [10:8] of `s1`: [0] APPLIED, [1] via a handle,
[2] at a later boundary (R431). -/
structure Cond where
  code : BitVec 8
  detail : Word
  flags : BitVec 3
  deriving DecidableEq, Repr

/-- A handle (R224). A pending handle names the operation in flight; a done one holds its value, its
recorded condition, the scope of its completion (none after `fput`), and whether it is won. -/
inductive Handle where
  | free
  | pending (op : Nat)
  | done (value : Word) (cond : Option Cond) (scope : Option Scope) (won : Bool)
  deriving DecidableEq, Repr

/-! A hardware thread. -/

/-- A register as the checker and the latency rules name it (R190, R429). -/
inductive Reg where
  | s (n : BitVec 5)
  | v (n : BitVec 5)
  | p (n : BitVec 3)
  deriving DecidableEq, Repr

/-- A register's value: a scalar, a vector, or a predicate. -/
inductive Val where
  | s (x : Word)
  | v (x : Vec)
  | p (x : Pred)
  deriving DecidableEq, Repr

/-- A fixed-latency result that has not reached its latency (R187): the register keeps its previous
value until effective cycle `ready` (R190). -/
structure Pend where
  reg : Reg
  ready : Nat
  val : Val
  deriving DecidableEq, Repr

/-- The registers of a thread (R31, R194). `v` holds `lat` at 31; `p` holds p0, all ones. -/
structure Regs where
  s : Vector Word 32
  v : Vector Vec 32
  p : Vector Pred 8
  h : Vector Handle 16
  genA : Word
  genB : Word
  deriving DecidableEq, Repr

/-- The system registers that a thread holds (R199). Entry 0 of `win` is not a register: window 0 is raw. -/
structure SysRegs where
  win : Vector Word 8
  hand : Word
  sbchk : Word
  srch : Word
  alt : Word
  dom : Vector Word 4
  rank : Nat
  gsize : Nat
  deriving DecidableEq, Repr

/-- The search state of a thread (R86, R89). -/
structure Search where
  depth : Nat
  trcnt : Nat
  top : Nat
  lineage : Word
  vdepth : Nat
  vthread : Nat
  pushes : Nat
  deriving DecidableEq, Repr

/-- A repetition in progress (R200, R201): the PC of the `rep`, the count, the next index, the mask. -/
structure Rep where
  pc : Word
  n : Nat
  j : Nat
  stepO : Bool
  stepD : Bool
  stepA : Bool
  stepB : Bool
  deriving DecidableEq, Repr

/-- What a thread waits for at the instruction itself (R39, R222): a handle, full words, a message, a
barrier instance (with the live map of its `bar`), a service reply, room in a queue, its turn at its cluster's job queue
(R313), the reply to an earlier access of its
own (R189, R430); `idle` is an idle searcher whose `fail` emptied its stack (R94, R96). -/
inductive Why where
  | handle (h : BitVec 4)
  | sync (keys : List Nat)
  | recv
  | bar (level inst map : Nat)
  | svc (d : BitVec 5)
  | queue
  | mxe
  | reply
  | idle
  deriving DecidableEq, Repr

/-- An access that waits for its home's reply (R430): a load of `len` bytes; a vector load with the bytes it
knows and the chunks (byte in the register, key, length) still to come; an atomic; a `tver`. -/
inductive Access where
  | load (len : Nat) (signed : Bool)
  | vload (known : Nat) (chunks : List (Nat × Nat × Nat))
  | atomic (op : AOp) (t : ATy) (isF : Bool) (operand : Word)
  | ver
  deriving DecidableEq, Repr

/-- A reply awaited: the destination, the memory key at the home, the access, the scope of its acquire, and the cycle in which
the request left: the thread's stores that it posted earlier perform at the home before it (R153). -/
structure Reply where
  dest : Reg
  key : Nat
  acc : Access
  scope : Option Scope
  addr : Word
  sent : Nat := 0
  deriving DecidableEq, Repr

/-- A message in a receive queue (R324, R325). -/
structure Msg where
  header : Word
  len : Nat
  payload : Nat
  deriving DecidableEq, Repr

/-- The words of a continuation record (R24). `launch` is the number of the launch whose record lies at module address
`laddr`, the LAUNCH field; `bound` is BOUND and BTHR as a module thread number; `resv` is the record's reserved bits, at
their places in its 512 bits (R29). -/
structure RecWords where
  fullf : Bool
  spec : Bool
  srch : Bool
  waith : Bool
  runnable : Bool
  running : Bool
  pc : Word
  frame : Word
  gang : Bool
  thief : Bool
  backup : Bool
  pweight : Nat
  cls : Nat
  attempt : Nat
  task : Nat
  tile : Nat
  start : Nat
  work : Nat
  launch : Nat
  bound : Option Nat
  part : Nat
  dies : Nat
  depth : Nat
  livemap : Nat
  key : Nat
  laddr : Nat
  resv : Nat
  deriving DecidableEq, Repr

/-- Where a record lies while no thread holds it (R30): a dispenser queue, a shadow slot, granted to a free thread
that has not yet picked it up (R34), or at rest in memory. -/
inductive Place where
  | queue (die : Nat)
  | slot (core idx : Nat)
  | granted (th : Nat)
  | rest
  deriving DecidableEq, Repr

/-- A continuation record and what the module keeps with it: the die it runs on or returns to, the full base
version (R27, R60), the handles its tokens stand for and those it waits on (R31, R35), its effective
priority raise and since when it is runnable (R50, R367), the barred core (R76), whether the monitor has
dealt with it (R75, R81), the thread whose region a slot record's prefetch fills (R366), its membership registers (R44), its lineage (R86), whether it has never run, the
conditions to take before its next bundle with their PC (R449, R454, R60, R476), and its CRC (R29); the conditions found later
that its thread has not taken, by the cycle in which their accesses issued, and those that a `tread` watchdog left on its scalars
(R430, R455, R462); since when RUNNABLE is set (R387). -/
structure Rec where
  id : Nat
  w : RecWords
  place : Place
  die : Nat
  base : Option (BitVec 32)
  handles : Vector Handle 16
  waits : BitVec 16
  raised : Nat
  since : Nat
  barred : Option Nat
  tested : Bool
  region : Option Nat
  doms : Vector Word 4
  gsize : Nat
  lineage : Word
  vdepth : Nat
  vthread : Nat
  fresh : Bool
  owed : List (Cond × Word)
  crc : BitVec 16
  later : List (Nat × Cond) := []
  scal : List (BitVec 5 × Nat × Cond) := []
  runSince : Nat := 0
  deriving DecidableEq, Repr

/-- What governs the issue of a thread: results in flight and the first effective cycle of its next
bundle (R187), a repetition (R201), what it is blocked on (R39), the replies it awaits and the
conditions found later that it has yet to take, by the cycle in which their accesses issued (R430), scalars that await a `tread` (R237), the
conditions that a `tread` watchdog left on them (R455), a theft hold (R97), and the registers that the
last `fail` restored (R94), whose values stand against the arithmetic word of its bundle (R183). `slow` names the
loads of write-assist mode, with the effective cycle in which hardware interlocks them (R189, R384). -/
structure IssueSt where
  pend : List Pend
  slow : List (Reg × Nat)
  notBefore : Nat
  rep : Option Rep
  blocked : Option Why
  replies : List Reply
  later : List (Nat × Cond)
  ilock : List (BitVec 5 × Nat)
  owed : List (BitVec 5 × Nat × Cond)
  hold : Bool
  wrote : List Reg
  deriving DecidableEq, Repr

/-- A hardware thread (R5, R31). -/
structure Thread where
  pc : Word
  npc : Word
  r : Regs
  y : SysRegs
  q : Search
  i : IssueSt
  inHandler : Bool
  inbox : List Msg
  inboxLaunch : Option Nat
  preempt : Bool
  cancel : Bool
  rcd : Option Rec
  deriving DecidableEq, Repr

/-! Cores, clusters, caches. -/

/-- Where a store performs (R135): a local store or an activation buffer; a cached sector through the die's
L2, at a module address; an L3 slice; both with the owner of the page, 64 × partition + KEY (R112, R126); another module's home; the host over CXL.io; an Ethernet doorbell. -/
inductive Route where
  | near
  | cached (ma own : Nat)
  | l3 (ma own : Nat)
  | remote (dev : Nat)
  | direct
  | bell (port q : Nat) (rx : Bool)
  deriving DecidableEq, Repr

/-- A buffered store (R134): the thread, where it performs, the key of its first byte, its length and
little-endian value, the virtual address of its first byte, whether it sets its words full (R294) or
empty (R295, which changes no byte), the record that issued it (R447), and whether it performs together with the store
before it: both are elements of one instruction in one aligned 8-byte chunk (R133); and the cycle in which it issued (R430). -/
structure Store where
  th : Nat
  route : Route
  key : Nat
  len : Nat
  value : Nat
  addr : Word
  full : Bool
  empties : Bool
  rcd : Nat
  joined : Bool
  issued : Nat := 0
  deriving DecidableEq, Repr

/-- A core: its store buffer; the posted stores that have left it and not reached their home or the host, each with the cycle
in which it does (R154, R447); the thread it last issued and the first cycle of its next issue (R39); the faulting thread of
its park and the launch of that thread's record (R436, R437); the fault message, which is posted once every thread has
stopped (R436); and whether it is lost (R473). -/
structure CoreSt where
  buf : List Store
  posted : List (Nat × Store)
  last : Nat
  next : Nat
  parked : Option Nat
  parkLaunch : Option Nat
  message : Option Nat
  lost : Bool
  deriving DecidableEq, Repr

/-- A 16-byte sector held by a die's L2 (R19, R121): the module address of its first byte, the detail of 0x71 when it is
poisoned (R464), and the owner of the page through which it was filled: 64 × partition + KEY (R112, R126). -/
structure Sector where
  die : Nat
  addr : Nat
  data : BitVec 128
  dirty : Bool
  bad : Option Nat
  own : Nat
  deriving DecidableEq, Repr

/-- A sector held by a core's L1, which is write-through and so always clean (R13, R121). -/
structure L1Sector where
  core : Nat
  addr : Nat
  data : BitVec 128
  deriving DecidableEq, Repr

/-- A line held by the L3 (R18, R121): its module address / 128, the owner of the page through which it was filled, its
sectors that are present, each with the owner of the page through which it was filled (R19, R112), its dirty sectors (R19), and the HBM contents of the sectors that the fill decrypted with another key than the one under which
they were written (R112), by sector key. The L3's own contents are the bytes of `Mem.cells`. -/
structure L3Line where
  line : Nat
  own : Nat
  held : Tab Nat
  dirty : BitVec 8
  hidden : Tab Nat
  deriving DecidableEq, Repr

/-- A translation held by a cluster's TLB (R129). -/
structure TlbEntry where
  clu : Nat
  part : Nat
  vpage : Nat
  bits : Nat
  leaf : Word
  deriving DecidableEq, Repr

/-- A pinned line (R127, R128). -/
structure PinEntry where
  l3 : Bool
  die : Nat
  line : Nat
  part : Nat
  launch : Nat
  deriving DecidableEq, Repr

/-- A matrix job's operation with its operands as captured at issue (R313-R321). -/
inductive MxOp where
  | ld (off : Nat)
  | mm (aoff tile fmt : Nat)
  | sp (aoff tile fmt mdm : Nat)
  | grp (aoff tile fmt table wb groups : Nat)
  | rot
  | rd (dst : Nat) (tile row cnt : Nat) (ctl : Word) (raw : Bool) (draws : List Nat)
  | clr (tile : Nat)
  | metaCopy (src dst len : Nat)
  deriving DecidableEq, Repr

/-- A matrix job: its operation id, its queue index, and whether it came through the remote port. -/
structure MxJob where
  op : Nat
  idx : Nat
  what : MxOp
  remote : Bool
  part : Nat
  device : Nat
  deriving DecidableEq, Repr

/-- A cluster (R12, R313-R319, R380-R384): job queue; whether a job runs, and the effective cycle in which it ends; whether
`mxrot` has sent its latch and received one; the core whose turn is next at the queue, 8 for the remote port; whether the
latch is full; whether the incoming slot is occupied and by a full latch; waiting remote jobs; pattern; the effective cycle
in which the last filler burst ends; write-assist mode, and the change of it that is due at the next boundary; the cycle
since which the cluster waits for a record. -/
structure CluSt where
  jobs : List MxJob
  running : Bool
  due : Nat
  sent : Bool
  rcvd : Bool
  turn : Nat
  full : Bool
  incoming : Bool
  inFull : Bool
  waitingCmds : List Nat
  pattern : BitVec 16
  patFrom : Nat
  keptBase : Nat
  filler : Nat
  assist : Bool
  assistDue : Option Bool
  waitSince : Nat
  deriving DecidableEq, Repr

/-! Operations in flight. -/

/-- The destination of a copy's piece: an address, or an offset within the AB or the WB of clusters. -/
inductive CopyDst where
  | addr (a : Word)
  | buf (wb : Bool) (clus : List Nat) (off : Nat)
  deriving DecidableEq, Repr

/-- What became of a piece: one on its way to another module or to the host awaits the answer of that device, the module's own
number for the host (R448, R481). -/
inductive PieceSt where
  | waiting
  | away (dev : Nat)
  | done
  | failed (c : Cond)
  deriving DecidableEq, Repr

/-- A piece of a copy (R307): its place in the copy's order, its row (R308), its source, its destination, its length, and
whether it performs together with the piece before it, because pieces on both sides share a 16-byte sector (R148, R152). -/
structure Piece where
  off : Nat
  row : Nat
  src : Word
  dst : CopyDst
  len : Nat
  joined : Bool
  st : PieceSt
  deriving DecidableEq, Repr

/-- Whom a copy serves: a handle, a shadow slot's prefetch (R366), or a schedule entry (R312). -/
inductive CopyFor where
  | handle
  | prefetch (core slot : Nat)
  | sched (launch idx member : Nat)
  deriving DecidableEq, Repr

/-- A home's answer to a commit (R64, R453). -/
inductive CommitAns where
  | won
  | lost
  | err (c : Cond)
  deriving DecidableEq, Repr

/-- An operation in flight. A commit and a versioned read name their descriptor by its virtual address and
by the key of its first byte at the home. -/
inductive OpKind where
  | copy (pieces : List Piece) (value : Nat) (ss : Bool) (what : CopyFor)
  | mx (die clu : Nat)
  | commit (launch task attempt : Nat) (base : BitVec 32) (desc : Word) (dkey size data : Nat) (pc : Word) (ans : Option CommitAns)
  | tread (desc : Word) (dkey : Nat) (ver : BitVec 32) (d : BitVec 5) (dst size : Nat) (since : Nat) (home : Bool) (ready : Option (Nat × Nat))
  | msg (dest : Nat) (m : Msg) (launch : Nat)
  | mxcmd (target : Nat) (cap : BitVec 32) (job : MxOp) (accepted : Bool)
  deriving DecidableEq, Repr

/-- An operation with its owner: the thread whose region it uses, the record whose handle it completes,
the engine's cluster (module cluster number), the scope, the partition, whether its owner is an attempt. -/
structure Op where
  id : Nat
  th : Nat
  rcd : Nat
  clu : Nat
  scope : Scope
  part : Nat
  spec : Bool
  k : OpKind
  deriving DecidableEq, Repr

/-! Launches. -/

/-- The life of a resident launch (R360-R363, R369, R437). -/
inductive Phase where
  | admitted
  | placing
  | reserved
  | running
  | holding
  | held
  | ending (status : Nat)
  deriving DecidableEq, Repr

/-- A barrier instance with an arrival (R45, R461). -/
structure BarInst where
  level : Nat
  inst : Nat
  arrived : List Nat
  since : Nat
  deriving DecidableEq, Repr

/-- What the front end knows of a task that has an attempt (R68, R77, R100): attempts alive, whether it
was answered WON or LOST, the next backup number, the next thief block. -/
structure TaskSt where
  task : Nat
  alive : Nat
  won : Bool
  lost : Bool
  nextAttempt : Nat
  nextBlock : Nat
  backups : Nat
  deriving DecidableEq, Repr

/-- Unused thief numbers that a die holds for a task (R100). -/
structure ThiefNums where
  die : Nat
  task : Nat
  lo : Nat
  hi : Nat
  asked : Bool
  deriving DecidableEq, Repr

/-- The placement of a gang (R40-R42): dies, origin, and the module thread of each rank. -/
structure Placement where
  dies : List Nat
  y0 : Nat
  x0 : Nat
  threads : List Nat
  deriving DecidableEq, Repr

/-- A copy-schedule entry of a placed gang (R311, R312): its index, its engine's cluster, its stage, whether it is a superstep
copy, whether its copy runs or has ended. -/
structure SchedSt where
  idx : Nat
  clu : Nat
  stage : Nat
  ss : Bool
  running : Bool
  done : Bool
  deriving DecidableEq, Repr

/-- A resident launch (R357-R369): its number, key, partition, priority, queue and SQHEAD, the address of
its record, its words l0 to l15, and its progress. -/
structure Launch where
  num : Nat
  key : Nat
  part : Nat
  prio : Nat
  queue : Nat
  sqhead : Nat
  addr : Nat
  l : Vector Word 16
  phase : Phase
  since : Nat
  limit : Nat
  disc : Nat
  ranges : List (Nat × Nat × Nat)
  tasks : List TaskSt
  counts : Nat × Nat × Nat
  frames : List Nat
  place : Option Placement
  left : List Nat
  bars : List BarInst
  stage : Nat
  stagers : List (Nat × Nat)
  sched : List SchedSt
  short : Nat
  watts : Nat
  got : Nat
  thieves : List ThiefNums
  deriving DecidableEq, Repr

/-- A completion entry that waits for room (R355). -/
structure CqEntry where
  q : Nat
  c0 : Word
  c1 : Word
  c2 : Word
  c3 : Word
  deriving DecidableEq, Repr

/-- A queue pair (R352-R356): head and available tail of the submission queue, head and written index
of the completion queue, entries not released by the host, entries posted and not signalled with the time of the oldest, entries waiting. -/
structure QueueSt where
  sqHead : Nat
  sqTail : Nat
  cqHead : Nat
  cqTail : Nat
  unread : Nat
  phase : Bool
  unsig : Nat
  oldest : Nat
  waiting : List CqEntry
  deriving DecidableEq, Repr

/-- A class ring of a die (R74): the rates of the last 64 attempts. -/
structure Ring where
  die : Nat
  launch : Nat
  cls : Nat
  rates : List Nat
  deriving DecidableEq, Repr

/-- An entry of a die's cancel filter (R38, R67, R103): by task and exempt attempt, or by lineage. -/
structure Filter where
  die : Nat
  launch : Nat
  task : Nat
  exempt : Option Nat
  tag : Option Word
  deriving DecidableEq, Repr

/-! Power, errors, fabric, Ethernet. -/

/-- A rope controller (R374-R386, R470): consecutive saturated and unsaturated kilocycles, saturated kilocycles since FILL
engaged, the position of least current in the last kilocycle, the cap's ceiling of one bits, the fault cause of the latest
sample, since when the rope is clamped, how often overcurrent was met in this clamp, and since when every step is in range. -/
structure RopeSt where
  sat : Nat
  unsat : Nat
  fill : Nat
  least : Nat
  ceil : Nat
  cause : Nat
  clampAt : Nat
  overs : Nat
  goodAt : Option Nat
  deriving DecidableEq, Repr

/-- Errors of one unit in the current window (R467). -/
structure EccUnit where
  die : Nat
  array : Nat
  inst : Nat
  off : Nat
  n : Nat
  deriving DecidableEq, Repr

/-- What arrives on a port: a flit of data, or a belay marker (R411). -/
inductive Arrival where
  | flit (f : Flit)
  | marker (id init grp : Nat)
  deriving DecidableEq, Repr

/-- A fabric port (R400-R403, R411, R480-R482): flits captured by a cut, a marker of another cut with what arrived behind
it, stores that wait to leave, the free entries of its receive buffer, flits received and sent since link-up (the link
sequence numbers), and what the cut recorded: its `ILU_PORT` word and sequence numbers; since when the port is dark and
unheld; the wavelengths in use and those that retrain, with the time at which they left; whether the port has been up
before; the flits of accesses and replies that have begun to leave and await allowance (R402); since when the port is dark,
held or not (R481). -/
structure PortSt where
  captured : List Flit
  behind : List Arrival
  waiting : List Store
  room : Nat
  seq : Nat
  sentSeq : Nat
  recWord : Word
  recSeq : Nat × Nat
  dark : Option Nat
  lams : List Nat
  retr : Tab Nat
  linked : Bool
  owing : Nat
  gone : Option Nat
  deriving DecidableEq, Repr

/-- An Ethernet queue pair (R407, R408): the send and the receive descriptors that the port has read and not used, each with its
index and its 32 bytes. -/
structure EthQ where
  send : List (Nat × Nat)
  recv : List (Nat × Nat)
  deriving DecidableEq, Repr

/-- A cancel that could not be delivered to a module (R482). -/
structure HeldCancel where
  dev : Nat
  launch : Nat
  task : Nat
  exempt : Nat
  deriving DecidableEq, Repr

/-- A backup that looks for a module of the hedging group (R78): the straggler's launch, task and base version, and
the devices still to be asked, the first of which has been asked. -/
structure Offer where
  launch : Nat
  task : Nat
  attempt : Nat
  base : BitVec 32
  devs : List Nat
  deriving DecidableEq, Repr

/-- An attempt that waits for its number, which the front end of the tile's home gives, or for its origin's judgement (R77,
R81): the launch; the straggler's (or the lost attempt's) task, attempt, class and base version, its die and core; whether it
is a backup. For a straggler on another module, `die` is 8 and its device number more. -/
structure Want where
  launch : Nat
  task : Nat
  attempt : Nat
  cls : Nat
  base : Option (BitVec 32)
  die : Nat
  core : Nat
  backup : Bool
  deriving DecidableEq, Repr

/-- A backup of an own launch that runs on another module (R79, R80, R483). -/
structure Away where
  launch : Nat
  key : Nat
  part : Nat
  task : Nat
  attempt : Nat
  dev : Nat
  deriving DecidableEq, Repr

/-- The module's memories (R12, R18, R119, R464): one canonical list of bytes, the EMPTY words, the
poisoned 16-byte units with the detail that a read of them reports, the L1 and L2 sectors, the lines of the L3, the key
slot under which HBM sectors were last written (none listed: plaintext; R112), TLBs and pins. -/
structure Mem where
  cells : List Host.Cell
  empty : List Nat
  poison : Tab Nat
  l1 : List L1Sector
  l2 : List Sector
  l3 : List L3Line
  seals : Tab Nat
  tlb : List TlbEntry
  pins : List PinEntry
  deriving DecidableEq, Repr

/-- The scheduling hardware (R351-R371). `blocks`: by launch and task, the next block of thief numbers of a tile homed here (R100). -/
structure Sched where
  launches : List Launch
  recs : List Rec
  ops : List Op
  queues : Tab QueueSt
  rings : List Ring
  filters : List Filter
  irqs : List Nat
  heldCancels : List HeldCancel
  offers : List Offer
  away : List Away
  wants : List Want
  nextId : Nat
  keys : List Nat
  preemptBusy : Option Nat
  tlbiBusy : Bool
  blocks : List (Nat × Nat × Nat)
  deriving DecidableEq, Repr

/-- The rest of the platform. `bivSince`: when the present step of bivouac began; `bivHeld`: the launches that it pre-empted;
`bivLost`: dies lost while it sleeps, with their causes; `bivAt`, `asleepFor`: the count at which the clocks stopped, and the
cycles that they have stood still (R414-R416, R485). `ethLast`: the queue pair that sent last, by port; `wire`: frames sent, by port,
length and bytes (R408). `dieMap`: the physical die of each virtual die, `physBad` the physical dies that failed (R6, R484,
R486); `verified`, `locked`: the image has been verified, the DMA windows are locked (R392, R394); `spdm`: the measurements
answered, with their signatures (R395). `cxl`: the answers to the host's reads, none for poisoned data (R415). `cutGrp`: the
group of the cut that runs (R411); `bivCut`: bivouac has started its cut (R414). `keys` of `Sched`: the keys given (R361). `feHeld`: the cache die's control complex is being reloaded (R479); `retired`: units retired or
listed, by the set or instance that limits them, and `rowsOut` the rows among them: die, array, instance, row (R468). -/
structure Plat where
  bar0 : Tab Word
  bar2 : Tab Word
  ropes : Tab RopeSt
  units : List EccUnit
  ports : Tab PortSt
  cutInputs : List Nat
  cutGrp : Nat
  cutRoutes : Tab Word
  bivCut : Bool
  bivSince : Nat
  bivHeld : List Nat
  bivLost : List (Nat × Nat)
  bivAt : Nat
  asleepFor : Nat
  eth : Tab EthQ
  pauseUntil : Tab Nat
  ethLast : Tab Nat
  wire : List (Nat × Nat × Nat)
  mail : List (Nat × Nat)
  dieMap : Vector Nat 8
  physBad : List Nat
  verified : Bool
  locked : Bool
  spdm : List (Nat × BitVec 256 × BitVec 512)
  cxl : List (Nat × Nat × Option Nat)
  feHeld : Bool
  retired : Tab Nat
  rowsOut : List (Nat × Nat × Nat × Nat)
  deriving DecidableEq, Repr

/-- The module's steps that are no instruction, as the agenda holds them: one for each event row of the
opcode table, with the arguments of the constructor of `Instr` of the same name. (A type of its own because
Lean's compiler cannot build a value of a type's constructors beyond the 245th.) -/
inductive Event where
  -- the module's other steps: memory and conditions
  | storeDrain (core : Nat)
  | loadReply (th : Nat) (ans : HomeAnswer)
  | syncLoadWake (th : Nat)
  | homeErrorReport (rid : Nat) (code : BitVec 8) (x : StoreName)
  | takeLaterCondition (th : Nat)
  | parkRelease (core : Nat) (resume : BitVec 64)
  | parkAbort (core : Nat)
  | svcReply (th : Nat) (a : SvcAnswer)
  -- dispensers
  | pickup (th : Nat)
  | grantRecord (die : Nat)
  | shadowFill (core : Nat)
  | prefetchDone (core slot : Nat)
  | priorityAging (rid : Nat)
  -- the front end
  | sqDbWrite (q : Nat) (tail : BitVec 16)
  | cqDbWrite (q : Nat) (head : BitVec 16)
  | sqCfgWrite (q : Nat) (value : BitVec 64)
  | cqCfgWrite (q : Nat) (value : BitVec 64)
  | admitLaunch (q : Nat)
  | launchDispatch (launch : Nat)
  | gangPlace (launch : Nat)
  | gangReserve (launch : Nat)
  | postCompletion (q : Nat)
  | tlbiPage (part : Nat) (va : BitVec 40)
  | cqCoalTimer (q : Nat)
  | launchDone (launch : Nat)
  | preemptHold (launch : Nat)
  | preemptRelease (launch : Nat)
  | launchCancel (launch : Nat)
  | tlbiPartition (part : Nat)
  | tlbiDone
  | partCluWrite (die clu : Nat) (value : BitVec 64)
  | registerWrite (bank off : Nat) (value : BitVec 64)
  -- tasks, commit, hedging, search
  | cancelDelivery (launch task exempt : Nat)
  | lineageCancel (die launch task : Nat) (tag : BitVec 64)
  | commitAtHome (id : Nat)
  | commitReply (id : Nat)
  | treadAtHome (id : Nat)
  | treadReply (id : Nat)
  | treadWatchdog (id : Nat)
  | tverReply (th : Nat) (ans : HomeAnswer)
  | stragglerTest (die : Nat)
  | hedgeBudgetRequest (dev launch task attempt : Nat)
  | backupOffer (launch task attempt : Nat) (base : BitVec 32)
  | backupOfferAnswer (launch task attempt : Nat) (accepted : Bool)
  | endNotice (launch : Nat) (status : Nat)
  | hedgeDecay
  | rangeStealRequest (die victim launch : Nat)
  | rangeStealAnswer (die launch lo hi : Nat)
  | idleScan (th : Nat)
  | theft (th victim : Nat)
  | thiefBlockRequest (die launch task : Nat)
  | thiefBlockGrant (die launch task : Nat) (block : Nat)
  -- barriers, engines, messages
  | barrierComplete (launch level inst : Nat)
  | barrierWatchdog (launch level inst : Nat)
  | copyPiece (op : Nat) (p : PieceAnswer)
  | copyDone (op : Nat)
  | schedEntry (launch idx : Nat)
  | mxeJobStart (clu : Nat)
  | mxeJobDone (clu : Nat)
  | latchArrive (clu : Nat)
  | mxcmdAccept (id : Nat)
  | msgDeliver (m : MsgArrival)
  | fillerBurst (clu : Nat)
  -- ropes, clocks and power
  | patternChange (die : Nat)
  | ropePolWrite (rope : Nat) (value : BitVec 64)
  | ropeImbRefresh (rope : RopeSupply) (i0 i1 i2 i3 : Nat)
  | ropePolicyEngage (rope : Nat)
  | throtEscalate (rope : Nat)
  | ropePolicyDisengage (rope : Nat)
  | railSample (rope v0 v1 v2 v3 : Nat)
  | writeAssistChange (rope : Nat)
  | ropeClamp (rope cause : Nat)
  | ropeUnclamp (rope : Nat)
  | ropeLost (rope : Nat)
  | ropeHotChange (rope temp : Nat)
  | ropeOvbChange (rope power : Nat)
  | moduleCapInterval (watts : Nat)
  | floorAccount (launch : Nat)
  | hbmThermalChange (die stack temp : Nat)
  -- errors, dies and trips
  | eccError (die array inst row unit : Nat) (correctable : Bool)
  | eccWindow (die : Nat)
  | ccRecovery (die array : Nat)
  | ccRecoveryDone (die : Nat) (e : RecoveryEnd)
  | dieLost (die cause : Nat)
  | moduleTrip (thermal : Bool)
  -- host, bring-up
  | cxlMemAccess (off len : Nat) (store : Option Nat)
  | spdmGetMeasurements (i : MeasIndex)
  | powerUp
  | bootGo
  | verifyDone
  | bringupReduced
  | bringupFull (failed : FailedDies)
  | bringupDieTimeout (die : Nat) (hbm : Bool)
  -- fabric, cuts
  | iluCfgWrite (value : BitVec 64)
  | iluRouteWrite (dev : Nat) (value : BitVec 64)
  | flitReceive (port : Nat) (f : Flit)
  | wavelengthLeave (port : Nat) (l : LamErrors)
  | wavelengthRejoin (port lam : Nat)
  | wavelengthFailed (port lam : Nat)
  | portDark (port : Nat)
  | portLinkUp (port peer allowance lam : Nat)
  | darkPortTimeout (port : Nat)
  | backupUnreachable (b : AttemptName)
  | cutGo (id grp : Nat)
  | belayMarker (port id init grp : Nat)
  | cutRel
  | cutAbort
  -- bivouac
  | bivEnter (grp : Nat)
  | bivWriteback
  | bivForcedStop (th : Nat)
  | bivFlush
  | bivSelfref
  | bivEntryFail
  | bivResume
  | bivRestore
  | bivReplay
  | bivWakeFail
  -- Ethernet
  | ethqCfgWrite (port q : Nat) (value : BitVec 64)
  | ethqPtrWrite (port q : Nat) (value : BitVec 64)
  | ethDescriptorFetch (port q : Nat)
  | ethFrameSent (port q : Nat)
  | ethFrameReceived (port : Nat) (frame : List (BitVec 8)) (fcsOk : Bool)
  | ethLinkDown (port : Nat)
  | reservedCodeDecode (e : DecodeErr) (bundle : BitVec 64)
  | barrierNetworkFault (launch level inst : Nat)
  | hedgeBudgetAnswer (launch task attempt : Nat) (granted : Option Nat)
  | backupEndCharge (b : AttemptName) (cycles : Nat)
  | cxlCacheSnoop (h : HostLine) (invalidate : Bool)
  | ethLinkUp (port : Nat)
  | pauseFrameReceived (port : Nat) (pfc : Option (BitVec 8)) (quanta : Nat)
  | pauseHoldExpiry (port : Nat)
  | virtualDieRemap (vdie pdie : Nat)
  deriving DecidableEq, Repr

/-- The state of the module. `cur` is the hardware thread that the instruction constructors act on, `thr`
its state, `rest` the states of the others; `clock` is the master-clock cycle count (R199). The model's own
fields: `agenda`, the events due with their cycle (log 2); `taken`, the condition that the last meaning
took (log 2); `free`, the index of the next free value (log 10). -/
structure State where
  cur : Nat
  thr : Thread
  rest : Tab Thread
  cores : Tab CoreSt
  clus : Tab CluSt
  clock : Nat
  mem : Mem
  sch : Sched
  plat : Plat
  agenda : List (Nat × Event)
  taken : Option Cond
  free : Nat
  deriving DecidableEq, Repr

/-! Reset. -/

/-- p0 is all ones (R32); the other predicates are 0 (log 3). -/
def resetPreds : Vector Pred 8 := (Vector.replicate 8 0).set 0 (BitVec.allOnes 256)

def Regs.reset : Regs :=
  { s := Vector.replicate 32 0, v := Vector.replicate 32 0, p := resetPreds, h := Vector.replicate 16 .free, genA := 1, genB := 0 }

def SysRegs.reset : SysRegs :=
  { win := Vector.replicate 8 0, hand := 0, sbchk := 0, srch := 0, alt := 0, dom := Vector.replicate 4 0, rank := 0, gsize := 0 }

def Search.reset : Search :=
  { depth := 0, trcnt := 0, top := 0, lineage := 0, vdepth := 0, vthread := 0, pushes := 0 }

def IssueSt.reset : IssueSt :=
  { pend := [], slow := [], notBefore := 0, rep := none, blocked := none, replies := [], later := [], ilock := [], owed := [], hold := false, wrote := [] }

/-- A free hardware thread after power-up. -/
def Thread.reset : Thread :=
  { pc := 0, npc := 0, r := Regs.reset, y := SysRegs.reset, q := Search.reset, i := IssueSt.reset, inHandler := false,
    inbox := [], inboxLaunch := none, preempt := false, cancel := false, rcd := none }

def CoreSt.reset : CoreSt := { buf := [], posted := [], last := 3, next := 0, parked := none, parkLaunch := none, message := none, lost := false }

/-- The pattern is 0xFFFF (R378) and the latch is empty (R315). -/
def CluSt.reset : CluSt :=
  { jobs := [], running := false, due := 0, sent := false, rcvd := false, turn := 0, full := false, incoming := false, inFull := false
    waitingCmds := [], pattern := 0xFFFF, patFrom := 0, keptBase := 0, filler := 0, assist := false, assistDue := none, waitSince := 0 }

def QueueSt.reset : QueueSt :=
  { sqHead := 0, sqTail := 0, cqHead := 0, cqTail := 0, unread := 0, phase := true, unsig := 0, oldest := 0, waiting := [] }

def RopeSt.reset : RopeSt :=
  { sat := 0, unsat := 0, fill := 0, least := 0, ceil := 16, cause := 0, clampAt := 0, overs := 0, goodAt := none }

def PortSt.reset : PortSt := { captured := [], behind := [], waiting := [], room := 512, seq := 0, sentSeq := 0, recWord := 0, recSeq := (0, 0), dark := none, lams := [], retr := [], linked := false, owing := 0, gone := none }

def EthQ.reset : EthQ := { send := [], recv := [] }

/-- No byte is listed: an unlisted byte reads 0 (log 4); every word is full (R119). -/
def Mem.reset : Mem := { cells := [], empty := [], poison := [], l1 := [], l2 := [], l3 := [], seals := [], tlb := [], pins := [] }

def Sched.reset : Sched :=
  { launches := [], recs := [], ops := [], queues := [], rings := [], filters := [], irqs := [], heldCancels := [], offers := [], away := [],
    wants := [], nextId := 1, keys := [], preemptBusy := none, tlbiBusy := false, blocks := [] }

/-- After POWER_UP: the ROM waits, BOOT STATE is WAIT (R393, R394); die map identity (log 3). -/
def Plat.reset : Plat :=
  { bar0 := [], bar2 := [], ropes := [], units := [], ports := [], cutInputs := [], cutGrp := 0, cutRoutes := [], bivCut := false, bivSince := 0,
    bivHeld := [], bivLost := [], bivAt := 0, asleepFor := 0, eth := [], pauseUntil := [], ethLast := [], wire := [], mail := [],
    dieMap := #v[0, 1, 2, 3, 4, 5, 6, 7], physBad := [], verified := false, locked := false, spdm := [], cxl := [], feHeld := false, retired := [], rowsOut := [] }

/-- The module right after power-up. -/
def State.reset : State :=
  { cur := 0, thr := Thread.reset, rest := [], cores := [], clus := [], clock := 0, mem := Mem.reset, sch := Sched.reset,
    plat := Plat.reset, agenda := [], taken := none, free := 0 }

end Sys2Proof.Machine
end

