-- ==== Sys2Proof/Machine/Cells.lean ====
section
/-! DEFINITION. Memory as one canonical list of bytes: addresses strictly rising, no byte equal to what an
unlisted address reads as (log 4). A key is a space and an address; all widths are built here (R2, R18). -/
namespace Sys2Proof.Machine
open Sys2Proof

/-- What an unlisted byte reads as (log 4). -/
def unlisted : Byte := 0

/-- The canonical form. -/
def cellsWf : List Host.Cell → Bool
  | [] => true
  | [c] => c.2 != unlisted
  | c :: d :: r => c.2 != unlisted && decide (c.1 < d.1) && cellsWf (d :: r)

def Mem.wf (m : Mem) : Bool := cellsWf m.cells

/-- One byte. -/
def cellAt : List Host.Cell → Nat → Byte
  | [], _ => unlisted
  | c :: r, k => if c.1 = k then c.2 else cellAt r k

/-- The `n` bytes from key `k` as a little-endian number (R2). -/
def cellsLE : List Host.Cell → Nat → Nat → Nat
  | [], _, _ => 0
  | c :: r, k, n => (if k ≤ c.1 ∧ c.1 < k + n then c.2.toNat * 256 ^ (c.1 - k) else 0) + cellsLE r k n

/-- The bytes of a little-endian number that differ from an unlisted byte. -/
def bytesFrom : Nat → Nat → Nat → List Host.Cell
  | 0, _, _ => []
  | n + 1, k, v => if v % 256 = 0 then bytesFrom n (k + 1) (v / 256) else (k, BitVec.ofNat 8 v) :: bytesFrom n (k + 1) (v / 256)

def below (k : Nat) (l : List Host.Cell) : List Host.Cell := l.filter (fun c => decide (c.1 < k))
def from' (k : Nat) (l : List Host.Cell) : List Host.Cell := l.filter (fun c => decide (k ≤ c.1))

/-- Store the low `n` bytes of `v` at key `k`. -/
def cellsSet (l : List Host.Cell) (k n v : Nat) : List Host.Cell := below k l ++ bytesFrom n k v ++ from' (k + n) l

/-! Spaces. -/

/-- The key of an address of a space. Spaces: 0 the module's HBM, 1 host memory, 2 local stores, 3 AB, 4 WB,
5 ACB, 6 MDM, 7 operand latches, 8 incoming latch slots, 9 memory of other modules, 10 the boot memory
window, 13 the stacks of dies that are not mapped, 14 register files, 15 job queues (these two hold no bytes, only poisoned units),
from 2^20 on the lstore images of programs (log 24). -/
def spaceKey (sp a : Nat) : Nat := sp * 2 ^ 64 + a

def dieBytes : Nat := 0x1800000000

/-- The die-local address of an interleaved module address (R111). -/
def uninterleave (a : Nat) : Nat :=
  let b := (a - 0x10000000000) / 4096
  (b % 8) * dieBytes + (b / 8 * 4096 + a % 4096)

def inLocalView (a : Nat) : Bool := decide (a < 0xC000000000)
def inInterleaved (a : Nat) : Bool := decide (0x10000000000 ≤ a) && decide (a < 0x1C000000000)
def inHbm (a : Nat) : Bool := inLocalView a || inInterleaved a
def inHost (a : Nat) : Bool := decide (0x80000000000 ≤ a) && decide (a < 0x100000000000)
def inBell (a : Nat) : Bool := decide (0xC000000000 ≤ a) && decide (a < 0xC000008000)

/-- A module address in none of the regions of R110. -/
def reservedMa (a : Nat) : Bool := !(inHbm a || inHost a || inBell a)

/-- Both views of HBM reach the same bytes (R111). -/
def canonMa (a : Nat) : Nat := if inInterleaved a then uninterleave a else a

/-- The key of a byte of the module itself, by module address. -/
def maKey (a : Nat) : Nat := if inHost a then spaceKey 1 (a - 0x80000000000) else spaceKey 0 (canonMa a)

/-- The key of the lstore image of the program that a partition enters at an address: its length in 8 bytes, then its bytes. Each
has a space of its own (log 24). -/
def imageKey (part entry : Nat) : Nat := spaceKey (2 ^ 20 + part * 2 ^ 56 + entry) 0

/-- The key of a byte of another module. -/
def remoteKey (dev a : Nat) : Nat := spaceKey 9 (dev * 2 ^ 44 + canonMa a)

/-- The virtual die that homes an HBM module address (R110, R111). -/
def homeDie (a : Nat) : Nat := canonMa a / dieBytes

def lsKey (core off : Nat) : Nat := spaceKey 2 (core * 0x40000 + off)
def abKey (clu off : Nat) : Nat := spaceKey 3 (clu * 0x200000 + off)
def wbKey (clu off : Nat) : Nat := spaceKey 4 (clu * 0x200000 + off)
def acbKey (clu off : Nat) : Nat := spaceKey 5 (clu * 0x100000 + off)
def mdmKey (clu off : Nat) : Nat := spaceKey 6 (clu * 0x10000 + off)
def latchKey (clu off : Nat) : Nat := spaceKey 7 (clu * 0x8000 + off)
def latchInKey (clu off : Nat) : Nat := spaceKey 8 (clu * 0x8000 + off)
/-- The register file of a core, a thread's registers each 0x4000 bytes on, laid out as in a full frame; the entries of a cluster's
job queue, one 16-byte unit each (log 75). -/
def regFileKey (core off : Nat) : Nat := spaceKey 14 (core * 0x10000 + off)
def jobKey (clu idx : Nat) : Nat := spaceKey 15 (clu * 0x400 + 16 * idx)

/-! Full/empty words (R119) and poisoned units (R464). -/

/-- The keys of the aligned 32-bit words that hold a byte of a range. -/
def wordsOf (k n : Nat) : List Nat :=
  if n = 0 then [] else (List.range ((k + n - 1) / 4 - k / 4 + 1)).map (fun i => (k / 4 + i) * 4)

/-- The keys of the 16-byte units that hold a byte of a range. -/
def unitsOf (k n : Nat) : List Nat :=
  if n = 0 then [] else (List.range ((k + n - 1) / 16 - k / 16 + 1)).map (fun i => (k / 16 + i) * 16)

/-- Insert into a rising list of keys. -/
def insKey (k : Nat) : List Nat → List Nat
  | [] => [k]
  | a :: r => if k < a then k :: a :: r else if k = a then a :: r else a :: insKey k r

def Mem.setFull (m : Mem) (k n : Nat) : Mem := { m with empty := m.empty.filter (fun w => !decide (k < w + 4 ∧ w < k + n)) }
def Mem.setEmpty (m : Mem) (k n : Nat) : Mem := { m with empty := (wordsOf k n).foldr insKey m.empty }
def Mem.allFull (m : Mem) (k n : Nat) : Bool := n == 0 || !m.empty.any (fun w => decide (k < w + 4 ∧ w < k + n))

/-- Write bytes; a store that covers a whole unit clears its poison (R464). -/
def Mem.put (m : Mem) (k n v : Nat) : Mem :=
  { m with cells := cellsSet m.cells k n v, poison := m.poison.filter (fun u => !decide (k ≤ u.1 ∧ u.1 + 16 ≤ k + n)) }

/-- Write bytes and leave what is poisoned so: the bytes that a level of memory shows change, not the unit. -/
def Mem.over (m : Mem) (k n v : Nat) : Mem := { m with cells := cellsSet m.cells k n v }

/-- A unit holds no value (R464). -/
def Mem.spoil (m : Mem) (u d : Nat) : Mem := { m with poison := m.poison.filter (fun x => x.1 != u) ++ [(u, d)] }
def Mem.get (m : Mem) (k n : Nat) : Nat := cellsLE m.cells k n
def Mem.poisoned (m : Mem) (k n : Nat) : Bool := n != 0 && m.poison.any (fun u => decide (k < u.1 + 16 ∧ u.1 < k + n))
/-- The detail of 0x71 for a range: that of its first poisoned unit (R465). -/
def Mem.eccAt (m : Mem) (k n : Nat) : Nat := match m.poison.find? (fun u => decide (k < u.1 + 16 ∧ u.1 < k + n)) with | some u => u.2 | none => 0

end Sys2Proof.Machine
end

