-- ==== Sys2Proof/Machine/Gen.lean ====
section
/-! DEFINITION. The random generator of a thread (R178-R180). -/
namespace Sys2Proof.Machine
open Sys2Proof

/-- One step of the generator state (a, b) (R178). -/
def genStep (g : Word × Word) : Word × Word :=
  let t := g.1 ^^^ (g.1 <<< 23)
  (g.2, t ^^^ (t >>> 17) ^^^ g.2 ^^^ (g.2 >>> 26))

/-- The output of a step, from the state after it (R178). -/
def genOut (g : Word × Word) : Word := g.1 + g.2

/-- `n` steps. -/
def genSteps : Nat → Word × Word → Word × Word
  | 0, g => g
  | n + 1, g => genStep (genSteps n g)

/-- The outputs of `n` steps as one number: output k in bits [64k+63:64k], so that 32-bit draw k lies in
bits [32k+31:32k], the low half of a step first (R178). -/
def genDraws : Nat → Word × Word → Nat
  | 0, _ => 0
  | n + 1, g => genDraws n g + (genOut (genSteps (n + 1) g)).toNat * 2 ^ (64 * n)

/-- As `genDraws`, in one pass: the draws and the state after them. -/
def genRun : Nat → Nat → Word × Word → Nat → Nat × (Word × Word)
  | 0, _, g, acc => (acc, g)
  | n + 1, k, g, acc =>
    let g' := genStep g
    genRun n (k + 1) g' (acc + (genOut g').toNat * 2 ^ (64 * k))

/-- 32-bit draw k. -/
def draw (ds k : Nat) : Nat := ds / 2 ^ (32 * k) % 2 ^ 32

/-- How many steps `n` 32-bit draws take: one for every two (R180). -/
def drawSteps (n : Nat) : Nat := (n + 1) / 2

/-- A state of zero in both halves is replaced by (1, 0) (R179, R329). -/
def genSeed (a b : Word) : Word × Word := if a = 0 ∧ b = 0 then (1, 0) else (a, b)

/-! The jump of R179, as polynomials over two elements: bit i is the coefficient of x^i. -/

/-- The characteristic polynomial of `genStep`, of degree 128. -/
def jumpMod : Nat := 0x101f9f801f6fd0098bd82fd40e01730f9

/-- x^(2^64) modulo `jumpMod`: the jump polynomial of 2^64 steps. -/
def jumpUnit : Nat := 0xc44f35946fef49c68c405782bca686ad

/-- The product of two polynomials modulo `jumpMod`, by the bits of the second. -/
def polyMul : Nat → Nat → Nat → Nat → Nat
  | 0, _, _, acc => acc
  | n + 1, x, y, acc =>
    let x2 := 2 * x
    polyMul n (if x2.testBit 128 then x2 ^^^ jumpMod else x2) (y / 2) (if y % 2 = 1 then acc ^^^ x else acc)

/-- `x` to the power of the low `n` bits of `k`. -/
def polyPow : Nat → Nat → Nat → Nat
  | 0, _, _ => 1
  | n + 1, x, k =>
    let r := polyPow n (polyMul 128 x x 0) (k / 2)
    if k % 2 = 1 then polyMul 128 r x 0 else r

/-- The state that a polynomial in the step gives. -/
def polyApply : Nat → Nat → Word × Word → Word × Word → Word × Word
  | 0, _, _, acc => acc
  | n + 1, p, g, acc => polyApply n (p / 2) (genStep g) (if p % 2 = 1 then (acc.1 ^^^ g.1, acc.2 ^^^ g.2) else acc)

/-- The state advanced by exactly 2^64 × n steps, for n below 2^32 (R179). -/
def genJump (n : Nat) (g : Word × Word) : Word × Word := polyApply 128 (polyPow 32 jumpUnit n) g (0, 0)

end Sys2Proof.Machine
end

