-- ==== Sys2Proof/Machine/Regs.lean ====
section
/-! DEFINITION. Access to the parts of the state: tables, threads and their numbers, registers, handles,
memory-mapped registers, the agenda of events, effective cycles. -/
namespace Sys2Proof.Machine
open Sys2Proof

/-! Tables. -/

def tabGet {α : Type} (d : α) : Tab α → Nat → α
  | [], _ => d
  | c :: r, k => if c.1 = k then c.2 else tabGet d r k

def tabSet {α : Type} (k : Nat) (v : α) : Tab α → Tab α
  | [] => [(k, v)]
  | c :: r => if k < c.1 then (k, v) :: c :: r else if k = c.1 then (k, v) :: r else c :: tabSet k v r

def tabDel {α : Type} (k : Nat) (t : Tab α) : Tab α := t.filter (fun c => c.1 != k)

/-! Numbers of places (R5). -/

def thCore (t : Nat) : Nat := t / 4
def thClu (t : Nat) : Nat := t / 32
def thDie (t : Nat) : Nat := t / 512
/-- Cluster in die, core in die, thread in core. -/
def thCluIn (t : Nat) : Nat := t / 32 % 16
def thCoreIn (t : Nat) : Nat := t / 4 % 128
def thIn (t : Nat) : Nat := t % 4
/-- The module-wide rope of a module cluster (R7). -/
def cluRope (c : Nat) : Nat := c / 4

/-! Threads. -/

def State.getT (s : State) (n : Nat) : Thread := if n = s.cur then s.thr else tabGet Thread.reset s.rest n
def State.setT (s : State) (n : Nat) (t : Thread) : State :=
  if n = s.cur then { s with thr := t } else { s with rest := tabSet n t s.rest }
def State.modT (s : State) (n : Nat) (f : Thread → Thread) : State := s.setT n (f (s.getT n))

/-- Make thread `n` the one that the instruction constructors act on. -/
def State.focus (s : State) (n : Nat) : State :=
  if n = s.cur then s else { s with cur := n, thr := tabGet Thread.reset s.rest n, rest := tabDel n (tabSet s.cur s.thr s.rest) }

def State.core (s : State) (n : Nat) : CoreSt := tabGet CoreSt.reset s.cores n
def State.setCore (s : State) (n : Nat) (c : CoreSt) : State := { s with cores := tabSet n c s.cores }
def State.clu (s : State) (n : Nat) : CluSt := tabGet CluSt.reset s.clus n
def State.setClu (s : State) (n : Nat) (c : CluSt) : State := { s with clus := tabSet n c s.clus }

/-- The module threads that hold a record. -/
def State.holders (s : State) : List Nat :=
  (if s.thr.rcd.isSome then [s.cur] else []) ++ (s.rest.filter (fun c => c.2.rcd.isSome && c.1 != s.cur)).map (·.1)

/-! The agenda (log 2): a stable order by due cycle. -/

def agendaIns (d : Nat) (e : Event) : List (Nat × Event) → List (Nat × Event)
  | [] => [(d, e)]
  | c :: r => if d < c.1 then (d, e) :: c :: r else c :: agendaIns d e r

/-- The master-clock count that programs and the front end see: it stands still from WRITEBACK to REPLAY of bivouac
(R199, R416). -/
def countStops (biv : Nat) : Bool := decide (2 ≤ biv) && decide (biv ≤ 8)
def State.count (s : State) : Nat :=
  if countStops ((tabGet (0 : Word) s.plat.bar2 0x4100).toNat % 16) then s.plat.bivAt else s.clock - s.plat.asleepFor

/-- An event comes due `dt` master-clock cycles from now. -/
def State.after (s : State) (dt : Nat) (e : Event) : State := { s with agenda := agendaIns (s.clock + dt) e s.agenda }

/-- One free value (log 10). -/
def State.freeWord (s : State) : Word × State := (Config.freeWord s.free, { s with free := s.free + 1 })

/-! Scalar, vector and predicate registers and handles of the focused thread (R194). -/

def Regs.getS (r : Regs) (n : BitVec 5) : Word := if n = 0 then 0 else r.s.get ⟨n.toNat, n.isLt⟩
def Regs.setS (r : Regs) (n : BitVec 5) (x : Word) : Regs := if n = 0 then r else { r with s := r.s.set n.toNat x n.isLt }
/-- Vector 31 is `lat`. -/
def Regs.getV (r : Regs) (n : BitVec 5) : Vec := r.v.get ⟨n.toNat, n.isLt⟩
def Regs.setV (r : Regs) (n : BitVec 5) (x : Vec) : Regs := { r with v := r.v.set n.toNat x n.isLt }
/-- An arithmetic instruction writes its destination and `lat` (R195). -/
def Regs.setVL (r : Regs) (n : BitVec 5) (x : Vec) : Regs := (r.setV n x).setV 31 x
def Regs.getP (r : Regs) (n : BitVec 3) : Pred := if n = 0 then BitVec.allOnes 256 else r.p.get ⟨n.toNat, n.isLt⟩
def Regs.setP (r : Regs) (n : BitVec 3) (x : Pred) : Regs := if n = 0 then r else { r with p := r.p.set n.toNat x n.isLt }
def Regs.getH (r : Regs) (n : BitVec 4) : Handle := r.h.get ⟨n.toNat, n.isLt⟩
def Regs.setH (r : Regs) (n : BitVec 4) (x : Handle) : Regs := { r with h := r.h.set n.toNat x n.isLt }

def State.modR (s : State) (f : Regs → Regs) : State := { s with thr := { s.thr with r := f s.thr.r } }
def State.getS (s : State) (n : BitVec 5) : Word := s.thr.r.getS n
def State.setS (s : State) (n : BitVec 5) (x : Word) : State := s.modR (·.setS n x)
def State.getV (s : State) (n : BitVec 5) : Vec := s.thr.r.getV n
def State.setV (s : State) (n : BitVec 5) (x : Vec) : State := s.modR (·.setV n x)
def State.setVL (s : State) (n : BitVec 5) (x : Vec) : State := s.modR (·.setVL n x)
def State.getP (s : State) (n : BitVec 3) : Pred := s.thr.r.getP n
def State.setP (s : State) (n : BitVec 3) (x : Pred) : State := s.modR (·.setP n x)
def State.getH (s : State) (n : BitVec 4) : Handle := s.thr.r.getH n
def State.setH (s : State) (n : BitVec 4) (x : Handle) : State := s.modR (·.setH n x)

/-- The generator (R178). -/
def State.gen (s : State) : Word × Word := (s.thr.r.genA, s.thr.r.genB)
def State.setGen (s : State) (g : Word × Word) : State := s.modR (fun r => { r with genA := g.1, genB := g.2 })

/-- `n` 32-bit draws of the focused thread (R178, R180). -/
def State.draws (s : State) (n : Nat) : Nat × State :=
  let d := genRun (drawSteps n) 0 s.gen 0
  (d.1, s.setGen d.2)

def State.modI (s : State) (f : IssueSt → IssueSt) : State := { s with thr := { s.thr with i := f s.thr.i } }
def State.modY (s : State) (f : SysRegs → SysRegs) : State := { s with thr := { s.thr with y := f s.thr.y } }
def State.modQ (s : State) (f : Search → Search) : State := { s with thr := { s.thr with q := f s.thr.q } }
def State.setNext (s : State) (a : Word) : State := { s with thr := { s.thr with npc := a } }

/-- A window control word (R114); window 0 is raw. -/
def State.win (s : State) (w : Nat) : Word := if h : w < 8 then (if w = 0 then 0 else s.thr.y.win.get ⟨w, h⟩) else 0

/-! Facts of the record that the focused thread holds (R24). A thread with no record counts as a task. -/

def thSpec (t : Thread) : Bool := match t.rcd with | some r => r.w.spec | none => true
def thGang (t : Thread) : Bool := match t.rcd with | some r => r.w.gang | none => false
def thPart (t : Thread) : Nat := match t.rcd with | some r => r.w.part | none => 0
def thLaunch (t : Thread) : Nat := match t.rcd with | some r => r.w.launch | none => 0
def thRid (t : Thread) : Nat := match t.rcd with | some r => r.id | none => 0

def State.modRcd (s : State) (f : Rec → Rec) : State := { s with thr := { s.thr with rcd := s.thr.rcd.map f } }
def State.modW (s : State) (f : RecWords → RecWords) : State := s.modRcd (fun r => { r with w := f r.w })

/-- The local-store base (R33) and the size of the thread's own region (R33, R113). -/
def thBase (n : Nat) (t : Thread) : Nat := if thGang t then 0 else thIn n * 0x10000
def thLimit (t : Thread) : Nat := if thGang t then 0x40000 else 0x10000

def State.base (s : State) : Nat := thBase s.cur s.thr
def State.limit (s : State) : Nat := thLimit s.thr
def State.part (s : State) : Nat := thPart s.thr

def State.findLaunch (s : State) (n : Nat) : Option Launch := s.sch.launches.find? (fun l => l.num == n)
def State.launch (s : State) : Option Launch := if s.thr.rcd.isSome then s.findLaunch (thLaunch s.thr) else none

/-! Memory-mapped registers. A register that is not listed holds its reset value. -/

/-- Reset values of BAR0 other than 0 (R352, R376-R378, R385, R466). -/
def reset0 (off : Nat) : Word :=
  if 0x10000 ≤ off ∧ off < 0x11000 ∧ off % 0x40 = 8 then 0x700
  else if 0x40000 ≤ off ∧ off < 0x49000 then
    let o := off % 0x1000
    if 0x400 ≤ o ∧ o < 0x500 ∧ off < 0x48000 then
      (if o % 0x40 = 8 then 0x0320032003200320 else if o % 0x40 = 0x10 then 0x55550400
       else if o % 0x40 = 0x18 then 0xFFFFFFFFFFFFFFFF else if o % 0x40 = 0x28 then 0x640000000258 else 0)
    else if o = 0xA00 then 0x100A else 0
  else 0

/-- Reset values of BAR2 other than 0 (R399, R406). -/
def reset2 (off : Nat) : Word :=
  if off = 0x200 then 0x5000
  else if 0x8000 ≤ off ∧ off < 0xC000 ∧ off % 0x800 = 0 then 0x05EE0000
  else 0

def State.reg0 (s : State) (off : Nat) : Word := tabGet (reset0 off) s.plat.bar0 off
def State.reg2 (s : State) (off : Nat) : Word := tabGet (reset2 off) s.plat.bar2 off
def State.setReg0 (s : State) (off : Nat) (x : Word) : State :=
  { s with plat := { s.plat with bar0 := if x = reset0 off then tabDel off s.plat.bar0 else tabSet off x s.plat.bar0 } }
def State.setReg2 (s : State) (off : Nat) (x : Word) : State :=
  { s with plat := { s.plat with bar2 := if x = reset2 off then tabDel off s.plat.bar2 else tabSet off x s.plat.bar2 } }

/-- Bits [h:l] of a word, as a number; and a word with those bits replaced. -/
def fld (x : Word) (h l : Nat) : Nat := x.toNat / 2 ^ l % 2 ^ (h + 1 - l)
def putFld (x : Word) (h l v : Nat) : Word :=
  BitVec.ofNat 64 (x.toNat - fld x h l * 2 ^ l + (v % 2 ^ (h + 1 - l)) * 2 ^ l)

def sqOff (q : Nat) : Nat := 0x10000 + q * 0x40
def partOff (p : Nat) : Nat := 0x20000 + p * 0x100
def dieOff (d : Nat) : Nat := 0x40000 + d * 0x1000
/-- The registers of a module rope (R374). -/
def ropeOff (r : Nat) : Nat := dieOff (r / 4) + 0x400 + r % 4 * 0x40

/-- Ownership of a module cluster (R370). -/
def State.owns (s : State) (part clu : Nat) : Bool :=
  let w := s.reg0 (dieOff (clu / 16) + clu % 16 * 8)
  w.getLsbD 7 && fld w 5 0 == part

/-- The device number of the module (R399). -/
def State.device (s : State) : Nat := fld (s.reg2 0x200) 7 0

/-- `DIE_STAT` STATE: 0 DOWN, 1 UP, 2 HELD, 3 LOST (R475). -/
def State.dieState (s : State) (d : Nat) : Nat := fld (s.reg0 (dieOff d + 0xB00)) 1 0
def State.dieLost (s : State) (d : Nat) : Bool := s.dieState d == 3
/-- `ROPE_FLT` STATE: 0 NORMAL, 1 CLAMPED, 2 LOST (R469). -/
def State.ropeState (s : State) (r : Nat) : Nat := fld (s.reg0 (ropeOff r + 0x30)) 1 0
def State.ropeLost (s : State) (r : Nat) : Bool := s.ropeState r == 2 || s.dieLost (r / 4)

/-- The clusters of a die that a partition owns and that count in its capacity: those of a lost rope do not (R472). -/
def State.ownedOf (s : State) (part die : Nat) : List Nat :=
  ((List.range 16).map (fun c => die * 16 + c)).filter (fun c => s.owns part c && !s.ropeLost (cluRope c))

/-- `BOOT` STATE (R393) and `BIV` STATE (R413). -/
def State.bootState (s : State) : Nat := fld (s.reg2 0) 3 1
def State.bivState (s : State) : Nat := fld (s.reg2 0x4100) 3 0

/-- The whole range lies in one enabled DMA window (R392). -/
def State.hostAllowed (s : State) (hpa len : Nat) : Bool :=
  (List.range 8).any (fun n =>
    let b := s.reg2 (0x100 + n * 0x10)
    let l := s.reg2 (0x108 + n * 0x10)
    b.getLsbD 0 && decide (b.toNat / 4096 ≤ hpa / 4096) && decide ((hpa + len - 1) / 4096 ≤ l.toNat / 4096))

/-- A port (unlisted ports are at reset). -/
def State.port (s : State) (p : Nat) : PortSt := tabGet PortSt.reset s.plat.ports p
def State.setPort (s : State) (p : Nat) (x : PortSt) : State := { s with plat := { s.plat with ports := tabSet p x s.plat.ports } }
/-- The flits that carry `n` bytes of payload: 224 bytes each, and one at the least (R401, R497). -/
def flitsOf (n : Nat) : Nat := max 1 ((n + 223) / 224)

/-- The send allowance of a port, in flits (R402). -/
def State.allow (s : State) (p : Nat) : Nat := fld (s.reg2 (0x1000 + p * 8)) 55 44

/-- What would leave on a port in `n` flits waits: a cut holds the port (R411), earlier traffic of the port waits (R153, R497), or the
allowance does not cover the flits, of which a receiver has room for 512 (R402; the flits of an access leave together, log 74). -/
def State.portWaits (s : State) (p n : Nat) : Bool :=
  (s.reg2 (0x1000 + p * 8)).getLsbD 3 || decide (0 < (s.port p).owing) || !(s.port p).waiting.isEmpty || decide (s.allow p < min n 512)

/-- The port of a device, if it is up with that PEER (R403), with whether what is to leave on it in `n` flits waits. -/
def State.portOf (s : State) (dev : Nat) (n : Nat := 1) : Option (Nat × Bool) :=
  let r := s.reg2 (0x400 + dev * 8)
  let p := fld r 5 0
  let st := s.reg2 (0x1000 + p * 8)
  if r.getLsbD 8 && fld st 63 56 == dev && fld st 2 0 == 2 then some (p, s.portWaits p n) else none

/-- Flits leave on a port: its allowance falls by their number (R402). -/
def State.send (s : State) (p n : Nat) : State :=
  let x := s.port p
  (s.setReg2 (0x1000 + p * 8) (putFld (s.reg2 (0x1000 + p * 8)) 55 44 (s.allow p - n))).setPort p { x with sentSeq := x.sentSeq + n }

/-- Flits leave towards a device, whose port does not hold them back. -/
def State.spend (s : State) (dev : Nat) (n : Nat := 1) : State :=
  if dev = s.device then s
  else match s.portOf dev n with
  | some (p, false) => s.send p n
  | _ => s

/-- What the module sends a device of itself, a reply or a message between front ends: where the port holds it back, its flits leave
first once they may (R402, R411; log 74). -/
def State.owe (s : State) (dev n : Nat) : State :=
  if dev = s.device then s
  else match s.portOf dev n with
  | some (p, false) => s.send p n
  | some (p, true) => s.setPort p { s.port p with owing := (s.port p).owing + n }
  | none => s

/-- The port of a device that is not up but had that PEER (R481). -/
def State.darkPort (s : State) (dev : Nat) : Option Nat :=
  let r := s.reg2 (0x400 + dev * 8)
  let p := fld r 5 0
  let st := s.reg2 (0x1000 + p * 8)
  if r.getLsbD 8 && fld st 63 56 == dev && fld st 2 0 != 2 && (tabGet PortSt.reset s.plat.ports p).linked then some p else none

def State.rope (s : State) (r : Nat) : RopeSt := tabGet RopeSt.reset s.plat.ropes r
def State.setRope (s : State) (r : Nat) (x : RopeSt) : State := { s with plat := { s.plat with ropes := tabSet r x s.plat.ropes } }

/-- A thread's module number with the physical number of its die, as the supervisor mailbox shows it (R6). -/
def State.physTh (s : State) (n : Nat) : Nat := s.plat.dieMap.toList.getD (thDie n) 0 * 512 + n % 512

/-- A message to the supervisor mailbox of a die (8 is the cache die), 32 bytes little-endian (R436). -/
def State.mailTo (s : State) (die msg : Nat) : State := { s with plat := { s.plat with mail := s.plat.mail ++ [(die, msg)] } }

/-- An MSI-X interrupt is raised (R356, R475). -/
def State.irq (s : State) (vec : Nat) : State := { s with sch := { s.sch with irqs := s.sch.irqs ++ [vec] } }

def State.modM (s : State) (f : Mem → Mem) : State := { s with mem := f s.mem }
def State.modSch (s : State) (f : Sched → Sched) : State := { s with sch := f s.sch }
def State.modLaunch (s : State) (n : Nat) (f : Launch → Launch) : State :=
  s.modSch (fun c => { c with launches := c.launches.map (fun l => if l.num = n then f l else l) })
def State.modRec (s : State) (id : Nat) (f : Rec → Rec) : State :=
  s.modSch (fun c => { c with recs := c.recs.map (fun r => if r.id = id then f r else r) })
def State.dropRec (s : State) (id : Nat) : State := s.modSch (fun c => { c with recs := c.recs.filter (fun r => r.id != id) })
def State.findOp (s : State) (id : Nat) : Option Op := s.sch.ops.find? (fun o => o.id == id)
def State.modOp (s : State) (id : Nat) (f : Op → Op) : State :=
  s.modSch (fun c => { c with ops := c.ops.map (fun o => if o.id = id then f o else o) })
def State.dropOp (s : State) (id : Nat) : State := s.modSch (fun c => { c with ops := c.ops.filter (fun o => o.id != id) })

/-! Effective cycles (R39, R187, R380). -/

/-- Kept slots of a pattern among the master cycles below `c`. -/
def keptBelow (pat : BitVec 16) (c : Nat) : Nat :=
  c / 16 * popN 16 pat.toNat + popN (c % 16) (pat.toNat % 2 ^ (c % 16))

/-- The effective cycle number of a module cluster at a master cycle. -/
def CluSt.effAt (c : CluSt) (clock : Nat) : Nat := c.keptBase + (keptBelow c.pattern clock - keptBelow c.pattern c.patFrom)

/-- The pulse of a master cycle is kept. -/
def CluSt.kept (c : CluSt) (clock : Nat) : Bool := c.pattern.toNat.testBit (clock % 16)

/-- The master cycles in which a cluster counts `n` effective cycles more, under its present pattern. -/
def CluSt.cyclesFor (c : CluSt) (clock n : Nat) : Nat :=
  let k := max 1 (popN 16 c.pattern.toNat)
  let q := n / k * 16
  q + ((List.range 17).find? (fun m => decide (n % k ≤ c.effAt (clock + q + m) - c.effAt (clock + q)))).getD 16

/-- An event of a cluster comes due when `n` effective cycles have passed (R15, R380). Its meaning tests the effective cycle
again, since the pattern may change. -/
def State.afterEff (s : State) (clu n : Nat) (e : Event) : State := s.after ((s.clu clu).cyclesFor s.clock n) e

/-- The effective cycle of a cluster now. -/
def State.effOf (s : State) (clu : Nat) : Nat := (s.clu clu).effAt s.clock

/-- The effective cycle of the focused thread's cluster now. -/
def State.eff (s : State) : Nat := (s.clu (thClu s.cur)).effAt s.clock

end Sys2Proof.Machine
end

