-- ==== Sys2Proof/Machine/Memory.lean ====
section
/-! DEFINITION. Memory as programs see it (R106-R130, R504) and its ordering (R131-R156): translation, the
places an address reaches, the checks of R284, L2 sectors, the store buffer, releases and acquires. -/
namespace Sys2Proof.Machine
open Sys2Proof

/-- Why an instruction does not take its effect now: a condition, with the handle that it frees (R225), or a
wait at the instruction (R39). -/
inductive Stop where
  | cond (c : Cond) (frees : Option (BitVec 4))
  | wait (w : Why)
  deriving DecidableEq, Repr

abbrev Chk (α : Type) := Except Stop α

def mkCond (code detail : Nat) : Cond := { code := BitVec.ofNat 8 code, detail := BitVec.ofNat 64 detail, flags := 0 }

/-- A condition found at issue. -/
def raise {α : Type} (code detail : Nat) : Chk α := .error (.cond (mkCond code detail) none)

/-- The condition `code` unless `ok`. -/
def require (ok : Bool) (code detail : Nat) : Chk Unit := if ok then .ok () else raise code detail

/-! The caches (R18, R19, R121, R122, R126, R143, R504). A line of 128 bytes occupies a way of its set while the level holds a
sector of it, or a pin. The victim of a fill into a full set is a free choice among the lines that may go. -/

/-- Replace `n` bytes at byte `off` of a number. -/
def putBytes (x off n v : Nat) : Nat :=
  x % 256 ^ off + (v % 256 ^ n) * 256 ^ off + x / 256 ^ (off + n) * 256 ^ (off + n)

/-- `n` bytes at byte `off`. -/
def getBytes (x off n : Nat) : Nat := x / 256 ^ off % 256 ^ n

/-- The L2 slice and set of a module address, the L3 slice and set, the L1 set (R123, R504). -/
def l2Slice (a : Nat) : Nat := (a / 128 % 16) ^^^ (a / 2048 % 16)
def l2Set (a : Nat) : Nat := a / 2048 % 1024
def l3Slice (a : Nat) : Nat := (a / 128 % 128) ^^^ (a / 0x4000 % 128)
def l3Set (a : Nat) : Nat := a / 0x4000 % 4096
def l1Set (a : Nat) : Nat := a / 128 % 128

/-- Two lines share a set of the L2, or of the L3 (R504). -/
def sameSet (l3 : Bool) (x y : Nat) : Bool :=
  if l3 then l3Slice (x * 128) == l3Slice (y * 128) && l3Set (x * 128) == l3Set (y * 128)
  else l2Slice (x * 128) == l2Slice (y * 128) && l2Set (x * 128) == l2Set (y * 128)

/-- What counts the retired units of an instance (and set) of an array (R468). -/
def retKey (d a inst set : Nat) : Nat := ((d * 16 + a) * 1024 + inst) * 65536 + set

/-- The ways of a set that have not been retired (R18, R468). -/
def l1Ways (s : State) (core line : Nat) : Nat := 4 - tabGet 0 s.plat.retired (retKey (core / 128) 1 (core % 128) (l1Set (line * 128)))
def l2Ways (s : State) (die line : Nat) : Nat := 16 - tabGet 0 s.plat.retired (retKey die 8 (l2Slice (line * 128)) (l2Set (line * 128)))
def l3Ways (s : State) (line : Nat) : Nat := 16 - tabGet 0 s.plat.retired (retKey 8 12 (l3Slice (line * 128)) (l3Set (line * 128)))

/-- The lines of the sectors, of the L3's lines, and of the pins, that a test selects. -/
def l1Lines (m : Mem) (p : L1Sector → Bool) : List Nat := (m.l1.filter p).map (fun x => x.addr / 128)
def l2Lines (m : Mem) (p : Sector → Bool) : List Nat := (m.l2.filter p).map (fun x => x.addr / 128)
def l3Lines (m : Mem) (p : L3Line → Bool) : List Nat := (m.l3.filter p).map (fun x => x.line)
def pinLines (m : Mem) (p : PinEntry → Bool) : List Nat := (m.pins.filter p).map (fun x => x.line)

/-- The lines pinned at a level that share a line's set (R127). -/
def pinsInSet (s : State) (l3 : Bool) (die line : Nat) : List Nat :=
  (pinLines s.mem (fun p => p.l3 == l3 && p.die == die && sameSet l3 p.line line)).dedup

/-- The lines that occupy ways of a line's set, in the order in which they were filled. -/
def l2InSet (s : State) (die line : Nat) : List Nat :=
  (l2Lines s.mem (fun x => x.die == die && sameSet false (x.addr / 128) line) ++ pinsInSet s false die line).eraseDups
def l3InSet (s : State) (line : Nat) : List Nat := (l3Lines s.mem (fun x => sameSet true x.line line) ++ pinsInSet s true 0 line).eraseDups
def l1InSet (s : State) (core line : Nat) : List Nat := (l1Lines s.mem (fun x => x.core == core && x.addr / 128 % 128 == line % 128)).eraseDups

/-- The lines that a partition holds in a die's L2, and in the L3, pinned lines among them: CNT of `OCC_L2` and `OCC_L3`
(R126). -/
def l2Held (s : State) (die part : Nat) : List Nat :=
  (l2Lines s.mem (fun x => x.die == die && x.own / 64 == part) ++ pinLines s.mem (fun p => !p.l3 && p.die == die && p.part == part)).eraseDups
def l3Held (s : State) (part : Nat) : List Nat :=
  (l3Lines s.mem (fun x => x.own / 64 == part) ++ pinLines s.mem (fun p => p.l3 && p.part == part)).eraseDups

/-- The lines that may leave for a fill by a partition: none that is pinned; while the partition is at its soft limit, its own
where the set holds one (R126). -/
def victims (held inSet pinned : List Nat) (limit : Nat) : List Nat :=
  let free := inSet.filter (fun l => !pinned.contains l)
  let own := free.filter (fun l => held.contains l)
  if limit ≠ 0 ∧ limit ≤ held.length ∧ own ≠ [] then own else free

/-- One of a list, as the hardware chooses: a free choice (log 10). -/
def choose (s : State) (l : List Nat) : Option Nat × State :=
  match l with
  | [] => (none, s)
  | [a] => (some a, s)
  | a :: b :: r => let p := s.freeWord; (some ((a :: b :: r).getD (p.1.toNat % (r.length + 2)) a), p.2)

/-- The key slot that an owner names: KEY 0 is plaintext (R112). -/
def slotOf (own : Nat) : Nat := if own % 64 = 0 then 0 else own

/-- The keys of the eight sectors of a line. -/
def lineSectors (line : Nat) : List Nat := (List.range 8).map (fun i => maKey (line * 128) + 16 * i)

/-- The owner of the page through which a sector of a line was filled (R112). -/
def L3Line.ownAt (x : L3Line) (i : Nat) : Nat := tabGet x.own x.held i
/-- The line holds its sector i (R19). -/
def L3Line.has (x : L3Line) (i : Nat) : Bool := x.held.any (fun h => h.1 == i)

/-- The fill of an HBM sector decrypts with the slot of the filling page; one written under another slot gives a value that
the spec does not state, and its HBM contents stay behind the L3's copy (R112, log 54). -/
def fillSector (own : Nat) (p : Tab Nat × Mem) (k : Nat) : Tab Nat × Mem :=
  let was := tabGet 0 p.2.seals k
  if was = slotOf own then p
  else
    let x := p.2.get k 16
    (p.1 ++ [(k, x)], p.2.over k 16 (Config.wrongKey (slotOf own) was k x))

/-- A line leaves the L3: a dirty sector is encrypted with the slot of its page as it is written to HBM; behind a clean one the
HBM contents stand (R19, R112). -/
def sealSector (x : L3Line) (m : Mem) (i : Nat) : Mem :=
  let k := maKey (x.line * 128) + 16 * i
  if x.dirty.getLsbD i then { m with seals := if slotOf (x.ownAt i) = 0 then tabDel k m.seals else tabSet k (slotOf (x.ownAt i)) m.seals }
  else match x.hidden.find? (fun h => h.1 == k) with
    | some h => m.over k 16 h.2
    | none => m

def l3Evict (m : Mem) (x : L3Line) : Mem :=
  let m1 := if inHbm (x.line * 128) then (List.range 8).foldl (sealSector x) m else m
  { m1 with l3 := m1.l3.filter (fun y => y.line != x.line) }

/-- Room for one more line in a set of the L3. -/
def l3Room (s : State) (part line : Nat) : State :=
  if (l3InSet s line).length < l3Ways s line then s
  else
    let p := choose s (victims (l3Held s part) (l3InSet s line) (pinsInSet s true 0 line) (fld (s.reg0 (partOff part + 0x30)) 63 40))
    match p.1 with
    | none => s
    | some v => match s.mem.l3.find? (fun x => x.line == v) with
      | some x => p.2.modM (fun m => l3Evict m x)
      | none => s

/-- The sectors of a line that hold a byte of [a, a + n), as a mask. -/
def sectorMask (line a n : Nat) : BitVec 8 :=
  BitVec.ofNat 8 (packN 1 (fun i => if line * 128 + 16 * i < a + n ∧ a < line * 128 + 16 * i + 16 then 1 else 0) 8)

/-- A sector of a line is filled where the line does not hold it: the fill granule is the sector (R19). -/
def fillOne (own line : Nat) (mask : BitVec 8) (m : Mem) (i : Nat) : Mem :=
  match m.l3.find? (fun x => x.line == line) with
  | none => m
  | some x =>
    if x.has i || !mask.getLsbD i then m
    else
      let q := if inHbm (line * 128) then fillSector own ([], m) (maKey (line * 128) + 16 * i) else ([], m)
      { q.2 with l3 := q.2.l3.map (fun y => if y.line = line then { y with held := tabSet i own y.held, hidden := y.hidden ++ q.1 } else y) }

/-- The L3 has a way for the line. -/
def l3Line (s : State) (own line : Nat) : State :=
  if s.mem.l3.any (fun x => x.line == line) then s
  else (l3Room s (own / 64) line).modM (fun m => { m with l3 := m.l3 ++ [{ line := line, own := own, held := [], dirty := 0, hidden := [] }] })

/-- The L3 holds the sectors of the line that a mask names: those that are absent are filled (R19, R121, R126). -/
def l3Fill (s : State) (own line : Nat) (mask : BitVec 8) : State :=
  (l3Line s own line).modM (fun m => (List.range 8).foldl (fillOne own line mask) m)

/-- An access of `n` bytes at module address `a` performs at its L3 slice: its sectors are held there, and a write makes them
dirty (R19, R121, R123). What is no HBM line of the module and no coherent host line is not held. -/
def l3Touch (s : State) (own a n : Nat) (write : Bool) : State :=
  if n = 0 ∨ reservedMa a = true ∨ inBell a = true then s
  else (List.range ((a + n - 1) / 128 - a / 128 + 1)).foldl (fun x i =>
    let line := a / 128 + i
    let x1 := l3Fill x own line (sectorMask line a n)
    if write then x1.modM (fun m => { m with l3 := m.l3.map (fun y => if y.line = line then { y with dirty := y.dirty ||| sectorMask line a n } else y) })
    else x1) s

def l2Find (s : State) (die a : Nat) : Option Sector := s.mem.l2.find? (fun x => x.die == die && x.addr == a)
def l1Find (s : State) (core a : Nat) : Option L1Sector := s.mem.l1.find? (fun x => x.core == core && x.addr == a)

/-- Write one sector back to the L3; a poisoned one stays poisoned (R464). -/
def sectorBack (s : State) (x : Sector) : State :=
  if !x.dirty then s
  else (l3Touch s x.own x.addr 16 true).modM (fun m =>
    let m1 := m.put (maKey x.addr) 16 x.data.toNat
    match x.bad with
    | some d => m1.spoil (maKey x.addr) d
    | none => m1)

/-- A line leaves a die's L2: its dirty sectors are written back (R143). -/
def l2Evict (s : State) (die line : Nat) : State :=
  let hit (x : Sector) : Bool := x.die == die && x.addr / 128 == line
  ((s.mem.l2.filter hit).foldl sectorBack s).modM (fun m => { m with l2 := m.l2.filter (fun x => !hit x) })

/-- Room for a line in a set of a die's L2, unless the line has its way already. -/
def l2Room (s : State) (die part line : Nat) : State :=
  if (l2InSet s die line).contains line || decide ((l2InSet s die line).length < l2Ways s die line) then s
  else
    let p := choose s (victims (l2Held s die part) (l2InSet s die line) (pinsInSet s false die line) (fld (s.reg0 (partOff part + 0x30)) 39 20))
    match p.1 with
    | none => s
    | some v => l2Evict p.2 die v

/-- The sector at module address `a`, filled clean from the L3 when it is absent. -/
def l2Fill (s : State) (die own a : Nat) : Sector × State :=
  match l2Find s die a with
  | some x => (x, s)
  | none =>
    let s1 := l3Touch (l2Room s die (own / 64) (a / 128)) own a 16 false
    let x : Sector := {
      die := die, addr := a, data := BitVec.ofNat 128 (s1.mem.get (maKey a) 16), dirty := false
      bad := if s1.mem.poisoned (maKey a) 16 then some (s1.mem.eccAt (maKey a) 16) else none, own := own }
    (x, s1.modM (fun m => { m with l2 := m.l2 ++ [x] }))

/-- Read `len` bytes at module address `a` through a die's L2, over `n` sectors. -/
def l2ReadGo (die own : Nat) : Nat → State → Nat → Nat → Nat × State
  | 0, s, _, _ => (0, s)
  | n + 1, s, a, len =>
    if len = 0 then (0, s) else
      let k := min len (16 - a % 16)
      let (x, s1) := l2Fill s die own (a / 16 * 16)
      let (v, s2) := l2ReadGo die own n s1 (a + k) (len - k)
      (getBytes x.data.toNat (a % 16) k + v * 256 ^ k, s2)

def l2Read (s : State) (die own a len : Nat) : Nat × State := l2ReadGo die own (len / 16 + 2) s a len

/-- Room for a line in a set of a core's L1. Its sectors are clean and simply leave. -/
def l1Room (s : State) (core line : Nat) : State :=
  if (l1InSet s core line).contains line || decide ((l1InSet s core line).length < l1Ways s core line) then s
  else
    let p := choose s (l1InSet s core line)
    match p.1 with
    | none => s
    | some v => p.2.modM (fun m => { m with l1 := m.l1.filter (fun x => !(x.core == core && x.addr / 128 == v)) })

/-- A sector of a core's L1, filled through the die's L2 when it is absent. A core with every way of the set retired holds
none. -/
def l1Fill (s : State) (core own a : Nat) : Nat × State :=
  match l1Find s core a with
  | some x => (x.data.toNat, s)
  | none =>
    let (x, s1) := l2Fill s (core / 128) own a
    let s2 := l1Room s1 core (a / 128)
    (x.data.toNat, if l1Ways s core (a / 128) = 0 then s1 else s2.modM (fun m => { m with l1 := m.l1 ++ [{ core := core, addr := a, data := x.data }] }))

/-- Read `len` bytes at module address `a` through a core's L1. -/
def l1ReadGo (core own : Nat) : Nat → State → Nat → Nat → Nat × State
  | 0, s, _, _ => (0, s)
  | n + 1, s, a, len =>
    if len = 0 then (0, s) else
      let k := min len (16 - a % 16)
      let (x, s1) := l1Fill s core own (a / 16 * 16)
      let (v, s2) := l1ReadGo core own n s1 (a + k) (len - k)
      (getBytes x (a % 16) k + v * 256 ^ k, s2)

def l1Read (s : State) (core own a len : Nat) : Nat × State := l1ReadGo core own (len / 16 + 2) s a len

/-- A sector of a module address range. -/
def inSpan (ma n a : Nat) : Bool := decide (a < ma + n ∧ ma < a + 16)

/-- Drop the L1 copies of a range, in every core of a die but `keep` (R121). -/
def l1Drop (s : State) (die ma n : Nat) (keep : Option Nat) : State :=
  s.modM (fun m => { m with l1 := m.l1.filter (fun x => !(x.core / 128 == die && inSpan ma n x.addr && some x.core != keep)) })

/-- Write bytes into a die's L2: the sector is filled, changed and dirty (R143). A store that misses the L1 fills nothing there; an
L1 copy that is held already follows (R13; log 76). -/
def l2WriteGo (die own : Nat) : Nat → State → Nat → Nat → Nat → State
  | 0, s, _, _, _ => s
  | n + 1, s, a, len, v =>
    if len = 0 then s else
      let k := min len (16 - a % 16)
      let (x, s1) := l2Fill s die own (a / 16 * 16)
      let y : Sector := { x with data := BitVec.ofNat 128 (putBytes x.data.toNat (a % 16) k v), dirty := true, bad := if k = 16 then none else x.bad }
      let s2 := s1.modM (fun m => { m with
        l2 := m.l2.map (fun z => if z.die = die ∧ z.addr = a / 16 * 16 then y else z)
        l1 := m.l1.map (fun z => if z.core / 128 = die ∧ z.addr = a / 16 * 16 then { z with data := y.data } else z) })
      l2WriteGo die own n s2 (a + k) (len - k) (v / 256 ^ k)

/-- A write through a die's L2 by a core, or by none: the directory invalidates the L1 copies of the die's other cores, and the
writer's own copy follows (R13, R121). -/
def l2Write (s : State) (die own : Nat) (core : Option Nat) (a len v : Nat) : State :=
  l1Drop (l2WriteGo die own (len / 16 + 2) s a len v) die a len core

/-- Write back every dirty sector of a die that `p` selects, leaving it clean (R122). -/
def writeBackIf (p : Sector → Bool) (s : State) (die : Nat) : State :=
  let hit (x : Sector) : Bool := x.die == die && x.dirty && p x
  ((s.mem.l2.filter hit).foldl sectorBack s).modM (fun m => { m with l2 := m.l2.map (fun x => if hit x then { x with dirty := false } else x) })

def writeBackDie (s : State) (die : Nat) : State := writeBackIf (fun _ => true) s die

/-- Invalidate every clean sector of a die's L2 and of its L1s (R122). -/
def invalidateDie (s : State) (die : Nat) : State :=
  s.modM (fun m => { m with l2 := m.l2.filter (fun x => x.die != die || x.dirty), l1 := m.l1.filter (fun x => x.core / 128 != die) })

/-! Translation (R106-R112, R129). -/

/-- Shift and index bits of the levels 0 to 3 (R107). -/
def ptLevels : List (Nat × Nat) := [(43, 13), (30, 13), (21, 9), (16, 5)]

/-- What an access needs of the leaf (R108). -/
inductive Need where
  | load | store | atomic | fetch
  deriving DecidableEq, Repr

def Need.writes : Need → Bool
  | .store | .atomic => true
  | _ => false

def Need.granted (n : Need) (leaf : Word) : Bool :=
  match n with
  | .load => leaf.getLsbD 61
  | .store => leaf.getLsbD 60
  | .atomic => leaf.getLsbD 61 && leaf.getLsbD 60
  | .fetch => leaf.getLsbD 59

/-- A leaf's fields are well formed for its page size (R109). -/
def leafOk (e : Word) (sh : Nat) : Bool :=
  fld e 56 52 == 0 && fld e 9 0 == 0 && (fld e 51 16 * 0x10000) % 2 ^ sh == 0 &&
  !(fld e 15 10 != 0 && inHost (fld e 43 16 * 0x10000))

/-- The home of a module address is not up yet; in REDUCED that holds of every interleaved one (R396). -/
def notYetUp (s : State) (a : Nat) : Bool := s.dieState (homeDie a) == 0 || (inInterleaved a && s.bootState == 2)

/-- The walk of R107-R109 from a table's module address: the leaf and its page's bits. The walker reads at
the L3; a poisoned or lost entry stops it, and one whose home is not up yet holds it (R396, R464, R477). -/
def walkGo (s : State) (va : Nat) : List (Nat × Nat) → Nat → Bool → Chk (Word × Nat)
  | [], _, _ => raise 0x23 va
  | (sh, ib) :: rest, tbl, top =>
    if !inHbm tbl then raise 0x23 va
    else
      let ea := tbl + 8 * (va / 2 ^ sh % 2 ^ ib)
      let e := BitVec.ofNat 64 (s.mem.get (maKey ea) 8)
      if s.dieLost (homeDie ea) then raise 0x72 (homeDie ea)
      else if notYetUp s ea then .error (.wait .queue)
      else if s.mem.poisoned (maKey ea) 8 then raise 0x71 (s.mem.eccAt (maKey ea) 8)
      else if !e.getLsbD 63 then raise 0x23 va
      else if e.getLsbD 62 then (if top || !leafOk e sh then raise 0x23 va else .ok (e, sh))
      else
        match rest with
        | [] => raise 0x23 va
        | (sh2, ib2) :: r2 =>
          if fld e 61 44 != 0 || fld e 7 0 != 0 || (fld e 43 8 * 256) % 2 ^ (ib2 + 3) != 0 then raise 0x23 va
          else walkGo s va ((sh2, ib2) :: r2) (fld e 43 8 * 256) false

/-- The table entries that a walk reads. -/
def walkAddrs (s : State) (va : Nat) : List (Nat × Nat) → Nat → List Nat
  | [], _ => []
  | (sh, ib) :: rest, tbl =>
    if !inHbm tbl then []
    else
      let ea := tbl + 8 * (va / 2 ^ sh % 2 ^ ib)
      let e := BitVec.ofNat 64 (s.mem.get (maKey ea) 8)
      ea :: (if e.getLsbD 63 && !e.getLsbD 62 then walkAddrs s va rest (fld e 43 8 * 256) else [])

/-- The walk in a partition's context (R106, R351). -/
def walk (s : State) (part va : Nat) : Chk (Word × Nat) :=
  walkGo s va ptLevels (fld (s.reg0 (partOff part)) 43 16 * 0x10000) true

/-- The TLB's answer, or the walk's (R129). -/
def lookup (s : State) (clu part va : Nat) : Chk (Word × Nat) :=
  match s.mem.tlb.find? (fun e => e.clu == clu && e.part == part && va / 2 ^ e.bits == e.vpage) with
  | some e => .ok (e.leaf, e.bits)
  | none => walk s part va

/-- The walker reads the table entries at their L3 slices (R107, R464). -/
def walkTouch (s : State) (part va : Nat) : State :=
  (walkAddrs s va ptLevels (fld (s.reg0 (partOff part)) 43 16 * 0x10000)).foldl (fun x a => l3Touch x (part * 64) a 8 false) s

/-- The entries that a cluster's TLB holds at most: 256 less those that have been retired (R129, R468). -/
def tlbRoom (s : State) (clu : Nat) : Nat := 256 - tabGet 0 s.plat.retired (retKey (clu / 16) 7 (clu % 16) 0)

/-- Enter the translation of a walk; a full TLB drops its oldest (R129, log 7). -/
def tlbEnter (s : State) (clu part va : Nat) (leaf : Word) (bits : Nat) : State :=
  let e : TlbEntry := { clu := clu, part := part, vpage := va / 2 ^ bits, bits := bits, leaf := leaf }
  if s.mem.tlb.contains e then s
  else
    let mine := s.mem.tlb.filter (fun x => x.clu == clu)
    let kept := if mine.length < tlbRoom s clu then s.mem.tlb else
      match mine with
      | o :: _ => s.mem.tlb.erase o
      | [] => s.mem.tlb
    (walkTouch s part va).modM (fun m => { m with tlb := kept ++ [e] })

/-- The fabric address that a leaf gives. -/
def leafAddr (leaf : Word) (bits va : Nat) : Nat := fld leaf 51 16 * 0x10000 + va % 2 ^ bits

/-- Translate one address: the fabric address and the leaf (R107-R110). -/
def translate (s : State) (clu part va : Nat) (need : Need) : Chk (State × Nat × Word) :=
  match lookup s clu part va with
  | .error e => .error e
  | .ok (leaf, bits) =>
    let fa := leafAddr leaf bits va
    if !need.granted leaf then raise 0x24 va
    else if reservedMa (fa % 2 ^ 44) then raise 0x25 fa
    else .ok (tlbEnter s clu part va leaf bits, fa, leaf)

/-! Places. -/

/-- What an address reaches. -/
inductive Tgt where
  | ls (core off win : Nat) (own : Bool)
  | ab (clu off : Nat)
  | glob (fa : Nat) (leaf : Word)
  deriving DecidableEq, Repr

/-- The owner of a page: its partition, and the KEY of its leaf (R109, R112, R126). -/
def ownerOf (part : Nat) (leaf : Word) : Nat := part * 64 + fld leaf 15 10

/-- The route of a fabric address under its leaf (R121, R124, R125, R408). -/
def globRoute (s : State) (part fa : Nat) (leaf : Word) : Route :=
  let dev := fa / 2 ^ 44
  let ma := fa % 2 ^ 44
  if dev ≠ s.device then .remote dev
  else if inBell ma then .bell (ma % 0x8000 / 0x1000) (ma % 0x1000 / 0x100) (ma % 0x100 == 8)
  else if inHost ma && leaf.getLsbD 57 then .direct
  else if leaf.getLsbD 58 then .l3 ma (ownerOf part leaf)
  else .cached ma (ownerOf part leaf)

def tgtRoute (s : State) : Tgt → Route
  | .glob fa leaf => globRoute s s.part fa leaf
  | _ => .near

/-- The key of the first byte of a place. -/
def tgtKey (s : State) : Tgt → Nat
  | .ls core off _ _ => lsKey core off
  | .ab clu off => abKey clu off
  | .glob fa _ => if fa / 2 ^ 44 = s.device then maKey (fa % 2 ^ 44) else remoteKey (fa / 2 ^ 44) (fa % 2 ^ 44)

def tgtWin : Tgt → Nat
  | .ls _ _ w _ => w
  | _ => 0

/-- Whether an access to a fabric address can be sent at all: DMA windows, lost dies, links (R392, R396,
R403, R445, R477, R481). -/
def reachable (s : State) (fa len : Nat) : Chk Unit :=
  let dev := fa / 2 ^ 44
  let ma := fa % 2 ^ 44
  if dev ≠ s.device then require (s.portOf dev).isSome 0x73 dev
  else if inHost ma then require (s.hostAllowed (ma - 0x80000000000) len) 0x27 (ma - 0x80000000000)
  else if inHbm ma then
    (if s.dieLost (homeDie ma) then raise 0x72 (homeDie ma)
     else if notYetUp s ma then .error (.wait .queue)
     else .ok ())
  else .ok ()

/-- DIES takes the home die of an access to the module's HBM (R28). -/
def touchDie (s : State) (d : Nat) : State := s.modW (fun w => { w with dies := w.dies ||| 2 ^ d })

def touchTgt (s : State) : Tgt → State
  | .glob fa _ => if fa / 2 ^ 44 = s.device ∧ inHbm (fa % 2 ^ 44) then touchDie s (homeDie (fa % 2 ^ 44)) else s
  | _ => s

/-- The place of a near address, with the checks of region, limits and ownership (R113, R472). -/
def nearTgt (s : State) (a len : Nat) : Chk Tgt :=
  let x := a % 2 ^ 48
  let reg := a / 2 ^ 48 % 256
  let die := thDie s.cur
  if reg = 0 then
    let o := x % 0x40000
    if x / 0x40000 ≤ 7 ∧ o + len ≤ s.limit then .ok (.ls (thCore s.cur) (s.base + o) (x / 0x40000) true) else raise 0x21 a
  else if reg = 1 then
    let c := x / 0x400000
    let o := x % 0x40000
    let clu := die * 16 + c / 8
    if c ≤ 127 ∧ x % 0x400000 / 0x40000 ≤ 7 ∧ o + len ≤ 0x40000 ∧ s.owns s.part clu = true then
      (if s.ropeLost (cluRope clu) then raise 0x74 (cluRope clu)
       else .ok (.ls (die * 128 + c) o (x % 0x400000 / 0x40000) false))
    else raise 0x21 a
  else if reg = 2 then
    let k := x / 0x200000
    let clu := die * 16 + k
    if k ≤ 15 ∧ x % 0x200000 + len ≤ 0x200000 ∧ s.owns s.part clu = true then
      (if s.ropeLost (cluRope clu) then raise 0x74 (cluRope clu) else .ok (.ab clu (x % 0x200000)))
    else raise 0x21 a
  else raise 0x21 a

/-- The window that a near address names (R113); 0 for every other address. -/
def addrWin (a : Nat) : Nat :=
  if a / 2 ^ 48 = 0xFF00 then a % 2 ^ 48 / 0x40000 % 8
  else if a / 2 ^ 48 = 0xFF01 then a % 0x400000 / 0x40000 % 8
  else 0

/-- The format window in use at an address, if its word is good and its FMT is 1 to 7 (R115). -/
def addrFmt (s : State) (a : Nat) : Option Window :=
  match windowOf (s.win (addrWin a)) with
  | some (some (w, _)) => if addrWin a = 0 then none else some w
  | _ => none

/-- The check of the window control word (R115): 0x08, then 0x14. -/
def winCheck (s : State) (w : Nat) : Chk Unit :=
  if w = 0 then .ok ()
  else match windowOf (s.win w) with
    | none => raise 0x08 w
    | some none => .ok ()
    | some (some (_, good)) => require good 0x14 w

/-- The place an attempt may write: its own region (atomics through window 0 only), or for stores its
cluster's activation buffer (R54, R301). -/
def specMayWrite (s : State) (need : Need) : Tgt → Bool
  | .ls _ _ w own => own && (need != .atomic || w == 0)
  | .ab clu _ => need == .store && clu == thClu s.cur
  | .glob _ _ => false

/-- The doorbell rules of R408: a 32-bit store to offset 0 or 8 by the owning partition. -/
def bellOk (s : State) (fa len : Nat) (need : Need) : Bool :=
  let ma := fa % 2 ^ 44
  if fa / 2 ^ 44 ≠ s.device ∨ inBell ma = false then true
  else
    let cfg := s.reg2 (0x8000 + ma % 0x8000 / 0x1000 * 0x800 + 0x400 + ma % 0x1000 / 0x100 * 0x40)
    need == .store && len == 4 && (ma % 0x100 == 0 || ma % 0x100 == 8) && fld cfg 61 56 == s.part

/-- Steps 1 to 4 of R284 for one element of `len` bytes at address `a`, raw alignment `al`: the place. -/
def place (s : State) (a len al : Nat) (need : Need) : Chk (State × Tgt) := do
  require (a / 2 ^ 56 == 0 || a / 2 ^ 56 == 0xFF) 0x20 a
  if a / 2 ^ 56 = 0xFF then
    let t ← nearTgt s a len
    winCheck s (addrWin a)
    require (a % (match addrFmt s a with | some w => w.fmt.bytes | none => al) == 0) 0x22 a
    return (s, t)
  else
    require (a % al == 0) 0x22 a
    let (s', fa, leaf) ← translate s (thClu s.cur) s.part a need
    reachable s fa len
    require (bellOk s fa len need) 0x2B a
    return (touchTgt s' (.glob fa leaf), .glob fa leaf)

/-- Step 5 of R284: the write rules of an attempt (R54). -/
def specCheck (s : State) (a : Nat) (need : Need) (t : Tgt) : Chk Unit :=
  require (!(thSpec s.thr && need.writes && !specMayWrite s need t)) 0x26 a

/-- R284 for one element: the five checks in order, then the place it reaches. R109 has an attempt's writes judged under R54 before the
walk, R284 judges them in its last step: the model follows R284 (log 29). -/
def resolve (s : State) (a len al : Nat) (need : Need) : Chk (State × Tgt) := do
  let (s1, t) ← place s a len al need
  specCheck s a need t
  return (s1, t)

/-- The ranges of an access, split at every 4 KiB of a global address so that each lies in one page and one
interleave block (R107, R111); near ranges stay whole. -/
def splitGo : Nat → Nat → Nat → List (Nat × Nat)
  | 0, _, _ => []
  | n + 1, a, len =>
    if len = 0 then [] else
      let k := min len (4096 - a % 4096)
      (a, k) :: splitGo n (a + k) (len - k)

def splitRange (a len : Nat) : List (Nat × Nat) := if a / 2 ^ 56 = 0 then splitGo (len / 4096 + 2) a len else [(a, len)]

/-- A place with the number of bytes accessed there and the byte of the register or of the value it holds. -/
structure Seg where
  tgt : Tgt
  len : Nat
  pos : Nat
  addr : Nat
  deriving DecidableEq, Repr

/-- R284 for every piece (address, length, position), in order (R292). -/
def resolveAll (s : State) (al : Nat) (need : Need) : List (Nat × Nat × Nat) → Chk (State × List Seg)
  | [] => .ok (s, [])
  | (a, n, p) :: r =>
    match resolve s (a % 2 ^ 64) n al need with
    | .error e => .error e
    | .ok (s1, t) =>
      match resolveAll s1 al need r with
      | .error e => .error e
      | .ok (s2, l) => .ok (s2, { tgt := t, len := n, pos := p, addr := a % 2 ^ 64 } :: l)

/-! The store buffer (R134, R135). -/

/-- The tail register of an Ethernet doorbell (R406, R408): +0x18 of the queue pair; a tail beyond the ring
is taken modulo its size. -/
def ringSize (k : Nat) : Nat := 2 ^ max k 4
def ethQOff (port q : Nat) : Nat := 0x8000 + port * 0x800 + 0x400 + q * 0x40
def setTail (s : State) (port q : Nat) (rx : Bool) (v : Nat) : State :=
  let o := ethQOff port q
  let cfg := s.reg2 o
  let p := s.reg2 (o + 0x18)
  let s1 := s.setReg2 (o + 0x18)
    (if rx then putFld p 15 0 (v % 65536 % ringSize (fld cfg 51 48)) else putFld p 47 32 (v % 65536 % ringSize (fld cfg 55 52)))
  s1.after Config.fillTime (.ethDescriptorFetch port q)

/-- Put bytes at an L3 slice, a buffer, a home or the host; set the words full or empty. -/
def putStore (s : State) (x : Store) : State :=
  if x.empties then s.modM (fun m => m.setEmpty x.key x.len)
  else s.modM (fun m => let m1 := m.put x.key x.len x.value; if x.full then m1.setFull x.key x.len else m1)

/-- A posted store leaves the buffer, and reaches its home or the host later (R154, log 9). -/
def post (s : State) (x : Store) : State :=
  let c := thCore x.th
  (s.setCore c { s.core c with posted := (s.core c).posted ++ [(s.clock + Config.fabricTime, x)] }).after Config.fabricTime (.storeDrain c)

/-- Stores that leave together towards another module, for which the decision is one (R133): posted, or waiting at a port that is
held, without allowance for their flits, or dark (R402, R411, R481); with no port they are reported to their record (R447). -/
def sendStores (s : State) (dev : Nat) (xs : List Store) : State :=
  let n := flitsOf (xs.map (fun x => x.len)).sum
  match s.portOf dev n with
  | some (p, true) => s.setPort p { s.port p with waiting := (s.port p).waiting ++ xs }
  | some (p, false) => xs.foldl post (s.send p n)
  | none =>
    match s.darkPort dev with
    | some p => s.setPort p { s.port p with waiting := (s.port p).waiting ++ xs }
    | none => xs.foldl (fun y x => y.after Config.fabricTime (.homeErrorReport x.rcd 0x73 ⟨BitVec.ofNat 64 dev, x.issued⟩)) s

/-- A store leaves the buffer. A covered one performs (R135, R142). -/
def perform (s : State) (x : Store) : State :=
  match x.route with
  | .near => putStore s x
  | .cached ma own => l2Write s (thDie x.th) own (some (thCore x.th)) ma x.len x.value
  | .l3 ma own => putStore (l3Touch s own ma x.len true) x
  | .direct => post s x
  | .bell p q rx => setTail s p q rx x.value
  | .remote dev => sendStores s dev [x]

/-- The stores of one entry of a buffer leave it, in order and together (R133): those of a chunk have one home. -/
def performAll (s : State) (l : List Store) : State :=
  match l with
  | [] => s
  | x :: r => match x.route with
    | .remote dev => sendStores s dev (x :: r)
    | _ => (x :: r).foldl perform s

/-- The stores behind the oldest that perform together with it (R133). -/
def joinedOf (l : List Store) : List Store := l.takeWhile (fun x => x.joined)
def unjoined (l : List Store) : List Store := l.dropWhile (fun x => x.joined)

/-- The oldest store of a core's buffer leaves, with those that perform together with it. -/
def drainOne (s : State) (core : Nat) : State :=
  match (s.core core).buf with
  | [] => s
  | x :: r => performAll (s.setCore core { s.core core with buf := unjoined r }) (x :: joinedOf r)

def drainN : Nat → State → Nat → State
  | 0, s, _ => s
  | n + 1, s, core => drainN n (drainOne s core) core

/-- Every buffered store of a core leaves (log 8). -/
def drainAll (s : State) (core : Nat) : State := drainN (s.core core).buf.length s core

/-- The posted stores of a core that `p` selects reach their homes, in order. -/
def landPosted (p : Nat × Store → Bool) (s : State) (core : Nat) : State :=
  let c := s.core core
  ((c.posted.filter p).map (fun x => x.2)).foldl putStore (s.setCore core { c with posted := c.posted.filter (fun x => !p x) })

/-- A thread's own earlier stores on a route reach their home, or the host, before an access of the thread that returns their
values (R153). -/
def settle (s : State) (th : Nat) (r : Route) : State := landPosted (fun x => x.2.th == th && x.2.route == r) (drainAll s (thCore th)) (thCore th)

/-- The entries of a buffer: stores that perform together are one entry (R13, R133). -/
def bufEntries (l : List Store) : Nat := (l.filter (fun x => !x.joined)).length

/-- Enter the stores of one entry of a thread; a full buffer first lets its oldest leave (R13, R134). -/
def pushEntry (s : State) (th : Nat) (xs : List Store) : State :=
  let c := thCore th
  let s1 := if bufEntries (s.core c).buf < 32 then s else drainOne s c
  (s1.setCore c { s1.core c with buf := (s1.core c).buf ++ xs }).after Config.drainTime (.storeDrain c)

def pushStore (s : State) (x : Store) : State := pushEntry s x.th [x]

def overlaps (x : Store) (k n : Nat) : Bool := decide (x.key < k + n ∧ k < x.key + x.len)

/-- The newest buffered store of the thread that overlaps a range (R134). -/
def newestOwn (s : State) (th k n : Nat) : Option Store :=
  ((s.core (thCore th)).buf.filter (fun x => x.th == th && !x.empties && overlaps x k n)).getLast?

/-- The detail of the first poisoned unit that a read of `n` bytes at a place meets (R464): of the die's own sector, where the
access is through the L2 and the sector is present, else of the home. -/
def badPlace (s : State) (die : Nat) (r : Route) (k n : Nat) : Option Nat :=
  match r with
  | .cached ma _ =>
    (unitsOf ma n).findSome? (fun a => match l2Find s die a with
      | some x => x.bad
      | none => if s.mem.poisoned (maKey a) 16 then some (s.mem.eccAt (maKey a) 16) else none)
  | _ => if s.mem.poisoned k n then some (s.mem.eccAt k n) else none

/-- Read `n` bytes at a key, at the L3, or through the L2, ignoring the store buffer. -/
def readPlace (s : State) (die : Nat) (r : Route) (k n : Nat) : Nat × State :=
  match r with
  | .cached ma own => l2Read s die own ma n
  | .l3 ma own => let s1 := l3Touch s own ma n false; (s1.mem.get k n, s1)
  | _ => (s.mem.get k n, s)

/-- The same by a core, whose L1 answers for a cached page (R13, R121). -/
def readCore (s : State) (core : Nat) (r : Route) (k n : Nat) : Nat × State :=
  match r with
  | .cached ma own => l1Read s core own ma n
  | _ => readPlace s (core / 128) r k n

/-- A load by the focused thread from a place that answers at once: forwarding from the newest store that
covers it, waiting for a store that overlaps in part (R134). -/
def loadPlace (s : State) (r : Route) (k n : Nat) : Nat × State :=
  match newestOwn s s.cur k n with
  | none => readCore s (thCore s.cur) r k n
  | some x =>
    if x.key ≤ k ∧ k + n ≤ x.key + x.len then (getBytes x.value (k - x.key) n, s)
    else readCore (drainAll s (thCore s.cur)) (thCore s.cur) r k n

/-- Loads that wait for a reply: from another module, or from the host over CXL.io. -/
def routeWaits : Route → Bool
  | .remote _ => true
  | .direct => true
  | _ => false

/-! Releases and acquires (R36, R122, R137-R139). -/

/-- A report of a record's refused store is on its way (R447). -/
def reportDue (s : State) (rid : Nat) : Bool := s.agenda.any (fun e => match e.2 with | .homeErrorReport r _ _ => r == rid | _ => false)

/-- Some earlier posted store of the thread still waits at a port, or has not reached its home, or the host where `host`; or the
report of one that was refused has not been taken (R447). -/
def waitsOut (s : State) (th : Nat) (host : Bool) : Bool :=
  ((s.getT th).rcd.isSome && reportDue s (thRid (s.getT th))) ||
  s.plat.ports.any (fun p => p.2.waiting.any (fun x => x.th == th)) ||
    (s.core (thCore th)).posted.any (fun x => x.2.th == th && (host || x.2.route != .direct))

/-- The release of R138 by a thread: its stores leave the buffer; at `.mod` and wider the die's dirty sectors are
written back. -/
def release (s : State) (th : Nat) (sc : Scope) : State :=
  let s1 := drainAll s (thCore th)
  if sc.wide then writeBackDie s1 (thDie th) else s1

/-- A release at `.fab` waits for posted stores to other modules, one at `.sys` also for direct host writes (R138, R411). -/
def releaseWaits (s : State) (th : Nat) (sc : Scope) : Bool :=
  decide (4 ≤ sc.num) && waitsOut (drainAll s (thCore th)) th (decide (5 ≤ sc.num))

/-- The acquire of R139 by a thread. -/
def acquire (s : State) (th : Nat) (sc : Scope) : State := if sc.wide then invalidateDie s (thDie th) else s

end Sys2Proof.Machine
end

