-- ==== Sys2Proof/Machine/Ops.lean ====
section
/-! DEFINITION. The named operations of a thread: accesses by the module to virtual memory, frames and live
maps, taking a condition and returning from it, parking, handles, write-back, the search header and the
trail. -/
namespace Sys2Proof.Machine
open Sys2Proof

/-! The module's own accesses to virtual memory: frames, tables, records. They act at the home; the die's
own sectors of the range are first written back and dropped (R36). -/

def flushSpan (s : State) (die ma n : Nat) : State :=
  let s1 := l1Drop (writeBackIf (fun x => inSpan ma n x.addr) s die) die ma n none
  s1.modM (fun m => { m with l2 := m.l2.filter (fun x => !(x.die == die && inSpan ma n x.addr)) })

/-! The host's own lines (R121, R125, R155). -/

/-- The sectors of a coherent host line (R121, R125). -/
def hostAddr64 (hpa a : Nat) : Bool := inHost a && (a - 0x80000000000) / 64 == hpa / 64
def hostLine (hpa : Nat) (x : Sector) : Bool := hostAddr64 hpa x.addr

/-- Every copy of a coherent host line in the caches. -/
def dropHostLine (hpa : Nat) (m : Mem) : Mem :=
  { m with
    l1 := m.l1.filter (fun x => !hostAddr64 hpa x.addr), l2 := m.l2.filter (fun x => !hostLine hpa x)
    l3 := m.l3.filter (fun x => x.line != (0x80000000000 + hpa) / 128) }

/-- What the module wrote to a host line reaches the host; on an invalidation the module gives its copies up. -/
def snoop (s : State) (hpa : Nat) (invalidate : Bool) : State :=
  let s1 := (List.range 8).foldl (writeBackIf (hostLine hpa)) s
  if invalidate then s1.modM (dropHostLine hpa) else s1

/-- The host, or firmware through CXL.io, writes to host memory: the host takes the lines from the module first (R125, R155). -/
def hostWrite (s : State) (w : HostWrite) : State :=
  if w.len = 0 ∨ 2 ^ 43 < w.addr + w.len then s
  else
    let s1 := (List.range ((w.addr + w.len - 1) / 64 - w.addr / 64 + 1)).foldl (fun x i => snoop x ((w.addr / 64 + i) * 64) true) s
    s1.modM (fun m => m.put (spaceKey 1 w.addr) w.len w.value)

/-- One piece of a range: the place, with the checks of the walk and of the home. -/
def vmPlace (s : State) (clu part va n : Nat) (need : Need) : Chk (State × Nat) := do
  require (va / 2 ^ 56 == 0) 0x20 va
  let (leaf, bits) ← lookup s clu part va
  require (need.granted leaf) 0x24 va
  let fa := leafAddr leaf bits va
  require (!reservedMa (fa % 2 ^ 44)) 0x25 fa
  reachable s fa n
  let k := tgtKey s (.glob fa leaf)
  let s1 := if fa / 2 ^ 44 = s.device then l3Touch (flushSpan s (clu / 16) (fa % 2 ^ 44) n) (ownerOf part leaf) (fa % 2 ^ 44) n need.writes else s
  require (need.writes || !s1.mem.poisoned k n) 0x71 (s1.mem.eccAt k n)
  return (s1, k)

def vmReadGo (clu part : Nat) : List (Nat × Nat) → State → Chk (Nat × State)
  | [], s => .ok (0, s)
  | (a, n) :: r, s => do
    let (s1, k) ← vmPlace s clu part a n .load
    let (v, s2) ← vmReadGo clu part r s1
    return (s1.mem.get k n + v * 256 ^ n, s2)

/-- Read `n` bytes of virtual memory in a partition's context. -/
def vmRead (s : State) (clu part va n : Nat) : Chk (Nat × State) := vmReadGo clu part (splitRange va n) s

def vmWriteGo (clu part : Nat) : List (Nat × Nat) → State → Nat → Chk State
  | [], s, _ => .ok s
  | (a, n) :: r, s, v => do
    let (s1, k) ← vmPlace s clu part a n .store
    vmWriteGo clu part r (s1.modM (·.put k n (v % 256 ^ n))) (v / 256 ^ n)

/-- Write the low `n` bytes of `v` to virtual memory in a partition's context. -/
def vmWrite (s : State) (clu part va n v : Nat) : Chk State := vmWriteGo clu part (splitRange va n) s v

/-! Records (R24, R29). -/

/-- Bytes 0 to 55 of a record. -/
def recImage (w : RecWords) (base : Option (BitVec 32)) : Nat :=
  let b (x : Bool) (k : Nat) : Nat := if x then 2 ^ k else 0
  let w0 := b w.fullf 61 + b w.spec 60 + b w.srch 59 + b w.waith 58 + b w.runnable 57 + b w.running 56 + w.pc.toNat % 2 ^ 56
  let w2 := b w.gang 62 + b w.thief 61 + b w.backup 60 + w.pweight % 16 * 2 ^ 56 + w.cls % 64 * 2 ^ 48 + w.attempt % 65536 * 2 ^ 32 + w.task % 2 ^ 32
  let w3 := (match base with | some v => v.toNat % 65536 | none => 0) * 2 ^ 48 + w.tile % 2 ^ 48
  let w4 := w.start % 65536 * 2 ^ 48 + w.work % 2 ^ 48
  let bound := match w.bound with
    | some t => (if w.fullf then thIn t * 2 ^ 48 + thDie t * 2 ^ 45 + thCoreIn t * 2 ^ 38 else 0)
    | none => 0
  let w6 := bound + w.part % 64 * 2 ^ 32 + w.dies % 256 * 2 ^ 24 + w.depth % 256 * 2 ^ 16 + w.livemap % 65536
  w0 + w.frame.toNat * 2 ^ 64 + w2 * 2 ^ 128 + w3 * 2 ^ 192 + w4 * 2 ^ 256 + w.laddr * 2 ^ 320 + w6 * 2 ^ 384 + w.resv % 2 ^ 448

/-- CRC-16 over `n` bytes in ascending address order, most significant bit first (R29). -/
def crcBits : Nat → Nat → Nat → Nat
  | 0, _, c => c
  | n + 1, x, c =>
    let top := (c.testBit 15) != (x.testBit n)
    crcBits n x (((2 * c) % 65536) ^^^ (if top then 0x1021 else 0))

def crcBytes : Nat → Nat → Nat → Nat
  | 0, _, c => c
  | n + 1, x, c => crcBytes n (x / 256) (crcBits 8 (x % 256) c)

def recCrc (w : RecWords) (base : Option (BitVec 32)) : BitVec 16 := BitVec.ofNat 16 (crcBytes 56 (recImage w base) 0xFFFF)

/-- The 64 bytes of a record, its CRC and KEY in the last eight. -/
def Rec.image (r : Rec) : Nat := recImage r.w r.base + (r.w.key % 65536 + r.crc.toNat * 2 ^ 16) * 2 ^ 448 + r.w.resv / 2 ^ 448 * 2 ^ 448

/-- The record with its CRC written. -/
def Rec.sealed (r : Rec) : Rec := { r with crc := recCrc r.w r.base }

/-- A record that no thread holds changes: its CRC follows, and one that did not match stays as far from matching (R29, log 55). -/
def Rec.change (r : Rec) (f : Rec → Rec) : Rec :=
  let x := f r
  { x with crc := recCrc x.w x.base ^^^ (r.crc ^^^ recCrc r.w r.base) }

/-- The check of a pickup: the CRC, and the reserved fields (R29). -/
def Rec.good (r : Rec) : Bool := r.crc == recCrc r.w r.base && r.w.resv == 0

/-! Frames (R31, R37). -/

/-- The system area at 0x0280, 104 bytes. -/
def sysArea (t : Thread) : Nat :=
  let base := match t.rcd with | some r => (match r.base with | some v => v.toNat | none => 0) | none => 0
  packN 64 (fun i => if h : i + 1 < 8 then (t.y.win.get ⟨i + 1, h⟩).toNat else 0) 7
    + t.y.hand.toNat * 256 ^ 0x38 + t.y.sbchk.toNat * 256 ^ 0x40 + t.r.genA.toNat * 256 ^ 0x48 + t.r.genB.toNat * 256 ^ 0x50
    + t.y.alt.toNat * 256 ^ 0x58 + base * 256 ^ 0x60 + (if t.inHandler then 1 else 0) * 256 ^ 0x64

/-- The sixteen handle tokens, which the spec calls opaque (log 14). -/
def tokenArea (free : Nat) : Nat := packN 64 (fun i => (Config.token (free + i)).toNat) 16

def sArea (r : Regs) : Nat := packN 64 (fun i => (r.getS (BitVec.ofNat 5 i)).toNat) 32
def pArea (r : Regs) : Nat := packN 256 (fun i => (r.getP (BitVec.ofNat 3 i)).toNat) 8
def vArea (r : Regs) : Nat := packN 2048 (fun i => (r.getV (BitVec.ofNat 5 i)).toNat) 31

/-- The full frame's bytes 0x0000 to 0x22FF. -/
def fullFrame (t : Thread) (free : Nat) : Nat :=
  sArea t.r + pArea t.r * 256 ^ 0x100 + tokenArea free * 256 ^ 0x200 + sysArea t * 256 ^ 0x280
    + (t.r.getV 31).toNat * 256 ^ 0x300 + vArea t.r * 256 ^ 0x400

/-- Results in flight reach their registers: their latency is over (R187, R439). -/
def landVal (r : Regs) (p : Pend) : Regs :=
  match p.reg, p.val with
  | .s n, .s x => r.setS n x
  | .v n, .v x => r.setV n x
  | .p n, .p x => r.setP n x
  | _, _ => r

def landAll (t : Thread) : Thread := { t with r := t.i.pend.foldl landVal t.r, i := { t.i with pend := [] } }

/-- The part of a landed result that is due at an effective cycle. -/
def landDue (e : Nat) (t : Thread) : Thread :=
  { t with r := (t.i.pend.filter (fun p => decide (p.ready ≤ e))).foldl landVal t.r,
           i := { t.i with pend := t.i.pend.filter (fun p => !decide (p.ready ≤ e)) } }

/-- The 16-byte units that hold a register, by their offset in a frame (log 75). -/
def Reg.units : Reg → Nat × Nat
  | .s n => (n.toNat / 2 * 16, 16)
  | .p n => (0x100 + 32 * n.toNat, 32)
  | .v n => (if n = 31 then 0x300 else 0x400 + 256 * n.toNat, 256)

/-- The key of a register of a thread. -/
def regKey (n : Nat) (g : Reg) : Nat := regFileKey (thCore n) (thIn n * 0x4000 + g.units.1)

/-- The detail of 0x71 where a register is poisoned; s0 and p0 are constants (R32, R464). -/
def regBad (s : State) (n : Nat) (g : Reg) : Option Nat :=
  if g = .s 0 ∨ g = .p 0 ∨ s.mem.poisoned (regKey n g) g.units.2 = false then none else some (s.mem.eccAt (regKey n g) g.units.2)

/-- Registers of a thread are written whole: a vector or a predicate covers its units (R464). A scalar covers half of one. -/
def cleanRegs (s : State) (n : Nat) (gs : List Reg) : State :=
  let whole (u : Nat) (g : Reg) : Bool := (match g with | .s _ => false | _ => true) && decide (regKey n g ≤ u) && decide (u < regKey n g + g.units.2)
  if s.mem.poison.isEmpty then s else s.modM (fun m => { m with poison := m.poison.filter (fun u => !gs.any (whole u.1)) })

/-- The registers that three masks name. -/
def bitsOf (n m : Nat) : List Nat := (List.range n).filter (fun i => m.testBit i)
def maskRegs (sm vm pm : Nat) : List Reg :=
  (bitsOf 32 sm).map (fun i => Reg.s (BitVec.ofNat 5 i)) ++ (bitsOf 8 pm).map (fun i => Reg.p (BitVec.ofNat 3 i))
    ++ (bitsOf 32 vm).map (fun i => Reg.v (BitVec.ofNat 5 i))

/-- The poisoned units of a thread's registers, by their offset in a frame, with the detail of each (R464; log 75). -/
def badRegs (s : State) (n : Nat) : List (Nat × Nat) :=
  let k := regFileKey (thCore n) (thIn n * 0x4000)
  (s.mem.poison.filter (fun u => decide (k ≤ u.1) && decide (u.1 < k + 0x2300))).map (fun u => (u.1 - k, u.2))

/-- A full frame takes poisoned registers as poisoned units: no value of theirs is made up (R464; log 75). -/
def spoilFrame (clu part frame : Nat) : List (Nat × Nat) → State → Chk State
  | [], s => .ok s
  | (o, d) :: r, s => do
    let (s1, k) ← vmPlace s clu part (frame + o) 16 .store
    spoilFrame clu part frame r (s1.modM (fun m => m.spoil k d))

/-- Write thread n's full frame: FULLF is 1, the record is bound to the thread, PC is `pc` (R37). -/
def writeFull (s : State) (n : Nat) (pc : Word) : Chk State := do
  let t := landAll (s.getT n)
  match t.rcd with
  | none => return s.setT n t
  | some r =>
    let s0 ← vmWrite s (thClu n) r.w.part r.w.frame.toNat 0x2300 (fullFrame t s.free)
    let s1 ← spoilFrame (thClu n) r.w.part r.w.frame.toNat (badRegs s n) s0
    let w := { r.w with pc := pc, fullf := true, bound := some n, depth := t.q.depth }
    return { s1.setT n { t with rcd := some { r with w := w, handles := t.r.h } } with free := s1.free + 16 }

/-! Parking (R436). -/

/-- The 32-byte fault message. -/
def parkMsg (s : State) (n : Nat) (c : Cond) (pc : Word) (byPark : Bool) : Nat :=
  let t := s.getT n
  let mask := packN 1 (fun i => if (s.getT (thCore n * 4 + i)).rcd.isSome then 1 else 0) 4
  let frame := match t.rcd with | some r => r.w.frame.toNat | none => 0
  c.code.toNat
    + ((if t.inHandler then 1 else 0) + 2 * c.flags.toNat + (if byPark then 16 else 0)) * 2 ^ 8
    + s.physTh n * 2 ^ 16
    + (thPart t + (if thSpec t then 64 else 0) + (if thGang t then 128 else 0)) * 2 ^ 32
    + mask * 2 ^ 40 + pc.toNat * 2 ^ 64 + c.detail.toNat * 2 ^ 128 + frame * 2 ^ 192

/-- Enter a condition among those found later, in the order in which their accesses issued (R430). -/
def insLater (n : Nat) (c : Cond) : List (Nat × Cond) → List (Nat × Cond)
  | [] => [(n, c)]
  | x :: r => if n < x.1 then (n, c) :: x :: r else x :: insLater n c r

/-- The record keeps what its thread has yet to take: conditions found later, and those that a `tread` watchdog left on its
scalars (R430, R455, R462). -/
def Rec.keeps (r : Rec) (i : IssueSt) : Rec := { r with later := i.later, scal := i.owed }

/-- Thread n gives up its record, which stays bound to it (R37), and no longer issues. -/
def bindRest (s : State) (n : Nat) : State :=
  let t := s.getT n
  match t.rcd with
  | none => s
  | some r =>
    let r' : Rec := { r.keeps t.i with w := { r.w with running := false, runnable := false, bound := some n }, place := .rest, handles := t.r.h }
    (s.setT n { t with rcd := none, i := IssueSt.reset }).modSch (fun c => { c with recs := c.recs ++ [r'.sealed] })

/-- A member's arrival at a barrier instance is withdrawn; an instance without arrivals is gone (R45, R461). -/
def withdraw (s : State) (num level inst rank : Nat) : State :=
  s.modLaunch num (fun l => { l with
    bars := (l.bars.map (fun b => if b.level = level ∧ b.inst = inst then { b with arrived := b.arrived.erase rank } else b)).filter (fun b => !b.arrived.isEmpty) })

/-- The arrival of thread n, if it is blocked at a `bar`, is withdrawn (R45, R444). -/
def withdrawOf (s : State) (n : Nat) : State :=
  let t := s.getT n
  match t.i.blocked, t.rcd with
  | some (.bar level inst _), some r => withdraw s r.w.launch level inst r.w.task
  | _, _ => s

/-- The fault message of a parked core is posted once none of its threads holds a record any more (R436). -/
def postPark (s : State) (core : Nat) : State :=
  let c := s.core core
  match c.message with
  | some m => if c.parked.isNone || (List.range 4).any (fun i => (s.getT (core * 4 + i)).rcd.isSome) then s
      else (s.setCore core { c with message := none }).mailTo (core / 128) m
  | none => s

/-- Another thread of a parking core writes its full frame and stops (R436), unless it is inside a `rep` unit
(R201) or awaits a reply (R430): it then stops later; and while its frame's home is not up yet, its write waits (R396). An arrival
at a barrier is withdrawn (R444). A failing frame write leaves its record without a frame (R505). -/
def bindOther (s : State) (n : Nat) : State :=
  let t := s.getT n
  if t.rcd.isNone || t.i.rep.isSome || !t.i.replies.isEmpty then s
  else
    let s0 := withdrawOf s n
    match writeFull s0 n t.pc with
    | .ok s1 => postPark (bindRest s1 n) (thCore n)
    | .error (.wait _) => s.after Config.fabricTime (.storeDrain (thCore n))
    | .error (.cond _ _) => postPark (bindRest s0 n) (thCore n)

/-- The core of the focused thread begins to park. `frame` is false where no full frame can be written (R505). -/
def startPark (s : State) (c : Cond) (pc : Word) (byPark frame : Bool) : State :=
  let n := s.cur
  let core := thCore n
  let msg := parkMsg s n c pc byPark
  let s1 := if frame then (match writeFull s n pc with | .ok x => x | .error _ => s) else s
  let lch := if s.thr.rcd.isSome then some (thLaunch s.thr) else none
  let s2 := bindRest s1 n
  let s3 := ((List.range 4).filter (fun i => core * 4 + i != n)).foldl (fun x i => bindOther x (core * 4 + i)) s2
  let s4 := postPark (s3.setCore core { s3.core core with parked := some n, parkLaunch := lch, message := some msg }) core
  { s4 with taken := some c }

/-- The thread waits at its instruction, which it will execute again (R39). -/
def block (s : State) (w : Why) : State :=
  { s with thr := { s.thr with npc := s.thr.pc, i := { s.thr.i with blocked := some w } } }

/-- The focused thread has a condition to take before its next bundle, where a repetition ends. -/
def oweCond (s : State) (c : Cond) (pc : Word) : State :=
  (s.modRcd (fun r => { r with owed := (c, pc) :: r.owed })).modI (fun i => { i with rep := none })

/-- A thread inside a `rep` unit whose core parks meets a condition of its own: it stops there, and takes it once it is picked up
again (R201, R436). -/
def stopParked (s : State) (c : Cond) (pc : Word) : State :=
  let x := oweCond s c pc
  { bindOther { x with thr := { x.thr with pc := pc, npc := pc } } s.cur with taken := some c }

/-- The home of the focused thread's frame is not up yet (R396). -/
def frameWaits (s : State) (pc : Word) : Bool := match writeFull s s.cur pc with | .error (.wait _) => true | _ => false

/-- Park the core of the focused thread. A frame whose home is not up yet holds the thread at its instruction (R396). -/
def parkCore (s : State) (c : Cond) (pc : Word) (byPark frame : Bool) : State :=
  if (s.core (thCore s.cur)).parked.isSome then stopParked s c pc
  else if frame && frameWaits s pc then block (if byPark then s else oweCond s c pc) .queue
  else startPark s c pc byPark frame

/-! Taking a condition (R429-R432, R436). -/

/-- `TakeCondition` of R431 by the focused thread. -/
def takeCondition (s : State) (c : Cond) (pc : Word) : State :=
  let hand := s.thr.y.hand
  if 0x70 ≤ c.code.toNat ∨ s.thr.inHandler = true ∨ hand = 0 then parkCore s c pc false true
  else if hand.toNat % 8 ≠ 0 then parkCore s { c with code := 0x1A, detail := hand } pc false true
  else if (s.core (thCore s.cur)).parked.isSome then stopParked s c pc
  else match writeFull s s.cur pc with
    | .error (.cond d _) => parkCore s d pc false false
    | .error (.wait _) => block (oweCond s c pc) .queue
    | .ok s1 =>
      let t := s1.thr
      let r := ((t.r.setS 1 (BitVec.ofNat 64 (c.flags.toNat * 256 + c.code.toNat))).setS 2 pc).setS 3 c.detail
      { s1 with
        thr := { t with r := r, inHandler := true, npc := hand, i := { t.i with rep := none, blocked := none, notBefore := 0 } }
        taken := some c }

/-- The PC that a condition found at issue reports: the bundle's, or that of the `rep` (R201, R430). -/
def faultPc (s : State) : Word := match s.thr.i.rep with | some r => r.pc | none => s.thr.pc

/-- The instruction that finds a handle done acquires at its operation's scope (R149, R225). -/
def handleAcquire (s : State) : Handle → State
  | .done _ _ (some sc) _ => acquire s s.cur sc
  | _ => s

/-- A handle whose recorded condition is raised becomes free, and nothing of it stays on a scalar (R225, R455). -/
def freeHandle (s : State) : Option (BitVec 4) → State
  | some h => ((handleAcquire s (s.getH h)).setH h .free).modI (fun i => { i with owed := i.owed.filter (fun p => p.2.1 != h.toNat) })
  | none => s

/-- The outcome of an instruction: its effect, or the condition it takes, or its wait. -/
def finish (s : State) (r : Chk State) : Host.Outcome State Fault Refusal :=
  match r with
  | .ok s' => .next s'
  | .error (.cond c f) => .next (takeCondition (freeHandle s f) c (faultPc s))
  | .error (.wait w) => .next (block s w)

/-- The base version, where the record of the focused thread has none: read again at each pickup and at each `hret s2`, or a
condition before the next bundle (R60). A descriptor that must be waited for holds the reader. -/
def readBase (s : State) (r : Rec) (pc : Word) : Chk (Rec × State) :=
  if r.w.gang || r.base.isSome then .ok (r, s)
  else match vmRead s (thClu s.cur) r.w.part r.w.tile 16 with
    | .ok (v, s1) => .ok ({ r with base := some (BitVec.ofNat 32 (getBytes v 12 4)) }, invalidateDie s1 (thDie s.cur))
    | .error (.wait w) => .error (.wait w)
    | .error (.cond c _) => .ok ({ r with owed := ({ code := c.code, detail := BitVec.ofNat 64 r.w.tile, flags := 4 }, pc) :: r.owed }, s)

/-- A handler's return to the bundle whose condition it took reads a missing base version again (R60). -/
def rereadBase (s : State) (target : Word) : Chk State :=
  match s.thr.rcd with
  | none => .ok s
  | some r => if target ≠ r.w.pc then .ok s else (readBase s r target).map (fun p => { p.2 with thr := { p.2.thr with rcd := some p.1 } })

/-- The return from a handler (R433). -/
def handlerReturn (s : State) (target : Word) : Chk State := do
  require s.thr.inHandler 0x18 s.thr.pc.toNat
  require (target.toNat % 8 == 0) 0x28 target.toNat
  let (v, s1) ← match s.thr.rcd with
    | some r => vmRead s (thClu s.cur) r.w.part (r.w.frame.toNat + 8) 24
    | none => pure (0, s)
  let r := ((s1.thr.r.setS 1 (BitVec.ofNat 64 (getBytes v 0 8))).setS 2 (BitVec.ofNat 64 (getBytes v 8 8))).setS 3 (BitVec.ofNat 64 (getBytes v 16 8))
  let s2 := (← rereadBase s1 target).modW (fun w => { w with fullf := false, bound := none })
  return { s2 with thr := { s2.thr with r := r, inHandler := false, npc := target } }

/-! Handles (R224, R225). -/

/-- Steps 1 to 4 of R225 for an instruction that produces into, waits on, reads or `fput`s a handle. A won handle raises 0x31
by step 1, where R66 says that its reading returns WON (log 59). -/
def useHandle (s : State) (h : BitVec 4) : Chk State :=
  match s.getH h with
  | .free => .ok s
  | .pending _ => .error (.wait (.handle h))
  | .done _ _ _ true => raise 0x31 h.toNat
  | .done _ (some c) _ false => .error (.cond { c with flags := c.flags ||| 2 } (some h))
  | .done _ none sc false => .ok (match sc with | some x => acquire s s.cur x | none => s)

/-- Some handle of the thread is won (R66). -/
def isWon : Handle → Bool
  | .done _ _ _ w => w
  | _ => false

def anyWon (r : Regs) : Bool := r.h.toList.any isWon

/-- The number of the first won handle, the detail of 0x31 (R429). -/
def firstWon (r : Regs) : Nat := (r.h.toList.findIdx? isWon).getD 0

/-- A fresh operation in flight for a handle of the focused thread. -/
def addOp (s : State) (clu : Nat) (sc : Scope) (k : OpKind) : Nat × State :=
  let o : Op := { id := s.sch.nextId, th := s.cur, rcd := thRid s.thr, clu := clu, scope := sc, part := s.part, spec := thSpec s.thr, k := k }
  (s.sch.nextId, s.modSch (fun c => { c with ops := c.ops ++ [o], nextId := c.nextId + 1 }))

/-- The handles of a vector in which the pending operation `op` becomes `x`. -/
def fillHandle (op : Nat) (x : Handle) (h : Vector Handle 16) : Vector Handle 16 :=
  h.map (fun y => match y with | .pending o => if o = op then x else y | _ => y)

/-- Whether a handle that the mask names is pending (R35). -/
def waitsOn (mask : BitVec 16) (h : Vector Handle 16) : Bool :=
  (List.range 16).any (fun i => mask.getLsbD i && (match h.toList[i]? with | some (.pending _) => true | _ => false))

/-! Slots, regions and waiting clusters (R34, R37, R56, R366, R367). -/

/-- The record in a shadow slot. -/
def slotRec (s : State) (core idx : Nat) : Option Rec := s.sch.recs.find? (fun r => r.place == .slot core idx)

/-- Whether a prefetch still runs into a slot's region (R38). -/
def slotFilling (s : State) (core idx : Nat) : Bool :=
  s.sch.ops.any (fun o => match o.k with | .copy _ _ _ (.prefetch c i) => c == core && i == idx | _ => false)

def slotEmpty (s : State) (core idx : Nat) : Bool := (slotRec s core idx).isNone && !slotFilling s core idx

/-- The record still exists. -/
def recLives (s : State) (rid : Nat) : Bool := s.sch.recs.any (fun r => r.id == rid) || s.holders.any (fun n => thRid (s.getT n) == rid)

/-- A bound record holds the region of its thread; one of a gang member holds its core's whole local store (R37). -/
def boundHolds (r : Rec) (n : Nat) : Bool :=
  r.w.fullf && (match r.w.bound with | some m => m == n || (r.w.gang && thCore m == thCore n) | none => false)

/-- A gang member that runs in its handler is bound, and holds its core's whole local store until its `hret` (R37). -/
def boundHere (s : State) (n : Nat) : Bool :=
  (List.range 4).any (fun i => match (s.getT (thCore n * 4 + i)).rcd with | some r => boundHolds r n | none => false)

/-- Nothing holds a thread's region: no record on the thread, granted to it, bound to it, or prefetched into it, and
no operation of a record that has ended, which for a gang member holds its core's whole local store (R37, R56, R220, R366). -/
def regionFree (s : State) (n : Nat) : Bool :=
  (s.getT n).rcd.isNone && !boundHere s n &&
    !s.sch.recs.any (fun r => r.place == .granted n || r.region == some n || boundHolds r n) &&
    !s.sch.ops.any (fun o => (o.th == n || (!o.spec && thCore o.th == thCore n)) && !recLives s o.rcd)

/-- A core that may take a grant: not parked, not lost, on a die that is UP, while the module runs (R414, R436, R473, R478). -/
def coreOpen (s : State) (core : Nat) : Bool :=
  (s.core core).parked.isNone && !(s.core core).lost && s.dieState (core / 128) == 1 && (s.bivState ≤ 1 || s.bivState == 9)

/-- The core is reserved for a gang (R362). -/
def coreKept (s : State) (core : Nat) : Bool :=
  s.sch.launches.any (fun l => l.phase == .reserved && (match l.place with | some p => p.threads.any (fun n => thCore n == core) | none => false))

/-- The dispenser may grant to a free thread. -/
def threadFree (s : State) (n : Nat) : Bool := coreOpen s (thCore n) && !coreKept s (thCore n) && regionFree s n

/-- A thread holds no record, and none has been granted to it. -/
def threadIdle (s : State) (n : Nat) : Bool := (s.getT n).rcd.isNone && !s.sch.recs.any (fun r => r.place == .granted n)

/-- A cluster waits while it has an empty shadow slot or a free thread (R367), be its core parked or reserved. -/
def cluWaiting (s : State) (k : Nat) : Bool :=
  (List.range 8).any (fun i =>
    let c := k * 8 + i
    !(s.core c).lost && (slotEmpty s c 0 || slotEmpty s c 1 || (List.range 4).any (fun j => threadIdle s (c * 4 + j))))

/-- A change that may open a cluster to a grant: its wait time counts from now if it did not wait before (R367). -/
def opens (s : State) (k : Nat) (f : State → State) : State :=
  let s1 := f s
  if cluWaiting s k then s1 else s1.setClu k { s1.clu k with waitSince := s1.count }

/-- The time after which a record waiting for a grant rises one level (R50), and a gang gets a reservation (R362). -/
def agingTime : Nat := 2 ^ 20

/-- A record becomes runnable in the queue of its die (R35, R50, R367); a gang is placed whole by the front end (R43). -/
def enqueue (s : State) (r : Rec) : Rec × State :=
  (r.change (fun x => { x with w := { x.w with waith := false, runnable := true, running := false }, place := .queue x.die, raised := 0, since := s.count, runSince := s.count }),
    if r.w.gang then s.after Config.grantTime (.gangPlace r.w.launch)
    else (s.after Config.grantTime (.grantRecord r.die)).after agingTime (.priorityAging r.id))

/-- A record at rest becomes runnable in its die's queue once no handle it waits on is pending (R35, R367); a gang member that
has its thread already is picked up there (R218). -/
def wakeRecord (s : State) (r : Rec) : Rec × State :=
  if r.w.waith && !waitsOn r.waits r.handles then
    (match r.place with
     | .granted n => (r.change (fun x => { x with w := { x.w with waith := false, runnable := true }, runSince := s.count }), s.after Config.grantTime (.pickup n))
     | _ => enqueue s r)
  else (r, s)

/-- The token of each handle that stands for operation `op` changes in the record's frame, where a thread has written it: the
new token stands for the completion (R31, log 14). -/
def putTokens (s : State) (r : Rec) (op : Nat) : State :=
  ((List.range 16).filter (fun i => decide (r.handles.toList[i]? = some (.pending op)))).foldl (fun x i =>
    match vmWrite x (r.die * 16) r.w.part (r.w.frame.toNat + 0x200 + 8 * i) 8 (Config.token x.free).toNat with
    | .ok y => { y with free := x.free + 1 }
    | .error _ => x) s

/-- An operation completes: the handle or the token that stands for it takes its result; a thread blocked on
it goes on; a record that waits for it becomes runnable (R31, R224, R225). -/
def completeHandle (s : State) (op rcd : Nat) (x : Handle) : State :=
  match s.holders.find? (fun n => thRid (s.getT n) == rcd) with
  | some n =>
    s.modT n (fun t =>
      let hit : Bool := match t.i.blocked with
        | some (.handle h) => decide (t.r.getH h = .pending op)
        | _ => false
      { t with r := { t.r with h := fillHandle op x t.r.h }, i := { t.i with blocked := if hit then none else t.i.blocked } })
  | none =>
    match s.sch.recs.find? (fun r => r.id == rcd) with
    | none => s
    | some r =>
      let (r', s1) := wakeRecord (putTokens s r op) (r.change (fun y => { y with handles := fillHandle op x y.handles }))
      s1.modRec rcd (fun _ => r')

/-- Every thread that waits for room, a die, a port or a queue tries again. -/
def wakeQueue (s : State) : State :=
  let f (t : Thread) : Thread := if t.i.blocked = some .queue then { t with i := { t.i with blocked := none } } else t
  { s with thr := f s.thr, rest := s.rest.map (fun c => (c.1, f c.2)) }

/-! Live maps (R32, R217). -/

/-- Entry `idx` of the launch's live-map table, as 16 bytes; 0x17 beyond the table or malformed. -/
def liveMap (s : State) (idx : Nat) : Chk (Nat × State) := do
  match s.launch with
  | none => raise 0x17 idx
  | some l =>
    require (decide (idx < fld l.l[7] 48 32)) 0x17 idx
    let (v, s1) ← vmRead s (thClu s.cur) s.part (fld l.l[9] 47 0 + 16 * idx) 16
    let off := getBytes v 12 2
    let len := getBytes v 14 2
    require (getBytes v 9 1 == 0 && decide (len ≤ 2048) && decide (off + len ≤ (if thGang s.thr then 2048 else 512))) 0x17 idx
    return (v, s1)

/-- The extent of a live map in bytes: offset from the local-store base, length (R33). -/
def mapExtent (v : Nat) : Nat × Nat := (getBytes v 12 2 * 128, getBytes v 14 2 * 128)
def mapHandles (v : Nat) : BitVec 16 := BitVec.ofNat 16 (getBytes v 10 2)

/-- The search regions of `sys.srch` in bytes (R83): arena, stack and trail offsets and lengths. -/
structure Regions where
  arena : Nat
  alen : Nat
  stack : Nat
  stlen : Nat
  trail : Nat
  trlen : Nat
  deriving DecidableEq, Repr

def regionsOf (w : Word) : Regions :=
  { arena := fld w 9 0 * 64, alen := fld w 18 10 * 64, stack := fld w 28 19 * 64, stlen := fld w 38 29 * 64,
    trail := fld w 48 39 * 64, trlen := fld w 58 49 * 64 }

/-- Two regions do not overlap. -/
def apart (a n b m : Nat) : Bool := n == 0 || m == 0 || decide (a + n ≤ b) || decide (b + m ≤ a)

/-- A nonzero search word keeps the ranges of R83 and the rules of R84. -/
def srchOk (w : Word) : Bool :=
  let r := regionsOf w
  w == 0 || (fld w 63 59 == 0 && decide (r.alen ≤ 16384) && decide (64 ≤ r.stlen) && decide (r.arena + r.alen ≤ 65536) &&
    decide (r.stack + r.stlen ≤ 65536) && decide (r.trail + r.trlen ≤ 65536) &&
    apart r.arena r.alen r.stack r.stlen && apart r.arena r.alen r.trail r.trlen && apart r.stack r.stlen r.trail r.trlen)

/-- R85: at depth above 0 a suspension needs the launch's search word and an extent that covers the three
regions; else 0x42 with the depth. -/
def suspendSearch (s : State) (map : Nat) : Chk Unit :=
  if s.thr.q.depth = 0 then .ok ()
  else
    let r := regionsOf s.thr.y.srch
    let e := mapExtent map
    let cov (a n : Nat) : Bool := n == 0 || (decide (e.1 ≤ a) && decide (a + n ≤ e.1 + e.2))
    let same := match s.launch with | some l => l.l[8] == s.thr.y.srch | none => true
    require (same && cov r.arena r.alen && cov r.stack r.stlen && cov r.trail r.trlen) 0x42 s.thr.q.depth

/-! The stack header (R86). `q` is what the thread holds; the header in the local store follows it. -/

def headerBytes (q : Search) : Nat :=
  (q.depth % 256) * 2 ^ 32 + (q.trcnt % 65536) * 2 ^ 16 + q.top % 65536 + q.lineage.toNat * 2 ^ 64
    + (q.vdepth % 256 * 4096 + q.vthread % 4096) * 2 ^ 128

/-- The key of a byte of the focused thread's region. -/
def ownKey (s : State) (off : Nat) : Nat := lsKey (thCore s.cur) (s.base + off)

def writeHeader (s : State) : State :=
  if s.thr.y.srch = 0 then s else s.modM (·.put (ownKey s (regionsOf s.thr.y.srch).stack) 64 (headerBytes s.thr.q))

/-- Change the search state, the header and the record's mirror of the depth (R85). -/
def setSearch (s : State) (q : Search) : State :=
  writeHeader ((s.modQ (fun _ => q)).modW (fun w => { w with depth := q.depth, srch := decide (0 < q.depth) }))

/-- A fresh header: DEPTH 0, TRCNT 0, TOP at its reset value; the lineage stays (R84, R86). -/
def freshSearch (s : State) : State :=
  setSearch s { s.thr.q with depth := 0, trcnt := 0, top := if s.thr.y.srch = 0 then 0 else (regionsOf s.thr.y.srch).stack + 64 }

/-! Trailing (R87, R91, R92). -/

/-- The smallest naturally aligned unit of 1, 2, 4 or 8 bytes that covers bytes [a, b) of one chunk: its
offset and its size code. -/
def trailUnit (a b : Nat) : Nat × Nat :=
  if b ≤ a + 1 then (a, 0)
  else if a / 2 = (b - 1) / 2 then (a / 2 * 2, 1)
  else if a / 4 = (b - 1) / 4 then (a / 4 * 4, 2)
  else (a / 8 * 8, 3)

/-- The aligned 8-byte chunks that ranges [lo, hi) touch, ascending. -/
def trailChunks (l : List (Nat × Nat)) : List Nat :=
  ((l.map (fun p => (List.range ((p.2 + 7) / 8 - p.1 / 8)).map (fun i => p.1 / 8 + i))).flatten).foldr insKey []

/-- The bytes of a chunk from the first to the last that some range touches. -/
def chunkSpan (l : List (Nat × Nat)) (c : Nat) : Nat × Nat :=
  l.foldl (fun x p => if p.1 < 8 * c + 8 ∧ 8 * c < p.2 then (min x.1 (max p.1 (8 * c)), max x.2 (min p.2 (8 * c + 8))) else x) (8 * c + 8, 8 * c)

/-- One unit for each aligned 8-byte chunk that ranges touch, in ascending address order (R91). -/
def trailUnits (l : List (Nat × Nat)) : List (Nat × Nat) :=
  (trailChunks l).map (fun c => trailUnit (chunkSpan l c).1 (chunkSpan l c).2)

/-- The trail entries that writes of the focused thread to ranges (offset, length) of its own region make: one for each chunk of the
arena that the access touches; 0x43 in the stack or trail, 0x44 when the trail is full. -/
def trailPlan (s : State) (ws : List (Nat × Nat)) : Chk (List (Nat × Nat)) :=
  if s.thr.q.depth = 0 ∨ s.thr.y.srch = 0 then .ok []
  else
    let r := regionsOf s.thr.y.srch
    match ws.find? (fun w => !(apart w.1 w.2 r.stack r.stlen && apart w.1 w.2 r.trail r.trlen)) with
    | some w => raise 0x43 w.1
    | none =>
      let us := trailUnits ((ws.map (fun w => (max w.1 r.arena, min (w.1 + w.2) (r.arena + r.alen)))).filter (fun p => decide (p.1 < p.2)))
      if r.trlen / 16 < s.thr.q.trcnt + us.length then raise 0x44 s.thr.q.trcnt else .ok us

/-- Write one trail entry (R91). Buffered stores have performed, so the bytes are those of program order. -/
def trailEntry (s : State) (u : Nat × Nat) : State :=
  let r := regionsOf s.thr.y.srch
  let old := s.mem.get (ownKey s u.1) (2 ^ u.2)
  let e := u.2 * 2 ^ 30 + u.1 % 2 ^ 18 + s.thr.q.depth * 2 ^ 32 + old * 2 ^ 64
  (s.modM (·.put (ownKey s (r.trail + 16 * s.thr.q.trcnt)) 16 e)).modQ (fun q => { q with trcnt := q.trcnt + 1 })

def trailAll (s : State) (us : List (Nat × Nat)) : State :=
  if us.isEmpty then s else writeHeader (us.foldl trailEntry (drainAll s (thCore s.cur)))

/-- The offset of a place within the focused thread's region, if the place lies in it. -/
def ownOffset (s : State) : Tgt → Option Nat
  | .ls core off _ _ => if core = thCore s.cur ∧ s.base ≤ off then some (off - s.base) else none
  | _ => none

/-- The trail entries of all the pieces of a store or of an atomic together (R91). -/
def trailPlans (s : State) (l : List Seg) : Chk (List (Nat × Nat)) :=
  trailPlan s (l.filterMap (fun g => (ownOffset s g.tgt).map (fun o => (o, g.len))))

/-! Write-back (R32, R33, R35, R36). -/

/-- The pieces of the frame that a live map writes: offset, length, value; the slot of `s0` is written as zero (R31). -/
def livePieces (t : Thread) (map free : Nat) : List (Nat × Nat × Nat) :=
  let sm := getBytes map 0 4
  let vm := getBytes map 4 4
  let pm := getBytes map 8 1
  (0, 8, 0) :: ((List.range 32).filter (fun i => i != 0 && sm.testBit i)).map (fun i => (8 * i, 8, (t.r.getS (BitVec.ofNat 5 i)).toNat))
  ++ ((List.range 8).filter (fun i => pm.testBit i)).map (fun i => (0x100 + 32 * i, 32, (t.r.getP (BitVec.ofNat 3 i)).toNat))
  ++ [(0x200, 0x80, tokenArea free), (0x280, 0x80, sysArea t)]
  ++ (if vm.testBit 31 then [(0x300, 256, (t.r.getV 31).toNat)] else [])
  ++ ((List.range 31).filter (fun i => vm.testBit i)).map (fun i => (0x400 + 256 * i, 256, (t.r.getV (BitVec.ofNat 5 i)).toNat))

def writePieces (clu part frame : Nat) : List (Nat × Nat × Nat) → State → Chk State
  | [], s => .ok s
  | (o, n, v) :: r, s => do
    let s1 ← vmWrite s clu part (frame + o) n v
    writePieces clu part frame r s1

/-- Gangs that wait for a position try again (R362). -/
def retryGangs (s : State) : State :=
  (s.sch.launches.filter (fun l => l.phase == .placing || l.phase == .reserved)).foldl (fun x l => x.after Config.grantTime (.gangPlace l.num)) s

/-- The messages to a destination, a device and a thread of it, try again, in issue order. -/
def retryTo (s : State) (dest : Nat) : State :=
  let wants (o : Op) : Bool := match o.k with | .msg d _ _ => d == dest | _ => false
  (s.sch.ops.filter wants).foldl (fun x o => x.after 0 (.msgDeliver ⟨o.id, .ok⟩)) s

/-- The messages that wait for a slot of a thread of the module try again. -/
def retryMsgs (s : State) (th : Nat) : State := retryTo s (s.device * 4096 + th)

/-- The state of a thread that holds no record: its receive queue and its push count stay (R89, R325). -/
def Thread.freed (t : Thread) : Thread :=
  { Thread.reset with inbox := t.inbox, inboxLaunch := t.inboxLaunch, q := { Thread.reset.q with pushes := t.q.pushes } }

/-- A thread becomes free: its dispenser and its cluster look for work, waiting gangs try again, and its launch may
have come to rest; messages that wait for a slot of its queue are refused; the fault message of a parked core may be due (R34,
R96, R324, R362, R367, R369, R436). -/
def freeThread (s : State) (n : Nat) : State :=
  let t := s.getT n
  let s1 := opens s (thClu n) (fun x => x.setT n t.freed)
  retryGangs ((((retryMsgs (postPark s1 (thCore n)) n).after Config.grantTime (.pickup n)).after Config.grantTime (.grantRecord (thDie n))).after Config.grantTime (.launchDone (thLaunch t)))

/-- The registers that a live map names (R32). -/
def mapRegs (v : Nat) : List Reg := maskRegs (getBytes v 0 4) (getBytes v 4 4) (getBytes v 8 1)

/-- The detail of the first poisoned unit that a write-back of the focused thread reads: of the registers that the live map names, or
of the extent (R464; log 75). -/
def badLive (s : State) (map : Nat) : Option Nat :=
  let (eo, el) := mapExtent map
  match (mapRegs map).findSome? (regBad s s.cur) with
  | some d => some d
  | none => if s.mem.poisoned (ownKey s eo) el then some (s.mem.eccAt (ownKey s eo) el) else none

/-- Write back the focused thread under a live map: the record, at `pc`, is runnable in its die's queue, or
waits on the handles `waits` that are pending; the thread becomes free. -/
def writeBack (s : State) (map idx : Nat) (pc : Word) (waits : BitVec 16) : Chk State := do
  let n := s.cur
  let s0 := { s with thr := landAll s.thr }
  match s0.thr.rcd with
  | none => return freeThread s0 n
  | some r =>
    let s1 := release s0 n .mod
    match badLive s1 map with
    | some d => raise 0x71 d
    | none => pure ()
    let s2 ← writePieces (thClu n) r.w.part r.w.frame.toNat (livePieces s1.thr map s1.free) s1
    let (eo, el) := mapExtent map
    let s3 ← (if el = 0 then pure s2 else
      vmWrite s2 (thClu n) r.w.part (r.w.frame.toNat + 0x2300) el (s2.mem.get (lsKey (thCore n) (s2.base + eo)) el))
    let r' : Rec := { r.keeps s3.thr.i with
      w := { r.w with pc := pc, livemap := idx, running := false, runnable := false, waith := true, depth := s3.thr.q.depth }
      place := .rest
      die := thDie n, handles := s3.thr.r.h, waits := waits, since := s3.count
      lineage := s3.thr.q.lineage, vdepth := s3.thr.q.vdepth, vthread := s3.thr.q.vthread }
    let (r2, s4) := wakeRecord { s3 with free := s3.free + 16 } r'.sealed
    return freeThread (s4.modSch (fun c => { c with recs := c.recs ++ [r2] })) n

/-- An error in a register or in the local store, and not in memory beyond them (R465). -/
def ownUnit (c : Cond) : Bool := c.code == 0x71 && (fld c.detail 63 56 == 0 || fld c.detail 63 56 == 2)

/-- A write-back that meets a failing frame parks the core, without a full frame (R505); one that meets an error in what it writes
back parks it with one (R464). -/
def suspend (s : State) (r : Chk State) : Host.Outcome State Fault Refusal :=
  match r with
  | .ok s' => .next s'
  | .error (.cond c _) => .next (parkCore s c s.thr.pc false (ownUnit c))
  | .error (.wait w) => .next (block s w)

end Sys2Proof.Machine
end

