-- ==== Sys2Proof/Machine/LoadStore.lean ====
section
/-! DEFINITION. Loads and stores, synchronising and full/empty accesses, acquire and release accesses
(R283-R296). -/
namespace Sys2Proof.Machine
open Sys2Proof

/-! Shared operations. -/

/-- The bytes accessed for one element at an address: zw through a format window, else `z` (R115, R283). -/
def accLen (s : State) (a z : Nat) : Nat := match addrFmt s a with | some w => w.fmt.bytes | none => z

/-- An address lies in a window under RS. -/
def drawsAt (s : State) (a : Nat) : Bool := match addrFmt s a with | some w => w.rnd == .rs | none => false

/-- The `n` draws of an access that names elements at these addresses, where one of them, active or not, lies in a window under RS
(R180; log 77). -/
def winDraws (s : State) (named : List Nat) (n : Nat) : Nat × State := if named.any (drawsAt s) then s.draws n else (0, s)

/-- A condition found later, of an access that issued in cycle `n`: it is taken at a boundary of the thread, with bit 10 of `s1`
(R430). -/
def addLaterAt (s : State) (n : Nat) (c : Cond) : State := s.modI (fun i => { i with later := insLater n { c with flags := c.flags ||| 4 } i.later })

/-- The same, of an access that issues now. -/
def addLater (s : State) (c : Cond) : State := addLaterAt s s.clock c

/-- A read of a poisoned unit: none, or the condition 0x71 (R464). -/
def poisonAt (s : State) (k n : Nat) : Option Cond := if s.mem.poisoned k n then some (mkCond 0x71 (s.mem.eccAt k n)) else none

/-- The same through the caches of the focused thread's die. -/
def poisonVia (s : State) (r : Route) (k n : Nat) : Option Cond := (badPlace s (thDie s.cur) r k n).map (mkCond 0x71)

/-- An access whose result hardware interlocks from its issue on: an atomic, a `tver` (R188, R189). -/
def Access.interlocked : Access → Bool
  | .atomic _ _ _ _ | .ver => true
  | _ => false

/-- The reply that an access awaits (R430). -/
def awaitReply (s : State) (r : Reply) : State :=
  (s.modI (fun i => { i with replies := i.replies ++ [{ r with sent := s.clock }] })).after Config.fabricTime (.loadReply s.cur .ok)

/-- The request of an access that another module answers, with `n` bytes, leaves on its port; it waits at the instruction while the
port holds it back (R402, R411). -/
def sendAccess (s : State) (rt : Route) (n : Nat := 0) : Chk State :=
  match rt with
  | .remote dev => match s.portOf dev (flitsOf n) with
    | some (_, true) => .error (.wait .queue)
    | _ => .ok (s.spend dev (flitsOf n))
  | _ => .ok s

/-- A read that an instruction makes at another module, or at the host, and waits for itself: after the thread's earlier
accesses that await a reply, and with its own earlier stores performed there (R153, log 9). -/
def readFar (s : State) (r : Route) (k n : Nat) : Chk (Nat × State) :=
  if !s.thr.i.replies.isEmpty then .error (.wait .reply)
  else (sendAccess (drainAll s (thCore s.cur)) r).map (fun x => ((settle x s.cur r).mem.get k n, settle x s.cur r))

/-- One lane through a format window, as FP32 bits; 0x07 for a reserved PW8 byte (R116, R438). -/
def laneLoad (w : Window) (u x i : Nat) : Chk Nat := if winLoadBad w x then raise 0x07 (x % 256 + i * 256) else .ok (winLoad w u x)

/-- `n` lanes of a segment from lane `i` on, each to its four bytes of the register. -/
def lanesLoad (w : Window) (ds x : Nat) : Nat → Nat → Nat → Nat → Chk Nat
  | 0, _, _, acc => .ok acc
  | n + 1, j, i, acc =>
    match laneLoad w (draw ds i) (getBytes x (j * w.fmt.bytes) w.fmt.bytes) i with
    | .error e => .error e
    | .ok y => lanesLoad w ds x n (j + 1) (i + 1) (putBytes acc (4 * i) 4 y)

/-- What reading the segments of a load gave: the register's bytes so far, the chunks that a home still has to
answer, a condition that a home returned (R430). -/
structure Got where
  val : Nat
  chunks : List (Nat × Nat × Nat)
  bad : Option Cond
  deriving DecidableEq, Repr

/-- Read the segments of a load in order. A poisoned near unit is found at issue; a home returns its own. -/
def readSegs (ds : Nat) : List Seg → State → Got → Chk (Got × State)
  | [], s, g => .ok (g, s)
  | x :: r, s, g =>
    let k := tgtKey s x.tgt
    let rt := tgtRoute s x.tgt
    if routeWaits rt then
      match sendAccess (drainAll s (thCore s.cur)) rt with
      | .error e => .error e
      | .ok s1 => readSegs ds r s1 { g with chunks := g.chunks ++ [(x.pos, k, x.len)] }
    else
      match poisonVia s rt k x.len, rt with
      | some c, .near => .error (.cond c none)
      | some c, _ => readSegs ds r s { g with bad := match g.bad with | some b => some b | none => some c }
      | none, _ =>
        let (v, s1) := loadPlace s rt k x.len
        match addrFmt s x.addr with
        | none => readSegs ds r s1 { g with val := putBytes g.val x.pos x.len v }
        | some w =>
          match lanesLoad w ds v (x.len / w.fmt.bytes) 0 (x.pos / 4) g.val with
          | .error e => .error e
          | .ok y => readSegs ds r s1 { g with val := y }

/-- All words of the segments are full, or the thread waits for them (R151, R293); 0x2B for other targets. -/
def syncCheck (s : State) (l : List Seg) : Chk Unit :=
  match l.find? (fun x => match x.tgt with | .glob _ _ => true | _ => false) with
  | some x => raise 0x2B x.addr
  | none =>
    let ks := (l.map (fun x => wordsOf (tgtKey s x.tgt) x.len)).flatten
    if ks.any (fun k => s.mem.empty.contains k) then .error (.wait (.sync ks)) else .ok ()

/-- A scalar load of `z` bytes (R286, R287, R293). `sync`: it waits for full words. -/
def loadScalar (s : State) (d : BitVec 5) (a : Word) (z : Nat) (sg sync : Bool) : Chk State := do
  let n := accLen s a.toNat z
  let (s1, t) ← resolve s a.toNat n z .load
  require (addrFmt s a.toNat == none || z == 4) 0x15 a.toNat
  let seg : Seg := { tgt := t, len := n, pos := 0, addr := a.toNat }
  let s2 := if sync then drainAll s1 (thCore s.cur) else s1
  if sync then syncCheck s2 [seg]
  let (ds, s3) := winDraws s2 [a.toNat] 1
  let (g, s4) ← readSegs ds [seg] s3 { val := 0, chunks := [], bad := none }
  match g.bad, g.chunks with
  | some c, _ => return addLater s4 c
  | none, (_, k, _) :: _ => return awaitReply s4 { dest := .s d, key := k, acc := .load z sg, scope := none, addr := a }
  | none, [] => return s4.setS d (extLoad z sg g.val)

/-- A store's value for one element: through a format window by `WinStore`; 0x13 for a NaN (R116). -/
def laneStore (w : Window) (u y i : Nat) : Chk Nat := match winStore w u y with | some v => .ok v | none => raise 0x13 i

def lanesStore (w : Window) (ds x : Nat) : Nat → Nat → Nat → Nat → Chk Nat
  | 0, _, _, acc => .ok acc
  | n + 1, j, i, acc =>
    match laneStore w (draw ds i) (getBytes x (4 * i) 4) i with
    | .error e => .error e
    | .ok y => lanesStore w ds x n (j + 1) (i + 1) (putBytes acc (j * w.fmt.bytes) w.fmt.bytes y)

/-- The values that a store writes to its segments, from the register's bytes `x`. -/
def segValues (s : State) (ds x : Nat) : List Seg → Chk (List (Seg × Nat))
  | [] => .ok []
  | g :: r => do
    let v ← match addrFmt s g.addr with
      | none => pure (getBytes x g.pos g.len)
      | some w => lanesStore w ds x (g.len / w.fmt.bytes) 0 (g.pos / 4) 0
    let l ← segValues s ds x r
    return (g, v) :: l

/-- The store of a segment. -/
def segStore (s : State) (full joined : Bool) (p : Seg × Nat) : Store :=
  { th := s.cur, route := tgtRoute s p.1.tgt, key := tgtKey s p.1.tgt, len := p.1.len, value := p.2
    addr := BitVec.ofNat 64 p.1.addr, full := full, empties := false, rcd := thRid s.thr, joined := joined, issued := s.clock }

/-- Two raw elements lie in one aligned 8-byte chunk (R133). -/
def oneChunk (s : State) (g h : Seg) : Bool :=
  decide (g.len < 8) && decide (h.len < 8) && tgtKey s g.tgt / 8 == tgtKey s h.tgt / 8 && (addrFmt s g.addr).isNone && (addrFmt s h.addr).isNone

/-- Enter the segments' stores in the store buffer, in order; elements in one aligned chunk make one entry (R133, R134). -/
def pushSegs (full : Bool) : Nat → List (Seg × Nat) → State → State
  | n + 1, p :: r, s =>
    let mates := r.filter (fun q => oneChunk s p.1 q.1)
    pushSegs full n (r.filter (fun q => !oneChunk s p.1 q.1)) (pushEntry s s.cur (segStore s full false p :: mates.map (segStore s full true)))
  | _, _, s => s

/-- Stores to checked segments: conversion, then the trail, then the buffer (R91, R116, R134, R456). -/
def storeSegs (s : State) (ds x : Nat) (full : Bool) (l : List Seg) : Chk State := do
  let vs ← segValues s ds x l
  let us ← trailPlans s l
  return pushSegs full vs.length vs (trailAll s us)

/-- A scalar store of `z` bytes (R286, R287). -/
def storeScalar (s : State) (d : BitVec 5) (a : Word) (z : Nat) : Chk State := do
  let n := accLen s a.toNat z
  let (s1, t) ← resolve s a.toNat n z .store
  require (addrFmt s a.toNat == none || z == 4) 0x15 a.toNat
  let (ds, s2) := winDraws s1 [a.toNat] 1
  storeSegs s2 ds (lo (8 * z) (s.getS d).toNat) false [{ tgt := t, len := n, pos := 0, addr := a.toNat }]

/-- The pieces of a whole vector (R288): 64 lanes through a format window, else 256 raw bytes. -/
def wholePieces (s : State) (a : Nat) : List (Nat × Nat × Nat) :=
  match addrFmt s a with
  | some w => [(a, 64 * w.fmt.bytes, 0)]
  | none => (splitRange a 256).map (fun p => (p.1, p.2, p.1 - a))

/-- The pieces of the active elements of `ez` bytes, element i at `at i` (R289, R290). -/
def elemPieces (s : State) (e : ESz) (p : Pred) (at' : Nat → Word) : List (Nat × Nat × Nat) :=
  ((List.range (256 / e.bytes)).filter (fun i => active p (8 * e.bytes) i)).map (fun i =>
    ((at' i).toNat, accLen s (at' i).toNat e.bytes, i * e.bytes))

/-- The addresses of all the elements that a vector access names, active or not (R180). -/
def namedAt (e : ESz) (at' : Nat → Word) : List Nat := (List.range (256 / e.bytes)).map (fun i => (at' i).toNat)

/-- An element through a format window must have size 4 (R289-R291): the first accessed one that has not raises 0x15, as R117 and R429
say of a size that a window does not allow, though R440 does not list the code for a vector access (log 78). -/
def elemSize (s : State) (e : ESz) (ps : List (Nat × Nat × Nat)) : Chk Unit :=
  match ps.find? (fun p => (addrFmt s p.1).isSome && e != .e4) with
  | some p => raise 0x15 p.1
  | none => .ok ()

/-- Complete a vector load: the register, or the reply that it awaits. -/
def vectorGot (s : State) (d : BitVec 5) (a : Word) (g : Got) : State :=
  match g.bad, g.chunks with
  | some c, _ => addLater s c
  | none, [] => s.setV d (BitVec.ofNat 2048 g.val)
  | none, ch => awaitReply s { dest := .v d, key := 0, acc := .vload g.val ch, scope := none, addr := a }

/-- A vector load of checked pieces into the bytes `old`, with `n` draws where an element named lies in a window under RS
(R180, R288-R293). -/
def loadPieces (s : State) (d : BitVec 5) (a : Word) (al n : Nat) (named : List Nat) (sync : Bool) (size : Chk Unit) (old : Nat) (ps : List (Nat × Nat × Nat)) : Chk State := do
  let (s1, l) ← resolveAll s al .load ps
  size
  let s2 := if sync then drainAll s1 (thCore s.cur) else s1
  if sync then syncCheck s2 l
  let (ds, s3) := winDraws s2 named n
  let (g, s4) ← readSegs ds l s3 { val := old, chunks := [], bad := none }
  return vectorGot s4 d a g

/-- A vector store of checked pieces (R288-R290). -/
def storePieces (s : State) (d : BitVec 5) (al n : Nat) (named : List Nat) (size : Chk Unit) (ps : List (Nat × Nat × Nat)) : Chk State := do
  let (s1, l) ← resolveAll s al .store ps
  size
  let (ds, s2) := winDraws s1 named n
  storeSegs s2 ds (s.getV d).toNat false l

/-- The address of element i of a strided access (R289): with b = 0 the stride is the element's size. -/
def strideAt (s : State) (a : Word) (b : BitVec 5) (e : ESz) (i : Nat) : Word :=
  a + BitVec.ofNat 64 i * (if b = 0 then BitVec.ofNat 64 (accLen s a.toNat e.bytes) else s.getS b)

/-- The address of element i of a gather or scatter (R290). -/
def indexAt (s : State) (a : Word) (b : BitVec 5) (i : Nat) : Word := a + BitVec.ofNat 64 (vel 32 (s.getV b) i)

/-- EA (R283). -/
def eaLM (s : State) (a : BitVec 5) (z : Nat) (off : Imm 10) : Word := s.getS a + offLM z off
def eaLR (s : State) (a : BitVec 5) (off : Option (BitVec 32)) : Word := s.getS a + offLR off

/-- A covered store that sets its words full, to a local store or an activation buffer through window 0 (R294). -/
def fullSegs (s : State) (a : Word) (al x : Nat) (ps : List (Nat × Nat × Nat)) : Chk State := do
  let (s1, l) ← resolveAll s al .store ps
  match l.find? (fun g => match g.tgt with | .glob _ _ => true | _ => false) with
  | some g => raise 0x2B g.addr
  | none =>
    require (addrWin a.toNat == 0) 0x15 a.toNat
    storeSegs s1 0 x true l

/-! Scalar loads and stores (R286, R287). -/

/-- `ld.w8` (R286). -/
def execLdW8 (d a : BitVec 5) (off : Imm 10) (s : State) : Host.Outcome State Fault Refusal :=
  finish s (loadScalar s d (eaLM s a 1 off) 1 false false)

/-- `ld.i8` (R286). -/
def execLdI8 (d a : BitVec 5) (off : Imm 10) (s : State) : Host.Outcome State Fault Refusal :=
  finish s (loadScalar s d (eaLM s a 1 off) 1 true false)

/-- `ld.w16` (R286). -/
def execLdW16 (d a : BitVec 5) (off : Imm 10) (s : State) : Host.Outcome State Fault Refusal :=
  finish s (loadScalar s d (eaLM s a 2 off) 2 false false)

/-- `ld.i16` (R286). -/
def execLdI16 (d a : BitVec 5) (off : Imm 10) (s : State) : Host.Outcome State Fault Refusal :=
  finish s (loadScalar s d (eaLM s a 2 off) 2 true false)

/-- `ld.w32` (R286). -/
def execLdW32 (d a : BitVec 5) (off : Imm 10) (s : State) : Host.Outcome State Fault Refusal :=
  finish s (loadScalar s d (eaLM s a 4 off) 4 false false)

/-- `ld.i32` (R286). -/
def execLdI32 (d a : BitVec 5) (off : Imm 10) (s : State) : Host.Outcome State Fault Refusal :=
  finish s (loadScalar s d (eaLM s a 4 off) 4 true false)

/-- `ld.w64` (R286). -/
def execLdW64 (d a : BitVec 5) (off : Imm 10) (s : State) : Host.Outcome State Fault Refusal :=
  finish s (loadScalar s d (eaLM s a 8 off) 8 false false)

/-- `st.w8` (R286). -/
def execStW8 (d a : BitVec 5) (off : Imm 10) (s : State) : Host.Outcome State Fault Refusal :=
  finish s (storeScalar s d (eaLM s a 1 off) 1)

/-- `st.w16` (R286). -/
def execStW16 (d a : BitVec 5) (off : Imm 10) (s : State) : Host.Outcome State Fault Refusal :=
  finish s (storeScalar s d (eaLM s a 2 off) 2)

/-- `st.w32` (R286). -/
def execStW32 (d a : BitVec 5) (off : Imm 10) (s : State) : Host.Outcome State Fault Refusal :=
  finish s (storeScalar s d (eaLM s a 4 off) 4)

/-- `st.w64` (R286). -/
def execStW64 (d a : BitVec 5) (off : Imm 10) (s : State) : Host.Outcome State Fault Refusal :=
  finish s (storeScalar s d (eaLM s a 8 off) 8)

/-- The address of an indexed access (R287). -/
def indexed (s : State) (a b : BitVec 5) (sc : Bool) (z : Nat) (off : Option (BitVec 32)) : Word :=
  s.getS a + (if sc then s.getS b * BitVec.ofNat 64 z else s.getS b) + offLR off

/-- Indexed load (R287). -/
def execLdx (d a b : BitVec 5) (sc : Bool) (sz : LdSz) (off : Option (BitVec 32)) (s : State) : Host.Outcome State Fault Refusal :=
  finish s (loadScalar s d (indexed s a b sc sz.bytes off) sz.bytes sz.signed false)

/-- Indexed store (R287). -/
def execStx (d a b : BitVec 5) (sc : Bool) (sz : ESz) (off : Option (BitVec 32)) (s : State) : Host.Outcome State Fault Refusal :=
  finish s (storeScalar s d (indexed s a b sc sz.bytes off) sz.bytes)

/-! Vector loads and stores (R288-R292). -/

/-- One whole vector (R288). -/
def execVld (d a : BitVec 5) (off : Imm 10) (s : State) : Host.Outcome State Fault Refusal :=
  let A := eaLM s a 256 off
  finish s (loadPieces s d A 8 64 [A.toNat] false (.ok ()) 0 (wholePieces s A.toNat))

/-- One whole vector (R288). -/
def execVst (d a : BitVec 5) (off : Imm 10) (s : State) : Host.Outcome State Fault Refusal :=
  let A := eaLM s a 256 off
  finish s (storePieces s d 8 64 [A.toNat] (.ok ()) (wholePieces s A.toNat))

/-- Elements at a fixed stride; inactive ones keep their value (R289). -/
def execVlds (d a b : BitVec 5) (e : ESz) (p : BitVec 3) (off : Option (BitVec 32)) (s : State) : Host.Outcome State Fault Refusal :=
  let A := eaLR s a off
  let ps := elemPieces s e (s.getP p) (strideAt s A b e)
  finish s (loadPieces s d A e.bytes (256 / e.bytes) (namedAt e (strideAt s A b e)) false (elemSize s e ps) (s.getV d).toNat ps)

/-- Elements at a fixed stride (R289). -/
def execVsts (d a b : BitVec 5) (e : ESz) (p : BitVec 3) (off : Option (BitVec 32)) (s : State) : Host.Outcome State Fault Refusal :=
  let A := eaLR s a off
  let ps := elemPieces s e (s.getP p) (strideAt s A b e)
  finish s (storePieces s d e.bytes (256 / e.bytes) (namedAt e (strideAt s A b e)) (elemSize s e ps) ps)

/-- A gather (R290). -/
def execVgat (d a b : BitVec 5) (e : ESz) (p : BitVec 3) (off : Option (BitVec 32)) (s : State) : Host.Outcome State Fault Refusal :=
  let A := eaLR s a off
  let ps := elemPieces s e (s.getP p) (indexAt s A b)
  finish s (loadPieces s d A e.bytes (256 / e.bytes) (namedAt e (indexAt s A b)) false (elemSize s e ps) (s.getV d).toNat ps)

/-- A scatter; of two elements on one byte the higher stands (R290). -/
def execVsct (d a b : BitVec 5) (e : ESz) (p : BitVec 3) (off : Option (BitVec 32)) (s : State) : Host.Outcome State Fault Refusal :=
  let A := eaLR s a off
  let ps := elemPieces s e (s.getP p) (indexAt s A b)
  finish s (storePieces s d e.bytes (256 / e.bytes) (namedAt e (indexAt s A b)) (elemSize s e ps) ps)

/-- A broadcast load: the element read at A, in every active element (R291). -/
def broadcastLoad (s : State) (d : BitVec 5) (a : Word) (e : ESz) (p : Pred) : Chk State := do
  let (s1, t) ← resolve s a.toNat (accLen s a.toNat e.bytes) e.bytes .load
  elemSize s e [(a.toNat, 0, 0)]
  let (ds, s2) := winDraws s1 [a.toNat] 1
  let (g, s3) ← readSegs ds [{ tgt := t, len := accLen s a.toNat e.bytes, pos := 0, addr := a.toNat }] s2 { val := 0, chunks := [], bad := none }
  let w := 8 * e.bytes
  match g.chunks with
  | [] => return vectorGot s3 d a { g with val := (vmask w p (s.getV d) (fun _ => g.val)).toNat }
  | (_, k, n) :: _ =>
    return vectorGot s3 d a { g with
      val := (s.getV d).toNat
      chunks := ((List.range (256 / e.bytes)).filter (fun i => active p w i)).map (fun i => (i * e.bytes, k, n)) }

/-- One element in every active element (R291). -/
def execVldb (d a : BitVec 5) (e : ESz) (p : BitVec 3) (off : Option (BitVec 32)) (s : State) : Host.Outcome State Fault Refusal :=
  finish s (broadcastLoad s d (eaLR s a off) e (s.getP p))

/-! Full/empty accesses (R293-R295). -/

/-- A synchronising load (R293). -/
def execLdsync (d a : BitVec 5) (sz : LdSz) (off : Option (BitVec 32)) (s : State) : Host.Outcome State Fault Refusal :=
  finish s (loadScalar s d (eaLR s a off) sz.bytes sz.signed true)

/-- A synchronising vector load (R293). -/
def execVldsync (d a : BitVec 5) (off : Imm 10) (s : State) : Host.Outcome State Fault Refusal :=
  let A := eaLM s a 256 off
  finish s (loadPieces s d A 8 64 [A.toNat] true (.ok ()) 0 (wholePieces s A.toNat))

/-- A word stored and set full (R294). -/
def execStfull (d a : BitVec 5) (off : Imm 10) (s : State) : Host.Outcome State Fault Refusal :=
  let A := eaLM s a 4 off
  finish s (fullSegs s A 4 (lo 32 (s.getS d).toNat) [(A.toNat, 4, 0)])

/-- A vector stored and its words set full (R294). -/
def execVstfull (d a : BitVec 5) (off : Imm 10) (s : State) : Host.Outcome State Fault Refusal :=
  let A := eaLM s a 256 off
  finish s (fullSegs s A 8 (s.getV d).toNat ((splitRange A.toNat 256).map (fun p => (p.1, p.2, p.1 - A.toNat))))

/-- The words of a range set empty, as a covered store that changes no byte (R295). -/
def emptyWords (s : State) (a : Word) (n : Nat) : Chk State :=
  if n = 0 then .ok s
  else do
    let (s1, t) ← resolve s a.toNat n 4 .store
    require (a.toNat % 4 == 0 && n % 4 == 0) 0x22 a.toNat
    match t with
    | .glob _ _ => raise 0x2B a.toNat
    | _ => return pushStore s1 { th := s.cur, route := .near, key := tgtKey s1 t, len := n, value := 0, addr := a, full := false, empties := true, rcd := thRid s.thr, joined := false, issued := s.clock }

/-- The words of a range set empty (R295). -/
def execFemp (a b : BitVec 5) (off : Option (BitVec 32)) (s : State) : Host.Outcome State Fault Refusal :=
  finish s (emptyWords s (eaLR s a off) (s.getS b).toNat)

/-! Acquire and release accesses (R296, R137-R139). -/

/-- A load at the L3 slice: the die's own sectors of the range are first written back and dropped, so that the
thread's own earlier stores are seen (R139). -/
def loadHome (s : State) (r : Route) (k n : Nat) : Nat × State :=
  match newestOwn s s.cur k n with
  | some _ => loadPlace s r k n
  | none =>
    match r with
    | .cached ma own => readPlace (flushSpan s (thDie s.cur) ma n) (thDie s.cur) (.l3 ma own) k n
    | _ => readPlace s (thDie s.cur) r k n

/-- An acquire load of `z` bytes (R296). -/
def loadAcquire (s : State) (d : BitVec 5) (a : Word) (z : Nat) (sc : Scope) : Chk State := do
  let (s1, t) ← resolve s a.toNat (accLen s a.toNat z) z .load
  require (addrWin a.toNat == 0) 0x15 a.toNat
  let k := tgtKey s1 t
  let r := tgtRoute s1 t
  if routeWaits r then
    return awaitReply (← sendAccess (drainAll s1 (thCore s.cur)) r) { dest := .s d, key := k, acc := .load z false, scope := some sc, addr := a }
  else
    let s2 := match r with
      | .cached ma _ => if sc.wide then flushSpan s1 (thDie s.cur) ma z else s1
      | _ => s1
    match poisonVia s2 r k z, r with
    | some c, .near => .error (.cond c none)
    | some c, _ => return addLater s2 c
    | none, _ =>
      let (v, s2) := if sc.wide then loadHome s2 r k z else loadPlace s2 r k z
      return acquire (s2.setS d (BitVec.ofNat 64 v)) s.cur sc

/-- The thread awaits a reply of another module. -/
def awaitsFar (t : Thread) : Bool :=
  t.i.replies.any (fun r => match r.acc with | .vload _ ch => ch.any (fun c => c.2.1 / 2 ^ 64 == 9) | _ => r.key / 2 ^ 64 == 9)

/-- A release at `.fab` or wider waits for the thread's earlier accesses to other modules: for replies, and for stores on their way or
held at a port (R138, R411). -/
def releaseChk (s : State) (sc : Scope) : Chk State :=
  if decide (4 ≤ sc.num) && awaitsFar s.thr then .error (.wait .reply)
  else if releaseWaits s s.cur sc then .error (.wait .queue) else .ok (release s s.cur sc)

/-- A release store of `z` bytes: at `.mod` and wider the store performs at the L3 slice (R138, R296). -/
def storeRelease (s : State) (d : BitVec 5) (a : Word) (z : Nat) (sc : Scope) : Chk State := do
  let (s1, t) ← resolve s a.toNat (accLen s a.toNat z) z .store
  require (addrWin a.toNat == 0) 0x15 a.toNat
  let l : List Seg := [{ tgt := t, len := z, pos := 0, addr := a.toNat }]
  if sc.wide then
    let s2 ← releaseChk s1 sc
    match tgtRoute s2 t with
    | .cached ma own =>
      let s3 := l3Touch (flushSpan s2 (thDie s.cur) ma z) own ma z true
      return s3.modM (·.put (tgtKey s3 t) z (lo (8 * z) (s.getS d).toNat))
    | _ => storeSegs s2 0 (lo (8 * z) (s.getS d).toNat) false l
  else storeSegs s1 0 (lo (8 * z) (s.getS d).toNat) false l

/-- An acquire load (R296). -/
def execLdacq (d a : BitVec 5) (sz : ESz) (sc : Scope) (off : Option (BitVec 32)) (s : State) : Host.Outcome State Fault Refusal :=
  finish s (loadAcquire s d (eaLR s a off) sz.bytes sc)

/-- A release store (R296). -/
def execStrel (d a : BitVec 5) (sz : ESz) (sc : Scope) (off : Option (BitVec 32)) (s : State) : Host.Outcome State Fault Refusal :=
  finish s (storeRelease s d (eaLR s a off) sz.bytes sc)

end Sys2Proof.Machine
end

