-- ==== Sys2Proof/Machine/EngineOps.lean ====
section
/-! DEFINITION. What the engines share: places of engine accesses, the pieces of copies, the job queue of a
matrix engine (R118-R120, R148-R152, R307-R309, R313, R448). -/
namespace Sys2Proof.Machine
open Sys2Proof

/-! Accesses of an engine. A near address is held in its 0xFF01 or 0xFF02 form, window 0 (R113). -/

/-- The absolute form of a near place. -/
def nearAddr : Tgt → Word
  | .ls core off _ _ => BitVec.ofNat 64 (0xFF01 * 2 ^ 48 + core % 128 * 0x400000 + off)
  | .ab clu off => BitVec.ofNat 64 (0xFF02 * 2 ^ 48 + clu % 16 * 0x200000 + off)
  | .glob fa _ => BitVec.ofNat 64 fa

/-- The cluster and the key of an absolute near address on a die. -/
def nearKey (die a : Nat) : Nat × Nat :=
  let x := a % 2 ^ 48
  if a / 2 ^ 48 = 0xFF02 then (die * 16 + x / 0x200000, abKey (die * 16 + x / 0x200000) (x % 0x200000))
  else (die * 16 + x / 0x400000 / 8, lsKey (die * 128 + x / 0x400000) (x % 0x40000))

/-- One place of an engine's access, with the checks made when the piece is carried out (R307, R445, R472). -/
def engPlace (s : State) (clu part a n : Nat) (need : Need) : Chk (State × Route × Nat) := do
  if a / 2 ^ 56 = 0xFF then
    let (c, k) := nearKey (clu / 16) a
    require (!s.ropeLost (cluRope c)) 0x74 (cluRope c)
    return (s, .near, k)
  else
    require (a / 2 ^ 56 == 0) 0x20 a
    let (s1, fa, leaf) ← translate s clu part a need
    reachable s1 fa n
    require (!(fa / 2 ^ 44 == s.device && inBell (fa % 2 ^ 44))) 0x2B a
    return (s1, globRoute s1 part fa leaf, tgtKey s1 (.glob fa leaf))

/-- The places of a range: route, key, length. -/
def engPlaces (clu part : Nat) (need : Need) : List (Nat × Nat) → State → Chk (State × List (Route × Nat × Nat))
  | [], s => .ok (s, [])
  | (a, n) :: r, s => do
    let (s1, rt, k) ← engPlace s clu part a n need
    let (s2, l) ← engPlaces clu part need r s1
    return (s2, (rt, k, n) :: l)

/-- Read the places of a range; 0x71 at a poisoned unit. -/
def engRead (die : Nat) : List (Route × Nat × Nat) → State → Chk (Nat × State)
  | [], s => .ok (0, s)
  | (rt, k, n) :: r, s => do
    match badPlace s die rt k n with
    | some d => raise 0x71 d
    | none => pure ()
    let (v, s1) := readPlace s die rt k n
    let (w, s2) ← engRead die r s1
    return (v + w * 256 ^ n, s2)

/-- Words of local stores and activation buffers are set full by an engine's write (R119). -/
def putFull (s : State) (k n v : Nat) : State := s.modM (fun m => (m.put k n v).setFull k n)

/-- Bytes that an engine writes at one place: `off` bytes behind its first byte. -/
def engPut (s : State) (die : Nat) (rt : Route) (k off n v : Nat) : State :=
  match rt with
  | .cached ma own => l2Write s die own none (ma + off) n v
  | .l3 ma own => (l3Touch s own (ma + off) n true).modM (·.put (k + off) n v)
  | _ => s.modM (·.put (k + off) n v)

/-- One part of an engine's write: the row of the copy, the place, the offset there, the length, the value. It lies in one
16-byte sector where the write is cut into sectors. -/
structure Bit where
  row : Nat
  route : Route
  key : Nat
  off : Nat
  len : Nat
  value : Nat
  deriving DecidableEq, Repr

def Bit.sector (b : Bit) : Nat := (b.key + b.off) / 16

/-- A place and its value, cut at 16-byte sectors. -/
def cutBits (row : Nat) (rt : Route) (k : Nat) : Nat → Nat → Nat → Nat → List Bit
  | 0, _, _, _ => []
  | f + 1, off, n, v =>
    if n = 0 then [] else
      let m := min n (16 - (k + off) % 16)
      { row := row, route := rt, key := k, off := off, len := m, value := v % 256 ^ m } :: cutBits row rt k f (off + m) (n - m) (v / 256 ^ m)

/-- The parts of a value over places: cut into sectors where `cut`. -/
def placeBits (cut : Bool) (row : Nat) : List (Route × Nat × Nat) → Nat → List Bit
  | [], _ => []
  | (rt, k, n) :: r, v =>
    (if cut then cutBits row rt k (n / 16 + 2) 0 n (v % 256 ^ n) else [{ row := row, route := rt, key := k, off := 0, len := n, value := v % 256 ^ n }])
      ++ placeBits cut row r (v / 256 ^ n)

def writeBits (die : Nat) (bs : List Bit) (s : State) : State := bs.foldl (fun x b => engPut x die b.route b.key b.off b.len b.value) s

/-- Where several rows of one copy write a sector, it receives all its bytes from one of them, which is free (R308). -/
def writeSector (die : Nat) (bs : List Bit) (s : State) (k : Nat) : State :=
  let here := bs.filter (fun b => b.sector == k)
  match choose s (here.map (fun b => b.row)).dedup with
  | (some row, s1) => writeBits die (here.filter (fun b => b.row == row)) s1
  | (none, s1) => s1

/-- Write the parts of the pieces that perform together (R152, R308). -/
def writeRows (die : Nat) (bs : List Bit) (s : State) : State :=
  if (bs.map (fun b => b.row)).dedup.length ≤ 1 then writeBits die bs s
  else (bs.map (fun b => b.sector)).dedup.foldl (writeSector die bs) s

/-- Words of local stores and activation buffers that an operation has finished with become full (R119, R120): every word of
the spans `ks` but those that it leaves unwritten in part, in `bad`. -/
def fullSpans (ks bad : List (Nat × Nat)) (s : State) : State :=
  let on (w : Nat) (p : Nat × Nat) : Bool := decide (p.1 < w + 4 ∧ w < p.1 + p.2)
  s.modM (fun m => { m with empty := m.empty.filter (fun w => !(ks.any (on w) && !bad.any (on w))) })

/-- The homes that an operation reached enter its record's DIES (R28). -/
def touchRecord (s : State) (rid : Nat) (ks : List Nat) : State :=
  let ds := (ks.filter (fun k => decide (k < 2 ^ 64))).map (fun k => k / dieBytes)
  let f (r : Rec) : Rec := { r with w := { r.w with dies := ds.foldl (fun x d => x ||| 2 ^ d) r.w.dies } }
  let on (g : Rec → Rec) (r : Rec) : Rec := if r.id = rid then g r else r
  let held (t : Thread) : Thread := { t with rcd := t.rcd.map (on f) }
  if ds.isEmpty then s
  else { s with thr := held s.thr, rest := s.rest.map (fun c => (c.1, held c.2)), sch := { s.sch with recs := s.sch.recs.map (on (fun r => r.change f)) } }

/-! Pieces (R307, R448). -/

/-- Bytes from an address to the next boundary of its page; the smallest page where the walk fails. -/
def pageLeft (s : State) (clu part a : Nat) : Nat :=
  match lookup s clu part a with
  | .ok (_, bits) => 2 ^ bits - a % 2 ^ bits
  | .error _ => 0x10000 - a % 0x10000

/-- A destination moved on by `n` bytes. -/
def CopyDst.move (d : CopyDst) (n : Nat) : CopyDst :=
  match d with
  | .addr a => .addr (a + BitVec.ofNat 64 n)
  | .buf wb cs off => .buf wb cs (off + n)

def dstLeft (s : State) (clu part : Nat) (d : CopyDst) (n : Nat) : Nat :=
  match d with
  | .addr a => if a.toNat / 2 ^ 56 = 0 then pageLeft s clu part a.toNat else n
  | .buf _ _ _ => n

/-- The pieces of one row: cut at page boundaries of the source and of a global destination. -/
def rowPieces (s : State) (clu part row : Nat) : Nat → Nat → Word → CopyDst → Nat → List Piece
  | 0, _, _, _, _ => []
  | f + 1, off, src, dst, n =>
    if n = 0 then [] else
      let k := min n (min (if src.toNat / 2 ^ 56 = 0 then pageLeft s clu part src.toNat else n) (dstLeft s clu part dst n))
      { off := off, row := row, src := src, dst := dst, len := k, joined := false, st := .waiting }
        :: rowPieces s clu part row f (off + k) (src + BitVec.ofNat 64 k) (dst.move k) (n - k)

/-- A bound on the pieces of n bytes: each has a byte at least. -/
def rowFuel (n : Nat) : Nat := n

/-- Two ranges meet in a 16-byte sector. -/
def meet (a n b m : Nat) : Bool := decide (a / 16 ≤ (b + m - 1) / 16) && decide (b / 16 ≤ (a + n - 1) / 16)

def CopyDst.meets (d e : CopyDst) (n m : Nat) : Bool :=
  match d, e with
  | .addr a, .addr b => meet a.toNat n b.toNat m
  | .buf w cs x, .buf w' cs' y => w == w' && cs.any (fun c => cs'.contains c) && meet x n y m
  | _, _ => false

/-- Two pieces share a sector of their source or of their destination. -/
def Piece.shares (p q : Piece) : Bool := meet p.src.toNat p.len q.src.toNat q.len || p.dst.meets q.dst p.len q.len

/-- Pieces on both sides of a cut that share a sector perform together, and all between them: the copy reads and writes each
sector once (R148, R152, log 56). -/
def joinGo : List Piece → List Piece → List Piece
  | _, [] => []
  | before, p :: r => { p with joined := before.any (fun b => (p :: r).any (fun q => b.shares q)) } :: joinGo (p :: before) r

def joinPieces (ps : List Piece) : List Piece := joinGo [] ps

/-- Start a copy for a handle of the focused thread (R307). -/
def startCopy (s : State) (h : BitVec 4) (sc : Scope) (ps : List Piece) (value : Nat) (ss : Bool) : State :=
  let (id, s1) := addOp (drainAll s (thCore s.cur)) (thClu s.cur) sc (.copy (joinPieces ps) value ss .handle)
  (s1.setH h (.pending id)).after Config.pieceTime (.copyPiece id ⟨0, .ok⟩)

/-- A handle done at once with value 0 (R307). -/
def doneNow (s : State) (h : BitVec 4) (sc : Scope) : State := s.setH h (.done 0 none (some sc) false)

/-! Issue checks of an engine's addresses. -/

/-- A global range of an engine lies within the 56 bits of a global address (R106). -/
def globRange (x n : Nat) : Chk Unit := require (decide (x + n ≤ 2 ^ 56)) 0x20 (2 ^ 56)

/-- An engine may not write the thread's own stack or trail at depth above 0 (R87). -/
def stackGuard (s : State) (t : Tgt) (n : Nat) : Chk Unit :=
  match ownOffset s t with
  | none => .ok ()
  | some off =>
    let r := regionsOf s.thr.y.srch
    require (s.thr.q.depth == 0 || s.thr.y.srch == 0 || (apart off n r.stack r.stlen && apart off n r.trail r.trlen)) 0x43 off

/-- The source of a copy: a near range names window 0 and is checked whole; global ones are checked piece by piece (R307). -/
def copySrc (s : State) (a : Word) (n : Nat) : Chk Word := do
  let x := a.toNat
  require (x / 2 ^ 56 == 0 || x / 2 ^ 56 == 0xFF) 0x20 x
  if x / 2 ^ 56 = 0 then
    globRange x n
    return a
  else
    require (addrWin x == 0) 0x15 x
    return nearAddr (← nearTgt s x n)

/-- The destination of a copy to an address. -/
def copyDst (s : State) (a : Word) (n : Nat) : Chk Word := do
  let x := a.toNat
  require (x / 2 ^ 56 == 0 || x / 2 ^ 56 == 0xFF) 0x20 x
  if x / 2 ^ 56 = 0 then
    globRange x n
    require (!thSpec s.thr) 0x26 x
    return a
  else
    require (addrWin x == 0) 0x15 x
    let t ← nearTgt s x n
    specCheck s x .store t
    stackGuard s t n
    return nearAddr t

/-- A destination in the WB of a cluster of the die (R307, R118, R54, R472). What 0x21 reports is the offset in the address
operand (log 57). -/
def wbDst (s : State) (a : Word) (n dcl : Nat) : Chk CopyDst := do
  let c := thDie s.cur * 16 + dcl
  require (s.owns s.part c) 0x21 a.toNat
  require (!s.ropeLost (cluRope c)) 0x74 (cluRope c)
  require (decide (a.toNat + n ≤ 0x200000)) 0x60 a.toNat
  require (!thSpec s.thr) 0x26 a.toNat
  return .buf true [c] a.toNat

/-! Matrix jobs (R313). -/

/-- The job's index: the lowest free entry of the queue of 32. R313 says only that a job's number is the index of its entry, not which
free entry it takes (log 80). -/
def freeIdx (c : CluSt) : Nat := ((List.range 32).find? (fun i => !c.jobs.any (fun j => j.idx == i))).getD 0

/-- Who waits at a cluster's job queue: its cores with a thread held there, and 8 for the remote port (R313). -/
def queueWaits (s : State) (clu : Nat) : List Nat :=
  ((List.range 8).filter (fun i => (List.range 4).any (fun j => decide ((s.getT (clu * 32 + i * 4 + j)).i.blocked = some .mxe))))
    ++ (if (s.clu clu).waitingCmds.isEmpty then [] else [8])

/-- The first of some requesters from the one whose turn is next (R313). -/
def queueTurn (s : State) (clu : Nat) (who : List Nat) : Option Nat :=
  ((List.range 9).map (fun i => ((s.clu clu).turn + i) % 9)).find? (fun i => who.contains i)

/-- A requester may enter a job now: an entry is free, and no other that waits comes before it. -/
def mayQueue (s : State) (clu who : Nat) : Bool :=
  decide ((s.clu clu).jobs.length < 32) && queueTurn s clu (who :: queueWaits s clu) == some who

/-- A thread held at its cluster's queue may try again: its core is the one that the queue takes next. -/
def mxeReady (s : State) (n : Nat) : Bool := mayQueue s (thClu n) (n % 32 / 4)

/-- Accept a job of a requester into a cluster's queue, which has room: its entry is written whole (R464); an idle engine starts it,
in the cycle after, or after the filler burst that runs (R382). -/
def acceptJob (s : State) (clu who op : Nat) (what : MxOp) (part : Nat) : State :=
  let c := s.clu clu
  let j : MxJob := { op := op, idx := freeIdx c, what := what, remote := who == 8, part := part, device := s.device }
  let s0 := s.modM (fun m => { m with poison := m.poison.filter (fun u => u.1 != jobKey clu j.idx) })
  let s1 := s0.setClu clu { c with jobs := c.jobs ++ [j], turn := (who + 1) % 9 }
  if c.jobs.isEmpty then s1.afterEff clu (max 1 (c.filler - s.effOf clu)) (.mxeJobStart clu) else s1

/-- Queue a job of the focused thread on its own cluster; a full queue, or the turn of another requester, holds the thread
before issue. -/
def queueJob (s : State) (h : BitVec 4) (what : MxOp) : Chk State :=
  let clu := thClu s.cur
  let who := s.cur % 32 / 4
  if !mayQueue s clu who then .error (.wait .mxe)
  else
    let (id, s1) := addOp (drainAll s (thCore s.cur)) clu .clu (.mx (thDie s.cur) clu)
    .ok (acceptJob (s1.setH h (.pending id)) clu who id what s.part)

/-- An AB offset of an A tile (R316, R317). -/
def aTile (a span : Nat) : Chk Unit := require (a % 256 == 0 && decide (a + span ≤ 0x200000)) 0x60 a
def tileNo (t : Nat) : Chk Unit := require (decide (t ≤ 15)) 0x60 t

/-- K of a format code; the two element formats (R314). -/
def fmtK (code : Nat) : Nat := if code ≤ 1 then 128 else 256
def fmtOk (code : Nat) : Bool := decide (code ≤ 8)

/-- The control word of `mxsp`: its reserved bits and format, then the MDM offset (R317, R429). -/
def spChk (v : Nat) : Chk Unit := do
  require (v / 2 ^ 21 == 0 && fmtOk (v / 2 ^ 16)) 0x60 v
  require (v % 2 ^ 16 % 64 == 0 && decide (v % 2 ^ 16 + 32 * fmtK (v / 2 ^ 16) ≤ 0x10000)) 0x60 (v % 2 ^ 16)

/-- The three control words of `mxgrp` (R318): table offset, WB offset, format and groups. -/
def grpChk (tab wb ctl : Nat) : Chk Unit := do
  let g := ctl % 64 + 1
  require (tab / 2 ^ 21 == 0 && tab % 2 == 0 && decide (tab + 2 * g ≤ 0x200000)) 0x60 tab
  require (wb / 2 ^ 21 == 0 && wb % 1024 == 0) 0x60 wb
  require (ctl / 2 ^ 11 == 0 && fmtOk (ctl / 64)) 0x60 ctl
  require (decide (wb + g * 0x8000 ≤ 0x200000)) 0x60 wb

def ldChk (a : Nat) : Chk Unit := require (a % 1024 == 0 && decide (a ≤ 0x1F8000)) 0x60 a

def metaChk (a m n : Nat) : Chk Unit := do
  require (a % 64 == 0 && decide (a + n ≤ 0x200000)) 0x60 a
  require (m % 64 == 0 && decide (m + n ≤ 0x10000)) 0x60 m
  require (n % 64 == 0) 0x60 n

/-- The fields of `mxrd`'s control scalar (R320). -/
def rdWin (c : Nat) : Nat := c / 2 ^ 16 % 8
def rdCnt (c : Nat) : Nat := c / 2 ^ 7 % 256
def rdRow (c : Nat) : Nat := c % 128
def rdChk (c : Nat) : Chk Unit := require (c / 2 ^ 19 == 0 && c / 2 ^ 15 % 2 == 0 && decide (rdRow c + rdCnt c + 1 ≤ 128)) 0x60 c

end Sys2Proof.Machine
end

