-- ==== Sys2Proof/Decode.lean ====
section
/-! DEFINITION. From words to bundles (R181-R206, R208, R285, R305, R326, R502), total on any two
words and rejecting by the code of R502; the encoder is written from the same encoding tables. Words
are natural numbers; a field is cut out with division and remainder. -/
namespace Sys2Proof

/-- Bits [k+n-1:k] of a word. -/
def nOf (n w k : Nat) : BitVec n := BitVec.ofNat n (w / 2 ^ k)
/-- Bit k of a word. -/
def bitAt (w k : Nat) : Bool := w / 2 ^ k % 2 == 1

/-- Lead fields (R191, R200): d, a, b, x of LR and LE. -/
def fD (w : Nat) : BitVec 5 := nOf 5 w 15
def fA (w : Nat) : BitVec 5 := nOf 5 w 10
def fB (w : Nat) : BitVec 5 := nOf 5 w 5
def fX (w : Nat) : BitVec 5 := nOf 5 w 0
def fI15 (w : Nat) : BitVec 15 := nOf 15 w 0
def fI20 (w : Nat) : BitVec 20 := nOf 20 w 0
def fI11 (w : Nat) : BitVec 11 := nOf 11 w 0
def fI10 (w : Nat) : BitVec 10 := nOf 10 w 0
def fC4 (w : Nat) : BitVec 4 := nOf 4 w 16
def fR5 (w : Nat) : BitVec 5 := nOf 5 w 11
def fN6 (w : Nat) : BitVec 6 := nOf 6 w 9
def fZ5 (w : Nat) : BitVec 5 := nOf 5 w 4
/-- Arithmetic fields (R193). -/
def aP (w : Nat) : BitVec 3 := nOf 3 w 22
def aD (w : Nat) : BitVec 5 := nOf 5 w 17
def aA (w : Nat) : BitVec 5 := nOf 5 w 12
def aB (w : Nat) : BitVec 5 := nOf 5 w 7
def aT (w : Nat) : BitVec 3 := nOf 3 w 4
def aM (w : Nat) : BitVec 4 := nOf 4 w 0

/-- The two parts [4:3] and [2:0] of an x field (R285). -/
def xhi (x : BitVec 5) : BitVec 2 := (x >>> 3).setWidth 2
def xlo (x : BitVec 5) : BitVec 3 := x.setWidth 3
/-- Handle values are 0 to 15, predicate values 0 to 7 (R194). -/
def isH (f : BitVec 5) : Bool := decide (f < 16)
def isP (f : BitVec 5) : Bool := decide (f < 8)
def hOf (f : BitVec 5) : BitVec 4 := f.setWidth 4
def pOf (f : BitVec 5) : BitVec 3 := f.setWidth 3

/-- An immediate field must be zero when the literal supplies the value (R185). -/
def immOk {n : Nat} (ln : Bool) (f : BitVec n) : Bool := !ln || f == 0
def immOf {n : Nat} (ln : Bool) (f : BitVec n) (lit : Nat) : Imm n := if ln then .lit (nOf 32 lit 0) else .imm f
/-- The literal byte offset of an LR or LE form (R185). -/
def offOf (ln : Bool) (lit : Nat) : Option (BitVec 32) := if ln then some (nOf 32 lit 0) else none
/-- Where the Literal column shows "-", a lone bundle's literal must be zero (R305). -/
def litZero (ln : Bool) (lit : Nat) : Bool := !ln || lit == 0

/-- Codes of the enumerated fields (R132, R197, R198, R163, R202, R285). -/
def bcondOf (c : BitVec 4) : Option BCond :=
  match c.toNat with
  | 0 => some .eqz | 1 => some .nez | 2 => some .ltz | 3 => some .gez | 4 => some .gtz | 5 => some .lez
  | 6 => some .pany | 7 => some .pall | 8 => some .pnone | _ => none
def BCond.code : BCond → BitVec 4
  | .eqz => 0 | .nez => 1 | .ltz => 2 | .gez => 3 | .gtz => 4 | .lez => 5 | .pany => 6 | .pall => 7 | .pnone => 8
def scopeOf (c : BitVec 3) : Option Scope :=
  match c.toNat with
  | 0 => some .core | 1 => some .clu | 2 => some .die | 3 => some .mod | 4 => some .fab | 5 => some .sys | _ => none
def Scope.code : Scope → BitVec 3
  | .core => 0 | .clu => 1 | .die => 2 | .mod => 3 | .fab => 4 | .sys => 5
def ldszOf (c : BitVec 3) : Option LdSz :=
  match c.toNat with
  | 0 => some .w8 | 1 => some .i8 | 2 => some .w16 | 3 => some .i16 | 4 => some .w32 | 5 => some .i32 | 6 => some .w64
  | _ => none
def LdSz.code : LdSz → BitVec 3
  | .w8 => 0 | .i8 => 1 | .w16 => 2 | .i16 => 3 | .w32 => 4 | .i32 => 5 | .w64 => 6
/-- For `stx`, the odd size codes are reserved (R285). -/
def stszOf (c : BitVec 3) : Option ESz :=
  match c.toNat with
  | 0 => some .e1 | 2 => some .e2 | 4 => some .e4 | 6 => some .e8 | _ => none
def ESz.stCode : ESz → BitVec 3
  | .e1 => 0 | .e2 => 2 | .e4 => 4 | .e8 => 6
def eszOf (c : BitVec 2) : ESz :=
  match c.toNat with
  | 0 => .e1 | 1 => .e2 | 2 => .e4 | _ => .e8
def ESz.code : ESz → BitVec 2
  | .e1 => 0 | .e2 => 1 | .e4 => 2 | .e8 => 3
def atyOf (c : BitVec 2) : ATy :=
  match c.toNat with
  | 0 => .w32 | 1 => .i32 | 2 => .w64 | _ => .i64
def ATy.code : ATy → BitVec 2
  | .w32 => 0 | .i32 => 1 | .w64 => 2 | .i64 => 3
def lvlOf (c : BitVec 2) : Option Lvl :=
  match c.toNat with
  | 0 => some .l1 | 1 => some .l2 | 2 => some .l3 | _ => none
def Lvl.code : Lvl → BitVec 2
  | .l1 => 0 | .l2 => 1 | .l3 => 2
def ityOf (c : BitVec 3) : Option ITy :=
  match c.toNat with
  | 0 => some .i32 | 1 => some .w32 | 2 => some .i16 | 3 => some .w16 | 4 => some .i8 | 5 => some .w8 | 6 => some .i64
  | _ => none
def ITy.code : ITy → BitVec 3
  | .i32 => 0 | .w32 => 1 | .i16 => 2 | .w16 => 3 | .i8 => 4 | .w8 => 5 | .i64 => 6
def ftyOf (c : BitVec 3) : Option FTy :=
  match c.toNat with
  | 0 => some .f32 | 1 => some .bf16 | 2 => some .f16 | 3 => some .e4m3 | 4 => some .e5m2 | 5 => some .pw8 | _ => none
def FTy.code : FTy → BitVec 3
  | .f32 => 0 | .bf16 => 1 | .f16 => 2 | .e4m3 => 3 | .e5m2 => 4 | .pw8 => 5
def rndOf (c : BitVec 3) : Option Rnd :=
  match c.toNat with
  | 0 => some .rne | 1 => some .rz | 2 => some .rd | 3 => some .ru | 4 => some .rna | 5 => some .rs | _ => none
def Rnd.code : Rnd → BitVec 3
  | .rne => 0 | .rz => 1 | .rd => 2 | .ru => 3 | .rna => 4 | .rs => 5
def fmodOf (m : BitVec 4) : Option FMod := (rndOf ((m >>> 1).setWidth 3)).map fun r => ⟨r, m.getLsbD 0⟩
def FMod.code (m : FMod) : BitVec 4 := m.rnd.code ++ BitVec.ofBool m.sat
def iccOf (c : BitVec 4) : Option ICc :=
  match c.toNat with
  | 0 => some .eq | 1 => some .ne | 2 => some .lt | 3 => some .le | 4 => some .gt | 5 => some .ge | _ => none
def ICc.code : ICc → BitVec 4
  | .eq => 0 | .ne => 1 | .lt => 2 | .le => 3 | .gt => 4 | .ge => 5
def fccOf (c : BitVec 4) : Option FCc :=
  match c.toNat with
  | 0 => some .eq | 1 => some .ne | 2 => some .lt | 3 => some .le | 4 => some .gt | 5 => some .ge
  | 6 => some .un | 7 => some .or | _ => none
def FCc.code : FCc → BitVec 4
  | .eq => 0 | .ne => 1 | .lt => 2 | .le => 3 | .gt => 4 | .ge => 5 | .un => 6 | .or => 7
/-- M [3] selects the family in which T is read; M [2:0] must be zero (R273). -/
def rtyOf (m : BitVec 4) (t : BitVec 3) : Option RTy :=
  match m.toNat with
  | 8 => (ftyOf t).map .f
  | 0 => (ityOf t).map .i
  | _ => none
def RTy.code : RTy → BitVec 3
  | .f t => t.code
  | .i t => t.code
def RTy.fam : RTy → BitVec 4
  | .f _ => 8
  | .i _ => 0
/-- KIND and FS of `scvt` (R268). -/
def scvtKindOf (kind : BitVec 2) (fs : BitVec 3) : Option ScvtKind :=
  match kind.toNat with
  | 0 => (ftyOf fs).map .ff
  | 1 => some .fromI64
  | 2 => some .toI64
  | _ => none
def scvtZero (kind : BitVec 2) (fs : BitVec 3) : Bool := kind == 0 || fs == 0
def ScvtKind.kind : ScvtKind → BitVec 2
  | .ff _ => 0 | .fromI64 => 1 | .toI64 => 2
def ScvtKind.fs : ScvtKind → BitVec 3
  | .ff t => t.code | .fromI64 => 0 | .toI64 => 0
/-- DK: 0 or 1; 2 and 3 are reserved (R306). -/
def copyDk (c : BitVec 2) : Option Bool :=
  match c.toNat with
  | 0 => some false | 1 => some true | _ => none

/-- The checks of one word in the order of R502: reserved codes and register-field values (0x03), then
nonzero fields that must be zero (0x04). -/
def chk (ok03 ok04 : Bool) (i : Instr) : Except DecodeErr Instr :=
  match ok03, ok04 with
  | false, _ => .error .reservedCode
  | true, false => .error .nonzeroField
  | true, true => .ok i
/-- A reserved value of an enumerated field is 0x03. -/
def code {α : Type} (o : Option α) (k : α → Except DecodeErr Instr) : Except DecodeErr Instr :=
  match o with
  | none => .error .reservedCode
  | some a => k a
/-- The Lone rules "no" and "must" (R185): 0x05. -/
def noLit (ln : Bool) (k : Except DecodeErr Instr) : Except DecodeErr Instr :=
  match ln with
  | true => .error .loneRule
  | false => k
def needLit (ln : Bool) (k : Except DecodeErr Instr) : Except DecodeErr Instr :=
  match ln with
  | true => k
  | false => .error .loneRule
/-- T read in the integer family, in the float family, or as M [3] says (R197, R273). -/
def tyI (w : Nat) (k : ITy → Except DecodeErr Instr) : Except DecodeErr Instr := code (ityOf (aT w)) k
def tyF (w : Nat) (k : FTy → Except DecodeErr Instr) : Except DecodeErr Instr := code (ftyOf (aT w)) k
def tyR (w : Nat) (k : RTy → Except DecodeErr Instr) : Except DecodeErr Instr := code (rtyOf (aM w) (aT w)) k

/-- Lead group 0: control, search and task (R202, R208, R232, R234, R200). -/
def decodeLead0 (op w lit : Nat) (ln : Bool) : Except DecodeErr Instr :=
  match op with
  | 0x00 => noLit ln <| chk true (fI20 w == 0) .nop
  | 0x01 => chk true (immOk ln (fI20 w)) (.bra (immOf ln (fI20 w) lit))
  | 0x02 => code (bcondOf (fC4 w)) fun c =>
      chk (c.scalar || decide (fR5 w < 8)) (immOk ln (fI11 w)) (.bc c (fR5 w) (immOf ln (fI11 w) lit))
  | 0x03 => chk true (immOk ln (fI20 w)) (.call (immOf ln (fI20 w) lit))
  | 0x04 => noLit ln <| chk true (fB w == 0 && fX w == 0) (.calli (fD w) (fA w))
  | 0x05 => noLit ln <| chk true (fD w == 0 && fB w == 0 && fX w == 0) (.ret (fA w))
  | 0x06 => noLit ln <| chk true (fD w == 0 && fB w == 0 && fX w == 0) (.jmpi (fA w))
  | 0x07 => noLit ln <| if lit / 2 ^ 25 % 128 != 0 then .error .repArith
      else chk true (fZ5 w == 0 && (fD w == 0 || fN6 w == 0))
        (.rep (fD w) (fN6 w) (bitAt w 3) (bitAt w 2) (bitAt w 1) (bitAt w 0))
  | 0x08 => chk true (fD w == 0 && immOk ln (fI15 w) && (immOf ln (fI15 w) lit).lit16) (.yield (immOf ln (fI15 w) lit))
  | 0x09 => chk true (fD w == 0 && immOk ln (fI15 w) && (immOf ln (fI15 w) lit).lit16) (.safe (immOf ln (fI15 w) lit))
  | 0x0A => noLit ln <| chk true (fI20 w == 0) .endCont
  | 0x0B => chk true (immOk ln (fI15 w)) (.work (fD w) (immOf ln (fI15 w) lit))
  | 0x0C => noLit ln <| chk (isH (fA w)) (fD w == 0 && fB w == 0 && fX w == 0) (.wait (hOf (fA w)))
  | 0x0D => noLit ln <| chk (isH (fA w)) (fB w == 0 && fX w == 0) (.ftest (fD w) (hOf (fA w)))
  | 0x0E => noLit ln <| chk (isH (fD w)) (fA w == 0 && fB w == 0 && fX w == 0) (.fcancel (hOf (fD w)))
  | 0x0F => noLit ln <| chk (isH (fA w)) (fB w == 0 && fX w == 0) (.fget (fD w) (hOf (fA w)))
  | 0x10 => noLit ln <| chk (isH (fD w)) (fB w == 0 && fX w == 0) (.fput (hOf (fD w)) (fA w))
  | 0x11 => needLit ln <| chk true (fD w == 0 && fX w == 0 && decide (lit / 2 ^ 23 = 0) && (fB w == 0 || nOf 7 lit 16 == 0))
        (.tryChoice (fA w) (fB w) (nOf 7 lit 16) (nOf 16 lit 0))
  | 0x12 => noLit ln <| chk true (fI20 w == 0) .fail
  | 0x13 => noLit ln <| chk (decide (fD w ≠ 0 ∨ fI15 w ≤ 255)) (fD w == 0 || fI15 w == 0)
        (.cut (fD w) (fI15 w))
  | 0x14 => noLit ln <| chk true (fI15 w == 0) (.mark (fD w))
  | 0x15 => needLit ln <| chk (isH (fD w)) (fB w == 0 && fX w == 0 && decide (lit / 2 ^ 16 = 0)) (.commit (hOf (fD w)) (fA w) (nOf 16 lit 0))
  | 0x16 => needLit ln <| chk (isH (fX w)) true (.tread (fD w) (fA w) (fB w) (hOf (fX w)) (nOf 32 lit 0))
  | 0x17 => noLit ln <| chk true (fB w == 0 && fX w == 0) (.tver (fD w) (fA w))
  | 0x18 => noLit ln <| chk true (fI20 w == 0) .quit
  | 0x19 => chk true (immOk ln (fI15 w) && (immOf ln (fI15 w) lit).lit16) (.svc (fD w) (immOf ln (fI15 w) lit))
  | 0x1A => chk true (immOk ln (fI15 w)) (.lit (fD w) (immOf ln (fI15 w) lit))
  | 0x1B => chk true (immOk ln (fI15 w)) (.lithi (fD w) (immOf ln (fI15 w) lit))
  | 0x1C => chk (fD w != 31) (immOk ln (fI15 w)) (.vlit (fD w) (immOf ln (fI15 w) lit))
  | _ => .error .reservedOp6

/-- Lead group 1: memory (R203, R285, R290, R300). -/
def decodeLead1 (op w lit : Nat) (ln : Bool) : Except DecodeErr Instr :=
  match op with
  | 0x00 => chk true (immOk ln (fI10 w)) (.ldW8 (fD w) (fA w) (immOf ln (fI10 w) lit))
  | 0x01 => chk true (immOk ln (fI10 w)) (.ldI8 (fD w) (fA w) (immOf ln (fI10 w) lit))
  | 0x02 => chk true (immOk ln (fI10 w)) (.ldW16 (fD w) (fA w) (immOf ln (fI10 w) lit))
  | 0x03 => chk true (immOk ln (fI10 w)) (.ldI16 (fD w) (fA w) (immOf ln (fI10 w) lit))
  | 0x04 => chk true (immOk ln (fI10 w)) (.ldW32 (fD w) (fA w) (immOf ln (fI10 w) lit))
  | 0x05 => chk true (immOk ln (fI10 w)) (.ldI32 (fD w) (fA w) (immOf ln (fI10 w) lit))
  | 0x06 => chk true (immOk ln (fI10 w)) (.ldW64 (fD w) (fA w) (immOf ln (fI10 w) lit))
  | 0x08 => chk true (immOk ln (fI10 w)) (.stW8 (fD w) (fA w) (immOf ln (fI10 w) lit))
  | 0x09 => chk true (immOk ln (fI10 w)) (.stW16 (fD w) (fA w) (immOf ln (fI10 w) lit))
  | 0x0A => chk true (immOk ln (fI10 w)) (.stW32 (fD w) (fA w) (immOf ln (fI10 w) lit))
  | 0x0B => chk true (immOk ln (fI10 w)) (.stW64 (fD w) (fA w) (immOf ln (fI10 w) lit))
  | 0x0C => code (ldszOf (xlo (fX w))) fun z => chk true (!bitAt w 4) (.ldx (fD w) (fA w) (fB w) (bitAt w 3) z (offOf ln lit))
  | 0x0D => code (stszOf (xlo (fX w))) fun z => chk true (!bitAt w 4) (.stx (fD w) (fA w) (fB w) (bitAt w 3) z (offOf ln lit))
  | 0x0E => chk (fD w != 31) (immOk ln (fI10 w)) (.vld (fD w) (fA w) (immOf ln (fI10 w) lit))
  | 0x0F => chk true (immOk ln (fI10 w)) (.vst (fD w) (fA w) (immOf ln (fI10 w) lit))
  | 0x10 => chk (fD w != 31) true (.vlds (fD w) (fA w) (fB w) (eszOf (xhi (fX w))) (xlo (fX w)) (offOf ln lit))
  | 0x11 => chk true true (.vsts (fD w) (fA w) (fB w) (eszOf (xhi (fX w))) (xlo (fX w)) (offOf ln lit))
  | 0x12 => chk (fD w != 31 && (eszOf (xhi (fX w))).wide) true (.vgat (fD w) (fA w) (fB w) (eszOf (xhi (fX w))) (xlo (fX w)) (offOf ln lit))
  | 0x13 => chk (eszOf (xhi (fX w))).wide true (.vsct (fD w) (fA w) (fB w) (eszOf (xhi (fX w))) (xlo (fX w)) (offOf ln lit))
  | 0x14 => chk (fD w != 31) (fB w == 0) (.vldb (fD w) (fA w) (eszOf (xhi (fX w))) (xlo (fX w)) (offOf ln lit))
  | 0x15 => code (ldszOf (xlo (fX w))) fun z => chk true (fB w == 0 && xhi (fX w) == 0) (.ldsync (fD w) (fA w) z (offOf ln lit))
  | 0x16 => chk (fD w != 31) (immOk ln (fI10 w)) (.vldsync (fD w) (fA w) (immOf ln (fI10 w) lit))
  | 0x17 => chk true (immOk ln (fI10 w)) (.stfull (fD w) (fA w) (immOf ln (fI10 w) lit))
  | 0x18 => chk true (immOk ln (fI10 w)) (.vstfull (fD w) (fA w) (immOf ln (fI10 w) lit))
  | 0x19 => chk true (fD w == 0 && fX w == 0) (.femp (fA w) (fB w) (offOf ln lit))
  | 0x1A => code (scopeOf (xlo (fX w))) fun sc => chk true (fB w == 0) (.ldacq (fD w) (fA w) (eszOf (xhi (fX w))) sc (offOf ln lit))
  | 0x1B => code (scopeOf (xlo (fX w))) fun sc => chk true (fB w == 0) (.strel (fD w) (fA w) (eszOf (xhi (fX w))) sc (offOf ln lit))
  | 0x1C => code (scopeOf (xlo (fX w))) fun sc => chk true true (.afadd (fD w) (fA w) (fB w) (atyOf (xhi (fX w))) sc (offOf ln lit))
  | 0x1D => code (scopeOf (xlo (fX w))) fun sc => chk true true (.afmin (fD w) (fA w) (fB w) (atyOf (xhi (fX w))) sc (offOf ln lit))
  | 0x1E => code (scopeOf (xlo (fX w))) fun sc => chk true true (.afmax (fD w) (fA w) (fB w) (atyOf (xhi (fX w))) sc (offOf ln lit))
  | 0x1F => code (scopeOf (xlo (fX w))) fun sc => chk true true (.afand (fD w) (fA w) (fB w) (atyOf (xhi (fX w))) sc (offOf ln lit))
  | 0x20 => code (scopeOf (xlo (fX w))) fun sc => chk true true (.afor (fD w) (fA w) (fB w) (atyOf (xhi (fX w))) sc (offOf ln lit))
  | 0x21 => code (scopeOf (xlo (fX w))) fun sc => chk true true (.afxor (fD w) (fA w) (fB w) (atyOf (xhi (fX w))) sc (offOf ln lit))
  | 0x22 => code (scopeOf (xlo (fX w))) fun sc => chk true true (.aswap (fD w) (fA w) (fB w) (atyOf (xhi (fX w))) sc (offOf ln lit))
  | 0x23 => code (scopeOf (xlo (fX w))) fun sc => chk (xhi (fX w) == 0) true (.affadd (fD w) (fA w) (fB w) sc (offOf ln lit))
  | 0x24 => needLit ln <| code (scopeOf (xlo (fX w))) fun sc =>
      chk true (nOf 3 lit 5 == 0) (.acas (fD w) (fA w) (fB w) (atyOf (xhi (fX w))) sc (nOf 24 lit 8) (nOf 5 lit 0))
  | 0x25 => code (lvlOf (nOf 2 w 0)) fun v => chk true (fD w == 0 && fB w == 0 && nOf 3 w 2 == 0) (.pref (fA w) v (offOf ln lit))
  | 0x26 => chk true (nOf 4 w 1 == 0) (.pin (fD w) (fA w) (fB w) (bitAt w 0) (offOf ln lit))
  | 0x27 => chk true (fD w == 0 && nOf 4 w 1 == 0) (.unpin (fA w) (fB w) (bitAt w 0) (offOf ln lit))
  | 0x28 => chk true (fD w == 0 && fX w == 0) (.cflush (fA w) (fB w) (offOf ln lit))
  | 0x29 => chk true (fD w == 0 && fX w == 0) (.cinv (fA w) (fB w) (offOf ln lit))
  | _ => .error .reservedOp6

/-- Lead group 2: engines and synchronisation (R204, R305, R306, R240, R242). -/
def decodeLead2 (op w lit : Nat) (ln : Bool) : Except DecodeErr Instr :=
  match op with
  | 0x00 => match ln with
      | true =>
        code (copyDk (nOf 2 lit 4)) fun dk => code (scopeOf (nOf 3 lit 0)) fun sc =>
          chk (isH (fD w)) (decide (lit / 2 ^ 10 = 0) && (dk || nOf 4 lit 6 == 0))
            (.copy (hOf (fD w)) (fA w) (fB w) (fX w) (some ⟨nOf 4 lit 6, dk, bitAt lit 3, sc⟩))
      | false => chk (isH (fD w)) true (.copy (hOf (fD w)) (fA w) (fB w) (fX w) none)
  | 0x01 => match ln with
      | true =>
        code (copyDk (nOf 2 lit 4)) fun dk => code (scopeOf (nOf 3 lit 0)) fun sc =>
          chk (isH (fD w) && kTriple (fX w)) (decide (lit / 2 ^ 10 = 0) && (dk || nOf 4 lit 6 == 0))
            (.copy2 (hOf (fD w)) (fA w) (fB w) (fX w) (some ⟨nOf 4 lit 6, dk, bitAt lit 3, sc⟩))
      | false => chk (isH (fD w) && kTriple (fX w)) true (.copy2 (hOf (fD w)) (fA w) (fB w) (fX w) none)
  | 0x02 => match ln with
      | true =>
        code (copyDk (nOf 2 lit 4)) fun dk => code (scopeOf (nOf 3 lit 0)) fun sc =>
          chk (isH (fD w)) (decide (lit / 2 ^ 10 = 0) && (nOf 4 lit 6 == 0))
            (.copym (hOf (fD w)) (fA w) (fB w) (fX w) (some ⟨nOf 4 lit 6, dk, bitAt lit 3, sc⟩))
      | false => chk (isH (fD w)) true (.copym (hOf (fD w)) (fA w) (fB w) (fX w) none)
  | 0x03 => noLit ln <| chk true (fD w == 0) (.stage (fI15 w))
  | 0x04 => chk (isH (fD w)) (fB w == 0 && fX w == 0) (.mxld (hOf (fD w)) (fA w) (offOf ln lit))
  | 0x05 => chk (isH (fD w) && decide (fX w ≤ 8)) true (.mxmm (hOf (fD w)) (fA w) (fB w) (fX w) (offOf ln lit))
  | 0x06 => chk (isH (fD w)) true (.mxsp (hOf (fD w)) (fA w) (fB w) (fX w) (offOf ln lit))
  | 0x07 => chk (isH (fD w) && kTriple (fX w)) true (.mxgrp (hOf (fD w)) (fA w) (fB w) (fX w) (offOf ln lit))
  | 0x08 => chk (isH (fD w)) (fI15 w == 0 && litZero ln lit) (.mxrot (hOf (fD w)) ln)
  | 0x09 => chk (isH (fD w)) (litZero ln lit) (.mxrd (hOf (fD w)) (fA w) (fB w) (fX w) ln)
  | 0x0A => chk (isH (fD w)) (fA w == 0 && fX w == 0 && litZero ln lit) (.mxclr (hOf (fD w)) (fB w) ln)
  | 0x0B => chk (isH (fD w)) (litZero ln lit) (.mxmeta (hOf (fD w)) (fA w) (fB w) (fX w) ln)
  | 0x0C => needLit ln <| chk (isH (fD w)) (fX w == 0) (.mxcmd (hOf (fD w)) (fA w) (fB w) (nOf 32 lit 0))
  | 0x0D => chk (isH (fD w)) true (.msg (hOf (fD w)) (fA w) (fB w) (fX w) (offOf ln lit))
  | 0x0E => noLit ln <| chk true (fB w == 0 && fX w == 0) (.recv (fD w) (fA w))
  | 0x0F => chk (decide (1 ≤ fD w ∧ fD w ≤ 4)) (immOk ln (fI15 w) && (immOf ln (fI15 w) lit).lit16) (.bar (fD w) (immOf ln (fI15 w) lit))
  | 0x10 => noLit ln <| chk true (fI20 w == 0) .barl
  | 0x11 => noLit ln <| code (scopeOf (xlo (fX w))) fun sc => chk true (fD w == 0 && fA w == 0 && fB w == 0 && xhi (fX w) == 0) (.fence sc)
  | _ => .error .reservedOp6

/-- Lead group 3: system (R204, R326). -/
def decodeLead3 (op w : Nat) (ln : Bool) : Except DecodeErr Instr :=
  match op with
  | 0x00 => noLit ln <| match decide (fI15 w < 0x1E) with | true => .ok (.gets (fD w) (fI15 w)) | false => .error .reservedSysReg
  | 0x01 => noLit ln <| match decide (fI15 w < 0x1E) with | true => .ok (.puts (fD w) (fI15 w)) | false => .error .reservedSysReg
  | 0x02 => noLit ln <| chk true (fB w == 0 && fX w == 0) (.hand (fD w) (fA w))
  | 0x03 => noLit ln <| chk true (fD w == 0 && fB w == 0 && fX w == 0) (.hret (fA w))
  | 0x04 => noLit ln <| chk true (fD w == 0 && fX w == 0) (.rseed (fA w) (fB w))
  | 0x05 => noLit ln <| chk true (fD w == 0 && fB w == 0 && fX w == 0) (.park (fA w))
  | _ => .error .reservedOp6

/-- The lead word; `lit` is word 1, read as the literal when L is 1 (R182, R185). -/
def decodeLead (w lit : Nat) : Except DecodeErr Instr :=
  match w / 2 ^ 26 % 4 with
  | 0 => decodeLead0 (w / 2 ^ 20 % 64) w lit (bitAt w 31)
  | 1 => decodeLead1 (w / 2 ^ 20 % 64) w lit (bitAt w 31)
  | 2 => decodeLead2 (w / 2 ^ 20 % 64) w lit (bitAt w 31)
  | _ => decodeLead3 (w / 2 ^ 20 % 64) w (bitAt w 31)

/-- Arithmetic words: scalar integer (R247-R252). -/
def decodeArithScalar (op w : Nat) : Except DecodeErr Instr :=
  match op with
  | 0x01 => tyI w fun t => chk (aM w == 0) true (.add (aP w) (aD w) (aA w) (aB w) t)
  | 0x02 => tyI w fun t => chk (aM w == 0) true (.sub (aP w) (aD w) (aA w) (aB w) t)
  | 0x03 => tyI w fun t => chk (aM w == 0) true (.mul (aP w) (aD w) (aA w) (aB w) t)
  | 0x04 => tyI w fun t => chk (aM w == 0) true (.mulh (aP w) (aD w) (aA w) (aB w) t)
  | 0x05 => tyI w fun t => chk (aM w == 0) true (.div (aP w) (aD w) (aA w) (aB w) t)
  | 0x06 => tyI w fun t => chk (aM w == 0) true (.rem (aP w) (aD w) (aA w) (aB w) t)
  | 0x07 => tyI w fun t => chk (aM w == 0) true (.and (aP w) (aD w) (aA w) (aB w) t)
  | 0x08 => tyI w fun t => chk (aM w == 0) true (.or (aP w) (aD w) (aA w) (aB w) t)
  | 0x09 => tyI w fun t => chk (aM w == 0) true (.xor (aP w) (aD w) (aA w) (aB w) t)
  | 0x0A => tyI w fun t => chk (aM w == 0) true (.andn (aP w) (aD w) (aA w) (aB w) t)
  | 0x0B => tyI w fun t => chk (aM w == 0) true (.shl (aP w) (aD w) (aA w) (aB w) t)
  | 0x0C => tyI w fun t => chk (aM w == 0) true (.shr (aP w) (aD w) (aA w) (aB w) t)
  | 0x0D => tyI w fun t => chk (aM w == 0) true (.sra (aP w) (aD w) (aA w) (aB w) t)
  | 0x0E => tyI w fun t => chk (aM w == 0) true (.rot (aP w) (aD w) (aA w) (aB w) t)
  | 0x0F => tyI w fun t => chk (aM w == 0) true (.min (aP w) (aD w) (aA w) (aB w) t)
  | 0x10 => tyI w fun t => chk (aM w == 0) true (.max (aP w) (aD w) (aA w) (aB w) t)
  | 0x11 => tyI w fun t => code (iccOf (aM w)) fun c => .ok (.set (aP w) (aD w) (aA w) (aB w) t c)
  | 0x12 => tyI w fun t => chk (aM w == 0) true (.sel (aP w) (aD w) (aA w) (aB w) t)
  | 0x13 => tyI w fun t => chk (aM w == 0) true (.adds (aP w) (aD w) (aA w) (aB w) t)
  | 0x14 => tyI w fun t => chk (aM w == 0) (aB w == 0) (.clz (aP w) (aD w) (aA w) t)
  | 0x15 => tyI w fun t => chk (aM w == 0) (aB w == 0) (.popc (aP w) (aD w) (aA w) t)
  | 0x16 => tyI w fun t => chk (aM w == 0) true (.bext (aP w) (aD w) (aA w) (aB w) t)
  | 0x17 => tyI w fun t => chk (aM w == 0) true (.bins (aP w) (aD w) (aA w) (aB w) t)
  | 0x18 => tyI w fun t => chk (aM w == 0) (aB w == 0) (.mov (aP w) (aD w) (aA w) t)
  | 0x19 => .ok (.addi (aP w) (aD w) (aA w) (nOf 12 w 0))
  | 0x1A => .ok (.andi (aP w) (aD w) (aA w) (nOf 12 w 0))
  | 0x1B => .ok (.ori (aP w) (aD w) (aA w) (nOf 12 w 0))
  | 0x1C => .ok (.xori (aP w) (aD w) (aA w) (nOf 12 w 0))
  | 0x1D => chk true (nOf 6 w 6 == 0) (.shli (aP w) (aD w) (aA w) (nOf 6 w 0))
  | 0x1E => chk true (nOf 6 w 6 == 0) (.shri (aP w) (aD w) (aA w) (nOf 6 w 0))
  | _ => .error .reservedOp7

/-- Arithmetic words: vector integer (R253-R256). -/
def decodeArithVInt (op w : Nat) : Except DecodeErr Instr :=
  match op with
  | 0x20 => tyI w fun t => chk (t.vec && aM w == 0) true (.vadd (aP w) (aD w) (aA w) (aB w) t)
  | 0x21 => tyI w fun t => chk (t.vec && aM w == 0) true (.vsub (aP w) (aD w) (aA w) (aB w) t)
  | 0x22 => tyI w fun t => chk (t.vec && aM w == 0) true (.vmul (aP w) (aD w) (aA w) (aB w) t)
  | 0x23 => tyI w fun t => chk (t.vec && aM w == 0) true (.vmulh (aP w) (aD w) (aA w) (aB w) t)
  | 0x24 => tyI w fun t => chk (t.vec && aM w == 0) true (.vaddsat (aP w) (aD w) (aA w) (aB w) t)
  | 0x25 => tyI w fun t => chk (t.vec && aM w == 0) true (.vsubsat (aP w) (aD w) (aA w) (aB w) t)
  | 0x26 => tyI w fun t => chk (t.vec && aM w == 0) true (.vand (aP w) (aD w) (aA w) (aB w) t)
  | 0x27 => tyI w fun t => chk (t.vec && aM w == 0) true (.vor (aP w) (aD w) (aA w) (aB w) t)
  | 0x28 => tyI w fun t => chk (t.vec && aM w == 0) true (.vxor (aP w) (aD w) (aA w) (aB w) t)
  | 0x29 => tyI w fun t => chk (t.vec && aM w == 0) true (.vandn (aP w) (aD w) (aA w) (aB w) t)
  | 0x2A => tyI w fun t => chk (t.vec && aM w == 0) true (.vshl (aP w) (aD w) (aA w) (aB w) t)
  | 0x2B => tyI w fun t => chk (t.vec && aM w == 0) true (.vshr (aP w) (aD w) (aA w) (aB w) t)
  | 0x2C => tyI w fun t => chk (t.vec && aM w == 0) true (.vsra (aP w) (aD w) (aA w) (aB w) t)
  | 0x2D => tyI w fun t => chk (t.vec && aM w == 0) true (.vmin (aP w) (aD w) (aA w) (aB w) t)
  | 0x2E => tyI w fun t => chk (t.vec && aM w == 0) true (.vmax (aP w) (aD w) (aA w) (aB w) t)
  | 0x2F => tyI w fun t => chk (t.vec && aM w == 0) (aB w == 0) (.vabs (aP w) (aD w) (aA w) t)
  | 0x30 => tyI w fun t => chk (t.vec && aM w == 0) (aB w == 0) (.vneg (aP w) (aD w) (aA w) t)
  | 0x31 => tyI w fun t => chk ((t == .i8 || t == .w8) && nOf 3 w 1 == 0) true (.vdot4 (aP w) (aD w) (aA w) (aB w) t (bitAt w 0))
  | 0x32 => tyI w fun t => code (iccOf (aM w)) fun c => chk (t.vec && isP (aD w)) true (.vcmp (aP w) (pOf (aD w)) (aA w) (aB w) t c)
  | 0x33 => tyI w fun t => chk (t.vec && aM w == 0 && isP (aB w)) true (.vsel (aP w) (aD w) (aA w) (pOf (aB w)) t)
  | _ => .error .reservedOp7

/-- Arithmetic words: vector float (R257-R262). -/
def decodeArithVFloat (op w : Nat) : Except DecodeErr Instr :=
  match op with
  | 0x40 => tyF w fun t => code (fmodOf (aM w)) fun m => chk t.arith true (.vfadd (aP w) (aD w) (aA w) (aB w) t m)
  | 0x41 => tyF w fun t => code (fmodOf (aM w)) fun m => chk t.arith true (.vfsub (aP w) (aD w) (aA w) (aB w) t m)
  | 0x42 => tyF w fun t => code (fmodOf (aM w)) fun m => chk t.arith true (.vfmul (aP w) (aD w) (aA w) (aB w) t m)
  | 0x43 => tyF w fun t => code (fmodOf (aM w)) fun m => chk t.arith true (.vfma (aP w) (aD w) (aA w) (aB w) t m)
  | 0x44 => tyF w fun t => code (fmodOf (aM w)) fun m => chk t.arith true (.vfms (aP w) (aD w) (aA w) (aB w) t m)
  | 0x45 => tyF w fun t => code (fmodOf (aM w)) fun m => chk t.arith true (.vfnma (aP w) (aD w) (aA w) (aB w) t m)
  | 0x46 => tyF w fun t => chk (t.arith && aM w == 0) true (.vfmin (aP w) (aD w) (aA w) (aB w) t)
  | 0x47 => tyF w fun t => chk (t.arith && aM w == 0) true (.vfmax (aP w) (aD w) (aA w) (aB w) t)
  | 0x48 => tyF w fun t => chk (t.arith && aM w == 0) (aB w == 0) (.vfabs (aP w) (aD w) (aA w) t)
  | 0x49 => tyF w fun t => chk (t.arith && aM w == 0) (aB w == 0) (.vfneg (aP w) (aD w) (aA w) t)
  | 0x4A => tyF w fun t => code (fccOf (aM w)) fun c => chk (t.arith && isP (aD w)) true (.vfcmp (aP w) (pOf (aD w)) (aA w) (aB w) t c)
  | 0x4B => tyF w fun t => code (fmodOf (aM w)) fun m => chk t.arith (aB w == 0) (.vfrcp (aP w) (aD w) (aA w) t m)
  | 0x4C => tyF w fun t => code (fmodOf (aM w)) fun m => chk t.arith (aB w == 0) (.vfrsq (aP w) (aD w) (aA w) t m)
  | 0x4D => tyF w fun t => code (fmodOf (aM w)) fun m => chk t.arith (aB w == 0) (.vfsqrt (aP w) (aD w) (aA w) t m)
  | 0x4E => tyF w fun t => code (fmodOf (aM w)) fun m => chk t.arith (aB w == 0) (.vfexp2 (aP w) (aD w) (aA w) t m)
  | 0x4F => tyF w fun t => code (fmodOf (aM w)) fun m => chk t.arith (aB w == 0) (.vflog2 (aP w) (aD w) (aA w) t m)
  | 0x50 => tyF w fun t => code (fmodOf (aM w)) fun m => chk t.arith (aB w == 0) (.vftanh (aP w) (aD w) (aA w) t m)
  | 0x51 => tyF w fun t => code (fmodOf (aM w)) fun m => chk t.arith (aB w == 0) (.vfsinpi (aP w) (aD w) (aA w) t m)
  | 0x52 => tyF w fun t => code (fmodOf (aM w)) fun m => chk t.arith (aB w == 0) (.vfcospi (aP w) (aD w) (aA w) t m)
  | 0x53 => tyF w fun t => code (fmodOf (aM w)) fun m => chk t.arith true (.vfscale (aP w) (aD w) (aA w) (aB w) t m)
  | 0x54 => tyF w fun t => code (fmodOf (aM w)) fun m => chk (t == .bf16 || t == .f16) true (.vfdot2 (aP w) (aD w) (aA w) (aB w) t m)
  | _ => .error .reservedOp7

/-- Arithmetic words: conversions, predicates, reductions, permutations, random numbers (R263-R282). -/
def decodeArithRest (op w : Nat) : Except DecodeErr Instr :=
  match op with
  | 0x60 => tyF w fun t => code (ftyOf (nOf 3 w 7)) fun ts => code (fmodOf (aM w)) fun m =>
      chk (decide ((nOf 2 w 10).toNat < ratio ts.bits t.bits)) true (.vcvt (aP w) (aD w) (aA w) (nOf 2 w 10) ts t m)
  | 0x61 => tyI w fun t => code (ftyOf (nOf 3 w 7)) fun f => code (fmodOf (aM w)) fun m =>
      chk (widthPair f.bits t.bits && t.vec && (!bitAt w 11 || f.bits != t.bits) && (bitAt w 10 || !m.sat)) true
        (.vcvti (aP w) (aD w) (aA w) (bitAt w 11) (bitAt w 10) f t m)
  | 0x62 => tyF w fun t => code (fmodOf (aM w)) fun m => chk (t != .f32) true (.vpack (aP w) (aD w) (aA w) (aB w) t m)
  | 0x63 => tyF w fun t => chk (t != .f32 && aM w == 0 && decide (aB w < 2)) true (.vunpk (aP w) (aD w) (aA w) (bitAt w 7) t)
  | 0x64 => tyF w fun t => code (scvtKindOf (nOf 2 w 10) (nOf 3 w 7)) fun k => code (fmodOf (aM w)) fun m =>
      chk (k != .toI64 || !m.sat) (scvtZero (nOf 2 w 10) (nOf 3 w 7)) (.scvt (aP w) (aD w) (aA w) k t m)
  | 0x65 => tyI w fun t => chk (t.vec && aM w == 0 && isP (aD w)) true (.vbnd (aP w) (pOf (aD w)) (aA w) (aB w) t)
  | 0x66 => chk (aT w == 0 && aM w == 0 && isP (aD w) && isP (aA w) && isP (aB w)) true (.pand (aP w) (pOf (aD w)) (pOf (aA w)) (pOf (aB w)))
  | 0x67 => chk (aT w == 0 && aM w == 0 && isP (aD w) && isP (aA w) && isP (aB w)) true (.por (aP w) (pOf (aD w)) (pOf (aA w)) (pOf (aB w)))
  | 0x68 => chk (aT w == 0 && aM w == 0 && isP (aD w) && isP (aA w) && isP (aB w)) true (.pxor (aP w) (pOf (aD w)) (pOf (aA w)) (pOf (aB w)))
  | 0x69 => chk (aT w == 0 && aM w == 0 && isP (aD w) && isP (aA w)) (aB w == 0) (.pnot (aP w) (pOf (aD w)) (pOf (aA w)))
  | 0x6A => chk (aT w == 0 && aM w == 0 && isP (aA w)) (aB w == 0) (.pcnt (aP w) (aD w) (pOf (aA w)))
  | 0x6B => chk (aT w == 0 && aM w == 0 && isP (aA w)) (aB w == 0) (.pfirst (aP w) (aD w) (pOf (aA w)))
  | 0x6C => chk (isP (aD w) && decide (nOf 9 w 0 ≤ 256)) (aA w == 0 && !bitAt w 9) (.pset (aP w) (pOf (aD w)) (nOf 2 w 10) (nOf 9 w 0))
  | 0x6D => tyR w fun t => chk t.reduce (aB w == 0) (.vrsum (aP w) (aD w) (aA w) t)
  | 0x6E => tyR w fun t => chk t.reduce (aB w == 0) (.vrmax (aP w) (aD w) (aA w) t)
  | 0x6F => tyR w fun t => chk t.reduce (aB w == 0) (.vrmin (aP w) (aD w) (aA w) t)
  | 0x70 => tyF w fun t => chk (t.arith && aM w == 8) (aB w == 0) (.vramax (aP w) (aD w) (aA w) t)
  | 0x71 => tyI w fun t => chk (t.vec && aM w == 0) true (.vperm (aP w) (aD w) (aA w) (aB w) t)
  | 0x72 => tyI w fun t => chk (t.vec && aM w == 0) (aB w == 0) (.vbcast (aP w) (aD w) (aA w) t)
  | 0x73 => tyI w fun t => chk (t.vec && aM w == 0) true (.vslide (aP w) (aD w) (aA w) (aB w) t)
  | 0x74 => tyI w fun t => chk (t.vec && nOf 3 w 1 == 0) true (.vzip (aP w) (aD w) (aA w) (aB w) t (bitAt w 0))
  | 0x75 => tyI w fun t => chk (t.vec && nOf 3 w 1 == 0) true (.vunzip (aP w) (aD w) (aA w) (aB w) t (bitAt w 0))
  | 0x76 => tyI w fun t => chk (t.vec && aM w == 0 && isP (aB w)) true (.vcomp (aP w) (aD w) (aA w) (pOf (aB w)) t)
  | 0x77 => tyR w fun t => chk t.scan (aB w == 0) (.vscan (aP w) (aD w) (aA w) t)
  | 0x78 => tyI w fun t => chk (t.vec && aM w == 0) true (.vmovs (aP w) (aD w) (aA w) (aB w) t)
  | 0x79 => tyI w fun t => chk (t.vec && aM w == 0) true (.vins (aP w) (aD w) (aA w) (aB w) t)
  | 0x7A => tyI w fun t => chk ((t == .w32 || t == .i32 || t == .i64) && aM w == 0) (aA w == 0 && aB w == 0) (.rand (aP w) (aD w) t)
  | 0x7B => tyF w fun t => chk (t.arith && aM w == 0) (aB w == 0) (.randf (aP w) (aD w) (aA w) t)
  | 0x7C => tyI w fun t => chk (t.vec && aM w == 0) (aA w == 0 && aB w == 0) (.vwid (aP w) (aD w) t)
  | _ => .error .reservedOp7

/-- The arithmetic word (R193, R186): OP7 equal to 0 is the no-operation, whose bits [24:0] must be zero. -/
def decodeArith (w : Nat) : Except DecodeErr Instr :=
  match w / 2 ^ 30 % 4 with
  | 0 => if w / 2 ^ 25 % 128 = 0 then chk true (w % 2 ^ 25 == 0) .arithNop else decodeArithScalar (w / 2 ^ 25 % 128) w
  | 1 => decodeArithVInt (w / 2 ^ 25 % 128) w
  | 2 => decodeArithVFloat (w / 2 ^ 25 % 128) w
  | _ => decodeArithRest (w / 2 ^ 25 % 128) w

/-- A bundle from its two words (R181, R502): the lead word's codes come before the arithmetic word's. -/
def decodeBundle (w0 w1 : Nat) : Except DecodeErr Bundle :=
  match decodeLead w0 w1 with
  | .error e => .error e
  | .ok lead =>
    if bitAt w0 31 then .ok ⟨nOf 3 w0 28, lead, .arithNop⟩
    else
      match decodeArith w1 with
      | .error e => .error e
      | .ok a => .ok ⟨nOf 3 w0 28, lead, a⟩

/-- A bundle from its eight bytes, read as one little-endian value. -/
def decodeValue (v : Nat) : Except DecodeErr Bundle := decodeBundle (v % 2 ^ 32) (v / 2 ^ 32 % 2 ^ 32)

/-! The encoder, from the same tables. -/

/-- Lead words: L, W, the group and code, and the operand fields of each format (R182, R191, R200). -/
def packHead (ln : Bool) (wt : BitVec 3) (op : Nat) : Nat := ln.toNat * 2 ^ 31 + wt.toNat * 2 ^ 28 + op * 2 ^ 20
def packLR (ln : Bool) (wt : BitVec 3) (op : Nat) (d a b x : BitVec 5) : Nat :=
  packHead ln wt op + d.toNat * 2 ^ 15 + a.toNat * 2 ^ 10 + b.toNat * 2 ^ 5 + x.toNat
def packLI (ln : Bool) (wt : BitVec 3) (op : Nat) (d : BitVec 5) (i : BitVec 15) : Nat :=
  packHead ln wt op + d.toNat * 2 ^ 15 + i.toNat
def packLJ (ln : Bool) (wt : BitVec 3) (op : Nat) (i : BitVec 20) : Nat := packHead ln wt op + i.toNat
def packLB (ln : Bool) (wt : BitVec 3) (op : Nat) (c : BitVec 4) (r : BitVec 5) (i : BitVec 11) : Nat :=
  packHead ln wt op + c.toNat * 2 ^ 16 + r.toNat * 2 ^ 11 + i.toNat
def packLM (ln : Bool) (wt : BitVec 3) (op : Nat) (d a : BitVec 5) (i : BitVec 10) : Nat :=
  packHead ln wt op + d.toNat * 2 ^ 15 + a.toNat * 2 ^ 10 + i.toNat
def packRep (wt : BitVec 3) (c : BitVec 5) (n : BitVec 6) (o d a b : Bool) : Nat :=
  packHead false wt 7 + c.toNat * 2 ^ 15 + n.toNat * 2 ^ 9 + o.toNat * 2 ^ 3 + d.toNat * 2 ^ 2 + a.toNat * 2 + b.toNat
/-- Arithmetic words (R193). -/
def packAR (op : Nat) (p : BitVec 3) (d a b : BitVec 5) (t : BitVec 3) (m : BitVec 4) : Nat :=
  op * 2 ^ 25 + p.toNat * 2 ^ 22 + d.toNat * 2 ^ 17 + a.toNat * 2 ^ 12 + b.toNat * 2 ^ 7 + t.toNat * 2 ^ 4 + m.toNat
def packAI (op : Nat) (p : BitVec 3) (d a : BitVec 5) (i : BitVec 12) : Nat :=
  op * 2 ^ 25 + p.toNat * 2 ^ 22 + d.toNat * 2 ^ 17 + a.toNat * 2 ^ 12 + i.toNat

/-- A field that holds a narrower value. -/
def h5 (h : BitVec 4) : BitVec 5 := h.setWidth 5
def p5 (p : BitVec 3) : BitVec 5 := p.setWidth 5
def x5 (hi : BitVec 2) (lo : BitVec 3) : BitVec 5 := hi ++ lo
def bit1 (b : Bool) : BitVec 2 := if b then 1 else 0
def bit3 (b : Bool) : BitVec 3 := if b then 1 else 0
def bit4 (b : Bool) : BitVec 4 := if b then 1 else 0
/-- The field and the literal that carry an immediate (R185). -/
def Imm.field {n : Nat} : Imm n → BitVec n
  | .imm v => v
  | .lit _ => 0
def Imm.litNat {n : Nat} : Imm n → Nat
  | .imm _ => 0
  | .lit v => v.toNat
def litOf (o : Option (BitVec 32)) : Nat :=
  match o with
  | none => 0
  | some v => v.toNat
/-- The flags literal of a copy (R306). -/
def flagsNat (fl : Option CopyFlags) : Nat :=
  match fl with
  | none => 0
  | some f => f.dcl.toNat * 2 ^ 6 + f.dk.toNat * 2 ^ 4 + f.ss.toNat * 2 ^ 3 + f.scope.code.toNat

/-- The lead word and the literal (0 when the bundle is not lone). -/
def encodeLead (wt : BitVec 3) (i : Instr) : Nat × Nat :=
  match i with
  | .nop => (packLR false wt 0x00 0 0 0 0, 0)
  | .bra off => (packLJ off.isLit wt 0x01 off.field, off.litNat)
  | .bc c r off => (packLB off.isLit wt 0x02 c.code r off.field, off.litNat)
  | .call off => (packLJ off.isLit wt 0x03 off.field, off.litNat)
  | .calli d a => (packLR false wt 0x04 d a 0 0, 0)
  | .ret a => (packLR false wt 0x05 0 a 0 0, 0)
  | .jmpi a => (packLR false wt 0x06 0 a 0 0, 0)
  | .rep creg cnt stepO stepD stepA stepB => (packRep wt creg cnt stepO stepD stepA stepB, 0)
  | .yield map => (packLI map.isLit wt 0x08 0 map.field, map.litNat)
  | .safe map => (packLI map.isLit wt 0x09 0 map.field, map.litNat)
  | .endCont => (packLR false wt 0x0A 0 0 0 0, 0)
  | .work d amount => (packLI amount.isLit wt 0x0B d amount.field, amount.litNat)
  | .wait h => (packLR false wt 0x0C 0 (h5 h) 0 0, 0)
  | .ftest d h => (packLR false wt 0x0D d (h5 h) 0 0, 0)
  | .fcancel h => (packLR false wt 0x0E (h5 h) 0 0 0, 0)
  | .fget d h => (packLR false wt 0x0F d (h5 h) 0 0, 0)
  | .fput h a => (packLR false wt 0x10 (h5 h) a 0 0, 0)
  | .tryChoice a b n map => (packLR true wt 0x11 0 a b 0, n.toNat * 2 ^ 16 + map.toNat)
  | .fail => (packLR false wt 0x12 0 0 0 0, 0)
  | .cut d depth => (packLI false wt 0x13 d depth, 0)
  | .mark d => (packLI false wt 0x14 d 0, 0)
  | .commit h a map => (packLR true wt 0x15 (h5 h) a 0 0, map.toNat)
  | .tread d a b h ver => (packLR true wt 0x16 d a b (h5 h), ver.toNat)
  | .tver d a => (packLR false wt 0x17 d a 0 0, 0)
  | .quit => (packLR false wt 0x18 0 0 0 0, 0)
  | .svc d n => (packLI n.isLit wt 0x19 d n.field, n.litNat)
  | .lit d v => (packLI v.isLit wt 0x1A d v.field, v.litNat)
  | .lithi d v => (packLI v.isLit wt 0x1B d v.field, v.litNat)
  | .vlit d v => (packLI v.isLit wt 0x1C d v.field, v.litNat)
  | .ldW8 d a off => (packLM off.isLit wt 0x40 d a off.field, off.litNat)
  | .ldI8 d a off => (packLM off.isLit wt 0x41 d a off.field, off.litNat)
  | .ldW16 d a off => (packLM off.isLit wt 0x42 d a off.field, off.litNat)
  | .ldI16 d a off => (packLM off.isLit wt 0x43 d a off.field, off.litNat)
  | .ldW32 d a off => (packLM off.isLit wt 0x44 d a off.field, off.litNat)
  | .ldI32 d a off => (packLM off.isLit wt 0x45 d a off.field, off.litNat)
  | .ldW64 d a off => (packLM off.isLit wt 0x46 d a off.field, off.litNat)
  | .stW8 d a off => (packLM off.isLit wt 0x48 d a off.field, off.litNat)
  | .stW16 d a off => (packLM off.isLit wt 0x49 d a off.field, off.litNat)
  | .stW32 d a off => (packLM off.isLit wt 0x4A d a off.field, off.litNat)
  | .stW64 d a off => (packLM off.isLit wt 0x4B d a off.field, off.litNat)
  | .ldx d a b sc sz off => (packLR off.isSome wt 0x4C d a b (x5 (bit1 sc) sz.code), litOf off)
  | .stx d a b sc sz off => (packLR off.isSome wt 0x4D d a b (x5 (bit1 sc) sz.stCode), litOf off)
  | .vld d a off => (packLM off.isLit wt 0x4E d a off.field, off.litNat)
  | .vst d a off => (packLM off.isLit wt 0x4F d a off.field, off.litNat)
  | .vlds d a b e p off => (packLR off.isSome wt 0x50 d a b (x5 e.code p), litOf off)
  | .vsts d a b e p off => (packLR off.isSome wt 0x51 d a b (x5 e.code p), litOf off)
  | .vgat d a b e p off => (packLR off.isSome wt 0x52 d a b (x5 e.code p), litOf off)
  | .vsct d a b e p off => (packLR off.isSome wt 0x53 d a b (x5 e.code p), litOf off)
  | .vldb d a e p off => (packLR off.isSome wt 0x54 d a 0 (x5 e.code p), litOf off)
  | .ldsync d a sz off => (packLR off.isSome wt 0x55 d a 0 (x5 0 sz.code), litOf off)
  | .vldsync d a off => (packLM off.isLit wt 0x56 d a off.field, off.litNat)
  | .stfull d a off => (packLM off.isLit wt 0x57 d a off.field, off.litNat)
  | .vstfull d a off => (packLM off.isLit wt 0x58 d a off.field, off.litNat)
  | .femp a b off => (packLR off.isSome wt 0x59 0 a b 0, litOf off)
  | .ldacq d a sz sc off => (packLR off.isSome wt 0x5A d a 0 (x5 sz.code sc.code), litOf off)
  | .strel d a sz sc off => (packLR off.isSome wt 0x5B d a 0 (x5 sz.code sc.code), litOf off)
  | .afadd d a b t sc off => (packLR off.isSome wt 0x5C d a b (x5 t.code sc.code), litOf off)
  | .afmin d a b t sc off => (packLR off.isSome wt 0x5D d a b (x5 t.code sc.code), litOf off)
  | .afmax d a b t sc off => (packLR off.isSome wt 0x5E d a b (x5 t.code sc.code), litOf off)
  | .afand d a b t sc off => (packLR off.isSome wt 0x5F d a b (x5 t.code sc.code), litOf off)
  | .afor d a b t sc off => (packLR off.isSome wt 0x60 d a b (x5 t.code sc.code), litOf off)
  | .afxor d a b t sc off => (packLR off.isSome wt 0x61 d a b (x5 t.code sc.code), litOf off)
  | .aswap d a b t sc off => (packLR off.isSome wt 0x62 d a b (x5 t.code sc.code), litOf off)
  | .affadd d a b sc off => (packLR off.isSome wt 0x63 d a b (x5 0 sc.code), litOf off)
  | .acas d a b t sc off new => (packLR true wt 0x64 d a b (x5 t.code sc.code), off.toNat * 2 ^ 8 + new.toNat)
  | .pref a lvl off => (packLR off.isSome wt 0x65 0 a 0 (x5 0 (lvl.code.setWidth 3)), litOf off)
  | .pin d a b l3 off => (packLR off.isSome wt 0x66 d a b (x5 0 (bit3 l3)), litOf off)
  | .unpin a b l3 off => (packLR off.isSome wt 0x67 0 a b (x5 0 (bit3 l3)), litOf off)
  | .cflush a b off => (packLR off.isSome wt 0x68 0 a b 0, litOf off)
  | .cinv a b off => (packLR off.isSome wt 0x69 0 a b 0, litOf off)
  | .copy h d s n fl => (packLR fl.isSome wt 0x80 (h5 h) d s n, flagsNat fl)
  | .copy2 h d s k fl => (packLR fl.isSome wt 0x81 (h5 h) d s k, flagsNat fl)
  | .copym h d s n fl => (packLR fl.isSome wt 0x82 (h5 h) d s n, flagsNat fl)
  | .stage n => (packLI false wt 0x83 0 n, 0)
  | .mxld h a off => (packLR off.isSome wt 0x84 (h5 h) a 0 0, litOf off)
  | .mxmm h a b code off => (packLR off.isSome wt 0x85 (h5 h) a b code, litOf off)
  | .mxsp h a b c off => (packLR off.isSome wt 0x86 (h5 h) a b c, litOf off)
  | .mxgrp h a b k off => (packLR off.isSome wt 0x87 (h5 h) a b k, litOf off)
  | .mxrot h lone => (packLR lone wt 0x88 (h5 h) 0 0 0, 0)
  | .mxrd h a b c lone => (packLR lone wt 0x89 (h5 h) a b c, 0)
  | .mxclr h b lone => (packLR lone wt 0x8A (h5 h) 0 b 0, 0)
  | .mxmeta h a b c lone => (packLR lone wt 0x8B (h5 h) a b c, 0)
  | .mxcmd h a b cap => (packLR true wt 0x8C (h5 h) a b 0, cap.toNat)
  | .msg h a b c tag => (packLR tag.isSome wt 0x8D (h5 h) a b c, litOf tag)
  | .recv d a => (packLR false wt 0x8E d a 0 0, 0)
  | .bar level map => (packLI map.isLit wt 0x8F level map.field, map.litNat)
  | .barl => (packLR false wt 0x90 0 0 0 0, 0)
  | .fence sc => (packLR false wt 0x91 0 0 0 (x5 0 sc.code), 0)
  | .gets d n => (packLI false wt 0xC0 d n, 0)
  | .puts d n => (packLI false wt 0xC1 d n, 0)
  | .hand d a => (packLR false wt 0xC2 d a 0 0, 0)
  | .hret a => (packLR false wt 0xC3 0 a 0 0, 0)
  | .rseed a b => (packLR false wt 0xC4 0 a b 0, 0)
  | .park a => (packLR false wt 0xC5 0 a 0 0, 0)
  | _ => (0, 0)

/-- The arithmetic word. -/
def encodeArith (i : Instr) : Nat :=
  match i with
  | .add p d a b t => packAR 0x01 p d a b t.code 0
  | .sub p d a b t => packAR 0x02 p d a b t.code 0
  | .mul p d a b t => packAR 0x03 p d a b t.code 0
  | .mulh p d a b t => packAR 0x04 p d a b t.code 0
  | .div p d a b t => packAR 0x05 p d a b t.code 0
  | .rem p d a b t => packAR 0x06 p d a b t.code 0
  | .and p d a b t => packAR 0x07 p d a b t.code 0
  | .or p d a b t => packAR 0x08 p d a b t.code 0
  | .xor p d a b t => packAR 0x09 p d a b t.code 0
  | .andn p d a b t => packAR 0x0A p d a b t.code 0
  | .shl p d a b t => packAR 0x0B p d a b t.code 0
  | .shr p d a b t => packAR 0x0C p d a b t.code 0
  | .sra p d a b t => packAR 0x0D p d a b t.code 0
  | .rot p d a b t => packAR 0x0E p d a b t.code 0
  | .min p d a b t => packAR 0x0F p d a b t.code 0
  | .max p d a b t => packAR 0x10 p d a b t.code 0
  | .set p d a b t c => packAR 0x11 p d a b t.code c.code
  | .sel p d a b t => packAR 0x12 p d a b t.code 0
  | .adds p d a b t => packAR 0x13 p d a b t.code 0
  | .clz p d a t => packAR 0x14 p d a 0 t.code 0
  | .popc p d a t => packAR 0x15 p d a 0 t.code 0
  | .bext p d a b t => packAR 0x16 p d a b t.code 0
  | .bins p d a b t => packAR 0x17 p d a b t.code 0
  | .mov p d a t => packAR 0x18 p d a 0 t.code 0
  | .addi p d a i => packAI 0x19 p d a i
  | .andi p d a i => packAI 0x1A p d a i
  | .ori p d a i => packAI 0x1B p d a i
  | .xori p d a i => packAI 0x1C p d a i
  | .shli p d a k => packAI 0x1D p d a (k.setWidth 12)
  | .shri p d a k => packAI 0x1E p d a (k.setWidth 12)
  | .vadd p d a b t => packAR 0x20 p d a b t.code 0
  | .vsub p d a b t => packAR 0x21 p d a b t.code 0
  | .vmul p d a b t => packAR 0x22 p d a b t.code 0
  | .vmulh p d a b t => packAR 0x23 p d a b t.code 0
  | .vaddsat p d a b t => packAR 0x24 p d a b t.code 0
  | .vsubsat p d a b t => packAR 0x25 p d a b t.code 0
  | .vand p d a b t => packAR 0x26 p d a b t.code 0
  | .vor p d a b t => packAR 0x27 p d a b t.code 0
  | .vxor p d a b t => packAR 0x28 p d a b t.code 0
  | .vandn p d a b t => packAR 0x29 p d a b t.code 0
  | .vshl p d a b t => packAR 0x2A p d a b t.code 0
  | .vshr p d a b t => packAR 0x2B p d a b t.code 0
  | .vsra p d a b t => packAR 0x2C p d a b t.code 0
  | .vmin p d a b t => packAR 0x2D p d a b t.code 0
  | .vmax p d a b t => packAR 0x2E p d a b t.code 0
  | .vabs p d a t => packAR 0x2F p d a 0 t.code 0
  | .vneg p d a t => packAR 0x30 p d a 0 t.code 0
  | .vdot4 p d a b t sat => packAR 0x31 p d a b t.code (bit4 sat)
  | .vcmp p d a b t c => packAR 0x32 p (p5 d) a b t.code c.code
  | .vsel p d a b t => packAR 0x33 p d a (p5 b) t.code 0
  | .vfadd p d a b t m => packAR 0x40 p d a b t.code m.code
  | .vfsub p d a b t m => packAR 0x41 p d a b t.code m.code
  | .vfmul p d a b t m => packAR 0x42 p d a b t.code m.code
  | .vfma p d a b t m => packAR 0x43 p d a b t.code m.code
  | .vfms p d a b t m => packAR 0x44 p d a b t.code m.code
  | .vfnma p d a b t m => packAR 0x45 p d a b t.code m.code
  | .vfmin p d a b t => packAR 0x46 p d a b t.code 0
  | .vfmax p d a b t => packAR 0x47 p d a b t.code 0
  | .vfabs p d a t => packAR 0x48 p d a 0 t.code 0
  | .vfneg p d a t => packAR 0x49 p d a 0 t.code 0
  | .vfcmp p d a b t c => packAR 0x4A p (p5 d) a b t.code c.code
  | .vfrcp p d a t m => packAR 0x4B p d a 0 t.code m.code
  | .vfrsq p d a t m => packAR 0x4C p d a 0 t.code m.code
  | .vfsqrt p d a t m => packAR 0x4D p d a 0 t.code m.code
  | .vfexp2 p d a t m => packAR 0x4E p d a 0 t.code m.code
  | .vflog2 p d a t m => packAR 0x4F p d a 0 t.code m.code
  | .vftanh p d a t m => packAR 0x50 p d a 0 t.code m.code
  | .vfsinpi p d a t m => packAR 0x51 p d a 0 t.code m.code
  | .vfcospi p d a t m => packAR 0x52 p d a 0 t.code m.code
  | .vfscale p d a b t m => packAR 0x53 p d a b t.code m.code
  | .vfdot2 p d a b t m => packAR 0x54 p d a b t.code m.code
  | .vcvt p d a q ts td m => packAR 0x60 p d a (x5 q ts.code) td.code m.code
  | .vcvti p d a q toFloat f t m => packAR 0x61 p d a (x5 (bit1 q * 2 + bit1 toFloat) f.code) t.code m.code
  | .vpack p d a b t m => packAR 0x62 p d a b t.code m.code
  | .vunpk p d a h t => packAR 0x63 p d a (x5 0 (bit3 h)) t.code 0
  | .scvt p d a k t m => packAR 0x64 p d a (x5 k.kind k.fs) t.code m.code
  | .vbnd p d a b t => packAR 0x65 p (p5 d) a b t.code 0
  | .pand p d a b => packAR 0x66 p (p5 d) (p5 a) (p5 b) 0 0
  | .por p d a b => packAR 0x67 p (p5 d) (p5 a) (p5 b) 0 0
  | .pxor p d a b => packAR 0x68 p (p5 d) (p5 a) (p5 b) 0 0
  | .pnot p d a => packAR 0x69 p (p5 d) (p5 a) 0 0 0
  | .pcnt p d a => packAR 0x6A p d (p5 a) 0 0 0
  | .pfirst p d a => packAR 0x6B p d (p5 a) 0 0 0
  | .pset p d z n => packAI 0x6C p (p5 d) 0 (z ++ (0 : BitVec 1) ++ n)
  | .vrsum p d a t => packAR 0x6D p d a 0 t.code t.fam
  | .vrmax p d a t => packAR 0x6E p d a 0 t.code t.fam
  | .vrmin p d a t => packAR 0x6F p d a 0 t.code t.fam
  | .vramax p d a t => packAR 0x70 p d a 0 t.code 8
  | .vperm p d a b t => packAR 0x71 p d a b t.code 0
  | .vbcast p d a t => packAR 0x72 p d a 0 t.code 0
  | .vslide p d a b t => packAR 0x73 p d a b t.code 0
  | .vzip p d a b t h => packAR 0x74 p d a b t.code (bit4 h)
  | .vunzip p d a b t h => packAR 0x75 p d a b t.code (bit4 h)
  | .vcomp p d a b t => packAR 0x76 p d a (p5 b) t.code 0
  | .vscan p d a t => packAR 0x77 p d a 0 t.code t.fam
  | .vmovs p d a b t => packAR 0x78 p d a b t.code 0
  | .vins p d a b t => packAR 0x79 p d a b t.code 0
  | .rand p d t => packAR 0x7A p d 0 0 t.code 0
  | .randf p d a t => packAR 0x7B p d a 0 t.code 0
  | .vwid p d t => packAR 0x7C p d 0 0 t.code 0
  | _ => 0

/-- The two words of a well-formed bundle. -/
def encodeBundle (b : Bundle) : Nat × Nat :=
  ((encodeLead b.wait b.lead).1, if b.lead.isLone then (encodeLead b.wait b.lead).2 else encodeArith b.arith)

/-- The eight bytes of a bundle as one little-endian value (R181). -/
def encodeValue (b : Bundle) : Nat := (encodeBundle b).1 + (encodeBundle b).2 * 2 ^ 32

/-- The words of a well-formed instruction with W = 0: a lead instruction with its literal or beside the
no-operation, or an arithmetic instruction beside `nop`. -/
def encode (i : Instr) : Nat × Nat :=
  if i.isLead then encodeBundle ⟨0, i, .arithNop⟩ else encodeBundle ⟨0, .nop, i⟩

/-! Table words. A row of the opcode table has ONE 32-bit word: a lead word or an arithmetic word, and the
two kinds share the space of words. A word is taken as a lead word when its W is 0, its L agrees with the
Lone rule, and it decodes as one beside a literal of zeros; then as an arithmetic word; then as a lead
word with any W and L (log 6). -/

def okOf (r : Except DecodeErr Instr) : Option Instr :=
  match r with
  | .ok i => some i
  | .error _ => none

/-- The lead instruction is of the rows whose Lone rule is "must" (R185). -/
def Instr.mustLone : Instr → Bool
  | .tryChoice .. | .commit .. | .tread .. | .acas .. | .mxcmd .. => true
  | _ => false

/-- The bundle in which a table word stands: a lead word beside zeros, or an arithmetic word beside `nop`. -/
def tableBundle (w : Nat) : Option Bundle :=
  match okOf (decodeLead w 0), okOf (decodeArith w) with
  | some l, some a => if w / 2 ^ 28 % 8 = 0 ∧ (bitAt w 31 = l.mustLone) then some ⟨nOf 3 w 28, l, .arithNop⟩ else some ⟨0, .nop, a⟩
  | some l, none => some ⟨nOf 3 w 28, l, .arithNop⟩
  | none, some a => some ⟨0, .nop, a⟩
  | none, none => none

/-- The instruction of a table word of 32 bits. -/
def decodeTableWord (nbits w : Nat) : Option Instr :=
  if nbits ≤ 32 then (tableBundle w).map fun b => if b.lead == .nop then (if b.arith == .arithNop then .nop else b.arith) else b.lead
  else okOf (decodeLead (w % 2 ^ 32) (w / 2 ^ 32))

/-- The eight-byte value that holds a table word. -/
def tableValue (nbits w : Nat) : Nat :=
  if nbits ≤ 32 then
    match tableBundle w with
    | some b => if b.lead == .nop && b.arith != .arithNop then w * 2 ^ 32 else w
    | none => w
  else w % 2 ^ 64

end Sys2Proof
end

