-- ==== Sys2Proof/Machine/Fetch.lean ====
section
/-! DEFINITION. Bundle fetch (R181, R108), and the repeat prefix: the bundle that a repetition issues (R200,
R201). -/
namespace Sys2Proof.Machine
open Sys2Proof

/-! Fetch. -/

/-- The eight bytes of a place as bundle fetch reads them: a sector that the die's L2 holds, else the L3 slice, the home or the
host. The L1 is the data cache of a core (R13); a fetch fills no level below the L3 (log 7). -/
def codeAt (s : State) (die : Nat) (r : Route) (k : Nat) : Nat × State :=
  match r with
  | .cached ma own =>
    match l2Find s die (ma / 16 * 16) with
    | some x => (getBytes x.data.toNat (ma % 16) 8, s)
    | none => readPlace s die (.l3 ma own) k 8
  | _ => readPlace s die r k 8

/-- The checks of a fetch at an address; 0x29 where no page grants X (R181, R429). -/
def fetchPlace (s : State) (a : Nat) : Chk (State × Tgt) := do
  require (a / 2 ^ 56 == 0 || a / 2 ^ 56 == 0xFF) 0x20 a
  require (a / 2 ^ 56 == 0) 0x29 a
  let (leaf, bits) ← lookup s (thClu s.cur) s.part a
  require (Need.fetch.granted leaf) 0x29 a
  let fa := leafAddr leaf bits a
  require (!reservedMa (fa % 2 ^ 44)) 0x25 fa
  reachable s fa 8
  return (tlbEnter s (thClu s.cur) s.part a leaf bits, .glob fa leaf)

/-- The bundle at an address, as one little-endian value. -/
def fetchBits (s : State) (pc : Word) : Chk (Nat × State) := do
  let (s1, t) ← fetchPlace s pc.toNat
  let r := tgtRoute s1 t
  match badPlace s1 (thDie s.cur) r (tgtKey s1 t) 8 with
  | some d => raise 0x71 d
  | none => return codeAt (← sendAccess s1 r) (thDie s.cur) r (tgtKey s1 t)

/-- The code of a decode-class condition (R429). -/
def DecodeErr.code : DecodeErr → BitVec 8
  | .reservedOp6 => 0x01
  | .reservedOp7 => 0x02
  | .reservedCode => 0x03
  | .nonzeroField => 0x04
  | .loneRule => 0x05
  | .repArith => 0x06
  | .reservedSysReg => 0x09

/-- The detail of a decode-class condition: the bundle, or for 0x09 the system register number in imm15 (R199, R429). -/
def DecodeErr.detail (e : DecodeErr) (v : Nat) : Nat := if e = .reservedSysReg then v % 2 ^ 15 else v

/-- A decode-class condition. -/
def decodeCond (e : DecodeErr) (v : Nat) : Cond := { code := DecodeErr.code e, detail := BitVec.ofNat 64 (DecodeErr.detail e v), flags := 0 }

/-! The repeat prefix. -/

/-- The lead instructions that may follow `rep` (R201). -/
def repLead : Instr → Bool
  | .nop | .ldW8 .. | .ldI8 .. | .ldW16 .. | .ldI16 .. | .ldW32 .. | .ldI32 .. | .ldW64 .. | .stW8 .. | .stW16 ..
  | .stW32 .. | .stW64 _ _ _ | .ldx .. | .stx .. | .vld .. | .vst .. | .vlds .. | .vsts .. | .vgat .. | .vsct ..
  | .vldb .. | .ldsync .. | .vldsync _ _ _ | .stfull .. | .vstfull .. => true
  | _ => false

/-- A register field stepped by j; beyond its kind's last value, 0x12. -/
def stepField (on : Bool) (last : Nat) (d : BitVec 5) (j : Nat) : Chk (BitVec 5) :=
  if !on then .ok d
  else if d.toNat + j ≤ last then .ok (d + BitVec.ofNat 5 j)
  else raise 0x12 (d.toNat + j)

/-- An LM offset stepped by j: the literal of a lone bundle by j × z. -/
def stepOff (on : Bool) (z : Nat) (o : Imm 10) (j : Nat) : Chk (Imm 10) :=
  if !on then .ok o
  else match o with
    | .lit v => .ok (.lit (v + BitVec.ofNat 32 (j * z)))
    | .imm v => if v.toInt + j ≤ 511 then .ok (.imm (v + BitVec.ofNat 10 j)) else .error (.cond { code := 0x12, detail := BitVec.ofInt 64 (v.toInt + j), flags := 0 } none)

/-- An LM instruction at repetition j. -/
def stepLM (r : Rep) (j z last : Nat) (mk : BitVec 5 → BitVec 5 → Imm 10 → Instr) (d a : BitVec 5) (o : Imm 10) : Chk Instr := do
  let d' ← stepField r.stepD last d j
  let o' ← stepOff r.stepO z o j
  return mk d' a o'

/-- The lead instruction of repetition j (R201). -/
def stepLead (r : Rep) (j : Nat) : Instr → Chk Instr
  | .ldW8 d a o => stepLM r j 1 31 .ldW8 d a o
  | .ldI8 d a o => stepLM r j 1 31 .ldI8 d a o
  | .ldW16 d a o => stepLM r j 2 31 .ldW16 d a o
  | .ldI16 d a o => stepLM r j 2 31 .ldI16 d a o
  | .ldW32 d a o => stepLM r j 4 31 .ldW32 d a o
  | .ldI32 d a o => stepLM r j 4 31 .ldI32 d a o
  | .ldW64 d a o => stepLM r j 8 31 .ldW64 d a o
  | .stW8 d a o => stepLM r j 1 31 .stW8 d a o
  | .stW16 d a o => stepLM r j 2 31 .stW16 d a o
  | .stW32 d a o => stepLM r j 4 31 .stW32 d a o
  | .stW64 d a o => stepLM r j 8 31 .stW64 d a o
  | .vld d a o => stepLM r j 256 30 .vld d a o
  | .vst d a o => stepLM r j 256 31 .vst d a o
  | .vldsync d a o => stepLM r j 256 30 .vldsync d a o
  | .stfull d a o => stepLM r j 4 31 .stfull d a o
  | .vstfull d a o => stepLM r j 256 31 .vstfull d a o
  | .ldx d a b sc sz o => do return .ldx (← stepField r.stepD 31 d j) a b sc sz o
  | .stx d a b sc sz o => do return .stx (← stepField r.stepD 31 d j) a b sc sz o
  | .vlds d a b e p o => do return .vlds (← stepField r.stepD 30 d j) a b e p o
  | .vsts d a b e p o => do return .vsts (← stepField r.stepD 31 d j) a b e p o
  | .vgat d a b e p o => do return .vgat (← stepField r.stepD 30 d j) a b e p o
  | .vsct d a b e p o => do return .vsct (← stepField r.stepD 31 d j) a b e p o
  | .vldb d a e p o => do return .vldb (← stepField r.stepD 30 d j) a e p o
  | .ldsync d a sz o => do return .ldsync (← stepField r.stepD 31 d j) a sz o
  | i => .ok i

/-- Step one 5-bit field of an arithmetic word, at bit `sh`. A value that names nothing there leaves its kind. -/
def stepArithField (on : Bool) (sh j : Nat) (i : Instr) : Chk Instr :=
  if !on then .ok i
  else
    let w := encodeArith i
    let v := w / 2 ^ sh % 32 + j
    if 31 < v then raise 0x12 v
    else match decodeArith (w + j * 2 ^ sh) with
      | .ok i' => .ok i'
      | .error _ => raise 0x12 v

/-- The instructions of format AI, which has no b field (R193). -/
def noB : Instr → Bool
  | .addi .. | .andi .. | .ori .. | .xori .. | .shli .. | .shri .. | .pset .. => true
  | _ => false

/-- The arithmetic instruction of repetition j. The no-operation has no fields. -/
def stepArith (r : Rep) (j : Nat) (i : Instr) : Chk Instr :=
  if i = .arithNop then .ok i
  else do
    let i1 ← stepArithField r.stepD 17 j i
    let i2 ← stepArithField r.stepA 12 j i1
    stepArithField (r.stepB && !noB i) 7 j i2

/-- The bundle of repetition j. -/
def repBundle (r : Rep) (j : Nat) (b : Bundle) : Chk Bundle := do
  let l ← stepLead r j b.lead
  let a ← stepArith r j b.arith
  return { b with lead := l, arith := a }

/-- The bundles of all repetitions are good: the first that is not gives its condition (R201). -/
def repAll (r : Rep) (b : Bundle) : Nat → Nat → Chk Unit
  | 0, _ => .ok ()
  | n + 1, j => do
    let _ ← repBundle r j b
    repAll r b n (j + 1)

/-- `rep` at issue: the count, the repeated bundle, its stepped fields at every repetition (0x12), then its lead word (0x19), in the
order of R201's pseudocode and text, which R503 fixes. -/
def repIssue (s : State) (creg : BitVec 5) (cnt : BitVec 6) (o d a b : Bool) : Chk State := do
  let n := if creg = 0 then cnt.toNat + 1 else (s.getS creg).toNat
  require (decide (1 ≤ n) && decide (n ≤ 64)) 0x12 n
  let (v, s1) ← fetchBits s (s.thr.pc + 8)
  match decodeValue v with
  | .error e => .error (.cond (decodeCond e v) none)
  | .ok x =>
    let r : Rep := { pc := s.thr.pc, n := n, j := 0, stepO := o, stepD := d, stepA := a, stepB := b }
    repAll r x n 0
    require (repLead x.lead) 0x19 v
    return s1.modI (fun i => { i with rep := some r })

end Sys2Proof.Machine
end

