-- ==== Sys2Proof/Machine/Hazards.lean ====
section
/-! DEFINITION. The registers that an instruction reads and writes, its latency, and the checking scoreboard
(R187-R190, R205, R439). -/
namespace Sys2Proof.Machine
open Sys2Proof

/-! Registers read at issue, with those of which some elements are kept (R190, R196). -/

/-- Scalars n to n + 2. -/
def three (n : BitVec 5) : List Reg := [.s n, .s (n + 1), .s (n + 2)]

/-- The sources of a lead instruction. -/
def leadReads : Instr → List Reg
  | .bc c r _ => (match c with | .pany | .pall | .pnone => [.p (r.setWidth 3)] | _ => [.s r])
  | .calli _ a | .ret a | .jmpi a | .fput _ a | .commit _ a _ | .tver _ a | .mxld _ a _ | .recv _ a | .hand _ a
  | .hret a | .park a | .pref a _ _ => [.s a]
  | .rep c _ _ _ _ _ => [.s c]
  | .work d _ | .cut d _ | .lithi d _ | .puts d _ => [.s d]
  | .svc d _ => [.s d, .s 4, .s 5]
  | .tryChoice a b _ _ | .tread _ a b _ _ | .rseed a b | .femp a b _ | .mxmm _ a b _ _ | .mxcmd _ a b _
  | .pin _ a b _ _ | .unpin a b _ _ | .cflush a b _ | .cinv a b _ | .ldx _ a b _ _ _ => [.s a, .s b]
  | .stW8 d a _ | .stW16 d a _ | .stW32 d a _ | .stW64 d a _ | .stfull d a _ | .strel d a _ _ _ => [.s d, .s a]
  | .stx d a b _ _ _ => [.s d, .s a, .s b]
  | .vst d a _ | .vstfull d a _ => [.v d, .s a]
  | .vlds d a b _ p _ | .vsts d a b _ p _ => [.v d, .s a, .s b, .p p]
  | .vgat d a b _ p _ | .vsct d a b _ p _ => [.v d, .s a, .v b, .p p]
  | .vldb d a _ p _ => [.v d, .s a, .p p]
  | .acas _ a b _ _ _ n => [.s a, .s b, .s n]
  | .copy _ d s n _ | .copym _ d s n _ => [.s d, .s s, .s n]
  | .copy2 _ d s k _ => .s d :: .s s :: three k
  | .mxsp _ a b c _ | .mxrd _ a b c _ | .mxmeta _ a b c _ | .msg _ a b c _ => [.s a, .s b, .s c]
  | .mxgrp _ a b k _ => .s a :: .s b :: three k
  | .mxclr _ b _ => [.s b]
  | .afadd _ a b _ _ _ | .afmin _ a b _ _ _ | .afmax _ a b _ _ _ | .afand _ a b _ _ _ | .afor _ a b _ _ _
  | .afxor _ a b _ _ _ | .affadd _ a b _ _ | .aswap _ a b _ _ _ => [.s a, .s b]
  | .ldW8 _ a _ | .ldI8 _ a _ | .ldW16 _ a _ | .ldI16 _ a _ | .ldW32 _ a _ | .ldI32 _ a _ | .ldW64 _ a _ | .vld _ a _
  | .vldsync _ a _ | .ldsync _ a _ _ | .ldacq _ a _ _ _ => [.s a]
  | _ => []

/-- The destination of a lead instruction. -/
def leadWrites : Instr → List Reg
  | .call _ => [.s 30]
  | .calli d _ | .ftest d _ | .fget d _ | .mark d | .tread d _ _ _ _ | .tver d _ | .svc d _ | .lit d _ | .lithi d _
  | .gets d _ | .hand d _ | .recv d _ => [.s d]
  | .hret _ => [.s 1, .s 2, .s 3]
  | .ldW8 d _ _ | .ldI8 d _ _ | .ldW16 d _ _ | .ldI16 d _ _ | .ldW32 d _ _ | .ldI32 d _ _ | .ldW64 d _ _
  | .ldx d _ _ _ _ _ | .ldsync d _ _ _ | .ldacq d _ _ _ _ | .pin d _ _ _ _ => [.s d]
  | .vlit d _ | .vld d _ _ | .vldsync d _ _ | .vlds d _ _ _ _ _ | .vgat d _ _ _ _ _ | .vldb d _ _ _ _ => [.v d]
  | .afadd d _ _ _ _ _ | .afmin d _ _ _ _ _ | .afmax d _ _ _ _ _ | .afand d _ _ _ _ _ | .afor d _ _ _ _ _
  | .afxor d _ _ _ _ _ | .affadd d _ _ _ _ | .aswap d _ _ _ _ _ | .acas d _ _ _ _ _ _ => [.s d]
  | _ => []

/-- What an arithmetic instruction reads and writes, and its latency; 0 stands for an interlocked result (R205). -/
structure ArithUse where
  reads : List Reg
  writes : List Reg
  lat : Nat
  deriving DecidableEq, Repr

/-- A scalar result under a governing predicate. -/
def useS (p : BitVec 3) (d : BitVec 5) (l : List Reg) (n : Nat) : ArithUse := { reads := .p p :: l, writes := [.s d], lat := n }
/-- A vector result, which also writes `lat` and reads its destination. -/
def useV (p : BitVec 3) (d : BitVec 5) (l : List Reg) (n : Nat) : ArithUse :=
  { reads := .p p :: .v d :: l, writes := if d = 31 then [.v 31] else [.v d, .v 31], lat := n }
/-- A predicate result. -/
def useP (p d : BitVec 3) (l : List Reg) (n : Nat) : ArithUse := { reads := .p p :: l, writes := [.p d], lat := n }

def arithUse : Instr → ArithUse
  | .mul p d a b _ | .mulh p d a b _ => useS p d [.s a, .s b] 3
  | .div p d a b _ | .rem p d a b _ => useS p d [.s a, .s b] 0
  | .sel p d a b _ | .bins p d a b _ => useS p d [.s d, .s a, .s b] 1
  | .vabs p d a _ | .vneg p d a _ => useV p d [.v a] 2
  | .vcmp p d a b _ _ => useP p d [.v a, .v b] 2
  | .vsel p d a b _ | .vcomp p d a b _ => useV p d [.v a, .p b] 2
  | .vfmin p d a b _ | .vfmax p d a b _ => useV p d [.v a, .v b] 4
  | .vfabs p d a _ | .vfneg p d a _ | .randf p d a _ => useV p d [.v a] 4
  | .vfcmp p d a b _ _ => useP p d [.v a, .v b] 4
  | .vcvt p d a _ _ _ _ => useV p d [.v a] 4
  | .vcvti p d a _ _ _ _ _ => useV p d [.v a] 4
  | .vunpk p d a _ _ => useV p d [.v a] 4
  | .scvt p d a _ _ _ => useS p d [.s a] 4
  | .vbnd p d a b _ => useP p d [.s a, .s b] 1
  | .pand p d a b | .por p d a b | .pxor p d a b => useP p d [.p a, .p b] 1
  | .pnot p d a => useP p d [.p a] 1
  | .pcnt p d a | .pfirst p d a => useS p d [.p a] 1
  | .pset p d _ _ => useP p d [] 1
  | .vrsum p d a _ | .vrmax p d a _ | .vrmin p d a _ => useV p d [.v a] 6
  | .vramax p d a _ => useV p d [.v a] 6
  | .vscan p d a _ => useV p d [.v a] 6
  | .vslide p d a b _ => useV p d [.v a, .s b] 2
  | .vbcast p d a _ => useV p d [.s a] 2
  | .vmovs p d a b _ => useS p d [.v a, .s b] 2
  | .vins p d a b _ => useV p d [.s a, .s b] 2
  | .rand p d t => if t = .i64 then useS p d [] 2 else useV p d [] 2
  | .vwid p d _ => useS p d [] 1
  | .clz p d a _ | .popc p d a _ | .mov p d a _ | .addi p d a _ | .andi p d a _ | .ori p d a _ => useS p d [.s a] 1
  | .xori p d a _ | .shli p d a _ | .shri p d a _ => useS p d [.s a] 1
  | .vfrcp p d a _ _ | .vfrsq p d a _ _ | .vfsqrt p d a _ _ | .vfexp2 p d a _ _ | .vflog2 p d a _ _
  | .vftanh p d a _ _ => useV p d [.v a] 8
  | .vfsinpi p d a _ _ | .vfcospi p d a _ _ => useV p d [.v a] 8
  | .vfadd p d a b _ _ | .vfsub p d a b _ _ | .vfmul p d a b _ _ | .vfma p d a b _ _ | .vfms p d a b _ _
  | .vfnma p d a b _ _ => useV p d [.v a, .v b] 4
  | .vfscale p d a b _ _ | .vfdot2 p d a b _ _ | .vpack p d a b _ _ => useV p d [.v a, .v b] 4
  | .add p d a b _ | .sub p d a b _ | .and p d a b _ | .or p d a b _ | .xor p d a b _ | .andn p d a b _ =>
    useS p d [.s a, .s b] 1
  | .shl p d a b _ | .shr p d a b _ | .sra p d a b _ | .rot p d a b _ | .min p d a b _ => useS p d [.s a, .s b] 1
  | .max p d a b _ | .set p d a b _ _ | .adds p d a b _ | .bext p d a b _ => useS p d [.s a, .s b] 1
  | .vadd p d a b _ | .vsub p d a b _ | .vmul p d a b _ | .vmulh p d a b _ | .vaddsat p d a b _ | .vsubsat p d a b _ =>
    useV p d [.v a, .v b] 2
  | .vand p d a b _ | .vor p d a b _ | .vxor p d a b _ | .vandn p d a b _ | .vshl p d a b _ => useV p d [.v a, .v b] 2
  | .vshr p d a b _ | .vsra p d a b _ | .vmin p d a b _ | .vmax p d a b _ | .vdot4 p d a b _ _ => useV p d [.v a, .v b] 2
  | .vperm p d a b _ | .vzip p d a b _ _ | .vunzip p d a b _ _ => useV p d [.v a, .v b] 2
  | _ => { reads := [], writes := [], lat := 0 }

/-- The address of a load whose destination the wait count governs (R189). -/
def loadAddr (s : State) : Instr → Option Word
  | .ldW8 _ a o | .ldI8 _ a o => some (s.getS a + offLM 1 o)
  | .ldW16 _ a o | .ldI16 _ a o => some (s.getS a + offLM 2 o)
  | .ldW32 _ a o | .ldI32 _ a o => some (s.getS a + offLM 4 o)
  | .ldW64 _ a o => some (s.getS a + offLM 8 o)
  | .vld _ a o | .vldsync _ a o => some (s.getS a + offLM 256 o)
  | .ldx _ a b sc sz o => some (s.getS a + (if sc then s.getS b * BitVec.ofNat 64 sz.bytes else s.getS b) + offLR o)
  | .vlds _ a _ _ _ o | .vgat _ a _ _ _ o | .vldb _ a _ _ o | .ldsync _ a _ o | .ldacq _ a _ _ o => some (s.getS a + offLR o)
  | _ => none

/-- The latency of a lead instruction's result: 1, the first part of a load (3, or 7 through windows 1 to 7), or 0
where hardware interlocks it (R188, R189). A window whose FMT is 0 acts exactly as window 0 does (R115), and its loads
have the 3 that R342 counts for them (log 28). -/
def leadLatency (s : State) (i : Instr) : Nat :=
  match loadAddr s i with
  | some a => if (addrFmt s a.toNat).isNone then 3 else 7
  | none =>
    match i with
    | .lit .. | .lithi .. | .vlit .. | .gets .. | .mark .. | .call .. | .calli .. | .hand .. | .ftest .. => 1
    | _ => 0

/-- The address of an atomic, and of a store, an address of whose elements stands for all. -/
def atomicAddr (s : State) : Instr → Option Word
  | .afadd _ a _ _ _ o | .afmin _ a _ _ _ o | .afmax _ a _ _ _ o | .afand _ a _ _ _ o | .afor _ a _ _ _ o | .afxor _ a _ _ _ o
  | .aswap _ a _ _ _ o | .affadd _ a _ _ o => some (s.getS a + offLR o)
  | .acas _ a _ _ _ o _ => some (s.getS a + o.signExtend 64)
  | _ => none

def storeAddr (s : State) : Instr → Option Word
  | .stW8 _ a o => some (s.getS a + offLM 1 o)
  | .stW16 _ a o => some (s.getS a + offLM 2 o)
  | .stW32 _ a o | .stfull _ a o => some (s.getS a + offLM 4 o)
  | .stW64 _ a o => some (s.getS a + offLM 8 o)
  | .vst _ a o | .vstfull _ a o => some (s.getS a + offLM 256 o)
  | .stx _ a b sc sz o => some (indexed s a b sc sz.bytes o)
  | .vsts _ a _ _ _ o | .vsct _ a _ _ _ o | .strel _ a _ _ o | .femp a _ o => some (s.getS a + offLR o)
  | _ => none

/-- In write-assist mode an access to a local store or an activation buffer takes one cycle more (R189, R384). -/
def assistedAt (s : State) (a : Option Word) : Bool :=
  (s.clu (thClu s.cur)).assist && a.any (fun x => x.toNat / 2 ^ 56 == 0xFF)

/-- The cycle, after its bundle's, in which write-assist mode holds a reader of what the access returns: that in which a load
has its nominal latency, or the next one for an atomic. -/
def assistRead (s : State) (i : Instr) : Option Nat :=
  if assistedAt s (loadAddr s i) then some (leadLatency s i) else if assistedAt s (atomicAddr s i) then some 1 else none

/-- The cycle more that a store takes (R384): the thread's next bundle is held for it (R39, log 62). -/
def assistStore (s : State) (i : Instr) : Nat := if assistedAt s (storeAddr s i) then 1 else 0

/-! Early reads (R190, R439). -/

/-- `s0` and `p0` are never written; every other pending result counts. -/
def readsPend (l : List Reg) (p : Pend) : Bool := l.contains p.reg

/-- The results in flight that the reads of a bundle meet too early, at effective cycle `e`: of each register its newest write counts,
where no interlocked one is newer still. -/
def earlyReads (t : Thread) (e : Nat) (l : List Reg) : List Pend :=
  t.i.pend.filter (fun p => readsPend l p && decide (e < p.ready) && !t.i.pend.any (fun q => q.reg == p.reg && decide (p.ready < q.ready)) &&
    !t.i.replies.any (fun r => r.dest == p.reg && r.acc.interlocked))

/-- The detail of 0x10: the kind, the register, the cycles short. -/
def earlyDetail (p : Pend) (e : Nat) : Nat :=
  let (k, n) := match p.reg with
    | .s n => (0, n.toNat)
    | .v n => (if n = 31 then 2 else 1, n.toNat)
    | .p n => (3, n.toNat)
  k * 2 ^ 8 + n + (p.ready - e) % 256 * 2 ^ 16

def bundleReads (b : Bundle) : List Reg := leadReads b.lead ++ (arithUse b.arith).reads

/-- A bundle that reads a scalar which awaits a `tread` holds the thread (R237). `s0` is a constant and awaits nothing (R32). -/
def interlocked (t : Thread) (b : Bundle) : Bool := t.i.ilock.any (fun p => p.1 != 0 && (bundleReads b).contains (.s p.1))

/-! Replies outstanding (R189, R430). -/

/-- A bundle reads the destination of an access that awaits its reply, after the first part of its latency: hardware
interlocks it (R189). -/
def awaits (t : Thread) (b : Bundle) : Bool :=
  t.i.replies.any (fun r => r.dest != .s 0 && (bundleReads b).contains r.dest && (r.acc.interlocked || !t.i.pend.any (fun p => p.reg == r.dest)))

/-- Lead instructions that make no access to memory: they issue whatever the thread awaits. -/
def noAccess : Instr → Bool
  | .nop | .bra _ | .bc .. | .call _ | .calli .. | .ret _ | .jmpi _ | .rep .. | .lit .. | .lithi .. | .vlit .. | .gets .. | .puts .. | .mark _
  | .work .. | .wait _ | .ftest .. | .fcancel _ | .fget .. | .fput .. | .cut .. | .svc .. | .hand .. | .rseed .. | .barl | .stage _ => true
  | _ => false

/-- Lead instructions that wait for every access of the thread: a suspension, which leaves no register that awaits a reply (R430), the
end of the record, `park` (R430), and `fence` at `.mod` and wider (R137; log 9). -/
def waitsAll : Instr → Bool
  | .yield _ | .safe _ | .bar _ _ | .endCont | .quit | .commit _ _ _ | .park _ => true
  | .fence sc => sc.wide
  | _ => false

/-- What may issue while replies are outstanding (R39): an access that acquires completes before any later access (R139). -/
def runsOn (t : Thread) (i : Instr) : Bool := noAccess i || (!waitsAll i && t.i.replies.all (fun r => r.scope.isNone))

/-- The thread waits for its replies before this bundle. -/
def heldByReplies (t : Thread) (b : Bundle) : Bool := !t.i.replies.isEmpty && (awaits t b || !runsOn t b.lead)

/-- A register that the bundle reads in the cycle for which write-assist mode holds it: the first that is not early (R189). -/
def slowRead (t : Thread) (b : Bundle) (e : Nat) : Bool := t.i.slow.any (fun p => p.2 == e && (bundleReads b).contains p.1)

/-- The condition that a `tread` watchdog left on a scalar that the bundle reads (R455). -/
def owedRead (t : Thread) (b : Bundle) : Option (BitVec 5 × Nat × Cond) := t.i.owed.find? (fun p => p.1 != 0 && (bundleReads b).contains (.s p.1))

/-- What an arithmetic instruction writes: a scalar or a predicate result is written only where bit 0 of the governing
predicate is set (R196, R247). -/
def arithWrites (r : Regs) (i : Instr) : List Reg :=
  let u := arithUse i
  let off : Bool := match u.reads, u.writes with
    | .p p :: _, .s _ :: _ | .p p :: _, .p _ :: _ => !predOn (r.getP p)
    | _, _ => false
  if off then [] else u.writes

/-! Results of fixed latency (R187). -/

def Regs.val (r : Regs) : Reg → Val
  | .s n => .s (r.getS n)
  | .v n => .v (r.getV n)
  | .p n => .p (r.getP n)

/-- A result of latency n ≥ 2 stays in flight until effective cycle e + n: until then a read finds the previous value, that of the
newest older write that has reached its latency. A result of latency 0 or 1 stands at once. An older result that would land
no earlier is replaced. -/
def deferOne (old : Regs) (e n : Nat) (t : Thread) (g : Reg) : Thread :=
  if n ≤ 1 ∨ g = .s 0 ∨ g = .p 0 then { t with i := { t.i with pend := t.i.pend.filter (fun p => p.reg != g) } }
  else
    let p : Pend := { reg := g, ready := e + n, val := t.r.val g }
    { t with r := landVal t.r { p with val := old.val g }, i := { t.i with pend := t.i.pend.filter (fun q => q.reg != g || decide (q.ready < e + n)) ++ [p] } }

def deferAll (old : Regs) (e n : Nat) (l : List Reg) (t : Thread) : Thread := l.foldl (deferOne old e n) t

/-! Poisoned registers (R464; log 75). -/

/-- Vector instructions of which the destination is an operand, or keeps elements whatever their predicate. -/
def accumulates : Instr → Bool
  | .vfma .. | .vfms .. | .vfnma .. | .vdot4 .. | .vfdot2 .. | .vsel .. | .vins .. | .vcvt .. | .vcvti .. => true
  | _ => false

/-- The registers whose values a bundle needs: a vector destination of which every element is written is not among them. -/
def needed (r : Regs) (b : Bundle) : List Reg :=
  let u := arithUse b.arith
  let arith := match u.reads with
    | .p p :: .v d :: l => if r.getP p = BitVec.allOnes 256 ∧ accumulates b.arith = false then .p p :: l else .p p :: .v d :: l
    | l => l
  let lead := match b.lead with
    | .vlds _ a s _ p _ => if r.getP p = BitVec.allOnes 256 then [.s a, .s s, .p p] else leadReads b.lead
    | .vgat _ a v _ p _ => if r.getP p = BitVec.allOnes 256 then [.s a, .v v, .p p] else leadReads b.lead
    | .vldb _ a _ p _ => if r.getP p = BitVec.allOnes 256 then [.s a, .p p] else leadReads b.lead
    | _ => leadReads b.lead
  lead ++ arith

/-- The detail of 0x71 of the first poisoned register that a bundle reads. -/
def badRead (s : State) (b : Bundle) : Option Nat :=
  if s.mem.poison.isEmpty then none else (needed s.thr.r b).findSome? (regBad s s.cur)

end Sys2Proof.Machine
end

