-- ==== Sys2Proof/Machine/FloatFun.lean ====
section
/-! DEFINITION. The special functions of R171 and R172 in fixed point with 576 fraction bits (log 12), and
the element operations of the vector float instructions (R257-R262). -/
namespace Sys2Proof.Machine
open Sys2Proof

/-- Fraction bits of the fixed-point numbers below. -/
def fixP : Nat := 576

/-- ln 2, π and 1 / ln 2, each times 2^576 and rounded down. -/
def fixLn2 : Nat := 0xb17217f7d1cf79abc9e3b39803f2f6af40f343267298b62d8a0d175b8baafa2be7b876206debac98559552fb4afa1b10ed2eae35c138214427573b291169b8253e96ca16224ae8c5
def fixPi : Nat := 0x3243f6a8885a308d313198a2e03707344a4093822299f31d0082efa98ec4e6c89452821e638d01377be5466cf34e90c6cc0ac29b7c97c50dd3f84d5b5b54709179216d5d98979fb1b
def fixLog2e : Nat := 0x171547652b82fe1777d0ffda0d23a7d11d6aef551bad2b4b1164a2cd9a342648fbc3887eeaa2ed9ac49b25eeb82d7c167d52173cc1895213f897f5e06a7be73665fc529264c2fb3ab

def fixMul (x y : Nat) : Nat := x * y / 2 ^ fixP

/-- Newton's iteration for the integer square root, from above. -/
def isqrtGo : Nat → Nat → Nat → Nat
  | 0, _, x => x
  | k + 1, n, x =>
    let y := (x + n / x) / 2
    if y < x then isqrtGo k n y else x

def isqrt (n : Nat) : Nat := if n = 0 then 0 else isqrtGo 64 n (2 ^ ((bitLen n + 1) / 2))

/-- The terms of e^y from term k on, `t` being term k - 1. -/
def expTerms (y : Nat) : Nat → Nat → Nat → Nat
  | 0, _, _ => 0
  | n + 1, k, t =>
    let t' := fixMul t y / k
    t' + expTerms y n (k + 1) t'

/-- e^y for 0 ≤ y < 1. -/
def expFix (y : Nat) : Nat := 2 ^ fixP + expTerms y 130 1 (2 ^ fixP)

/-- z^(2j+1) / (2j+1) from term j on, `t` being z^(2j+1). -/
def atanhTerms (z2 : Nat) : Nat → Nat → Nat → Nat
  | 0, _, _ => 0
  | n + 1, k, t => t / k + atanhTerms z2 n (k + 2) (fixMul t z2)

/-- atanh z for 0 ≤ z ≤ 1/3. -/
def atanhFix (z : Nat) : Nat := atanhTerms (fixMul z z) 190 1 z

/-- The alternating terms of sin y from y^k / k! on. -/
def sinTerms (y2 : Nat) : Nat → Nat → Int → Int
  | 0, _, _ => 0
  | n + 1, k, t => t + sinTerms y2 n (k + 2) (-(t * y2 / ((2 : Int) ^ fixP * ((k + 1) * (k + 2)))))

/-- sin y for 0 ≤ y ≤ 2. -/
def sinFix (y : Nat) : Nat := (sinTerms (fixMul y y) 70 1 y).toNat

/-- 1/x. -/
def xrcp (x : XVal) : XVal := xdiv (.fin false 1 0 false) x

/-- √(m × 2^e): the exponent is made even first. -/
def sqrtFin (m : Nat) (e : Int) : XVal :=
  let m' := if e % 2 = 0 then m else 2 * m
  let e' := if e % 2 = 0 then e else e - 1
  let n := m' * 2 ^ 320
  .fin false (isqrt n) (e' / 2 - 160) (isqrt n * isqrt n != n)

def xsqrt : XVal → XVal
  | .nan => .nan
  | .inf s => if s then .nan else .inf false
  | .fin s m e _ => if m = 0 then xzero s else if s then .nan else sqrtFin m e

/-- 1/√(m × 2^e). -/
def rsqFin (m : Nat) (e : Int) : XVal :=
  let m' := if e % 2 = 0 then m else 2 * m
  let e' := if e % 2 = 0 then e else e - 1
  let k := 160 + bitLen m'
  let r := isqrt (2 ^ (2 * k) / m')
  .fin false r (-(e' / 2) - k) (r * r * m' != 2 ^ (2 * k))

def xrsq : XVal → XVal
  | .nan => .nan
  | .inf s => if s then .nan else xzero false
  | .fin s m e _ => if m = 0 then .inf s else if s then .nan else rsqFin m e

/-- 2^x for a nonzero x; a magnitude beyond 4,096 acts as 4,096, far outside every format. -/
def exp2Fin (s : Bool) (m : Nat) (e : Int) : XVal :=
  let x := shiftI m (e + fixP)
  let y : Int := (min x (2 ^ (fixP + 12)) : Nat)
  let z := if s then -y else y
  let n := z / (2 : Int) ^ fixP
  let f := (z % (2 : Int) ^ fixP).toNat
  if f = 0 then .fin false 1 n false else .fin false (expFix (fixMul f fixLn2)) (n - fixP) true

def xexp2 : XVal → XVal
  | .nan => .nan
  | .inf s => if s then xzero false else .inf false
  | .fin s m e _ => if m = 0 then .fin false 1 0 false else exp2Fin s m e

/-- log2 of a positive m × 2^e. -/
def log2Fin (m : Nat) (e : Int) : XVal :=
  let l := bitLen m - 1
  let k := e + l
  if m = 2 ^ l then (if k = 0 then xzero false else xint k)
  else
    let z := (m - 2 ^ l) * 2 ^ fixP / (m + 2 ^ l)
    let v := k * (2 : Int) ^ fixP + (fixMul (2 * atanhFix z) fixLog2e : Nat)
    .fin (decide (v < 0)) v.natAbs (-(fixP : Int)) true

def xlog2 : XVal → XVal
  | .nan => .nan
  | .inf s => if s then .nan else .inf false
  | .fin s m e _ => if m = 0 then .inf true else if s then .nan else log2Fin m e

/-- tanh of a nonzero magnitude; from 256 on it is 1 less a rest far below every spacing. -/
def tanhFin (s : Bool) (m : Nat) (e : Int) : XVal :=
  let x := shiftI m (e + fixP)
  if 2 ^ (fixP + 8) ≤ x then .fin s (2 ^ 128 - 1) (-128) true
  else
    let y := fixMul (2 * x) fixLog2e
    let ex := expFix (fixMul (y % 2 ^ fixP) fixLn2) * 2 ^ (y / 2 ^ fixP)
    .fin s ((ex - 2 ^ fixP) * 2 ^ fixP / (ex + 2 ^ fixP)) (-(fixP : Int)) true

def xtanh : XVal → XVal
  | .nan => .nan
  | .inf s => .fin s 1 0 false
  | .fin s m e _ => if m = 0 then xzero s else tanhFin s m e

/-- sin(π r) for a fixed-point r in [0, 2) that is no integer, with a sign. -/
def sinpiFix (neg : Bool) (r : Nat) : XVal :=
  let neg' := neg != decide (2 ^ fixP ≤ r)
  let a := r % 2 ^ fixP
  let b := if 2 ^ fixP < 2 * a then 2 ^ fixP - a else a
  if 2 * b = 2 ^ fixP then .fin neg' 1 0 false else .fin neg' (sinFix (fixMul b fixPi)) (-(fixP : Int)) true

def xsinpi : XVal → XVal
  | .nan => .nan
  | .inf _ => .nan
  | .fin s m e _ =>
    let x := shiftI m (e + fixP) % 2 ^ (fixP + 1)
    if x % 2 ^ fixP = 0 then xzero s else sinpiFix s x

def xcospi : XVal → XVal
  | .nan => .nan
  | .inf _ => .nan
  | .fin _ m e _ =>
    let x := (shiftI m (e + fixP) + 2 ^ (fixP - 1)) % 2 ^ (fixP + 1)
    if x % 2 ^ fixP = 0 then xzero false else sinpiFix false x

/-! The element operations of the vector float instructions. Each gives the bits of a result element. -/

/-- a + b (R257). -/
def fAdd (t : FTy) (m : FMod) (u a b : Nat) : Nat :=
  arith (ffmt t) m.rnd m.sat u (xsum (m.rnd == .rd) [widen t a, widen t b])

def fSub (t : FTy) (m : FMod) (u a b : Nat) : Nat :=
  arith (ffmt t) m.rnd m.sat u (xsum (m.rnd == .rd) [widen t a, xneg (widen t b)])

def fMul (t : FTy) (m : FMod) (u a b : Nat) : Nat :=
  arith (ffmt t) m.rnd m.sat u (xmul (widen t a) (widen t b))

/-- ±(a × b) ± d, rounded once (R257, R170). -/
def fFma (np nd : Bool) (t : FTy) (m : FMod) (u a b d : Nat) : Nat :=
  let p := xmul (widen t a) (widen t b)
  arith (ffmt t) m.rnd m.sat u
    (xsum (m.rnd == .rd) [if np then xneg p else p, if nd then xneg (widen t d) else widen t d])

/-- A minimum or maximum as bits (R258, R169). -/
def fPick (t : FTy) (x : XVal) : Nat := arith (ffmt t) .rne false 0 x

/-- One special function through `Arith` (R260). -/
def fFun (fn : XVal → XVal) (t : FTy) (m : FMod) (u a : Nat) : Nat :=
  arith (ffmt t) m.rnd m.sat u (fn (widen t a))

/-- a × 2^k (R261). -/
def xscale (k : Int) : XVal → XVal
  | .fin s m e r => .fin s m (e + k) r
  | x => x

def fScale (t : FTy) (m : FMod) (u a b : Nat) : Nat :=
  arith (ffmt t) m.rnd m.sat u (xscale (sval t.bits b) (widen t a))

/-- d + a0 × b0 + a1 × b1, exact, rounded once to FP32 (R262). -/
def fDot2 (t : FTy) (m : FMod) (u d a0 b0 a1 b1 : Nat) : Nat :=
  arith fmtF32 m.rnd m.sat u (xsum (m.rnd == .rd)
    [widen .f32 d, xmul (widen t a0) (widen t b0), xmul (widen t a1) (widen t b1)])

/-- A sum rounded to FP32 under RNE (R176, R274). -/
def f32Add (a b : Nat) : Nat := arith fmtF32 .rne false 0 (xsum false [widenF fmtF32 a, widenF fmtF32 b])

/-- One level of the pairwise tree of R176. -/
def treeLevel (op : XVal → XVal → XVal) : List XVal → List XVal
  | x :: y :: r => op x y :: treeLevel op r
  | r => r

def treeN (op : XVal → XVal → XVal) : Nat → List XVal → List XVal
  | 0, l => l
  | n + 1, l => treeN op n (treeLevel op l)

/-- The pairwise tree of R176. -/
def tree (op : XVal → XVal → XVal) (l : List XVal) : XVal := (treeN op 8 l).headD .nan

/-- The node operation of a float sum. -/
def sumNode (x y : XVal) : XVal := widenF fmtF32 (arith fmtF32 .rne false 0 (xsum false [x, y]))

/-! The matrix engine's sums (R173-R175). -/

/-- The group sum rounded once to FP32, added to the accumulator with one RNE rounding. -/
def groupF (acc : Nat) (products : List XVal) : Nat :=
  f32Add acc (arith fmtF32 .rne false 0 (xsum false products))

/-- An INT8 group sum added modulo 2^32. -/
def groupI (acc : Nat) (products : List Int) : Nat := wrapN 32 (acc + products.foldl (· + ·) 0)

end Sys2Proof.Machine
end

