-- ==== Sys2Proof/Machine/Atomics.lean ====
section
/-! DEFINITION. Atomics, prefetch, pins and cache maintenance (R297-R304, R144-R147, R451, R452). -/
namespace Sys2Proof.Machine
open Sys2Proof

/-- The new value of an atomic on an old value of `z` bytes (R297, R300). -/
def atomicNew (op : AOp) (t : ATy) (old x : Nat) : Nat :=
  let n := 8 * t.bytes
  match op with
  | .add => lo n (old + x)
  | .min => if atval t x < atval t old then lo n x else lo n old
  | .max => if atval t old < atval t x then lo n x else lo n old
  | .and => lo n (old &&& x)
  | .or => lo n (old ||| x)
  | .xor => lo n (old ^^^ x)
  | .swap => lo n x
  | .fadd => arith fmtF32 .rne false 0 (xsum false [widenF fmtF32 old, widenF fmtF32 x])
  | .cas e => if lo n old = lo n e.toNat then lo n x else lo n old

/-- `Ext(old, T)`; f32 is zero-extended (R298). -/
def atomicOld (op : AOp) (t : ATy) (old : Nat) : Word :=
  match op with
  | .fadd => BitVec.ofNat 64 (lo 32 old)
  | _ => BitVec.ofInt 64 (atval t old)

/-- Read, combine and write at a place, indivisibly: the old value and the state (R144). -/
def atomicAt (s : State) (r : Route) (k z : Nat) (op : AOp) (t : ATy) (x : Nat) : Nat × State :=
  match r with
  | .cached ma own =>
    let p := l2Read s (thDie s.cur) own ma z
    (p.1, l2Write p.2 (thDie s.cur) own (some (thCore s.cur)) ma z (atomicNew op t p.1 x))
  | .l3 ma own =>
    let s1 := l3Touch s own ma z true
    (s1.mem.get k z, s1.modM (·.put k z (atomicNew op t (s1.mem.get k z) x)))
  | _ => (s.mem.get k z, s.modM (·.put k z (atomicNew op t (s.mem.get k z) x)))

/-- The place at which an atomic performs, seen from its home: the L3 slice of a module address (R144). -/
def homeRoute : Route → Route
  | .cached ma own => .l3 ma own
  | r => r

/-- The atomic performs at the L3 slice: at `.mod` and wider, on an uncached page, or on host memory (R144). -/
def atHome (r : Route) (sc : Scope) : Bool :=
  match r with
  | .near => false
  | .cached ma _ => sc.wide || inHost ma
  | _ => true

/-- The other sectors of the line hold an uncorrectable error (R451). -/
def lineBad (s : State) (k : Nat) : Bool := s.mem.poisoned (k / 128 * 128) 128

/-- An atomic that its home applied and answered with an error: the old value stands in `s3` too, whatever else the bundle writes
there, and 0x71 with APPLIED follows (R451). -/
def applied (s : State) (old : Word) : State :=
  addLater ((s.setS 3 old).modI (fun i => { i with wrote := i.wrote ++ [.s 3], pend := i.pend.filter (fun p => p.reg != .s 3) })) { code := 0x71, detail := old, flags := 1 }

/-- An atomic at a place that answers at once (R144, R298). At a home, an error in its own sector leaves the
location as it was (R452), and one in another sector of the line is reported after the effect (R451). -/
def atomicLocal (s : State) (d : BitVec 5) (r : Route) (k : Nat) (sc : Scope) (op : AOp) (t : ATy) (x : Nat) : Chk State :=
  let home := atHome r sc
  let s1 := match r with
    | .cached ma _ => if home then flushSpan s (thDie s.cur) ma t.bytes else s
    | _ => s
  match poisonVia s1 (if home then homeRoute r else r) k t.bytes with
  | some c => if home then .ok (addLater s1 c) else .error (.cond c none)
  | none =>
    let p := atomicAt s1 (if home then homeRoute r else r) k t.bytes op t x
    let old := atomicOld op t p.1
    let s2 := acquire (p.2.setS d old) s.cur sc
    .ok (if home && lineBad s k then applied s2 old else s2)

/-- An atomic (R298, R300, R301): the checks, the release, the effect at its place, the acquire. -/
def atomicOp (s : State) (d : BitVec 5) (a : Word) (sc : Scope) (op : AOp) (t : ATy) (x : Word) : Chk State := do
  let (s1, g) ← place s a.toNat (accLen s a.toNat t.bytes) t.bytes .atomic
  let r := tgtRoute s1 g
  require (addrWin a.toNat == 0 && r != .direct) 0x1B a.toNat
  specCheck s a.toNat .atomic g
  let us ← trailPlans s1 [{ tgt := g, len := t.bytes, pos := 0, addr := a.toNat }]
  let wide : Scope := match r with | .remote _ => (if sc = .sys then .sys else .fab) | _ => sc
  let s2 ← releaseChk s1 wide
  let s3 := trailAll s2 us
  let k := tgtKey s3 g
  match r with
  | .remote _ => return awaitReply (← sendAccess s3 r) { dest := .s d, key := k, acc := .atomic op t (op == .fadd) x, scope := some wide, addr := a }
  | _ => atomicLocal s3 d r k sc op t x.toNat

/-! Prefetch, pins and cache maintenance (R127, R302-R304, R504). -/

/-- Fill the sectors of a line into a die's L2, those that are absent. -/
def fillLine (s : State) (die own line : Nat) : State :=
  (List.range 8).foldl (fun x i => (l2Fill x die own (line * 128 + 16 * i)).2) s

/-- The owner of the pages of the focused thread's partition at a route. -/
def routeOwn : Route → Nat
  | .cached _ own | .l3 _ own => own
  | _ => 0

/-- Pin one line, or none where it cannot be granted: its set then holds at most 14 pinned ways (R127). The ways are counted
with the line's own (log 68). -/
def pinLine (s : State) (l3 : Bool) (die own line : Nat) : Option State :=
  let mine := s.mem.pins.any (fun p => p.l3 == l3 && p.die == die && p.line == line && p.part == s.part)
  let set := pinsInSet s l3 die line
  if mine then some s
  else if set.contains line || decide (set.length + 1 ≤ 14) then
    let e : PinEntry := { l3 := l3, die := die, line := line, part := s.part, launch := thLaunch s.thr }
    let s1 := if l3 then l3Fill s own line 0xFF else fillLine s die own line
    some (s1.modM (fun m => { m with pins := m.pins ++ [e] }))
  else none

/-- Lines from `line` on, pinned in ascending order until one is refused: how many more were granted. -/
def pinRun (l3 : Bool) (die own : Nat) : Nat → Nat → State → Nat × Bool × State
  | 0, _, s => (0, true, s)
  | n + 1, line, s =>
    match pinLine s l3 die own line with
    | none => (0, false, s)
    | some s1 =>
      let r := pinRun l3 die own n (line + 1) s1
      (r.1 + 1, r.2.1, r.2.2)

/-- The 4 KiB blocks of a range of lines: address and number of lines. -/
def lineBlocks (a n : Nat) : List (Nat × Nat) := (splitGo (n / 32 + 2) a (128 * n)).map (fun p => (p.1, p.2 / 128))

/-- The checks of R303 and R304 on the range. -/
def linesChk (a n : Nat) : Chk Unit := do
  require (a % 128 == 0) 0x22 a
  require (decide (1 ≤ n) && decide (n ≤ 65536)) 0x12 n

/-- The routes of the blocks of a range, each block checked under R284. -/
def blockRoutes (s : State) : List (Nat × Nat) → Chk (State × List (Route × Nat × Nat))
  | [] => .ok (s, [])
  | (a, n) :: r => do
    let (s1, t) ← resolve s (a % 2 ^ 64) (128 * n) 1 .load
    let (s2, l) ← blockRoutes s1 r
    return (s2, (tgtRoute s1 t, (match t with | .glob fa _ => fa % 2 ^ 44 | _ => 0), n) :: l)

/-- A block whose lines can be pinned at a level (R127). -/
def pinable (l3 : Bool) : Route → Bool
  | .cached _ _ => true
  | .l3 _ _ => l3
  | _ => false

/-- The blocks in order, until a line is refused. -/
def pinBlocks (l3 : Bool) (die : Nat) : List (Route × Nat × Nat) → State → Nat × State
  | [], s => (0, s)
  | (rt, ma, n) :: r, s =>
    if pinable l3 rt then
      match pinRun l3 die (routeOwn rt) n (ma / 128) s with
      | (k, false, s1) => (k, s1)
      | (k, true, s1) =>
        let q := pinBlocks l3 die r s1
        (k + q.1, q.2)
    else (0, s)

/-- `pin`'s effect: the number of lines granted (R303). -/
def pinRange (s : State) (a : Word) (n : Nat) (l3 : Bool) : Chk (Nat × State) := do
  linesChk a.toNat n
  let (s1, l) ← blockRoutes s (lineBlocks a.toNat n)
  return pinBlocks l3 (if l3 then 0 else thDie s.cur) l s1

/-- `unpin`'s effect: the partition's pins on the range at that level end. -/
def unpinRange (s : State) (a : Word) (n : Nat) (l3 : Bool) : Chk State := do
  linesChk a.toNat n
  let (s1, l) ← blockRoutes s (lineBlocks a.toNat n)
  let die := if l3 then 0 else thDie s.cur
  let hit (p : PinEntry) : Bool :=
    p.l3 == l3 && p.die == die && p.part == s.part && l.any (fun b => pinable l3 b.1 && decide (b.2.1 / 128 ≤ p.line) && decide (p.line < b.2.1 / 128 + b.2.2))
  return s1.modM (fun m => { m with pins := m.pins.filter (fun p => !hit p) })

/-- Write back, and for `cinv` drop, the die's sectors of the cached blocks (R304). -/
def flushBlocks (inv : Bool) (die : Nat) : List (Route × Nat × Nat) → State → State
  | [], s => s
  | (.cached ma _, _, n) :: r, s =>
    flushBlocks inv die r (if inv then flushSpan s die ma (128 * n)
      else writeBackIf (fun x => decide (ma ≤ x.addr) && decide (x.addr < ma + 128 * n)) s die)
  | _ :: r, s => flushBlocks inv die r s

/-- `cflush` and `cinv`: the thread's earlier stores perform first (R304). -/
def flushRange (s : State) (a : Word) (n : Nat) (inv : Bool) : Chk State := do
  linesChk a.toNat n
  let (s1, l) ← blockRoutes s (lineBlocks a.toNat n)
  return flushBlocks inv (thDie s.cur) l (drainAll s1 (thCore s.cur))

/-- Fill the sectors of a line into a core's L1, those that are absent. -/
def fillL1 (s : State) (core own line : Nat) : State :=
  (List.range 8).foldl (fun x i => (l1Fill x core own (line * 128 + 16 * i)).2) s

/-- `pref`: the line is filled into the level named where the address is cached there; else the instruction is ignored
(R302). -/
def prefetchLine (s : State) (a : Word) (lvl : Lvl) : State :=
  if a.toNat / 2 ^ 56 ≠ 0 then s
  else match resolve s a.toNat 1 1 .load with
    | .error _ => s
    | .ok (s1, t) =>
      match tgtRoute s1 t, lvl with
      | .cached ma own, .l1 => fillL1 s1 (thCore s.cur) own (ma / 128)
      | .cached ma own, .l2 => fillLine s1 (thDie s.cur) own (ma / 128)
      | .cached ma own, .l3 => l3Fill s1 own (ma / 128) 0xFF
      | _, _ => s

/-! The instructions. -/

/-- The location receives old + op; s[d] the old value (R297, R298). -/
def execAfadd (d a b : BitVec 5) (t : ATy) (sc : Scope) (off : Option (BitVec 32)) (s : State) : Host.Outcome State Fault Refusal :=
  finish s (atomicOp s d (eaLR s a off) sc .add t (s.getS b))

/-- The location receives the lesser; s[d] the old value (R297, R298). -/
def execAfmin (d a b : BitVec 5) (t : ATy) (sc : Scope) (off : Option (BitVec 32)) (s : State) : Host.Outcome State Fault Refusal :=
  finish s (atomicOp s d (eaLR s a off) sc .min t (s.getS b))

/-- The location receives the greater; s[d] the old value (R297, R298). -/
def execAfmax (d a b : BitVec 5) (t : ATy) (sc : Scope) (off : Option (BitVec 32)) (s : State) : Host.Outcome State Fault Refusal :=
  finish s (atomicOp s d (eaLR s a off) sc .max t (s.getS b))

/-- The location receives old AND op; s[d] the old value (R297, R298). -/
def execAfand (d a b : BitVec 5) (t : ATy) (sc : Scope) (off : Option (BitVec 32)) (s : State) : Host.Outcome State Fault Refusal :=
  finish s (atomicOp s d (eaLR s a off) sc .and t (s.getS b))

/-- The location receives old OR op; s[d] the old value (R297, R298). -/
def execAfor (d a b : BitVec 5) (t : ATy) (sc : Scope) (off : Option (BitVec 32)) (s : State) : Host.Outcome State Fault Refusal :=
  finish s (atomicOp s d (eaLR s a off) sc .or t (s.getS b))

/-- The location receives old XOR op; s[d] the old value (R297, R298). -/
def execAfxor (d a b : BitVec 5) (t : ATy) (sc : Scope) (off : Option (BitVec 32)) (s : State) : Host.Outcome State Fault Refusal :=
  finish s (atomicOp s d (eaLR s a off) sc .xor t (s.getS b))

/-- The location receives op; s[d] the old value (R297, R298). -/
def execAswap (d a b : BitVec 5) (t : ATy) (sc : Scope) (off : Option (BitVec 32)) (s : State) : Host.Outcome State Fault Refusal :=
  finish s (atomicOp s d (eaLR s a off) sc .swap t (s.getS b))

/-- A float sum, rounded under RNE (R299). -/
def execAffadd (d a b : BitVec 5) (sc : Scope) (off : Option (BitVec 32)) (s : State) : Host.Outcome State Fault Refusal :=
  finish s (atomicOp s d (eaLR s a off) sc .fadd .w32 (s.getS b))

/-- Compare and swap (R300). -/
def execAcas (d a b : BitVec 5) (t : ATy) (sc : Scope) (off : BitVec 24) (new : BitVec 5) (s : State) : Host.Outcome State Fault Refusal :=
  finish s (atomicOp s d (s.getS a + off.signExtend 64) sc (.cas (s.getS b)) t (s.getS new))

/-- Ask for a line (R302). -/
def execPref (a : BitVec 5) (lvl : Lvl) (off : Option (BitVec 32)) (s : State) : Host.Outcome State Fault Refusal :=
  .next (prefetchLine s (eaLR s a off) lvl)

/-- Pin lines; s[d] receives the number granted (R303). -/
def execPin (d a b : BitVec 5) (l3 : Bool) (off : Option (BitVec 32)) (s : State) : Host.Outcome State Fault Refusal :=
  finish s ((pinRange s (eaLR s a off) (s.getS b).toNat l3).map (fun r => r.2.setS d (BitVec.ofNat 64 r.1)))

/-- Release pins (R303). -/
def execUnpin (a b : BitVec 5) (l3 : Bool) (off : Option (BitVec 32)) (s : State) : Host.Outcome State Fault Refusal :=
  finish s (unpinRange s (eaLR s a off) (s.getS b).toNat l3)

/-- Write lines back (R304). -/
def execCflush (a b : BitVec 5) (off : Option (BitVec 32)) (s : State) : Host.Outcome State Fault Refusal :=
  finish s (flushRange s (eaLR s a off) (s.getS b).toNat false)

/-- Write lines back and invalidate them (R304). -/
def execCinv (a b : BitVec 5) (off : Option (BitVec 32)) (s : State) : Host.Outcome State Fault Refusal :=
  finish s (flushRange s (eaLR s a off) (s.getS b).toNat true)

end Sys2Proof.Machine
end

