-- ==== Sys2Proof/Machine/Records.lean ====
section
/-! DEFINITION. Launches, their gangs, barriers, tasks and frames, and the end of a record (R40-R47, R68,
R73-R80, R357-R365). -/
namespace Sys2Proof.Machine
open Sys2Proof

/-! The launch record (R357). -/

def Launch.isGang (l : Launch) : Bool := l.l[1].getLsbD 63
def Launch.isMirror (l : Launch) : Bool := l.l[1].getLsbD 59
def Launch.entry (l : Launch) : Word := BitVec.ofNat 64 (fld l.l[0] 55 0)
def Launch.tiles (l : Launch) : Nat := fld l.l[4] 47 0
def Launch.ttlen (l : Launch) : Nat := fld l.l[3] 63 32
def Launch.hgroup (l : Launch) : Nat := fld l.l[12] 15 0
def Launch.fsize (l : Launch) : Nat := fld l.l[11] 15 0 * 128
def Launch.fcount (l : Launch) : Nat := fld l.l[11] 47 16
def Launch.pool (l : Launch) : Nat := fld l.l[10] 47 0
def Launch.frameAddr (l : Launch) (i : Nat) : Word := BitVec.ofNat 64 (l.pool + i * l.fsize)
def Launch.frameIdx (l : Launch) (a : Word) : Nat := (a.toNat - l.pool) / l.fsize
/-- The device and number of the launch's origin: the module's own launch, or that a mirror names (R358). -/
def Launch.originDev (l : Launch) (dev : Nat) : Nat := if l.isMirror then fld l.l[15] 63 56 else dev
def Launch.originNum (l : Launch) : Nat := if l.isMirror then fld l.l[15] 41 32 else l.num

/-- The lowest free frame of the pool (R365). -/
def Launch.freeFrame (l : Launch) : Option Nat :=
  (List.range (l.frames.length + 1)).find? (fun i => decide (i < l.fcount) && !l.frames.contains i)

/-! Gangs (R40, R41, R44). -/

structure Shape where
  d : Nat
  rg : Nat
  cg : Nat
  c : Nat
  t : Nat
  deriving DecidableEq, Repr

def shapeOf (w : Word) : Shape :=
  let c := fld w 4 2 + 1
  let t := fld w 1 0 + 1
  if w.getLsbD 15 then { d := 2 ^ fld w 14 13, rg := 4, cg := 4, c := c, t := t }
  else { d := 1, rg := fld w 8 7 + 1, cg := fld w 6 5 + 1, c := c, t := t }

def Launch.shape (l : Launch) : Shape := shapeOf l.l[1]

def Shape.size (h : Shape) : Nat := h.d * h.rg * h.cg * h.c * h.t

/-- The positions g, y, x of a rank (R41). -/
def Shape.g (h : Shape) (r : Nat) : Nat := r / (h.t * h.c * h.cg * h.rg)
def Shape.y (h : Shape) (r : Nat) : Nat := r / (h.t * h.c * h.cg) % h.rg
def Shape.x (h : Shape) (r : Nat) : Nat := r / (h.t * h.c) % h.cg

/-- Members of an instance of a level; 0 for a level that does not exist (R44). -/
def Shape.count (h : Shape) (level : Nat) : Nat :=
  match level with
  | 1 => h.c * h.t
  | 2 => h.cg * h.c * h.t
  | 3 => h.rg * h.cg * h.c * h.t
  | 4 => if 1 < h.d then h.size else 0
  | _ => 0

/-- INST of R44, and the key that tells an instance apart across the gang's dies. -/
def Shape.inst (h : Shape) (level r : Nat) : Nat :=
  match level with
  | 1 => h.y r * h.cg + h.x r
  | 2 => h.y r
  | 3 => h.g r
  | _ => 0

def Shape.key (h : Shape) (level r : Nat) : Nat :=
  match level with
  | 1 => h.g r * 16 + h.inst 1 r
  | 2 => h.g r * 16 + h.y r
  | 3 => h.g r
  | _ => 0

/-- `sys.dom` of a level for a rank (R44). -/
def Shape.dom (h : Shape) (level r : Nat) : Word :=
  let n := h.count level
  if n = 0 then 0 else BitVec.ofNat 64 (2 ^ 48 + h.inst level r * 2 ^ 32 + r % n * 2 ^ 16 + n)

def Shape.doms (h : Shape) (r : Nat) : Vector Word 4 := #v[h.dom 1 r, h.dom 2 r, h.dom 3 r, h.dom 4 r]

/-! Barriers (R45-R47). -/

/-- Members of an instance that have not left. -/
def barCount (l : Launch) (level inst : Nat) : Nat :=
  l.shape.count level - (l.left.filter (fun r => l.shape.key level r == inst)).length

def barFind (l : Launch) (level inst : Nat) : Option BarInst := l.bars.find? (fun b => b.level == level && b.inst == inst)

/-- Arrivals equal the count (R45). -/
def barFull (l : Launch) (level inst : Nat) : Bool :=
  match barFind l level inst with
  | some b => b.arrived.length == barCount l level inst
  | none => false

def dropBar (l : Launch) (level inst : Nat) : Launch := { l with bars := l.bars.filter (fun b => !(b.level == level && b.inst == inst)) }

/-- The barrier watchdog's time (R461). -/
def watchTime : Nat := 2 ^ 32

/-- Register an arrival; the first starts the watchdog. -/
def barArrive (s : State) (l : Launch) (level inst rank : Nat) : State :=
  let b := (barFind l level inst).getD { level := level, inst := inst, arrived := [], since := s.count }
  let l1 := dropBar l level inst
  let l2 : Launch := { l1 with bars := l1.bars ++ [{ b with arrived := b.arrived ++ [rank] }] }
  let s1 := s.modLaunch l.num (fun _ => l2)
  let s2 := if b.arrived.isEmpty then s1.after watchTime (.barrierWatchdog l.num level inst) else s1
  if barFull l2 level inst then s2.after Config.barTime (.barrierComplete l.num level inst) else s2

/-- Remove a member from the count of every valid level (R47). -/
def leaveBars (s : State) (num rank : Nat) : State :=
  match s.findLaunch num with
  | none => s
  | some l =>
    if l.left.contains rank then s
    else
      let l1 : Launch := { l with left := l.left ++ [rank] }
      let s1 := s.modLaunch num (fun _ => l1)
      l1.bars.foldl (fun x b => if barFull l1 b.level b.inst then x.after Config.barTime (.barrierComplete num b.level b.inst) else x) s1

/-! Kilocycles, ages and rates (R26, R73, R74). -/

def State.kilo (s : State) : Nat := s.count / 1024

/-- The age in kilocycles: taken from START at the pickup, then counted on and saturating (R73). -/
def ageOf (s : State) (r : Rec) : Nat :=
  let base := (r.since / 1024 + 65536 - r.w.start % 65536) % 65536
  min 65535 (base + (s.kilo - r.since / 1024))

def rateOf (s : State) (r : Rec) : Nat := min (2 ^ 32 - 1) (r.w.work * 65536 / max 1 (ageOf s r))

/-- Add a rate to the class ring of a die, which keeps the last 64. -/
def addSample (s : State) (die : Nat) (r : Rec) : State :=
  let same (x : Ring) : Bool := x.die == die && x.launch == r.w.launch && x.cls == r.w.cls
  s.modSch (fun c =>
    match c.rings.find? same with
    | some _ => { c with rings := c.rings.map (fun x => if same x then { x with rates := (x.rates ++ [rateOf s r]).drop (x.rates.length - 63) } else x) }
    | none => { c with rings := c.rings ++ [{ die := die, launch := r.w.launch, cls := r.w.cls, rates := [rateOf s r] }] })

/-- The class entry (R72); beyond the table, zeros. Read as the front end read it, at its home. -/
def classEntry (s : State) (l : Launch) (cls : Nat) : Chk Word :=
  if cls < fld l.l[5] 54 48 then (vmRead s 0 l.part (fld l.l[5] 47 0 + 8 * cls) 8).map (fun p => BitVec.ofNat 64 p.1) else .ok 0

/-! Tasks of a launch (R68, R77). -/

def newTask (n : Nat) : TaskSt := { task := n, alive := 0, won := false, lost := false, nextAttempt := 1, nextBlock := 0, backups := 0 }
def Launch.task (l : Launch) (n : Nat) : TaskSt := (l.tasks.find? (fun t => t.task == n)).getD (newTask n)
def Launch.setTask (l : Launch) (t : TaskSt) : Launch :=
  if l.tasks.any (fun x => x.task == t.task) then { l with tasks := l.tasks.map (fun x => if x.task = t.task then t else x) } else { l with tasks := l.tasks ++ [t] }
def modTask (s : State) (num task : Nat) (f : TaskSt → TaskSt) : State := s.modLaunch num (fun l => l.setTask (f (l.task task)))

/-- WON, LOST or NO RESULT, once every attempt has ended (R68). A mirror keeps the numbers that it has given for a tile that it homes: it
may hold further attempts of the task (R77, R358). -/
def finishTask (l : Launch) (t : TaskSt) : Launch :=
  let (w, x, n) := l.counts
  let c := if t.won then (w + 1, x, n) else if t.lost then (w, x + 1, n) else (w, x, n + 1)
  let l1 : Launch := { l with counts := c }
  if l.isMirror then l1.setTask { newTask t.task with nextAttempt := t.nextAttempt, nextBlock := t.nextBlock }
  else { l1 with tasks := l.tasks.filter (fun y => y.task != t.task) }

/-- One attempt of a task fewer. -/
def lessAlive (s : State) (num task : Nat) (backup : Bool) : State :=
  s.modLaunch num (fun l =>
    let t := l.task task
    let t1 : TaskSt := { t with alive := t.alive - 1, backups := if backup then t.backups - 1 else t.backups }
    if t1.alive = 0 then finishTask l t1 else l.setTask t1)

/-! Hedging counters (R80). -/

def hedgeOff (part k : Nat) : Nat := partOff part + 8 + k * 8
/-- Add to a partition's LIVE (2 in the order of R351 after `HEDGE_CFG`); DENIED is 4. -/
def addReg (s : State) (off : Nat) (d : Int) : State := s.setReg0 off (BitVec.ofInt 64 ((s.reg0 off).toNat + d))
def liveOff (part : Nat) : Nat := hedgeOff part 3
def deniedOff (part : Nat) : Nat := hedgeOff part 4
def issOff (part : Nat) : Nat := hedgeOff part 1
def dupOff (part : Nat) : Nat := hedgeOff part 2

/-! The end of a record (R35, R38, R68, R80). -/

/-- Every dispenser looks for work. -/
def allGrants (s : State) : State := (List.range 8).foldl (fun x d => x.after Config.grantTime (.grantRecord d)) s

/-- A record ends: its frame returns to the pool, its task has one attempt fewer, a backup is no longer
live, and the launch may be done. -/
def recordEnds (s : State) (r : Rec) : State :=
  match s.findLaunch r.w.launch with
  | none => s
  | some l =>
    let s1 := s.modLaunch l.num (fun l => { l with frames := l.frames.erase (l.frameIdx r.w.frame) })
    let s2 := if r.w.gang then s1 else lessAlive s1 l.num r.w.task r.w.backup
    let s3 := if r.w.backup && !l.isMirror then addReg s2 (liveOff l.part) (-1) else s2
    (allGrants s3).after Config.grantTime (.launchDone l.num)

/-- An atomic that a stopping thread has sent still performs at its home, which answers nobody (R144). -/
def performSent (s : State) (r : Reply) : State :=
  match r.acc with
  | .atomic op t _ x => if s.mem.poisoned r.key t.bytes then s else (atomicAt s .direct r.key t.bytes op t x.toNat).2
  | _ => s

/-- A reply on its way to a thread. -/
def replyFor (th : Nat) : Event → Bool
  | .loadReply n _ => n == th
  | .tverReply n _ => n == th
  | _ => false

/-- The focused thread awaits no reply any more: stores of its that were to reach a home after one do so now (R153). -/
def dropReplies (s : State) : State :=
  let s1 := s.thr.i.replies.foldl performSent s
  ({ s1 with agenda := s1.agenda.filter (fun e => !replyFor s.cur e.2) }.modI (fun i => { i with replies := [] })).after 0 (.storeDrain (thCore s.cur))

/-- The focused thread's record is dropped and the thread is free; its earlier stores perform (R35, R38). -/
def dropHeld (s : State) : State :=
  match s.thr.rcd with
  | none => s
  | some r => freeThread (recordEnds (dropReplies (drainAll s (thCore s.cur))) r) s.cur

/-- A record that an entry of a die's cancel filter stops (R38, R67, R103). -/
def filterHits (f : Filter) (die : Nat) (r : Rec) : Bool :=
  f.die == die && f.launch == r.w.launch && f.task == r.w.task && !r.w.gang &&
    (match f.tag with
     | some g => g == r.lineage && r.lineage != 0
     | none => f.exempt != some r.w.attempt)

def Launch.ends (l : Launch) : Bool := match l.phase with | .ending _ => true | _ => false

/-- A lineage cancel for a frame's tag goes to the die that pushed it (R102, R103). -/
def sendLineage (s : State) (die launch task : Nat) (tag : Word) : State := s.after Config.grantTime (.lineageCancel die launch task tag)

/-- Carry out an operation as another thread, then return to the focused one. -/
def asThread (s : State) (n : Nat) (f : State → State) : State := (f (s.focus n)).focus s.cur

end Sys2Proof.Machine
end

