-- ==== Sys2Proof/Machine/Control.lean ====
section
/-! DEFINITION. Control, literals, suspension, futures, services, barriers and fences (R207-R231,
R239-R242). -/
namespace Sys2Proof.Machine
open Sys2Proof

/-! Branches and calls (R210-R213). -/

/-- PC + 8 × offset. -/
def branchTarget (s : State) (off : Word) : Word := s.thr.pc + 8 * off

/-- `nop` (R186). -/
def execNop (s : State) : Host.Outcome State Fault Refusal := .next s

/-- `bra` (R210). -/
def execBra (off : Imm 20) (s : State) : Host.Outcome State Fault Refusal := .next (s.setNext (branchTarget s (immS off)))

/-- The test of `bc` (R211). -/
def bcTest (s : State) (c : BCond) (r : BitVec 5) : Bool :=
  match c with
  | .pany | .pall | .pnone => bcPred c (s.getP (r.setWidth 3))
  | _ => bcScalar c (s.getS r)

/-- `bc` (R211). -/
def execBc (c : BCond) (r : BitVec 5) (off : Imm 11) (s : State) : Host.Outcome State Fault Refusal :=
  .next (if bcTest s c r then s.setNext (branchTarget s (immS off)) else s)

/-- `call` (R212). -/
def execCall (off : Imm 20) (s : State) : Host.Outcome State Fault Refusal :=
  .next ((s.setS 30 (s.thr.pc + 8)).setNext (branchTarget s (immS off)))

/-- A register-indirect transfer (R213). -/
def jumpTo (s : State) (d : BitVec 5) (t : Word) : Chk State := do
  require (t.toNat % 8 == 0) 0x28 t.toNat
  return (s.setS d (s.thr.pc + 8)).setNext t

/-- `calli` (R213). -/
def execCalli (d a : BitVec 5) (s : State) : Host.Outcome State Fault Refusal := finish s (jumpTo s d (s.getS a))

/-- `ret` (R213). -/
def execRet (a : BitVec 5) (s : State) : Host.Outcome State Fault Refusal := finish s (jumpTo s 0 (s.getS a))

/-- `jmpi` (R213). -/
def execJmpi (a : BitVec 5) (s : State) : Host.Outcome State Fault Refusal := finish s (jumpTo s 0 (s.getS a))

/-- `rep` (R200, R201): the unit starts at the next bundle. -/
def execRep (creg : BitVec 5) (cnt : BitVec 6) (stepO stepD stepA stepB : Bool) (s : State) : Host.Outcome State Fault Refusal :=
  finish s (repIssue s creg cnt stepO stepD stepA stepB)

/-! Literals (R214-R216). -/

/-- `lit` (R214). -/
def execLit (d : BitVec 5) (v : Imm 15) (s : State) : Host.Outcome State Fault Refusal := .next (s.setS d (immS v))

/-- `lithi` (R215). -/
def execLithi (d : BitVec 5) (v : Imm 15) (s : State) : Host.Outcome State Fault Refusal :=
  .next (s.setS d (BitVec.ofNat 64 ((immS v).toNat % 2 ^ 32 * 2 ^ 32 + (s.getS d).toNat % 2 ^ 32)))

/-- `vlit` (R216): every lane, and not `lat`. -/
def execVlit (d : BitVec 5) (v : Imm 15) (s : State) : Host.Outcome State Fault Refusal :=
  .next (s.setV d (BitVec.ofNat 2048 (packN 32 (fun _ => (immS v).toNat) 64)))

/-! Suspension, ending and retired work (R217-R223). -/

/-- The live map of an instruction, checked (R217). A table that no longer translates parks the core
without a full frame (R505). -/
def withMap (s : State) (idx : Nat) (k : Nat → State → Host.Outcome State Fault Refusal) : Host.Outcome State Fault Refusal :=
  match liveMap s idx with
  | .ok (v, s1) => k v s1
  | .error (.cond c f) => if c.code = 0x17 then finish s (.error (.cond c f)) else .next (parkCore s c (faultPc s) false false)
  | .error (.wait w) => .next (block s w)

/-- Suspend under a live map when `go` holds: the checks of R85, then the write-back, at the next bundle. -/
def suspendIf (s : State) (idx : Nat) (go : Bool) (wait : Bool) : Host.Outcome State Fault Refusal :=
  withMap s idx (fun v s1 =>
    if s.thr.inHandler || !go then .next s1
    else match suspendSearch s1 v with
      | .error e => finish s (.error e)
      | .ok _ => suspend s1 (writeBack s1 v idx (s.thr.pc + 8) (if wait then mapHandles v else 0)))

/-- `yield` (R218). -/
def execYield (map : Imm 15) (s : State) : Host.Outcome State Fault Refusal :=
  suspendIf s (immMap map) (thSpec s.thr || s.thr.preempt) true

/-- `safe` (R219). -/
def execSafe (map : Imm 15) (s : State) : Host.Outcome State Fault Refusal := suspendIf s (immMap map) s.thr.preempt false

/-- The end of a continuation (R220): its stores perform, a gang member leaves its barriers, an attempt that has
not won ends with no result and gives its rate to the class ring (R74). -/
def endThread (s : State) : State :=
  let s1 := drainAll s (thCore s.cur)
  match s1.thr.rcd with
  | none => freeThread s1 s.cur
  | some r =>
    dropHeld (if r.w.gang then leaveBars s1 r.w.launch r.w.task
      else if anyWon s1.thr.r then s1 else addSample s1 (thDie s.cur) r)

/-- `end` (R220). -/
def execEndCont (s : State) : Host.Outcome State Fault Refusal :=
  finish s (do
    require (!s.thr.inHandler) 0x18 s.thr.pc.toNat
    return endThread s)

/-- `work` (R223): WORK saturates at 2^48 - 1. -/
def execWork (d : BitVec 5) (amount : Imm 15) (s : State) : Host.Outcome State Fault Refusal :=
  .next (s.modW (fun w => { w with work := min (2 ^ 48 - 1) (w.work + ((s.getS d).toNat + immU amount) % 2 ^ 64) }))

/-! Futures (R224-R230). -/

/-- `wait` (R226). -/
def execWait (h : BitVec 4) (s : State) : Host.Outcome State Fault Refusal := finish s (useHandle s h)

/-- `ftest` (R227). A won handle raises 0x31 (R225; log 59). -/
def testHandle (s : State) (d : BitVec 5) (h : BitVec 4) : Chk State :=
  match s.getH h with
  | .free => .ok (s.setS d 0)
  | .pending _ => .ok (s.setS d 1)
  | .done _ _ _ true => raise 0x31 h.toNat
  | .done _ c sc false =>
    let s1 := match sc with | some x => acquire s s.cur x | none => s
    .ok (s1.setS d (if c.isSome then 3 else 2))

/-- `ftest` (R227). -/
def execFtest (d : BitVec 5) (h : BitVec 4) (s : State) : Host.Outcome State Fault Refusal := finish s (testHandle s d h)

/-- `fcancel` (R230): a pending operation is detached and runs to completion; a recorded condition is gone, from the scalar of a `tread`
too. -/
def execFcancel (h : BitVec 4) (s : State) : Host.Outcome State Fault Refusal :=
  match s.getH h with
  | .done _ _ _ true => finish s (raise 0x31 h.toNat)
  | _ => .next ((s.setH h .free).modI (fun i => { i with owed := i.owed.filter (fun p => p.2.1 != h.toNat) }))

/-- The value of a handle; 0 when it is free (R228). -/
def handleValue : Handle → Word
  | .done v _ _ _ => v
  | _ => 0

/-- `fget` (R228). -/
def execFget (d : BitVec 5) (h : BitVec 4) (s : State) : Host.Outcome State Fault Refusal :=
  finish s (do
    let s1 ← useHandle s h
    return s1.setS d (handleValue (s.getH h)))

/-- `fput` (R229). -/
def execFput (h : BitVec 4) (a : BitVec 5) (s : State) : Host.Outcome State Fault Refusal :=
  finish s (do
    let s1 ← useHandle s h
    return s1.setH h (.done (s.getS a) none none false))

/-! Services (R239). -/

/-- The 32-byte request. -/
def svcMsg (s : State) (d : BitVec 5) (n : Nat) : Nat :=
  n + s.physTh s.cur * 2 ^ 16 + (s.part + (if thSpec s.thr then 64 else 0) + (if thGang s.thr then 128 else 0)) * 2 ^ 32
    + (s.getS d).toNat * 2 ^ 64 + (s.getS 4).toNat * 2 ^ 128 + (s.getS 5).toNat * 2 ^ 192

/-- `svc` (R239): the request is posted and the thread blocks until the reply. -/
def execSvc (d : BitVec 5) (n : Imm 15) (s : State) : Host.Outcome State Fault Refusal :=
  .next (block (s.mailTo (thDie s.cur) (svcMsg s d (immMap n))) (.svc d))

/-! Barriers and fences (R240-R242). -/

/-- `bar` (R240): the arrival is registered and the member blocks until its instance completes. -/
def execBar (level : BitVec 5) (map : Imm 15) (s : State) : Host.Outcome State Fault Refusal :=
  let n := level.toNat
  if s.thr.inHandler then finish s (raise 0x18 s.thr.pc.toNat)
  else withMap s (immMap map) (fun _ s1 =>
    match s1.launch, s1.thr.rcd with
    | some l, some r =>
      let inst := l.shape.key n r.w.task
      if !r.w.gang || l.shape.count n == 0 then finish s (raise 0x50 n)
      else if l.left.contains r.w.task then finish s (raise 0x52 n)
      else if (match barFind l n inst with | some b => b.arrived.contains r.w.task | none => false) then finish s (raise 0x51 n)
      else
        let s2 := barArrive (block (drainAll s1 (thCore s.cur)) (.bar n inst (immMap map))) l n inst r.w.task
        .next (if s.thr.preempt then s2.after Config.barTime (.preemptHold l.num) else s2)
    | _, _ => finish s (raise 0x50 n))

/-- `barl` (R241). -/
def execBarl (s : State) : Host.Outcome State Fault Refusal :=
  finish s (do
    require (!s.thr.inHandler) 0x18 s.thr.pc.toNat
    require (thGang s.thr) 0x50 0
    return leaveBars s (thLaunch s.thr) (match s.thr.rcd with | some r => r.w.task | none => 0))

/-- `fence` (R242, R137). -/
def execFence (sc : Scope) (s : State) : Host.Outcome State Fault Refusal :=
  finish s (do
    let s1 ← releaseChk s sc
    return acquire s1 s.cur sc)

end Sys2Proof.Machine
end

