-- ==== Sys2Proof/Machine/Search.lean ====
section
/-! DEFINITION. Search: choice frames, `try`, `fail`, `cut`, `mark` and `quit` (R82-R95, R102, R232-R235). -/
namespace Sys2Proof.Machine
open Sys2Proof

/-! Choice frames (R88). A frame is read as one number of 64 bytes. -/

def fTable (f : Nat) : Nat := getBytes f 0 7
def fStolen (f : Nat) : Nat := getBytes f 8 8
def fSmask (f : Nat) : Nat := getBytes f 16 4
def fVmask (f : Nat) : Nat := getBytes f 20 4
def fPmask (f : Nat) : Nat := getBytes f 24 1
def fCount (f : Nat) : Nat := getBytes f 25 1
def fNext (f : Nat) : Nat := getBytes f 26 1
def fDepth (f : Nat) : Nat := getBytes f 27 1
def fTrtop (f : Nat) : Nat := getBytes f 28 2
def fSave (f : Nat) : Nat := getBytes f 30 2
def fTryPc (f : Nat) : Nat := getBytes f 32 7
def fTag (f : Nat) : Word := BitVec.ofNat 64 (getBytes f 40 8)

/-- The size of a saved area, padded to 64 bytes. -/
def saveSize (sm vm pm : Nat) : Nat :=
  (8 * (bitsOf 32 sm).length + 32 * (bitsOf 8 pm).length + 16 + 256 * (bitsOf 32 vm).length + 63) / 64 * 64

def frameSize (f : Nat) : Nat := 64 + saveSize (fSmask f) (fVmask f) (fPmask f)

/-- The key of an offset in the region of a thread. -/
def regionKey (s : State) (n off : Nat) : Nat := lsKey (thCore n) (thBase n (s.getT n) + off)

def frameAt (s : State) (n off : Nat) : Nat := s.mem.get (regionKey s n off) 64

/-- The frames of a stack with their offsets, lowest first, each as it is read at an offset. -/
def framesGo (at_ : Nat → Nat) : Nat → Nat → List (Nat × Nat)
  | 0, _ => []
  | k + 1, off => let f := at_ off; (off, f) :: framesGo at_ k (off + frameSize f)

def stackOf (s : State) (n : Nat) : List (Nat × Nat) :=
  let t := s.getT n
  framesGo (frameAt s n) t.q.depth ((regionsOf t.y.srch).stack + 64)

/-- The untried alternatives of a frame, ascending (R90). -/
def untried (f : Nat) : List Nat := (List.range (fCount f)).filter (fun i => decide (fNext f ≤ i) && !(fStolen f).testBit i)

/-- Values of equal size, the first lowest. -/
def joinVals (w : Nat) (l : List Nat) : Nat := l.foldr (fun x acc => x % 2 ^ w + acc * 2 ^ w) 0

/-- The saved area of the registers of three masks, and the generator (R88). -/
def savedArea (r : Regs) (sm vm pm : Nat) : Nat :=
  let a := joinVals 64 ((bitsOf 32 sm).map (fun i => (r.getS (BitVec.ofNat 5 i)).toNat))
  let p := joinVals 256 ((bitsOf 8 pm).map (fun i => (r.getP (BitVec.ofNat 3 i)).toNat))
  let v := joinVals 2048 ((bitsOf 32 vm).map (fun i => (r.getV (BitVec.ofNat 5 i)).toNat))
  let na := 8 * (bitsOf 32 sm).length
  let np := 32 * (bitsOf 8 pm).length
  a + p * 256 ^ na + r.genA.toNat * 256 ^ (na + np) + r.genB.toNat * 256 ^ (na + np + 8) + v * 256 ^ (na + np + 16)

/-- Put the members of a list of registers in turn, from `z`-byte values. -/
def putEach {α : Type} (f : α → Nat → Nat → α) (z x : Nat) : List Nat → Nat → α → α
  | [], _, r => r
  | i :: l, k, r => putEach f z x l (k + 1) (f r i (getBytes x (k * z) z))

/-- The registers that a saved area restores, and the generator (R94). -/
def restoreArea (r : Regs) (sm vm pm x : Nat) : Regs :=
  let na := 8 * (bitsOf 32 sm).length
  let np := 32 * (bitsOf 8 pm).length
  let r1 := putEach (fun r i v => r.setS (BitVec.ofNat 5 i) (BitVec.ofNat 64 v)) 8 x (bitsOf 32 sm) 0 r
  let r2 := putEach (fun r i v => r.setP (BitVec.ofNat 3 i) (BitVec.ofNat 256 v)) 32 (x / 256 ^ na) (bitsOf 8 pm) 0 r1
  let r3 : Regs := { r2 with
    genA := BitVec.ofNat 64 (getBytes x (na + np) 8)
    genB := BitVec.ofNat 64 (getBytes x (na + np + 8) 8) }
  putEach (fun r i v => r.setV (BitVec.ofNat 5 i) (BitVec.ofNat 2048 v)) 256 (x / 256 ^ (na + np + 16)) (bitsOf 32 vm) 0 r3

def areaOf (s : State) (n f : Nat) : Nat := s.mem.get (regionKey s n (fSave f)) (saveSize (fSmask f) (fVmask f) (fPmask f))

/-- The registers that a frame names (R94). -/
def frameRegs (f : Nat) : List Reg := maskRegs (fSmask f) (fVmask f) (fPmask f)

/-! Trail undo (R94, R97). -/

/-- Undo entries [lo, lo + k) of a trail at key `trail`, newest first, on the region at key `base`. -/
def undoGo (trail base lo : Nat) : Nat → Mem → Mem
  | 0, m => m
  | k + 1, m =>
    let e := m.get (trail + 16 * (lo + k)) 16
    undoGo trail base lo k (m.put (base + e % 2 ^ 18) (2 ^ (e / 2 ^ 30 % 4)) (getBytes e 8 8))

/-- Undo the focused thread's trail down to an entry count. -/
def undoTo (s : State) (lo : Nat) : State :=
  let s1 := s.modM (undoGo (ownKey s (regionsOf s.thr.y.srch).trail) (ownKey s 0) lo (s.thr.q.trcnt - lo))
  s1.modQ (fun q => { q with trcnt := min lo q.trcnt })

/-! Entry tables (R90, R232, R233). -/

/-- Entry i of a table, in bundles: an ordinary load, whose failure is raised at the instruction. -/
def entryOf (s : State) (table i : Nat) : Chk (Word × State) := do
  let a := (table + 4 * i) % 2 ^ 64
  let (s1, t) ← resolve s a (accLen s a 4) 4 .load
  let k := tgtKey s1 t
  let rt := tgtRoute s1 t
  match badPlace s1 (thDie s.cur) rt k (accLen s a 4) with
  | some d => raise 0x71 d
  | none => pure ()
  let (v, s2) ← if routeWaits rt then readFar s1 rt k 4 else pure (loadPlace s1 rt k (accLen s a 4))
  match addrFmt s a with
  | none => return (BitVec.ofInt 64 (sval 32 v), s2)
  | some w =>
    let (ds, s3) := winDraws s2 [a] 1
    let y ← laneLoad w (draw ds 0) v 0
    return (BitVec.ofInt 64 (sval 32 y), s3)

/-- Units of the focused thread's stack and trail that hold no value stop a search instruction (R464). -/
def searchUnits (s : State) (hi : Nat) : Chk Unit :=
  let r := regionsOf s.thr.y.srch
  let k := ownKey s r.stack
  let t := ownKey s r.trail
  if s.mem.poisoned k (hi - r.stack) then raise 0x71 (s.mem.eccAt k (hi - r.stack))
  else require (!s.mem.poisoned t (16 * s.thr.q.trcnt)) 0x71 (s.mem.eccAt t (16 * s.thr.q.trcnt))

/-- A search instruction stands where it may (R82, R435, R503). -/
def searchHere (s : State) : Chk Unit := do
  require (!s.thr.inHandler) 0x18 s.thr.pc.toNat
  require (!thGang s.thr) 0x40 s.thr.pc.toNat

/-! `try` (R93, R232). -/

/-- The 64 bytes of a new frame. -/
def newFrame (table sm vm pm top trcnt depth n : Nat) (pc tag : Word) : Nat :=
  table % 2 ^ 56 + sm * 2 ^ 128 + vm * 2 ^ 160
    + ((top + 64) % 2 ^ 16 * 2 ^ 48 + trcnt % 2 ^ 16 * 2 ^ 32 + (depth + 1) % 256 * 2 ^ 24 + 2 ^ 16 + n * 2 ^ 8 + pm) * 2 ^ 192
    + pc.toNat % 2 ^ 56 * 2 ^ 256 + tag.toNat * 2 ^ 320

/-- The lineage tag of the next push of the focused thread (R89). -/
def nextTag (s : State) : Word := BitVec.ofNat 64 (s.device % 256 * 2 ^ 56 + s.cur % 4096 * 2 ^ 44 + (s.thr.q.pushes + 1) % 2 ^ 44)

/-- Free threads of the cluster look for a victim once a frame is pushed (R96). -/
def wakeScans (s : State) : State :=
  let k := thClu s.cur
  let waits (n : Nat) : Bool := threadFree s n && !s.agenda.any (fun e => e.2 == .idleScan n)
  (((List.range 32).map (fun i => k * 32 + i)).filter waits).foldl (fun x n => x.after Config.scanTime (.idleScan n)) s

/-- Push a frame for the live map `v` and take alternative 0. -/
def pushFrame (s : State) (v table n : Nat) (e : Word) : Chk State := do
  let q := s.thr.q
  let r := regionsOf s.thr.y.srch
  let sm := getBytes v 0 4 / 2 * 2
  let vm := getBytes v 4 4
  let pm := getBytes v 8 1
  let size := saveSize sm vm pm
  match (maskRegs sm vm pm).findSome? (regBad s s.cur) with
  | some d => raise 0x71 d
  | none => pure ()
  require (s.thr.y.srch != 0) 0x45 0
  require (decide (q.depth ≠ 255) && decide (q.top + 64 + size ≤ r.stack + r.stlen)) 0x45 q.top
  let s1 := drainAll s (thCore s.cur)
  let f := newFrame table sm vm pm q.top q.trcnt q.depth n s.thr.pc (nextTag s)
  let s2 := s1.modM (·.put (ownKey s q.top) (64 + size) (f + savedArea s.thr.r sm vm pm * 256 ^ 64))
  let s3 := setSearch s2 { q with top := q.top + 64 + size, depth := q.depth + 1, pushes := q.pushes + 1 }
  return wakeScans ((s3.modY (fun y => { y with alt := 0 })).setNext (s.thr.pc + 8 * e))

/-- A register that a live map names still awaits the reply of an access, or a `tread`: a `try` that saves it waits (R39, R237). -/
def savesAwaited (t : Thread) (v : Nat) : Option Why :=
  if (mapRegs v).any (fun g => g != .s 0 && t.i.replies.any (fun r => r.dest == g)) then some .reply
  else if (mapRegs v).any (fun g => g != .s 0 && t.i.ilock.any (fun p => .s p.1 == g)) then some .queue
  else none

/-- `try` (R93, R232). The checks run in the order of R503. -/
def execTryChoice (a b : BitVec 5) (n : BitVec 7) (map : BitVec 16) (s : State) : Host.Outcome State Fault Refusal :=
  match searchHere s with
  | .error e => finish s (.error e)
  | .ok _ =>
    withMap s map.toNat (fun v s1 => finish s (do
      require (!anyWon s1.thr.r) 0x31 (firstWon s1.thr.r)
      let k := if b = 0 then n.toNat else (s.getS b).toNat
      require (decide (1 ≤ k) && decide (k ≤ 64)) 0x12 k
      require ((s.getS a).toNat % 4 == 0) 0x22 (s.getS a).toNat
      let (e, s2) ← entryOf s1 (s.getS a).toNat 0
      match savesAwaited s.thr v with
      | some w => .error (.wait w)
      | none => pushFrame s2 v (s.getS a).toNat k e))

/-! `fail` (R94, R233). -/

/-- No older result, of a fixed latency or of a `tread`, lands in the registers that a `fail` restores (R94, R233). -/
def dropLate (rs : List Reg) (i : IssueSt) : IssueSt :=
  { i with pend := i.pend.filter (fun p => !rs.contains p.reg), ilock := i.ilock.filter (fun p => !rs.contains (.s p.1)) }

/-- Leave a frame: its trail is undone, and its registers and the generator are restored. -/
def backInto (s : State) (f : Nat) : State :=
  let s1 := undoTo s (fTrtop f)
  (s1.modR (fun r => restoreArea r (fSmask f) (fVmask f) (fPmask f) (areaOf s1 s.cur f))).modI
    (fun i => { dropLate (frameRegs f) i with wrote := i.wrote ++ frameRegs f })

/-- Frames from the newest down; the condition of a failing entry read comes with the state that stands (R233). -/
def failGo : List (Nat × Nat) → State → State × Chk State
  | [], s =>
    let s1 := setSearch s { s.thr.q with depth := 0 }
    (s1, .ok ((block s1 .idle).after Config.scanTime (.idleScan s.cur)))
  | (off, f) :: r, s =>
    let s1 := backInto s f
    match untried f with
    | i :: _ =>
      let s2 := writeHeader s1
      match entryOf s2 (fTable f) i with
      | .error e => (s2, .error e)
      | .ok (e, s3) =>
        let s4 := s3.modM (·.put (ownKey s (off + 26)) 1 (i + 1))
        let s5 := s4.modY (fun y => { y with alt := BitVec.ofNat 64 i })
        (s5, .ok (s5.setNext (BitVec.ofNat 64 (fTryPc f) + 8 * e)))
    | [] => failGo r (setSearch s1 { s1.thr.q with top := off, depth := s1.thr.q.depth - 1 })

/-- Every frame of the focused thread is exhausted: a `fail` makes an idle searcher, which awaits no reply. -/
def failsEmpty (s : State) : Bool := !s.thr.i.replies.isEmpty && (stackOf s s.cur).all (fun p => (untried p.2).isEmpty)

/-- `fail` (R94, R233): earlier stores have performed, then the newest frames are left until one holds an
untried alternative; an emptied stack makes an idle searcher. -/
def execFail (s : State) : Host.Outcome State Fault Refusal :=
  match (do searchHere s; searchUnits s s.thr.q.top : Chk Unit) with
  | .error e => finish s (.error e)
  | .ok _ =>
    if failsEmpty s then .next (block s .reply) else
    let p := failGo (stackOf s s.cur).reverse (drainAll (s.modI (fun i => { i with wrote := [] })) (thCore s.cur))
    finish p.1 p.2

/-! `cut`, `mark` and `quit` (R95, R102, R221, R234, R235). -/

/-- The die of the thread that pushed a frame, which its tag names (R89, R103). -/
def tagDie (tag : Word) : Nat := tag.toNat / 2 ^ 44 % 4096 / 512

/-- A lineage cancel for each of some frames that has been stolen from, to the die that pushed it (R102, R103). -/
def cancelFrames (launch task : Nat) (fs : List Nat) (s : State) : State :=
  fs.foldl (fun x f => if fStolen f = 0 then x else sendLineage x (tagDie (fTag f)) launch task (fTag f)) s

/-- The same for frames of the focused thread. -/
def cancelOwn (s : State) (fs : List (Nat × Nat)) : State :=
  cancelFrames (thLaunch s.thr) (match s.thr.rcd with | some r => r.w.task | none => 0) (fs.map (fun p => p.2)) s

/-- Pop every frame deeper than `d`, which is below the depth (R102). -/
def cutTo (s : State) (d : Nat) : State :=
  let fs := stackOf s s.cur
  let top := match fs[d - 1]? with
    | some (off, f) => if d = 0 then (regionsOf s.thr.y.srch).stack + 64 else off + frameSize f
    | none => (regionsOf s.thr.y.srch).stack + 64
  let s1 := cancelOwn s (fs.drop d)
  setSearch s1 { s1.thr.q with depth := d, top := top, trcnt := if d = 0 then 0 else s1.thr.q.trcnt }

/-- The lineage cancels for the stolen frames of the focused thread (R102, R103). -/
def cancelStolen (s : State) : State := cancelOwn s (stackOf s s.cur)

/-- An entry of a die's cancel filter names a record by its lineage (R103). -/
def stopsByTag (s : State) (die : Nat) (r : Rec) : Bool := s.sch.filters.any (fun f => f.tag.isSome && filterHits f die r)

/-- The frames of a record that no thread holds: in the local store of the thread to which it is bound by a full frame, or in the extent
that its write-back has saved (R36, R37, R88). -/
def restFrames (s : State) (r : Rec) : List Nat :=
  match s.findLaunch r.w.launch with
  | none => []
  | some l =>
    let read (va n : Nat) : Nat := match vmRead s (r.die * 16) r.w.part va n with | .ok (v, _) => v | .error _ => 0
    let map := read (fld l.l[9] 47 0 + 16 * r.w.livemap) 16
    let at_ (off : Nat) : Nat := match r.w.fullf, r.w.bound with
      | true, some n => frameAt s n off
      | _, _ => read (r.w.frame.toNat + 0x2300 + off - (mapExtent map).1) 64
    if l.l[8] = 0 then [] else (framesGo at_ r.w.depth ((regionsOf l.l[8]).stack + 64)).map (fun p => p.2)

/-- A record that no thread holds and that a lineage cancel drops sends lineage cancels for its own frames in turn (R103). -/
def cancelRest (s : State) (die : Nat) (r : Rec) : State :=
  if stopsByTag s die r then cancelFrames r.w.launch r.w.task (restFrames s r) s else s

/-- The focused thread, whose record is cancelled, stops (R38, R67, R103, R222). One that a lineage cancel stops sends
lineage cancels in turn. -/
def stopHere (s : State) : State :=
  match s.thr.rcd with
  | none => s
  | some r =>
    dropHeld (if stopsByTag s (thDie s.cur) r then cancelStolen s else s)

/-- `cut` (R102, R234). -/
def execCut (d : BitVec 5) (depth : BitVec 15) (s : State) : Host.Outcome State Fault Refusal :=
  finish s (do
    searchHere s
    let k := if d = 0 then depth.toNat else (s.getS d).toNat
    if s.thr.q.depth ≤ k then return s else return cutTo s k)

/-- `mark` (R235). -/
def execMark (d : BitVec 5) (s : State) : Host.Outcome State Fault Refusal :=
  finish s (do
    require (!thGang s.thr) 0x40 s.thr.pc.toNat
    return s.setS d (BitVec.ofNat 64 s.thr.q.depth))

/-- `quit` (R221): `cut 0`, then `end`. -/
def execQuit (s : State) : Host.Outcome State Fault Refusal :=
  finish s (do
    require (!s.thr.inHandler) 0x18 s.thr.pc.toNat
    return endThread (if s.thr.q.depth = 0 then s else cutTo s 0))

end Sys2Proof.Machine
end

