-- ==== Sys2Proof/Machine/Issue.lean ====
section
/-! DEFINITION. The issue of one bundle, from the meanings of its two instructions (R39, R183, R184, R187, R190,
R201, R209, R246, R503), and the choice of the thread that issues. -/
namespace Sys2Proof.Machine
open Sys2Proof

/-- The meaning of an instruction, as the dispatch gives it. -/
abbrev Exec := Instr → State → Host.Outcome State Fault Refusal

/-! One bundle of the focused thread. -/

/-- Lead instructions that suspend: their arithmetic word takes effect before them (R209). -/
def suspends : Instr → Bool
  | .yield _ | .safe _ | .bar _ _ | .endCont | .quit => true
  | _ => false

/-- The thread waits at an instruction that it will execute again: the bundle has not issued (R39). -/
def reissues : Option Why → Bool
  | some (.svc _) | some (.bar _ _ _) | some .idle | none => false
  | some _ => true

/-- The arithmetic word's results, beside those that the lead instruction wrote: where both name a register, the
lead result stands (R183). -/
def mergeOne (sA : State) (taken : List Reg) (s : State) (g : Reg) : State :=
  if taken.contains g then s else s.modR (fun r => landVal r { reg := g, ready := 0, val := sA.thr.r.val g })

/-- `lat` is not among what a lead word's load of the same vector takes: it gets the arithmetic result (R195, log 61). -/
def mergeArith (s sA : State) (old : Regs) (lead arith : Instr) : State :=
  ((arithWrites old arith).foldl (mergeOne sA (leadWrites lead ++ s.thr.i.wrote)) s).setGen sA.gen

/-- The access of this bundle awaits its reply: its destination is not read before the first part of its latency, with the
value that it would have kept, which is that of the newest older write (R189). Older results in flight land before it. -/
def deferFar (e n : Nat) (t : Thread) (g : Reg) : Thread :=
  let old := match (t.i.pend.filter (fun p => p.reg == g)).getLast? with | some p => p.val | none => t.r.val g
  if n = 0 ∨ g = .s 0 then t
  else { t with i := { t.i with pend := t.i.pend.filter (fun p => p.reg != g || decide (p.ready < e + n)) ++ [{ reg := g, ready := e + n, val := old }] } }

/-- The latency of what the lead instruction wrote, or will write once its reply arrives. -/
def leadDefer (s0 : State) (lead : Instr) (t : Thread) : Thread :=
  let n := leadLatency s0 lead
  let t1 := if s0.thr.i.replies.length < t.i.replies.length then (leadWrites lead).foldl (deferFar s0.eff n) t
    else deferAll s0.thr.r s0.eff n (leadWrites lead) t
  let late := match assistRead s0 lead with
    | some m => (leadWrites lead).map (fun g => (g, s0.eff + m))
    | none => []
  { t1 with i := { t1.i with slow := t1.i.slow.filter (fun p => decide (s0.eff < p.2)) ++ late } }

/-- What the arithmetic instruction writes and the lead instruction does not. -/
def arithOnly (s0 : State) (lead arith : Instr) (t : Thread) : List Reg :=
  (arithWrites s0.thr.r arith).filter (fun g => !(leadWrites lead ++ t.i.wrote).contains g)

/-- The latency of what the arithmetic instruction wrote and the lead instruction did not. -/
def arithDefer (s0 : State) (lead arith : Instr) (t : Thread) : Thread :=
  deferAll s0.thr.r s0.eff (arithUse arith).lat (arithOnly s0 lead arith t) t

/-- A register that a bundle writes takes no value of an earlier access or `tread` any more: of the bundle's program order the
later write stands. `n` replies were outstanding before the bundle. -/
def supersede (n : Nat) (rs : List Reg) (t : Thread) : Thread :=
  let off (r : Reply) : Reply := if rs.contains r.dest then { r with dest := .s 0 } else r
  let free (d : BitVec 5) : Bool := !rs.contains (.s d)
  { t with i := { t.i with
      replies := (t.i.replies.take n).map off ++ t.i.replies.drop n
      ilock := t.i.ilock.filter (fun p => free p.1), owed := t.i.owed.filter (fun p => free p.1) } }

/-- What a bundle wrote supersedes, the registers that a `fail` restored among it; a `tread` of this bundle holds its own scalar. -/
def supersedeBoth (s0 : State) (b : Bundle) (t : Thread) : Thread :=
  let rs := (match b.lead with | .tread .. => [] | _ => leadWrites b.lead) ++ t.i.wrote ++ arithOnly s0 b.lead b.arith t
  supersede s0.thr.i.replies.length rs t

/-- The registers that a bundle wrote now: an access that awaits its reply writes when it lands. -/
def writesNow (s0 s : State) (b : Bundle) : List Reg :=
  (if s0.thr.i.replies.length < s.thr.i.replies.length then [] else leadWrites b.lead) ++ s.thr.i.wrote ++ arithWrites s0.thr.r b.arith

def deferBoth (s0 s : State) (b : Bundle) : State :=
  cleanRegs { s with thr := supersedeBoth s0 b (arithDefer s0 b.lead b.arith (leadDefer s0 b.lead s.thr)) } s0.cur (writesNow s0 s b)

/-- Before a suspending lead instruction writes the registers back, no older result lands over what the arithmetic word wrote
(R209). -/
def arithFirst (s0 sA : State) (arith : Instr) : State :=
  sA.modI (fun i => { i with pend := i.pend.filter (fun p => !(arithWrites s0.thr.r arith).contains p.reg) })

/-- Both instructions of a bundle. A condition of either leaves the bundle without effect (R184); one of the lead
word is reported first (R503). -/
def runBundle (ex : Exec) (s0 : State) (b : Bundle) : Host.Outcome State Fault Refusal :=
  match ex b.lead s0 with
  | .next s1 =>
    if s1.taken.isSome || reissues s1.thr.i.blocked then .next s1
    else
      match ex b.arith (if suspends b.lead then s0 else s0.setGen s1.gen) with
      | .next sA =>
        if sA.taken.isSome || reissues sA.thr.i.blocked then ex b.arith s0
        else if suspends b.lead then
          match ex b.lead (arithFirst s0 sA b.arith) with
          | .next s2 => .next (if s2.thr.rcd.isSome then { s2 with thr := supersedeBoth s0 b (arithDefer s0 b.lead b.arith s2.thr) } else s2)
          | o => o
        else .next (deferBoth s0 (mergeArith s1 sA s0.thr.r b.lead b.arith) b)
      | o => o
  | o => o

/-- The thread after its bundle: it stands at its next bundle and may issue no earlier than W allows, which does not carry
into a handler (R187, R441); a repetition goes on (R201). -/
def nextBundle (e wait : Nat) (took : Bool) (t : Thread) : Thread :=
  let fin : Thread := { t with pc := t.npc, i := { t.i with notBefore := if took then t.i.notBefore else e + wait } }
  match t.i.rep with
  | none => fin
  | some r =>
    if t.pc = r.pc then fin
    else if r.j + 1 < r.n then { fin with pc := t.pc, i := { fin.i with rep := some { r with j := r.j + 1 } } }
    else { fin with i := { fin.i with rep := none } }

/-- After a bundle: its core has issued it in this cycle, unless the thread waits at it (R39); a thread of a parked core or of a
cancelled attempt stops once its unit is over (R201, R436, R443). -/
def afterBundle (e : Nat) (wait : Nat) (s : State) : State :=
  let n := s.cur
  let c := thCore n
  if s.thr.rcd.isSome && reissues s.thr.i.blocked then { s with thr := { s.thr with pc := s.thr.npc } }
  else
    let s1 := s.setCore c { s.core c with last := thIn n, next := s.clock + 1 }
    if s1.thr.rcd.isNone then s1
    else
      let s2 : State := { s1 with thr := nextBundle e (max wait 1) s.taken.isSome s1.thr }
      if s2.thr.i.rep.isSome then s2
      else if s2.thr.cancel then stopHere s2
      else if (s2.core c).parked.isSome then bindOther s2 n
      else s2

/-- A stall under MODE 1: VIOL counts the early reads and the thread is held until the values are ready. -/
def stall (s : State) (l : List Pend) : State :=
  let w := s.thr.y.sbchk.toNat
  let v := min (2 ^ 32 - 1) (w / 2 ^ 32 + l.length)
  (s.modY (fun y => { y with sbchk := BitVec.ofNat 64 (v * 2 ^ 32 + w % 2 ^ 32) })).modI
    (fun i => { i with notBefore := l.foldl (fun m p => max m p.ready) i.notBefore })

/-- The early reads that the checker sees in a bundle (R190). -/
def checkedReads (s : State) (b : Bundle) : List Pend :=
  if s.thr.y.sbchk.getLsbD 0 then earlyReads s.thr s.eff (bundleReads b) else []

/-- The bundle does not issue in this cycle: the checker's MODE 1 or write-assist mode holds the thread (R189, R190). -/
def heldBack (s : State) (b : Bundle) : Option State :=
  match checkedReads s b with
  | p :: l => if s.thr.y.sbchk.getLsbD 1 then some (stall s (p :: l)) else none
  | [] => if slowRead s.thr b s.eff then some (s.modI (fun i => { i with notBefore := s.eff + 1 })) else none

/-- A decoded bundle at the point of issue: the checker, interlocks, a watchdog's condition, an error in a register that it reads
(R464; log 75), then its effect. -/
def issueBundle (ex : Exec) (s : State) (b : Bundle) : Host.Outcome State Fault Refusal :=
  match checkedReads s b with
  | p :: _ => finish s (raise 0x10 (earlyDetail p s.eff))
  | [] =>
    if interlocked s.thr b then .next (block s .queue)
    else if heldByReplies s.thr b then .next (block s .reply)
    else match owedRead s.thr b with
      | some (_, h, c) => finish s (.error (.cond { c with flags := c.flags ||| 2 } (some (BitVec.ofNat 4 h))))
      | none =>
        match badRead s b with
        | some d => finish s (raise 0x71 d)
        | none => runBundle ex s b

/-- A condition is taken only once every access of the thread that awaits a reply has been answered (R430): until then the
thread waits at its bundle, and meets the condition there again. An early read is no longer early then: it stays with the
record, to be taken first. -/
def takeLate (s0 s1 : State) : State :=
  match s1.taken with
  | none => s1
  | some c =>
    if s0.thr.i.replies.isEmpty then s1
    else block (if c.code = 0x10 then s0.modRcd (fun r => { r with owed := r.owed ++ [(c, faultPc s0)] }) else s0) .reply

/-- A bundle that does not decode raises its decode-class condition before either word takes effect (R206, R502);
the detail is the bundle (R429). -/
def execReservedCodeDecode (e : DecodeErr) (bundle : BitVec 64) (s : State) : Host.Outcome State Fault Refusal :=
  finish s (.error (.cond (decodeCond e bundle.toNat) none))

/-- The focused thread at the point of issue: the results that are due have landed, and the next PC is PC + 8. -/
def atIssue (s : State) : State :=
  let t := landDue s.eff s.thr
  { s with thr := { t with npc := t.pc + 8, i := { t.i with wrote := [], blocked := none } }, taken := none }

/-- The conditions that the thread's record has yet to take. One that was found later is taken at the next bundle that would
issue (R430); the others name their own. -/
def owedConds (t : Thread) : List (Cond × Word) := match t.rcd with | some r => r.owed | none => []

/-- The focused thread issues its next bundle. -/
def issue (ex : Exec) (s : State) : Host.Outcome State Fault Refusal :=
  let e := s.eff
  let s0 := atIssue s
  let go (wait : Nat) (o : Host.Outcome State Fault Refusal) : Host.Outcome State Fault Refusal :=
    match o with
    | .next x => .next (afterBundle e wait (takeLate s0 x))
    | o => o
  match owedConds s.thr with
  | (c, pc) :: rest => go 1 (.next (if !s0.thr.i.replies.isEmpty then block s0 .reply else takeCondition (s0.modRcd (fun r => { r with owed := rest })) c (if c.flags.getLsbD 2 then s0.thr.pc else pc)))
  | [] =>
    match fetchBits s0 s0.thr.pc with
    | .error x => go 1 (finish s0 (.error x))
    | .ok (v, s1) =>
      match decodeValue v with
      | .error d => go 1 (execReservedCodeDecode d (BitVec.ofNat 64 v) s1)
      | .ok b =>
        match (match s1.thr.i.rep with | some r => repBundle r r.j b | none => .ok b) with
        | .error x => go 1 (finish s1 (.error x))
        | .ok b' =>
          match heldBack s1 b' with
          | some x => .next x
          | none => go (max b'.wait.toNat 1 + assistStore s1 b'.lead) (issueBundle ex s1 b')

/-! Which thread issues (R39). -/

/-- The thread could issue but for the pulse, its wait count and its core's cycle (R39); one that waits at its cluster's job queue
may try again at its turn (R313). -/
def able (s : State) (n : Nat) (t : Thread) : Bool :=
  let c := s.core (thCore n)
  t.rcd.isSome && (t.i.blocked.isNone || (t.i.blocked == some .mxe && mxeReady s n)) && (t.i.later.isEmpty || t.i.rep.isSome) && !t.i.hold &&
    (c.parked.isNone || t.i.rep.isSome) && !c.lost

def ready (s : State) (n : Nat) : Bool :=
  let t := s.getT n
  let u := s.clu (thClu n)
  able s n t && u.kept s.clock && decide (t.i.notBefore ≤ u.effAt s.clock) && decide ((s.core (thCore n)).next ≤ s.clock)

/-- Held threads in ascending number from the one after the last issued of their core, core by core after the
focused thread's (R39). -/
def issueOrder (s : State) : List Nat :=
  let l := (s.holders.map thCore).eraseDups
  let later := (l.filter (fun c => decide (thCore s.cur < c))) ++ l.filter (fun c => !decide (thCore s.cur < c))
  (later.map (fun c => (List.range 4).map (fun i => c * 4 + ((s.core c).last + 1 + i) % 4))).flatten

def nextReady (s : State) : Option Nat := (issueOrder s).find? (ready s)

/-! Steps that come of themselves (log 2). -/

/-- A thread whose synchronising load may go on: every word is full (R151). -/
def syncWake (s : State) (n : Nat) : Bool :=
  match (s.getT n).i.blocked with
  | some (.sync ks) => ks.all (fun k => !s.mem.empty.contains k)
  | _ => false

/-- A thread that may take a condition found later (R430, R462). -/
def laterDue (s : State) (n : Nat) : Bool :=
  let t := s.getT n
  !t.i.later.isEmpty && t.i.replies.isEmpty && t.i.rep.isNone && (s.core (thCore n)).parked.isNone &&
    (match t.i.blocked with | some (.bar _ _ _) | some (.svc _) => false | _ => true)

/-- The next step that a thread's state itself makes due. -/
def selfEvent (s : State) : Option Event :=
  match s.holders.find? (syncWake s) with
  | some n => some (.syncLoadWake n)
  | none => (s.holders.find? (laterDue s)).map .takeLaterCondition

/-! The clock. -/

/-- Charge the cycles for which thread n holds its record (R80). A backup that a mirror holds is charged to its
origin when it ends. -/
def chargeOne (s : State) (dt : Nat) (n : Nat) : State :=
  match (s.getT n).rcd with
  | none => s
  | some r =>
    if countStops s.bivState || (match s.findLaunch r.w.launch with | some l => l.isMirror | none => false) then s
    else
      let s1 := addReg s (issOff r.w.part) dt
      if r.w.backup then addReg s1 (dupOff r.w.part) dt else s1

/-- The kept pulses of a cluster in the next `dt` cycles. -/
def pulses (s : State) (dt k : Nat) : Nat := (s.clu k).effAt (s.clock + dt) - (s.clu k).effAt s.clock

/-- A launch with a floor receives the kept pulses of the clusters on which its threads hold records (R387). -/
def creditFloor (s : State) (dt : Nat) (l : Launch) : Launch :=
  if fld l.l[12] 23 16 = 0 || countStops s.bivState then l
  else { l with got := l.got + ((((s.holders.filter (fun n => thLaunch (s.getT n) == l.num)).map thClu).eraseDups).map (pulses s dt)).sum }

/-- The clock moves on; threads that hold a record are charged, and floors are credited. -/
def tick (s : State) (dt : Nat) : State :=
  let s1 := s.modSch (fun c => { c with launches := c.launches.map (creditFloor s dt) })
  { s1.holders.foldl (fun x n => chargeOne x dt n) s1 with clock := s.clock + dt }

end Sys2Proof.Machine
end

