-- ==== Sys2Proof/Machine/Engine.lean ====
section
/-! DEFINITION. The engine instructions at issue: copies, matrix jobs, remote matrix commands, messages
(R305-R310, R313-R325). -/
namespace Sys2Proof.Machine
open Sys2Proof

/-! Copies (R306-R310). -/

def copyScope (fl : Option CopyFlags) (dflt : Scope) : Scope := match fl with | some f => f.scope | none => dflt
def copySs (s : State) (fl : Option CopyFlags) : Bool := match fl with | some f => f.ss && thGang s.thr | none => false

/-- The destination of `copy` and `copy2` (R306). -/
def copyTo (s : State) (fl : Option CopyFlags) (a : Word) (n : Nat) : Chk CopyDst :=
  match fl with
  | some f => if f.dk then wbDst s a n f.dcl.toNat else (copyDst s a n).map .addr
  | none => (copyDst s a n).map .addr

/-- `copy` (R307). -/
def copyIssue (s : State) (h : BitVec 4) (dst src : Word) (n : Nat) (fl : Option CopyFlags) : Chk State := do
  require (decide (n < 2 ^ 40)) 0x12 n
  let s1 ← useHandle s h
  let a ← copySrc s1 src n
  let d ← copyTo s1 fl dst n
  if n = 0 then return doneNow s1 h (copyScope fl .clu)
  else return startCopy s1 h (copyScope fl .clu) (rowPieces s1 (thClu s.cur) s.part 0 (rowFuel n) 0 a d n) n (copySs s fl)

/-- The rows of `copy2`, from row i on: their pieces in row-major order (R308). -/
def copyRows (s : State) (fl : Option CopyFlags) (len : Nat) (src dst : Word) (sstep dstep : Nat) : Nat → Nat → Chk (List Piece)
  | 0, _ => .ok []
  | r + 1, i => do
    let a ← copySrc s (src + BitVec.ofNat 64 (i * sstep)) len
    let d ← copyTo s fl (dst + BitVec.ofNat 64 (i * dstep)) len
    let l ← copyRows s fl len src dst sstep dstep r (i + 1)
    return rowPieces s (thClu s.cur) s.part i (rowFuel len) (i * len) a d len ++ l

/-- Scalar n steps after k. -/
def kth (k : BitVec 5) (n : Nat) : BitVec 5 := k + BitVec.ofNat 5 n

/-- `copy2` (R308). -/
def copy2Issue (s : State) (h : BitVec 4) (dst src : Word) (k : BitVec 5) (fl : Option CopyFlags) : Chk State := do
  let len := (s.getS k).toNat
  let rows := (s.getS (kth k 1)).toNat
  let st := s.getS (kth k 2)
  require (decide (1 ≤ len) && decide (len ≤ 2 ^ 24)) 0x12 len
  require (decide (1 ≤ rows) && decide (rows ≤ 65536)) 0x12 rows
  let s1 ← useHandle s h
  let ps ← copyRows s1 fl len src dst (fld st 31 0) (fld st 63 32) rows 0
  return startCopy s1 h (copyScope fl .clu) ps (rows * len) (copySs s fl)

/-- The clusters of a mask on the thread's die. -/
def maskClus (s : State) (m : Nat) : List Nat := ((List.range 16).filter (fun i => m.testBit i)).map (fun i => thDie s.cur * 16 + i)

/-- `copym` (R309): one piece for each range, into the buffers of every cluster of the mask. What 0x21 reports is the offset
(log 57). -/
def copymIssue (s : State) (h : BitVec 4) (off src : Word) (c : Word) (fl : Option CopyFlags) : Chk State := do
  let n := fld c 47 0
  let cs := maskClus s (fld c 63 48)
  let wb := match fl with | some f => f.dk | none => false
  require (decide (n ≤ 0x200000)) 0x12 n
  let s1 ← useHandle s h
  let a ← copySrc s1 src n
  require (decide (off.toNat + n ≤ 0x200000)) 0x60 off.toNat
  match cs.find? (fun x => !s1.owns s1.part x) with
  | some _ => raise 0x21 off.toNat
  | none =>
    match cs.find? (fun x => s1.ropeLost (cluRope x)) with
    | some x => raise 0x74 (cluRope x)
    | none =>
      require (!(thSpec s.thr && (wb || cs.any (fun x => x != thClu s.cur)))) 0x26 off.toNat
      if n = 0 ∨ cs = [] then return doneNow s1 h (copyScope fl .die)
      else
        let ps := rowPieces s1 (thClu s.cur) s.part 0 (rowFuel n) 0 a (.buf wb cs off.toNat) n
        return startCopy s1 h (copyScope fl .die) ps n (copySs s fl)

/-- Copy n bytes (R307). -/
def execCopy (h : BitVec 4) (d s1 n : BitVec 5) (fl : Option CopyFlags) (s : State) : Host.Outcome State Fault Refusal :=
  finish s (copyIssue s h (s.getS d) (s.getS s1) (s.getS n).toNat fl)

/-- Copy a tile of rows (R308). -/
def execCopy2 (h : BitVec 4) (d s1 k : BitVec 5) (fl : Option CopyFlags) (s : State) : Host.Outcome State Fault Refusal :=
  finish s (copy2Issue s h (s.getS d) (s.getS s1) k fl)

/-- Copy into the buffers of several clusters (R309). -/
def execCopym (h : BitVec 4) (d s1 n : BitVec 5) (fl : Option CopyFlags) (s : State) : Host.Outcome State Fault Refusal :=
  finish s (copymIssue s h (s.getS d) (s.getS s1) (s.getS n) fl)

/-! The matrix engine (R313-R321). -/

/-- `mxld` (R315). -/
def execMxld (h : BitVec 4) (a : BitVec 5) (off : Option (BitVec 32)) (s : State) : Host.Outcome State Fault Refusal :=
  finish s (do
    let s1 ← useHandle s h
    let o := (s.getS a + offLR off).toNat
    ldChk o
    queueJob s1 h (.ld o))

/-- `mxmm` (R316). -/
def execMxmm (h : BitVec 4) (a b code : BitVec 5) (off : Option (BitVec 32)) (s : State) : Host.Outcome State Fault Refusal :=
  finish s (do
    let s1 ← useHandle s h
    let o := (s.getS a + offLR off).toNat
    aTile o 0x8000
    tileNo (s.getS b).toNat
    queueJob s1 h (.mm o (s.getS b).toNat code.toNat))

/-- `mxsp` (R317). -/
def execMxsp (h : BitVec 4) (a b c : BitVec 5) (off : Option (BitVec 32)) (s : State) : Host.Outcome State Fault Refusal :=
  finish s (do
    let s1 ← useHandle s h
    let o := (s.getS a + offLR off).toNat
    let v := (s.getS c).toNat
    aTile o 0x10000
    tileNo (s.getS b).toNat
    spChk v
    queueJob s1 h (.sp o (s.getS b).toNat (v / 2 ^ 16) (v % 2 ^ 16)))

/-- `mxgrp` (R318). -/
def execMxgrp (h : BitVec 4) (a b k : BitVec 5) (off : Option (BitVec 32)) (s : State) : Host.Outcome State Fault Refusal :=
  finish s (do
    let s1 ← useHandle s h
    let o := (s.getS a + offLR off).toNat
    let tab := (s.getS k).toNat
    let wb := (s.getS (kth k 1)).toNat
    let ctl := (s.getS (kth k 2)).toNat
    aTile o 0x8000
    tileNo (s.getS b).toNat
    grpChk tab wb ctl
    queueJob s1 h (.grp o (s.getS b).toNat (ctl / 64) tab wb (ctl % 64 + 1)))

/-- `mxrot` (R319). -/
def execMxrot (h : BitVec 4) (_lone : Bool) (s : State) : Host.Outcome State Fault Refusal :=
  finish s (do
    let s1 ← useHandle s h
    queueJob s1 h .rot)

/-- Where `mxrd` may write: the cluster's activation buffer, or a local store of one of its cores (R320). -/
def rdTarget (s : State) : Tgt → Bool
  | .ls core _ w _ => w == 0 && core / 8 == thClu s.cur
  | .ab clu _ => clu == thClu s.cur
  | .glob _ _ => false

/-- Where an attempt's `mxrd` may write. R54's table gives an attempt its cluster's activation buffer by the matrix engine's own results,
R320 its own local-store region alone: the model follows R320 (log 81). -/
def rdOwn : Tgt → Bool
  | .ls _ _ _ own => own
  | _ => false

/-- `mxrd` at issue (R320): the window is captured and the draws are taken. -/
def rdIssue (s : State) (h : BitVec 4) (a : Word) (t c : Nat) : Chk State := do
  let s1 ← useHandle s h
  tileNo t
  rdChk c
  winCheck s1 (rdWin c)
  let ctl := s1.win (rdWin c)
  let fw : Option Window := match windowOf ctl with | some (some (w, _)) => some w | _ => none
  let n := (rdCnt c + 1) * 128
  let len := n * (match fw with | some w => w.fmt.bytes | none => 4)
  require (a.toNat / 2 ^ 56 == 0xFF) 0x60 a.toNat
  let g ← nearTgt s1 a.toNat len
  require (rdTarget s1 g) 0x60 a.toNat
  require (!thSpec s1.thr || rdOwn g) 0x26 a.toNat
  stackGuard s1 g len
  let (ds, s2) := match fw with
    | some w => if w.rnd = .rs then s1.draws n else (0, s1)
    | none => (0, s1)
  queueJob s2 h (.rd (tgtKey s2 g) t (rdRow c) (rdCnt c) ctl fw.isNone [ds])

/-- `mxrd` (R320). -/
def execMxrd (h : BitVec 4) (a b c : BitVec 5) (_lone : Bool) (s : State) : Host.Outcome State Fault Refusal :=
  finish s (rdIssue s h (s.getS a) (s.getS b).toNat (s.getS c).toNat)

/-- `mxclr` (R321). -/
def execMxclr (h : BitVec 4) (b : BitVec 5) (_lone : Bool) (s : State) : Host.Outcome State Fault Refusal :=
  finish s (do
    let s1 ← useHandle s h
    tileNo (s.getS b).toNat
    queueJob s1 h (.clr (s.getS b).toNat))

/-- `mxmeta` (R321). -/
def execMxmeta (h : BitVec 4) (a b c : BitVec 5) (_lone : Bool) (s : State) : Host.Outcome State Fault Refusal :=
  finish s (do
    let s1 ← useHandle s h
    metaChk (s.getS a).toNat (s.getS b).toNat (s.getS c).toNat
    queueJob s1 h (.metaCopy (s.getS a).toNat (s.getS b).toNat (s.getS c).toNat))

/-! Remote matrix commands (R322, R323). -/

/-- The bundle at an address, as the issue stage reads it, or 0 where it cannot be read: the detail of a
decode-class condition that an instruction itself raises (R429). -/
def bundleAt (s : State) (pc : Word) : Nat :=
  match fetchBits s pc with
  | .ok (v, _) => v
  | .error _ => 0

/-- The job of a 32-byte command block, operands unchecked (R322); none for a reserved byte or code. -/
def blockJob (v : Nat) : Option MxOp :=
  let op := getBytes v 0 1
  let code := getBytes v 1 1
  let e1 := getBytes v 8 8
  let e2 := getBytes v 16 8
  let e3 := getBytes v 24 8
  if getBytes v 2 6 ≠ 0 ∨ (op ≠ 5 ∧ code ≠ 0) then none
  else match op with
    | 4 => some (.ld e1)
    | 5 => if fmtOk code then some (.mm e1 e2 code) else none
    | 6 => some (.sp e1 e2 (e3 / 2 ^ 16) (e3 % 2 ^ 16))
    | 7 => some (.grp e1 e2 (e3 / 2 ^ 48 % 32 + (e3 / 2 ^ 53) * 32) (e3 % 2 ^ 21) (e3 / 2 ^ 21 % 2 ^ 21) (e3 / 2 ^ 42 % 64 + 1))
    | 8 => some .rot
    | 9 => some (.rd e1 e2 (rdRow e3) (rdCnt e3) (BitVec.ofNat 64 e3) true [])
    | 10 => some (.clr e2)
    | 11 => some (.metaCopy e1 e2 e3)
    | _ => none

/-- `mxcmd` at issue. -/
def cmdIssue (s : State) (h : BitVec 4) (a b : Word) (cap : BitVec 32) : Chk State := do
  let s1 ← useHandle s h
  require (decide (a.toNat < 128)) 0x60 a.toNat
  require (b.toNat % 8 == 0 && decide (b.toNat + 32 ≤ s.limit)) 0x60 b.toNat
  let die := fld a 6 4
  let clu := die * 16 + fld a 3 0
  require (!s.dieLost die) 0x72 die
  require (!s.ropeLost (cluRope clu)) 0x74 (cluRope clu)
  let s2 := drainAll s1 (thCore s.cur)
  require (!s2.mem.poisoned (ownKey s b.toNat) 32) 0x71 (s2.mem.eccAt (ownKey s b.toNat) 32)
  match blockJob (s2.mem.get (ownKey s b.toNat) 32) with
  | none => raise 0x04 (bundleAt s s.thr.pc)
  | some j =>
    require (!thSpec s.thr) 0x26 b.toNat
    let (id, s3) := addOp (touchDie s2 die) (thClu s.cur) (if die = thDie s.cur then .die else .mod) (.mxcmd clu cap j false)
    return (s3.setH h (.pending id)).after Config.seamTime (.mxcmdAccept id)

/-- `mxcmd` (R322). -/
def execMxcmd (h : BitVec 4) (a b : BitVec 5) (cap : BitVec 32) (s : State) : Host.Outcome State Fault Refusal :=
  finish s (cmdIssue s h (s.getS a) (s.getS b) cap)

/-! Messages (R324, R325). -/

/-- `msg` at issue: the range of its own local store is checked in the order of R284. A length that is not a multiple of 8 from 8
to 256 raises 0x12 (log 58). -/
def msgIssue (s : State) (h : BitVec 4) (a b c : Word) (tag : Nat) : Chk State := do
  let s1 ← useHandle s h
  let n := c.toNat
  let dev := fld a 19 12
  let th := fld a 11 0
  require (n % 8 == 0 && decide (8 ≤ n) && decide (n ≤ 256)) 0x12 n
  require (decide (b.toNat + n ≤ s.limit)) 0x21 b.toNat
  require (b.toNat % 8 == 0) 0x22 b.toNat
  require (!thSpec s.thr) 0x26 b.toNat
  if dev ≠ s.device then require (s.portOf dev).isSome 0x73 dev
  if dev = s.device then require (!s.dieLost (thDie th)) 0x72 (thDie th)
  if dev = s.device then require (!s.ropeLost (cluRope (thClu th))) 0x74 (cluRope (thClu th))
  let s2 ← releaseChk s1 (if dev = s.device then .mod else .fab)
  require (!s2.mem.poisoned (ownKey s b.toNat) n) 0x71 (s2.mem.eccAt (ownKey s b.toNat) n)
  let hd := BitVec.ofNat 64 (tag * 2 ^ 32 + s.device % 256 * 2 ^ 24 + s.cur * 2 ^ 12 + n)
  let m : Msg := { header := hd, len := n, payload := s2.mem.get (ownKey s b.toNat) n }
  let (id, s3) := addOp (if dev = s.device then touchDie s2 (thDie th) else s2) (thClu s.cur) .mod (.msg (fld a 19 0) m (thLaunch s.thr))
  return (s3.setH h (.pending id)).after (if dev = s.device then Config.seamTime else Config.fabricTime) (.msgDeliver ⟨id, .ok⟩)

/-- `msg` (R324). -/
def execMsg (h : BitVec 4) (a b c : BitVec 5) (tag : Option (BitVec 32)) (s : State) : Host.Outcome State Fault Refusal :=
  finish s (msgIssue s h (s.getS a) (s.getS b) (s.getS c) (match tag with | some t => t.toNat | none => 0))

/-- `recv` (R325): blocks while the queue is empty; the payload's words are set full. -/
def recvTake (s : State) (d : BitVec 5) (a : Word) : Chk State := do
  require (decide (a.toNat + 256 ≤ s.limit)) 0x21 a.toNat
  require (a.toNat % 8 == 0) 0x22 a.toNat
  match s.thr.inbox with
  | [] => .error (.wait .recv)
  | m :: r =>
    let k := ownKey s a.toNat
    stackGuard s (.ls (thCore s.cur) (s.base + a.toNat) 0 true) m.len
    let s1 := putFull (drainAll s (thCore s.cur)) k m.len m.payload
    let s2 := acquire { s1 with thr := { s1.thr with inbox := r } } s.cur .mod
    return retryMsgs (s2.setS d m.header) s.cur

/-- `recv` (R325). -/
def execRecv (d a : BitVec 5) (s : State) : Host.Outcome State Fault Refusal := finish s (recvTake s d (s.getS a))

end Sys2Proof.Machine
end

