-- ==== Sys2Proof/Machine/EngineEvents.lean ====
section
/-! DEFINITION. The steps of the copy engines and of the matrix engines after issue (R307, R313-R324, R448,
R458, R459), message delivery. -/
namespace Sys2Proof.Machine
open Sys2Proof

/-! Copies. -/

/-- Which side of a piece failed. -/
inductive Side where
  | src
  | dst
  deriving DecidableEq, Repr

/-- The places of one destination of a piece: route, key, length. -/
abbrev Places := List (Route × Nat × Nat)

/-- What reading a piece and checking its destinations gives: the state, the destinations, the value that each receives, with
the condition of a destination that failed alone; a wait; or a failure with its side. -/
inductive PieceRes where
  | ready (s : State) (dests : List Places) (v : Nat) (c : Option Cond)
  | wait
  | failed (side : Side) (c : Cond)

def sideOf (side : Side) : Stop → PieceRes
  | .cond c _ => .failed side c
  | .wait _ => .wait

/-- The key of an offset in the buffer of a cluster. -/
def bufKey (wb : Bool) (clu off : Nat) : Nat := if wb then wbKey clu off else abKey clu off

/-- The buffers that a piece writes; a lost rope's cluster fails alone (R309, R472). -/
def bufPlaces (s : State) (wb : Bool) (cs : List Nat) (off n : Nat) : List Places :=
  (cs.filter (fun k => !s.ropeLost (cluRope k))).map (fun k => [(.near, bufKey wb k off, n)])

def bufLost (s : State) (cs : List Nat) : Option Cond := (cs.find? (fun k => s.ropeLost (cluRope k))).map (fun k => mkCond 0x74 (cluRope k))

/-- Read one piece (R307): every place is checked before a byte is written. -/
def readPiece (s : State) (o : Op) (p : Piece) : PieceRes :=
  match engPlaces o.clu o.part .load (splitRange p.src.toNat p.len) s with
  | .error e => sideOf .src e
  | .ok (s1, ls) =>
    match engRead (o.clu / 16) ls s1 with
    | .error e => sideOf .src e
    | .ok (v, s2) =>
      let s3 := touchRecord s2 o.rcd (ls.map (fun x => x.2.1))
      match p.dst with
      | .buf wb cs off => .ready s3 (bufPlaces s3 wb cs off p.len) v (bufLost s3 cs)
      | .addr a =>
        match engPlaces o.clu o.part .store (splitRange a.toNat p.len) s3 with
        | .error e => sideOf .dst e
        | .ok (s4, ld) => .ready (touchRecord s4 o.rcd (ld.map (fun x => x.2.1))) [ld] v none

def dstAddr : CopyDst → Word
  | .addr a => a
  | .buf _ _ off => BitVec.ofNat 64 off

/-- The condition that a failed piece leaves: `s3` is its first byte on the failing side (R448); a lost die, a link and a lost rope are
named by their number (R472, R477, R481). -/
def pieceCond (p : Piece) (side : Side) (c : Cond) : Cond :=
  if 0x72 ≤ c.code.toNat ∧ c.code.toNat ≤ 0x74 then c
  else { c with detail := match side with | .src => p.src | .dst => dstAddr p.dst }

/-- A piece has neither performed nor failed. -/
def Piece.open (p : Piece) : Bool := match p.st with | .waiting | .away _ => true | _ => false

/-- The next piece that is neither performed nor failed. -/
def nextPiece (ps : List Piece) : Option Nat := ps.findIdx? Piece.open

/-- The words of near destinations that a piece writes. -/
def nearSpans (clu : Nat) (p : Piece) : List (Nat × Nat) :=
  match p.dst with
  | .buf wb cs off => cs.map (fun k => (bufKey wb k off, p.len))
  | .addr a => if a.toNat / 2 ^ 56 = 0xFF then [((nearKey (clu / 16) a.toNat).2, p.len)] else []

/-- Pieces that perform together, as they are read: the state; the pieces with what became of them; the parts to write; the
spans written, and those left unwritten. -/
structure Batch where
  s : State
  ps : List Piece
  bits : List Bit
  full : List (Nat × Nat)
  left : List (Nat × Nat)

def placeSpans (d : Places) : List (Nat × Nat) := d.map (fun x => (x.2.1, x.2.2))

/-- Read the pieces that perform together, in order; none where one must wait. `cut`: they are of several rows. -/
def readBatch (o : Op) (cut : Bool) : List Piece → Batch → Option Batch
  | [], b => some b
  | p :: r, b =>
    match readPiece b.s o p with
    | .wait => none
    | .failed side c =>
      readBatch o cut r { b with ps := b.ps ++ [{ p with st := .failed (pieceCond p side c) }], left := b.left ++ nearSpans o.clu p }
    | .ready s1 ds v c =>
      let st : PieceSt := match c with | none => .done | some x => .failed (pieceCond p .dst x)
      readBatch o cut r { b with
        s := s1, ps := b.ps ++ [{ p with st := st }], bits := b.bits ++ (ds.map (fun d => placeBits cut p.row d v)).flatten
        full := b.full ++ (ds.map placeSpans).flatten }

/-- The index at which the pieces that perform together with piece k begin, and how many stand behind it. -/
def batchStart (ps : List Piece) : Nat → Nat
  | 0 => 0
  | k + 1 => if (ps[k + 1]?).any (fun p => p.joined) then batchStart ps k else k + 1

def batchTail (ps : List Piece) (k : Nat) : List Piece := (ps.drop (k + 1)).takeWhile (fun p => p.joined)

/-! Pieces whose source or destination is homed elsewhere: their flits leave, and the home answers (R448, R481). -/

/-- The device whose home an access of an engine waits for: another module, or the host, under the module's own number. -/
def farRoute (s : State) : Route → Option Nat
  | .remote dev => some dev
  | .direct => some s.device
  | _ => none

def farDevs (s : State) (ls : Places) : List Nat := (ls.filterMap (fun x => farRoute s x.1)).eraseDups

/-- The homes of a piece's source, and of its destination where that is an address; none where the source's cannot be told. -/
def pieceSides (s : State) (o : Op) (p : Piece) : List Nat × List Nat :=
  match engPlaces o.clu o.part .load (splitRange p.src.toNat p.len) s with
  | .error _ => ([], [])
  | .ok (x, l) => (farDevs x l, match p.dst with
    | .addr a => (match engPlaces o.clu o.part .store (splitRange a.toNat p.len) s with
      | .ok (y, d) => farDevs y d
      | .error _ => [])
    | .buf _ _ _ => [])

/-- The home whose answer a piece awaits after that of `was`: its source's first, then its destination's. -/
def nextHome (s : State) (o : Op) (p : Piece) (was : Option Nat) : Option Nat :=
  let (a, b) := pieceSides s o p
  match was with
  | none => (a ++ b).head?
  | some d => if a.contains d then b.find? (fun x => !a.contains x) else none

/-- The flits of a piece leave for a home: a request for its bytes, or the bytes. -/
def sendPiece (s : State) (o : Op) (p : Piece) (dev : Nat) : State :=
  s.owe dev (if (pieceSides s o p).1.contains dev then 1 else flitsOf p.len)

/-- A piece goes on towards its homes; none where it awaits no home any more. -/
def pieceAway (s : State) (o : Op) (p : Piece) : Option (Piece × State) :=
  match nextHome s o p (match p.st with | .away d => some d | _ => none) with
  | some d => some ({ p with st := .away d }, sendPiece s o p d)
  | none => none

/-- Pieces of a batch that await a home yet; the flag says whether there are any. -/
def batchAway (o : Op) : List Piece → State → List Piece × State × Bool
  | [], s => ([], s, false)
  | p :: r, s =>
    match (if p.open then pieceAway s o p else none) with
    | some (q, s1) => let (l, s2, _) := batchAway o r s1; (q :: l, s2, true)
    | none => let (l, s2, w) := batchAway o r s; (p :: l, s2, w)

/-- An answer of a home can be heard now; it does not come while the port is dark, or captures (R411). -/
def pieceHears (s : State) (p : Piece) : Option Bool :=
  match p.st with
  | .away d => if d = s.device then some true else (s.portOf d).map (fun q => !(s.reg2 (0x1000 + q.1 * 8)).getLsbD 3 && decide ((s.port q.1).owing = 0))
  | _ => some true

/-- A copy's pieces change, and the copy goes on with the next that is open, or ends. -/
def setPieces (s : State) (op : Nat) (ps : List Piece) (value : Nat) (ss : Bool) (what : CopyFor) : State :=
  let s1 := s.modOp op (fun y => { y with k := .copy ps value ss what })
  match nextPiece ps with
  | some n => s1.after Config.pieceTime (.copyPiece op ⟨n, .ok⟩)
  | none => s1.after 0 (.copyDone op)

def Piece.isAway (p : Piece) : Bool := match p.st with | .away _ => true | _ => false

/-- The condition that a home's answer reports. -/
def refusal : HomeAnswer → Option Cond
  | .ok => none
  | .failed c d => some { code := c, detail := d, flags := 0 }
  | .applied d => some { code := 0x71, detail := d, flags := 0 }

/-- A piece fails at the home whose answer it awaits (R448, R481). -/
def refusePiece (s : State) (o : Op) (c : Cond) (p : Piece) : Piece :=
  match p.st with
  | .away d => { p with st := .failed (pieceCond p (if (pieceSides s o p).1.contains d then .src else .dst) c) }
  | _ => p

/-- The pieces of a batch with those of `done` in the places of the open ones. -/
def fillOpen : List Piece → List Piece → List Piece
  | [], _ => []
  | p :: r, done =>
    if p.open then (match done with | q :: d => q :: fillOpen r d | [] => p :: fillOpen r [])
    else p :: fillOpen r done

/-- Pieces perform together at their homes. -/
def doPieces (s : State) (o : Op) (ps : List Piece) (k : Nat) (g : List Piece) (value : Nat) (ss : Bool) (what : CopyFor) : State :=
  match readBatch o (g.any (fun q => q.row != (g.headD q).row)) (g.filter Piece.open) { s := s, ps := [], bits := [], full := [], left := [] } with
  | none => s.after Config.fabricTime (.copyPiece o.id ⟨k, .ok⟩)
  | some b =>
    let s1 := fullSpans b.full b.left (writeRows (o.clu / 16) b.bits b.s)
    setPieces s1 o.id (ps.take k ++ fillOpen g b.ps ++ ps.drop (k + g.length)) value ss what

/-- Pieces are translated, read and written, or fail alone: a piece, and with it those whose 16-byte sectors it shares (R148,
R152, R307, R448). A word becomes full once all of the operation's bytes in it are written (R120). A piece with a place at another
module or at the host awaits the answer of that home. -/
def execCopyPiece (op : Nat) (a : PieceAnswer) (s : State) : Host.Outcome State Fault Refusal :=
  match s.findOp op with
  | some o =>
    match o.k with
    | .copy ps value ss what =>
      match refusal a.ans with
      | some c =>
        if (ps[a.piece]?).any Piece.isAway then .next (setPieces s op (ps.modify a.piece (refusePiece s o c)) value ss what) else .next s
      | none =>
        let k := batchStart ps a.piece
        match ps[k]? with
        | none => .next s
        | some p =>
          let g := p :: batchTail ps k
          if !g.any Piece.open then .next s
          else if g.any (fun q => pieceHears s q == none) then .next s
          else if g.any (fun q => pieceHears s q == some false) then .next (s.after Config.fabricTime (.copyPiece op a))
          else
            let (l, s1, far) := batchAway o g s
            if far then
              .next ((s1.modOp op (fun y => { y with k := .copy (ps.take k ++ l ++ ps.drop (k + g.length)) value ss what })).after Config.fabricTime (.copyPiece op ⟨k, .ok⟩))
            else .next (doPieces s o ps k g value ss what)
    | _ => .next s
  | none => .next s

/-- The condition of the first failing piece, by offset (R448). -/
def firstFailed (ps : List Piece) : Option Cond := ps.findSome? (fun p => match p.st with | .failed c => some c | _ => none)

/-- A region held by an operation of a cancelled attempt may now be granted (R56); a `bar` may now complete. -/
def afterOp (s : State) (o : Op) : State :=
  (s.after Config.grantTime (.pickup o.th)).after Config.grantTime (.grantRecord (thDie o.th))

/-! The matrix engine. -/

/-- The ring of a die (R319). -/
def ringOrder : List Nat := [0, 1, 2, 3, 7, 6, 5, 4, 8, 9, 10, 11, 15, 14, 13, 12]

/-- The cluster after `clu` in its die's ring of the partition's clusters. -/
def ringNext (s : State) (part clu : Nat) : Nat :=
  let own := ringOrder.filter (fun c => c == clu % 16 || (s.owns part (clu / 16 * 16 + c) && !s.ropeLost (cluRope (clu / 16 * 16 + c))))
  match own.findIdx? (fun c => c == clu % 16) with
  | some i => clu / 16 * 16 + own.getD ((i + 1) % own.length) (clu % 16)
  | none => clu

/-- Element formats of A and B (R314). -/
def fmtA (code : Nat) : FTy :=
  match code with
  | 0 => .bf16 | 1 => .f16 | 2 => .e4m3 | 3 => .e4m3 | 7 => .e4m3 | _ => .e5m2
def fmtB (code : Nat) : FTy :=
  match code with
  | 0 => .bf16 | 1 => .f16 | 2 => .e4m3 | 4 => .e4m3 | 3 => .e5m2 | 5 => .e5m2 | _ => .pw8
/-- Bits of an element, and the B row pitch in bytes. -/
def elBits (code : Nat) : Nat := if code ≤ 1 then 16 else 8
def pitchB (code : Nat) : Nat := if code ≤ 1 then 256 else 128

/-- Row i of an A tile: k elements, as bits (R314). -/
def rowA (raw pitch code k i : Nat) : List Nat :=
  let r := getBytes raw (i * pitch) pitch
  (List.range k).map (fun j => elN (elBits code) r j)

/-- Column j of the kept rows of a B tile, as bits. -/
def colB (raw code j : Nat) : List Nat :=
  (List.range (0x8000 / pitchB code)).map (fun k => elN (elBits code) (getBytes raw (k * pitchB code) (pitchB code)) j)

/-- The nibble of a column's group (R317). -/
def nibble (meta' n g j : Nat) : Nat := let i := j * n + g; getBytes meta' (i / 2) 1 / 16 ^ (i % 2) % 16

/-- A sparse column: the kept rows at their positions, zeros elsewhere (R175, R317). Zero bits are an exact
zero in every format. -/
def sparseCol (col : List Nat) (meta' n j : Nat) : List Nat :=
  ((List.range n).map (fun g =>
    let b := nibble meta' n g j
    (List.range 4).map (fun p => if p = b % 4 then col.getD (2 * g) 0 else if p = b / 4 then col.getD (2 * g + 1) 0 else 0))).flatten

/-- One accumulator after its groups of 32 (R173). -/
def macF : Nat → Nat → List XVal → List XVal → Nat
  | 0, acc, _, _ => acc
  | n + 1, acc, a, b => macF n (groupF acc ((a.take 32).zipWith xmul (b.take 32))) (a.drop 32) (b.drop 32)

/-- As `macF`, for INT8 (R174). -/
def macI : Nat → Nat → List Int → List Int → Nat
  | 0, acc, _, _ => acc
  | n + 1, acc, a, b => macI n (groupI acc ((a.take 32).zipWith (· * ·) (b.take 32))) (a.drop 32) (b.drop 32)

/-- One accumulator, from a row of A and a column of B. -/
def mac (code acc : Nat) (a b : List Nat) : Nat :=
  if code = 6 then macI (a.length / 32) acc (a.map (sval 8)) (b.map (sval 8))
  else macF (a.length / 32) acc (a.map (widen (fmtA code))) (b.map (widen (fmtB code)))

/-- Accumulate rows [r0, r0 + n) of a tile (R316). -/
def macRows (s : State) (clu tile code r0 n : Nat) (rows cols : Array (List Nat)) : State :=
  let k := acbKey clu (tile * 0x10000 + r0 * 512)
  let old := s.mem.get k (n * 512)
  let v := packN 32 (fun x => mac code (elN 32 old x) (rows.getD (r0 + x / 128) []) (cols.getD (x % 128) [])) (n * 128)
  s.modM (·.put k (n * 512) v)

/-- The first reserved PW8 byte of a B tile, with its element index (R438, R458). -/
def pw8Bad (code raw : Nat) : Option Cond :=
  if code < 7 then none
  else (List.range 0x8000).findSome? (fun i => let x := getBytes raw i 1; if pw8Reserved x then some (mkCond 0x07 (x + i * 256)) else none)

/-- A read by the engine. -/
def mxGet (s : State) (k n : Nat) : Chk Nat := if s.mem.poisoned k n then raise 0x71 (s.mem.eccAt k n) else .ok (s.mem.get k n)

/-- One dense or sparse product (R316, R317). -/
def product (s : State) (clu idx aoff tile code : Nat) (mdm : Option Nat) : Chk State := do
  require (s.clu clu).full 0x61 idx
  let raw ← mxGet s (latchKey clu 0) 0x8000
  let k := fmtK code
  let depth := match mdm with | some _ => 2 * k | none => k
  let pitch := match mdm with | some _ => 512 | none => 256
  let meta' ← (match mdm with | some o => mxGet s (mdmKey clu o) (32 * k) | none => pure 0)
  let n := 2 * k / 4
  require (!(mdm.isSome && (List.range (128 * n)).any (fun i => let b := getBytes meta' (i / 2) 1 / 16 ^ (i % 2) % 16; decide (b / 4 ≤ b % 4)))) 0x62 (mdm.getD 0)
  match pw8Bad code raw with
  | some c => .error (.cond c none)
  | none =>
    let a ← mxGet s (abKey clu aoff) (128 * pitch)
    let rows := ((List.range 128).map (rowA a pitch code depth)).toArray
    let cols := ((List.range 128).map (fun j => if mdm.isSome then sparseCol (colB raw code j) meta' n j else colB raw code j)).toArray
    return macRows s clu tile code 0 128 rows cols

/-- The groups of `mxgrp` from row `first` on (R318). -/
def groupRows (clu tile code wb : Nat) (rows : Array (List Nat)) : List Nat → Nat → Nat → State → Chk State
  | [], _, _, s => .ok s
  | c :: r, g, first, s =>
    if c = 0 then groupRows clu tile code wb rows r (g + 1) first s
    else do
      let raw ← mxGet s (wbKey clu (wb + g * 0x8000)) 0x8000
      let cols := ((List.range 128).map (colB raw code)).toArray
      groupRows clu tile code wb rows r (g + 1) (first + c) (macRows s clu tile code first c rows cols)

/-- `mxgrp`'s job: the counts and the tiles are checked before an accumulator changes. -/
def grouped (s : State) (clu aoff tile code tab wb groups : Nat) : Chk State := do
  let t ← mxGet s (abKey clu tab) (2 * groups)
  let cs := (List.range groups).map (fun g => getBytes t (2 * g) 2)
  require (decide (cs.sum ≤ 128)) 0x63 cs.sum
  match (List.range groups).findSome? (fun g => if cs.getD g 0 = 0 then none else pw8Bad code (s.mem.get (wbKey clu (wb + g * 0x8000)) 0x8000)) with
  | some c => .error (.cond c none)
  | none =>
    let a ← mxGet s (abKey clu aoff) 0x8000
    groupRows clu tile code wb ((List.range 128).map (rowA a 256 code (fmtK code))).toArray cs 0 0 s

/-- The converted bytes of `mxrd`, element by element; 0x13 for a NaN into INT8 or PW8 (R320). -/
def rdElems (w : Window) (ds raw : Nat) : Nat → Nat → Chk Nat
  | 0, _ => .ok 0
  | n + 1, i => do
    let y ← laneStore w (draw ds i) (elN 32 raw i) i
    let r ← rdElems w ds raw n (i + 1)
    return y + 256 ^ w.fmt.bytes * r

/-- `mxrd`'s job. -/
def readOut (s : State) (clu dst tile row cnt : Nat) (ctl : Word) (raw : Bool) (ds : Nat) : Chk State := do
  let n := (cnt + 1) * 128
  let acc ← mxGet s (acbKey clu (tile * 0x10000 + row * 512)) (n * 4)
  match (if raw then none else windowOf ctl) with
  | some (some (w, _)) =>
    let v ← rdElems w ds acc n 0
    return putFull s dst (n * w.fmt.bytes) v
  | _ => return putFull s dst (n * 4) acc

/-- A job's effect and its cycles (R315-R321). `mxrot` is carried out apart. -/
def runJob (s : State) (clu : Nat) (j : MxJob) : Chk (State × Nat) :=
  match j.what with
  | .ld off => do
    let v ← mxGet s (wbKey clu off) 0x8000
    return ((s.modM (·.put (latchKey clu 0) 0x8000 v)).setClu clu { s.clu clu with full := true }, 32)
  | .mm aoff tile fmt => do
    let x ← product s clu j.idx aoff tile fmt none
    return (x, if 7 ≤ fmt then 64 else 128)
  | .sp aoff tile fmt mdm => do
    let x ← product s clu j.idx aoff tile fmt (some mdm)
    return (x, if 7 ≤ fmt then 64 else 128)
  | .grp aoff tile fmt table wb groups => do
    let x ← grouped s clu aoff tile fmt table wb groups
    return (x, (if 7 ≤ fmt then 64 else 128) + 32 * groups)
  | .rd dst tile row cnt ctl raw ds => do
    let x ← readOut s clu dst tile row cnt ctl raw (ds.headD 0)
    return (x, cnt + 9)
  | .clr tile => .ok (s.modM (·.put (acbKey clu (tile * 0x10000)) 0x10000 0), 16)
  | .metaCopy src dst len => do
    let v ← mxGet s (abKey clu src) len
    return (s.modM (·.put (mdmKey clu dst) len v), max 1 (len / 64))
  | .rot => .ok (s, 32)

/-- The first of the remote commands that wait for an entry of a queue tries again. -/
def retryCmds (s : State) (clu : Nat) : State :=
  match (s.clu clu).waitingCmds with
  | [] => s
  | id :: _ => s.after 0 (.mxcmdAccept id)

/-- The head job ends: its handle is done with the job number, and the next job starts (R313, R458). For a
remote command a condition's detail is the job number (R459). -/
def endJob (s : State) (clu : Nat) (c : Option Cond) : State :=
  let q := s.clu clu
  match q.jobs with
  | [] => s
  | j :: r =>
    let s1 := s.setClu clu { q with jobs := r, running := false, due := 0, sent := false, rcvd := false }
    let c' := if j.remote then c.map (fun x => { x with detail := BitVec.ofNat 64 j.idx }) else c
    let s2 := match s1.findOp j.op with
      | some o => afterOp (completeHandle (s1.dropOp j.op) j.op o.rcd (.done (BitVec.ofNat 64 j.idx) c' (some o.scope) false)) o
      | none => s1
    let s3 := retryCmds s2 clu
    if r.isEmpty then s3.afterEff clu 0 (.fillerBurst clu) else s3.afterEff clu 1 (.mxeJobStart clu)

/-- A job that waits for a latch ends without one, and its handle stays pending (R460). -/
def quitJob (s : State) (clu : Nat) : State :=
  let q := s.clu clu
  match q.jobs with
  | [] => s
  | j :: r =>
    let s1 := s.setClu clu { q with jobs := r, running := false, due := 0, sent := false, rcvd := false }
    let s2 := match s1.findOp j.op with
      | some o => afterOp (s1.dropOp j.op) o
      | none => s1
    let s3 := retryCmds s2 clu
    if r.isEmpty then s3.afterEff clu 0 (.fillerBurst clu) else s3.afterEff clu 1 (.mxeJobStart clu)

/-- A cluster's `mxrot` waits: for the slot of its neighbour, or for a latch. -/
def rotWaits (s : State) (clu : Nat) : Option MxJob :=
  match (s.clu clu).jobs with
  | j :: _ => if j.what == .rot && (s.clu clu).running && !(s.clu clu).rcvd then some j else none
  | [] => none

/-- The waiting `mxrot` jobs of records end (R460). -/
def quitRots (rids : List Nat) (s : State) : State :=
  (s.clus.map (fun c => c.1)).foldl (fun x clu =>
    match rotWaits x clu with
    | some j => if (x.findOp j.op).any (fun o => rids.contains o.rcd) then quitJob x clu else x
    | none => x) s

/-- A latch moves: its 32,768 bytes, and what is poisoned of them (R319, R464). -/
def moveLatch (a b : Nat) (m : Mem) : Mem :=
  let bad := m.poison.filter (fun u => decide (a ≤ u.1) && decide (u.1 < a + 0x8000))
  bad.foldl (fun x u => x.spoil (u.1 - a + b) u.2) ((m.put b 0x8000 (m.get a 0x8000)).put a 0x8000 0)

/-- The latch goes to the next cluster of the ring when that cluster's incoming slot is free (R319, steps 1, 2). -/
def trySend (s : State) (clu : Nat) : State :=
  let q := s.clu clu
  match q.jobs with
  | j :: _ =>
    if j.what = .rot ∧ q.running = true ∧ q.sent = false then
      let n := ringNext s j.part clu
      if (s.clu n).incoming then s
      else
        let s1 := s.modM (fun m => moveLatch (latchKey clu 0) (latchInKey n 0) m)
        let s2 := s1.setClu n { s1.clu n with incoming := true, inFull := q.full }
        let s3 := s2.setClu clu { s2.clu clu with sent := true, full := false }
        let s4 := s3.after 1 (.latchArrive n)
        if (s4.clu clu).incoming ∧ n ≠ clu then s4.after 1 (.latchArrive clu) else s4
    else s
  | [] => s

/-- The MXE starts the next accepted job, checks its data, and carries it out (R313, R458). Its cycles are effective ones
(R15, R380). -/
def execMxeJobStart (clu : Nat) (s : State) : Host.Outcome State Fault Refusal :=
  let q := s.clu clu
  match q.jobs with
  | [] => .next s
  | j :: _ =>
    if q.running then .next s
    else if s.effOf clu < q.filler then .next (s.afterEff clu (q.filler - s.effOf clu) (.mxeJobStart clu))
    else if s.mem.poisoned (jobKey clu j.idx) 16 then .next (endJob s clu (some (mkCond 0x71 (s.mem.eccAt (jobKey clu j.idx) 16))))
    else if j.what = .rot then .next (trySend (s.setClu clu { q with running := true, sent := false, rcvd := false }) clu)
    else match runJob s clu j with
      | .ok (s1, n) => .next ((s1.setClu clu { s1.clu clu with running := true, due := s1.effOf clu + n }).afterEff clu n (.mxeJobDone clu))
      | .error (.cond c _) => .next (endJob s clu (some c))
      | .error (.wait _) => .next s

/-- A job's writes have performed and its handle becomes done (R313), in the effective cycle in which its cycles are over. -/
def execMxeJobDone (clu : Nat) (s : State) : Host.Outcome State Fault Refusal :=
  let q := s.clu clu
  if q.running = false ∨ ((q.jobs.head?).any (fun j => j.what == .rot) = true ∧ q.rcvd = false) then .next s
  else if q.due ≤ s.effOf clu then .next (endJob s clu none)
  else if s.agenda.any (fun e => e.2 == .mxeJobDone clu) then .next s
  else .next (s.afterEff clu (q.due - s.effOf clu) (.mxeJobDone clu))

/-- A latch arrives in the incoming slot of an MXE and completes a waiting `mxrot` (R319, step 3), which takes one latch. -/
def execLatchArrive (clu : Nat) (s : State) : Host.Outcome State Fault Refusal :=
  let q := s.clu clu
  match q.jobs with
  | j :: _ =>
    if j.what = .rot ∧ q.running = true ∧ q.sent = true ∧ q.rcvd = false ∧ q.incoming = true then
      let s1 := s.modM (fun m => moveLatch (latchInKey clu 0) (latchKey clu 0) m)
      let s2 := s1.setClu clu { q with incoming := false, inFull := false, full := q.inFull, rcvd := true, due := s.effOf clu + 32 }
      let s3 := ((List.range 16).map (fun c => clu / 16 * 16 + c)).foldl trySend s2
      .next (s3.afterEff clu 32 (.mxeJobDone clu))
    else .next s
  | [] => .next s

/-- Under FILL an idle MXE starts a filler burst of 128 cycles, visible only as timing; it starts and runs in cycles of the
cluster's effective clock (R382). -/
def execFillerBurst (clu : Nat) (s : State) : Host.Outcome State Fault Refusal :=
  let st := s.reg0 (ropeOff (cluRope clu) + 0x20)
  let q := s.clu clu
  if st.getLsbD 3 && fld st 1 0 == clu % 4 && q.jobs.isEmpty then
    (if s.effOf clu < q.filler then .next (s.afterEff clu (q.filler - s.effOf clu) (.fillerBurst clu))
     else if q.kept s.clock then .next ((s.setClu clu { q with filler := s.effOf clu + 128 }).afterEff clu 128 (.fillerBurst clu))
     else .next (s.after 1 (.fillerBurst clu)))
  else .next s

/-! Remote matrix commands (R323, R459). -/

/-- The checks of a job against the target's buffers (R118, R323). -/
def remoteChk (clu : Nat) : MxOp → Chk MxOp
  | .ld o => (ldChk o).map (fun _ => .ld o)
  | .mm o t f => do aTile o 0x8000; tileNo t; return .mm o t f
  | .sp o t f m => do aTile o 0x10000; tileNo t; spChk (f * 2 ^ 16 + m); return .sp o t f m
  | .grp o t f tab wb g => do aTile o 0x8000; tileNo t; grpChk tab wb (f * 64 + (g - 1)); return .grp o t f tab wb g
  | .rot => .ok .rot
  | .rd a t r c ctl raw ds => do
    tileNo t
    rdChk ctl.toNat
    require (rdWin ctl.toNat == 0) 0x60 ctl.toNat
    require (a / 2 ^ 48 == 0xFF02 && a % 2 ^ 48 / 0x200000 == clu % 16 && decide (a % 0x200000 + (c + 1) * 512 ≤ 0x200000)) 0x60 a
    return .rd (abKey clu (a % 0x200000)) t r c ctl raw ds
  | .clr t => do tileNo t; return .clr t
  | .metaCopy a m n => do metaChk a m n; return .metaCopy a m n

/-- The target accepts the capability: PART owns the cluster, and a launch with that GANG and KEY holds a
record on a thread of it. -/
def capOk (s : State) (clu : Nat) (cap : BitVec 32) : Bool :=
  let part := cap.toNat / 2 ^ 26
  let gang := cap.toNat / 2 ^ 16 % 1024
  s.owns part clu && s.sch.launches.any (fun l => l.num == gang && l.key == cap.toNat % 65536) &&
    s.holders.any (fun n => thClu n == clu && thLaunch (s.getT n) == gang)

/-- A remote command ends without a job: a condition is in its handle, and it no longer waits at the port. -/
def cmdRefused (s : State) (o : Op) (clu : Nat) (c : Cond) : State :=
  let s1 := s.setClu clu { s.clu clu with waitingCmds := (s.clu clu).waitingCmds.erase o.id }
  retryCmds (completeHandle (s1.dropOp o.id) o.id o.rcd (.done 0 (some c) (some o.scope) false)) clu

/-- The first command at a remote port takes a queue entry, once one is free and it is the port's turn; only then is it checked
against the target's buffers (R313, R323). It runs with the rights of its capability's partition. -/
def takeCmd (s : State) (o : Op) (clu : Nat) (cap : BitVec 32) (job : MxOp) : State :=
  let q := s.clu clu
  if q.waitingCmds.head? ≠ some o.id ∨ 32 ≤ q.jobs.length then s
  else if !mayQueue s clu 8 then s.after 1 (.mxcmdAccept o.id)
  else match remoteChk clu job with
    | .error (.cond c _) => cmdRefused s o clu { c with detail := BitVec.ofNat 64 (freeIdx q) }
    | .error (.wait _) => s
    | .ok j => retryCmds (acceptJob (s.setClu clu { q with waitingCmds := q.waitingCmds.tail }) clu 8 o.id j (cap.toNat / 2 ^ 26)) clu

/-- What an operation meets at a cluster that is lost: 0x72 where its die is, else 0x74 (R472, R477). -/
def lostClu (s : State) (clu : Nat) : Cond := if s.dieLost (clu / 16) then mkCond 0x72 (clu / 16) else mkCond 0x74 (cluRope clu)

/-- The target checks a remote job's capability, once, and takes it to its remote port, or refuses it; a full queue holds it
there (R323, R459). Commands of one thread to one target keep their order. -/
def execMxcmdAccept (id : Nat) (s : State) : Host.Outcome State Fault Refusal :=
  match s.findOp id with
  | some o =>
    match o.k with
    | .mxcmd clu cap job accepted =>
      let here := (s.clu clu).waitingCmds.contains id
      if accepted && !here then .next s
      else if s.ropeLost (cluRope clu) then .next (cmdRefused s o clu (lostClu s clu))
      else if accepted then .next (takeCmd s o clu cap job)
      else if !capOk s clu cap then .next (cmdRefused s o clu (mkCond 0x64 cap.toNat))
      else
        let s1 := s.modOp id (fun x => { x with k := .mxcmd clu cap job true })
        .next (takeCmd (s1.setClu clu { s1.clu clu with waitingCmds := (s1.clu clu).waitingCmds ++ [id] }) o clu cap job)
    | _ => .next s
  | none => .next s

/-! Message delivery (R324). -/

/-- An earlier message of the same sender to the same destination is still on its way. -/
def msgBefore (s : State) (o : Op) (dest : Nat) : Bool :=
  s.sch.ops.any (fun x => decide (x.id < o.id) && x.th == o.th && (match x.k with | .msg d _ _ => d == dest | _ => false))

/-- A message is placed in a free receive slot of its destination, or refused; one to another module ends as that module
answers (R324, R401, log 18). -/
def execMsgDeliver (a : MsgArrival) (s : State) : Host.Outcome State Fault Refusal :=
  let id := a.id
  match s.findOp id with
  | some o =>
    match o.k with
    | .msg dest m launch =>
      let ok (x : State) (v : Word) (c : Option Cond) : State := completeHandle (x.dropOp id) id o.rcd (.done v c (some o.scope) false)
      let len := BitVec.ofNat 64 m.len
      let far (x : State) (v : Word) (c : Option Cond) : State := retryTo (ok (x.spend (dest / 4096) (flitsOf m.len)) v c) dest
      if msgBefore s o dest then .next s
      else if dest / 4096 ≠ s.device then
        match s.portOf (dest / 4096) (flitsOf m.len) with
        | none => .next s
        | some (_, true) => .next (s.after Config.fabricTime (.msgDeliver a))
        | some (_, false) =>
          match a.ans with
          | .failed code detail => .next (far s 0 (some { code := code, detail := detail, flags := 0 }))
          | _ => .next (far s len none)
      else
        let n := dest % 4096
        let t := s.getT n
        if s.ropeLost (cluRope (thClu n)) then .next (retryMsgs (ok s 0 (some (lostClu s (thClu n)))) n)
        else if t.rcd.isNone ∨ thLaunch t ≠ launch then .next (retryMsgs (ok s 0 (some (mkCond 0x55 dest))) n)
        else if 4 ≤ t.inbox.length then .next s
        else
          let wake (x : Thread) : Thread := if x.i.blocked = some .recv then { x with i := { x.i with blocked := none } } else x
          .next (retryMsgs (ok (s.modT n (fun x => wake { x with inbox := x.inbox ++ [m] })) len none) n)
    | _ => .next s
  | none => .next s

end Sys2Proof.Machine
end

