-- ==== Sys2Proof/Machine/Dispenser.lean ====
section
/-! DEFINITION. The dispensers: pickup, the choice of a record and of its cluster, shadow slots and prefetch,
aging, range stealing (R29, R34, R36, R38, R50, R60, R333, R363-R367, R449). -/
namespace Sys2Proof.Machine
open Sys2Proof

/-! What stands in the way of a record. -/

/-- A record that its launch's end or a cancel filter of a die drops (R38, R67, R103, R369). -/
def cancelled (s : State) (die : Nat) (r : Rec) : Bool :=
  match s.findLaunch r.w.launch with
  | none => true
  | some l => l.ends || s.sch.filters.any (fun f => filterHits f die r)

/-- The launch's records may be granted and picked up: it is not held (R369). -/
def launchRuns (s : State) (num : Nat) : Bool :=
  match s.findLaunch num with
  | some l => l.phase == .running || l.ends
  | none => true

/-- The die whose cancel filter meets a record that no thread holds. -/
def restDie (r : Rec) : Nat :=
  match r.place with
  | .slot core _ => core / 128
  | .granted n => thDie n
  | .queue die => die
  | .rest => match r.w.bound with | some n => thDie n | none => r.die

/-- A record that no thread holds is dropped; a shadow slot it lay in is empty (R38, R103). -/
def dropRest (s0 : State) (r : Rec) : State :=
  let s := cancelRest s0 (restDie r) r
  let f (x : State) : State := recordEnds (x.dropRec r.id) r
  match r.place with
  | .slot core _ => opens s (core / 8) f
  | .granted n => (opens s (thClu n) f).after Config.grantTime (.pickup n)
  | _ => f s

/-! Pickup (R29, R34, R36, R37). -/

/-- The bytes of pieces (offset, length) of a frame, each at its offset. -/
def frameBytes (clu part frame : Nat) : List (Nat × Nat) → State → Chk (Nat × State)
  | [], s => .ok (0, s)
  | (o, n) :: r, s => do
    let (v, s1) ← vmRead s clu part (frame + o) n
    let (w, s2) ← frameBytes clu part frame r s1
    return (v * 256 ^ o + w, s2)

/-- The pieces that a pickup reads under three masks. The tokens are opaque: the handles that they stand for are the record's
(log 14). -/
def framePieces (sm vm pm : Nat) : List (Nat × Nat) :=
  ((List.range 32).filter (fun i => i != 0 && sm.testBit i)).map (fun i => (8 * i, 8))
  ++ ((List.range 8).filter (fun i => pm.testBit i)).map (fun i => (0x100 + 32 * i, 32))
  ++ [(0x200, 0x80), (0x280, 0x68)]
  ++ (if vm.testBit 31 then [(0x300, 256)] else [])
  ++ ((List.range 31).filter (fun i => vm.testBit i)).map (fun i => (0x400 + 256 * i, 256))

/-- The registers that a frame's bytes hold: those not named live read zero, and p0 is all ones (R32). -/
def frameRegsOf (img sm vm pm : Nat) (h : Vector Handle 16) : Regs :=
  { s := Vector.ofFn (fun (i : Fin 32) => if i.val ≠ 0 ∧ sm.testBit i.val = true then BitVec.ofNat 64 (getBytes img (8 * i.val) 8) else 0)
    v := Vector.ofFn (fun (i : Fin 32) =>
      if vm.testBit i.val = true then BitVec.ofNat 2048 (getBytes img (if i.val = 31 then 0x300 else 0x400 + 256 * i.val) 256) else 0)
    p := Vector.ofFn (fun (i : Fin 8) =>
      if i.val = 0 then BitVec.allOnes 256 else if pm.testBit i.val = true then BitVec.ofNat 256 (getBytes img (0x100 + 32 * i.val) 32) else 0)
    h := h
    genA := BitVec.ofNat 64 (getBytes img 0x2C8 8)
    genB := BitVec.ofNat 64 (getBytes img 0x2D0 8) }

/-- The system registers that a frame holds (R31). -/
def frameSys (img : Nat) : SysRegs :=
  { SysRegs.reset with
    win := Vector.ofFn (fun (i : Fin 8) => if i.val = 0 then 0 else BitVec.ofNat 64 (getBytes img (0x278 + 8 * i.val) 8))
    hand := BitVec.ofNat 64 (getBytes img 0x2B8 8)
    sbchk := BitVec.ofNat 64 (getBytes img 0x2C0 8)
    alt := BitVec.ofNat 64 (getBytes img 0x2D8 8) }

/-- The registers of a record that has never run: zeros, and the launch seed advanced by 2^64 × n (R34, R179). -/
def freshRegs (l : Launch) (n : Nat) : Regs :=
  let g := genJump n (genSeed l.l[13] l.l[14])
  { Regs.reset with genA := g.1, genB := g.2 }

/-- The lstore image written at an offset of a core's local store, its words set full (R333). -/
def loadImage (s : State) (l : Launch) (core off room : Nat) : State :=
  let k := imageKey l.part l.entry.toNat
  let n := min room (s.mem.get k 8)
  if n = 0 then s else s.modM (fun m => (m.put (lsKey core off) n (m.get (k + 8) n)).setFull (lsKey core off) n)

/-- The registers and system area that a frame's bytes hold, INHANDLER among them (R31, R34). -/
def withFrame (s : State) (img sm vm pm : Nat) (h : Vector Handle 16) : State :=
  { s with thr := { s.thr with r := frameRegsOf img sm vm pm h, y := frameSys img, inHandler := (getBytes img 0x2E4 1).testBit 0 } }

/-- The full base version in the system area. -/
def frameBase (img : Nat) : BitVec 32 := BitVec.ofNat 32 (getBytes img 0x2E0 4)

/-- The registers, INHANDLER and the local store of the focused thread, from the frame of its record, and the frame's base
version (R34, step 2, 3). A fresh record has no frame yet; its image was written when its region became known (R333). -/
def loadFrame (s : State) (l : Launch) (r : Rec) : Chk (State × Option (BitVec 32)) := do
  let n := s.cur
  if r.fresh then
    let t := { s.thr with r := { freshRegs l r.w.task with h := r.handles } }
    return (if r.w.gang || r.w.thief || r.region.isSome then { s with thr := t } else loadImage { s with thr := t } l (thCore n) s.base 0x10000, none)
  else if r.w.fullf then
    let (img, s1) ← frameBytes (thClu n) r.w.part r.w.frame.toNat (framePieces (2 ^ 32 - 1) (2 ^ 32 - 1) 255) s
    return (withFrame s1 img (2 ^ 32 - 1) (2 ^ 32 - 1) 255 r.handles, some (frameBase img))
  else
    let (v, s1) ← liveMap s r.w.livemap
    let (sm, vm, pm) := (getBytes v 0 4, getBytes v 4 4, getBytes v 8 1)
    let (img, s2) ← frameBytes (thClu n) r.w.part r.w.frame.toNat (framePieces sm vm pm) s1
    let s3 := withFrame s2 img sm vm pm r.handles
    let (eo, el) := mapExtent v
    if el = 0 then return (s3, some (frameBase img))
    else
      let (x, s4) ← vmRead s3 (thClu n) r.w.part (r.w.frame.toNat + 0x2300) el
      return (s4.modM (fun m => (m.put (ownKey s4 eo) el x).setFull (ownKey s4 eo) el), some (frameBase img))

/-- The search state at a pickup: the launch's search word, and for an attempt a fresh header at depth 0, else the
header of the extent (R82-R86). With a search word of 0, DEPTH, TRCNT and SRCH are 0 and no header is written (R83). -/
def loadSearch (s : State) (l : Launch) (r : Rec) : State :=
  let w := l.l[8]
  let q : Search := { s.thr.q with depth := r.w.depth, trcnt := 0, top := 0, lineage := r.lineage, vdepth := r.vdepth, vthread := r.vthread }
  let s1 : State := { s with thr := { s.thr with q := q, y := { s.thr.y with srch := w } } }
  if w = 0 then (s1.modQ (fun q => { q with depth := 0 })).modW (fun x => { x with depth := 0, srch := false })
  else if r.w.gang then s1
  else if r.w.depth = 0 then freshSearch s1
  else
    let h := s1.mem.get (ownKey s1 (regionsOf w).stack) 8
    s1.modQ (fun q => { q with top := h % 65536, trcnt := h / 65536 % 65536 })

/-- Every register of a thread is written, at a pickup (R34, R464). -/
def cleanFile (s : State) (n : Nat) : State :=
  let k := regFileKey (thCore n) (thIn n * 0x4000)
  if s.mem.poison.isEmpty then s else s.modM (fun m => { m with poison := m.poison.filter (fun u => !(decide (k ≤ u.1) && decide (u.1 < k + 0x4000))) })

/-- The focused, free thread takes a good record, with what it has yet to take (R34, R430, R455). -/
def startThread (s : State) (l : Launch) (r0 : Rec) : Chk State := do
  let n := s.cur
  let (r, s00) ← readBase s r0 r0.w.pc
  let s0 := cleanFile s00 n
  let inbox := if s0.thr.inboxLaunch = some l.num then s0.thr.inbox else []
  let t : Thread := { s0.thr.freed with inbox := inbox, inboxLaunch := some l.num, rcd := some r, pc := r.w.pc, npc := r.w.pc, i := { IssueSt.reset with later := r.later, owed := r.scal } }
  let s1 := acquire { s0 with thr := t } n .mod
  let (s2, fb) ← loadFrame s1 l r
  let keep := r.w.fullf && s2.thr.inHandler
  let w : RecWords := { r.w with
    running := true, runnable := false, waith := false, fullf := keep, bound := if keep then r.w.bound else none,
    dies := r.w.dies ||| 2 ^ thDie n }
  let r' : Rec := { r with w := w, base := if r0.base.isSome && fb.isSome then fb else r.base, place := .rest, die := thDie n, raised := 0, since := s2.count, region := none, fresh := false, waits := 0, later := [], scal := [] }
  let y : SysRegs := { s2.thr.y with rank := if r.w.gang then r.w.task else 0, gsize := r.gsize, dom := r.doms }
  return loadSearch { s2 with thr := { s2.thr with rcd := some r', y := y } } l r

/-- The class entry that was to be read for a record at its creation could not be: what its thread's core parks for (R505). -/
def creationBad (r : Rec) : Option Cond := if r.fresh then (r.owed.find? (fun p => p.1.flags == 0)).map (fun p => p.1) else none

/-- A record that cannot be picked up parks the picking thread's core; no full frame is written (R477, R505). The record
stays as it was read. -/
def parkPickup (s : State) (r : Rec) (c : Cond) : State :=
  let s1 := parkCore { s with thr := { s.thr.freed with rcd := some r, pc := r.w.pc, npc := r.w.pc } } c r.w.pc false false
  s1.modRec r.id (fun x => { x with crc := x.crc ^^^ (r.crc ^^^ recCrc r.w r.base) })

/-- The focused, free thread picks a record up: the check of CRC and reserved fields, the cancel check, the frame (R29, R34, R38). -/
def pickUp (s : State) (r : Rec) : State :=
  let s0 := opens s (thClu s.cur) (fun x => x.dropRec r.id)
  if cancelled s (thDie s.cur) r then (recordEnds (cancelRest s0 (thDie s.cur) r) r).after Config.grantTime (.pickup s.cur)
  else if !r.good then parkPickup s0 r { code := 0x70, detail := r.w.frame, flags := 0 }
  else match s.findLaunch r.w.launch, creationBad r with
    | none, _ => s
    | some _, some c => parkPickup s0 r c
    | some l, none =>
      match startThread s0 l r with
      | .ok s1 => retryMsgs { s1 with taken := none } s1.cur
      | .error (.cond c _) => parkPickup s0 r c
      | .error (.wait _) => s.after Config.fabricTime (.pickup s.cur)

/-- Older first (R34, R367). -/
def olderRec (a b : Rec) : Rec := if b.since < a.since then b else a

def oldest : List Rec → Option Rec
  | [] => none
  | a :: l => some (l.foldl olderRec a)

/-- The record that a free thread takes: of its core's slots, the older runnable first; else one granted to it (R34). -/
def nextFor (s : State) (n : Nat) : Option Rec :=
  let ok (r : Rec) : Bool := r.w.runnable && launchRuns s r.w.launch &&
    (match r.place with
     | .slot c _ => c == thCore n && (r.region == some n || (r.region == none && regionFree s n))
     | _ => false)
  match oldest (s.sch.recs.filter ok) with
  | some r => some r
  | none => s.sch.recs.find? (fun r => r.place == .granted n && r.w.runnable && launchRuns s r.w.launch)

/-- A slot of the core, or a thread of it that a record with inputs was granted to, holds a record whose prefetch has not
started. -/
def unfilled (s : State) (core : Nat) : Option Rec :=
  s.sch.recs.find? (fun r => (match r.place with | .slot c _ => c == core | .granted n => thCore n == core | _ => false) && !r.w.runnable && r.region.isNone)

/-- A free thread picks up work; with none, it may fill a slot or search for a victim (R34, R96, R366). A core that a gang has reserved
takes no further grant, and picks up what has been granted to it (R362). -/
def execPickup (th : Nat) (s : State) : Host.Outcome State Fault Refusal :=
  if (s.getT th).rcd.isSome || !coreOpen s (thCore th) then .next s
  else match nextFor s th with
    | some r => .next (asThread s th (fun x => pickUp x r))
    | none =>
      if !regionFree s th || coreKept s (thCore th) then .next s
      else if (unfilled s (thCore th)).isSome then .next (s.after 0 (.shadowFill (thCore th)))
      else .next (s.after Config.scanTime (.idleScan th))

/-! Creating records (R24, R48, R60, R72, R365). -/

/-- The KEY of a launch's records: a mirror's backups carry the straggler's, which is the origin's (R77, R357). -/
def Launch.recKey (l : Launch) : Nat := if l.isMirror then fld l.l[15] 15 0 else l.key

/-- The record of an attempt or of a gang member, as the dispenser or the front end creates it (R24, R77). -/
def newRec (s : State) (l : Launch) (frame : Nat) (w : RecWords) : Rec :=
  { id := s.sch.nextId
    w := { w with
      fullf := false, spec := !w.gang, srch := false, waith := false, runnable := true, running := false
      pc := l.entry, frame := l.frameAddr frame, work := 0, launch := l.num, bound := none, part := l.part, dies := 0
      depth := 0, livemap := 0, key := l.recKey, laddr := l.addr, resv := 0 }
    place := .rest, die := 0, base := none, handles := Vector.replicate 16 .free, waits := 0, raised := 0, since := s.count
    barred := none, tested := false, region := none, doms := Vector.replicate 4 0, gsize := 0, lineage := 0, vdepth := 0
    vthread := 0, fresh := true, owed := [], crc := 0, runSince := s.count }

/-- Enter a new record: its number, its frame, and for a task one attempt more. -/
def addNew (s : State) (l : Launch) (frame : Nat) (r : Rec) : State :=
  let s1 := s.modSch (fun c => { c with recs := c.recs ++ [r.sealed], nextId := c.nextId + 1 })
  let s2 := s1.modLaunch l.num (fun x => { x with frames := x.frames ++ [frame] })
  if r.w.gang then s2 else modTask s2 l.num r.w.task (fun t => { t with alive := t.alive + 1, backups := if r.w.backup then t.backups + 1 else t.backups })

/-- The empty words of a record. -/
def zeroWords : RecWords :=
  { fullf := false, spec := false, srch := false, waith := false, runnable := false, running := false, pc := 0, frame := 0
    gang := false, thief := false, backup := false, pweight := 0, cls := 0, attempt := 0, task := 0, tile := 0, start := 0
    work := 0, launch := 0, bound := none, part := 0, dies := 0, depth := 0, livemap := 0, key := 0, laddr := 0, resv := 0 }

/-- What the dispenser reads to create the record of a task's first attempt: the class and base version of its
descriptor, and the power weight of its class (R60, R72). -/
structure Desc0 where
  cls : Nat
  base : Option (BitVec 32)
  pweight : Nat
  bad : Option Cond
  deriving DecidableEq, Repr

/-- None: the descriptor must be waited for. -/
def readTask (s : State) (l : Launch) (die task : Nat) : Option (Desc0 × State) :=
  let (c, b, s1) : Option Nat × Option (BitVec 32) × State :=
    match vmRead s (die * 16) l.part ((l.tiles + 16 * task) % 2 ^ 48) 16 with
    | .ok (v, x) => (some (v / 2 ^ 56 % 64), some (BitVec.ofNat 32 (getBytes v 12 4)), invalidateDie x die)
    | .error (.cond _ _) => (some 0, none, s)
    | .error (.wait _) => (none, none, s)
  match c with
  | none => none
  | some k =>
    match classEntry s1 l k with
    | .ok e => some ({ cls := k, base := b, pweight := fld e 63 60, bad := none }, s1)
    | .error (.cond x _) => some ({ cls := k, base := b, pweight := 0, bad := some x }, s1)
    | .error (.wait _) => none

/-- The record of task `task`'s first attempt. -/
def originalRec (s : State) (l : Launch) (frame task : Nat) (d : Desc0) : Rec :=
  let r := newRec s l frame { zeroWords with cls := d.cls, task := task, tile := (l.tiles + 16 * task) % 2 ^ 48, pweight := d.pweight }
  Rec.sealed { r with base := d.base, owed := match d.bad with | some c => [(c, l.entry)] | none => [] }

/-! The choice of the cluster (R367). -/

/-- A rope that takes grants: not HOT, not over budget, not clamped or lost (R367, R470). -/
def ropeGrants (s : State) (r : Nat) : Bool :=
  let st := s.reg0 (ropeOff r + 0x20)
  !st.getLsbD 6 && !st.getLsbD 5 && s.ropeState r == 0

/-- The predicted draw of a cluster: the power weights of the records on its threads and in its slots. -/
def drawOf (s : State) (k : Nat) : Nat :=
  let a := (s.holders.filter (fun n => thClu n == k)).map (fun n => match (s.getT n).rcd with | some r => r.w.pweight | none => 0)
  let b := (s.sch.recs.filter (fun r => match r.place with | .slot c _ => c / 8 == k | .granted n => thClu n == k | _ => false)).map (fun r => r.w.pweight)
  min 255 (a.sum + b.sum)

/-- The rope's spread after a grant of weight `w` to cluster `k`. -/
def spreadAfter (s : State) (k w : Nat) : Nat :=
  let ds := (List.range 4).map (fun j => let c := k / 4 * 4 + j; if c = k then min 255 (drawOf s c + w) else drawOf s c)
  ds.foldl max 0 - ds.foldl min 255

/-- Where a record goes within a cluster. -/
inductive Spot where
  | thread (n : Nat)
  | slot (core idx : Nat)
  deriving DecidableEq, Repr

/-- A core holds a runnable record in a slot. -/
def slotReady (s : State) (core : Nat) : Bool :=
  s.sch.recs.any (fun r => r.w.runnable && (match r.place with | .slot c _ => c == core | _ => false))

/-- The place of R367 within a cluster. -/
def spotIn (s : State) (k : Nat) (barred : Option Nat) : Option Spot :=
  let cores := ((List.range 8).map (fun i => k * 8 + i)).filter (fun c => coreOpen s c && !coreKept s c && barred != some c)
  match (cores.filter (fun c => !slotReady s c)).findSome? (fun c => ((List.range 4).map (fun j => c * 4 + j)).find? (threadFree s)) with
  | some n => some (.thread n)
  | none => cores.findSome? (fun c => if slotEmpty s c 0 then some (.slot c 0) else if slotEmpty s c 1 then some (.slot c 1) else none)

/-- A cluster with its claim under R367. -/
structure Claim where
  clu : Nat
  spot : Spot
  waited : Nat
  spread : Nat
  deriving DecidableEq, Repr

def betterClaim (a b : Claim) : Claim :=
  if a.waited < b.waited then b else if b.waited < a.waited then a else if b.spread < a.spread then b else a

/-- The chosen place on a die for a record of a partition. -/
def chooseSpot (s : State) (die part weight : Nat) (barred : Option Nat) : Option Spot :=
  let cs := (s.ownedOf part die).filterMap (fun k =>
    if ropeGrants s (cluRope k) then (spotIn s k barred).map (fun p =>
      ({ clu := k, spot := p, waited := (s.count - (s.clu k).waitSince) / 1024, spread := spreadAfter s k weight } : Claim))
    else none)
  match cs with
  | [] => none
  | c :: l => some (l.foldl betterClaim c).spot

/-! Granting (R50, R363, R365-R367). -/

/-- INLIST of a record's class; thieves take no prefetch (R366). -/
def inlistOf (s : State) (r : Rec) : Nat :=
  if !r.fresh || r.w.thief || r.w.gang then 0
  else match s.findLaunch r.w.launch with
    | none => 0
    | some l => match classEntry s l r.w.cls with | .ok e => fld e 31 0 | .error _ => 0

/-- A record that brings its program's image into the region that it will hold: an original or a backup that has not run
(R333). -/
def takesImage (r : Rec) : Bool := r.fresh && !r.w.thief && !r.w.gang

/-- The image is written into the region of thread `n`, which the record will hold. -/
def imageInto (s : State) (r : Rec) (n : Nat) : State :=
  if !takesImage r then s
  else match s.findLaunch r.w.launch with
    | none => s
    | some l => (loadImage s l (thCore n) (thIn n * 0x10000) 0x10000).modRec r.id (fun x => { x with region := some n })

/-- Put a record at its place: a free thread, which picks it up, or a slot. START is the kilocycle of this grant, its first
dispatch (R24, log 63). A record without inputs is ready, its image in its region as soon as that is known (R333); one with
inputs first has them copied (R366, log 25). -/
def putAt (s : State) (r : Rec) (p : Spot) : State :=
  let start := if r.fresh && !r.w.thief then s.kilo % 65536 else r.w.start
  let ready := inlistOf s r == 0
  let place : Place := match p with | .thread n => .granted n | .slot c i => .slot c i
  let core := match p with | .thread n => thCore n | .slot c _ => c
  let home := match p with | .thread n => some n | .slot c _ => ((List.range 4).map (fun j => c * 4 + j)).find? (threadFree s)
  let s1 := s.modRec r.id (fun _ => r.change (fun x => { x with w := { x.w with start := start, runnable := ready }, place := place, raised := 0 }))
  let s2 := match ready, home with | true, some n => imageInto s1 r n | _, _ => s1
  match ready, p with
  | true, .thread n => s2.after Config.grantTime (.pickup n)
  | _, _ => s2.after Config.fillTime (.shadowFill core)

/-- The thread to which a record bound by a full frame may go (R37). -/
def boundSpot (s : State) (n : Nat) (rid : Nat) : Option Spot :=
  let others := s.sch.recs.any (fun r => r.id != rid && (r.place == .granted n || r.region == some n || (r.w.fullf && r.w.bound == some n)))
  if (s.getT n).rcd.isNone && coreOpen s (thCore n) && !others then some (.thread n) else none

/-- A candidate for the next grant: a queued record, or the next index of a launch. -/
inductive Cand where
  | rcd (r : Rec)
  | idx (l : Launch) (i : Nat)
  deriving DecidableEq, Repr

/-- Effective priority and age (R50, R367). -/
def Cand.prio (s : State) : Cand → Nat
  | .rcd r => min 7 ((match s.findLaunch r.w.launch with | some l => l.prio | none => 7) + r.raised)
  | .idx l _ => l.prio

/-- R367 gives an age to queued records only: that of an undispatched index against the records of other launches is the time since its
launch was admitted (log 83). -/
def Cand.since : Cand → Nat
  | .rcd r => r.since
  | .idx l _ => l.since

def Cand.before (s : State) (a b : Cand) : Bool :=
  if a.prio s ≠ b.prio s then decide (b.prio s < a.prio s)
  else if a.since ≠ b.since then decide (a.since < b.since)
  else match a, b with | .rcd _, .idx _ _ => true | _, _ => false

/-- Insert after all that go before or are equal. -/
def insCand (s : State) (c : Cand) : List Cand → List Cand
  | [] => [c]
  | d :: r => if c.before s d then c :: d :: r else d :: insCand s c r

/-- The lowest undispatched index of a launch on a die. -/
def nextIndex (l : Launch) (die : Nat) : Option Nat :=
  (l.ranges.filter (fun x => x.1 == die && decide (x.2.1 < x.2.2))).foldl (fun m x => match m with | none => some x.2.1 | some i => some (min i x.2.1)) none

/-- The queued records of a die that may be granted. -/
def queued (s : State) (die : Nat) : List Rec :=
  s.sch.recs.filter (fun r => r.place == .queue die && r.w.runnable && !r.w.gang && launchRuns s r.w.launch)

/-- The candidates of a die in the order of R367: an index only where no queued record of its launch at its priority
waits (R363). -/
def candidates (s : State) (die : Nat) : List Cand :=
  let qs := queued s die
  let is := s.sch.launches.filterMap (fun l =>
    if l.phase == .running && !qs.any (fun r => r.w.launch == l.num && (Cand.rcd r).prio s == l.prio) then (nextIndex l die).map (Cand.idx l) else none)
  (qs.map Cand.rcd ++ is).foldl (fun acc c => insCand s c acc) []

/-- Take an index out of a die's ranges. -/
def takeIndex (l : Launch) (die i : Nat) : Launch :=
  { l with ranges := (l.ranges.map (fun x => if x.1 = die ∧ x.2.1 = i then (x.1, i + 1, x.2.2) else x)).filter (fun x => decide (x.2.1 < x.2.2)) }

/-- Grant one candidate, if it can be granted now. -/
def grantOne (s : State) (die : Nat) : Cand → Option State
  | .rcd r =>
    if cancelled s die r then some (dropRest s r)
    else match (match r.w.fullf, r.w.bound with | true, some n => boundSpot s n r.id | _, _ => chooseSpot s die r.w.part r.w.pweight r.barred) with
      | some p => some (putAt s r p)
      | none => none
  | .idx l i =>
    match l.freeFrame with
    | none => none
    | some f =>
      match readTask s l die i with
      | none => none
      | some (d, s1) =>
        let r := originalRec s1 l f i d
        match chooseSpot s1 die l.part d.pweight none with
        | none => none
        | some p =>
          some (putAt (addNew (s1.modLaunch l.num (fun x => takeIndex x die i)) l f r) r p)

/-! The ranges of undispatched indices (R363, R364). -/

/-- The numbers of indices that go to dies with these shares, the remainder to the first. -/
def shares (k tot : Nat) (cs : List Nat) : List Nat :=
  let base := cs.map (fun c => k * c / tot)
  let rest := k - base.sum
  (base.zip (List.range base.length)).map (fun x => if x.2 < rest then x.1 + 1 else x.1)

/-- Contiguous ranges of the indices [lo, …) for dies with the given lengths. -/
def splitUp : List (Nat × Nat) → Nat → List (Nat × Nat × Nat)
  | [], _ => []
  | (d, n) :: r, lo => if n = 0 then splitUp r lo else (d, lo, lo + n) :: splitUp r (lo + n)

/-- The dies that take indices of a partition, with the number of clusters that it owns there: those that are up, a HELD one among them,
whose dispenser keeps its ranges (R363, R478). -/
def dispatchDies (s : State) (part : Nat) : List (Nat × Nat) :=
  ((List.range 8).filter (fun d => s.dieState d == 1 || s.dieState d == 2)).filterMap (fun d => let n := (s.ownedOf part d).length; if n = 0 then none else some (d, n))

/-- The ranges of k indices from `lo` on (R363). A partition that owns no cluster keeps them undispatched. -/
def rangesOf (s : State) (part k lo : Nat) : List (Nat × Nat × Nat) :=
  match dispatchDies s part with
  | [] => if k = 0 then [] else [(0, lo, lo + k)]
  | ds => splitUp ((ds.map (·.1)).zip (shares k (ds.map (·.2)).sum (ds.map (·.2)))) lo


/-- Undispatched indices of a launch on a die. -/
def indexCount (l : Launch) (die : Nat) : Nat := ((l.ranges.filter (fun x => x.1 == die)).map (fun x => x.2.2 - x.2.1)).sum

/-- A steal by this die of this launch is on its way. -/
def stealing (s : State) (die num : Nat) : Bool :=
  s.agenda.any (fun e => match e.2 with
    | .rangeStealRequest d _ l => d == die && l == num
    | .rangeStealAnswer d l _ _ => d == die && l == num
    | _ => false)

/-- The die with the most undispatched indices of a launch, the lowest on a tie. -/
def richest (l : Launch) (die : Nat) : Option Nat :=
  ((List.range 8).filter (fun d => d != die && decide (0 < indexCount l d))).foldl
    (fun m d => match m with | none => some d | some b => if indexCount l b < indexCount l d then some d else some b) none

/-- The steal requests that a die with a waiting cluster sends. -/
def sendSteals (s : State) (die : Nat) : State :=
  s.sch.launches.foldl (fun x l =>
    if l.phase == .running && !l.isGang && indexCount l die == 0 && !stealing x die l.num && (x.ownedOf l.part die).any (cluWaiting x) then
      match richest l die with
      | some d => if indexCount l d < 2 then x else x.after Config.seamTime (.rangeStealRequest die d l.num)
      | none => x
    else x) s

/-- The dispenser of a die takes its next record and grants it (R367). -/
def execGrantRecord (die : Nat) (s : State) : Host.Outcome State Fault Refusal :=
  if s.dieState die ≠ 1 then .next s
  else match (candidates s die).findSome? (grantOne s die) with
    | some s1 => .next (s1.after Config.grantTime (.grantRecord die))
    | none => .next (sendSteals s die)

/-- Ranges by their lowest index. -/
def insRange (x : Nat × Nat × Nat) : List (Nat × Nat × Nat) → List (Nat × Nat × Nat)
  | [] => [x]
  | y :: r => if x.2.1 < y.2.1 then x :: y :: r else y :: insRange x r

/-- The upper part of a die's indices, from ranges in ascending order: the lower `keep` stay (R364). -/
def splitRanges (die : Nat) : Nat → List (Nat × Nat × Nat) → List (Nat × Nat × Nat) × List (Nat × Nat)
  | _, [] => ([], [])
  | keep, (d, lo, hi) :: r =>
    if d ≠ die then let p := splitRanges die keep r; ((d, lo, hi) :: p.1, p.2)
    else
      let k := min keep (hi - lo)
      let p := splitRanges die (keep - k) r
      (if k = 0 then p.1 else (d, lo, lo + k) :: p.1, if lo + k < hi then (lo + k, hi) :: p.2 else p.2)

/-- A dispenser takes a steal request in turn: it keeps the lower ceil(r / 2) of its r indices (R364, R478). -/
def execRangeStealRequest (die victim launch : Nat) (s : State) : Host.Outcome State Fault Refusal :=
  match s.findLaunch launch with
  | none => .next s
  | some l =>
    let r := indexCount l victim
    if r < 2 || l.phase != .running || s.dieState victim != 1 || s.dieState die != 1 then .next s
    else
      let p := splitRanges victim ((r + 1) / 2) (l.ranges.foldr insRange [])
      let s1 := s.modLaunch launch (fun x => { x with ranges := p.1 })
      .next (p.2.foldl (fun x a => x.after Config.seamTime (.rangeStealAnswer die launch a.1 a.2)) s1)

/-- The stolen indices arrive; those of a launch that ends are dropped (R364); for a die that has been lost meanwhile they go to the
surviving dispensers (R476). -/
def execRangeStealAnswer (die launch lo hi : Nat) (s : State) : Host.Outcome State Fault Refusal :=
  match s.findLaunch launch with
  | none => .next s
  | some l =>
    if l.ends then .next (s.after 0 (.launchDone launch))
    else if s.dieLost die then .next (allGrants (s.modLaunch launch (fun x => { x with ranges := x.ranges ++ rangesOf s l.part (hi - lo) lo })))
    else .next ((s.modLaunch launch (fun x => { x with ranges := x.ranges ++ [(die, lo, hi)] })).after Config.grantTime (.grantRecord die))

/-! Shadow slots and prefetch (R333, R366, R449). -/

/-- One entry of an input list: the pieces of its copy, or the condition of an entry out of its bounds (log 25). -/
def inputPieces (s : State) (n part task off e : Nat) : Except Cond (List Piece) :=
  let src := BitVec.ofNat 64 (getBytes e 0 8 + task * getBytes e 8 8)
  let dst := getBytes e 16 4
  let len := getBytes e 20 4
  if dst % 128 ≠ 0 ∨ 0x10000 < dst + len then .error (mkCond 0x21 dst)
  else .ok (rowPieces s (thClu n) part 0 (rowFuel len) off src (.addr (nearAddr (.ls (thCore n) (thIn n * 0x10000 + dst) 0 true))) len)

/-- The pieces of a list's entries in order, and the first bad entry's condition. -/
def listPieces (s : State) (n part task v : Nat) : Nat → Nat → Nat → List Piece × Option Cond
  | 0, _, _ => ([], none)
  | k + 1, i, off =>
    let e := getBytes v (24 * i) 24
    let rest := listPieces s n part task v k (i + 1) (off + getBytes e 20 4)
    match inputPieces s n part task off e with
    | .ok ps => (ps ++ rest.1, rest.2)
    | .error c => (rest.1, some c)

/-- The input list of a class: its entries, at most 8 (R366). -/
def readList (s : State) (l : Launch) (n inlist : Nat) : Chk (Nat × Nat × State) := do
  let a := fld l.l[5] 47 0 + 32 * inlist
  let (c, s1) ← vmRead s (thClu n) l.part a 8
  let k := min 8 c
  let (v, s2) ← vmRead s1 (thClu n) l.part (a + 8) (24 * k)
  return (k, v, s2)

/-- A slot becomes runnable, perhaps with a condition to take before its first bundle (R449). -/
def slotDone (s : State) (r : Rec) (c : Option Cond) : State :=
  let owed := match c with | some x => r.owed ++ [({ x with flags := x.flags ||| 4 }, r.w.pc)] | none => r.owed
  let s1 := s.modRec r.id (fun x => x.change (fun y => { y with w := { y.w with runnable := true }, owed := owed, runSince := s.count }))
  match r.region with
  | some n => s1.after Config.grantTime (.pickup n)
  | none => s1

/-- Start the prefetch of a record into the region of thread `n`: one in slot `idx`, or, with 2 and the thread in core added, one
granted to the thread. -/
def startFill (s : State) (r : Rec) (l : Launch) (core idx n : Nat) : State :=
  let r1 := { r with region := some n }
  let s1 := imageInto (s.modRec r.id (fun _ => r1)) r1 n
  match readList s1 l n (inlistOf s r) with
  | .error (.cond c _) => slotDone s1 r1 (some c)
  | .error (.wait _) => s.after Config.fabricTime (.shadowFill core)
  | .ok (k, v, s2) =>
    match listPieces s2 n l.part r.w.task v k 0 0 with
    | ([], c) => slotDone s2 r1 c
    | (ps, c) =>
      let o : Op := { id := s2.sch.nextId, th := n, rcd := r.id, clu := thClu n, scope := .clu, part := l.part, spec := true, k := .copy (joinPieces ps) 0 false (.prefetch core idx) }
      let s3 := s2.modSch (fun x => { x with ops := x.ops ++ [o], nextId := x.nextId + 1 })
      let s4 := match c with
        | some x => s3.modRec r.id (fun y => { y with owed := y.owed ++ [({ x with flags := x.flags ||| 4 }, r.w.pc)] })
        | none => s3
      s4.after Config.pieceTime (.copyPiece o.id ⟨0, .ok⟩)

/-- The dispenser fills a core's slots: the image is written and the inputs are copied into the region that the record
will hold; a record without inputs is ready, and the core's free threads look for it (R333, R366). -/
def execShadowFill (core : Nat) (s : State) : Host.Outcome State Fault Refusal :=
  if !coreOpen s core then .next s
  else
    let s1 := (List.range 4).foldl (fun x i => if x.holders.contains (core * 4 + i) || !slotReady x core then x else x.after 0 (.pickup (core * 4 + i))) s
    match unfilled s core with
    | none => .next s1
    | some r =>
      match r.place, ((List.range 4).map (fun j => core * 4 + j)).find? (threadFree s), s.findLaunch r.w.launch with
      | .slot _ idx, some n, some l => .next ((startFill s1 r l core idx n).after 0 (.shadowFill core))
      | .granted n, _, some l => .next ((startFill s1 r l core (2 + thIn n) n).after 0 (.shadowFill core))
      | _, _, _ => .next s1

/-- The last prefetch copy into a slot's region has completed (R366, R449); a slot whose record was dropped is empty now
(R38). -/
def execPrefetchDone (core slot : Nat) (s : State) : Host.Outcome State Fault Refusal :=
  let mine (o : Op) : Bool := match o.k with | .copy ps _ _ (.prefetch c i) => c == core && i == slot && (nextPiece ps).isNone | _ => false
  match s.sch.ops.find? mine with
  | none => .next s
  | some o =>
    let s1 := opens s (core / 8) (fun x => x.dropOp o.id)
    match s.sch.recs.find? (fun r => r.id == o.rcd) with
    | some r => .next (slotDone s1 r (match o.k with | .copy ps _ _ _ => firstFailed ps | _ => none))
    | none => .next ((s1.after Config.grantTime (.grantRecord (core / 128))).after Config.grantTime (.pickup o.th))

/-- A runnable record that has waited 2^20 cycles of the count, which stands still in bivouac (R416), rises one level (R50). -/
def execPriorityAging (rid : Nat) (s : State) : Host.Outcome State Fault Refusal :=
  match s.sch.recs.find? (fun r => r.id == rid) with
  | none => .next s
  | some r =>
    match r.place with
    | .queue die =>
      if !r.w.runnable || decide (7 ≤ (Cand.rcd r).prio s) then .next s
      else if s.count < r.since + agingTime * (r.raised + 1) then
        .next (if s.agenda.any (fun e => e.2 == .priorityAging rid) then s
          else s.after (r.since + agingTime * (r.raised + 1) - s.count) (.priorityAging rid))
      else .next (((s.modRec rid (fun x => { x with raised := x.raised + 1 })).after agingTime (.priorityAging rid)).after Config.grantTime (.grantRecord die))
    | _ => .next s

end Sys2Proof.Machine
end

