-- ==== Sys2Proof/Machine/Attempts.lean ====
section
/-! DEFINITION. What stops an attempt and what starts another one: cancel filters, the end of a launch by cancel or
abort, backups and the replacement of lost records (R38, R67, R77, R369, R437, R473). -/
namespace Sys2Proof.Machine
open Sys2Proof

/-! Stops. -/

/-- A running thread of a cancelled record stops at its next instruction boundary, whatever it waits for: after the repetition
that it carries out (R38, R201, R222). -/
def stopThread (s : State) (n : Nat) : State :=
  let t := s.getT n
  if t.rcd.isNone then s
  else if t.i.rep.isSome then s.modT n (fun x => { x with cancel := true })
  else asThread (quitRots [thRid t] s) n stopHere

/-- A record in a shadow slot of a die, or granted to a thread of it. -/
def placedOn (die : Nat) (r : Rec) : Bool :=
  match r.place with
  | .slot c _ => c / 128 == die
  | .granted n => thDie n == die
  | _ => false

/-- The threads of a die whose record passes a test. -/
def holdersOn (s : State) (die : Nat) (p : Rec → Bool) : List Nat :=
  s.holders.filter (fun n => thDie n == die && (match (s.getT n).rcd with | some r => p r | none => false))

/-- Enter a die's cancel filter (R38): records in its slots are dropped, its threads stop. -/
def enterFilter (s : State) (f : Filter) : State :=
  let s1 := if s.sch.filters.contains f then s else s.modSch (fun c => { c with filters := c.filters ++ [f] })
  let s2 := (s1.sch.recs.filter (fun r => placedOn f.die r && filterHits f f.die r)).foldl dropRest s1
  ((holdersOn s2 f.die (filterHits f f.die)).foldl stopThread s2).after Config.grantTime (.grantRecord f.die)

/-- A task cancel enters the filter of every die (R67). -/
def cancelTask (s : State) (num task exempt : Nat) : State :=
  (List.range 8).foldl (fun x d => enterFilter x { die := d, launch := num, task := task, exempt := some exempt, tag := none }) s

/-- A record at rest that is bound to a parked core: it is dropped at the core's release (R437). -/
def parkedRest (s : State) (r : Rec) : Bool :=
  r.place == .rest && (match r.w.bound with | some n => (s.core (thCore n)).parked.isSome | none => false)

/-- What still waits for a number of a launch that ends is dropped, and LIVE no longer counts the backups among it (R80). -/
def dropWants (s : State) (l : Launch) : State :=
  let n := (s.sch.wants.filter (fun w => w.launch == l.num && w.backup)).length
  let s1 := s.modSch (fun c => { c with wants := c.wants.filter (fun w => w.launch != l.num) })
  if l.isMirror || n == 0 then s1 else addReg s1 (liveOff l.part) (-n)

/-- The records of a launch. -/
def launchRids (s : State) (num : Nat) : List Nat :=
  (s.sch.recs.filter (fun r => r.w.launch == num)).map (fun r => r.id) ++
    (s.holders.filter (fun n => thLaunch (s.getT n) == num)).map (fun n => thRid (s.getT n))

/-- A launch ends with status 7 or 8: its undispatched indices and its records are dropped and its threads stop; DONE
follows when all have stopped (R364, R369, R437, R473). An `mxrot` of it that waits for a latch ends (R460). -/
def endLaunch (s : State) (num status : Nat) : State :=
  match s.findLaunch num with
  | none => s
  | some l =>
    if l.ends then s
    else
      let s1 := dropWants (s.modLaunch num (fun x => { x with phase := .ending status, ranges := [] })) l
      let s2 := (s1.sch.recs.filter (fun r => r.w.launch == num && !parkedRest s1 r)).foldl dropRest s1
      let s3 := quitRots (launchRids s1 num) ((s2.holders.filter (fun n => thLaunch (s2.getT n) == num)).foldl stopThread s2)
      (allGrants s3).after Config.grantTime (.launchDone num)

/-! New attempts (R77). -/

/-- Free threads of a partition on a die. -/
def freeThreads (s : State) (part die : Nat) : Nat :=
  ((s.ownedOf part die).map (fun k => ((List.range 32).filter (fun i => threadFree s (k * 32 + i))).length)).sum

/-- The die of a partition with the most free threads, the lowest on a tie (R76, R358). -/
def freestDie (s : State) (part : Nat) (barred : Option Nat) : Option Nat :=
  ((List.range 8).filter (fun d => s.dieState d == 1 && barred != some d && !(s.ownedOf part d).isEmpty)).foldl
    (fun m d => match m with | none => some d | some b => if freeThreads s part b < freeThreads s part d then some d else some b) none

/-- What a new attempt copies (R77). -/
structure Seed where
  task : Nat
  cls : Nat
  attempt : Nat
  base : Option (BitVec 32)
  backup : Bool
  barred : Option Nat
  deriving DecidableEq, Repr

/-- The power weight of a class of a launch for a new record, and what the record's thread parks for where the class entry
cannot be read (R72, R505). -/
def classWeight (s : State) (l : Launch) (cls : Nat) : Nat × List (Cond × Word) :=
  match classEntry s l cls with
  | .ok e => (fld e 63 60, [])
  | .error (.cond c _) => (0, [({ c with flags := 0 }, l.entry)])
  | .error (.wait _) => (0, [])

/-- A new attempt of a launch in the queue of a die; none when the pool has no free frame. -/
def makeAttempt (s : State) (l : Launch) (die : Nat) (x : Seed) : Option State :=
  match l.freeFrame with
  | none => none
  | some f =>
    let w : RecWords := { zeroWords with
      cls := x.cls, task := x.task, tile := (l.tiles + 16 * x.task) % 2 ^ 48, pweight := (classWeight s l x.cls).1
      attempt := x.attempt, backup := x.backup }
    let r := Rec.sealed { newRec s l f w with die := die, base := x.base, barred := x.barred, owed := (classWeight s l x.cls).2 }
    let (r', s1) := enqueue (addNew s l f r) r
    some (s1.modRec r.id (fun _ => r'))

/-- The next backup number of a task, from the counter that the front end of the tile's home keeps (R77); none after 0x7FFF. -/
def takeNumber (s : State) (num task : Nat) : Option (Nat × State) :=
  match s.findLaunch num with
  | none => none
  | some l =>
    let a := (l.task task).nextAttempt
    if 0x7FFF < a then none else some (a, modTask s num task (fun t => { t with nextAttempt := a + 1 }))

/-- The device that homes a task's tile; the module's own where the descriptor's page does not translate. -/
def tileDev (s : State) (l : Launch) (task : Nat) : Nat :=
  let va := (l.tiles + 16 * task) % 2 ^ 48
  match walk s l.part va with
  | .ok (leaf, bits) => leafAddr leaf bits va / 2 ^ 44
  | .error _ => s.device

/-- An attempt waits for an answer from module `dev`; the request crosses the fabric. One that cannot be reached answers as
refused (R358, R481). A task of the module's own launch counts one attempt more until the answer has come. -/
def askFar (s : State) (dev : Nat) (w : Want) : State :=
  let s0 := match s.findLaunch w.launch with
    | some l => if l.isMirror then s else modTask s w.launch w.task (fun t => { t with alive := t.alive + 1 })
    | none => s
  let s1 := (s0.owe dev 1).modSch (fun c => { c with wants := c.wants ++ [w] })
  if (s.portOf dev).isSome then s1 else s1.after 0 (.hedgeBudgetAnswer w.launch w.task w.attempt none)

/-- The fresh attempt that replaces a lost one, under its number; without a frame there is none (R473). -/
def replaceAttempt (s : State) (w : Want) (a : Nat) : State :=
  match s.findLaunch w.launch with
  | none => s
  | some l =>
    let seed : Seed := { task := w.task, cls := w.cls, attempt := a, base := w.base, backup := false, barred := none }
    (makeAttempt s l ((freestDie s l.part none).getD 0) seed).getD s

/-- A record of a lost core, or one that fails its CRC, is dropped: a gang ends, an original or a backup of a task that
is not cancelled is replaced by a fresh attempt, a thief by nothing (R473, R477). The task does not finish before that. -/
def dropAndReplace (s : State) (r : Rec) (drop : State → State) : State :=
  if r.w.gang then endLaunch (drop s) r.w.launch 8
  else if r.w.thief || cancelled s r.die r then drop s
  else
    let s1 := drop (modTask s r.w.launch r.w.task (fun t => { t with alive := t.alive + 1 }))
    let w : Want := { launch := r.w.launch, task := r.w.task, attempt := r.w.attempt, cls := r.w.cls, base := r.base, die := r.die, core := 1024, backup := false }
    let home := match s1.findLaunch r.w.launch with | some l => tileDev s1 l r.w.task | none => s1.device
    let s2 := if home ≠ s1.device then askFar s1 home w
      else match takeNumber s1 r.w.launch r.w.task with | none => s1 | some (a, x) => replaceAttempt x w a
    lessAlive s2 r.w.launch r.w.task false

end Sys2Proof.Machine
end

