-- ==== Sys2Proof/Machine/CondEvents.lean ====
section
/-! DEFINITION. Steps of memory and of conditions: stores that drain, replies that land, conditions taken later, the end
of a park, service replies (R134, R151, R189, R239, R430, R436, R437, R447, R451, R477). -/
namespace Sys2Proof.Machine
open Sys2Proof

/-- The device of a home's key; the module's own number for host memory. -/
def replyDev (s : State) (k : Nat) : Nat := if k / 2 ^ 64 = 9 then k % 2 ^ 64 / 2 ^ 44 else s.device

/-- The keys that an awaited access reads. -/
def replyKeys (r : Reply) : List Nat := match r.acc with | .vload _ ch => ch.map (fun c => c.2.1) | _ => [r.key]

/-- Some part of an awaited access has the home of a device. -/
def readsFrom (s : State) (dev : Nat) (r : Reply) : Bool := (replyKeys r).any (fun k => replyDev s k == dev)

/-- A store and a part of an awaited access have the same home. -/
def sameHome (s : State) (x : Store) (r : Reply) : Bool :=
  match x.route with
  | .remote dev => (replyKeys r).any (fun k => k / 2 ^ 64 == 9 && replyDev s k == dev)
  | .direct => (replyKeys r).any (fun k => k / 2 ^ 64 != 9)
  | _ => false

/-- A posted store reaches its home now. One younger than an access of its thread to the same home reaches it after the access
(R153). -/
def landsNow (s : State) (p : Nat × Store) : Bool :=
  decide (p.1 ≤ s.clock) && !(s.getT p.2.th).i.replies.any (fun r => decide (r.sent + Config.fabricTime < p.1) && sameHome s p.2 r)

/-- A thread of a parked core whose frame had to wait writes it, and stops (R396, R436). -/
def parkRest (s : State) (core : Nat) : State :=
  if (s.core core).parked.isSome then (List.range 4).foldl (fun x i => bindOther x (core * 4 + i)) s else s

/-- The posted stores of a core reach their homes or the host when their time has come, and what waits for them tries again;
then the oldest buffered store of the core performs (R134, R154). -/
def execStoreDrain (core : Nat) (s : State) : Host.Outcome State Fault Refusal :=
  .next (parkRest (drainOne (if (s.core core).posted.any (landsNow s) then wakeQueue (landPosted (landsNow s) s core) else s) core) core)

/-! Replies (R189, R430, R451, R452). -/

/-- A register takes a value now, and no older result any more. -/
def landNow (s : State) (p : Reg) (v : Val) : State :=
  (s.modI (fun i => { i with pend := i.pend.filter (fun q => q.reg != p) })).modR (fun r => landVal r { reg := p, ready := 0, val := v })

/-- A register receives the value of its access: that of a load at the end of the first part of its latency, where that is not over
(R189). -/
def landReg (s : State) (r : Reply) (v : Val) : State :=
  let s1 := cleanRegs s s.cur [r.dest]
  if r.acc.interlocked || !s.thr.i.pend.any (fun q => q.reg == r.dest) then landNow s1 r.dest v
  else s1.modI (fun i => { i with
    pend := i.pend.map (fun q => if q.reg = r.dest ∧ i.pend.all (fun x => x.reg != r.dest || decide (x.ready ≤ q.ready)) = true then { q with val := v } else q) })

def acquireOf (s : State) : Option Scope → State
  | some sc => acquire s s.cur sc
  | none => s

/-- The chunks of a vector load, or the condition of the first poisoned one. -/
def landChunks (s : State) : List (Nat × Nat × Nat) → Nat → Except Cond Nat
  | [], acc => .ok acc
  | (p, k, n) :: r, acc =>
    match poisonAt s k n with
    | some c => .error c
    | none => landChunks s r (putBytes acc p n (s.mem.get k n))

/-- An atomic performs at its home: the old value reaches the destination; with `bad`, it reaches `s3` too, and 0x71 with APPLIED
follows, the old value as detail (R451). -/
def landAtomic (s : State) (r : Reply) (op : AOp) (t : ATy) (x : Word) (bad : Bool) : State :=
  let p := atomicAt s .direct r.key t.bytes op t x.toNat
  let old := atomicOld op t p.1
  let s1 := acquireOf (landReg p.2 r (.s old)) r.scope
  if bad then addLaterAt (landNow s1 (.s 3) (.s old)) r.sent { code := 0x71, detail := old, flags := 1 } else s1

/-- The sector of an atomic's line that its home found bad is poisoned; the detail, in the layout of R465, names it (R451). -/
def spoilLine (s : State) (k : Nat) (d : Word) : State :=
  let u := k / 128 * 128 + d.toNat / 16 % 8 * 16
  if u = k / 16 * 16 then s else s.modM (fun m => m.spoil u d.toNat)

/-- The home die of a key is lost (R477). -/
def keyLost (s : State) (k : Nat) : Option Cond :=
  if k / 2 ^ 64 = 0 ∧ s.dieLost (k / dieBytes) = true then some (mkCond 0x72 (k / dieBytes)) else none

/-- The home's good answer; a die lost meanwhile gives none (R477). -/
def landOk (s : State) (r : Reply) : State :=
  match keyLost s r.key with
  | some c => addLaterAt s r.sent c
  | none =>
  match r.acc with
  | .load n sg =>
    match poisonAt s r.key n with
    | some c => addLaterAt s r.sent c
    | none => acquireOf (landReg s r (.s (extLoad n sg (s.mem.get r.key n)))) r.scope
  | .vload known ch =>
    match landChunks s ch known with
    | .error c => addLaterAt s r.sent c
    | .ok v => acquireOf (landReg s r (.v (BitVec.ofNat 2048 v))) r.scope
  | .atomic op t _ x =>
    match poisonAt s r.key t.bytes with
    | some c => addLaterAt s r.sent c
    | none => landAtomic s r op t x (lineBad s r.key)
  | .ver =>
    match poisonAt s r.key 16 with
    | some c => addLaterAt s r.sent c
    | none => acquireOf (landReg s r (.s (BitVec.ofNat 64 (getBytes (s.mem.get r.key 16) 12 4)))) r.scope

/-- An answer reaches the focused thread: a failed access leaves its destination (R430). -/
def landAnswer (s : State) (r : Reply) : HomeAnswer → State
  | .ok => landOk s r
  | .failed c d => addLaterAt s r.sent { code := c, detail := d, flags := 0 }
  | .applied d =>
    match r.acc with
    | .atomic op t _ x => landAtomic (spoilLine s r.key d) r op t x true
    | _ => addLaterAt s r.sent { code := 0x71, detail := d, flags := 0 }

/-- After a reply, a thread that waits for its replies looks again, and one of a parked core writes its full frame. -/
def afterReply (s : State) : State :=
  let s1 := s.modI (fun i => { i with blocked := if i.blocked = some .reply then none else i.blocked })
  if !s1.thr.i.replies.isEmpty || s1.thr.i.rep.isSome || (s1.core (thCore s1.cur)).parked.isNone then s1 else bindOther s1 s1.cur

def isVer (r : Reply) : Bool := match r.acc with | .ver => true | _ => false

/-- The focused thread's own earlier stores reach the home of an access before it (R153). -/
def settleFor (s : State) (r : Reply) : State :=
  landPosted (fun p => p.2.th == s.cur && sameHome s p.2 r && decide (p.1 ≤ r.sent + Config.fabricTime)) s (thCore s.cur)

/-- A reply lands in the focused thread, whose younger stores may now reach the home. -/
def landReply (ans : HomeAnswer) (r : Reply) (s : State) : State :=
  let s1 := (settleFor s r).modI (fun i => { i with replies := i.replies.erase r })
  afterReply ((landAnswer s1 r ans).after 0 (.storeDrain (thCore s.cur)))

/-- The port over which a device's replies come is up and captures nothing (R411). -/
def hears (s : State) (dev : Nat) : Option Bool := (s.portOf dev).map (fun p => !(s.reg2 (0x1000 + p.1 * 8)).getLsbD 3)

/-- The first reply of a kind that thread `th` awaits lands, unless a port that a part of it comes over captures it, or is dark. -/
def replyTo (s : State) (th : Nat) (ver : Bool) (ans : HomeAnswer) (again : Event) : State :=
  match (s.getT th).i.replies.find? (fun r => isVer r == ver) with
  | none => s
  | some r =>
    let far := ((replyKeys r).map (replyDev s)).filter (fun d => d != s.device)
    match ans with
    | .ok =>
      if far.any (fun d => (hears s d).isNone) then s
      else if far.any (fun d => hears s d == some false) then s.after Config.fabricTime again
      else asThread s th (landReply ans r)
    | _ => asThread s th (landReply ans r)

/-- A load or an atomic is answered (R189). -/
def execLoadReply (th : Nat) (ans : HomeAnswer) (s : State) : Host.Outcome State Fault Refusal :=
  .next (replyTo s th false ans (.loadReply th ans))

/-- A `tver` is answered: its version, and an acquire (R238, R481). -/
def execTverReply (th : Nat) (ans : HomeAnswer) (s : State) : Host.Outcome State Fault Refusal :=
  .next (replyTo s th true ans (.tverReply th ans))

/-- Every word of a blocked synchronising load is full, and the load goes on (R151). -/
def execSyncLoadWake (th : Nat) (s : State) : Host.Outcome State Fault Refusal :=
  match (s.getT th).i.blocked with
  | some (.sync ks) =>
    .next (if ks.all (fun k => !s.mem.empty.contains k) then s.modT th (fun t => { t with i := { t.i with blocked := none } }) else s)
  | _ => .next s

/-- A report names a store of a record. -/
def named (rid : Nat) (x : StoreName) (p : Nat × Store) : Bool := p.2.rcd == rid && p.2.addr == x.addr && p.2.issued == x.issued

/-- The first store of a list that a report names: it performed nothing. -/
def dropStore (rid : Nat) (x : StoreName) : List (Nat × Store) → List (Nat × Store)
  | [] => []
  | p :: r => if named rid x p then r else p :: dropStore rid x r

/-- A posted store that was refused is gone from what its core has sent. -/
def refuseStore (rid : Nat) (x : StoreName) (s : State) : State :=
  { s with cores := s.cores.map (fun c => (c.1, { c.2 with posted := dropStore rid x c.2.posted })) }

/-- A condition found later, of an access that issued in cycle `n`, reaches a record: on its thread, or, at rest, with what it has yet to
take (R430). -/
def tellRecord (s : State) (rid n : Nat) (c : Cond) : State :=
  match s.holders.find? (fun k => thRid (s.getT k) == rid) with
  | some k => asThread s k (fun x => addLaterAt x n c)
  | none => s.modRec rid (fun r => r.change (fun x => { x with later := insLater n { c with flags := c.flags ||| 4 } x.later }))

/-- A home or the host refuses a posted store of a record, or there was no port for it: it wrote nothing, and the record's thread
takes the condition later (R447). The detail is the store's address, or with 0x73 the device. A store that its home has accepted is
refused no more (log 79). -/
def execHomeErrorReport (rid : Nat) (code : BitVec 8) (x : StoreName) (s : State) : Host.Outcome State Fault Refusal :=
  if code = 0x73 then .next (wakeQueue (tellRecord s rid x.issued { code := code, detail := x.addr, flags := 0 }))
  else if s.cores.any (fun c => c.2.posted.any (named rid x)) then
    .next (wakeQueue (tellRecord (refuseStore rid x s) rid x.issued { code := code, detail := x.addr, flags := 0 }))
  else .next s

/-! Conditions taken between bundles (R430, R431). -/

/-- Thread n takes a condition at its boundary; a thread that enters its handler stands at it. -/
def takeAt (s : State) (n : Nat) (c : Cond) (pc : Word) : State :=
  asThread s n (fun x =>
    let y := takeCondition x c pc
    if y.thr.rcd.isSome then { y with thr := { y.thr with pc := y.thr.npc } } else y)

/-- A condition found later is taken; `s2` is the next bundle that would have issued (R430, R462). -/
def execTakeLaterCondition (th : Nat) (s : State) : Host.Outcome State Fault Refusal :=
  let t := s.getT th
  match t.i.later with
  | [] => .next s
  | (_, c) :: r =>
    let waits : Bool := match t.i.blocked with | some (.bar _ _ _) | some (.svc _) => true | _ => false
    if t.rcd.isNone || waits || !t.i.replies.isEmpty || t.i.rep.isSome || (s.core (thCore th)).parked.isSome then .next s
    else .next (takeAt (s.modT th (fun x => { x with i := { x.i with later := r } })) th c t.pc)

/-- The supervisor's reply to a service: what firmware has written to host memory stands there before the reply is written to s[d],
and the thread goes on at its next bundle (R239, R489). -/
def execSvcReply (th : Nat) (a : SvcAnswer) (s : State) : Host.Outcome State Fault Refusal :=
  let t := s.getT th
  match t.i.blocked with
  | some (.svc d) =>
    .next ((a.writes.foldl hostWrite s).modT th (fun x => { x with
      r := x.r.setS d a.value, pc := t.pc + 8, npc := t.pc + 8
      i := { x.i with blocked := none, pend := x.i.pend.filter (fun p => p.reg != .s d) } }))
  | _ => .next s

/-! The end of a park (R437, R477, R505). -/

/-- The records that a parked core's threads left at rest. -/
def boundTo (s : State) (core : Nat) : List Rec :=
  s.sch.recs.filter (fun r => r.place == .rest && (match r.w.bound with | some n => thCore n == core | none => false))

/-- A record for which no full frame could be written: only an abort ends its park (R505). -/
def frameless (r : Rec) : Bool := !r.w.fullf && r.good

/-- The faulting thread resumes at `resume` with INHANDLER 0: a condition found later is taken at that bundle. -/
def resumeRec (s : State) (n : Nat) (r : Rec) (resume : Word) : Rec × State :=
  let s1 := match vmWrite s (thClu n) r.w.part (r.w.frame.toNat + 0x2E4) 4 0 with | .ok x => x | .error _ => s
  (r.change (fun x => { x with w := { x.w with pc := resume } }), s1)

/-- Release one record of a core; `who` is the faulting thread. -/
def releaseRec (who : Nat) (resume : Word) (s : State) (r : Rec) : State :=
  if !r.good then dropAndReplace s r (fun x => dropRest x r)
  else if cancelled s (match r.w.bound with | some n => thDie n | none => 0) r then dropRest s r
  else match r.w.bound with
    | none => s
    | some n =>
      if !r.w.fullf then s
      else
        let (r1, s1) := if n = who then resumeRec s n r resume else (r, s)
        if launchRuns s r.w.launch then
          (s1.modRec r.id (fun _ => r1.change (fun x => { x with w := { x.w with runnable := true }, place := .granted n, runSince := s1.count }))).after Config.grantTime (.pickup n)
        else s1.modRec r.id (fun _ => r1)

/-- The core takes grants again. -/
def unpark (s : State) (core : Nat) : State :=
  let s1 := opens s (core / 8) (fun x => x.setCore core { x.core core with parked := none, parkLaunch := none })
  retryGangs (((List.range 4).foldl (fun x i => x.after Config.grantTime (.pickup (core * 4 + i))) s1).after Config.grantTime (.grantRecord (core / 128)))

/-- The supervisor has the fault message of a core, whose threads have all stopped (R436). -/
def parkOpen (s : State) (core : Nat) : Option Nat := if (s.core core).message.isSome then none else (s.core core).parked

/-- The supervisor releases a core: its records are picked up again from their full frames, the faulting thread's at the
address named (R437). A core with a record that only an abort may end stays parked (R505). -/
def execParkRelease (core : Nat) (resume : BitVec 64) (s : State) : Host.Outcome State Fault Refusal :=
  match parkOpen s core with
  | none => .next s
  | some n =>
    if (boundTo s core).any frameless then .next s
    else .next ((boundTo s core).foldl (releaseRec n resume) (unpark s core))

/-- The supervisor aborts the launch of the faulting record, and of records that have no frame; the core's other records
are released (R437, R505). -/
def execParkAbort (core : Nat) (s : State) : Host.Outcome State Fault Refusal :=
  match parkOpen s core with
  | none => .next s
  | some n =>
    let ends := (match (s.core core).parkLaunch with | some l => [l] | none => []) ++ ((boundTo s core).filter frameless).map (·.w.launch)
    let s1 := ends.foldl (fun x l => endLaunch x l 8) (unpark s core)
    .next ((boundTo s1 core).foldl (releaseRec n 0) s1)

end Sys2Proof.Machine
end

