-- ==== Sys2Proof/Machine/System.lean ====
section
/-! DEFINITION. System registers, handlers, the generator, parking (R199, R326-R330, R433, R434), `stage`
(R312). -/
namespace Sys2Proof.Machine
open Sys2Proof

/-! System registers (R199). -/

/-- The record's value of a field, or 0. -/
def rcdVal (s : State) (f : Rec → Nat) : Word := match s.thr.rcd with | some r => BitVec.ofNat 64 (f r) | none => 0

/-- A window control word as `gets` reads it: its reserved bits read as zero (R4, R114). An access meets the word as it was
written (R115). A reserved code in FMT or RND, both RW, is shown as written: R4 has reserved encodings read as zero, and the spec does
not say that a code of these fields is meant (log 89). -/
def winShown (v : Word) : Word := putFld v 31 8 0

/-- What `gets` reads; none for a reserved number. -/
def sysRead (s : State) (n : Nat) : Option Word :=
  if n = 0x00 then some (BitVec.ofNat 64 s.cur)
  else if n = 0x01 then some (BitVec.ofNat 64 (thCore s.cur))
  else if n = 0x02 then some (BitVec.ofNat 64 (thCluIn s.cur))
  else if n = 0x03 then some (BitVec.ofNat 64 (thDie s.cur))
  else if n = 0x04 then some (BitVec.ofNat 64 s.thr.y.rank)
  else if n = 0x05 then some (BitVec.ofNat 64 s.thr.y.gsize)
  else if n = 0x06 then some (rcdVal s (fun r => r.w.task))
  else if n = 0x07 then some (rcdVal s (fun r => r.w.attempt))
  else if n = 0x08 then some (rcdVal s (fun r => r.w.cls))
  else if n = 0x09 then some 2048
  else if n = 0x0A then some (BitVec.ofNat 64 s.count)
  else if n = 0x0B then some (rcdVal s (fun r => r.w.dies))
  else if h : 0x0C ≤ n ∧ n - 0x0C < 4 then some (s.thr.y.dom.get ⟨n - 0x0C, h.2⟩)
  else if n = 0x10 then some s.thr.y.alt
  else if n = 0x11 then some (BitVec.ofNat 64 s.thr.q.depth)
  else if n = 0x12 then some (rcdVal s (fun r => r.w.work))
  else if n = 0x13 then some s.thr.y.srch
  else if 0x14 ≤ n ∧ n ≤ 0x1A then some (winShown (s.win (n - 0x13)))
  else if n = 0x1B then some s.thr.y.hand
  else if n = 0x1C then some s.thr.y.sbchk
  else if n = 0x1D then some (match s.launch with | some l => (genSeed l.l[13] l.l[14]).1 | none => 0)
  else none

/-- `gets` (R327). -/
def execGets (d : BitVec 5) (n : BitVec 15) (s : State) : Host.Outcome State Fault Refusal :=
  match sysRead s n.toNat with
  | some v => .next (s.setS d v)
  | none => finish s (raise 0x09 n.toNat)

/-- Write a window control word. -/
def setWin (s : State) (w : Nat) (v : Word) : State := if h : w < 8 then s.modY (fun y => { y with win := y.win.set w v h }) else s

/-- What `puts` writes (R84, R114, R190, R199). The thread's earlier stores perform before the fresh header of an accepted
`sys.srch` is written (log 60). -/
def sysWrite (s : State) (n : Nat) (v : Word) : Chk State :=
  if n = 0x13 then
    if s.thr.q.depth = 0 ∧ srchOk v = true then .ok (freshSearch ((drainAll s (thCore s.cur)).modY (fun y => { y with srch := v }))) else raise 0x41 v.toNat
  else if 0x14 ≤ n ∧ n ≤ 0x1A then .ok (setWin s (n - 0x13) v)
  else if n = 0x1B then .ok (s.modY (fun y => { y with hand := v }))
  else if n = 0x1C then .ok (s.modY (fun y => { y with sbchk := BitVec.ofNat 64 (v.toNat / 2 ^ 32 * 2 ^ 32 + v.toNat % 4) }))
  else if n ≤ 0x1D then raise 0x16 n
  else raise 0x09 n

/-- `puts` (R327). -/
def execPuts (d : BitVec 5) (n : BitVec 15) (s : State) : Host.Outcome State Fault Refusal := finish s (sysWrite s n.toNat (s.getS d))

/-! Handlers, the generator, parking. -/

/-- `hand` (R328, R434). -/
def execHand (d a : BitVec 5) (s : State) : Host.Outcome State Fault Refusal :=
  .next ((s.modY (fun y => { y with hand := s.getS a })).setS d s.thr.y.hand)

/-- `hret` (R433). -/
def execHret (a : BitVec 5) (s : State) : Host.Outcome State Fault Refusal := finish s (handlerReturn s (s.getS a))

/-- `rseed` (R329). -/
def execRseed (a b : BitVec 5) (s : State) : Host.Outcome State Fault Refusal := .next (s.setGen (genSeed (s.getS a) (s.getS b)))

/-- `park` (R330, R436). -/
def execPark (a : BitVec 5) (s : State) : Host.Outcome State Fault Refusal :=
  .next (parkCore s { code := 0, detail := s.getS a, flags := 0 } (faultPc s) true true)

/-! `stage` (R312). -/

/-- The entry that an engine carries out next: the first released one, when none of it runs. -/
def nextEntry (l : Launch) (clu : Nat) : Option SchedSt :=
  if l.sched.any (fun e => e.clu == clu && e.running) then none
  else l.sched.find? (fun e => e.clu == clu && !e.done && decide (e.stage ≤ l.stage))

/-- Every engine with a released entry that may start looks at the schedule. -/
def stageKick (s : State) (l : Launch) : State :=
  (l.sched.map (·.clu)).eraseDups.foldl (fun x c =>
    match nextEntry l c with
    | some e => x.after Config.pieceTime (.schedEntry l.num e.idx)
    | none => x) s

/-- `stage` (R312): the counter rises to n; only a first raise has an effect. -/
def execStage (n : BitVec 15) (s : State) : Host.Outcome State Fault Refusal :=
  if !thGang s.thr then finish s (raise 0x54 n.toNat)
  else match s.launch with
    | none => .next s
    | some l =>
      if n.toNat ≤ l.stage ∨ fld l.l[7] 16 0 = 0 then .next s
      else
        let rank := match s.thr.rcd with | some r => r.w.task | none => 0
        let s1 := drainAll s (thCore s.cur)
        let l1 : Launch := { l with stage := n.toNat, stagers := l.stagers ++ [(n.toNat, rank)] }
        .next (stageKick (s1.modLaunch l.num (fun _ => l1)) l1)

end Sys2Proof.Machine
end

