-- ==== Sys2Proof/Machine/CopyEvents.lean ====
section
/-! DEFINITION. The end of copies, the copy schedule of a gang (R307, R311, R312, R448-R450), and the steps of
barrier instances (R45, R46, R461-R463). -/
namespace Sys2Proof.Machine
open Sys2Proof

/-! Barrier instances. -/

/-- The thread on which a gang member runs. -/
def memberThread (s : State) (num rank : Nat) : Option Nat :=
  s.holders.find? (fun n => match (s.getT n).rcd with | some r => r.w.gang && r.w.launch == num && r.w.task == rank | none => false)

/-- The threads of the arrived members of an instance. -/
def arrivedThreads (s : State) (num : Nat) (b : BarInst) : List Nat := b.arrived.filterMap (memberThread s num)

/-- The member to whom an entry counts: the one whose `stage` first released it, rank 0 for stage 0 (R450). -/
def stagerOf (l : Launch) (stage : Nat) : Nat :=
  if stage = 0 then 0 else match l.stagers.find? (fun p => decide (stage ≤ p.1)) with | some p => p.2 | none => 0

/-- A superstep copy of an arrived member is not performed: its own, or an entry that its `stage` released, whether or not its
engine has begun it (R46, R312). -/
def ssPending (s : State) (l : Launch) (ranks : List Nat) (ths : List Nat) : Bool :=
  l.sched.any (fun e => e.ss && !e.done && decide (e.stage ≤ l.stage) && ranks.contains (stagerOf l e.stage)) ||
    s.sch.ops.any (fun o => match o.k with
      | .copy _ _ true .handle => ths.any (fun n => thRid (s.getT n) == o.rcd)
      | _ => false)

/-- A member leaves its `bar`. -/
def passBar (s : State) (n : Nat) : State :=
  s.modT n (fun t => { t with pc := t.pc + 8, npc := t.pc + 8, i := { t.i with blocked := none } })

/-- Level 4 is a release and an acquire at `.mod`; the lower levels reach no cache (R46). -/
def barOrder (s : State) (level : Nat) (ths : List Nat) : State :=
  if level = 4 then
    let s1 := ths.foldl (fun x n => release x n .mod) s
    ths.foldl (fun x n => acquire x n .mod) s1
  else s

/-- The instance completes: every arrived member goes on (R45, R46). -/
def execBarrierComplete (launch level inst : Nat) (s : State) : Host.Outcome State Fault Refusal :=
  match s.findLaunch launch with
  | none => .next s
  | some l =>
    match barFind l level inst with
    | none => .next s
    | some b =>
      let ths := arrivedThreads s launch b
      if !barFull l level inst then .next s
      else if ssPending s l b.arrived ths then .next s
      else if ths.any (fun n => waitsOut s n false) then .next (s.after Config.fabricTime (.barrierComplete launch level inst))
      else
        let s1 := s.modLaunch launch (fun x => dropBar x level inst)
        .next (ths.foldl passBar (barOrder s1 level ths))

/-- Every waiting member of an instance takes a condition at its `bar`, and the arrivals are withdrawn (R461, R463). -/
def breakBar (s : State) (launch level inst : Nat) (b : BarInst) (c : Cond) : State :=
  let ths := arrivedThreads s launch b
  let s1 := s.modLaunch launch (fun x => dropBar x level inst)
  let s2 := ths.foldl (fun x n => x.modT n (fun t => { t with i := { t.i with blocked := none } })) s1
  ths.foldl (fun x n => if (x.getT n).rcd.isSome then takeAt x n c (x.getT n).pc else x) s2

/-- The barrier watchdog (R461). -/
def execBarrierWatchdog (launch level inst : Nat) (s : State) : Host.Outcome State Fault Refusal :=
  match s.findLaunch launch with
  | none => .next s
  | some l =>
    match barFind l level inst with
    | none => .next s
    | some b =>
      if s.count < b.since + watchTime then .next (s.after (b.since + watchTime - s.count) (.barrierWatchdog launch level inst))
      else .next (breakBar s launch level inst b (mkCond 0x53 (b.arrived.length * 65536 + level)))

/-- A second arrival from one membership slot breaks the instance (R463). -/
def execBarrierNetworkFault (launch level inst : Nat) (s : State) : Host.Outcome State Fault Refusal :=
  match s.findLaunch launch with
  | none => .next s
  | some l =>
    match barFind l level inst with
    | none => .next s
    | some b => .next (breakBar s launch level inst b (mkCond 0x51 level))

/-- Full instances of a launch look again whether they may complete. -/
def retryBars (s : State) (num : Nat) : State :=
  match s.findLaunch num with
  | none => s
  | some l => l.bars.foldl (fun x b => if barFull l b.level b.inst then x.after Config.barTime (.barrierComplete num b.level b.inst) else x) s

/-! The copy schedule (R311, R312, R450). -/

/-- Entry `idx` of the schedule, as 32 bytes. -/
def schedRead (s : State) (l : Launch) (idx : Nat) : Chk (Nat × State) := vmRead s 0 l.part (fld l.l[6] 47 0 + 32 * idx) 32

def seStage (v : Nat) : Nat := getBytes v 20 2
def seFlags (v : Nat) : Nat := getBytes v 22 1
def seRows (v : Nat) : Nat := max 1 (getBytes v 24 2)

def scopeOf? (n : Nat) : Option Scope :=
  match n with
  | 0 => some .core | 1 => some .clu | 2 => some .die | 3 => some .mod | 4 => some .fab | 5 => some .sys | _ => none

/-- The reserved bits and codes, and the executing position (R311). R311 does not say when a length outside 1 to 2^24 is found, nor what a
table that is not aligned to 32 does: the one raises 0x12 when its entry is carried out, the other is not checked (log 86). -/
def seOk (l : Launch) (v : Nat) : Bool :=
  decide (seStage v < 32768) && decide (seFlags v < 64) && decide (seFlags v / 16 % 4 ≤ 1) && (scopeOf? (seFlags v % 8)).isSome &&
    decide (getBytes v 23 1 < 16) && (seFlags v / 16 % 4 == 1 || getBytes v 23 1 == 0) &&
    decide (getBytes v 26 1 < l.shape.rg * l.shape.cg) && decide (getBytes v 27 1 < l.shape.d)

/-- The module cluster of an entry under a placement. -/
def seClu (l : Launch) (p : Placement) (v : Nat) : Nat :=
  let k := getBytes v 26 1
  p.dies.getD (getBytes v 27 1) 0 * 16 + (p.y0 + k / l.shape.cg) * 4 + p.x0 + k % l.shape.cg

/-- The thread in whose place an entry's addresses are checked: on thread `n` of the executing cluster, with the rights of the
gang's partition, whatever the thread holds (R311). -/
def asMember (s : State) (l : Launch) (n : Nat) : State :=
  (s.setT n { Thread.reset with rcd := some (newRec s l 0 { zeroWords with gang := true }) }).focus n

/-- The pieces of an entry: rows as `copy2` moves them (R308). -/
def sePieces (s : State) (v : Nat) : Chk (List Piece) := do
  let len := getBytes v 16 4
  let f := seFlags v
  require (decide (1 ≤ len) && decide (len ≤ 2 ^ 24)) 0x12 len
  let fl : CopyFlags := { dcl := BitVec.ofNat 4 (getBytes v 23 1), dk := f / 16 % 4 == 1, ss := f.testBit 3, scope := (scopeOf? (f % 8)).getD .clu }
  copyRows s (some fl) len (BitVec.ofNat 64 (getBytes v 8 8)) (BitVec.ofNat 64 (getBytes v 0 8)) (getBytes v 28 4) len (seRows v) 0

/-- The record of a gang's rank. -/
def memberRid (s : State) (num rank : Nat) : Nat :=
  match memberThread s num rank with
  | some n => thRid (s.getT n)
  | none => match s.sch.recs.find? (fun r => r.w.gang && r.w.launch == num && r.w.task == rank) with | some r => r.id | none => 0

/-- A condition for a gang member, taken at its next instruction boundary (R450). -/
def reportTo (s : State) (num rank : Nat) (c : Cond) : State :=
  match memberThread s num rank with
  | some n => asThread s n (fun x => addLater x c)
  | none =>
    match s.sch.recs.find? (fun r => r.w.gang && r.w.launch == num && r.w.task == rank) with
    | some r => tellRecord s r.id s.clock c
    | none => s

def markSched (s : State) (num idx : Nat) (running done : Bool) : State :=
  s.modLaunch num (fun l => { l with sched := l.sched.map (fun e => if e.idx = idx then { e with running := running, done := done } else e) })

/-- An entry has ended; its engine goes on with the next, and a barrier may complete. -/
def schedEnds (s : State) (num idx rank : Nat) (c : Option Cond) : State :=
  let s1 := markSched s num idx false true
  let s2 := match c with | some x => reportTo s1 num rank x | none => s1
  match s2.findLaunch num with
  | some l => retryBars (stageKick s2 l) num
  | none => s2

/-- A copy engine carries out a released entry, under a pre-emption that its gang has yet to honour too (R311, R312, R369). -/
def execSchedEntry (launch idx : Nat) (s : State) : Host.Outcome State Fault Refusal :=
  match s.findLaunch launch with
  | none => .next s
  | some l =>
    match l.sched.find? (fun e => e.idx == idx), l.place with
    | some e, some p =>
      if (nextEntry l e.clu).map (·.idx) ≠ some idx || (l.phase != .running && l.phase != .holding) then .next s
      else
        let rank := stagerOf l e.stage
        match schedRead s l idx with
        | .error (.wait _) => .next (s.after Config.fabricTime (.schedEntry launch idx))
        | .error (.cond c _) => .next (schedEnds s launch idx rank (some c))
        | .ok (v, s1) =>
          let n := (p.threads.find? (fun n => thClu n == e.clu)).getD (e.clu * 32)
          match sePieces (asMember s1 l n) v with
          | .error (.wait _) => .next (s.after Config.fabricTime (.schedEntry launch idx))
          | .error (.cond c _) => .next (schedEnds s1 launch idx rank (some c))
          | .ok ps =>
            let o : Op := { id := s1.sch.nextId, th := n, rcd := memberRid s1 launch rank, clu := e.clu, scope := (scopeOf? (seFlags v % 8)).getD .clu, part := l.part, spec := false, k := .copy (joinPieces ps) 0 ((seFlags v).testBit 3) (.sched launch idx rank) }
            let s2 := s1.modSch (fun c => { c with ops := c.ops ++ [o], nextId := c.nextId + 1 })
            .next ((markSched s2 launch idx true false).after Config.pieceTime (.copyPiece o.id ⟨0, .ok⟩))
    | _, _ => .next s

/-! The end of a copy (R149, R307, R448). -/

/-- Every piece has performed or failed: at `.mod` and wider the engine's die writes its dirty sectors back first; the
handle becomes done, the slot runnable, or the schedule goes on. -/
def execCopyDone (op : Nat) (s : State) : Host.Outcome State Fault Refusal :=
  match s.findOp op with
  | none => .next s
  | some o =>
    match o.k with
    | .copy ps value _ what =>
      if (nextPiece ps).isSome then .next s
      else
        let c := firstFailed ps
        let s1 := if o.scope.wide then writeBackDie s (o.clu / 16) else s
        match what with
        | .prefetch core slot => .next (s1.after 0 (.prefetchDone core slot))
        | .sched launch idx rank => .next (afterOp (schedEnds (s1.dropOp op) launch idx rank c) o)
        | .handle =>
          let s2 := afterOp (completeHandle (s1.dropOp op) op o.rcd (.done (BitVec.ofNat 64 value) c (some o.scope) false)) o
          .next (s2.sch.launches.foldl (fun x l => retryBars x l.num) s2)
    | _ => .next s

end Sys2Proof.Machine
end

