-- ==== Sys2Proof/Machine/Gangs.lean ====
section
/-! DEFINITION. Placing a gang whole (R40-R43, R312, R333, R362, R437, R472). -/
namespace Sys2Proof.Machine
open Sys2Proof

/-! Positions (R362). -/

/-- The choices of `k` of a list, in order, the earliest first. -/
def combos : Nat → List Nat → List (List Nat)
  | 0, _ => [[]]
  | _ + 1, [] => []
  | k + 1, a :: r => (combos k r).map (a :: ·) ++ combos (k + 1) r

/-- A position: the dies in rank order, and the origin. -/
structure Pos where
  dies : List Nat
  y0 : Nat
  x0 : Nat
  deriving DecidableEq, Repr

/-- Every position of a shape, in the order in which they are tried. -/
def positions (l : Launch) : List Pos :=
  let h := l.shape
  if l.l[1].getLsbD 15 then (combos h.d (List.range 8)).map (fun ds => { dies := ds, y0 := 0, x0 := 0 })
  else
    ((List.range 8).map (fun d =>
      ((List.range 16).filter (fun o => decide (o / 4 + h.rg ≤ 4) && decide (o % 4 + h.cg ≤ 4))).map (fun o => ({ dies := [d], y0 := o / 4, x0 := o % 4 } : Pos)))).flatten

/-- The clusters of a position in rank order, each with the rank of its first member. -/
def posClus (l : Launch) (p : Pos) : List (Nat × Nat) :=
  let h := l.shape
  (List.range (h.d * h.rg * h.cg)).map (fun i =>
    (p.dies.getD (i / (h.rg * h.cg)) 0 * 16 + (p.y0 + i / h.cg % h.rg) * 4 + p.x0 + i % h.cg, i * h.c * h.t))

/-- The partition owns every cluster of the position, none of them on a lost rope (R472). -/
def ownsPos (s : State) (l : Launch) (p : Pos) : Bool :=
  (posClus l p).all (fun c => s.owns l.part c.1 && !s.ropeLost (cluRope c.1))

/-- Some position of the partition could ever hold the gang (R359, R472). -/
def everFits (s : State) (l : Launch) : Bool := (positions l).any (ownsPos s l)

/-! Cores and threads of a position. -/

/-- The thread to which a member of a gang is bound by its full frame (R37, R437). -/
def boundOf (s : State) (num rank : Nat) : Option Nat :=
  match s.sch.recs.find? (fun r => r.w.gang && r.w.launch == num && r.w.task == rank && r.w.fullf) with
  | some r => r.w.bound
  | none => none

/-- A thread that a gang may take: free, or in a region that a bound member of the gang holds. -/
def gangThread (s : State) (num n : Nat) : Bool :=
  regionFree s n ||
    ((s.getT n).rcd.isNone && s.sch.recs.any (fun r => r.w.gang && r.w.launch == num && boundHolds r n) &&
      !s.sch.recs.any (fun r => r.w.launch != num && (r.place == .granted n || r.region == some n || boundHolds r n)))

/-- A core reserved for another gang (R362). -/
def keptForOther (s : State) (num core : Nat) : Bool :=
  s.sch.launches.any (fun l => l.num != num && l.phase == .reserved && (match l.place with | some p => p.threads.any (fun n => thCore n == core) | none => false))

/-- The members bound elsewhere do not stand on these threads. -/
def ranksFit (s : State) (num : Nat) : Nat → List Nat → Bool
  | _, [] => true
  | rank, n :: r => (match boundOf s num rank with | some m => m == n | none => true) && ranksFit s num (rank + 1) r

/-- The threads of one cluster for the ranks from `rank` on: the lowest choice of C cores and of T threads on each that
agrees with the bound members. `core` says which cores may be taken, `free` which threads count as free. -/
def cluChoice (s : State) (l : Launch) (core free : Nat → Bool) (clu rank : Nat) : Option (List Nat) :=
  let h := l.shape
  let usable (c : Nat) : List Nat := ((List.range 4).map (fun i => c * 4 + i)).filter free
  let cores := ((List.range 8).map (fun i => clu * 8 + i)).filter (fun c => core c && decide (h.t ≤ (usable c).length))
  (combos h.c cores).findSome? (fun cs => pick h.t usable cs rank)
where
  /-- The threads of the chosen cores. -/
  pick (t : Nat) (usable : Nat → List Nat) : List Nat → Nat → Option (List Nat)
    | [], _ => some []
    | c :: r, k =>
      match (combos t (usable c)).find? (ranksFit s l.num k), pick t usable r (k + t) with
      | some ts, some rest => some (ts ++ rest)
      | _, _ => none

/-- The threads of a position in rank order. -/
def posThreads (s : State) (l : Launch) (core free : Nat → Bool) : List (Nat × Nat) → Option (List Nat)
  | [] => some []
  | (clu, rank) :: r =>
    match cluChoice s l core free clu rank, posThreads s l core free r with
    | some ts, some rest => some (ts ++ rest)
    | _, _ => none

/-- A position with its threads, if they are free now. -/
def fitsNow (s : State) (l : Launch) (core free : Nat → Bool) (p : Pos) : Option Placement :=
  if !ownsPos s l p then none
  else (posThreads s l core free (posClus l p)).map (fun ts => { dies := p.dies, y0 := p.y0, x0 := p.x0, threads := ts })

/-! Placing. -/

/-- The record of a gang's rank when the gang is placed for the first time, with the power weight of class 0. -/
def addMember (num : Nat) (s : State) (rank : Nat) : State :=
  match s.findLaunch num with
  | none => s
  | some l =>
    match l.freeFrame with
    | none => s
    | some f =>
      let w := classWeight s l 0
      let r := newRec s l f { zeroWords with gang := true, task := rank, pweight := w.1, start := s.kilo % 65536 }
      addNew s l f { r with doms := l.shape.doms rank, gsize := l.shape.size, owed := w.2 }

def memberRec (s : State) (num rank : Nat) : Option Rec := s.sch.recs.find? (fun r => r.w.gang && r.w.launch == num && r.w.task == rank)

/-- The image at offset 0 of every core of the gang (R333). -/
def gangImage (s : State) (l : Launch) (p : Placement) : State :=
  (p.threads.map thCore).eraseDups.foldl (fun x c => loadImage x l c 0 0x40000) s

/-- A member's record goes to its thread. One that waits on a handle stays not runnable until the handle is done (R35, R218). -/
def putMember (num : Nat) (s : State) (x : Nat × Nat) : State :=
  match memberRec s num x.2 with
  | none => s
  | some r =>
    let go := !r.w.waith || !waitsOn r.waits r.handles
    s.modRec r.id (fun _ => r.change (fun y => { y with w := { y.w with runnable := go, waith := !go }, place := .granted x.1, runSince := if go && !y.w.runnable then s.count else y.runSince }))

/-- A member is picked up on its thread. -/
def takeMember (num : Nat) (s : State) (x : Nat × Nat) : State :=
  match memberRec s num x.2 with
  | none => s
  | some r => if r.place == .granted x.1 && r.w.runnable then asThread s x.1 (fun y => pickUp y r) else s

/-- The entries of the schedule with their engines under a placement; those already ended stay so (R311, R312). -/
def schedOf (s : State) (l : Launch) (p : Placement) : List SchedSt :=
  (List.range (fld l.l[7] 16 0)).filterMap (fun i =>
    match schedRead s l i with
    | .ok (v, _) =>
      let old := l.sched.find? (fun e => e.idx == i)
      some { idx := i, clu := seClu l p v, stage := seStage v, ss := (seFlags v).testBit 3, running := (match old with | some e => e.running | none => false), done := (match old with | some e => e.done | none => false) }
    | .error _ => none)

/-- Place a gang: at the first placement the image and the records are written, and at a later one, which R333 does not mention, no image
(log 87); then every member is released in one step
(R42, R43). -/
def placeAt (s : State) (l : Launch) (p : Placement) : State :=
  let first := !(s.sch.recs.any (fun r => r.w.gang && r.w.launch == l.num))
  let s1 := if first then (List.range l.shape.size).foldl (addMember l.num) (gangImage s l p) else s
  let s2 := s1.modLaunch l.num (fun x => { x with phase := .running, place := some p, sched := schedOf s1 x p })
  let pairs := p.threads.zip (List.range l.shape.size)
  let s3 := pairs.foldl (takeMember l.num) (pairs.foldl (putMember l.num) s2)
  match s3.findLaunch l.num with
  | some x => stageKick s3 x
  | none => s3

/-- The position that a reservation holds. -/
def reservedPos (l : Launch) : Option Pos := l.place.map (fun p => { dies := p.dies, y0 := p.y0, x0 := p.x0 })

/-- The ADMIT entry of a launch still waits to be posted (R361). -/
def admitWaits (s : State) (l : Launch) : Bool :=
  (tabGet QueueSt.reset s.sch.queues l.queue).waiting.any (fun e => e.c0.toNat / 16 % 16 == 0 && e.c1.toNat / 65536 == l.num)

/-- A core of a reservation. -/
def reservedCore (l : Launch) (core : Nat) : Bool := match l.place with | some p => p.threads.any (fun m => thCore m == core) | none => false

/-- A gang that waits is placed at the first position that holds it; one with a reservation is placed there once its
cores are free (R362). -/
def execGangPlace (launch : Nat) (s : State) : Host.Outcome State Fault Refusal :=
  match s.findLaunch launch with
  | none => .next s
  | some l =>
    let free (n : Nat) : Bool := gangThread s launch n
    if l.phase == .placing then
      if admitWaits s l then .next (s.after Config.fabricTime (.gangPlace launch))
      else match (positions l).findSome? (fitsNow s l (fun c => coreOpen s c && !keptForOther s launch c) free) with
      | some p => .next (placeAt s l p)
      | none => .next (if everFits s l then s else endLaunch s launch 8)
    else if l.phase == .reserved then
      match reservedPos l with
      | none => .next s
      | some q =>
        match fitsNow s l (fun c => coreOpen s c && reservedCore l c) free q with
        | some p => .next (allGrants (placeAt s l p))
        | none => .next (if ownsPos s l q then s else (s.modLaunch launch (fun x => { x with phase := .placing, place := none })).after 0 (.gangPlace launch))
    else .next s

/-- After 2^20 cycles the first position that the partition owns is reserved, whatever its cores hold now: they take no further
grant (R362). -/
def execGangReserve (launch : Nat) (s : State) : Host.Outcome State Fault Refusal :=
  match s.findLaunch launch with
  | none => .next s
  | some l =>
    if l.phase != .placing then .next s
    else if s.count < l.since + agingTime then .next (s.after (l.since + agingTime - s.count) (.gangReserve launch))
    else match (positions l).findSome? (fitsNow s l (fun c => !(s.core c).lost) (fun _ => true)) with
      | some p => .next ((s.modLaunch launch (fun x => { x with phase := .reserved, place := some p })).after Config.grantTime (.gangPlace launch))
      | none => .next (if everFits s l then s.after agingTime (.gangReserve launch) else endLaunch s launch 8)

end Sys2Proof.Machine
end

