-- ==== Sys2Proof/Machine/FrontEnd.lean ====
section
/-! DEFINITION. The front end: queues, admission, dispatch, completion, pre-emption, cancel, ownership, invalidation
(R48, R130, R351-R363, R368-R371, R505). -/
namespace Sys2Proof.Machine
open Sys2Proof

/-! Queue pairs (R352-R356). -/

def State.queue (s : State) (q : Nat) : QueueSt := tabGet QueueSt.reset s.sch.queues q
def State.setQueue (s : State) (q : Nat) (x : QueueSt) : State := s.modSch (fun c => { c with queues := tabSet q x c.queues })
def sqCfg (s : State) (q : Nat) : Word := s.reg0 (sqOff q + 8)
def cqCfg (s : State) (q : Nat) : Word := s.reg0 (sqOff q + 0x20)
def ringOf (cfg : Word) : Nat := 2 ^ fld cfg 15 12
def cfgOn (cfg : Word) : Bool := cfg.getLsbD 16

/-- The module admits and posts while it runs (R393, R413, R414). -/
def feRuns (s : State) : Bool := (s.bootState == 2 || s.bootState == 3) && (s.bivState == 0 || s.bivState == 9) && !s.plat.feHeld

/-- Completions are posted: not while the front end's control complex is reloaded, nor from FLUSH to REPLAY (R414, R479). -/
def fePosts (s : State) : Bool := !s.plat.feHeld && (s.bivState ≤ 2 || s.bivState == 9)

/-- There is room for a completion entry (R355). -/
def cqRoom (s : State) (q : Nat) : Bool := cfgOn (cqCfg s q) && decide ((s.queue q).unread < ringOf (cqCfg s q))

def kickAdmit (s : State) (q : Nat) : State := s.after Config.grantTime (.admitLaunch q)

/-- The host's submission doorbell: entries become available; a TAIL that would pass the head is ignored and reported
(R353). -/
def execSqDbWrite (q : Nat) (tail : BitVec 16) (s : State) : Host.Outcome State Fault Refusal :=
  let x := s.queue q
  let n := ringOf (sqCfg s q)
  let t := tail.toNat % n
  if (t + n - x.sqHead % n) % n < (x.sqTail + n - x.sqHead % n) % n then
    .next (s.mailTo 8 (0x75 + fld (sqCfg s q) 5 0 * 2 ^ 32 + (q % 256 + tail.toNat * 2 ^ 16) * 2 ^ 128))
  else .next (kickAdmit (s.setQueue q { x with sqTail := t }) q)

/-- The host's completion doorbell: entries are released (R355). A HEAD equal to the present one releases none, be the queue full of
entries not released or empty: R355 does not tell the two apart (log 84). -/
def execCqDbWrite (q : Nat) (head : BitVec 16) (s : State) : Host.Outcome State Fault Refusal :=
  let x := s.queue q
  let n := ringOf (cqCfg s q)
  let k := (head.toNat % n + n - x.cqHead % n) % n
  .next ((s.setQueue q { x with cqHead := head.toNat % n, unread := x.unread - k }).after Config.grantTime (.postCompletion q))

/-- A configuration write: every field while EN is 0, else only EN (R352). -/
def cfgWrite (old v : Word) (mask : Nat) : Word :=
  if cfgOn old then putFld old 16 16 (fld v 16 16) else BitVec.ofNat 64 (v.toNat &&& mask)

/-- Firmware writes `SQ_CFG` (R352, R368). -/
def execSqCfgWrite (q : Nat) (value : BitVec 64) (s : State) : Host.Outcome State Fault Refusal :=
  .next (kickAdmit (s.setReg0 (sqOff q + 8) (cfgWrite (sqCfg s q) value 0x1F73F)) q)

/-- Firmware writes `CQ_CFG` (R352). -/
def execCqCfgWrite (q : Nat) (value : BitVec 64) (s : State) : Host.Outcome State Fault Refusal :=
  .next ((s.setReg0 (sqOff q + 0x20) (cfgWrite (cqCfg s q) value 0x1F000)).after Config.grantTime (.postCompletion q))

/-! Completion entries (R354-R356). -/

/-- The front end has an entry to post. -/
def postEntry (s : State) (q : Nat) (e : CqEntry) : State :=
  (s.setQueue q { s.queue q with waiting := (s.queue q).waiting ++ [e] }).after 0 (.postCompletion q)

def entry (l : Launch) (kind status c1 c2 short : Nat) : CqEntry :=
  { q := l.queue
    c0 := BitVec.ofNat 64 (fld l.l[12] 63 32 * 2 ^ 32 + l.sqhead % 65536 * 2 ^ 16 + l.queue % 256 * 2 ^ 8 + kind * 16)
    c1 := BitVec.ofNat 64 c1, c2 := BitVec.ofNat 64 c2, c3 := BitVec.ofNat 64 (status * 2 ^ 56 + short) }

/-- The interrupt of a queue: the count and the timer clear (R356). -/
def signal (s : State) (q : Nat) : State :=
  (s.setQueue q { s.queue q with unsig := 0 }).irq (fld (s.reg0 (sqOff q + 0x30)) 34 24)

/-- Master-clock cycles in a microsecond. -/
def microsecond : Nat := 1700

/-- COUNT and TIMER of a queue are tried on what it has not signalled: the interrupt, or the time of the oldest entry (R356). -/
def coalesce (s : State) (q : Nat) : State :=
  let x := s.queue q
  let c := s.reg0 (sqOff q + 0x30)
  let t := fld c 23 8 * microsecond
  if x.unsig = 0 then s
  else if max 1 (fld c 7 0) ≤ x.unsig then signal s q
  else if t = 0 then s
  else if x.oldest + t ≤ s.clock then signal s q
  else s.after (x.oldest + t - s.clock) (.cqCoalTimer q)

/-- An access of the front end outside the host's windows is not sent, and raises 0x27 (R392): no thread issued it, so the supervisor of
the cache die has the message, in the form of R353's; a message that it has already is not posted again (log 85). -/
def feRefused (s : State) (q hpa : Nat) : State :=
  let m := 0x27 + fld (sqCfg s q) 5 0 * 2 ^ 32 + hpa * 2 ^ 128
  if s.plat.mail.contains (8, m) then s else s.mailTo 8 m

/-- One completion entry is written, with its phase; then the interrupt, or the timer (R355, R356). -/
def execPostCompletion (q : Nat) (s : State) : Host.Outcome State Fault Refusal :=
  let x := s.queue q
  match x.waiting with
  | [] => .next (kickAdmit s q)
  | e :: r =>
    let hpa := (s.reg0 (sqOff q + 0x18)).toNat + 32 * x.cqTail
    if !cqRoom s q || !fePosts s then .next s
    else if !s.hostAllowed hpa 32 then .next (feRefused s q hpa)
    else
      let v := e.c0.toNat + e.c1.toNat * 2 ^ 64 + e.c2.toNat * 2 ^ 128 + (e.c3.toNat + (if x.phase then 2 ^ 63 else 0)) * 2 ^ 192
      let t := (x.cqTail + 1) % ringOf (cqCfg s q)
      let y : QueueSt := { x with
        waiting := r, unread := x.unread + 1, cqTail := t, phase := if t = 0 then !x.phase else x.phase
        unsig := x.unsig + 1, oldest := if x.unsig = 0 then s.clock else x.oldest }
      let s1 := (s.modM (·.put (spaceKey 1 hpa) 32 v)).setQueue q y
      .next ((coalesce s1 q).after 0 (.postCompletion q))

/-- The coalescing time of the oldest entry not signalled is over (R356). -/
def execCqCoalTimer (q : Nat) (s : State) : Host.Outcome State Fault Refusal :=
  let x := s.queue q
  let t := fld (s.reg0 (sqOff q + 0x30)) 23 8 * microsecond
  .next (if x.unsig ≠ 0 ∧ t ≠ 0 ∧ x.oldest + t ≤ s.clock then signal s q else s)

/-! Admission (R357-R361, R505). -/

/-- The member devices of a hedge group; entry 0 is the module alone (R404). -/
def groupHas (s : State) (g dev : Nat) : Bool :=
  if g = 0 then dev == s.device else (s.reg2 (0x2000 + g * 0x20 + dev % 256 / 64 * 8)).getLsbD (dev % 64)

/-- The reserved bits of a launch record, by word (R357). -/
def reservedBits (i : Nat) : Nat :=
  if i = 0 then 0xFF00000000000007 else if i = 1 then 0x07FFFFFFFFFF0000 else if i = 4 ∨ i = 6 ∨ i = 9 ∨ i = 10 ∨ i = 11 then 0xFFFF000000000000
  else if i = 5 then 0xFF80000000000000 else if i = 7 then 0xFFFE0000FFFE0000 else if i = 12 then 0xFF000000 else if i = 15 then 0x00FFFC00FFFF0000
  else 0

/-- Status 1 of R359. -/
def recordBad (s : State) (l : Launch) : Bool :=
  let w := l.l[1]
  let reserved := (List.range 16).any (fun i => (match l.l.toList[i]? with | some x => x.toNat &&& reservedBits i | none => 0) != 0)
  let shape := l.isGang &&
    (if w.getLsbD 15 then fld w 12 5 != 0 else fld w 14 13 != 0 || decide (4 < fld w 12 11 + fld w 8 7 + 1) || decide (4 < fld w 10 9 + fld w 6 5 + 1))
  let mirror := if l.isMirror
    then l.isGang || fld l.l[15] 63 56 == s.device || !groupHas s l.hgroup (fld l.l[15] 63 56)
    else l.l[15] != 0
  reserved || shape || mirror || (!l.isGang && !l.isMirror && decide (2 ^ 26 - 1 < fld l.l[3] 31 0)) || decide (255 < l.hgroup) || !groupHas s l.hgroup s.device ||
    !srchOk l.l[8] || fld l.l[7] 48 32 == 0 || decide (65536 < fld l.l[7] 48 32) || decide (65536 < fld l.l[7] 16 0) || fld l.l[10] 6 0 != 0

/-- A read of a table by the front end; none where it fails. -/
def feRead (s : State) (part va n : Nat) : Option Nat := match vmRead s 0 part va n with | .ok (v, _) => some v | .error _ => none

/-- Status 2: a class entry or a schedule entry is bad. -/
def tablesBad (s : State) (l : Launch) : Bool :=
  let nc := fld l.l[5] 54 48
  decide (64 < nc) ||
    (List.range nc).any (fun i => match feRead s l.part (fld l.l[5] 47 0 + 8 * i) 8 with | some v => v / 2 ^ 48 % 16 != 0 || v / 2 ^ 58 % 4 == 3 | none => false) ||
    (List.range (fld l.l[7] 16 0)).any (fun i => match feRead s l.part (fld l.l[6] 47 0 + 32 * i) 32 with | some v => !seOk l v | none => false)

/-- The largest extent of the live-map table, in 128-byte units. -/
def largestExtent (s : State) (l : Launch) : Nat :=
  (List.range (fld l.l[7] 48 32)).foldl (fun m i => match feRead s l.part (fld l.l[9] 47 0 + 16 * i + 14) 2 with | some v => max m v | none => m) 0

/-- Status 3: the frame pool is too small. -/
def poolBad (s : State) (l : Launch) : Bool :=
  decide (fld l.l[11] 15 0 < 70 + largestExtent s l) || l.fcount == 0 || (l.isGang && decide (l.fcount < l.shape.size))

/-- Every page of a range translates with R, and with W where `w` (R505). -/
def pagesOk (s : State) (part : Nat) (w : Bool) : Nat → Nat → Nat → Bool
  | 0, _, _ => true
  | k + 1, a, last =>
    if last < a then true
    else match (if a / 2 ^ 56 = 0 then walk s part a else raise 0x20 a) with
      | .error _ => false
      | .ok (leaf, bits) => leaf.getLsbD 61 && (!w || leaf.getLsbD 60) && pagesOk s part w k ((a / 2 ^ bits + 1) * 2 ^ bits) last

def rangeOk (s : State) (part : Nat) (w : Bool) (a n : Nat) : Bool := n == 0 || pagesOk s part w (n / 0x10000 + 2) a (a + n - 1)

/-- Status 9 (R505). -/
def rightsBad (s : State) (l : Launch) : Bool :=
  !(rangeOk s l.part false (fld l.l[9] 47 0) (16 * fld l.l[7] 48 32) && rangeOk s l.part false (fld l.l[5] 47 0) (8 * fld l.l[5] 54 48) &&
    rangeOk s l.part false (fld l.l[6] 47 0) (32 * fld l.l[7] 16 0) && rangeOk s l.part true l.tiles (16 * l.ttlen) &&
    rangeOk s l.part true l.pool (l.fcount * l.fsize))

/-- A read of a table must wait: its home is not up yet (R396). -/
def feWaits (s : State) (part va n : Nat) : Bool := match vmRead s 0 part va n with | .error (.wait _) => true | _ => false

def pagesWait (s : State) (part : Nat) : Nat → Nat → Nat → Bool
  | 0, _, _ => false
  | k + 1, a, last =>
    if last < a then false
    else match walk s part a with
      | .ok (_, bits) => pagesWait s part k ((a / 2 ^ bits + 1) * 2 ^ bits) last
      | .error (.wait _) => true
      | .error _ => false

/-- An admission waits while a table that it reads, or a page that it translates, must be waited for. -/
def tablesWait (s : State) (l : Launch) : Bool :=
  (List.range (min 64 (fld l.l[5] 54 48))).any (fun i => feWaits s l.part (fld l.l[5] 47 0 + 8 * i) 8) ||
    (List.range (fld l.l[7] 16 0)).any (fun i => feWaits s l.part (fld l.l[6] 47 0 + 32 * i) 32) ||
    (List.range (fld l.l[7] 48 32)).any (fun i => feWaits s l.part (fld l.l[9] 47 0 + 16 * i + 14) 2) ||
    pagesWait s l.part (16 * l.ttlen / 0x10000 + 2) l.tiles (l.tiles + 16 * l.ttlen - 1) ||
    pagesWait s l.part (l.fcount * l.fsize / 0x10000 + 2) l.pool (l.pool + l.fcount * l.fsize - 1)

def floorOff (l : Launch) : Nat := 0x800 + 8 * fld l.l[12] 23 16
/-- The watts of a launch's floor contract (R360). -/
def floorWatts (s : State) (l : Launch) : Nat := if fld l.l[12] 23 16 = 0 then 0 else fld (s.reg0 (floorOff l)) 47 32

/-- The status of an admission; 0 admits (R359). -/
def admitStatus (s : State) (l : Launch) : Nat :=
  if recordBad s l then 1
  else if tablesBad s l then 2
  else if poolBad s l then 3
  else if l.isGang && !everFits s l then 4
  else if fld l.l[12] 23 16 ≠ 0 ∧ fld (s.reg0 8) 15 0 < fld (s.reg0 0x10) 15 0 + floorWatts s l then 5
  else if 1024 ≤ s.sch.launches.length then 6
  else if rightsBad s l then 9
  else 0

/-- The lowest free launch number (R361). -/
def freeNum (s : State) : Nat := ((List.range 1025).find? (fun n => (s.findLaunch n).isNone)).getD 1024

/-- The launch that a record names. -/
def newLaunch (s : State) (q hpa head v : Nat) : Launch :=
  let w : Vector Word 16 := Vector.ofFn (fun i => BitVec.ofNat 64 (getBytes v (8 * i.val) 8))
  { num := freeNum s, key := 0, part := fld (sqCfg s q) 5 0, prio := min (fld w[1] 62 60) (fld (sqCfg s q) 10 8), queue := q, sqhead := head
    addr := 0x80000000000 + hpa, l := w, phase := .admitted, since := s.count, limit := 0, disc := 0, ranges := [], tasks := [], counts := (0, 0, 0)
    frames := [], place := none, left := [], bars := [], stage := 0, stagers := [], sched := [], short := 0, watts := 0, got := 0, thieves := [] }

/-- The address of a queue's head entry. -/
def headAddr (s : State) (q : Nat) : Nat := (s.reg0 (sqOff q)).toNat + 128 * (s.queue q).sqHead

/-- A queue holds a launch that may be taken: none while its completion queue has no room (R355). -/
def hasHead (s : State) (q : Nat) : Bool :=
  let x := s.queue q
  cfgOn (sqCfg s q) && x.sqHead != x.sqTail && x.waiting.isEmpty && cqRoom s q

/-- A queue whose head launch can be taken: none while its record cannot be read (R392). -/
def canAdmit (s : State) (q : Nat) : Bool := hasHead s q && s.hostAllowed (headAddr s q) 128

/-- The records that lie outside the host's windows are reported (R392). -/
def badHeads (s : State) : State :=
  ((List.range 64).filter (fun q => hasHead s q && !s.hostAllowed (headAddr s q) 128)).foldl (fun x q => feRefused x q (headAddr s q)) s

/-- The requested priority of a queue's head launch. -/
def headPrio (s : State) (q : Nat) : Nat := s.mem.get (spaceKey 1 (headAddr s q) + 8) 8 / 2 ^ 60 % 8

/-- The queue from which the next launch is taken (R361). -/
def nextQueue (s : State) : Option Nat :=
  ((List.range 64).filter (canAdmit s)).foldl (fun m q => match m with | none => some q | some b => if headPrio s b < headPrio s q then some q else some b) none

/-- The first key from `k` on that is not among those given. -/
def firstKey (used : List Nat) : Nat → Nat → Nat
  | 0, k => k
  | n + 1, k => if used.contains k then firstKey used n ((k + 1) % 65536) else k

/-- An admission key of the front end's own generator, a different one for each admission; once all have been given they are
given again, but none that a resident launch has (R361, log 10). -/
def newKey (s : State) : Nat × State :=
  let (w, s1) := s.freeWord
  let used := if 65536 ≤ s.sch.keys.length then s.sch.launches.map (fun l => l.key) else s.sch.keys
  let k := firstKey used used.length (w.toNat % 65536)
  (k, s1.modSch (fun c => { c with keys := used ++ [k] }))

/-- A launch with a floor is accounted at the end of every kilocycle (R387). -/
def floorStart (s : State) (l : Launch) : State := if fld l.l[12] 23 16 = 0 then s else s.after (1024 - s.count % 1024) (.floorAccount l.num)

/-- Four kilocycles. -/
def monitorTime : Nat := 4096

/-- The monitors of the dies test at every fourth kilocycle while a launch is resident (R75). -/
def startMonitors (s : State) : State :=
  (List.range 8).foldl (fun x d =>
    if x.agenda.any (fun e => e.2 == .stragglerTest d) then x else x.after (monitorTime - x.count % monitorTime) (.stragglerTest d)) s

/-- An admitted launch becomes resident; ADMIT is posted, and its first step follows; a mirror's monitors test as the origin's do (R75, R360-R362). -/
def enterLaunch (s : State) (l : Launch) : State :=
  let (k, s1) := newKey s
  let w := floorWatts s l
  let l1 : Launch := { l with key := k, watts := w, phase := if l.isMirror then .running else if l.isGang then .placing else .admitted }
  let s2 := s1.modSch (fun c => { c with launches := c.launches ++ [l1] })
  let s3 := s2.setReg0 0x10 (BitVec.ofNat 64 (fld (s2.reg0 0x10) 15 0 + w))
  let s4 := floorStart (postEntry s3 l.queue (entry l1 0 0 (l.num * 65536 + k) 0 0)) l1
  if l.isMirror then startMonitors s4
  else if l.isGang then (s4.after Config.grantTime (.gangPlace l.num)).after agingTime (.gangReserve l.num)
  else s4.after Config.grantTime (.launchDispatch l.num)

/-- The front end takes the next launch record, and admits it or posts REFUSED (R353, R359, R361). -/
def execAdmitLaunch (q : Nat) (s : State) : Host.Outcome State Fault Refusal :=
  if !feRuns s then .next s
  else match nextQueue s with
    | none => .next (badHeads s)
    | some n =>
      let x := s.queue n
      let hpa := headAddr s n
      let head := (x.sqHead + 1) % ringOf (sqCfg s n)
      let l := newLaunch s n hpa head (s.mem.get (spaceKey 1 hpa) 128)
      let s1 := s.setQueue n { x with sqHead := head }
      if !recordBad s1 l && tablesWait s1 l then .next (s.after Config.fabricTime (.admitLaunch q))
      else
        let st := admitStatus s1 l
        let s2 := if st = 0 then enterLaunch s1 l else postEntry s1 n (entry l 2 st 0 0 0)
        .next (kickAdmit s2 q)

/-! Dispatch (R48, R363, R396). -/

/-- The count is read once, as an acquire at `.sys`, and the indices are split among the dies (R48, R363). A count that
cannot be read is taken as 0. -/
def execLaunchDispatch (launch : Nat) (s : State) : Host.Outcome State Fault Refusal :=
  match s.findLaunch launch with
  | none => .next s
  | some l =>
    if l.phase != .admitted then .next s
    else if admitWaits s l then .next (s.after Config.fabricTime (.launchDispatch launch))
    else
      let go (n : Nat) (s1 : State) : State :=
        let m := fld l.l[3] 31 0
        let k := min n m
        let s2 := s1.modLaunch launch (fun x => { x with
          phase := .running, limit := k, disc := n - m, ranges := rangesOf s1 l.part k 0 })
        startMonitors ((allGrants s2).after Config.grantTime (.launchDone launch))
      match vmRead s 0 l.part l.l[2].toNat 4 with
      | .ok (n, s1) => .next (go n s1)
      | .error (.cond _ _) => .next (go 0 s)
      | .error (.wait _) => .next (s.after Config.fabricTime (.launchDispatch launch))

/-! The end of a launch (R68, R128, R354, R358, R360, R369). -/

/-- The events of a launch. -/
def eventOf (num : Nat) : Event → Bool
  | .launchDispatch l | .gangPlace l | .gangReserve l | .launchDone l | .preemptHold l | .preemptRelease l | .launchCancel l
  | .cancelDelivery l _ _ | .lineageCancel _ l _ _ | .hedgeBudgetRequest _ l _ _ | .backupOffer l _ _ _ | .backupOfferAnswer l _ _ _
  | .endNotice l _ | .rangeStealRequest _ _ l | .rangeStealAnswer _ l _ _ | .thiefBlockRequest _ l _ | .thiefBlockGrant _ l _ _
  | .barrierComplete l _ _ | .barrierWatchdog l _ _ | .schedEntry l _ | .floorAccount l | .backupUnreachable ⟨l, _, _⟩
  | .barrierNetworkFault l _ _ | .hedgeBudgetAnswer l _ _ _ => l == num
  | _ => false

/-- Nothing that is still on its way names the launch: numbers are given again (R361). -/
def forget (s : State) (num : Nat) : State :=
  let f (o : Op) : Op := match o.k with
    | .commit l task att base d k n data pc ans => if l = num then { o with k := .commit 1024 task att base d k n data pc ans } else o
    | .copy ps v ss (.sched l i m) => if l = num then { o with k := .copy ps v ss (.sched 1024 i m) } else o
    | _ => o
  let g (c : CoreSt) : CoreSt := if c.parkLaunch = some num then { c with parkLaunch := none } else c
  let h (t : Thread) : Thread := if t.inboxLaunch = some num then { t with inbox := [], inboxLaunch := none } else t
  { s with
    thr := h s.thr
    rest := s.rest.map (fun c => (c.1, h c.2))
    agenda := s.agenda.filter (fun e => !eventOf num e.2)
    cores := s.cores.map (fun c => (c.1, g c.2))
    sch := { s.sch with
      launches := s.sch.launches.filter (fun l => l.num != num), recs := s.sch.recs.filter (fun r => r.w.launch != num)
      filters := s.sch.filters.filter (fun x => x.launch != num), rings := s.sch.rings.filter (fun x => x.launch != num)
      heldCancels := s.sch.heldCancels.filter (fun x => x.launch != num), offers := s.sch.offers.filter (fun x => x.launch != num)
      wants := s.sch.wants.filter (fun x => x.launch != num), blocks := s.sch.blocks.filter (fun x => x.1 != num)
      ops := s.sch.ops.map f }
    mem := { s.mem with pins := s.mem.pins.filter (fun p => p.launch != num) } }

/-- Some thread still holds a record of the launch. -/
def launchHeld (s : State) (num : Nat) : Bool := s.holders.any (fun n => thLaunch (s.getT n) == num)

/-- A record of the launch exists that has not stopped: a bound record of a parked core has (R437). -/
def launchLives (s : State) (num : Nat) : Bool := launchHeld s num || s.sch.recs.any (fun r => r.w.launch == num && !parkedRest s r)

/-- The status with which a launch can end now. -/
def endStatus (s : State) (l : Launch) : Option Nat :=
  match l.phase with
  | .ending st => if launchLives s l.num || s.agenda.any (fun e => match e.2 with | .rangeStealAnswer _ n _ _ => n == l.num | _ => false) then none else some st
  | .running =>
    if l.isMirror || launchHeld s l.num || s.sch.recs.any (fun r => r.w.launch == l.num) then none
    else if l.isGang then some 0
    else if l.counts.1 + l.counts.2.1 + l.counts.2.2 = l.limit then some 0 else none
  | _ => none

/-- The tasks of a cancelled launch finish as they stand (R68). -/
def finishAll (l : Launch) : Launch := l.tasks.foldl (fun x t => finishTask x t) l

/-- The other modules of a launch's hedge group. -/
def groupOthers (s : State) (l : Launch) : List Nat := (List.range 256).filter (fun d => d != s.device && l.hgroup != 0 && groupHas s l.hgroup d)

/-- The origin's end notice goes to every member of the group (R358); a mirror forgets where it has placed backups. -/
def noticeEnd (s : State) (l : Launch) : State :=
  if l.isMirror then s.modSch (fun c => { c with away := c.away.filter (fun a => a.launch != l.num || a.key != l.key) }) else (groupOthers s l).foldl (fun x d => x.owe d 1) s

/-- Post DONE, tell the group, and end the launch (R354, R358). -/
def finishLaunch (s : State) (l0 : Launch) (st : Nat) : State :=
  let l := finishAll l0
  let c := if l.isGang || l.isMirror then (0, 0, 0) else l.counts
  let e := entry l 1 st (c.2.1 * 2 ^ 32 + c.1 % 2 ^ 26) ((if l.isMirror then 0 else l.disc % 2 ^ 32) * 2 ^ 32 + c.2.2) (min (2 ^ 32 - 1) (l.short / 2 ^ 20))
  let s1 := s.setReg0 0x10 (BitVec.ofNat 64 (fld (s.reg0 0x10) 15 0 - l.watts))
  let s2 := retryGangs (forget (noticeEnd s1 l) l.num)
  let s3 := if s2.sch.preemptBusy = some l.num then (s2.modSch (fun x => { x with preemptBusy := none })).setReg0 0x20 0 else s2
  kickAdmit (allGrants (postEntry s3 l.queue e)) l.queue

/-- A held launch's threads have all been written back, or a cancelled launch's stopped: BUSY clears (R369). -/
def settleLaunch (s : State) (num : Nat) : State :=
  if launchHeld s num then s
  else
    let s1 := s.modLaunch num (fun l => if l.phase = .holding then { l with phase := .held } else l)
    if s1.sch.preemptBusy = some num then (s1.modSch (fun x => { x with preemptBusy := none })).setReg0 0x20 0 else s1

/-- Once its last record has stopped, a launch posts DONE (R68, R369). -/
def execLaunchDone (launch : Nat) (s : State) : Host.Outcome State Fault Refusal :=
  let s1 := settleLaunch s launch
  match s1.findLaunch launch with
  | none => .next s1
  | some l =>
    match endStatus s1 l with
    | some st => .next (finishLaunch s1 l st)
    | none => .next s1

/-! Pre-emption and cancel (R43, R45, R52, R369, R442). -/

/-- BUSY of `FE_PREEMPT` for a request on a launch. -/
def setBusy (s : State) (num : Nat) : State := (s.modSch (fun c => { c with preemptBusy := some num })).setReg0 0x20 (BitVec.ofNat 64 (2 ^ 31))

/-- A member blocked at the `bar` of an instance that is not complete is withdrawn and written back with PC at the `bar`
(R45). -/
def withdrawMember (s : State) (n : Nat) : State :=
  let t := s.getT n
  match t.i.blocked, t.rcd with
  | some (.bar level inst map), some r =>
    match s.findLaunch r.w.launch with
    | none => s
    | some l =>
      if !t.preempt || barFull l level inst then s
      else asThread (withdraw s r.w.launch level inst r.w.task) n (fun x =>
        match (do let (v, y) ← liveMap x map; writeBack y v map x.thr.pc 0 : Chk State) with
        | .ok y => y
        | .error (.cond c _) => parkCore x c x.thr.pc false false
        | .error (.wait _) => x)
  | _, _ => s

/-- The members of a held gang that wait at a barrier. -/
def withdrawAll (s : State) (num : Nat) : State := (s.holders.filter (fun n => thLaunch (s.getT n) == num)).foldl withdrawMember s

/-- A request on another launch is in progress. -/
def busyElse (s : State) (num : Nat) : Bool := s.sch.preemptBusy.isSome && s.sch.preemptBusy != some num

/-- Pre-empt and hold (R369): every thread of the launch is marked, and an `mxrot` of it that waits for a latch ends (R460). While another request is in progress, or the launch
ends, nothing is done; a launch not yet dispatched is held after that, and the request is in progress till then. -/
def execPreemptHold (launch : Nat) (s : State) : Host.Outcome State Fault Refusal :=
  match s.findLaunch launch with
  | none => .next s
  | some l =>
    match l.phase with
    | .holding => .next ((withdrawAll s launch).after Config.grantTime (.launchDone launch))
    | .admitted => .next (if busyElse s launch then s else (setBusy s launch).after Config.grantTime (.preemptHold launch))
    | .placing | .reserved =>
      .next (if busyElse s launch then s
        else settleLaunch (allGrants (s.modLaunch launch (fun x => { x with phase := .held, place := if x.phase = .reserved then none else x.place }))) launch)
    | .running =>
      if busyElse s launch then .next s
      else
        let s1 := setBusy (s.modLaunch launch (fun x => { x with phase := .holding })) launch
        let s2 := (s1.holders.filter (fun n => thLaunch (s1.getT n) == launch)).foldl (fun x n => x.modT n (fun t => { t with preempt := true })) s1
        .next ((withdrawAll (quitRots (launchRids s2 launch) s2) launch).after Config.grantTime (.launchDone launch))
    | _ => .next s

/-- A bound record of a released launch goes to its thread, unless the core is parked (R37, R43). -/
def unhold (s : State) (r : Rec) : State :=
  match r.w.bound with
  | some n => if parkedRest s r then s else (s.modRec r.id (fun x => x.change (fun y => { y with w := { y.w with runnable := true }, place := .granted n, runSince := s.count }))).after Config.grantTime (.pickup n)
  | none => s

/-- The records of a held launch become runnable again; its gang is placed again whole (R43, R369). -/
def releaseLaunch (s : State) (l : Launch) : State :=
  if l.isGang then
    ((s.modLaunch l.num (fun x => { x with phase := .placing, since := s.count })).after Config.grantTime (.gangPlace l.num)).after agingTime (.gangReserve l.num)
  else
    let s1 := s.modLaunch l.num (fun x => { x with phase := .running })
    let s2 := (s1.sch.recs.filter (fun r => r.w.launch == l.num && r.place == .rest && r.w.fullf)).foldl unhold s1
    let ths := s2.sch.recs.filterMap (fun r => match r.place with | .granted n => some n | .slot c _ => some (c * 4) | _ => none)
    let s3 := ths.foldl (fun x n => (x.after Config.grantTime (.pickup n)).after Config.grantTime (.shadowFill (thCore n))) s2
    (allGrants s3).after Config.grantTime (.launchDone l.num)

/-- A held launch is released (R369). One that bivouac is still stopping is released once it has stopped (R485). -/
def execPreemptRelease (launch : Nat) (s : State) : Host.Outcome State Fault Refusal :=
  match s.findLaunch launch with
  | none => .next s
  | some l =>
    if l.phase = .holding ∧ s.sch.preemptBusy = none then .next (s.after Config.fabricTime (.preemptRelease launch))
    else if l.phase != .held || s.sch.preemptBusy.isSome then .next s
    else .next (releaseLaunch s l)

/-- A launch is cancelled through `FE_PREEMPT` (R369). -/
def execLaunchCancel (launch : Nat) (s : State) : Host.Outcome State Fault Refusal :=
  match s.findLaunch launch with
  | none => .next s
  | some _ => .next (if s.sch.preemptBusy.isSome then s else endLaunch (setBusy s launch) launch 7)

/-! TLB invalidation (R130, R371). -/

def startTlbi (s : State) (hit : TlbEntry → Bool) : State :=
  if s.sch.tlbiBusy then s
  else
    let s1 := s.modM (fun m => { m with tlb := m.tlb.filter (fun e => !hit e) })
    ((s1.modSch (fun c => { c with tlbiBusy := true })).setReg0 0x18 (BitVec.ofNat 64 (2 ^ 63))).after Config.seamTime .tlbiDone

/-- The translations of one page of a partition (R371). -/
def execTlbiPage (part : Nat) (va : BitVec 40) (s : State) : Host.Outcome State Fault Refusal :=
  .next (startTlbi s (fun e => e.part == part && va.toNat * 2 ^ 16 / 2 ^ e.bits == e.vpage))

/-- Every translation of a partition (R371). -/
def execTlbiPartition (part : Nat) (s : State) : Host.Outcome State Fault Refusal := .next (startTlbi s (fun e => e.part == part))

/-- A commit or a versioned read holds the place of its descriptor, translated at its issue. -/
def translated (o : Op) : Bool :=
  match o.k with
  | .commit _ _ _ _ _ _ _ _ _ none => true
  | .tread _ _ _ _ _ _ _ _ none => true
  | _ => false

/-- The invalidation completes once every access that used an old translation has performed (R130). -/
def execTlbiDone (s : State) : Host.Outcome State Fault Refusal :=
  if !s.sch.tlbiBusy then .next s
  else
    let s1 := (s.cores.map (·.1)).foldl drainAll s
    if s1.holders.any (fun n => !(s1.getT n).i.replies.isEmpty) || s1.plat.ports.any (fun p => !p.2.waiting.isEmpty) ||
        s1.cores.any (fun c => !c.2.posted.isEmpty) || s1.sch.ops.any translated then .next (s1.after Config.fabricTime .tlbiDone)
    else .next ((s1.modSch (fun c => { c with tlbiBusy := false })).setReg0 0x18 0)

/-! Ownership (R370). -/

/-- A cluster holds a record or a gang member: on its threads, in its slots, on its way to them, or bound to them, with a full
frame or without one (R37, R436, R505). -/
def cluHolds (s : State) (k : Nat) : Bool :=
  s.holders.any (fun n => thClu n == k) ||
    s.sch.recs.any (fun r => match r.place with | .slot c _ => c / 8 == k | .granted n => thClu n == k | _ => match r.w.bound with | some n => thClu n == k | none => false)

/-- Firmware sets a cluster's owner, only while it holds no record (R370); an `mxrot` that waits there for a latch ends (R460). That every
partition owns at least two clusters, in strict isolation whole ropes, is the firmware's duty (R22): the write takes effect
whatever it leaves a partition with (log 64). -/
def execPartCluWrite (die clu : Nat) (value : BitVec 64) (s : State) : Host.Outcome State Fault Refusal :=
  let k := die * 16 + clu
  if 8 ≤ die ∨ 16 ≤ clu ∨ cluHolds s k = true then .next s
  else .next (retryGangs (allGrants (opens (if (rotWaits s k).isSome then quitJob s k else s) k (fun x => x.setReg0 (dieOff die + clu * 8) (value &&& 0xBF)))))

end Sys2Proof.Machine
end

