-- ==== Sys2Proof/Machine/Losses.lean ====
section
/-! DEFINITION. Lost ropes, cores and dies, and the interrupt of `DIE_STAT` (R471-R477). -/
namespace Sys2Proof.Machine
open Sys2Proof

/-! State changes that the host can see (R469, R475). -/

/-- The interrupt of a die's `DIE_STAT`, if it is enabled. -/
def dieIrq (s : State) (d : Nat) : State :=
  let w := s.reg0 (dieOff d + 0xB00)
  if w.getLsbD 27 then s.irq (fld w 26 16) else s

/-- A change of STATE, and of CAUSE where one is given. -/
def setDie (s : State) (d st : Nat) (cause : Option Nat) : State :=
  let w := s.reg0 (dieOff d + 0xB00)
  let w1 := putFld w 1 0 st
  let w2 := match cause with | some c => putFld w1 11 8 c | none => w1
  let s1 := s.setReg0 (dieOff d + 0xB00) w2
  if fld w 1 0 = st then s1 else dieIrq s1 d

/-- A change of `ROPE_FLT` STATE. -/
def setRopeState (s : State) (r st : Nat) : State :=
  let o := ropeOff r + 0x30
  let w := s.reg0 o
  let s1 := s.setReg0 o (putFld w 1 0 st)
  if fld w 1 0 = st then s1 else dieIrq s1 (r / 4)

/-- The supervisor message of a lost rope: code 0x74, the rope as detail, bytes 2 to 5 zero (R471). -/
def ropeMsg (r : Nat) : Nat := 0x74 + r * 2 ^ 128

/-! Lost cores (R473). -/

/-- A record is caught: its BOUND, its shadow slot or the thread that it was granted to is of a lost core. -/
def caughtBy (s : State) (r : Rec) : Bool :=
  (match r.place with
   | .slot c _ => (s.core c).lost
   | .granted n => (s.core (thCore n)).lost
   | _ => false) ||
  (match r.w.bound with | some n => (s.core (thCore n)).lost | none => false)

/-- A record that a thread of a lost core holds is dropped. -/
def loseHeld (s : State) (n : Nat) : State :=
  match (s.getT n).rcd with
  | none => s
  | some r => dropAndReplace s r (fun x => asThread x n dropHeld)

/-- A record at rest is dropped if it still exists. -/
def loseRest (s : State) (id : Nat) : State :=
  match s.sch.recs.find? (fun r => r.id == id) with
  | none => s
  | some r => dropAndReplace s r (fun x => dropRest x r)

/-- A core has no buffered stores, no L1, no park and no thread any more; what it had posted is on its way. -/
def coreGone (s : State) (c : Nat) : State :=
  (s.setCore c { s.core c with buf := [], parked := none, parkLaunch := none, message := none, lost := true }).modM
    (fun m => { m with l1 := m.l1.filter (fun x => x.core != c) })

/-- What is left of the thread: nothing, its receive queue included (R471). -/
def threadGone (s : State) (n : Nat) : State := s.setT n Thread.reset

/-- An operation in flight for which a cluster or a thread was lost completes with the condition of that loss (R472, R477). -/
def failOp (c : Cond) (s : State) (id : Nat) : State :=
  match s.findOp id with
  | none => s
  | some o => completeHandle (s.dropOp id) id o.rcd (.done 0 (some c) (some o.scope) false)

/-- What lost cores had at a matrix engine that survives is lost: its jobs, and the commands that wait at its port, which the next ones no
longer wait for (R323, R473). -/
def dropJobs (ids : List Nat) (s : State) (k : Nat) : State :=
  let q := s.clu k
  let kept (j : MxJob) : Bool := !ids.contains j.op
  let s1 := s.setClu k { q with jobs := q.jobs.take 1 ++ (q.jobs.drop 1).filter kept, waitingCmds := q.waitingCmds.filter (fun i => !ids.contains i) }
  retryCmds (if (q.jobs.head?).any (fun j => !kept j) then quitJob s1 k else s1) k

/-- The cores become lost: what they hold is dropped, what they issued is lost (R473). -/
def loseCores (s : State) (cores : List Nat) : State :=
  let s1 := cores.foldl coreGone s
  let ths := (cores.map (fun c => (List.range 4).map (fun i => c * 4 + i))).flatten
  let ids := (s1.sch.ops.filter (fun o => ths.contains o.th)).map (fun o => o.id)
  let s2 := (s1.clus.map (fun c => c.1)).foldl (dropJobs ids) (s1.modSch (fun c => { c with ops := c.ops.filter (fun o => !ths.contains o.th) }))
  let s3 := (s2.holders.filter (fun n => ths.contains n)).foldl loseHeld s2
  let s4 := ((s3.sch.recs.filter (caughtBy s3)).map (·.id)).foldl loseRest s3
  ths.foldl threadGone s4

/-- A gang that waits and can no longer fit ends with status 8; a reservation on lost cores is given up (R472). -/
def dropGangs (s : State) : State :=
  (s.sch.launches.filter (fun l => l.phase == .placing || l.phase == .reserved)).foldl (fun x l =>
    if !everFits x l then endLaunch x l.num 8
    else match l.place with
      | some p => if l.phase == .reserved && p.threads.any (fun n => (x.core (thCore n)).lost) then x.modLaunch l.num (fun y => { y with phase := .placing, place := none }) else x
      | none => x) s

/-! Lost ropes (R471, R472). -/

def ropeClus (r : Nat) : List Nat := (List.range 4).map (fun j => r * 4 + j)
def ropeCores (r : Nat) : List Nat := (List.range 32).map (fun j => r * 32 + j)

/-- The commands queued at a cluster, and those that wait for it. -/
def cluOps (s : State) (k : Nat) : List Nat := (s.clu k).jobs.map (·.op) ++ (s.clu k).waitingCmds

/-- A key of a local store, buffer, accumulator, latch, register file or job queue of a cluster. -/
def keyOfClu (k key : Nat) : Bool :=
  let sp := key / 2 ^ 64
  let a := key % 2 ^ 64
  (sp == 2 && a / 0x200000 == k) || ((sp == 3 || sp == 4) && a / 0x200000 == k) || (sp == 5 && a / 0x100000 == k) ||
    (sp == 6 && a / 0x10000 == k) || ((sp == 7 || sp == 8) && a / 0x8000 == k) || (sp == 14 && a / 0x80000 == k) || (sp == 15 && a / 0x400 == k)

/-- The memories of a cluster cease to exist. -/
def memGone (s : State) (k : Nat) : State :=
  s.modM (fun m => { m with
    cells := m.cells.filter (fun c => !keyOfClu k c.1), empty := m.empty.filter (fun w => !keyOfClu k w), poison := m.poison.filter (fun u => !keyOfClu k u.1)
    tlb := m.tlb.filter (fun e => e.clu != k) })

/-- A cluster ceases to exist: commands from elsewhere fail, its queue, latch and memories are gone. -/
def cluGone (s : State) (k : Nat) : State :=
  let ids := cluOps s k
  let s1 := ids.foldl (failOp (lostClu s k)) s
  memGone (s1.setClu k { CluSt.reset with pattern := (s1.clu k).pattern, patFrom := (s1.clu k).patFrom, keptBase := (s1.clu k).keptBase }) k

/-- Messages on their way to threads of a cluster fail. -/
def msgsGone (s : State) (k : Nat) : State :=
  let ids := (s.sch.ops.filter (fun o => match o.k with | .msg dest _ _ => dest / 4096 == s.device && thClu (dest % 4096) == k | _ => false)).map (·.id)
  ids.foldl (failOp (lostClu s k)) s

/-- A clamped rope becomes LOST: its cores are lost, its clusters cease to exist, the supervisor hears of it (R471). -/
def loseRope (s : State) (r : Nat) : State :=
  let s1 := setRopeState s r 2
  let s2 := loseCores s1 (ropeCores r)
  let s3 := (ropeClus r).foldl (fun x k => msgsGone (cluGone x k) k) s2
  (dropGangs (wakeQueue (allGrants s3))).mailTo (r / 4) (ropeMsg r)

/-! Lost dies (R474-R477). -/

/-- The dies that the launch's indices can go to, after a loss. -/
def giveBack (d : Nat) (s : State) (l : Launch) : State :=
  let mine := l.ranges.filter (fun x => x.1 == d)
  let others := l.ranges.filter (fun x => x.1 != d)
  let new := (mine.map (fun x => rangesOf s l.part (x.2.2 - x.2.1) x.2.1)).flatten
  if mine.isEmpty then s else s.modLaunch l.num (fun y => { y with ranges := others ++ new })

/-- A record that waited in the lost die, or would return to it, goes to another die of its partition; a thief, which runs on no
other die, is dropped (R99, log 26). -/
def rehome (d : Nat) (s : State) (r : Rec) : State :=
  if r.die ≠ d then s
  else if r.w.thief then dropRest s r
  else
    let e := (freestDie s r.w.part none).getD d
    s.modRec r.id (fun x => { x with die := e, place := match x.place with | .queue _ => .queue e | p => p })

/-- A thread elsewhere whose record touched the die takes 0x72 at its next instruction boundary (R476). -/
def tellThread (d : Nat) (s : State) (n : Nat) : State :=
  s.modT n (fun t => { t with i := { t.i with later := insLater s.clock { code := 0x72, detail := BitVec.ofNat 64 d, flags := 4 } t.i.later } })

/-- A record at rest that touched the die takes 0x72 at its next pickup (R476). -/
def tellRec (d : Nat) (s : State) (r : Rec) : State :=
  if r.w.dies.testBit d then tellRecord s r.id s.clock { code := 0x72, detail := BitVec.ofNat 64 d, flags := 0 } else s

def touched (s : State) (d n : Nat) : Bool := match (s.getT n).rcd with | some r => r.w.dies.testBit d | none => false

/-- The L3 drops the clean lines homed on a die and poisons the dirty ones (R476, step 1). -/
def homeGone (d : Nat) (m : Mem) (x : L3Line) : Mem :=
  if !inHbm (x.line * 128) || homeDie (x.line * 128) != d then m
  else if x.dirty = 0 then l3Evict m x
  else (lineSectors x.line).foldl (fun y k => y.spoil k (13 * 2 ^ 56 + x.line * 128)) m

/-- Everything of the die itself that held copies of memory is gone: its L2, its clusters' TLBs, its pinned lines. A pin at the L3
of a line homed on the die stays with the L3, which is not lost: that is the model's reading of "loss of its die" (R128, log 65). -/
def dieMemGone (s : State) (d : Nat) : State :=
  (s.modM (fun m => m.l3.foldl (homeGone d) m)).modM (fun m => { m with
    l2 := m.l2.filter (fun x => x.die != d), tlb := m.tlb.filter (fun e => e.clu / 16 != d)
    pins := m.pins.filter (fun p => p.l3 || p.die != d) })

/-- Virtual die d becomes LOST (R476, in its order). -/
def loseDie (s : State) (d cause : Nat) : State :=
  let s0 : State := { s with plat := { s.plat with physBad := if cause = 7 then s.plat.physBad else s.plat.physBad ++ [s.plat.dieMap.toList.getD d 8] } }
  let s1 := setDie s0 d 3 (some cause)
  let s2 := loseCores (dieMemGone s1 d) ((List.range 128).map (fun c => d * 128 + c))
  let s3 := ((List.range 16).map (fun k => d * 16 + k)).foldl (fun x k => msgsGone (cluGone x k) k) s2
  let s4 := (s3.holders.filter (touched s3 d)).foldl (tellThread d) s3
  let s5 := s4.sch.recs.foldl (tellRec d) s4
  let s6 := s5.sch.launches.foldl (giveBack d) s5
  let s7 := s6.sch.recs.foldl (rehome d) s6
  let s8 := s7.modSch (fun c => { c with filters := c.filters.filter (fun f => f.die != d), rings := c.rings.filter (fun x => x.die != d) })
  dropGangs (wakeQueue (allGrants s8))

/-- The front end declares a compute die lost (R474). A loss is for good until the next power-up; one
during bivouac takes effect at REPLAY (R485). -/
def execDieLost (die cause : Nat) (s : State) : Host.Outcome State Fault Refusal :=
  if 8 ≤ die ∨ s.dieState die = 3 then .next s
  else if 3 ≤ s.bivState ∧ s.bivState ≤ 7 then .next { s with plat := { s.plat with bivLost := s.plat.bivLost ++ [(die, cause)] } }
  else .next (loseDie s die cause)

end Sys2Proof.Machine
end

