-- ==== Sys2Proof/Machine/Power.lean ====
section
/-! DEFINITION. Ropes, clocks and power: effective patterns, rope policies, write-assist, clamps, the module cap, floors,
HBM thermal protection (R372-R389, R469-R471). -/
namespace Sys2Proof.Machine
open Sys2Proof

/-! The effective pattern (R380). -/

/-- Slot i is kept iff floor((i+1) × n / 16) > floor(i × n / 16). -/
def evenPat (n : Nat) : BitVec 16 := BitVec.ofNat 16 (packN 1 (fun i => if i * n / 16 < (i + 1) * n / 16 then 1 else 0) 16)

def onesOf (p : BitVec 16) : Nat := popN 16 p.toNat
/-- A pattern of 0 acts as 0x0001 (R377, R378, R380). -/
def atLeast1 (x : Nat) : BitVec 16 := if x = 0 then 1 else BitVec.ofNat 16 x

def thpatOf (s : State) (r : Nat) : BitVec 16 := atLeast1 (fld (s.reg0 (ropeOff r + 0x10)) 31 16)
/-- HOLD in kilocycles; 0 acts as 1 (R377). -/
def holdOf (s : State) (r : Nat) : Nat := max 1 (fld (s.reg0 (ropeOff r + 0x10)) 15 8)
def ropeStat (s : State) (r : Nat) : Word := s.reg0 (ropeOff r + 0x20)
def setStat (s : State) (r hi lo v : Nat) : State := s.setReg0 (ropeOff r + 0x20) (putFld (ropeStat s r) hi lo v)
def fillOn (s : State) (r : Nat) : Bool := (ropeStat s r).getLsbD 3
def throtOn (s : State) (r : Nat) : Bool := (ropeStat s r).getLsbD 4
/-- A balancer saturated in the last kilocycle (R375). -/
def saturated (s : State) (r : Nat) : Bool := fld (s.reg0 (ropeOff r)) 38 36 != 0

/-- PATj under the cap's ceiling. -/
def cappedPat (s : State) (r j : Nat) : BitVec 16 :=
  let p := atLeast1 (fld (s.reg0 (ropeOff r + 0x18)) (16 * j + 15) (16 * j))
  if (s.rope r).ceil < onesOf p then evenPat (s.rope r).ceil else p

/-- The pattern with the fewest one bits among THPAT and the four capped ones. -/
def throtPat (s : State) (r : Nat) : BitVec 16 :=
  (List.range 4).foldl (fun q j => let p := cappedPat s r j; if onesOf p < onesOf q then p else q) (thpatOf s r)

/-- The effective pattern of a module cluster (R380, R396, R470). -/
def effPattern (s : State) (k : Nat) : BitVec 16 :=
  let r := cluRope k
  if s.ropeState r = 1 then 1
  else if s.bootState = 2 ∧ k / 16 = 0 then 0x5555
  else if throtOn s r then throtPat s r
  else cappedPat s r (k % 4)

/-- The matrix engine's steps of a cluster that are still to come, and that are counted in its effective cycles. -/
def engineStep (s : State) (k : Nat) (x : Nat × Event) : Bool :=
  decide (s.clock < x.1) &&
    (x.2 == .mxeJobDone k || x.2 == .mxeJobStart k || (x.2 == .fillerBurst k && decide (s.effOf k < (s.clu k).filler)))

/-- The effective cycles to such a step: a job's end, the start of a job that waits for the cycle after its acceptance or for the
burst's end, the next burst (R313, R382). -/
def engineAim (s : State) (k : Nat) : Event → Nat
  | .mxeJobDone _ => (s.clu k).due - s.effOf k
  | .mxeJobStart _ => max 1 ((s.clu k).filler - s.effOf k)
  | _ => (s.clu k).filler - s.effOf k

/-- The steps of a cluster's matrix engine come due by its present pattern. -/
def reaim (s : State) (k : Nat) : State :=
  (s.agenda.filter (engineStep s k)).foldl (fun x e => x.afterEff k (engineAim s k e.2) e.2)
    { s with agenda := s.agenda.filter (fun e => !engineStep s k e) }

/-- A cluster takes a pattern: its effective cycles so far stand, and what its matrix engine runs or waits for ends by the new ones
(R15, R380, R382). -/
def takePattern (s : State) (k : Nat) : State :=
  let q := s.clu k
  let p := effPattern s k
  if p = q.pattern then s
  else reaim (s.setClu k { q with keptBase := q.effAt s.clock, patFrom := s.clock, pattern := p }) k

/-- The cycles to the next 16-slot boundary (R380). -/
def toBoundary (s : State) : Nat := 16 - s.clock % 16
/-- The patterns of a die are taken again at the next boundary (R381). -/
def soon (s : State) (die : Nat) : State := s.after (toBoundary s) (.patternChange die)
def soonAll (s : State) : State := (List.range 8).foldl soon s

/-- At a boundary each cluster of the die takes its effective pattern; between boundaries nothing changes (R381). -/
def execPatternChange (die : Nat) (s : State) : Host.Outcome State Fault Refusal :=
  if s.clock % 16 ≠ 0 then .next (soon s die)
  else .next (((List.range 16).map (fun c => die * 16 + c)).foldl takePattern s)

/-! Rope policies (R375, R377, R382). -/

/-- FILL or THROT engages, as POL says. -/
def engagePolicy (s : State) (r : Nat) : State :=
  if fld (s.reg0 (ropeOff r + 0x10)) 1 0 = 1 then soon (setStat s r 4 4 1) (r / 4)
  else
    let k := r * 4 + (s.rope r).least
    let s1 := setStat (setStat s r 3 3 1) r 1 0 (s.rope r).least
    let s2 := s1.setRope r { s1.rope r with fill := 0 }
    s2.afterEff k ((s2.clu k).filler - s2.effOf k) (.fillerBurst k)

/-- FILLON and THRON become 0; a burst that runs goes on to its end. -/
def endPolicy (s : State) (r : Nat) : State := soon (setStat (setStat s r 4 4 0) r 3 3 0) (r / 4)

def policyOn (s : State) (r : Nat) : Bool := fillOn s r || throtOn s r

/-- A write to `ROPE_POL`: a reserved policy is not written to POL, the other fields are; a write to POL ends an engaged policy, and
the new one engages at once if SAT is nonzero (R377, R382). -/
def execRopePolWrite (rope : Nat) (value : BitVec 64) (s : State) : Host.Outcome State Fault Refusal :=
  if 32 ≤ rope then .next s
  else
    let on := policyOn s rope
    let keeps := 2 ≤ fld value 1 0
    let pol := if keeps then fld (s.reg0 (ropeOff rope + 0x10)) 1 0 else fld value 1 0
    let s1 := s.setReg0 (ropeOff rope + 0x10) (putFld (value &&& 0xFFFFFF00) 1 0 pol)
    if !on || keeps then .next (soon s1 (rope / 4))
    else
      let s2 := endPolicy s1 rope
      .next (if saturated s2 rope then engagePolicy s2 rope else s2)

/-- The imbalance at mid rail m of currents with prefix sum `p` and total `t` (R373): nearest, ties away from zero. -/
def imbalance (p t m : Nat) : Int :=
  let n : Int := 1000 * (4 * (p : Int) - (m + 1) * (t : Int))
  let q : Int := ((2 * n.natAbs + t) / (2 * t) : Nat)
  max (-2047) (min 2047 (if n < 0 then -q else q))

/-- The imbalances of the three mid rails. -/
def imbalances (i0 i1 i2 i3 : Nat) : List Int :=
  let t := i0 + i1 + i2 + i3
  [imbalance i0 t 0, imbalance (i0 + i1) t 1, imbalance (i0 + i1 + i2) t 2]

def satBits (l : List Int) : Nat := packN 1 (fun i => if 120 < (l.getD i 0).natAbs then 1 else 0) 3

/-- The word of `ROPE_IMB`. -/
def imbWord (cur : Nat) (l : List Int) : Word :=
  BitVec.ofNat 64 (cur % 65536 * 2 ^ 48 + satBits l * 2 ^ 36 + packN 12 (fun i => (BitVec.ofInt 12 (l.getD i 0)).toNat) 3)

/-- The position of least current, the lowest on a tie. -/
def leastOf (l : List Nat) : Nat := (List.range 4).foldl (fun b j => if l.getD j 0 < l.getD b 0 then j else b) 0

/-- The counts of R382 after a kilocycle, and the step of the policy that they make due. -/
def countSat (s : State) (r : Nat) : State :=
  let x := s.rope r
  let h := holdOf s r
  if saturated s r then
    let y : RopeSt := { x with sat := x.sat + 1, unsat := 0, fill := if fillOn s r then x.fill + 1 else 0 }
    let s1 := s.setRope r y
    if !policyOn s r then (if h ≤ y.sat then s1.after 0 (.ropePolicyEngage r) else s1)
    else if fillOn s r && !throtOn s r && decide (2 * h ≤ y.fill) then s1.after 0 (.throtEscalate r)
    else s1
  else
    let y : RopeSt := { x with sat := 0, unsat := x.unsat + 1, fill := 0 }
    let s1 := s.setRope r y
    if policyOn s r && decide (h ≤ y.unsat) then s1.after 0 (.ropePolicyDisengage r) else s1

/-- The end of a kilocycle with the currents of the four positions and of the rope's supply, in mA (R373, R375). The imbalances of
a rope that draws nothing are free values (log 10). -/
def execRopeImbRefresh (x : RopeSupply) (i0 i1 i2 i3 : Nat) (s : State) : Host.Outcome State Fault Refusal :=
  let rope := x.rope
  if 32 ≤ rope ∨ s.ropeLost rope = true then .next s
  else
    let (any, s2) := s.freeWord
    let l := if i0 + i1 + i2 + i3 = 0 then (List.range 3).map (fun m => max (-2047) (BitVec.ofNat 12 (fld any (12 * m + 11) (12 * m))).toInt) else imbalances i0 i1 i2 i3
    let s3 := s2.setReg0 (ropeOff rope) (imbWord x.cur l)
    .next (countSat (s3.setRope rope { s3.rope rope with least := leastOf [i0, i1, i2, i3] }) rope)

/-- The count of saturated kilocycles has reached HOLD (R382). -/
def execRopePolicyEngage (rope : Nat) (s : State) : Host.Outcome State Fault Refusal :=
  if policyOn s rope || decide ((s.rope rope).sat < holdOf s rope) then .next s else .next (engagePolicy s rope)

/-- FILL has been saturated for a further 2 × HOLD kilocycles (R382). -/
def execThrotEscalate (rope : Nat) (s : State) : Host.Outcome State Fault Refusal :=
  if fillOn s rope && !throtOn s rope && decide (2 * holdOf s rope ≤ (s.rope rope).fill) then .next (soon (setStat s rope 4 4 1) (rope / 4))
  else .next s

/-- SAT has been zero for HOLD kilocycles (R382). -/
def execRopePolicyDisengage (rope : Nat) (s : State) : Host.Outcome State Fault Refusal :=
  if policyOn s rope && decide (holdOf s rope ≤ (s.rope rope).unsat) then .next (endPolicy s rope) else .next s

/-! Step voltages (R376, R384, R470). -/

/-- The fault that a sample shows: 1 below 620 mV, 2 above 1,100 mV (R469). -/
def sampleCause (l : List Nat) : Nat := if l.any (fun v => decide (v < 620)) then 1 else if l.any (fun v => decide (1100 < v)) then 2 else 0

/-- Every step lies from 700 to 900 mV (R470). -/
def inRange (l : List Nat) : Bool := l.all (fun v => decide (700 ≤ v) && decide (v ≤ 900))

/-- A sample below 700 mV or above 730 mV makes a change of write-assist mode due at the next boundary; one between leaves what is
due (R384). -/
def assistSample (rope : Nat) (l : List Nat) (s : State) (j : Nat) : State :=
  let k := rope * 4 + j
  let v := l.getD j 0
  if v < 700 then s.setClu k { s.clu k with assistDue := some true }
  else if 730 < v then s.setClu k { s.clu k with assistDue := some false }
  else s

/-- The comparators sample the steps, in mV (R376, R384, R470). -/
def execRailSample (rope v0 v1 v2 v3 : Nat) (s : State) : Host.Outcome State Fault Refusal :=
  if 32 ≤ rope ∨ s.ropeLost rope = true then .next s
  else
    let l := [v0, v1, v2, v3]
    let x := s.rope rope
    let c := sampleCause l
    let s1 := s.setReg0 (ropeOff rope + 8) (BitVec.ofNat 64 (packN 16 (fun j => l.getD j 0 % 65536) 4))
    let good := if inRange l then some (x.goodAt.getD s.count) else none
    let s2 := s1.setRope rope { x with cause := c, goodAt := good }
    let s3 := ((List.range 4).foldl (assistSample rope l) s2).after (toBoundary s2) (.writeAssistChange rope)
    .next (if s.ropeState rope = 0 then (if c ≠ 0 ∧ c = x.cause then s3.after 0 (.ropeClamp rope c) else s3)
      else match good with
        | some g => if g + 16 * 1024 ≤ s.count then s3.after 0 (.ropeUnclamp rope) else s3
        | none => s3)

/-- A position enters or leaves write-assist mode, as its samples since the last boundary have it (R384). -/
def assistOne (rope : Nat) (s : State) (j : Nat) : State :=
  let k := rope * 4 + j
  match (s.clu k).assistDue with
  | none => s
  | some b => setStat (s.setClu k { s.clu k with assist := b, assistDue := none }) rope (12 + j) (12 + j) (if b then 1 else 0)

/-- The first boundary after a sample that crosses 700 or 730 mV (R384). -/
def execWriteAssistChange (rope : Nat) (s : State) : Host.Outcome State Fault Refusal :=
  if s.clock % 16 ≠ 0 then .next (s.after (toBoundary s) (.writeAssistChange rope))
  else .next ((List.range 4).foldl (assistOne rope) s)

/-! Clamps and lost ropes (R469-R471). -/

/-- The time after which a clamped rope is lost. -/
def clampTime : Nat := 64 * 1024

/-- A fault of a rope: it enters CLAMPED; overcurrent a second time within one clamp loses it (R470, R471). -/
def execRopeClamp (rope cause : Nat) (s : State) : Host.Outcome State Fault Refusal :=
  let x := s.rope rope
  let o := ropeOff rope + 0x30
  if 32 ≤ rope ∨ cause = 0 ∨ 4 < cause ∨ s.ropeLost rope = true then .next s
  else if s.ropeState rope = 0 then
    let w := putFld (putFld (s.reg0 o) 11 8 cause) 63 48 (min 65535 (fld (s.reg0 o) 63 48 + 1))
    let s1 := setRopeState (s.setReg0 o w) rope 1
    let s2 := s1.setRope rope { x with clampAt := s.count, goodAt := none, overs := if cause = 4 then 1 else 0 }
    .next ((soon s2 (rope / 4)).after clampTime (.ropeLost rope))
  else if cause = 4 then
    let s1 := s.setRope rope { x with overs := x.overs + 1 }
    .next (if 1 ≤ x.overs then s1.after 0 (.ropeLost rope) else s1)
  else .next s

/-- Every step has stayed in range for 16 kilocycles: the clamp lifts (R470). -/
def execRopeUnclamp (rope : Nat) (s : State) : Host.Outcome State Fault Refusal :=
  match s.ropeState rope, (s.rope rope).goodAt with
  | 1, some g => if g + 16 * 1024 ≤ s.count then .next (allGrants (soon (setRopeState s rope 0) (rope / 4))) else .next s
  | _, _ => .next s

/-- A rope clamped for 64 kilocycles, or that met overcurrent twice, is lost (R471); one whose kilocycles stood still meanwhile is
tested again when they are over. -/
def execRopeLost (rope : Nat) (s : State) : Host.Outcome State Fault Refusal :=
  let x := s.rope rope
  if s.ropeState rope ≠ 1 then .next s
  else if 2 ≤ x.overs ∨ x.clampAt + clampTime ≤ s.count then .next (loseRope s rope)
  else if s.agenda.any (fun e => e.2 == .ropeLost rope) then .next s
  else .next (s.after (x.clampAt + clampTime - s.count) (.ropeLost rope))

/-! Budgets and the module cap (R385, R386). -/

/-- The hottest sensor of a rope, in °C (R385). -/
def execRopeHotChange (rope temp : Nat) (s : State) : Host.Outcome State Fault Refusal :=
  let lim := fld (s.reg0 (ropeOff rope + 0x28)) 47 40
  if lim ≤ temp then .next (setStat s rope 6 6 1)
  else if temp + 2 < lim then .next (allGrants (setStat s rope 6 6 0))
  else .next s

/-- The mean power of a rope over the last 64 kilocycles, in units of 0.1 W (R385). -/
def execRopeOvbChange (rope power : Nat) (s : State) : Host.Outcome State Fault Refusal :=
  let lim := fld (s.reg0 (ropeOff rope + 0x28)) 15 0
  if lim ≠ 0 ∧ lim < power then .next (setStat s rope 5 5 1)
  else if lim = 0 ∨ 100 * power < 95 * lim then .next (allGrants (setStat s rope 5 5 0))
  else .next s

/-- The module limit in watts (R23). -/
def moduleLimit : Nat := 2800

/-- A rope's ceiling falls or rises by 1. -/
def capOne (lower : Bool) (s : State) (r : Nat) : State :=
  let x := s.rope r
  let n := if lower then max 1 (x.ceil - 1) else min 16 (x.ceil + 1)
  let s1 := s.setRope r { x with ceil := n }
  if lower then setStat s1 r 7 7 1 else if n = 16 then setStat s1 r 7 7 0 else s1

/-- The mean input power of a 1 ms interval, in watts (R386). -/
def execModuleCapInterval (watts : Nat) (s : State) : Host.Outcome State Fault Refusal :=
  let f := fld (s.reg0 8) 15 0
  let lim := if f = 0 then moduleLimit else f
  if lim < watts then .next (soonAll ((List.range 32).foldl (capOne true) s))
  else if 100 * watts < 95 * lim then .next (soonAll ((List.range 32).foldl (capOne false) s))
  else .next s

/-! Floors (R387). -/

/-- Cluster-cycles owed in each kilocycle. -/
def floorOwed (s : State) (l : Launch) : Nat := fld (s.reg0 (floorOff l)) 15 0 * 1024 / 170

/-- A record of the launch has waited as runnable since `start`. -/
def waitedAll (s : State) (num start : Nat) : Bool := s.sch.recs.any (fun r => r.w.launch == num && r.w.runnable && decide (r.runSince ≤ start))

/-- The end of a kilocycle of a launch with a floor (R387). -/
def execFloorAccount (launch : Nat) (s : State) : Host.Outcome State Fault Refusal :=
  match s.findLaunch launch with
  | none => .next s
  | some l =>
    if countStops s.bivState then .next (s.after 1024 (.floorAccount launch))
    else
    let owed := floorOwed s l
    let more := if l.got < owed ∧ waitedAll s launch (s.count - 1024) = true then owed - l.got else 0
    .next ((s.modLaunch launch (fun x => { x with short := x.short + more, got := 0 })).after (1024 - s.count % 1024) (.floorAccount launch))

/-! HBM (R388). -/

/-- The hottest die of a stack, in °C (R388). -/
def execHbmThermalChange (die stack temp : Nat) (s : State) : Host.Outcome State Fault Refusal :=
  if 8 ≤ die ∨ 2 ≤ stack then .next s
  else
    let o := dieOff die + 0x600 + 8 * stack
    let w := putFld (s.reg0 o) 63 56 temp
    .next (s.setReg0 o (if 95 ≤ temp then putFld w 1 0 3 else if temp < 90 then putFld w 1 0 0 else w))

end Sys2Proof.Machine
end

