-- ==== Sys2Proof/Machine/Errors.lean ====
section
/-! DEFINITION. Memory errors, retirement, errors of the control complexes, trips (R464-R468, R478, R479, R487). -/
namespace Sys2Proof.Machine
open Sys2Proof

/-! The registers of a die, or of the cache die, which is number 8 (R466). -/

def eccOff (d : Nat) : Nat := (if d < 8 then dieOff d else 0x48000) + 0xA00
def cntOff (d a : Nat) : Nat := eccOff d + 8 + 8 * a
/-- RTHR; 0 acts as 1. -/
def rthrOf (s : State) (d : Nat) : Nat := max 1 (fld (s.reg0 (eccOff d)) 15 8)

/-- Master-clock cycles of a millisecond (R15). -/
def millisecond : Nat := 1700000
/-- The window length (R467). -/
def windowLen (s : State) (d : Nat) : Nat := 2 ^ fld (s.reg0 (eccOff d)) 3 0 * millisecond

/-- Count one more in a field of `ECC_CNT`, saturating. -/
def bump (s : State) (d a hi lo : Nat) : State :=
  let w := s.reg0 (cntOff d a)
  s.setReg0 (cntOff d a) (putFld w hi lo (min (2 ^ (hi + 1 - lo) - 1) (fld w hi lo + 1)))

def countCor (s : State) (d a : Nat) : State := bump s d a 23 0
def countUnc (s : State) (d a : Nat) : State := bump s d a 47 32
def countRet (s : State) (d a : Nat) : State := bump s d a 63 48

/-- The stack of its home die that holds a byte of HBM (R110). -/
def stackOfMa (a : Nat) : Nat := canonMa a % dieBytes / 256 % 2

/-- The instance of a unit: for the register files the module core, for the L3 the slice and for the HBM the stack of the module
address (R110, R123, R465). -/
def instOf (d a inst off : Nat) : Nat := if a = 0 then d * 128 + inst else if a = 12 then l3Slice off else if a = 13 then stackOfMa off else inst

/-- The detail of 0x71 (R465). -/
def detailOf (d a inst off : Nat) : Nat := a * 2 ^ 56 + instOf d a inst off % 65536 * 2 ^ 40 + off % 2 ^ 40

/-! Units. -/

/-- The line in the way of an L1, or of a slice of an L2, at an offset, and the sector there. The layout is the model's: set, way,
sector; the ways of a set are its lines in the order in which they were filled (log 27). -/
def l1Way (s : State) (core off : Nat) : Option Nat :=
  ((l1Lines s.mem (fun x => x.core == core && l1Set x.addr == off / 512 % 128)).eraseDups)[off / 128 % 4]?
def l2Way (s : State) (d inst off : Nat) : Option Nat :=
  ((l2Lines s.mem (fun x => x.die == d && l2Slice x.addr == inst && l2Set x.addr == off / 2048 % 1024)).eraseDups)[off / 128 % 16]?

/-- The translation in an entry of a cluster's TLB: the layout is the model's, in the order of filling (log 27). -/
def tlbUnit (s : State) (clu off : Nat) : Option TlbEntry := (s.mem.tlb.filter (fun e => e.clu == clu))[off / 16 % 256]?
def tlbDrop (s : State) (e : Option TlbEntry) : State := match e with | some x => s.modM (fun m => { m with tlb := m.tlb.erase x }) | none => s

def l2Unit (s : State) (d inst off : Nat) : Option Sector := (l2Way s d inst off).bind (fun l => l2Find s d (l * 128 + off / 16 % 8 * 16))

/-- The line of the L3 that holds a module address, and whether the sector there is dirty. -/
def l3Unit (s : State) (off : Nat) : Option L3Line := s.mem.l3.find? (fun x => x.line == off / 128)
def l3Dirty (s : State) (off : Nat) : Bool := match l3Unit s off with | some x => x.dirty.getLsbD (off / 16 % 8) | none => false

/-- The key of a unit of a register file, a local store, a buffer, a latch, a job queue, the L3 or the HBM. For L3 and HBM the offset
is the module address of the unit (log 27); the layouts of a register file and of a job queue, whose entries lie behind the latch, are
the model's (log 75). -/
def unitKey (d a inst off : Nat) : Option Nat :=
  let o := off / 16 * 16
  let k := d * 16 + inst
  if a = 0 then
    (if off % 0x4000 < 0x200 ∨ (0x300 ≤ off % 0x4000 ∧ off % 0x4000 < 0x2300) then some (regFileKey (d * 128 + inst) (o % 0x10000)) else none)
  else if a = 2 then some (lsKey (d * 128 + inst) (o % 0x40000))
  else if a = 3 then some (wbKey k (o % 0x200000))
  else if a = 4 then some (abKey k (o % 0x200000))
  else if a = 5 then some (acbKey k (o % 0x100000))
  else if a = 6 then some (mdmKey k (o % 0x10000))
  else if a = 9 ∧ off < 0x8000 then some (latchKey k o)
  else if a = 9 ∧ off < 0x8200 then some (jobKey k ((off - 0x8000) / 16))
  else if a = 12 ∨ a = 13 then some (maKey o)
  else none

/-- A clean copy, which is refetched from below: every L1 line and translation; a clean sector of the L2 or of the L3 (R464). -/
def cleanUnit (s : State) (d a inst off : Nat) : Bool :=
  a == 1 || a == 7 || (a == 12 && !l3Dirty s off) || (a == 8 && (match l2Unit s d inst off with | some x => !x.dirty | none => true))

/-- The clean copy is invalidated. A sector of the L3 is refetched at once, and so stands. -/
def dropClean (s : State) (d a inst off : Nat) : State :=
  if a = 8 then
    match l2Unit s d inst off with
    | some x => s.modM (fun m => { m with l2 := m.l2.erase x })
    | none => s
  else if a = 7 then tlbDrop s (tlbUnit s (d * 16 + inst) off)
  else if a = 1 then
    match l1Way s (d * 128 + inst) off with
    | some l => s.modM (fun m => { m with l1 := m.l1.filter (fun x => !(x.core == d * 128 + inst && x.addr == l * 128 + off / 16 % 8 * 16)) })
    | none => s
  else s

/-- A unit holds no value any more (R464). A sector of HBM of which the L3 holds a dirty copy is written over by that copy; a clean
copy leaves first. -/
def poisonUnit (s : State) (d a inst off : Nat) : State :=
  let det := detailOf d a inst off
  if a = 8 then
    match l2Unit s d inst off with
    | some x => s.modM (fun m => { m with l2 := m.l2.map (fun y => if y = x then { y with bad := some det } else y) })
    | none => s
  else if a = 13 ∧ l3Dirty s off = true then s
  else
    let s1 := match a, l3Unit s off with | 13, some x => s.modM (fun m => l3Evict m x) | _, _ => s
    match unitKey d a inst off with
    | some k => s1.modM (fun m => m.spoil k det)
    | none => s1

/-! Retirement (R467, R468). -/

/-- What limits the retirement of a unit: a number for the set or the instance, and how many more may go. Register files,
queues, control memories and seam buffers have no form of retirement. -/
def spareOf (s : State) (d a inst off : Nat) : Nat × Nat :=
  let line := (l2Way s d inst off).getD 0
  if a = 1 then (retKey d a inst (off / 512 % 128), 3)
  else if a = 7 then (retKey d a inst 0, 255)
  else if a = 8 then (retKey d a inst (off / 2048 % 1024), 15 - (pinsInSet s false d line).length)
  else if a = 12 then (retKey d a (l3Slice off) (l3Set off), 15 - (pinsInSet s true 0 (off / 128)).length)
  else if 2 ≤ a ∧ a ≤ 6 then (retKey d a inst 0, 32)
  else (retKey d a inst 0, 0)

/-- A cluster's TLB holds no more than it has room for: its oldest translation leaves. -/
def tlbTrim (s : State) (clu : Nat) : State :=
  let l := s.mem.tlb.filter (fun e => e.clu == clu)
  if tlbRoom s clu < l.length then tlbDrop s l.head? else s

/-- The line in a retired way, or the translation in a retired entry of a TLB, leaves its set; a pinned line takes another way, and a line that is not pinned leaves for it where
the set is full (R468). -/
def leaveWay (s : State) (d a inst off : Nat) : State :=
  if a = 1 then
    match l1Way s (d * 128 + inst) off with
    | some l => s.modM (fun m => { m with l1 := m.l1.filter (fun x => !(x.core == d * 128 + inst && x.addr / 128 == l)) })
    | none => s
  else if a = 8 then
    match l2Way s d inst off with
    | none => s
    | some l =>
      let pins := pinsInSet s false d l
      if !pins.contains l then l2Evict s d l
      else if (l2InSet s d l).length ≤ l2Ways s d l then s
      else match choose s ((l2InSet s d l).filter (fun x => !pins.contains x)) with
        | (some v, s1) => l2Evict s1 d v
        | (none, s1) => s1
  else if a = 12 then
    match l3Unit s off with
    | none => s
    | some x =>
      let pins := pinsInSet s true 0 x.line
      if !pins.contains x.line then s.modM (fun m => l3Evict m x)
      else if (l3InSet s x.line).length ≤ l3Ways s x.line then s
      else match choose s ((l3InSet s x.line).filter (fun y => !pins.contains y)) with
        | (some v, s1) => (match l3Unit s1 (v * 128) with | some y => s1.modM (fun m => l3Evict m y) | none => s1)
        | (none, s1) => s1
  else if a = 7 then tlbTrim (tlbDrop s (tlbUnit s (d * 16 + inst) off)) (d * 16 + inst)
  else s

/-- The row of an error in HBM, a local store or a buffer. -/
def rowOf (d a inst off : Nat) : Nat × Nat × Nat × Nat := (d, a, instOf d a inst off, off / 128)
def hasRows (a : Nat) : Bool := a == 13 || decide (2 ≤ a ∧ a ≤ 6)

/-- A unit whose fault lasts is retired, if that is possible, and a row once only; an HBM row is listed for the next resume. The
answer says whether the unit is done with. -/
def retire (s : State) (d a inst off : Nat) : Bool × State :=
  let (k, n) := spareOf s d a inst off
  let row := rowOf d a inst off
  let used := tabGet 0 s.plat.retired k
  let mark (x : State) : State :=
    { x with plat := { x.plat with retired := tabSet k (used + 1) x.plat.retired, rowsOut := if hasRows a then row :: x.plat.rowsOut else x.plat.rowsOut } }
  if hasRows a && s.plat.rowsOut.contains row then (true, s)
  else if a = 13 then (true, mark s)
  else if used < n then (true, leaveWay (countRet (mark s) d a) d a inst off)
  else (false, s)

/-- Track a unit's errors in the current window, up to 64 units of an instance; one whose count has reached RTHR is retired, and
what stands in its place starts at 0 (R467). -/
def track (s : State) (d a inst off : Nat) : State :=
  let same (u : EccUnit) : Bool := u.die == d && u.array == a && u.inst == inst && u.off / 16 == off / 16
  let put (x : State) (us : List EccUnit) : State := { x with plat := { x.plat with units := us } }
  let others := s.plat.units.filter (fun u => !same u)
  let n := match s.plat.units.find? same with | some u => u.n + 1 | none => 1
  if n = 1 ∧ 64 ≤ (others.filter (fun u => u.die == d && u.array == a && u.inst == inst)).length then s
  else
    let s1 := put s (others ++ [{ die := d, array := a, inst := inst, off := off, n := n }])
    if n < rthrOf s d then s1
    else
      let (gone, s2) := retire s1 d a inst off
      if gone then put s2 others else s2

/-- The window of a die ends at the next multiple of its length (R467). -/
def windowEnd (s : State) (d : Nat) : State := s.after (windowLen s d - s.count % windowLen s d) (.eccWindow d)
def startWindow (s : State) (d : Nat) : State := if s.agenda.any (fun e => e.2 == .eccWindow d) then s else windowEnd s d

/-- The window that runs ends by a length written meanwhile. -/
def moveWindow (s : State) (d : Nat) : State :=
  if s.agenda.any (fun e => e.2 == .eccWindow d) then windowEnd { s with agenda := s.agenda.filter (fun e => e.2 != .eccWindow d) } d else s

def corrected (s : State) (d a inst off : Nat) : State := track (startWindow (countCor s d a) d) d a inst off

/-- An uncorrectable error is counted and logged. -/
def logUnc (s : State) (d a inst off : Nat) : State := (countUnc s d a).setReg0 (eccOff d + 0x88) (BitVec.ofNat 64 (detailOf d a inst off))

/-- What an error in a control complex or in a seam buffer tells the supervisor (R465). -/
def eccMsg (d a inst off : Nat) : Nat := 0x71 + detailOf d a inst off * 2 ^ 128

/-- An error in a unit of 16 bytes, in a row of 128 (R464-R468). One in a control complex or in a seam buffer is reported to the
supervisor (R465), and one in a control complex starts its recovery (R478, R479). -/
def execEccError (die array inst row unit : Nat) (correctable : Bool) (s : State) : Host.Outcome State Fault Refusal :=
  let off := row * 128 + unit * 16
  if 9 ≤ die ∨ 16 ≤ array then .next s
  else if correctable then .next (corrected s die array inst off)
  else if cleanUnit s die array inst off then .next (corrected (dropClean s die array inst off) die array inst off)
  else
    let s1 := logUnc s die array inst off
    let s2 := if array = 10 ∨ array = 11 ∨ array = 14 then s1.mailTo die (eccMsg die array inst off) else s1
    if array = 10 ∨ array = 11 then .next (s2.after 0 (.ccRecovery die array))
    else .next (poisonUnit s2 die array inst off)

/-- Every count of the die starts again (R467). -/
def execEccWindow (die : Nat) (s : State) : Host.Outcome State Fault Refusal :=
  .next { s with plat := { s.plat with units := s.plat.units.filter (fun u => u.die != die) } }

/-! Trips (R398, R487). -/

/-- Memory that is not the module's: the host's, other modules', and the programs' images that the host holds. -/
def outside (c : Host.Cell) : Bool := c.1 / 2 ^ 64 == 1 || c.1 / 2 ^ 64 == 9 || decide (2 ^ 20 ≤ c.1 / 2 ^ 64)

/-- Everything but the always-on domain is off and starts anew: all module state is lost, `BOOT` reads WAIT with `err`. The DMA
windows and their lock go with it: a trip is taken as the next power-up up to which R3 keeps the lock, though R487 does not
call it one (log 66). -/
def restart (s : State) (err : Nat) : State :=
  let s0 := State.reset
  { s0 with
    mem := { s0.mem with cells := s.mem.cells.filter outside, empty := s.mem.empty.filter (fun w => outside (w, 0)) }
    free := s.free
    plat := { s0.plat with bar2 := if err = 0 then [] else [(0, BitVec.ofNat 64 (err * 16))] } }

/-- A cache-die thermal trip or a power trip (R487). -/
def execModuleTrip (thermal : Bool) (s : State) : Host.Outcome State Fault Refusal := .next (restart s (if thermal then 5 else 6))

/-! Control complexes (R478, R479). -/

/-- The bounds of a reload and of a rebuild. -/
def reloadTime (array : Nat) : Nat := (if array = 11 then 100 else 20) * millisecond

/-- What stands for an uncorrectable error of a control array in the table of erring units: an instance that is none. -/
def ccUnit (d a : Nat) : EccUnit := { die := d, array := a, inst := 65536, off := 0, n := 0 }

/-- An earlier uncorrectable error of the same control array in this window. -/
def ccErred (s : State) (d a : Nat) : Bool := s.plat.units.contains (ccUnit d a)

/-- The error is remembered until the window ends. -/
def ccNote (s : State) (d a : Nat) : State := startWindow { s with plat := { s.plat with units := s.plat.units ++ [ccUnit d a] } } d

/-- An uncorrectable error in a control complex: the die is HELD while its image is reloaded or its queues are rebuilt,
which clears its rate rings; a second one in the window loses the die, or trips the module (R478, R479). -/
def execCcRecovery (die array : Nat) (s : State) : Host.Outcome State Fault Refusal :=
  if array ≠ 10 ∧ array ≠ 11 then .next s
  else if die = 8 then
    (if ccErred s 8 array then .next (restart s 6)
     else
      let s1 := ccNote s 8 array
      .next ({ s1 with plat := { s1.plat with feHeld := true } }.after (reloadTime 10) (.ccRecoveryDone 8 ⟨array, true⟩)))
  else if 8 < die ∨ s.dieState die = 3 then .next s
  else if ccErred s die array then .next (loseDie s die 5)
  else
    let s1 := setDie (ccNote s die array) die 2 none
    let s2 := if array = 11 then s1.modSch (fun c => { c with rings := c.rings.filter (fun x => x.die != die) }) else s1
    .next (s2.after (reloadTime array) (.ccRecoveryDone die ⟨array, true⟩))

/-- Every queue may admit and post again. -/
def kickAll (s : State) : State := (List.range 64).foldl (fun x q => (kickAdmit x q).after Config.grantTime (.postCompletion q)) s

/-- A recovery of the die still runs: the reload of an image, or the rebuild of queues. -/
def recovering (s : State) (die : Nat) : Bool := s.agenda.any (fun x => match x.2 with | .ccRecoveryDone d _ => d == die | _ => false)

/-- A recovery ends: when none runs any more the die is UP again and its dispenser goes on; one that fails loses it (R478, R479). -/
def execCcRecoveryDone (die : Nat) (e : RecoveryEnd) (s : State) : Host.Outcome State Fault Refusal :=
  if die = 8 then
    (if !s.plat.feHeld then .next s
     else if e.ok && recovering s 8 then .next s
     else if e.ok then .next (kickAll { s with plat := { s.plat with feHeld := false } })
     else .next (restart s 6))
  else if s.dieState die ≠ 2 ∨ (e.ok && recovering s die) = true then .next s
  else if e.ok then
    let s1 := setDie s die 1 none
    .next (retryGangs (allGrants ((List.range 512).foldl (fun x i => if (x.getT (die * 512 + i)).rcd.isNone && x.sch.recs.any (fun r => r.place == .granted (die * 512 + i)) then x.after Config.grantTime (.pickup (die * 512 + i)) else x) s1)))
  else .next (loseDie s die 5)

end Sys2Proof.Machine
end

