-- ==== Sys2Proof/Machine/Tasks.lean ====
section
/-! DEFINITION. Publishing results and reading versions: `commit`, `tread`, `tver` at issue (R57-R70,
R236-R238, R453). -/
namespace Sys2Proof.Machine
open Sys2Proof

/-! Tile descriptors (R58, R59). -/

def descBase (v : Nat) : Nat := v % 2 ^ 56
def descClass (v : Nat) : Nat := v / 2 ^ 56 % 64
def descVer (v : Nat) : Nat := getBytes v 12 4
def descAtt (v : Nat) : Nat := getBytes v 10 2
def descUnits (v : Nat) : Nat := getBytes v 8 2 % 1024
def descSize (v : Nat) : Nat := descUnits v * 128

/-- SIZE and the reserved fields are good (R453). -/
def descOk (v : Nat) : Bool :=
  v / 2 ^ 62 % 4 == 0 && getBytes v 8 2 / 1024 == 0 && decide (1 ≤ descUnits v) && decide (descUnits v ≤ 512)

/-- A descriptor as the thread loads it. -/
structure Desc where
  addr : Nat
  key : Nat
  dev : Nat
  val : Nat
  deriving DecidableEq, Repr

/-- The ordinary load of a descriptor, and the checks of R59 and R453. -/
def loadDesc (s : State) (a : Nat) : Chk (Desc × State) := do
  let (s1, t) ← resolve s a 16 16 .load
  match t with
  | .glob fa _ =>
    require (inHbm (fa % 2 ^ 44)) 0x2B a
    let k := tgtKey s1 t
    let rt := tgtRoute s1 t
    match badPlace s1 (thDie s.cur) rt k 16 with
    | some e => raise 0x71 e
    | none => pure ()
    let (v, s2) ← if routeWaits rt then readFar s1 rt k 16 else pure (loadPlace s1 rt k 16)
    require (descOk v) 0x32 a
    return ({ addr := a, key := k, dev := fa / 2 ^ 44, val := v }, s2)
  | _ => raise 0x2B a

/-- The scope of a request to a home, and the time it takes (R64). -/
def homeScope (s : State) (d : Desc) : Scope := if d.dev = s.device then .mod else .fab
def homeTime (s : State) (d : Desc) : Nat := if d.dev = s.device then Config.seamTime else Config.fabricTime

/-! `commit` (R236). -/

/-- The checks and the request; the write-back follows. -/
def commitIssue (s : State) (h : BitVec 4) (o : Nat) (v : Nat) : Chk State := do
  require (thSpec s.thr) 0x30 0
  require (!anyWon s.thr.r) 0x31 (firstWon s.thr.r)
  let (d, s1) ← loadDesc s (match s.thr.rcd with | some r => r.w.tile | none => 0)
  let size := descSize d.val
  require (o % 128 == 0) 0x22 o
  require (decide (o + size ≤ 0x10000)) 0x21 o
  suspendSearch s1 v
  let s2 ← useHandle s1 h
  let s3 ← releaseChk s2 (homeScope s d)
  require (!s3.mem.poisoned (ownKey s o) size) 0x71 (s3.mem.eccAt (ownKey s o) size)
  let (att, base) := match s.thr.rcd with | some r => (r.w.attempt, r.base.getD 0) | none => (0, 0)
  let task := match s.thr.rcd with | some r => r.w.task | none => 0
  let (id, s4) := addOp s3 (thClu s.cur) (homeScope s d)
    (.commit (thLaunch s.thr) task att base (BitVec.ofNat 64 d.addr) d.key size (s3.mem.get (ownKey s o) size) s.thr.pc none)
  return (s4.setH h (.pending id)).after (homeTime s d) (.commitAtHome id)

/-- `commit` (R236): the record waits on the handle, at the next bundle. -/
def execCommit (h : BitVec 4) (a : BitVec 5) (map : BitVec 16) (s : State) : Host.Outcome State Fault Refusal :=
  if s.thr.inHandler then finish s (raise 0x18 s.thr.pc.toNat)
  else withMap s map.toNat (fun v s1 =>
    match commitIssue s1 h (s.getS a).toNat v with
    | .error e => finish s (.error e)
    | .ok s2 => suspend s2 (writeBack s2 v map.toNat (s.thr.pc + 8) (BitVec.ofNat 16 (2 ^ h.toNat))))

/-! Versioned reads (R237, R238). -/

/-- The descriptor at the tile table address + s[a]. -/
def tableDesc (s : State) (off : Nat) : Chk (Desc × State) :=
  let (tiles, len) := match s.launch with | some l => (l.tiles, l.ttlen) | none => (0, 0)
  if off % 16 ≠ 0 then raise 0x22 (tiles + off)
  else if 16 * len ≤ off then raise 0x2A off
  else loadDesc s (tiles + off)

/-- `tread` at issue: an engine write later lands in the destination, so it may not be the own stack or
trail (R87). -/
def treadIssue (s : State) (d : BitVec 5) (off dst : Nat) (h : BitVec 4) (ver : BitVec 32) : Chk State := do
  require (!anyWon s.thr.r) 0x31 (firstWon s.thr.r)
  let (x, s1) ← tableDesc s off
  let size := descSize x.val
  require (dst % 128 == 0) 0x22 dst
  require (decide (dst + size ≤ s.limit)) 0x21 dst
  let r := regionsOf s.thr.y.srch
  require (s.thr.q.depth == 0 || s.thr.y.srch == 0 || (apart dst size r.stack r.stlen && apart dst size r.trail r.trlen)) 0x43 dst
  let s2 ← useHandle s1 h
  let (id, s3) := addOp (drainAll s2 (thCore s.cur)) (thClu s.cur) (homeScope s x)
    (.tread (BitVec.ofNat 64 x.addr) x.key ver d (ownKey s dst) size 0 false none)
  let s4 := (s3.setH h (.pending id)).modI (fun i => { i with ilock := (i.ilock.filter (fun p => p.1 != d)) ++ [(d, id)], owed := i.owed.filter (fun p => p.1 != d) })
  return s4.after (homeTime s x) (.treadAtHome id)

/-- `tread` (R237). -/
def execTread (d a b : BitVec 5) (h : BitVec 4) (ver : BitVec 32) (s : State) : Host.Outcome State Fault Refusal :=
  finish s (treadIssue s d (s.getS a).toNat (s.getS b).toNat h ver)

/-- `tver` at issue: the home answers later, as to a load (R238). -/
def tverIssue (s : State) (d : BitVec 5) (off : Nat) : Chk State := do
  let (x, s0) ← tableDesc s off
  let s1 ← if x.dev = s.device then pure s0 else sendAccess s0 (.remote x.dev)
  let r : Reply := { dest := .s d, key := x.key, acc := .ver, scope := some (homeScope s x), addr := BitVec.ofNat 64 x.addr, sent := s.clock }
  return (s1.modI (fun i => { i with replies := i.replies ++ [r] })).after (homeTime s x) (.tverReply s.cur .ok)

/-- `tver` (R238). -/
def execTver (d a : BitVec 5) (s : State) : Host.Outcome State Fault Refusal := finish s (tverIssue s d (s.getS a).toNat)

end Sys2Proof.Machine
end

