-- ==== Sys2Proof/Machine/TaskEvents.lean ====
section
/-! DEFINITION. Commits and versioned reads at the home of a tile and their replies, cancels (R64-R70, R103, R453-R455,
R482). -/
namespace Sys2Proof.Machine
open Sys2Proof

/-! Cancels. -/

/-- A task that runs here has been answered (R68). -/
def markTask (s : State) (num task : Nat) (f : TaskSt → TaskSt) : State :=
  match s.findLaunch num with
  | some l => if l.tasks.any (fun t => t.task == task) then modTask s num task f else s
  | none => s

/-- A task cancel reaches the front end, which delivers none while its own control complex is reloaded (R67, R479): the task has been won, here or on another module of its group, unless its
commits have only lost. -/
def execCancelDelivery (launch task exempt : Nat) (s : State) : Host.Outcome State Fault Refusal :=
  match s.findLaunch launch with
  | none => .next s
  | some _ =>
    if s.plat.feHeld then .next (s.after Config.fabricTime (.cancelDelivery launch task exempt))
    else .next (cancelTask (markTask s launch task (fun t => if t.lost then t else { t with won := true })) launch task exempt)

/-- A lineage cancel reaches the die on which its frame was pushed (R103). -/
def execLineageCancel (die launch task : Nat) (tag : BitVec 64) (s : State) : Host.Outcome State Fault Refusal :=
  if s.plat.feHeld then .next (s.after Config.fabricTime (.lineageCancel die launch task tag))
  else .next (enterFilter s { die := die, launch := launch, task := task, exempt := none, tag := some tag })

/-- A cancel leaves for another module, or is kept where it cannot: no route is up, or the port is held or lets nothing out (R402, R411, R482). -/
def cancelFar (s : State) (h : HeldCancel) : State :=
  match s.portOf h.dev with
  | some (_, false) => s.spend h.dev
  | _ => s.modSch (fun c => { c with heldCancels := c.heldCancels ++ [h] })

/-- `SendCancel` (R67): to this module and to the others of the group, held for those that cannot be reached (R482). -/
def sendCancel (s : State) (num task exempt : Nat) : State :=
  match s.findLaunch num with
  | none => s
  | some l =>
    let held := (groupOthers s l).map (fun d => ({ dev := d, launch := num, task := task, exempt := exempt } : HeldCancel))
    (held.foldl cancelFar s).after Config.grantTime (.cancelDelivery num task exempt)

/-- Cancels held for a device that can be reached again are sent (R482). -/
def resendCancels (s : State) : State :=
  s.sch.heldCancels.foldl cancelFar (s.modSch (fun c => { c with heldCancels := [] }))

/-! The bytes of a tile at its home. -/

/-- The device that homes a key. -/
def keyDev (s : State) (k : Nat) : Nat := replyDev s k

/-- How a home's port stands for an operation: it can be served, it waits for a hold, or it is dark. -/
inductive Reach where
  | go
  | wait
  | dark
  deriving DecidableEq, Repr

/-- A request of `n` bytes to the home of a key. -/
def reachKey (s : State) (k n : Nat) : Reach :=
  if keyDev s k = s.device then .go
  else match s.portOf (keyDev s k) (flitsOf n) with
    | none => .dark
    | some (_, true) => .wait
    | some (_, false) => .go

/-- The same for an answer: it comes unless the port captures what arrives (R411). -/
def hearsKey (s : State) (k : Nat) : Reach :=
  if keyDev s k = s.device then .go
  else match hears s (keyDev s k) with
    | none => .dark
    | some false => .wait
    | some true => .go

/-- The pages of a tile in a partition's context: the place and length of each piece. `w`: it is written (R453). What the walker itself
meets, a lost die or a poisoned entry, keeps its own detail (R465, R477). -/
def tilePlaces (s : State) (part dev desc base : Nat) (w : Bool) : List (Nat × Nat) → Chk (List (Route × Nat × Nat))
  | [] => .ok []
  | (a, n) :: r =>
    match (if a / 2 ^ 56 = 0 then walk s part a else raise 0x20 a) with
    | .error (.cond c _) => .error (.cond (if c.code.toNat ≤ 0x23 then { c with detail := BitVec.ofNat 64 base } else c) none)
    | .error (.wait y) => .error (.wait y)
    | .ok (leaf, bits) =>
      let fa := leafAddr leaf bits a
      if fa / 2 ^ 44 ≠ dev then raise 0x32 desc
      else if !inHbm (fa % 2 ^ 44) then raise 0x2B base
      else if !(if w then leaf.getLsbD 60 else leaf.getLsbD 61) then raise 0x24 base
      else
        let k := tgtKey s (.glob fa leaf)
        match keyLost s k with
        | some c => .error (.cond c none)
        | none =>
          match tilePlaces s part dev desc base w r with
          | .error c => .error c
          | .ok l => .ok ((if dev = s.device then .l3 (fa % 2 ^ 44) (ownerOf part leaf) else .remote dev, k, n) :: l)

/-- The place of a descriptor, whose key was translated at issue: at its L3 slice here, or at its home. -/
def descRoute (s : State) (part : Nat) (desc : Word) (dkey : Nat) : Route :=
  if keyDev s dkey ≠ s.device then .remote (keyDev s dkey)
  else match walk s part desc.toNat with
    | .ok (leaf, bits) =>
      let fa := leafAddr leaf bits desc.toNat
      if tgtKey s (.glob fa leaf) = dkey then .l3 (fa % 2 ^ 44) (ownerOf part leaf) else .l3 dkey (part * 64)
    | .error _ => .l3 dkey (part * 64)

/-- Write a value over places, at their homes. -/
def writePlaces : List (Route × Nat × Nat) → Nat → State → State
  | [], _, s => s
  | (rt, k, n) :: r, v, s => writePlaces r (v / 256 ^ n) (engPut s 0 rt k 0 n (v % 256 ^ n))

/-- The pieces of a tile of `size` bytes. -/
def tilePieces (base size : Nat) : List (Nat × Nat) := splitGo (size / 4096 + 2) base size

/-! Commit (R64, R453). -/

def setAns (s : State) (id : Nat) (a : CommitAns) : State :=
  s.modOp id (fun o => match o.k with
    | .commit l t att b d k n data pc _ => { o with k := .commit l t att b d k n data pc (some a) }
    | _ => o)

/-- Versioned reads that wait for a descriptor look again. -/
def retryReads (s : State) (dkey : Nat) : State :=
  (s.sch.ops.filter (fun o => match o.k with | .tread _ k _ _ _ _ _ home none => home && k == dkey | _ => false)).foldl (fun x o => x.after 0 (.treadAtHome o.id)) s

/-- The tile is written, then VER and LASTATT of its descriptor (R64). -/
def applyCommit (s : State) (rt : Route) (dkey next att data : Nat) (ks : List (Route × Nat × Nat)) : State :=
  engPut (engPut (writePlaces ks data s) 0 rt dkey 12 4 next) 0 rt dkey 10 2 (att % 65536)

/-- What the home does with a commit. The homes of the tile's pages enter DIES (R28). -/
def homeCommit (s0 : State) (o : Op) (launch task att : Nat) (base : BitVec 32) (desc : Word) (dkey size data : Nat) : CommitAns × State :=
  let rt := descRoute s0 o.part desc dkey
  match keyLost s0 dkey, poisonAt s0 dkey 16 with
  | some c, _ => (.err c, s0)
  | none, some c => (.err c, s0)
  | none, none =>
    let (v, s) := readPlace s0 0 rt dkey 16
    if !descOk v || descSize v != size then (.err (mkCond 0x32 desc.toNat), s)
    else match tilePlaces s o.part (keyDev s dkey) desc.toNat (descBase v) true (tilePieces (descBase v) size) with
      | .error (.cond c _) => (.err c, s)
      | .error (.wait _) => (.err (mkCond 0x23 (descBase v)), s)
      | .ok ks =>
        let next := (base.toNat + 1) % 2 ^ 32
        if descVer v = base.toNat then
          let s1 := touchRecord (applyCommit s rt dkey next att data ks) o.rcd (ks.map (fun x => x.2.1))
          let s2 := markTask s1 launch task (fun t => { t with won := true })
          (.won, retryReads (sendCancel s2 launch task att) dkey)
        else if descVer v = next ∧ descAtt v = att then (.won, s)
        else
          let s1 := markTask s launch task (fun t => { t with lost := true })
          (.lost, sendCancel s1 launch task (descAtt v))

/-- A page of the tile translates only once a die is up: the home takes the commit then (R396). -/
def commitWaits (s : State) (o : Op) (desc : Word) (dkey size : Nat) : Bool :=
  let v := (readPlace s 0 (descRoute s o.part desc dkey) dkey 16).1
  descOk v && descSize v == size &&
    (match tilePlaces s o.part (keyDev s dkey) desc.toNat (descBase v) true (tilePieces (descBase v) size) with | .error (.wait _) => true | _ => false)

/-- The tile's home takes a commit in turn (R64). -/
def execCommitAtHome (id : Nat) (s : State) : Host.Outcome State Fault Refusal :=
  match s.findOp id with
  | none => .next s
  | some o =>
    match o.k with
    | .commit launch task att base desc dkey size data _ none =>
      match reachKey s dkey size with
      | .wait => .next (s.after Config.fabricTime (.commitAtHome id))
      | .dark => .next s
      | .go =>
        if (keyLost s dkey).isNone && (poisonAt s dkey 16).isNone && commitWaits s o desc dkey size then .next (s.after Config.fabricTime (.commitAtHome id))
        else
        let p := homeCommit (s.spend (keyDev s dkey) (flitsOf size)) o launch task att base desc dkey size data
        .next ((setAns p.2 id p.1).after Config.commitTime (.commitReply id))
    | _ => .next s

/-- The attempt's record, at rest, takes a WON answer: its rate enters the class ring (R66, R74). -/
def wonRecord (s : State) (o : Op) : State :=
  let s1 := match s.sch.recs.find? (fun r => r.id == o.rcd) with | some r => addSample s r.die r | none => s
  completeHandle s1 o.id o.rcd (.done 1 none (some o.scope) true)

/-- A commit ends with a condition: its record becomes runnable and takes it before its next bundle (R454). -/
def commitErr (s : State) (o : Op) (c : Cond) (pc : Word) : State :=
  let s1 := (s.dropOp o.id).modRec o.rcd (fun r => r.change (fun x => { x with owed := x.owed ++ [({ c with flags := c.flags ||| 2 }, pc)] }))
  afterOp (completeHandle s1 o.id o.rcd .free) o

/-- A commit's reply reaches its record: WON makes it runnable, LOST drops it, an error makes it runnable with a condition
(R65, R66, R236, R454). -/
def execCommitReply (id : Nat) (s : State) : Host.Outcome State Fault Refusal :=
  match s.findOp id with
  | none => .next s
  | some o =>
    match o.k with
    | .commit _ _ _ _ _ dkey _ _ pc (some a) =>
      match hearsKey s dkey, a with
      | .wait, _ => .next (s.after Config.fabricTime (.commitReply id))
      | .dark, _ => .next s
      | .go, .won => .next (afterOp (wonRecord (s.dropOp id) o) o)
      | .go, .lost =>
        .next (afterOp (match s.sch.recs.find? (fun r => r.id == o.rcd) with | some r => dropRest (s.dropOp id) r | none => s.dropOp id) o)
      | .go, .err c => .next (commitErr s o c pc)
    | _ => .next s

/-! Versioned reads (R69, R237, R455). -/

/-- The watchdog's time. -/
def treadTime : Nat := 2 ^ 32

/-- The scalar that a `tread` interlocks is free again, with a value if the reply brought one. -/
def freeScalar (s : State) (o : Op) (d : BitVec 5) (v : Option Word) (owed : Option Cond) : State :=
  match s.holders.find? (fun n => thRid (s.getT n) == o.rcd) with
  | none => s
  | some n =>
    let t := s.getT n
    if !t.i.ilock.contains (d, o.id) then s
    else
      let h := (t.r.h.toList.findIdx? (fun x => x == .pending o.id))
      let r := match v with | some x => t.r.setS d x | none => t.r
      let i : IssueSt := { t.i with
        ilock := t.i.ilock.filter (fun p => p.1 != d), pend := t.i.pend.filter (fun p => p.reg != .s d)
        owed := match owed, h with | some c, some k => t.i.owed.filter (fun p => p.1 != d) ++ [(d, k, c)] | _, _ => t.i.owed }
      s.setT n { t with r := r, i := i }

/-- The completion of a versioned read is an acquire by the thread that holds its record (R69, R140). -/
def acquireFor (s : State) (o : Op) : State :=
  match s.holders.find? (fun n => thRid (s.getT n) == o.rcd) with
  | some n => acquire s n o.scope
  | none => s

/-- A versioned read ends: its scalar, its handle. -/
def endRead (s : State) (o : Op) (d : BitVec 5) (v : Option Word) (c : Option Cond) (owed : Bool) : State :=
  let s0 := if v.isSome then acquireFor (s.dropOp o.id) o else s.dropOp o.id
  let s1 := freeScalar s0 o d v (if owed then c else none)
  wakeQueue (afterOp (completeHandle s1 o.id o.rcd (.done (v.getD 0) c (some o.scope) false)) o)

/-- The home takes a versioned read in turn: it delivers once VER reaches the version asked (R69). -/
def execTreadAtHome (id : Nat) (s : State) : Host.Outcome State Fault Refusal :=
  match s.findOp id with
  | none => .next s
  | some o =>
    match o.k with
    | .tread desc dkey ver d dst size since home none =>
      match reachKey s dkey 0 with
      | .wait => .next (s.after Config.fabricTime (.treadAtHome id))
      | .dark => .next s
      | .go =>
        match keyLost s dkey, poisonAt s dkey 16 with
        | some c, _ => .next (endRead s o d none (some c) false)
        | none, some c => .next (endRead s o d none (some c) false)
        | none, none =>
          let (v, s1) := readPlace (if home then s else s.spend (keyDev s dkey)) 0 (descRoute s o.part desc dkey) dkey 16
          let since' := if home then since else s.count
          let put (x : State) (rdy : Option (Nat × Nat)) : State := x.modOp id (fun y => { y with k := .tread desc dkey ver d dst size since' true rdy })
          let kept : State := if home then s1 else (put s1 none).after treadTime (.treadWatchdog id)
          if descVer v < ver.toNat then .next kept
          else match tilePlaces s1 o.part (keyDev s dkey) desc.toNat (descBase v) false (tilePieces (descBase v) size) with
            | .error (.cond c _) => .next (endRead s1 o d none (some c) false)
            | .error (.wait _) => .next (kept.after Config.fabricTime (.treadAtHome id))
            | .ok ks =>
              match engRead 0 ks s1 with
              | .error (.cond c _) => .next (endRead s1 o d none (some c) false)
              | .error (.wait _) => .next s1
              | .ok (x, s2) =>
                .next ((put (touchRecord s2 o.rcd (ks.map (fun y => y.2.1))) (some (descVer v, x))).after Config.commitTime (.treadReply id))
    | _ => .next s

/-- The bytes land full in the local store; the scalar and the handle take the version (R69, R237). -/
def execTreadReply (id : Nat) (s : State) : Host.Outcome State Fault Refusal :=
  match s.findOp id with
  | none => .next s
  | some o =>
    match o.k with
    | .tread _ dkey _ d dst size _ _ (some (v, bytes)) =>
      match hearsKey s dkey with
      | .wait => .next (s.after Config.fabricTime (.treadReply id))
      | .dark => .next s
      | .go => .next (endRead (putFull s dst size bytes) o d (some (BitVec.ofNat 64 v)) none false)
    | _ => .next s

/-- A versioned read that has waited 2^32 cycles is answered with the current version and 0x33 (R455). -/
def execTreadWatchdog (id : Nat) (s : State) : Host.Outcome State Fault Refusal :=
  match s.findOp id with
  | none => .next s
  | some o =>
    match o.k with
    | .tread desc dkey _ d _ _ since true none =>
      if s.count < since + treadTime then .next (s.after (since + treadTime - s.count) (.treadWatchdog id))
      else .next (endRead s o d (some (BitVec.ofNat 64 (descVer (s.mem.get dkey 16)))) (some (mkCond 0x33 desc.toNat)) true)
    | _ => .next s

end Sys2Proof.Machine
end

