-- ==== Sys2Proof/Machine/Hedge.lean ====
section
/-! DEFINITION. Hedging: the progress monitor, the budget, backups here and on other modules (R71-R81, R358, R481). -/
namespace Sys2Proof.Machine
open Sys2Proof

/-! The test (R73-R75). -/

/-- The ring of a class on a die. -/
def ringRates (s : State) (die num cls : Nat) : List Nat :=
  match s.sch.rings.find? (fun x => x.die == die && x.launch == num && x.cls == cls) with | some x => x.rates | none => []

def insNat (a : Nat) : List Nat → List Nat
  | [] => [a]
  | b :: r => if a ≤ b then a :: b :: r else b :: insNat a r

/-- The j-th lowest of a list, from 1. -/
def jthLowest (l : List Nat) (j : Nat) : Nat := (l.foldl (fun acc a => insNat a acc) []).getD (j - 1) 0

/-- The class entry as the monitor reads it. -/
def classWord (s : State) (l : Launch) (cls : Nat) : Word := match classEntry s l cls with | .ok e => e | .error _ => 0

/-- A held attempt is a straggler (R75). -/
def straggler (s : State) (die : Nat) (l : Launch) (t : Thread) (r : Rec) : Bool :=
  let e := classWord s l r.w.cls
  let q := fld e 57 52
  let ks := ringRates s die l.num r.w.cls
  !r.w.gang && !r.w.thief && !r.tested && !anyWon t.r && q != 0 && !ks.isEmpty && decide (fld e 47 32 ≤ ageOf s r) &&
    decide (rateOf s r < jthLowest ks ((q * ks.length + 63) / 64)) &&
    !s.sch.filters.any (fun f => f.die == die && f.launch == l.num && f.task == r.w.task && f.tag.isNone)

/-! The budget (R79-R81). -/

def hedgeCfg (s : State) (part : Nat) : Word := s.reg0 (partOff part + 8)

/-- Backups of a task that live or wait for their number. -/
def backupsOf (s : State) (l : Launch) (task : Nat) : Nat :=
  (l.task task).backups + (s.sch.wants.filter (fun w => w.launch == l.num && w.task == task && w.backup)).length

/-- Both tests of R81, the limit of eight, and, where this module keeps the numbers, one left to give. -/
def budgetOk (s : State) (l : Launch) (task : Nat) : Bool :=
  let cfg := hedgeCfg s l.part
  decide ((s.reg0 (dupOff l.part)).toNat * 1000 < min 1000 (fld cfg 9 0) * (s.reg0 (issOff l.part)).toNat) &&
    decide (fld (s.reg0 (liveOff l.part)) 15 0 < fld cfg 39 24) && decide (backupsOf s l task < 8) &&
    (tileDev s l task != s.device || decide ((l.task task).nextAttempt ≤ 0x7FFF))

/-- A straggler is counted as denied. -/
def denied (s : State) (part : Nat) : State := addReg s (deniedOff part) 1

/-- The budget of a backup that no place took is given back (R358). A mirror's counters are its origin's, which hears of it. -/
def unbudget (s : State) (l : Launch) : State :=
  if l.isMirror then s.owe (l.originDev s.device) 1 else denied (addReg s (liveOff l.part) (-1)) l.part

/-! Placing a backup (R76, R358). -/

/-- Backups of a launch that run, or are offered, on another module. -/
def outstanding (s : State) (num dev : Nat) : Nat :=
  (s.sch.away.filter (fun a => a.launch == num && a.dev == dev)).length + (s.sch.offers.filter (fun o => o.launch == num && o.devs.head? == some dev)).length

/-- Insert a device by fewest outstanding backups, then by number. -/
def insDev (s : State) (num d : Nat) : List Nat → List Nat
  | [] => [d]
  | e :: r => if outstanding s num d < outstanding s num e then d :: e :: r else e :: insDev s num d r

/-- The modules to which a backup is offered, in order; those that cannot be reached refuse at once (R358). -/
def offerOrder (s : State) (l : Launch) : List Nat :=
  ((groupOthers s l).filter (fun d => (s.portOf d).isSome)).foldl (fun acc d => insDev s l.num d acc) []

/-- A backup is offered to the first of some modules; on the module's own launch its task counts it from now on. -/
def offerBackup (s : State) (l : Launch) (w : Want) (a : Nat) (ds : List Nat) : State :=
  let s1 := if l.isMirror then s else modTask s l.num w.task (fun t => { t with alive := t.alive + 1, backups := t.backups + 1 })
  (s1.modSch (fun c => { c with offers := c.offers ++ [{ launch := l.num, task := w.task, attempt := a, base := w.base.getD 0, devs := ds }] })).owe (ds.headD s.device) 1

/-- A backup of a straggler, with its number, at its class's distance: on its own die, on another die, on another module (R76). -/
def placeBackup (s : State) (l : Launch) (w : Want) (a : Nat) : State :=
  let dist := fld (classWord s l w.cls) 59 58
  let seed (barred : Option Nat) : Seed := { task := w.task, cls := w.cls, attempt := a, base := w.base, backup := true, barred := barred }
  let put (die : Nat) (barred : Option Nat) : State := (makeAttempt s l die (seed barred)).getD (unbudget s l)
  if dist = 0 then put w.die (some w.core)
  else if dist = 1 then (match freestDie s l.part (some w.die) with | none => unbudget s l | some d => put d none)
  else match offerOrder s l with
    | [] => unbudget s l
    | ds => offerBackup s l w a ds

/-- The number of a backup from this module's own counter, then its place. -/
def numberBackup (s : State) (w : Want) : State :=
  match takeNumber s w.launch w.task with
  | none => (match s.findLaunch w.launch with | some l => unbudget s l | none => s)
  | some (a, x) => match x.findLaunch w.launch with | some l => placeBackup x l w a | none => x

/-- The record of a held attempt is not tested again. -/
def markTested (s : State) (n : Nat) : State := s.modT n (fun t => { t with rcd := t.rcd.map (fun r => { r with tested := true }) })

/-- What is known of a straggler. -/
def wantOf (r : Rec) (die core : Nat) : Want :=
  { launch := r.w.launch, task := r.w.task, attempt := r.w.attempt, cls := r.w.cls, base := r.base, die := die, core := core, backup := true }

/-- A backup within the budget: LIVE counts it; its number is this module's, or asked of the tile's home (R77, R81). -/
def grantBackup (s : State) (l : Launch) (w : Want) : State :=
  let s1 := addReg s (liveOff l.part) 1
  if tileDev s l w.task = s.device then numberBackup s1 w else askFar s1 (tileDev s l w.task) w

/-- Test one thread. A straggler of a mirror is judged at its origin, whose answer comes later (R81). -/
def testThread (die : Nat) (s : State) (n : Nat) : State :=
  let t := s.getT n
  match t.rcd with
  | none => s
  | some r =>
    match s.findLaunch r.w.launch with
    | none => s
    | some l =>
      if l.ends || !straggler s die l t r then s
      else
        let s1 := markTested s n
        if l.isMirror then askFar s1 (l.originDev s.device) (wantOf r die (thCore n))
        else if !budgetOk s1 l r.w.task then denied s1 l.part
        else grantBackup s1 l (wantOf r die (thCore n))

/-- Every 4 kilocycles the monitor of a die tests the attempts that its threads hold, which run on while the die is HELD (R75, R478). -/
def execStragglerTest (die : Nat) (s : State) : Host.Outcome State Fault Refusal :=
  if s.count % monitorTime ≠ 0 ∨ countStops s.bivState = true then .next (s.after (monitorTime - s.count % monitorTime) (.stragglerTest die))
  else
    let s1 := if s.dieState die = 1 ∨ s.dieState die = 2 then (holdersOn s die (fun _ => true)).foldl (testThread die) s else s
    .next (if s1.sch.launches.any (fun l => !l.isGang) then s1.after monitorTime (.stragglerTest die) else s1)

/-- The entry of a backup of an own launch on another module. -/
def findAway (s : State) (launch task attempt : Nat) : Option Away :=
  s.sch.away.find? (fun a => a.launch == launch && a.task == task && a.attempt == attempt)

/-! Stragglers and backups of other modules (R81, R358). -/

/-- The module on which a backup of a straggler found on module `asker` will run, as far as its class tells the origin: the asker's own, or with
DIST 2 the other member with the fewest outstanding; the origin itself hears of it by the offer (R76, R358). -/
def awayDev (s : State) (l : Launch) (task asker : Nat) : Nat :=
  match readTask s l 0 task with
  | some (x, _) =>
    if fld (classWord s l x.cls) 59 58 < 2 then asker
    else match ((groupOthers s l).filter (fun d => d != asker)).foldl (fun acc d => insDev s l.num d acc) [] with
      | d :: _ => if outstanding s l.num s.device < outstanding s l.num d ∨ (outstanding s l.num s.device = outstanding s l.num d ∧ s.device < d) then asker else d
      | [] => asker
  | none => asker

/-- A backup of an own launch will run on another module, for a straggler of module `asker`: its task counts it (R81). -/
def sendAway (s : State) (l : Launch) (task a asker : Nat) : State :=
  let dev := awayDev s l task asker
  let s1 := modTask s l.num task (fun t => { t with alive := t.alive + 1, backups := t.backups + 1 })
  s1.modSch (fun c => { c with away := c.away ++ [{ launch := l.num, key := l.key, part := l.part, task := task, attempt := a, dev := dev }] })

/-- The origin's front end judges a straggler of its launch found on module `dev`, and gives or fetches the backup's number (R77,
R81). On a mirror of the launch the request asks for a number only, where this module homes the tile. -/
def execHedgeBudgetRequest (dev launch task attempt : Nat) (s : State) : Host.Outcome State Fault Refusal :=
  match s.findLaunch launch with
  | none => .next s
  | some l =>
    if l.ends then .next (s.owe dev 1)
    else if l.isMirror then
      .next (if tileDev s l task = s.device then (match takeNumber s launch task with | some (_, x) => x | none => s).owe dev 1 else s)
    else if !budgetOk s l task || attempt / 0x8000 ≠ 0 then .next ((denied s l.part).owe dev 1)
    else
      let s1 := addReg s (liveOff l.part) 1
      if tileDev s l task ≠ s.device then
        .next (askFar s1 (tileDev s l task)
          { launch := launch, task := task, attempt := attempt, cls := 0, base := none, die := 8 + dev, core := 1024, backup := true })
      else match takeNumber s1 launch task with
        | none => .next (unbudget s1 l)
        | some (a, s2) => .next ((sendAway s2 l task a dev).owe dev 1)

/-- An answer for an own launch's attempt: a replacement, a backup here, or one on the module that asked; refused, it is given up. -/
def ownAnswer (s : State) (l : Launch) (w : Want) : Option Nat → State
  | none => if w.backup then unbudget s l else s
  | some number =>
    if !w.backup then replaceAttempt s w number
    else if 8 ≤ w.die then sendAway s l w.task number (w.die - 8)
    else placeBackup s l w number

/-- The answer that an attempt waits for: its number from the tile's home, or its origin's judgement, with the number unless
this module keeps the numbers itself (R77, R81). -/
def execHedgeBudgetAnswer (launch task attempt : Nat) (granted : Option Nat) (s : State) : Host.Outcome State Fault Refusal :=
  match s.sch.wants.find? (fun w => w.launch == launch && w.task == task && w.attempt == attempt), s.findLaunch launch with
  | some w, some l =>
    let s1 := s.modSch (fun c => { c with wants := c.wants.erase w })
    if l.isMirror then
      .next (match granted with
        | none => s1
        | some number =>
          if !w.backup then replaceAttempt s1 w number
          else if tileDev s l task = s.device then numberBackup s1 w else placeBackup s1 l w number)
    else .next ((lessAlive (ownAnswer s1 l w granted) launch task false).after Config.grantTime (.launchDone launch))
  | _, _ => .next s

/-- A backup that another module was to place comes to its origin: it runs on another module no longer. -/
def comesHome (s : State) (launch task attempt : Nat) : State :=
  match findAway s launch task attempt with
  | none => s
  | some a => modTask (s.modSch (fun c => { c with away := c.away.erase a })) launch task (fun t => { t with alive := t.alive - 1, backups := t.backups - 1 })

/-- The module that offered a backup hears the answer: for a mirror its origin, for an own launch the module of the straggler (R358). -/
def answerOffer (s : State) (l : Launch) (task attempt : Nat) : State :=
  if l.isMirror then s.owe (l.originDev s.device) 1
  else match findAway s l.num task attempt with
    | some a => s.owe a.dev 1
    | none => s

/-- A module is offered a backup: it takes it into the queue of the die with the most free threads, or refuses it; not before the host
has the ADMIT entry of the launch (R358, R361). -/
def execBackupOffer (launch task attempt : Nat) (base : BitVec 32) (s : State) : Host.Outcome State Fault Refusal :=
  match s.findLaunch launch with
  | none => .next s
  | some l =>
    if l.isGang || l.ends then .next (answerOffer s l task attempt)
    else if admitWaits s l then .next (s.after Config.fabricTime (.backupOffer launch task attempt base))
    else match freestDie s l.part none with
      | none => .next (answerOffer s l task attempt)
      | some d =>
        match readTask s l d task with
        | none => .next (s.after Config.fabricTime (.backupOffer launch task attempt base))
        | some (x, s1) =>
          .next (answerOffer ((makeAttempt (comesHome s1 launch task attempt) l d { task := task, cls := x.cls, attempt := attempt, base := some base, backup := true, barred := none }).getD s) l task attempt)

/-- One backup on another module has ended: it is no longer live, and its task has one attempt fewer. A mirror only knew where it had
placed the backup: it is the origin's. -/
def awayEnds (s : State) (a : Away) : State :=
  let mirror := (s.findLaunch a.launch).any (fun l => l.isMirror && l.key == a.key)
  let s1 := (if mirror then s else addReg s (liveOff a.part) (-1)).modSch (fun c => { c with away := c.away.erase a })
  match s1.findLaunch a.launch with
  | some l => if mirror then s1 else if l.key = a.key then (lessAlive s1 a.launch a.task true).after Config.grantTime (.launchDone a.launch) else s1
  | none => s1

/-- The answer to an offer: the backup runs there, or the next module is offered it; with none left it is denied. An answer to no
offer of this module's is the word of the module that asked for the backup: no module took it (R358). -/
def execBackupOfferAnswer (launch task attempt : Nat) (accepted : Bool) (s : State) : Host.Outcome State Fault Refusal :=
  match s.sch.offers.find? (fun o => o.launch == launch && o.task == task && o.attempt == attempt), s.findLaunch launch with
  | some o, some l =>
    let drop (x : State) : State := x.modSch (fun c => { c with offers := c.offers.filter (fun y => y != o) })
    let next := (o.devs.drop 1).filter (fun d => (s.portOf d).isSome)
    if accepted then
      .next ((drop s).modSch (fun c => { c with away := c.away ++ [{ launch := launch, key := l.key, part := l.part, task := task, attempt := attempt, dev := o.devs.headD 0 }] }))
    else match next with
      | [] => .next ((unbudget (if l.isMirror then drop s else lessAlive (drop s) launch task true) l).after Config.grantTime (.launchDone launch))
      | ds => .next ((s.modSch (fun c => { c with offers := c.offers.map (fun y => if y = o then { o with devs := ds } else y) })).owe (ds.headD s.device) 1)
  | _, _ =>
    match findAway s launch task attempt with
    | some a => .next (if accepted then s else denied (awayEnds s a) a.part)
    | none => .next s

/-- The report that a backup on another module has ended charges its cycles (R80). One that no entry names, because its
answer was lost, is charged without a second change of LIVE (R358). -/
def execBackupEndCharge (b : AttemptName) (cycles : Nat) (s : State) : Host.Outcome State Fault Refusal :=
  let charge (x : State) (part : Nat) : State := addReg (addReg x (dupOff part) cycles) (issOff part) cycles
  match findAway s b.launch b.task b.attempt with
  | some a => .next (awayEnds (if (s.findLaunch a.launch).any (fun l => l.isMirror && l.key == a.key) then s else charge s a.part) a)
  | none => .next (match s.findLaunch b.launch with | some l => charge s l.part | none => s)

/-- One second. -/
def unreachTime : Nat := 1000 * 1000 * microsecond

/-- Since when the port towards a device is dark. -/
def goneSince (s : State) (dev : Nat) : Option Nat := (s.port (fld (s.reg2 (0x400 + dev * 8)) 5 0)).gone

/-- A backup on a module that stays unreachable for 1 s is taken as dropped (R481). A module without a route has no time of its own: there
the event is the word that the second has passed. -/
def execBackupUnreachable (b : AttemptName) (s : State) : Host.Outcome State Fault Refusal :=
  match findAway s b.launch b.task b.attempt with
  | some a =>
    if (s.portOf a.dev).isSome then .next s
    else match goneSince s a.dev with
      | some t => if s.clock < t + unreachTime then .next (s.after (t + unreachTime - s.clock) (.backupUnreachable b)) else .next (awayEnds s a)
      | none => .next (awayEnds s a)
  | none => .next s

/-- A mirror receives its origin's end notice: its records are dropped and DONE follows (R358); what a home gave for a launch that it does not
hold lapses (R100). -/
def execEndNotice (launch : Nat) (status : Nat) (s : State) : Host.Outcome State Fault Refusal :=
  match s.findLaunch launch with
  | some l => .next (if l.isMirror then endLaunch s launch (if status = 0 then 0 else 7) else s)
  | none => .next (s.modSch (fun c => { c with blocks := c.blocks.filter (fun x => x.1 != launch) }))

/-- ISS and DUP are halved every 2^30 cycles (R80). -/
def decayTime : Nat := 2 ^ 30

def halve (s : State) (off : Nat) : State := s.setReg0 off (s.reg0 off >>> 1)

def execHedgeDecay (s : State) : Host.Outcome State Fault Refusal :=
  if s.count % decayTime ≠ 0 ∨ countStops s.bivState = true then .next (s.after (decayTime - s.count % decayTime) .hedgeDecay)
  else .next (((List.range 64).foldl (fun x p => halve (halve x (issOff p)) (dupOff p)) s).after decayTime .hedgeDecay)

end Sys2Proof.Machine
end

