-- ==== Sys2Proof/Machine/BringUp.lean ====
section
/-! DEFINITION. Power-up, bring-up, measurements, the host's accesses through CXL, virtual dies (R6, R142, R155, R390-R396,
R484, R486). -/
namespace Sys2Proof.Machine
open Sys2Proof

/-! Ports (R400). -/

def portOff (p : Nat) : Nat := 0x1000 + p * 8
def portWord (s : State) (p : Nat) : Word := s.reg2 (portOff p)
def portPeer (s : State) (p : Nat) : Nat := fld (portWord s p) 63 56
def portUp (s : State) (p : Nat) : Bool := fld (portWord s p) 2 0 == 2
def portHeld (s : State) (p : Nat) : Bool := (portWord s p).getLsbD 3
def setPortWord (s : State) (p hi lo v : Nat) : State := s.setReg2 (portOff p) (putFld (portWord s p) hi lo v)

/-- Dark ports train while `ILU_CFG` EN is 1; without EN a port in training stops (R399, R400; log 67). -/
def trainPorts (s : State) : State :=
  (List.range 64).foldl (fun x p =>
    if fld (portWord x p) 2 0 = 0 ∧ (x.reg2 0x200).getLsbD 8 = true ∧ x.bootState = 3 then setPortWord x p 2 0 1
    else if fld (portWord x p) 2 0 = 1 ∧ (x.reg2 0x200).getLsbD 8 = false then setPortWord x p 2 0 0
    else x) s

/-! `BOOT` (R393, R394). -/

/-- STATE and ERR of `BOOT`. A change away from VERIFY locks the DMA windows (R392). -/
def setBoot (s : State) (st err : Nat) : State :=
  let w := putFld (putFld (s.reg2 0) 3 1 st) 7 4 err
  let s1 := s.setReg2 0 w
  if s.bootState = 1 ∧ st ≠ 1 then { s1 with plat := { s1.plat with locked := true } } else s1

/-- The always-on domain and the boot ROM start; STATE is WAIT (R394). -/
def execPowerUp (s : State) : Host.Outcome State Fault Refusal := .next (restart s 0)

/-- The host sets GO, which only WAIT and FAIL take (R394). The ROM's time is the model's (log 2). -/
def execBootGo (s : State) : Host.Outcome State Fault Refusal :=
  if s.bootState = 0 ∨ s.bootState = 4 then .next ((setBoot (s.setReg2 0x4100 (if s.bivState = 10 then putFld (s.reg2 0x4100) 3 0 0 else s.reg2 0x4100) |> fun x => { x with plat := { x.plat with verified := false } }) 1 0).after Config.mailTime .verifyDone) else .next s

def imageLen (s : State) : Nat := fld (s.reg2 0) 63 32
/-- Bytes of the image in the boot memory window. -/
def imageBytes (s : State) (off n : Nat) : Nat := s.mem.get (spaceKey 10 off) n
/-- The digest of bytes 64 to LEN − 1: an opaque function of the bytes and of their number (log 15). -/
def imageDigest (s : State) : BitVec 256 := Config.digest (imageBytes s 64 (imageLen s - 64) + 256 ^ (imageLen s - 64))

/-- `MEAS` holds the digest. -/
def setMeas (s : State) (d : BitVec 256) : State :=
  (List.range 4).foldl (fun x i => x.setReg2 (0x10 + 8 * i) (BitVec.ofNat 64 (d.toNat / 2 ^ (64 * i)))) s

/-- Two seconds. -/
def trainTime : Nat := 2000 * millisecond

/-- Verification ends: FAIL with its cause, or the image is verified, and the monitors start from it (R394). -/
def execVerifyDone (s : State) : Host.Outcome State Fault Refusal :=
  if s.bootState ≠ 1 ∨ s.plat.verified = true then .next s
  else if imageLen s < 128 ∨ 0x1000000 < imageLen s then .next (setBoot s 4 1)
  else
    let d := imageDigest s
    if !Config.imageSigned d (imageBytes s 0 64) then .next (setBoot s 4 2)
    else
      let s1 := setMeas s d
      if !Config.headerGood (imageBytes s1 0 (imageLen s1)) then .next (setBoot s1 4 3)
      else .next ({ s1 with plat := { s1.plat with verified := true } }.after trainTime (.bringupDieTimeout 0 false))

/-- Die 0 and the cache die are up: STATE is REDUCED, die 0 runs launches, and the other dies have 2 s to train (R394, R396,
R484). -/
def execBringupReduced (s : State) : Host.Outcome State Fault Refusal :=
  if s.bootState ≠ 1 ∨ s.plat.verified = false then .next s
  else
    let s1 := soon (setDie (setBoot s 2 0) 0 1 none) 0
    let s2 := (List.range 7).foldl (fun x i => x.after trainTime (.bringupDieTimeout (i + 1) false)) s1
    let s3 := s2.after trainTime (.bringupFull ⟨0, 0⟩)
    .next (wakeQueue ((kickAll s3).after (decayTime - s3.count % decayTime) .hedgeDecay))

/-- A die did not train in time, or one of its HBM stacks did not, be the die up or not: LOST; with no die up, bring-up
fails (R484). -/
def execBringupDieTimeout (die : Nat) (hbm : Bool) (s : State) : Host.Outcome State Fault Refusal :=
  if s.bootState = 1 ∧ hbm = false then .next (if s.plat.verified then setBoot s 4 4 else s)
  else if (s.bootState = 1 ∨ s.bootState = 2) ∧ die < 8 ∧ (s.dieState die = 0 ∨ (hbm = true ∧ s.dieState die ≠ 3)) then
    .next (loseDie s die (if hbm then 6 else 4))
  else .next s

/-! Virtual dies (R6, R484, R486). -/

/-- Move the bytes of a range to another key. -/
def moveCells (k n k2 : Nat) (l : List Host.Cell) : List Host.Cell :=
  let part := (l.filter (fun c => decide (k ≤ c.1) && decide (c.1 < k + n))).map (fun c => (c.1 - k + k2, c.2))
  let rest := l.filter (fun c => !(decide (k ≤ c.1) && decide (c.1 < k + n)))
  below k2 rest ++ part ++ from' (k2 + n) rest

def moveUnits (k n k2 : Nat) (l : Tab Nat) : Tab Nat :=
  (l.filter (fun u => !(decide (k2 ≤ u.1) && decide (u.1 < k2 + n)))).map (fun u => if k ≤ u.1 ∧ u.1 < k + n then (u.1 - k + k2, u.2) else u)

/-- The stacks of a physical die that no virtual die is mapped to: space 13. -/
def parkedKey (pdie : Nat) : Nat := spaceKey 13 (pdie * dieBytes)
def vdieKey (vdie : Nat) : Nat := spaceKey 0 (vdie * dieBytes)

def moveHbm (k k2 : Nat) (m : Mem) : Mem :=
  { m with cells := moveCells k dieBytes k2 m.cells, poison := moveUnits k dieBytes k2 m.poison, seals := moveUnits k dieBytes k2 m.seals }

/-- The L3 keeps no line of a virtual die that moves. -/
def dropHome (vdie : Nat) (m : Mem) : Mem := { m with l3 := m.l3.filter (fun x => !(inHbm (x.line * 128) && homeDie (x.line * 128) == vdie)) }

/-- The physical die of a virtual die in a map; 8 stands for none. -/
def pdieOf (map : Vector Nat 8) (d : Nat) : Nat := map.toList.getD d 8

/-- A virtual die leaves its physical die, on whose stacks its HBM contents stay. -/
def leaveDie (old : Vector Nat 8) (m : Mem) (d : Nat) : Mem := if pdieOf old d < 8 then moveHbm (vdieKey d) (parkedKey (pdieOf old d)) m else m
/-- A virtual die finds on its new physical die what that die's stacks hold. -/
def enterDie (new : Vector Nat 8) (m : Mem) (d : Nat) : Mem := dropHome d (if pdieOf new d < 8 then moveHbm (parkedKey (pdieOf new d)) (vdieKey d) m else m)

/-- The virtual dies take another map: HBM contents stay on their physical stacks (R486). -/
def takeMap (s : State) (new : Vector Nat 8) : State :=
  let old := s.plat.dieMap
  let ch := (List.range 8).filter (fun d => pdieOf new d != pdieOf old d)
  let s1 := s.modM (fun m => ch.foldl (enterDie new) (ch.foldl (leaveDie old) m))
  { s1 with plat := { s1.plat with dieMap := new } }

/-! The map at bring-up (R484). -/

/-- The physical dies that trained, in ascending order. -/
def trained (s : State) : List Nat := (List.range 8).filter (fun d => !s.plat.physBad.contains d)

/-- The physical die that the monitor has chosen for a virtual die by a remap at bring-up, if that die trained. -/
def chosen (s : State) (d : Nat) : Option Nat :=
  let p := pdieOf s.plat.dieMap d
  if p ≠ d ∧ (trained s).contains p = true then some p else none

/-- The virtual dies without a choice take the others in ascending order. -/
def fillMap : List (Option Nat) → List Nat → List Nat
  | [], _ => []
  | some p :: r, l => p :: fillMap r l
  | none :: r, p :: l => p :: fillMap r l
  | none :: r, [] => 8 :: fillMap r []

/-- The map of the virtual dies, in ascending order, to the physical dies that trained (R484), but for those that the monitor has
mapped otherwise (R486; log 88). -/
def mapDies (s : State) : Vector Nat 8 :=
  let cs := (List.range 8).map (chosen s)
  let l := fillMap cs ((trained s).filter (fun p => !cs.contains (some p)))
  Vector.ofFn (fun (i : Fin 8) => l.getD i.val 8)

/-- The virtual dies on the physical dies of a mask are LOST with a cause; a physical die without one is bad from now on. -/
def failDies (cause : Nat) (bits : BitVec 8) (s : State) : State :=
  ((List.range 8).filter (fun p => bits.getLsbD p)).foldl (fun x p =>
    match (List.range 8).find? (fun d => pdieOf x.plat.dieMap d == p && x.dieState d != 3) with
    | some d => loseDie x d cause
    | none => if x.plat.physBad.contains p then x else { x with plat := { x.plat with physBad := x.plat.physBad ++ [p] } }) s

/-- A virtual die comes up on its physical die, or is LOST without one (R484). -/
def dieUp (s : State) (d : Nat) : State :=
  if s.plat.dieMap.toList.getD d 8 < 8 then
    (if s.dieState d = 1 ∨ s.dieState d = 2 then s
     else
       let s1 := setDie s d 1 (some 0)
       (List.range 128).foldl (fun x c => if (x.core (d * 128 + c)).lost then x.setCore (d * 128 + c) CoreSt.reset else x) s1)
  else if s.dieState d = 3 then s.setReg0 (dieOff d + 0xB00) (putFld (s.reg0 (dieOff d + 0xB00)) 11 8 7)
  else loseDie s d 7

/-- The other dies, the HBM and the optics have trained, but for the physical dies that did not, and those with an HBM stack that did
not: they are LOST with their causes, the virtual dies are mapped to the others, and STATE is FULL (R394, R396, R484). -/
def execBringupFull (f : FailedDies) (s : State) : Host.Outcome State Fault Refusal :=
  if s.bootState ≠ 2 then .next s
  else
    let s0 := failDies 6 f.hbm (failDies 4 f.late s)
    let s1 := (List.range 8).foldl dieUp (takeMap s0 (mapDies s0))
    .next (soonAll (retryGangs (allGrants (wakeQueue (trainPorts (setBoot s1 3 0))))))

/-! Measurements (R395). -/

/-- The sixteen words of the DMA windows in ascending order. -/
def windowWords (s : State) : Nat := packN 64 (fun i => (s.reg2 (0x100 + 8 * i)).toNat) 16
def measWord (s : State) : BitVec 256 := BitVec.ofNat 256 (packN 64 (fun i => (s.reg2 (0x10 + 8 * i)).toNat) 4)

/-- GET_MEASUREMENTS is answered with the measurement and the signature over it (R395; log 15). -/
def execSpdmGetMeasurements (i : MeasIndex) (s : State) : Host.Outcome State Fault Refusal :=
  let v : Nat × BitVec 256 := match i with
    | .image => (1, measWord s)
    | .windows => (2, Config.digest (windowWords s + 256 ^ 128))
  .next { s with plat := { s.plat with spdm := s.plat.spdm ++ [(v.1, v.2, Config.signed v.1 v.2)] } }

/-! CXL (R121, R125, R142, R155, R390, R415). -/

/-- CXL.mem is served: not between ENTER and RUN (R415). -/
def cxlOn (s : State) : Bool := s.bivState == 0 || s.bivState == 9

/-- The owner of the host's own accesses: no partition, KEY 0 (R112). -/
def hostOwn : Nat := 64 * 64

/-- The answer to a read of the host: its bytes, or none where the data is poisoned (R415, R464). -/
def cxlAnswer (s : State) (off len : Nat) (v : Option Nat) : State := { s with plat := { s.plat with cxl := s.plat.cxl ++ [(off, len, v)] } }

/-- A host request through CXL.mem to host offset `off` performs at the line's L3 slice. To a die that is lost, or while none is
served, a read returns poisoned data and a write is discarded; one to a die that is not up yet waits (R155, R396, R415). -/
def execCxlMemAccess (off len : Nat) (store : Option Nat) (s : State) : Host.Outcome State Fault Refusal :=
  let ma := 0x10000000000 + off
  if !cxlOn s || decide (0xC000000000 < off + len) || s.dieLost (homeDie ma) then
    .next (if store.isNone then cxlAnswer s off len none else s)
  else if notYetUp s ma then .next (s.after Config.fabricTime (.cxlMemAccess off len store))
  else
    let s1 := l3Touch s hostOwn ma len store.isSome
    match store with
    | none => .next (cxlAnswer s1 off len (if s1.mem.poisoned (maKey ma) len then none else some (s1.mem.get (maKey ma) len)))
    | some v => .next (s1.modM (·.put (maKey ma) len (v % 256 ^ len)))

/-- A snoop of the host: what the module wrote to the line reaches the host, and on an invalidation the module gives its copies
up; then the host may write to its memory (R125, R155). -/
def execCxlCacheSnoop (h : HostLine) (invalidate : Bool) (s : State) : Host.Outcome State Fault Refusal :=
  .next (h.writes.foldl hostWrite (snoop s h.addr invalidate))

/-! Remaps (R486). -/

/-- The map with a virtual die on another physical die; a virtual die that stood there takes the place left (log 88). -/
def exchanged (map : Vector Nat 8) (vdie pdie : Nat) : Vector Nat 8 :=
  Vector.ofFn (fun (i : Fin 8) => if i.val = vdie then pdie else if pdieOf map i.val = pdie then pdieOf map vdie else pdieOf map i.val)

/-- The monitor maps a virtual die onto a physical die that has not failed: at bring-up or in ASLEEP, where working dies may change
places, or in RUN onto an unmapped one, for a virtual die that is LOST, which is then up. HBM contents stay on their stacks; a virtual
die that leaves a physical die that is gone is LOST at REPLAY (R486). -/
def execVirtualDieRemap (vdie pdie : Nat) (s : State) : Host.Outcome State Fault Refusal :=
  let boot := s.bootState == 1 || s.bootState == 2
  let run := s.bootState == 3 && (s.bivState == 0 || s.bivState == 9) && s.dieLost vdie && !s.plat.dieMap.toList.contains pdie
  let old := pdieOf s.plat.dieMap vdie
  if 8 ≤ vdie ∨ 8 ≤ pdie ∨ s.plat.physBad.contains pdie = true ∨ (boot || run || s.bivState == 5) = false then .next s
  else
    let s1 := takeMap s (exchanged s.plat.dieMap vdie pdie)
    let gone := s.bivState == 5 && (s.plat.physBad.contains old || old == 8)
    let s2 : State := if gone then { s1 with plat := { s1.plat with bivLost := s1.plat.bivLost ++ [(vdie, 7)] } } else s1
    .next (if run then retryGangs (allGrants (wakeQueue (soon (dieUp s2 vdie) vdie))) else s2)

end Sys2Proof.Machine
end

