-- ==== Sys2Proof/Machine/Fabric.lean ====
section
/-! DEFINITION. The fabric: routes, ports, wavelengths, flits from peers, dark ports, belay cuts (R399-R404, R410-R412,
R480-R483). What peers hold, and the allowance that they return, lie outside the model (log 18). -/
namespace Sys2Proof.Machine
open Sys2Proof

/-! Registers. -/

/-- `ILU_CFG`: DEVNUM is written only while EN is 0, and ports train while EN is 1 (R399). -/
def execIluCfgWrite (value : BitVec 64) (s : State) : Host.Outcome State Fault Refusal :=
  let old := s.reg2 0x200
  .next (trainPorts (s.setReg2 0x200 (if old.getLsbD 8 then (value &&& 0xF100) ||| (old &&& 0xFF) else value &&& 0xF1FF)))

/-- `ILU_ROUTE` d: held cancels go out by a route that is valid now (R403, R482). -/
def execIluRouteWrite (dev : Nat) (value : BitVec 64) (s : State) : Host.Outcome State Fault Refusal :=
  if 256 ≤ dev then .next s else .next (wakeQueue (resendCancels (s.setReg2 (0x400 + dev * 8) (value &&& 0x13F))))

/-- LAMUP and RETR show how many wavelengths of the port are in use and how many retrain (R400, R480; log 67). -/
def showLams (s : State) (p : Nat) : State :=
  setPortWord (setPortWord s p 43 36 (s.port p).lams.length) p 35 28 (s.port p).retr.length

/-! Wavelengths (R401, R480). -/

/-- 100 ms. -/
def relockTime : Nat := 100 * millisecond

/-- The errors of a window of 2^32 bits cross the threshold 10^−BERX; values 0 to 3 of BERX act as 4 (R399, R401). -/
def berCrossed (s : State) (errors : Nat) : Bool := decide (2 ^ 32 < errors * 10 ^ max 4 (fld (s.reg2 0x200) 15 12))

/-- The error rate of a wavelength has been measured: one that crosses the threshold leaves use and retrains; a port without any goes
dark. -/
def execWavelengthLeave (port : Nat) (l : LamErrors) (s : State) : Host.Outcome State Fault Refusal :=
  let x := s.port port
  if !portUp s port || !x.lams.contains l.lam || !berCrossed s l.errors then .next s
  else
    let s1 := showLams (s.setPort port { x with lams := x.lams.erase l.lam, retr := tabSet l.lam s.clock x.retr }) port
    let s2 := s1.after relockTime (.wavelengthFailed port l.lam)
    .next (if (s2.port port).lams.isEmpty then s2.after 0 (.portDark port) else s2)

/-- A relocked wavelength is in use again. -/
def execWavelengthRejoin (port lam : Nat) (s : State) : Host.Outcome State Fault Refusal :=
  let x := s.port port
  if !portUp s port || !x.retr.any (fun r => r.1 == lam) then .next s
  else .next (showLams (s.setPort port { x with lams := insKey lam x.lams, retr := tabDel lam x.retr }) port)

/-- A wavelength that has not relocked within 100 ms stays out of use until the next link-up. -/
def execWavelengthFailed (port lam : Nat) (s : State) : Host.Outcome State Fault Refusal :=
  let x := s.port port
  if !x.retr.any (fun r => r.1 == lam && decide (r.2 + relockTime ≤ s.clock)) then .next s
  else .next (showLams (s.setPort port { x with retr := tabDel lam x.retr }) port)

/-! What waits for a port (R411, R481). -/

/-- A piece of a copy awaits the answer of a device. -/
def Piece.awaits (dev : Nat) (p : Piece) : Bool := match p.st with | .away d => d == dev | _ => false

/-- The operations in flight whose home or destination is a device. A matrix command names a cluster of its own module (R322). -/
def opTo (s : State) (dev : Nat) (o : Op) : Bool :=
  match o.k with
  | .commit _ _ _ _ _ dkey _ _ _ _ => keyDev s dkey == dev
  | .tread _ dkey _ _ _ _ _ _ _ => keyDev s dkey == dev
  | .msg dest _ _ => dest / 4096 == dev
  | .copy ps _ _ _ => ps.any (Piece.awaits dev)
  | _ => false

/-- The step with which an operation towards a device goes on. -/
def opStep (dev : Nat) (o : Op) : Option Event :=
  match o.k with
  | .commit _ _ _ _ _ _ _ _ _ a => some (if a.isSome then .commitReply o.id else .commitAtHome o.id)
  | .tread _ _ _ _ _ _ _ _ a => some (if a.isSome then .treadReply o.id else .treadAtHome o.id)
  | .msg _ _ _ => some (.msgDeliver ⟨o.id, .ok⟩)
  | .copy ps _ _ _ => (ps.findIdx? (Piece.awaits dev)).map (fun i => .copyPiece o.id ⟨i, .ok⟩)
  | _ => none

/-- The threads that await a reply of a device. -/
def awaiting (s : State) (dev : Nat) : List Nat := s.holders.filter (fun n => (s.getT n).i.replies.any (readsFrom s dev))

/-- What the module owes a peer leaves first, as the allowance covers it (R402; log 74). -/
def payOwing (s : State) (p : Nat) : State :=
  let n := min (s.port p).owing (s.allow p)
  (s.setPort p { s.port p with owing := (s.port p).owing - n }).send p n

/-- The stores assigned to a port leave on it in order, those that perform together in one, while the allowance covers their
flits (R133, R402, R403). -/
def sendGo : Nat → Nat → State → State
  | 0, _, s => s
  | f + 1, p, s =>
    match (s.port p).waiting with
    | [] => s
    | x :: r =>
      let g := x :: joinedOf r
      let n := flitsOf (g.map (fun y => y.len)).sum
      if s.allow p < min n 512 then s
      else sendGo f p (g.foldl post ((s.setPort p { s.port p with waiting := unjoined r }).send p n))

/-- What waits at a port that is up and not held leaves in order (R402). -/
def sendWaiting (s : State) (p : Nat) : State :=
  if !portUp s p || portHeld s p then s
  else
    let s1 := payOwing s p
    if 0 < (s1.port p).owing then s1 else sendGo (s1.port p).waiting.length p s1

/-- Everything that waits for a device goes on: its port serves again. -/
def kickDev (s : State) (dev : Nat) : State :=
  let s1 := (awaiting s dev).foldl (fun x n => (x.after Config.fabricTime (.loadReply n .ok)).after Config.fabricTime (.tverReply n .ok)) s
  let s2 := (s1.sch.ops.filter (opTo s1 dev)).foldl (fun x o => match opStep dev o with | some e => x.after Config.fabricTime e | none => x) s1
  wakeQueue s2

/-- The replies that a thread awaits from a device fail with 0x73. -/
def failReplies (dev : Nat) (s : State) (n : Nat) : State :=
  let rs := (s.getT n).i.replies.filter (readsFrom s dev)
  rs.foldl (fun x r => asThread x n (landReply (.failed 0x73 (BitVec.ofNat 64 dev)) r)) s

/-- An operation towards a device fails with 0x73; a copy, the pieces that await the device (R448, R481). -/
def failOpTo (dev : Nat) (s : State) (o : Op) : State :=
  let c := mkCond 0x73 dev
  match o.k with
  | .commit _ _ _ _ _ _ _ _ pc _ => commitErr s o c pc
  | .tread _ _ _ d _ _ _ _ _ => endRead s o d none (some c) false
  | .msg _ _ _ => completeHandle (s.dropOp o.id) o.id o.rcd (.done 0 (some c) (some o.scope) false)
  | .copy ps value ss what => setPieces s o.id (ps.map (fun q => if Piece.awaits dev q then refusePiece s o c q else q)) value ss what
  | _ => s

/-- A store towards a device is reported to its record. -/
def failStore (dev : Nat) (s : State) (x : Store) : State := s.after 0 (.homeErrorReport x.rcd 0x73 ⟨BitVec.ofNat 64 dev, x.issued⟩)

/-- The stores that a core has sent towards a device and that nothing acknowledged (R481). -/
def failPosted (dev : Nat) (s : State) (core : Nat) : State :=
  let gone (x : Nat × Store) : Bool := x.2.route == .remote dev
  let c := s.core core
  ((c.posted.filter gone).map (fun x => x.2)).foldl (failStore dev) (s.setCore core { c with posted := c.posted.filter (fun x => !gone x) })

/-- The module from which an attempt awaits its number or its judgement. -/
def wantDev (s : State) (w : Want) : Nat :=
  match s.findLaunch w.launch with
  | some l => if l.isMirror && w.backup then l.originDev s.device else tileDev s l w.task
  | none => s.device

/-- Questions to the front end of a device whose answers are lost count as refused (R358). -/
def failAsked (s : State) (dev : Nat) : State :=
  let s1 := (s.sch.offers.filter (fun o => o.devs.head? == some dev)).foldl (fun x o => x.after 0 (.backupOfferAnswer o.launch o.task o.attempt false)) s
  (s1.sch.wants.filter (fun w => wantDev s1 w == dev)).foldl (fun x w => x.after 0 (.hedgeBudgetAnswer w.launch w.task w.attempt none)) s1

/-- Every access towards a device that waits at a port, or that its home has not acknowledged, fails (R481). -/
def failPort (s : State) (p dev : Nat) : State :=
  let ws := (s.port p).waiting
  let s1 := ws.foldl (failStore dev) (s.setPort p { s.port p with waiting := [] })
  let s2 := (s1.cores.map (fun c => c.1)).foldl (failPosted dev) s1
  let s3 := (awaiting s2 dev).foldl (failReplies dev) s2
  let s4 := (s3.sch.ops.filter (opTo s3 dev)).foldl (failOpTo dev) s3
  wakeQueue (failAsked s4 dev)

/-! Flits from peers (R401, R402). -/

/-- An operation that a peer issued: no thread and no record of this module owns it (log 18). -/
def peerOp (s : State) (part : Nat) (k : OpKind) : Op :=
  { id := s.sch.nextId, th := 4096, rcd := 0, clu := 0, scope := .fab, part := part, spec := true, k := k }

/-- A peer's store to a doorbell counts if it is one of 32 bits to offset 0 or 8 by the partition that owns the pair (R408). -/
def peerBell (s : State) (part ma len : Nat) : Bool :=
  len == 4 && (ma % 0x100 == 0 || ma % 0x100 == 8) && fld (s.reg2 (ethQOff (ma % 0x8000 / 0x1000) (ma % 0x1000 / 0x100))) 61 56 == part

/-- A peer's bytes reach a module address, with the checks of the home: the peer hears of a failure (R124). -/
def peerWrite (s : State) (own ma len v : Nat) : State :=
  if inBell ma then (if peerBell s (own / 64) ma len then setTail s (ma % 0x8000 / 0x1000) (ma % 0x1000 / 0x100) (ma % 0x100 == 8) v else s)
  else if reservedMa ma then s
  else if inHost ma && !s.hostAllowed (ma - 0x80000000000) len then s
  else if !inHost ma && s.dieLost (homeDie ma) then s
  else (l3Touch s own ma len true).modM (·.put (maKey ma) len (v % 256 ^ len))

/-- The home of a module address of HBM answers. -/
def hbmServed (s : State) (ma : Nat) : Bool := inHbm ma && !s.dieLost (homeDie ma)

/-- What the module answers a peer's access with: the bytes of a read, or word that the access has been heard, in its flits (R401). -/
def answerLen : Flit → Option Nat
  | .read _ _ len => some len
  | .write _ _ _ _ => some 0
  | .atomic _ _ _ t _ => some t.bytes
  | .commit _ _ _ _ _ _ _ _ _ => some 0
  | .msg _ _ _ _ _ => some 0
  | _ => none

/-- What a flit carries performs here, at the home's L3 slice (R124, R402). -/
def performFlit (s : State) (p : Nat) (f : Flit) : State :=
  match f with
  | .write own ma len v => peerWrite s own ma len v
  | .read own ma len => if hbmServed s ma then l3Touch s own ma len false else s
  | .idle => s
  | .allowance n =>
    let s1 := sendWaiting (setPortWord s p 55 44 (min 4095 (s.allow p + n))) p
    resendCancels (kickDev s1 (portPeer s1 p))
  | .atomic own ma op t x =>
    if !hbmServed s ma || s.mem.poisoned (maKey ma) t.bytes then s else (atomicAt s (.l3 ma own) (maKey ma) t.bytes op t x.toNat).2
  | .commit part launch task att base desc ma size data =>
    if !inHbm ma then s
    else (homeCommit s (peerOp s part (.msg 0 { header := 0, len := 0, payload := 0 } 0)) launch task att base desc (maKey ma) size data).2
  | .msg th launch header len payload =>
    let o := peerOp s 0 (.msg (s.device * 4096 + th % 4096) { header := header, len := len, payload := payload } launch)
    (s.modSch (fun c => { c with ops := c.ops ++ [o], nextId := c.nextId + 1 })).after 0 (.msgDeliver ⟨o.id, .ok⟩)
  | .cancel launch task exempt => s.after 0 (.cancelDelivery launch task exempt)

/-- A flit is applied, and its answer goes back on its port (R402). -/
def applyFlit (s : State) (p : Nat) (f : Flit) : State :=
  match answerLen f with
  | some n => (performFlit s p f).owe (portPeer s p) (flitsOf n)
  | none => performFlit s p f

/-- `CUT_STAT` with one flit more captured (R410). -/
def cutStat (s : State) : Word := s.reg2 0x4008
def cutState (s : State) : Nat := fld (cutStat s) 3 0
def countCapt (s : State) : State := s.setReg2 0x4008 (putFld (cutStat s) 39 16 (fld (cutStat s) 39 16 + 1))

/-- What a port's receive buffer holds of its 512 entries; a marker takes none (R402, R497). -/
def roomOf (x : PortSt) : PortSt :=
  { x with room := 512 - x.captured.length - (x.behind.filter (fun a => match a with | .flit _ => true | .marker _ _ _ => false)).length }

/-- A cut still captures what comes in on a port: RECORDING waits for its marker (R411). -/
def captures (s : State) (p : Nat) : Bool := cutState s == 1 && s.plat.cutInputs.contains p

/-- A flit of data is received: it waits behind a marker, is captured, waits behind what a cut has captured, or applies (R411,
R412). -/
def takeFlit (s : State) (p : Nat) (f : Flit) : State :=
  let x := s.port p
  if !x.behind.isEmpty then s.setPort p (roomOf { x with behind := x.behind ++ [.flit f] })
  else if captures s p then countCapt (s.setPort p (roomOf { x with captured := x.captured ++ [f] }))
  else if !x.captured.isEmpty then s.setPort p (roomOf { x with captured := x.captured ++ [f] })
  else applyFlit s p f

/-- A flit arrives on a port that is up, in order; its buffer entry goes back to the peer's allowance once it applies. A peer
sends none without allowance, so that none finds the buffer full (R401, R402, R411). -/
def execFlitReceive (port : Nat) (f : Flit) (s : State) : Host.Outcome State Fault Refusal :=
  if !portUp s port || (s.port port).room == 0 then .next s
  else .next (takeFlit (s.setPort port { s.port port with seq := (s.port port).seq + 1 }) port f)

/-! Belay cuts (R410-R412, R483). -/

/-- The ports whose peer is in a group. -/
def memberPorts (s : State) (grp : Nat) : List Nat := (List.range 64).filter (fun p => (s.port p).linked && grp != 0 && groupHas s grp (portPeer s p))

/-- A port records its state, sends its marker and is held. The marker is a flit of the port's, and lowers no allowance (R411, R497). -/
def holdPort (s : State) (p : Nat) : State :=
  let x := s.port p
  let w := portWord s p
  let s1 := s.setPort p { x with recWord := w, recSeq := (x.seq, x.sentSeq) }
  if portUp s1 p then setPortWord (s1.setPort p { s1.port p with sentSeq := x.sentSeq + 1 }) p 3 3 1 else s1

/-- RECORDING begins; without inputs to wait for the cut is HELD at once. A member input that is dark delivers no marker, and
keeps the cut in RECORDING (R411, R483). -/
def startCut (s : State) (id init grp : Nat) (c0 : Option Nat) : State :=
  let ms := memberPorts s grp
  let ins := ms.filter (fun p => c0 != some p)
  let st := BitVec.ofNat 64 (id % 65536 * 2 ^ 48 + init % 256 * 2 ^ 40 + (if ins.isEmpty then 2 else 1))
  let s1 := (ms.foldl holdPort s).setReg2 0x4008 st
  { s1 with plat := { s1.plat with
      cutInputs := ins
      cutGrp := grp
      cutRoutes := (List.range 256).filterMap (fun d => let w := s1.reg2 (0x400 + d * 8); if w = 0 then none else some (d, w)) } }

/-- GO, which only IDLE and ABORTED take (R410). -/
def execCutGo (id grp : Nat) (s : State) : Host.Outcome State Fault Refusal :=
  if cutState s = 0 ∨ cutState s = 4 then .next (startCut s id s.device grp none) else .next s

/-- One input's marker has come. -/
def markerIn (s : State) (p : Nat) : State :=
  let ins := s.plat.cutInputs.erase p
  let s1 : State := { s with plat := { s.plat with cutInputs := ins } }
  if ins.isEmpty ∧ cutState s = 1 then s1.setReg2 0x4008 (putFld (cutStat s1) 3 0 2) else s1

/-- A marker: it starts a cut, ends the capture on its input, or waits with what follows it while another cut runs. One of a
cut that has been aborted is spent (R411). -/
def takeMarker (s : State) (p id init grp : Nat) : State :=
  let x := s.port p
  let mine := fld (cutStat s) 63 48 == id && s.plat.cutInputs.contains p
  if !x.behind.isEmpty then s.setPort p (roomOf { x with behind := x.behind ++ [.marker id init grp] })
  else if mine then markerIn s p
  else if cutState s = 1 ∨ cutState s = 2 then
    (if fld (cutStat s) 63 48 = id then s else s.setPort p (roomOf { x with behind := [.marker id init grp] }))
  else startCut s id init grp (some p)

/-- A belay marker arrives: a flit of its channel (R411). -/
def execBelayMarker (port id init grp : Nat) (s : State) : Host.Outcome State Fault Refusal :=
  if !portUp s port then .next s else .next (takeMarker (s.setPort port { s.port port with seq := (s.port port).seq + 1 }) port id init grp)

/-- What waited behind a marker is received again. -/
def unqueue (s : State) (p : Nat) : State :=
  let x := s.port p
  x.behind.foldl (fun y a => match a with | .flit f => takeFlit y p f | .marker id init grp => takeMarker y p id init grp) (s.setPort p (roomOf { x with behind := [] }))

/-- 10 ms. -/
def darkTime : Nat := 10 * millisecond

/-- Captured flits apply in arrival order; then the hold lifts (R412). A port that went dark meanwhile counts from now (R481). -/
def freePort (s : State) (p : Nat) : State :=
  let x := s.port p
  let s1 := x.captured.foldl (fun y f => applyFlit y p f) (s.setPort p (roomOf { x with captured := [] }))
  let s2 := setPortWord s1 p 3 3 0
  if !portHeld s1 p then s1
  else if portUp s2 p then kickDev (sendWaiting s2 p) (portPeer s2 p)
  else (s2.setPort p { s2.port p with dark := some s2.clock }).after darkTime (.darkPortTimeout p)

/-- The cut ends in IDLE or ABORTED: every hold lifts, and what waited behind a marker is received. -/
def releaseCut (s : State) (st : Nat) : State :=
  let held := (List.range 64).filter (fun p => portHeld s p || !(s.port p).captured.isEmpty)
  let s1 := s.setReg2 0x4008 (putFld (cutStat s) 3 0 st)
  let s2 := held.foldl freePort s1
  let s3 := wakeQueue (resendCancels s2)
  ((List.range 64).filter (fun p => !(s3.port p).behind.isEmpty)).foldl unqueue s3

/-- REL, which only HELD takes (R412). -/
def execCutRel (s : State) : Host.Outcome State Fault Refusal := .next (if cutState s = 2 then releaseCut s 0 else s)

/-- ABORT in RECORDING or HELD (R412). -/
def execCutAbort (s : State) : Host.Outcome State Fault Refusal := .next (if cutState s = 1 ∨ cutState s = 2 then releaseCut s 4 else s)

/-! Link-up and darkness (R402, R480-R483). -/

/-- Backups on a module that cannot be reached are watched (R481). -/
def watchBackups (s : State) (dev : Nat) : State :=
  (s.sch.away.filter (fun a => a.dev == dev)).foldl (fun y a => y.after unreachTime (.backupUnreachable ⟨a.launch, a.task, a.attempt⟩)) s

/-- A port goes dark, or fails to train: it sends nothing, its allowance is held, a cut that waits for its marker ends in ABORTED, and backups on
the peer are watched (R480, R481, R483). -/
def execPortDark (port : Nat) (s : State) : Host.Outcome State Fault Refusal :=
  if fld (portWord s port) 2 0 = 0 then .next s
  else
    let x := s.port port
    let s1 := showLams ((setPortWord s port 2 0 0).setPort port { x with lams := [], retr := [], dark := some (x.dark.getD s.clock), gone := some (x.gone.getD s.clock) }) port
    let s3 := (watchBackups s1 (portPeer s1 port)).after darkTime (.darkPortTimeout port)
    .next (if cutState s3 = 1 ∧ s3.plat.cutInputs.contains port = true then releaseCut s3 4 else s3)

/-- After 10 ms of darkness without a hold, what waits or is unacknowledged fails (R481). -/
def execDarkPortTimeout (port : Nat) (s : State) : Host.Outcome State Fault Refusal :=
  match (s.port port).dark with
  | none => .next s
  | some t => if portHeld s port || decide (s.clock < t + darkTime) then .next s else .next (failPort s port (portPeer s port))

/-- A port links up with a peer, whose receiver has so many free entries of its 512, and a number of wavelengths, numbered from 0.
With another peer than before, the allowance and the sequence numbers start afresh, and what was assigned to the port fails; with the
same, it goes on, with no more allowance than the receiver has free (R402, R480, R481, R501). -/
def execPortLinkUp (port peer allowance lam : Nat) (s : State) : Host.Outcome State Fault Refusal :=
  if !(s.reg2 0x200).getLsbD 8 || s.bootState != 3 || s.bivState == 4 || s.bivState == 5 || portUp s port then .next s
  else
    let x := s.port port
    let old := portPeer s port
    let fresh := !x.linked || old != peer % 256
    let free := min 512 allowance
    let w := putFld (putFld (portWord s port) 63 56 peer) 2 0 2
    let s0 := s.setReg2 (portOff port) (putFld w 55 44 (if fresh then free else min (s.allow port) free))
    let y : PortSt := { x with dark := none, gone := none, linked := true, lams := List.range lam, retr := [] }
    let s1 := showLams (s0.setPort port (if fresh then { y with seq := 0, sentSeq := 0, owing := 0 } else y)) port
    let s2 := if x.linked && old != peer % 256 then failPort s1 port old else s1
    let s3 := if portHeld s2 port then s2 else kickDev (sendWaiting s2 port) (peer % 256)
    .next (wakeQueue (resendCancels s3))

end Sys2Proof.Machine
end

