-- ==== Sys2Proof/Machine/Ethernet.lean ====
section
/-! DEFINITION. The Ethernet ports (R405-R409): descriptors, frames sent and received, steering, pauses, links. The link itself,
its FEC, the FCS and the PAUSE frames that a port sends lie outside the model (log 19). -/
namespace Sys2Proof.Machine
open Sys2Proof

/-! Registers (R406). -/

def ethOff (port : Nat) : Nat := 0x8000 + port * 0x800
def ethCfg (s : State) (port : Nat) : Word := s.reg2 (ethOff port)
def ethOn (s : State) (port : Nat) : Bool := (ethCfg s port).getLsbD 0
def ethUp (s : State) (port : Nat) : Bool := (s.reg2 (ethOff port + 0x10)).getLsbD 0
def ethPaused (s : State) (port : Nat) : Bool := (s.reg2 (ethOff port + 0x10)).getLsbD 1
def setEthStat (s : State) (port bit : Nat) (on : Bool) : State :=
  s.setReg2 (ethOff port + 0x10) (putFld (s.reg2 (ethOff port + 0x10)) bit bit (if on then 1 else 0))
/-- MAXF: larger values act as 9,216, and smaller as 64. -/
def maxFrame (s : State) (port : Nat) : Nat := max 64 (min 9216 (fld (ethCfg s port) 29 16))
/-- A saturating counter goes up. -/
def ethCount (s : State) (port o : Nat) : State :=
  let a := ethOff port + o
  s.setReg2 a (BitVec.ofNat 64 (min (2 ^ 64 - 1) ((s.reg2 a).toNat + 1)))

/-- A queue pair, its registers. -/
def State.ethQ (s : State) (port q : Nat) : EthQ := tabGet EthQ.reset s.plat.eth (port * 16 + q)
def State.setEthQ (s : State) (port q : Nat) (x : EthQ) : State := { s with plat := { s.plat with eth := tabSet (port * 16 + q) x s.plat.eth } }
def qCfg (s : State) (port q : Nat) : Word := s.reg2 (ethQOff port q)
def qPtr (s : State) (port q : Nat) : Word := s.reg2 (ethQOff port q + 0x18)
def qStat (s : State) (port q : Nat) : Word := s.reg2 (ethQOff port q + 0x20)
def sendSize (s : State) (port q : Nat) : Nat := ringSize (fld (qCfg s port q) 55 52)
def recvSize (s : State) (port q : Nat) : Nat := ringSize (fld (qCfg s port q) 51 48)
def qPart (s : State) (port q : Nat) : Nat := fld (qCfg s port q) 61 56

/-- The ports run in FULL and outside bivouac (R396, R409). -/
def ethRuns (s : State) : Bool := s.bootState == 3 && (s.bivState ≤ 1 || s.bivState == 9)
/-- A pair takes descriptors: enabled and not stopped. -/
def qTakes (s : State) (port q : Nat) : Bool := ethRuns s && (qCfg s port q).getLsbD 63 && !(qStat s port q).getLsbD 63

/-- Clearing EN clears STOP, CODE and the pointers; the other fields are written only while EN is 0. -/
def execEthqCfgWrite (port q : Nat) (value : BitVec 64) (s : State) : Host.Outcome State Fault Refusal :=
  let old := qCfg s port q
  if old.getLsbD 63 then
    .next (if value.getLsbD 63 then s
      else
        let s1 := s.setReg2 (ethQOff port q) (putFld old 63 63 0)
        ((s1.setReg2 (ethQOff port q + 0x18) 0).setReg2 (ethQOff port q + 0x20) 0).setEthQ port q EthQ.reset)
  else .next (s.setReg2 (ethQOff port q) (value &&& 0xFFFFFFE000000000))

/-- The host or firmware writes both tails (R406, R408). -/
def execEthqPtrWrite (port q : Nat) (value : BitVec 64) (s : State) : Host.Outcome State Fault Refusal :=
  .next (setTail (setTail s port q false (fld value 47 32)) port q true (fld value 15 0))

/-! Memory in the pair's context. The port has no TLB and no L2: it reads and writes at the home. -/

/-- The engine's place in the numbering of clusters: none. -/
def ethClu : Nat := 128

/-- The STATUS code of a failed access (R407). -/
def ethCode : Stop → Nat
  | .cond c _ => if c.code = 0x71 then 4 else if c.code = 0x72 then 6 else 2
  | .wait _ => 2

/-- A pair stops with a code. -/
def ethStop (s : State) (port q code : Nat) : State := s.setReg2 (ethQOff port q + 0x20) (BitVec.ofNat 64 (2 ^ 63 + code))

def ringAddr (s : State) (port q : Nat) (rx : Bool) (i : Nat) : Nat := fld (s.reg2 (ethQOff port q + (if rx then 0x10 else 8))) 55 0 + 32 * i

/-- Read the descriptors [i, tail) of a ring in order, up to `n` of them; a ring that cannot be read stops the pair. -/
def fetchRing (port q : Nat) (rx : Bool) (size tail : Nat) : Nat → Nat → State → State
  | 0, _, s => s
  | n + 1, i, s =>
    if i = tail then s
    else match vmRead s ethClu (qPart s port q) (ringAddr s port q rx i) 32 with
      | .error e => ethStop s port q (ethCode e)
      | .ok (v, s1) =>
        let x := s1.ethQ port q
        fetchRing port q rx size tail n ((i + 1) % size) (s1.setEthQ port q (if rx then { x with recv := x.recv ++ [(i, v)] } else { x with send := x.send ++ [(i, v)] }))

/-- The index after the last descriptor read. -/
def nextFetch (l : List (Nat × Nat)) (head size : Nat) : Nat := match l.getLast? with | some d => (d.1 + 1) % size | none => head

/-- Both rings of a pair are read up to their tails. -/
def fetchPair (s : State) (port q : Nat) : State :=
  if !qTakes s port q then s
  else
    let p := qPtr s port q
    let x := s.ethQ port q
    let s1 := fetchRing port q false (sendSize s port q) (fld p 47 32) (sendSize s port q) (nextFetch x.send (fld p 63 48) (sendSize s port q)) s
    if !qTakes s1 port q then s1
    else fetchRing port q true (recvSize s port q) (fld p 15 0) (recvSize s port q) (nextFetch x.recv (fld p 31 16) (recvSize s port q)) s1

/-- A port that sees a new tail reads the posted descriptors (R408). -/
def execEthDescriptorFetch (port q : Nat) (s : State) : Host.Outcome State Fault Refusal :=
  .next ((fetchPair s port q).after Config.pieceTime (.ethFrameSent port q))

/-! STATUS (R407). -/

/-- The interrupt of a pair. -/
def ethInt (s : State) (port q : Nat) : State :=
  let w := qCfg s port q
  if w.getLsbD 62 then s.irq (fld w 47 37) else s

/-- A descriptor receives STATUS; a code from 2 on stops the pair. -/
def putStatus (s : State) (port q : Nat) (rx : Bool) (i code : Nat) : State :=
  match vmWrite s ethClu (qPart s port q) (ringAddr s port q rx i + 27) 1 code with
  | .error e => ethStop s port q (ethCode e)
  | .ok s1 => ethInt (if 2 ≤ code then ethStop s1 port q code else s1) port q

/-! Sending (R408). -/

/-- A send descriptor's reserved fields are zero. -/
def sendOk (d : Nat) : Bool := getBytes d 12 1 / 2 == 0 && getBytes d 13 14 == 0 && getBytes d 28 4 == 0

/-- The bytes that leave, without the FCS: a tag inserted after the addresses, zeros up to 60 bytes. -/
def framed (d v n : Nat) : Nat × Nat :=
  if (getBytes d 12 1).testBit 0 then
    let tag := 0x81 + getBytes d 11 1 * 2 ^ 16 + getBytes d 10 1 * 2 ^ 24
    (max 60 (max n 12 + 4), v % 256 ^ 12 + tag * 256 ^ 12 + v / 256 ^ 12 * 256 ^ 16)
  else (max 60 n, v)

/-- Take the first descriptor of a pair: the frame leaves, or its failure stops the pair. -/
def sendOne (s : State) (port q : Nat) (i d : Nat) : State :=
  let n := getBytes d 8 2
  if !sendOk d then putStatus s port q false i 5
  else if n = 0 ∨ maxFrame s port - 4 < n then putStatus s port q false i 3
  else match vmRead s ethClu (qPart s port q) (getBytes d 0 8) n with
    | .error e => putStatus s port q false i (ethCode e)
    | .ok (v, s1) =>
      let f := framed d v n
      let s2 : State := { s1 with plat := { s1.plat with wire := s1.plat.wire ++ [(port, f.1, f.2)], ethLast := tabSet port q s1.plat.ethLast } }
      let s3 := putStatus (ethCount s2 port 0x20) port q false i 1
      let p := qPtr s3 port q
      let x := s3.ethQ port q
      (s3.setReg2 (ethQOff port q + 0x18) (putFld p 63 48 ((i + 1) % sendSize s3 port q))).setEthQ port q { x with send := x.send.drop 1 }

/-- Sending is held: for a priority, or at 8 by PAUSE, for all of them. -/
def heldUntil (s : State) (port i : Nat) : Nat := tabGet 0 s.plat.pauseUntil (port * 16 + i)
def prioHeld (s : State) (port prio : Nat) : Bool := decide (s.clock < heldUntil s port prio ∨ s.clock < heldUntil s port 8)

/-- The priority of a frame to send: the PCP of the tag that its descriptor asks for, else of its own tag, else 0 (R405). -/
def framePrio (s : State) (port q d : Nat) : Nat :=
  if (getBytes d 12 1).testBit 0 then getBytes d 11 1 / 32
  else match vmRead s ethClu (qPart s port q) (getBytes d 0 8) 18 with
    | .ok (v, _) => if getBytes v 12 2 = 0x81 then getBytes v 14 1 / 32 else 0
    | .error _ => 0

/-- A pair has a frame to send, of a priority that is not held (R405, R406). -/
def sendReady (s : State) (port q : Nat) : Bool :=
  qTakes s port q && (match (s.ethQ port q).send with | (_, d) :: _ => !prioHeld s port (framePrio s port q d) | [] => false)

/-- The pair whose turn it is: the first after the last that sent (R408). -/
def sendTurn (s : State) (port : Nat) : Option Nat :=
  let last := tabGet 15 s.plat.ethLast port
  ((List.range 16).map (fun i => (last + 1 + i) % 16)).find? (sendReady s port)

/-- A pair's next frame leaves while the link is up and sending is not held; another pair's turn comes first (R406, R408). -/
def execEthFrameSent (port q : Nat) (s : State) : Host.Outcome State Fault Refusal :=
  if !ethOn s port || !ethUp s port || !sendReady s port q then .next s
  else if sendTurn s port ≠ some q then .next (s.after Config.pieceTime (.ethFrameSent port q))
  else match (s.ethQ port q).send with
    | [] => .next s
    | (i, d) :: _ => .next ((sendOne s port q i d).after Config.pieceTime (.ethFrameSent port q))

/-! Receiving (R405, R406, R408). -/

/-- A frame as a number, its first octet lowest. -/
def frameNum : List (BitVec 8) → Nat
  | [] => 0
  | b :: r => b.toNat + 256 * frameNum r

def destOf (f : Nat) : Nat := f % 2 ^ 48
/-- Two octets, the first the more significant. -/
def be16 (f o : Nat) : Nat := getBytes f o 1 * 256 + getBytes f (o + 1) 1
def tagged (f : Nat) : Bool := be16 f 12 == 0x8100
def vidOf (f : Nat) : Nat := if tagged f then be16 f 14 % 4096 else 0
def etypeOf (f : Nat) : Nat := if tagged f then be16 f 16 else be16 f 12

/-- The frame is addressed to the port. -/
def accepts (s : State) (port f : Nat) : Bool :=
  (ethCfg s port).getLsbD 2 || destOf f == fld (s.reg2 (ethOff port + 8)) 47 0 || destOf f == 2 ^ 48 - 1 ||
    (List.range 32).any (fun n => let w := s.reg2 (ethOff port + 0x100 + n * 8); w.getLsbD 63 && fld w 47 0 == destOf f)

def matchHits (w : Word) (f : Nat) : Bool :=
  w.getLsbD 63 && (!w.getLsbD 62 || fld w 43 32 == vidOf f) && (!w.getLsbD 61 || fld w 15 0 == etypeOf f)

/-- The queue pair of an accepted frame. -/
def steer (s : State) (port f : Nat) : Nat :=
  match ((List.range 16).map (fun m => s.reg2 (ethOff port + 0x40 + m * 8))).find? (fun w => matchHits w f) with
  | some w => fld w 51 48
  | none => 0

/-- A receive descriptor's reserved fields are zero. -/
def recvOk (d : Nat) : Bool := getBytes d 12 12 == 0 && getBytes d 28 4 == 0

/-- A frame's bytes go to the buffer of a descriptor, then its bytes 10 to 27, with STATUS 1. The TCI of a frame without a stripped
tag is stated nowhere: a free value. -/
def recvOne (s : State) (port q : Nat) (i d f n : Nat) : State :=
  let strip := (ethCfg s port).getLsbD 1 && tagged f
  let len := if strip then n - 4 else n
  let v := if strip then f % 256 ^ 12 + f / 256 ^ 16 * 256 ^ 12 else f
  let part := qPart s port q
  let room := getBytes d 8 2
  if !recvOk d then putStatus s port q true i 5
  else if room < 64 ∨ 9216 < room ∨ room < len then putStatus s port q true i 3
  else match vmWrite s ethClu part (getBytes d 0 8) len v with
    | .error e => putStatus s port q true i (ethCode e)
    | .ok s1 =>
      let (w, s2) := s1.freeWord
      let tci := if strip then be16 f 14 else w.toNat % 65536
      let bits := (if strip then 1 else 0) + (if destOf f = 2 ^ 48 - 1 then 4 else if f % 2 = 1 then 2 else 0)
      match vmWrite s2 ethClu part (ringAddr s2 port q true i + 10) 18 (tci + len * 256 ^ 14 + bits * 256 ^ 16 + 256 ^ 17) with
      | .error e => ethStop s2 port q (ethCode e)
      | .ok s3 =>
        let s4 := ethInt (ethCount s3 port 0x28) port q
        let x := s4.ethQ port q
        (s4.setReg2 (ethQOff port q + 0x18) (putFld (qPtr s4 port q) 31 16 ((i + 1) % recvSize s4 port q))).setEthQ port q { x with recv := x.recv.drop 1 }

/-- A frame arrives, given without its FCS (R405, R406, R408, R409). -/
def execEthFrameReceived (port : Nat) (frame : List (BitVec 8)) (fcsOk : Bool) (s : State) : Host.Outcome State Fault Refusal :=
  let n := frame.length
  let f := frameNum frame
  if !ethRuns s || !ethOn s port || !ethUp s port then .next s
  else if !fcsOk || decide (n + 4 < 64) || decide (maxFrame s port < n + 4) then .next (ethCount s port 0x38)
  else if !accepts s port f then .next s
  else
    let q := steer s port f
    let s1 := fetchPair s port q
    if !qTakes s1 port q then .next (ethCount s1 port 0x30)
    else match (s1.ethQ port q).recv with
      | [] => .next (ethCount s1 port 0x30)
      | (i, d) :: _ => .next (recvOne s1 port q i d f n)

/-! Links and pauses (R405, R406, R409). -/

/-- Every pair of a port sends what it has. -/
def ethKick (s : State) (port : Nat) : State :=
  (List.range 16).foldl (fun x q => if (qCfg x port q).getLsbD 63 then x.after Config.pieceTime (.ethDescriptorFetch port q) else x) s

/-- The link of a port goes down: posted sends wait (R409). -/
def execEthLinkDown (port : Nat) (s : State) : Host.Outcome State Fault Refusal := .next (setEthStat s port 0 false)

/-- An enabled port's link comes up (R406, R409). -/
def execEthLinkUp (port : Nat) (s : State) : Host.Outcome State Fault Refusal :=
  if ethOn s port && s.bootState == 3 then .next (ethKick (setEthStat s port 0 true) port) else .next s

/-- Master-clock cycles of `n` pause quanta of 512 bit times at 800 Gb/s, rounded up. -/
def quantaTime (n : Nat) : Nat := (n * 136 + 124) / 125

/-- What a PAUSE or PFC frame holds: the priorities that a PFC frame names and PFC enables; while PFC is zero, where PAUSE is
enabled, everything, by a PAUSE frame (R405, R406). -/
def honoured (s : State) (port : Nat) (pfc : Option (BitVec 8)) : List Nat :=
  let w := ethCfg s port
  match pfc with
  | none => if fld w 15 8 = 0 ∧ w.getLsbD 3 = true then [8] else []
  | some prios => (List.range 8).filter (fun i => prios.getLsbD i && w.getLsbD (8 + i))

/-- PAUSED shows whether sending is held. -/
def showPaused (s : State) (port : Nat) : State := setEthStat s port 1 ((List.range 9).any (fun i => decide (s.clock < heldUntil s port i)))

/-- A PAUSE or PFC frame holds sending for a time; one of no time ends the hold (R406). A PFC frame's priorities of one time
are named together. -/
def execPauseFrameReceived (port : Nat) (pfc : Option (BitVec 8)) (quanta : Nat) (s : State) : Host.Outcome State Fault Refusal :=
  let hs := honoured s port pfc
  if !ethUp s port || hs.isEmpty then .next s
  else
    let t := s.clock + quantaTime quanta
    let s1 : State := { s with plat := { s.plat with pauseUntil := hs.foldl (fun x i => tabSet (port * 16 + i) t x) s.plat.pauseUntil } }
    .next ((showPaused s1 port).after (quantaTime quanta) (.pauseHoldExpiry port))

/-- The time asked for has run out: sending resumes (R406). -/
def execPauseHoldExpiry (port : Nat) (s : State) : Host.Outcome State Fault Refusal :=
  if !ethPaused s port then .next s else .next (ethKick (showPaused s port) port)

end Sys2Proof.Machine
end

