-- ==== Sys2Proof/Machine/Bivouac.lean ====
section
/-! DEFINITION. Bivouac: entry, sleep and resume (R413-R416, R485). What FLUSH saves and RESTORE writes back keeps its place in
the state (log 16). The steps follow each other as fast as their conditions allow (log 2). -/
namespace Sys2Proof.Machine
open Sys2Proof

def setBiv (s : State) (st : Nat) : State :=
  let s1 := s.setReg2 0x4100 (putFld (s.reg2 0x4100) 3 0 st)
  { s1 with plat := { s1.plat with bivSince := s.clock } }

/-- Bounds of R414 in cycles. -/
def cutBound : Nat := 50 * millisecond
def stopBound : Nat := 200 * millisecond
def writeBound : Nat := 250 * millisecond

/-- ENTER, accepted in RUN and in state 9, whatever `BOOT` shows (log 69): admission stops, and a cut is to be held (R413, R414). -/
def execBivEnter (grp : Nat) (s : State) : Host.Outcome State Fault Refusal :=
  if s.bivState ≠ 0 ∧ s.bivState ≠ 9 then .next s
  else
    let s1 := setBiv (s.setReg2 0x4100 (putFld (s.reg2 0x4100) 15 8 grp)) 1
    let s2 : State := { s1 with plat := { s1.plat with bivCut := false } }
    .next ((s2.after 0 .bivWriteback).after cutBound .bivEntryFail)

/-- The number of the cut that CUTTING asks for, and its group (R414). -/
def bivCutId (s : State) : Nat := fld (s.reg2 0x4000) 63 48
def bivGrp (s : State) : Nat := fld (s.reg2 0x4100) 15 8

/-- The cut that runs is the one that bivouac asks for. -/
def bivOwnCut (s : State) : Bool := (cutState s == 1 || cutState s == 2) && fld (cutStat s) 63 48 == bivCutId s && s.plat.cutGrp == bivGrp s

/-- Bivouac starts its cut, once no other runs. -/
def bivStartCut (s : State) : State :=
  if s.plat.bivCut || cutState s == 1 || cutState s == 2 then s
  else
    let s1 := startCut s (bivCutId s) s.device (bivGrp s) none
    { s1 with plat := { s1.plat with bivCut := true } }

/-- The clocks stop: the count stays at its value (R416). -/
def stopClocks (s : State) : State := { s with plat := { s.plat with bivAt := s.count } }

/-- A running launch is pre-empted; gangs whole (R43, R414). -/
def bivHold (s : State) (l : Launch) : State :=
  if l.phase != .running then s
  else
    let s1 := s.modLaunch l.num (fun x => { x with phase := .holding })
    let s2 := (s1.holders.filter (fun n => thLaunch (s1.getT n) == l.num)).foldl (fun x n => x.modT n (fun t => { t with preempt := true })) s1
    let s3 := (withdrawAll s2 l.num).after Config.grantTime (.launchDone l.num)
    { s3 with plat := { s3.plat with bivHeld := s3.plat.bivHeld ++ [l.num] } }

/-- The cut that was asked for has reached HELD: WRITEBACK pre-empts every resident launch (R414). -/
def execBivWriteback (s : State) : Host.Outcome State Fault Refusal :=
  if s.bivState ≠ 1 then .next s
  else if !bivOwnCut s || cutState s != 2 then .next ((bivStartCut s).after Config.fabricTime .bivWriteback)
  else
    let s1 := setBiv (stopClocks s) 2
    let s2 := s1.sch.launches.foldl bivHold s1
    let s3 := s2.holders.foldl (fun x n => x.after stopBound (.bivForcedStop n)) s2
    .next ((s3.after 0 .bivFlush).after writeBound .bivEntryFail)

/-- A thread without a suspension point for 200 ms stops at its next boundary, outside a `rep` unit and with its replies
landed, and writes a full frame (R201, R414). -/
def execBivForcedStop (th : Nat) (s : State) : Host.Outcome State Fault Refusal :=
  let t := s.getT th
  if s.bivState ≠ 2 ∨ t.rcd.isNone = true ∨ s.clock < s.plat.bivSince + stopBound then .next s
  else if t.i.rep.isSome || !t.i.replies.isEmpty then .next (s.after Config.fabricTime (.bivForcedStop th))
  else
    let s1 := bindOther s th
    if (s1.getT th).rcd.isSome then .next (s1.after Config.fabricTime (.bivForcedStop th)) else
    let s2 := opens s1 (thClu th) (fun x => x.modT th Thread.freed)
    .next (s2.after Config.grantTime (.launchDone (thLaunch t)))

/-- A copy whose next pieces await an answer over a port that is held or dark. -/
def copyStays (s : State) (ps : List Piece) : Bool :=
  match nextPiece ps with
  | some n =>
    let k := batchStart ps n
    ((ps.drop k).take 1 ++ batchTail ps k).any (fun p => p.isAway && pieceHears s p != some true)
  | none => false

/-- Work that may stay in flight: it lies at a held or dark port, or waits at a home for a version (R414). -/
def mayStay (s : State) (o : Op) : Bool :=
  match o.k with
  | .copy ps _ _ _ => copyStays s ps
  | .tread _ _ _ _ _ _ _ _ none => true
  | _ => (List.range 256).any (fun d => opTo s d o && (match s.portOf d with | some (_, h) => h | none => true) && d != s.device)

/-- Every thread has stopped, and the engines are at rest. -/
def atRest (s : State) : Bool := s.holders.isEmpty && s.sch.ops.all (mayStay s) && s.clus.all (fun c => c.2.jobs.isEmpty)

/-- Every line leaves the L3: dirty sectors reach HBM. -/
def flushL3 (m : Mem) : Mem := m.l3.foldl l3Evict m

/-- FLUSH: buffered stores and dirty sectors reach memory, and no cache holds a line; pins end (R128, R414). -/
def execBivFlush (s : State) : Host.Outcome State Fault Refusal :=
  if s.bivState ≠ 2 then .next s
  else if !atRest s then .next (s.after Config.fabricTime .bivFlush)
  else
    let s1 := (s.cores.map (·.1)).foldl drainAll s
    let s2 := (List.range 8).foldl writeBackDie s1
    let s3 := s2.modM (fun m => { flushL3 { m with pins := [] } with l1 := [], l2 := [] })
    .next ((setBiv s3 3).after Config.mailTime .bivSelfref)

/-- The ports of a module that sleeps are dark; their timers start at REPLAY (R415, R485). -/
def sleepPort (s : State) (p : Nat) : State :=
  if !portUp s p then s else showLams ((setPortWord s p 2 0 0).setPort p { s.port p with lams := [], retr := [], dark := none, gone := none }) p

/-- Every link of the module is down (R409, R414). -/
def sleepPorts (s : State) : State := (List.range 8).foldl (fun x p => if ethUp x p then setEthStat x p 0 false else x) ((List.range 64).foldl sleepPort s)

/-- HBM enters self-refresh, and then the module is ASLEEP: what is not kept or saved is off, the TLBs with it (R414). -/
def execBivSelfref (s : State) : Host.Outcome State Fault Refusal :=
  if s.bivState = 3 then .next ((setBiv s 4).after Config.mailTime .bivSelfref)
  else if s.bivState = 4 then .next ((sleepPorts (setBiv s 5)).modM (fun m => { m with tlb := [] }))
  else .next s

/-- A launch that bivouac pre-empted goes on, unless it has ended; a gang that has not yet stopped whole goes on once it has. -/
def bivRelease (s : State) (num : Nat) : State :=
  match s.findLaunch num with
  | some l =>
    if l.phase = .holding ∧ l.isGang = true then s.after Config.fabricTime (.preemptRelease num)
    else if l.phase = .held ∨ l.phase = .holding then releaseLaunch s l
    else s
  | none => s

/-- Threads of task launches that had not stopped go on. -/
def unmark (s : State) (n : Nat) : State :=
  s.modT n (fun t => if s.plat.bivHeld.contains (thLaunch t) && !thGang t then { t with preempt := false } else t)

/-- Steps that test the count themselves and come again until it has come far enough. -/
def testsCount : Event → Bool
  | .floorAccount _ | .hedgeDecay | .stragglerTest _ | .priorityAging _ | .barrierWatchdog _ _ _ | .treadWatchdog _ | .gangReserve _ => true
  | _ => false

/-- The clocks go on from their saved values; what was due later than the stop is due as much later, but for the steps that
test the count (R416). -/
def startClocks (s : State) : State :=
  let gap := s.clock - s.plat.bivAt - s.plat.asleepFor
  { s with
    agenda := s.agenda.map (fun e => if testsCount e.2 then e else (e.1 + gap, e.2))
    plat := { s.plat with asleepFor := s.plat.asleepFor + gap } }

/-- The cycles until the slot counter and the kilocycle stand as they stood at the stop (R380, R416). -/
def toPhase (s : State) : Nat := (1024 - (s.clock - s.plat.bivAt - s.plat.asleepFor) % 1024) % 1024

/-- A port that did not relock counts as dark from now on (R485). -/
def wakePort (s : State) (p : Nat) : State :=
  let x := s.port p
  let s1 := if fld (portWord s p) 2 0 = 1 then setPortWord s p 2 0 0 else s
  if x.linked && !portUp s p && x.dark.isNone then
    (watchBackups (s1.setPort p { x with dark := some s.clock, gone := some s.clock }) (portPeer s p)).after darkTime (.darkPortTimeout p)
  else s1

/-- The launches, the dispensers and the Ethernet ports go on. -/
def goOn (s : State) : State :=
  let s1 := s.holders.foldl unmark s
  let s2 := s1.plat.bivHeld.foldl bivRelease s1
  let s3 : State := { s2 with plat := { s2.plat with bivHeld := [] } }
  let ths := s3.sch.recs.filterMap (fun r => match r.place with | .granted n => some n | .slot c _ => some (c * 4) | _ => none)
  let s4 := ths.foldl (fun x n => (x.after Config.grantTime (.pickup n)).after Config.grantTime (.shadowFill (thCore n))) s3
  (List.range 8).foldl ethKick (kickAll (retryGangs (allGrants (wakeQueue s4))))

/-- An entry that overran the bound of its cut or of WRITEBACK is abandoned: the cut ends as by ABORT, records resume, admission
restarts, and the module runs in state 9 (R485). -/
def execBivEntryFail (s : State) : Host.Outcome State Fault Refusal :=
  let late := (s.bivState == 1 && decide (s.plat.bivSince + cutBound ≤ s.clock)) || (s.bivState == 2 && decide (s.plat.bivSince + writeBound ≤ s.clock))
  if !late then .next s
  else if s.bivState = 2 ∧ toPhase s ≠ 0 then .next (s.after (toPhase s) .bivEntryFail)
  else
    let s1 := if s.bivState = 2 then startClocks s else s
    let s2 := setBiv s1 9
    .next (goOn (if bivOwnCut s || decide (s.bivState = 2 ∧ cutState s = 2) then releaseCut s2 4 else s2))

/-- RESUME, accepted in ASLEEP: WAKING, in which the ports train (R413, R415). -/
def execBivResume (s : State) : Host.Outcome State Fault Refusal :=
  if s.bivState = 5 then .next ((trainPorts (setBiv s 6)).after Config.mailTime .bivRestore) else .next s

/-- The save area is written back (R415). -/
def execBivRestore (s : State) : Host.Outcome State Fault Refusal :=
  if s.bivState = 6 then .next ((setBiv s 7).after Config.mailTime .bivReplay) else .next s

/-- The rows listed for the stacks' own repair are repaired, and leave the list (R468). -/
def repairRows (s : State) : State :=
  let rows := s.plat.retired.filter (fun r => r.1 / 67108864 % 16 == 13)
  let s1 := rows.foldl (fun x r => (List.range r.2).foldl (fun y _ => countRet y (r.1 / 67108864 / 16) 13) x) s
  { s1 with plat := { s1.plat with
      retired := s1.plat.retired.filter (fun r => r.1 / 67108864 % 16 != 13), rowsOut := s1.plat.rowsOut.filter (fun r => r.2.1 != 13) } }

/-- The virtual dies that are gone at REPLAY: those lost meanwhile, and those whose physical die is gone (R485, R486). -/
def bivGone (s : State) : List (Nat × Nat) :=
  s.plat.bivLost ++ ((List.range 8).filter (fun d => s.plat.physBad.contains (s.plat.dieMap.toList.getD d 8) || s.plat.dieMap.toList.getD d 8 == 8)).map (fun d => (d, 7))

/-- REPLAY: the clocks go on, dies that are gone are lost, the cut is released, records become runnable, admission resumes, and
STATE becomes RUN (R415, R416, R485). -/
def execBivReplay (s : State) : Host.Outcome State Fault Refusal :=
  if s.bivState ≠ 7 ∧ s.bivState ≠ 8 then .next s
  else if toPhase s ≠ 0 then .next ((setBiv s 8).after (toPhase s) .bivReplay)
  else
    let s1 := setBiv (startClocks (repairRows s)) 0
    let s2 := (bivGone s1).foldl (fun x d => if x.dieState d.1 = 3 then x else loseDie x d.1 d.2) s1
    let s3 : State := { s2 with plat := { s2.plat with bivLost := [] } }
    .next (goOn ((List.range 64).foldl wakePort (if cutState s3 = 2 then releaseCut s3 0 else s3)))

/-- The image does not match the kept digest: the saved state is lost, and the host must bring the module up again; BAR2 is kept
(R414, R485). -/
def execBivWakeFail (s : State) : Host.Outcome State Fault Refusal :=
  if s.bivState ≠ 6 then .next s
  else
    let s1 := restart s 0
    let s2 : State := { s1 with plat := { s1.plat with bar2 := s.plat.bar2, locked := s.plat.locked } }
    .next (setBiv (s2.setReg2 0 (putFld (putFld (s2.reg2 0) 3 1 0) 7 4 0)) 10)

end Sys2Proof.Machine
end

