-- ==== Sys2Proof/Machine/Theft.lean ====
section
/-! DEFINITION. Theft: idle searchers, the scan, the theft itself, thief numbers (R96-R101, R443, R457). -/
namespace Sys2Proof.Machine
open Sys2Proof

/-! Thief numbers (R100). -/

/-- The lowest unused thief number that a die holds for a task. -/
def thiefNumber (l : Launch) (die task : Nat) : Option Nat :=
  (l.thieves.filter (fun x => x.die == die && x.task == task && decide (x.lo < x.hi))).foldl
    (fun m x => match m with | none => some x.lo | some a => some (min a x.lo)) none

/-- Unused numbers of a die for a task. -/
def numbersLeft (l : Launch) (die task : Nat) : Nat := ((l.thieves.filter (fun x => x.die == die && x.task == task)).map (fun x => x.hi - x.lo)).sum

/-- A request for a block is on its way. -/
def blockAsked (l : Launch) (die task : Nat) : Bool := l.thieves.any (fun x => x.die == die && x.task == task && x.asked)

/-- The next block of a task that the home of its tile hands out: what it has counted for the task's entry, or, of a task without one, of a
launch that the module may not hold, apart (R100). -/
def blockOf (s : State) (num task : Nat) : Nat :=
  max (match s.findLaunch num with | some l => (l.task task).nextBlock | none => 0)
    (match s.sch.blocks.find? (fun b => b.1 == num && b.2.1 == task) with | some b => b.2.2 | none => 0)

/-- The next block of a task is `b`. -/
def setBlock (s : State) (num task b : Nat) : State :=
  markTask (s.modSch (fun c => { c with blocks := c.blocks.filter (fun x => !(x.1 == num && x.2.1 == task)) ++ [(num, task, b)] })) num task (fun t => { t with nextBlock := b })

/-- A die asks for the next block of a task, unless all have been handed out or it has asked. -/
def askBlock (s : State) (num die task : Nat) : State :=
  match s.findLaunch num with
  | none => s
  | some l =>
    if blockAsked l die task || decide (1023 ≤ blockOf s num task) then s
    else
      (s.modLaunch num (fun x => { x with thieves := x.thieves ++ [{ die := die, task := task, lo := 0, hi := 0, asked := true }] })).after Config.seamTime (.thiefBlockRequest die num task)

/-- Threads that look for a victim: idle searchers of a task, and free threads of clusters that run it. -/
def seekers (s : State) (die num task : Nat) : List Nat :=
  let runs (n : Nat) : Bool := match (s.getT n).rcd with | some r => r.w.launch == num && r.w.task == task && !r.w.gang | none => false
  let clus := (((s.holders.filter runs).map thClu).filter (fun k => k / 16 == die)).eraseDups
  (s.holders.filter (fun n => thDie n == die && runs n && (s.getT n).i.blocked == some .idle)) ++
    (clus.map (fun k => ((List.range 32).map (fun i => k * 32 + i)).filter (threadFree s))).flatten

/-- What a die asked for has come, or will not come: it asks no longer, and those who seek a victim of the task scan again. -/
def blockAnswer (s : State) (die launch task : Nat) (new : List ThiefNums) : State :=
  let s1 := s.modLaunch launch (fun l => { l with thieves := l.thieves.filter (fun y => !(y.die == die && y.task == task && y.asked)) ++ new })
  (seekers s1 die launch task).foldl (fun x n => x.after Config.scanTime (.idleScan n)) s1

/-- The front end of the tile's home hands out the next block of a task, lowest first, to a die of its own or to module `die` − 8;
for a tile homed elsewhere the request goes there, and waits while the route is down. A peer asks the home of a tile also for a launch that
this module does not hold (R100). -/
def execThiefBlockRequest (die launch task : Nat) (s : State) : Host.Outcome State Fault Refusal :=
  let b := blockOf s launch task
  let home := match s.findLaunch launch with | some l => tileDev s l task | none => s.device
  if die < 8 ∧ (s.findLaunch launch).isNone = true then .next s
  else if home ≠ s.device then
    .next (match s.portOf home with
      | some _ => if die < 8 then s.owe home 1 else s
      | none => if die < 8 then s.after Config.fabricTime (.thiefBlockRequest die launch task) else s)
  else if 1023 ≤ b then .next (if die < 8 then blockAnswer s die launch task [] else s.owe (die - 8) 1)
  else .next (if die < 8 then (setBlock s launch task (b + 1)).after Config.seamTime (.thiefBlockGrant die launch task b) else (setBlock s launch task (b + 1)).owe (die - 8) 1)

/-- A block arrives at its die, and waiting thefts proceed; 1023 or above says that every block has been handed out (R100). -/
def execThiefBlockGrant (die launch task : Nat) (block : Nat) (s : State) : Host.Outcome State Fault Refusal :=
  if 1023 ≤ block then .next (blockAnswer (setBlock s launch task 1023) die launch task [])
  else .next (blockAnswer s die launch task [{ die := die, task := task, lo := 0x8001 + 32 * block, hi := 0x8021 + 32 * block, asked := false }])

/-- A number is used; with 8 or fewer left the die asks again. -/
def useNumber (s : State) (num die task a : Nat) : State :=
  let s1 := s.modLaunch num (fun l => { l with thieves := l.thieves.map (fun x => if x.die = die ∧ x.task = task ∧ x.lo = a ∧ x.lo < x.hi then { x with lo := a + 1 } else x) })
  match s1.findLaunch num with
  | some l => if numbersLeft l die task ≤ 8 then askBlock s1 num die task else s1
  | none => s1

/-! The scan (R96, R101). -/

/-- The lowest frame of a thread with an untried alternative, and the highest such alternative. -/
def stealable (s : State) (v : Nat) : Option (Nat × Nat × Nat) :=
  match (stackOf s v).find? (fun p => !(untried p.2).isEmpty) with
  | some (off, f) => (untried f).getLast?.map (fun i => (off, f, i))
  | none => none

/-- The steal domain of a thread in scan order. -/
def scanOrder (th : Nat) : List Nat := (List.range 31).map (fun i => th / 32 * 32 + (th % 32 + 1 + i) % 32)

/-- Thread `v` runs an attempt from which thread `th` may steal. -/
def victimOk (s : State) (th v : Nat) : Bool :=
  let t := s.getT v
  match t.rcd with
  | none => false
  | some r =>
    let same := match (s.getT th).rcd with
      | some q => q.w.launch == r.w.launch && q.w.task == r.w.task
      | none => s.owns r.w.part (thClu th) && (match s.findLaunch r.w.launch with | some l => l.freeFrame.isSome && (l.phase == .running || l.phase == .holding) | none => false)
    let numbers := match s.findLaunch r.w.launch with
      | some l => (thiefNumber l (thDie th) r.w.task).isSome || decide (blockOf s l.num r.w.task < 1023) || blockAsked l (thDie th) r.w.task
      | none => false
    !r.w.gang && !t.cancel && decide (t.q.depth ≠ 0) && (s.core (thCore v)).parked.isNone && same && numbers && (stealable s v).isSome

/-- The idle searcher or free thread `th` still seeks a victim. -/
def seeks (s : State) (th : Nat) : Bool :=
  match (s.getT th).rcd with
  | some _ => (s.getT th).i.blocked == some .idle && (s.core (thCore th)).parked.isNone
  | none => threadFree s th && (nextFor s th).isNone && (unfilled s (thCore th)).isNone

/-- Try the victims of a list in order: begin a theft, wait for a number or for another theft, or give up: a search thread
ends as by `quit`, a free thread stays free (R98, R100, R101). -/
def scanList (s : State) (th : Nat) (l : List Nat) : State :=
  match l.find? (victimOk s th) with
  | none => if (s.getT th).rcd.isSome then asThread s th endThread else s
  | some v =>
    match (s.getT v).rcd with
    | none => s
    | some r =>
      match (s.findLaunch r.w.launch).bind (fun x => thiefNumber x (thDie th) r.w.task) with
      | none => askBlock s r.w.launch (thDie th) r.w.task
      | some _ => s.after Config.scanTime (.theft th v)

/-- An idle searcher scans its steal domain (R96). -/
def execIdleScan (th : Nat) (s : State) : Host.Outcome State Fault Refusal :=
  if !seeks s th then .next s else .next (scanList s th (scanOrder th))

/-! The theft (R97, R98). -/

/-- A piece of a copy that still has to be written to a range of keys. -/
def pieceHits (clu lo hi : Nat) (p : Piece) : Bool :=
  p.open && (match p.dst with
    | .addr a => a.toNat / 2 ^ 56 == 0xFF && (let k := (nearKey (clu / 16) a.toNat).2; decide (k < hi) && decide (lo < k + p.len))
    | .buf _ _ _ => false)

/-- An engine operation still has to write to a range of keys. -/
def opHits (s : State) (lo hi : Nat) (o : Op) : Bool :=
  match o.k with
  | .copy ps _ _ _ => ps.any (pieceHits o.clu lo hi)
  | .tread _ _ _ _ dst size _ _ _ => decide (dst < hi) && decide (lo < dst + size)
  | .mx _ clu => (s.clu clu).jobs.any (fun j => j.op == o.id && (match j.what with | .rd dst _ _ cnt _ _ _ => decide (dst < hi) && decide (lo < dst + (cnt + 1) * 512) | _ => false))
  | _ => false

/-- The arena of a thread, as keys. -/
def arenaKeys (s : State) (n : Nat) : Nat × Nat :=
  let r := regionsOf (s.getT n).y.srch
  (regionKey s n r.arena, regionKey s n r.arena + r.alen)

/-- The victim may be held now: no repetition, no reply outstanding. -/
def holdable (t : Thread) : Bool := t.i.rep.isNone && t.i.replies.isEmpty

def setHold (s : State) (n : Nat) (b : Bool) : State := s.modT n (fun t => { t with i := { t.i with hold := b } })

/-- The record of the thief. A search thread keeps its record's place and its frame; a free thread takes a new one. -/
def thiefRec (s : State) (th : Nat) (l : Launch) (vr : Rec) (a victim : Nat) (f : Nat) : Option (Rec × State) :=
  let w (frame : Word) : RecWords := { vr.w with
    fullf := false, srch := false, waith := false, runnable := false, running := true, frame := frame, thief := true, backup := false
    attempt := a, start := s.kilo % 65536, work := 0, bound := none, depth := 0, dies := 2 ^ thDie th }
  let mk (id : Nat) (frame : Word) : Rec := { vr with
    id := id, w := w frame, place := .rest, die := thDie th, handles := Vector.replicate 16 .free, waits := 0, raised := 0, since := s.count
    barred := none, tested := true, region := none, lineage := fTag f, vdepth := fDepth f, vthread := victim, fresh := false, owed := [] }
  match (s.getT th).rcd with
  | some r =>
    let s1 := if r.w.backup then modTask s l.num r.w.task (fun t => { t with backups := t.backups - 1 }) else s
    let s2 := if r.w.backup && !l.isMirror then addReg s1 (liveOff l.part) (-1) else s1
    some (mk r.id r.w.frame, s2)
  | none =>
    match l.freeFrame with
    | none => none
    | some i =>
      let s1 := s.modSch (fun c => { c with nextId := c.nextId + 1 })
      let s2 := s1.modLaunch l.num (fun x => { x with frames := x.frames ++ [i] })
      some (mk s.sch.nextId (l.frameAddr i), modTask s2 l.num vr.w.task (fun t => { t with alive := t.alive + 1 }))

/-- Steps 2 to 5 of R97 on a held victim: its arena is copied and undone, the stolen frame's registers are loaded, STOLEN
is marked, and the thief starts at `pc`. -/
def carryOut (s : State) (th victim : Nat) (l : Launch) (r : Rec) (off f i : Nat) (pc : Word) : State :=
  let vt := s.getT victim
  let g := regionsOf vt.y.srch
  let free := (s.getT th).rcd.isNone
  let s1 := if free then loadImage s l (thCore th) (thIn th * 0x10000) 0x10000 else s
  let base := lsKey (thCore th) (thIn th * 0x10000)
  let src := regionKey s victim g.arena
  let s2 := s1.modM (fun m => (m.put (base + g.arena) g.alen (m.get src g.alen)).setFull (base + g.arena) g.alen)
  let s3 := s2.modM (undoGo (regionKey s victim g.trail) base (fTrtop f) (vt.q.trcnt - fTrtop f))
  let s4 := s3.modM (·.put (regionKey s victim (off + 8)) 8 (fStolen f ||| 2 ^ i))
  let old := s4.getT th
  let t : Thread := { old.freed with
    inbox := if old.inboxLaunch = some l.num then old.inbox else [], inboxLaunch := some l.num
    pc := pc, npc := pc, r := restoreArea Regs.reset (fSmask f) (fVmask f) (fPmask f) (areaOf s victim f)
    y := { SysRegs.reset with srch := vt.y.srch, alt := BitVec.ofNat 64 i }
    q := { old.q with depth := 0, trcnt := 0, top := 0, lineage := fTag f, vdepth := fDepth f, vthread := victim }
    preempt := old.preempt || l.phase == .holding, rcd := some r }
  asThread (s4.setT th t) th freshSearch

/-- A theft from `victim` by `th`; `rest` are the victims after it in the scan. The entry is read before the arena is copied (R97), and
before a free thread's region receives the image, which R97 and R333 leave open (log 82). -/
def stealFrom (s : State) (th victim : Nat) (rest : List Nat) (vr : Rec) (l : Launch) (a off f i : Nat) : State :=
  match thiefRec s th l vr a victim f with
  | none => setHold s victim false
  | some (r, s1) =>
    -- the thief's own read of the entry, in the thief's context
    let t0 := s1.getT th
    let reader : Thread := { t0 with rcd := some r, y := { t0.y with win := SysRegs.reset.win } }
    match entryOf ((s1.setT th reader).focus th) (fTable f) i with
    | .error (.wait _) => s.after Config.fabricTime (.theft th victim)
    | .error (.cond _ _) => scanList (setHold s victim false) th rest
    | .ok (e, x) =>
      -- what the read has done stands: caches, ports, and its home among the thief's dies (R28)
      let s2 := (x.focus s1.cur).setT th t0
      let r1 : Rec := { r with w := { r.w with dies := match x.thr.rcd with | some y => y.w.dies | none => r.w.dies } }
      let g := regionsOf (s.getT victim).y.srch
      match poisonAt s (regionKey s victim g.arena) g.alen with
      | some c => asThread (setHold s victim false) th (fun x => parkCore x c x.thr.pc false x.thr.rcd.isSome)
      | none => useNumber (setHold (carryOut s2 th victim l r1 off f i (BitVec.ofNat 64 (fTryPc f) + 8 * e)) victim false) l.num (thDie th) vr.w.task a

/-- A thief holds its victim once the victim's earlier stores and the engine writes to its arena have performed, and
takes the highest untried alternative of its lowest such frame (R96, R97). -/
def execTheft (th victim : Nat) (s : State) : Host.Outcome State Fault Refusal :=
  let s0 := drainAll s (thCore victim)
  let keys := arenaKeys s0 victim
  let t := s0.getT victim
  if !seeks s0 th || !victimOk s0 th victim then .next ((setHold s0 victim false).after Config.scanTime (.idleScan th))
  else if !holdable t then .next (s0.after Config.scanTime (.theft th victim))
  else match t.rcd with
    | none => .next s0
    | some vr =>
      if s0.sch.ops.any (opHits s0 keys.1 keys.2) then .next ((setHold s0 victim true).after Config.scanTime (.theft th victim))
      else
        let rest := (scanOrder th).drop ((scanOrder th).findIdx (fun n => n == victim) + 1)
        match s0.findLaunch vr.w.launch, stealable s0 victim with
        | some l, some (off, f, i) =>
          match thiefNumber l (thDie th) vr.w.task with
          | some a => .next (stealFrom s0 th victim rest vr l a off f i)
          | none => .next ((setHold s0 victim false).after Config.scanTime (.idleScan th))
        | _, _ => .next (setHold s0 victim false)

end Sys2Proof.Machine
end

