-- ==== Sys2Proof/Machine/Registers.lean ====
section
/-! DEFINITION. Writes to the memory-mapped registers of BAR0 and BAR2 (R3, R351, R391): each goes to the meaning of its
register, or stores its value under its access codes. A write is one aligned 64-bit word; offsets not listed ignore it. -/
namespace Sys2Proof.Machine
open Sys2Proof

/-! BAR0 (R351). -/

/-- Store the bits of a mask; the others keep their value. -/
def masked0 (s : State) (off : Nat) (v mask : Word) : State := s.setReg0 off ((v &&& mask) ||| (s.reg0 off &&& ~~~mask))

/-- `FE_PREEMPT` (R369). The spec states no response to the reserved ACT 3: a write of it is ignored (log 90). -/
def preemptWrite (s : State) (v : Word) : Host.Outcome State Fault Refusal :=
  if (s.reg0 0x20).getLsbD 31 then .next s
  else match fld v 17 16 with
    | 0 => execPreemptHold (fld v 9 0) s
    | 1 => execPreemptRelease (fld v 9 0) s
    | 2 => execLaunchCancel (fld v 9 0) s
    | _ => .next s

/-- `FE_TLBI` (R371). The spec states no response to the reserved SCOPE 2 and 3: a write of them is ignored (log 90). -/
def tlbiWrite (s : State) (v : Word) : Host.Outcome State Fault Refusal :=
  match fld v 47 46 with
  | 0 => execTlbiPage (fld v 45 40) (v.setWidth 40) s
  | 1 => execTlbiPartition (fld v 45 40) s
  | _ => .next s

/-- The registers of a queue pair; a base register ignores a write while its queue is enabled (R352), and `CQ_COAL` acts on the
entries that wait for their signal (R356). -/
def queueWrite (s : State) (q o : Nat) (v : Word) : Host.Outcome State Fault Refusal :=
  match o with
  | 0 => .next (if cfgOn (sqCfg s q) then s else s.setReg0 (sqOff q) v)
  | 8 => execSqCfgWrite q v s
  | 0x10 => execSqDbWrite q (v.setWidth 16) s
  | 0x18 => .next (if cfgOn (cqCfg s q) then s else s.setReg0 (sqOff q + 0x18) v)
  | 0x20 => execCqCfgWrite q v s
  | 0x28 => execCqDbWrite q (v.setWidth 16) s
  | 0x30 => .next (coalesce (masked0 s (sqOff q + 0x30) v 0x7FFFFFFFF) q)
  | _ => .next s

/-- The registers of a partition (R79, R80, R126, R351). -/
def partMask (o : Nat) : Word :=
  match o with
  | 0 => 0xFFFFFFF0000
  | 8 => 0xFFFF0003FF
  | 0x10 | 0x18 | 0x28 => 0xFFFFFFFFFFFFFFFF
  | 0x30 => 0xFFFFFFFFFFF00000
  | _ => 0

/-- The rope registers (R374-R385). -/
def ropeWrite (s : State) (r o : Nat) (v : Word) : Host.Outcome State Fault Refusal :=
  match o with
  | 0x10 => execRopePolWrite r v s
  | 0x18 => .next (soon (s.setReg0 (ropeOff r + 0x18) v) (r / 4))
  | 0x28 => .next (masked0 s (ropeOff r + 0x28) v 0xFF000000FFFF)
  | _ => .next s

/-- The block of a virtual die (R351). -/
def dieWrite (s : State) (d o : Nat) (v : Word) : Host.Outcome State Fault Refusal :=
  if o < 0x80 then execPartCluWrite d (o / 8) v s
  else if 0x400 ≤ o ∧ o < 0x500 then ropeWrite s (d * 4 + (o - 0x400) / 0x40) (o % 0x40) v
  else if 0x700 ≤ o ∧ o < 0x900 then .next (masked0 s (dieOff d + o) v 0x3FF)
  else if o = 0xA00 then .next (moveWindow (masked0 s (dieOff d + o) v 0xFF0F) d)
  else if o = 0xB00 then .next (masked0 s (dieOff d + o) v 0xFFF0000)
  else .next s

/-- A write to BAR0. -/
def bar0Write (s : State) (off : Nat) (v : Word) : Host.Outcome State Fault Refusal :=
  if off = 8 then .next (kickAll (masked0 s 8 v 0xFFFF))
  else if off = 0x18 then tlbiWrite s v
  else if off = 0x20 then preemptWrite s v
  else if 0x808 ≤ off ∧ off < 0x1000 then .next (masked0 s off v 0xFFFF0000FFFF)
  else if 0x10000 ≤ off ∧ off < 0x11000 then queueWrite s ((off - 0x10000) / 0x40) (off % 0x40) v
  else if 0x20000 ≤ off ∧ off < 0x24000 then .next (masked0 s off v (partMask (off % 0x100)))
  else if 0x40000 ≤ off ∧ off < 0x48000 then dieWrite s ((off - 0x40000) / 0x1000) (off % 0x1000) v
  else if off = 0x48A00 then .next (moveWindow (masked0 s off v 0xFF0F) 8)
  else .next s

/-- A read of BAR0: CNT of `OCC_L3` and of `OCC_L2` counts the lines that a partition holds (R126). -/
def bar0Read (s : State) (off : Nat) : Word :=
  if 0x20000 ≤ off ∧ off < 0x24000 ∧ off % 0x100 = 0x38 then BitVec.ofNat 64 (l3Held s ((off - 0x20000) / 0x100)).length
  else if 0x40000 ≤ off ∧ off < 0x48000 ∧ 0x100 ≤ off % 0x1000 ∧ off % 0x1000 < 0x300 then
    BitVec.ofNat 64 (l2Held s ((off - 0x40000) / 0x1000) ((off % 0x1000 - 0x100) / 8)).length
  else s.reg0 off

/-! BAR2 (R391). -/

def masked2 (s : State) (off : Nat) (v mask : Word) : State := s.setReg2 off ((v &&& mask) ||| (s.reg2 off &&& ~~~mask))

/-- `BOOT`: LEN is stored, then GO acts (R393). -/
def bootWrite (s : State) (v : Word) : Host.Outcome State Fault Refusal :=
  let s1 := masked2 s 0 v 0xFFFFFFFF00000000
  if v.getLsbD 0 then execBootGo s1 else .next s1

/-- `CUT_CTL`: ID and GRP are stored, then ABORT, REL or GO acts (R410, R412). -/
def cutWrite (s : State) (v : Word) : Host.Outcome State Fault Refusal :=
  let s1 := masked2 s 0x4000 v 0xFFFFFF0000000000
  if v.getLsbD 2 then execCutAbort s1
  else if v.getLsbD 1 then execCutRel s1
  else if v.getLsbD 0 then execCutGo (fld v 63 48) (fld v 47 40) s1
  else .next s1

/-- `BIV`: GRP is stored, then ENTER or RESUME acts (R413). -/
def bivWrite (s : State) (v : Word) : Host.Outcome State Fault Refusal :=
  let s1 := masked2 s 0x4100 v 0xFF00
  if v.getLsbD 7 then execBivEnter (fld v 15 8) s1
  else if v.getLsbD 6 then execBivResume s1
  else .next s1

/-- An Ethernet port's registers (R406). -/
def ethWrite (s : State) (port o : Nat) (v : Word) : Host.Outcome State Fault Refusal :=
  let b := ethOff port
  if o = 0 then
    let s1 := masked2 s b v 0x3FFFFF0F
    .next (if v.getLsbD 0 then s1 else setEthStat s1 port 0 false)
  else if o = 8 then .next (masked2 s (b + o) v 0xFFFFFFFFFFFF)
  else if 0x40 ≤ o ∧ o < 0xC0 then .next (masked2 s (b + o) v 0xE00F0FFF0000FFFF)
  else if 0x100 ≤ o ∧ o < 0x200 then .next (masked2 s (b + o) v 0x8000FFFFFFFFFFFF)
  else if 0x400 ≤ o then
    let q := (o - 0x400) / 0x40
    match o % 0x40 with
    | 0 => execEthqCfgWrite port q v s
    | 8 | 0x10 => .next (masked2 s (b + o) v 0xFFFFFFFFFFFFFF)
    | 0x18 => execEthqPtrWrite port q v s
    | _ => .next s
  else .next s

/-- A write to BAR2. The DMA windows are locked once `BOOT` has left VERIFY (R392). -/
def bar2Write (s : State) (off : Nat) (v : Word) : Host.Outcome State Fault Refusal :=
  if off = 0 then bootWrite s v
  else if 0x100 ≤ off ∧ off < 0x180 then
    .next (if s.plat.locked then s else masked2 s off v (if off % 0x10 = 0 then 0xFFFFFFFFFFFFF001 else 0xFFFFFFFFFFFFF000))
  else if off = 0x200 then execIluCfgWrite v s
  else if 0x400 ≤ off ∧ off < 0xC00 then execIluRouteWrite ((off - 0x400) / 8) v s
  else if 0x2020 ≤ off ∧ off < 0x4000 then .next (s.setReg2 off v)
  else if off = 0x4000 then cutWrite s v
  else if off = 0x4010 then .next (masked2 s off v 0xFFFFFFFFFFF)
  else if off = 0x4100 then bivWrite s v
  else if 0x8000 ≤ off ∧ off < 0xC000 then ethWrite s ((off - 0x8000) / 0x800) (off % 0x800) v
  else if 0x1000000 ≤ off ∧ off < 0x2000000 then .next (s.modM (·.put (spaceKey 10 (off - 0x1000000)) 8 v.toNat))
  else .next s

/-- The host or firmware writes a register: bank 0 is BAR0, bank 2 is BAR2 (R3). -/
def execRegisterWrite (bank off : Nat) (value : BitVec 64) (s : State) : Host.Outcome State Fault Refusal :=
  if off % 8 ≠ 0 then .next s
  else match bank with
    | 0 => bar0Write s off value
    | 2 => bar2Write s off value
    | _ => .next s

end Sys2Proof.Machine
end

