-- ==== Sys2Proof/Machine/Events.lean ====
section
/-! DEFINITION. The meaning of each event of the agenda: the same definition that the dispatch calls for the constructor of
`Instr` of that name (log 2). -/
namespace Sys2Proof.Machine
open Sys2Proof

/-- Carry out an event. -/
def runEvent (e : Event) (s : State) : Host.Outcome State Fault Refusal :=
  match e with
  | .storeDrain core => execStoreDrain core s
  | .loadReply th ans => execLoadReply th ans s
  | .syncLoadWake th => execSyncLoadWake th s
  | .homeErrorReport rid code x => execHomeErrorReport rid code x s
  | .takeLaterCondition th => execTakeLaterCondition th s
  | .parkRelease core resume => execParkRelease core resume s
  | .parkAbort core => execParkAbort core s
  | .svcReply th a => execSvcReply th a s
  | .pickup th => execPickup th s
  | .grantRecord die => execGrantRecord die s
  | .shadowFill core => execShadowFill core s
  | .prefetchDone core slot => execPrefetchDone core slot s
  | .priorityAging rid => execPriorityAging rid s
  | .sqDbWrite q tail => execSqDbWrite q tail s
  | .cqDbWrite q head => execCqDbWrite q head s
  | .sqCfgWrite q value => execSqCfgWrite q value s
  | .cqCfgWrite q value => execCqCfgWrite q value s
  | .admitLaunch q => execAdmitLaunch q s
  | .launchDispatch launch => execLaunchDispatch launch s
  | .gangPlace launch => execGangPlace launch s
  | .gangReserve launch => execGangReserve launch s
  | .postCompletion q => execPostCompletion q s
  | .tlbiPage part va => execTlbiPage part va s
  | .cqCoalTimer q => execCqCoalTimer q s
  | .launchDone launch => execLaunchDone launch s
  | .preemptHold launch => execPreemptHold launch s
  | .preemptRelease launch => execPreemptRelease launch s
  | .launchCancel launch => execLaunchCancel launch s
  | .tlbiDone => execTlbiDone s
  | .tlbiPartition part => execTlbiPartition part s
  | .partCluWrite die clu value => execPartCluWrite die clu value s
  | .registerWrite bank off value => execRegisterWrite bank off value s
  | .cancelDelivery launch task exempt => execCancelDelivery launch task exempt s
  | .lineageCancel die launch task tag => execLineageCancel die launch task tag s
  | .commitAtHome id => execCommitAtHome id s
  | .commitReply id => execCommitReply id s
  | .treadAtHome id => execTreadAtHome id s
  | .treadReply id => execTreadReply id s
  | .treadWatchdog id => execTreadWatchdog id s
  | .tverReply th ans => execTverReply th ans s
  | .stragglerTest die => execStragglerTest die s
  | .hedgeBudgetRequest dev launch task attempt => execHedgeBudgetRequest dev launch task attempt s
  | .backupOffer launch task attempt base => execBackupOffer launch task attempt base s
  | .backupOfferAnswer launch task attempt accepted => execBackupOfferAnswer launch task attempt accepted s
  | .endNotice launch status => execEndNotice launch status s
  | .hedgeDecay => execHedgeDecay s
  | .rangeStealRequest die victim launch => execRangeStealRequest die victim launch s
  | .rangeStealAnswer die launch lo hi => execRangeStealAnswer die launch lo hi s
  | .idleScan th => execIdleScan th s
  | .theft th victim => execTheft th victim s
  | .thiefBlockRequest die launch task => execThiefBlockRequest die launch task s
  | .thiefBlockGrant die launch task block => execThiefBlockGrant die launch task block s
  | .barrierComplete launch level inst => execBarrierComplete launch level inst s
  | .barrierWatchdog launch level inst => execBarrierWatchdog launch level inst s
  | .copyPiece op p => execCopyPiece op p s
  | .copyDone op => execCopyDone op s
  | .schedEntry launch idx => execSchedEntry launch idx s
  | .mxeJobStart clu => execMxeJobStart clu s
  | .mxeJobDone clu => execMxeJobDone clu s
  | .latchArrive clu => execLatchArrive clu s
  | .mxcmdAccept id => execMxcmdAccept id s
  | .msgDeliver m => execMsgDeliver m s
  | .fillerBurst clu => execFillerBurst clu s
  | .patternChange die => execPatternChange die s
  | .ropePolWrite rope value => execRopePolWrite rope value s
  | .ropeImbRefresh rope i0 i1 i2 i3 => execRopeImbRefresh rope i0 i1 i2 i3 s
  | .ropePolicyEngage rope => execRopePolicyEngage rope s
  | .throtEscalate rope => execThrotEscalate rope s
  | .ropePolicyDisengage rope => execRopePolicyDisengage rope s
  | .railSample rope v0 v1 v2 v3 => execRailSample rope v0 v1 v2 v3 s
  | .writeAssistChange rope => execWriteAssistChange rope s
  | .ropeClamp rope cause => execRopeClamp rope cause s
  | .ropeUnclamp rope => execRopeUnclamp rope s
  | .ropeLost rope => execRopeLost rope s
  | .ropeHotChange rope temp => execRopeHotChange rope temp s
  | .ropeOvbChange rope power => execRopeOvbChange rope power s
  | .moduleCapInterval watts => execModuleCapInterval watts s
  | .floorAccount launch => execFloorAccount launch s
  | .hbmThermalChange die stack temp => execHbmThermalChange die stack temp s
  | .eccError die array inst row unit correctable => execEccError die array inst row unit correctable s
  | .eccWindow die => execEccWindow die s
  | .ccRecovery die array => execCcRecovery die array s
  | .ccRecoveryDone die e1 => execCcRecoveryDone die e1 s
  | .dieLost die cause => execDieLost die cause s
  | .moduleTrip thermal => execModuleTrip thermal s
  | .cxlMemAccess off len store => execCxlMemAccess off len store s
  | .spdmGetMeasurements i => execSpdmGetMeasurements i s
  | .powerUp => execPowerUp s
  | .bootGo => execBootGo s
  | .verifyDone => execVerifyDone s
  | .bringupReduced => execBringupReduced s
  | .bringupFull failed => execBringupFull failed s
  | .bringupDieTimeout die hbm => execBringupDieTimeout die hbm s
  | .iluCfgWrite value => execIluCfgWrite value s
  | .iluRouteWrite dev value => execIluRouteWrite dev value s
  | .flitReceive port f => execFlitReceive port f s
  | .wavelengthLeave port l => execWavelengthLeave port l s
  | .wavelengthRejoin port lam => execWavelengthRejoin port lam s
  | .wavelengthFailed port lam => execWavelengthFailed port lam s
  | .cutRel => execCutRel s
  | .portDark port => execPortDark port s
  | .portLinkUp port peer allowance lam => execPortLinkUp port peer allowance lam s
  | .darkPortTimeout port => execDarkPortTimeout port s
  | .backupUnreachable b => execBackupUnreachable b s
  | .cutGo id grp => execCutGo id grp s
  | .belayMarker port id init grp => execBelayMarker port id init grp s
  | .cutAbort => execCutAbort s
  | .bivEnter grp => execBivEnter grp s
  | .bivWriteback => execBivWriteback s
  | .bivForcedStop th => execBivForcedStop th s
  | .bivFlush => execBivFlush s
  | .bivSelfref => execBivSelfref s
  | .bivEntryFail => execBivEntryFail s
  | .bivResume => execBivResume s
  | .bivRestore => execBivRestore s
  | .bivReplay => execBivReplay s
  | .bivWakeFail => execBivWakeFail s
  | .ethqCfgWrite port q value => execEthqCfgWrite port q value s
  | .ethqPtrWrite port q value => execEthqPtrWrite port q value s
  | .ethDescriptorFetch port q => execEthDescriptorFetch port q s
  | .ethFrameSent port q => execEthFrameSent port q s
  | .ethFrameReceived port frame fcsOk => execEthFrameReceived port frame fcsOk s
  | .ethLinkDown port => execEthLinkDown port s
  | .reservedCodeDecode e1 bundle => execReservedCodeDecode e1 bundle s
  | .barrierNetworkFault launch level inst => execBarrierNetworkFault launch level inst s
  | .hedgeBudgetAnswer launch task attempt granted => execHedgeBudgetAnswer launch task attempt granted s
  | .backupEndCharge b cycles => execBackupEndCharge b cycles s
  | .cxlCacheSnoop h invalidate => execCxlCacheSnoop h invalidate s
  | .ethLinkUp port => execEthLinkUp port s
  | .pauseFrameReceived port pfc quanta => execPauseFrameReceived port pfc quanta s
  | .pauseHoldExpiry port => execPauseHoldExpiry port s
  | .virtualDieRemap vdie pdie => execVirtualDieRemap vdie pdie s

end Sys2Proof.Machine
end

