-- ==== Sys2Proof/Machine/Advance.lean ====
section
/-! DEFINITION. The order of the module's steps (log 1, log 2): events that are due, steps that a thread's state makes due, the
bundle of a ready thread, and else time. -/
namespace Sys2Proof.Machine
open Sys2Proof

/-- No thread issues now: time moves on by one cycle while some thread waits only for its pulse, its wait count or its core's
cycle; else to the next event; with none, nothing can happen but from outside. -/
def passTime (s : State) : Host.Outcome State Fault Refusal :=
  if s.holders.any (fun n => able s n (s.getT n)) then .next (tick s 1)
  else match s.agenda with
    | (d, _) :: _ => .next (tick s (d - s.clock))
    | [] => .fault .asleep

/-- No event is due. -/
def betweenEvents (ex : Exec) (s : State) : Host.Outcome State Fault Refusal :=
  match selfEvent s with
  | some e => runEvent e s
  | none =>
    match nextReady s with
    | some n => issue ex (s.focus n)
    | none => passTime s

/-- One step of the module. In ASLEEP nothing happens but from outside (R414). -/
def advance (ex : Exec) (s : State) : Host.Outcome State Fault Refusal :=
  if s.bivState = 5 then .fault .asleep
  else match s.agenda with
    | (d, e) :: r => if d ≤ s.clock then runEvent e { s with agenda := r } else betweenEvents ex s
    | [] => betweenEvents ex s

/-! Placing an instruction before the fetch (log 5). -/

/-- The record of the thread that runs a placed bundle: a gang member of launch 0 in partition 0, so that no store is speculative. -/
def placedRec : Rec :=
  { id := 0
    w := { fullf := false, spec := false, srch := false, waith := false, runnable := false, running := true, pc := 0, frame := 0x10000
           gang := true, thief := false, backup := false, pweight := 0, cls := 0, attempt := 0, task := 0, tile := 0, start := 0, work := 0
           launch := 0, bound := none, part := 0, dies := 0, depth := 0, livemap := 0, key := 0, laddr := 0, resv := 0 }
    place := .rest, die := 0, base := none, handles := Vector.replicate 16 .free, waits := 0, raised := 0, since := 0, barred := none
    tested := false, region := none, doms := Vector.replicate 4 0, gsize := 0, lineage := 0, vdepth := 0, vthread := 0, fresh := false
    owed := [], crc := 0 }

/-- The tables that map the first GiB of partition 0 to the first GiB of die 0, and the bundle at address 0, in plaintext and in
no cache. -/
def placedMem (m : Mem) (dev nbits w : Nat) : Mem :=
  let leaf := 2 ^ 63 + 2 ^ 62 + 2 ^ 61 + 2 ^ 60 + 2 ^ 59 + dev * 2 ^ 44
  let at3 (a : Nat) : Bool := a == 0 || a == 0x100000 || a == 0x200000
  let m1 : Mem := { m with
    tlb := m.tlb.filter (fun e => e.part != 0), l1 := m.l1.filter (fun x => x.addr != 0), l2 := m.l2.filter (fun x => x.addr != 0)
    l3 := m.l3.filter (fun x => !at3 (x.line * 128)), seals := m.seals.filter (fun x => !at3 (x.1 % 2 ^ 64)) }
  ((m1.put (maKey 0) 16 (tableValue nbits w)).put (maKey 0x100000) 16 (2 ^ 63 + 0x200000)).put (maKey 0x200000) 16 leaf

/-- The focused thread alone, at address 0, ready to issue in this cycle on a die that is UP. -/
def placedThread (s : State) : State :=
  let k := thClu s.cur
  let s1 : State := { s with
    thr := { s.thr with pc := 0, npc := 0, rcd := some placedRec, i := IssueSt.reset, inHandler := false, preempt := false, cancel := false }
    rest := [], agenda := [], taken := none }
  let s2 := s1.setCore (thCore s.cur) { CoreSt.reset with last := (thIn s.cur + 3) % 4 }
  let s3 := s2.setClu k { s.clu k with pattern := 0xFFFF, keptBase := (s.clu k).effAt s.clock, patFrom := s.clock }
  ((s3.setReg0 (dieOff 0 + 0xB00) 1).setReg0 (partOff 0) 0x100000).setReg2 0x4100 0

/-- An instruction word placed where the next step fetches. -/
def placeWord (s : State) (nbits w : Nat) : State := (placedThread s).modM (fun m => placedMem m s.device nbits w)

end Sys2Proof.Machine
end

