-- ==== Sys2Proof/Machine/VectorInt.lean ====
section
/-! DEFINITION. The vector integer instructions (R253-R256). -/
namespace Sys2Proof.Machine
open Sys2Proof

/-- A vector result: element i of each active lane by `f`; `lat` too (R195, R196, R253). -/
def vectorOut (s : State) (w : Nat) (p : BitVec 3) (d : BitVec 5) (f : Nat → Nat) : Host.Outcome State Fault Refusal :=
  .next (s.setVL d (vmask w (s.getP p) (s.getV d) f))

/-- Element i of a vector of type T as an integer (R243). -/
def vval (t : ITy) (x : Vec) (i : Nat) : Int := tval t (vel t.bits x i)

/-- Two elements combined as integers of T; the result wraps (R253). -/
def vectorInt (s : State) (p : BitVec 3) (d a b : BitVec 5) (t : ITy) (f : Int → Int → Int) : Host.Outcome State Fault Refusal :=
  vectorOut s t.bits p d (fun i => wrapN t.bits (f (vval t (s.getV a) i) (vval t (s.getV b) i)))

/-- Two elements combined as bits. -/
def vectorBits (s : State) (p : BitVec 3) (d a b : BitVec 5) (t : ITy) (f : Nat → Nat → Nat) : Host.Outcome State Fault Refusal :=
  vectorOut s t.bits p d (fun i => lo t.bits (f (vel t.bits (s.getV a) i) (vel t.bits (s.getV b) i)))

/-- A compare's result predicate, written where bit 0 of the governing predicate is set (R196, R255). -/
def predOut (s : State) (w : Nat) (p d : BitVec 3) (c : Nat → Bool) : Host.Outcome State Fault Refusal :=
  .next (if predOn (s.getP p) then s.setP d (pmask w (s.getP p) c) else s)

/-- The 32-bit type of `vdot4`'s sums (R254). -/
def dotTy (t : ITy) : ITy := if t.signed then .i32 else .w32

/-- One element of `vdot4`, exact (R254). -/
def dot4 (t : ITy) (a b d : Vec) (i : Nat) : Int :=
  vval (dotTy t) d i + vval t a (4 * i) * vval t b (4 * i) + vval t a (4 * i + 1) * vval t b (4 * i + 1)
    + vval t a (4 * i + 2) * vval t b (4 * i + 2) + vval t a (4 * i + 3) * vval t b (4 * i + 3)

/-- a + b (R253). -/
def execVadd (p : BitVec 3) (d a b : BitVec 5) (t : ITy) (s : State) : Host.Outcome State Fault Refusal :=
  vectorInt s p d a b t (fun x y => x + y)

/-- a - b (R253). -/
def execVsub (p : BitVec 3) (d a b : BitVec 5) (t : ITy) (s : State) : Host.Outcome State Fault Refusal :=
  vectorInt s p d a b t (fun x y => x - y)

/-- The product (R253). -/
def execVmul (p : BitVec 3) (d a b : BitVec 5) (t : ITy) (s : State) : Host.Outcome State Fault Refusal :=
  vectorInt s p d a b t (fun x y => x * y)

/-- Bits [2n-1:n] of the exact product (R253). -/
def execVmulh (p : BitVec 3) (d a b : BitVec 5) (t : ITy) (s : State) : Host.Outcome State Fault Refusal :=
  vectorInt s p d a b t (mulhI t.bits)

/-- The saturated sum (R253). -/
def execVaddsat (p : BitVec 3) (d a b : BitVec 5) (t : ITy) (s : State) : Host.Outcome State Fault Refusal :=
  vectorInt s p d a b t (fun x y => tsat t (x + y))

/-- The saturated difference (R253). -/
def execVsubsat (p : BitVec 3) (d a b : BitVec 5) (t : ITy) (s : State) : Host.Outcome State Fault Refusal :=
  vectorInt s p d a b t (fun x y => tsat t (x - y))

/-- a AND b (R253). -/
def execVand (p : BitVec 3) (d a b : BitVec 5) (t : ITy) (s : State) : Host.Outcome State Fault Refusal :=
  vectorBits s p d a b t (fun x y => x &&& y)

/-- a OR b (R253). -/
def execVor (p : BitVec 3) (d a b : BitVec 5) (t : ITy) (s : State) : Host.Outcome State Fault Refusal :=
  vectorBits s p d a b t (fun x y => x ||| y)

/-- a XOR b (R253). -/
def execVxor (p : BitVec 3) (d a b : BitVec 5) (t : ITy) (s : State) : Host.Outcome State Fault Refusal :=
  vectorBits s p d a b t (fun x y => x ^^^ y)

/-- a AND NOT b (R253). -/
def execVandn (p : BitVec 3) (d a b : BitVec 5) (t : ITy) (s : State) : Host.Outcome State Fault Refusal :=
  vectorBits s p d a b t (fun x y => x &&& (2 ^ t.bits - 1 - y))

/-- a << (b mod n) (R253). -/
def execVshl (p : BitVec 3) (d a b : BitVec 5) (t : ITy) (s : State) : Host.Outcome State Fault Refusal :=
  vectorBits s p d a b t (fun x y => x * 2 ^ (y % t.bits))

/-- a >> (b mod n), filling with zeros (R253). -/
def execVshr (p : BitVec 3) (d a b : BitVec 5) (t : ITy) (s : State) : Host.Outcome State Fault Refusal :=
  vectorBits s p d a b t (fun x y => x / 2 ^ (y % t.bits))

/-- a >> (b mod n), filling with bit n - 1 (R253). -/
def execVsra (p : BitVec 3) (d a b : BitVec 5) (t : ITy) (s : State) : Host.Outcome State Fault Refusal :=
  vectorBits s p d a b t (fun x y => wrapN t.bits (sraN t.bits x (y % t.bits)))

/-- The lesser (R253). -/
def execVmin (p : BitVec 3) (d a b : BitVec 5) (t : ITy) (s : State) : Host.Outcome State Fault Refusal :=
  vectorInt s p d a b t (min)

/-- The greater (R253). -/
def execVmax (p : BitVec 3) (d a b : BitVec 5) (t : ITy) (s : State) : Host.Outcome State Fault Refusal :=
  vectorInt s p d a b t (max)

/-- The magnitude; a unchanged for w types (R253). -/
def execVabs (p : BitVec 3) (d a : BitVec 5) (t : ITy) (s : State) : Host.Outcome State Fault Refusal :=
  vectorOut s t.bits p d (fun i => wrapN t.bits (vval t (s.getV a) i).natAbs)

/-- 0 - a (R253). -/
def execVneg (p : BitVec 3) (d a : BitVec 5) (t : ITy) (s : State) : Host.Outcome State Fault Refusal :=
  vectorOut s t.bits p d (fun i => wrapN t.bits (-(vval t (s.getV a) i)))

/-- d plus four products of bytes (R254). -/
def execVdot4 (p : BitVec 3) (d a b : BitVec 5) (t : ITy) (sat : Bool) (s : State) : Host.Outcome State Fault Refusal :=
  vectorOut s 32 p d (fun i =>
    wrapN 32 (if sat then tsat (dotTy t) (dot4 t (s.getV a) (s.getV b) (s.getV d) i) else dot4 t (s.getV a) (s.getV b) (s.getV d) i))

/-- An integer compare into a predicate (R255). -/
def execVcmp (p d : BitVec 3) (a b : BitVec 5) (t : ITy) (c : ICc) (s : State) : Host.Outcome State Fault Refusal :=
  predOut s t.bits p d (fun i => iCompare c (vval t (s.getV a) i) (vval t (s.getV b) i))

/-- a where the selector p[b] is set (R256). -/
def execVsel (p : BitVec 3) (d a : BitVec 5) (b : BitVec 3) (t : ITy) (s : State) : Host.Outcome State Fault Refusal :=
  vectorOut s t.bits p d (fun i =>
    if active (s.getP b) t.bits i then vel t.bits (s.getV a) i else vel t.bits (s.getV d) i)

end Sys2Proof.Machine
end

