-- ==== Sys2Proof/Machine/Float.lean ====
section
/-! DEFINITION. The vector float instructions (R257-R262). -/
namespace Sys2Proof.Machine
open Sys2Proof

/-- The draws that an instruction takes under RS (R180). -/
def rsDraws (s : State) (m : FMod) (n : Nat) : Nat × State := if m.rnd = .rs then s.draws n else (0, s)

/-- A vector result of a rounding instruction: one draw for each element under RS, active or not (R257). -/
def floatOut (s : State) (w : Nat) (p : BitVec 3) (d : BitVec 5) (m : FMod) (f : Nat → Nat → Nat) : Host.Outcome State Fault Refusal :=
  let r := rsDraws s m (vcount w)
  vectorOut r.2 w p d (fun i => f (draw r.1 i) i)

/-- A rounding instruction of two sources. -/
def float2 (s : State) (p : BitVec 3) (d a b : BitVec 5) (t : FTy) (m : FMod) (f : FTy → FMod → Nat → Nat → Nat → Nat) :
    Host.Outcome State Fault Refusal :=
  floatOut s t.bits p d m (fun u i => f t m u (vel t.bits (s.getV a) i) (vel t.bits (s.getV b) i))

/-- A fused form: it reads d too. -/
def float3 (s : State) (p : BitVec 3) (d a b : BitVec 5) (t : FTy) (m : FMod) (np nd : Bool) : Host.Outcome State Fault Refusal :=
  floatOut s t.bits p d m (fun u i =>
    fFma np nd t m u (vel t.bits (s.getV a) i) (vel t.bits (s.getV b) i) (vel t.bits (s.getV d) i))

/-- A special function (R260). -/
def float1 (s : State) (p : BitVec 3) (d a : BitVec 5) (t : FTy) (m : FMod) (f : XVal → XVal) : Host.Outcome State Fault Refusal :=
  floatOut s t.bits p d m (fun u i => fFun f t m u (vel t.bits (s.getV a) i))

/-- Element i of a float vector, exactly. -/
def fval (t : FTy) (x : Vec) (i : Nat) : XVal := widen t (vel t.bits x i)

/-- a + b, rounded once (R257). -/
def execVfadd (p : BitVec 3) (d a b : BitVec 5) (t : FTy) (m : FMod) (s : State) : Host.Outcome State Fault Refusal :=
  float2 s p d a b t m fAdd

/-- a - b, rounded once (R257). -/
def execVfsub (p : BitVec 3) (d a b : BitVec 5) (t : FTy) (m : FMod) (s : State) : Host.Outcome State Fault Refusal :=
  float2 s p d a b t m fSub

/-- a × b, rounded once (R257). -/
def execVfmul (p : BitVec 3) (d a b : BitVec 5) (t : FTy) (m : FMod) (s : State) : Host.Outcome State Fault Refusal :=
  float2 s p d a b t m fMul

/-- a × b + d, rounded once (R257, R170). -/
def execVfma (p : BitVec 3) (d a b : BitVec 5) (t : FTy) (m : FMod) (s : State) : Host.Outcome State Fault Refusal :=
  float3 s p d a b t m false false

/-- a × b - d, rounded once (R257, R170). -/
def execVfms (p : BitVec 3) (d a b : BitVec 5) (t : FTy) (m : FMod) (s : State) : Host.Outcome State Fault Refusal :=
  float3 s p d a b t m false true

/-- -(a × b) + d, rounded once (R257, R170). -/
def execVfnma (p : BitVec 3) (d a b : BitVec 5) (t : FTy) (m : FMod) (s : State) : Host.Outcome State Fault Refusal :=
  float3 s p d a b t m true false

/-- The lesser (R258, R169). -/
def execVfmin (p : BitVec 3) (d a b : BitVec 5) (t : FTy) (s : State) : Host.Outcome State Fault Refusal :=
  vectorOut s t.bits p d (fun i => fPick t (xmin (fval t (s.getV a) i) (fval t (s.getV b) i)))

/-- The greater (R258, R169). -/
def execVfmax (p : BitVec 3) (d a b : BitVec 5) (t : FTy) (s : State) : Host.Outcome State Fault Refusal :=
  vectorOut s t.bits p d (fun i => fPick t (xmax (fval t (s.getV a) i) (fval t (s.getV b) i)))

/-- Sign cleared; a NaN is canonical (R258). -/
def execVfabs (p : BitVec 3) (d a : BitVec 5) (t : FTy) (s : State) : Host.Outcome State Fault Refusal :=
  vectorOut s t.bits p d (fun i => fPick t (xabs (fval t (s.getV a) i)))

/-- Sign inverted; a NaN is canonical (R258). -/
def execVfneg (p : BitVec 3) (d a : BitVec 5) (t : FTy) (s : State) : Host.Outcome State Fault Refusal :=
  vectorOut s t.bits p d (fun i => fPick t (xneg (fval t (s.getV a) i)))

/-- A float compare into a predicate (R259). -/
def execVfcmp (p d : BitVec 3) (a b : BitVec 5) (t : FTy) (c : FCc) (s : State) : Host.Outcome State Fault Refusal :=
  predOut s t.bits p d (fun i => fCompare c (xcmp (fval t (s.getV a) i) (fval t (s.getV b) i)))

/-- 1/x (R260, R171, R172). -/
def execVfrcp (p : BitVec 3) (d a : BitVec 5) (t : FTy) (m : FMod) (s : State) : Host.Outcome State Fault Refusal :=
  float1 s p d a t m xrcp

/-- 1/√x (R260, R171, R172). -/
def execVfrsq (p : BitVec 3) (d a : BitVec 5) (t : FTy) (m : FMod) (s : State) : Host.Outcome State Fault Refusal :=
  float1 s p d a t m xrsq

/-- √x (R260, R171, R172). -/
def execVfsqrt (p : BitVec 3) (d a : BitVec 5) (t : FTy) (m : FMod) (s : State) : Host.Outcome State Fault Refusal :=
  float1 s p d a t m xsqrt

/-- 2^x (R260, R171, R172). -/
def execVfexp2 (p : BitVec 3) (d a : BitVec 5) (t : FTy) (m : FMod) (s : State) : Host.Outcome State Fault Refusal :=
  float1 s p d a t m xexp2

/-- log2 x (R260, R171, R172). -/
def execVflog2 (p : BitVec 3) (d a : BitVec 5) (t : FTy) (m : FMod) (s : State) : Host.Outcome State Fault Refusal :=
  float1 s p d a t m xlog2

/-- tanh x (R260, R171, R172). -/
def execVftanh (p : BitVec 3) (d a : BitVec 5) (t : FTy) (m : FMod) (s : State) : Host.Outcome State Fault Refusal :=
  float1 s p d a t m xtanh

/-- sin(πx) (R260, R171, R172). -/
def execVfsinpi (p : BitVec 3) (d a : BitVec 5) (t : FTy) (m : FMod) (s : State) : Host.Outcome State Fault Refusal :=
  float1 s p d a t m xsinpi

/-- cos(πx) (R260, R171, R172). -/
def execVfcospi (p : BitVec 3) (d a : BitVec 5) (t : FTy) (m : FMod) (s : State) : Host.Outcome State Fault Refusal :=
  float1 s p d a t m xcospi

/-- a × 2^k, k an integer of the width of T (R261). -/
def execVfscale (p : BitVec 3) (d a b : BitVec 5) (t : FTy) (m : FMod) (s : State) : Host.Outcome State Fault Refusal :=
  float2 s p d a b t m fScale

/-- d plus two products, exact, rounded once to FP32 (R262). -/
def execVfdot2 (p : BitVec 3) (d a b : BitVec 5) (t : FTy) (m : FMod) (s : State) : Host.Outcome State Fault Refusal :=
  floatOut s 32 p d m (fun u i =>
    fDot2 t m u (vel 32 (s.getV d) i) (vel t.bits (s.getV a) (2 * i)) (vel t.bits (s.getV b) (2 * i))
      (vel t.bits (s.getV a) (2 * i + 1)) (vel t.bits (s.getV b) (2 * i + 1)))

end Sys2Proof.Machine
end

