-- ==== Sys2Proof/Machine/ScalarInt.lean ====
section
/-! DEFINITION. The scalar integer instructions (R247-R252). Each reads its sources, computes, and writes
s[d] where bit 0 of its governing predicate is set (R196). -/
namespace Sys2Proof.Machine
open Sys2Proof

/-- A scalar result under its governing predicate (R196, R247). -/
def scalarOut (s : State) (p : BitVec 3) (d : BitVec 5) (x : Word) : Host.Outcome State Fault Refusal :=
  .next (if predOn (s.getP p) then s.setS d x else s)

/-- A scalar result that may raise a condition found at issue, which only an instruction that takes effect
raises (R247). -/
def scalarChk (s : State) (p : BitVec 3) (d : BitVec 5) (x : Chk Word) : Host.Outcome State Fault Refusal :=
  if predOn (s.getP p) then finish s (x.map (s.setS d)) else .next s

/-- k = `Lo(b, 64)` mod n (R248). -/
def shiftBy (t : ITy) (b : Word) : Nat := b.toNat % t.bits

/-- The quotient truncated towards zero (R249). A zero divisor raises 0x11 with the dividend. -/
def divOf (t : ITy) (a b : Word) : Chk Word :=
  if lo t.bits b.toNat = 0 then .error (.cond { code := 0x11, detail := BitVec.ofInt 64 (tval t a.toNat), flags := 0 } none)
  else .ok (text t ((tval t a.toNat).tdiv (tval t b.toNat)))

/-- The remainder, with the sign of the dividend (R249). -/
def remOf (t : ITy) (a b : Word) : Chk Word :=
  if lo t.bits b.toNat = 0 then .error (.cond { code := 0x11, detail := BitVec.ofInt 64 (tval t a.toNat), flags := 0 } none)
  else .ok (text t ((tval t a.toNat).tmod (tval t b.toNat)))

/-- pos and len of a bit field (R251). -/
def fieldPos (b : Word) : Nat := fld b 5 0
def fieldLen (b : Word) : Nat := fld b 14 8
def fieldBad (t : ITy) (b : Word) : Bool := fieldLen b == 0 || decide (t.bits < fieldPos b + fieldLen b)

/-- `bext` (R251). -/
def bextOf (t : ITy) (a b : Word) : Chk Word :=
  if fieldBad t b then raise 0x12 b.toNat
  else
    let f := lo t.bits a.toNat / 2 ^ fieldPos b % 2 ^ fieldLen b
    .ok (if t.signed then BitVec.ofInt 64 (sval (fieldLen b) f) else BitVec.ofNat 64 f)

/-- `bins` (R251). -/
def binsOf (t : ITy) (d a b : Word) : Chk Word :=
  if fieldBad t b then raise 0x12 b.toNat
  else
    let pos := fieldPos b
    let len := fieldLen b
    let old := lo t.bits d.toNat
    .ok (text t ((old % 2 ^ pos + a.toNat % 2 ^ len * 2 ^ pos + old / 2 ^ (pos + len) * 2 ^ (pos + len) : Nat) : Int))

/-- The word of zeros does nothing (R205). -/
def execArithNop (s : State) : Host.Outcome State Fault Refusal := .next s

/-- a + b (R248). -/
def execAdd (p : BitVec 3) (d a b : BitVec 5) (t : ITy) (s : State) : Host.Outcome State Fault Refusal :=
  scalarOut s p d (text t ((tval t (s.getS a).toNat) + (tval t (s.getS b).toNat)))

/-- a - b (R248). -/
def execSub (p : BitVec 3) (d a b : BitVec 5) (t : ITy) (s : State) : Host.Outcome State Fault Refusal :=
  scalarOut s p d (text t ((tval t (s.getS a).toNat) - (tval t (s.getS b).toNat)))

/-- `Val(a) × Val(b)` (R248). -/
def execMul (p : BitVec 3) (d a b : BitVec 5) (t : ITy) (s : State) : Host.Outcome State Fault Refusal :=
  scalarOut s p d (text t ((tval t (s.getS a).toNat) * (tval t (s.getS b).toNat)))

/-- Bits [2n-1:n] of the exact product (R248). -/
def execMulh (p : BitVec 3) (d a b : BitVec 5) (t : ITy) (s : State) : Host.Outcome State Fault Refusal :=
  scalarOut s p d (text t (mulhI t.bits (tval t (s.getS a).toNat) (tval t (s.getS b).toNat)))

/-- Division (R249). -/
def execDiv (p : BitVec 3) (d a b : BitVec 5) (t : ITy) (s : State) : Host.Outcome State Fault Refusal :=
  scalarChk s p d (divOf t (s.getS a) (s.getS b))

/-- Remainder (R249). -/
def execRem (p : BitVec 3) (d a b : BitVec 5) (t : ITy) (s : State) : Host.Outcome State Fault Refusal :=
  scalarChk s p d (remOf t (s.getS a) (s.getS b))

/-- Bitwise `and` (R248). -/
def execAnd (p : BitVec 3) (d a b : BitVec 5) (t : ITy) (s : State) : Host.Outcome State Fault Refusal :=
  scalarOut s p d (text t ((s.getS a &&& s.getS b).toNat : Int))

/-- Bitwise `or` (R248). -/
def execOr (p : BitVec 3) (d a b : BitVec 5) (t : ITy) (s : State) : Host.Outcome State Fault Refusal :=
  scalarOut s p d (text t ((s.getS a ||| s.getS b).toNat : Int))

/-- Bitwise `xor` (R248). -/
def execXor (p : BitVec 3) (d a b : BitVec 5) (t : ITy) (s : State) : Host.Outcome State Fault Refusal :=
  scalarOut s p d (text t ((s.getS a ^^^ s.getS b).toNat : Int))

/-- Bitwise `andn` (R248). -/
def execAndn (p : BitVec 3) (d a b : BitVec 5) (t : ITy) (s : State) : Host.Outcome State Fault Refusal :=
  scalarOut s p d (text t ((s.getS a &&& ~~~(s.getS b)).toNat : Int))

/-- `Lo(a, n)` << k (R248). -/
def execShl (p : BitVec 3) (d a b : BitVec 5) (t : ITy) (s : State) : Host.Outcome State Fault Refusal :=
  scalarOut s p d (text t ((lo t.bits (s.getS a).toNat * 2 ^ shiftBy t (s.getS b) : Nat) : Int))

/-- `Lo(a, n)` >> k, filling with zeros (R248). -/
def execShr (p : BitVec 3) (d a b : BitVec 5) (t : ITy) (s : State) : Host.Outcome State Fault Refusal :=
  scalarOut s p d (text t ((lo t.bits (s.getS a).toNat / 2 ^ shiftBy t (s.getS b) : Nat) : Int))

/-- `Lo(a, n)` >> k, filling with bit n - 1 (R248). -/
def execSra (p : BitVec 3) (d a b : BitVec 5) (t : ITy) (s : State) : Host.Outcome State Fault Refusal :=
  scalarOut s p d (text t (sraN t.bits (s.getS a).toNat (shiftBy t (s.getS b))))

/-- `Lo(a, n)` rotated right by k (R248). -/
def execRot (p : BitVec 3) (d a b : BitVec 5) (t : ITy) (s : State) : Host.Outcome State Fault Refusal :=
  scalarOut s p d (text t (rotN t.bits (s.getS a).toNat (shiftBy t (s.getS b)) : Int))

/-- The lesser (R248). -/
def execMin (p : BitVec 3) (d a b : BitVec 5) (t : ITy) (s : State) : Host.Outcome State Fault Refusal :=
  scalarOut s p d (text t (min (tval t (s.getS a).toNat) (tval t (s.getS b).toNat)))

/-- The greater (R248). -/
def execMax (p : BitVec 3) (d a b : BitVec 5) (t : ITy) (s : State) : Host.Outcome State Fault Refusal :=
  scalarOut s p d (text t (max (tval t (s.getS a).toNat) (tval t (s.getS b).toNat)))

/-- 1 where the comparison holds, else 0 (R250). -/
def execSet (p : BitVec 3) (d a b : BitVec 5) (t : ITy) (c : ICc) (s : State) : Host.Outcome State Fault Refusal :=
  scalarOut s p d (if iCompare c (tval t (s.getS a).toNat) (tval t (s.getS b).toNat) then 1 else 0)

/-- `Ext` of a where the old s[d] is not 0, else of b (R250). -/
def execSel (p : BitVec 3) (d a b : BitVec 5) (t : ITy) (s : State) : Host.Outcome State Fault Refusal :=
  scalarOut s p d (text t ((if s.getS d ≠ 0 then s.getS a else s.getS b).toNat : Int))

/-- `Sat(Val(a) + Val(b), T)` (R248). -/
def execAdds (p : BitVec 3) (d a b : BitVec 5) (t : ITy) (s : State) : Host.Outcome State Fault Refusal :=
  scalarOut s p d (text t (tsat t ((tval t (s.getS a).toNat) + (tval t (s.getS b).toNat))))

/-- Leading zero bits, unextended (R248). -/
def execClz (p : BitVec 3) (d a : BitVec 5) (t : ITy) (s : State) : Host.Outcome State Fault Refusal :=
  scalarOut s p d (BitVec.ofNat 64 (clzN t.bits (s.getS a).toNat))

/-- One bits, unextended (R248). -/
def execPopc (p : BitVec 3) (d a : BitVec 5) (t : ITy) (s : State) : Host.Outcome State Fault Refusal :=
  scalarOut s p d (BitVec.ofNat 64 (popN t.bits (s.getS a).toNat))

/-- Extract a bit field (R251). -/
def execBext (p : BitVec 3) (d a b : BitVec 5) (t : ITy) (s : State) : Host.Outcome State Fault Refusal :=
  scalarChk s p d (bextOf t (s.getS a) (s.getS b))

/-- Insert a bit field (R251). -/
def execBins (p : BitVec 3) (d a b : BitVec 5) (t : ITy) (s : State) : Host.Outcome State Fault Refusal :=
  scalarChk s p d (binsOf t (s.getS d) (s.getS a) (s.getS b))

/-- `Ext` of a (R248). -/
def execMov (p : BitVec 3) (d a : BitVec 5) (t : ITy) (s : State) : Host.Outcome State Fault Refusal :=
  scalarOut s p d (text t ((s.getS a).toNat : Int))

/-- With SX(imm12, 12), on all 64 bits (R252). -/
def execAddi (p : BitVec 3) (d a : BitVec 5) (i : BitVec 12) (s : State) : Host.Outcome State Fault Refusal :=
  scalarOut s p d (s.getS a + i.signExtend 64)

/-- With SX(imm12, 12), on all 64 bits (R252). -/
def execAndi (p : BitVec 3) (d a : BitVec 5) (i : BitVec 12) (s : State) : Host.Outcome State Fault Refusal :=
  scalarOut s p d (s.getS a &&& i.signExtend 64)

/-- With SX(imm12, 12), on all 64 bits (R252). -/
def execOri (p : BitVec 3) (d a : BitVec 5) (i : BitVec 12) (s : State) : Host.Outcome State Fault Refusal :=
  scalarOut s p d (s.getS a ||| i.signExtend 64)

/-- With SX(imm12, 12), on all 64 bits (R252). -/
def execXori (p : BitVec 3) (d a : BitVec 5) (i : BitVec 12) (s : State) : Host.Outcome State Fault Refusal :=
  scalarOut s p d (s.getS a ^^^ i.signExtend 64)

/-- s[a] << k (R252). -/
def execShli (p : BitVec 3) (d a : BitVec 5) (k : BitVec 6) (s : State) : Host.Outcome State Fault Refusal :=
  scalarOut s p d (s.getS a <<< k.toNat)

/-- s[a] >> k, filling with zeros (R252). -/
def execShri (p : BitVec 3) (d a : BitVec 5) (k : BitVec 6) (s : State) : Host.Outcome State Fault Refusal :=
  scalarOut s p d (s.getS a >>> k.toNat)

end Sys2Proof.Machine
end

