-- ==== Sys2Proof/Machine/Convert.lean ====
section
/-! DEFINITION. The conversions (R263-R268). -/
namespace Sys2Proof.Machine
open Sys2Proof

/-- Why a value is refused (R206, R167): 0x07 for a reserved PW8 byte, 0x13 for a NaN into an integer format or
PW8, with the element's index. -/
def badByte (src : FTy) (x i : Nat) : Option Cond :=
  if src = .pw8 ∧ pw8Reserved x = true then some (mkCond 0x07 (x % 256 + i * 256)) else none

def badNan (x : XVal) (i : Nat) : Option Cond := if isNan x then some (mkCond 0x13 i) else none

/-- A float source bound for a float format. -/
def badFF (src dst : FTy) (x i : Nat) : Option Cond :=
  match badByte src x i with
  | some c => some c
  | none => if dst = .pw8 then badNan (widen src x) i else none

/-- A float source bound for an integer format. -/
def badFI (src : FTy) (x i : Nat) : Option Cond :=
  match badByte src x i with
  | some c => some c
  | none => badNan (widen src x) i

/-- The first refused active element, in ascending order. -/
def firstBad (n : Nat) (f : Nat → Option Cond) : Option Cond := (List.range n).findSome? f

/-- A vector result that a refused element stops: no element is written and no draw is taken (R264).
A conversion into PW8 takes its draws under RS as any other does (R180, log 70). -/
def convOut (s : State) (w : Nat) (p : BitVec 3) (d : BitVec 5) (m : FMod) (n : Nat) (bad : Nat → Option Cond) (f : Nat → Nat → Nat) :
    Host.Outcome State Fault Refusal :=
  match firstBad n bad with
  | some c => .next (takeCondition s c (faultPc s))
  | none =>
    let r := rsDraws s m n
    vectorOut r.2 w p d (fun i => f r.1 i)

/-- R263: a conversion from ws bits to wd bits with part q. `bad` judges a source element with its index, which a condition reports (log 28);
`f` converts one with its draw. -/
def partOut (s : State) (p : BitVec 3) (d a : BitVec 5) (ws wd q : Nat) (m : FMod) (bad : Nat → Nat → Option Cond) (f : Nat → Nat → Nat) :
    Host.Outcome State Fault Refusal :=
  let n := 2048 / max ws wd
  let src (i : Nat) : Nat := if ws < wd then q * n + i else i
  let dst (i : Nat) : Nat := if wd < ws then q * n + i else i
  let x (i : Nat) : Nat := vel ws (s.getV a) (src i)
  convOut s wd p d m n
    (fun i => if active (s.getP p) wd (dst i) then bad (x i) (src i) else none)
    (fun ds j =>
      let i := if wd < ws then j - q * n else j
      if dst i = j ∧ i < n then f (draw ds i) (x i) else vel wd (s.getV d) j)

/-- The bits of a conversion that is not refused. -/
def convBits (t : FTy) (m : FMod) (u : Nat) (x : XVal) : Nat := (convertF t m.rnd m.sat u x).getD 0
def convInt (t : ITy) (m : FMod) (u : Nat) (x : XVal) : Nat := wrapN t.bits ((convertI (tmin t) (tmax t) m.rnd u x).getD 0)

/-- The source type of `vpack` and the destination type of `vunpk` (R266, R267). -/
def wideTy : FTy → FTy
  | .e4m3 | .e5m2 | .pw8 => .bf16
  | _ => .f32

/-- Float to float (R264). -/
def execVcvt (p : BitVec 3) (d a : BitVec 5) (q : BitVec 2) (ts td : FTy) (m : FMod) (s : State) : Host.Outcome State Fault Refusal :=
  partOut s p d a ts.bits td.bits q.toNat m (badFF ts td) (fun u x => convBits td m u (widen ts x))

/-- Float to integer and integer to float (R265). -/
def execVcvti (p : BitVec 3) (d a : BitVec 5) (q : Bool) (toFloat : Bool) (f : FTy) (t : ITy) (m : FMod) (s : State) : Host.Outcome State Fault Refusal :=
  if toFloat then partOut s p d a t.bits f.bits q.toNat m (fun _ _ => none) (fun u x => convBits f m u (xint (tval t x)))
  else partOut s p d a f.bits t.bits q.toNat m (badFI f) (fun u x => convInt t m u (widen f x))

/-- Two vectors narrowed into one (R266). -/
def execVpack (p : BitVec 3) (d a b : BitVec 5) (t : FTy) (m : FMod) (s : State) : Host.Outcome State Fault Refusal :=
  let ws := wideTy t
  let h := vcount ws.bits
  let x (k : Nat) : Nat := if k < h then vel ws.bits (s.getV a) k else vel ws.bits (s.getV b) (k - h)
  convOut s t.bits p d m (2 * h) (fun k => if active (s.getP p) t.bits k then badFF ws t (x k) k else none)
    (fun ds k => convBits t m (draw ds k) (widen ws (x k)))

/-- Half of a, widened exactly (R267). -/
def execVunpk (p : BitVec 3) (d a : BitVec 5) (h : Bool) (t : FTy) (s : State) : Host.Outcome State Fault Refusal :=
  let wd := wideTy t
  let n := vcount wd.bits
  let x (i : Nat) : Nat := vel t.bits (s.getV a) (h.toNat * n + i)
  convOut s wd.bits p d { rnd := .rne, sat := false } n (fun i => if active (s.getP p) wd.bits i then badByte t (x i) (h.toNat * n + i) else none)
    (fun _ i => fPick wd (widen t (x i)))

/-- The result of `scvt`, or the condition that its data raises (R268). -/
def scvtOf (k : ScvtKind) (t : FTy) (m : FMod) (u : Nat) (a : Word) : Chk Word :=
  let stop (c : Option Cond) (x : Word) : Chk Word := match c with | some c => .error (.cond c none) | none => .ok x
  match k with
  | .ff fs =>
    let x := lo fs.bits a.toNat
    stop (badFF fs t x 0) (BitVec.ofNat 64 (convBits t m u (widen fs x)))
  | .fromI64 => .ok (BitVec.ofNat 64 (convBits t m u (xint a.toInt)))
  | .toI64 =>
    let x := lo t.bits a.toNat
    stop (badFI t x 0) (BitVec.ofNat 64 (convInt .i64 m u (widen t x)))

/-- One scalar converted; it takes its step under RS whether or not it takes effect (R268, R180). -/
def execScvt (p : BitVec 3) (d a : BitVec 5) (k : ScvtKind) (t : FTy) (m : FMod) (s : State) : Host.Outcome State Fault Refusal :=
  let r := rsDraws s m 1
  if predOn (s.getP p) then finish s ((scvtOf k t m (draw r.1 0) (s.getS a)).map (r.2.setS d)) else .next r.2

end Sys2Proof.Machine
end

