-- ==== Sys2Proof/Machine/Permute.lean ====
section
/-! DEFINITION. Permutations, lane moves, random numbers and the width query (R275-R282). -/
namespace Sys2Proof.Machine
open Sys2Proof

/-- The elements of a that the selector picks, in ascending order (R279). -/
def picked (sel : Pred) (w : Nat) (x : Vec) : List Nat :=
  ((List.range (vcount w)).filter (fun i => active sel w i)).map (fun i => vel w x i)

/-- The precision of `randf` (R281). -/
def randPrec : FTy → Nat
  | .bf16 => 8
  | .f16 => 11
  | _ => 24

/-- Element k of a, k being element i of b modulo E (R275). -/
def execVperm (p : BitVec 3) (d a b : BitVec 5) (t : ITy) (s : State) : Host.Outcome State Fault Refusal :=
  vectorOut s t.bits p d (fun i => vel t.bits (s.getV a) (vel t.bits (s.getV b) i % vcount t.bits))

/-- A scalar in every active element (R276). -/
def execVbcast (p : BitVec 3) (d a : BitVec 5) (t : ITy) (s : State) : Host.Outcome State Fault Refusal :=
  vectorOut s t.bits p d (fun _ => lo t.bits (s.getS a).toNat)

/-- Elements shifted by a signed count; zeros enter (R277). -/
def execVslide (p : BitVec 3) (d a b : BitVec 5) (t : ITy) (s : State) : Host.Outcome State Fault Refusal :=
  vectorOut s t.bits p d (fun i =>
    let k : Int := i + (s.getS b).toInt
    if 0 ≤ k ∧ k < vcount t.bits then vel t.bits (s.getV a) k.toNat else 0)

/-- Half h of a and b interleaved (R278). -/
def execVzip (p : BitVec 3) (d a b : BitVec 5) (t : ITy) (h : Bool) (s : State) : Host.Outcome State Fault Refusal :=
  vectorOut s t.bits p d (fun i => vel t.bits (if i % 2 = 0 then s.getV a else s.getV b) (h.toNat * (vcount t.bits / 2) + i / 2))

/-- Phase h of a followed by b (R278). -/
def execVunzip (p : BitVec 3) (d a b : BitVec 5) (t : ITy) (h : Bool) (s : State) : Host.Outcome State Fault Refusal :=
  vectorOut s t.bits p d (fun j =>
    let k := 2 * j + h.toNat
    if k < vcount t.bits then vel t.bits (s.getV a) k else vel t.bits (s.getV b) (k - vcount t.bits))

/-- The selected elements, packed; zeros follow (R279). -/
def execVcomp (p : BitVec 3) (d a : BitVec 5) (b : BitVec 3) (t : ITy) (s : State) : Host.Outcome State Fault Refusal :=
  let l := picked (s.getP b) t.bits (s.getV a)
  vectorOut s t.bits p d (fun j => l.getD j 0)

/-- Element k of a, extended by T; 0x12 where k is E or more (R276). -/
def execVmovs (p : BitVec 3) (d a b : BitVec 5) (t : ITy) (s : State) : Host.Outcome State Fault Refusal :=
  scalarChk s p d (if vcount t.bits ≤ (s.getS b).toNat then raise 0x12 (s.getS b).toNat
    else .ok (text t (vel t.bits (s.getV a) (s.getS b).toNat : Int)))

/-- A scalar into element k, where it is active; 0x12 where k is E or more (R276). -/
def execVins (p : BitVec 3) (d a b : BitVec 5) (t : ITy) (s : State) : Host.Outcome State Fault Refusal :=
  if vcount t.bits ≤ (s.getS b).toNat then .next (takeCondition s (mkCond 0x12 (s.getS b).toNat) (faultPc s))
  else vectorOut s t.bits p d (fun i => if i = (s.getS b).toNat then lo t.bits (s.getS a).toNat else vel t.bits (s.getV d) i)

/-- One draw for each element, or one step for a scalar, taken whatever the predicate (R280, R180). -/
def execRand (p : BitVec 3) (d : BitVec 5) (t : ITy) (s : State) : Host.Outcome State Fault Refusal :=
  match t with
  | .i64 =>
    let r := s.draws 2
    scalarOut r.2 p d (BitVec.ofNat 64 r.1)
  | _ =>
    let r := s.draws 64
    vectorOut r.2 32 p d (fun i => draw r.1 i)

/-- Uniform values in [0, 1), exact (R281). -/
def execRandf (p : BitVec 3) (d a : BitVec 5) (t : FTy) (s : State) : Host.Outcome State Fault Refusal :=
  vectorOut s t.bits p d (fun i =>
    fPick t (.fin false (vel t.bits (s.getV a) i / 2 ^ (t.bits - randPrec t)) (-(randPrec t : Int)) false))

/-- VW / n (R282). -/
def execVwid (p : BitVec 3) (d : BitVec 5) (t : ITy) (s : State) : Host.Outcome State Fault Refusal :=
  scalarOut s p d (BitVec.ofNat 64 (vcount t.bits))

end Sys2Proof.Machine
end

