-- ==== Sys2Proof/Machine/Predicate.lean ====
section
/-! DEFINITION. The predicate instructions (R269-R272). -/
namespace Sys2Proof.Machine
open Sys2Proof

/-- A whole predicate, written where bit 0 of the governing predicate is set (R196, R270). -/
def wholePred (s : State) (p d : BitVec 3) (x : Pred) : Host.Outcome State Fault Refusal :=
  .next (if predOn (s.getP p) then s.setP d x else s)

/-- The element size of a SZ code (R272). -/
def szBytes (z : BitVec 2) : Nat := 2 ^ z.toNat

/-- A loop-bound predicate, compared exactly (R269). -/
def execVbnd (p d : BitVec 3) (a b : BitVec 5) (t : ITy) (s : State) : Host.Outcome State Fault Refusal :=
  predOut s t.bits p d (fun i =>
    if t.signed then decide ((s.getS a).toInt + i < (s.getS b).toInt) else decide ((s.getS a).toNat + i < (s.getS b).toNat))

/-- On all 256 bits (R270). -/
def execPand (p d a b : BitVec 3) (s : State) : Host.Outcome State Fault Refusal :=
  wholePred s p d (s.getP a &&& s.getP b)

/-- On all 256 bits (R270). -/
def execPor (p d a b : BitVec 3) (s : State) : Host.Outcome State Fault Refusal :=
  wholePred s p d (s.getP a ||| s.getP b)

/-- On all 256 bits (R270). -/
def execPxor (p d a b : BitVec 3) (s : State) : Host.Outcome State Fault Refusal :=
  wholePred s p d (s.getP a ^^^ s.getP b)

/-- On all 256 bits (R270). -/
def execPnot (p d a : BitVec 3) (s : State) : Host.Outcome State Fault Refusal :=
  wholePred s p d (~~~(s.getP a))

/-- The number of set bits (R271). -/
def execPcnt (p : BitVec 3) (d : BitVec 5) (a : BitVec 3) (s : State) : Host.Outcome State Fault Refusal :=
  scalarOut s p d (BitVec.ofNat 64 (popN 256 (s.getP a).toNat))

/-- The index of the lowest set bit, or all ones (R271). -/
def execPfirst (p : BitVec 3) (d : BitVec 5) (a : BitVec 3) (s : State) : Host.Outcome State Fault Refusal :=
  scalarOut s p d (match firstBit (s.getP a).toNat 256 0 with | some i => BitVec.ofNat 64 i | none => BitVec.allOnes 64)

/-- The first min(e × z, 256) bits (R272). -/
def execPset (p d : BitVec 3) (z : BitVec 2) (n : BitVec 9) (s : State) : Host.Outcome State Fault Refusal :=
  wholePred s p d (BitVec.ofNat 256 (2 ^ min (n.toNat * szBytes z) 256 - 1))

end Sys2Proof.Machine
end

