-- ==== Sys2Proof/Machine/Reduce.lean ====
section
/-! DEFINITION. The reductions and the scan (R273, R274, R176). -/
namespace Sys2Proof.Machine
open Sys2Proof

/-- The elements of a float vector, an inactive one as the identity (R273). -/
def fInputs (s : State) (p : BitVec 3) (a : BitVec 5) (t : FTy) (id : XVal) : List XVal :=
  (List.range (vcount t.bits)).map (fun i => if active (s.getP p) t.bits i then fval t (s.getV a) i else id)

/-- The elements of an integer vector, an inactive one as the identity. -/
def iInputs (s : State) (p : BitVec 3) (a : BitVec 5) (t : ITy) (id : Int) : List Int :=
  (List.range (vcount t.bits)).map (fun i => if active (s.getP p) t.bits i then vval t (s.getV a) i else id)

/-- The result in every 32-bit element that the governing predicate selects (R273). -/
def reduceOut (s : State) (p : BitVec 3) (d : BitVec 5) (y : Nat) : Host.Outcome State Fault Refusal := vectorOut s 32 p d (fun _ => y)

/-- A float reduction: the tree, then `Arith(y, f32, RNE, 0)`. -/
def reduceF (s : State) (p : BitVec 3) (d a : BitVec 5) (t : FTy) (op : XVal → XVal → XVal) (id : XVal) (pre : XVal → XVal) :
    Host.Outcome State Fault Refusal :=
  reduceOut s p d (arith fmtF32 .rne false 0 (tree op ((fInputs s p a t id).map pre)))

/-- An integer reduction: the low 32 bits of the exact reduction of the widened values. -/
def reduceI (s : State) (p : BitVec 3) (d a : BitVec 5) (t : ITy) (op : Int → Int → Int) (id : Int) : Host.Outcome State Fault Refusal :=
  reduceOut s p d (wrapN 32 ((iInputs s p a t id).foldl op id))

/-- The prefix results from element i on, packed (R274). -/
def scanGo (w : Nat) (p : Pred) (old x : Vec) (op : Nat → Nat → Nat) : Nat → Nat → Nat → Nat
  | 0, _, _ => 0
  | n + 1, i, acc =>
    if active p w i then
      let y := op acc (vel w x i) % 2 ^ w
      y + 2 ^ w * scanGo w p old x op n (i + 1) y
    else vel w old i + 2 ^ w * scanGo w p old x op n (i + 1) acc

/-- A sum; an inactive float enters as -0 (R273, R176). -/
def execVrsum (p : BitVec 3) (d a : BitVec 5) (t : RTy) (s : State) : Host.Outcome State Fault Refusal :=
  match t with
  | .f t => reduceF s p d a t sumNode (xzero true) id
  | .i t => reduceI s p d a t (fun x y => x + y) 0

/-- The greatest (R273, R169). -/
def execVrmax (p : BitVec 3) (d a : BitVec 5) (t : RTy) (s : State) : Host.Outcome State Fault Refusal :=
  match t with
  | .f t => reduceF s p d a t xmax .nan id
  | .i t => reduceI s p d a t max (tmin t)

/-- The least (R273, R169). -/
def execVrmin (p : BitVec 3) (d a : BitVec 5) (t : RTy) (s : State) : Host.Outcome State Fault Refusal :=
  match t with
  | .f t => reduceF s p d a t xmin .nan id
  | .i t => reduceI s p d a t min (tmax t)

/-- The greatest magnitude (R273, R169). -/
def execVramax (p : BitVec 3) (d a : BitVec 5) (t : FTy) (s : State) : Host.Outcome State Fault Refusal :=
  reduceF s p d a t xmax .nan xabs

/-- Inclusive prefix sums, in ascending order (R274). -/
def execVscan (p : BitVec 3) (d a : BitVec 5) (t : RTy) (s : State) : Host.Outcome State Fault Refusal :=
  match t with
  | .f t => .next (s.setVL d (BitVec.ofNat 2048 (scanGo t.bits (s.getP p) (s.getV d) (s.getV a) f32Add (vcount t.bits) 0 0x80000000)))
  | .i t => .next (s.setVL d (BitVec.ofNat 2048 (scanGo t.bits (s.getP p) (s.getV d) (s.getV a) (fun x y => x + y) (vcount t.bits) 0 0)))

end Sys2Proof.Machine
end

