-- ==== Sys2Proof/Machine/Dispatch.lean ====
section
/-! DEFINITION. The dispatch: one arm per constructor of `Instr`, each one direct call of its meaning. -/
namespace Sys2Proof.Machine
open Sys2Proof

def exec (i : Instr) (s : State) : Host.Outcome State Fault Refusal :=
  match i with
  | .nop => Sys2Proof.Machine.execNop s
  | .bra off => Sys2Proof.Machine.execBra off s
  | .bc c r off => Sys2Proof.Machine.execBc c r off s
  | .call off => Sys2Proof.Machine.execCall off s
  | .calli d a => Sys2Proof.Machine.execCalli d a s
  | .ret a => Sys2Proof.Machine.execRet a s
  | .jmpi a => Sys2Proof.Machine.execJmpi a s
  | .rep creg cnt stepO stepD stepA stepB => Sys2Proof.Machine.execRep creg cnt stepO stepD stepA stepB s
  | .yield map => Sys2Proof.Machine.execYield map s
  | .safe map => Sys2Proof.Machine.execSafe map s
  | .endCont => Sys2Proof.Machine.execEndCont s
  | .work d amount => Sys2Proof.Machine.execWork d amount s
  | .wait h => Sys2Proof.Machine.execWait h s
  | .ftest d h => Sys2Proof.Machine.execFtest d h s
  | .fcancel h => Sys2Proof.Machine.execFcancel h s
  | .fget d h => Sys2Proof.Machine.execFget d h s
  | .fput h a => Sys2Proof.Machine.execFput h a s
  | .tryChoice a b n map => Sys2Proof.Machine.execTryChoice a b n map s
  | .fail => Sys2Proof.Machine.execFail s
  | .cut d depth => Sys2Proof.Machine.execCut d depth s
  | .mark d => Sys2Proof.Machine.execMark d s
  | .commit h a map => Sys2Proof.Machine.execCommit h a map s
  | .tread d a b h ver => Sys2Proof.Machine.execTread d a b h ver s
  | .tver d a => Sys2Proof.Machine.execTver d a s
  | .quit => Sys2Proof.Machine.execQuit s
  | .svc d n => Sys2Proof.Machine.execSvc d n s
  | .lit d v => Sys2Proof.Machine.execLit d v s
  | .lithi d v => Sys2Proof.Machine.execLithi d v s
  | .vlit d v => Sys2Proof.Machine.execVlit d v s
  | .ldW8 d a off => Sys2Proof.Machine.execLdW8 d a off s
  | .ldI8 d a off => Sys2Proof.Machine.execLdI8 d a off s
  | .ldW16 d a off => Sys2Proof.Machine.execLdW16 d a off s
  | .ldI16 d a off => Sys2Proof.Machine.execLdI16 d a off s
  | .stage n => Sys2Proof.Machine.execStage n s
  | .ldW32 d a off => Sys2Proof.Machine.execLdW32 d a off s
  | .ldI32 d a off => Sys2Proof.Machine.execLdI32 d a off s
  | .ldW64 d a off => Sys2Proof.Machine.execLdW64 d a off s
  | .stW8 d a off => Sys2Proof.Machine.execStW8 d a off s
  | .mxrot h lone => Sys2Proof.Machine.execMxrot h lone s
  | .stW16 d a off => Sys2Proof.Machine.execStW16 d a off s
  | .stW32 d a off => Sys2Proof.Machine.execStW32 d a off s
  | .stW64 d a off => Sys2Proof.Machine.execStW64 d a off s
  | .ldx d a b sc sz off => Sys2Proof.Machine.execLdx d a b sc sz off s
  | .stx d a b sc sz off => Sys2Proof.Machine.execStx d a b sc sz off s
  | .vld d a off => Sys2Proof.Machine.execVld d a off s
  | .vst d a off => Sys2Proof.Machine.execVst d a off s
  | .vlds d a b e p off => Sys2Proof.Machine.execVlds d a b e p off s
  | .vsts d a b e p off => Sys2Proof.Machine.execVsts d a b e p off s
  | .vgat d a b e p off => Sys2Proof.Machine.execVgat d a b e p off s
  | .barl => Sys2Proof.Machine.execBarl s
  | .vsct d a b e p off => Sys2Proof.Machine.execVsct d a b e p off s
  | .vldb d a e p off => Sys2Proof.Machine.execVldb d a e p off s
  | .ldsync d a sz off => Sys2Proof.Machine.execLdsync d a sz off s
  | .vldsync d a off => Sys2Proof.Machine.execVldsync d a off s
  | .stfull d a off => Sys2Proof.Machine.execStfull d a off s
  | .vstfull d a off => Sys2Proof.Machine.execVstfull d a off s
  | .femp a b off => Sys2Proof.Machine.execFemp a b off s
  | .arithNop => Sys2Proof.Machine.execArithNop s
  | .ldacq d a sz sc off => Sys2Proof.Machine.execLdacq d a sz sc off s
  | .strel d a sz sc off => Sys2Proof.Machine.execStrel d a sz sc off s
  | .afadd d a b t sc off => Sys2Proof.Machine.execAfadd d a b t sc off s
  | .afmin d a b t sc off => Sys2Proof.Machine.execAfmin d a b t sc off s
  | .afmax d a b t sc off => Sys2Proof.Machine.execAfmax d a b t sc off s
  | .fence sc => Sys2Proof.Machine.execFence sc s
  | .afand d a b t sc off => Sys2Proof.Machine.execAfand d a b t sc off s
  | .afor d a b t sc off => Sys2Proof.Machine.execAfor d a b t sc off s
  | .afxor d a b t sc off => Sys2Proof.Machine.execAfxor d a b t sc off s
  | .pref a lvl off => Sys2Proof.Machine.execPref a lvl off s
  | .aswap d a b t sc off => Sys2Proof.Machine.execAswap d a b t sc off s
  | .affadd d a b sc off => Sys2Proof.Machine.execAffadd d a b sc off s
  | .acas d a b t sc off new => Sys2Proof.Machine.execAcas d a b t sc off new s
  | .pin d a b l3 off => Sys2Proof.Machine.execPin d a b l3 off s
  | .unpin a b l3 off => Sys2Proof.Machine.execUnpin a b l3 off s
  | .cflush a b off => Sys2Proof.Machine.execCflush a b off s
  | .cinv a b off => Sys2Proof.Machine.execCinv a b off s
  | .copy h d s1 n fl => Sys2Proof.Machine.execCopy h d s1 n fl s
  | .copy2 h d s1 k fl => Sys2Proof.Machine.execCopy2 h d s1 k fl s
  | .copym h d s1 n fl => Sys2Proof.Machine.execCopym h d s1 n fl s
  | .mxld h a off => Sys2Proof.Machine.execMxld h a off s
  | .mxmm h a b code off => Sys2Proof.Machine.execMxmm h a b code off s
  | .mxsp h a b c off => Sys2Proof.Machine.execMxsp h a b c off s
  | .mxgrp h a b k off => Sys2Proof.Machine.execMxgrp h a b k off s
  | .mxclr h b lone => Sys2Proof.Machine.execMxclr h b lone s
  | .mxrd h a b c lone => Sys2Proof.Machine.execMxrd h a b c lone s
  | .mxmeta h a b c lone => Sys2Proof.Machine.execMxmeta h a b c lone s
  | .mxcmd h a b cap => Sys2Proof.Machine.execMxcmd h a b cap s
  | .msg h a b c tag => Sys2Proof.Machine.execMsg h a b c tag s
  | .recv d a => Sys2Proof.Machine.execRecv d a s
  | .bar level map => Sys2Proof.Machine.execBar level map s
  | .gets d n => Sys2Proof.Machine.execGets d n s
  | .puts d n => Sys2Proof.Machine.execPuts d n s
  | .hret a => Sys2Proof.Machine.execHret a s
  | .hand d a => Sys2Proof.Machine.execHand d a s
  | .rseed a b => Sys2Proof.Machine.execRseed a b s
  | .park a => Sys2Proof.Machine.execPark a s
  | .add p d a b t => Sys2Proof.Machine.execAdd p d a b t s
  | .sub p d a b t => Sys2Proof.Machine.execSub p d a b t s
  | .mul p d a b t => Sys2Proof.Machine.execMul p d a b t s
  | .set p d a b t c => Sys2Proof.Machine.execSet p d a b t c s
  | .mulh p d a b t => Sys2Proof.Machine.execMulh p d a b t s
  | .div p d a b t => Sys2Proof.Machine.execDiv p d a b t s
  | .rem p d a b t => Sys2Proof.Machine.execRem p d a b t s
  | .clz p d a t => Sys2Proof.Machine.execClz p d a t s
  | .and p d a b t => Sys2Proof.Machine.execAnd p d a b t s
  | .or p d a b t => Sys2Proof.Machine.execOr p d a b t s
  | .xor p d a b t => Sys2Proof.Machine.execXor p d a b t s
  | .popc p d a t => Sys2Proof.Machine.execPopc p d a t s
  | .andn p d a b t => Sys2Proof.Machine.execAndn p d a b t s
  | .shl p d a b t => Sys2Proof.Machine.execShl p d a b t s
  | .shr p d a b t => Sys2Proof.Machine.execShr p d a b t s
  | .mov p d a t => Sys2Proof.Machine.execMov p d a t s
  | .sra p d a b t => Sys2Proof.Machine.execSra p d a b t s
  | .rot p d a b t => Sys2Proof.Machine.execRot p d a b t s
  | .min p d a b t => Sys2Proof.Machine.execMin p d a b t s
  | .addi p d a i1 => Sys2Proof.Machine.execAddi p d a i1 s
  | .max p d a b t => Sys2Proof.Machine.execMax p d a b t s
  | .sel p d a b t => Sys2Proof.Machine.execSel p d a b t s
  | .adds p d a b t => Sys2Proof.Machine.execAdds p d a b t s
  | .andi p d a i1 => Sys2Proof.Machine.execAndi p d a i1 s
  | .bext p d a b t => Sys2Proof.Machine.execBext p d a b t s
  | .bins p d a b t => Sys2Proof.Machine.execBins p d a b t s
  | .ori p d a i1 => Sys2Proof.Machine.execOri p d a i1 s
  | .xori p d a i1 => Sys2Proof.Machine.execXori p d a i1 s
  | .shli p d a k => Sys2Proof.Machine.execShli p d a k s
  | .vadd p d a b t => Sys2Proof.Machine.execVadd p d a b t s
  | .shri p d a k => Sys2Proof.Machine.execShri p d a k s
  | .vsub p d a b t => Sys2Proof.Machine.execVsub p d a b t s
  | .vmul p d a b t => Sys2Proof.Machine.execVmul p d a b t s
  | .vmulh p d a b t => Sys2Proof.Machine.execVmulh p d a b t s
  | .vabs p d a t => Sys2Proof.Machine.execVabs p d a t s
  | .vaddsat p d a b t => Sys2Proof.Machine.execVaddsat p d a b t s
  | .vsubsat p d a b t => Sys2Proof.Machine.execVsubsat p d a b t s
  | .vand p d a b t => Sys2Proof.Machine.execVand p d a b t s
  | .vneg p d a t => Sys2Proof.Machine.execVneg p d a t s
  | .vor p d a b t => Sys2Proof.Machine.execVor p d a b t s
  | .vxor p d a b t => Sys2Proof.Machine.execVxor p d a b t s
  | .vandn p d a b t => Sys2Proof.Machine.execVandn p d a b t s
  | .vfabs p d a t => Sys2Proof.Machine.execVfabs p d a t s
  | .vshl p d a b t => Sys2Proof.Machine.execVshl p d a b t s
  | .vshr p d a b t => Sys2Proof.Machine.execVshr p d a b t s
  | .vsra p d a b t => Sys2Proof.Machine.execVsra p d a b t s
  | .vfneg p d a t => Sys2Proof.Machine.execVfneg p d a t s
  | .vmin p d a b t => Sys2Proof.Machine.execVmin p d a b t s
  | .vmax p d a b t => Sys2Proof.Machine.execVmax p d a b t s
  | .vdot4 p d a b t sat => Sys2Proof.Machine.execVdot4 p d a b t sat s
  | .vcmp p d a b t c => Sys2Proof.Machine.execVcmp p d a b t c s
  | .vsel p d a b t => Sys2Proof.Machine.execVsel p d a b t s
  | .vfadd p d a b t m => Sys2Proof.Machine.execVfadd p d a b t m s
  | .vfsub p d a b t m => Sys2Proof.Machine.execVfsub p d a b t m s
  | .vfmul p d a b t m => Sys2Proof.Machine.execVfmul p d a b t m s
  | .storeDrain core => Sys2Proof.Machine.execStoreDrain core s
  | .vfma p d a b t m => Sys2Proof.Machine.execVfma p d a b t m s
  | .vfms p d a b t m => Sys2Proof.Machine.execVfms p d a b t m s
  | .vfnma p d a b t m => Sys2Proof.Machine.execVfnma p d a b t m s
  | .pnot p d a => Sys2Proof.Machine.execPnot p d a s
  | .vfmin p d a b t => Sys2Proof.Machine.execVfmin p d a b t s
  | .vfmax p d a b t => Sys2Proof.Machine.execVfmax p d a b t s
  | .vfcmp p d a b t c => Sys2Proof.Machine.execVfcmp p d a b t c s
  | .vfrcp p d a t m => Sys2Proof.Machine.execVfrcp p d a t m s
  | .vfrsq p d a t m => Sys2Proof.Machine.execVfrsq p d a t m s
  | .vfsqrt p d a t m => Sys2Proof.Machine.execVfsqrt p d a t m s
  | .pcnt p d a => Sys2Proof.Machine.execPcnt p d a s
  | .vfexp2 p d a t m => Sys2Proof.Machine.execVfexp2 p d a t m s
  | .vflog2 p d a t m => Sys2Proof.Machine.execVflog2 p d a t m s
  | .vftanh p d a t m => Sys2Proof.Machine.execVftanh p d a t m s
  | .vfscale p d a b t m => Sys2Proof.Machine.execVfscale p d a b t m s
  | .vfsinpi p d a t m => Sys2Proof.Machine.execVfsinpi p d a t m s
  | .vfcospi p d a t m => Sys2Proof.Machine.execVfcospi p d a t m s
  | .vfdot2 p d a b t m => Sys2Proof.Machine.execVfdot2 p d a b t m s
  | .vcvt p d a q ts td m => Sys2Proof.Machine.execVcvt p d a q ts td m s
  | .vcvti p d a q toFloat f t m => Sys2Proof.Machine.execVcvti p d a q toFloat f t m s
  | .vpack p d a b t m => Sys2Proof.Machine.execVpack p d a b t m s
  | .vunpk p d a h t => Sys2Proof.Machine.execVunpk p d a h t s
  | .scvt p d a k t m => Sys2Proof.Machine.execScvt p d a k t m s
  | .vbnd p d a b t => Sys2Proof.Machine.execVbnd p d a b t s
  | .pand p d a b => Sys2Proof.Machine.execPand p d a b s
  | .por p d a b => Sys2Proof.Machine.execPor p d a b s
  | .pxor p d a b => Sys2Proof.Machine.execPxor p d a b s
  | .pfirst p d a => Sys2Proof.Machine.execPfirst p d a s
  | .pset p d z n => Sys2Proof.Machine.execPset p d z n s
  | .vrsum p d a t => Sys2Proof.Machine.execVrsum p d a t s
  | .vrmax p d a t => Sys2Proof.Machine.execVrmax p d a t s
  | .vperm p d a b t => Sys2Proof.Machine.execVperm p d a b t s
  | .vrmin p d a t => Sys2Proof.Machine.execVrmin p d a t s
  | .vramax p d a t => Sys2Proof.Machine.execVramax p d a t s
  | .vbcast p d a t => Sys2Proof.Machine.execVbcast p d a t s
  | .vslide p d a b t => Sys2Proof.Machine.execVslide p d a b t s
  | .vzip p d a b t h => Sys2Proof.Machine.execVzip p d a b t h s
  | .vunzip p d a b t h => Sys2Proof.Machine.execVunzip p d a b t h s
  | .vcomp p d a b t => Sys2Proof.Machine.execVcomp p d a b t s
  | .vscan p d a t => Sys2Proof.Machine.execVscan p d a t s
  | .vmovs p d a b t => Sys2Proof.Machine.execVmovs p d a b t s
  | .vins p d a b t => Sys2Proof.Machine.execVins p d a b t s
  | .rand p d t => Sys2Proof.Machine.execRand p d t s
  | .randf p d a t => Sys2Proof.Machine.execRandf p d a t s
  | .vwid p d t => Sys2Proof.Machine.execVwid p d t s
  | .loadReply th ans => Sys2Proof.Machine.execLoadReply th ans s
  | .syncLoadWake th => Sys2Proof.Machine.execSyncLoadWake th s
  | .homeErrorReport rid code x => Sys2Proof.Machine.execHomeErrorReport rid code x s
  | .takeLaterCondition th => Sys2Proof.Machine.execTakeLaterCondition th s
  | .parkRelease core resume => Sys2Proof.Machine.execParkRelease core resume s
  | .parkAbort core => Sys2Proof.Machine.execParkAbort core s
  | .svcReply th a => Sys2Proof.Machine.execSvcReply th a s
  | .pickup th => Sys2Proof.Machine.execPickup th s
  | .grantRecord die => Sys2Proof.Machine.execGrantRecord die s
  | .shadowFill core => Sys2Proof.Machine.execShadowFill core s
  | .prefetchDone core slot => Sys2Proof.Machine.execPrefetchDone core slot s
  | .priorityAging rid => Sys2Proof.Machine.execPriorityAging rid s
  | .sqDbWrite q tail => Sys2Proof.Machine.execSqDbWrite q tail s
  | .cqDbWrite q head => Sys2Proof.Machine.execCqDbWrite q head s
  | .sqCfgWrite q value => Sys2Proof.Machine.execSqCfgWrite q value s
  | .cqCfgWrite q value => Sys2Proof.Machine.execCqCfgWrite q value s
  | .admitLaunch q => Sys2Proof.Machine.execAdmitLaunch q s
  | .launchDispatch launch => Sys2Proof.Machine.execLaunchDispatch launch s
  | .gangPlace launch => Sys2Proof.Machine.execGangPlace launch s
  | .gangReserve launch => Sys2Proof.Machine.execGangReserve launch s
  | .postCompletion q => Sys2Proof.Machine.execPostCompletion q s
  | .tlbiPage part va => Sys2Proof.Machine.execTlbiPage part va s
  | .cqCoalTimer q => Sys2Proof.Machine.execCqCoalTimer q s
  | .launchDone launch => Sys2Proof.Machine.execLaunchDone launch s
  | .preemptHold launch => Sys2Proof.Machine.execPreemptHold launch s
  | .preemptRelease launch => Sys2Proof.Machine.execPreemptRelease launch s
  | .launchCancel launch => Sys2Proof.Machine.execLaunchCancel launch s
  | .tlbiDone => Sys2Proof.Machine.execTlbiDone s
  | .tlbiPartition part => Sys2Proof.Machine.execTlbiPartition part s
  | .partCluWrite die clu value => Sys2Proof.Machine.execPartCluWrite die clu value s
  | .registerWrite bank off value => Sys2Proof.Machine.execRegisterWrite bank off value s
  | .cancelDelivery launch task exempt => Sys2Proof.Machine.execCancelDelivery launch task exempt s
  | .lineageCancel die launch task tag => Sys2Proof.Machine.execLineageCancel die launch task tag s
  | .commitAtHome id => Sys2Proof.Machine.execCommitAtHome id s
  | .commitReply id => Sys2Proof.Machine.execCommitReply id s
  | .treadAtHome id => Sys2Proof.Machine.execTreadAtHome id s
  | .treadReply id => Sys2Proof.Machine.execTreadReply id s
  | .treadWatchdog id => Sys2Proof.Machine.execTreadWatchdog id s
  | .tverReply th ans => Sys2Proof.Machine.execTverReply th ans s
  | .stragglerTest die => Sys2Proof.Machine.execStragglerTest die s
  | .hedgeBudgetRequest dev launch task attempt => Sys2Proof.Machine.execHedgeBudgetRequest dev launch task attempt s
  | .backupOffer launch task attempt base => Sys2Proof.Machine.execBackupOffer launch task attempt base s
  | .backupOfferAnswer launch task attempt accepted => Sys2Proof.Machine.execBackupOfferAnswer launch task attempt accepted s
  | .endNotice launch status => Sys2Proof.Machine.execEndNotice launch status s
  | .hedgeDecay => Sys2Proof.Machine.execHedgeDecay s
  | .rangeStealRequest die victim launch => Sys2Proof.Machine.execRangeStealRequest die victim launch s
  | .rangeStealAnswer die launch lo hi => Sys2Proof.Machine.execRangeStealAnswer die launch lo hi s
  | .idleScan th => Sys2Proof.Machine.execIdleScan th s
  | .theft th victim => Sys2Proof.Machine.execTheft th victim s
  | .thiefBlockRequest die launch task => Sys2Proof.Machine.execThiefBlockRequest die launch task s
  | .thiefBlockGrant die launch task block => Sys2Proof.Machine.execThiefBlockGrant die launch task block s
  | .barrierComplete launch level inst => Sys2Proof.Machine.execBarrierComplete launch level inst s
  | .barrierWatchdog launch level inst => Sys2Proof.Machine.execBarrierWatchdog launch level inst s
  | .copyPiece op p => Sys2Proof.Machine.execCopyPiece op p s
  | .copyDone op => Sys2Proof.Machine.execCopyDone op s
  | .schedEntry launch idx => Sys2Proof.Machine.execSchedEntry launch idx s
  | .mxeJobStart clu => Sys2Proof.Machine.execMxeJobStart clu s
  | .mxeJobDone clu => Sys2Proof.Machine.execMxeJobDone clu s
  | .latchArrive clu => Sys2Proof.Machine.execLatchArrive clu s
  | .mxcmdAccept id => Sys2Proof.Machine.execMxcmdAccept id s
  | .msgDeliver m => Sys2Proof.Machine.execMsgDeliver m s
  | .fillerBurst clu => Sys2Proof.Machine.execFillerBurst clu s
  | .patternChange die => Sys2Proof.Machine.execPatternChange die s
  | .ropePolWrite rope value => Sys2Proof.Machine.execRopePolWrite rope value s
  | .ropeImbRefresh rope i0 i1 i2 i3 => Sys2Proof.Machine.execRopeImbRefresh rope i0 i1 i2 i3 s
  | .ropePolicyEngage rope => Sys2Proof.Machine.execRopePolicyEngage rope s
  | .throtEscalate rope => Sys2Proof.Machine.execThrotEscalate rope s
  | .ropePolicyDisengage rope => Sys2Proof.Machine.execRopePolicyDisengage rope s
  | .railSample rope v0 v1 v2 v3 => Sys2Proof.Machine.execRailSample rope v0 v1 v2 v3 s
  | .writeAssistChange rope => Sys2Proof.Machine.execWriteAssistChange rope s
  | .ropeClamp rope cause => Sys2Proof.Machine.execRopeClamp rope cause s
  | .ropeUnclamp rope => Sys2Proof.Machine.execRopeUnclamp rope s
  | .ropeLost rope => Sys2Proof.Machine.execRopeLost rope s
  | .ropeHotChange rope temp => Sys2Proof.Machine.execRopeHotChange rope temp s
  | .ropeOvbChange rope power => Sys2Proof.Machine.execRopeOvbChange rope power s
  | .moduleCapInterval watts => Sys2Proof.Machine.execModuleCapInterval watts s
  | .floorAccount launch => Sys2Proof.Machine.execFloorAccount launch s
  | .hbmThermalChange die stack temp => Sys2Proof.Machine.execHbmThermalChange die stack temp s
  | .eccError die array inst row unit correctable => Sys2Proof.Machine.execEccError die array inst row unit correctable s
  | .eccWindow die => Sys2Proof.Machine.execEccWindow die s
  | .ccRecovery die array => Sys2Proof.Machine.execCcRecovery die array s
  | .ccRecoveryDone die e => Sys2Proof.Machine.execCcRecoveryDone die e s
  | .dieLost die cause => Sys2Proof.Machine.execDieLost die cause s
  | .moduleTrip thermal => Sys2Proof.Machine.execModuleTrip thermal s
  | .cxlMemAccess off len store => Sys2Proof.Machine.execCxlMemAccess off len store s
  | .spdmGetMeasurements i1 => Sys2Proof.Machine.execSpdmGetMeasurements i1 s
  | .powerUp => Sys2Proof.Machine.execPowerUp s
  | .bootGo => Sys2Proof.Machine.execBootGo s
  | .verifyDone => Sys2Proof.Machine.execVerifyDone s
  | .bringupReduced => Sys2Proof.Machine.execBringupReduced s
  | .bringupFull failed => Sys2Proof.Machine.execBringupFull failed s
  | .bringupDieTimeout die hbm => Sys2Proof.Machine.execBringupDieTimeout die hbm s
  | .iluCfgWrite value => Sys2Proof.Machine.execIluCfgWrite value s
  | .iluRouteWrite dev value => Sys2Proof.Machine.execIluRouteWrite dev value s
  | .flitReceive port f => Sys2Proof.Machine.execFlitReceive port f s
  | .wavelengthLeave port l => Sys2Proof.Machine.execWavelengthLeave port l s
  | .wavelengthRejoin port lam => Sys2Proof.Machine.execWavelengthRejoin port lam s
  | .wavelengthFailed port lam => Sys2Proof.Machine.execWavelengthFailed port lam s
  | .cutRel => Sys2Proof.Machine.execCutRel s
  | .portDark port => Sys2Proof.Machine.execPortDark port s
  | .portLinkUp port peer allowance lam => Sys2Proof.Machine.execPortLinkUp port peer allowance lam s
  | .darkPortTimeout port => Sys2Proof.Machine.execDarkPortTimeout port s
  | .backupUnreachable b => Sys2Proof.Machine.execBackupUnreachable b s
  | .cutGo id grp => Sys2Proof.Machine.execCutGo id grp s
  | .belayMarker port id init grp => Sys2Proof.Machine.execBelayMarker port id init grp s
  | .cutAbort => Sys2Proof.Machine.execCutAbort s
  | .bivEnter grp => Sys2Proof.Machine.execBivEnter grp s
  | .bivWriteback => Sys2Proof.Machine.execBivWriteback s
  | .bivForcedStop th => Sys2Proof.Machine.execBivForcedStop th s
  | .bivFlush => Sys2Proof.Machine.execBivFlush s
  | .bivSelfref => Sys2Proof.Machine.execBivSelfref s
  | .bivEntryFail => Sys2Proof.Machine.execBivEntryFail s
  | .bivResume => Sys2Proof.Machine.execBivResume s
  | .bivRestore => Sys2Proof.Machine.execBivRestore s
  | .bivReplay => Sys2Proof.Machine.execBivReplay s
  | .bivWakeFail => Sys2Proof.Machine.execBivWakeFail s
  | .ethqCfgWrite port q value => Sys2Proof.Machine.execEthqCfgWrite port q value s
  | .ethqPtrWrite port q value => Sys2Proof.Machine.execEthqPtrWrite port q value s
  | .ethDescriptorFetch port q => Sys2Proof.Machine.execEthDescriptorFetch port q s
  | .ethFrameSent port q => Sys2Proof.Machine.execEthFrameSent port q s
  | .ethFrameReceived port frame fcsOk => Sys2Proof.Machine.execEthFrameReceived port frame fcsOk s
  | .ethLinkDown port => Sys2Proof.Machine.execEthLinkDown port s
  | .reservedCodeDecode e bundle => Sys2Proof.Machine.execReservedCodeDecode e bundle s
  | .barrierNetworkFault launch level inst => Sys2Proof.Machine.execBarrierNetworkFault launch level inst s
  | .hedgeBudgetAnswer launch task attempt granted => Sys2Proof.Machine.execHedgeBudgetAnswer launch task attempt granted s
  | .backupEndCharge b cycles => Sys2Proof.Machine.execBackupEndCharge b cycles s
  | .cxlCacheSnoop h invalidate => Sys2Proof.Machine.execCxlCacheSnoop h invalidate s
  | .ethLinkUp port => Sys2Proof.Machine.execEthLinkUp port s
  | .pauseFrameReceived port pfc quanta => Sys2Proof.Machine.execPauseFrameReceived port pfc quanta s
  | .pauseHoldExpiry port => Sys2Proof.Machine.execPauseHoldExpiry port s
  | .virtualDieRemap vdie pdie => Sys2Proof.Machine.execVirtualDieRemap vdie pdie s

end Sys2Proof.Machine
end

