-- ==== Sys2Proof/Machine/Step.lean ====
section
/-! DEFINITION. One step of the machine, and an instruction placed where the next step fetches. -/
namespace Sys2Proof.Machine

/-- One step: an event that is due, or one bundle of one thread, or time (log 1, log 2). -/
def step (s : State) : Host.Outcome State Fault Refusal := advance exec s

/-- The state in which the next step fetches and runs the instruction of a table word (log 5). -/
def State.withFetchWord (s : State) (nbits w : Nat) : State := placeWord s nbits w

end Sys2Proof.Machine
end

