-- ==== Sys2Proof/Safety.lean ====
section
/-! DEFINITION. The terms in which claims about the machine are stated: bit-vector readings of operands, what a
result reaches, where a thread's own memory lies, when a condition enters its handler. -/
namespace Sys2Proof.Machine
open Sys2Proof

/-! Memory. -/

/-- The memory is in its canonical form. -/
def State.MemOk (s : State) : Prop := s.mem.wf = true

/-- One byte of memory, by key. -/
def State.byte (s : State) (k : Nat) : Byte := cellAt s.mem.cells k

/-! Integers as bit vectors (R243). -/

/-- `Lo(x, n)`. -/
def narrow (t : ITy) (x : Word) : BitVec t.bits := x.setWidth t.bits

/-- `Ext`: with the sign for i types, with zeros for w types. -/
def widenT (t : ITy) (x : BitVec t.bits) : Word := if t.signed then x.signExtend 64 else x.setWidth 64

/-- The integer that a bit vector stands for. -/
def intOf (sg : Bool) {n : Nat} (x : BitVec n) : Int := if sg then x.toInt else x.toNat

/-- The order of a type. -/
def ltT (t : ITy) {n : Nat} (x y : BitVec n) : Bool := if t.signed then x.slt y else x.ult y

/-- An integer brought into the range of a type of n bits. -/
def satT (sg : Bool) (n : Nat) (x : Int) : BitVec n :=
  if sg then BitVec.ofInt n (max (-((2 : Int) ^ (n - 1))) (min ((2 : Int) ^ (n - 1) - 1) x)) else BitVec.ofInt n (max 0 (min ((2 : Int) ^ n - 1) x))

/-- `el(x, i)` of w bits. -/
def el (w : Nat) (x : Vec) (i : Nat) : BitVec w := x.extractLsb' (w * i) w

/-! What a result reaches (R195, R196). -/

/-- The governing predicate lets a scalar or predicate result take effect. -/
def State.on (s : State) (p : BitVec 3) : Bool := (s.getP p).getLsbD 0

/-- The element is active. -/
def State.act (s : State) (p : BitVec 3) (w i : Nat) : Bool := (s.getP p).getLsbD (i * (w / 8))

/-- The instruction writes `x` to s[d] where its governing predicate lets it, and does nothing else. -/
def ScalarResult (o : Host.Outcome State Fault Refusal) (s : State) (p : BitVec 3) (d : BitVec 5) (x : Word) : Prop :=
  o = .next (if s.on p then s.setS d x else s)

/-- The instruction writes v[d] and `lat`: an active element i receives `f i`, an inactive one keeps its value; and does nothing
else. `old` is the state before, `s` the same with the generator moved on. -/
def VectorResult (o : Host.Outcome State Fault Refusal) (old s : State) (w : Nat) (p : BitVec 3) (d : BitVec 5) (f : Nat → BitVec w) : Prop :=
  ∃ v : Vec, o = .next (s.setVL d v) ∧ ∀ i, i < 2048 / w → el w v i = if old.act p w i then f i else el w (old.getV d) i

/-- The instruction writes p[d] where its governing predicate lets it: the bits of element i are set where it is active and `c i`
holds; and does nothing else. -/
def PredicateResult (o : Host.Outcome State Fault Refusal) (s : State) (w : Nat) (p d : BitVec 3) (c : Nat → Bool) : Prop :=
  ∃ q : Pred, o = .next (if s.on p then s.setP d q else s) ∧
    ∀ i j, i < 2048 / w → j < w / 8 → q.getLsbD (i * (w / 8) + j) = (s.act p w i && c i)

/-- A conversion of `n` indexes, index i going to element `dst i` of d (R263). Where no index with an active destination is refused,
element `dst i` receives `f i` where it is active, and every other element of d keeps its value; else the first refused one's
condition is taken and nothing else happens. -/
def Converts (o : Host.Outcome State Fault Refusal) (old s : State) (w : Nat) (p : BitVec 3) (d : BitVec 5) (n : Nat) (dst : Nat → Nat)
    (bad : Nat → Option Cond) (f : Nat → BitVec w) : Prop :=
  ((∀ i, i < n → old.act p w (dst i) = true → bad i = none) →
    ∃ v : Vec, o = .next (s.setVL d v) ∧
      (∀ i, i < n → el w v (dst i) = if old.act p w (dst i) then f i else el w (old.getV d) (dst i)) ∧
      (∀ j, j < 2048 / w → (∀ i, i < n → dst i ≠ j) → el w v j = el w (old.getV d) j)) ∧
  (∀ k c, k < n → old.act p w (dst k) = true → bad k = some c → (∀ i, i < k → old.act p w (dst i) = true → bad i = none) →
    o = .next (takeCondition old c (faultPc old)))

/-- The scalar that an arithmetic instruction writes. -/
def scalarDest : Instr → Option (BitVec 5)
  | .add _ d _ _ _ | .sub _ d _ _ _ | .mul _ d _ _ _ | .mulh _ d _ _ _ | .div _ d _ _ _ | .rem _ d _ _ _
  | .clz _ d _ _ | .and _ d _ _ _ | .or _ d _ _ _ | .xor _ d _ _ _ | .andn _ d _ _ _ | .shl _ d _ _ _
  | .shr _ d _ _ _ | .rand _ d .i64 | .sra _ d _ _ _ | .rot _ d _ _ _ | .min _ d _ _ _ | .max _ d _ _ _
  | .set _ d _ _ _ _ | .sel _ d _ _ _ | .adds _ d _ _ _ | .popc _ d _ _ | .bext _ d _ _ _ | .bins _ d _ _ _
  | .mov _ d _ _ | .addi _ d _ _ | .andi _ d _ _ | .ori _ d _ _ | .xori _ d _ _ | .shli _ d _ _ | .shri _ d _ _
  | .pcnt _ d _ | .scvt _ d _ _ _ _ | .pfirst _ d _ | .vmovs _ d _ _ _ | .vwid _ d _ => some d
  | _ => none

/-- The predicate that an arithmetic instruction writes. -/
def predDest : Instr → Option (BitVec 3)
  | .vcmp _ d _ _ _ _ | .vfcmp _ d _ _ _ _ | .vbnd _ d _ _ _ | .pand _ d _ _ | .por _ d _ _ | .pxor _ d _ _ | .pnot _ d _ | .pset _ d _ _ => some d
  | _ => none

/-- The vector that an arithmetic instruction writes, and `lat` with it. -/
def vectorDest : Instr → Option (BitVec 5)
  | .rand _ _ .i64 => none
  | .vadd _ d _ _ _ | .vsub _ d _ _ _ | .vmul _ d _ _ _ | .vmulh _ d _ _ _ | .vaddsat _ d _ _ _ | .vsubsat _ d _ _ _
  | .vabs _ d _ _ | .vand _ d _ _ _ | .vor _ d _ _ _ | .vxor _ d _ _ _ | .vandn _ d _ _ _ | .vshl _ d _ _ _
  | .vshr _ d _ _ _ | .rand _ d _ | .vsra _ d _ _ _ | .vmin _ d _ _ _ | .vmax _ d _ _ _ | .vneg _ d _ _
  | .vdot4 _ d _ _ _ _ | .vsel _ d _ _ _ | .vfadd _ d _ _ _ _ | .vfsub _ d _ _ _ _ | .vfmul _ d _ _ _ _
  | .vfma _ d _ _ _ _ | .vfms _ d _ _ _ _ | .vfabs _ d _ _ | .vfnma _ d _ _ _ _ | .vfmin _ d _ _ _ | .vfmax _ d _ _ _
  | .vfneg _ d _ _ | .vfrcp _ d _ _ _ | .vfrsq _ d _ _ _ | .vfsqrt _ d _ _ _ | .vfexp2 _ d _ _ _ | .vflog2 _ d _ _ _
  | .vftanh _ d _ _ _ | .vrsum _ d _ _ | .vfsinpi _ d _ _ _ | .vfcospi _ d _ _ _ | .vfscale _ d _ _ _ _
  | .vfdot2 _ d _ _ _ _ | .vcvt _ d _ _ _ _ _ | .vcvti _ d _ _ _ _ _ _ | .vpack _ d _ _ _ _ | .vunpk _ d _ _ _
  | .vrmax _ d _ _ | .vrmin _ d _ _ | .vramax _ d _ _ | .vperm _ d _ _ _ | .vbcast _ d _ _ | .vslide _ d _ _ _
  | .vzip _ d _ _ _ _ | .vunzip _ d _ _ _ _ | .vcomp _ d _ _ _ | .vscan _ d _ _ | .vins _ d _ _ _ | .randf _ d _ _ => some d
  | _ => none

/-- The rounding mode of an arithmetic instruction that draws under RS. -/
def draws : Instr → Bool
  | .rand .. => true
  | .vfadd _ _ _ _ _ m | .vfsub _ _ _ _ _ m | .vfmul _ _ _ _ _ m | .vfma _ _ _ _ _ m | .vfms _ _ _ _ _ m
  | .vfnma _ _ _ _ _ m | .vfrcp _ _ _ _ m | .vfrsq _ _ _ _ m | .vfsqrt _ _ _ _ m | .vfexp2 _ _ _ _ m
  | .vflog2 _ _ _ _ m | .vftanh _ _ _ _ m | .vfsinpi _ _ _ _ m | .vfcospi _ _ _ _ m | .vfscale _ _ _ _ _ m
  | .vfdot2 _ _ _ _ _ m | .vcvt _ _ _ _ _ _ m | .vcvti _ _ _ _ _ _ _ m | .vpack _ _ _ _ _ m | .scvt _ _ _ _ _ m => m.rnd == .rs
  | _ => false

/-! Conditions (R431). -/

/-- A condition of the focused thread enters its handler: the code is below 0x70, the thread is not in a handler, its core does not
park, its handler address is good, and its full frame can be written. -/
def canEnter (s : State) (c : Cond) (pc : Word) : Prop :=
  c.code.toNat < 0x70 ∧ s.thr.inHandler = false ∧ (s.core (thCore s.cur)).parked = none ∧ s.thr.y.hand ≠ 0 ∧ s.thr.y.hand.toNat % 8 = 0 ∧ ∃ s1, writeFull s s.cur pc = .ok s1

/-- The thread stands in its handler with the condition in s1 to s3 (R431). -/
def inHandlerWith (t : State) (hand : Word) (c : Cond) (pc : Word) : Prop :=
  t.getS 1 = BitVec.ofNat 64 (c.flags.toNat * 256 + c.code.toNat) ∧ t.getS 2 = pc ∧ t.getS 3 = c.detail ∧
    t.thr.inHandler = true ∧ t.thr.npc = hand ∧ t.taken = some c

/-- The instruction takes the condition `code` with the detail given, and has no other effect. -/
def raises (s : State) (code detail : Nat) : Host.Outcome State Fault Refusal := .next (takeCondition s (mkCond code detail) (faultPc s))

/-- What an instruction that uses handle h does in each state of the handle (R225); `k` is its own effect, given the handle's value. -/
def HandleUse (o : Host.Outcome State Fault Refusal) (s : State) (h : BitVec 4) (k : Word → State → State) : Prop :=
  (s.getH h = .free → o = .next (k 0 s)) ∧
  (∀ op, s.getH h = .pending op → o = .next (block s (.handle h))) ∧
  (∀ v, s.getH h = .done v none none false → o = .next (k v s)) ∧
  (∀ v sc, s.getH h = .done v none (some sc) false → o = .next (k v (acquire s s.cur sc))) ∧
  (∀ v c sc, s.getH h = .done v (some c) sc false →
    o = .next (takeCondition (freeHandle s (some h)) { c with flags := c.flags ||| 2 } (faultPc s))) ∧
  (∀ v c sc, s.getH h = .done v c sc true → o = raises s 0x31 h.toNat)

/-! Accesses of a thread to its own region (R33, R113, R134). -/

/-- The offset of an LM form: the immediate scaled by the access size, or the literal of a lone bundle unscaled (R192, R283). -/
def lmOff (z : Nat) : Imm 10 → Word
  | .imm v => BitVec.ofInt 64 (v.toInt * z)
  | .lit v => BitVec.ofInt 64 v.toInt

/-- The offset of an LR form (R283). -/
def lrOff : Option (BitVec 32) → Word
  | none => 0
  | some v => BitVec.ofInt 64 v.toInt

/-- The n bytes at an address lie at offset o of the thread's own region, through window 0, and hold values. -/
def OwnAt (s : State) (a : Word) (n o : Nat) : Prop :=
  a.toNat = 0xFF00000000000000 + o ∧ o + n ≤ s.limit ∧ s.mem.poisoned (ownKey s o) n = false

/-- A load of n bytes at key k of the own region (R134): from memory; from the newest own buffered store that covers them; or,
where that store covers them in part, from memory once the core's stores have left. `put` places the bytes in the destination. -/
def NearLoad (o : Host.Outcome State Fault Refusal) (s : State) (k n : Nat) (put : Nat → State → State) : Prop :=
  (newestOwn s s.cur k n = none → o = .next (put (s.mem.get k n) s)) ∧
  (∀ x, newestOwn s s.cur k n = some x → x.key ≤ k → k + n ≤ x.key + x.len → o = .next (put (x.value / 256 ^ (k - x.key) % 256 ^ n) s)) ∧
  (∀ x, newestOwn s s.cur k n = some x → k < x.key ∨ x.key + x.len < k + n →
    o = .next (put ((drainAll s (thCore s.cur)).mem.get k n) (drainAll s (thCore s.cur))))

/-- A store to the own region as it stands in the store buffer. -/
def ownStore (s : State) (a : Word) (o n v : Nat) (full : Bool) : Store :=
  { th := s.cur, route := .near, key := ownKey s o, len := n, value := v, addr := a, full := full, empties := false, rcd := thRid s.thr, joined := false, issued := s.clock }

/-- The state once one entry has left a full store buffer of the focused thread's core (R13). -/
def roomFor (s : State) : State := if bufEntries (s.core (thCore s.cur)).buf < 32 then s else drainOne s (thCore s.cur)

/-- The instruction enters one store at the end of its core's buffer and changes nothing else that a program sees: no register,
no byte, no other core. -/
def Enters (o : Host.Outcome State Fault Refusal) (s : State) (x : Store) : Prop :=
  ∃ t, o = .next t ∧ (t.core (thCore s.cur)).buf = ((roomFor s).core (thCore s.cur)).buf ++ [x] ∧
    (∀ c, c ≠ thCore s.cur → t.core c = (roomFor s).core c) ∧ t.thr = (roomFor s).thr ∧ t.mem = (roomFor s).mem ∧ t.rest = (roomFor s).rest ∧
    t.sch = (roomFor s).sch ∧ t.plat = (roomFor s).plat

/-- The address, size and kind of a plain scalar access. -/
def scalarAccess (s : State) : Instr → Option (Word × Nat × Need)
  | .ldW8 _ a o | .ldI8 _ a o => some (s.getS a + lmOff 1 o, 1, .load)
  | .ldW16 _ a o | .ldI16 _ a o => some (s.getS a + lmOff 2 o, 2, .load)
  | .ldW32 _ a o | .ldI32 _ a o => some (s.getS a + lmOff 4 o, 4, .load)
  | .ldW64 _ a o => some (s.getS a + lmOff 8 o, 8, .load)
  | .stW8 _ a o => some (s.getS a + lmOff 1 o, 1, .store)
  | .stW16 _ a o => some (s.getS a + lmOff 2 o, 2, .store)
  | .stW32 _ a o => some (s.getS a + lmOff 4 o, 4, .store)
  | .stW64 _ a o => some (s.getS a + lmOff 8 o, 8, .store)
  | .ldx _ a b sc sz o => some (s.getS a + (if sc then s.getS b * BitVec.ofNat 64 sz.bytes else s.getS b) + lrOff o, sz.bytes, .load)
  | .stx _ a b sc sz o => some (s.getS a + (if sc then s.getS b * BitVec.ofNat 64 sz.bytes else s.getS b) + lrOff o, sz.bytes, .store)
  | _ => none

/-- The destination of a plain scalar load, and whether it extends the sign. -/
def scalarLoad : Instr → Option (BitVec 5 × Bool)
  | .ldW8 d _ _ | .ldW16 d _ _ | .ldW32 d _ _ | .ldW64 d _ _ => some (d, false)
  | .ldI8 d _ _ | .ldI16 d _ _ | .ldI32 d _ _ => some (d, true)
  | .ldx d _ _ _ sz _ => some (d, sz.signed)
  | _ => none

/-- The source of a plain scalar store. -/
def scalarStore : Instr → Option (BitVec 5)
  | .stW8 d _ _ | .stW16 d _ _ | .stW32 d _ _ | .stW64 d _ _ | .stx d _ _ _ _ _ => some d
  | _ => none

/-- The address reaches module address `ma` of the module's own HBM through a cached page, on a die that is up (R107, R109, R121). -/
def CachedAt (s : State) (a z : Nat) (leaf : Word) (bits ma : Nat) : Prop :=
  a / 2 ^ 56 = 0 ∧ a % z = 0 ∧ ma % z = 0 ∧ lookup s (thClu s.cur) s.part a = .ok (leaf, bits) ∧ leaf.getLsbD 58 = false ∧
    leafAddr leaf bits a = s.device * 2 ^ 44 + ma ∧ inHbm ma = true ∧ s.dieLost (homeDie ma) = false ∧ notYetUp s ma = false

/-- The cluster's TLB holds the translation (R129). -/
def inTlb (s : State) (a : Nat) (leaf : Word) (bits : Nat) : Prop :=
  ({ clu := thClu s.cur, part := s.part, vpage := a / 2 ^ bits, bits := bits, leaf := leaf } : TlbEntry) ∈ s.mem.tlb

/-- The L3 holds sector i of a line (R19). -/
def l3Has (s : State) (line i : Nat) : Bool := match s.mem.l3.find? (fun x => x.line == line) with | some x => x.has i | none => false

/-- A fill of the line for an owner finds a free way in the die's L2, and in the L3 the line itself or a free way; and each sector is
held there, or is one that the owner's key slot decrypts (R19, R112, R126). -/
def RoomFor (s : State) (die own line : Nat) : Prop :=
  (line ∈ l2InSet s die line ∨ (l2InSet s die line).length < l2Ways s die line) ∧
    ((∃ x ∈ s.mem.l3, x.line = line) ∨ (l3InSet s line).length < l3Ways s line) ∧
    ∀ i, i < 8 → l3Has s line i = true ∨ tabGet 0 s.mem.seals (maKey (line * 128) + 16 * i) = slotOf own

/-- The L3 holds every sector of a range of module addresses, in its line: an access to it fills and evicts none (R19, R121). -/
def HeldL3 (s : State) (ma n : Nat) : Prop :=
  ∀ line, ma / 128 ≤ line → line ≤ (ma + n - 1) / 128 → (∃ x ∈ s.mem.l3, x.line = line) ∧ ∀ i, i < 8 → (sectorMask line ma n).getLsbD i = true → l3Has s line i = true

/-- A release of the focused thread at a scope finds nothing to wait for: no reply of another module, no store on its way (R138, R411). -/
def MayRelease (s : State) (sc : Scope) : Prop := (4 ≤ sc.num → awaitsFar s.thr = false) ∧ releaseWaits s s.cur sc = false

/-- The dirty sectors of a die's L2 can be written back in place: the L3 holds each, and no two share a byte. -/
def BackInPlace (s : State) (die : Nat) : Prop :=
  ∀ x ∈ s.mem.l2, x.die = die → x.dirty = true → HeldL3 s x.addr 16 ∧
    ∀ y ∈ s.mem.l2, y.die = die → y.dirty = true → y = x ∨ maKey y.addr + 16 ≤ maKey x.addr ∨ maKey x.addr + 16 ≤ maKey y.addr

/-- The bytes of those dirty sectors of `s` that `p` selects stand at the L3, or in memory, of `t`. -/
def WrittenBack (s t : State) (die : Nat) (p : Nat → Prop) : Prop :=
  ∀ x ∈ s.mem.l2, x.die = die → x.dirty = true → p x.addr → t.mem.get (maKey x.addr) 16 = x.data.toNat

/-- The lines of some blocks, in order, each with its route. -/
def blockLines (l : List (Route × Nat × Nat)) : List (Route × Nat) := (l.map (fun x => (List.range x.2.2).map (fun i => (x.1, x.2.1 / 128 + i)))).flatten

/-- Places at L3 slices of the module, their lines held there. -/
def HeldPlaces (s : State) (ps : List (Route × Nat × Nat)) : Prop := ∀ p ∈ ps, ∃ ma own, p.1 = .l3 ma own ∧ HeldL3 s ma p.2.2

/-- A loaded value of n bytes, extended (R286). -/
def loaded (n : Nat) (sg : Bool) (v : Nat) : Word := if sg then (BitVec.ofNat (8 * n) v).signExtend 64 else BitVec.ofNat 64 (v % 256 ^ n)

/-- The active elements of e bytes, ascending. -/
def activeElems (s : State) (p : BitVec 3) (e : Nat) : List Nat := (List.range (256 / e)).filter (fun i => s.act p (8 * e) i)

/-- A vector load writes v[d] alone: element i of e bytes from `f i` where it is active. -/
def VectorLoad (o : Host.Outcome State Fault Refusal) (s : State) (e : Nat) (p : BitVec 3) (d : BitVec 5) (f : Nat → Nat) : Prop :=
  ∃ v : Vec, o = .next (s.setV d v) ∧ ∀ i, i < 256 / e → el (8 * e) v i = if s.act p (8 * e) i then BitVec.ofNat (8 * e) (f i) else el (8 * e) (s.getV d) i

/-! The engines at issue (R307, R313). -/

/-- A copy's address and its absolute form: a global range stands for itself; one of the own region, through window 0, for its place
in the core's local store. -/
def CopyPlace (s : State) (a : Word) (n : Nat) (x : Word) : Prop :=
  (a.toNat / 2 ^ 56 = 0 ∧ a.toNat + n ≤ 2 ^ 56 ∧ x = a) ∨
  (∃ o, a.toNat = 0xFF00000000000000 + o ∧ o < 0x40000 ∧ o + n ≤ s.limit ∧
    x = BitVec.ofNat 64 (0xFF01 * 2 ^ 48 + thCore s.cur % 128 * 0x400000 + (s.base + o)))

/-- A copy of n bytes has started for handle h on the engine of the thread's cluster. Its pieces are in order, do not overlap, cover
each byte, and end at the page boundaries of a global source and of a global destination; byte b comes from `src b` and goes to `dst b`. -/
def StartsCopy (o : Host.Outcome State Fault Refusal) (s : State) (h : BitVec 4) (sc : Scope) (ss : Bool) (n : Nat) (src : Nat → Word)
    (dst : Nat → CopyDst) : Prop :=
  ∃ t op ps, o = .next t ∧ t.thr = { s.thr with r := s.thr.r.setH h (.pending op.id) } ∧ op ∈ t.sch.ops ∧ op.clu = thClu s.cur ∧ op.scope = sc ∧
    op.k = .copy ps n ss .handle ∧ ps.Pairwise (fun p q => p.off + p.len ≤ q.off) ∧ (∀ b, b < n → ∃ p ∈ ps, p.off ≤ b ∧ b < p.off + p.len) ∧
    ∀ p ∈ ps, p.st = .waiting ∧ 1 ≤ p.len ∧ p.off + p.len ≤ n ∧ p.src = src p.off ∧ p.dst = dst p.off ∧
      (p.src.toNat / 2 ^ 56 = 0 → p.len ≤ pageLeft s (thClu s.cur) s.part p.src.toNat) ∧
      ∀ a, p.dst = .addr a → a.toNat / 2 ^ 56 = 0 → p.len ≤ pageLeft s (thClu s.cur) s.part a.toNat

/-- A matrix instruction queues its job on its own cluster: handle h is pending, the job stands last in the queue at an index that no
other job has; while the queue holds 32, or another requester that waits comes before the thread's core, the thread waits at the
instruction (R313). -/
def QueuesJob (o : Host.Outcome State Fault Refusal) (s : State) (h : BitVec 4) (what : MxOp) : Prop :=
  let c := thClu s.cur
  let turn := queueTurn s c (s.cur % 32 / 4 :: queueWaits s c) = some (s.cur % 32 / 4)
  ((s.clu c).jobs.length < 32 → queueWaits s c = [] ∨ turn → ∃ t id idx, o = .next t ∧ t.getH h = .pending id ∧ (∀ k, k ≠ h → t.getH k = s.getH k) ∧
    t.thr.r.s = s.thr.r.s ∧ t.thr.r.v = s.thr.r.v ∧ t.thr.r.p = s.thr.r.p ∧ (∃ x ∈ t.sch.ops, x.id = id ∧ x.k = .mx (thDie s.cur) c) ∧
    idx < 32 ∧ (∀ j ∈ (s.clu c).jobs, j.idx ≠ idx) ∧
    ∃ j : MxJob, (t.clu c).jobs = (s.clu c).jobs ++ [j] ∧ j.op = id ∧ j.idx = idx ∧ j.what = what ∧ j.remote = false ∧ j.part = s.part) ∧
  (32 ≤ (s.clu c).jobs.length ∨ ¬ turn → o = .next (block s .mxe))

/-! Steps of the module. -/

/-- The step answers a next state, of which `p` holds. -/
def Answers (i : Instr) (s : State) (p : State → Prop) : Prop := ∃ t, exec i s = .next t ∧ p t

/-- The event is on the agenda, `dt` cycles from the clock of `s`. -/
def DueIn (s : State) (dt : Nat) (e : Event) (t : State) : Prop := (s.clock + dt, e) ∈ t.agenda

/-- The operation of record `rid` is over with the outcome `x`: it is gone, and the one thread that holds the record finds `x` in the
handle that waited for it. -/
def OpEnds (s t : State) (op rid : Nat) (x : Handle) : Prop :=
  t.findOp op = none ∧ ∀ n h, (∀ k, (k ∈ s.holders ∧ thRid (s.getT k) = rid) ↔ k = n) → (s.getT n).r.getH h = .pending op → (t.getT n).r.getH h = x

/-- The n bytes at `k` are those that stood at `j` in `s`, and no byte outside them has changed. -/
def Moved (s t : State) (j k n : Nat) : Prop := (∀ i, i < n → t.byte (k + i) = s.byte (j + i)) ∧ ∀ x, x < k ∨ k + n ≤ x → t.byte x = s.byte x

/-- Where a record lies that has been given a spot. -/
def spotPlace : Spot → Place
  | .thread n => .granted n
  | .slot c i => .slot c i

/-- What follows a grant, `dt` cycles being those of `s`: the thread picks a ready record up, or the dispenser fills its core's slots
and regions. -/
def GrantDue (s t : State) (x : Rec) : Spot → Prop
  | .thread n => if x.w.runnable then DueIn s Config.grantTime (.pickup n) t else DueIn s Config.fillTime (.shadowFill (thCore n)) t
  | .slot c _ => DueIn s Config.fillTime (.shadowFill c) t

/-- A module on which nothing runs: no launch, no record, no operation in flight, no thread with a record. -/
def Idle (s : State) : Prop := s.sch.launches = [] ∧ s.sch.recs = [] ∧ s.sch.ops = [] ∧ s.holders = []

end Sys2Proof.Machine
end

