-- ==== Sys2Proof/Certificates/Slice0/Obligations.lean ====
section
/-! DEFINITION. The statements about the machine, each with the rules of the spec that it rests on. -/
open Sys2Proof Sys2Proof.Machine

/-- R182, R185, R193, R202-R205: decode of encode is the instruction, with every operand at every value that the encoding
admits, word by word and as a bundle. -/
def Obligations.DecodeEncodeRoundTrip : Prop :=
  (∀ (i : Instr) (w : BitVec 3), i.wf = true → i.isLead = true →
    decodeLead (encodeLead w i).1 (encodeLead w i).2 = .ok i ∧ bitAt (encodeLead w i).1 31 = i.isLone ∧ nOf 3 (encodeLead w i).1 28 = w) ∧
  (∀ i : Instr, i.wf = true → i.isArith = true → decodeArith (encodeArith i) = .ok i) ∧
  (∀ b : Bundle, b.wf = true → decodeBundle (encodeBundle b).1 (encodeBundle b).2 = .ok b)

/-- Words written out from the encoding tables (R181-R205 and the instructions' own rules). -/
def Obligations.SampleWordsDecode : Prop :=
  decodeBundle 0 0 = .ok ⟨0, .nop, .arithNop⟩ ∧
  -- bra, G 00, OP6 0x01, imm20 = 10
  decodeBundle 0x0010000A 0 = .ok ⟨0, .bra (.imm 10), .arithNop⟩ ∧
  -- wait h1: OP6 0x0C, a = 1
  decodeBundle 0x00C00400 0 = .ok ⟨0, .wait 1, .arithNop⟩ ∧
  -- lone lit s4, 0xDEADBEEF: L = 1, OP6 0x1A, d = 4
  decodeBundle 0x81A20000 0xDEADBEEF = .ok ⟨0, .lit 4 (.lit 0xDEADBEEF), .arithNop⟩ ∧
  -- try s2, 3 alternatives, map 5 (lone): OP6 0x11, a = 2
  decodeBundle 0x81100800 0x00030005 = .ok ⟨0, .tryChoice 2 0 3 5, .arithNop⟩ ∧
  -- ld.w32 s8, s4, +16: G 01, OP6 0x04, d = 8, a = 4, offset10 = 4, with W = 3
  decodeBundle 0x34441004 0 = .ok ⟨3, .ldW32 8 4 (.imm 4), .arithNop⟩ ∧
  -- st.w64 s9, s3, -8: OP6 0x0B, offset10 = -1
  decodeBundle 0x04B48FFF 0 = .ok ⟨0, .stW64 9 3 (.imm (-1)), .arithNop⟩ ∧
  -- afadd.i32.die s6, s7, s2: OP6 0x1C, d = 6, a = 7, b = 2, x = type 1 : scope 2
  decodeBundle 0x05C31C4A 0 = .ok ⟨0, .afadd 6 7 2 .i32 .die none, .arithNop⟩ ∧
  -- mxmm h3, s5, s6, code 1: G 10, OP6 0x05, d = 3, a = 5, b = 6, x = 1
  decodeBundle 0x085194C1 0 = .ok ⟨0, .mxmm 3 5 6 1 none, .arithNop⟩ ∧
  -- bar 2, map 3 and fence.mod
  decodeBundle 0x08F10003 0 = .ok ⟨0, .bar 2 (.imm 3), .arithNop⟩ ∧ decodeBundle 0x09100003 0 = .ok ⟨0, .fence .mod, .arithNop⟩ ∧
  -- hret s2 (R433), hand s4, s5: G 11, OP6 0x03 and 0x02
  decodeBundle 0x0C300800 0 = .ok ⟨0, .hret 2, .arithNop⟩ ∧ decodeBundle 0x0C221400 0 = .ok ⟨0, .hand 4 5, .arithNop⟩ ∧
  -- arithmetic words: OP7, p, d, a, b, T, M
  decodeBundle 0 0x02C86390 = .ok ⟨0, .nop, .add 3 4 6 7 .w32⟩ ∧
  decodeBundle 0 0x320A5FFF = .ok ⟨0, .nop, .addi 0 5 5 (-1)⟩ ∧
  decodeBundle 0 0x400A6380 = .ok ⟨0, .nop, .vadd 0 5 6 7 .i32⟩ ∧
  decodeBundle 0 0x86CA6387 = .ok ⟨0, .nop, .vfma 3 5 6 7 .f32 ⟨.ru, true⟩⟩ ∧
  decodeBundle 0 0xC00C5831 = .ok ⟨0, .nop, .vcvt 0 6 5 2 .f32 .e4m3 ⟨.rne, true⟩⟩ ∧
  decodeBundle 0 0xCC020180 = .ok ⟨0, .nop, .pand 0 1 0 3⟩ ∧
  decodeBundle 0 0xE20A6390 = .ok ⟨0, .nop, .vperm 0 5 6 7 .w32⟩

/-- R206, R502: what no row of the opcode table has does not decode, nor does a lone bit that the row does not allow; R429: the
condition that it raises. -/
def Obligations.ReservedEncodingsRefused : Prop :=
  (∀ w l, w / 2 ^ 26 % 4 = 0 → 0x1D ≤ w / 2 ^ 20 % 64 → decodeLead w l = .error .reservedOp6) ∧
  (∀ w l, w / 2 ^ 26 % 4 = 1 → (w / 2 ^ 20 % 64 = 0x07 ∨ 0x2A ≤ w / 2 ^ 20 % 64) → decodeLead w l = .error .reservedOp6) ∧
  (∀ w l, w / 2 ^ 26 % 4 = 2 → 0x12 ≤ w / 2 ^ 20 % 64 → decodeLead w l = .error .reservedOp6) ∧
  (∀ w l, w / 2 ^ 26 % 4 = 3 → 0x06 ≤ w / 2 ^ 20 % 64 → decodeLead w l = .error .reservedOp6) ∧
  (∀ w, let op := w / 2 ^ 25 % 128
    op = 0x1F ∨ (0x34 ≤ op ∧ op ≤ 0x3F) ∨ (0x55 ≤ op ∧ op ≤ 0x5F) ∨ 0x7D ≤ op → decodeArith w = .error .reservedOp7) ∧
  (∀ w, w < 2 ^ 32 → w / 2 ^ 25 = 0 → w ≠ 0 → decodeArith w = .error .nonzeroField) ∧
  (∀ w l, bitAt w 31 = true → (w / 2 ^ 26 % 4, w / 2 ^ 20 % 64) ∈
      [(0, 0x00), (0, 0x04), (0, 0x05), (0, 0x06), (0, 0x07), (0, 0x0A), (0, 0x0C), (0, 0x0D), (0, 0x0E), (0, 0x0F), (0, 0x10), (0, 0x12), (0, 0x13),
       (0, 0x14), (0, 0x17), (0, 0x18), (2, 0x03), (2, 0x0E), (2, 0x10), (2, 0x11), (3, 0x00), (3, 0x01), (3, 0x02), (3, 0x03), (3, 0x04), (3, 0x05)] →
    decodeLead w l = .error .loneRule) ∧
  (∀ w l, bitAt w 31 = false → (w / 2 ^ 26 % 4, w / 2 ^ 20 % 64) ∈ [(0, 0x11), (0, 0x15), (0, 0x16), (1, 0x24), (2, 0x0C)] →
    decodeLead w l = .error .loneRule) ∧
  (∀ (e : DecodeErr) (v : BitVec 64) (s : State), s.thr.i.rep = none →
    exec (.reservedCodeDecode e v) s = .next (takeCondition s
      { code := (match e with | .reservedOp6 => 1 | .reservedOp7 => 2 | .reservedCode => 3 | .nonzeroField => 4 | .loneRule => 5 | .repArith => 6 | .reservedSysReg => 9)
        detail := if e = .reservedSysReg then BitVec.ofNat 64 (v.toNat % 2 ^ 15) else v, flags := 0 } s.thr.pc))

/-- R39, R181, R184, R189, R209: a step runs exec of both decoded instructions; around exec the step lands results that are due, sets the
next PC to PC + 8, and afterwards moves the thread there and starts its wait count (`afterBundle`); a result comes into its register
at its latency (`deferBoth`, R187). Where a word takes a condition the step is that word's exec alone. The cycle that write-assist
adds after a store (R384) holds the thread's next bundle, which is the model's choice (log 62). -/
def Obligations.StepRunsTheDecodedInstruction : Prop :=
  ∀ (s : State) (n : Nat) (v : Nat) (s1 t1 : State) (b : Bundle),
    s.bivState ≠ 5 → (∀ d e r, s.agenda = (d, e) :: r → s.clock < d) → selfEvent s = none → nextReady s = some n →
    let f := s.focus n
    owedConds f.thr = [] → f.thr.i.rep = none → fetchBits (atIssue f) f.thr.pc = .ok (v, s1) → s1.thr.i.rep = none → s1.taken = none →
    decodeValue v = .ok b → heldBack s1 b = none → checkedReads s1 b = [] → interlocked s1.thr b = false → heldByReplies s1.thr b = false →
    owedRead s1.thr b = none → badRead s1 b = none → exec b.lead s1 = .next t1 →
    let after := fun (x : State) => step s = .next (afterBundle f.eff (max b.wait.toNat 1 + assistStore s1 b.lead) x)
    (t1.taken.isSome = true → f.thr.i.replies = [] → after t1) ∧
    (t1.taken = none → reissues t1.thr.i.blocked = true → after t1) ∧
    (t1.taken = none → reissues t1.thr.i.blocked = false →
      (suspends b.lead = false → ∀ tA, exec b.arith (s1.setGen t1.gen) = .next tA →
        (tA.taken = none → reissues tA.thr.i.blocked = false → after (deferBoth s1 (mergeArith t1 tA s1.thr.r b.lead b.arith) b)) ∧
        (∀ tB, tA.taken.isSome = true ∨ reissues tA.thr.i.blocked = true → exec b.arith s1 = .next tB → f.thr.i.replies = [] → after tB)) ∧
      (suspends b.lead = true → (b.arith = .arithNop → after t1) ∧
        ∀ tA t2, exec b.arith s1 = .next tA → tA.taken = none → reissues tA.thr.i.blocked = false → exec b.lead (arithFirst s1 tA b.arith) = .next t2 → t2.taken = none →
          t2.thr.rcd = none → after t2))

/-- What the rules give the machine at power-up. Of the values that the spec does not give, that of the count is stated, which is the
model's choice (log 3); those of the registers and of unwritten memory (log 3, log 4) are not. -/
def Obligations.ResetMachine : Prop :=
  State.reset.getP 0 = BitVec.allOnes 256 ∧ State.reset.getS 0 = 0 ∧
  (∀ n, (State.reset.getT n).rcd = none ∧ (State.reset.getT n).inHandler = false ∧ (State.reset.getT n).i.rep = none) ∧
  (∀ h, State.reset.getH h = .free) ∧
  State.reset.mem.empty = [] ∧ State.reset.mem.tlb = [] ∧ State.reset.mem.l2 = [] ∧ State.reset.sch.launches = [] ∧
  State.reset.count = 0 ∧ State.reset.bootState = 0 ∧ fld (State.reset.reg2 0) 7 4 = 0 ∧
  (∀ c, (State.reset.clu c).pattern = 0xFFFF ∧ (State.reset.clu c).full = false) ∧
  (∀ r, r < 32 → State.reset.reg0 (ropeOff r + 0x08) = 0x0320032003200320 ∧ State.reset.reg0 (ropeOff r + 0x18) = 0xFFFFFFFFFFFFFFFF ∧
    State.reset.reg0 (ropeOff r + 0x28) = 0x640000000258) ∧
  (∀ q, q < 64 → State.reset.reg0 (sqOff q + 8) = 0x700)

/-- The invariant of `StepKeepsMemoryForm` at reset. The form is the model's (log 4). -/
def Obligations.MemoryFormAtReset : Prop := State.reset.MemOk

/-- Memory keeps its canonical form in every step, from every state that has it (log 4). -/
def Obligations.StepKeepsMemoryForm : Prop := ∀ s s' : State, s.MemOk → step s = .next s' → s'.MemOk

/-- R2: little-endian. The reading after a write of any width at any key. -/
def Obligations.ByteReadsAfterWrite : Prop :=
  ∀ (m : Mem) (k n v j : Nat),
    (j < n → cellAt (m.put k n v).cells (k + j) = BitVec.ofNat 8 (v / 256 ^ j)) ∧
    ((j < k ∨ k + n ≤ j) → cellAt (m.put k n v).cells j = cellAt m.cells j) ∧
    (m.put k n v).get k n = v % 256 ^ n

/-- R247, R248: the result as n-bit arithmetic. -/
def Obligations.ScalarWrappingResults : Prop :=
  ∀ (s : State) (p : BitVec 3) (d a b : BitVec 5) (t : ITy),
    let x := narrow t (s.getS a)
    let y := narrow t (s.getS b)
    let k := (s.getS b).toNat % t.bits
    ScalarResult (exec (.add p d a b t) s) s p d (widenT t (x + y)) ∧
    ScalarResult (exec (.sub p d a b t) s) s p d (widenT t (x - y)) ∧
    ScalarResult (exec (.mul p d a b t) s) s p d (widenT t (x * y)) ∧
    ScalarResult (exec (.and p d a b t) s) s p d (widenT t (x &&& y)) ∧
    ScalarResult (exec (.or p d a b t) s) s p d (widenT t (x ||| y)) ∧
    ScalarResult (exec (.xor p d a b t) s) s p d (widenT t (x ^^^ y)) ∧
    ScalarResult (exec (.andn p d a b t) s) s p d (widenT t (x &&& ~~~y)) ∧
    ScalarResult (exec (.shl p d a b t) s) s p d (widenT t (x <<< k)) ∧
    ScalarResult (exec (.shr p d a b t) s) s p d (widenT t (x >>> k)) ∧
    ScalarResult (exec (.sra p d a b t) s) s p d (widenT t (x.sshiftRight k)) ∧
    ScalarResult (exec (.rot p d a b t) s) s p d (widenT t (x.rotateRight k)) ∧
    ScalarResult (exec (.mov p d a t) s) s p d (widenT t x)

/-- R248, R250. -/
def Obligations.ScalarOrderedResults : Prop :=
  ∀ (s : State) (p : BitVec 3) (d a b : BitVec 5) (t : ITy),
    let x := narrow t (s.getS a)
    let y := narrow t (s.getS b)
    ScalarResult (exec (.min p d a b t) s) s p d (widenT t (if ltT t y x then y else x)) ∧
    ScalarResult (exec (.max p d a b t) s) s p d (widenT t (if ltT t x y then y else x)) ∧
    (∀ c : ICc, ScalarResult (exec (.set p d a b t c) s) s p d
      (if (match c with | .eq => x == y | .ne => x != y | .lt => ltT t x y | .le => !ltT t y x | .gt => ltT t y x | .ge => !ltT t x y) then 1 else 0)) ∧
    ScalarResult (exec (.sel p d a b t) s) s p d (widenT t (if s.getS d ≠ 0 then x else y)) ∧
    ScalarResult (exec (.adds p d a b t) s) s p d (widenT t (satT t.signed t.bits (intOf t.signed x + intOf t.signed y))) ∧
    ScalarResult (exec (.mulh p d a b t) s) s p d (widenT t (BitVec.ofInt t.bits (intOf t.signed x * intOf t.signed y / (2 : Int) ^ t.bits))) ∧
    (∃ k, k ≤ t.bits ∧ (∀ i, t.bits - k ≤ i → x.getLsbD i = false) ∧ (k < t.bits → x.getLsbD (t.bits - 1 - k) = true) ∧
      ScalarResult (exec (.clz p d a t) s) s p d (BitVec.ofNat 64 k)) ∧
    ScalarResult (exec (.popc p d a t) s) s p d (BitVec.ofNat 64 ((List.range t.bits).countP (fun i => x.getLsbD i)))

/-- R252; R186 for the two that do nothing. -/
def Obligations.ScalarImmediateResults : Prop :=
  ∀ (s : State) (p : BitVec 3) (d a : BitVec 5) (i : BitVec 12) (k : BitVec 6),
    ScalarResult (exec (.addi p d a i) s) s p d (s.getS a + i.signExtend 64) ∧
    ScalarResult (exec (.andi p d a i) s) s p d (s.getS a &&& i.signExtend 64) ∧
    ScalarResult (exec (.ori p d a i) s) s p d (s.getS a ||| i.signExtend 64) ∧
    ScalarResult (exec (.xori p d a i) s) s p d (s.getS a ^^^ i.signExtend 64) ∧
    ScalarResult (exec (.shli p d a k) s) s p d (s.getS a <<< k.toNat) ∧
    ScalarResult (exec (.shri p d a k) s) s p d (s.getS a >>> k.toNat) ∧
    exec .arithNop s = .next s ∧ exec .nop s = .next s

/-- R249. That the detail is the dividend extended as its type says is the model's reading (log 28). -/
def Obligations.ScalarDivision : Prop :=
  ∀ (s : State) (p : BitVec 3) (d a b : BitVec 5) (t : ITy),
    let x := narrow t (s.getS a)
    let y := narrow t (s.getS b)
    (y ≠ 0 → ScalarResult (exec (.div p d a b t) s) s p d (widenT t (if t.signed then x.sdiv y else x / y)) ∧
      ScalarResult (exec (.rem p d a b t) s) s p d (widenT t (if t.signed then x.srem y else x % y))) ∧
    (y = 0 → s.on p = true →
      exec (.div p d a b t) s = .next (takeCondition s ⟨0x11, widenT t x, 0⟩ (faultPc s)) ∧
      exec (.rem p d a b t) s = .next (takeCondition s ⟨0x11, widenT t x, 0⟩ (faultPc s))) ∧
    (s.on p = false → exec (.div p d a b t) s = .next s ∧ exec (.rem p d a b t) s = .next s)

/-- R251. The detail of 0x12 is the model's reading (log 28). -/
def Obligations.BitFields : Prop :=
  ∀ (s : State) (p : BitVec 3) (d a b : BitVec 5) (t : ITy),
    let pos := (s.getS b).toNat % 2 ^ 6
    let len := (s.getS b).toNat / 2 ^ 8 % 2 ^ 7
    (1 ≤ len → pos + len ≤ t.bits →
      (let f := (narrow t (s.getS a)).extractLsb' pos len
       ScalarResult (exec (.bext p d a b t) s) s p d (if t.signed then f.signExtend 64 else f.setWidth 64)) ∧
      ∃ r : BitVec t.bits, ScalarResult (exec (.bins p d a b t) s) s p d (widenT t r) ∧
        ∀ i, i < t.bits → r.getLsbD i = if pos ≤ i ∧ i < pos + len then (s.getS a).getLsbD (i - pos) else (s.getS d).getLsbD i) ∧
    ((len = 0 ∨ t.bits < pos + len) → s.on p = true →
      exec (.bext p d a b t) s = .next (takeCondition s ⟨0x12, s.getS b, 0⟩ (faultPc s)) ∧
      exec (.bins p d a b t) s = .next (takeCondition s ⟨0x12, s.getS b, 0⟩ (faultPc s)))

/-- The frame of all the arithmetic words (R195, R196; R180 for the draws). -/
def Obligations.ArithmeticFrame : Prop :=
  ∀ (i : Instr) (s t : State), i.isArith = true → s.taken = none → exec i s = .next t → t.taken = none →
    (∀ n, scalarDest i ≠ some n → t.getS n = s.getS n) ∧
    (∀ n, predDest i ≠ some n → t.getP n = s.getP n) ∧
    (∀ n, vectorDest i ≠ some n → (n = 31 → vectorDest i = none) → t.getV n = s.getV n) ∧
    (∀ h, t.getH h = s.getH h) ∧
    (draws i = false → t.gen = s.gen) ∧
    { t with thr := { t.thr with r := s.thr.r } } = s ∧
    (∀ k, t.byte k = s.byte k) ∧ t.getS 0 = 0 ∧ t.getP 0 = BitVec.allOnes 256

/-- R253, element by element, as n-bit arithmetic. -/
def Obligations.VectorIntegerResults : Prop :=
  ∀ (s : State) (p : BitVec 3) (d a b : BitVec 5) (t : ITy), t.vec = true →
    let n := t.bits
    let x := fun i => el n (s.getV a) i
    let y := fun i => el n (s.getV b) i
    let iv := fun (z : BitVec n) => intOf t.signed z
    VectorResult (exec (.vadd p d a b t) s) s s n p d (fun i => x i + y i) ∧
    VectorResult (exec (.vsub p d a b t) s) s s n p d (fun i => x i - y i) ∧
    VectorResult (exec (.vmul p d a b t) s) s s n p d (fun i => x i * y i) ∧
    VectorResult (exec (.vmulh p d a b t) s) s s n p d (fun i => BitVec.ofInt n (iv (x i) * iv (y i) / (2 : Int) ^ n)) ∧
    VectorResult (exec (.vaddsat p d a b t) s) s s n p d (fun i => satT t.signed n (iv (x i) + iv (y i))) ∧
    VectorResult (exec (.vsubsat p d a b t) s) s s n p d (fun i => satT t.signed n (iv (x i) - iv (y i))) ∧
    VectorResult (exec (.vand p d a b t) s) s s n p d (fun i => x i &&& y i) ∧
    VectorResult (exec (.vor p d a b t) s) s s n p d (fun i => x i ||| y i) ∧
    VectorResult (exec (.vxor p d a b t) s) s s n p d (fun i => x i ^^^ y i) ∧
    VectorResult (exec (.vandn p d a b t) s) s s n p d (fun i => x i &&& ~~~(y i)) ∧
    VectorResult (exec (.vshl p d a b t) s) s s n p d (fun i => x i <<< ((y i).toNat % n)) ∧
    VectorResult (exec (.vshr p d a b t) s) s s n p d (fun i => x i >>> ((y i).toNat % n)) ∧
    VectorResult (exec (.vsra p d a b t) s) s s n p d (fun i => (x i).sshiftRight ((y i).toNat % n)) ∧
    VectorResult (exec (.vmin p d a b t) s) s s n p d (fun i => if ltT t (y i) (x i) then y i else x i) ∧
    VectorResult (exec (.vmax p d a b t) s) s s n p d (fun i => if ltT t (x i) (y i) then y i else x i) ∧
    VectorResult (exec (.vabs p d a t) s) s s n p d (fun i => if t.signed && (x i).msb then -(x i) else x i) ∧
    VectorResult (exec (.vneg p d a t) s) s s n p d (fun i => -(x i))

/-- R254, R255, R256. -/
def Obligations.VectorDotCompareSelect : Prop :=
  (∀ (s : State) (p : BitVec 3) (d a b : BitVec 5) (t : ITy) (sat : Bool), t = .i8 ∨ t = .w8 →
    let pr := fun i j => intOf t.signed (el 8 (s.getV a) (4 * i + j)) * intOf t.signed (el 8 (s.getV b) (4 * i + j))
    let sum := fun i => intOf t.signed (el 32 (s.getV d) i) + pr i 0 + pr i 1 + pr i 2 + pr i 3
    VectorResult (exec (.vdot4 p d a b t sat) s) s s 32 p d (fun i => if sat then satT t.signed 32 (sum i) else BitVec.ofInt 32 (sum i))) ∧
  (∀ (s : State) (p d : BitVec 3) (a b : BitVec 5) (t : ITy) (c : ICc), t.vec = true →
    let x := fun i => el t.bits (s.getV a) i
    let y := fun i => el t.bits (s.getV b) i
    PredicateResult (exec (.vcmp p d a b t c) s) s t.bits p d (fun i =>
      match c with
      | .eq => x i == y i | .ne => x i != y i | .lt => ltT t (x i) (y i) | .le => !ltT t (y i) (x i) | .gt => ltT t (y i) (x i) | .ge => !ltT t (x i) (y i))) ∧
  (∀ (s : State) (p : BitVec 3) (d a : BitVec 5) (b : BitVec 3) (t : ITy), t.vec = true →
    VectorResult (exec (.vsel p d a b t) s) s s t.bits p d (fun i =>
      if s.act b t.bits i then el t.bits (s.getV a) i else el t.bits (s.getV d) i))

/-- R257, R261, R262. The draws of element i are `draw ds i` of the generator's next draws (R180). -/
def Obligations.FloatArithmeticResults : Prop :=
  ∀ (s : State) (p : BitVec 3) (d a b : BitVec 5) (t : FTy) (m : FMod), t.arith = true →
    let n := t.bits
    let r := if m.rnd = .rs then s.draws (2048 / n) else (0, s)
    let x := fun i => widen t (el n (s.getV a) i).toNat
    let y := fun i => widen t (el n (s.getV b) i).toNat
    let z := fun i => widen t (el n (s.getV d) i).toNat
    let out := fun (e : Nat → XVal) (i : Nat) => BitVec.ofNat n (arith (ffmt t) m.rnd m.sat (draw r.1 i) (e i))
    let sum := xsum (m.rnd == .rd)
    VectorResult (exec (.vfadd p d a b t m) s) s r.2 n p d (out fun i => sum [x i, y i]) ∧
    VectorResult (exec (.vfsub p d a b t m) s) s r.2 n p d (out fun i => sum [x i, xneg (y i)]) ∧
    VectorResult (exec (.vfmul p d a b t m) s) s r.2 n p d (out fun i => xmul (x i) (y i)) ∧
    VectorResult (exec (.vfma p d a b t m) s) s r.2 n p d (out fun i => sum [xmul (x i) (y i), z i]) ∧
    VectorResult (exec (.vfms p d a b t m) s) s r.2 n p d (out fun i => sum [xmul (x i) (y i), xneg (z i)]) ∧
    VectorResult (exec (.vfnma p d a b t m) s) s r.2 n p d (out fun i => sum [xneg (xmul (x i) (y i)), z i]) ∧
    VectorResult (exec (.vfscale p d a b t m) s) s r.2 n p d (out fun i => xscale (el n (s.getV b) i).toInt (x i)) ∧
    (t ≠ .f32 →
      let q := if m.rnd = .rs then s.draws 64 else (0, s)
      VectorResult (exec (.vfdot2 p d a b t m) s) s q.2 32 p d (fun i =>
        BitVec.ofNat 32 (arith fmtF32 m.rnd m.sat (draw q.1 i)
          (sum [widen .f32 (el 32 (s.getV d) i).toNat, xmul (x (2 * i)) (y (2 * i)), xmul (x (2 * i + 1)) (y (2 * i + 1))]))))

/-- R258 (vfabs and vfneg on the bits), R259, R169. That `or` fails for a NaN is the model's choice (log 72). -/
def Obligations.FloatSelectionResults : Prop :=
  ∀ (s : State) (p : BitVec 3) (d a b : BitVec 5) (t : FTy), t.arith = true →
    let n := t.bits
    let x := fun i => el n (s.getV a) i
    let v := fun i => widen t (x i).toNat
    let w := fun i => widen t (el n (s.getV b) i).toNat
    let nan := BitVec.ofNat n (ffmt t).nan
    VectorResult (exec (.vfmin p d a b t) s) s s n p d (fun i => BitVec.ofNat n (fPick t (xmin (v i) (w i)))) ∧
    VectorResult (exec (.vfmax p d a b t) s) s s n p d (fun i => BitVec.ofNat n (fPick t (xmax (v i) (w i)))) ∧
    VectorResult (exec (.vfabs p d a t) s) s s n p d (fun i => if v i = .nan then nan else x i &&& ~~~(BitVec.twoPow n (n - 1))) ∧
    VectorResult (exec (.vfneg p d a t) s) s s n p d (fun i => if v i = .nan then nan else x i ^^^ BitVec.twoPow n (n - 1)) ∧
    (∀ (e : BitVec 3) (c : FCc), PredicateResult (exec (.vfcmp p e a b t c) s) s n p e (fun i =>
      match c, xcmp (v i) (w i) with
      | .eq, o => o == some .eq
      | .ne, o => o != some .eq
      | .lt, o => o == some .lt
      | .le, o => o == some .lt || o == some .eq
      | .gt, o => o == some .gt
      | .ge, o => o == some .gt || o == some .eq
      | .un, o => o == none
      | .or, o => o != none))

/-- R165, R166: Arith rounds only what is not representable. -/
def Obligations.RepresentableValuesAreExact : Prop :=
  ∀ (t : FTy) (mode : Rnd) (sat : Bool) (u x : Nat), t ≠ .pw8 → x < 2 ^ t.bits →
    (widen t x = .nan → arith (ffmt t) mode sat u (widen t x) = (ffmt t).nan) ∧
    (widen t x ≠ .nan → arith (ffmt t) mode sat u (widen t x) = x)

/-- R260, R171, R172. That the fixed-point value rounds as the exact one is the model's reading (log 12). -/
def Obligations.SpecialFunctionResults : Prop :=
  (∀ (s : State) (p : BitVec 3) (d a : BitVec 5) (t : FTy) (m : FMod), t.arith = true →
    let n := t.bits
    let r := if m.rnd = .rs then s.draws (2048 / n) else (0, s)
    let out := fun (f : XVal → XVal) (i : Nat) => BitVec.ofNat n (arith (ffmt t) m.rnd m.sat (draw r.1 i) (f (widen t (el n (s.getV a) i).toNat)))
    VectorResult (exec (.vfrcp p d a t m) s) s r.2 n p d (out xrcp) ∧
    VectorResult (exec (.vfrsq p d a t m) s) s r.2 n p d (out xrsq) ∧
    VectorResult (exec (.vfsqrt p d a t m) s) s r.2 n p d (out xsqrt) ∧
    VectorResult (exec (.vfexp2 p d a t m) s) s r.2 n p d (out xexp2) ∧
    VectorResult (exec (.vflog2 p d a t m) s) s r.2 n p d (out xlog2) ∧
    VectorResult (exec (.vftanh p d a t m) s) s r.2 n p d (out xtanh) ∧
    VectorResult (exec (.vfsinpi p d a t m) s) s r.2 n p d (out xsinpi) ∧
    VectorResult (exec (.vfcospi p d a t m) s) s r.2 n p d (out xcospi)) ∧
  (∀ b, xrcp (xzero b) = .inf b ∧ xrcp (.inf b) = xzero b ∧ xrsq (xzero b) = .inf b ∧ xsqrt (xzero b) = xzero b ∧ xlog2 (xzero b) = .inf true ∧
    xtanh (xzero b) = xzero b ∧ xtanh (.inf b) = .fin b 1 0 false ∧ xsinpi (xzero b) = xzero b ∧ xsinpi (.inf b) = .nan ∧ xcospi (.inf b) = .nan ∧
    xexp2 (xzero b) = .fin false 1 0 false ∧ xcospi (xzero b) = .fin false 1 0 false ∧
    ∀ n, n ≠ 0 → xsinpi (.fin b n 0 false) = xzero b ∧ xcospi (.fin b (2 * n + 1) (-1) false) = xzero false) ∧
  (∀ f ∈ [xrcp, xrsq, xsqrt, xexp2, xlog2, xtanh, xsinpi, xcospi], f .nan = .nan) ∧
  xlog2 (.inf false) = .inf false ∧ xlog2 (.inf true) = .nan ∧ xsqrt (.inf true) = .nan ∧ xrsq (.inf true) = .nan ∧ xlog2 (.fin false 1 0 false) = xzero false ∧
  (∀ k : Int, k ≠ 0 → xlog2 (.fin false 1 k false) = xint k ∧ (k.natAbs ≤ 4096 → xexp2 (xint k) = .fin false 1 k false)) ∧
  xexp2 (.inf true) = xzero false ∧ xexp2 (.inf false) = .inf false ∧ xsqrt (.inf false) = .inf false ∧ xrsq (.inf false) = xzero false ∧
  (∀ m e, m ≠ 0 → xsqrt (.fin true m e false) = .nan ∧ xrsq (.fin true m e false) = .nan ∧ xlog2 (.fin true m e false) = .nan)

/-- R263 to R267. The index in the detail is the model's reading (log 28). The draws into PW8
and the clamp of an infinity to its own format are its choices (log 70, log 71). -/
def Obligations.VectorConversions : Prop :=
  (∀ (ts td : FTy) (x i : Nat),
    (ts = .pw8 → x / 16 % 8 = 0 → x % 8 ≠ 0 → badFF ts td x i = some ⟨0x07, BitVec.ofNat 64 (x % 256 + i * 256), 0⟩) ∧
    (ts ≠ .pw8 → badFF ts td x i = if td = .pw8 ∧ widen ts x = .nan then some ⟨0x13, BitVec.ofNat 64 i, 0⟩ else none) ∧
    (ts ≠ .pw8 → badFI ts x i = if widen ts x = .nan then some ⟨0x13, BitVec.ofNat 64 i, 0⟩ else none)) ∧
  (∀ (s : State) (p : BitVec 3) (d a : BitVec 5) (q : BitVec 2) (ts td : FTy) (m : FMod), q.toNat < ratio ts.bits td.bits →
    let n := 2048 / max ts.bits td.bits
    let src := fun i => if ts.bits < td.bits then q.toNat * n + i else i
    let dst := fun i => if td.bits < ts.bits then q.toNat * n + i else i
    let x := fun i => (el ts.bits (s.getV a) (src i)).toNat
    let r := if m.rnd = .rs then s.draws n else (0, s)
    Converts (exec (.vcvt p d a q ts td m) s) s r.2 td.bits p d n dst (fun i => badFF ts td (x i) (src i))
      (fun i => BitVec.ofNat _ ((convertF td m.rnd m.sat (draw r.1 i) (widen ts (x i))).getD 0))) ∧
  (∀ (s : State) (p : BitVec 3) (d a : BitVec 5) (q : Bool) (f : FTy) (t : ITy) (m : FMod),
    widthPair f.bits t.bits = true → (q = true → f.bits ≠ t.bits) →
    let n := 2048 / max f.bits t.bits
    let far := fun i => q.toNat * n + i
    let r := if m.rnd = .rs then s.draws n else (0, s)
    (let src := fun i => if f.bits < t.bits then far i else i
     let dst := fun i => if t.bits < f.bits then far i else i
     let x := fun i => (el f.bits (s.getV a) (src i)).toNat
     Converts (exec (.vcvti p d a q false f t m) s) s r.2 t.bits p d n dst (fun i => badFI f (x i) (src i))
       (fun i => BitVec.ofInt t.bits ((convertI (tmin t) (tmax t) m.rnd (draw r.1 i) (widen f (x i))).getD 0))) ∧
    (let src := fun i => if t.bits < f.bits then far i else i
     let dst := fun i => if f.bits < t.bits then far i else i
     Converts (exec (.vcvti p d a q true f t m) s) s r.2 f.bits p d n dst (fun _ => none)
       (fun i => BitVec.ofNat _ ((convertF f m.rnd m.sat (draw r.1 i) (xint (intOf t.signed (el t.bits (s.getV a) (src i))))).getD 0)))) ∧
  (∀ (s : State) (p : BitVec 3) (d a b : BitVec 5) (t : FTy) (m : FMod), t ≠ .f32 →
    let w := 2 * t.bits
    let h := 2048 / w
    let x := fun k => if k < h then (el w (s.getV a) k).toNat else (el w (s.getV b) (k - h)).toNat
    let ts := if t.bits = 8 then FTy.bf16 else FTy.f32
    let r := if m.rnd = .rs then s.draws (2 * h) else (0, s)
    Converts (exec (.vpack p d a b t m) s) s r.2 t.bits p d (2 * h) (fun k => k) (fun k => badFF ts t (x k) k)
      (fun k => BitVec.ofNat _ ((convertF t m.rnd m.sat (draw r.1 k) (widen ts (x k))).getD 0))) ∧
  (∀ (s : State) (p : BitVec 3) (d a : BitVec 5) (h : Bool) (t : FTy), t ≠ .f32 →
    let w := 2 * t.bits
    let n := 2048 / w
    let src := fun i => h.toNat * n + i
    let x := fun i => (el t.bits (s.getV a) (src i)).toNat
    let td := if t.bits = 8 then FTy.bf16 else FTy.f32
    Converts (exec (.vunpk p d a h t) s) s s w p d n (fun i => i) (fun i => if t = .pw8 then badFI t (x i) (src i) else none)
      (fun i => BitVec.ofNat w (fPick td (widen t (x i)))))

/-- R268. The step into PW8 is the model's choice (log 70). -/
def Obligations.ScalarConversion : Prop :=
  ∀ (s : State) (p : BitVec 3) (d a : BitVec 5) (t : FTy) (m : FMod),
    let r := if m.rnd = .rs then s.draws 1 else (0, s)
    let u := draw r.1 0
    (∀ k, s.on p = false → exec (.scvt p d a k t m) s = .next r.2) ∧
    (s.on p = true →
      exec (.scvt p d a .fromI64 t m) s = .next (r.2.setS d (BitVec.ofNat 64 ((convertF t m.rnd m.sat u (xint (s.getS a).toInt)).getD 0))) ∧
      (∀ fs, let x := (s.getS a).toNat % 2 ^ fs.bits
        (badFF fs t x 0 = none → exec (.scvt p d a (.ff fs) t m) s = .next (r.2.setS d (BitVec.ofNat 64 ((convertF t m.rnd m.sat u (widen fs x)).getD 0)))) ∧
        (∀ c, badFF fs t x 0 = some c → exec (.scvt p d a (.ff fs) t m) s = .next (takeCondition s c (faultPc s)))) ∧
      (let x := (s.getS a).toNat % 2 ^ t.bits
       (badFI t x 0 = none → exec (.scvt p d a .toI64 t m) s =
         .next (r.2.setS d (BitVec.ofInt 64 ((convertI (-((2 : Int) ^ 63)) ((2 : Int) ^ 63 - 1) m.rnd u (widen t x)).getD 0)))) ∧
       (t ≠ .pw8 → widen t x = .nan → exec (.scvt p d a .toI64 t m) s = .next (takeCondition s ⟨0x13, 0, 0⟩ (faultPc s)))))

/-- R269 to R272. -/
def Obligations.PredicateResults : Prop :=
  ∀ (s : State) (p d a b : BitVec 3) (e x y : BitVec 5),
    let w := fun (o : Host.Outcome State Fault Refusal) (q : Pred) => o = .next (if s.on p then s.setP d q else s)
    w (exec (.pand p d a b) s) (s.getP a &&& s.getP b) ∧ w (exec (.por p d a b) s) (s.getP a ||| s.getP b) ∧
    w (exec (.pxor p d a b) s) (s.getP a ^^^ s.getP b) ∧ w (exec (.pnot p d a) s) (~~~(s.getP a)) ∧
    (∀ t : ITy, t.vec = true → PredicateResult (exec (.vbnd p d x y t) s) s t.bits p d (fun i =>
      decide (intOf t.signed (s.getS x) + i < intOf t.signed (s.getS y)))) ∧
    ScalarResult (exec (.pcnt p e a) s) s p e (BitVec.ofNat 64 ((List.range 256).countP (fun i => (s.getP a).getLsbD i))) ∧
    (s.getP a = 0 → ScalarResult (exec (.pfirst p e a) s) s p e (BitVec.allOnes 64)) ∧
    (∀ k, k < 256 → (s.getP a).getLsbD k = true → (∀ i, i < k → (s.getP a).getLsbD i = false) → ScalarResult (exec (.pfirst p e a) s) s p e (BitVec.ofNat 64 k)) ∧
    (∀ (z : BitVec 2) (n : BitVec 9), n.toNat ≤ 256 → ∃ q : Pred, w (exec (.pset p d z n) s) q ∧
      ∀ j, j < 256 → q.getLsbD j = decide (j < n.toNat * 2 ^ z.toNat))

/-- R273, R274. -/
def Obligations.ReductionResults : Prop :=
  ∀ (s : State) (p : BitVec 3) (d a : BitVec 5),
    let red := fun (o : Host.Outcome State Fault Refusal) (y : BitVec 32) => VectorResult o s s 32 p d (fun _ => y)
    (∀ t : ITy, t.vec = true →
      let l := fun (z : Int) => (List.range (2048 / t.bits)).map (fun i => if s.act p t.bits i then intOf t.signed (el t.bits (s.getV a) i) else z)
      red (exec (.vrsum p d a (.i t)) s) (BitVec.ofInt 32 (l 0).sum) ∧
      (∃ g ∈ tmin t :: l (tmin t), (∀ x ∈ l (tmin t), x ≤ g) ∧ red (exec (.vrmax p d a (.i t)) s) (BitVec.ofInt 32 g)) ∧
      (∃ g ∈ tmax t :: l (tmax t), (∀ x ∈ l (tmax t), g ≤ x) ∧ red (exec (.vrmin p d a (.i t)) s) (BitVec.ofInt 32 g)) ∧
      VectorResult (exec (.vscan p d a (.i t)) s) s s t.bits p d (fun i => BitVec.ofInt t.bits (((l 0).take (i + 1)).sum))) ∧
    (∀ t : FTy, t.arith = true →
      let l := fun (z : XVal) => (List.range (2048 / t.bits)).map (fun i => if s.act p t.bits i then widen t (el t.bits (s.getV a) i).toNat else z)
      let out := fun (x : XVal) => BitVec.ofNat 32 (arith fmtF32 .rne false 0 x)
      red (exec (.vrsum p d a (.f t)) s) (out (tree sumNode (l (xzero true)))) ∧
      red (exec (.vrmax p d a (.f t)) s) (out (tree xmax (l .nan))) ∧
      red (exec (.vrmin p d a (.f t)) s) (out (tree xmin (l .nan))) ∧
      red (exec (.vramax p d a t) s) (out (tree xmax ((l .nan).map xabs)))) ∧
    VectorResult (exec (.vscan p d a (.f .f32)) s) s s 32 p d (fun i =>
      BitVec.ofNat 32 (((List.range (i + 1)).filter (fun j => s.act p 32 j)).foldl
        (fun acc j => arith fmtF32 .rne false 0 (xsum false [widenF fmtF32 acc, widenF fmtF32 (el 32 (s.getV a) j).toNat])) 0x80000000))

/-- R275 to R279, R282. -/
def Obligations.PermutationResults : Prop :=
  ∀ (s : State) (p : BitVec 3) (d a b : BitVec 5) (sel : BitVec 3) (h : Bool) (t : ITy), t.vec = true →
    let n := t.bits
    let e := 2048 / n
    let x := fun i => el n (s.getV a) i
    let y := fun i => el n (s.getV b) i
    let k := (s.getS b).toNat
    VectorResult (exec (.vperm p d a b t) s) s s n p d (fun i => x ((y i).toNat % e)) ∧
    VectorResult (exec (.vbcast p d a t) s) s s n p d (fun _ => (s.getS a).setWidth n) ∧
    VectorResult (exec (.vslide p d a b t) s) s s n p d (fun i =>
      let c : Int := i + (s.getS b).toInt
      if 0 ≤ c ∧ c < e then x c.toNat else 0) ∧
    VectorResult (exec (.vzip p d a b t h) s) s s n p d (fun i => (if i % 2 = 0 then x else y) (h.toNat * (e / 2) + i / 2)) ∧
    VectorResult (exec (.vunzip p d a b t h) s) s s n p d (fun j => if 2 * j + h.toNat < e then x (2 * j + h.toNat) else y (2 * j + h.toNat - e)) ∧
    VectorResult (exec (.vcomp p d a sel t) s) s s n p d (fun j =>
      (((List.range e).filter (fun i => s.act sel n i)).map x).getD j 0) ∧
    (k < e → VectorResult (exec (.vins p d a b t) s) s s n p d (fun i => if i = k then (s.getS a).setWidth n else el n (s.getV d) i) ∧
      ScalarResult (exec (.vmovs p d a b t) s) s p d (widenT t (x k))) ∧
    (e ≤ k → exec (.vins p d a b t) s = .next (takeCondition s ⟨0x12, s.getS b, 0⟩ (faultPc s)) ∧
      (s.on p = true → exec (.vmovs p d a b t) s = .next (takeCondition s ⟨0x12, s.getS b, 0⟩ (faultPc s))) ∧
      (s.on p = false → exec (.vmovs p d a b t) s = .next s)) ∧
    ScalarResult (exec (.vwid p d t) s) s p d (BitVec.ofNat 64 (2048 / n))

/-- R178 (a step and its output), R280, R281, R329. -/
def Obligations.RandomNumbers : Prop :=
  (∀ g : Word × Word, let t := g.1 ^^^ (g.1 <<< 23)
    genStep g = (g.2, t ^^^ (t >>> 17) ^^^ g.2 ^^^ (g.2 >>> 26)) ∧ genOut g = g.1 + g.2) ∧
  (∀ (s : State) (p : BitVec 3) (d : BitVec 5) (t : ITy), t = .w32 ∨ t = .i32 →
    VectorResult (exec (.rand p d t) s) s (s.setGen (genSteps 32 s.gen)) 32 p d (fun i =>
      let o := genOut (genSteps (i / 2 + 1) s.gen)
      if i % 2 = 0 then o.setWidth 32 else (o >>> 32).setWidth 32)) ∧
  (∀ (s : State) (p : BitVec 3) (d : BitVec 5),
    ScalarResult (exec (.rand p d .i64) s) (s.setGen (genStep s.gen)) p d (genOut (genStep s.gen))) ∧
  (∀ (s : State) (p : BitVec 3) (d a : BitVec 5) (t : FTy), t.arith = true →
    ∃ v, exec (.randf p d a t) s = .next (s.setVL d v) ∧
      ∀ i, i < 2048 / t.bits →
        (s.act p t.bits i = false → el t.bits v i = el t.bits (s.getV d) i) ∧
        (s.act p t.bits i = true →
          let pr := match t with | .bf16 => 8 | .f16 => 11 | _ => 24
          let k := (el t.bits (s.getV a) i).toNat / 2 ^ (t.bits - pr)
          ∃ m e, widen t (el t.bits v i).toNat = .fin false m e false ∧ (m : ℚ) * 2 ^ e = (k : ℚ) / 2 ^ pr)) ∧
  (∀ (s : State) (a b : BitVec 5),
    exec (.rseed a b) s = .next (s.setGen (if s.getS a = 0 ∧ s.getS b = 0 then (1, 0) else (s.getS a, s.getS b))))

/-- R211, R212, R213 (and the effect of `bra`, R210). -/
def Obligations.BranchesAndCalls : Prop :=
  ∀ (s : State) (d a : BitVec 5),
    let go := fun (x : Word) => s.thr.pc + 8 * x
    let x := s.getS a
    let q := s.getP (a.setWidth 3)
    (∀ o : BitVec 20, exec (.bra (.imm o)) s = .next (s.setNext (go (o.signExtend 64))) ∧
      exec (.call (.imm o)) s = .next ((s.setS 30 (s.thr.pc + 8)).setNext (go (o.signExtend 64)))) ∧
    (∀ l : BitVec 32, exec (.bra (.lit l)) s = .next (s.setNext (go (l.signExtend 64))) ∧
      exec (.call (.lit l)) s = .next ((s.setS 30 (s.thr.pc + 8)).setNext (go (l.signExtend 64)))) ∧
    (∀ (c : BCond) (o : BitVec 11) (l : BitVec 32),
      let test : Prop := match c with
        | .eqz => x = 0 | .nez => x ≠ 0 | .ltz => x.toInt < 0 | .gez => 0 ≤ x.toInt | .gtz => 0 < x.toInt | .lez => x.toInt ≤ 0
        | .pany => ∃ i, i < 256 ∧ q.getLsbD i = true
        | .pall => ∀ i, i < 256 → q.getLsbD i = true
        | .pnone => ∀ i, i < 256 → q.getLsbD i = false
      (test → exec (.bc c a (.imm o)) s = .next (s.setNext (go (o.signExtend 64))) ∧
        exec (.bc c a (.lit l)) s = .next (s.setNext (go (l.signExtend 64)))) ∧
      (¬ test → exec (.bc c a (.imm o)) s = .next s ∧ exec (.bc c a (.lit l)) s = .next s)) ∧
    (x.toNat % 8 = 0 → exec (.calli d a) s = .next ((s.setS d (s.thr.pc + 8)).setNext x) ∧
      exec (.ret a) s = .next (s.setNext x) ∧ exec (.jmpi a) s = .next (s.setNext x)) ∧
    (x.toNat % 8 ≠ 0 → exec (.calli d a) s = raises s 0x28 x.toNat ∧ exec (.ret a) s = raises s 0x28 x.toNat ∧
      exec (.jmpi a) s = raises s 0x28 x.toNat)

/-- R214, R215, R216. -/
def Obligations.LiteralsIntoRegisters : Prop :=
  (∀ (s : State) (d : BitVec 5) (m : Imm 15),
    let x : Word := match m with | .imm v => v.signExtend 64 | .lit v => v.signExtend 64
    exec (.lit d m) s = .next (s.setS d x) ∧ leadLatency s (.lit d m) = 1 ∧
    (∃ y : Word, exec (.lithi d m) s = .next (s.setS d y) ∧ y.extractLsb' 32 32 = x.setWidth 32 ∧ y.setWidth 32 = (s.getS d).setWidth 32) ∧
    (∃ v : Vec, exec (.vlit d m) s = .next (s.setV d v) ∧ (∀ i, i < 64 → el 32 v i = x.setWidth 32) ∧
      (d ≠ 31 → (s.setV d v).getV 31 = s.getV 31))) ∧
  (∀ w l : Nat, w / 2 ^ 26 % 4 = 0 → w / 2 ^ 20 % 64 = 0x1C → w / 2 ^ 15 % 32 = 31 → decodeLead w l = .error .reservedCode) ∧
  (∀ (b : BitVec 64) (s : State), exec (.reservedCodeDecode .reservedCode b) s = raises s 0x03 b.toNat)

/-- R226, R227, R229 (with R225, R228, R230). That a won handle raises on every use is the model's
reading of R225 against R66 (log 59). -/
def Obligations.HandleInstructions : Prop :=
  ∀ (s : State) (h : BitVec 4) (d a : BitVec 5),
    HandleUse (exec (.wait h) s) s h (fun _ t => t) ∧
    HandleUse (exec (.fget d h) s) s h (fun v t => t.setS d v) ∧
    HandleUse (exec (.fput h a) s) s h (fun _ t => t.setH h (.done (s.getS a) none none false)) ∧
    (s.getH h = .free → exec (.ftest d h) s = .next (s.setS d 0)) ∧
    (∀ op, s.getH h = .pending op → exec (.ftest d h) s = .next (s.setS d 1)) ∧
    (∀ v, s.getH h = .done v none none false → exec (.ftest d h) s = .next (s.setS d 2)) ∧
    (∀ v c, s.getH h = .done v (some c) none false → exec (.ftest d h) s = .next (s.setS d 3)) ∧
    (∀ v sc, s.getH h = .done v none (some sc) false → exec (.ftest d h) s = .next ((acquire s s.cur sc).setS d 2)) ∧
    (∀ v c sc, s.getH h = .done v (some c) (some sc) false → exec (.ftest d h) s = .next ((acquire s s.cur sc).setS d 3)) ∧
    ((∀ v c sc, s.getH h ≠ .done v c sc true) → exec (.fcancel h) s =
      .next ((s.setH h .free).modI (fun i => { i with owed := i.owed.filter (fun p => p.2.1 != h.toNat) }))) ∧
    (∀ v c sc, s.getH h = .done v c sc true → exec (.ftest d h) s = raises s 0x31 h.toNat ∧ exec (.fcancel h) s = raises s 0x31 h.toNat)

/-- R199, R327, R328, R434. That the fresh header of R84 follows the core's stores is the model's choice (log 60). -/
def Obligations.SystemRegisters : Prop :=
  ∀ (s : State) (d a : BitVec 5),
    let reads := fun (n : BitVec 15) (v : Word) => exec (.gets d n) s = .next (s.setS d v)
    let x := s.getS d
    reads 0x00 (BitVec.ofNat 64 s.cur) ∧ reads 0x01 (BitVec.ofNat 64 (s.cur / 4)) ∧ reads 0x02 (BitVec.ofNat 64 (s.cur / 32 % 16)) ∧
    reads 0x03 (BitVec.ofNat 64 (s.cur / 512)) ∧ reads 0x04 (BitVec.ofNat 64 s.thr.y.rank) ∧ reads 0x05 (BitVec.ofNat 64 s.thr.y.gsize) ∧
    (∀ r, s.thr.rcd = some r → reads 0x06 (BitVec.ofNat 64 r.w.task) ∧ reads 0x07 (BitVec.ofNat 64 r.w.attempt) ∧
      reads 0x08 (BitVec.ofNat 64 r.w.cls) ∧ reads 0x0B (BitVec.ofNat 64 r.w.dies) ∧ reads 0x12 (BitVec.ofNat 64 r.w.work)) ∧
    reads 0x09 2048 ∧ reads 0x0A (BitVec.ofNat 64 s.count) ∧
    (∀ i : Fin 4, reads (BitVec.ofNat 15 (0x0C + i)) (s.thr.y.dom.get i)) ∧
    reads 0x10 s.thr.y.alt ∧ reads 0x11 (BitVec.ofNat 64 s.thr.q.depth) ∧ reads 0x13 s.thr.y.srch ∧
    (∀ w : Fin 8, 0 < w.val → reads (BitVec.ofNat 15 (0x13 + w)) (s.thr.y.win.get w &&& 0xFFFFFFFF000000FF)) ∧
    reads 0x1B s.thr.y.hand ∧ reads 0x1C s.thr.y.sbchk ∧
    (∀ l, s.launch = some l → reads 0x1D (if l.l[13] = 0 ∧ l.l[14] = 0 then 1 else l.l[13])) ∧
    (∀ n : BitVec 15, 0x1E ≤ n.toNat → exec (.gets d n) s = raises s 0x09 n.toNat ∧ exec (.puts d n) s = raises s 0x09 n.toNat) ∧
    (∀ n : BitVec 15, n.toNat < 0x13 ∨ n.toNat = 0x1D → exec (.puts d n) s = raises s 0x16 n.toNat) ∧
    (s.thr.q.depth = 0 → srchOk x = true →
      exec (.puts d 0x13) s = .next (freshSearch ((drainAll s (thCore s.cur)).modY (fun y => { y with srch := x })))) ∧
    (s.thr.q.depth ≠ 0 ∨ srchOk x = false → exec (.puts d 0x13) s = raises s 0x41 x.toNat) ∧
    (∀ w : Fin 8, 0 < w.val → exec (.puts d (BitVec.ofNat 15 (0x13 + w))) s = .next (s.modY (fun y => { y with win := y.win.set w x }))) ∧
    exec (.puts d 0x1B) s = .next (s.modY (fun y => { y with hand := x })) ∧
    exec (.puts d 0x1C) s = .next (s.modY (fun y => { y with sbchk := x &&& 0xFFFFFFFF00000003 })) ∧
    exec (.hand d a) s = .next ((s.modY (fun y => { y with hand := s.getS a })).setS d s.thr.y.hand)

/-- R200, R201; R181, R210 for the fetch. -/
def Obligations.RepetitionAndFetch : Prop :=
  (∀ (s : State) (c : BitVec 5) (k : BitVec 6) (o d a b : Bool),
    let n := if c = 0 then k.toNat + 1 else (s.getS c).toNat
    (n < 1 ∨ 64 < n → exec (.rep c k o d a b) s = raises s 0x12 n) ∧
    (1 ≤ n → n ≤ 64 → ∀ v s1 x, fetchBits s (s.thr.pc + 8) = .ok (v, s1) → decodeValue v = .ok x →
      let r : Rep := { pc := s.thr.pc, n := n, j := 0, stepO := o, stepD := d, stepA := a, stepB := b }
      ((∀ j, j < n → ∃ y, repBundle r j x = .ok y) →
        (repLead x.lead = false → exec (.rep c k o d a b) s = raises s 0x19 v) ∧
        (repLead x.lead = true → exec (.rep c k o d a b) s = .next (s1.modI (fun i => { i with rep := some r })))) ∧
      (∀ j c', j < n → (∀ i, i < j → ∃ y, repBundle r i x = .ok y) → repBundle r j x = .error (.cond c' none) →
        exec (.rep c k o d a b) s = .next (takeCondition s c' (faultPc s))))) ∧
  (∀ (s : State) (e w : Nat) (r : Rep) (q : Rec), s.thr.rcd = some q → reissues s.thr.i.blocked = false → s.thr.i.rep = some r → s.thr.pc ≠ r.pc →
    (r.j + 1 < r.n → (afterBundle e w s).thr.pc = s.thr.pc ∧ (afterBundle e w s).thr.i.rep = some { r with j := r.j + 1 }) ∧
    (r.n ≤ r.j + 1 → s.thr.cancel = false → (s.core (thCore s.cur)).parked = none →
      (afterBundle e w s).thr.pc = s.thr.npc ∧ (afterBundle e w s).thr.i.rep = none)) ∧
  (∀ (s : State) (leaf : Word) (bits : Nat), s.thr.pc.toNat < 2 ^ 56 → lookup (atIssue s) (thClu s.cur) s.part s.thr.pc.toNat = .ok (leaf, bits) →
    leaf.getLsbD 59 = false → owedConds s.thr = [] → s.thr.i.replies = [] →
    issue exec s = .next (afterBundle s.eff 1 (takeCondition (atIssue s) (mkCond 0x29 s.thr.pc.toNat) (faultPc (atIssue s)))))

/-- R431 (entry), R37 (the record and the frame's bytes). -/
def Obligations.ConditionEntry : Prop :=
  ∀ (s : State) (c : Cond) (pc : Word), canEnter s c pc →
    let t := takeCondition s c pc
    inHandlerWith t s.thr.y.hand c pc ∧ t.cur = s.cur ∧
    (∀ n : BitVec 5, n ≠ 1 → n ≠ 2 → n ≠ 3 → t.getS n = (landAll s.thr).r.getS n) ∧
    t.thr.r.v = (landAll s.thr).r.v ∧ t.thr.r.p = (landAll s.thr).r.p ∧ t.thr.r.h = s.thr.r.h ∧ t.gen = s.gen ∧
    t.thr.y = s.thr.y ∧ t.thr.q = s.thr.q ∧
    (∀ r, s.thr.rcd = some r → ∃ r', t.thr.rcd = some r' ∧ r'.id = r.id ∧ r'.w.fullf = true ∧ r'.w.bound = some s.cur ∧ r'.w.pc = pc ∧
      r'.w.running = r.w.running ∧ r'.w.frame = r.w.frame) ∧
    (∀ r leaf bits ma, s.thr.rcd = some r → badRegs s s.cur = [] → r.w.frame.toNat + 0x2300 ≤ 2 ^ 56 → inHbm ma = true → inHbm (ma + 0x22FF) = true →
      (∀ i, i < 0x2300 → lookup s (thClu s.cur) r.w.part (r.w.frame.toNat + i) = .ok (leaf, bits) ∧
        leafAddr leaf bits (r.w.frame.toNat + i) = s.device * 2 ^ 44 + ma + i) →
      ∀ i, i < 0x2300 → t.byte (maKey (ma + i)) = BitVec.ofNat 8 (fullFrame (landAll s.thr) s.free / 256 ^ i))

/-- R431, R432, R436, R330, R396. That the message waits for the core's other threads in repetitions or awaiting replies is the model's
reading of R430 and R436 (log 40). -/
def Obligations.ParkingTheCore : Prop :=
  (∀ (s : State) (c : Cond) (pc : Word),
    (0x70 ≤ c.code.toNat ∨ s.thr.inHandler = true ∨ s.thr.y.hand = 0 → takeCondition s c pc = parkCore s c pc false true) ∧
    (c.code.toNat < 0x70 → s.thr.inHandler = false → s.thr.y.hand.toNat % 8 ≠ 0 →
      takeCondition s c pc = parkCore s { code := 0x1A, detail := s.thr.y.hand, flags := c.flags } pc false true)) ∧
  (∀ (s : State) (a : BitVec 5), exec (.park a) s = .next (parkCore s { code := 0, detail := s.getS a, flags := 0 } (faultPc s) true true)) ∧
  (∀ (s : State) (c : Cond) (pc : Word) (byPark frame : Bool),
    (s.core (thCore s.cur)).parked = none → (frame = true → frameWaits s pc = false) →
    let t := parkCore s c pc byPark frame
    let others := fun (p : Nat → Prop) => ∀ i, i < 4 → thCore s.cur * 4 + i ≠ s.cur → p (thCore s.cur * 4 + i)
    let m := parkMsg s s.cur c pc byPark
    (t.core (thCore s.cur)).parked = some s.cur ∧ t.thr.rcd = none ∧
    ((s.core (thCore s.cur)).message = none →
      ((∀ a, inHbm a = true → notYetUp s a = false) → others (fun k => (s.getT k).i.rep = none ∧ (s.getT k).i.replies = []) → t.plat.mail = s.plat.mail ++ [(thDie s.cur, m)]) ∧
      (¬ others (fun k => (s.getT k).rcd.isSome = true → (s.getT k).i.rep = none ∧ (s.getT k).i.replies = []) →
        t.plat.mail = s.plat.mail ∧ (t.core (thCore s.cur)).message = some m)) ∧
    (∀ r x, s.thr.rcd = some r → frame = true → writeFull s s.cur pc = .ok x →
      ∃ r' ∈ t.sch.recs, r'.id = r.id ∧ r'.place = .rest ∧ r'.w.fullf = true ∧ r'.w.bound = some s.cur ∧ r'.w.pc = pc ∧ r'.w.running = false)) ∧
  (∀ (s : State) (c : Cond) (pc : Word) (byPark : Bool),
    (∀ n, (s.core (thCore s.cur)).parked = some n → ∀ frame, let t := parkCore s c pc byPark frame
      (t.core (thCore s.cur)).parked = some n ∧ (t.core (thCore s.cur)).parkLaunch = (s.core (thCore s.cur)).parkLaunch) ∧
    ((s.core (thCore s.cur)).parked = none → frameWaits s pc = true → let t := parkCore s c pc byPark true
      (t.core (thCore s.cur)).parked = none ∧ t.thr.npc = s.thr.pc ∧ t.thr.i.blocked = some .queue ∧ t.plat = s.plat ∧ t.mem = s.mem)) ∧
  (∀ (s : State) (c : Cond) (pc : Word) (byPark : Bool) (r : Rec), s.thr.rcd = some r → r.w.part < 64 → s.physTh s.cur < 4096 →
    let m := parkMsg s s.cur c pc byPark
    getBytes m 0 1 = c.code.toNat ∧
    getBytes m 1 1 = (if s.thr.inHandler then 1 else 0) + 2 * c.flags.toNat + (if byPark then 16 else 0) ∧
    getBytes m 2 2 = s.physTh s.cur ∧
    getBytes m 4 1 = r.w.part + (if r.w.spec then 64 else 0) + (if r.w.gang then 128 else 0) ∧
    (∀ i, i < 8 → (getBytes m 5 1).testBit i = (decide (i < 4) && (s.getT (thCore s.cur * 4 + i)).rcd.isSome)) ∧
    getBytes m 6 2 = 0 ∧ getBytes m 8 8 = pc.toNat ∧ getBytes m 16 8 = c.detail.toNat ∧ getBytes m 24 8 = r.w.frame.toNat)

/-- R31. -/
def Obligations.FullFrameLayout : Prop :=
  ∀ (t : Thread) (free : Nat),
    let f := fullFrame t free
    (∀ n : BitVec 5, getBytes f (8 * n.toNat) 8 = (t.r.getS n).toNat) ∧
    (∀ n : BitVec 3, getBytes f (0x100 + 32 * n.toNat) 32 = (t.r.getP n).toNat) ∧
    (∀ w : Fin 8, 0 < w.val → getBytes f (0x280 + 8 * (w.val - 1)) 8 = (t.y.win.get w).toNat) ∧
    getBytes f 0x2B8 8 = t.y.hand.toNat ∧ getBytes f 0x2C0 8 = t.y.sbchk.toNat ∧
    getBytes f 0x2C8 8 = t.r.genA.toNat ∧ getBytes f 0x2D0 8 = t.r.genB.toNat ∧ getBytes f 0x2D8 8 = t.y.alt.toNat ∧
    (∀ r v, t.rcd = some r → r.base = some v → getBytes f 0x2E0 4 = v.toNat) ∧
    getBytes f 0x2E4 4 = (if t.inHandler then 1 else 0) ∧ getBytes f 0x2E8 24 = 0 ∧
    getBytes f 0x300 256 = (t.r.getV 31).toNat ∧
    (∀ n : BitVec 5, n ≠ 31 → getBytes f (0x400 + 256 * n.toNat) 256 = (t.r.getV n).toNat) ∧
    t.r.getS 0 = 0 ∧ f < 256 ^ 0x2300

/-- R433. -/
def Obligations.HandlerReturn : Prop :=
  ∀ (s : State) (a : BitVec 5),
    (s.thr.inHandler = false → exec (.hret a) s = raises s 0x18 s.thr.pc.toNat) ∧
    (s.thr.inHandler = true → (s.getS a).toNat % 8 ≠ 0 → exec (.hret a) s = raises s 0x28 (s.getS a).toNat) ∧
    (s.thr.inHandler = true → (s.getS a).toNat % 8 = 0 → ∀ r v s1, s.thr.rcd = some r →
      vmRead s (thClu s.cur) r.w.part (r.w.frame.toNat + 8) 24 = .ok (v, s1) →
      let back := fun (s2 : State) (base : Option (BitVec 32)) => ∃ t, exec (.hret a) s = .next t ∧ t.thr.inHandler = false ∧ t.thr.npc = s.getS a ∧
        t.getS 1 = BitVec.ofNat 64 (getBytes v 0 8) ∧ t.getS 2 = BitVec.ofNat 64 (getBytes v 8 8) ∧ t.getS 3 = BitVec.ofNat 64 (getBytes v 16 8) ∧
        (∀ n : BitVec 5, n ≠ 1 → n ≠ 2 → n ≠ 3 → t.getS n = s.getS n) ∧ t.thr.r.v = s.thr.r.v ∧ t.thr.r.p = s.thr.r.p ∧
        t.thr.r.h = s.thr.r.h ∧ t.gen = s.gen ∧ t.thr.y = s.thr.y ∧ t.mem.cells = s2.mem.cells ∧
        ∃ r', t.thr.rcd = some r' ∧ r'.id = r.id ∧ r'.base = base ∧ r'.w = { r.w with fullf := false, bound := none }
      (r.w.gang = true ∨ r.base.isSome = true ∨ s.getS a ≠ r.w.pc → back s1 r.base) ∧
      (r.w.gang = false → r.base = none → s.getS a = r.w.pc → ∀ x s2, vmRead s1 (thClu s.cur) r.w.part r.w.tile 16 = .ok (x, s2) →
        back s2 (some (BitVec.ofNat 32 (getBytes x 12 4)))))

/-- R217-R221, R223, R435. -/
def Obligations.SuspensionAndEnd : Prop :=
  (∀ (s s1 : State) (m : Imm 15) (v : Nat), liveMap s (immMap m) = .ok (v, s1) →
    ((s.thr.inHandler = true ∨ (thSpec s.thr = false ∧ s.thr.preempt = false)) → exec (.yield m) s = .next s1) ∧
    ((s.thr.inHandler = true ∨ s.thr.preempt = false) → exec (.safe m) s = .next s1) ∧
    (∀ (i : Instr) (waits : BitVec 16) (r : Rec) (t : State), s.thr.inHandler = false → s1.thr.rcd = some r →
      ((i = .yield m ∧ (thSpec s.thr = true ∨ s.thr.preempt = true) ∧ waits = mapHandles v) ∨ (i = .safe m ∧ s.thr.preempt = true ∧ waits = 0)) →
      suspendSearch s1 v = .ok () → writeBack s1 v (immMap m) (s.thr.pc + 8) waits = .ok t →
      exec i s = .next t ∧ (t.getT s.cur).rcd = none ∧
      ∃ r' ∈ t.sch.recs, r'.id = r.id ∧ r'.w.pc = s.thr.pc + 8 ∧ r'.w.livemap = immMap m ∧ r'.w.running = false ∧
        (waitsOn waits s1.thr.r.h = true → r'.w.waith = true ∧ r'.place = .rest) ∧
        (waitsOn waits s1.thr.r.h = false → r'.w.runnable = true ∧ r'.w.waith = false ∧ r'.place = .queue (thDie s.cur)))) ∧
  (∀ (s : State) (m : Imm 15), liveMap s (immMap m) = raise 0x17 (immMap m) →
    exec (.yield m) s = raises s 0x17 (immMap m) ∧ exec (.safe m) s = raises s 0x17 (immMap m)) ∧
  (∀ s : State, s.thr.inHandler = false → ∃ t, exec .endCont s = .next t ∧ t.thr.rcd = none ∧ (t.core (thCore s.cur)).buf = [] ∧
    t.sch.recs = s.sch.recs ∧ t.cur = s.cur) ∧
  (∀ s : State, s.thr.inHandler = true → exec .endCont s = raises s 0x18 s.thr.pc.toNat ∧ exec .quit s = raises s 0x18 s.thr.pc.toNat) ∧
  (∀ s t : State, s.thr.inHandler = false → (thGang s.thr = false → exec (.cut 0 0) s = .next t) → (thGang s.thr = true → s.thr.q.depth = 0 ∧ t = s) →
    exec .quit s = exec .endCont t) ∧
  (∀ s : State, s.thr.inHandler = false → ∃ t, exec .quit s = .next t ∧ t.thr.rcd = none ∧ (t.core (thCore s.cur)).buf = [] ∧
    t.sch.recs = s.sch.recs ∧ t.cur = s.cur) ∧
  (∀ (s : State) (d : BitVec 5) (m : Imm 15), ∃ t, exec (.work d m) s = .next t ∧
    t = s.modW (fun w => { w with work := min (2 ^ 48 - 1) (w.work + (s.getS d + BitVec.ofNat 64 (immU m)).toNat) }))

/-- R240, R241, R242, R239. The key of a barrier instance and the detail 0 of `barl`'s 0x50 are the model's readings (log 37). -/
def Obligations.BarriersFencesServices : Prop :=
  (∀ (s s1 : State) (n : BitVec 5) (m : Imm 15) (v : Nat), s.thr.inHandler = false → liveMap s (immMap m) = .ok (v, s1) →
    (thGang s1.thr = false → exec (.bar n m) s = raises s 0x50 n.toNat) ∧
    (∀ l r, s1.launch = some l → s1.thr.rcd = some r → r.w.gang = true →
      (l.shape.count n.toNat = 0 → exec (.bar n m) s = raises s 0x50 n.toNat) ∧
      (l.shape.count n.toNat ≠ 0 → r.w.task ∈ l.left → exec (.bar n m) s = raises s 0x52 n.toNat) ∧
      (l.shape.count n.toNat ≠ 0 → r.w.task ∉ l.left →
        let inst := l.shape.key n.toNat r.w.task
        (∀ b, barFind l n.toNat inst = some b → r.w.task ∈ b.arrived → exec (.bar n m) s = raises s 0x51 n.toNat) ∧
        ((∀ b, barFind l n.toNat inst = some b → r.w.task ∉ b.arrived) →
          ∃ t, exec (.bar n m) s = .next t ∧ t.thr.i.blocked = some (.bar n.toNat inst (immMap m)) ∧ t.thr.rcd = s1.thr.rcd ∧
            ∃ l', t.findLaunch l.num = some l' ∧ ∃ b ∈ l'.bars, b.level = n.toNat ∧ b.inst = inst ∧ r.w.task ∈ b.arrived)))) ∧
  (∀ (s : State) (l : Launch) (r : Rec), s.thr.inHandler = false → s.thr.rcd = some r → r.w.gang = true → s.findLaunch r.w.launch = some l →
    ∃ t, exec .barl s = .next t ∧ t.thr = s.thr ∧ (∃ l', t.findLaunch r.w.launch = some l' ∧ r.w.task ∈ l'.left) ∧ exec .barl t = .next t) ∧
  (∀ s : State, s.thr.inHandler = false → thGang s.thr = false → exec .barl s = raises s 0x50 0) ∧
  (∀ (s : State) (sc : Scope), MayRelease s sc → ∃ t, exec (.fence sc) s = .next t ∧ t.thr.r = s.thr.r ∧
    (t.core (thCore s.cur)).buf = [] ∧ (sc.wide = true → (∀ x ∈ t.mem.l2, x.die ≠ thDie s.cur) ∧
      let d := drainAll s (thCore s.cur)
      (BackInPlace d (thDie s.cur) → WrittenBack d t (thDie s.cur) (fun _ => True)))) ∧
  (∀ (s : State) (d : BitVec 5) (n : Imm 15) (r : Rec), s.thr.rcd = some r → r.w.part < 64 → s.physTh s.cur < 4096 →
    ∃ t m, exec (.svc d n) s = .next t ∧ t.thr.i.blocked = some (.svc d) ∧ t.thr.npc = s.thr.pc ∧ t.thr.r = s.thr.r ∧
      t.plat.mail = s.plat.mail ++ [(thDie s.cur, m)] ∧
      getBytes m 0 2 = immMap n ∧ getBytes m 2 2 = s.physTh s.cur ∧
      getBytes m 4 1 = r.w.part + (if r.w.spec then 64 else 0) + (if r.w.gang then 128 else 0) ∧ getBytes m 5 3 = 0 ∧
      getBytes m 8 8 = (s.getS d).toNat ∧ getBytes m 16 8 = (s.getS 4).toNat ∧ getBytes m 24 8 = (s.getS 5).toNat)

/-- R93, R232 (try), R94, R88, R92, R233 (fail), R102, R234 (cut), R95, R235 (mark). The tag of the frame is the model's reading (log 33). -/
def Obligations.SearchInstructions : Prop :=
  (∀ (s s1 s2 : State) (a b : BitVec 5) (n : BitVec 7) (map : BitVec 16) (v : Nat) (e : Word),
    let k := if b = 0 then n.toNat else (s1.getS b).toNat
    let q := s2.thr.q
    let r := regionsOf s2.thr.y.srch
    let table := (s1.getS a).toNat
    s.thr.inHandler = false → thGang s.thr = false → liveMap s map.toNat = .ok (v, s1) → anyWon s1.thr.r = false → s1.thr.r = s.thr.r →
    1 ≤ k → k ≤ 64 → table % 4 = 0 → entryOf s1 table 0 = .ok (e, s2) →
    s2.thr.y.srch ≠ 0 → q.depth < 255 → r.stack + 64 ≤ q.top → r.stack + r.stlen ≤ 65535 →
    q.top + 64 + saveSize (getBytes v 0 4 / 2 * 2) (getBytes v 4 4) (getBytes v 8 1) ≤ r.stack + r.stlen →
    savesAwaited s.thr v = none → (∀ g ∈ maskRegs (getBytes v 0 4 / 2 * 2) (getBytes v 4 4) (getBytes v 8 1), regBad s2 s2.cur g = none) →
    ∃ t, exec (.tryChoice a b n map) s = .next t ∧ t.thr.npc = s2.thr.pc + 8 * e ∧ t.thr.y.alt = 0 ∧ t.thr.q.depth = q.depth + 1 ∧
      t.thr.q.top = q.top + 64 + saveSize (getBytes v 0 4 / 2 * 2) (getBytes v 4 4) (getBytes v 8 1) ∧ t.thr.q.trcnt = q.trcnt ∧
      let f := frameAt t t.cur q.top
      fTable f = table % 2 ^ 56 ∧ fCount f = k ∧ fNext f = 1 ∧ fStolen f = 0 ∧ fTrtop f = q.trcnt % 2 ^ 16 ∧ fDepth f = q.depth + 1 ∧
      fSave f = q.top + 64 ∧ fTryPc f = s2.thr.pc.toNat % 2 ^ 56 ∧ fTag f = nextTag s2 ∧ fSmask f = getBytes v 0 4 / 2 * 2 ∧
      fVmask f = getBytes v 4 4 ∧ fPmask f = getBytes v 8 1) ∧
  (∀ (s s3 : State) (off f i : Nat) (e : Word) (rest : List (Nat × Nat)) (more : List Nat),
    let d := drainAll (s.modI (fun i => { i with wrote := [] })) (thCore s.cur)
    let s0 := backInto d f
    searchHere s = .ok () → searchUnits s s.thr.q.top = .ok () → (stackOf s s.cur).reverse = (off, f) :: rest → untried f = i :: more →
    entryOf (writeHeader s0) (fTable f) i = .ok (e, s3) →
    ∃ t, exec .fail s = .next t ∧ t.thr.npc = BitVec.ofNat 64 (fTryPc f) + 8 * e ∧ t.thr.y.alt = BitVec.ofNat 64 i ∧
      t.thr.q.trcnt = min (fTrtop f) s.thr.q.trcnt ∧ t.thr.q.depth = s.thr.q.depth ∧ t.mem.get (ownKey s (off + 26)) 1 = (i + 1) % 256 ∧
      (∀ n : BitVec 5, (fSmask f).testBit n.toNat = false → t.getS n = s.getS n) ∧
      (∀ n : BitVec 3, (fPmask f).testBit n.toNat = false → t.getP n = s.getP n) ∧
      (∀ n : BitVec 5, (fVmask f).testBit n.toNat = false → t.getV n = s.getV n) ∧
      let r := regionsOf s.thr.y.srch
      let en := fun (j : Nat) => d.mem.get (ownKey s (r.trail + 16 * j)) 16
      let at' := fun (j : Nat) => en j % 2 ^ 18
      let len := fun (j : Nat) => 2 ^ (en j / 2 ^ 30 % 4)
      let saved := fun (k n : Nat) => d.mem.get (ownKey s (fSave f) + k) n
      let ns := (bitsOf 32 (fSmask f)).length
      let np := (bitsOf 8 (fPmask f)).length
      (∀ j, fTrtop f ≤ j → j < s.thr.q.trcnt → apart (at' j) (len j) r.stack r.stlen = true ∧ apart (at' j) (len j) r.trail r.trlen = true) →
      16 * s.thr.q.trcnt ≤ r.trlen → r.stack ≤ fSave f → fSave f + saveSize (fSmask f) (fVmask f) (fPmask f) ≤ r.stack + r.stlen →
        (∀ k n, (bitsOf 32 (fSmask f))[k]? = some n → n ≠ 0 → t.getS (BitVec.ofNat 5 n) = BitVec.ofNat 64 (saved (8 * k) 8)) ∧
        (∀ k n, (bitsOf 8 (fPmask f))[k]? = some n → n ≠ 0 → t.getP (BitVec.ofNat 3 n) = BitVec.ofNat 256 (saved (8 * ns + 32 * k) 32)) ∧
        (∀ k n, (bitsOf 32 (fVmask f))[k]? = some n → t.getV (BitVec.ofNat 5 n) = BitVec.ofNat 2048 (saved (8 * ns + 32 * np + 16 + 256 * k) 256)) ∧
        t.gen = (BitVec.ofNat 64 (saved (8 * ns + 32 * np) 8), BitVec.ofNat 64 (saved (8 * ns + 32 * np + 8) 8)) ∧
        (s3.mem.cells = (writeHeader s0).mem.cells → 64 ≤ r.stlen → r.stack ≤ off → off + 27 ≤ r.stack + r.stlen →
          ∀ j, fTrtop f ≤ j → j < s.thr.q.trcnt → (∀ k, fTrtop f ≤ k → k < j → apart (at' k) (len k) (at' j) (len j) = true) →
            t.mem.get (ownKey s (at' j)) (len j) = en j / 2 ^ 64 % 256 ^ len j)) ∧
  (∀ s : State, searchHere s = .ok () → searchUnits s s.thr.q.top = .ok () → s.thr.q.depth = 0 → s.thr.i.replies = [] →
    ∃ t, exec .fail s = .next t ∧ t.thr.i.blocked = some .idle ∧ t.thr.q = s.thr.q ∧ t.thr.r = s.thr.r) ∧
  (∀ (s : State) (d : BitVec 5) (x : BitVec 15), searchHere s = .ok () →
    let k := if d = 0 then x.toNat else (s.getS d).toNat
    (s.thr.q.depth ≤ k → exec (.cut d x) s = .next s) ∧
    (k < s.thr.q.depth → ∃ t, exec (.cut d x) s = .next t ∧ t.thr.q.depth = k ∧ t.thr.r = s.thr.r ∧
      (k = 0 → t.thr.q.trcnt = 0 ∧ t.thr.q.top = (regionsOf s.thr.y.srch).stack + 64) ∧ (k ≠ 0 → t.thr.q.trcnt = s.thr.q.trcnt))) ∧
  (∀ (s : State) (d : BitVec 5), (thGang s.thr = false → exec (.mark d) s = .next (s.setS d (BitVec.ofNat 64 s.thr.q.depth))) ∧
    (thGang s.thr = true → exec (.mark d) s = raises s 0x40 s.thr.pc.toNat)) ∧
  (∀ (s : State) (a b d : BitVec 5) (n : BitVec 7) (map : BitVec 16) (x : BitVec 15),
    (s.thr.inHandler = true → exec (.tryChoice a b n map) s = raises s 0x18 s.thr.pc.toNat ∧ exec .fail s = raises s 0x18 s.thr.pc.toNat ∧
      exec (.cut d x) s = raises s 0x18 s.thr.pc.toNat) ∧
    (s.thr.inHandler = false → thGang s.thr = true → exec (.tryChoice a b n map) s = raises s 0x40 s.thr.pc.toNat ∧
      exec .fail s = raises s 0x40 s.thr.pc.toNat ∧ exec (.cut d x) s = raises s 0x40 s.thr.pc.toNat))

/-- R236, R237, R238. -/
def Obligations.CommitAndVersionedReads : Prop :=
  (∀ (s s1 : State) (h : BitVec 4) (a : BitVec 5) (map : BitVec 16) (v : Nat), s.thr.inHandler = false → liveMap s map.toNat = .ok (v, s1) →
    (∀ s2 r t, s1.thr.rcd = some r → commitIssue s1 h (s.getS a).toNat v = .ok s2 →
      writeBack s2 v map.toNat (s.thr.pc + 8) (BitVec.ofNat 16 (2 ^ h.toNat)) = .ok t →
      exec (.commit h a map) s = .next t ∧ (t.getT s.cur).rcd = none ∧
      (∃ o ∈ t.sch.ops, o.rcd = r.id ∧ o.spec = true ∧ s2.getH h = .pending o.id ∧
        ∃ desc dkey size data, o.k = .commit r.w.launch r.w.task r.w.attempt (r.base.getD 0) desc dkey size data s.thr.pc none) ∧
      (∃ r' ∈ t.sch.recs, r'.id = r.id ∧ r'.place = .rest ∧ r'.w.waith = true ∧ r'.w.pc = s.thr.pc + 8)) ∧
    (thSpec s1.thr = false → exec (.commit h a map) s = raises s 0x30 0) ∧
    (thSpec s1.thr = true → anyWon s1.thr.r = true → exec (.commit h a map) s = raises s 0x31 (firstWon s1.thr.r))) ∧
  (∀ (s s1 : State) (d a b : BitVec 5) (h : BitVec 4) (ver : BitVec 32) (x : Desc), anyWon s.thr.r = false → tableDesc s (s.getS a).toNat = .ok (x, s1) →
    (s.getS b).toNat % 128 = 0 → (s.getS b).toNat + descSize x.val ≤ s.limit → s.thr.q.depth = 0 → s1.getH h = .free →
    ∃ t id, exec (.tread d a b h ver) s = .next t ∧ t.getH h = .pending id ∧ (d, id) ∈ t.thr.i.ilock ∧ t.getS d = s1.getS d ∧ t.thr.rcd.isSome = s1.thr.rcd.isSome ∧
      ∃ o ∈ t.sch.ops, o.id = id ∧ o.k = .tread (BitVec.ofNat 64 x.addr) x.key ver d (ownKey s (s.getS b).toNat) (descSize x.val) 0 false none) ∧
  (∀ (s : State) (d a b : BitVec 5) (h : BitVec 4) (ver : BitVec 32) (l : Launch), s.launch = some l →
    let off := (s.getS a).toNat
    (anyWon s.thr.r = true → exec (.tread d a b h ver) s = raises s 0x31 (firstWon s.thr.r)) ∧
    (anyWon s.thr.r = false → off % 16 ≠ 0 → exec (.tread d a b h ver) s = raises s 0x22 (l.tiles + off)) ∧
    (anyWon s.thr.r = false → off % 16 = 0 → 16 * l.ttlen ≤ off → exec (.tread d a b h ver) s = raises s 0x2A off)) ∧
  (∀ (s s1 : State) (d a : BitVec 5) (x : Desc), tableDesc s (s.getS a).toNat = .ok (x, s1) →
    (∀ s2, (x.dev = s.device ∧ s2 = s1) ∨ (x.dev ≠ s.device ∧ sendAccess s1 (.remote x.dev) = .ok s2) →
      ∃ t r, exec (.tver d a) s = .next t ∧ t.thr.i.replies = s2.thr.i.replies ++ [r] ∧ r.dest = .s d ∧ r.key = x.key ∧ r.acc = .ver ∧
        r.scope = some (if x.dev = s1.device then .mod else .fab) ∧ t.thr.r = s1.thr.r) ∧
    (∀ w, x.dev ≠ s.device → sendAccess s1 (.remote x.dev) = .error (.wait w) → exec (.tver d a) s = .next (block s w)))

/-- R286, R287, R134, R116. -/
def Obligations.OwnRegionLoads : Prop :=
  (∀ (s : State) (i : Instr) (a : Word) (z o : Nat) (d : BitVec 5) (sg : Bool), scalarAccess s i = some (a, z, .load) → scalarLoad i = some (d, sg) →
    OwnAt s a z o → o % z = 0 → NearLoad (exec i s) s (ownKey s o) z (fun v t => t.setS d (loaded z sg v))) ∧
  (∀ (s : State) (d a : BitVec 5) (off : Imm 10) (w o : Nat) (x : Window), 0 < w → w < 8 → windowOf (s.win w) = some (some (x, true)) → x.rnd ≠ .rs →
    (s.getS a + lmOff 4 off).toNat = 0xFF00000000000000 + w * 0x40000 + o → o + x.fmt.bytes ≤ s.limit → o % x.fmt.bytes = 0 →
    s.mem.poisoned (ownKey s o) x.fmt.bytes = false → newestOwn s s.cur (ownKey s o) x.fmt.bytes = none →
    let v := s.mem.get (ownKey s o) x.fmt.bytes
    (winLoadBad x v = false → exec (.ldW32 d a off) s = .next (s.setS d (BitVec.ofNat 64 (winLoad x 0 v % 2 ^ 32)))) ∧
    (winLoadBad x v = true → exec (.ldW32 d a off) s = raises s 0x07 (v % 256)))

/-- R286, R287, R134, R91, R87, R116. -/
def Obligations.OwnRegionStores : Prop :=
  (∀ (s : State) (i : Instr) (a : Word) (z o : Nat) (d : BitVec 5), scalarAccess s i = some (a, z, .store) → scalarStore i = some d →
    OwnAt s a z o → o % z = 0 →
    let r := regionsOf s.thr.y.srch
    (s.thr.q.depth = 0 → Enters (exec i s) s (ownStore s a o z ((s.getS d).toNat % 256 ^ z) false)) ∧
    (s.thr.q.depth ≠ 0 → s.thr.y.srch ≠ 0 →
      (apart o z r.stack r.stlen = false ∨ apart o z r.trail r.trlen = false → exec i s = raises s 0x43 o) ∧
      (apart o z r.stack r.stlen = true → apart o z r.trail r.trlen = true → r.arena ≤ o → o + z ≤ r.arena + r.alen →
        (r.trlen / 16 ≤ s.thr.q.trcnt → exec i s = raises s 0x44 s.thr.q.trcnt) ∧
        (s.thr.q.trcnt < r.trlen / 16 → r.stack + 64 ≤ r.trail ∨ r.trail + r.trlen ≤ r.stack →
          let s0 := drainAll s (thCore s.cur)
          ∃ t, exec i s = .next t ∧ t.thr.q.trcnt = s.thr.q.trcnt + 1 ∧ t.thr.q.depth = s.thr.q.depth ∧ t.thr.r = s.thr.r ∧
            (t.core (thCore s.cur)).buf = [ownStore s a o z ((s.getS d).toNat % 256 ^ z) false] ∧
            (let e := t.mem.get (ownKey s (r.trail + 16 * s.thr.q.trcnt)) 16
             e % 2 ^ 18 = o % 2 ^ 18 ∧ 2 ^ (e / 2 ^ 30 % 4) = z ∧ e / 2 ^ 32 % 2 ^ 32 = s.thr.q.depth % 2 ^ 32 ∧
             (s.thr.q.depth < 256 → e / 2 ^ 64 = s0.mem.get (ownKey s o) z)))))) ∧
  (∀ (s : State) (d a : BitVec 5) (off : Imm 10) (w o : Nat) (x : Window), 0 < w → w < 8 → windowOf (s.win w) = some (some (x, true)) → x.rnd ≠ .rs →
    (s.getS a + lmOff 4 off).toNat = 0xFF00000000000000 + w * 0x40000 + o → o + x.fmt.bytes ≤ s.limit → o % x.fmt.bytes = 0 → s.thr.q.depth = 0 →
    (∀ v, winStore x 0 ((s.getS d).toNat % 2 ^ 32) = some v →
      Enters (exec (.stW32 d a off) s) s (ownStore s (s.getS a + lmOff 4 off) o x.fmt.bytes (v % 256 ^ x.fmt.bytes) false)) ∧
    (winStore x 0 ((s.getS d).toNat % 2 ^ 32) = none → exec (.stW32 d a off) s = raises s 0x13 0))

/-- R288 to R292. -/
def Obligations.OwnRegionVectorAccesses : Prop :=
  (∀ (s : State) (d a : BitVec 5) (off : Imm 10) (o : Nat), let A := s.getS a + lmOff 256 off
    OwnAt s A 256 o → o % 8 = 0 →
    NearLoad (exec (.vld d a off) s) s (ownKey s o) 256 (fun v t => t.setV d (BitVec.ofNat 2048 v)) ∧
    (s.thr.q.depth = 0 → Enters (exec (.vst d a off) s) s (ownStore s A o 256 (s.getV d).toNat false))) ∧
  (∀ (s : State) (d a b : BitVec 5) (e : ESz) (p : BitVec 3) (off : Option (BitVec 32)) (o : Nat → Nat),
    let A := s.getS a + lrOff off
    let stride := fun (i : Nat) => A + BitVec.ofNat 64 i * (if b = 0 then BitVec.ofNat 64 e.bytes else s.getS b)
    let index := fun (i : Nat) => A + (el 32 (s.getV b) i).setWidth 64
    let good := fun (f : Nat → Word) => ∀ i ∈ activeElems s p e.bytes, OwnAt s (f i) e.bytes (o i) ∧ o i % e.bytes = 0
    let plain := fun (f : Nat → Word) => good f ∧ ∀ i, i < 256 / e.bytes → drawsAt s (f i).toNat = false
    (addrFmt s A.toNat = none → (s.core (thCore s.cur)).buf = [] →
      (plain stride → VectorLoad (exec (.vlds d a b e p off) s) s e.bytes p d (fun i => s.mem.get (ownKey s (o i)) e.bytes)) ∧
      (plain index → VectorLoad (exec (.vgat d a b e p off) s) s e.bytes p d (fun i => s.mem.get (ownKey s (o i)) e.bytes)) ∧
      (OwnAt s A e.bytes (o 0) → o 0 % e.bytes = 0 → VectorLoad (exec (.vldb d a e p off) s) s e.bytes p d (fun _ => s.mem.get (ownKey s (o 0)) e.bytes))) ∧
    (addrFmt s A.toNat = none → s.thr.q.depth = 0 →
      let store := fun (f : Nat → Word) (joined : Bool) (i : Nat) =>
        { ownStore s (f i) (o i) e.bytes (el (8 * e.bytes) (s.getV d) i).toNat false with joined := joined }
      let one := fun (i j : Nat) => e.bytes < 8 ∧ ownKey s (o i) / 8 = ownKey s (o j) / 8
      let stores := fun (out : Host.Outcome State Fault Refusal) (f : Nat → Word) =>
        ((activeElems s p e.bytes).Pairwise (fun i j => ¬ one i j) →
          out = .next ((activeElems s p e.bytes).foldl (fun t i => pushStore t (store f false i)) s)) ∧
        (∀ i l, activeElems s p e.bytes = i :: l → (∀ j ∈ l, one i j) → out = .next (pushEntry s s.cur (store f false i :: l.map (store f true))))
      (plain stride → stores (exec (.vsts d a b e p off) s) stride ∧ ∃ t, exec (.vsts d a b e p off) s = .next t ∧ t.thr = s.thr) ∧
      (plain index → stores (exec (.vsct d a b e p off) s) index ∧ ∃ t, exec (.vsct d a b e p off) s = .next t ∧ t.thr = s.thr)))

/-- R293, R294, R295, R296; R137 to R139 for the release and the acquire. Where the bytes of a sector written back stand follows the
model's caches (log 7, log 43). -/
def Obligations.SynchronisingAndOrderedAccesses : Prop :=
  (∀ (s : State) (d a : BitVec 5) (sz : LdSz) (off : Option (BitVec 32)) (o : Nat), let A := s.getS a + lrOff off
    OwnAt s A sz.bytes o → o % sz.bytes = 0 →
    let t := drainAll s (thCore s.cur)
    (t.mem.allFull (ownKey s o) sz.bytes = true → exec (.ldsync d a sz off) s = .next (t.setS d (loaded sz.bytes sz.signed (t.mem.get (ownKey s o) sz.bytes)))) ∧
    (t.mem.allFull (ownKey s o) sz.bytes = false → (∀ w ∈ t.mem.empty, w % 4 = 0) →
      exec (.ldsync d a sz off) s = .next (block s (.sync (wordsOf (ownKey s o) sz.bytes))))) ∧
  (∀ (s : State) (d a : BitVec 5) (off : Imm 10) (o : Nat), let A := s.getS a + lmOff 256 off
    OwnAt s A 256 o → o % 8 = 0 →
    let t := drainAll s (thCore s.cur)
    (t.mem.allFull (ownKey s o) 256 = true → exec (.vldsync d a off) s = .next (t.setV d (BitVec.ofNat 2048 (t.mem.get (ownKey s o) 256)))) ∧
    (t.mem.allFull (ownKey s o) 256 = false → (∀ w ∈ t.mem.empty, w % 4 = 0) →
      exec (.vldsync d a off) s = .next (block s (.sync (wordsOf (ownKey s o) 256)))) ∧
    (s.thr.q.depth = 0 → Enters (exec (.vstfull d a off) s) s (ownStore s A o 256 (s.getV d).toNat true))) ∧
  (∀ (s : State) (d a : BitVec 5) (off : Imm 10) (o : Nat), let A := s.getS a + lmOff 4 off
    OwnAt s A 4 o → o % 4 = 0 → s.thr.q.depth = 0 → Enters (exec (.stfull d a off) s) s (ownStore s A o 4 ((s.getS d).toNat % 2 ^ 32) true)) ∧
  (∀ (s : State) (a b : BitVec 5) (off : Option (BitVec 32)) (o : Nat), let A := s.getS a + lrOff off
    let n := (s.getS b).toNat
    (n = 0 → exec (.femp a b off) s = .next s) ∧
    (n ≠ 0 → OwnAt s A n o → o % 4 = 0 → n % 4 = 0 → Enters (exec (.femp a b off) s) s { ownStore s A o n 0 false with empties := true }) ∧
    (n ≠ 0 → OwnAt s A n o → o % 4 ≠ 0 ∨ n % 4 ≠ 0 → exec (.femp a b off) s = raises s 0x22 A.toNat)) ∧
  (∀ (s : State) (d a : BitVec 5) (sz : ESz) (sc : Scope) (off : Option (BitVec 32)) (o : Nat), let A := s.getS a + lrOff off
    OwnAt s A sz.bytes o → o % sz.bytes = 0 →
    NearLoad (exec (.ldacq d a sz sc off) s) s (ownKey s o) sz.bytes (fun v t => acquire (t.setS d (loaded sz.bytes false v)) t.cur sc) ∧
    (s.thr.q.depth = 0 → sc.wide = false → Enters (exec (.strel d a sz sc off) s) s (ownStore s A o sz.bytes ((s.getS d).toNat % 256 ^ sz.bytes) false)) ∧
    (s.thr.q.depth = 0 → sc.wide = true → MayRelease s sc →
      ∃ t, exec (.strel d a sz sc off) s = .next t ∧ (t.core (thCore s.cur)).buf = [ownStore s A o sz.bytes ((s.getS d).toNat % 256 ^ sz.bytes) false] ∧
        (∀ x ∈ t.mem.l2, x.die = thDie s.cur → x.dirty = false) ∧ t.thr = s.thr ∧
        let d := drainAll s (thCore s.cur)
        (BackInPlace d (thDie s.cur) → WrittenBack d t (thDie s.cur) (fun _ => True))))

/-- R284 in order, R54, R429. -/
def Obligations.AccessConditions : Prop :=
  ∀ (s : State) (i : Instr) (ea : Word) (z : Nat) (need : Need), scalarAccess s i = some (ea, z, need) →
    let a := ea.toNat
    (a / 2 ^ 56 ≠ 0 → a / 2 ^ 56 ≠ 0xFF → exec i s = raises s 0x20 a) ∧
    (a / 2 ^ 56 = 0xFF → 3 ≤ a / 2 ^ 48 % 256 → exec i s = raises s 0x21 a) ∧
    (∀ o, a = 0xFF00000000000000 + o → o < 0x40000 → s.limit < o + z → exec i s = raises s 0x21 a) ∧
    (∀ o, a = 0xFF00000000000000 + o → o + z ≤ s.limit → o % z ≠ 0 → exec i s = raises s 0x22 a) ∧
    (a / 2 ^ 56 = 0 → a % z ≠ 0 → exec i s = raises s 0x22 a) ∧
    (a / 2 ^ 56 = 0 → a % z = 0 →
      (∀ c, lookup s (thClu s.cur) s.part a = .error (.cond c none) → exec i s = .next (takeCondition s c (faultPc s))) ∧
      (∀ leaf bits, lookup s (thClu s.cur) s.part a = .ok (leaf, bits) →
        let fa := leafAddr leaf bits a
        (need.granted leaf = false → exec i s = raises s 0x24 a) ∧
        (need.granted leaf = true → reservedMa (fa % 2 ^ 44) = true → exec i s = raises s 0x25 fa) ∧
        (need.granted leaf = true → reservedMa (fa % 2 ^ 44) = false → reachable s fa z = .ok () → bellOk s fa z need = true → need = .store →
          thSpec s.thr = true → exec i s = raises s 0x26 a)))

/-- R297, R298, R299, R300. -/
def Obligations.AtomicResults : Prop :=
  ∀ (s : State) (d a b : BitVec 5) (t : ATy) (sc : Scope) (off : Option (BitVec 32)) (o : Nat),
    let A := s.getS a + lrOff off
    let n := 8 * t.bytes
    let r := release s s.cur sc
    let old : BitVec n := BitVec.ofNat n (r.mem.get (ownKey s o) t.bytes)
    let x : BitVec n := (s.getS b).setWidth n
    let ends := fun (bytes : Nat) (new ext : Nat) => (Host.Outcome.next (acquire ((r.modM (·.put (ownKey s o) bytes new)).setS d (BitVec.ofNat 64 ext)) s.cur sc) : Host.Outcome State Fault Refusal)
    let ext := (if t.signed then old.signExtend 64 else old.setWidth 64).toNat
    let less := fun (u v : BitVec n) => if t.signed then u.slt v else u.ult v
    (OwnAt s A t.bytes o → o % t.bytes = 0 → s.thr.q.depth = 0 → MayRelease s sc → r.mem.poisoned (ownKey s o) t.bytes = false →
      exec (.afadd d a b t sc off) s = ends t.bytes (old + x).toNat ext ∧
      exec (.afmin d a b t sc off) s = ends t.bytes (if less x old then x else old).toNat ext ∧
      exec (.afmax d a b t sc off) s = ends t.bytes (if less old x then x else old).toNat ext ∧
      exec (.afand d a b t sc off) s = ends t.bytes (old &&& x).toNat ext ∧
      exec (.afor d a b t sc off) s = ends t.bytes (old ||| x).toNat ext ∧
      exec (.afxor d a b t sc off) s = ends t.bytes (old ^^^ x).toNat ext ∧
      exec (.aswap d a b t sc off) s = ends t.bytes x.toNat ext) ∧
    (OwnAt s A 4 o → o % 4 = 0 → s.thr.q.depth = 0 → MayRelease s sc → r.mem.poisoned (ownKey s o) 4 = false →
      let u := r.mem.get (ownKey s o) 4
      exec (.affadd d a b sc off) s = ends 4 (arith fmtF32 .rne false 0 (xsum false [widenF fmtF32 u, widenF fmtF32 ((s.getS b).toNat % 2 ^ 32)])) (u % 2 ^ 32)) ∧
    (∀ (k : BitVec 24) (new : BitVec 5), OwnAt s (s.getS a + BitVec.ofInt 64 k.toInt) t.bytes o → o % t.bytes = 0 → s.thr.q.depth = 0 →
      MayRelease s sc → r.mem.poisoned (ownKey s o) t.bytes = false →
      exec (.acas d a b t sc k new) s = ends t.bytes (if old = x then (s.getS new).setWidth n else old).toNat ext)

/-- R121, R143, R135; R286 for global addresses: what a core's L1 holds is loaded, else what the die's L2 holds, else what stands at
the home; a store that leaves makes its sector dirty in the L2. What an access fills is the model's choice (log 7, log 76). -/
def Obligations.CachedAccesses : Prop :=
  (∀ (s : State) (i : Instr) (ea : Word) (z : Nat) (d : BitVec 5) (sg : Bool) (leaf : Word) (bits ma : Nat),
    scalarAccess s i = some (ea, z, .load) → scalarLoad i = some (d, sg) → CachedAt s ea.toNat z leaf bits ma → leaf.getLsbD 61 = true →
    let own := ownerOf s.part leaf
    let a := ma / 16 * 16
    badPlace s (thDie s.cur) (.cached ma own) (maKey ma) z = none →
    let gives := fun (v : Nat) (p : State → Prop) => Answers i s (fun t =>
      t.getS d = (if d = 0 then 0 else loaded z sg (getBytes v (ma % 16) z)) ∧ (∀ n, n ≠ d → t.getS n = s.getS n) ∧ p t)
    Answers i s (fun t => (∀ n, n ≠ d → t.getS n = s.getS n) ∧ t.thr.r.v = s.thr.r.v ∧ t.thr.r.p = s.thr.r.p ∧ t.thr.r.h = s.thr.r.h ∧ t.thr.npc = s.thr.npc) ∧
    (newestOwn s s.cur (maKey ma) z = none →
      (∀ x, l1Find s (thCore s.cur) a = some x → gives x.data.toNat (fun t => t.mem.l2 = s.mem.l2)) ∧
      (∀ x, l1Find s (thCore s.cur) a = none → l2Find s (thDie s.cur) a = some x → gives x.data.toNat (fun t => t.mem.l2 = s.mem.l2)) ∧
      (l1Find s (thCore s.cur) a = none → l2Find s (thDie s.cur) a = none → inTlb s ea.toNat leaf bits → RoomFor s (thDie s.cur) own (ma / 128) →
        gives (s.mem.get (maKey a) 16) (fun t => t.mem.cells = s.mem.cells ∧
          ∃ x, l2Find t (thDie s.cur) a = some x ∧ x.data.toNat = s.mem.get (maKey a) 16 ∧ x.dirty = false)))) ∧
  (∀ (s : State) (core : Nat) (x : Store) (rest : List Store) (ma own : Nat), (s.core core).buf = x :: rest → joinedOf rest = [] →
    (s.core core).posted.any (landsNow s) = false → (s.core core).parked = none → x.route = .cached ma own → 1 ≤ x.len → ma % 16 + x.len ≤ 16 →
    let a := ma / 16 * 16
    let drains := fun (old : Nat) => Answers (.storeDrain core) s (fun t => (t.core core).buf = rest ∧
      ∃ y, l2Find t (thDie x.th) a = some y ∧ y.dirty = true ∧ y.data.toNat = putBytes old (ma % 16) x.len x.value)
    (∀ y, l2Find s (thDie x.th) a = some y → drains y.data.toNat) ∧
    (l2Find s (thDie x.th) a = none → RoomFor s (thDie x.th) own (ma / 128) → drains (s.mem.get (maKey a) 16))) ∧
  (∀ (s : State) (core : Nat) (x : Store) (rest : List Store), (s.core core).buf = x :: rest → joinedOf rest = [] →
    (s.core core).posted.any (landsNow s) = false → (s.core core).parked = none → x.route = .near → Answers (.storeDrain core) s (fun t =>
      (t.core core).buf = rest ∧ t.thr = s.thr ∧ t.mem.l2 = s.mem.l2 ∧
      (x.empties = false → (∀ j, j < x.len → t.byte (x.key + j) = BitVec.ofNat 8 (x.value / 256 ^ j)) ∧
        (∀ k, k < x.key ∨ x.key + x.len ≤ k → t.byte k = s.byte k) ∧
        (x.full = true → t.mem.allFull x.key x.len = true) ∧ (x.full = false → t.mem.empty = s.mem.empty)) ∧
      (x.empties = true → (∀ k, t.byte k = s.byte k) ∧ ∀ w ∈ wordsOf x.key x.len, w ∈ t.mem.empty))) ∧
  (∀ (s : State) (core : Nat) (d : Nat) (x : Store), (s.core core).buf = [] → (s.core core).posted = [(d, x)] → landsNow s (d, x) = true → (s.core core).parked = none → x.empties = false →
    x.full = false → Answers (.storeDrain core) s (fun t => (t.core core).posted = [] ∧ (∀ j, j < x.len → t.byte (x.key + j) = BitVec.ofNat 8 (x.value / 256 ^ j)) ∧
      ∀ k, k < x.key ∨ x.key + x.len ≤ k → t.byte k = s.byte k))

/-- R302, R303, R304, R127. What `pref` fills and that a pin counts lines are the model's readings (log 43); the bound of 14 pinned ways
counts the new pin (log 68). -/
def Obligations.CacheMaintenance : Prop :=
  (∀ (s : State) (a : BitVec 5) (lvl : Lvl) (off : Option (BitVec 32)), ∃ t, exec (.pref a lvl off) s = .next t ∧ t.thr.r = s.thr.r ∧
    t.mem.pins = s.mem.pins ∧ t.cores = s.cores ∧ t.thr.npc = s.thr.npc ∧ t.taken = s.taken ∧
    ∀ s1 g ma own, (s.getS a + lrOff off).toNat / 2 ^ 56 = 0 → resolve s (s.getS a + lrOff off).toNat 1 1 .load = .ok (s1, g) → tgtRoute s1 g = .cached ma own →
      (lvl = .l2 → ∀ i, i < 8 → (l2Find t (thDie s.cur) (ma / 128 * 128 + 16 * i)).isSome = true) ∧
      (lvl = .l3 → ∃ x ∈ t.mem.l3, x.line = ma / 128)) ∧
  (∀ (s : State) (d a b : BitVec 5) (l3 : Bool) (off : Option (BitVec 32)),
    let A := (s.getS a + lrOff off).toNat
    let n := (s.getS b).toNat
    (A % 128 ≠ 0 → exec (.pin d a b l3 off) s = raises s 0x22 A ∧ exec (.unpin a b l3 off) s = raises s 0x22 A ∧
      exec (.cflush a b off) s = raises s 0x22 A ∧ exec (.cinv a b off) s = raises s 0x22 A) ∧
    (A % 128 = 0 → n = 0 ∨ 65536 < n → exec (.pin d a b l3 off) s = raises s 0x12 n ∧ exec (.unpin a b l3 off) s = raises s 0x12 n ∧
      exec (.cflush a b off) s = raises s 0x12 n ∧ exec (.cinv a b off) s = raises s 0x12 n) ∧
    (A % 128 = 0 → 1 ≤ n → n ≤ 65536 → ∀ s1 l, blockRoutes s (lineBlocks A n) = .ok (s1, l) →
      (let die := if l3 then 0 else thDie s.cur
        ∃ k t, exec (.pin d a b l3 off) s = .next (t.setS d (BitVec.ofNat 64 k)) ∧ k ≤ n ∧ t.thr.r = s1.thr.r ∧
        let mine := fun (line : Nat) => ∃ q ∈ t.mem.pins, q.l3 = l3 ∧ q.die = die ∧ q.line = line ∧ q.part = s.part
        (∀ j, j < k → ∃ rt line, (blockLines l)[j]? = some (rt, line) ∧ pinable l3 rt = true ∧ mine line) ∧
        (k = n ∨ ∃ rt line, (blockLines l)[k]? = some (rt, line) ∧ (pinable l3 rt = false ∨
          (¬ mine line ∧ line ∉ pinsInSet t l3 die line ∧ 14 ≤ (pinsInSet t l3 die line).length))) ∧
        (∀ q ∈ s1.mem.pins, q ∈ t.mem.pins) ∧
        ∀ die line, (pinsInSet t l3 die line).length ≤ max 14 (pinsInSet s1 l3 die line).length) ∧
      (∃ t, exec (.unpin a b l3 off) s = .next t ∧ t.thr.r = s1.thr.r ∧ t.mem.cells = s1.mem.cells ∧ (∀ q ∈ t.mem.pins, q ∈ s1.mem.pins) ∧
        ∀ q ∈ t.mem.pins, ∀ x ∈ l, q.l3 = l3 → q.part = s.part → q.die = (if l3 then 0 else thDie s.cur) → pinable l3 x.1 = true →
          q.line < x.2.1 / 128 ∨ x.2.1 / 128 + x.2.2 ≤ q.line) ∧
      (let c := drainAll s1 (thCore s.cur)
        let within := fun (x : Nat) => ∃ y ∈ l, ∃ ma own, y.1 = .cached ma own ∧ ma ≤ x ∧ x + 16 ≤ ma + 128 * y.2.2
        ∃ t, exec (.cflush a b off) s = .next t ∧ t.thr.r = s1.thr.r ∧ (BackInPlace c (thDie s.cur) → WrittenBack c t (thDie s.cur) within) ∧
        ∀ x ∈ t.mem.l2, x.die = thDie s.cur → x.dirty = true → ∀ y ∈ l, ∀ ma own, y.1 = .cached ma own → x.addr < ma ∨ ma + 128 * y.2.2 ≤ x.addr) ∧
      (∃ t, exec (.cinv a b off) s = .next t ∧ t.thr.r = s1.thr.r ∧
        ∀ x ∈ t.mem.l2, x.die = thDie s.cur → ∀ y ∈ l, ∀ ma own, y.1 = .cached ma own → x.addr + 16 ≤ ma ∨ ma + 128 * y.2.2 ≤ x.addr)))

/-- R307, R308, R309, R312. The detail of 0x21 is the model's choice (log 57). -/
def Obligations.CopiesAtIssue : Prop :=
  (∀ (s : State) (h : BitVec 4) (d a c : BitVec 5) (fl : Option CopyFlags),
    let D := s.getS d
    let A := s.getS a
    let n := (s.getS c).toNat
    let len := (s.getS c).toNat
    let rows := (s.getS (c + 1)).toNat
    let sstep := (s.getS (c + 2)).toNat % 2 ^ 32
    let dstep := (s.getS (c + 2)).toNat / 2 ^ 32
    let N := (s.getS c).toNat % 2 ^ 48
    let clus := ((List.range 16).filter (fun i => ((s.getS c).toNat / 2 ^ 48).testBit i)).map (fun i => thDie s.cur * 16 + i)
    let scope := fun (dflt : Scope) => (fl.map (fun f => f.scope)).getD dflt
    let ss := (fl.map (fun f => f.ss)).getD false && thGang s.thr
    let wb := (fl.map (fun f => f.dk)).getD false
    let wclu := thDie s.cur * 16 + ((fl.map (fun f : CopyFlags => f.dcl)).getD 0).toNat
    (2 ^ 40 ≤ n → exec (.copy h d a c fl) s = raises s 0x12 n) ∧
    (len = 0 ∨ 2 ^ 24 < len → exec (.copy2 h d a c fl) s = raises s 0x12 len) ∧
    (1 ≤ len → len ≤ 2 ^ 24 → rows = 0 ∨ 65536 < rows → exec (.copy2 h d a c fl) s = raises s 0x12 rows) ∧
    (0x200000 < N → exec (.copym h d a c fl) s = raises s 0x12 N) ∧
    (∀ op, s.getH h = .pending op →
      (n < 2 ^ 40 → exec (.copy h d a c fl) s = .next (block s (.handle h))) ∧
      (1 ≤ len → len ≤ 2 ^ 24 → 1 ≤ rows → rows ≤ 65536 → exec (.copy2 h d a c fl) s = .next (block s (.handle h))) ∧
      (N ≤ 0x200000 → exec (.copym h d a c fl) s = .next (block s (.handle h)))) ∧
    (s.getH h = .free → s.thr.q.depth = 0 →
      (n < 2 ^ 40 → ∀ A', CopyPlace s A n A' →
        (thSpec s.thr = true → wb = false → D.toNat / 2 ^ 56 = 0 → D.toNat + n ≤ 2 ^ 56 → exec (.copy h d a c fl) s = raises s 0x26 D.toNat) ∧
        (wb = false → D.toNat / 2 ^ 56 = 0 → 2 ^ 56 < D.toNat + n → exec (.copy h d a c fl) s = raises s 0x20 (2 ^ 56)) ∧
        (wb = true → s.owns s.part wclu = false → exec (.copy h d a c fl) s = raises s 0x21 D.toNat) ∧
        (wb = true → s.owns s.part wclu = true → s.ropeLost (cluRope wclu) = false → 0x200000 < D.toNat + n →
          exec (.copy h d a c fl) s = raises s 0x60 D.toNat) ∧
        (wb = true → s.owns s.part wclu = true → s.ropeLost (cluRope wclu) = false → D.toNat + n ≤ 0x200000 → thSpec s.thr = false → 1 ≤ n →
          StartsCopy (exec (.copy h d a c fl) s) s h (scope .clu) ss n (fun b => A' + BitVec.ofNat 64 b) (fun b => .buf true [wclu] (D.toNat + b))) ∧
        (∀ D', wb = false → thSpec s.thr = false → CopyPlace s D n D' →
          (n = 0 → exec (.copy h d a c fl) s = .next (s.setH h (.done 0 none (some (scope .clu)) false))) ∧
          (1 ≤ n → StartsCopy (exec (.copy h d a c fl) s) s h (scope .clu) ss n (fun b => A' + BitVec.ofNat 64 b) (fun b => .addr (D' + BitVec.ofNat 64 b))))) ∧
      (∀ A' D', 1 ≤ len → len ≤ 2 ^ 24 → 1 ≤ rows → rows ≤ 65536 → wb = false → thSpec s.thr = false →
        (∀ i, i < rows → CopyPlace s (A + BitVec.ofNat 64 (i * sstep)) len (A' + BitVec.ofNat 64 (i * sstep)) ∧
          CopyPlace s (D + BitVec.ofNat 64 (i * dstep)) len (D' + BitVec.ofNat 64 (i * dstep))) →
        StartsCopy (exec (.copy2 h d a c fl) s) s h (scope .clu) ss (rows * len)
          (fun b => A' + BitVec.ofNat 64 (b / len * sstep) + BitVec.ofNat 64 (b % len))
          (fun b => .addr (D' + BitVec.ofNat 64 (b / len * dstep) + BitVec.ofNat 64 (b % len)))) ∧
      (∀ A', N ≤ 0x200000 → CopyPlace s A N A' →
        (0x200000 < D.toNat + N → exec (.copym h d a c fl) s = raises s 0x60 D.toNat) ∧
        (D.toNat + N ≤ 0x200000 → (∃ k ∈ clus, s.owns s.part k = false) → exec (.copym h d a c fl) s = raises s 0x21 D.toNat) ∧
        (D.toNat + N ≤ 0x200000 → (∀ k ∈ clus, s.owns s.part k = true ∧ s.ropeLost (cluRope k) = false) → thSpec s.thr = false →
          (N = 0 ∨ clus = [] → exec (.copym h d a c fl) s = .next (s.setH h (.done 0 none (some (scope .die)) false))) ∧
          (1 ≤ N → clus ≠ [] → StartsCopy (exec (.copym h d a c fl) s) s h (scope .die) ss N (fun b => A' + BitVec.ofNat 64 b)
            (fun b => .buf wb clus (D.toNat + b))))))) ∧
  (∀ (s : State) (n : BitVec 15),
    (thGang s.thr = false → exec (.stage n) s = raises s 0x54 n.toNat) ∧
    (thGang s.thr = true → ∀ l, s.launch = some l →
      (n.toNat ≤ l.stage ∨ l.l[7].toNat % 2 ^ 17 = 0 → exec (.stage n) s = .next s) ∧
      (l.stage < n.toNat → l.l[7].toNat % 2 ^ 17 ≠ 0 →
        ∃ t l', exec (.stage n) s = .next t ∧ t.findLaunch l.num = some l' ∧ l'.stage = n.toNat ∧ t.thr = s.thr)))

/-- R313, R315 to R321, R118. -/
def Obligations.MatrixJobsAtIssue : Prop :=
  (∀ (s : State) (h : BitVec 4) (a b c : BitVec 5) (f : BitVec 5) (off : Option (BitVec 32)) (lone : Bool) (i : Instr) (op : Nat),
    i ∈ ([.mxld h a off, .mxmm h a b f off, .mxsp h a b c off, .mxgrp h a b c off, .mxrot h lone, .mxrd h a b c lone, .mxclr h b lone,
      .mxmeta h a b c lone] : List Instr) → s.getH h = .pending op → exec i s = .next (block s (.handle h))) ∧
  (∀ (s : State) (h : BitVec 4) (a b c : BitVec 5) (f : BitVec 5) (off : Option (BitVec 32)) (lone : Bool), s.getH h = .free →
    let o := (s.getS a + lrOff off).toNat
    let A := (s.getS a).toNat
    let T := (s.getS b).toNat
    let v := (s.getS c).toNat
    let v1 := (s.getS (c + 1)).toNat
    let v2 := (s.getS (c + 2)).toNat
    let K := fun (code : Nat) => if code ≤ 1 then 128 else 256
    let G := v2 % 64 + 1
    (o % 1024 = 0 → o ≤ 0x1F8000 → QueuesJob (exec (.mxld h a off) s) s h (.ld o)) ∧
    (o % 1024 ≠ 0 ∨ 0x1F8000 < o → exec (.mxld h a off) s = raises s 0x60 o) ∧
    (o % 256 = 0 → o + 0x8000 ≤ 0x200000 → T ≤ 15 → QueuesJob (exec (.mxmm h a b f off) s) s h (.mm o T f.toNat)) ∧
    (o % 256 ≠ 0 ∨ 0x200000 < o + 0x8000 → exec (.mxmm h a b f off) s = raises s 0x60 o) ∧
    (o % 256 = 0 → o + 0x8000 ≤ 0x200000 → 15 < T → exec (.mxmm h a b f off) s = raises s 0x60 T) ∧
    (o % 256 = 0 → o + 0x10000 ≤ 0x200000 → T ≤ 15 → v < 2 ^ 21 → v / 2 ^ 16 ≤ 8 → v % 64 = 0 → v % 2 ^ 16 + 32 * K (v / 2 ^ 16) ≤ 0x10000 →
      QueuesJob (exec (.mxsp h a b c off) s) s h (.sp o T (v / 2 ^ 16) (v % 2 ^ 16))) ∧
    (o % 256 ≠ 0 ∨ 0x200000 < o + 0x10000 → exec (.mxsp h a b c off) s = raises s 0x60 o) ∧
    (o % 256 = 0 → o + 0x10000 ≤ 0x200000 → 15 < T → exec (.mxsp h a b c off) s = raises s 0x60 T) ∧
    (o % 256 = 0 → o + 0x10000 ≤ 0x200000 → T ≤ 15 → 2 ^ 21 ≤ v ∨ 8 < v / 2 ^ 16 → exec (.mxsp h a b c off) s = raises s 0x60 v) ∧
    (o % 256 = 0 → o + 0x10000 ≤ 0x200000 → T ≤ 15 → v < 2 ^ 21 → v / 2 ^ 16 ≤ 8 → v % 64 ≠ 0 ∨ 0x10000 < v % 2 ^ 16 + 32 * K (v / 2 ^ 16) →
      exec (.mxsp h a b c off) s = raises s 0x60 (v % 2 ^ 16)) ∧
    (o % 256 = 0 → o + 0x8000 ≤ 0x200000 → T ≤ 15 → v % 2 = 0 → v < 2 ^ 21 → v + 2 * G ≤ 0x200000 → v1 % 1024 = 0 → v1 < 2 ^ 21 → v2 < 2 ^ 11 →
        v2 / 64 ≤ 8 → v1 + G * 0x8000 ≤ 0x200000 → QueuesJob (exec (.mxgrp h a b c off) s) s h (.grp o T (v2 / 64) v v1 G)) ∧
    (o % 256 ≠ 0 ∨ 0x200000 < o + 0x8000 → exec (.mxgrp h a b c off) s = raises s 0x60 o) ∧
    (o % 256 = 0 → o + 0x8000 ≤ 0x200000 → 15 < T → exec (.mxgrp h a b c off) s = raises s 0x60 T) ∧
    (o % 256 = 0 → o + 0x8000 ≤ 0x200000 → T ≤ 15 →
      (2 ^ 21 ≤ v ∨ v % 2 ≠ 0 ∨ 0x200000 < v + 2 * G → exec (.mxgrp h a b c off) s = raises s 0x60 v) ∧
      (v < 2 ^ 21 → v % 2 = 0 → v + 2 * G ≤ 0x200000 →
        (2 ^ 21 ≤ v1 ∨ v1 % 1024 ≠ 0 → exec (.mxgrp h a b c off) s = raises s 0x60 v1) ∧
        (v1 < 2 ^ 21 → v1 % 1024 = 0 →
          (2 ^ 11 ≤ v2 ∨ 8 < v2 / 64 → exec (.mxgrp h a b c off) s = raises s 0x60 v2) ∧
          (v2 < 2 ^ 11 → v2 / 64 ≤ 8 → 0x200000 < v1 + G * 0x8000 → exec (.mxgrp h a b c off) s = raises s 0x60 v1)))) ∧
    QueuesJob (exec (.mxrot h lone) s) s h .rot ∧
    (T ≤ 15 → QueuesJob (exec (.mxclr h b lone) s) s h (.clr T)) ∧
    (15 < T → exec (.mxclr h b lone) s = raises s 0x60 T) ∧
    (A % 64 = 0 → A + v ≤ 0x200000 → T % 64 = 0 → T + v ≤ 0x10000 → v % 64 = 0 → QueuesJob (exec (.mxmeta h a b c lone) s) s h (.metaCopy A T v)) ∧
    (A % 64 ≠ 0 ∨ 0x200000 < A + v → exec (.mxmeta h a b c lone) s = raises s 0x60 A) ∧
    (A % 64 = 0 → A + v ≤ 0x200000 →
      (T % 64 ≠ 0 ∨ 0x10000 < T + v → exec (.mxmeta h a b c lone) s = raises s 0x60 T) ∧
      (T % 64 = 0 → T + v ≤ 0x10000 → v % 64 ≠ 0 → exec (.mxmeta h a b c lone) s = raises s 0x60 v)) ∧
    (15 < T → exec (.mxrd h a b c lone) s = raises s 0x60 T) ∧
    (T ≤ 15 → 2 ^ 19 ≤ v ∨ v / 2 ^ 15 % 2 = 1 ∨ 128 < v % 128 + v / 2 ^ 7 % 256 + 1 → exec (.mxrd h a b c lone) s = raises s 0x60 v) ∧
    (let row := v % 128
      let cnt := v / 2 ^ 7 % 256
      let n := (cnt + 1) * 128
      (T ≤ 15 → v < 2 ^ 19 → v / 2 ^ 15 % 2 = 0 → row + cnt + 1 ≤ 128 → s.thr.q.depth = 0 → ∀ q, A = 0xFF00000000000000 + q → q < 0x40000 →
        (v / 2 ^ 16 % 8 = 0 → q + n * 4 ≤ s.limit → QueuesJob (exec (.mxrd h a b c lone) s) s h (.rd (ownKey s q) T row cnt 0 true [0])) ∧
        (∀ x, v / 2 ^ 16 % 8 ≠ 0 → windowOf (s.win (v / 2 ^ 16 % 8)) = some (some (x, true)) → q + n * x.fmt.bytes ≤ s.limit →
          QueuesJob (exec (.mxrd h a b c lone) s) s h
            (.rd (ownKey s q) T row cnt (s.win (v / 2 ^ 16 % 8)) false [if x.rnd = .rs then (s.draws n).1 else 0])) ∧
        (v / 2 ^ 16 % 8 ≠ 0 → windowOf (s.win (v / 2 ^ 16 % 8)) = some none → q + n * 4 ≤ s.limit →
          QueuesJob (exec (.mxrd h a b c lone) s) s h (.rd (ownKey s q) T row cnt (s.win (v / 2 ^ 16 % 8)) true [0])))))

/-- R322, R324, R325. The model's own are the code of a bad length of `msg` (log 58), 0x04 for a block that encodes no job (log 45, beside
R440), the detail of 0x21 (log 91) and the time `Config.seamTime` (log 2). -/
def Obligations.CommandsAndMessagesAtIssue : Prop :=
  (∀ (s : State) (h : BitVec 4) (a b : BitVec 5) (cap : BitVec 32), s.getH h = .free →
    let A := (s.getS a).toNat
    let B := (s.getS b).toNat
    let clu := A / 16 * 16 + A % 16
    let t := drainAll s (thCore s.cur)
    (128 ≤ A → exec (.mxcmd h a b cap) s = raises s 0x60 A) ∧
    (A < 128 → B % 8 ≠ 0 ∨ s.limit < B + 32 → exec (.mxcmd h a b cap) s = raises s 0x60 B) ∧
    (A < 128 → B % 8 = 0 → B + 32 ≤ s.limit → s.dieLost (A / 16) = true → exec (.mxcmd h a b cap) s = raises s 0x72 (A / 16)) ∧
    (A < 128 → B % 8 = 0 → B + 32 ≤ s.limit → s.dieLost (A / 16) = false → s.ropeLost (cluRope clu) = false → t.mem.poisoned (ownKey s B) 32 = false →
      (blockJob (t.mem.get (ownKey s B) 32) = none → exec (.mxcmd h a b cap) s = raises s 0x04 (bundleAt s s.thr.pc)) ∧
      (∀ j, blockJob (t.mem.get (ownKey s B) 32) = some j →
        (thSpec s.thr = true → exec (.mxcmd h a b cap) s = raises s 0x26 B) ∧
        (thSpec s.thr = false → ∃ u x, exec (.mxcmd h a b cap) s = .next u ∧
          u.thr = { (touchDie s (A / 16)).thr with r := s.thr.r.setH h (.pending x.id) } ∧
          x ∈ u.sch.ops ∧ x.k = .mxcmd clu cap j false ∧ x.th = s.cur ∧ (s.clock + Config.seamTime, Event.mxcmdAccept x.id) ∈ u.agenda)))) ∧
  (∀ (s : State) (h : BitVec 4) (a b c : BitVec 5) (tag : Option (BitVec 32)), s.getH h = .free →
    let B := (s.getS b).toNat
    let n := (s.getS c).toNat
    let dest := (s.getS a).toNat % 2 ^ 20
    let good : Prop := n % 8 = 0 ∧ 8 ≤ n ∧ n ≤ 256
    let sends := fun (t : State) (thr : Thread) => t.mem.poisoned (ownKey s B) n = false →
      ∃ u x m, exec (.msg h a b c tag) s = .next u ∧ u.thr = { thr with r := s.thr.r.setH h (.pending x.id) } ∧ x ∈ u.sch.ops ∧ x.th = s.cur ∧
        x.k = .msg dest m (thLaunch s.thr) ∧ m.len = n ∧ m.payload = t.mem.get (ownKey s B) n ∧ u.mem = t.mem ∧
        m.header = BitVec.ofNat 64 (((tag.map (fun x => x.toNat)).getD 0) * 2 ^ 32 + s.device % 256 * 2 ^ 24 + s.cur * 2 ^ 12 + n)
    (¬ good → exec (.msg h a b c tag) s = raises s 0x12 n) ∧
    (good → s.limit < B + n → exec (.msg h a b c tag) s = raises s 0x21 B) ∧
    (good → B + n ≤ s.limit → B % 8 ≠ 0 → exec (.msg h a b c tag) s = raises s 0x22 B) ∧
    (good → B % 8 = 0 → B + n ≤ s.limit → thSpec s.thr = true → exec (.msg h a b c tag) s = raises s 0x26 B) ∧
    (good → B % 8 = 0 → B + n ≤ s.limit → thSpec s.thr = false →
      (dest / 4096 = s.device → s.dieLost (dest % 4096 / 512) = false → s.ropeLost (dest % 4096 / 128) = false →
        sends (release s s.cur .mod) (touchDie s (dest % 4096 / 512)).thr) ∧
      (dest / 4096 ≠ s.device → s.portOf (dest / 4096) = none → exec (.msg h a b c tag) s = raises s 0x73 (dest / 4096)) ∧
      (dest / 4096 ≠ s.device → (s.portOf (dest / 4096)).isSome = true → MayRelease s .fab → sends (release s s.cur .fab) s.thr))) ∧
  (∀ (s : State) (d a : BitVec 5),
    let B := (s.getS a).toNat
    (s.limit < B + 256 → exec (.recv d a) s = raises s 0x21 B) ∧
    (B + 256 ≤ s.limit → B % 8 ≠ 0 → exec (.recv d a) s = raises s 0x22 B) ∧
    (B % 8 = 0 → B + 256 ≤ s.limit → s.thr.inbox = [] → exec (.recv d a) s = .next (block s .recv)) ∧
    (B % 8 = 0 → B + 256 ≤ s.limit → s.thr.q.depth = 0 → ∀ m r, s.thr.inbox = m :: r →
      let k := ownKey s B
      ∃ t, exec (.recv d a) s = .next t ∧ t.thr.inbox = r ∧ (d ≠ 0 → t.getS d = m.header) ∧ (∀ n, n ≠ d → t.getS n = s.getS n) ∧
        t.thr.r.v = s.thr.r.v ∧ t.thr.r.h = s.thr.r.h ∧ (∀ j, j < m.len → t.byte (k + j) = BitVec.ofNat 8 (m.payload / 256 ^ j)) ∧
        t.mem.allFull k m.len = true ∧ (∀ x, x < k ∨ k + m.len ≤ x → t.byte x = (drainAll s (thCore s.cur)).byte x)))

/-- R189, R430, R431, R447, R151, R239, R437, R489. That a report names a store still on its way is the model's reading (log 79), and so is
that a thread at `svc` takes a later condition after the reply (log 73). -/
def Obligations.RepliesAndLaterConditions : Prop :=
  (∀ (s : State) (th : Nat) (r : Reply) (d : BitVec 5), d ≠ 0 → (s.getT th).i.replies = [r] → r.dest = .s d → (s.getT th).i.rep = none →
    (s.core (thCore th)).parked = none → (r.acc = .ver ∨ ∃ n sg, r.acc = .load n sg) →
    replyDev s r.key = s.device ∨ hears s (replyDev s r.key) = some true → keyLost s r.key = none →
    let s0 := settleFor (s.focus th) r
    let lands := fun (v : Word) (t : State) => (t.getT th).i.replies = [] ∧ t.mem.cells = s0.mem.cells ∧
      (r.acc = .ver ∨ (∀ p ∈ (s.getT th).i.pend, p.reg ≠ .s d) → (t.getT th).r.getS d = v ∧ ∀ p ∈ (t.getT th).i.pend, p.reg ≠ .s d) ∧
      (r.acc ≠ .ver → ∀ p ∈ (s.getT th).i.pend, p.reg = .s d → (∀ q ∈ (s.getT th).i.pend, q.reg = .s d → q.ready ≤ p.ready) →
        ({ p with val := .s v } : Pend) ∈ (t.getT th).i.pend)
    (∀ n sg, r.acc = .load n sg →
      (s0.mem.poisoned r.key n = false → Answers (.loadReply th .ok) s (lands (extLoad n sg (s0.mem.get r.key n)))) ∧
      ∀ code x, Answers (.loadReply th (.failed code x)) s (fun t => (t.getT th).r = (s.getT th).r ∧ (t.getT th).i.replies = [] ∧
        (t.getT th).i.later = insLater r.sent { code := code, detail := x, flags := 4 } (s.getT th).i.later)) ∧
    (r.acc = .ver → s0.mem.poisoned r.key 16 = false →
      Answers (.tverReply th .ok) s (lands (BitVec.ofNat 64 (getBytes (s0.mem.get r.key 16) 12 4))))) ∧
  (∀ (s : State) (th : Nat),
    (∀ ks, (s.getT th).i.blocked = some (.sync ks) →
      ((∀ k ∈ ks, k ∉ s.mem.empty) → Answers (.syncLoadWake th) s (fun t => (t.getT th).i.blocked = none ∧ (t.getT th).r = (s.getT th).r)) ∧
      ((∃ k ∈ ks, k ∈ s.mem.empty) → exec (.syncLoadWake th) s = .next s)) ∧
    (∀ rid (code : BitVec 8) (x : StoreName), let c : Cond := { code := code, detail := x.addr, flags := 4 }
      let posted := ∃ y ∈ s.cores, y.2.posted.any (named rid x) = true
      (code ≠ 0x73 → ¬ posted → exec (.homeErrorReport rid code x) s = .next s) ∧
      (code = 0x73 ∨ posted →
        (s.holders.find? (fun n => thRid (s.getT n) == rid) = some th → Answers (.homeErrorReport rid code x) s (fun t =>
          (t.getT th).r = (s.getT th).r ∧ (t.getT th).i.later = insLater x.issued c (s.getT th).i.later)) ∧
        (∀ r, s.holders.find? (fun n => thRid (s.getT n) == rid) = none → r ∈ s.sch.recs → r.id = rid → Answers (.homeErrorReport rid code x) s (fun t =>
          ∃ y ∈ t.sch.recs, y.id = rid ∧ y.w = r.w ∧ y.later = insLater x.issued c r.later)))) ∧
    (∀ d (a : SvcAnswer), (s.getT th).i.blocked = some (.svc d) → Answers (.svcReply th a) s (fun t => (d ≠ 0 → (t.getT th).r.getS d = a.value) ∧
      (∀ n, n ≠ d → (t.getT th).r.getS n = (s.getT th).r.getS n) ∧ (t.getT th).pc = (s.getT th).pc + 8 ∧ (t.getT th).i.blocked = none ∧
      (a.writes = [] → t.mem = s.mem) ∧
      ∀ w, a.writes = [w] → w.len ≠ 0 → w.addr + w.len ≤ 2 ^ 43 → t.mem.get (spaceKey 1 w.addr) w.len = w.value % 256 ^ w.len)) ∧
    (∀ n0 c rest, (s.getT th).i.later = (n0, c) :: rest → (s.getT th).rcd.isSome = true → (s.getT th).i.replies = [] → (s.getT th).i.rep = none →
      (∀ l n m, (s.getT th).i.blocked ≠ some (.bar l n m)) → (∀ d, (s.getT th).i.blocked ≠ some (.svc d)) → (s.core (thCore th)).parked = none →
      canEnter ((s.modT th (fun x => { x with i := { x.i with later := rest } })).focus th) c (s.getT th).pc →
      Answers (.takeLaterCondition th) s (fun t => let y := t.getT th
        y.inHandler = true ∧ y.pc = (s.getT th).y.hand ∧ y.i.later = rest ∧ y.r.getS 1 = BitVec.ofNat 64 (c.flags.toNat * 256 + c.code.toNat) ∧
          y.r.getS 2 = (s.getT th).pc ∧ y.r.getS 3 = c.detail))) ∧
  (∀ (s : State) (core n : Nat) (r : Rec) (resume : Word), (s.core core).parked = some n → (s.core core).message = none → r.w.bound = some n → thCore n = core →
    (r.place = .rest → r.w.fullf = true → r.good = true → boundTo s core = [r] → cancelled s (thDie n) r = false →
      launchRuns s r.w.launch = true → Answers (.parkRelease core resume) s (fun t => (t.core core).parked = none ∧
        ∃ x ∈ t.sch.recs, x.id = r.id ∧ x.place = .granted n ∧ x.w.pc = resume ∧ x.w.runnable = true)) ∧
    (∀ num l, (s.core core).parkLaunch = some num → s.findLaunch num = some l → l.ends = false → s.sch.recs = [r] → r.place = .rest → r.w.launch = num →
      (∀ k ∈ s.holders, thLaunch (s.getT k) ≠ num) → frameless r = false →
      Answers (.parkAbort core) s (fun t => (t.core core).parked = none ∧ t.sch.recs = [] ∧ ∃ l', t.findLaunch num = some l' ∧ l'.phase = .ending 8)))

/-- R307, R448, R311, R45, R461, R463, R362. The model's own are the rights of the schedule's engine and the free core of a placement
(log 38), the detail of a piece's condition (log 29), and the times of Config (log 2). -/
def Obligations.CopiesBarriersAndGangs : Prop :=
  (∀ (s : State) (op i : Nat) (o : Op) (ps : List Piece) (value : Nat) (ss : Bool) (what : CopyFor) (p : Piece), s.findOp op = some o →
    o.k = .copy ps value ss what → ps[i]? = some p → p.st = .waiting → 1 ≤ p.len → p.joined = false → (∀ q, ps[i + 1]? = some q → q.joined = false) →
    let after := fun (st : PieceSt) (t : State) => ∃ y, t.findOp op = some y ∧ y.k = .copy (ps.set i { p with st := st }) value ss what
    (∀ c1 o1 c2 o2, s.MemOk → c1 < 128 → c2 < 128 → o1 + p.len ≤ 0x40000 → o2 + p.len ≤ 0x40000 → p.src.toNat = 0xFF01 * 2 ^ 48 + c1 * 0x400000 + o1 →
      p.dst = .addr (BitVec.ofNat 64 (0xFF01 * 2 ^ 48 + c2 * 0x400000 + o2)) → s.ropeLost (cluRope (o.clu / 16 * 16 + c1 / 8)) = false →
      s.ropeLost (cluRope (o.clu / 16 * 16 + c2 / 8)) = false → s.mem.poisoned (lsKey (o.clu / 16 * 128 + c1) o1) p.len = false →
      Answers (.copyPiece op ⟨i, .ok⟩) s (fun t => Moved s t (lsKey (o.clu / 16 * 128 + c1) o1) (lsKey (o.clu / 16 * 128 + c2) o2) p.len ∧
        t.mem.allFull (lsKey (o.clu / 16 * 128 + c2) o2) p.len = true ∧ after .done t)) ∧
    (∀ c, p.src.toNat / 2 ^ 56 = 0 → lookup s o.clu o.part p.src.toNat = .error (.cond c none) →
      Answers (.copyPiece op ⟨i, .ok⟩) s (fun t => t.mem = s.mem ∧ after (.failed (pieceCond p .src c)) t))) ∧
  (∀ (s : State) (op : Nat) (o : Op) (ps : List Piece) (value : Nat) (ss : Bool), s.findOp op = some o → o.k = .copy ps value ss .handle →
    ((∀ p ∈ ps, p.st = .done) → Answers (.copyDone op) s (fun t => OpEnds s t op o.rcd (.done (BitVec.ofNat 64 value) none (some o.scope) false))) ∧
    (∀ pre p post c, ps = pre ++ p :: post → (∀ q ∈ pre, q.st = .done) → p.st = .failed c → (∀ q ∈ post, q.st ≠ .waiting) →
      Answers (.copyDone op) s (fun t => OpEnds s t op o.rcd (.done (BitVec.ofNat 64 value) (some c) (some o.scope) false)))) ∧
  (∀ (s s1 : State) (num idx v : Nat) (l : Launch) (e : SchedSt) (pl : Placement) (ps : List Piece), s.findLaunch num = some l →
    l.sched.find? (fun x => x.idx == idx) = some e → l.place = some pl → (nextEntry l e.clu).map (fun x => x.idx) = some idx → l.phase = .running →
    schedRead s l idx = .ok (v, s1) → sePieces (asMember s1 l ((pl.threads.find? (fun n => thClu n == e.clu)).getD (e.clu * 32))) v = .ok ps →
    Answers (.schedEntry num idx) s (fun t => ∃ o ∈ t.sch.ops, o.k = .copy (joinPieces ps) 0 ((seFlags v).testBit 3) (.sched num idx (stagerOf l e.stage)) ∧ o.clu = e.clu ∧
      DueIn s1 Config.pieceTime (.copyPiece o.id ⟨0, .ok⟩) t)) ∧
  (∀ (s : State) (num level inst : Nat) (l : Launch) (b : BarInst), s.findLaunch num = some l → barFind l level inst = some b →
    let gone := fun (t : State) => ∀ l', t.findLaunch num = some l' → barFind l' level inst = none
    (barFull l level inst = true → ssPending s l b.arrived (arrivedThreads s num b) = false → (∀ n ∈ arrivedThreads s num b, waitsOut s n false = false) →
      (arrivedThreads s num b).Nodup → Answers (.barrierComplete num level inst) s (fun t => gone t ∧
        ∀ n ∈ arrivedThreads s num b, (t.getT n).pc = (s.getT n).pc + 8 ∧ (t.getT n).i.blocked = none ∧ (t.getT n).r = (s.getT n).r)) ∧
    (∀ n c, arrivedThreads s num b = [n] → (s.getT n).rcd.isSome = true →
      canEnter (((s.modLaunch num (fun x => dropBar x level inst)).modT n (fun x => { x with i := { x.i with blocked := none } })).focus n) c (s.getT n).pc →
      let taken := fun (t : State) => gone t ∧ (t.getT n).inHandler = true ∧ (t.getT n).pc = (s.getT n).y.hand ∧
        (t.getT n).r.getS 1 = BitVec.ofNat 64 c.code.toNat ∧ (t.getT n).r.getS 2 = (s.getT n).pc ∧ (t.getT n).r.getS 3 = c.detail
      (b.since + 2 ^ 32 ≤ s.count → c = mkCond 0x53 (b.arrived.length * 65536 + level) → Answers (.barrierWatchdog num level inst) s taken) ∧
      (c = mkCond 0x51 level → Answers (.barrierNetworkFault num level inst) s taken))) ∧
  (∀ (s : State) (num : Nat) (l : Launch), s.findLaunch num = some l →
    (∀ p n f, l.phase = .placing → admitWaits s l = false →
      (positions l).findSome? (fitsNow s l (fun c => coreOpen s c && !keptForOther s num c) (gangThread s num)) = some p → l.shape.size = 1 → p.threads = [n] →
      (∀ r ∈ s.sch.recs, r.w.launch ≠ num) → l.freeFrame = some f → (classWeight (gangImage s l p) l 0).2 = [] →
      Answers (.gangPlace num) s (fun t => (t.getT n).pc = l.entry ∧
        ∃ r, (t.getT n).rcd = some r ∧ r.w.gang = true ∧ r.w.launch = num ∧ r.w.pc = l.entry ∧ r.w.frame = l.frameAddr f)) ∧
    (∀ p, l.phase = .placing → l.since + 2 ^ 20 ≤ s.count → (positions l).findSome? (fitsNow s l (fun c => !(s.core c).lost) (fun _ => true)) = some p →
      Answers (.gangReserve num) s (fun t => (∃ l', t.findLaunch num = some l' ∧ l'.phase = .reserved ∧ l'.place = some p) ∧
        DueIn s Config.grantTime (.gangPlace num) t)))

/-- R313, R315, R316, R319 to R321, R323, R324, R382. That a job reads and writes at its start is the model's reading (log 45), and that
`mxrot` ends exactly 32 cycles after its latch has come its choice (log 92). -/
def Obligations.MatrixEngineSteps : Prop :=
  (∀ (s : State) (clu : Nat) (j : MxJob) (r : List MxJob), (s.clu clu).jobs = j :: r → (s.clu clu).running = false → (s.clu clu).filler ≤ s.effOf clu → s.MemOk → s.mem.poisoned (jobKey clu j.idx) 16 = false →
    let runs := fun (n : Nat) (p : State → Prop) => Answers (.mxeJobStart clu) s (fun t => (t.clu clu).running = true ∧ (t.clu clu).jobs = j :: r ∧
      (t.clu clu).due = s.effOf clu + n ∧ DueIn s ((s.clu clu).cyclesFor s.clock n) (.mxeJobDone clu) t ∧ p t)
    (∀ off, j.what = .ld off → s.mem.poisoned (wbKey clu off) 0x8000 = false →
      runs 32 (fun t => Moved s t (wbKey clu off) (latchKey clu 0) 0x8000 ∧ (t.clu clu).full = true)) ∧
    (∀ tile, j.what = .clr tile → runs 16 (fun t => ∀ x, t.byte x =
      if acbKey clu (tile * 0x10000) ≤ x ∧ x < acbKey clu (tile * 0x10000) + 0x10000 then 0 else s.byte x)) ∧
    (∀ a m n, j.what = .metaCopy a m n → s.mem.poisoned (abKey clu a) n = false → runs (max 1 (n / 64)) (fun t => Moved s t (abKey clu a) (mdmKey clu m) n)) ∧
    (∀ dst tile row cnt ctl ds, j.what = .rd dst tile row cnt ctl true ds → s.mem.poisoned (acbKey clu (tile * 0x10000 + row * 512)) ((cnt + 1) * 512) = false →
      runs (cnt + 9) (fun t => Moved s t (acbKey clu (tile * 0x10000 + row * 512)) dst ((cnt + 1) * 512) ∧ t.mem.allFull dst ((cnt + 1) * 512) = true)) ∧
    (∀ a tile f, j.what = .mm a tile f → (s.clu clu).full = true → f ≤ 6 → s.mem.poisoned (latchKey clu 0) 0x8000 = false →
      s.mem.poisoned (abKey clu a) 0x8000 = false → runs 128 (fun t =>
        let raw := s.mem.get (abKey clu a) 0x8000
        let b := s.mem.get (latchKey clu 0) 0x8000
        let acc := fun (y : Nat) (x : Nat) => acbKey clu (tile * 0x10000 + (y * 128 + x) * 4)
        (∀ y x, y < 128 → x < 128 → t.mem.get (acc y x) 4 = mac f (s.mem.get (acc y x) 4) (rowA raw 256 f (if f ≤ 1 then 128 else 256) y) (colB b f x) % 2 ^ 32) ∧
        ∀ k, k < acbKey clu (tile * 0x10000) ∨ acbKey clu (tile * 0x10000) + 0x10000 ≤ k → t.byte k = s.byte k)) ∧
    (∀ a tile f o, j.what = .mm a tile f → (s.clu clu).full = false → j.remote = false → s.findOp j.op = some o → Answers (.mxeJobStart clu) s (fun t =>
      (t.clu clu).jobs = r ∧ (s.holders.any (fun n => thRid (s.getT n) == o.rcd) = true → t.mem = s.mem) ∧ OpEnds s t j.op o.rcd (.done (BitVec.ofNat 64 j.idx) (some (mkCond 0x61 j.idx)) (some o.scope) false)))) ∧
  (∀ (s : State) (clu : Nat) (j : MxJob) (r : List MxJob), (s.clu clu).jobs = j :: r → (s.clu clu).running = true →
    (∀ o, s.findOp j.op = some o → j.what ≠ .rot ∨ (s.clu clu).rcvd = true → (s.clu clu).due ≤ s.effOf clu → Answers (.mxeJobDone clu) s (fun t => (t.clu clu).jobs = r ∧ (t.clu clu).running = false ∧
      OpEnds s t j.op o.rcd (.done (BitVec.ofNat 64 j.idx) none (some o.scope) false))) ∧
    (clu < 128 → j.what = .rot → (s.clu clu).sent = true → (s.clu clu).rcvd = false → (s.clu clu).incoming = true → s.MemOk → Answers (.latchArrive clu) s (fun t =>
      (t.clu clu).full = (s.clu clu).inFull ∧ (t.clu clu).rcvd = true ∧ (∀ i, i < 0x8000 → t.byte (latchKey clu i) = s.byte (latchInKey clu i)) ∧
        (t.clu clu).due = s.effOf clu + 32 ∧ DueIn s ((s.clu clu).cyclesFor s.clock 32) (.mxeJobDone clu) t))) ∧
  (∀ (s : State) (clu : Nat), (s.clu clu).jobs = [] → (s.clu clu).filler ≤ s.effOf clu → (s.clu clu).kept s.clock = true →
    (s.reg0 (ropeOff (clu / 4) + 0x20)).getLsbD 3 = true → (s.reg0 (ropeOff (clu / 4) + 0x20)).toNat % 4 = clu % 4 →
    Answers (.fillerBurst clu) s (fun t => (t.clu clu).filler = s.effOf clu + 128 ∧ t.mem = s.mem ∧ t.thr = s.thr)) ∧
  (∀ (s : State) (id : Nat) (o : Op) (clu : Nat) (cap : BitVec 32) (job j : MxOp), s.findOp id = some o → o.k = .mxcmd clu cap job false →
    s.ropeLost (cluRope clu) = false →
    (capOk s clu cap = true → (s.clu clu).jobs.length < 32 → queueWaits s clu = [] → remoteChk clu job = .ok j → Answers (.mxcmdAccept id) s (fun t => ∃ y : MxJob,
      (t.clu clu).jobs = (s.clu clu).jobs ++ [y] ∧ y.what = j ∧ y.op = id ∧ y.remote = true ∧ y.part = cap.toNat / 2 ^ 26)) ∧
    (capOk s clu cap = true → 32 ≤ (s.clu clu).jobs.length → Answers (.mxcmdAccept id) s (fun t => (t.clu clu).jobs = (s.clu clu).jobs ∧
      (t.clu clu).waitingCmds = (s.clu clu).waitingCmds ++ [id] ∧ ∃ y, t.findOp id = some y ∧ y.k = .mxcmd clu cap job true)) ∧
    (capOk s clu cap = false → Answers (.mxcmdAccept id) s (fun t => (t.clu clu).jobs = (s.clu clu).jobs ∧
      OpEnds s t id o.rcd (.done 0 (some (mkCond 0x64 cap.toNat)) (some o.scope) false)))) ∧
  (∀ (s : State) (id : Nat) (o : Op) (dest : Nat) (m : Msg) (num : Nat), s.findOp id = some o → o.k = .msg dest m num → msgBefore s o dest = false →
    let ends := fun (v : Nat) (c : Option Cond) (t : State) => OpEnds s t id o.rcd (.done (BitVec.ofNat 64 v) c (some o.scope) false)
    (dest / 4096 = s.device → s.ropeLost (dest % 4096 / 128) = false → ∀ ans,
      ((s.getT (dest % 4096)).rcd.isSome = true → thLaunch (s.getT (dest % 4096)) = num → (s.getT (dest % 4096)).inbox.length < 4 →
        Answers (.msgDeliver ⟨id, ans⟩) s (fun t => (t.getT (dest % 4096)).inbox = (s.getT (dest % 4096)).inbox ++ [m] ∧ ends m.len none t)) ∧
      ((s.getT (dest % 4096)).rcd = none → Answers (.msgDeliver ⟨id, ans⟩) s (ends 0 (some (mkCond 0x55 dest))))) ∧
    (∀ p, dest / 4096 ≠ s.device → s.portOf (dest / 4096) (flitsOf m.len) = some (p, false) → Answers (.msgDeliver ⟨id, .ok⟩) s (ends m.len none) ∧
      ∀ code x, Answers (.msgDeliver ⟨id, .failed code x⟩) s (ends 0 (some { code := code, detail := x, flags := 0 }))))

/-- R64, R66, R69, R454, R455, R38, R67, R103. The times `Config.commitTime` are the model's (log 2). -/
def Obligations.HomesAndCancels : Prop :=
  (∀ (s : State) (id : Nat) (o : Op) (launch task att : Nat) (base : BitVec 32) (desc : Word) (dkey dma own size data : Nat) (pc : Word) (ks : List (Route × Nat × Nat)),
    s.findOp id = some o → o.k = .commit launch task att base desc dkey size data pc none → s.MemOk → descRoute s o.part desc dkey = .l3 dma own → HeldL3 s dma 16 →
    keyLost s dkey = none → s.mem.poisoned dkey 16 = false → descOk (s.mem.get dkey 16) = true → descSize (s.mem.get dkey 16) = size →
    tilePlaces s o.part s.device desc.toNat (descBase (s.mem.get dkey 16)) true (tilePieces (descBase (s.mem.get dkey 16)) size) = .ok ks → HeldPlaces s ks →
    let ver := descVer (s.mem.get dkey 16)
    let next := (base.toNat + 1) % 2 ^ 32
    let answered := fun (a : CommitAns) (t : State) => DueIn s Config.commitTime (.commitReply id) t ∧
      ∃ y, t.findOp id = some y ∧ y.k = .commit launch task att base desc dkey size data pc (some a)
    (ver = base.toNat → ((dkey, 16) :: ks.map (fun p => p.2)).Pairwise (fun x y => x.1 + x.2 ≤ y.1 ∨ y.1 + y.2 ≤ x.1) →
      Answers (.commitAtHome id) s (fun t => answered .won t ∧ t.mem.get (dkey + 12) 4 = next ∧ t.mem.get (dkey + 10) 2 = att % 65536 ∧
        (∀ pre p post, ks = pre ++ p :: post → ∀ i, i < p.2.2 → t.byte (p.2.1 + i) = BitVec.ofNat 8 (data / 256 ^ ((pre.map (fun q => q.2.2)).sum + i))) ∧
        ∀ x, (∀ p ∈ ks, x < p.2.1 ∨ p.2.1 + p.2.2 ≤ x) → (x < dkey + 10 ∨ dkey + 16 ≤ x) → t.byte x = s.byte x)) ∧
    (ver ≠ base.toNat → ver = next → descAtt (s.mem.get dkey 16) = att → Answers (.commitAtHome id) s (fun t => answered .won t ∧ t.mem = s.mem)) ∧
    (ver ≠ base.toNat → ver ≠ next ∨ descAtt (s.mem.get dkey 16) ≠ att → Answers (.commitAtHome id) s (fun t => answered .lost t ∧ t.mem = s.mem))) ∧
  (∀ (s : State) (id : Nat) (o : Op) (launch task att : Nat) (base : BitVec 32) (desc : Word) (dkey size data : Nat) (pc : Word) (a : CommitAns) (r : Rec) (h : Fin 16),
    s.findOp id = some o → o.k = .commit launch task att base desc dkey size data pc (some a) → hearsKey s dkey = .go → (∀ n ∈ s.holders, thRid (s.getT n) ≠ o.rcd) →
    s.sch.recs.find? (fun x => x.id == o.rcd) = some r → r.place = .rest → r.handles.get h = .pending id →
    (a = .won → Answers (.commitReply id) s (fun t => ∃ x ∈ t.sch.recs, x.id = r.id ∧ x.handles.get h = .done 1 none (some o.scope) true)) ∧
    (a = .lost → Answers (.commitReply id) s (fun t => ∀ x ∈ t.sch.recs, x.id ≠ r.id)) ∧
    (∀ c, a = .err c → Answers (.commitReply id) s (fun t => ∃ x ∈ t.sch.recs, x.id = r.id ∧ x.handles.get h = .free ∧
      x.owed = r.owed ++ [({ c with flags := c.flags ||| 2 }, pc)]))) ∧
  (∀ (s : State) (id : Nat) (o : Op) (desc : Word) (dkey dma own : Nat) (ver : BitVec 32) (d : BitVec 5) (dst size since : Nat) (home : Bool), s.findOp id = some o →
    o.k = .tread desc dkey ver d dst size since home none → descRoute s o.part desc dkey = .l3 dma own → HeldL3 s dma 16 →
    let v := s.mem.get dkey 16
    (keyLost s dkey = none → s.mem.poisoned dkey 16 = false →
      (descVer v < ver.toNat → home = false → Answers (.treadAtHome id) s (fun t => DueIn s (2 ^ 32) (.treadWatchdog id) t ∧
        ∃ y, t.findOp id = some y ∧ y.k = .tread desc dkey ver d dst size s.count true none)) ∧
      (∀ ks x s2, ver.toNat ≤ descVer v → tilePlaces s o.part s.device desc.toNat (descBase v) false (tilePieces (descBase v) size) = .ok ks →
        engRead 0 ks s = .ok (x, s2) → Answers (.treadAtHome id) s (fun t => DueIn s Config.commitTime (.treadReply id) t ∧
          ∃ y c, t.findOp id = some y ∧ y.k = .tread desc dkey ver d dst size c true (some (descVer v, x))))) ∧
    (home = true → since + 2 ^ 32 ≤ s.count → Answers (.treadWatchdog id) s (fun t =>
      OpEnds s t id o.rcd (.done (BitVec.ofNat 64 (descVer v)) (some (mkCond 0x33 desc.toNat)) (some o.scope) false)))) ∧
  (∀ (s : State) (id : Nat) (o : Op) (desc : Word) (dkey : Nat) (ver : BitVec 32) (d : BitVec 5) (dst size since v bytes : Nat) (home : Bool), s.findOp id = some o →
    o.k = .tread desc dkey ver d dst size since home (some (v, bytes)) → hearsKey s dkey = .go → Answers (.treadReply id) s (fun t =>
      OpEnds s t id o.rcd (.done (BitVec.ofNat 64 v) none (some o.scope) false) ∧
      (s.holders.any (fun n => thRid (s.getT n) == o.rcd) = true →
        (∀ i, i < size → t.byte (dst + i) = BitVec.ofNat 8 (bytes / 256 ^ i)) ∧ (∀ x, x < dst ∨ dst + size ≤ x → t.byte x = s.byte x) ∧
          t.mem.allFull dst size = true) ∧
      ∀ n, d ≠ 0 → s.holders.find? (fun k => thRid (s.getT k) == o.rcd) = some n → (d, id) ∈ (s.getT n).i.ilock →
        (t.getT n).r.getS d = BitVec.ofNat 64 v ∧ ∀ x, (d, x) ∉ (t.getT n).i.ilock)) ∧
  (∀ (s : State) (die num task exempt : Nat) (tag : Word), s.plat.feHeld = false →
    (∀ l, s.findLaunch num = some l → Answers (.cancelDelivery num task exempt) s (fun t =>
      ∀ k, k < 8 → { die := k, launch := num, task := task, exempt := some exempt, tag := none } ∈ t.sch.filters)) ∧
    Answers (.lineageCancel die num task tag) s (fun t => { die := die, launch := num, task := task, exempt := none, tag := some tag } ∈ t.sch.filters))

/-- R34, R367, R366, R50, R364, R96 to R100. That a record's inputs are copied before a free thread picks it up is the model's reading
(log 25); the times of Config are its own (log 2). -/
def Obligations.DispensersAndTheft : Prop :=
  (∀ (s : State) (th : Nat) (r : Rec) (l : Launch), (s.getT th).rcd = none → coreOpen s (thCore th) = true →
    nextFor s th = some r → s.findLaunch r.w.launch = some l → cancelled s (thDie th) r = false → r.good = true → r.fresh = true → r.base.isSome = true → creationBad r = none →
    Answers (.pickup th) s (fun t => (t.getT th).pc = r.w.pc ∧ (∀ n, (t.getT th).r.getS n = 0) ∧ (∀ x ∈ t.sch.recs, x.id ≠ r.id) ∧
      ∃ x, (t.getT th).rcd = some x ∧ x.id = r.id ∧ x.w.running = true ∧ x.w.task = r.w.task)) ∧
  (∀ (s : State) (die : Nat), s.dieState die = 1 →
    (∀ r rest p, candidates s die = .rcd r :: rest → r ∈ s.sch.recs → cancelled s die r = false → r.w.fullf = false →
      chooseSpot s die r.w.part r.w.pweight r.barred = some p → Answers (.grantRecord die) s (fun t =>
        ∃ x ∈ t.sch.recs, x.id = r.id ∧ x.place = spotPlace p ∧ x.w.runnable = (inlistOf s r == 0) ∧ GrantDue s t x p)) ∧
    (∀ l i rest f d s1 p, candidates s die = .idx l i :: rest → l ∈ s.sch.launches → l.freeFrame = some f → readTask s l die i = some (d, s1) →
      chooseSpot s1 die l.part d.pweight none = some p → Answers (.grantRecord die) s (fun t =>
        ∃ x ∈ t.sch.recs, x.w.launch = l.num ∧ x.w.task = i ∧ x.w.pc = l.entry ∧ x.good = true ∧ x.place = spotPlace p ∧ GrantDue s t x p))) ∧
  (∀ (s : State) (core n idx : Nat) (r : Rec) (l : Launch), coreOpen s core = true → unfilled s core = some r → r.place = .slot core idx →
    ((List.range 4).map (fun j => core * 4 + j)).find? (threadFree s) = some n → s.findLaunch r.w.launch = some l → Answers (.shadowFill core) s (fun t =>
      (∃ x ∈ t.sch.recs, x.id = r.id ∧ x.region = some n) ∨ DueIn s Config.fabricTime (.shadowFill core) t)) ∧
  (∀ (s : State) (core idx : Nat) (o : Op) (ps : List Piece) (value : Nat) (ss : Bool) (r : Rec), o.k = .copy ps value ss (.prefetch core idx) →
    (∀ p ∈ ps, p.st = .done) → s.sch.ops = [o] → r ∈ s.sch.recs → s.sch.recs.find? (fun x => x.id == o.rcd) = some r →
    Answers (.prefetchDone core idx) s (fun t => t.sch.ops = [] ∧ ∃ x ∈ t.sch.recs, x.id = r.id ∧ x.w.runnable = true ∧ x.owed = r.owed)) ∧
  (∀ (s : State) (rid die : Nat) (r : Rec), s.sch.recs.find? (fun x => x.id == rid) = some r → r.place = .queue die → r.w.runnable = true →
    r.since + 2 ^ 20 * (r.raised + 1) ≤ s.count → (Cand.rcd r).prio s < 7 → Answers (.priorityAging rid) s (fun t =>
      ∃ x, t.sch.recs.find? (fun x => x.id == rid) = some x ∧ x.raised = r.raised + 1)) ∧
  (∀ (s : State) (die victim num : Nat) (l : Launch), s.findLaunch num = some l →
    (2 ≤ indexCount l victim → l.phase = .running → s.dieState victim = 1 → s.dieState die = 1 → Answers (.rangeStealRequest die victim num) s (fun t =>
      ∃ l', t.findLaunch num = some l' ∧ indexCount l' victim = (indexCount l victim + 1) / 2 ∧ ∃ lo hi, DueIn s Config.seamTime (.rangeStealAnswer die num lo hi) t)) ∧
    (∀ lo hi, l.ends = false →
      (s.dieLost die = false → Answers (.rangeStealAnswer die num lo hi) s (fun t => (∃ l', t.findLaunch num = some l' ∧ l'.ranges = l.ranges ++ [(die, lo, hi)]) ∧
        DueIn s Config.grantTime (.grantRecord die) t)) ∧
      (s.dieLost die = true → Answers (.rangeStealAnswer die num lo hi) s (fun t => ∃ l', t.findLaunch num = some l' ∧
        l'.ranges = l.ranges ++ rangesOf s l.part (hi - lo) lo)))) ∧
  (∀ (s : State) (th v a : Nat) (vr : Rec) (l : Launch), seeks s th = true → (s.getT v).rcd = some vr → s.findLaunch vr.w.launch = some l →
    thiefNumber l (thDie th) vr.w.task = some a →
    ((scanOrder th).find? (victimOk s th) = some v → Answers (.idleScan th) s (DueIn s Config.scanTime (.theft th v))) ∧
    (∀ off f i r1 s1 e u, victimOk s th v = true → (s.core (thCore v)).buf = [] → holdable (s.getT v) = true → th ≠ v →
      s.sch.ops.any (opHits s (arenaKeys s v).1 (arenaKeys s v).2) = false → stealable s v = some (off, f, i) →
      thiefRec s th l vr a v f = some (r1, s1) →
      entryOf ((s1.setT th { s1.getT th with rcd := some r1, y := { (s1.getT th).y with win := SysRegs.reset.win } }).focus th) (fTable f) i = .ok (e, u) →
      s.mem.poisoned (arenaKeys s v).1 ((arenaKeys s v).2 - (arenaKeys s v).1) = false → Answers (.theft th v) s (fun t =>
        (t.getT th).pc = BitVec.ofNat 64 (fTryPc f) + 8 * e ∧ (t.getT th).y.alt = BitVec.ofNat 64 i ∧ (t.getT v).i.hold = false ∧
        ∃ x, (t.getT th).rcd = some x ∧ x.w.thief = true ∧ x.w.attempt = a ∧ x.w.task = vr.w.task ∧ x.lineage = fTag f))) ∧
  (∀ (s : State) (die num task : Nat) (l : Launch), s.findLaunch num = some l →
    (tileDev s l task = s.device → blockOf s num task < 1023 → Answers (.thiefBlockRequest die num task) s (fun t => blockOf t num task = blockOf s num task + 1 ∧
      (die < 8 → DueIn s Config.seamTime (.thiefBlockGrant die num task (blockOf s num task)) t))) ∧
    (∀ b, b < 1023 → Answers (.thiefBlockGrant die num task b) s (fun t => ∃ l', t.findLaunch num = some l' ∧
      ({ die := die, task := task, lo := 0x8001 + 32 * b, hi := 0x8021 + 32 * b, asked := false } : ThiefNums) ∈ l'.thieves ∧
        blockAsked l' die task = false)))

/-- R75 to R81, R358, R481. That the origin counts a backup as away from its grant on is the model's reading (log 36), on which module it
is counted its choice (log 93). -/
def Obligations.HedgingSteps : Prop :=
  (∀ (s : State) (die n : Nat) (r : Rec) (l : Launch), s.count % 4096 = 0 → countStops s.bivState = false → s.dieState die = 1 ∨ s.dieState die = 2 →
    holdersOn s die (fun _ => true) = [n] → (s.getT n).rcd = some r → s.findLaunch r.w.launch = some l → l.ends = false → l.isMirror = false →
    straggler s die l (s.getT n) r = true →
    let tested := fun (t : State) => ∃ x, (t.getT n).rcd = some x ∧ x.tested = true
    let counted := addReg (markTested s n) (liveOff l.part) 1
    (budgetOk s l r.w.task = false → Answers (.stragglerTest die) s (fun t => tested t ∧ t.reg0 (deniedOff l.part) = s.reg0 (deniedOff l.part) + 1)) ∧
    (∀ a f s1 l1, budgetOk s l r.w.task = true → tileDev (markTested s n) l r.w.task = s.device →
      takeNumber counted l.num r.w.task = some (a, s1) → s1.findLaunch l.num = some l1 → fld (classWord s1 l1 r.w.cls) 59 58 = 0 → l1.freeFrame = some f →
      Answers (.stragglerTest die) s (fun t => tested t ∧
        t.reg0 (liveOff l.part) = s.reg0 (liveOff l.part) + 1 ∧ ∃ x ∈ t.sch.recs, x.w.backup = true ∧ x.w.task = r.w.task ∧ x.w.launch = l.num ∧
          x.w.attempt = (l.task r.w.task).nextAttempt ∧ x.base = r.base ∧ x.barred = some (thCore n) ∧ x.place = .queue die))) ∧
  (∀ (s : State) (num : Nat) (l : Launch), s.findLaunch num = some l →
    (∀ dev task att, l.isMirror = false → l.ends = false →
      (∀ a s2, budgetOk s l task = true → att < 0x8000 → tileDev s l task = s.device → takeNumber (addReg s (liveOff l.part) 1) num task = some (a, s2) →
        Answers (.hedgeBudgetRequest dev num task att) s (fun t => t.reg0 (liveOff l.part) = s.reg0 (liveOff l.part) + 1 ∧
          t.sch.away = s.sch.away ++ [{ launch := num, key := l.key, part := l.part, task := task, attempt := a, dev := awayDev s2 l task dev }])) ∧
      (budgetOk s l task = false → Answers (.hedgeBudgetRequest dev num task att) s (fun t => t.reg0 (deniedOff l.part) = s.reg0 (deniedOff l.part) + 1 ∧
        t.sch = s.sch))) ∧
    (∀ (w : Want) (number f : Nat), l.isMirror = false → w.backup = true → w.die < 8 →
      s.sch.wants.find? (fun x => x.launch == num && x.task == w.task && x.attempt == w.attempt) = some w →
      let erased := s.modSch (fun c => { c with wants := c.wants.erase w })
      (fld (classWord erased l w.cls) 59 58 = 0 → l.freeFrame = some f → Answers (.hedgeBudgetAnswer num w.task w.attempt (some number)) s (fun t =>
        t.sch.wants = s.sch.wants.erase w ∧
        ∃ x ∈ t.sch.recs, x.w.backup = true ∧ x.w.task = w.task ∧ x.w.attempt = number ∧ x.base = w.base ∧ x.barred = some w.core ∧ x.place = .queue w.die)) ∧
      Answers (.hedgeBudgetAnswer num w.task w.attempt none) s (fun t => t.sch.wants = s.sch.wants.erase w ∧ t.sch.recs = s.sch.recs ∧
        t.reg0 (liveOff l.part) = s.reg0 (liveOff l.part) - 1 ∧ t.reg0 (deniedOff l.part) = s.reg0 (deniedOff l.part) + 1)) ∧
    (∀ (task att d f : Nat) (base : BitVec 32) (x : Desc0) (s1 : State), l.isGang = false → l.ends = false → admitWaits s l = false → freestDie s l.part none = some d →
      readTask s l d task = some (x, s1) → l.freeFrame = some f → Answers (.backupOffer num task att base) s (fun t =>
        ∃ y ∈ t.sch.recs, y.w.backup = true ∧ y.w.task = task ∧ y.w.attempt = att ∧ y.base = some base ∧ y.place = .queue d)) ∧
    (∀ (task att dev : Nat) (base : BitVec 32) (devs : List Nat), s.sch.offers = [{ launch := num, task := task, attempt := att, base := base, devs := dev :: devs }] →
      Answers (.backupOfferAnswer num task att true) s (fun t => t.sch.offers = [] ∧
        t.sch.away = s.sch.away ++ [{ launch := num, key := l.key, part := l.part, task := task, attempt := att, dev := dev }]) ∧
      (devs = [] → l.isMirror = false → Answers (.backupOfferAnswer num task att false) s (fun t => t.sch.offers = [] ∧ t.sch.away = s.sch.away ∧
        t.reg0 (liveOff l.part) = s.reg0 (liveOff l.part) - 1 ∧ t.reg0 (deniedOff l.part) = s.reg0 (deniedOff l.part) + 1)) ∧
      (∀ d rest, devs.filter (fun x => (s.portOf x).isSome) = d :: rest → Answers (.backupOfferAnswer num task att false) s (fun t =>
        t.sch.offers = [{ launch := num, task := task, attempt := att, base := base, devs := d :: rest }] ∧ t.sch.away = s.sch.away ∧
          t.reg0 (liveOff l.part) = s.reg0 (liveOff l.part)))) ∧
    (∀ status, l.isMirror = true → l.ends = false → (∀ r ∈ s.sch.recs, r.w.launch ≠ num) → (∀ k ∈ s.holders, thLaunch (s.getT k) ≠ num) →
      Answers (.endNotice num status) s (fun t => ∃ l', t.findLaunch num = some l' ∧ l'.phase = .ending (if status = 0 then 0 else 7) ∧ l'.ranges = []))) ∧
  (∀ (s : State) (num cycles : Nat) (a : Away), s.sch.away = [a] → a.launch = num →
    let mirror := (s.findLaunch num).any (fun l => l.isMirror && l.key == a.key)
    (mirror = false → Answers (.backupEndCharge ⟨num, a.task, a.attempt⟩ cycles) s (fun t => t.sch.away = [] ∧ t.reg0 (liveOff a.part) = s.reg0 (liveOff a.part) - 1 ∧
      t.reg0 (dupOff a.part) = s.reg0 (dupOff a.part) + BitVec.ofNat 64 cycles ∧ t.reg0 (issOff a.part) = s.reg0 (issOff a.part) + BitVec.ofNat 64 cycles)) ∧
    (mirror = true → Answers (.backupEndCharge ⟨num, a.task, a.attempt⟩ cycles) s (fun t => t.sch.away = [] ∧ t.plat = s.plat)) ∧
    (s.portOf a.dev = none → mirror = false → (∀ g, goneSince s a.dev = some g → g + unreachTime ≤ s.clock) →
      Answers (.backupUnreachable ⟨num, a.task, a.attempt⟩) s (fun t => t.sch.away = [] ∧ t.reg0 (liveOff a.part) = s.reg0 (liveOff a.part) - 1)) ∧
    (∀ g, s.portOf a.dev = none → goneSince s a.dev = some g → s.clock < g + unreachTime → Answers (.backupUnreachable ⟨num, a.task, a.attempt⟩) s (fun t =>
      t.sch = s.sch ∧ DueIn s (g + unreachTime - s.clock) (.backupUnreachable ⟨num, a.task, a.attempt⟩) t))) ∧
  (∀ (s : State) (p : Nat), p < 64 → s.count % 2 ^ 30 = 0 → countStops s.bivState = false → Answers .hedgeDecay s (fun t =>
    t.reg0 (issOff p) = s.reg0 (issOff p) >>> 1 ∧ t.reg0 (dupOff p) = s.reg0 (dupOff p) >>> 1 ∧ DueIn s (2 ^ 30) .hedgeDecay t))

/-- R352 to R371. That a write of PART_CLU takes effect whatever it leaves a partition with is the model's choice (log 64); a HEAD equal
to the present one releases nothing (log 84); the times of Config are its own (log 2). -/
def Obligations.FrontEndSteps : Prop :=
  (∀ (s : State) (q : Nat) (tail head : BitVec 16) (v : Word),
    let x := s.queue q
    let n := 2 ^ ((sqCfg s q).toNat / 2 ^ 12 % 16)
    let m := 2 ^ ((cqCfg s q).toNat / 2 ^ 12 % 16)
    ((x.sqTail + n - x.sqHead % n) % n ≤ (tail.toNat % n + n - x.sqHead % n) % n →
      Answers (.sqDbWrite q tail) s (fun t => t.queue q = { x with sqTail := tail.toNat % n } ∧ DueIn s Config.grantTime (.admitLaunch q) t)) ∧
    ((tail.toNat % n + n - x.sqHead % n) % n < (x.sqTail + n - x.sqHead % n) % n →
      Answers (.sqDbWrite q tail) s (fun t => t.sch = s.sch ∧ ∃ msg, t.plat.mail = s.plat.mail ++ [(8, msg)] ∧ msg % 256 = 0x75)) ∧
    Answers (.cqDbWrite q head) s (fun t => t.queue q = { x with cqHead := head.toNat % m, unread := x.unread - (head.toNat % m + m - x.cqHead % m) % m }) ∧
    ((sqCfg s q).getLsbD 16 = false → Answers (.sqCfgWrite q v) s (fun t => sqCfg t q = v &&& 0x1F73F)) ∧
    ((sqCfg s q).getLsbD 16 = true → Answers (.sqCfgWrite q v) s (fun t => (sqCfg t q).getLsbD 16 = v.getLsbD 16 ∧
      ∀ i, i < 64 → i ≠ 16 → (sqCfg t q).getLsbD i = (sqCfg s q).getLsbD i)) ∧
    ((cqCfg s q).getLsbD 16 = false → Answers (.cqCfgWrite q v) s (fun t => cqCfg t q = v &&& 0x1F000)) ∧
    ((cqCfg s q).getLsbD 16 = true → Answers (.cqCfgWrite q v) s (fun t => (cqCfg t q).getLsbD 16 = v.getLsbD 16 ∧
      ∀ i, i < 64 → i ≠ 16 → (cqCfg t q).getLsbD i = (cqCfg s q).getLsbD i))) ∧
  (∀ (s : State) (q n : Nat), feRuns s = true → nextQueue s = some n →
    let x := s.queue n
    let head := (x.sqHead + 1) % 2 ^ ((sqCfg s n).toNat / 2 ^ 12 % 16)
    let l := newLaunch s n (headAddr s n) head (s.mem.get (spaceKey 1 (headAddr s n)) 128)
    let taken := s.setQueue n { x with sqHead := head }
    let st := admitStatus taken l
    (recordBad taken l = true ∨ tablesWait taken l = false) →
    (st ≠ 0 → Answers (.admitLaunch q) s (fun t => t.sch.launches = s.sch.launches ∧ (t.queue n).sqHead = head ∧
      (t.queue n).waiting = x.waiting ++ [entry l 2 st 0 0 0])) ∧
    (st = 0 → Answers (.admitLaunch q) s (fun t => ∃ y, t.sch.launches = s.sch.launches ++ [y] ∧ y.num = l.num ∧ y.l = l.l ∧ y.key < 65536 ∧ (t.queue n).sqHead = head ∧
      (t.queue n).waiting = x.waiting ++ [entry y 0 0 (y.num * 65536 + y.key) 0 0]))) ∧
  (∀ (s s1 : State) (num n : Nat) (l : Launch), s.findLaunch num = some l → l.phase = .admitted → admitWaits s l = false →
    vmRead s 0 l.part l.l[2].toNat 4 = .ok (n, s1) → Answers (.launchDispatch num) s (fun t => ∃ y, t.findLaunch num = some y ∧ y.phase = .running ∧
      y.limit = min n (l.l[3].toNat % 2 ^ 32) ∧ y.disc = n - l.l[3].toNat % 2 ^ 32 ∧ y.ranges = rangesOf s1 l.part (min n (l.l[3].toNat % 2 ^ 32)) 0)) ∧
  (∀ (s : State) (q : Nat) (e : CqEntry) (rest : List CqEntry),
    let x := s.queue q
    let hpa := (s.reg0 (sqOff q + 0x18)).toNat + 32 * x.cqTail
    let coal := s.reg0 (sqOff q + 0x30)
    (x.waiting = e :: rest → s.MemOk → cqRoom s q = true → s.hostAllowed hpa 32 = true → fePosts s = true → Answers (.postCompletion q) s (fun t =>
      t.mem.get (spaceKey 1 hpa) 32 = (e.c0.toNat + e.c1.toNat * 2 ^ 64 + e.c2.toNat * 2 ^ 128 + (e.c3.toNat + (if x.phase then 2 ^ 63 else 0)) * 2 ^ 192) % 2 ^ 256 ∧
        (t.queue q).waiting = rest ∧ (t.queue q).unread = x.unread + 1 ∧ (t.queue q).cqTail = (x.cqTail + 1) % 2 ^ ((cqCfg s q).toNat / 2 ^ 12 % 16) ∧
        let timer := coal.toNat / 2 ^ 8 % 2 ^ 16 * 1700
        let late := timer ≠ 0 ∧ x.unsig ≠ 0 ∧ x.oldest + timer ≤ s.clock
        (max 1 (coal.toNat % 256) ≤ x.unsig + 1 ∨ late → t.sch.irqs = s.sch.irqs ++ [coal.toNat / 2 ^ 24 % 2 ^ 11]) ∧
        (x.unsig + 1 < max 1 (coal.toNat % 256) → ¬ late → t.sch.irqs = s.sch.irqs))) ∧
    (x.unsig ≠ 0 → coal.toNat / 2 ^ 8 % 2 ^ 16 ≠ 0 → x.oldest + coal.toNat / 2 ^ 8 % 2 ^ 16 * 1700 ≤ s.clock → Answers (.cqCoalTimer q) s (fun t =>
      t.sch.irqs = s.sch.irqs ++ [coal.toNat / 2 ^ 24 % 2 ^ 11] ∧ (t.queue q).unsig = 0))) ∧
  (∀ (s : State) (num : Nat) (l : Launch), s.findLaunch num = some l →
    (l.phase = .running → l.isMirror = false → l.isGang = false → l.tasks = [] → (∀ k ∈ s.holders, thLaunch (s.getT k) ≠ num) → (∀ r ∈ s.sch.recs, r.w.launch ≠ num) →
      l.counts.1 + l.counts.2.1 + l.counts.2.2 = l.limit → Answers (.launchDone num) s (fun t => t.findLaunch num = none ∧
        ∃ e, (t.queue l.queue).waiting = (s.queue l.queue).waiting ++ [e] ∧ e.c0.toNat / 16 % 16 = 1 ∧ e.c0.toNat / 2 ^ 32 = l.l[12].toNat / 2 ^ 32 ∧
          e.c1 = BitVec.ofNat 64 (l.counts.2.1 * 2 ^ 32 + l.counts.1 % 2 ^ 26) ∧ e.c3.toNat / 2 ^ 56 = 0)) ∧
    (l.phase = .running → s.sch.preemptBusy = none →
      (∀ k ∈ s.holders, thLaunch (s.getT k) = num → ∀ a b c, (s.getT k).i.blocked ≠ some (.bar a b c)) → Answers (.preemptHold num) s (fun t =>
        (∃ y, t.findLaunch num = some y ∧ y.phase = .holding) ∧ (t.reg0 0x20).getLsbD 31 = true ∧ t.sch.preemptBusy = some num ∧
        ∀ k ∈ s.holders, thLaunch (s.getT k) = num → (t.getT k).preempt = true)) ∧
    (l.phase = .held → s.sch.preemptBusy = none → Answers (.preemptRelease num) s (fun t => ∃ y, t.findLaunch num = some y ∧
      y.phase = (if l.isGang then .placing else .running))) ∧
    (s.sch.preemptBusy = none → l.ends = false → (∀ r ∈ s.sch.recs, r.w.launch ≠ num) → (∀ k ∈ s.holders, thLaunch (s.getT k) ≠ num) →
      Answers (.launchCancel num) s (fun t => (∃ y, t.findLaunch num = some y ∧ y.phase = .ending 7 ∧ y.ranges = []) ∧ (t.reg0 0x20).getLsbD 31 = true))) ∧
  (∀ (s : State) (part : Nat) (va : BitVec 40), s.sch.tlbiBusy = false →
    let done := fun (hit : TlbEntry → Prop) (t : State) => (∀ e, e ∈ t.mem.tlb ↔ e ∈ s.mem.tlb ∧ ¬ hit e) ∧ t.sch.tlbiBusy = true ∧ (t.reg0 0x18).getLsbD 63 = true ∧
      DueIn s Config.seamTime .tlbiDone t
    Answers (.tlbiPage part va) s (done (fun e => e.part = part ∧ va.toNat * 2 ^ 16 / 2 ^ e.bits = e.vpage)) ∧
    Answers (.tlbiPartition part) s (done (fun e => e.part = part))) ∧
  (∀ (s : State), s.sch.tlbiBusy = true → (∀ c, (s.core c).buf = []) → (∀ n ∈ s.holders, (s.getT n).i.replies = []) → (∀ p ∈ s.plat.ports, p.2.waiting = []) →
    (∀ c ∈ s.cores, c.2.posted = []) → (∀ o ∈ s.sch.ops, translated o = false) → Answers .tlbiDone s (fun t => t.sch.tlbiBusy = false ∧ t.reg0 0x18 = 0)) ∧
  (∀ (s : State) (die clu : Nat) (v : Word),
    (die < 8 → clu < 16 → cluHolds s (die * 16 + clu) = false → Answers (.partCluWrite die clu v) s (fun t => t.reg0 (dieOff die + clu * 8) = v &&& 0xBF)) ∧
    (cluHolds s (die * 16 + clu) = true → exec (.partCluWrite die clu v) s = .next s))

/-- R373 to R388, R470, R471. The cause of a sample with both faults (log 47) and FE_SUST 0 as 2,800 W in both comparisons (log 39) are the
model's readings; that a lost rope's bytes read 0 is its choice (log 4). -/
def Obligations.RopesClocksAndPower : Prop :=
  (∀ (s : State) (die : Nat), s.clock % 16 = 0 → Answers (.patternChange die) s (fun t => ∀ c, c < 16 →
    (t.clu (die * 16 + c)).pattern = effPattern s (die * 16 + c) ∧ (t.clu (die * 16 + c)).effAt s.clock = (s.clu (die * 16 + c)).effAt s.clock)) ∧
  (∀ (s : State) (r : Nat) (v : Word), r < 32 →
    let stat := fun (t : State) (i : Nat) => (t.reg0 (ropeOff r + 0x20)).getLsbD i
    let hold := max 1 ((s.reg0 (ropeOff r + 0x10)).toNat / 2 ^ 8 % 256)
    let on := stat s 3 || stat s 4
    (v.toNat % 4 < 2 → on = false → Answers (.ropePolWrite r v) s (fun t => t.reg0 (ropeOff r + 0x10) = v &&& 0xFFFFFF03 ∧
      DueIn s (16 - s.clock % 16) (.patternChange (r / 4)) t)) ∧
    (v.toNat % 4 < 2 → on = true → (s.reg0 (ropeOff r)).toNat / 2 ^ 36 % 8 = 0 → Answers (.ropePolWrite r v) s (fun t =>
      t.reg0 (ropeOff r + 0x10) = v &&& 0xFFFFFF03 ∧ stat t 3 = false ∧ stat t 4 = false)) ∧
    (2 ≤ v.toNat % 4 → Answers (.ropePolWrite r v) s (fun t => t.reg0 (ropeOff r + 0x10) = (v &&& 0xFFFFFF00) ||| (s.reg0 (ropeOff r + 0x10) &&& 3) ∧
      stat t 3 = stat s 3 ∧ stat t 4 = stat s 4 ∧ DueIn s (16 - s.clock % 16) (.patternChange (r / 4)) t)) ∧
    (on = false → hold ≤ (s.rope r).sat → (s.rope r).least < 4 → Answers (.ropePolicyEngage r) s (fun t =>
      if (s.reg0 (ropeOff r + 0x10)).toNat % 4 = 1 then stat t 4 = true else stat t 3 = true ∧ (t.reg0 (ropeOff r + 0x20)).toNat % 4 = (s.rope r).least)) ∧
    (stat s 3 = true → stat s 4 = false → 2 * hold ≤ (s.rope r).fill → Answers (.throtEscalate r) s (fun t => stat t 4 = true ∧ stat t 3 = true)) ∧
    (on = true → hold ≤ (s.rope r).unsat → Answers (.ropePolicyDisengage r) s (fun t => stat t 3 = false ∧ stat t 4 = false))) ∧
  (∀ (s : State) (r i0 i1 i2 i3 cur : Nat), r < 32 → s.ropeLost r = false → i0 + i1 + i2 + i3 ≠ 0 → Answers (.ropeImbRefresh ⟨r, cur⟩ i0 i1 i2 i3) s (fun t =>
    let T : Int := i0 + i1 + i2 + i3
    (∀ m : Nat, m < 3 → let n : Int := 1000 * (4 * ((if m = 0 then i0 else if m = 1 then i0 + i1 else i0 + i1 + i2 : Nat) : Int) - ((m : Int) + 1) * T)
      ∃ q : Int, (t.reg0 (ropeOff r)).extractLsb' (12 * m) 12 = BitVec.ofInt 12 q ∧ (t.reg0 (ropeOff r)).getLsbD (36 + m) = decide (120 < q.natAbs) ∧
        q.natAbs ≤ 2047 ∧ ((n.natAbs : Int) ≤ 2047 * T → ((2 * (n - q * T)).natAbs : Int) ≤ T)) ∧
    (t.reg0 (ropeOff r)).toNat / 2 ^ 48 = cur % 65536 ∧
    (t.rope r).sat = if (t.reg0 (ropeOff r)).toNat / 2 ^ 36 % 8 = 0 then 0 else (s.rope r).sat + 1)) ∧
  (∀ (s : State) (r v0 v1 v2 v3 : Nat), r < 32 → s.ropeLost r = false → v0 < 65536 → v1 < 65536 → v2 < 65536 → v3 < 65536 →
    let c := if v0 < 620 ∨ v1 < 620 ∨ v2 < 620 ∨ v3 < 620 then 1 else if 1100 < v0 ∨ 1100 < v1 ∨ 1100 < v2 ∨ 1100 < v3 then 2 else 0
    Answers (.railSample r v0 v1 v2 v3) s (fun t => t.reg0 (ropeOff r + 8) = BitVec.ofNat 64 (v0 + v1 * 2 ^ 16 + v2 * 2 ^ 32 + v3 * 2 ^ 48) ∧
      (∀ j, j < 4 → (t.clu (r * 4 + j)).assistDue = (let v := [v0, v1, v2, v3].getD j 0
        if v < 700 then some true else if 730 < v then some false else (s.clu (r * 4 + j)).assistDue)) ∧
      DueIn s (16 - s.clock % 16) (.writeAssistChange r) t ∧ (t.rope r).cause = c ∧ (s.ropeState r = 0 → c ≠ 0 → c = (s.rope r).cause → DueIn s 0 (.ropeClamp r c) t))) ∧
  (∀ (s : State) (r j : Nat), s.clock % 16 = 0 → j < 4 → Answers (.writeAssistChange r) s (fun t =>
    (t.clu (r * 4 + j)).assist = (s.clu (r * 4 + j)).assistDue.getD (s.clu (r * 4 + j)).assist ∧ (t.clu (r * 4 + j)).assistDue = none)) ∧
  (∀ (s : State) (r cause : Nat), r < 32 →
    (1 ≤ cause → cause ≤ 4 → s.ropeState r = 0 → s.ropeLost r = false → Answers (.ropeClamp r cause) s (fun t => t.ropeState r = 1 ∧
      (t.reg0 (ropeOff r + 0x30)).toNat / 2 ^ 8 % 16 = cause ∧ DueIn s 65536 (.ropeLost r) t ∧ DueIn s (16 - s.clock % 16) (.patternChange (r / 4)) t)) ∧
    (∀ g, s.ropeState r = 1 → (s.rope r).goodAt = some g → g + 16384 ≤ s.count → Answers (.ropeUnclamp r) s (fun t => t.ropeState r = 0)) ∧
    (Idle s → s.ropeState r = 1 → (s.rope r).clampAt + 65536 ≤ s.count → Answers (.ropeLost r) s (fun t => t.ropeState r = 2 ∧
      t.plat.mail = s.plat.mail ++ [(r / 4, 0x74 + r * 2 ^ 128)] ∧
      ∀ c o, c < 32 → o < 0x40000 → (t.core (r * 32 + c)).lost = true ∧ t.byte (lsKey (r * 32 + c) o) = 0))) ∧
  (∀ (s : State) (r x : Nat),
    let w := (s.reg0 (ropeOff r + 0x28)).toNat
    let stat := fun (t : State) (i : Nat) => (t.reg0 (ropeOff r + 0x20)).getLsbD i
    (w / 2 ^ 40 % 256 ≤ x → Answers (.ropeHotChange r x) s (fun t => stat t 6 = true)) ∧
    (x + 2 < w / 2 ^ 40 % 256 → Answers (.ropeHotChange r x) s (fun t => stat t 6 = false)) ∧
    (w % 2 ^ 16 ≠ 0 → w % 2 ^ 16 < x → Answers (.ropeOvbChange r x) s (fun t => stat t 5 = true)) ∧
    (100 * x < 95 * (w % 2 ^ 16) → Answers (.ropeOvbChange r x) s (fun t => stat t 5 = false))) ∧
  (∀ (s : State) (watts r : Nat), r < 32 →
    let lim := if (s.reg0 8).toNat % 2 ^ 16 = 0 then 2800 else (s.reg0 8).toNat % 2 ^ 16
    (lim < watts → Answers (.moduleCapInterval watts) s (fun t => (t.rope r).ceil = max 1 ((s.rope r).ceil - 1) ∧ (t.reg0 (ropeOff r + 0x20)).getLsbD 7 = true)) ∧
    (100 * watts < 95 * lim → Answers (.moduleCapInterval watts) s (fun t => (t.rope r).ceil = min 16 ((s.rope r).ceil + 1)))) ∧
  (∀ (s : State) (num : Nat) (l : Launch), s.findLaunch num = some l → countStops s.bivState = false → Answers (.floorAccount num) s (fun t =>
    DueIn s (1024 - s.count % 1024) (.floorAccount num) t ∧ ∃ y, t.findLaunch num = some y ∧ y.got = 0 ∧
      y.short = l.short + (if l.got < floorOwed s l ∧ waitedAll s num (s.count - 1024) = true then floorOwed s l - l.got else 0))) ∧
  (∀ (s : State) (die stack temp : Nat), die < 8 → stack < 2 → temp < 256 →
    let w := fun (t : State) => (t.reg0 (dieOff die + 0x600 + 8 * stack)).toNat
    Answers (.hbmThermalChange die stack temp) s (fun t => w t / 2 ^ 56 = temp ∧ (95 ≤ temp → w t % 4 = 3) ∧ (temp < 90 → w t % 4 = 0)))

/-- R464 to R468, R478, R479, R474, R484, R487, R392 to R396, R155, R486, R413 to R416, R485. The units of an
error (log 27), the signature (log 15), the windows after a trip (log 66), ENTER in any BOOT state (log 69), the BOOT state after a
failed wake (log 16) and the times of Config (log 2) are the model's readings and choices. -/
def Obligations.ErrorsBringUpAndBivouac : Prop :=
  (∀ (s : State) (die array inst row unit : Nat), die < 9 → array < 16 → unit < 8 →
    let off := row * 128 + unit * 16
    let cnt := fun (t : State) => (t.reg0 (cntOff die array)).toNat
    let one := fun (correctable : Bool) (t : State) => cnt t % 2 ^ 24 = min (2 ^ 24 - 1) (cnt s % 2 ^ 24 + 1) ∧
      (array = 1 ∨ array = 7 ∨ array = 8 ∨ array = 12 ∨ (correctable = true ∧ t.mem = s.mem))
    Answers (.eccError die array inst row unit true) s (one true) ∧
    (cleanUnit s die array inst off = true → Answers (.eccError die array inst row unit false) s (one false)) ∧
    (∀ k, 2 ≤ array → array ≤ 6 → unitKey die array inst off = some k → Answers (.eccError die array inst row unit false) s (fun t =>
      t.mem.poisoned k 16 = true ∧ t.mem.cells = s.mem.cells ∧ cnt t / 2 ^ 32 % 2 ^ 16 = min (2 ^ 16 - 1) (cnt s / 2 ^ 32 % 2 ^ 16 + 1) ∧
        t.reg0 (eccOff die + 0x88) = BitVec.ofNat 64 (array * 2 ^ 56 + inst % 2 ^ 16 * 2 ^ 40 + off % 2 ^ 40)))) ∧
  (∀ (s : State) (die : Nat),
    Answers (.eccWindow die) s (fun t => ∀ u, u ∈ t.plat.units ↔ u ∈ s.plat.units ∧ u.die ≠ die) ∧
    (∀ array, array = 10 ∨ array = 11 → ccErred s die array = false →
      (die < 8 → s.dieState die ≠ 3 → Answers (.ccRecovery die array) s (fun t => t.dieState die = 2 ∧ DueIn s (reloadTime array) (.ccRecoveryDone die ⟨array, true⟩) t)) ∧
      (die = 8 → Answers (.ccRecovery die array) s (fun t => t.plat.feHeld = true ∧ DueIn s (reloadTime 10) (.ccRecoveryDone 8 ⟨array, true⟩) t))) ∧
    (∀ a, (recovering s die = false →
        (die < 8 → s.dieState die = 2 → Answers (.ccRecoveryDone die ⟨a, true⟩) s (fun t => t.dieState die = 1)) ∧
        (die = 8 → s.plat.feHeld = true → Answers (.ccRecoveryDone die ⟨a, true⟩) s (fun t => t.plat.feHeld = false))) ∧
      (recovering s die = true → exec (.ccRecoveryDone die ⟨a, true⟩) s = .next s)) ∧
    (∀ cause, die < 8 → Idle s →
      let lost := fun (c : Nat) (t : State) => t.dieState die = 3 ∧ (t.reg0 (dieOff die + 0xB00)).toNat / 2 ^ 8 % 16 = c ∧ (∀ x ∈ t.mem.l2, x.die ≠ die) ∧
        ∀ k, k < 128 → (t.core (die * 128 + k)).lost = true
      (cause < 16 → s.dieState die ≠ 3 → s.bivState < 3 ∨ 7 < s.bivState → Answers (.dieLost die cause) s (lost cause)) ∧
      (s.dieState die ≠ 3 → 3 ≤ s.bivState → s.bivState ≤ 7 → Answers (.dieLost die cause) s (fun t => t.plat.bivLost = s.plat.bivLost ++ [(die, cause)] ∧ t.mem = s.mem)) ∧
      (∀ hbm, s.bootState = 2 → s.dieState die = 0 ∨ (hbm = true ∧ s.dieState die ≠ 3) → Answers (.bringupDieTimeout die hbm) s (lost (if hbm then 6 else 4))))) ∧
  (∀ (s : State),
    let anew := fun (err : Nat) (t : State) => t.sch = State.reset.sch ∧ t.thr = State.reset.thr ∧ t.reg2 0 = BitVec.ofNat 64 (err * 16) ∧
      ∀ c ∈ t.mem.cells, c ∈ s.mem.cells ∧ (c.1 / 2 ^ 64 = 1 ∨ c.1 / 2 ^ 64 = 9 ∨ 2 ^ 20 ≤ c.1 / 2 ^ 64)
    let boot := fun (st err : Nat) (t : State) => (t.reg2 0).toNat / 2 % 8 = st ∧ (t.reg2 0).toNat / 16 % 16 = err
    let len := (s.reg2 0).toNat / 2 ^ 32
    Answers (.moduleTrip true) s (anew 5) ∧ Answers (.moduleTrip false) s (anew 6) ∧ Answers .powerUp s (anew 0) ∧
    (s.bootState = 0 ∨ s.bootState = 4 → Answers .bootGo s (fun t => boot 1 0 t ∧ DueIn s Config.mailTime .verifyDone t)) ∧
    (s.bootState ≠ 0 → s.bootState ≠ 4 → exec .bootGo s = .next s) ∧
    (s.bootState = 1 → s.plat.verified = false →
      (len < 128 ∨ 0x1000000 < len → Answers .verifyDone s (boot 4 1)) ∧
      (128 ≤ len → len ≤ 0x1000000 → Answers .verifyDone s (fun t =>
        if Config.imageSigned (imageDigest s) (imageBytes s 0 64) = false then boot 4 2 t
        else if Config.headerGood (imageBytes s 0 len) = false then boot 4 3 t else t.plat.verified = true ∧ measWord t = imageDigest s))) ∧
    (s.bootState = 1 → s.plat.verified = true → Answers .bringupReduced s (fun t => t.bootState = 2 ∧ t.dieState 0 = 1)) ∧
    (s.bootState = 2 → s.plat.physBad = [] → Answers (.bringupFull ⟨0, 0⟩) s (fun t => t.bootState = 3 ∧ ∀ d, d < 8 → t.dieState d = (if s.dieState d = 2 then 2 else 1))) ∧
    Answers (.spdmGetMeasurements .image) s (fun t => t.plat.spdm = s.plat.spdm ++ [(1, measWord s, Config.signed 1 (measWord s))]) ∧
    Answers (.spdmGetMeasurements .windows) s (fun t =>
      let v := Config.digest (windowWords s + 256 ^ 128)
      t.plat.spdm = s.plat.spdm ++ [(2, v, Config.signed 2 v)])) ∧
  (∀ (s : State) (off len v hpa : Nat) (x : Sector),
    let ma := 0x10000000000 + off
    (cxlOn s = false →
      Answers (.cxlMemAccess off len none) s (fun t => t.plat.cxl = s.plat.cxl ++ [(off, len, none)] ∧ t.mem = s.mem) ∧ exec (.cxlMemAccess off len (some v)) s = .next s) ∧
    (cxlOn s = true → off + len ≤ 0xC000000000 → s.dieState (homeDie ma) = 1 → notYetUp s ma = false → HeldL3 s ma len →
      (s.mem.poisoned (maKey ma) len = false → Answers (.cxlMemAccess off len none) s (fun t => t.plat.cxl = s.plat.cxl ++ [(off, len, some (s.mem.get (maKey ma) len))])) ∧
      (s.MemOk → Answers (.cxlMemAccess off len (some v)) s (fun t => (∀ j, j < len → t.byte (maKey ma + j) = BitVec.ofNat 8 (v / 256 ^ j)) ∧
        ∀ k, k < maKey ma ∨ maKey ma + len ≤ k → t.byte k = s.byte k))) ∧
    (∀ ws, Answers (.cxlCacheSnoop ⟨hpa, ws⟩ true) s (fun t => (∀ y ∈ t.mem.l2, hostLine hpa y = false) ∧
      ∀ w, ws = [w] → w.len ≠ 0 → w.addr + w.len ≤ 2 ^ 43 → t.mem.get (spaceKey 1 w.addr) w.len = w.value % 256 ^ w.len)) ∧
    (s.MemOk → s.mem.l2 = [x] → x.die < 8 → x.dirty = true → hostLine hpa x = true → Answers (.cxlCacheSnoop ⟨hpa, []⟩ true) s (fun t =>
      t.mem.l2 = [] ∧ t.mem.get (maKey x.addr) 16 = x.data.toNat))) ∧
  (∀ (s : State) (vdie pdie : Nat), s.MemOk → vdie < 8 → pdie < 8 → pdie ∉ s.plat.physBad → pdie ∉ s.plat.dieMap.toList → s.bootState = 1 ∨ s.bootState = 2 →
    Answers (.virtualDieRemap vdie pdie) s (fun t => t.plat.dieMap.toList.getD vdie 8 = pdie ∧
      ∀ i, i < dieBytes → t.byte (vdieKey vdie + i) = s.byte (parkedKey pdie + i))) ∧
  (∀ (s : State) (grp : Nat),
    (s.bivState = 0 ∨ s.bivState = 9 → Answers (.bivEnter grp) s (fun t => t.bivState = 1 ∧ (t.reg2 0x4100).toNat / 2 ^ 8 % 256 = grp % 256 ∧
      DueIn s 0 .bivWriteback t ∧ DueIn s cutBound .bivEntryFail t)) ∧
    (s.bivState = 1 → bivOwnCut s = true → cutState s = 2 → s.holders = [] → Answers .bivWriteback s (fun t => t.bivState = 2 ∧ DueIn s 0 .bivFlush t ∧
      ∀ l ∈ t.sch.launches, l.phase ≠ .running)) ∧
    (s.bivState = 2 → atRest s = true → Answers .bivFlush s (fun t => t.bivState = 3 ∧ t.mem.l1 = [] ∧ t.mem.l2 = [] ∧ t.mem.l3 = [] ∧ t.mem.pins = [] ∧
      DueIn s Config.mailTime .bivSelfref t)) ∧
    (s.bivState = 3 → Answers .bivSelfref s (fun t => t.bivState = 4)) ∧
    (s.bivState = 4 → Answers .bivSelfref s (fun t => t.bivState = 5 ∧ t.mem.tlb = [] ∧ ∀ p, p < 64 → portUp t p = false)) ∧
    (s.bivState = 5 → Answers .bivResume s (fun t => t.bivState = 6)) ∧
    (s.bivState = 6 → Answers .bivRestore s (fun t => t.bivState = 7)) ∧
    (s.bivState = 7 ∨ s.bivState = 8 → toPhase s = 0 → bivGone s = [] → cutState s ≠ 2 → Answers .bivReplay s (fun t => t.bivState = 0)) ∧
    (s.bivState = 1 → s.plat.bivSince + cutBound ≤ s.clock → cutState s = 0 ∨ cutState s = 4 → Answers .bivEntryFail s (fun t => t.bivState = 9)) ∧
    (s.bivState = 6 → Answers .bivWakeFail s (fun t => t.bivState = 10 ∧ t.bootState = 0 ∧ t.sch = State.reset.sch))) ∧
  (∀ (s : State) (th : Nat) (r : Rec), s.bivState = 2 → (s.getT th).rcd = some r → s.plat.bivSince + stopBound ≤ s.clock → (s.getT th).i.rep = none →
    (s.getT th).i.replies = [] → (∀ a, inHbm a = true → notYetUp s a = false) → Answers (.bivForcedStop th) s (fun t => (t.getT th).rcd = none ∧
      ∃ x ∈ t.sch.recs, x.id = r.id ∧ x.place = .rest ∧ x.w.bound = some th ∧ x.w.running = false))

/-- R399 to R412, R480, R481, R406 to R409, R3, R351, R391. The model's own are the dark member input that is waited for (log 67), one hold
time for all priorities of a pause (log 19), the flits captured behind captured ones (log 51), the misaligned write that does nothing
(log 17), the allowance kept at a relock (log 74), and the times of Config (log 2). -/
def Obligations.FabricEthernetAndRegisters : Prop :=
  (∀ (s : State) (dev : Nat) (v : Word),
    Answers (.iluCfgWrite v) s (fun t => t.reg2 0x200 = if (s.reg2 0x200).getLsbD 8 then (v &&& 0xF100) ||| (s.reg2 0x200 &&& 0xFF) else v &&& 0xF1FF) ∧
    (dev < 256 → Answers (.iluRouteWrite dev v) s (fun t => t.reg2 (0x400 + dev * 8) = v &&& 0x13F))) ∧
  (∀ (s : State) (p lam : Nat), let x := s.port p
    (∀ n, let ber := 2 ^ 32 < n * 10 ^ max 4 ((s.reg2 0x200).toNat / 2 ^ 12 % 16)
      (¬ ber → exec (.wavelengthLeave p ⟨lam, n⟩) s = .next s) ∧
      (ber → portUp s p = true → lam ∈ x.lams → x.lams.erase lam ≠ [] → Answers (.wavelengthLeave p ⟨lam, n⟩) s (fun t => (t.port p).lams = x.lams.erase lam ∧
        tabGet (s.clock + 1) (t.port p).retr lam = s.clock ∧ DueIn s relockTime (.wavelengthFailed p lam) t))) ∧
    (∀ at0, portUp s p = true → (lam, at0) ∈ x.retr → Answers (.wavelengthRejoin p lam) s (fun t => lam ∈ (t.port p).lams ∧ ∀ y ∈ (t.port p).retr, y.1 ≠ lam)) ∧
    (∀ at0, (lam, at0) ∈ x.retr → at0 + relockTime ≤ s.clock → Answers (.wavelengthFailed p lam) s (fun t => (t.port p).lams = x.lams ∧
      ∀ y ∈ (t.port p).retr, y.1 ≠ lam))) ∧
  (∀ (s : State) (p own ma len v : Nat), portUp s p = true → (s.port p).room ≠ 0 → (s.port p).behind = [] →
    (s.MemOk → captures s p = false → (s.port p).captured = [] → inHbm ma = true → s.dieLost (homeDie ma) = false → HeldL3 s ma len →
      Answers (.flitReceive p (.write own ma len v)) s (fun t =>
        (∀ j, j < len → t.byte (maKey ma + j) = BitVec.ofNat 8 (v / 256 ^ j)) ∧ (∀ k, k < maKey ma ∨ maKey ma + len ≤ k → t.byte k = s.byte k) ∧
        (t.port p).seq = (s.port p).seq + 1)) ∧
    (captures s p = true ∨ (s.port p).captured ≠ [] → Answers (.flitReceive p (.write own ma len v)) s (fun t => t.mem = s.mem ∧
      (t.port p).captured = (s.port p).captured ++ [.write own ma len v] ∧ (t.port p).seq = (s.port p).seq + 1))) ∧
  (∀ (s : State) (id grp : Nat),
    (cutState s = 0 ∨ cutState s = 4 → Answers (.cutGo id grp) s (fun t => (t.reg2 0x4008).toNat / 2 ^ 48 = id % 65536 ∧
      cutState t = (if memberPorts s grp = [] then 2 else 1) ∧ t.plat.cutInputs = memberPorts s grp ∧ ∀ q ∈ memberPorts s grp, portUp s q = true → portHeld t q = true)) ∧
    (∀ p init, portUp s p = true → (s.port p).behind = [] →
      (cutState s = 0 → s.plat.cutInputs = [] → Answers (.belayMarker p id init grp) s (fun t => (t.reg2 0x4008).toNat / 2 ^ 48 = id % 65536 ∧
        (cutState t = 1 ∨ cutState t = 2) ∧ p ∉ t.plat.cutInputs)) ∧
      (cutState s = 1 → (s.reg2 0x4008).toNat / 2 ^ 48 = id → s.plat.cutInputs = [p] → Answers (.belayMarker p id init grp) s (fun t => cutState t = 2 ∧
        t.plat.cutInputs = []))) ∧
    (∀ p, (List.range 64).filter (fun q => portHeld s q || !(s.port q).captured.isEmpty) = [p] → (∀ q, q < 64 → (s.port q).behind = []) →
      (s.port p).captured = [] → (s.port p).waiting = [] →
      (cutState s = 2 → Answers .cutRel s (fun t => cutState t = 0 ∧ portHeld t p = false)) ∧
      (cutState s = 1 ∨ cutState s = 2 → Answers .cutAbort s (fun t => cutState t = 4 ∧ portHeld t p = false)))) ∧
  (∀ (s : State) (p peer allowance n : Nat),
    ((portWord s p).toNat % 8 ≠ 0 → cutState s ≠ 1 → p < 64 → Answers (.portDark p) s (fun t => (portWord t p).toNat % 8 = 0 ∧ (t.port p).lams = [] ∧
      (t.port p).dark = some ((s.port p).dark.getD s.clock) ∧ DueIn s darkTime (.darkPortTimeout p) t)) ∧
    (∀ at0, (s.port p).dark = some at0 → portHeld s p = false → at0 + darkTime ≤ s.clock → s.holders = [] → s.sch.ops = [] → Answers (.darkPortTimeout p) s (fun t =>
      (t.port p).waiting = [] ∧ ∀ w ∈ (s.port p).waiting, DueIn s 0 (.homeErrorReport w.rcd 0x73 ⟨BitVec.ofNat 64 (portPeer s p), w.issued⟩) t)) ∧
    ((s.reg2 0x200).getLsbD 8 = true → s.bootState = 3 → s.bivState ≠ 4 → s.bivState ≠ 5 → portUp s p = false → portHeld s p = false →
      (s.port p).waiting = [] → s.sch.heldCancels = [] → p < 64 →
      let up := fun (allow seq sent : Nat) => Answers (.portLinkUp p peer allowance n) s (fun t => portUp t p = true ∧ portPeer t p = peer % 256 ∧
        (portWord t p).toNat / 2 ^ 44 % 2 ^ 12 = allow ∧ (t.port p).lams = List.range n ∧ (t.port p).dark = none ∧ (t.port p).seq = seq ∧ (t.port p).sentSeq = sent)
      ((s.port p).linked = false → up (min 512 allowance) 0 0) ∧
      ((s.port p).linked = true → portPeer s p = peer % 256 → (s.port p).owing = 0 →
        up (min ((portWord s p).toNat / 2 ^ 44 % 2 ^ 12) (min 512 allowance)) (s.port p).seq (s.port p).sentSeq))) ∧
  (∀ (s : State) (port q : Nat) (v : Word), port < 8 → q < 16 →
    ((qCfg s port q).getLsbD 63 = false → Answers (.ethqCfgWrite port q v) s (fun t => qCfg t port q = v &&& 0xFFFFFFE000000000)) ∧
    ((qCfg s port q).getLsbD 63 = true → v.getLsbD 63 = false → Answers (.ethqCfgWrite port q v) s (fun t => (qCfg t port q).getLsbD 63 = false ∧
      qPtr t port q = 0 ∧ qStat t port q = 0 ∧ t.ethQ port q = EthQ.reset)) ∧
    Answers (.ethqPtrWrite port q v) s (fun t => (qPtr t port q).toNat / 2 ^ 32 % 2 ^ 16 = v.toNat / 2 ^ 32 % 2 ^ 16 % sendSize s port q ∧
      (qPtr t port q).toNat % 2 ^ 16 = v.toNat % 2 ^ 16 % recvSize s port q ∧ DueIn s Config.fillTime (.ethDescriptorFetch port q) t) ∧
    (∀ h d s1, qTakes s port q = true → s.ethQ port q = { send := [], recv := [] } → (qPtr s port q).toNat / 2 ^ 48 = h → h < sendSize s port q →
      (qPtr s port q).toNat / 2 ^ 32 % 2 ^ 16 = (h + 1) % sendSize s port q → (qPtr s port q).toNat % 2 ^ 16 = (qPtr s port q).toNat / 2 ^ 16 % 2 ^ 16 →
      vmRead s ethClu (qPart s port q) (ringAddr s port q false h) 32 = .ok (d, s1) → Answers (.ethDescriptorFetch port q) s (fun t =>
        (t.ethQ port q).send = [(h, d)])) ∧
    (∀ i d rest x s1, ethOn s port = true → ethUp s port = true → sendTurn s port = some q → (s.ethQ port q).send = (i, d) :: rest →
      sendOk d = true → (getBytes d 12 1).testBit 0 = false → 1 ≤ getBytes d 8 2 → getBytes d 8 2 + 4 ≤ maxFrame s port →
      vmRead s ethClu (qPart s port q) (getBytes d 0 8) (getBytes d 8 2) = .ok (x, s1) → Answers (.ethFrameSent port q) s (fun t =>
        t.plat.wire = s1.plat.wire ++ [(port, max 60 (getBytes d 8 2), x)])) ∧
    (∀ frame i d rest s2, ethRuns s = true → ethOn s port = true → ethUp s port = true → 60 ≤ frame.length → frame.length + 4 ≤ maxFrame s port →
      accepts s port (frameNum frame) = true → steer s port (frameNum frame) = q →
      let s1 := fetchPair s port q
      qTakes s1 port q = true → (s1.ethQ port q).recv = (i, d) :: rest → recvOk d = true → 64 ≤ getBytes d 8 2 → getBytes d 8 2 ≤ 9216 →
      frame.length ≤ getBytes d 8 2 → (ethCfg s1 port).getLsbD 1 = false → vmWrite s1 ethClu (qPart s1 port q) (getBytes d 0 8) frame.length (frameNum frame) = .ok s2 →
      (∀ y, ∃ s3, vmWrite { s2 with free := s2.free + 1 } ethClu (qPart s1 port q) (ringAddr s2 port q true i + 10) 18 y = .ok s3 ∧ s3.plat = s2.plat) →
      Answers (.ethFrameReceived port frame true) s (fun t => (t.ethQ port q).recv = (s2.ethQ port q).recv.drop 1 ∧
        (qPtr t port q).toNat / 2 ^ 16 % 2 ^ 16 = (i + 1) % recvSize s2 port q)) ∧
    (∀ frame, ethRuns s = true → ethOn s port = true → ethUp s port = true → (s.reg2 (ethOff port + 0x38)).toNat < 2 ^ 64 - 1 →
      Answers (.ethFrameReceived port frame false) s (fun t => t.reg2 (ethOff port + 0x38) = s.reg2 (ethOff port + 0x38) + 1 ∧ t.mem = s.mem))) ∧
  (∀ (s : State) (port quanta : Nat) (pfc : Option (BitVec 8)),
    Answers (.ethLinkDown port) s (fun t => ethUp t port = false) ∧
    (ethOn s port = true → s.bootState = 3 → Answers (.ethLinkUp port) s (fun t => ethUp t port = true)) ∧
    (ethUp s port = true → honoured s port pfc ≠ [] → Answers (.pauseFrameReceived port pfc quanta) s (fun t =>
      (∀ i ∈ honoured s port pfc, heldUntil t port i = s.clock + quantaTime quanta) ∧ (0 < quanta → ethPaused t port = true) ∧
      DueIn s (quantaTime quanta) (.pauseHoldExpiry port) t)) ∧
    (ethPaused s port = true → (∀ i, i < 9 → heldUntil s port i ≤ s.clock) → Answers (.pauseHoldExpiry port) s (fun t => ethPaused t port = false))) ∧
  (∀ (s : State) (off q n : Nat) (v : Word),
    (off % 8 ≠ 0 → exec (.registerWrite 0 off v) s = .next s ∧ exec (.registerWrite 2 off v) s = .next s) ∧
    Answers (.registerWrite 0 8 v) s (fun t => t.reg0 8 = (v &&& 0xFFFF) ||| (s.reg0 8 &&& ~~~0xFFFF)) ∧
    (q < 64 → exec (.registerWrite 0 (0x10000 + q * 0x40 + 0x10) v) s = exec (.sqDbWrite q (v.setWidth 16)) s ∧
      ((sqCfg s q).getLsbD 16 = true → exec (.registerWrite 0 (0x10000 + q * 0x40) v) s = .next s) ∧
      ((sqCfg s q).getLsbD 16 = false → Answers (.registerWrite 0 (0x10000 + q * 0x40) v) s (fun t => t.reg0 (0x10000 + q * 0x40) = v))) ∧
    (n < 8 → s.plat.locked = true → exec (.registerWrite 2 (0x100 + n * 0x10) v) s = .next s) ∧
    (n < 8 → s.plat.locked = false → Answers (.registerWrite 2 (0x100 + n * 0x10) v) s (fun t => (t.reg2 (0x100 + n * 0x10)).getLsbD 0 = v.getLsbD 0 ∧
      ∀ i, 12 ≤ i → i < 64 → (t.reg2 (0x100 + n * 0x10)).getLsbD i = v.getLsbD i)))
end

