-- ==== Sys2Proof/Laws/Decode.lean ====
section
/-! SUPPORT. Cutting a field out of a packed word gives the field: one lemma per format and field. -/
namespace Sys2Proof.Laws

open Sys2Proof

theorem nOf_eq {n : Nat} (w k : Nat) (v : BitVec n) (h : w / 2 ^ k % 2 ^ n = v.toNat) : nOf n w k = v := by
  apply BitVec.eq_of_toNat_eq; simpa [nOf] using h

/-- Bit k of a field. -/
def vbit {n : Nat} (v : BitVec n) (k : Nat) : Bool := v.getLsbD k

theorem toNat_bool_le (b : Bool) : b.toNat ≤ 1 := by cases b <;> simp

theorem bitAt_eq (w k : Nat) (b : Bool) (h : w / 2 ^ k % 2 = b.toNat) : bitAt w k = b := by
  cases b <;> simp_all [bitAt]

section packLR
variable (ln : Bool) (wt : BitVec 3) (op : Nat) (d a b x : BitVec 5)
@[simp] theorem fD_packLR : fD (packLR ln wt op d a b x) = d := by
  apply nOf_eq; have := toNat_bool_le ln; simp only [packLR, packHead]; omega
@[simp] theorem fA_packLR : fA (packLR ln wt op d a b x) = a := by
  apply nOf_eq; have := toNat_bool_le ln; simp only [packLR, packHead]; omega
@[simp] theorem fB_packLR : fB (packLR ln wt op d a b x) = b := by
  apply nOf_eq; have := toNat_bool_le ln; simp only [packLR, packHead]; omega
@[simp] theorem fX_packLR : fX (packLR ln wt op d a b x) = x := by
  apply nOf_eq; have := toNat_bool_le ln; simp only [packLR, packHead]; omega
@[simp] theorem bit0_packLR : bitAt (packLR ln wt op d a b x) 0 = vbit x 0 := by
  have := toNat_bool_le ln; apply bitAt_eq; rw [vbit, BitVec.getLsbD, Nat.toNat_testBit]; simp only [packLR, packHead]; omega
@[simp] theorem bit3_packLR : bitAt (packLR ln wt op d a b x) 3 = vbit x 3 := by
  have := toNat_bool_le ln; apply bitAt_eq; rw [vbit, BitVec.getLsbD, Nat.toNat_testBit]; simp only [packLR, packHead]; omega
@[simp] theorem bit4_packLR : bitAt (packLR ln wt op d a b x) 4 = vbit x 4 := by
  have := toNat_bool_le ln; apply bitAt_eq; rw [vbit, BitVec.getLsbD, Nat.toNat_testBit]; simp only [packLR, packHead]; omega
@[simp] theorem x20_packLR : nOf 2 (packLR ln wt op d a b x) 0 = (x >>> 0).setWidth 2 := by
  apply nOf_eq; have := toNat_bool_le ln; simp only [packLR, packHead, BitVec.toNat_setWidth, BitVec.toNat_ushiftRight, Nat.shiftRight_eq_div_pow]; omega
@[simp] theorem x42_packLR : nOf 3 (packLR ln wt op d a b x) 2 = (x >>> 2).setWidth 3 := by
  apply nOf_eq; have := toNat_bool_le ln; simp only [packLR, packHead, BitVec.toNat_setWidth, BitVec.toNat_ushiftRight, Nat.shiftRight_eq_div_pow]; omega
@[simp] theorem x41_packLR : nOf 4 (packLR ln wt op d a b x) 1 = (x >>> 1).setWidth 4 := by
  apply nOf_eq; have := toNat_bool_le ln; simp only [packLR, packHead, BitVec.toNat_setWidth, BitVec.toNat_ushiftRight, Nat.shiftRight_eq_div_pow]; omega
@[simp] theorem fI15_packLR : fI15 (packLR ln wt op d 0#5 0#5 0#5) = 0 := by
  apply nOf_eq; have := toNat_bool_le ln; simp [packLR, packHead]; omega
@[simp] theorem fI20_packLR : fI20 (packLR ln wt op 0#5 0#5 0#5 0#5) = 0 := by
  apply nOf_eq; have := toNat_bool_le ln; simp [packLR, packHead]; omega
@[simp] theorem bit31_packLR (h : op < 256) : bitAt (packLR ln wt op d a b x) 31 = ln := by
  apply bitAt_eq; have := toNat_bool_le ln; simp only [packLR, packHead]; omega
@[simp] theorem wait_packLR (h : op < 256) : nOf 3 (packLR ln wt op d a b x) 28 = wt := by
  apply nOf_eq; have := toNat_bool_le ln; simp only [packLR, packHead]; omega
@[simp] theorem group_packLR (h : op < 256) : (packLR ln wt op d a b x) / 2 ^ 26 % 4 = op / 64 := by
  have := toNat_bool_le ln; simp only [packLR, packHead]; omega
@[simp] theorem code_packLR : (packLR ln wt op d a b x) / 2 ^ 20 % 64 = op % 64 := by
  have := toNat_bool_le ln; simp only [packLR, packHead]; omega
end packLR

section packLI
variable (ln : Bool) (wt : BitVec 3) (op : Nat) (d : BitVec 5) (i : BitVec 15)
@[simp] theorem fD_packLI : fD (packLI ln wt op d i) = d := by
  apply nOf_eq; have := toNat_bool_le ln; simp only [packLI, packHead]; omega
@[simp] theorem fI15_packLI : fI15 (packLI ln wt op d i) = i := by
  apply nOf_eq; have := toNat_bool_le ln; simp only [packLI, packHead]; omega
@[simp] theorem bit31_packLI (h : op < 256) : bitAt (packLI ln wt op d i) 31 = ln := by
  apply bitAt_eq; have := toNat_bool_le ln; simp only [packLI, packHead]; omega
@[simp] theorem wait_packLI (h : op < 256) : nOf 3 (packLI ln wt op d i) 28 = wt := by
  apply nOf_eq; have := toNat_bool_le ln; simp only [packLI, packHead]; omega
@[simp] theorem group_packLI (h : op < 256) : (packLI ln wt op d i) / 2 ^ 26 % 4 = op / 64 := by
  have := toNat_bool_le ln; simp only [packLI, packHead]; omega
@[simp] theorem code_packLI : (packLI ln wt op d i) / 2 ^ 20 % 64 = op % 64 := by
  have := toNat_bool_le ln; simp only [packLI, packHead]; omega
end packLI

section packLJ
variable (ln : Bool) (wt : BitVec 3) (op : Nat) (i : BitVec 20)
@[simp] theorem fI20_packLJ : fI20 (packLJ ln wt op i) = i := by
  apply nOf_eq; have := toNat_bool_le ln; simp only [packLJ, packHead]; omega
@[simp] theorem bit31_packLJ (h : op < 256) : bitAt (packLJ ln wt op i) 31 = ln := by
  apply bitAt_eq; have := toNat_bool_le ln; simp only [packLJ, packHead]; omega
@[simp] theorem wait_packLJ (h : op < 256) : nOf 3 (packLJ ln wt op i) 28 = wt := by
  apply nOf_eq; have := toNat_bool_le ln; simp only [packLJ, packHead]; omega
@[simp] theorem group_packLJ (h : op < 256) : (packLJ ln wt op i) / 2 ^ 26 % 4 = op / 64 := by
  have := toNat_bool_le ln; simp only [packLJ, packHead]; omega
@[simp] theorem code_packLJ : (packLJ ln wt op i) / 2 ^ 20 % 64 = op % 64 := by
  have := toNat_bool_le ln; simp only [packLJ, packHead]; omega
end packLJ

section packLB
variable (ln : Bool) (wt : BitVec 3) (op : Nat) (c : BitVec 4) (r : BitVec 5) (i : BitVec 11)
@[simp] theorem fC4_packLB : fC4 (packLB ln wt op c r i) = c := by
  apply nOf_eq; have := toNat_bool_le ln; simp only [packLB, packHead]; omega
@[simp] theorem fR5_packLB : fR5 (packLB ln wt op c r i) = r := by
  apply nOf_eq; have := toNat_bool_le ln; simp only [packLB, packHead]; omega
@[simp] theorem fI11_packLB : fI11 (packLB ln wt op c r i) = i := by
  apply nOf_eq; have := toNat_bool_le ln; simp only [packLB, packHead]; omega
@[simp] theorem bit31_packLB (h : op < 256) : bitAt (packLB ln wt op c r i) 31 = ln := by
  apply bitAt_eq; have := toNat_bool_le ln; simp only [packLB, packHead]; omega
@[simp] theorem wait_packLB (h : op < 256) : nOf 3 (packLB ln wt op c r i) 28 = wt := by
  apply nOf_eq; have := toNat_bool_le ln; simp only [packLB, packHead]; omega
@[simp] theorem group_packLB (h : op < 256) : (packLB ln wt op c r i) / 2 ^ 26 % 4 = op / 64 := by
  have := toNat_bool_le ln; simp only [packLB, packHead]; omega
@[simp] theorem code_packLB : (packLB ln wt op c r i) / 2 ^ 20 % 64 = op % 64 := by
  have := toNat_bool_le ln; simp only [packLB, packHead]; omega
end packLB

section packLM
variable (ln : Bool) (wt : BitVec 3) (op : Nat) (d a : BitVec 5) (i : BitVec 10)
@[simp] theorem fD_packLM : fD (packLM ln wt op d a i) = d := by
  apply nOf_eq; have := toNat_bool_le ln; simp only [packLM, packHead]; omega
@[simp] theorem fA_packLM : fA (packLM ln wt op d a i) = a := by
  apply nOf_eq; have := toNat_bool_le ln; simp only [packLM, packHead]; omega
@[simp] theorem fI10_packLM : fI10 (packLM ln wt op d a i) = i := by
  apply nOf_eq; have := toNat_bool_le ln; simp only [packLM, packHead]; omega
@[simp] theorem bit31_packLM (h : op < 256) : bitAt (packLM ln wt op d a i) 31 = ln := by
  apply bitAt_eq; have := toNat_bool_le ln; simp only [packLM, packHead]; omega
@[simp] theorem wait_packLM (h : op < 256) : nOf 3 (packLM ln wt op d a i) 28 = wt := by
  apply nOf_eq; have := toNat_bool_le ln; simp only [packLM, packHead]; omega
@[simp] theorem group_packLM (h : op < 256) : (packLM ln wt op d a i) / 2 ^ 26 % 4 = op / 64 := by
  have := toNat_bool_le ln; simp only [packLM, packHead]; omega
@[simp] theorem code_packLM : (packLM ln wt op d a i) / 2 ^ 20 % 64 = op % 64 := by
  have := toNat_bool_le ln; simp only [packLM, packHead]; omega
end packLM

section packRep
variable (wt : BitVec 3) (c : BitVec 5) (n : BitVec 6) (o d a b : Bool)
@[simp] theorem fD_packRep : fD (packRep wt c n o d a b) = c := by
  apply nOf_eq; have hf : false.toNat = 0 := rfl; have := toNat_bool_le o; have := toNat_bool_le d; have := toNat_bool_le a; have := toNat_bool_le b; simp only [packRep, packHead]; omega
@[simp] theorem fN6_packRep : fN6 (packRep wt c n o d a b) = n := by
  apply nOf_eq; have hf : false.toNat = 0 := rfl; have := toNat_bool_le o; have := toNat_bool_le d; have := toNat_bool_le a; have := toNat_bool_le b; simp only [packRep, packHead]; omega
@[simp] theorem fZ5_packRep : fZ5 (packRep wt c n o d a b) = 0 := by
  apply nOf_eq; have hf : false.toNat = 0 := rfl; have := toNat_bool_le o; have := toNat_bool_le d; have := toNat_bool_le a; have := toNat_bool_le b; simp only [packRep, packHead, BitVec.ofNat_eq_ofNat, BitVec.toNat_ofNat]; omega
@[simp] theorem bit3_packRep : bitAt (packRep wt c n o d a b) 3 = o := by
  apply bitAt_eq; have hf : false.toNat = 0 := rfl; have := toNat_bool_le o; have := toNat_bool_le d; have := toNat_bool_le a; have := toNat_bool_le b; simp only [packRep, packHead]; omega
@[simp] theorem bit2_packRep : bitAt (packRep wt c n o d a b) 2 = d := by
  apply bitAt_eq; have hf : false.toNat = 0 := rfl; have := toNat_bool_le o; have := toNat_bool_le d; have := toNat_bool_le a; have := toNat_bool_le b; simp only [packRep, packHead]; omega
@[simp] theorem bit1_packRep : bitAt (packRep wt c n o d a b) 1 = a := by
  apply bitAt_eq; have hf : false.toNat = 0 := rfl; have := toNat_bool_le o; have := toNat_bool_le d; have := toNat_bool_le a; have := toNat_bool_le b; simp only [packRep, packHead]; omega
@[simp] theorem bit0_packRep : bitAt (packRep wt c n o d a b) 0 = b := by
  apply bitAt_eq; have hf : false.toNat = 0 := rfl; have := toNat_bool_le o; have := toNat_bool_le d; have := toNat_bool_le a; have := toNat_bool_le b; simp only [packRep, packHead]; omega
@[simp] theorem bit31_packRep : bitAt (packRep wt c n o d a b) 31 = false := by
  apply bitAt_eq; have hf : false.toNat = 0 := rfl; have := toNat_bool_le o; have := toNat_bool_le d; have := toNat_bool_le a; have := toNat_bool_le b; simp only [packRep, packHead]; omega
@[simp] theorem wait_packRep : nOf 3 (packRep wt c n o d a b) 28 = wt := by
  apply nOf_eq; have hf : false.toNat = 0 := rfl; have := toNat_bool_le o; have := toNat_bool_le d; have := toNat_bool_le a; have := toNat_bool_le b; simp only [packRep, packHead]; omega
@[simp] theorem group_packRep : (packRep wt c n o d a b) / 2 ^ 26 % 4 = 0 := by
  have hf : false.toNat = 0 := rfl; have := toNat_bool_le o; have := toNat_bool_le d; have := toNat_bool_le a; have := toNat_bool_le b; simp only [packRep, packHead]; omega
@[simp] theorem code_packRep : (packRep wt c n o d a b) / 2 ^ 20 % 64 = 7 := by
  have hf : false.toNat = 0 := rfl; have := toNat_bool_le o; have := toNat_bool_le d; have := toNat_bool_le a; have := toNat_bool_le b; simp only [packRep, packHead]; omega
end packRep

section packAR
variable (op : Nat) (p : BitVec 3) (d a b : BitVec 5) (t : BitVec 3) (m : BitVec 4)
@[simp] theorem aP_packAR : aP (packAR op p d a b t m) = p := by
  apply nOf_eq; simp only [packAR]; omega
@[simp] theorem aD_packAR : aD (packAR op p d a b t m) = d := by
  apply nOf_eq; simp only [packAR]; omega
@[simp] theorem aA_packAR : aA (packAR op p d a b t m) = a := by
  apply nOf_eq; simp only [packAR]; omega
@[simp] theorem aB_packAR : aB (packAR op p d a b t m) = b := by
  apply nOf_eq; simp only [packAR]; omega
@[simp] theorem aT_packAR : aT (packAR op p d a b t m) = t := by
  apply nOf_eq; simp only [packAR]; omega
@[simp] theorem aM_packAR : aM (packAR op p d a b t m) = m := by
  apply nOf_eq; simp only [packAR]; omega
@[simp] theorem bit0_packAR : bitAt (packAR op p d a b t m) 0 = vbit m 0 := by
  apply bitAt_eq; rw [vbit, BitVec.getLsbD, Nat.toNat_testBit]; simp only [packAR]; omega
@[simp] theorem bit7_packAR : bitAt (packAR op p d a b t m) 7 = vbit b 0 := by
  apply bitAt_eq; rw [vbit, BitVec.getLsbD, Nat.toNat_testBit]; simp only [packAR]; omega
@[simp] theorem bit10_packAR : bitAt (packAR op p d a b t m) 10 = vbit b 3 := by
  apply bitAt_eq; rw [vbit, BitVec.getLsbD, Nat.toNat_testBit]; simp only [packAR]; omega
@[simp] theorem bit11_packAR : bitAt (packAR op p d a b t m) 11 = vbit b 4 := by
  apply bitAt_eq; rw [vbit, BitVec.getLsbD, Nat.toNat_testBit]; simp only [packAR]; omega
@[simp] theorem m1_packAR : nOf 3 (packAR op p d a b t m) 1 = (m >>> 1).setWidth 3 := by
  apply nOf_eq; simp only [packAR, BitVec.toNat_setWidth, BitVec.toNat_ushiftRight, Nat.shiftRight_eq_div_pow]; omega
@[simp] theorem b7_packAR : nOf 3 (packAR op p d a b t m) 7 = (b >>> 0).setWidth 3 := by
  apply nOf_eq; simp only [packAR, BitVec.toNat_setWidth, BitVec.toNat_ushiftRight, Nat.shiftRight_eq_div_pow]; omega
@[simp] theorem b10_packAR : nOf 2 (packAR op p d a b t m) 10 = (b >>> 3).setWidth 2 := by
  apply nOf_eq; simp only [packAR, BitVec.toNat_setWidth, BitVec.toNat_ushiftRight, Nat.shiftRight_eq_div_pow]; omega
@[simp] theorem top_packAR (h : op < 128) : (packAR op p d a b t m) / 2 ^ 30 % 4 = op / 32 := by
  simp only [packAR]; omega
@[simp] theorem code_packAR (h : op < 128) : (packAR op p d a b t m) / 2 ^ 25 % 128 = op := by
  simp only [packAR]; omega
end packAR

section packAI
variable (op : Nat) (p : BitVec 3) (d a : BitVec 5) (i : BitVec 12)
@[simp] theorem aP_packAI : aP (packAI op p d a i) = p := by
  apply nOf_eq; simp only [packAI]; omega
@[simp] theorem aD_packAI : aD (packAI op p d a i) = d := by
  apply nOf_eq; simp only [packAI]; omega
@[simp] theorem aA_packAI : aA (packAI op p d a i) = a := by
  apply nOf_eq; simp only [packAI]; omega
@[simp] theorem imm12_packAI : nOf 12 (packAI op p d a i) 0 = i := by
  apply nOf_eq; simp only [packAI]; omega
@[simp] theorem i66_packAI : nOf 6 (packAI op p d a i) 6 = (i >>> 6).setWidth 6 := by
  apply nOf_eq; simp only [packAI, BitVec.toNat_setWidth, BitVec.toNat_ushiftRight, Nat.shiftRight_eq_div_pow]; omega
@[simp] theorem i60_packAI : nOf 6 (packAI op p d a i) 0 = (i >>> 0).setWidth 6 := by
  apply nOf_eq; simp only [packAI, BitVec.toNat_setWidth, BitVec.toNat_ushiftRight, Nat.shiftRight_eq_div_pow]; omega
@[simp] theorem i90_packAI : nOf 9 (packAI op p d a i) 0 = (i >>> 0).setWidth 9 := by
  apply nOf_eq; simp only [packAI, BitVec.toNat_setWidth, BitVec.toNat_ushiftRight, Nat.shiftRight_eq_div_pow]; omega
@[simp] theorem i2a_packAI : nOf 2 (packAI op p d a i) 10 = (i >>> 10).setWidth 2 := by
  apply nOf_eq; simp only [packAI, BitVec.toNat_setWidth, BitVec.toNat_ushiftRight, Nat.shiftRight_eq_div_pow]; omega
@[simp] theorem bit9_packAI : bitAt (packAI op p d a i) 9 = vbit i 9 := by
  apply bitAt_eq; rw [vbit, BitVec.getLsbD, Nat.toNat_testBit]; simp only [packAI]; omega
@[simp] theorem top_packAI (h : op < 128) : (packAI op p d a i) / 2 ^ 30 % 4 = op / 32 := by
  simp only [packAI]; omega
@[simp] theorem code_packAI (h : op < 128) : (packAI op p d a i) / 2 ^ 25 % 128 = op := by
  simp only [packAI]; omega
end packAI

/-! The literal (R185, R232, R300, R306). -/
@[simp] theorem lit32 (v : BitVec 32) : nOf 32 v.toNat 0 = v := by apply nOf_eq; omega
@[simp] theorem lit16 (v : BitVec 16) : nOf 16 v.toNat 0 = v := by apply nOf_eq; omega
@[simp] theorem lit16_top (v : BitVec 16) : v.toNat < 65536 := by omega
section tryLit
variable (n : BitVec 7) (map : BitVec 16)
@[simp] theorem try_n : nOf 7 (n.toNat * 65536 + map.toNat) 16 = n := by apply nOf_eq; omega
@[simp] theorem try_map : nOf 16 (n.toNat * 65536 + map.toNat) 0 = map := by apply nOf_eq; omega
@[simp] theorem try_top : n.toNat * 65536 + map.toNat < 8388608 := by omega
end tryLit
section acasLit
variable (o : BitVec 24) (r : BitVec 5)
@[simp] theorem acas_off : nOf 24 (o.toNat * 256 + r.toNat) 8 = o := by apply nOf_eq; omega
@[simp] theorem acas_new : nOf 5 (o.toNat * 256 + r.toNat) 0 = r := by apply nOf_eq; omega
@[simp] theorem acas_zero : nOf 3 (o.toNat * 256 + r.toNat) 5 = 0 := by apply nOf_eq; simp; omega
end acasLit
section copyLit
variable (dcl : BitVec 4) (dk ss : Bool) (sc : Scope)
theorem scope_lt : sc.code.toNat < 6 := by cases sc <;> decide
@[simp] theorem copy_top : flagsNat (some ⟨dcl, dk, ss, sc⟩) < 1024 := by
  have := toNat_bool_le dk; have := toNat_bool_le ss; have := scope_lt sc; simp only [flagsNat]; omega
@[simp] theorem copy_dcl : nOf 4 (flagsNat (some ⟨dcl, dk, ss, sc⟩)) 6 = dcl := by
  apply nOf_eq; have := toNat_bool_le dk; have := toNat_bool_le ss; have := scope_lt sc; simp only [flagsNat]; omega
@[simp] theorem copy_dk : copyDk (nOf 2 (flagsNat (some ⟨dcl, dk, ss, sc⟩)) 4) = some dk := by
  have h : nOf 2 (flagsNat (some ⟨dcl, dk, ss, sc⟩)) 4 = BitVec.ofNat 2 dk.toNat := by
    apply nOf_eq; have := toNat_bool_le dk; have := toNat_bool_le ss; have := scope_lt sc
    simp only [flagsNat, BitVec.toNat_ofNat]; omega
  rw [h]; cases dk <;> rfl
@[simp] theorem copy_ss : bitAt (flagsNat (some ⟨dcl, dk, ss, sc⟩)) 3 = ss := by
  apply bitAt_eq; have := toNat_bool_le dk; have := toNat_bool_le ss; have := scope_lt sc; simp only [flagsNat]; omega
@[simp] theorem copy_scope : nOf 3 (flagsNat (some ⟨dcl, dk, ss, sc⟩)) 0 = sc.code := by
  apply nOf_eq; have := toNat_bool_le dk; have := toNat_bool_le ss; have := scope_lt sc; simp only [flagsNat]; omega
end copyLit

/-! Codes. -/
@[simp] theorem bcondOf_code (c : BCond) : bcondOf c.code = some c := by cases c <;> rfl
@[simp] theorem scopeOf_code (c : Scope) : scopeOf c.code = some c := by cases c <;> rfl
@[simp] theorem ldszOf_code (c : LdSz) : ldszOf c.code = some c := by cases c <;> rfl
@[simp] theorem stszOf_code (c : ESz) : stszOf c.stCode = some c := by cases c <;> rfl
@[simp] theorem eszOf_code (c : ESz) : eszOf c.code = c := by cases c <;> rfl
@[simp] theorem atyOf_code (c : ATy) : atyOf c.code = c := by cases c <;> rfl
@[simp] theorem lvlOf_code (c : Lvl) : lvlOf c.code = some c := by cases c <;> rfl
@[simp] theorem ityOf_code (c : ITy) : ityOf c.code = some c := by cases c <;> rfl
@[simp] theorem ftyOf_code (c : FTy) : ftyOf c.code = some c := by cases c <;> rfl
@[simp] theorem iccOf_code (c : ICc) : iccOf c.code = some c := by cases c <;> rfl
@[simp] theorem fccOf_code (c : FCc) : fccOf c.code = some c := by cases c <;> rfl
@[simp] theorem fmodOf_code (m : FMod) : fmodOf m.code = some m := by
  obtain ⟨r, s⟩ := m; cases r <;> cases s <;> rfl
@[simp] theorem rtyOf_code (t : RTy) : rtyOf t.fam t.code = some t := by
  cases t with
  | f t => cases t <;> rfl
  | i t => cases t <;> rfl
@[simp] theorem scvtKindOf_code (k : ScvtKind) : scvtKindOf k.kind k.fs = some k := by
  cases k with
  | ff t => cases t <;> rfl
  | _ => rfl
@[simp] theorem scvtZero_code (k : ScvtKind) : scvtZero k.kind k.fs = true := by
  cases k with
  | ff t => cases t <;> rfl
  | _ => rfl

/-! Narrow fields. -/
@[simp] theorem isH_h5 (h : BitVec 4) : isH (h5 h) = true := by revert h; decide
@[simp] theorem hOf_h5 (h : BitVec 4) : hOf (h5 h) = h := by revert h; decide
@[simp] theorem isP_p5 (p : BitVec 3) : isP (p5 p) = true := by revert p; decide
@[simp] theorem pOf_p5 (p : BitVec 3) : pOf (p5 p) = p := by revert p; decide
section x5
variable (hi : BitVec 2) (lo : BitVec 3)
@[simp] theorem xhi_x5 : xhi (x5 hi lo) = hi := by revert hi lo; decide
@[simp] theorem xlo_x5 : xlo (x5 hi lo) = lo := by revert hi lo; decide
end x5
@[simp] theorem x5_bit3 (s : Bool) (lo : BitVec 3) : vbit (x5 (bit1 s) lo) 3 = s := by revert s lo; decide
@[simp] theorem x5_bit4 (s : Bool) (lo : BitVec 3) : vbit (x5 (bit1 s) lo) 4 = false := by revert s lo; decide
@[simp] theorem x5_b3_low (s : Bool) : vbit (x5 0#2 (bit3 s)) 0 = s := by revert s; decide
@[simp] theorem x5_b3_high (s : Bool) : (x5 0#2 (bit3 s) >>> 1).setWidth 4 = (0 : BitVec 4) := by revert s; decide
@[simp] theorem x5_lvl (v : Lvl) : (x5 0#2 (v.code.setWidth 3)).setWidth 2 = v.code := by cases v <;> rfl
@[simp] theorem x5_lvl_high (v : Lvl) : (x5 0#2 (v.code.setWidth 3) >>> 2).setWidth 3 = (0 : BitVec 3) := by cases v <;> rfl
@[simp] theorem x5_low3 (hi : BitVec 2) (lo : BitVec 3) : (x5 hi lo).setWidth 3 = lo := by revert hi lo; decide
@[simp] theorem x5_high2 (hi : BitVec 2) (lo : BitVec 3) : (x5 hi lo >>> 3).setWidth 2 = hi := by revert hi lo; decide
@[simp] theorem x5_q (q f : Bool) (lo : BitVec 3) : vbit (x5 (bit1 q * 2#2 + bit1 f) lo) 4 = q := by revert q f lo; decide
@[simp] theorem x5_dir (q f : Bool) (lo : BitVec 3) : vbit (x5 (bit1 q * 2#2 + bit1 f) lo) 3 = f := by revert q f lo; decide
@[simp] theorem x5_h (h : Bool) : x5 0#2 (bit3 h) < 2#5 := by revert h; decide
@[simp] theorem shift_high (k : BitVec 6) : (k.setWidth 12 >>> 6).setWidth 6 = 0#6 := by revert k; decide
@[simp] theorem bit4_low (s : Bool) : vbit (bit4 s) 0 = s := by revert s; decide
@[simp] theorem bit4_high (s : Bool) : (bit4 s >>> 1).setWidth 3 = (0 : BitVec 3) := by revert s; decide
section pset
variable (z : BitVec 2) (n : BitVec 9)
theorem pset_toNat : (z ++ 0#1 ++ n).toNat = z.toNat * 1024 + n.toNat := by
  have h : (0#1).toNat = 0 := rfl
  rw [BitVec.toNat_append, BitVec.toNat_append, h, Nat.or_zero, ← Nat.shiftLeft_add_eq_or_of_lt n.isLt]
  simp only [Nat.shiftLeft_eq]; omega
@[simp] theorem pset_n : (z ++ 0#1 ++ n).setWidth 9 = n := by
  apply BitVec.eq_of_toNat_eq; rw [BitVec.toNat_setWidth, pset_toNat]; omega
@[simp] theorem pset_z : ((z ++ 0#1 ++ n) >>> 10).setWidth 2 = z := by
  apply BitVec.eq_of_toNat_eq; rw [BitVec.toNat_setWidth, BitVec.toNat_ushiftRight, pset_toNat, Nat.shiftRight_eq_div_pow]; omega
@[simp] theorem pset_9 : vbit (z ++ 0#1 ++ n) 9 = false := by
  rw [vbit, BitVec.getLsbD, pset_toNat, Nat.testBit_eq_decide_div_mod_eq]; simp; omega
end pset

/-! The decoder's helpers on known checks, and the way from a packed word to its arm. The helpers are
never unfolded: a proof that does makes the kernel evaluate field arithmetic on variables. -/
@[simp] theorem chk_tt (i : Instr) : chk true true i = .ok i := rfl
theorem chk_of {x y : Bool} {i : Instr} (h : x = true) (g : y = true) : chk x y i = .ok i := by rw [h, g]; rfl
theorem code_of {α : Type} {o : Option α} {a : α} {k : α → Except DecodeErr Instr} (h : o = some a) : code o k = k a := by
  rw [h]; rfl
@[simp] theorem chk_tf (i : Instr) : chk true false i = .error .nonzeroField := rfl
@[simp] theorem chk_f (b : Bool) (i : Instr) : chk false b i = .error .reservedCode := rfl
@[simp] theorem code_some {α : Type} (a : α) (k : α → Except DecodeErr Instr) : code (some a) k = k a := rfl
@[simp] theorem code_none {α : Type} (k : α → Except DecodeErr Instr) : code none k = .error .reservedCode := rfl
@[simp] theorem noLit_false (k : Except DecodeErr Instr) : noLit false k = k := rfl
@[simp] theorem needLit_true (k : Except DecodeErr Instr) : needLit true k = k := rfl
@[simp] theorem offOf_true (l : Nat) : offOf true l = some (nOf 32 l 0) := rfl
@[simp] theorem offOf_false (l : Nat) : offOf false l = none := rfl
@[simp] theorem immOf_true {n : Nat} (f : BitVec n) (l : Nat) : immOf true f l = .lit (nOf 32 l 0) := rfl
@[simp] theorem immOf_false {n : Nat} (f : BitVec n) (l : Nat) : immOf false f l = .imm f := rfl
@[simp] theorem immOk_false {n : Nat} (f : BitVec n) : immOk false f = true := rfl
@[simp] theorem immOk_zero {n : Nat} (ln : Bool) : immOk ln 0#n = true := by cases ln <;> simp [immOk]
@[simp] theorem litZero_zero (ln : Bool) : litZero ln 0 = true := by cases ln <;> rfl
@[simp] theorem litOf_none : litOf none = 0 := rfl
@[simp] theorem litOf_some (v : BitVec 32) : litOf (some v) = v.toNat := rfl
section imm
variable {n : Nat}
@[simp] theorem field_imm (v : BitVec n) : (Imm.imm v).field = v := rfl
@[simp] theorem field_lit (v : BitVec 32) : (Imm.lit v : Imm n).field = 0 := rfl
@[simp] theorem litNat_imm (v : BitVec n) : (Imm.imm v).litNat = 0 := rfl
@[simp] theorem litNat_lit (v : BitVec 32) : (Imm.lit v : Imm n).litNat = v.toNat := rfl
@[simp] theorem isLit_imm (v : BitVec n) : (Imm.imm v).isLit = false := rfl
@[simp] theorem isLit_lit (v : BitVec 32) : (Imm.lit v : Imm n).isLit = true := rfl
@[simp] theorem lit16_imm (v : BitVec n) : (Imm.imm v).lit16 = true := rfl
end imm
@[simp] theorem tyI_def (w : Nat) (k : ITy → Except DecodeErr Instr) : tyI w k = code (ityOf (aT w)) k := rfl
@[simp] theorem tyF_def (w : Nat) (k : FTy → Except DecodeErr Instr) : tyF w k = code (ftyOf (aT w)) k := rfl
@[simp] theorem tyR_def (w : Nat) (k : RTy → Except DecodeErr Instr) : tyR w k = code (rtyOf (aM w) (aT w)) k := rfl

theorem lead0_packLR (ln : Bool) (wt : BitVec 3) (op : Nat) (d a b x : BitVec 5) (l : Nat) (h : op < 256) (g : op / 64 = 0) :
    decodeLead (packLR ln wt op d a b x) l = decodeLead0 (op % 64) (packLR ln wt op d a b x) l ln := by
  rw [decodeLead, group_packLR (h := h), code_packLR, bit31_packLR (h := h), g]; rfl
theorem lead0_packLI (ln : Bool) (wt : BitVec 3) (op : Nat) (d : BitVec 5) (i : BitVec 15) (l : Nat) (h : op < 256) (g : op / 64 = 0) :
    decodeLead (packLI ln wt op d i) l = decodeLead0 (op % 64) (packLI ln wt op d i) l ln := by
  rw [decodeLead, group_packLI (h := h), code_packLI, bit31_packLI (h := h), g]; rfl
theorem lead0_packLJ (ln : Bool) (wt : BitVec 3) (op : Nat) (i : BitVec 20) (l : Nat) (h : op < 256) (g : op / 64 = 0) :
    decodeLead (packLJ ln wt op i) l = decodeLead0 (op % 64) (packLJ ln wt op i) l ln := by
  rw [decodeLead, group_packLJ (h := h), code_packLJ, bit31_packLJ (h := h), g]; rfl
theorem lead0_packLB (ln : Bool) (wt : BitVec 3) (op : Nat) (c : BitVec 4) (r : BitVec 5) (i : BitVec 11) (l : Nat) (h : op < 256) (g : op / 64 = 0) :
    decodeLead (packLB ln wt op c r i) l = decodeLead0 (op % 64) (packLB ln wt op c r i) l ln := by
  rw [decodeLead, group_packLB (h := h), code_packLB, bit31_packLB (h := h), g]; rfl
theorem lead1_packLR (ln : Bool) (wt : BitVec 3) (op : Nat) (d a b x : BitVec 5) (l : Nat) (h : op < 256) (g : op / 64 = 1) :
    decodeLead (packLR ln wt op d a b x) l = decodeLead1 (op % 64) (packLR ln wt op d a b x) l ln := by
  rw [decodeLead, group_packLR (h := h), code_packLR, bit31_packLR (h := h), g]; rfl
theorem lead1_packLM (ln : Bool) (wt : BitVec 3) (op : Nat) (d a : BitVec 5) (i : BitVec 10) (l : Nat) (h : op < 256) (g : op / 64 = 1) :
    decodeLead (packLM ln wt op d a i) l = decodeLead1 (op % 64) (packLM ln wt op d a i) l ln := by
  rw [decodeLead, group_packLM (h := h), code_packLM, bit31_packLM (h := h), g]; rfl
theorem lead2_packLR (ln : Bool) (wt : BitVec 3) (op : Nat) (d a b x : BitVec 5) (l : Nat) (h : op < 256) (g : op / 64 = 2) :
    decodeLead (packLR ln wt op d a b x) l = decodeLead2 (op % 64) (packLR ln wt op d a b x) l ln := by
  rw [decodeLead, group_packLR (h := h), code_packLR, bit31_packLR (h := h), g]; rfl
theorem lead2_packLI (ln : Bool) (wt : BitVec 3) (op : Nat) (d : BitVec 5) (i : BitVec 15) (l : Nat) (h : op < 256) (g : op / 64 = 2) :
    decodeLead (packLI ln wt op d i) l = decodeLead2 (op % 64) (packLI ln wt op d i) l ln := by
  rw [decodeLead, group_packLI (h := h), code_packLI, bit31_packLI (h := h), g]; rfl
theorem lead3_packLR (ln : Bool) (wt : BitVec 3) (op : Nat) (d a b x : BitVec 5) (l : Nat) (h : op < 256) (g : op / 64 = 3) :
    decodeLead (packLR ln wt op d a b x) l = decodeLead3 (op % 64) (packLR ln wt op d a b x) ln := by
  rw [decodeLead, group_packLR (h := h), code_packLR, bit31_packLR (h := h), g]; rfl
theorem lead3_packLI (ln : Bool) (wt : BitVec 3) (op : Nat) (d : BitVec 5) (i : BitVec 15) (l : Nat) (h : op < 256) (g : op / 64 = 3) :
    decodeLead (packLI ln wt op d i) l = decodeLead3 (op % 64) (packLI ln wt op d i) ln := by
  rw [decodeLead, group_packLI (h := h), code_packLI, bit31_packLI (h := h), g]; rfl
theorem lead0_packRep (wt : BitVec 3) (c : BitVec 5) (n : BitVec 6) (o d a b : Bool) (l : Nat) :
    decodeLead (packRep wt c n o d a b) l = decodeLead0 7 (packRep wt c n o d a b) l false := by
  rw [decodeLead, group_packRep, code_packRep, bit31_packRep]; rfl

theorem arith0_packAR (op : Nat) (p : BitVec 3) (d a b : BitVec 5) (t : BitVec 3) (m : BitVec 4) (h : op < 128) (g : op / 32 = 0) (z : op ≠ 0) :
    decodeArith (packAR op p d a b t m) = decodeArithScalar op (packAR op p d a b t m) := by
  rw [decodeArith, top_packAR (h := h), code_packAR (h := h), g]; simp only [if_neg z]
theorem arith1_packAR (op : Nat) (p : BitVec 3) (d a b : BitVec 5) (t : BitVec 3) (m : BitVec 4) (h : op < 128) (g : op / 32 = 1) :
    decodeArith (packAR op p d a b t m) = decodeArithVInt op (packAR op p d a b t m) := by
  rw [decodeArith, top_packAR (h := h), code_packAR (h := h), g]; rfl
theorem arith2_packAR (op : Nat) (p : BitVec 3) (d a b : BitVec 5) (t : BitVec 3) (m : BitVec 4) (h : op < 128) (g : op / 32 = 2) :
    decodeArith (packAR op p d a b t m) = decodeArithVFloat op (packAR op p d a b t m) := by
  rw [decodeArith, top_packAR (h := h), code_packAR (h := h), g]; rfl
theorem arith3_packAR (op : Nat) (p : BitVec 3) (d a b : BitVec 5) (t : BitVec 3) (m : BitVec 4) (h : op < 128) (g : op / 32 = 3) :
    decodeArith (packAR op p d a b t m) = decodeArithRest op (packAR op p d a b t m) := by
  rw [decodeArith, top_packAR (h := h), code_packAR (h := h), g]; rfl
theorem arith0_packAI (op : Nat) (p : BitVec 3) (d a : BitVec 5) (i : BitVec 12) (h : op < 128) (g : op / 32 = 0) (z : op ≠ 0) :
    decodeArith (packAI op p d a i) = decodeArithScalar op (packAI op p d a i) := by
  rw [decodeArith, top_packAI (h := h), code_packAI (h := h), g]; simp only [if_neg z]
theorem arith3_packAI (op : Nat) (p : BitVec 3) (d a : BitVec 5) (i : BitVec 12) (h : op < 128) (g : op / 32 = 3) :
    decodeArith (packAI op p d a i) = decodeArithRest op (packAI op p d a i) := by
  rw [decodeArith, top_packAI (h := h), code_packAI (h := h), g]; rfl

end Sys2Proof.Laws
end

