-- ==== Sys2Proof/Laws/Exec.lean ====
section
/-! SUPPORT. The dispatch, arm by arm: each instruction runs its own meaning. A proof cites these and does not unfold `exec`. -/
namespace Sys2Proof.Machine
open Sys2Proof

@[simp] theorem exec_nop (st : State) : exec .nop st = execNop st := rfl
@[simp] theorem exec_bra (off : Imm 20) (st : State) : exec (.bra off) st = execBra off st := rfl
@[simp] theorem exec_bc (c : BCond) (r : BitVec 5) (off : Imm 11) (st : State) : exec (.bc c r off) st = execBc c r off st := rfl
@[simp] theorem exec_call (off : Imm 20) (st : State) : exec (.call off) st = execCall off st := rfl
@[simp] theorem exec_calli (d a : BitVec 5) (st : State) : exec (.calli d a) st = execCalli d a st := rfl
@[simp] theorem exec_ret (a : BitVec 5) (st : State) : exec (.ret a) st = execRet a st := rfl
@[simp] theorem exec_jmpi (a : BitVec 5) (st : State) : exec (.jmpi a) st = execJmpi a st := rfl
@[simp] theorem exec_rep (creg : BitVec 5) (cnt : BitVec 6) (stepO stepD stepA stepB : Bool) (st : State) : exec (.rep creg cnt stepO stepD stepA stepB) st = execRep creg cnt stepO stepD stepA stepB st := rfl
@[simp] theorem exec_yield (map : Imm 15) (st : State) : exec (.yield map) st = execYield map st := rfl
@[simp] theorem exec_safe (map : Imm 15) (st : State) : exec (.safe map) st = execSafe map st := rfl
@[simp] theorem exec_endCont (st : State) : exec .endCont st = execEndCont st := rfl
@[simp] theorem exec_work (d : BitVec 5) (amount : Imm 15) (st : State) : exec (.work d amount) st = execWork d amount st := rfl
@[simp] theorem exec_wait (h : BitVec 4) (st : State) : exec (.wait h) st = execWait h st := rfl
@[simp] theorem exec_ftest (d : BitVec 5) (h : BitVec 4) (st : State) : exec (.ftest d h) st = execFtest d h st := rfl
@[simp] theorem exec_fcancel (h : BitVec 4) (st : State) : exec (.fcancel h) st = execFcancel h st := rfl
@[simp] theorem exec_fget (d : BitVec 5) (h : BitVec 4) (st : State) : exec (.fget d h) st = execFget d h st := rfl
@[simp] theorem exec_fput (h : BitVec 4) (a : BitVec 5) (st : State) : exec (.fput h a) st = execFput h a st := rfl
@[simp] theorem exec_tryChoice (a b : BitVec 5) (n : BitVec 7) (map : BitVec 16) (st : State) : exec (.tryChoice a b n map) st = execTryChoice a b n map st := rfl
@[simp] theorem exec_fail (st : State) : exec .fail st = execFail st := rfl
@[simp] theorem exec_cut (d : BitVec 5) (depth : BitVec 15) (st : State) : exec (.cut d depth) st = execCut d depth st := rfl
@[simp] theorem exec_mark (d : BitVec 5) (st : State) : exec (.mark d) st = execMark d st := rfl
@[simp] theorem exec_commit (h : BitVec 4) (a : BitVec 5) (map : BitVec 16) (st : State) : exec (.commit h a map) st = execCommit h a map st := rfl
@[simp] theorem exec_tread (d a b : BitVec 5) (h : BitVec 4) (ver : BitVec 32) (st : State) : exec (.tread d a b h ver) st = execTread d a b h ver st := rfl
@[simp] theorem exec_tver (d a : BitVec 5) (st : State) : exec (.tver d a) st = execTver d a st := rfl
@[simp] theorem exec_quit (st : State) : exec .quit st = execQuit st := rfl
@[simp] theorem exec_svc (d : BitVec 5) (n : Imm 15) (st : State) : exec (.svc d n) st = execSvc d n st := rfl
@[simp] theorem exec_lit (d : BitVec 5) (v : Imm 15) (st : State) : exec (.lit d v) st = execLit d v st := rfl
@[simp] theorem exec_lithi (d : BitVec 5) (v : Imm 15) (st : State) : exec (.lithi d v) st = execLithi d v st := rfl
@[simp] theorem exec_vlit (d : BitVec 5) (v : Imm 15) (st : State) : exec (.vlit d v) st = execVlit d v st := rfl
@[simp] theorem exec_ldW8 (d a : BitVec 5) (off : Imm 10) (st : State) : exec (.ldW8 d a off) st = execLdW8 d a off st := rfl
@[simp] theorem exec_ldI8 (d a : BitVec 5) (off : Imm 10) (st : State) : exec (.ldI8 d a off) st = execLdI8 d a off st := rfl
@[simp] theorem exec_ldW16 (d a : BitVec 5) (off : Imm 10) (st : State) : exec (.ldW16 d a off) st = execLdW16 d a off st := rfl
@[simp] theorem exec_ldI16 (d a : BitVec 5) (off : Imm 10) (st : State) : exec (.ldI16 d a off) st = execLdI16 d a off st := rfl
@[simp] theorem exec_stage (n : BitVec 15) (st : State) : exec (.stage n) st = execStage n st := rfl
@[simp] theorem exec_ldW32 (d a : BitVec 5) (off : Imm 10) (st : State) : exec (.ldW32 d a off) st = execLdW32 d a off st := rfl
@[simp] theorem exec_ldI32 (d a : BitVec 5) (off : Imm 10) (st : State) : exec (.ldI32 d a off) st = execLdI32 d a off st := rfl
@[simp] theorem exec_ldW64 (d a : BitVec 5) (off : Imm 10) (st : State) : exec (.ldW64 d a off) st = execLdW64 d a off st := rfl
@[simp] theorem exec_stW8 (d a : BitVec 5) (off : Imm 10) (st : State) : exec (.stW8 d a off) st = execStW8 d a off st := rfl
@[simp] theorem exec_mxrot (h : BitVec 4) (lone : Bool) (st : State) : exec (.mxrot h lone) st = execMxrot h lone st := rfl
@[simp] theorem exec_stW16 (d a : BitVec 5) (off : Imm 10) (st : State) : exec (.stW16 d a off) st = execStW16 d a off st := rfl
@[simp] theorem exec_stW32 (d a : BitVec 5) (off : Imm 10) (st : State) : exec (.stW32 d a off) st = execStW32 d a off st := rfl
@[simp] theorem exec_stW64 (d a : BitVec 5) (off : Imm 10) (st : State) : exec (.stW64 d a off) st = execStW64 d a off st := rfl
@[simp] theorem exec_ldx (d a b : BitVec 5) (sc : Bool) (sz : LdSz) (off : Option (BitVec 32)) (st : State) : exec (.ldx d a b sc sz off) st = execLdx d a b sc sz off st := rfl
@[simp] theorem exec_stx (d a b : BitVec 5) (sc : Bool) (sz : ESz) (off : Option (BitVec 32)) (st : State) : exec (.stx d a b sc sz off) st = execStx d a b sc sz off st := rfl
@[simp] theorem exec_vld (d a : BitVec 5) (off : Imm 10) (st : State) : exec (.vld d a off) st = execVld d a off st := rfl
@[simp] theorem exec_vst (d a : BitVec 5) (off : Imm 10) (st : State) : exec (.vst d a off) st = execVst d a off st := rfl
@[simp] theorem exec_vlds (d a b : BitVec 5) (e : ESz) (p : BitVec 3) (off : Option (BitVec 32)) (st : State) : exec (.vlds d a b e p off) st = execVlds d a b e p off st := rfl
@[simp] theorem exec_vsts (d a b : BitVec 5) (e : ESz) (p : BitVec 3) (off : Option (BitVec 32)) (st : State) : exec (.vsts d a b e p off) st = execVsts d a b e p off st := rfl
@[simp] theorem exec_vgat (d a b : BitVec 5) (e : ESz) (p : BitVec 3) (off : Option (BitVec 32)) (st : State) : exec (.vgat d a b e p off) st = execVgat d a b e p off st := rfl
@[simp] theorem exec_barl (st : State) : exec .barl st = execBarl st := rfl
@[simp] theorem exec_vsct (d a b : BitVec 5) (e : ESz) (p : BitVec 3) (off : Option (BitVec 32)) (st : State) : exec (.vsct d a b e p off) st = execVsct d a b e p off st := rfl
@[simp] theorem exec_vldb (d a : BitVec 5) (e : ESz) (p : BitVec 3) (off : Option (BitVec 32)) (st : State) : exec (.vldb d a e p off) st = execVldb d a e p off st := rfl
@[simp] theorem exec_ldsync (d a : BitVec 5) (sz : LdSz) (off : Option (BitVec 32)) (st : State) : exec (.ldsync d a sz off) st = execLdsync d a sz off st := rfl
@[simp] theorem exec_vldsync (d a : BitVec 5) (off : Imm 10) (st : State) : exec (.vldsync d a off) st = execVldsync d a off st := rfl
@[simp] theorem exec_stfull (d a : BitVec 5) (off : Imm 10) (st : State) : exec (.stfull d a off) st = execStfull d a off st := rfl
@[simp] theorem exec_vstfull (d a : BitVec 5) (off : Imm 10) (st : State) : exec (.vstfull d a off) st = execVstfull d a off st := rfl
@[simp] theorem exec_femp (a b : BitVec 5) (off : Option (BitVec 32)) (st : State) : exec (.femp a b off) st = execFemp a b off st := rfl
@[simp] theorem exec_arithNop (st : State) : exec .arithNop st = execArithNop st := rfl
@[simp] theorem exec_ldacq (d a : BitVec 5) (sz : ESz) (sc : Scope) (off : Option (BitVec 32)) (st : State) : exec (.ldacq d a sz sc off) st = execLdacq d a sz sc off st := rfl
@[simp] theorem exec_strel (d a : BitVec 5) (sz : ESz) (sc : Scope) (off : Option (BitVec 32)) (st : State) : exec (.strel d a sz sc off) st = execStrel d a sz sc off st := rfl
@[simp] theorem exec_afadd (d a b : BitVec 5) (t : ATy) (sc : Scope) (off : Option (BitVec 32)) (st : State) : exec (.afadd d a b t sc off) st = execAfadd d a b t sc off st := rfl
@[simp] theorem exec_afmin (d a b : BitVec 5) (t : ATy) (sc : Scope) (off : Option (BitVec 32)) (st : State) : exec (.afmin d a b t sc off) st = execAfmin d a b t sc off st := rfl
@[simp] theorem exec_afmax (d a b : BitVec 5) (t : ATy) (sc : Scope) (off : Option (BitVec 32)) (st : State) : exec (.afmax d a b t sc off) st = execAfmax d a b t sc off st := rfl
@[simp] theorem exec_fence (sc : Scope) (st : State) : exec (.fence sc) st = execFence sc st := rfl
@[simp] theorem exec_afand (d a b : BitVec 5) (t : ATy) (sc : Scope) (off : Option (BitVec 32)) (st : State) : exec (.afand d a b t sc off) st = execAfand d a b t sc off st := rfl
@[simp] theorem exec_afor (d a b : BitVec 5) (t : ATy) (sc : Scope) (off : Option (BitVec 32)) (st : State) : exec (.afor d a b t sc off) st = execAfor d a b t sc off st := rfl
@[simp] theorem exec_afxor (d a b : BitVec 5) (t : ATy) (sc : Scope) (off : Option (BitVec 32)) (st : State) : exec (.afxor d a b t sc off) st = execAfxor d a b t sc off st := rfl
@[simp] theorem exec_pref (a : BitVec 5) (lvl : Lvl) (off : Option (BitVec 32)) (st : State) : exec (.pref a lvl off) st = execPref a lvl off st := rfl
@[simp] theorem exec_aswap (d a b : BitVec 5) (t : ATy) (sc : Scope) (off : Option (BitVec 32)) (st : State) : exec (.aswap d a b t sc off) st = execAswap d a b t sc off st := rfl
@[simp] theorem exec_affadd (d a b : BitVec 5) (sc : Scope) (off : Option (BitVec 32)) (st : State) : exec (.affadd d a b sc off) st = execAffadd d a b sc off st := rfl
@[simp] theorem exec_acas (d a b : BitVec 5) (t : ATy) (sc : Scope) (off : BitVec 24) (new : BitVec 5) (st : State) : exec (.acas d a b t sc off new) st = execAcas d a b t sc off new st := rfl
@[simp] theorem exec_pin (d a b : BitVec 5) (l3 : Bool) (off : Option (BitVec 32)) (st : State) : exec (.pin d a b l3 off) st = execPin d a b l3 off st := rfl
@[simp] theorem exec_unpin (a b : BitVec 5) (l3 : Bool) (off : Option (BitVec 32)) (st : State) : exec (.unpin a b l3 off) st = execUnpin a b l3 off st := rfl
@[simp] theorem exec_cflush (a b : BitVec 5) (off : Option (BitVec 32)) (st : State) : exec (.cflush a b off) st = execCflush a b off st := rfl
@[simp] theorem exec_cinv (a b : BitVec 5) (off : Option (BitVec 32)) (st : State) : exec (.cinv a b off) st = execCinv a b off st := rfl
@[simp] theorem exec_copy (h : BitVec 4) (d s n : BitVec 5) (fl : Option CopyFlags) (st : State) : exec (.copy h d s n fl) st = execCopy h d s n fl st := rfl
@[simp] theorem exec_copy2 (h : BitVec 4) (d s k : BitVec 5) (fl : Option CopyFlags) (st : State) : exec (.copy2 h d s k fl) st = execCopy2 h d s k fl st := rfl
@[simp] theorem exec_copym (h : BitVec 4) (d s n : BitVec 5) (fl : Option CopyFlags) (st : State) : exec (.copym h d s n fl) st = execCopym h d s n fl st := rfl
@[simp] theorem exec_mxld (h : BitVec 4) (a : BitVec 5) (off : Option (BitVec 32)) (st : State) : exec (.mxld h a off) st = execMxld h a off st := rfl
@[simp] theorem exec_mxmm (h : BitVec 4) (a b code : BitVec 5) (off : Option (BitVec 32)) (st : State) : exec (.mxmm h a b code off) st = execMxmm h a b code off st := rfl
@[simp] theorem exec_mxsp (h : BitVec 4) (a b c : BitVec 5) (off : Option (BitVec 32)) (st : State) : exec (.mxsp h a b c off) st = execMxsp h a b c off st := rfl
@[simp] theorem exec_mxgrp (h : BitVec 4) (a b k : BitVec 5) (off : Option (BitVec 32)) (st : State) : exec (.mxgrp h a b k off) st = execMxgrp h a b k off st := rfl
@[simp] theorem exec_mxclr (h : BitVec 4) (b : BitVec 5) (lone : Bool) (st : State) : exec (.mxclr h b lone) st = execMxclr h b lone st := rfl
@[simp] theorem exec_mxrd (h : BitVec 4) (a b c : BitVec 5) (lone : Bool) (st : State) : exec (.mxrd h a b c lone) st = execMxrd h a b c lone st := rfl
@[simp] theorem exec_mxmeta (h : BitVec 4) (a b c : BitVec 5) (lone : Bool) (st : State) : exec (.mxmeta h a b c lone) st = execMxmeta h a b c lone st := rfl
@[simp] theorem exec_mxcmd (h : BitVec 4) (a b : BitVec 5) (cap : BitVec 32) (st : State) : exec (.mxcmd h a b cap) st = execMxcmd h a b cap st := rfl
@[simp] theorem exec_msg (h : BitVec 4) (a b c : BitVec 5) (tag : Option (BitVec 32)) (st : State) : exec (.msg h a b c tag) st = execMsg h a b c tag st := rfl
@[simp] theorem exec_recv (d a : BitVec 5) (st : State) : exec (.recv d a) st = execRecv d a st := rfl
@[simp] theorem exec_bar (level : BitVec 5) (map : Imm 15) (st : State) : exec (.bar level map) st = execBar level map st := rfl
@[simp] theorem exec_gets (d : BitVec 5) (n : BitVec 15) (st : State) : exec (.gets d n) st = execGets d n st := rfl
@[simp] theorem exec_puts (d : BitVec 5) (n : BitVec 15) (st : State) : exec (.puts d n) st = execPuts d n st := rfl
@[simp] theorem exec_hret (a : BitVec 5) (st : State) : exec (.hret a) st = execHret a st := rfl
@[simp] theorem exec_hand (d a : BitVec 5) (st : State) : exec (.hand d a) st = execHand d a st := rfl
@[simp] theorem exec_rseed (a b : BitVec 5) (st : State) : exec (.rseed a b) st = execRseed a b st := rfl
@[simp] theorem exec_park (a : BitVec 5) (st : State) : exec (.park a) st = execPark a st := rfl
@[simp] theorem exec_add (p : BitVec 3) (d a b : BitVec 5) (t : ITy) (st : State) : exec (.add p d a b t) st = execAdd p d a b t st := rfl
@[simp] theorem exec_sub (p : BitVec 3) (d a b : BitVec 5) (t : ITy) (st : State) : exec (.sub p d a b t) st = execSub p d a b t st := rfl
@[simp] theorem exec_mul (p : BitVec 3) (d a b : BitVec 5) (t : ITy) (st : State) : exec (.mul p d a b t) st = execMul p d a b t st := rfl
@[simp] theorem exec_set (p : BitVec 3) (d a b : BitVec 5) (t : ITy) (c : ICc) (st : State) : exec (.set p d a b t c) st = execSet p d a b t c st := rfl
@[simp] theorem exec_mulh (p : BitVec 3) (d a b : BitVec 5) (t : ITy) (st : State) : exec (.mulh p d a b t) st = execMulh p d a b t st := rfl
@[simp] theorem exec_div (p : BitVec 3) (d a b : BitVec 5) (t : ITy) (st : State) : exec (.div p d a b t) st = execDiv p d a b t st := rfl
@[simp] theorem exec_rem (p : BitVec 3) (d a b : BitVec 5) (t : ITy) (st : State) : exec (.rem p d a b t) st = execRem p d a b t st := rfl
@[simp] theorem exec_clz (p : BitVec 3) (d a : BitVec 5) (t : ITy) (st : State) : exec (.clz p d a t) st = execClz p d a t st := rfl
@[simp] theorem exec_and (p : BitVec 3) (d a b : BitVec 5) (t : ITy) (st : State) : exec (.and p d a b t) st = execAnd p d a b t st := rfl
@[simp] theorem exec_or (p : BitVec 3) (d a b : BitVec 5) (t : ITy) (st : State) : exec (.or p d a b t) st = execOr p d a b t st := rfl
@[simp] theorem exec_xor (p : BitVec 3) (d a b : BitVec 5) (t : ITy) (st : State) : exec (.xor p d a b t) st = execXor p d a b t st := rfl
@[simp] theorem exec_popc (p : BitVec 3) (d a : BitVec 5) (t : ITy) (st : State) : exec (.popc p d a t) st = execPopc p d a t st := rfl
@[simp] theorem exec_andn (p : BitVec 3) (d a b : BitVec 5) (t : ITy) (st : State) : exec (.andn p d a b t) st = execAndn p d a b t st := rfl
@[simp] theorem exec_shl (p : BitVec 3) (d a b : BitVec 5) (t : ITy) (st : State) : exec (.shl p d a b t) st = execShl p d a b t st := rfl
@[simp] theorem exec_shr (p : BitVec 3) (d a b : BitVec 5) (t : ITy) (st : State) : exec (.shr p d a b t) st = execShr p d a b t st := rfl
@[simp] theorem exec_mov (p : BitVec 3) (d a : BitVec 5) (t : ITy) (st : State) : exec (.mov p d a t) st = execMov p d a t st := rfl
@[simp] theorem exec_sra (p : BitVec 3) (d a b : BitVec 5) (t : ITy) (st : State) : exec (.sra p d a b t) st = execSra p d a b t st := rfl
@[simp] theorem exec_rot (p : BitVec 3) (d a b : BitVec 5) (t : ITy) (st : State) : exec (.rot p d a b t) st = execRot p d a b t st := rfl
@[simp] theorem exec_min (p : BitVec 3) (d a b : BitVec 5) (t : ITy) (st : State) : exec (.min p d a b t) st = execMin p d a b t st := rfl
@[simp] theorem exec_addi (p : BitVec 3) (d a : BitVec 5) (i : BitVec 12) (st : State) : exec (.addi p d a i) st = execAddi p d a i st := rfl
@[simp] theorem exec_max (p : BitVec 3) (d a b : BitVec 5) (t : ITy) (st : State) : exec (.max p d a b t) st = execMax p d a b t st := rfl
@[simp] theorem exec_sel (p : BitVec 3) (d a b : BitVec 5) (t : ITy) (st : State) : exec (.sel p d a b t) st = execSel p d a b t st := rfl
@[simp] theorem exec_adds (p : BitVec 3) (d a b : BitVec 5) (t : ITy) (st : State) : exec (.adds p d a b t) st = execAdds p d a b t st := rfl
@[simp] theorem exec_andi (p : BitVec 3) (d a : BitVec 5) (i : BitVec 12) (st : State) : exec (.andi p d a i) st = execAndi p d a i st := rfl
@[simp] theorem exec_bext (p : BitVec 3) (d a b : BitVec 5) (t : ITy) (st : State) : exec (.bext p d a b t) st = execBext p d a b t st := rfl
@[simp] theorem exec_bins (p : BitVec 3) (d a b : BitVec 5) (t : ITy) (st : State) : exec (.bins p d a b t) st = execBins p d a b t st := rfl
@[simp] theorem exec_ori (p : BitVec 3) (d a : BitVec 5) (i : BitVec 12) (st : State) : exec (.ori p d a i) st = execOri p d a i st := rfl
@[simp] theorem exec_xori (p : BitVec 3) (d a : BitVec 5) (i : BitVec 12) (st : State) : exec (.xori p d a i) st = execXori p d a i st := rfl
@[simp] theorem exec_shli (p : BitVec 3) (d a : BitVec 5) (k : BitVec 6) (st : State) : exec (.shli p d a k) st = execShli p d a k st := rfl
@[simp] theorem exec_vadd (p : BitVec 3) (d a b : BitVec 5) (t : ITy) (st : State) : exec (.vadd p d a b t) st = execVadd p d a b t st := rfl
@[simp] theorem exec_shri (p : BitVec 3) (d a : BitVec 5) (k : BitVec 6) (st : State) : exec (.shri p d a k) st = execShri p d a k st := rfl
@[simp] theorem exec_vsub (p : BitVec 3) (d a b : BitVec 5) (t : ITy) (st : State) : exec (.vsub p d a b t) st = execVsub p d a b t st := rfl
@[simp] theorem exec_vmul (p : BitVec 3) (d a b : BitVec 5) (t : ITy) (st : State) : exec (.vmul p d a b t) st = execVmul p d a b t st := rfl
@[simp] theorem exec_vmulh (p : BitVec 3) (d a b : BitVec 5) (t : ITy) (st : State) : exec (.vmulh p d a b t) st = execVmulh p d a b t st := rfl
@[simp] theorem exec_vabs (p : BitVec 3) (d a : BitVec 5) (t : ITy) (st : State) : exec (.vabs p d a t) st = execVabs p d a t st := rfl
@[simp] theorem exec_vaddsat (p : BitVec 3) (d a b : BitVec 5) (t : ITy) (st : State) : exec (.vaddsat p d a b t) st = execVaddsat p d a b t st := rfl
@[simp] theorem exec_vsubsat (p : BitVec 3) (d a b : BitVec 5) (t : ITy) (st : State) : exec (.vsubsat p d a b t) st = execVsubsat p d a b t st := rfl
@[simp] theorem exec_vand (p : BitVec 3) (d a b : BitVec 5) (t : ITy) (st : State) : exec (.vand p d a b t) st = execVand p d a b t st := rfl
@[simp] theorem exec_vneg (p : BitVec 3) (d a : BitVec 5) (t : ITy) (st : State) : exec (.vneg p d a t) st = execVneg p d a t st := rfl
@[simp] theorem exec_vor (p : BitVec 3) (d a b : BitVec 5) (t : ITy) (st : State) : exec (.vor p d a b t) st = execVor p d a b t st := rfl
@[simp] theorem exec_vxor (p : BitVec 3) (d a b : BitVec 5) (t : ITy) (st : State) : exec (.vxor p d a b t) st = execVxor p d a b t st := rfl
@[simp] theorem exec_vandn (p : BitVec 3) (d a b : BitVec 5) (t : ITy) (st : State) : exec (.vandn p d a b t) st = execVandn p d a b t st := rfl
@[simp] theorem exec_vfabs (p : BitVec 3) (d a : BitVec 5) (t : FTy) (st : State) : exec (.vfabs p d a t) st = execVfabs p d a t st := rfl
@[simp] theorem exec_vshl (p : BitVec 3) (d a b : BitVec 5) (t : ITy) (st : State) : exec (.vshl p d a b t) st = execVshl p d a b t st := rfl
@[simp] theorem exec_vshr (p : BitVec 3) (d a b : BitVec 5) (t : ITy) (st : State) : exec (.vshr p d a b t) st = execVshr p d a b t st := rfl
@[simp] theorem exec_vsra (p : BitVec 3) (d a b : BitVec 5) (t : ITy) (st : State) : exec (.vsra p d a b t) st = execVsra p d a b t st := rfl
@[simp] theorem exec_vfneg (p : BitVec 3) (d a : BitVec 5) (t : FTy) (st : State) : exec (.vfneg p d a t) st = execVfneg p d a t st := rfl
@[simp] theorem exec_vmin (p : BitVec 3) (d a b : BitVec 5) (t : ITy) (st : State) : exec (.vmin p d a b t) st = execVmin p d a b t st := rfl
@[simp] theorem exec_vmax (p : BitVec 3) (d a b : BitVec 5) (t : ITy) (st : State) : exec (.vmax p d a b t) st = execVmax p d a b t st := rfl
@[simp] theorem exec_vdot4 (p : BitVec 3) (d a b : BitVec 5) (t : ITy) (sat : Bool) (st : State) : exec (.vdot4 p d a b t sat) st = execVdot4 p d a b t sat st := rfl
@[simp] theorem exec_vcmp (p : BitVec 3) (d : BitVec 3) (a b : BitVec 5) (t : ITy) (c : ICc) (st : State) : exec (.vcmp p d a b t c) st = execVcmp p d a b t c st := rfl
@[simp] theorem exec_vsel (p : BitVec 3) (d a : BitVec 5) (b : BitVec 3) (t : ITy) (st : State) : exec (.vsel p d a b t) st = execVsel p d a b t st := rfl
@[simp] theorem exec_vfadd (p : BitVec 3) (d a b : BitVec 5) (t : FTy) (m : FMod) (st : State) : exec (.vfadd p d a b t m) st = execVfadd p d a b t m st := rfl
@[simp] theorem exec_vfsub (p : BitVec 3) (d a b : BitVec 5) (t : FTy) (m : FMod) (st : State) : exec (.vfsub p d a b t m) st = execVfsub p d a b t m st := rfl
@[simp] theorem exec_vfmul (p : BitVec 3) (d a b : BitVec 5) (t : FTy) (m : FMod) (st : State) : exec (.vfmul p d a b t m) st = execVfmul p d a b t m st := rfl
@[simp] theorem exec_storeDrain (core : Nat) (st : State) : exec (.storeDrain core) st = execStoreDrain core st := rfl
@[simp] theorem exec_vfma (p : BitVec 3) (d a b : BitVec 5) (t : FTy) (m : FMod) (st : State) : exec (.vfma p d a b t m) st = execVfma p d a b t m st := rfl
@[simp] theorem exec_vfms (p : BitVec 3) (d a b : BitVec 5) (t : FTy) (m : FMod) (st : State) : exec (.vfms p d a b t m) st = execVfms p d a b t m st := rfl
@[simp] theorem exec_vfnma (p : BitVec 3) (d a b : BitVec 5) (t : FTy) (m : FMod) (st : State) : exec (.vfnma p d a b t m) st = execVfnma p d a b t m st := rfl
@[simp] theorem exec_pnot (p d a : BitVec 3) (st : State) : exec (.pnot p d a) st = execPnot p d a st := rfl
@[simp] theorem exec_vfmin (p : BitVec 3) (d a b : BitVec 5) (t : FTy) (st : State) : exec (.vfmin p d a b t) st = execVfmin p d a b t st := rfl
@[simp] theorem exec_vfmax (p : BitVec 3) (d a b : BitVec 5) (t : FTy) (st : State) : exec (.vfmax p d a b t) st = execVfmax p d a b t st := rfl
@[simp] theorem exec_vfcmp (p : BitVec 3) (d : BitVec 3) (a b : BitVec 5) (t : FTy) (c : FCc) (st : State) : exec (.vfcmp p d a b t c) st = execVfcmp p d a b t c st := rfl
@[simp] theorem exec_vfrcp (p : BitVec 3) (d a : BitVec 5) (t : FTy) (m : FMod) (st : State) : exec (.vfrcp p d a t m) st = execVfrcp p d a t m st := rfl
@[simp] theorem exec_vfrsq (p : BitVec 3) (d a : BitVec 5) (t : FTy) (m : FMod) (st : State) : exec (.vfrsq p d a t m) st = execVfrsq p d a t m st := rfl
@[simp] theorem exec_vfsqrt (p : BitVec 3) (d a : BitVec 5) (t : FTy) (m : FMod) (st : State) : exec (.vfsqrt p d a t m) st = execVfsqrt p d a t m st := rfl
@[simp] theorem exec_pcnt (p : BitVec 3) (d : BitVec 5) (a : BitVec 3) (st : State) : exec (.pcnt p d a) st = execPcnt p d a st := rfl
@[simp] theorem exec_vfexp2 (p : BitVec 3) (d a : BitVec 5) (t : FTy) (m : FMod) (st : State) : exec (.vfexp2 p d a t m) st = execVfexp2 p d a t m st := rfl
@[simp] theorem exec_vflog2 (p : BitVec 3) (d a : BitVec 5) (t : FTy) (m : FMod) (st : State) : exec (.vflog2 p d a t m) st = execVflog2 p d a t m st := rfl
@[simp] theorem exec_vftanh (p : BitVec 3) (d a : BitVec 5) (t : FTy) (m : FMod) (st : State) : exec (.vftanh p d a t m) st = execVftanh p d a t m st := rfl
@[simp] theorem exec_vfscale (p : BitVec 3) (d a b : BitVec 5) (t : FTy) (m : FMod) (st : State) : exec (.vfscale p d a b t m) st = execVfscale p d a b t m st := rfl
@[simp] theorem exec_vfsinpi (p : BitVec 3) (d a : BitVec 5) (t : FTy) (m : FMod) (st : State) : exec (.vfsinpi p d a t m) st = execVfsinpi p d a t m st := rfl
@[simp] theorem exec_vfcospi (p : BitVec 3) (d a : BitVec 5) (t : FTy) (m : FMod) (st : State) : exec (.vfcospi p d a t m) st = execVfcospi p d a t m st := rfl
@[simp] theorem exec_vfdot2 (p : BitVec 3) (d a b : BitVec 5) (t : FTy) (m : FMod) (st : State) : exec (.vfdot2 p d a b t m) st = execVfdot2 p d a b t m st := rfl
@[simp] theorem exec_vcvt (p : BitVec 3) (d a : BitVec 5) (q : BitVec 2) (ts td : FTy) (m : FMod) (st : State) : exec (.vcvt p d a q ts td m) st = execVcvt p d a q ts td m st := rfl
@[simp] theorem exec_vcvti (p : BitVec 3) (d a : BitVec 5) (q : Bool) (toFloat : Bool) (f : FTy) (t : ITy) (m : FMod) (st : State) : exec (.vcvti p d a q toFloat f t m) st = execVcvti p d a q toFloat f t m st := rfl
@[simp] theorem exec_vpack (p : BitVec 3) (d a b : BitVec 5) (t : FTy) (m : FMod) (st : State) : exec (.vpack p d a b t m) st = execVpack p d a b t m st := rfl
@[simp] theorem exec_vunpk (p : BitVec 3) (d a : BitVec 5) (h : Bool) (t : FTy) (st : State) : exec (.vunpk p d a h t) st = execVunpk p d a h t st := rfl
@[simp] theorem exec_scvt (p : BitVec 3) (d a : BitVec 5) (k : ScvtKind) (t : FTy) (m : FMod) (st : State) : exec (.scvt p d a k t m) st = execScvt p d a k t m st := rfl
@[simp] theorem exec_vbnd (p : BitVec 3) (d : BitVec 3) (a b : BitVec 5) (t : ITy) (st : State) : exec (.vbnd p d a b t) st = execVbnd p d a b t st := rfl
@[simp] theorem exec_pand (p d a b : BitVec 3) (st : State) : exec (.pand p d a b) st = execPand p d a b st := rfl
@[simp] theorem exec_por (p d a b : BitVec 3) (st : State) : exec (.por p d a b) st = execPor p d a b st := rfl
@[simp] theorem exec_pxor (p d a b : BitVec 3) (st : State) : exec (.pxor p d a b) st = execPxor p d a b st := rfl
@[simp] theorem exec_pfirst (p : BitVec 3) (d : BitVec 5) (a : BitVec 3) (st : State) : exec (.pfirst p d a) st = execPfirst p d a st := rfl
@[simp] theorem exec_pset (p d : BitVec 3) (z : BitVec 2) (n : BitVec 9) (st : State) : exec (.pset p d z n) st = execPset p d z n st := rfl
@[simp] theorem exec_vrsum (p : BitVec 3) (d a : BitVec 5) (t : RTy) (st : State) : exec (.vrsum p d a t) st = execVrsum p d a t st := rfl
@[simp] theorem exec_vrmax (p : BitVec 3) (d a : BitVec 5) (t : RTy) (st : State) : exec (.vrmax p d a t) st = execVrmax p d a t st := rfl
@[simp] theorem exec_vperm (p : BitVec 3) (d a b : BitVec 5) (t : ITy) (st : State) : exec (.vperm p d a b t) st = execVperm p d a b t st := rfl
@[simp] theorem exec_vrmin (p : BitVec 3) (d a : BitVec 5) (t : RTy) (st : State) : exec (.vrmin p d a t) st = execVrmin p d a t st := rfl
@[simp] theorem exec_vramax (p : BitVec 3) (d a : BitVec 5) (t : FTy) (st : State) : exec (.vramax p d a t) st = execVramax p d a t st := rfl
@[simp] theorem exec_vbcast (p : BitVec 3) (d a : BitVec 5) (t : ITy) (st : State) : exec (.vbcast p d a t) st = execVbcast p d a t st := rfl
@[simp] theorem exec_vslide (p : BitVec 3) (d a b : BitVec 5) (t : ITy) (st : State) : exec (.vslide p d a b t) st = execVslide p d a b t st := rfl
@[simp] theorem exec_vzip (p : BitVec 3) (d a b : BitVec 5) (t : ITy) (h : Bool) (st : State) : exec (.vzip p d a b t h) st = execVzip p d a b t h st := rfl
@[simp] theorem exec_vunzip (p : BitVec 3) (d a b : BitVec 5) (t : ITy) (h : Bool) (st : State) : exec (.vunzip p d a b t h) st = execVunzip p d a b t h st := rfl
@[simp] theorem exec_vcomp (p : BitVec 3) (d a : BitVec 5) (b : BitVec 3) (t : ITy) (st : State) : exec (.vcomp p d a b t) st = execVcomp p d a b t st := rfl
@[simp] theorem exec_vscan (p : BitVec 3) (d a : BitVec 5) (t : RTy) (st : State) : exec (.vscan p d a t) st = execVscan p d a t st := rfl
@[simp] theorem exec_vmovs (p : BitVec 3) (d a b : BitVec 5) (t : ITy) (st : State) : exec (.vmovs p d a b t) st = execVmovs p d a b t st := rfl
@[simp] theorem exec_vins (p : BitVec 3) (d a b : BitVec 5) (t : ITy) (st : State) : exec (.vins p d a b t) st = execVins p d a b t st := rfl
@[simp] theorem exec_rand (p : BitVec 3) (d : BitVec 5) (t : ITy) (st : State) : exec (.rand p d t) st = execRand p d t st := rfl
@[simp] theorem exec_randf (p : BitVec 3) (d a : BitVec 5) (t : FTy) (st : State) : exec (.randf p d a t) st = execRandf p d a t st := rfl
@[simp] theorem exec_vwid (p : BitVec 3) (d : BitVec 5) (t : ITy) (st : State) : exec (.vwid p d t) st = execVwid p d t st := rfl
@[simp] theorem exec_loadReply (th : Nat) (ans : HomeAnswer) (st : State) : exec (.loadReply th ans) st = execLoadReply th ans st := rfl
@[simp] theorem exec_syncLoadWake (th : Nat) (st : State) : exec (.syncLoadWake th) st = execSyncLoadWake th st := rfl
@[simp] theorem exec_homeErrorReport (rid : Nat) (code : BitVec 8) (x : StoreName) (st : State) : exec (.homeErrorReport rid code x) st = execHomeErrorReport rid code x st := rfl
@[simp] theorem exec_takeLaterCondition (th : Nat) (st : State) : exec (.takeLaterCondition th) st = execTakeLaterCondition th st := rfl
@[simp] theorem exec_parkRelease (core : Nat) (resume : BitVec 64) (st : State) : exec (.parkRelease core resume) st = execParkRelease core resume st := rfl
@[simp] theorem exec_parkAbort (core : Nat) (st : State) : exec (.parkAbort core) st = execParkAbort core st := rfl
@[simp] theorem exec_svcReply (th : Nat) (a : SvcAnswer) (st : State) : exec (.svcReply th a) st = execSvcReply th a st := rfl
@[simp] theorem exec_pickup (th : Nat) (st : State) : exec (.pickup th) st = execPickup th st := rfl
@[simp] theorem exec_grantRecord (die : Nat) (st : State) : exec (.grantRecord die) st = execGrantRecord die st := rfl
@[simp] theorem exec_shadowFill (core : Nat) (st : State) : exec (.shadowFill core) st = execShadowFill core st := rfl
@[simp] theorem exec_prefetchDone (core slot : Nat) (st : State) : exec (.prefetchDone core slot) st = execPrefetchDone core slot st := rfl
@[simp] theorem exec_priorityAging (rid : Nat) (st : State) : exec (.priorityAging rid) st = execPriorityAging rid st := rfl
@[simp] theorem exec_sqDbWrite (q : Nat) (tail : BitVec 16) (st : State) : exec (.sqDbWrite q tail) st = execSqDbWrite q tail st := rfl
@[simp] theorem exec_cqDbWrite (q : Nat) (head : BitVec 16) (st : State) : exec (.cqDbWrite q head) st = execCqDbWrite q head st := rfl
@[simp] theorem exec_sqCfgWrite (q : Nat) (value : BitVec 64) (st : State) : exec (.sqCfgWrite q value) st = execSqCfgWrite q value st := rfl
@[simp] theorem exec_cqCfgWrite (q : Nat) (value : BitVec 64) (st : State) : exec (.cqCfgWrite q value) st = execCqCfgWrite q value st := rfl
@[simp] theorem exec_admitLaunch (q : Nat) (st : State) : exec (.admitLaunch q) st = execAdmitLaunch q st := rfl
@[simp] theorem exec_launchDispatch (launch : Nat) (st : State) : exec (.launchDispatch launch) st = execLaunchDispatch launch st := rfl
@[simp] theorem exec_gangPlace (launch : Nat) (st : State) : exec (.gangPlace launch) st = execGangPlace launch st := rfl
@[simp] theorem exec_gangReserve (launch : Nat) (st : State) : exec (.gangReserve launch) st = execGangReserve launch st := rfl
@[simp] theorem exec_postCompletion (q : Nat) (st : State) : exec (.postCompletion q) st = execPostCompletion q st := rfl
@[simp] theorem exec_tlbiPage (part : Nat) (va : BitVec 40) (st : State) : exec (.tlbiPage part va) st = execTlbiPage part va st := rfl
@[simp] theorem exec_cqCoalTimer (q : Nat) (st : State) : exec (.cqCoalTimer q) st = execCqCoalTimer q st := rfl
@[simp] theorem exec_launchDone (launch : Nat) (st : State) : exec (.launchDone launch) st = execLaunchDone launch st := rfl
@[simp] theorem exec_preemptHold (launch : Nat) (st : State) : exec (.preemptHold launch) st = execPreemptHold launch st := rfl
@[simp] theorem exec_preemptRelease (launch : Nat) (st : State) : exec (.preemptRelease launch) st = execPreemptRelease launch st := rfl
@[simp] theorem exec_launchCancel (launch : Nat) (st : State) : exec (.launchCancel launch) st = execLaunchCancel launch st := rfl
@[simp] theorem exec_tlbiDone (st : State) : exec .tlbiDone st = execTlbiDone st := rfl
@[simp] theorem exec_tlbiPartition (part : Nat) (st : State) : exec (.tlbiPartition part) st = execTlbiPartition part st := rfl
@[simp] theorem exec_partCluWrite (die clu : Nat) (value : BitVec 64) (st : State) : exec (.partCluWrite die clu value) st = execPartCluWrite die clu value st := rfl
@[simp] theorem exec_registerWrite (bank off : Nat) (value : BitVec 64) (st : State) : exec (.registerWrite bank off value) st = execRegisterWrite bank off value st := rfl
@[simp] theorem exec_cancelDelivery (launch task exempt : Nat) (st : State) : exec (.cancelDelivery launch task exempt) st = execCancelDelivery launch task exempt st := rfl
@[simp] theorem exec_lineageCancel (die launch task : Nat) (tag : BitVec 64) (st : State) : exec (.lineageCancel die launch task tag) st = execLineageCancel die launch task tag st := rfl
@[simp] theorem exec_commitAtHome (id : Nat) (st : State) : exec (.commitAtHome id) st = execCommitAtHome id st := rfl
@[simp] theorem exec_commitReply (id : Nat) (st : State) : exec (.commitReply id) st = execCommitReply id st := rfl
@[simp] theorem exec_treadAtHome (id : Nat) (st : State) : exec (.treadAtHome id) st = execTreadAtHome id st := rfl
@[simp] theorem exec_treadReply (id : Nat) (st : State) : exec (.treadReply id) st = execTreadReply id st := rfl
@[simp] theorem exec_treadWatchdog (id : Nat) (st : State) : exec (.treadWatchdog id) st = execTreadWatchdog id st := rfl
@[simp] theorem exec_tverReply (th : Nat) (ans : HomeAnswer) (st : State) : exec (.tverReply th ans) st = execTverReply th ans st := rfl
@[simp] theorem exec_stragglerTest (die : Nat) (st : State) : exec (.stragglerTest die) st = execStragglerTest die st := rfl
@[simp] theorem exec_hedgeBudgetRequest (dev launch task attempt : Nat) (st : State) : exec (.hedgeBudgetRequest dev launch task attempt) st = execHedgeBudgetRequest dev launch task attempt st := rfl
@[simp] theorem exec_backupOffer (launch task attempt : Nat) (base : BitVec 32) (st : State) : exec (.backupOffer launch task attempt base) st = execBackupOffer launch task attempt base st := rfl
@[simp] theorem exec_backupOfferAnswer (launch task attempt : Nat) (accepted : Bool) (st : State) : exec (.backupOfferAnswer launch task attempt accepted) st = execBackupOfferAnswer launch task attempt accepted st := rfl
@[simp] theorem exec_endNotice (launch : Nat) (status : Nat) (st : State) : exec (.endNotice launch status) st = execEndNotice launch status st := rfl
@[simp] theorem exec_hedgeDecay (st : State) : exec .hedgeDecay st = execHedgeDecay st := rfl
@[simp] theorem exec_rangeStealRequest (die victim launch : Nat) (st : State) : exec (.rangeStealRequest die victim launch) st = execRangeStealRequest die victim launch st := rfl
@[simp] theorem exec_rangeStealAnswer (die launch lo hi : Nat) (st : State) : exec (.rangeStealAnswer die launch lo hi) st = execRangeStealAnswer die launch lo hi st := rfl
@[simp] theorem exec_idleScan (th : Nat) (st : State) : exec (.idleScan th) st = execIdleScan th st := rfl
@[simp] theorem exec_theft (th victim : Nat) (st : State) : exec (.theft th victim) st = execTheft th victim st := rfl
@[simp] theorem exec_thiefBlockRequest (die launch task : Nat) (st : State) : exec (.thiefBlockRequest die launch task) st = execThiefBlockRequest die launch task st := rfl
@[simp] theorem exec_thiefBlockGrant (die launch task : Nat) (block : Nat) (st : State) : exec (.thiefBlockGrant die launch task block) st = execThiefBlockGrant die launch task block st := rfl
@[simp] theorem exec_barrierComplete (launch level inst : Nat) (st : State) : exec (.barrierComplete launch level inst) st = execBarrierComplete launch level inst st := rfl
@[simp] theorem exec_barrierWatchdog (launch level inst : Nat) (st : State) : exec (.barrierWatchdog launch level inst) st = execBarrierWatchdog launch level inst st := rfl
@[simp] theorem exec_copyPiece (op : Nat) (p : PieceAnswer) (st : State) : exec (.copyPiece op p) st = execCopyPiece op p st := rfl
@[simp] theorem exec_copyDone (op : Nat) (st : State) : exec (.copyDone op) st = execCopyDone op st := rfl
@[simp] theorem exec_schedEntry (launch idx : Nat) (st : State) : exec (.schedEntry launch idx) st = execSchedEntry launch idx st := rfl
@[simp] theorem exec_mxeJobStart (clu : Nat) (st : State) : exec (.mxeJobStart clu) st = execMxeJobStart clu st := rfl
@[simp] theorem exec_mxeJobDone (clu : Nat) (st : State) : exec (.mxeJobDone clu) st = execMxeJobDone clu st := rfl
@[simp] theorem exec_latchArrive (clu : Nat) (st : State) : exec (.latchArrive clu) st = execLatchArrive clu st := rfl
@[simp] theorem exec_mxcmdAccept (id : Nat) (st : State) : exec (.mxcmdAccept id) st = execMxcmdAccept id st := rfl
@[simp] theorem exec_msgDeliver (m : MsgArrival) (st : State) : exec (.msgDeliver m) st = execMsgDeliver m st := rfl
@[simp] theorem exec_fillerBurst (clu : Nat) (st : State) : exec (.fillerBurst clu) st = execFillerBurst clu st := rfl
@[simp] theorem exec_patternChange (die : Nat) (st : State) : exec (.patternChange die) st = execPatternChange die st := rfl
@[simp] theorem exec_ropePolWrite (rope : Nat) (value : BitVec 64) (st : State) : exec (.ropePolWrite rope value) st = execRopePolWrite rope value st := rfl
@[simp] theorem exec_ropeImbRefresh (x : RopeSupply) (i0 i1 i2 i3 : Nat) (st : State) : exec (.ropeImbRefresh x i0 i1 i2 i3) st = execRopeImbRefresh x i0 i1 i2 i3 st := rfl
@[simp] theorem exec_ropePolicyEngage (rope : Nat) (st : State) : exec (.ropePolicyEngage rope) st = execRopePolicyEngage rope st := rfl
@[simp] theorem exec_throtEscalate (rope : Nat) (st : State) : exec (.throtEscalate rope) st = execThrotEscalate rope st := rfl
@[simp] theorem exec_ropePolicyDisengage (rope : Nat) (st : State) : exec (.ropePolicyDisengage rope) st = execRopePolicyDisengage rope st := rfl
@[simp] theorem exec_railSample (rope v0 v1 v2 v3 : Nat) (st : State) : exec (.railSample rope v0 v1 v2 v3) st = execRailSample rope v0 v1 v2 v3 st := rfl
@[simp] theorem exec_writeAssistChange (rope : Nat) (st : State) : exec (.writeAssistChange rope) st = execWriteAssistChange rope st := rfl
@[simp] theorem exec_ropeClamp (rope cause : Nat) (st : State) : exec (.ropeClamp rope cause) st = execRopeClamp rope cause st := rfl
@[simp] theorem exec_ropeUnclamp (rope : Nat) (st : State) : exec (.ropeUnclamp rope) st = execRopeUnclamp rope st := rfl
@[simp] theorem exec_ropeLost (rope : Nat) (st : State) : exec (.ropeLost rope) st = execRopeLost rope st := rfl
@[simp] theorem exec_ropeHotChange (rope temp : Nat) (st : State) : exec (.ropeHotChange rope temp) st = execRopeHotChange rope temp st := rfl
@[simp] theorem exec_ropeOvbChange (rope power : Nat) (st : State) : exec (.ropeOvbChange rope power) st = execRopeOvbChange rope power st := rfl
@[simp] theorem exec_moduleCapInterval (watts : Nat) (st : State) : exec (.moduleCapInterval watts) st = execModuleCapInterval watts st := rfl
@[simp] theorem exec_floorAccount (launch : Nat) (st : State) : exec (.floorAccount launch) st = execFloorAccount launch st := rfl
@[simp] theorem exec_hbmThermalChange (die stack temp : Nat) (st : State) : exec (.hbmThermalChange die stack temp) st = execHbmThermalChange die stack temp st := rfl
@[simp] theorem exec_eccError (die array inst row unit : Nat) (correctable : Bool) (st : State) :
    exec (.eccError die array inst row unit correctable) st = execEccError die array inst row unit correctable st := rfl
@[simp] theorem exec_eccWindow (die : Nat) (st : State) : exec (.eccWindow die) st = execEccWindow die st := rfl
@[simp] theorem exec_ccRecovery (die array : Nat) (st : State) : exec (.ccRecovery die array) st = execCcRecovery die array st := rfl
@[simp] theorem exec_ccRecoveryDone (die : Nat) (e : RecoveryEnd) (st : State) : exec (.ccRecoveryDone die e) st = execCcRecoveryDone die e st := rfl
@[simp] theorem exec_dieLost (die cause : Nat) (st : State) : exec (.dieLost die cause) st = execDieLost die cause st := rfl
@[simp] theorem exec_moduleTrip (thermal : Bool) (st : State) : exec (.moduleTrip thermal) st = execModuleTrip thermal st := rfl
@[simp] theorem exec_cxlMemAccess (off len : Nat) (store : Option Nat) (st : State) : exec (.cxlMemAccess off len store) st = execCxlMemAccess off len store st := rfl
@[simp] theorem exec_spdmGetMeasurements (i : MeasIndex) (st : State) : exec (.spdmGetMeasurements i) st = execSpdmGetMeasurements i st := rfl
@[simp] theorem exec_powerUp (st : State) : exec .powerUp st = execPowerUp st := rfl
@[simp] theorem exec_bootGo (st : State) : exec .bootGo st = execBootGo st := rfl
@[simp] theorem exec_verifyDone (st : State) : exec .verifyDone st = execVerifyDone st := rfl
@[simp] theorem exec_bringupReduced (st : State) : exec .bringupReduced st = execBringupReduced st := rfl
@[simp] theorem exec_bringupFull (failed : FailedDies) (st : State) : exec (.bringupFull failed) st = execBringupFull failed st := rfl
@[simp] theorem exec_bringupDieTimeout (die : Nat) (hbm : Bool) (st : State) : exec (.bringupDieTimeout die hbm) st = execBringupDieTimeout die hbm st := rfl
@[simp] theorem exec_iluCfgWrite (value : BitVec 64) (st : State) : exec (.iluCfgWrite value) st = execIluCfgWrite value st := rfl
@[simp] theorem exec_iluRouteWrite (dev : Nat) (value : BitVec 64) (st : State) : exec (.iluRouteWrite dev value) st = execIluRouteWrite dev value st := rfl
@[simp] theorem exec_flitReceive (port : Nat) (f : Flit) (st : State) : exec (.flitReceive port f) st = execFlitReceive port f st := rfl
@[simp] theorem exec_wavelengthLeave (port : Nat) (l : LamErrors) (st : State) : exec (.wavelengthLeave port l) st = execWavelengthLeave port l st := rfl
@[simp] theorem exec_wavelengthRejoin (port lam : Nat) (st : State) : exec (.wavelengthRejoin port lam) st = execWavelengthRejoin port lam st := rfl
@[simp] theorem exec_wavelengthFailed (port lam : Nat) (st : State) : exec (.wavelengthFailed port lam) st = execWavelengthFailed port lam st := rfl
@[simp] theorem exec_cutRel (st : State) : exec .cutRel st = execCutRel st := rfl
@[simp] theorem exec_portDark (port : Nat) (st : State) : exec (.portDark port) st = execPortDark port st := rfl
@[simp] theorem exec_portLinkUp (port peer allowance lam : Nat) (st : State) : exec (.portLinkUp port peer allowance lam) st = execPortLinkUp port peer allowance lam st := rfl
@[simp] theorem exec_darkPortTimeout (port : Nat) (st : State) : exec (.darkPortTimeout port) st = execDarkPortTimeout port st := rfl
@[simp] theorem exec_backupUnreachable (b : AttemptName) (st : State) : exec (.backupUnreachable b) st = execBackupUnreachable b st := rfl
@[simp] theorem exec_cutGo (id grp : Nat) (st : State) : exec (.cutGo id grp) st = execCutGo id grp st := rfl
@[simp] theorem exec_belayMarker (port id init grp : Nat) (st : State) : exec (.belayMarker port id init grp) st = execBelayMarker port id init grp st := rfl
@[simp] theorem exec_cutAbort (st : State) : exec .cutAbort st = execCutAbort st := rfl
@[simp] theorem exec_bivEnter (grp : Nat) (st : State) : exec (.bivEnter grp) st = execBivEnter grp st := rfl
@[simp] theorem exec_bivWriteback (st : State) : exec .bivWriteback st = execBivWriteback st := rfl
@[simp] theorem exec_bivForcedStop (th : Nat) (st : State) : exec (.bivForcedStop th) st = execBivForcedStop th st := rfl
@[simp] theorem exec_bivFlush (st : State) : exec .bivFlush st = execBivFlush st := rfl
@[simp] theorem exec_bivSelfref (st : State) : exec .bivSelfref st = execBivSelfref st := rfl
@[simp] theorem exec_bivEntryFail (st : State) : exec .bivEntryFail st = execBivEntryFail st := rfl
@[simp] theorem exec_bivResume (st : State) : exec .bivResume st = execBivResume st := rfl
@[simp] theorem exec_bivRestore (st : State) : exec .bivRestore st = execBivRestore st := rfl
@[simp] theorem exec_bivReplay (st : State) : exec .bivReplay st = execBivReplay st := rfl
@[simp] theorem exec_bivWakeFail (st : State) : exec .bivWakeFail st = execBivWakeFail st := rfl
@[simp] theorem exec_ethqCfgWrite (port q : Nat) (value : BitVec 64) (st : State) : exec (.ethqCfgWrite port q value) st = execEthqCfgWrite port q value st := rfl
@[simp] theorem exec_ethqPtrWrite (port q : Nat) (value : BitVec 64) (st : State) : exec (.ethqPtrWrite port q value) st = execEthqPtrWrite port q value st := rfl
@[simp] theorem exec_ethDescriptorFetch (port q : Nat) (st : State) : exec (.ethDescriptorFetch port q) st = execEthDescriptorFetch port q st := rfl
@[simp] theorem exec_ethFrameSent (port q : Nat) (st : State) : exec (.ethFrameSent port q) st = execEthFrameSent port q st := rfl
@[simp] theorem exec_ethFrameReceived (port : Nat) (frame : List (BitVec 8)) (fcsOk : Bool) (st : State) : exec (.ethFrameReceived port frame fcsOk) st = execEthFrameReceived port frame fcsOk st := rfl
@[simp] theorem exec_ethLinkDown (port : Nat) (st : State) : exec (.ethLinkDown port) st = execEthLinkDown port st := rfl
@[simp] theorem exec_reservedCodeDecode (e : DecodeErr) (bundle : BitVec 64) (st : State) : exec (.reservedCodeDecode e bundle) st = execReservedCodeDecode e bundle st := rfl
@[simp] theorem exec_barrierNetworkFault (launch level inst : Nat) (st : State) : exec (.barrierNetworkFault launch level inst) st = execBarrierNetworkFault launch level inst st := rfl
@[simp] theorem exec_hedgeBudgetAnswer (launch task attempt : Nat) (granted : Option Nat) (st : State) :
    exec (.hedgeBudgetAnswer launch task attempt granted) st = execHedgeBudgetAnswer launch task attempt granted st := rfl
@[simp] theorem exec_backupEndCharge (b : AttemptName) (cycles : Nat) (st : State) : exec (.backupEndCharge b cycles) st = execBackupEndCharge b cycles st := rfl
@[simp] theorem exec_cxlCacheSnoop (h : HostLine) (invalidate : Bool) (st : State) : exec (.cxlCacheSnoop h invalidate) st = execCxlCacheSnoop h invalidate st := rfl
@[simp] theorem exec_ethLinkUp (port : Nat) (st : State) : exec (.ethLinkUp port) st = execEthLinkUp port st := rfl
@[simp] theorem exec_pauseFrameReceived (port : Nat) (pfc : Option (BitVec 8)) (quanta : Nat) (st : State) :
    exec (.pauseFrameReceived port pfc quanta) st = execPauseFrameReceived port pfc quanta st := rfl
@[simp] theorem exec_pauseHoldExpiry (port : Nat) (st : State) : exec (.pauseHoldExpiry port) st = execPauseHoldExpiry port st := rfl
@[simp] theorem exec_virtualDieRemap (vdie pdie : Nat) (st : State) : exec (.virtualDieRemap vdie pdie) st = execVirtualDieRemap vdie pdie st := rfl

end Sys2Proof.Machine
end

