-- ==== Sys2Proof/Laws/Memory.lean ====
section
/-! SUPPORT. Memory: the canonical form and what keeps it, reading after writing. -/
namespace Sys2Proof.Machine
open Sys2Proof

/-! The canonical form. -/

/-- The canonical form, said of all entries: none is an unlisted byte, and the keys rise strictly. -/
theorem cellsWf_iff (l : List Host.Cell) :
    cellsWf l = true ↔ (∀ c ∈ l, c.2 ≠ unlisted) ∧ l.Pairwise (fun a b => a.1 < b.1) := by
  induction l with
  | nil => simp [cellsWf]
  | cons c r ih =>
    cases r with
    | nil => simp [cellsWf]
    | cons d r =>
      simp only [cellsWf, Bool.and_eq_true, bne_iff_ne, decide_eq_true_eq, ih, List.pairwise_cons]
      constructor
      · rintro ⟨⟨h1, h2⟩, h3, h4, h5⟩
        refine ⟨by simpa [h1] using h3, fun a ha => ?_, h4, h5⟩
        rcases List.mem_cons.1 ha with rfl | ha
        · exact h2
        · exact Nat.lt_trans h2 (h4 a ha)
      · rintro ⟨h1, h2, h3, h4⟩
        exact ⟨⟨h1 c (by simp), h2 d (by simp)⟩, fun a ha => h1 a (List.mem_cons_of_mem _ ha), h3, h4⟩

theorem mem_bytesFrom (n k v : Nat) (c : Host.Cell) (h : c ∈ bytesFrom n k v) : k ≤ c.1 ∧ c.1 < k + n ∧ c.2 ≠ unlisted := by
  induction n generalizing k v with
  | zero => simp [bytesFrom] at h
  | succ n ih =>
    simp only [bytesFrom] at h
    split at h
    · have := ih _ _ h; exact ⟨by omega, by omega, this.2.2⟩
    · next hv =>
      rcases List.mem_cons.1 h with rfl | h
      · refine ⟨Nat.le_refl _, by simp, fun e => hv ?_⟩
        have := congrArg BitVec.toNat e
        simpa [unlisted] using this
      · have := ih _ _ h; exact ⟨by omega, by omega, this.2.2⟩

theorem bytesFrom_sorted (n k v : Nat) : (bytesFrom n k v).Pairwise (fun a b => a.1 < b.1) := by
  induction n generalizing k v with
  | zero => simp [bytesFrom]
  | succ n ih =>
    simp only [bytesFrom]
    split
    · exact ih ..
    · exact List.pairwise_cons.2 ⟨fun c hc => by have := mem_bytesFrom _ _ _ c hc; simp; omega, ih ..⟩

/-- A write keeps the canonical form. -/
theorem cellsSet_wf (l : List Host.Cell) (k n v : Nat) (h : cellsWf l = true) : cellsWf (cellsSet l k n v) = true := by
  rw [cellsWf_iff] at h ⊢
  obtain ⟨h1, h2⟩ := h
  simp only [cellsSet, below, from']
  constructor
  · intro c hc
    rcases List.mem_append.1 hc with hc | hc
    · rcases List.mem_append.1 hc with hc | hc
      · exact h1 c (List.mem_filter.1 hc).1
      · exact (mem_bytesFrom _ _ _ c hc).2.2
    · exact h1 c (List.mem_filter.1 hc).1
  · refine List.pairwise_append.2 ⟨List.pairwise_append.2 ⟨h2.filter _, bytesFrom_sorted .., ?_⟩, h2.filter _, ?_⟩
    · intro a ha b hb
      have := (List.mem_filter.1 ha).2
      have := mem_bytesFrom _ _ _ b hb
      simp at *; omega
    · intro a ha b hb
      have hb := (List.mem_filter.1 hb).2
      rcases List.mem_append.1 ha with ha | ha
      · have := (List.mem_filter.1 ha).2
        simp at *; omega
      · have := mem_bytesFrom _ _ _ a ha
        simp at *; omega

/-- Dropping entries keeps the canonical form. -/
theorem cellsWf_filter (p : Host.Cell → Bool) (l : List Host.Cell) (h : cellsWf l = true) : cellsWf (l.filter p) = true := by
  rw [cellsWf_iff] at h ⊢
  exact ⟨fun c hc => h.1 c (List.mem_filter.1 hc).1, h.2.filter _⟩

theorem Mem.put_wf (m : Mem) (k n v : Nat) (h : m.wf = true) : (m.put k n v).wf = true := cellsSet_wf _ _ _ _ h
@[simp] theorem Mem.setFull_wf (m : Mem) (k n : Nat) : (m.setFull k n).wf = m.wf := rfl
@[simp] theorem Mem.setEmpty_wf (m : Mem) (k n : Nat) : (m.setEmpty k n).wf = m.wf := rfl
@[simp] theorem Mem.spoil_wf (m : Mem) (u d : Nat) : (m.spoil u d).wf = m.wf := rfl
theorem Mem.reset_wf : Mem.reset.wf = true := rfl

/-! Reading after writing. -/

theorem cellAt_append (l r : List Host.Cell) (k : Nat) (h : ∀ c ∈ l, c.1 ≠ k) : cellAt (l ++ r) k = cellAt r k := by
  induction l with
  | nil => rfl
  | cons c l ih =>
    rw [List.cons_append, cellAt, if_neg (h c (by simp)), ih (fun d hd => h d (by simp [hd]))]

theorem cellAt_append_right (l r : List Host.Cell) (k : Nat) (h : ∀ c ∈ r, c.1 ≠ k) : cellAt (l ++ r) k = cellAt l k := by
  induction l with
  | nil =>
    induction r with
    | nil => rfl
    | cons c r ih => exact (if_neg (h c (by simp))).trans (ih (fun d hd => h d (by simp [hd])))
  | cons c l ih => rw [List.cons_append, cellAt, cellAt, ih]

theorem cellAt_filter (p : Host.Cell → Bool) (l : List Host.Cell) (k : Nat) (h : ∀ c : Host.Cell, c.1 = k → p c = true) :
    cellAt (l.filter p) k = cellAt l k := by
  induction l with
  | nil => rfl
  | cons c l ih =>
    by_cases e : c.1 = k
    · rw [List.filter_cons_of_pos (h c e), cellAt, cellAt, if_pos e, if_pos e]
    · by_cases hp : p c = true
      · rw [List.filter_cons_of_pos hp, cellAt, cellAt, if_neg e, if_neg e, ih]
      · rw [List.filter_cons_of_neg hp, cellAt, if_neg e, ih]

/-- A write leaves every other byte alone. -/
theorem cellAt_cellsSet_ne (l : List Host.Cell) (k n v j : Nat) (h : j < k ∨ k + n ≤ j) : cellAt (cellsSet l k n v) j = cellAt l j := by
  have hb : ∀ c ∈ bytesFrom n k v, c.1 ≠ j := fun c hc e => by have := mem_bytesFrom _ _ _ c hc; omega
  simp only [cellsSet]
  rcases h with h | h
  · rw [cellAt_append_right _ _ _ (fun c hc e => by have := (List.mem_filter.1 hc).2; simp at this; omega),
      cellAt_append_right _ _ _ hb, below, cellAt_filter _ _ _ (fun c e => by simp; omega)]
  · rw [List.append_assoc, cellAt_append _ _ _ (fun c hc e => by have := (List.mem_filter.1 hc).2; simp at this; omega),
      cellAt_append _ _ _ hb, from', cellAt_filter _ _ _ (fun c e => by simp; omega)]

theorem cellAt_bytesFrom (n k v j : Nat) (h1 : k ≤ j) (h2 : j < k + n) :
    cellAt (bytesFrom n k v) j = BitVec.ofNat 8 (v / 256 ^ (j - k)) := by
  induction n generalizing k v with
  | zero => omega
  | succ n ih =>
    have hd : v / 256 / 256 ^ (j - (k + 1)) = v / 256 ^ (j - k) ∨ j = k := by
      by_cases e : j = k
      · exact .inr e
      · left; rw [Nat.div_div_eq_div_mul, ← Nat.pow_succ', show (j - (k + 1)).succ = j - k by omega]
    simp only [bytesFrom]
    by_cases e : j = k
    · subst e
      split
      · next hv =>
        have hnil : cellAt (bytesFrom n (j + 1) (v / 256)) j = unlisted := by
          rw [← List.append_nil (bytesFrom n (j + 1) (v / 256)),
            cellAt_append _ _ _ (fun c hc e => by have := mem_bytesFrom _ _ _ c hc; omega)]
          rfl
        rw [hnil]; apply BitVec.eq_of_toNat_eq; simp [unlisted]; omega
      · simp [cellAt]
    · have hd' := hd.resolve_right e
      split
      · rw [ih _ _ (by omega) (by omega), hd']
      · rw [cellAt, if_neg (fun h => e h.symm), ih _ _ (by omega) (by omega), hd']

/-- A read of a written byte gives the byte written. -/
theorem cellAt_cellsSet (l : List Host.Cell) (k n v j : Nat) (h1 : k ≤ j) (h2 : j < k + n) :
    cellAt (cellsSet l k n v) j = BitVec.ofNat 8 (v / 256 ^ (j - k)) := by
  simp only [cellsSet]
  rw [cellAt_append_right _ _ _ (fun c hc e => by have := (List.mem_filter.1 hc).2; simp at this; omega),
    cellAt_append _ _ _ (fun c hc e => by have := (List.mem_filter.1 hc).2; simp at this; omega), cellAt_bytesFrom _ _ _ _ h1 h2]

theorem cellsLE_append (l r : List Host.Cell) (k n : Nat) : cellsLE (l ++ r) k n = cellsLE l k n + cellsLE r k n := by
  induction l with
  | nil => simp [cellsLE]
  | cons c l ih => simp [cellsLE, ih, Nat.add_assoc]

theorem cellsLE_zero (l : List Host.Cell) (k n : Nat) (h : ∀ c ∈ l, ¬(k ≤ c.1 ∧ c.1 < k + n)) : cellsLE l k n = 0 := by
  induction l with
  | nil => rfl
  | cons c l ih => rw [cellsLE, if_neg (h c (by simp)), ih (fun d hd => h d (by simp [hd]))]

theorem cellsLE_filter (p : Host.Cell → Bool) (l : List Host.Cell) (k n : Nat)
    (h : ∀ c : Host.Cell, k ≤ c.1 → c.1 < k + n → p c = true) : cellsLE (l.filter p) k n = cellsLE l k n := by
  induction l with
  | nil => rfl
  | cons c l ih =>
    by_cases hp : p c = true
    · rw [List.filter_cons_of_pos hp, cellsLE, cellsLE, ih]
    · rw [List.filter_cons_of_neg hp, cellsLE, ih, if_neg (fun g => hp (h c g.1 g.2)), Nat.zero_add]

theorem cellsLE_bytesFrom (n k v base : Nat) (h : base ≤ k) (m : Nat) (hm : k + n ≤ base + m) :
    cellsLE (bytesFrom n k v) base m = v % 256 ^ n * 256 ^ (k - base) := by
  induction n generalizing k v with
  | zero => simp [bytesFrom, cellsLE, Nat.mod_one]
  | succ n ih =>
    have hp : (256 : Nat) ^ (k + 1 - base) = 256 * 256 ^ (k - base) := by
      rw [show k + 1 - base = (k - base) + 1 by omega, Nat.pow_succ, Nat.mul_comm]
    have hv : v % 256 ^ (n + 1) = v % 256 + 256 * (v / 256 % 256 ^ n) := by
      rw [Nat.pow_succ, Nat.mul_comm, Nat.mod_mul]
    have hr := ih (k + 1) (v / 256) (by omega) (by omega)
    simp only [bytesFrom]
    split
    · next h0 => rw [hr, hv, h0, hp]; ring
    · rw [cellsLE, if_pos (by simp; omega), hr, hp, hv]
      simp only [BitVec.toNat_ofNat]
      ring

/-- A read of what was written gives the value written. -/
theorem Mem.get_put (m : Mem) (k n v : Nat) : (m.put k n v).get k n = v % 256 ^ n := by
  simp only [Mem.get, Mem.put, cellsSet]
  rw [cellsLE_append, cellsLE_append,
    cellsLE_zero (below k m.cells) _ _ (fun c hc g => by have := (List.mem_filter.1 hc).2; simp at this; omega),
    cellsLE_zero (from' (k + n) m.cells) _ _ (fun c hc g => by have := (List.mem_filter.1 hc).2; simp at this; omega),
    cellsLE_bytesFrom _ _ _ _ (Nat.le_refl _) _ (Nat.le_refl _)]
  simp

/-- A write leaves a range apart from it alone. -/
theorem Mem.get_put_ne (m : Mem) (k n v j x : Nat) (h : j + x ≤ k ∨ k + n ≤ j) : (m.put k n v).get j x = m.get j x := by
  simp only [Mem.get, Mem.put, cellsSet]
  have hz : cellsLE (bytesFrom n k v) j x = 0 := cellsLE_zero _ _ _ (fun c hc g => by have := mem_bytesFrom _ _ _ c hc; omega)
  rw [cellsLE_append, cellsLE_append, hz]
  rcases h with h | h
  · rw [below, cellsLE_filter _ _ _ _ (fun c _ _ => by simp; omega),
      cellsLE_zero (from' (k + n) m.cells) _ _ (fun c hc g => by have := (List.mem_filter.1 hc).2; simp at this; omega)]
    simp
  · rw [from', cellsLE_filter _ _ _ _ (fun c _ _ => by simp; omega),
      cellsLE_zero (below k m.cells) _ _ (fun c hc g => by have := (List.mem_filter.1 hc).2; simp at this; omega)]
    simp

end Sys2Proof.Machine
end

