-- ==== Sys2Proof/Laws/State.lean ====
section
/-! SUPPORT. Updates of the state, one lemma for each field: what each update changes and that it leaves the rest. -/
namespace Sys2Proof.Machine
open Sys2Proof

/-! Registers of a thread. -/

@[simp] theorem Regs.setS_v (r : Regs) (n : BitVec 5) (x : Word) : (r.setS n x).v = r.v := by unfold Regs.setS; split <;> rfl
@[simp] theorem Regs.setS_p (r : Regs) (n : BitVec 5) (x : Word) : (r.setS n x).p = r.p := by unfold Regs.setS; split <;> rfl
@[simp] theorem Regs.setS_h (r : Regs) (n : BitVec 5) (x : Word) : (r.setS n x).h = r.h := by unfold Regs.setS; split <;> rfl
@[simp] theorem Regs.setS_genA (r : Regs) (n : BitVec 5) (x : Word) : (r.setS n x).genA = r.genA := by unfold Regs.setS; split <;> rfl
@[simp] theorem Regs.setS_genB (r : Regs) (n : BitVec 5) (x : Word) : (r.setS n x).genB = r.genB := by unfold Regs.setS; split <;> rfl
@[simp] theorem Regs.setP_s (r : Regs) (n : BitVec 3) (x : Pred) : (r.setP n x).s = r.s := by unfold Regs.setP; split <;> rfl
@[simp] theorem Regs.setP_v (r : Regs) (n : BitVec 3) (x : Pred) : (r.setP n x).v = r.v := by unfold Regs.setP; split <;> rfl
@[simp] theorem Regs.setP_h (r : Regs) (n : BitVec 3) (x : Pred) : (r.setP n x).h = r.h := by unfold Regs.setP; split <;> rfl
@[simp] theorem Regs.setP_genA (r : Regs) (n : BitVec 3) (x : Pred) : (r.setP n x).genA = r.genA := by unfold Regs.setP; split <;> rfl
@[simp] theorem Regs.setP_genB (r : Regs) (n : BitVec 3) (x : Pred) : (r.setP n x).genB = r.genB := by unfold Regs.setP; split <;> rfl
@[simp] theorem Regs.setV_s (r : Regs) (n : BitVec 5) (x : Vec) : (r.setV n x).s = r.s := rfl
@[simp] theorem Regs.setV_p (r : Regs) (n : BitVec 5) (x : Vec) : (r.setV n x).p = r.p := rfl
@[simp] theorem Regs.setV_h (r : Regs) (n : BitVec 5) (x : Vec) : (r.setV n x).h = r.h := rfl
@[simp] theorem Regs.setV_genA (r : Regs) (n : BitVec 5) (x : Vec) : (r.setV n x).genA = r.genA := rfl
@[simp] theorem Regs.setV_genB (r : Regs) (n : BitVec 5) (x : Vec) : (r.setV n x).genB = r.genB := rfl
@[simp] theorem Regs.setVL_s (r : Regs) (n : BitVec 5) (x : Vec) : (r.setVL n x).s = r.s := rfl
@[simp] theorem Regs.setVL_p (r : Regs) (n : BitVec 5) (x : Vec) : (r.setVL n x).p = r.p := rfl
@[simp] theorem Regs.setVL_h (r : Regs) (n : BitVec 5) (x : Vec) : (r.setVL n x).h = r.h := rfl
@[simp] theorem Regs.setVL_genA (r : Regs) (n : BitVec 5) (x : Vec) : (r.setVL n x).genA = r.genA := rfl
@[simp] theorem Regs.setVL_genB (r : Regs) (n : BitVec 5) (x : Vec) : (r.setVL n x).genB = r.genB := rfl
@[simp] theorem Regs.setH_s (r : Regs) (n : BitVec 4) (x : Handle) : (r.setH n x).s = r.s := rfl
@[simp] theorem Regs.setH_v (r : Regs) (n : BitVec 4) (x : Handle) : (r.setH n x).v = r.v := rfl
@[simp] theorem Regs.setH_p (r : Regs) (n : BitVec 4) (x : Handle) : (r.setH n x).p = r.p := rfl
@[simp] theorem Regs.setH_genA (r : Regs) (n : BitVec 4) (x : Handle) : (r.setH n x).genA = r.genA := rfl
@[simp] theorem Regs.setH_genB (r : Regs) (n : BitVec 4) (x : Handle) : (r.setH n x).genB = r.genB := rfl

@[simp] theorem Regs.getS_zero (r : Regs) : r.getS 0 = 0 := rfl
@[simp] theorem Regs.getP_zero (r : Regs) : r.getP 0 = BitVec.allOnes 256 := rfl
@[simp] theorem Regs.setS_zero (r : Regs) (x : Word) : r.setS 0 x = r := rfl
@[simp] theorem Regs.setP_zero (r : Regs) (x : Pred) : r.setP 0 x = r := rfl

theorem Regs.getS_setS (r : Regs) (n m : BitVec 5) (x : Word) : (r.setS n x).getS m = if m = n ∧ n ≠ 0 then x else r.getS m := by
  by_cases hm : m = 0
  · subst hm; rw [Regs.getS_zero, Regs.getS_zero, if_neg (fun h => h.2 h.1.symm)]
  · by_cases hn : n = 0
    · subst hn; rw [Regs.setS_zero, if_neg (fun h => h.2 rfl)]
    · simp only [Regs.getS, Regs.setS, if_neg hm, if_neg hn, Vector.get_eq_getElem]
      by_cases e : m = n
      · subst e; simp only [hn, ne_eq, not_false_eq_true, and_self, if_true]; exact Vector.getElem_set_self ..
      · rw [if_neg (fun h => e h.1)]
        exact Vector.getElem_set_ne _ _ (fun h => e (BitVec.eq_of_toNat_eq h.symm))

theorem Regs.getP_setP (r : Regs) (n m : BitVec 3) (x : Pred) : (r.setP n x).getP m = if m = n ∧ n ≠ 0 then x else r.getP m := by
  by_cases hm : m = 0
  · subst hm; rw [Regs.getP_zero, Regs.getP_zero, if_neg (fun h => h.2 h.1.symm)]
  · by_cases hn : n = 0
    · subst hn; rw [Regs.setP_zero, if_neg (fun h => h.2 rfl)]
    · simp only [Regs.getP, Regs.setP, if_neg hm, if_neg hn, Vector.get_eq_getElem]
      by_cases e : m = n
      · subst e; simp only [hn, ne_eq, not_false_eq_true, and_self, if_true]; exact Vector.getElem_set_self ..
      · rw [if_neg (fun h => e h.1)]
        exact Vector.getElem_set_ne _ _ (fun h => e (BitVec.eq_of_toNat_eq h.symm))

theorem Regs.getV_setV (r : Regs) (n m : BitVec 5) (x : Vec) : (r.setV n x).getV m = if m = n then x else r.getV m := by
  simp only [Regs.getV, Regs.setV, Vector.get_eq_getElem]
  by_cases e : m = n
  · subst e; rw [if_pos rfl]; exact Vector.getElem_set_self ..
  · rw [if_neg e]
    exact Vector.getElem_set_ne _ _ (fun h => e (BitVec.eq_of_toNat_eq h.symm))

/-- An arithmetic result reaches its destination and `lat`, and no other vector. -/
theorem Regs.getV_setVL (r : Regs) (n m : BitVec 5) (x : Vec) : (r.setVL n x).getV m = if m = n ∨ m = 31 then x else r.getV m := by
  unfold Regs.setVL
  rw [Regs.getV_setV, Regs.getV_setV]
  by_cases h1 : m = 31 <;> by_cases h2 : m = n <;> simp [h1, h2]

theorem Regs.getH_setH (r : Regs) (n m : BitVec 4) (x : Handle) : (r.setH n x).getH m = if m = n then x else r.getH m := by
  simp only [Regs.getH, Regs.setH, Vector.get_eq_getElem]
  by_cases e : m = n
  · subst e; rw [if_pos rfl]; exact Vector.getElem_set_self ..
  · rw [if_neg e]
    exact Vector.getElem_set_ne _ _ (fun h => e (BitVec.eq_of_toNat_eq h.symm))

@[simp] theorem Regs.getP_setS (r : Regs) (n : BitVec 5) (x : Word) (m : BitVec 3) : (r.setS n x).getP m = r.getP m := by simp [Regs.getP]
@[simp] theorem Regs.getV_setS (r : Regs) (n : BitVec 5) (x : Word) (m : BitVec 5) : (r.setS n x).getV m = r.getV m := by simp [Regs.getV]
@[simp] theorem Regs.getH_setS (r : Regs) (n : BitVec 5) (x : Word) (m : BitVec 4) : (r.setS n x).getH m = r.getH m := by simp [Regs.getH]
@[simp] theorem Regs.getS_setP (r : Regs) (n : BitVec 3) (x : Pred) (m : BitVec 5) : (r.setP n x).getS m = r.getS m := by simp [Regs.getS]
@[simp] theorem Regs.getV_setP (r : Regs) (n : BitVec 3) (x : Pred) (m : BitVec 5) : (r.setP n x).getV m = r.getV m := by simp [Regs.getV]
@[simp] theorem Regs.getH_setP (r : Regs) (n : BitVec 3) (x : Pred) (m : BitVec 4) : (r.setP n x).getH m = r.getH m := by simp [Regs.getH]
@[simp] theorem Regs.getS_setV (r : Regs) (n : BitVec 5) (x : Vec) (m : BitVec 5) : (r.setV n x).getS m = r.getS m := by simp [Regs.getS]
@[simp] theorem Regs.getP_setV (r : Regs) (n : BitVec 5) (x : Vec) (m : BitVec 3) : (r.setV n x).getP m = r.getP m := by simp [Regs.getP]
@[simp] theorem Regs.getH_setV (r : Regs) (n : BitVec 5) (x : Vec) (m : BitVec 4) : (r.setV n x).getH m = r.getH m := by simp [Regs.getH]
@[simp] theorem Regs.getS_setVL (r : Regs) (n : BitVec 5) (x : Vec) (m : BitVec 5) : (r.setVL n x).getS m = r.getS m := by simp [Regs.getS]
@[simp] theorem Regs.getP_setVL (r : Regs) (n : BitVec 5) (x : Vec) (m : BitVec 3) : (r.setVL n x).getP m = r.getP m := by simp [Regs.getP]
@[simp] theorem Regs.getH_setVL (r : Regs) (n : BitVec 5) (x : Vec) (m : BitVec 4) : (r.setVL n x).getH m = r.getH m := by simp [Regs.getH]
@[simp] theorem Regs.getS_setH (r : Regs) (n : BitVec 4) (x : Handle) (m : BitVec 5) : (r.setH n x).getS m = r.getS m := by simp [Regs.getS]
@[simp] theorem Regs.getP_setH (r : Regs) (n : BitVec 4) (x : Handle) (m : BitVec 3) : (r.setH n x).getP m = r.getP m := by simp [Regs.getP]
@[simp] theorem Regs.getV_setH (r : Regs) (n : BitVec 4) (x : Handle) (m : BitVec 5) : (r.setH n x).getV m = r.getV m := by simp [Regs.getV]

/-! The focused thread: updates of its parts. -/

@[simp] theorem State.setS_cur (s : State) (n : BitVec 5) (x : Word) : (s.setS n x).cur = s.cur := rfl
@[simp] theorem State.setS_rest (s : State) (n : BitVec 5) (x : Word) : (s.setS n x).rest = s.rest := rfl
@[simp] theorem State.setS_cores (s : State) (n : BitVec 5) (x : Word) : (s.setS n x).cores = s.cores := rfl
@[simp] theorem State.setS_clus (s : State) (n : BitVec 5) (x : Word) : (s.setS n x).clus = s.clus := rfl
@[simp] theorem State.setS_clock (s : State) (n : BitVec 5) (x : Word) : (s.setS n x).clock = s.clock := rfl
@[simp] theorem State.setS_mem (s : State) (n : BitVec 5) (x : Word) : (s.setS n x).mem = s.mem := rfl
@[simp] theorem State.setS_sch (s : State) (n : BitVec 5) (x : Word) : (s.setS n x).sch = s.sch := rfl
@[simp] theorem State.setS_plat (s : State) (n : BitVec 5) (x : Word) : (s.setS n x).plat = s.plat := rfl
@[simp] theorem State.setS_agenda (s : State) (n : BitVec 5) (x : Word) : (s.setS n x).agenda = s.agenda := rfl
@[simp] theorem State.setS_taken (s : State) (n : BitVec 5) (x : Word) : (s.setS n x).taken = s.taken := rfl
@[simp] theorem State.setS_free (s : State) (n : BitVec 5) (x : Word) : (s.setS n x).free = s.free := rfl
@[simp] theorem State.setS_thr_pc (s : State) (n : BitVec 5) (x : Word) : (s.setS n x).thr.pc = s.thr.pc := rfl
@[simp] theorem State.setS_thr_npc (s : State) (n : BitVec 5) (x : Word) : (s.setS n x).thr.npc = s.thr.npc := rfl
@[simp] theorem State.setS_thr_r (s : State) (n : BitVec 5) (x : Word) : (s.setS n x).thr.r = s.thr.r.setS n x := rfl
@[simp] theorem State.setS_thr_y (s : State) (n : BitVec 5) (x : Word) : (s.setS n x).thr.y = s.thr.y := rfl
@[simp] theorem State.setS_thr_q (s : State) (n : BitVec 5) (x : Word) : (s.setS n x).thr.q = s.thr.q := rfl
@[simp] theorem State.setS_thr_i (s : State) (n : BitVec 5) (x : Word) : (s.setS n x).thr.i = s.thr.i := rfl
@[simp] theorem State.setS_thr_inHandler (s : State) (n : BitVec 5) (x : Word) : (s.setS n x).thr.inHandler = s.thr.inHandler := rfl
@[simp] theorem State.setS_thr_inbox (s : State) (n : BitVec 5) (x : Word) : (s.setS n x).thr.inbox = s.thr.inbox := rfl
@[simp] theorem State.setS_thr_inboxLaunch (s : State) (n : BitVec 5) (x : Word) : (s.setS n x).thr.inboxLaunch = s.thr.inboxLaunch := rfl
@[simp] theorem State.setS_thr_preempt (s : State) (n : BitVec 5) (x : Word) : (s.setS n x).thr.preempt = s.thr.preempt := rfl
@[simp] theorem State.setS_thr_cancel (s : State) (n : BitVec 5) (x : Word) : (s.setS n x).thr.cancel = s.thr.cancel := rfl
@[simp] theorem State.setS_thr_rcd (s : State) (n : BitVec 5) (x : Word) : (s.setS n x).thr.rcd = s.thr.rcd := rfl
@[simp] theorem State.setP_cur (s : State) (n : BitVec 3) (x : Pred) : (s.setP n x).cur = s.cur := rfl
@[simp] theorem State.setP_rest (s : State) (n : BitVec 3) (x : Pred) : (s.setP n x).rest = s.rest := rfl
@[simp] theorem State.setP_cores (s : State) (n : BitVec 3) (x : Pred) : (s.setP n x).cores = s.cores := rfl
@[simp] theorem State.setP_clus (s : State) (n : BitVec 3) (x : Pred) : (s.setP n x).clus = s.clus := rfl
@[simp] theorem State.setP_clock (s : State) (n : BitVec 3) (x : Pred) : (s.setP n x).clock = s.clock := rfl
@[simp] theorem State.setP_mem (s : State) (n : BitVec 3) (x : Pred) : (s.setP n x).mem = s.mem := rfl
@[simp] theorem State.setP_sch (s : State) (n : BitVec 3) (x : Pred) : (s.setP n x).sch = s.sch := rfl
@[simp] theorem State.setP_plat (s : State) (n : BitVec 3) (x : Pred) : (s.setP n x).plat = s.plat := rfl
@[simp] theorem State.setP_agenda (s : State) (n : BitVec 3) (x : Pred) : (s.setP n x).agenda = s.agenda := rfl
@[simp] theorem State.setP_taken (s : State) (n : BitVec 3) (x : Pred) : (s.setP n x).taken = s.taken := rfl
@[simp] theorem State.setP_free (s : State) (n : BitVec 3) (x : Pred) : (s.setP n x).free = s.free := rfl
@[simp] theorem State.setP_thr_pc (s : State) (n : BitVec 3) (x : Pred) : (s.setP n x).thr.pc = s.thr.pc := rfl
@[simp] theorem State.setP_thr_npc (s : State) (n : BitVec 3) (x : Pred) : (s.setP n x).thr.npc = s.thr.npc := rfl
@[simp] theorem State.setP_thr_r (s : State) (n : BitVec 3) (x : Pred) : (s.setP n x).thr.r = s.thr.r.setP n x := rfl
@[simp] theorem State.setP_thr_y (s : State) (n : BitVec 3) (x : Pred) : (s.setP n x).thr.y = s.thr.y := rfl
@[simp] theorem State.setP_thr_q (s : State) (n : BitVec 3) (x : Pred) : (s.setP n x).thr.q = s.thr.q := rfl
@[simp] theorem State.setP_thr_i (s : State) (n : BitVec 3) (x : Pred) : (s.setP n x).thr.i = s.thr.i := rfl
@[simp] theorem State.setP_thr_inHandler (s : State) (n : BitVec 3) (x : Pred) : (s.setP n x).thr.inHandler = s.thr.inHandler := rfl
@[simp] theorem State.setP_thr_inbox (s : State) (n : BitVec 3) (x : Pred) : (s.setP n x).thr.inbox = s.thr.inbox := rfl
@[simp] theorem State.setP_thr_inboxLaunch (s : State) (n : BitVec 3) (x : Pred) : (s.setP n x).thr.inboxLaunch = s.thr.inboxLaunch := rfl
@[simp] theorem State.setP_thr_preempt (s : State) (n : BitVec 3) (x : Pred) : (s.setP n x).thr.preempt = s.thr.preempt := rfl
@[simp] theorem State.setP_thr_cancel (s : State) (n : BitVec 3) (x : Pred) : (s.setP n x).thr.cancel = s.thr.cancel := rfl
@[simp] theorem State.setP_thr_rcd (s : State) (n : BitVec 3) (x : Pred) : (s.setP n x).thr.rcd = s.thr.rcd := rfl
@[simp] theorem State.setV_cur (s : State) (n : BitVec 5) (x : Vec) : (s.setV n x).cur = s.cur := rfl
@[simp] theorem State.setV_rest (s : State) (n : BitVec 5) (x : Vec) : (s.setV n x).rest = s.rest := rfl
@[simp] theorem State.setV_cores (s : State) (n : BitVec 5) (x : Vec) : (s.setV n x).cores = s.cores := rfl
@[simp] theorem State.setV_clus (s : State) (n : BitVec 5) (x : Vec) : (s.setV n x).clus = s.clus := rfl
@[simp] theorem State.setV_clock (s : State) (n : BitVec 5) (x : Vec) : (s.setV n x).clock = s.clock := rfl
@[simp] theorem State.setV_mem (s : State) (n : BitVec 5) (x : Vec) : (s.setV n x).mem = s.mem := rfl
@[simp] theorem State.setV_sch (s : State) (n : BitVec 5) (x : Vec) : (s.setV n x).sch = s.sch := rfl
@[simp] theorem State.setV_plat (s : State) (n : BitVec 5) (x : Vec) : (s.setV n x).plat = s.plat := rfl
@[simp] theorem State.setV_agenda (s : State) (n : BitVec 5) (x : Vec) : (s.setV n x).agenda = s.agenda := rfl
@[simp] theorem State.setV_taken (s : State) (n : BitVec 5) (x : Vec) : (s.setV n x).taken = s.taken := rfl
@[simp] theorem State.setV_free (s : State) (n : BitVec 5) (x : Vec) : (s.setV n x).free = s.free := rfl
@[simp] theorem State.setV_thr_pc (s : State) (n : BitVec 5) (x : Vec) : (s.setV n x).thr.pc = s.thr.pc := rfl
@[simp] theorem State.setV_thr_npc (s : State) (n : BitVec 5) (x : Vec) : (s.setV n x).thr.npc = s.thr.npc := rfl
@[simp] theorem State.setV_thr_r (s : State) (n : BitVec 5) (x : Vec) : (s.setV n x).thr.r = s.thr.r.setV n x := rfl
@[simp] theorem State.setV_thr_y (s : State) (n : BitVec 5) (x : Vec) : (s.setV n x).thr.y = s.thr.y := rfl
@[simp] theorem State.setV_thr_q (s : State) (n : BitVec 5) (x : Vec) : (s.setV n x).thr.q = s.thr.q := rfl
@[simp] theorem State.setV_thr_i (s : State) (n : BitVec 5) (x : Vec) : (s.setV n x).thr.i = s.thr.i := rfl
@[simp] theorem State.setV_thr_inHandler (s : State) (n : BitVec 5) (x : Vec) : (s.setV n x).thr.inHandler = s.thr.inHandler := rfl
@[simp] theorem State.setV_thr_inbox (s : State) (n : BitVec 5) (x : Vec) : (s.setV n x).thr.inbox = s.thr.inbox := rfl
@[simp] theorem State.setV_thr_inboxLaunch (s : State) (n : BitVec 5) (x : Vec) : (s.setV n x).thr.inboxLaunch = s.thr.inboxLaunch := rfl
@[simp] theorem State.setV_thr_preempt (s : State) (n : BitVec 5) (x : Vec) : (s.setV n x).thr.preempt = s.thr.preempt := rfl
@[simp] theorem State.setV_thr_cancel (s : State) (n : BitVec 5) (x : Vec) : (s.setV n x).thr.cancel = s.thr.cancel := rfl
@[simp] theorem State.setV_thr_rcd (s : State) (n : BitVec 5) (x : Vec) : (s.setV n x).thr.rcd = s.thr.rcd := rfl
@[simp] theorem State.setVL_cur (s : State) (n : BitVec 5) (x : Vec) : (s.setVL n x).cur = s.cur := rfl
@[simp] theorem State.setVL_rest (s : State) (n : BitVec 5) (x : Vec) : (s.setVL n x).rest = s.rest := rfl
@[simp] theorem State.setVL_cores (s : State) (n : BitVec 5) (x : Vec) : (s.setVL n x).cores = s.cores := rfl
@[simp] theorem State.setVL_clus (s : State) (n : BitVec 5) (x : Vec) : (s.setVL n x).clus = s.clus := rfl
@[simp] theorem State.setVL_clock (s : State) (n : BitVec 5) (x : Vec) : (s.setVL n x).clock = s.clock := rfl
@[simp] theorem State.setVL_mem (s : State) (n : BitVec 5) (x : Vec) : (s.setVL n x).mem = s.mem := rfl
@[simp] theorem State.setVL_sch (s : State) (n : BitVec 5) (x : Vec) : (s.setVL n x).sch = s.sch := rfl
@[simp] theorem State.setVL_plat (s : State) (n : BitVec 5) (x : Vec) : (s.setVL n x).plat = s.plat := rfl
@[simp] theorem State.setVL_agenda (s : State) (n : BitVec 5) (x : Vec) : (s.setVL n x).agenda = s.agenda := rfl
@[simp] theorem State.setVL_taken (s : State) (n : BitVec 5) (x : Vec) : (s.setVL n x).taken = s.taken := rfl
@[simp] theorem State.setVL_free (s : State) (n : BitVec 5) (x : Vec) : (s.setVL n x).free = s.free := rfl
@[simp] theorem State.setVL_thr_pc (s : State) (n : BitVec 5) (x : Vec) : (s.setVL n x).thr.pc = s.thr.pc := rfl
@[simp] theorem State.setVL_thr_npc (s : State) (n : BitVec 5) (x : Vec) : (s.setVL n x).thr.npc = s.thr.npc := rfl
@[simp] theorem State.setVL_thr_r (s : State) (n : BitVec 5) (x : Vec) : (s.setVL n x).thr.r = s.thr.r.setVL n x := rfl
@[simp] theorem State.setVL_thr_y (s : State) (n : BitVec 5) (x : Vec) : (s.setVL n x).thr.y = s.thr.y := rfl
@[simp] theorem State.setVL_thr_q (s : State) (n : BitVec 5) (x : Vec) : (s.setVL n x).thr.q = s.thr.q := rfl
@[simp] theorem State.setVL_thr_i (s : State) (n : BitVec 5) (x : Vec) : (s.setVL n x).thr.i = s.thr.i := rfl
@[simp] theorem State.setVL_thr_inHandler (s : State) (n : BitVec 5) (x : Vec) : (s.setVL n x).thr.inHandler = s.thr.inHandler := rfl
@[simp] theorem State.setVL_thr_inbox (s : State) (n : BitVec 5) (x : Vec) : (s.setVL n x).thr.inbox = s.thr.inbox := rfl
@[simp] theorem State.setVL_thr_inboxLaunch (s : State) (n : BitVec 5) (x : Vec) : (s.setVL n x).thr.inboxLaunch = s.thr.inboxLaunch := rfl
@[simp] theorem State.setVL_thr_preempt (s : State) (n : BitVec 5) (x : Vec) : (s.setVL n x).thr.preempt = s.thr.preempt := rfl
@[simp] theorem State.setVL_thr_cancel (s : State) (n : BitVec 5) (x : Vec) : (s.setVL n x).thr.cancel = s.thr.cancel := rfl
@[simp] theorem State.setVL_thr_rcd (s : State) (n : BitVec 5) (x : Vec) : (s.setVL n x).thr.rcd = s.thr.rcd := rfl
@[simp] theorem State.setH_cur (s : State) (n : BitVec 4) (x : Handle) : (s.setH n x).cur = s.cur := rfl
@[simp] theorem State.setH_rest (s : State) (n : BitVec 4) (x : Handle) : (s.setH n x).rest = s.rest := rfl
@[simp] theorem State.setH_cores (s : State) (n : BitVec 4) (x : Handle) : (s.setH n x).cores = s.cores := rfl
@[simp] theorem State.setH_clus (s : State) (n : BitVec 4) (x : Handle) : (s.setH n x).clus = s.clus := rfl
@[simp] theorem State.setH_clock (s : State) (n : BitVec 4) (x : Handle) : (s.setH n x).clock = s.clock := rfl
@[simp] theorem State.setH_mem (s : State) (n : BitVec 4) (x : Handle) : (s.setH n x).mem = s.mem := rfl
@[simp] theorem State.setH_sch (s : State) (n : BitVec 4) (x : Handle) : (s.setH n x).sch = s.sch := rfl
@[simp] theorem State.setH_plat (s : State) (n : BitVec 4) (x : Handle) : (s.setH n x).plat = s.plat := rfl
@[simp] theorem State.setH_agenda (s : State) (n : BitVec 4) (x : Handle) : (s.setH n x).agenda = s.agenda := rfl
@[simp] theorem State.setH_taken (s : State) (n : BitVec 4) (x : Handle) : (s.setH n x).taken = s.taken := rfl
@[simp] theorem State.setH_free (s : State) (n : BitVec 4) (x : Handle) : (s.setH n x).free = s.free := rfl
@[simp] theorem State.setH_thr_pc (s : State) (n : BitVec 4) (x : Handle) : (s.setH n x).thr.pc = s.thr.pc := rfl
@[simp] theorem State.setH_thr_npc (s : State) (n : BitVec 4) (x : Handle) : (s.setH n x).thr.npc = s.thr.npc := rfl
@[simp] theorem State.setH_thr_r (s : State) (n : BitVec 4) (x : Handle) : (s.setH n x).thr.r = s.thr.r.setH n x := rfl
@[simp] theorem State.setH_thr_y (s : State) (n : BitVec 4) (x : Handle) : (s.setH n x).thr.y = s.thr.y := rfl
@[simp] theorem State.setH_thr_q (s : State) (n : BitVec 4) (x : Handle) : (s.setH n x).thr.q = s.thr.q := rfl
@[simp] theorem State.setH_thr_i (s : State) (n : BitVec 4) (x : Handle) : (s.setH n x).thr.i = s.thr.i := rfl
@[simp] theorem State.setH_thr_inHandler (s : State) (n : BitVec 4) (x : Handle) : (s.setH n x).thr.inHandler = s.thr.inHandler := rfl
@[simp] theorem State.setH_thr_inbox (s : State) (n : BitVec 4) (x : Handle) : (s.setH n x).thr.inbox = s.thr.inbox := rfl
@[simp] theorem State.setH_thr_inboxLaunch (s : State) (n : BitVec 4) (x : Handle) : (s.setH n x).thr.inboxLaunch = s.thr.inboxLaunch := rfl
@[simp] theorem State.setH_thr_preempt (s : State) (n : BitVec 4) (x : Handle) : (s.setH n x).thr.preempt = s.thr.preempt := rfl
@[simp] theorem State.setH_thr_cancel (s : State) (n : BitVec 4) (x : Handle) : (s.setH n x).thr.cancel = s.thr.cancel := rfl
@[simp] theorem State.setH_thr_rcd (s : State) (n : BitVec 4) (x : Handle) : (s.setH n x).thr.rcd = s.thr.rcd := rfl
@[simp] theorem State.setGen_cur (s : State) (g : Word × Word) : (s.setGen g).cur = s.cur := rfl
@[simp] theorem State.setGen_rest (s : State) (g : Word × Word) : (s.setGen g).rest = s.rest := rfl
@[simp] theorem State.setGen_cores (s : State) (g : Word × Word) : (s.setGen g).cores = s.cores := rfl
@[simp] theorem State.setGen_clus (s : State) (g : Word × Word) : (s.setGen g).clus = s.clus := rfl
@[simp] theorem State.setGen_clock (s : State) (g : Word × Word) : (s.setGen g).clock = s.clock := rfl
@[simp] theorem State.setGen_mem (s : State) (g : Word × Word) : (s.setGen g).mem = s.mem := rfl
@[simp] theorem State.setGen_sch (s : State) (g : Word × Word) : (s.setGen g).sch = s.sch := rfl
@[simp] theorem State.setGen_plat (s : State) (g : Word × Word) : (s.setGen g).plat = s.plat := rfl
@[simp] theorem State.setGen_agenda (s : State) (g : Word × Word) : (s.setGen g).agenda = s.agenda := rfl
@[simp] theorem State.setGen_taken (s : State) (g : Word × Word) : (s.setGen g).taken = s.taken := rfl
@[simp] theorem State.setGen_free (s : State) (g : Word × Word) : (s.setGen g).free = s.free := rfl
@[simp] theorem State.setGen_thr_pc (s : State) (g : Word × Word) : (s.setGen g).thr.pc = s.thr.pc := rfl
@[simp] theorem State.setGen_thr_npc (s : State) (g : Word × Word) : (s.setGen g).thr.npc = s.thr.npc := rfl
@[simp] theorem State.setGen_thr_r (s : State) (g : Word × Word) : (s.setGen g).thr.r = { s.thr.r with genA := g.1, genB := g.2 } := rfl
@[simp] theorem State.setGen_thr_y (s : State) (g : Word × Word) : (s.setGen g).thr.y = s.thr.y := rfl
@[simp] theorem State.setGen_thr_q (s : State) (g : Word × Word) : (s.setGen g).thr.q = s.thr.q := rfl
@[simp] theorem State.setGen_thr_i (s : State) (g : Word × Word) : (s.setGen g).thr.i = s.thr.i := rfl
@[simp] theorem State.setGen_thr_inHandler (s : State) (g : Word × Word) : (s.setGen g).thr.inHandler = s.thr.inHandler := rfl
@[simp] theorem State.setGen_thr_inbox (s : State) (g : Word × Word) : (s.setGen g).thr.inbox = s.thr.inbox := rfl
@[simp] theorem State.setGen_thr_inboxLaunch (s : State) (g : Word × Word) : (s.setGen g).thr.inboxLaunch = s.thr.inboxLaunch := rfl
@[simp] theorem State.setGen_thr_preempt (s : State) (g : Word × Word) : (s.setGen g).thr.preempt = s.thr.preempt := rfl
@[simp] theorem State.setGen_thr_cancel (s : State) (g : Word × Word) : (s.setGen g).thr.cancel = s.thr.cancel := rfl
@[simp] theorem State.setGen_thr_rcd (s : State) (g : Word × Word) : (s.setGen g).thr.rcd = s.thr.rcd := rfl
@[simp] theorem State.modR_cur (s : State) (f : Regs → Regs) : (s.modR f).cur = s.cur := rfl
@[simp] theorem State.modR_rest (s : State) (f : Regs → Regs) : (s.modR f).rest = s.rest := rfl
@[simp] theorem State.modR_cores (s : State) (f : Regs → Regs) : (s.modR f).cores = s.cores := rfl
@[simp] theorem State.modR_clus (s : State) (f : Regs → Regs) : (s.modR f).clus = s.clus := rfl
@[simp] theorem State.modR_clock (s : State) (f : Regs → Regs) : (s.modR f).clock = s.clock := rfl
@[simp] theorem State.modR_mem (s : State) (f : Regs → Regs) : (s.modR f).mem = s.mem := rfl
@[simp] theorem State.modR_sch (s : State) (f : Regs → Regs) : (s.modR f).sch = s.sch := rfl
@[simp] theorem State.modR_plat (s : State) (f : Regs → Regs) : (s.modR f).plat = s.plat := rfl
@[simp] theorem State.modR_agenda (s : State) (f : Regs → Regs) : (s.modR f).agenda = s.agenda := rfl
@[simp] theorem State.modR_taken (s : State) (f : Regs → Regs) : (s.modR f).taken = s.taken := rfl
@[simp] theorem State.modR_free (s : State) (f : Regs → Regs) : (s.modR f).free = s.free := rfl
@[simp] theorem State.modR_thr_pc (s : State) (f : Regs → Regs) : (s.modR f).thr.pc = s.thr.pc := rfl
@[simp] theorem State.modR_thr_npc (s : State) (f : Regs → Regs) : (s.modR f).thr.npc = s.thr.npc := rfl
@[simp] theorem State.modR_thr_r (s : State) (f : Regs → Regs) : (s.modR f).thr.r = f s.thr.r := rfl
@[simp] theorem State.modR_thr_y (s : State) (f : Regs → Regs) : (s.modR f).thr.y = s.thr.y := rfl
@[simp] theorem State.modR_thr_q (s : State) (f : Regs → Regs) : (s.modR f).thr.q = s.thr.q := rfl
@[simp] theorem State.modR_thr_i (s : State) (f : Regs → Regs) : (s.modR f).thr.i = s.thr.i := rfl
@[simp] theorem State.modR_thr_inHandler (s : State) (f : Regs → Regs) : (s.modR f).thr.inHandler = s.thr.inHandler := rfl
@[simp] theorem State.modR_thr_inbox (s : State) (f : Regs → Regs) : (s.modR f).thr.inbox = s.thr.inbox := rfl
@[simp] theorem State.modR_thr_inboxLaunch (s : State) (f : Regs → Regs) : (s.modR f).thr.inboxLaunch = s.thr.inboxLaunch := rfl
@[simp] theorem State.modR_thr_preempt (s : State) (f : Regs → Regs) : (s.modR f).thr.preempt = s.thr.preempt := rfl
@[simp] theorem State.modR_thr_cancel (s : State) (f : Regs → Regs) : (s.modR f).thr.cancel = s.thr.cancel := rfl
@[simp] theorem State.modR_thr_rcd (s : State) (f : Regs → Regs) : (s.modR f).thr.rcd = s.thr.rcd := rfl
@[simp] theorem State.modI_cur (s : State) (f : IssueSt → IssueSt) : (s.modI f).cur = s.cur := rfl
@[simp] theorem State.modI_rest (s : State) (f : IssueSt → IssueSt) : (s.modI f).rest = s.rest := rfl
@[simp] theorem State.modI_cores (s : State) (f : IssueSt → IssueSt) : (s.modI f).cores = s.cores := rfl
@[simp] theorem State.modI_clus (s : State) (f : IssueSt → IssueSt) : (s.modI f).clus = s.clus := rfl
@[simp] theorem State.modI_clock (s : State) (f : IssueSt → IssueSt) : (s.modI f).clock = s.clock := rfl
@[simp] theorem State.modI_mem (s : State) (f : IssueSt → IssueSt) : (s.modI f).mem = s.mem := rfl
@[simp] theorem State.modI_sch (s : State) (f : IssueSt → IssueSt) : (s.modI f).sch = s.sch := rfl
@[simp] theorem State.modI_plat (s : State) (f : IssueSt → IssueSt) : (s.modI f).plat = s.plat := rfl
@[simp] theorem State.modI_agenda (s : State) (f : IssueSt → IssueSt) : (s.modI f).agenda = s.agenda := rfl
@[simp] theorem State.modI_taken (s : State) (f : IssueSt → IssueSt) : (s.modI f).taken = s.taken := rfl
@[simp] theorem State.modI_free (s : State) (f : IssueSt → IssueSt) : (s.modI f).free = s.free := rfl
@[simp] theorem State.modI_thr_pc (s : State) (f : IssueSt → IssueSt) : (s.modI f).thr.pc = s.thr.pc := rfl
@[simp] theorem State.modI_thr_npc (s : State) (f : IssueSt → IssueSt) : (s.modI f).thr.npc = s.thr.npc := rfl
@[simp] theorem State.modI_thr_r (s : State) (f : IssueSt → IssueSt) : (s.modI f).thr.r = s.thr.r := rfl
@[simp] theorem State.modI_thr_y (s : State) (f : IssueSt → IssueSt) : (s.modI f).thr.y = s.thr.y := rfl
@[simp] theorem State.modI_thr_q (s : State) (f : IssueSt → IssueSt) : (s.modI f).thr.q = s.thr.q := rfl
@[simp] theorem State.modI_thr_i (s : State) (f : IssueSt → IssueSt) : (s.modI f).thr.i = f s.thr.i := rfl
@[simp] theorem State.modI_thr_inHandler (s : State) (f : IssueSt → IssueSt) : (s.modI f).thr.inHandler = s.thr.inHandler := rfl
@[simp] theorem State.modI_thr_inbox (s : State) (f : IssueSt → IssueSt) : (s.modI f).thr.inbox = s.thr.inbox := rfl
@[simp] theorem State.modI_thr_inboxLaunch (s : State) (f : IssueSt → IssueSt) : (s.modI f).thr.inboxLaunch = s.thr.inboxLaunch := rfl
@[simp] theorem State.modI_thr_preempt (s : State) (f : IssueSt → IssueSt) : (s.modI f).thr.preempt = s.thr.preempt := rfl
@[simp] theorem State.modI_thr_cancel (s : State) (f : IssueSt → IssueSt) : (s.modI f).thr.cancel = s.thr.cancel := rfl
@[simp] theorem State.modI_thr_rcd (s : State) (f : IssueSt → IssueSt) : (s.modI f).thr.rcd = s.thr.rcd := rfl
@[simp] theorem State.modY_cur (s : State) (f : SysRegs → SysRegs) : (s.modY f).cur = s.cur := rfl
@[simp] theorem State.modY_rest (s : State) (f : SysRegs → SysRegs) : (s.modY f).rest = s.rest := rfl
@[simp] theorem State.modY_cores (s : State) (f : SysRegs → SysRegs) : (s.modY f).cores = s.cores := rfl
@[simp] theorem State.modY_clus (s : State) (f : SysRegs → SysRegs) : (s.modY f).clus = s.clus := rfl
@[simp] theorem State.modY_clock (s : State) (f : SysRegs → SysRegs) : (s.modY f).clock = s.clock := rfl
@[simp] theorem State.modY_mem (s : State) (f : SysRegs → SysRegs) : (s.modY f).mem = s.mem := rfl
@[simp] theorem State.modY_sch (s : State) (f : SysRegs → SysRegs) : (s.modY f).sch = s.sch := rfl
@[simp] theorem State.modY_plat (s : State) (f : SysRegs → SysRegs) : (s.modY f).plat = s.plat := rfl
@[simp] theorem State.modY_agenda (s : State) (f : SysRegs → SysRegs) : (s.modY f).agenda = s.agenda := rfl
@[simp] theorem State.modY_taken (s : State) (f : SysRegs → SysRegs) : (s.modY f).taken = s.taken := rfl
@[simp] theorem State.modY_free (s : State) (f : SysRegs → SysRegs) : (s.modY f).free = s.free := rfl
@[simp] theorem State.modY_thr_pc (s : State) (f : SysRegs → SysRegs) : (s.modY f).thr.pc = s.thr.pc := rfl
@[simp] theorem State.modY_thr_npc (s : State) (f : SysRegs → SysRegs) : (s.modY f).thr.npc = s.thr.npc := rfl
@[simp] theorem State.modY_thr_r (s : State) (f : SysRegs → SysRegs) : (s.modY f).thr.r = s.thr.r := rfl
@[simp] theorem State.modY_thr_y (s : State) (f : SysRegs → SysRegs) : (s.modY f).thr.y = f s.thr.y := rfl
@[simp] theorem State.modY_thr_q (s : State) (f : SysRegs → SysRegs) : (s.modY f).thr.q = s.thr.q := rfl
@[simp] theorem State.modY_thr_i (s : State) (f : SysRegs → SysRegs) : (s.modY f).thr.i = s.thr.i := rfl
@[simp] theorem State.modY_thr_inHandler (s : State) (f : SysRegs → SysRegs) : (s.modY f).thr.inHandler = s.thr.inHandler := rfl
@[simp] theorem State.modY_thr_inbox (s : State) (f : SysRegs → SysRegs) : (s.modY f).thr.inbox = s.thr.inbox := rfl
@[simp] theorem State.modY_thr_inboxLaunch (s : State) (f : SysRegs → SysRegs) : (s.modY f).thr.inboxLaunch = s.thr.inboxLaunch := rfl
@[simp] theorem State.modY_thr_preempt (s : State) (f : SysRegs → SysRegs) : (s.modY f).thr.preempt = s.thr.preempt := rfl
@[simp] theorem State.modY_thr_cancel (s : State) (f : SysRegs → SysRegs) : (s.modY f).thr.cancel = s.thr.cancel := rfl
@[simp] theorem State.modY_thr_rcd (s : State) (f : SysRegs → SysRegs) : (s.modY f).thr.rcd = s.thr.rcd := rfl
@[simp] theorem State.modQ_cur (s : State) (f : Search → Search) : (s.modQ f).cur = s.cur := rfl
@[simp] theorem State.modQ_rest (s : State) (f : Search → Search) : (s.modQ f).rest = s.rest := rfl
@[simp] theorem State.modQ_cores (s : State) (f : Search → Search) : (s.modQ f).cores = s.cores := rfl
@[simp] theorem State.modQ_clus (s : State) (f : Search → Search) : (s.modQ f).clus = s.clus := rfl
@[simp] theorem State.modQ_clock (s : State) (f : Search → Search) : (s.modQ f).clock = s.clock := rfl
@[simp] theorem State.modQ_mem (s : State) (f : Search → Search) : (s.modQ f).mem = s.mem := rfl
@[simp] theorem State.modQ_sch (s : State) (f : Search → Search) : (s.modQ f).sch = s.sch := rfl
@[simp] theorem State.modQ_plat (s : State) (f : Search → Search) : (s.modQ f).plat = s.plat := rfl
@[simp] theorem State.modQ_agenda (s : State) (f : Search → Search) : (s.modQ f).agenda = s.agenda := rfl
@[simp] theorem State.modQ_taken (s : State) (f : Search → Search) : (s.modQ f).taken = s.taken := rfl
@[simp] theorem State.modQ_free (s : State) (f : Search → Search) : (s.modQ f).free = s.free := rfl
@[simp] theorem State.modQ_thr_pc (s : State) (f : Search → Search) : (s.modQ f).thr.pc = s.thr.pc := rfl
@[simp] theorem State.modQ_thr_npc (s : State) (f : Search → Search) : (s.modQ f).thr.npc = s.thr.npc := rfl
@[simp] theorem State.modQ_thr_r (s : State) (f : Search → Search) : (s.modQ f).thr.r = s.thr.r := rfl
@[simp] theorem State.modQ_thr_y (s : State) (f : Search → Search) : (s.modQ f).thr.y = s.thr.y := rfl
@[simp] theorem State.modQ_thr_q (s : State) (f : Search → Search) : (s.modQ f).thr.q = f s.thr.q := rfl
@[simp] theorem State.modQ_thr_i (s : State) (f : Search → Search) : (s.modQ f).thr.i = s.thr.i := rfl
@[simp] theorem State.modQ_thr_inHandler (s : State) (f : Search → Search) : (s.modQ f).thr.inHandler = s.thr.inHandler := rfl
@[simp] theorem State.modQ_thr_inbox (s : State) (f : Search → Search) : (s.modQ f).thr.inbox = s.thr.inbox := rfl
@[simp] theorem State.modQ_thr_inboxLaunch (s : State) (f : Search → Search) : (s.modQ f).thr.inboxLaunch = s.thr.inboxLaunch := rfl
@[simp] theorem State.modQ_thr_preempt (s : State) (f : Search → Search) : (s.modQ f).thr.preempt = s.thr.preempt := rfl
@[simp] theorem State.modQ_thr_cancel (s : State) (f : Search → Search) : (s.modQ f).thr.cancel = s.thr.cancel := rfl
@[simp] theorem State.modQ_thr_rcd (s : State) (f : Search → Search) : (s.modQ f).thr.rcd = s.thr.rcd := rfl
@[simp] theorem State.setNext_cur (s : State) (a : Word) : (s.setNext a).cur = s.cur := rfl
@[simp] theorem State.setNext_rest (s : State) (a : Word) : (s.setNext a).rest = s.rest := rfl
@[simp] theorem State.setNext_cores (s : State) (a : Word) : (s.setNext a).cores = s.cores := rfl
@[simp] theorem State.setNext_clus (s : State) (a : Word) : (s.setNext a).clus = s.clus := rfl
@[simp] theorem State.setNext_clock (s : State) (a : Word) : (s.setNext a).clock = s.clock := rfl
@[simp] theorem State.setNext_mem (s : State) (a : Word) : (s.setNext a).mem = s.mem := rfl
@[simp] theorem State.setNext_sch (s : State) (a : Word) : (s.setNext a).sch = s.sch := rfl
@[simp] theorem State.setNext_plat (s : State) (a : Word) : (s.setNext a).plat = s.plat := rfl
@[simp] theorem State.setNext_agenda (s : State) (a : Word) : (s.setNext a).agenda = s.agenda := rfl
@[simp] theorem State.setNext_taken (s : State) (a : Word) : (s.setNext a).taken = s.taken := rfl
@[simp] theorem State.setNext_free (s : State) (a : Word) : (s.setNext a).free = s.free := rfl
@[simp] theorem State.setNext_thr_pc (s : State) (a : Word) : (s.setNext a).thr.pc = s.thr.pc := rfl
@[simp] theorem State.setNext_thr_npc (s : State) (a : Word) : (s.setNext a).thr.npc = a := rfl
@[simp] theorem State.setNext_thr_r (s : State) (a : Word) : (s.setNext a).thr.r = s.thr.r := rfl
@[simp] theorem State.setNext_thr_y (s : State) (a : Word) : (s.setNext a).thr.y = s.thr.y := rfl
@[simp] theorem State.setNext_thr_q (s : State) (a : Word) : (s.setNext a).thr.q = s.thr.q := rfl
@[simp] theorem State.setNext_thr_i (s : State) (a : Word) : (s.setNext a).thr.i = s.thr.i := rfl
@[simp] theorem State.setNext_thr_inHandler (s : State) (a : Word) : (s.setNext a).thr.inHandler = s.thr.inHandler := rfl
@[simp] theorem State.setNext_thr_inbox (s : State) (a : Word) : (s.setNext a).thr.inbox = s.thr.inbox := rfl
@[simp] theorem State.setNext_thr_inboxLaunch (s : State) (a : Word) : (s.setNext a).thr.inboxLaunch = s.thr.inboxLaunch := rfl
@[simp] theorem State.setNext_thr_preempt (s : State) (a : Word) : (s.setNext a).thr.preempt = s.thr.preempt := rfl
@[simp] theorem State.setNext_thr_cancel (s : State) (a : Word) : (s.setNext a).thr.cancel = s.thr.cancel := rfl
@[simp] theorem State.setNext_thr_rcd (s : State) (a : Word) : (s.setNext a).thr.rcd = s.thr.rcd := rfl
@[simp] theorem State.modRcd_cur (s : State) (f : Rec → Rec) : (s.modRcd f).cur = s.cur := rfl
@[simp] theorem State.modRcd_rest (s : State) (f : Rec → Rec) : (s.modRcd f).rest = s.rest := rfl
@[simp] theorem State.modRcd_cores (s : State) (f : Rec → Rec) : (s.modRcd f).cores = s.cores := rfl
@[simp] theorem State.modRcd_clus (s : State) (f : Rec → Rec) : (s.modRcd f).clus = s.clus := rfl
@[simp] theorem State.modRcd_clock (s : State) (f : Rec → Rec) : (s.modRcd f).clock = s.clock := rfl
@[simp] theorem State.modRcd_mem (s : State) (f : Rec → Rec) : (s.modRcd f).mem = s.mem := rfl
@[simp] theorem State.modRcd_sch (s : State) (f : Rec → Rec) : (s.modRcd f).sch = s.sch := rfl
@[simp] theorem State.modRcd_plat (s : State) (f : Rec → Rec) : (s.modRcd f).plat = s.plat := rfl
@[simp] theorem State.modRcd_agenda (s : State) (f : Rec → Rec) : (s.modRcd f).agenda = s.agenda := rfl
@[simp] theorem State.modRcd_taken (s : State) (f : Rec → Rec) : (s.modRcd f).taken = s.taken := rfl
@[simp] theorem State.modRcd_free (s : State) (f : Rec → Rec) : (s.modRcd f).free = s.free := rfl
@[simp] theorem State.modRcd_thr_pc (s : State) (f : Rec → Rec) : (s.modRcd f).thr.pc = s.thr.pc := rfl
@[simp] theorem State.modRcd_thr_npc (s : State) (f : Rec → Rec) : (s.modRcd f).thr.npc = s.thr.npc := rfl
@[simp] theorem State.modRcd_thr_r (s : State) (f : Rec → Rec) : (s.modRcd f).thr.r = s.thr.r := rfl
@[simp] theorem State.modRcd_thr_y (s : State) (f : Rec → Rec) : (s.modRcd f).thr.y = s.thr.y := rfl
@[simp] theorem State.modRcd_thr_q (s : State) (f : Rec → Rec) : (s.modRcd f).thr.q = s.thr.q := rfl
@[simp] theorem State.modRcd_thr_i (s : State) (f : Rec → Rec) : (s.modRcd f).thr.i = s.thr.i := rfl
@[simp] theorem State.modRcd_thr_inHandler (s : State) (f : Rec → Rec) : (s.modRcd f).thr.inHandler = s.thr.inHandler := rfl
@[simp] theorem State.modRcd_thr_inbox (s : State) (f : Rec → Rec) : (s.modRcd f).thr.inbox = s.thr.inbox := rfl
@[simp] theorem State.modRcd_thr_inboxLaunch (s : State) (f : Rec → Rec) : (s.modRcd f).thr.inboxLaunch = s.thr.inboxLaunch := rfl
@[simp] theorem State.modRcd_thr_preempt (s : State) (f : Rec → Rec) : (s.modRcd f).thr.preempt = s.thr.preempt := rfl
@[simp] theorem State.modRcd_thr_cancel (s : State) (f : Rec → Rec) : (s.modRcd f).thr.cancel = s.thr.cancel := rfl
@[simp] theorem State.modRcd_thr_rcd (s : State) (f : Rec → Rec) : (s.modRcd f).thr.rcd = s.thr.rcd.map f := rfl
@[simp] theorem State.modW_cur (s : State) (f : RecWords → RecWords) : (s.modW f).cur = s.cur := rfl
@[simp] theorem State.modW_rest (s : State) (f : RecWords → RecWords) : (s.modW f).rest = s.rest := rfl
@[simp] theorem State.modW_cores (s : State) (f : RecWords → RecWords) : (s.modW f).cores = s.cores := rfl
@[simp] theorem State.modW_clus (s : State) (f : RecWords → RecWords) : (s.modW f).clus = s.clus := rfl
@[simp] theorem State.modW_clock (s : State) (f : RecWords → RecWords) : (s.modW f).clock = s.clock := rfl
@[simp] theorem State.modW_mem (s : State) (f : RecWords → RecWords) : (s.modW f).mem = s.mem := rfl
@[simp] theorem State.modW_sch (s : State) (f : RecWords → RecWords) : (s.modW f).sch = s.sch := rfl
@[simp] theorem State.modW_plat (s : State) (f : RecWords → RecWords) : (s.modW f).plat = s.plat := rfl
@[simp] theorem State.modW_agenda (s : State) (f : RecWords → RecWords) : (s.modW f).agenda = s.agenda := rfl
@[simp] theorem State.modW_taken (s : State) (f : RecWords → RecWords) : (s.modW f).taken = s.taken := rfl
@[simp] theorem State.modW_free (s : State) (f : RecWords → RecWords) : (s.modW f).free = s.free := rfl
@[simp] theorem State.modW_thr_pc (s : State) (f : RecWords → RecWords) : (s.modW f).thr.pc = s.thr.pc := rfl
@[simp] theorem State.modW_thr_npc (s : State) (f : RecWords → RecWords) : (s.modW f).thr.npc = s.thr.npc := rfl
@[simp] theorem State.modW_thr_r (s : State) (f : RecWords → RecWords) : (s.modW f).thr.r = s.thr.r := rfl
@[simp] theorem State.modW_thr_y (s : State) (f : RecWords → RecWords) : (s.modW f).thr.y = s.thr.y := rfl
@[simp] theorem State.modW_thr_q (s : State) (f : RecWords → RecWords) : (s.modW f).thr.q = s.thr.q := rfl
@[simp] theorem State.modW_thr_i (s : State) (f : RecWords → RecWords) : (s.modW f).thr.i = s.thr.i := rfl
@[simp] theorem State.modW_thr_inHandler (s : State) (f : RecWords → RecWords) : (s.modW f).thr.inHandler = s.thr.inHandler := rfl
@[simp] theorem State.modW_thr_inbox (s : State) (f : RecWords → RecWords) : (s.modW f).thr.inbox = s.thr.inbox := rfl
@[simp] theorem State.modW_thr_inboxLaunch (s : State) (f : RecWords → RecWords) : (s.modW f).thr.inboxLaunch = s.thr.inboxLaunch := rfl
@[simp] theorem State.modW_thr_preempt (s : State) (f : RecWords → RecWords) : (s.modW f).thr.preempt = s.thr.preempt := rfl
@[simp] theorem State.modW_thr_cancel (s : State) (f : RecWords → RecWords) : (s.modW f).thr.cancel = s.thr.cancel := rfl
@[simp] theorem State.modW_thr_rcd (s : State) (f : RecWords → RecWords) : (s.modW f).thr.rcd = s.thr.rcd.map (fun r => { r with w := f r.w }) := rfl

/-! The other parts of the state. -/

@[simp] theorem State.modM_cur (s : State) (f : Mem → Mem) : (s.modM f).cur = s.cur := rfl
@[simp] theorem State.modM_thr (s : State) (f : Mem → Mem) : (s.modM f).thr = s.thr := rfl
@[simp] theorem State.modM_rest (s : State) (f : Mem → Mem) : (s.modM f).rest = s.rest := rfl
@[simp] theorem State.modM_cores (s : State) (f : Mem → Mem) : (s.modM f).cores = s.cores := rfl
@[simp] theorem State.modM_clus (s : State) (f : Mem → Mem) : (s.modM f).clus = s.clus := rfl
@[simp] theorem State.modM_clock (s : State) (f : Mem → Mem) : (s.modM f).clock = s.clock := rfl
@[simp] theorem State.modM_mem (s : State) (f : Mem → Mem) : (s.modM f).mem = f s.mem := rfl
@[simp] theorem State.modM_sch (s : State) (f : Mem → Mem) : (s.modM f).sch = s.sch := rfl
@[simp] theorem State.modM_plat (s : State) (f : Mem → Mem) : (s.modM f).plat = s.plat := rfl
@[simp] theorem State.modM_agenda (s : State) (f : Mem → Mem) : (s.modM f).agenda = s.agenda := rfl
@[simp] theorem State.modM_taken (s : State) (f : Mem → Mem) : (s.modM f).taken = s.taken := rfl
@[simp] theorem State.modM_free (s : State) (f : Mem → Mem) : (s.modM f).free = s.free := rfl
@[simp] theorem State.modSch_cur (s : State) (f : Sched → Sched) : (s.modSch f).cur = s.cur := rfl
@[simp] theorem State.modSch_thr (s : State) (f : Sched → Sched) : (s.modSch f).thr = s.thr := rfl
@[simp] theorem State.modSch_rest (s : State) (f : Sched → Sched) : (s.modSch f).rest = s.rest := rfl
@[simp] theorem State.modSch_cores (s : State) (f : Sched → Sched) : (s.modSch f).cores = s.cores := rfl
@[simp] theorem State.modSch_clus (s : State) (f : Sched → Sched) : (s.modSch f).clus = s.clus := rfl
@[simp] theorem State.modSch_clock (s : State) (f : Sched → Sched) : (s.modSch f).clock = s.clock := rfl
@[simp] theorem State.modSch_mem (s : State) (f : Sched → Sched) : (s.modSch f).mem = s.mem := rfl
@[simp] theorem State.modSch_sch (s : State) (f : Sched → Sched) : (s.modSch f).sch = f s.sch := rfl
@[simp] theorem State.modSch_plat (s : State) (f : Sched → Sched) : (s.modSch f).plat = s.plat := rfl
@[simp] theorem State.modSch_agenda (s : State) (f : Sched → Sched) : (s.modSch f).agenda = s.agenda := rfl
@[simp] theorem State.modSch_taken (s : State) (f : Sched → Sched) : (s.modSch f).taken = s.taken := rfl
@[simp] theorem State.modSch_free (s : State) (f : Sched → Sched) : (s.modSch f).free = s.free := rfl
@[simp] theorem State.setCore_cur (s : State) (n : Nat) (c : CoreSt) : (s.setCore n c).cur = s.cur := rfl
@[simp] theorem State.setCore_thr (s : State) (n : Nat) (c : CoreSt) : (s.setCore n c).thr = s.thr := rfl
@[simp] theorem State.setCore_rest (s : State) (n : Nat) (c : CoreSt) : (s.setCore n c).rest = s.rest := rfl
@[simp] theorem State.setCore_cores (s : State) (n : Nat) (c : CoreSt) : (s.setCore n c).cores = tabSet n c s.cores := rfl
@[simp] theorem State.setCore_clus (s : State) (n : Nat) (c : CoreSt) : (s.setCore n c).clus = s.clus := rfl
@[simp] theorem State.setCore_clock (s : State) (n : Nat) (c : CoreSt) : (s.setCore n c).clock = s.clock := rfl
@[simp] theorem State.setCore_mem (s : State) (n : Nat) (c : CoreSt) : (s.setCore n c).mem = s.mem := rfl
@[simp] theorem State.setCore_sch (s : State) (n : Nat) (c : CoreSt) : (s.setCore n c).sch = s.sch := rfl
@[simp] theorem State.setCore_plat (s : State) (n : Nat) (c : CoreSt) : (s.setCore n c).plat = s.plat := rfl
@[simp] theorem State.setCore_agenda (s : State) (n : Nat) (c : CoreSt) : (s.setCore n c).agenda = s.agenda := rfl
@[simp] theorem State.setCore_taken (s : State) (n : Nat) (c : CoreSt) : (s.setCore n c).taken = s.taken := rfl
@[simp] theorem State.setCore_free (s : State) (n : Nat) (c : CoreSt) : (s.setCore n c).free = s.free := rfl
@[simp] theorem State.setClu_cur (s : State) (n : Nat) (c : CluSt) : (s.setClu n c).cur = s.cur := rfl
@[simp] theorem State.setClu_thr (s : State) (n : Nat) (c : CluSt) : (s.setClu n c).thr = s.thr := rfl
@[simp] theorem State.setClu_rest (s : State) (n : Nat) (c : CluSt) : (s.setClu n c).rest = s.rest := rfl
@[simp] theorem State.setClu_cores (s : State) (n : Nat) (c : CluSt) : (s.setClu n c).cores = s.cores := rfl
@[simp] theorem State.setClu_clus (s : State) (n : Nat) (c : CluSt) : (s.setClu n c).clus = tabSet n c s.clus := rfl
@[simp] theorem State.setClu_clock (s : State) (n : Nat) (c : CluSt) : (s.setClu n c).clock = s.clock := rfl
@[simp] theorem State.setClu_mem (s : State) (n : Nat) (c : CluSt) : (s.setClu n c).mem = s.mem := rfl
@[simp] theorem State.setClu_sch (s : State) (n : Nat) (c : CluSt) : (s.setClu n c).sch = s.sch := rfl
@[simp] theorem State.setClu_plat (s : State) (n : Nat) (c : CluSt) : (s.setClu n c).plat = s.plat := rfl
@[simp] theorem State.setClu_agenda (s : State) (n : Nat) (c : CluSt) : (s.setClu n c).agenda = s.agenda := rfl
@[simp] theorem State.setClu_taken (s : State) (n : Nat) (c : CluSt) : (s.setClu n c).taken = s.taken := rfl
@[simp] theorem State.setClu_free (s : State) (n : Nat) (c : CluSt) : (s.setClu n c).free = s.free := rfl
@[simp] theorem State.after_cur (s : State) (dt : Nat) (e : Event) : (s.after dt e).cur = s.cur := rfl
@[simp] theorem State.after_thr (s : State) (dt : Nat) (e : Event) : (s.after dt e).thr = s.thr := rfl
@[simp] theorem State.after_rest (s : State) (dt : Nat) (e : Event) : (s.after dt e).rest = s.rest := rfl
@[simp] theorem State.after_cores (s : State) (dt : Nat) (e : Event) : (s.after dt e).cores = s.cores := rfl
@[simp] theorem State.after_clus (s : State) (dt : Nat) (e : Event) : (s.after dt e).clus = s.clus := rfl
@[simp] theorem State.after_clock (s : State) (dt : Nat) (e : Event) : (s.after dt e).clock = s.clock := rfl
@[simp] theorem State.after_mem (s : State) (dt : Nat) (e : Event) : (s.after dt e).mem = s.mem := rfl
@[simp] theorem State.after_sch (s : State) (dt : Nat) (e : Event) : (s.after dt e).sch = s.sch := rfl
@[simp] theorem State.after_plat (s : State) (dt : Nat) (e : Event) : (s.after dt e).plat = s.plat := rfl
@[simp] theorem State.after_agenda (s : State) (dt : Nat) (e : Event) : (s.after dt e).agenda = agendaIns (s.clock + dt) e s.agenda := rfl
@[simp] theorem State.after_taken (s : State) (dt : Nat) (e : Event) : (s.after dt e).taken = s.taken := rfl
@[simp] theorem State.after_free (s : State) (dt : Nat) (e : Event) : (s.after dt e).free = s.free := rfl
@[simp] theorem State.setReg0_cur (s : State) (off : Nat) (x : Word) : (s.setReg0 off x).cur = s.cur := rfl
@[simp] theorem State.setReg0_thr (s : State) (off : Nat) (x : Word) : (s.setReg0 off x).thr = s.thr := rfl
@[simp] theorem State.setReg0_rest (s : State) (off : Nat) (x : Word) : (s.setReg0 off x).rest = s.rest := rfl
@[simp] theorem State.setReg0_cores (s : State) (off : Nat) (x : Word) : (s.setReg0 off x).cores = s.cores := rfl
@[simp] theorem State.setReg0_clus (s : State) (off : Nat) (x : Word) : (s.setReg0 off x).clus = s.clus := rfl
@[simp] theorem State.setReg0_clock (s : State) (off : Nat) (x : Word) : (s.setReg0 off x).clock = s.clock := rfl
@[simp] theorem State.setReg0_mem (s : State) (off : Nat) (x : Word) : (s.setReg0 off x).mem = s.mem := rfl
@[simp] theorem State.setReg0_sch (s : State) (off : Nat) (x : Word) : (s.setReg0 off x).sch = s.sch := rfl
@[simp] theorem State.setReg0_agenda (s : State) (off : Nat) (x : Word) : (s.setReg0 off x).agenda = s.agenda := rfl
@[simp] theorem State.setReg0_taken (s : State) (off : Nat) (x : Word) : (s.setReg0 off x).taken = s.taken := rfl
@[simp] theorem State.setReg0_free (s : State) (off : Nat) (x : Word) : (s.setReg0 off x).free = s.free := rfl
@[simp] theorem State.setReg2_cur (s : State) (off : Nat) (x : Word) : (s.setReg2 off x).cur = s.cur := rfl
@[simp] theorem State.setReg2_thr (s : State) (off : Nat) (x : Word) : (s.setReg2 off x).thr = s.thr := rfl
@[simp] theorem State.setReg2_rest (s : State) (off : Nat) (x : Word) : (s.setReg2 off x).rest = s.rest := rfl
@[simp] theorem State.setReg2_cores (s : State) (off : Nat) (x : Word) : (s.setReg2 off x).cores = s.cores := rfl
@[simp] theorem State.setReg2_clus (s : State) (off : Nat) (x : Word) : (s.setReg2 off x).clus = s.clus := rfl
@[simp] theorem State.setReg2_clock (s : State) (off : Nat) (x : Word) : (s.setReg2 off x).clock = s.clock := rfl
@[simp] theorem State.setReg2_mem (s : State) (off : Nat) (x : Word) : (s.setReg2 off x).mem = s.mem := rfl
@[simp] theorem State.setReg2_sch (s : State) (off : Nat) (x : Word) : (s.setReg2 off x).sch = s.sch := rfl
@[simp] theorem State.setReg2_agenda (s : State) (off : Nat) (x : Word) : (s.setReg2 off x).agenda = s.agenda := rfl
@[simp] theorem State.setReg2_taken (s : State) (off : Nat) (x : Word) : (s.setReg2 off x).taken = s.taken := rfl
@[simp] theorem State.setReg2_free (s : State) (off : Nat) (x : Word) : (s.setReg2 off x).free = s.free := rfl
@[simp] theorem State.setPort_cur (s : State) (p : Nat) (x : PortSt) : (s.setPort p x).cur = s.cur := rfl
@[simp] theorem State.setPort_thr (s : State) (p : Nat) (x : PortSt) : (s.setPort p x).thr = s.thr := rfl
@[simp] theorem State.setPort_rest (s : State) (p : Nat) (x : PortSt) : (s.setPort p x).rest = s.rest := rfl
@[simp] theorem State.setPort_cores (s : State) (p : Nat) (x : PortSt) : (s.setPort p x).cores = s.cores := rfl
@[simp] theorem State.setPort_clus (s : State) (p : Nat) (x : PortSt) : (s.setPort p x).clus = s.clus := rfl
@[simp] theorem State.setPort_clock (s : State) (p : Nat) (x : PortSt) : (s.setPort p x).clock = s.clock := rfl
@[simp] theorem State.setPort_mem (s : State) (p : Nat) (x : PortSt) : (s.setPort p x).mem = s.mem := rfl
@[simp] theorem State.setPort_sch (s : State) (p : Nat) (x : PortSt) : (s.setPort p x).sch = s.sch := rfl
@[simp] theorem State.setPort_agenda (s : State) (p : Nat) (x : PortSt) : (s.setPort p x).agenda = s.agenda := rfl
@[simp] theorem State.setPort_taken (s : State) (p : Nat) (x : PortSt) : (s.setPort p x).taken = s.taken := rfl
@[simp] theorem State.setPort_free (s : State) (p : Nat) (x : PortSt) : (s.setPort p x).free = s.free := rfl
@[simp] theorem State.setRope_cur (s : State) (r : Nat) (x : RopeSt) : (s.setRope r x).cur = s.cur := rfl
@[simp] theorem State.setRope_thr (s : State) (r : Nat) (x : RopeSt) : (s.setRope r x).thr = s.thr := rfl
@[simp] theorem State.setRope_rest (s : State) (r : Nat) (x : RopeSt) : (s.setRope r x).rest = s.rest := rfl
@[simp] theorem State.setRope_cores (s : State) (r : Nat) (x : RopeSt) : (s.setRope r x).cores = s.cores := rfl
@[simp] theorem State.setRope_clus (s : State) (r : Nat) (x : RopeSt) : (s.setRope r x).clus = s.clus := rfl
@[simp] theorem State.setRope_clock (s : State) (r : Nat) (x : RopeSt) : (s.setRope r x).clock = s.clock := rfl
@[simp] theorem State.setRope_mem (s : State) (r : Nat) (x : RopeSt) : (s.setRope r x).mem = s.mem := rfl
@[simp] theorem State.setRope_sch (s : State) (r : Nat) (x : RopeSt) : (s.setRope r x).sch = s.sch := rfl
@[simp] theorem State.setRope_agenda (s : State) (r : Nat) (x : RopeSt) : (s.setRope r x).agenda = s.agenda := rfl
@[simp] theorem State.setRope_taken (s : State) (r : Nat) (x : RopeSt) : (s.setRope r x).taken = s.taken := rfl
@[simp] theorem State.setRope_free (s : State) (r : Nat) (x : RopeSt) : (s.setRope r x).free = s.free := rfl
@[simp] theorem State.mailTo_cur (s : State) (die msg : Nat) : (s.mailTo die msg).cur = s.cur := rfl
@[simp] theorem State.mailTo_thr (s : State) (die msg : Nat) : (s.mailTo die msg).thr = s.thr := rfl
@[simp] theorem State.mailTo_rest (s : State) (die msg : Nat) : (s.mailTo die msg).rest = s.rest := rfl
@[simp] theorem State.mailTo_cores (s : State) (die msg : Nat) : (s.mailTo die msg).cores = s.cores := rfl
@[simp] theorem State.mailTo_clus (s : State) (die msg : Nat) : (s.mailTo die msg).clus = s.clus := rfl
@[simp] theorem State.mailTo_clock (s : State) (die msg : Nat) : (s.mailTo die msg).clock = s.clock := rfl
@[simp] theorem State.mailTo_mem (s : State) (die msg : Nat) : (s.mailTo die msg).mem = s.mem := rfl
@[simp] theorem State.mailTo_sch (s : State) (die msg : Nat) : (s.mailTo die msg).sch = s.sch := rfl
@[simp] theorem State.mailTo_agenda (s : State) (die msg : Nat) : (s.mailTo die msg).agenda = s.agenda := rfl
@[simp] theorem State.mailTo_taken (s : State) (die msg : Nat) : (s.mailTo die msg).taken = s.taken := rfl
@[simp] theorem State.mailTo_free (s : State) (die msg : Nat) : (s.mailTo die msg).free = s.free := rfl
@[simp] theorem State.irq_cur (s : State) (vec : Nat) : (s.irq vec).cur = s.cur := rfl
@[simp] theorem State.irq_thr (s : State) (vec : Nat) : (s.irq vec).thr = s.thr := rfl
@[simp] theorem State.irq_rest (s : State) (vec : Nat) : (s.irq vec).rest = s.rest := rfl
@[simp] theorem State.irq_cores (s : State) (vec : Nat) : (s.irq vec).cores = s.cores := rfl
@[simp] theorem State.irq_clus (s : State) (vec : Nat) : (s.irq vec).clus = s.clus := rfl
@[simp] theorem State.irq_clock (s : State) (vec : Nat) : (s.irq vec).clock = s.clock := rfl
@[simp] theorem State.irq_mem (s : State) (vec : Nat) : (s.irq vec).mem = s.mem := rfl
@[simp] theorem State.irq_plat (s : State) (vec : Nat) : (s.irq vec).plat = s.plat := rfl
@[simp] theorem State.irq_agenda (s : State) (vec : Nat) : (s.irq vec).agenda = s.agenda := rfl
@[simp] theorem State.irq_taken (s : State) (vec : Nat) : (s.irq vec).taken = s.taken := rfl
@[simp] theorem State.irq_free (s : State) (vec : Nat) : (s.irq vec).free = s.free := rfl
@[simp] theorem State.modLaunch_cur (s : State) (n : Nat) (f : Launch → Launch) : (s.modLaunch n f).cur = s.cur := rfl
@[simp] theorem State.modLaunch_thr (s : State) (n : Nat) (f : Launch → Launch) : (s.modLaunch n f).thr = s.thr := rfl
@[simp] theorem State.modLaunch_rest (s : State) (n : Nat) (f : Launch → Launch) : (s.modLaunch n f).rest = s.rest := rfl
@[simp] theorem State.modLaunch_cores (s : State) (n : Nat) (f : Launch → Launch) : (s.modLaunch n f).cores = s.cores := rfl
@[simp] theorem State.modLaunch_clus (s : State) (n : Nat) (f : Launch → Launch) : (s.modLaunch n f).clus = s.clus := rfl
@[simp] theorem State.modLaunch_clock (s : State) (n : Nat) (f : Launch → Launch) : (s.modLaunch n f).clock = s.clock := rfl
@[simp] theorem State.modLaunch_mem (s : State) (n : Nat) (f : Launch → Launch) : (s.modLaunch n f).mem = s.mem := rfl
@[simp] theorem State.modLaunch_plat (s : State) (n : Nat) (f : Launch → Launch) : (s.modLaunch n f).plat = s.plat := rfl
@[simp] theorem State.modLaunch_agenda (s : State) (n : Nat) (f : Launch → Launch) : (s.modLaunch n f).agenda = s.agenda := rfl
@[simp] theorem State.modLaunch_taken (s : State) (n : Nat) (f : Launch → Launch) : (s.modLaunch n f).taken = s.taken := rfl
@[simp] theorem State.modLaunch_free (s : State) (n : Nat) (f : Launch → Launch) : (s.modLaunch n f).free = s.free := rfl
@[simp] theorem State.modRec_cur (s : State) (n : Nat) (f : Rec → Rec) : (s.modRec n f).cur = s.cur := rfl
@[simp] theorem State.modRec_thr (s : State) (n : Nat) (f : Rec → Rec) : (s.modRec n f).thr = s.thr := rfl
@[simp] theorem State.modRec_rest (s : State) (n : Nat) (f : Rec → Rec) : (s.modRec n f).rest = s.rest := rfl
@[simp] theorem State.modRec_cores (s : State) (n : Nat) (f : Rec → Rec) : (s.modRec n f).cores = s.cores := rfl
@[simp] theorem State.modRec_clus (s : State) (n : Nat) (f : Rec → Rec) : (s.modRec n f).clus = s.clus := rfl
@[simp] theorem State.modRec_clock (s : State) (n : Nat) (f : Rec → Rec) : (s.modRec n f).clock = s.clock := rfl
@[simp] theorem State.modRec_mem (s : State) (n : Nat) (f : Rec → Rec) : (s.modRec n f).mem = s.mem := rfl
@[simp] theorem State.modRec_plat (s : State) (n : Nat) (f : Rec → Rec) : (s.modRec n f).plat = s.plat := rfl
@[simp] theorem State.modRec_agenda (s : State) (n : Nat) (f : Rec → Rec) : (s.modRec n f).agenda = s.agenda := rfl
@[simp] theorem State.modRec_taken (s : State) (n : Nat) (f : Rec → Rec) : (s.modRec n f).taken = s.taken := rfl
@[simp] theorem State.modRec_free (s : State) (n : Nat) (f : Rec → Rec) : (s.modRec n f).free = s.free := rfl
@[simp] theorem State.dropRec_cur (s : State) (n : Nat) : (s.dropRec n).cur = s.cur := rfl
@[simp] theorem State.dropRec_thr (s : State) (n : Nat) : (s.dropRec n).thr = s.thr := rfl
@[simp] theorem State.dropRec_rest (s : State) (n : Nat) : (s.dropRec n).rest = s.rest := rfl
@[simp] theorem State.dropRec_cores (s : State) (n : Nat) : (s.dropRec n).cores = s.cores := rfl
@[simp] theorem State.dropRec_clus (s : State) (n : Nat) : (s.dropRec n).clus = s.clus := rfl
@[simp] theorem State.dropRec_clock (s : State) (n : Nat) : (s.dropRec n).clock = s.clock := rfl
@[simp] theorem State.dropRec_mem (s : State) (n : Nat) : (s.dropRec n).mem = s.mem := rfl
@[simp] theorem State.dropRec_plat (s : State) (n : Nat) : (s.dropRec n).plat = s.plat := rfl
@[simp] theorem State.dropRec_agenda (s : State) (n : Nat) : (s.dropRec n).agenda = s.agenda := rfl
@[simp] theorem State.dropRec_taken (s : State) (n : Nat) : (s.dropRec n).taken = s.taken := rfl
@[simp] theorem State.dropRec_free (s : State) (n : Nat) : (s.dropRec n).free = s.free := rfl
@[simp] theorem State.modOp_cur (s : State) (n : Nat) (f : Op → Op) : (s.modOp n f).cur = s.cur := rfl
@[simp] theorem State.modOp_thr (s : State) (n : Nat) (f : Op → Op) : (s.modOp n f).thr = s.thr := rfl
@[simp] theorem State.modOp_rest (s : State) (n : Nat) (f : Op → Op) : (s.modOp n f).rest = s.rest := rfl
@[simp] theorem State.modOp_cores (s : State) (n : Nat) (f : Op → Op) : (s.modOp n f).cores = s.cores := rfl
@[simp] theorem State.modOp_clus (s : State) (n : Nat) (f : Op → Op) : (s.modOp n f).clus = s.clus := rfl
@[simp] theorem State.modOp_clock (s : State) (n : Nat) (f : Op → Op) : (s.modOp n f).clock = s.clock := rfl
@[simp] theorem State.modOp_mem (s : State) (n : Nat) (f : Op → Op) : (s.modOp n f).mem = s.mem := rfl
@[simp] theorem State.modOp_plat (s : State) (n : Nat) (f : Op → Op) : (s.modOp n f).plat = s.plat := rfl
@[simp] theorem State.modOp_agenda (s : State) (n : Nat) (f : Op → Op) : (s.modOp n f).agenda = s.agenda := rfl
@[simp] theorem State.modOp_taken (s : State) (n : Nat) (f : Op → Op) : (s.modOp n f).taken = s.taken := rfl
@[simp] theorem State.modOp_free (s : State) (n : Nat) (f : Op → Op) : (s.modOp n f).free = s.free := rfl
@[simp] theorem State.dropOp_cur (s : State) (n : Nat) : (s.dropOp n).cur = s.cur := rfl
@[simp] theorem State.dropOp_thr (s : State) (n : Nat) : (s.dropOp n).thr = s.thr := rfl
@[simp] theorem State.dropOp_rest (s : State) (n : Nat) : (s.dropOp n).rest = s.rest := rfl
@[simp] theorem State.dropOp_cores (s : State) (n : Nat) : (s.dropOp n).cores = s.cores := rfl
@[simp] theorem State.dropOp_clus (s : State) (n : Nat) : (s.dropOp n).clus = s.clus := rfl
@[simp] theorem State.dropOp_clock (s : State) (n : Nat) : (s.dropOp n).clock = s.clock := rfl
@[simp] theorem State.dropOp_mem (s : State) (n : Nat) : (s.dropOp n).mem = s.mem := rfl
@[simp] theorem State.dropOp_plat (s : State) (n : Nat) : (s.dropOp n).plat = s.plat := rfl
@[simp] theorem State.dropOp_agenda (s : State) (n : Nat) : (s.dropOp n).agenda = s.agenda := rfl
@[simp] theorem State.dropOp_taken (s : State) (n : Nat) : (s.dropOp n).taken = s.taken := rfl
@[simp] theorem State.dropOp_free (s : State) (n : Nat) : (s.dropOp n).free = s.free := rfl
@[simp] theorem State.setReg0_plat_bar2 (s : State) (off : Nat) (x : Word) : (s.setReg0 off x).plat.bar2 = s.plat.bar2 := rfl
@[simp] theorem State.setReg0_plat_ropes (s : State) (off : Nat) (x : Word) : (s.setReg0 off x).plat.ropes = s.plat.ropes := rfl
@[simp] theorem State.setReg0_plat_units (s : State) (off : Nat) (x : Word) : (s.setReg0 off x).plat.units = s.plat.units := rfl
@[simp] theorem State.setReg0_plat_ports (s : State) (off : Nat) (x : Word) : (s.setReg0 off x).plat.ports = s.plat.ports := rfl
@[simp] theorem State.setReg0_plat_cutInputs (s : State) (off : Nat) (x : Word) : (s.setReg0 off x).plat.cutInputs = s.plat.cutInputs := rfl
@[simp] theorem State.setReg0_plat_cutGrp (s : State) (off : Nat) (x : Word) : (s.setReg0 off x).plat.cutGrp = s.plat.cutGrp := rfl
@[simp] theorem State.setReg0_plat_cutRoutes (s : State) (off : Nat) (x : Word) : (s.setReg0 off x).plat.cutRoutes = s.plat.cutRoutes := rfl
@[simp] theorem State.setReg0_plat_bivCut (s : State) (off : Nat) (x : Word) : (s.setReg0 off x).plat.bivCut = s.plat.bivCut := rfl
@[simp] theorem State.setReg0_plat_bivSince (s : State) (off : Nat) (x : Word) : (s.setReg0 off x).plat.bivSince = s.plat.bivSince := rfl
@[simp] theorem State.setReg0_plat_bivHeld (s : State) (off : Nat) (x : Word) : (s.setReg0 off x).plat.bivHeld = s.plat.bivHeld := rfl
@[simp] theorem State.setReg0_plat_bivLost (s : State) (off : Nat) (x : Word) : (s.setReg0 off x).plat.bivLost = s.plat.bivLost := rfl
@[simp] theorem State.setReg0_plat_bivAt (s : State) (off : Nat) (x : Word) : (s.setReg0 off x).plat.bivAt = s.plat.bivAt := rfl
@[simp] theorem State.setReg0_plat_asleepFor (s : State) (off : Nat) (x : Word) : (s.setReg0 off x).plat.asleepFor = s.plat.asleepFor := rfl
@[simp] theorem State.setReg0_plat_eth (s : State) (off : Nat) (x : Word) : (s.setReg0 off x).plat.eth = s.plat.eth := rfl
@[simp] theorem State.setReg0_plat_pauseUntil (s : State) (off : Nat) (x : Word) : (s.setReg0 off x).plat.pauseUntil = s.plat.pauseUntil := rfl
@[simp] theorem State.setReg0_plat_ethLast (s : State) (off : Nat) (x : Word) : (s.setReg0 off x).plat.ethLast = s.plat.ethLast := rfl
@[simp] theorem State.setReg0_plat_wire (s : State) (off : Nat) (x : Word) : (s.setReg0 off x).plat.wire = s.plat.wire := rfl
@[simp] theorem State.setReg0_plat_mail (s : State) (off : Nat) (x : Word) : (s.setReg0 off x).plat.mail = s.plat.mail := rfl
@[simp] theorem State.setReg0_plat_dieMap (s : State) (off : Nat) (x : Word) : (s.setReg0 off x).plat.dieMap = s.plat.dieMap := rfl
@[simp] theorem State.setReg0_plat_physBad (s : State) (off : Nat) (x : Word) : (s.setReg0 off x).plat.physBad = s.plat.physBad := rfl
@[simp] theorem State.setReg0_plat_verified (s : State) (off : Nat) (x : Word) : (s.setReg0 off x).plat.verified = s.plat.verified := rfl
@[simp] theorem State.setReg0_plat_locked (s : State) (off : Nat) (x : Word) : (s.setReg0 off x).plat.locked = s.plat.locked := rfl
@[simp] theorem State.setReg0_plat_spdm (s : State) (off : Nat) (x : Word) : (s.setReg0 off x).plat.spdm = s.plat.spdm := rfl
@[simp] theorem State.setReg0_plat_cxl (s : State) (off : Nat) (x : Word) : (s.setReg0 off x).plat.cxl = s.plat.cxl := rfl
@[simp] theorem State.setReg0_plat_feHeld (s : State) (off : Nat) (x : Word) : (s.setReg0 off x).plat.feHeld = s.plat.feHeld := rfl
@[simp] theorem State.setReg0_plat_retired (s : State) (off : Nat) (x : Word) : (s.setReg0 off x).plat.retired = s.plat.retired := rfl
@[simp] theorem State.setReg0_plat_rowsOut (s : State) (off : Nat) (x : Word) : (s.setReg0 off x).plat.rowsOut = s.plat.rowsOut := rfl
@[simp] theorem State.setReg2_plat_bar0 (s : State) (off : Nat) (x : Word) : (s.setReg2 off x).plat.bar0 = s.plat.bar0 := rfl
@[simp] theorem State.setReg2_plat_ropes (s : State) (off : Nat) (x : Word) : (s.setReg2 off x).plat.ropes = s.plat.ropes := rfl
@[simp] theorem State.setReg2_plat_units (s : State) (off : Nat) (x : Word) : (s.setReg2 off x).plat.units = s.plat.units := rfl
@[simp] theorem State.setReg2_plat_ports (s : State) (off : Nat) (x : Word) : (s.setReg2 off x).plat.ports = s.plat.ports := rfl
@[simp] theorem State.setReg2_plat_cutInputs (s : State) (off : Nat) (x : Word) : (s.setReg2 off x).plat.cutInputs = s.plat.cutInputs := rfl
@[simp] theorem State.setReg2_plat_cutGrp (s : State) (off : Nat) (x : Word) : (s.setReg2 off x).plat.cutGrp = s.plat.cutGrp := rfl
@[simp] theorem State.setReg2_plat_cutRoutes (s : State) (off : Nat) (x : Word) : (s.setReg2 off x).plat.cutRoutes = s.plat.cutRoutes := rfl
@[simp] theorem State.setReg2_plat_bivCut (s : State) (off : Nat) (x : Word) : (s.setReg2 off x).plat.bivCut = s.plat.bivCut := rfl
@[simp] theorem State.setReg2_plat_bivSince (s : State) (off : Nat) (x : Word) : (s.setReg2 off x).plat.bivSince = s.plat.bivSince := rfl
@[simp] theorem State.setReg2_plat_bivHeld (s : State) (off : Nat) (x : Word) : (s.setReg2 off x).plat.bivHeld = s.plat.bivHeld := rfl
@[simp] theorem State.setReg2_plat_bivLost (s : State) (off : Nat) (x : Word) : (s.setReg2 off x).plat.bivLost = s.plat.bivLost := rfl
@[simp] theorem State.setReg2_plat_bivAt (s : State) (off : Nat) (x : Word) : (s.setReg2 off x).plat.bivAt = s.plat.bivAt := rfl
@[simp] theorem State.setReg2_plat_asleepFor (s : State) (off : Nat) (x : Word) : (s.setReg2 off x).plat.asleepFor = s.plat.asleepFor := rfl
@[simp] theorem State.setReg2_plat_eth (s : State) (off : Nat) (x : Word) : (s.setReg2 off x).plat.eth = s.plat.eth := rfl
@[simp] theorem State.setReg2_plat_pauseUntil (s : State) (off : Nat) (x : Word) : (s.setReg2 off x).plat.pauseUntil = s.plat.pauseUntil := rfl
@[simp] theorem State.setReg2_plat_ethLast (s : State) (off : Nat) (x : Word) : (s.setReg2 off x).plat.ethLast = s.plat.ethLast := rfl
@[simp] theorem State.setReg2_plat_wire (s : State) (off : Nat) (x : Word) : (s.setReg2 off x).plat.wire = s.plat.wire := rfl
@[simp] theorem State.setReg2_plat_mail (s : State) (off : Nat) (x : Word) : (s.setReg2 off x).plat.mail = s.plat.mail := rfl
@[simp] theorem State.setReg2_plat_dieMap (s : State) (off : Nat) (x : Word) : (s.setReg2 off x).plat.dieMap = s.plat.dieMap := rfl
@[simp] theorem State.setReg2_plat_physBad (s : State) (off : Nat) (x : Word) : (s.setReg2 off x).plat.physBad = s.plat.physBad := rfl
@[simp] theorem State.setReg2_plat_verified (s : State) (off : Nat) (x : Word) : (s.setReg2 off x).plat.verified = s.plat.verified := rfl
@[simp] theorem State.setReg2_plat_locked (s : State) (off : Nat) (x : Word) : (s.setReg2 off x).plat.locked = s.plat.locked := rfl
@[simp] theorem State.setReg2_plat_spdm (s : State) (off : Nat) (x : Word) : (s.setReg2 off x).plat.spdm = s.plat.spdm := rfl
@[simp] theorem State.setReg2_plat_cxl (s : State) (off : Nat) (x : Word) : (s.setReg2 off x).plat.cxl = s.plat.cxl := rfl
@[simp] theorem State.setReg2_plat_feHeld (s : State) (off : Nat) (x : Word) : (s.setReg2 off x).plat.feHeld = s.plat.feHeld := rfl
@[simp] theorem State.setReg2_plat_retired (s : State) (off : Nat) (x : Word) : (s.setReg2 off x).plat.retired = s.plat.retired := rfl
@[simp] theorem State.setReg2_plat_rowsOut (s : State) (off : Nat) (x : Word) : (s.setReg2 off x).plat.rowsOut = s.plat.rowsOut := rfl
@[simp] theorem State.setPort_plat_bar0 (s : State) (p : Nat) (x : PortSt) : (s.setPort p x).plat.bar0 = s.plat.bar0 := rfl
@[simp] theorem State.setPort_plat_bar2 (s : State) (p : Nat) (x : PortSt) : (s.setPort p x).plat.bar2 = s.plat.bar2 := rfl
@[simp] theorem State.setPort_plat_ropes (s : State) (p : Nat) (x : PortSt) : (s.setPort p x).plat.ropes = s.plat.ropes := rfl
@[simp] theorem State.setPort_plat_units (s : State) (p : Nat) (x : PortSt) : (s.setPort p x).plat.units = s.plat.units := rfl
@[simp] theorem State.setPort_plat_ports (s : State) (p : Nat) (x : PortSt) : (s.setPort p x).plat.ports = tabSet p x s.plat.ports := rfl
@[simp] theorem State.setPort_plat_cutInputs (s : State) (p : Nat) (x : PortSt) : (s.setPort p x).plat.cutInputs = s.plat.cutInputs := rfl
@[simp] theorem State.setPort_plat_cutGrp (s : State) (p : Nat) (x : PortSt) : (s.setPort p x).plat.cutGrp = s.plat.cutGrp := rfl
@[simp] theorem State.setPort_plat_cutRoutes (s : State) (p : Nat) (x : PortSt) : (s.setPort p x).plat.cutRoutes = s.plat.cutRoutes := rfl
@[simp] theorem State.setPort_plat_bivCut (s : State) (p : Nat) (x : PortSt) : (s.setPort p x).plat.bivCut = s.plat.bivCut := rfl
@[simp] theorem State.setPort_plat_bivSince (s : State) (p : Nat) (x : PortSt) : (s.setPort p x).plat.bivSince = s.plat.bivSince := rfl
@[simp] theorem State.setPort_plat_bivHeld (s : State) (p : Nat) (x : PortSt) : (s.setPort p x).plat.bivHeld = s.plat.bivHeld := rfl
@[simp] theorem State.setPort_plat_bivLost (s : State) (p : Nat) (x : PortSt) : (s.setPort p x).plat.bivLost = s.plat.bivLost := rfl
@[simp] theorem State.setPort_plat_bivAt (s : State) (p : Nat) (x : PortSt) : (s.setPort p x).plat.bivAt = s.plat.bivAt := rfl
@[simp] theorem State.setPort_plat_asleepFor (s : State) (p : Nat) (x : PortSt) : (s.setPort p x).plat.asleepFor = s.plat.asleepFor := rfl
@[simp] theorem State.setPort_plat_eth (s : State) (p : Nat) (x : PortSt) : (s.setPort p x).plat.eth = s.plat.eth := rfl
@[simp] theorem State.setPort_plat_pauseUntil (s : State) (p : Nat) (x : PortSt) : (s.setPort p x).plat.pauseUntil = s.plat.pauseUntil := rfl
@[simp] theorem State.setPort_plat_ethLast (s : State) (p : Nat) (x : PortSt) : (s.setPort p x).plat.ethLast = s.plat.ethLast := rfl
@[simp] theorem State.setPort_plat_wire (s : State) (p : Nat) (x : PortSt) : (s.setPort p x).plat.wire = s.plat.wire := rfl
@[simp] theorem State.setPort_plat_mail (s : State) (p : Nat) (x : PortSt) : (s.setPort p x).plat.mail = s.plat.mail := rfl
@[simp] theorem State.setPort_plat_dieMap (s : State) (p : Nat) (x : PortSt) : (s.setPort p x).plat.dieMap = s.plat.dieMap := rfl
@[simp] theorem State.setPort_plat_physBad (s : State) (p : Nat) (x : PortSt) : (s.setPort p x).plat.physBad = s.plat.physBad := rfl
@[simp] theorem State.setPort_plat_verified (s : State) (p : Nat) (x : PortSt) : (s.setPort p x).plat.verified = s.plat.verified := rfl
@[simp] theorem State.setPort_plat_locked (s : State) (p : Nat) (x : PortSt) : (s.setPort p x).plat.locked = s.plat.locked := rfl
@[simp] theorem State.setPort_plat_spdm (s : State) (p : Nat) (x : PortSt) : (s.setPort p x).plat.spdm = s.plat.spdm := rfl
@[simp] theorem State.setPort_plat_cxl (s : State) (p : Nat) (x : PortSt) : (s.setPort p x).plat.cxl = s.plat.cxl := rfl
@[simp] theorem State.setPort_plat_feHeld (s : State) (p : Nat) (x : PortSt) : (s.setPort p x).plat.feHeld = s.plat.feHeld := rfl
@[simp] theorem State.setPort_plat_retired (s : State) (p : Nat) (x : PortSt) : (s.setPort p x).plat.retired = s.plat.retired := rfl
@[simp] theorem State.setPort_plat_rowsOut (s : State) (p : Nat) (x : PortSt) : (s.setPort p x).plat.rowsOut = s.plat.rowsOut := rfl
@[simp] theorem State.setRope_plat_bar0 (s : State) (r : Nat) (x : RopeSt) : (s.setRope r x).plat.bar0 = s.plat.bar0 := rfl
@[simp] theorem State.setRope_plat_bar2 (s : State) (r : Nat) (x : RopeSt) : (s.setRope r x).plat.bar2 = s.plat.bar2 := rfl
@[simp] theorem State.setRope_plat_ropes (s : State) (r : Nat) (x : RopeSt) : (s.setRope r x).plat.ropes = tabSet r x s.plat.ropes := rfl
@[simp] theorem State.setRope_plat_units (s : State) (r : Nat) (x : RopeSt) : (s.setRope r x).plat.units = s.plat.units := rfl
@[simp] theorem State.setRope_plat_ports (s : State) (r : Nat) (x : RopeSt) : (s.setRope r x).plat.ports = s.plat.ports := rfl
@[simp] theorem State.setRope_plat_cutInputs (s : State) (r : Nat) (x : RopeSt) : (s.setRope r x).plat.cutInputs = s.plat.cutInputs := rfl
@[simp] theorem State.setRope_plat_cutGrp (s : State) (r : Nat) (x : RopeSt) : (s.setRope r x).plat.cutGrp = s.plat.cutGrp := rfl
@[simp] theorem State.setRope_plat_cutRoutes (s : State) (r : Nat) (x : RopeSt) : (s.setRope r x).plat.cutRoutes = s.plat.cutRoutes := rfl
@[simp] theorem State.setRope_plat_bivCut (s : State) (r : Nat) (x : RopeSt) : (s.setRope r x).plat.bivCut = s.plat.bivCut := rfl
@[simp] theorem State.setRope_plat_bivSince (s : State) (r : Nat) (x : RopeSt) : (s.setRope r x).plat.bivSince = s.plat.bivSince := rfl
@[simp] theorem State.setRope_plat_bivHeld (s : State) (r : Nat) (x : RopeSt) : (s.setRope r x).plat.bivHeld = s.plat.bivHeld := rfl
@[simp] theorem State.setRope_plat_bivLost (s : State) (r : Nat) (x : RopeSt) : (s.setRope r x).plat.bivLost = s.plat.bivLost := rfl
@[simp] theorem State.setRope_plat_bivAt (s : State) (r : Nat) (x : RopeSt) : (s.setRope r x).plat.bivAt = s.plat.bivAt := rfl
@[simp] theorem State.setRope_plat_asleepFor (s : State) (r : Nat) (x : RopeSt) : (s.setRope r x).plat.asleepFor = s.plat.asleepFor := rfl
@[simp] theorem State.setRope_plat_eth (s : State) (r : Nat) (x : RopeSt) : (s.setRope r x).plat.eth = s.plat.eth := rfl
@[simp] theorem State.setRope_plat_pauseUntil (s : State) (r : Nat) (x : RopeSt) : (s.setRope r x).plat.pauseUntil = s.plat.pauseUntil := rfl
@[simp] theorem State.setRope_plat_ethLast (s : State) (r : Nat) (x : RopeSt) : (s.setRope r x).plat.ethLast = s.plat.ethLast := rfl
@[simp] theorem State.setRope_plat_wire (s : State) (r : Nat) (x : RopeSt) : (s.setRope r x).plat.wire = s.plat.wire := rfl
@[simp] theorem State.setRope_plat_mail (s : State) (r : Nat) (x : RopeSt) : (s.setRope r x).plat.mail = s.plat.mail := rfl
@[simp] theorem State.setRope_plat_dieMap (s : State) (r : Nat) (x : RopeSt) : (s.setRope r x).plat.dieMap = s.plat.dieMap := rfl
@[simp] theorem State.setRope_plat_physBad (s : State) (r : Nat) (x : RopeSt) : (s.setRope r x).plat.physBad = s.plat.physBad := rfl
@[simp] theorem State.setRope_plat_verified (s : State) (r : Nat) (x : RopeSt) : (s.setRope r x).plat.verified = s.plat.verified := rfl
@[simp] theorem State.setRope_plat_locked (s : State) (r : Nat) (x : RopeSt) : (s.setRope r x).plat.locked = s.plat.locked := rfl
@[simp] theorem State.setRope_plat_spdm (s : State) (r : Nat) (x : RopeSt) : (s.setRope r x).plat.spdm = s.plat.spdm := rfl
@[simp] theorem State.setRope_plat_cxl (s : State) (r : Nat) (x : RopeSt) : (s.setRope r x).plat.cxl = s.plat.cxl := rfl
@[simp] theorem State.setRope_plat_feHeld (s : State) (r : Nat) (x : RopeSt) : (s.setRope r x).plat.feHeld = s.plat.feHeld := rfl
@[simp] theorem State.setRope_plat_retired (s : State) (r : Nat) (x : RopeSt) : (s.setRope r x).plat.retired = s.plat.retired := rfl
@[simp] theorem State.setRope_plat_rowsOut (s : State) (r : Nat) (x : RopeSt) : (s.setRope r x).plat.rowsOut = s.plat.rowsOut := rfl
@[simp] theorem State.mailTo_plat_bar0 (s : State) (die msg : Nat) : (s.mailTo die msg).plat.bar0 = s.plat.bar0 := rfl
@[simp] theorem State.mailTo_plat_bar2 (s : State) (die msg : Nat) : (s.mailTo die msg).plat.bar2 = s.plat.bar2 := rfl
@[simp] theorem State.mailTo_plat_ropes (s : State) (die msg : Nat) : (s.mailTo die msg).plat.ropes = s.plat.ropes := rfl
@[simp] theorem State.mailTo_plat_units (s : State) (die msg : Nat) : (s.mailTo die msg).plat.units = s.plat.units := rfl
@[simp] theorem State.mailTo_plat_ports (s : State) (die msg : Nat) : (s.mailTo die msg).plat.ports = s.plat.ports := rfl
@[simp] theorem State.mailTo_plat_cutInputs (s : State) (die msg : Nat) : (s.mailTo die msg).plat.cutInputs = s.plat.cutInputs := rfl
@[simp] theorem State.mailTo_plat_cutGrp (s : State) (die msg : Nat) : (s.mailTo die msg).plat.cutGrp = s.plat.cutGrp := rfl
@[simp] theorem State.mailTo_plat_cutRoutes (s : State) (die msg : Nat) : (s.mailTo die msg).plat.cutRoutes = s.plat.cutRoutes := rfl
@[simp] theorem State.mailTo_plat_bivCut (s : State) (die msg : Nat) : (s.mailTo die msg).plat.bivCut = s.plat.bivCut := rfl
@[simp] theorem State.mailTo_plat_bivSince (s : State) (die msg : Nat) : (s.mailTo die msg).plat.bivSince = s.plat.bivSince := rfl
@[simp] theorem State.mailTo_plat_bivHeld (s : State) (die msg : Nat) : (s.mailTo die msg).plat.bivHeld = s.plat.bivHeld := rfl
@[simp] theorem State.mailTo_plat_bivLost (s : State) (die msg : Nat) : (s.mailTo die msg).plat.bivLost = s.plat.bivLost := rfl
@[simp] theorem State.mailTo_plat_bivAt (s : State) (die msg : Nat) : (s.mailTo die msg).plat.bivAt = s.plat.bivAt := rfl
@[simp] theorem State.mailTo_plat_asleepFor (s : State) (die msg : Nat) : (s.mailTo die msg).plat.asleepFor = s.plat.asleepFor := rfl
@[simp] theorem State.mailTo_plat_eth (s : State) (die msg : Nat) : (s.mailTo die msg).plat.eth = s.plat.eth := rfl
@[simp] theorem State.mailTo_plat_pauseUntil (s : State) (die msg : Nat) : (s.mailTo die msg).plat.pauseUntil = s.plat.pauseUntil := rfl
@[simp] theorem State.mailTo_plat_ethLast (s : State) (die msg : Nat) : (s.mailTo die msg).plat.ethLast = s.plat.ethLast := rfl
@[simp] theorem State.mailTo_plat_wire (s : State) (die msg : Nat) : (s.mailTo die msg).plat.wire = s.plat.wire := rfl
@[simp] theorem State.mailTo_plat_mail (s : State) (die msg : Nat) : (s.mailTo die msg).plat.mail = s.plat.mail ++ [(die, msg)] := rfl
@[simp] theorem State.mailTo_plat_dieMap (s : State) (die msg : Nat) : (s.mailTo die msg).plat.dieMap = s.plat.dieMap := rfl
@[simp] theorem State.mailTo_plat_physBad (s : State) (die msg : Nat) : (s.mailTo die msg).plat.physBad = s.plat.physBad := rfl
@[simp] theorem State.mailTo_plat_verified (s : State) (die msg : Nat) : (s.mailTo die msg).plat.verified = s.plat.verified := rfl
@[simp] theorem State.mailTo_plat_locked (s : State) (die msg : Nat) : (s.mailTo die msg).plat.locked = s.plat.locked := rfl
@[simp] theorem State.mailTo_plat_spdm (s : State) (die msg : Nat) : (s.mailTo die msg).plat.spdm = s.plat.spdm := rfl
@[simp] theorem State.mailTo_plat_cxl (s : State) (die msg : Nat) : (s.mailTo die msg).plat.cxl = s.plat.cxl := rfl
@[simp] theorem State.mailTo_plat_feHeld (s : State) (die msg : Nat) : (s.mailTo die msg).plat.feHeld = s.plat.feHeld := rfl
@[simp] theorem State.mailTo_plat_retired (s : State) (die msg : Nat) : (s.mailTo die msg).plat.retired = s.plat.retired := rfl
@[simp] theorem State.mailTo_plat_rowsOut (s : State) (die msg : Nat) : (s.mailTo die msg).plat.rowsOut = s.plat.rowsOut := rfl
@[simp] theorem State.irq_sch_launches (s : State) (vec : Nat) : (s.irq vec).sch.launches = s.sch.launches := rfl
@[simp] theorem State.irq_sch_recs (s : State) (vec : Nat) : (s.irq vec).sch.recs = s.sch.recs := rfl
@[simp] theorem State.irq_sch_ops (s : State) (vec : Nat) : (s.irq vec).sch.ops = s.sch.ops := rfl
@[simp] theorem State.irq_sch_queues (s : State) (vec : Nat) : (s.irq vec).sch.queues = s.sch.queues := rfl
@[simp] theorem State.irq_sch_rings (s : State) (vec : Nat) : (s.irq vec).sch.rings = s.sch.rings := rfl
@[simp] theorem State.irq_sch_filters (s : State) (vec : Nat) : (s.irq vec).sch.filters = s.sch.filters := rfl
@[simp] theorem State.irq_sch_irqs (s : State) (vec : Nat) : (s.irq vec).sch.irqs = s.sch.irqs ++ [vec] := rfl
@[simp] theorem State.irq_sch_heldCancels (s : State) (vec : Nat) : (s.irq vec).sch.heldCancels = s.sch.heldCancels := rfl
@[simp] theorem State.irq_sch_blocks (s : State) (vec : Nat) : (s.irq vec).sch.blocks = s.sch.blocks := rfl
@[simp] theorem State.irq_sch_offers (s : State) (vec : Nat) : (s.irq vec).sch.offers = s.sch.offers := rfl
@[simp] theorem State.irq_sch_away (s : State) (vec : Nat) : (s.irq vec).sch.away = s.sch.away := rfl
@[simp] theorem State.irq_sch_wants (s : State) (vec : Nat) : (s.irq vec).sch.wants = s.sch.wants := rfl
@[simp] theorem State.irq_sch_nextId (s : State) (vec : Nat) : (s.irq vec).sch.nextId = s.sch.nextId := rfl
@[simp] theorem State.irq_sch_keys (s : State) (vec : Nat) : (s.irq vec).sch.keys = s.sch.keys := rfl
@[simp] theorem State.irq_sch_preemptBusy (s : State) (vec : Nat) : (s.irq vec).sch.preemptBusy = s.sch.preemptBusy := rfl
@[simp] theorem State.irq_sch_tlbiBusy (s : State) (vec : Nat) : (s.irq vec).sch.tlbiBusy = s.sch.tlbiBusy := rfl
@[simp] theorem State.modLaunch_sch_launches (s : State) (n : Nat) (f : Launch → Launch) : (s.modLaunch n f).sch.launches = s.sch.launches.map (fun l => if l.num = n then f l else l) := rfl
@[simp] theorem State.modLaunch_sch_recs (s : State) (n : Nat) (f : Launch → Launch) : (s.modLaunch n f).sch.recs = s.sch.recs := rfl
@[simp] theorem State.modLaunch_sch_ops (s : State) (n : Nat) (f : Launch → Launch) : (s.modLaunch n f).sch.ops = s.sch.ops := rfl
@[simp] theorem State.modLaunch_sch_queues (s : State) (n : Nat) (f : Launch → Launch) : (s.modLaunch n f).sch.queues = s.sch.queues := rfl
@[simp] theorem State.modLaunch_sch_rings (s : State) (n : Nat) (f : Launch → Launch) : (s.modLaunch n f).sch.rings = s.sch.rings := rfl
@[simp] theorem State.modLaunch_sch_filters (s : State) (n : Nat) (f : Launch → Launch) : (s.modLaunch n f).sch.filters = s.sch.filters := rfl
@[simp] theorem State.modLaunch_sch_irqs (s : State) (n : Nat) (f : Launch → Launch) : (s.modLaunch n f).sch.irqs = s.sch.irqs := rfl
@[simp] theorem State.modLaunch_sch_heldCancels (s : State) (n : Nat) (f : Launch → Launch) : (s.modLaunch n f).sch.heldCancels = s.sch.heldCancels := rfl
@[simp] theorem State.modLaunch_sch_blocks (s : State) (n : Nat) (f : Launch → Launch) : (s.modLaunch n f).sch.blocks = s.sch.blocks := rfl
@[simp] theorem State.modLaunch_sch_offers (s : State) (n : Nat) (f : Launch → Launch) : (s.modLaunch n f).sch.offers = s.sch.offers := rfl
@[simp] theorem State.modLaunch_sch_away (s : State) (n : Nat) (f : Launch → Launch) : (s.modLaunch n f).sch.away = s.sch.away := rfl
@[simp] theorem State.modLaunch_sch_wants (s : State) (n : Nat) (f : Launch → Launch) : (s.modLaunch n f).sch.wants = s.sch.wants := rfl
@[simp] theorem State.modLaunch_sch_nextId (s : State) (n : Nat) (f : Launch → Launch) : (s.modLaunch n f).sch.nextId = s.sch.nextId := rfl
@[simp] theorem State.modLaunch_sch_keys (s : State) (n : Nat) (f : Launch → Launch) : (s.modLaunch n f).sch.keys = s.sch.keys := rfl
@[simp] theorem State.modLaunch_sch_preemptBusy (s : State) (n : Nat) (f : Launch → Launch) : (s.modLaunch n f).sch.preemptBusy = s.sch.preemptBusy := rfl
@[simp] theorem State.modLaunch_sch_tlbiBusy (s : State) (n : Nat) (f : Launch → Launch) : (s.modLaunch n f).sch.tlbiBusy = s.sch.tlbiBusy := rfl
@[simp] theorem State.modRec_sch_launches (s : State) (n : Nat) (f : Rec → Rec) : (s.modRec n f).sch.launches = s.sch.launches := rfl
@[simp] theorem State.modRec_sch_recs (s : State) (n : Nat) (f : Rec → Rec) : (s.modRec n f).sch.recs = s.sch.recs.map (fun r => if r.id = n then f r else r) := rfl
@[simp] theorem State.modRec_sch_ops (s : State) (n : Nat) (f : Rec → Rec) : (s.modRec n f).sch.ops = s.sch.ops := rfl
@[simp] theorem State.modRec_sch_queues (s : State) (n : Nat) (f : Rec → Rec) : (s.modRec n f).sch.queues = s.sch.queues := rfl
@[simp] theorem State.modRec_sch_rings (s : State) (n : Nat) (f : Rec → Rec) : (s.modRec n f).sch.rings = s.sch.rings := rfl
@[simp] theorem State.modRec_sch_filters (s : State) (n : Nat) (f : Rec → Rec) : (s.modRec n f).sch.filters = s.sch.filters := rfl
@[simp] theorem State.modRec_sch_irqs (s : State) (n : Nat) (f : Rec → Rec) : (s.modRec n f).sch.irqs = s.sch.irqs := rfl
@[simp] theorem State.modRec_sch_heldCancels (s : State) (n : Nat) (f : Rec → Rec) : (s.modRec n f).sch.heldCancels = s.sch.heldCancels := rfl
@[simp] theorem State.modRec_sch_blocks (s : State) (n : Nat) (f : Rec → Rec) : (s.modRec n f).sch.blocks = s.sch.blocks := rfl
@[simp] theorem State.modRec_sch_offers (s : State) (n : Nat) (f : Rec → Rec) : (s.modRec n f).sch.offers = s.sch.offers := rfl
@[simp] theorem State.modRec_sch_away (s : State) (n : Nat) (f : Rec → Rec) : (s.modRec n f).sch.away = s.sch.away := rfl
@[simp] theorem State.modRec_sch_wants (s : State) (n : Nat) (f : Rec → Rec) : (s.modRec n f).sch.wants = s.sch.wants := rfl
@[simp] theorem State.modRec_sch_nextId (s : State) (n : Nat) (f : Rec → Rec) : (s.modRec n f).sch.nextId = s.sch.nextId := rfl
@[simp] theorem State.modRec_sch_keys (s : State) (n : Nat) (f : Rec → Rec) : (s.modRec n f).sch.keys = s.sch.keys := rfl
@[simp] theorem State.modRec_sch_preemptBusy (s : State) (n : Nat) (f : Rec → Rec) : (s.modRec n f).sch.preemptBusy = s.sch.preemptBusy := rfl
@[simp] theorem State.modRec_sch_tlbiBusy (s : State) (n : Nat) (f : Rec → Rec) : (s.modRec n f).sch.tlbiBusy = s.sch.tlbiBusy := rfl
@[simp] theorem State.dropRec_sch_launches (s : State) (n : Nat) : (s.dropRec n).sch.launches = s.sch.launches := rfl
@[simp] theorem State.dropRec_sch_recs (s : State) (n : Nat) : (s.dropRec n).sch.recs = s.sch.recs.filter (fun r => r.id != n) := rfl
@[simp] theorem State.dropRec_sch_ops (s : State) (n : Nat) : (s.dropRec n).sch.ops = s.sch.ops := rfl
@[simp] theorem State.dropRec_sch_queues (s : State) (n : Nat) : (s.dropRec n).sch.queues = s.sch.queues := rfl
@[simp] theorem State.dropRec_sch_rings (s : State) (n : Nat) : (s.dropRec n).sch.rings = s.sch.rings := rfl
@[simp] theorem State.dropRec_sch_filters (s : State) (n : Nat) : (s.dropRec n).sch.filters = s.sch.filters := rfl
@[simp] theorem State.dropRec_sch_irqs (s : State) (n : Nat) : (s.dropRec n).sch.irqs = s.sch.irqs := rfl
@[simp] theorem State.dropRec_sch_heldCancels (s : State) (n : Nat) : (s.dropRec n).sch.heldCancels = s.sch.heldCancels := rfl
@[simp] theorem State.dropRec_sch_blocks (s : State) (n : Nat) : (s.dropRec n).sch.blocks = s.sch.blocks := rfl
@[simp] theorem State.dropRec_sch_offers (s : State) (n : Nat) : (s.dropRec n).sch.offers = s.sch.offers := rfl
@[simp] theorem State.dropRec_sch_away (s : State) (n : Nat) : (s.dropRec n).sch.away = s.sch.away := rfl
@[simp] theorem State.dropRec_sch_wants (s : State) (n : Nat) : (s.dropRec n).sch.wants = s.sch.wants := rfl
@[simp] theorem State.dropRec_sch_nextId (s : State) (n : Nat) : (s.dropRec n).sch.nextId = s.sch.nextId := rfl
@[simp] theorem State.dropRec_sch_keys (s : State) (n : Nat) : (s.dropRec n).sch.keys = s.sch.keys := rfl
@[simp] theorem State.dropRec_sch_preemptBusy (s : State) (n : Nat) : (s.dropRec n).sch.preemptBusy = s.sch.preemptBusy := rfl
@[simp] theorem State.dropRec_sch_tlbiBusy (s : State) (n : Nat) : (s.dropRec n).sch.tlbiBusy = s.sch.tlbiBusy := rfl
@[simp] theorem State.modOp_sch_launches (s : State) (n : Nat) (f : Op → Op) : (s.modOp n f).sch.launches = s.sch.launches := rfl
@[simp] theorem State.modOp_sch_recs (s : State) (n : Nat) (f : Op → Op) : (s.modOp n f).sch.recs = s.sch.recs := rfl
@[simp] theorem State.modOp_sch_ops (s : State) (n : Nat) (f : Op → Op) : (s.modOp n f).sch.ops = s.sch.ops.map (fun o => if o.id = n then f o else o) := rfl
@[simp] theorem State.modOp_sch_queues (s : State) (n : Nat) (f : Op → Op) : (s.modOp n f).sch.queues = s.sch.queues := rfl
@[simp] theorem State.modOp_sch_rings (s : State) (n : Nat) (f : Op → Op) : (s.modOp n f).sch.rings = s.sch.rings := rfl
@[simp] theorem State.modOp_sch_filters (s : State) (n : Nat) (f : Op → Op) : (s.modOp n f).sch.filters = s.sch.filters := rfl
@[simp] theorem State.modOp_sch_irqs (s : State) (n : Nat) (f : Op → Op) : (s.modOp n f).sch.irqs = s.sch.irqs := rfl
@[simp] theorem State.modOp_sch_heldCancels (s : State) (n : Nat) (f : Op → Op) : (s.modOp n f).sch.heldCancels = s.sch.heldCancels := rfl
@[simp] theorem State.modOp_sch_blocks (s : State) (n : Nat) (f : Op → Op) : (s.modOp n f).sch.blocks = s.sch.blocks := rfl
@[simp] theorem State.modOp_sch_offers (s : State) (n : Nat) (f : Op → Op) : (s.modOp n f).sch.offers = s.sch.offers := rfl
@[simp] theorem State.modOp_sch_away (s : State) (n : Nat) (f : Op → Op) : (s.modOp n f).sch.away = s.sch.away := rfl
@[simp] theorem State.modOp_sch_wants (s : State) (n : Nat) (f : Op → Op) : (s.modOp n f).sch.wants = s.sch.wants := rfl
@[simp] theorem State.modOp_sch_nextId (s : State) (n : Nat) (f : Op → Op) : (s.modOp n f).sch.nextId = s.sch.nextId := rfl
@[simp] theorem State.modOp_sch_keys (s : State) (n : Nat) (f : Op → Op) : (s.modOp n f).sch.keys = s.sch.keys := rfl
@[simp] theorem State.modOp_sch_preemptBusy (s : State) (n : Nat) (f : Op → Op) : (s.modOp n f).sch.preemptBusy = s.sch.preemptBusy := rfl
@[simp] theorem State.modOp_sch_tlbiBusy (s : State) (n : Nat) (f : Op → Op) : (s.modOp n f).sch.tlbiBusy = s.sch.tlbiBusy := rfl
@[simp] theorem State.dropOp_sch_launches (s : State) (n : Nat) : (s.dropOp n).sch.launches = s.sch.launches := rfl
@[simp] theorem State.dropOp_sch_recs (s : State) (n : Nat) : (s.dropOp n).sch.recs = s.sch.recs := rfl
@[simp] theorem State.dropOp_sch_ops (s : State) (n : Nat) : (s.dropOp n).sch.ops = s.sch.ops.filter (fun o => o.id != n) := rfl
@[simp] theorem State.dropOp_sch_queues (s : State) (n : Nat) : (s.dropOp n).sch.queues = s.sch.queues := rfl
@[simp] theorem State.dropOp_sch_rings (s : State) (n : Nat) : (s.dropOp n).sch.rings = s.sch.rings := rfl
@[simp] theorem State.dropOp_sch_filters (s : State) (n : Nat) : (s.dropOp n).sch.filters = s.sch.filters := rfl
@[simp] theorem State.dropOp_sch_irqs (s : State) (n : Nat) : (s.dropOp n).sch.irqs = s.sch.irqs := rfl
@[simp] theorem State.dropOp_sch_heldCancels (s : State) (n : Nat) : (s.dropOp n).sch.heldCancels = s.sch.heldCancels := rfl
@[simp] theorem State.dropOp_sch_blocks (s : State) (n : Nat) : (s.dropOp n).sch.blocks = s.sch.blocks := rfl
@[simp] theorem State.dropOp_sch_offers (s : State) (n : Nat) : (s.dropOp n).sch.offers = s.sch.offers := rfl
@[simp] theorem State.dropOp_sch_away (s : State) (n : Nat) : (s.dropOp n).sch.away = s.sch.away := rfl
@[simp] theorem State.dropOp_sch_wants (s : State) (n : Nat) : (s.dropOp n).sch.wants = s.sch.wants := rfl
@[simp] theorem State.dropOp_sch_nextId (s : State) (n : Nat) : (s.dropOp n).sch.nextId = s.sch.nextId := rfl
@[simp] theorem State.dropOp_sch_keys (s : State) (n : Nat) : (s.dropOp n).sch.keys = s.sch.keys := rfl
@[simp] theorem State.dropOp_sch_preemptBusy (s : State) (n : Nat) : (s.dropOp n).sch.preemptBusy = s.sch.preemptBusy := rfl
@[simp] theorem State.dropOp_sch_tlbiBusy (s : State) (n : Nat) : (s.dropOp n).sch.tlbiBusy = s.sch.tlbiBusy := rfl

/-! Tables. -/

theorem tabGet_tabSet_self {α : Type} (d v : α) (k : Nat) (t : Tab α) : tabGet d (tabSet k v t) k = v := by
  induction t with
  | nil => simp [tabSet, tabGet]
  | cons c r ih =>
    simp only [tabSet]
    split
    · simp [tabGet]
    · split
      · simp [tabGet]
      · next h1 h2 => rw [tabGet, if_neg (fun h => h2 h.symm), ih]

theorem tabGet_tabSet_ne {α : Type} (d v : α) (k j : Nat) (t : Tab α) (h : j ≠ k) : tabGet d (tabSet k v t) j = tabGet d t j := by
  induction t with
  | nil => simp [tabSet, tabGet, h.symm]
  | cons c r ih =>
    simp only [tabSet]
    split
    · simp [tabGet, h.symm]
    · split
      · next h1 h2 => simp [tabGet, h.symm, show c.1 ≠ j from fun e => h (e.symm.trans h2.symm)]
      · simp [tabGet, ih]

theorem tabGet_tabDel_self {α : Type} (d : α) (k : Nat) (t : Tab α) : tabGet d (tabDel k t) k = d := by
  induction t with
  | nil => rfl
  | cons c r ih =>
    simp only [tabDel, List.filter_cons] at ih ⊢
    by_cases h : c.1 = k
    · simpa [h] using ih
    · simpa [h, tabGet] using ih

theorem tabGet_tabDel_ne {α : Type} (d : α) (k j : Nat) (t : Tab α) (h : j ≠ k) : tabGet d (tabDel k t) j = tabGet d t j := by
  induction t with
  | nil => rfl
  | cons c r ih =>
    simp only [tabDel, List.filter_cons] at ih ⊢
    by_cases e : c.1 = k
    · have : c.1 ≠ j := fun e' => h (e'.symm.trans e)
      simpa [e, tabGet, this, h.symm] using ih
    · by_cases e' : c.1 = j <;> simp [e, tabGet, e', h, ih]

@[simp] theorem State.core_setCore_self (s : State) (n : Nat) (c : CoreSt) : (s.setCore n c).core n = c := tabGet_tabSet_self ..
theorem State.core_setCore_ne (s : State) (n m : Nat) (c : CoreSt) (h : m ≠ n) : (s.setCore n c).core m = s.core m := tabGet_tabSet_ne (h := h) ..
@[simp] theorem State.clu_setClu_self (s : State) (n : Nat) (c : CluSt) : (s.setClu n c).clu n = c := tabGet_tabSet_self ..
theorem State.clu_setClu_ne (s : State) (n m : Nat) (c : CluSt) (h : m ≠ n) : (s.setClu n c).clu m = s.clu m := tabGet_tabSet_ne (h := h) ..
@[simp] theorem State.port_setPort_self (s : State) (n : Nat) (x : PortSt) : (s.setPort n x).port n = x := tabGet_tabSet_self ..
@[simp] theorem State.rope_setRope_self (s : State) (n : Nat) (x : RopeSt) : (s.setRope n x).rope n = x := tabGet_tabSet_self ..

/-- A memory-mapped register holds what was written. -/
@[simp] theorem State.reg0_setReg0_self (s : State) (off : Nat) (x : Word) : (s.setReg0 off x).reg0 off = x := by
  simp only [State.reg0, State.setReg0]
  split
  · next h => rw [tabGet_tabDel_self, h]
  · exact tabGet_tabSet_self ..
theorem State.reg0_setReg0_ne (s : State) (off o : Nat) (x : Word) (h : o ≠ off) : (s.setReg0 off x).reg0 o = s.reg0 o := by
  simp only [State.reg0, State.setReg0]
  split
  · exact tabGet_tabDel_ne (h := h) ..
  · exact tabGet_tabSet_ne (h := h) ..
@[simp] theorem State.reg2_setReg2_self (s : State) (off : Nat) (x : Word) : (s.setReg2 off x).reg2 off = x := by
  simp only [State.reg2, State.setReg2]
  split
  · next h => rw [tabGet_tabDel_self, h]
  · exact tabGet_tabSet_self ..
theorem State.reg2_setReg2_ne (s : State) (off o : Nat) (x : Word) (h : o ≠ off) : (s.setReg2 off x).reg2 o = s.reg2 o := by
  simp only [State.reg2, State.setReg2]
  split
  · exact tabGet_tabDel_ne (h := h) ..
  · exact tabGet_tabSet_ne (h := h) ..
@[simp] theorem State.reg0_setReg2 (s : State) (off o : Nat) (x : Word) : (s.setReg2 off x).reg0 o = s.reg0 o := rfl
@[simp] theorem State.reg2_setReg0 (s : State) (off o : Nat) (x : Word) : (s.setReg0 off x).reg2 o = s.reg2 o := rfl

/-! Getters of the focused thread after its setters. -/

@[simp] theorem State.getP_setS (s : State) (n : BitVec 5) (x : Word) (m : BitVec 3) : (s.setS n x).getP m = s.getP m := Regs.getP_setS ..
@[simp] theorem State.getV_setS (s : State) (n : BitVec 5) (x : Word) (m : BitVec 5) : (s.setS n x).getV m = s.getV m := Regs.getV_setS ..
@[simp] theorem State.getH_setS (s : State) (n : BitVec 5) (x : Word) (m : BitVec 4) : (s.setS n x).getH m = s.getH m := Regs.getH_setS ..
@[simp] theorem State.getS_setP (s : State) (n : BitVec 3) (x : Pred) (m : BitVec 5) : (s.setP n x).getS m = s.getS m := Regs.getS_setP ..
@[simp] theorem State.getV_setP (s : State) (n : BitVec 3) (x : Pred) (m : BitVec 5) : (s.setP n x).getV m = s.getV m := Regs.getV_setP ..
@[simp] theorem State.getH_setP (s : State) (n : BitVec 3) (x : Pred) (m : BitVec 4) : (s.setP n x).getH m = s.getH m := Regs.getH_setP ..
@[simp] theorem State.getS_setV (s : State) (n : BitVec 5) (x : Vec) (m : BitVec 5) : (s.setV n x).getS m = s.getS m := Regs.getS_setV ..
@[simp] theorem State.getP_setV (s : State) (n : BitVec 5) (x : Vec) (m : BitVec 3) : (s.setV n x).getP m = s.getP m := Regs.getP_setV ..
@[simp] theorem State.getH_setV (s : State) (n : BitVec 5) (x : Vec) (m : BitVec 4) : (s.setV n x).getH m = s.getH m := Regs.getH_setV ..
@[simp] theorem State.getS_setVL (s : State) (n : BitVec 5) (x : Vec) (m : BitVec 5) : (s.setVL n x).getS m = s.getS m := Regs.getS_setVL ..
@[simp] theorem State.getP_setVL (s : State) (n : BitVec 5) (x : Vec) (m : BitVec 3) : (s.setVL n x).getP m = s.getP m := Regs.getP_setVL ..
@[simp] theorem State.getH_setVL (s : State) (n : BitVec 5) (x : Vec) (m : BitVec 4) : (s.setVL n x).getH m = s.getH m := Regs.getH_setVL ..
@[simp] theorem State.getS_setH (s : State) (n : BitVec 4) (x : Handle) (m : BitVec 5) : (s.setH n x).getS m = s.getS m := Regs.getS_setH ..
@[simp] theorem State.getP_setH (s : State) (n : BitVec 4) (x : Handle) (m : BitVec 3) : (s.setH n x).getP m = s.getP m := Regs.getP_setH ..
@[simp] theorem State.getV_setH (s : State) (n : BitVec 4) (x : Handle) (m : BitVec 5) : (s.setH n x).getV m = s.getV m := Regs.getV_setH ..
theorem State.getS_setS (s : State) (n m : BitVec 5) (x : Word) : (s.setS n x).getS m = if m = n ∧ n ≠ 0 then x else s.getS m := Regs.getS_setS ..
theorem State.getP_setP (s : State) (n m : BitVec 3) (x : Pred) : (s.setP n x).getP m = if m = n ∧ n ≠ 0 then x else s.getP m := Regs.getP_setP ..
theorem State.getV_setV (s : State) (n m : BitVec 5) (x : Vec) : (s.setV n x).getV m = if m = n then x else s.getV m := Regs.getV_setV ..
theorem State.getV_setVL (s : State) (n m : BitVec 5) (x : Vec) : (s.setVL n x).getV m = if m = n ∨ m = 31 then x else s.getV m := Regs.getV_setVL ..
theorem State.getH_setH (s : State) (n m : BitVec 4) (x : Handle) : (s.setH n x).getH m = if m = n then x else s.getH m := Regs.getH_setH ..

end Sys2Proof.Machine
end

