-- ==== Sys2Proof/Laws/MemOk.lean ====
section
/-! SUPPORT. Every operation of memory and of a thread keeps the canonical form of memory: one lemma for each shared operation. -/
namespace Sys2Proof.Machine
open Sys2Proof

/-- The form depends on the memory alone. -/
theorem memOk_of_mem {s t : State} (h : s.MemOk) (e : t.mem = s.mem) : t.MemOk := by unfold State.MemOk at *; rw [e]; exact h
theorem memOk_of_cells {s t : State} (h : s.MemOk) (e : t.mem.cells = s.mem.cells) : t.MemOk := by
  unfold State.MemOk Mem.wf at *; rw [e]; exact h
theorem memOk_ite {c : Prop} [Decidable c] {s t : State} (hs : s.MemOk) (ht : t.MemOk) : (if c then s else t).MemOk := by split <;> assumption
/-- What every step of a fold keeps, the fold keeps. -/
theorem memOk_foldl {α : Type} (f : State → α → State) (hf : ∀ s a, s.MemOk → (f s a).MemOk) (l : List α) {s : State} (h : s.MemOk) :
    (l.foldl f s).MemOk := by
  induction l generalizing s with
  | nil => exact h
  | cons a r ih => exact ih (hf s a h)

@[simp] theorem State.setT_mem (s : State) (n : Nat) (t : Thread) : (s.setT n t).mem = s.mem := by unfold State.setT; split <;> rfl
@[simp] theorem State.modT_mem (s : State) (n : Nat) (f : Thread → Thread) : (s.modT n f).mem = s.mem := State.setT_mem ..
@[simp] theorem State.focus_mem (s : State) (n : Nat) : (s.focus n).mem = s.mem := by unfold State.focus; split <;> rfl

/-! The caches (R19, R112, R121, R126). -/

theorem sealSector_wf {m : Mem} (h : m.wf = true) (x : L3Line) (i : Nat) : (sealSector x m i).wf = true := by
  unfold sealSector; dsimp only; split
  · exact h
  · split
    · exact Mem.put_wf _ _ _ _ h
    · exact h
theorem memWf_foldl {α : Type} (f : Mem → α → Mem) (hf : ∀ m a, m.wf = true → (f m a).wf = true) (l : List α) {m : Mem} (h : m.wf = true) :
    (l.foldl f m).wf = true := by
  induction l generalizing m with
  | nil => exact h
  | cons a r ih => exact ih (hf m a h)
theorem l3Evict_wf {m : Mem} (h : m.wf = true) (x : L3Line) : (l3Evict m x).wf = true := by
  unfold l3Evict; dsimp only; split
  · exact memWf_foldl (sealSector x) (fun m a h => sealSector_wf h x a) _ h
  · exact h
theorem fillSector_wf (own : Nat) {p : Tab Nat × Mem} (h : p.2.wf = true) (k : Nat) : (fillSector own p k).2.wf = true := by
  unfold fillSector; dsimp only; split
  · exact h
  · exact Mem.put_wf _ _ _ _ h
/-- A change of memory alone. -/
theorem modM_memOk {s : State} {f : Mem → Mem} (h : (f s.mem).wf = true) : (s.modM f).MemOk := h
theorem choose_mem (s : State) (l : List Nat) : (choose s l).2.mem = s.mem := by unfold choose; split <;> rfl
theorem l3Room_memOk {s : State} (h : s.MemOk) (part line : Nat) : (l3Room s part line).MemOk := by
  unfold l3Room; split
  · exact h
  · dsimp only; split
    · exact h
    · split
      · exact l3Evict_wf (m := (choose s _).2.mem) (by rw [choose_mem]; exact h) _
      · exact h
theorem l3Line_memOk {s : State} (h : s.MemOk) (own line : Nat) : (l3Line s own line).MemOk := by
  unfold l3Line; split
  · exact h
  · exact memOk_of_cells (l3Room_memOk h (own / 64) line) rfl
theorem fillOne_wf (own line : Nat) (mask : BitVec 8) {m : Mem} (h : m.wf = true) (i : Nat) : (fillOne own line mask m i).wf = true := by
  unfold fillOne; split
  · exact h
  · split
    · exact h
    · dsimp only
      split
      · exact fillSector_wf own (p := ([], m)) h _
      · exact h
theorem l3Fill_memOk {s : State} (h : s.MemOk) (own line : Nat) (mask : BitVec 8) : (l3Fill s own line mask).MemOk := by
  unfold l3Fill
  have h1 := l3Line_memOk h own line
  generalize l3Line s own line = t at h1
  generalize List.range 8 = l
  exact modM_memOk (s := t) (memWf_foldl (fillOne own line mask) (fun m a h => fillOne_wf own line mask h a) l h1)
theorem l3Touch_memOk {s : State} (h : s.MemOk) (own a n : Nat) (w : Bool) : (l3Touch s own a n w).MemOk := by
  unfold l3Touch; split
  · exact h
  · refine memOk_foldl _ (fun t i ht => ?_) _ h
    have h1 := l3Fill_memOk ht own (a / 128 + i) (sectorMask (a / 128 + i) a n)
    dsimp only
    generalize l3Fill t own (a / 128 + i) (sectorMask (a / 128 + i) a n) = x at h1 ⊢
    split
    · exact memOk_of_cells h1 rfl
    · exact h1
theorem sectorBack_memOk {s : State} (h : s.MemOk) (x : Sector) : (sectorBack s x).MemOk := by
  unfold sectorBack; split
  · exact h
  · have h1 := l3Touch_memOk h x.own x.addr 16 true
    show (State.modM _ _).mem.wf = true
    dsimp only [State.modM]
    split
    · exact Mem.put_wf _ _ _ _ h1
    · exact Mem.put_wf _ _ _ _ h1
theorem sectorsBack_memOk (l : List Sector) {s : State} (h : s.MemOk) : (l.foldl sectorBack s).MemOk := memOk_foldl _ (fun _ x h => sectorBack_memOk h x) l h
theorem l2Evict_memOk {s : State} (h : s.MemOk) (die line : Nat) : (l2Evict s die line).MemOk := memOk_of_cells (sectorsBack_memOk _ h) rfl
theorem l2Room_memOk {s : State} (h : s.MemOk) (die part line : Nat) : (l2Room s die part line).MemOk := by
  unfold l2Room; split
  · exact h
  · dsimp only; split
    · exact h
    · exact l2Evict_memOk (memOk_of_mem h (choose_mem ..)) ..
theorem l2Fill_memOk {s : State} (h : s.MemOk) (die own a : Nat) : (l2Fill s die own a).2.MemOk := by
  unfold l2Fill; split
  · exact h
  · exact memOk_of_cells (l3Touch_memOk (l2Room_memOk h die (own / 64) (a / 128)) own a 16 false) rfl
theorem l2ReadGo_memOk (die own n : Nat) {s : State} (h : s.MemOk) (a len : Nat) : (l2ReadGo die own n s a len).2.MemOk := by
  induction n generalizing s a len with
  | zero => exact h
  | succ n ih =>
    unfold l2ReadGo
    split
    · exact h
    · exact ih (l2Fill_memOk h ..) ..
theorem l2Read_memOk {s : State} (h : s.MemOk) (die own a len : Nat) : (l2Read s die own a len).2.MemOk := l2ReadGo_memOk _ _ _ h _ _
theorem l1Room_memOk {s : State} (h : s.MemOk) (core line : Nat) : (l1Room s core line).MemOk := by
  unfold l1Room; split
  · exact h
  · dsimp only; split
    · exact h
    · exact memOk_of_cells (memOk_of_mem h (choose_mem ..)) rfl
theorem l1Fill_memOk {s : State} (h : s.MemOk) (core own a : Nat) : (l1Fill s core own a).2.MemOk := by
  unfold l1Fill; split
  · exact h
  · have h1 := l2Fill_memOk h (core / 128) own a
    dsimp only; split
    · exact h1
    · exact memOk_of_cells (l1Room_memOk h1 core (a / 128)) rfl
theorem l1ReadGo_memOk (core own n : Nat) {s : State} (h : s.MemOk) (a len : Nat) : (l1ReadGo core own n s a len).2.MemOk := by
  induction n generalizing s a len with
  | zero => exact h
  | succ n ih =>
    unfold l1ReadGo
    split
    · exact h
    · exact ih (l1Fill_memOk h ..) ..
theorem l1Read_memOk {s : State} (h : s.MemOk) (core own a len : Nat) : (l1Read s core own a len).2.MemOk := l1ReadGo_memOk _ _ _ h _ _
theorem l1Drop_memOk {s : State} (h : s.MemOk) (die ma n : Nat) (k : Option Nat) : (l1Drop s die ma n k).MemOk := memOk_of_cells h rfl
theorem l2WriteGo_memOk (die own n : Nat) {s : State} (h : s.MemOk) (a len v : Nat) : (l2WriteGo die own n s a len v).MemOk := by
  induction n generalizing s a len v with
  | zero => exact h
  | succ n ih =>
    unfold l2WriteGo
    split
    · exact h
    · exact ih (s := State.modM (l2Fill s die own (a / 16 * 16)).2 _) (memOk_of_cells (l2Fill_memOk h die own (a / 16 * 16)) rfl) _ _ _
theorem l2Write_memOk {s : State} (h : s.MemOk) (die own : Nat) (core : Option Nat) (a len v : Nat) : (l2Write s die own core a len v).MemOk :=
  l1Drop_memOk (l2WriteGo_memOk _ _ _ h _ _ _) ..
theorem writeBackIf_memOk (p : Sector → Bool) {s : State} (h : s.MemOk) (die : Nat) : (writeBackIf p s die).MemOk :=
  memOk_of_cells (sectorsBack_memOk _ h) rfl
theorem writeBackDie_memOk {s : State} (h : s.MemOk) (die : Nat) : (writeBackDie s die).MemOk := writeBackIf_memOk _ h _
theorem invalidateDie_memOk {s : State} (h : s.MemOk) (die : Nat) : (invalidateDie s die).MemOk := memOk_of_cells h rfl
theorem flushSpan_memOk {s : State} (h : s.MemOk) (die ma n : Nat) : (flushSpan s die ma n).MemOk :=
  memOk_of_cells (l1Drop_memOk (writeBackIf_memOk (fun x => inSpan ma n x.addr) h die) die ma n none) rfl

/-! Translation and places. -/

theorem walkTouch_memOk {s : State} (h : s.MemOk) (part va : Nat) : (walkTouch s part va).MemOk :=
  memOk_foldl _ (fun _ _ h => l3Touch_memOk h ..) _ h
theorem tlbEnter_memOk {s : State} (h : s.MemOk) (c p va : Nat) (l : Word) (b : Nat) : (tlbEnter s c p va l b).MemOk := by
  unfold tlbEnter; dsimp only; split
  · exact h
  · exact memOk_of_cells (walkTouch_memOk h p va) rfl
theorem translate_memOk {s : State} (h : s.MemOk) {clu part va : Nat} {need : Need} {r : State × Nat × Word}
    (e : translate s clu part va need = .ok r) : r.1.MemOk := by
  unfold translate at e
  split at e
  · cases e
  · dsimp only at e
    split at e
    · cases e
    · split at e
      · cases e
      · cases e; exact tlbEnter_memOk h ..
theorem touchTgt_memOk {s : State} (h : s.MemOk) (t : Tgt) : (touchTgt s t).MemOk := by
  unfold touchTgt; split
  · exact memOk_ite (memOk_of_mem h rfl) h
  · exact h
theorem place_memOk {s : State} (h : s.MemOk) {a len al : Nat} {need : Need} {r : State × Tgt} (e : place s a len al need = .ok r) : r.1.MemOk := by
  unfold place at e
  cases h1 : require (a / 2 ^ 56 == 0 || a / 2 ^ 56 == 0xFF) 0x20 a with
  | error x => rw [h1] at e; cases e
  | ok u =>
    rw [h1] at e
    simp only [bind, Except.bind] at e
    split at e
    · cases h2 : nearTgt s a len with
      | error x => rw [h2] at e; cases e
      | ok t =>
        rw [h2] at e; dsimp only at e
        cases h3 : winCheck s (addrWin a) with
        | error x => rw [h3] at e; cases e
        | ok u =>
          rw [h3] at e; dsimp only at e
          split at e
          · cases e
          · cases e; exact h
    · split at e
      · cases e
      · cases h2 : translate s (thClu s.cur) s.part a need with
        | error x => rw [h2] at e; cases e
        | ok t =>
          rw [h2] at e
          obtain ⟨s', fa, leaf⟩ := t
          dsimp only at e
          split at e
          · cases e
          · split at e
            · cases e
            · cases e; exact touchTgt_memOk (translate_memOk h h2) _
theorem resolve_memOk {s : State} (h : s.MemOk) {a len al : Nat} {need : Need} {r : State × Tgt} (e : resolve s a len al need = .ok r) : r.1.MemOk := by
  unfold resolve at e
  cases h1 : place s a len al need with
  | error x => rw [h1] at e; cases e
  | ok t =>
    rw [h1] at e
    simp only [bind, Except.bind] at e
    split at e
    · cases e
    · cases e; exact place_memOk h h1
theorem resolveAll_memOk {al : Nat} {need : Need} (l : List (Nat × Nat × Nat)) {s : State} (h : s.MemOk) {r : State × List Seg}
    (e : resolveAll s al need l = .ok r) : r.1.MemOk := by
  induction l generalizing s r with
  | nil => cases e; exact h
  | cons x l ih =>
    obtain ⟨a, n, p⟩ := x
    unfold resolveAll at e
    split at e
    · cases e
    · rename_i s1 t h1
      split at e
      · cases e
      · rename_i s2 l2 h2
        cases e
        exact ih (r := (s2, l2)) (resolve_memOk h h1) h2

/-! Stores. -/

theorem setTail_mem (s : State) (p q : Nat) (rx : Bool) (v : Nat) : (setTail s p q rx v).mem = s.mem := rfl
theorem putStore_memOk {s : State} (h : s.MemOk) (x : Store) : (putStore s x).MemOk := by
  unfold putStore; split
  · exact h
  · dsimp only [State.modM, State.MemOk]
    split
    · exact Mem.put_wf _ _ _ _ h
    · exact Mem.put_wf _ _ _ _ h
theorem send_mem (s : State) (p n : Nat) : (s.send p n).mem = s.mem :=
  (State.setPort_mem ..).trans (State.setReg2_mem ..)
theorem spend_mem (s : State) (dev n : Nat) : (s.spend dev n).mem = s.mem := by
  unfold State.spend
  generalize s.portOf dev n = o
  split
  · rfl
  · split
    · exact send_mem ..
    · rfl
theorem owe_mem (s : State) (dev n : Nat) : (s.owe dev n).mem = s.mem := by
  unfold State.owe
  generalize s.portOf dev n = o
  split
  · rfl
  · split
    · exact send_mem ..
    · exact State.setPort_mem ..
    · rfl
theorem post_mem (s : State) (x : Store) : (post s x).mem = s.mem := rfl
theorem sendStores_memOk {s : State} (h : s.MemOk) (dev : Nat) (xs : List Store) : (sendStores s dev xs).MemOk := by
  unfold sendStores; dsimp only; split
  · exact h
  · exact memOk_foldl post (fun s x h => memOk_of_mem h (post_mem s x)) _ (memOk_of_mem h (send_mem ..))
  · split
    · exact h
    · exact memOk_foldl (fun y (x : Store) => y.after Config.fabricTime (.homeErrorReport x.rcd 0x73 ⟨BitVec.ofNat 64 dev, x.issued⟩))
        (fun _ _ h => memOk_of_mem h rfl) _ h
theorem perform_memOk {s : State} (h : s.MemOk) (x : Store) : (perform s x).MemOk := by
  unfold perform
  split
  · exact putStore_memOk h x
  · exact l2Write_memOk h ..
  · exact putStore_memOk (l3Touch_memOk h ..) x
  · exact h
  · exact h
  · exact sendStores_memOk h ..
theorem performAll_memOk (l : List Store) {s : State} (h : s.MemOk) : (performAll s l).MemOk := by
  unfold performAll; split
  · exact h
  · split
    · exact sendStores_memOk h ..
    · exact memOk_foldl _ (fun _ x h => perform_memOk h x) _ h
theorem drainOne_memOk {s : State} (h : s.MemOk) (core : Nat) : (drainOne s core).MemOk := by
  unfold drainOne; split
  · exact h
  · exact performAll_memOk _ (s := s.setCore core _) h
theorem drainN_memOk (n : Nat) {s : State} (h : s.MemOk) (core : Nat) : (drainN n s core).MemOk := by
  induction n generalizing s with
  | zero => exact h
  | succ n ih => exact ih (drainOne_memOk h core)
theorem drainAll_memOk {s : State} (h : s.MemOk) (core : Nat) : (drainAll s core).MemOk := drainN_memOk _ h _
theorem landPosted_memOk (p : Nat × Store → Bool) {s : State} (h : s.MemOk) (core : Nat) : (landPosted p s core).MemOk :=
  memOk_foldl putStore (fun _ x h => putStore_memOk h x) _ (s := s.setCore core _) h
theorem settle_memOk {s : State} (h : s.MemOk) (th : Nat) (r : Route) : (settle s th r).MemOk := landPosted_memOk _ (drainAll_memOk h _) _
theorem pushEntry_memOk {s : State} (h : s.MemOk) (th : Nat) (xs : List Store) : (pushEntry s th xs).MemOk :=
  memOk_of_mem (memOk_ite (c := bufEntries (s.core (thCore th)).buf < 32) h (drainOne_memOk h (thCore th))) rfl
theorem pushStore_memOk {s : State} (h : s.MemOk) (x : Store) : (pushStore s x).MemOk := pushEntry_memOk h ..
theorem readPlace_memOk {s : State} (h : s.MemOk) (die : Nat) (r : Route) (k n : Nat) : (readPlace s die r k n).2.MemOk := by
  unfold readPlace; split
  · exact l2Read_memOk h ..
  · exact l3Touch_memOk h ..
  · exact h
theorem readCore_memOk {s : State} (h : s.MemOk) (core : Nat) (r : Route) (k n : Nat) : (readCore s core r k n).2.MemOk := by
  unfold readCore; split
  · exact l1Read_memOk h ..
  · exact readPlace_memOk h ..
theorem loadPlace_memOk {s : State} (h : s.MemOk) (r : Route) (k n : Nat) : (loadPlace s r k n).2.MemOk := by
  unfold loadPlace; split
  · exact readCore_memOk h ..
  · split
    · exact h
    · exact readCore_memOk (drainAll_memOk h _) ..
theorem release_memOk {s : State} (h : s.MemOk) (th : Nat) (sc : Scope) : (release s th sc).MemOk := by
  unfold release; dsimp only; split
  · exact writeBackDie_memOk (drainAll_memOk h _) _
  · exact drainAll_memOk h _
theorem acquire_memOk {s : State} (h : s.MemOk) (th : Nat) (sc : Scope) : (acquire s th sc).MemOk := by
  unfold acquire; split
  · exact invalidateDie_memOk h _
  · exact h

/-! Accesses of the module to virtual memory. -/

theorem vmPlace_memOk {s : State} (h : s.MemOk) {clu part va n : Nat} {need : Need} {r : State × Nat}
    (e : vmPlace s clu part va n need = .ok r) : r.1.MemOk := by
  unfold vmPlace at e
  simp only [bind, Except.bind] at e
  split at e
  · cases e
  · split at e
    · cases e
    · split at e
      · cases e
      · split at e
        · cases e
        · split at e
          · cases e
          · split at e
            · cases e
            · cases e
              exact memOk_ite (l3Touch_memOk (flushSpan_memOk h ..) ..) h
theorem vmReadGo_memOk {clu part : Nat} (l : List (Nat × Nat)) {s : State} (h : s.MemOk) {r : Nat × State}
    (e : vmReadGo clu part l s = .ok r) : r.2.MemOk := by
  induction l generalizing s r with
  | nil => cases e; exact h
  | cons x l ih =>
    obtain ⟨a, n⟩ := x
    unfold vmReadGo at e
    simp only [bind, Except.bind] at e
    split at e
    · cases e
    · rename_i h1
      split at e
      · cases e
      · rename_i x h2
        cases e
        exact ih (r := (x.1, x.2)) (vmPlace_memOk h h1) h2
theorem vmRead_memOk {s : State} (h : s.MemOk) {clu part va n : Nat} {r : Nat × State} (e : vmRead s clu part va n = .ok r) : r.2.MemOk :=
  vmReadGo_memOk _ h e
theorem vmWriteGo_memOk {clu part : Nat} (l : List (Nat × Nat)) {s t : State} (h : s.MemOk) {v : Nat} (e : vmWriteGo clu part l s v = .ok t) : t.MemOk := by
  induction l generalizing s v with
  | nil => cases e; exact h
  | cons x l ih =>
    obtain ⟨a, n⟩ := x
    unfold vmWriteGo at e
    simp only [bind, Except.bind] at e
    split at e
    · cases e
    · rename_i x h1
      exact ih (s := x.1.modM (·.put x.2 n (v % 256 ^ n))) (Mem.put_wf _ _ _ _ (vmPlace_memOk h h1)) e
theorem vmWrite_memOk {s t : State} (h : s.MemOk) {clu part va n v : Nat} (e : vmWrite s clu part va n v = .ok t) : t.MemOk :=
  vmWriteGo_memOk _ h e

/-! Frames, conditions, parking. -/

theorem spoil_wf {m : Mem} (h : m.wf = true) (k det : Nat) : (m.spoil k det).wf = true := h
theorem spoilFrame_memOk {clu part frame : Nat} (l : List (Nat × Nat)) {s t : State} (h : s.MemOk) (e : spoilFrame clu part frame l s = .ok t) :
    t.MemOk := by
  induction l generalizing s with
  | nil => cases e; exact h
  | cons x l ih =>
    obtain ⟨o, d⟩ := x
    unfold spoilFrame at e
    simp only [bind, Except.bind] at e
    split at e
    · cases e
    · rename_i x h1
      exact ih (s := x.1.modM (fun m => m.spoil x.2 d)) (spoil_wf (vmPlace_memOk h h1) ..) e
theorem writeFull_memOk {s t : State} (h : s.MemOk) {n : Nat} {pc : Word} (e : writeFull s n pc = .ok t) : t.MemOk := by
  unfold writeFull at e
  dsimp only at e
  split at e
  · cases e; exact memOk_of_mem h (State.setT_mem ..)
  · simp only [bind, Except.bind] at e
    split at e
    · cases e
    · rename_i h1
      split at e
      · cases e
      · rename_i h2
        cases e
        exact memOk_of_mem (spoilFrame_memOk _ (vmWrite_memOk h h1) h2) (State.setT_mem ..)
theorem bindRest_memOk {s : State} (h : s.MemOk) (n : Nat) : (bindRest s n).MemOk := by
  unfold bindRest; dsimp only; split
  · exact h
  · exact memOk_of_mem h (State.setT_mem ..)
theorem withdrawOf_memOk {s : State} (h : s.MemOk) (n : Nat) : (withdrawOf s n).MemOk := by
  unfold withdrawOf; dsimp only; split
  · exact memOk_of_mem h rfl
  · exact h
theorem postPark_memOk {s : State} (h : s.MemOk) (core : Nat) : (postPark s core).MemOk := by
  unfold postPark; dsimp only; split
  · split
    · exact h
    · exact memOk_of_mem h rfl
  · exact h
theorem bindOther_memOk {s : State} (h : s.MemOk) (n : Nat) : (bindOther s n).MemOk := by
  unfold bindOther; dsimp only; split
  · exact h
  · split
    · rename_i h1
      exact postPark_memOk (bindRest_memOk (writeFull_memOk (withdrawOf_memOk h n) h1) n) _
    · exact h
    · exact postPark_memOk (bindRest_memOk (withdrawOf_memOk h n) n) _
theorem block_memOk {s : State} (h : s.MemOk) (w : Why) : (block s w).MemOk := memOk_of_mem h rfl
theorem oweCond_memOk {s : State} (h : s.MemOk) (c : Cond) (pc : Word) : (oweCond s c pc).MemOk := memOk_of_mem h rfl
theorem stopParked_memOk {s : State} (h : s.MemOk) (c : Cond) (pc : Word) : (stopParked s c pc).MemOk :=
  memOk_of_mem (bindOther_memOk (s := { oweCond s c pc with thr := { (oweCond s c pc).thr with pc := pc, npc := pc } }) h s.cur) rfl
theorem startPark_memOk {s : State} (h : s.MemOk) (c : Cond) (pc : Word) (b f : Bool) : (startPark s c pc b f).MemOk := by
  unfold startPark
  dsimp only
  refine memOk_of_mem (postPark_memOk (s := State.setCore _ _ _) (memOk_foldl (fun x i => bindOther x (thCore s.cur * 4 + i))
    (fun s a h => bindOther_memOk h _) _ (bindRest_memOk ?_ _)) _) rfl
  split
  · split
    · rename_i h1; exact writeFull_memOk h h1
    · exact h
  · exact h
theorem parkCore_memOk {s : State} (h : s.MemOk) (c : Cond) (pc : Word) (b f : Bool) : (parkCore s c pc b f).MemOk := by
  unfold parkCore; split
  · exact stopParked_memOk h ..
  · split
    · exact block_memOk (memOk_ite h (oweCond_memOk h ..)) _
    · exact startPark_memOk h ..
theorem takeCondition_memOk {s : State} (h : s.MemOk) (c : Cond) (pc : Word) : (takeCondition s c pc).MemOk := by
  unfold takeCondition
  dsimp only
  split
  · exact parkCore_memOk h ..
  · split
    · exact parkCore_memOk h ..
    · split
      · exact stopParked_memOk h ..
      · split
        · exact parkCore_memOk h ..
        · exact block_memOk (oweCond_memOk h ..) _
        · rename_i h1
          exact memOk_of_mem (writeFull_memOk h h1) rfl
theorem handleAcquire_memOk {s : State} (h : s.MemOk) (x : Handle) : (handleAcquire s x).MemOk := by
  unfold handleAcquire; split
  · exact acquire_memOk h ..
  · exact h
theorem freeHandle_memOk {s : State} (h : s.MemOk) (o : Option (BitVec 4)) : (freeHandle s o).MemOk := by
  cases o with
  | none => exact h
  | some n => exact memOk_of_mem (handleAcquire_memOk h _) rfl
/-- What an instruction's effect keeps, its outcome keeps. -/
theorem finish_memOk {s t : State} {r : Chk State} (h : s.MemOk) (hr : ∀ u, r = .ok u → u.MemOk) (e : finish s r = .next t) : t.MemOk := by
  unfold finish at e
  split at e
  · cases e; exact hr _ rfl
  · cases e; exact takeCondition_memOk (freeHandle_memOk h _) ..
  · cases e; exact memOk_of_mem h rfl
theorem suspend_memOk {s t : State} {r : Chk State} (h : s.MemOk) (hr : ∀ u, r = .ok u → u.MemOk) (e : suspend s r = .next t) : t.MemOk := by
  unfold suspend at e
  split at e
  · cases e; exact hr _ rfl
  · cases e; exact parkCore_memOk h ..
  · cases e; exact memOk_of_mem h rfl
theorem readBase_memOk {s : State} (h : s.MemOk) {r : Rec} {pc : Word} {p : Rec × State} (e : readBase s r pc = .ok p) : p.2.MemOk := by
  unfold readBase at e
  split at e
  · cases e; exact h
  · split at e
    · rename_i h1; cases e; exact invalidateDie_memOk (vmRead_memOk h h1) _
    · cases e
    · cases e; exact h
theorem rereadBase_memOk {s t : State} (h : s.MemOk) {a : Word} (e : rereadBase s a = .ok t) : t.MemOk := by
  unfold rereadBase at e
  split at e
  · cases e; exact h
  · split at e
    · cases e; exact h
    · rename_i r _ _
      cases hr : readBase s r a with
      | error x => rw [hr] at e; cases e
      | ok p => rw [hr] at e; cases e; exact memOk_of_mem (readBase_memOk h hr) rfl
theorem handlerReturn_memOk {s t : State} (h : s.MemOk) {a : Word} (e : handlerReturn s a = .ok t) : t.MemOk := by
  unfold handlerReturn at e
  simp only [bind, Except.bind] at e
  split at e
  · cases e
  · split at e
    · cases e
    · split at e
      · split at e
        · cases e
        · rename_i h1
          split at e
          · cases e
          · rename_i h2
            cases e
            exact memOk_of_mem (rereadBase_memOk (vmRead_memOk h h1) h2) rfl
      · dsimp only [pure, Except.pure] at e
        split at e
        · cases e
        · rename_i h2
          cases e
          exact memOk_of_mem (rereadBase_memOk h h2) rfl
theorem useHandle_memOk {s t : State} (h : s.MemOk) {n : BitVec 4} (e : useHandle s n = .ok t) : t.MemOk := by
  unfold useHandle at e
  split at e
  · cases e; exact h
  · cases e
  · cases e
  · cases e
  · cases e
    split
    · exact acquire_memOk h ..
    · exact h

/-! Search and write-back. -/

theorem writeHeader_memOk {s : State} (h : s.MemOk) : (writeHeader s).MemOk := by
  unfold writeHeader; split
  · exact h
  · exact Mem.put_wf _ _ _ _ h
theorem setSearch_memOk {s : State} (h : s.MemOk) (q : Search) : (setSearch s q).MemOk := writeHeader_memOk (memOk_of_mem h rfl)
theorem freshSearch_memOk {s : State} (h : s.MemOk) : (freshSearch s).MemOk := setSearch_memOk h _
theorem trailEntry_memOk {s : State} (h : s.MemOk) (u : Nat × Nat) : (trailEntry s u).MemOk := Mem.put_wf _ _ _ _ h
theorem trailAll_memOk {s : State} (h : s.MemOk) (us : List (Nat × Nat)) : (trailAll s us).MemOk := by
  unfold trailAll; split
  · exact h
  · exact writeHeader_memOk (memOk_foldl _ (fun s a h => trailEntry_memOk h a) _ (drainAll_memOk h _))
theorem writePieces_memOk {clu part frame : Nat} (l : List (Nat × Nat × Nat)) {s t : State} (h : s.MemOk) (e : writePieces clu part frame l s = .ok t) :
    t.MemOk := by
  induction l generalizing s with
  | nil => cases e; exact h
  | cons x l ih =>
    obtain ⟨o, n, v⟩ := x
    unfold writePieces at e
    simp only [bind, Except.bind] at e
    split at e
    · cases e
    · rename_i h1; exact ih (vmWrite_memOk h h1) e
theorem retryGangs_memOk {s : State} (h : s.MemOk) : (retryGangs s).MemOk := memOk_foldl (fun x (l : Launch) => x.after Config.grantTime (.gangPlace l.num)) (fun _ _ h => memOk_of_mem h rfl) _ h
theorem opens_memOk {s : State} (k : Nat) (f : State → State) (h : (f s).MemOk) : (opens s k f).MemOk := by
  unfold opens; dsimp only; split
  · exact h
  · exact memOk_of_mem h rfl
theorem retryMsgs_memOk {s : State} (h : s.MemOk) (n : Nat) : (retryMsgs s n).MemOk :=
  memOk_foldl (fun x (o : Op) => x.after 0 (.msgDeliver ⟨o.id, .ok⟩)) (fun _ _ h => memOk_of_mem h rfl) _ h
theorem freeThread_memOk {s : State} (h : s.MemOk) (n : Nat) : (freeThread s n).MemOk := by
  unfold freeThread
  dsimp only
  have h1 : (opens s (thClu n) (fun x => x.setT n (s.getT n).freed)).MemOk := opens_memOk _ _ (memOk_of_mem h (State.setT_mem ..))
  have h2 := retryMsgs_memOk (postPark_memOk h1 (thCore n)) n
  exact retryGangs_memOk (memOk_of_mem h2 (by simp only [State.after_mem]))
theorem wakeRecord_mem (s : State) (r : Rec) : (wakeRecord s r).2.mem = s.mem := by
  unfold wakeRecord; split
  · split
    · rfl
    · unfold enqueue; dsimp only; split <;> rfl
  · rfl
theorem putTokens_memOk {s : State} (h : s.MemOk) (r : Rec) (op : Nat) : (putTokens s r op).MemOk := by
  unfold putTokens
  refine memOk_foldl _ (fun t i ht => ?_) _ h
  split
  · rename_i h1; exact memOk_of_mem (vmWrite_memOk ht h1) rfl
  · exact ht
theorem completeHandle_memOk {s : State} (h : s.MemOk) (op rcd : Nat) (x : Handle) : (completeHandle s op rcd x).MemOk := by
  unfold completeHandle; split
  · exact memOk_of_mem h (State.modT_mem ..)
  · split
    · exact h
    · exact memOk_of_mem (putTokens_memOk h _ _) (wakeRecord_mem ..)
theorem liveMap_memOk {s : State} (h : s.MemOk) {idx : Nat} {r : Nat × State} (e : liveMap s idx = .ok r) : r.2.MemOk := by
  unfold liveMap at e
  split at e
  · cases e
  · simp only [bind, Except.bind] at e
    split at e
    · cases e
    · split at e
      · cases e
      · rename_i h1
        split at e
        · cases e
        · cases e; exact vmRead_memOk h h1
theorem writeBack_memOk {s t : State} (h : s.MemOk) {map idx : Nat} {pc : Word} {waits : BitVec 16} (e : writeBack s map idx pc waits = .ok t) : t.MemOk := by
  unfold writeBack at e
  dsimp only at e
  split at e
  · cases e; exact freeThread_memOk (s := { s with thr := landAll s.thr }) h _
  · simp only [bind, Except.bind] at e
    split at e
    · cases e
    split at e
    · cases e
    · rename_i h1
      have h2 := writePieces_memOk _ (release_memOk (s := { s with thr := landAll s.thr }) (memOk_of_mem h rfl) s.cur .mod) h1
      split at e
      · cases e
      · rename_i s3 h3
        have h4 : s3.MemOk := by
          split at h3
          · cases h3; exact h2
          · exact vmWrite_memOk h2 h3
        cases e
        refine freeThread_memOk (memOk_of_mem (s := s3) h4 ?_) _
        simp only [State.modSch_mem, wakeRecord_mem]

end Sys2Proof.Machine
end

