-- ==== Sys2Proof/Laws/Operands.lean ====
section
/-! SUPPORT. The operand readings as bit vectors: the typed integer of an operand, the extension of a result, the elements
of a vector that is built element by element. -/
namespace Sys2Proof.Machine
open Sys2Proof

theorem bits_pos (t : ITy) : 0 < t.bits := by cases t <;> decide
theorem bits_le (t : ITy) : t.bits ≤ 64 := by cases t <;> decide

/-- The low n bits in two's complement are the bit vector's integer. -/
theorem sval_toNat {n : Nat} (hn : 0 < n) (x : BitVec n) : sval n x.toNat = x.toInt := by
  have h1 : lo n x.toNat = x.toNat := Nat.mod_eq_of_lt x.isLt
  have h2 : 2 ^ n = 2 * 2 ^ (n - 1) := by
    obtain ⟨m, rfl⟩ := Nat.exists_eq_succ_of_ne_zero (Nat.ne_of_gt hn)
    simp [Nat.pow_succ, Nat.mul_comm]
  simp only [sval, h1, BitVec.toInt_eq_toNat_cond]
  by_cases h : x.toNat < 2 ^ (n - 1)
  · rw [if_pos h, if_pos (by omega)]
  · rw [if_neg h, if_neg (by omega)]; push_cast; rfl

theorem lo_narrow (t : ITy) (x : Word) : lo t.bits x.toNat = (narrow t x).toNat := by simp [lo, narrow]

theorem sval_lo (n x : Nat) : sval n (lo n x) = sval n x := by simp [sval, lo]

/-- `Val` of an operand. -/
theorem tval_eq (t : ITy) (x : Word) : tval t x.toNat = intOf t.signed (narrow t x) := by
  simp only [tval, intOf]
  split
  · rw [← sval_toNat (bits_pos t), ← lo_narrow, sval_lo]
  · rw [lo_narrow]

theorem tval_toNat (t : ITy) (x : BitVec t.bits) : tval t x.toNat = intOf t.signed x := by
  simp only [tval, intOf]
  split
  · exact sval_toNat (bits_pos t) x
  · rw [lo, Nat.mod_eq_of_lt x.isLt]

theorem wrapN_eq (n : Nat) (x : Int) : wrapN n x = (BitVec.ofInt n x).toNat := by
  simp [wrapN, BitVec.toNat_ofInt]

theorem ofNat_wrapN (n : Nat) (x : Int) : BitVec.ofNat n (wrapN n x) = BitVec.ofInt n x := by
  rw [wrapN_eq, BitVec.ofNat_toNat, BitVec.setWidth_eq]

/-- `Ext` of an exact result. -/
theorem text_eq (t : ITy) (x : Int) : text t x = widenT t (BitVec.ofInt t.bits x) := by
  rw [text, wrapN_eq, tval_toNat]
  simp only [widenT, intOf]
  split
  · rfl
  · apply BitVec.eq_of_toNat_eq
    rw [BitVec.ofInt_natCast]; simp

theorem ofInt_intOf (sg : Bool) {n : Nat} (x : BitVec n) : BitVec.ofInt n (intOf sg x) = x := by
  cases sg <;> simp [intOf]

/-- A sum, a difference and a product of typed integers wrap to those of the bit vectors. -/
theorem ofInt_intOf_add (sg : Bool) {n : Nat} (x y : BitVec n) : BitVec.ofInt n (intOf sg x + intOf sg y) = x + y := by
  rw [BitVec.ofInt_add, ofInt_intOf, ofInt_intOf]
theorem ofInt_intOf_mul (sg : Bool) {n : Nat} (x y : BitVec n) : BitVec.ofInt n (intOf sg x * intOf sg y) = x * y := by
  rw [BitVec.ofInt_mul, ofInt_intOf, ofInt_intOf]
theorem ofInt_intOf_sub (sg : Bool) {n : Nat} (x y : BitVec n) : BitVec.ofInt n (intOf sg x - intOf sg y) = x - y := by
  rw [Int.sub_eq_add_neg, BitVec.ofInt_add, BitVec.ofInt_neg, ofInt_intOf, ofInt_intOf, BitVec.sub_eq_add_neg]

theorem ofInt_toNat (t : ITy) (x : Word) : BitVec.ofInt t.bits (x.toNat : Int) = narrow t x := by
  apply BitVec.eq_of_toNat_eq; simp [narrow]

/-- The order of the typed integers. -/
theorem ltT_iff (t : ITy) {n : Nat} (x y : BitVec n) : ltT t x y = decide (intOf t.signed x < intOf t.signed y) := by
  cases h : t.signed <;> simp [ltT, intOf, h, BitVec.ult, BitVec.slt]

/-! Vectors and predicates built element by element. -/

theorem packN_lt (w : Nat) (f : Nat → Nat) (n : Nat) : packN w f n < 2 ^ (w * n) := by
  induction n with
  | zero => simp [packN]
  | succ n ih =>
    have h : f n % 2 ^ w < 2 ^ w := Nat.mod_lt _ (Nat.two_pow_pos w)
    have e : 2 ^ (w * (n + 1)) = 2 ^ w * 2 ^ (w * n) := by rw [Nat.mul_succ, Nat.pow_add, Nat.mul_comm]
    simp only [packN]
    have : (f n % 2 ^ w + 1) * 2 ^ (w * n) ≤ 2 ^ w * 2 ^ (w * n) := Nat.mul_le_mul_right _ h
    rw [e]; nlinarith

theorem elN_packN (w : Nat) (f : Nat → Nat) (n i : Nat) (hi : i < n) : elN w (packN w f n) i = f i % 2 ^ w := by
  induction n with
  | zero => omega
  | succ n ih =>
    simp only [packN, elN] at ih ⊢
    by_cases e : i = n
    · subst e
      rw [Nat.add_mul_div_right _ _ (Nat.two_pow_pos _), Nat.div_eq_of_lt (packN_lt ..), Nat.zero_add, Nat.mod_mod]
    · have h1 : i < n := by omega
      obtain ⟨k, rfl⟩ : ∃ k, n = i + 1 + k := ⟨n - (i + 1), by omega⟩
      have h2 : f (i + 1 + k) % 2 ^ w * 2 ^ (w * (i + 1 + k)) = f (i + 1 + k) % 2 ^ w * 2 ^ (w * k) * 2 ^ w * 2 ^ (w * i) := by
        rw [show w * (i + 1 + k) = w * k + w + w * i by ring, Nat.pow_add, Nat.pow_add]; ring
      rw [h2, Nat.add_mul_div_right _ _ (Nat.two_pow_pos _), Nat.add_mul_mod_self_right, ih h1]

theorem el_toNat (w : Nat) (x : Vec) (i : Nat) : (el w x i).toNat = vel w x i := by
  simp [el, vel, elN, BitVec.extractLsb'_toNat, Nat.shiftRight_eq_div_pow]

theorem packN_vec_lt (w : Nat) (f : Nat → Nat) : packN w f (vcount w) < 2 ^ 2048 :=
  Nat.lt_of_lt_of_le (packN_lt ..) (Nat.pow_le_pow_right (by decide) (by rw [vcount, Nat.mul_comm]; exact Nat.div_mul_le_self _ _))

/-- Element i of a vector that is built element by element. -/
theorem vel_packN (w : Nat) (f : Nat → Nat) (i : Nat) (hi : i < vcount w) : vel w (BitVec.ofNat 2048 (packN w f (vcount w))) i = f i % 2 ^ w := by
  rw [vel, BitVec.toNat_ofNat, Nat.mod_eq_of_lt (packN_vec_lt w f), elN_packN _ _ _ _ hi]

theorem vel_lt (w : Nat) (x : Vec) (i : Nat) : vel w x i < 2 ^ w := Nat.mod_lt _ (Nat.two_pow_pos w)

theorem active_eq (s : State) (p : BitVec 3) (w i : Nat) : active (s.getP p) w i = s.act p w i := rfl

/-- `Val` of an element. -/
theorem vval_eq (t : ITy) (x : Vec) (i : Nat) : vval t x i = intOf t.signed (el t.bits x i) := by
  rw [vval, ← el_toNat, tval_toNat]

/-- What a vector result reaches. -/
theorem vmask_el (w : Nat) (q : Pred) (old : Vec) (f : Nat → Nat) (i : Nat) (hi : i < 2048 / w) :
    el w (vmask w q old f) i = if active q w i then BitVec.ofNat w (f i) else el w old i := by
  apply BitVec.eq_of_toNat_eq
  rw [el_toNat, vmask, vel_packN _ _ _ hi]
  split
  · simp
  · rw [el_toNat, Nat.mod_eq_of_lt (vel_lt ..)]

/-- Every vector instruction's result (R195, R196): cite it with the element function as bit vectors. -/
theorem vectorOut_result (s : State) (w : Nat) (p : BitVec 3) (d : BitVec 5) (f : Nat → Nat) (g : Nat → BitVec w)
    (h : ∀ i, i < 2048 / w → BitVec.ofNat w (f i) = g i) : VectorResult (vectorOut s w p d f) s s w p d g := by
  refine ⟨_, rfl, fun i hi => ?_⟩
  rw [vmask_el _ _ _ _ _ hi, active_eq]
  split
  · exact h i hi
  · rfl

/-- The same for an instruction that draws: the state after the draws has the registers of the state before. -/
theorem vectorOut_result' (s s' : State) (w : Nat) (p : BitVec 3) (d : BitVec 5) (f : Nat → Nat) (g : Nat → BitVec w)
    (hp : s'.getP p = s.getP p) (hv : s'.getV d = s.getV d)
    (h : ∀ i, i < 2048 / w → BitVec.ofNat w (f i) = g i) : VectorResult (vectorOut s' w p d f) s s' w p d g := by
  obtain ⟨v, h1, h2⟩ := vectorOut_result s' w p d f g h
  refine ⟨v, h1, fun i hi => ?_⟩
  rw [h2 i hi, State.act, State.act, hp, hv]

@[simp] theorem draws_getP (s : State) (n : Nat) (p : BitVec 3) : (s.draws n).2.getP p = s.getP p := rfl
@[simp] theorem draws_getV (s : State) (n : Nat) (d : BitVec 5) : (s.draws n).2.getV d = s.getV d := rfl
@[simp] theorem draws_getS (s : State) (n : Nat) (d : BitVec 5) : (s.draws n).2.getS d = s.getS d := rfl

theorem scalarOut_result (s : State) (p : BitVec 3) (d : BitVec 5) (x : Word) : ScalarResult (scalarOut s p d x) s p d x := rfl

end Sys2Proof.Machine
end

