-- ==== Sys2Proof/Laws/Ops.lean ====
section
/-! SUPPORT. What each shared operation of a thread can do, said once: outcomes, conditions, handles, the store buffer. -/
namespace Sys2Proof.Machine
open Sys2Proof

theorem require_ok {b : Bool} {c d : Nat} {u : Unit} : require b c d = .ok u ↔ b = true := by
  cases b <;> simp [require, raise]
theorem require_error {b : Bool} {c d : Nat} {e : Stop} : require b c d = .error e ↔ b = false ∧ e = .cond (mkCond c d) none := by
  cases b <;> simp [require, raise, eq_comm]

/-! Outcomes: an instruction's effect, the condition it takes, or its wait (R39, R430). -/

@[simp] theorem finish_ok (s t : State) : finish s (.ok t) = .next t := rfl
@[simp] theorem finish_cond (s : State) (c : Cond) (f : Option (BitVec 4)) :
    finish s (.error (.cond c f)) = .next (takeCondition (freeHandle s f) c (faultPc s)) := rfl
@[simp] theorem finish_wait (s : State) (w : Why) : finish s (.error (.wait w)) = .next (block s w) := rfl
theorem finish_raise (s : State) (c d : Nat) : finish s (raise c d) = .next (takeCondition s (mkCond c d) (faultPc s)) := rfl
theorem finish_cases {s t : State} {r : Chk State} (e : finish s r = .next t) :
    r = .ok t ∨ (∃ c f, r = .error (.cond c f) ∧ t = takeCondition (freeHandle s f) c (faultPc s)) ∨
    (∃ w, r = .error (.wait w) ∧ t = block s w) := by
  rcases r with (⟨c, f⟩ | w) | u
  · exact .inr (.inl ⟨c, f, rfl, by simpa using e.symm⟩)
  · exact .inr (.inr ⟨w, rfl, by simpa using e.symm⟩)
  · exact .inl (by simpa using e)
/-- An instruction that ends by `finish` never stops the machine. -/
theorem finish_next (s : State) (r : Chk State) : ∃ t, finish s r = .next t := by
  rcases r with (⟨c, f⟩ | w) | u <;> exact ⟨_, rfl⟩
theorem suspend_cases {s t : State} {r : Chk State} (e : suspend s r = .next t) :
    r = .ok t ∨ (∃ c f, r = .error (.cond c f) ∧ t = parkCore s c s.thr.pc false (ownUnit c)) ∨ (∃ w, r = .error (.wait w) ∧ t = block s w) := by
  rcases r with (⟨c, f⟩ | w) | u
  · exact .inr (.inl ⟨c, f, rfl, by simpa [suspend] using e.symm⟩)
  · exact .inr (.inr ⟨w, rfl, by simpa [suspend] using e.symm⟩)
  · exact .inl (by simpa [suspend] using e)
theorem suspend_next (s : State) (r : Chk State) : ∃ t, suspend s r = .next t := by
  rcases r with (⟨c, f⟩ | w) | u <;> exact ⟨_, rfl⟩

/-! Waiting at an instruction (R39): the PC stands, and nothing but the thread's wait changes. -/

@[simp] theorem block_npc (s : State) (w : Why) : (block s w).thr.npc = s.thr.pc := rfl
@[simp] theorem block_pc (s : State) (w : Why) : (block s w).thr.pc = s.thr.pc := rfl
@[simp] theorem block_blocked (s : State) (w : Why) : (block s w).thr.i.blocked = some w := rfl
@[simp] theorem block_r (s : State) (w : Why) : (block s w).thr.r = s.thr.r := rfl
@[simp] theorem block_y (s : State) (w : Why) : (block s w).thr.y = s.thr.y := rfl
@[simp] theorem block_q (s : State) (w : Why) : (block s w).thr.q = s.thr.q := rfl
@[simp] theorem block_rcd (s : State) (w : Why) : (block s w).thr.rcd = s.thr.rcd := rfl
@[simp] theorem block_mem (s : State) (w : Why) : (block s w).mem = s.mem := rfl
@[simp] theorem block_sch (s : State) (w : Why) : (block s w).sch = s.sch := rfl
@[simp] theorem block_plat (s : State) (w : Why) : (block s w).plat = s.plat := rfl
@[simp] theorem block_cores (s : State) (w : Why) : (block s w).cores = s.cores := rfl
@[simp] theorem block_clus (s : State) (w : Why) : (block s w).clus = s.clus := rfl
@[simp] theorem block_rest (s : State) (w : Why) : (block s w).rest = s.rest := rfl
@[simp] theorem block_agenda (s : State) (w : Why) : (block s w).agenda = s.agenda := rfl

/-! Taking a condition (R431, R436): the core parks, or the handler is entered. -/

/-- What taking a condition does: the core parks, or parks already; the thread waits for its frame's home; or the handler is entered,
from the state in which the full frame is written. -/
theorem takeCondition_cases (s : State) (c : Cond) (pc : Word) :
    (∃ d p f, takeCondition s c pc = parkCore s d p false f) ∨
    ((s.core (thCore s.cur)).parked.isSome = true ∧ takeCondition s c pc = stopParked s c pc) ∨
    ((∃ w, writeFull s s.cur pc = .error (.wait w)) ∧ takeCondition s c pc = block (oweCond s c pc) .queue) ∨
    (∃ s1, writeFull s s.cur pc = .ok s1 ∧ c.code.toNat < 0x70 ∧ s.thr.inHandler = false ∧ s.thr.y.hand ≠ 0 ∧ s.thr.y.hand.toNat % 8 = 0 ∧
      takeCondition s c pc = { s1 with
        thr := { s1.thr with
          r := ((s1.thr.r.setS 1 (BitVec.ofNat 64 (c.flags.toNat * 256 + c.code.toNat))).setS 2 pc).setS 3 c.detail
          inHandler := true, npc := s.thr.y.hand, i := { s1.thr.i with rep := none, blocked := none, notBefore := 0 } }
        taken := some c }) := by
  unfold takeCondition
  dsimp only
  split
  · exact .inl ⟨_, _, _, rfl⟩
  · rename_i h
    simp only [not_or, Nat.not_le, Bool.not_eq_true] at h
    split
    · exact .inl ⟨_, _, _, rfl⟩
    · rename_i h2
      split
      · rename_i h3
        exact .inr (.inl ⟨h3, rfl⟩)
      · split
        · exact .inl ⟨_, _, _, rfl⟩
        · rename_i w e
          exact .inr (.inr (.inl ⟨⟨w, e⟩, rfl⟩))
        · rename_i s1 e
          exact .inr (.inr (.inr ⟨s1, e, h.1, h.2.1, h.2.2, by simpa using h2, rfl⟩))

/-! Handles (R225). -/

theorem useHandle_ok {s t : State} {h : BitVec 4} :
    useHandle s h = .ok t ↔
      (s.getH h = .free ∧ t = s) ∨ (∃ x, s.getH h = .done x none none false ∧ t = s) ∨
      (∃ x sc, s.getH h = .done x none (some sc) false ∧ t = acquire s s.cur sc) := by
  unfold useHandle
  cases e : s.getH h with
  | free => simp [eq_comm]
  | pending o => simp
  | done x c sc w =>
    cases c <;> cases sc <;> cases w <;> simp [raise, eq_comm]

/-! The store buffer (R13, R134, R135). -/

@[simp] theorem drainOne_nil (s : State) (core : Nat) (h : (s.core core).buf = []) : drainOne s core = s := by simp [drainOne, h]
theorem drainOne_cons (s : State) (core : Nat) (x : Store) (r : List Store) (h : (s.core core).buf = x :: r) :
    drainOne s core = performAll (s.setCore core { s.core core with buf := unjoined r }) (x :: joinedOf r) := by simp [drainOne, h]
@[simp] theorem drainAll_nil (s : State) (core : Nat) (h : (s.core core).buf = []) : drainAll s core = s := by simp [drainAll, drainN, h]
theorem pushStore_room (s : State) (x : Store) (h : bufEntries (s.core (thCore x.th)).buf < 32) :
    pushStore s x = (s.setCore (thCore x.th) { s.core (thCore x.th) with buf := (s.core (thCore x.th)).buf ++ [x] }).after Config.drainTime
      (.storeDrain (thCore x.th)) := by simp [pushStore, pushEntry, h]
theorem pushStore_full (s : State) (x : Store) (h : ¬ bufEntries (s.core (thCore x.th)).buf < 32) :
    let s1 := drainOne s (thCore x.th)
    pushStore s x = (s1.setCore (thCore x.th) { s1.core (thCore x.th) with buf := (s1.core (thCore x.th)).buf ++ [x] }).after Config.drainTime
      (.storeDrain (thCore x.th)) := by simp [pushStore, pushEntry, h]
theorem release_narrow (s : State) (th : Nat) (sc : Scope) (h : sc.wide = false) : release s th sc = drainAll s (thCore th) := by simp [release, h]
theorem release_wide (s : State) (th : Nat) (sc : Scope) (h : sc.wide = true) : release s th sc = writeBackDie (drainAll s (thCore th)) (thDie th) := by
  simp [release, h]
theorem acquire_narrow (s : State) (th : Nat) (sc : Scope) (h : sc.wide = false) : acquire s th sc = s := by simp [acquire, h]
theorem acquire_wide (s : State) (th : Nat) (sc : Scope) (h : sc.wide = true) : acquire s th sc = invalidateDie s (thDie th) := by simp [acquire, h]

/-! Scalar results under the governing predicate (R196, R247). -/

theorem scalarOut_on (s : State) (p : BitVec 3) (d : BitVec 5) (x : Word) (h : predOn (s.getP p) = true) : scalarOut s p d x = .next (s.setS d x) := by
  simp [scalarOut, h]
theorem scalarOut_off (s : State) (p : BitVec 3) (d : BitVec 5) (x : Word) (h : predOn (s.getP p) = false) : scalarOut s p d x = .next s := by
  simp [scalarOut, h]
theorem scalarChk_cases (s : State) (p : BitVec 3) (d : BitVec 5) (x : Chk Word) :
    scalarChk s p d x = .next s ∨ (∃ w, x = .ok w ∧ scalarChk s p d x = .next (s.setS d w)) ∨
    (∃ e, x = .error e ∧ scalarChk s p d x = finish s (.error e)) := by
  unfold scalarChk
  split
  · cases x with
    | ok w => exact .inr (.inl ⟨w, rfl, rfl⟩)
    | error e => exact .inr (.inr ⟨e, rfl, rfl⟩)
  · exact .inl rfl

end Sys2Proof.Machine
end

