-- ==== Sys2Proof/Laws/PerInstr.lean ====
section
/-! SUPPORT. Families of statements about every instruction as syntax, one lemma per constructor. -/
namespace Sys2Proof.Laws

open Sys2Proof

/-- Decoding the encoding of a well-formed instruction gives it back, with its L and its W. -/
def RoundTrip.Statement (i : Instr) : Prop :=
  i.wf = true →
    (i.isLead = true → ∀ wt : BitVec 3,
      decodeLead (encodeLead wt i).1 (encodeLead wt i).2 = .ok i ∧
      bitAt (encodeLead wt i).1 31 = i.isLone ∧ nOf 3 (encodeLead wt i).1 28 = wt) ∧
    (i.isArith = true → decodeArith (encodeArith i) = .ok i)

theorem RoundTrip.nop : RoundTrip.Statement (.nop) := by
  intro hw
  have arm : ∀ (w l : Nat), decodeLead0 (0x00 % 64) w l false =
      chk true (fI20 w == 0) .nop := fun _ _ => rfl
  refine ⟨fun _ wt => ⟨?_, ?_, ?_⟩, fun g => absurd g Bool.false_ne_true⟩
  · show decodeLead (packLR false wt 0x00 0 0 0 0) (0) = _
    rw [lead0_packLR (h := by decide) (g := rfl), arm]
    exact (chk_of (by simp_all) (by simp_all)).trans (by simp)
  · show bitAt (packLR false wt 0x00 0 0 0 0) 31 = _
    rw [bit31_packLR (h := by decide)]; rfl
  · exact wait_packLR (h := by decide) ..
theorem RoundTrip.bra (off : Imm 20) : RoundTrip.Statement (.bra off) := by
  intro hw
  have arm : ∀ (w l : Nat) (ln : Bool), decodeLead0 (0x01 % 64) w l ln =
      chk true (immOk ln (fI20 w)) (.bra (immOf ln (fI20 w) l)) := fun _ _ _ => rfl
  refine ⟨fun _ wt => ⟨?_, ?_, ?_⟩, fun g => absurd g Bool.false_ne_true⟩
  · show decodeLead (packLJ off.isLit wt 0x01 off.field) (off.litNat) = _
    rw [lead0_packLJ (h := by decide) (g := rfl), arm]
    exact (chk_of (by cases off <;> simp_all) (by cases off <;> simp_all)).trans (by cases off <;> simp)
  · show bitAt (packLJ off.isLit wt 0x01 off.field) 31 = _
    rw [bit31_packLJ (h := by decide)]; rfl
  · exact wait_packLJ (h := by decide) ..
theorem RoundTrip.bc (c : BCond) (r : BitVec 5) (off : Imm 11) : RoundTrip.Statement (.bc c r off) := by
  intro hw
  have hw : (c.scalar || decide (r < 8)) = true := hw
  have arm : ∀ (w l : Nat) (ln : Bool), decodeLead0 (0x02 % 64) w l ln =
      code (bcondOf (fC4 w)) fun c =>
      chk (c.scalar || decide (fR5 w < 8)) (immOk ln (fI11 w)) (.bc c (fR5 w) (immOf ln (fI11 w) l)) := fun _ _ _ => rfl
  refine ⟨fun _ wt => ⟨?_, ?_, ?_⟩, fun g => absurd g Bool.false_ne_true⟩
  · show decodeLead (packLB off.isLit wt 0x02 c.code r off.field) (off.litNat) = _
    rw [lead0_packLB (h := by decide) (g := rfl), arm]
    refine (code_of (a := c) (by simp)).trans ?_
    exact (chk_of (by cases off <;> simp_all) (by cases off <;> simp_all)).trans (by cases off <;> simp)
  · show bitAt (packLB off.isLit wt 0x02 c.code r off.field) 31 = _
    rw [bit31_packLB (h := by decide)]; rfl
  · exact wait_packLB (h := by decide) ..
theorem RoundTrip.call (off : Imm 20) : RoundTrip.Statement (.call off) := by
  intro hw
  have arm : ∀ (w l : Nat) (ln : Bool), decodeLead0 (0x03 % 64) w l ln =
      chk true (immOk ln (fI20 w)) (.call (immOf ln (fI20 w) l)) := fun _ _ _ => rfl
  refine ⟨fun _ wt => ⟨?_, ?_, ?_⟩, fun g => absurd g Bool.false_ne_true⟩
  · show decodeLead (packLJ off.isLit wt 0x03 off.field) (off.litNat) = _
    rw [lead0_packLJ (h := by decide) (g := rfl), arm]
    exact (chk_of (by cases off <;> simp_all) (by cases off <;> simp_all)).trans (by cases off <;> simp)
  · show bitAt (packLJ off.isLit wt 0x03 off.field) 31 = _
    rw [bit31_packLJ (h := by decide)]; rfl
  · exact wait_packLJ (h := by decide) ..
theorem RoundTrip.calli (d : BitVec 5) (a : BitVec 5) : RoundTrip.Statement (.calli d a) := by
  intro hw
  have arm : ∀ (w l : Nat), decodeLead0 (0x04 % 64) w l false =
      chk true (fB w == 0 && fX w == 0) (.calli (fD w) (fA w)) := fun _ _ => rfl
  refine ⟨fun _ wt => ⟨?_, ?_, ?_⟩, fun g => absurd g Bool.false_ne_true⟩
  · show decodeLead (packLR false wt 0x04 d a 0 0) (0) = _
    rw [lead0_packLR (h := by decide) (g := rfl), arm]
    exact (chk_of (by simp_all) (by simp_all)).trans (by simp)
  · show bitAt (packLR false wt 0x04 d a 0 0) 31 = _
    rw [bit31_packLR (h := by decide)]; rfl
  · exact wait_packLR (h := by decide) ..
theorem RoundTrip.ret (a : BitVec 5) : RoundTrip.Statement (.ret a) := by
  intro hw
  have arm : ∀ (w l : Nat), decodeLead0 (0x05 % 64) w l false =
      chk true (fD w == 0 && fB w == 0 && fX w == 0) (.ret (fA w)) := fun _ _ => rfl
  refine ⟨fun _ wt => ⟨?_, ?_, ?_⟩, fun g => absurd g Bool.false_ne_true⟩
  · show decodeLead (packLR false wt 0x05 0 a 0 0) (0) = _
    rw [lead0_packLR (h := by decide) (g := rfl), arm]
    exact (chk_of (by simp_all) (by simp_all)).trans (by simp)
  · show bitAt (packLR false wt 0x05 0 a 0 0) 31 = _
    rw [bit31_packLR (h := by decide)]; rfl
  · exact wait_packLR (h := by decide) ..
theorem RoundTrip.jmpi (a : BitVec 5) : RoundTrip.Statement (.jmpi a) := by
  intro hw
  have arm : ∀ (w l : Nat), decodeLead0 (0x06 % 64) w l false =
      chk true (fD w == 0 && fB w == 0 && fX w == 0) (.jmpi (fA w)) := fun _ _ => rfl
  refine ⟨fun _ wt => ⟨?_, ?_, ?_⟩, fun g => absurd g Bool.false_ne_true⟩
  · show decodeLead (packLR false wt 0x06 0 a 0 0) (0) = _
    rw [lead0_packLR (h := by decide) (g := rfl), arm]
    exact (chk_of (by simp_all) (by simp_all)).trans (by simp)
  · show bitAt (packLR false wt 0x06 0 a 0 0) 31 = _
    rw [bit31_packLR (h := by decide)]; rfl
  · exact wait_packLR (h := by decide) ..
theorem RoundTrip.rep (creg : BitVec 5) (cnt : BitVec 6) (stepO : Bool) (stepD : Bool) (stepA : Bool) (stepB : Bool) : RoundTrip.Statement (.rep creg cnt stepO stepD stepA stepB) := by
  intro hw
  have hw : (creg == 0 || cnt == 0) = true := hw
  have arm : ∀ (w l : Nat), decodeLead0 (7) w l false =
      if l / 2 ^ 25 % 128 != 0 then .error .repArith
      else chk true (fZ5 w == 0 && (fD w == 0 || fN6 w == 0))
        (.rep (fD w) (fN6 w) (bitAt w 3) (bitAt w 2) (bitAt w 1) (bitAt w 0)) := fun _ _ => rfl
  refine ⟨fun _ wt => ⟨?_, ?_, ?_⟩, fun g => absurd g Bool.false_ne_true⟩
  · show decodeLead (packRep wt creg cnt stepO stepD stepA stepB) (0) = _
    rw [lead0_packRep, arm]
    exact (chk_of rfl (by simp_all)).trans (by simp)
  · show bitAt (packRep wt creg cnt stepO stepD stepA stepB) 31 = _
    rw [bit31_packRep]; rfl
  · exact wait_packRep ..
theorem RoundTrip.yield (map : Imm 15) : RoundTrip.Statement (.yield map) := by
  intro hw
  have hw : (map.lit16) = true := hw
  have arm : ∀ (w l : Nat) (ln : Bool), decodeLead0 (0x08 % 64) w l ln =
      chk true (fD w == 0 && immOk ln (fI15 w) && (immOf ln (fI15 w) l).lit16) (.yield (immOf ln (fI15 w) l)) := fun _ _ _ => rfl
  refine ⟨fun _ wt => ⟨?_, ?_, ?_⟩, fun g => absurd g Bool.false_ne_true⟩
  · show decodeLead (packLI map.isLit wt 0x08 0 map.field) (map.litNat) = _
    rw [lead0_packLI (h := by decide) (g := rfl), arm]
    exact (chk_of (by cases map <;> simp_all) (by cases map <;> simp_all)).trans (by cases map <;> simp)
  · show bitAt (packLI map.isLit wt 0x08 0 map.field) 31 = _
    rw [bit31_packLI (h := by decide)]; rfl
  · exact wait_packLI (h := by decide) ..
theorem RoundTrip.safe (map : Imm 15) : RoundTrip.Statement (.safe map) := by
  intro hw
  have hw : (map.lit16) = true := hw
  have arm : ∀ (w l : Nat) (ln : Bool), decodeLead0 (0x09 % 64) w l ln =
      chk true (fD w == 0 && immOk ln (fI15 w) && (immOf ln (fI15 w) l).lit16) (.safe (immOf ln (fI15 w) l)) := fun _ _ _ => rfl
  refine ⟨fun _ wt => ⟨?_, ?_, ?_⟩, fun g => absurd g Bool.false_ne_true⟩
  · show decodeLead (packLI map.isLit wt 0x09 0 map.field) (map.litNat) = _
    rw [lead0_packLI (h := by decide) (g := rfl), arm]
    exact (chk_of (by cases map <;> simp_all) (by cases map <;> simp_all)).trans (by cases map <;> simp)
  · show bitAt (packLI map.isLit wt 0x09 0 map.field) 31 = _
    rw [bit31_packLI (h := by decide)]; rfl
  · exact wait_packLI (h := by decide) ..
theorem RoundTrip.endCont : RoundTrip.Statement (.endCont) := by
  intro hw
  have arm : ∀ (w l : Nat), decodeLead0 (0x0A % 64) w l false =
      chk true (fI20 w == 0) .endCont := fun _ _ => rfl
  refine ⟨fun _ wt => ⟨?_, ?_, ?_⟩, fun g => absurd g Bool.false_ne_true⟩
  · show decodeLead (packLR false wt 0x0A 0 0 0 0) (0) = _
    rw [lead0_packLR (h := by decide) (g := rfl), arm]
    exact (chk_of (by simp_all) (by simp_all)).trans (by simp)
  · show bitAt (packLR false wt 0x0A 0 0 0 0) 31 = _
    rw [bit31_packLR (h := by decide)]; rfl
  · exact wait_packLR (h := by decide) ..
theorem RoundTrip.work (d : BitVec 5) (amount : Imm 15) : RoundTrip.Statement (.work d amount) := by
  intro hw
  have arm : ∀ (w l : Nat) (ln : Bool), decodeLead0 (0x0B % 64) w l ln =
      chk true (immOk ln (fI15 w)) (.work (fD w) (immOf ln (fI15 w) l)) := fun _ _ _ => rfl
  refine ⟨fun _ wt => ⟨?_, ?_, ?_⟩, fun g => absurd g Bool.false_ne_true⟩
  · show decodeLead (packLI amount.isLit wt 0x0B d amount.field) (amount.litNat) = _
    rw [lead0_packLI (h := by decide) (g := rfl), arm]
    exact (chk_of (by cases amount <;> simp_all) (by cases amount <;> simp_all)).trans (by cases amount <;> simp)
  · show bitAt (packLI amount.isLit wt 0x0B d amount.field) 31 = _
    rw [bit31_packLI (h := by decide)]; rfl
  · exact wait_packLI (h := by decide) ..
theorem RoundTrip.wait (h : BitVec 4) : RoundTrip.Statement (.wait h) := by
  intro hw
  have arm : ∀ (w l : Nat), decodeLead0 (0x0C % 64) w l false =
      chk (isH (fA w)) (fD w == 0 && fB w == 0 && fX w == 0) (.wait (hOf (fA w))) := fun _ _ => rfl
  refine ⟨fun _ wt => ⟨?_, ?_, ?_⟩, fun g => absurd g Bool.false_ne_true⟩
  · show decodeLead (packLR false wt 0x0C 0 (h5 h) 0 0) (0) = _
    rw [lead0_packLR (h := by decide) (g := rfl), arm]
    exact (chk_of (by simp_all) (by simp_all)).trans (by simp)
  · show bitAt (packLR false wt 0x0C 0 (h5 h) 0 0) 31 = _
    rw [bit31_packLR (h := by decide)]; rfl
  · exact wait_packLR (h := by decide) ..
theorem RoundTrip.ftest (d : BitVec 5) (h : BitVec 4) : RoundTrip.Statement (.ftest d h) := by
  intro hw
  have arm : ∀ (w l : Nat), decodeLead0 (0x0D % 64) w l false =
      chk (isH (fA w)) (fB w == 0 && fX w == 0) (.ftest (fD w) (hOf (fA w))) := fun _ _ => rfl
  refine ⟨fun _ wt => ⟨?_, ?_, ?_⟩, fun g => absurd g Bool.false_ne_true⟩
  · show decodeLead (packLR false wt 0x0D d (h5 h) 0 0) (0) = _
    rw [lead0_packLR (h := by decide) (g := rfl), arm]
    exact (chk_of (by simp_all) (by simp_all)).trans (by simp)
  · show bitAt (packLR false wt 0x0D d (h5 h) 0 0) 31 = _
    rw [bit31_packLR (h := by decide)]; rfl
  · exact wait_packLR (h := by decide) ..
theorem RoundTrip.fcancel (h : BitVec 4) : RoundTrip.Statement (.fcancel h) := by
  intro hw
  have arm : ∀ (w l : Nat), decodeLead0 (0x0E % 64) w l false =
      chk (isH (fD w)) (fA w == 0 && fB w == 0 && fX w == 0) (.fcancel (hOf (fD w))) := fun _ _ => rfl
  refine ⟨fun _ wt => ⟨?_, ?_, ?_⟩, fun g => absurd g Bool.false_ne_true⟩
  · show decodeLead (packLR false wt 0x0E (h5 h) 0 0 0) (0) = _
    rw [lead0_packLR (h := by decide) (g := rfl), arm]
    exact (chk_of (by simp_all) (by simp_all)).trans (by simp)
  · show bitAt (packLR false wt 0x0E (h5 h) 0 0 0) 31 = _
    rw [bit31_packLR (h := by decide)]; rfl
  · exact wait_packLR (h := by decide) ..
theorem RoundTrip.fget (d : BitVec 5) (h : BitVec 4) : RoundTrip.Statement (.fget d h) := by
  intro hw
  have arm : ∀ (w l : Nat), decodeLead0 (0x0F % 64) w l false =
      chk (isH (fA w)) (fB w == 0 && fX w == 0) (.fget (fD w) (hOf (fA w))) := fun _ _ => rfl
  refine ⟨fun _ wt => ⟨?_, ?_, ?_⟩, fun g => absurd g Bool.false_ne_true⟩
  · show decodeLead (packLR false wt 0x0F d (h5 h) 0 0) (0) = _
    rw [lead0_packLR (h := by decide) (g := rfl), arm]
    exact (chk_of (by simp_all) (by simp_all)).trans (by simp)
  · show bitAt (packLR false wt 0x0F d (h5 h) 0 0) 31 = _
    rw [bit31_packLR (h := by decide)]; rfl
  · exact wait_packLR (h := by decide) ..
theorem RoundTrip.fput (h : BitVec 4) (a : BitVec 5) : RoundTrip.Statement (.fput h a) := by
  intro hw
  have arm : ∀ (w l : Nat), decodeLead0 (0x10 % 64) w l false =
      chk (isH (fD w)) (fB w == 0 && fX w == 0) (.fput (hOf (fD w)) (fA w)) := fun _ _ => rfl
  refine ⟨fun _ wt => ⟨?_, ?_, ?_⟩, fun g => absurd g Bool.false_ne_true⟩
  · show decodeLead (packLR false wt 0x10 (h5 h) a 0 0) (0) = _
    rw [lead0_packLR (h := by decide) (g := rfl), arm]
    exact (chk_of (by simp_all) (by simp_all)).trans (by simp)
  · show bitAt (packLR false wt 0x10 (h5 h) a 0 0) 31 = _
    rw [bit31_packLR (h := by decide)]; rfl
  · exact wait_packLR (h := by decide) ..
theorem RoundTrip.tryChoice (a : BitVec 5) (b : BitVec 5) (n : BitVec 7) (map : BitVec 16) : RoundTrip.Statement (.tryChoice a b n map) := by
  intro hw
  have hw : (b == 0 || n == 0) = true := hw
  have arm : ∀ (w l : Nat), decodeLead0 (0x11 % 64) w l true =
      chk true (fD w == 0 && fX w == 0 && decide (l / 2 ^ 23 = 0) && (fB w == 0 || nOf 7 l 16 == 0))
        (.tryChoice (fA w) (fB w) (nOf 7 l 16) (nOf 16 l 0)) := fun _ _ => rfl
  refine ⟨fun _ wt => ⟨?_, ?_, ?_⟩, fun g => absurd g Bool.false_ne_true⟩
  · show decodeLead (packLR true wt 0x11 0 a b 0) (n.toNat * 2 ^ 16 + map.toNat) = _
    rw [lead0_packLR (h := by decide) (g := rfl), arm]
    exact (chk_of (by simp_all) (by simp_all)).trans (by simp)
  · show bitAt (packLR true wt 0x11 0 a b 0) 31 = _
    rw [bit31_packLR (h := by decide)]; rfl
  · exact wait_packLR (h := by decide) ..
theorem RoundTrip.fail : RoundTrip.Statement (.fail) := by
  intro hw
  have arm : ∀ (w l : Nat), decodeLead0 (0x12 % 64) w l false =
      chk true (fI20 w == 0) .fail := fun _ _ => rfl
  refine ⟨fun _ wt => ⟨?_, ?_, ?_⟩, fun g => absurd g Bool.false_ne_true⟩
  · show decodeLead (packLR false wt 0x12 0 0 0 0) (0) = _
    rw [lead0_packLR (h := by decide) (g := rfl), arm]
    exact (chk_of (by simp_all) (by simp_all)).trans (by simp)
  · show bitAt (packLR false wt 0x12 0 0 0 0) 31 = _
    rw [bit31_packLR (h := by decide)]; rfl
  · exact wait_packLR (h := by decide) ..
theorem RoundTrip.cut (d : BitVec 5) (depth : BitVec 15) : RoundTrip.Statement (.cut d depth) := by
  intro hw
  have hw : (if d == 0 then decide (depth ≤ 255) else depth == 0) = true := hw
  have arm : ∀ (w l : Nat), decodeLead0 (0x13 % 64) w l false =
      chk (decide (fD w ≠ 0 ∨ fI15 w ≤ 255)) (fD w == 0 || fI15 w == 0)
        (.cut (fD w) (fI15 w)) := fun _ _ => rfl
  refine ⟨fun _ wt => ⟨?_, ?_, ?_⟩, fun g => absurd g Bool.false_ne_true⟩
  · show decodeLead (packLI false wt 0x13 d depth) (0) = _
    rw [lead0_packLI (h := by decide) (g := rfl), arm]
    by_cases hd : d = 0#5 <;> exact (chk_of (by simp_all) (by simp_all)).trans (by simp)
  · show bitAt (packLI false wt 0x13 d depth) 31 = _
    rw [bit31_packLI (h := by decide)]; rfl
  · exact wait_packLI (h := by decide) ..
theorem RoundTrip.mark (d : BitVec 5) : RoundTrip.Statement (.mark d) := by
  intro hw
  have arm : ∀ (w l : Nat), decodeLead0 (0x14 % 64) w l false =
      chk true (fI15 w == 0) (.mark (fD w)) := fun _ _ => rfl
  refine ⟨fun _ wt => ⟨?_, ?_, ?_⟩, fun g => absurd g Bool.false_ne_true⟩
  · show decodeLead (packLI false wt 0x14 d 0) (0) = _
    rw [lead0_packLI (h := by decide) (g := rfl), arm]
    exact (chk_of (by simp_all) (by simp_all)).trans (by simp)
  · show bitAt (packLI false wt 0x14 d 0) 31 = _
    rw [bit31_packLI (h := by decide)]; rfl
  · exact wait_packLI (h := by decide) ..
theorem RoundTrip.commit (h : BitVec 4) (a : BitVec 5) (map : BitVec 16) : RoundTrip.Statement (.commit h a map) := by
  intro hw
  have arm : ∀ (w l : Nat), decodeLead0 (0x15 % 64) w l true =
      chk (isH (fD w)) (fB w == 0 && fX w == 0 && decide (l / 2 ^ 16 = 0)) (.commit (hOf (fD w)) (fA w) (nOf 16 l 0)) := fun _ _ => rfl
  refine ⟨fun _ wt => ⟨?_, ?_, ?_⟩, fun g => absurd g Bool.false_ne_true⟩
  · show decodeLead (packLR true wt 0x15 (h5 h) a 0 0) (map.toNat) = _
    rw [lead0_packLR (h := by decide) (g := rfl), arm]
    exact (chk_of (by simp_all) (by simp_all)).trans (by simp)
  · show bitAt (packLR true wt 0x15 (h5 h) a 0 0) 31 = _
    rw [bit31_packLR (h := by decide)]; rfl
  · exact wait_packLR (h := by decide) ..
theorem RoundTrip.tread (d : BitVec 5) (a : BitVec 5) (b : BitVec 5) (h : BitVec 4) (ver : BitVec 32) : RoundTrip.Statement (.tread d a b h ver) := by
  intro hw
  have arm : ∀ (w l : Nat), decodeLead0 (0x16 % 64) w l true =
      chk (isH (fX w)) true (.tread (fD w) (fA w) (fB w) (hOf (fX w)) (nOf 32 l 0)) := fun _ _ => rfl
  refine ⟨fun _ wt => ⟨?_, ?_, ?_⟩, fun g => absurd g Bool.false_ne_true⟩
  · show decodeLead (packLR true wt 0x16 d a b (h5 h)) (ver.toNat) = _
    rw [lead0_packLR (h := by decide) (g := rfl), arm]
    exact (chk_of (by simp_all) (by simp_all)).trans (by simp)
  · show bitAt (packLR true wt 0x16 d a b (h5 h)) 31 = _
    rw [bit31_packLR (h := by decide)]; rfl
  · exact wait_packLR (h := by decide) ..
theorem RoundTrip.tver (d : BitVec 5) (a : BitVec 5) : RoundTrip.Statement (.tver d a) := by
  intro hw
  have arm : ∀ (w l : Nat), decodeLead0 (0x17 % 64) w l false =
      chk true (fB w == 0 && fX w == 0) (.tver (fD w) (fA w)) := fun _ _ => rfl
  refine ⟨fun _ wt => ⟨?_, ?_, ?_⟩, fun g => absurd g Bool.false_ne_true⟩
  · show decodeLead (packLR false wt 0x17 d a 0 0) (0) = _
    rw [lead0_packLR (h := by decide) (g := rfl), arm]
    exact (chk_of (by simp_all) (by simp_all)).trans (by simp)
  · show bitAt (packLR false wt 0x17 d a 0 0) 31 = _
    rw [bit31_packLR (h := by decide)]; rfl
  · exact wait_packLR (h := by decide) ..
theorem RoundTrip.quit : RoundTrip.Statement (.quit) := by
  intro hw
  have arm : ∀ (w l : Nat), decodeLead0 (0x18 % 64) w l false =
      chk true (fI20 w == 0) .quit := fun _ _ => rfl
  refine ⟨fun _ wt => ⟨?_, ?_, ?_⟩, fun g => absurd g Bool.false_ne_true⟩
  · show decodeLead (packLR false wt 0x18 0 0 0 0) (0) = _
    rw [lead0_packLR (h := by decide) (g := rfl), arm]
    exact (chk_of (by simp_all) (by simp_all)).trans (by simp)
  · show bitAt (packLR false wt 0x18 0 0 0 0) 31 = _
    rw [bit31_packLR (h := by decide)]; rfl
  · exact wait_packLR (h := by decide) ..
theorem RoundTrip.svc (d : BitVec 5) (n : Imm 15) : RoundTrip.Statement (.svc d n) := by
  intro hw
  have hw : (n.lit16) = true := hw
  have arm : ∀ (w l : Nat) (ln : Bool), decodeLead0 (0x19 % 64) w l ln =
      chk true (immOk ln (fI15 w) && (immOf ln (fI15 w) l).lit16) (.svc (fD w) (immOf ln (fI15 w) l)) := fun _ _ _ => rfl
  refine ⟨fun _ wt => ⟨?_, ?_, ?_⟩, fun g => absurd g Bool.false_ne_true⟩
  · show decodeLead (packLI n.isLit wt 0x19 d n.field) (n.litNat) = _
    rw [lead0_packLI (h := by decide) (g := rfl), arm]
    exact (chk_of (by cases n <;> simp_all) (by cases n <;> simp_all)).trans (by cases n <;> simp)
  · show bitAt (packLI n.isLit wt 0x19 d n.field) 31 = _
    rw [bit31_packLI (h := by decide)]; rfl
  · exact wait_packLI (h := by decide) ..
theorem RoundTrip.lit (d : BitVec 5) (v : Imm 15) : RoundTrip.Statement (.lit d v) := by
  intro hw
  have arm : ∀ (w l : Nat) (ln : Bool), decodeLead0 (0x1A % 64) w l ln =
      chk true (immOk ln (fI15 w)) (.lit (fD w) (immOf ln (fI15 w) l)) := fun _ _ _ => rfl
  refine ⟨fun _ wt => ⟨?_, ?_, ?_⟩, fun g => absurd g Bool.false_ne_true⟩
  · show decodeLead (packLI v.isLit wt 0x1A d v.field) (v.litNat) = _
    rw [lead0_packLI (h := by decide) (g := rfl), arm]
    exact (chk_of (by cases v <;> simp_all) (by cases v <;> simp_all)).trans (by cases v <;> simp)
  · show bitAt (packLI v.isLit wt 0x1A d v.field) 31 = _
    rw [bit31_packLI (h := by decide)]; rfl
  · exact wait_packLI (h := by decide) ..
theorem RoundTrip.lithi (d : BitVec 5) (v : Imm 15) : RoundTrip.Statement (.lithi d v) := by
  intro hw
  have arm : ∀ (w l : Nat) (ln : Bool), decodeLead0 (0x1B % 64) w l ln =
      chk true (immOk ln (fI15 w)) (.lithi (fD w) (immOf ln (fI15 w) l)) := fun _ _ _ => rfl
  refine ⟨fun _ wt => ⟨?_, ?_, ?_⟩, fun g => absurd g Bool.false_ne_true⟩
  · show decodeLead (packLI v.isLit wt 0x1B d v.field) (v.litNat) = _
    rw [lead0_packLI (h := by decide) (g := rfl), arm]
    exact (chk_of (by cases v <;> simp_all) (by cases v <;> simp_all)).trans (by cases v <;> simp)
  · show bitAt (packLI v.isLit wt 0x1B d v.field) 31 = _
    rw [bit31_packLI (h := by decide)]; rfl
  · exact wait_packLI (h := by decide) ..
theorem RoundTrip.vlit (d : BitVec 5) (v : Imm 15) : RoundTrip.Statement (.vlit d v) := by
  intro hw
  have hw : (d != 31) = true := hw
  have arm : ∀ (w l : Nat) (ln : Bool), decodeLead0 (0x1C % 64) w l ln =
      chk (fD w != 31) (immOk ln (fI15 w)) (.vlit (fD w) (immOf ln (fI15 w) l)) := fun _ _ _ => rfl
  refine ⟨fun _ wt => ⟨?_, ?_, ?_⟩, fun g => absurd g Bool.false_ne_true⟩
  · show decodeLead (packLI v.isLit wt 0x1C d v.field) (v.litNat) = _
    rw [lead0_packLI (h := by decide) (g := rfl), arm]
    exact (chk_of (by cases v <;> simp_all) (by cases v <;> simp_all)).trans (by cases v <;> simp)
  · show bitAt (packLI v.isLit wt 0x1C d v.field) 31 = _
    rw [bit31_packLI (h := by decide)]; rfl
  · exact wait_packLI (h := by decide) ..
theorem RoundTrip.ldW8 (d : BitVec 5) (a : BitVec 5) (off : Imm 10) : RoundTrip.Statement (.ldW8 d a off) := by
  intro hw
  have arm : ∀ (w l : Nat) (ln : Bool), decodeLead1 (0x40 % 64) w l ln =
      chk true (immOk ln (fI10 w)) (.ldW8 (fD w) (fA w) (immOf ln (fI10 w) l)) := fun _ _ _ => rfl
  refine ⟨fun _ wt => ⟨?_, ?_, ?_⟩, fun g => absurd g Bool.false_ne_true⟩
  · show decodeLead (packLM off.isLit wt 0x40 d a off.field) (off.litNat) = _
    rw [lead1_packLM (h := by decide) (g := rfl), arm]
    exact (chk_of (by cases off <;> simp_all) (by cases off <;> simp_all)).trans (by cases off <;> simp)
  · show bitAt (packLM off.isLit wt 0x40 d a off.field) 31 = _
    rw [bit31_packLM (h := by decide)]; rfl
  · exact wait_packLM (h := by decide) ..
theorem RoundTrip.ldI8 (d : BitVec 5) (a : BitVec 5) (off : Imm 10) : RoundTrip.Statement (.ldI8 d a off) := by
  intro hw
  have arm : ∀ (w l : Nat) (ln : Bool), decodeLead1 (0x41 % 64) w l ln =
      chk true (immOk ln (fI10 w)) (.ldI8 (fD w) (fA w) (immOf ln (fI10 w) l)) := fun _ _ _ => rfl
  refine ⟨fun _ wt => ⟨?_, ?_, ?_⟩, fun g => absurd g Bool.false_ne_true⟩
  · show decodeLead (packLM off.isLit wt 0x41 d a off.field) (off.litNat) = _
    rw [lead1_packLM (h := by decide) (g := rfl), arm]
    exact (chk_of (by cases off <;> simp_all) (by cases off <;> simp_all)).trans (by cases off <;> simp)
  · show bitAt (packLM off.isLit wt 0x41 d a off.field) 31 = _
    rw [bit31_packLM (h := by decide)]; rfl
  · exact wait_packLM (h := by decide) ..
theorem RoundTrip.ldW16 (d : BitVec 5) (a : BitVec 5) (off : Imm 10) : RoundTrip.Statement (.ldW16 d a off) := by
  intro hw
  have arm : ∀ (w l : Nat) (ln : Bool), decodeLead1 (0x42 % 64) w l ln =
      chk true (immOk ln (fI10 w)) (.ldW16 (fD w) (fA w) (immOf ln (fI10 w) l)) := fun _ _ _ => rfl
  refine ⟨fun _ wt => ⟨?_, ?_, ?_⟩, fun g => absurd g Bool.false_ne_true⟩
  · show decodeLead (packLM off.isLit wt 0x42 d a off.field) (off.litNat) = _
    rw [lead1_packLM (h := by decide) (g := rfl), arm]
    exact (chk_of (by cases off <;> simp_all) (by cases off <;> simp_all)).trans (by cases off <;> simp)
  · show bitAt (packLM off.isLit wt 0x42 d a off.field) 31 = _
    rw [bit31_packLM (h := by decide)]; rfl
  · exact wait_packLM (h := by decide) ..
theorem RoundTrip.ldI16 (d : BitVec 5) (a : BitVec 5) (off : Imm 10) : RoundTrip.Statement (.ldI16 d a off) := by
  intro hw
  have arm : ∀ (w l : Nat) (ln : Bool), decodeLead1 (0x43 % 64) w l ln =
      chk true (immOk ln (fI10 w)) (.ldI16 (fD w) (fA w) (immOf ln (fI10 w) l)) := fun _ _ _ => rfl
  refine ⟨fun _ wt => ⟨?_, ?_, ?_⟩, fun g => absurd g Bool.false_ne_true⟩
  · show decodeLead (packLM off.isLit wt 0x43 d a off.field) (off.litNat) = _
    rw [lead1_packLM (h := by decide) (g := rfl), arm]
    exact (chk_of (by cases off <;> simp_all) (by cases off <;> simp_all)).trans (by cases off <;> simp)
  · show bitAt (packLM off.isLit wt 0x43 d a off.field) 31 = _
    rw [bit31_packLM (h := by decide)]; rfl
  · exact wait_packLM (h := by decide) ..
theorem RoundTrip.ldW32 (d : BitVec 5) (a : BitVec 5) (off : Imm 10) : RoundTrip.Statement (.ldW32 d a off) := by
  intro hw
  have arm : ∀ (w l : Nat) (ln : Bool), decodeLead1 (0x44 % 64) w l ln =
      chk true (immOk ln (fI10 w)) (.ldW32 (fD w) (fA w) (immOf ln (fI10 w) l)) := fun _ _ _ => rfl
  refine ⟨fun _ wt => ⟨?_, ?_, ?_⟩, fun g => absurd g Bool.false_ne_true⟩
  · show decodeLead (packLM off.isLit wt 0x44 d a off.field) (off.litNat) = _
    rw [lead1_packLM (h := by decide) (g := rfl), arm]
    exact (chk_of (by cases off <;> simp_all) (by cases off <;> simp_all)).trans (by cases off <;> simp)
  · show bitAt (packLM off.isLit wt 0x44 d a off.field) 31 = _
    rw [bit31_packLM (h := by decide)]; rfl
  · exact wait_packLM (h := by decide) ..
theorem RoundTrip.ldI32 (d : BitVec 5) (a : BitVec 5) (off : Imm 10) : RoundTrip.Statement (.ldI32 d a off) := by
  intro hw
  have arm : ∀ (w l : Nat) (ln : Bool), decodeLead1 (0x45 % 64) w l ln =
      chk true (immOk ln (fI10 w)) (.ldI32 (fD w) (fA w) (immOf ln (fI10 w) l)) := fun _ _ _ => rfl
  refine ⟨fun _ wt => ⟨?_, ?_, ?_⟩, fun g => absurd g Bool.false_ne_true⟩
  · show decodeLead (packLM off.isLit wt 0x45 d a off.field) (off.litNat) = _
    rw [lead1_packLM (h := by decide) (g := rfl), arm]
    exact (chk_of (by cases off <;> simp_all) (by cases off <;> simp_all)).trans (by cases off <;> simp)
  · show bitAt (packLM off.isLit wt 0x45 d a off.field) 31 = _
    rw [bit31_packLM (h := by decide)]; rfl
  · exact wait_packLM (h := by decide) ..
theorem RoundTrip.ldW64 (d : BitVec 5) (a : BitVec 5) (off : Imm 10) : RoundTrip.Statement (.ldW64 d a off) := by
  intro hw
  have arm : ∀ (w l : Nat) (ln : Bool), decodeLead1 (0x46 % 64) w l ln =
      chk true (immOk ln (fI10 w)) (.ldW64 (fD w) (fA w) (immOf ln (fI10 w) l)) := fun _ _ _ => rfl
  refine ⟨fun _ wt => ⟨?_, ?_, ?_⟩, fun g => absurd g Bool.false_ne_true⟩
  · show decodeLead (packLM off.isLit wt 0x46 d a off.field) (off.litNat) = _
    rw [lead1_packLM (h := by decide) (g := rfl), arm]
    exact (chk_of (by cases off <;> simp_all) (by cases off <;> simp_all)).trans (by cases off <;> simp)
  · show bitAt (packLM off.isLit wt 0x46 d a off.field) 31 = _
    rw [bit31_packLM (h := by decide)]; rfl
  · exact wait_packLM (h := by decide) ..
theorem RoundTrip.stW8 (d : BitVec 5) (a : BitVec 5) (off : Imm 10) : RoundTrip.Statement (.stW8 d a off) := by
  intro hw
  have arm : ∀ (w l : Nat) (ln : Bool), decodeLead1 (0x48 % 64) w l ln =
      chk true (immOk ln (fI10 w)) (.stW8 (fD w) (fA w) (immOf ln (fI10 w) l)) := fun _ _ _ => rfl
  refine ⟨fun _ wt => ⟨?_, ?_, ?_⟩, fun g => absurd g Bool.false_ne_true⟩
  · show decodeLead (packLM off.isLit wt 0x48 d a off.field) (off.litNat) = _
    rw [lead1_packLM (h := by decide) (g := rfl), arm]
    exact (chk_of (by cases off <;> simp_all) (by cases off <;> simp_all)).trans (by cases off <;> simp)
  · show bitAt (packLM off.isLit wt 0x48 d a off.field) 31 = _
    rw [bit31_packLM (h := by decide)]; rfl
  · exact wait_packLM (h := by decide) ..
theorem RoundTrip.stW16 (d : BitVec 5) (a : BitVec 5) (off : Imm 10) : RoundTrip.Statement (.stW16 d a off) := by
  intro hw
  have arm : ∀ (w l : Nat) (ln : Bool), decodeLead1 (0x49 % 64) w l ln =
      chk true (immOk ln (fI10 w)) (.stW16 (fD w) (fA w) (immOf ln (fI10 w) l)) := fun _ _ _ => rfl
  refine ⟨fun _ wt => ⟨?_, ?_, ?_⟩, fun g => absurd g Bool.false_ne_true⟩
  · show decodeLead (packLM off.isLit wt 0x49 d a off.field) (off.litNat) = _
    rw [lead1_packLM (h := by decide) (g := rfl), arm]
    exact (chk_of (by cases off <;> simp_all) (by cases off <;> simp_all)).trans (by cases off <;> simp)
  · show bitAt (packLM off.isLit wt 0x49 d a off.field) 31 = _
    rw [bit31_packLM (h := by decide)]; rfl
  · exact wait_packLM (h := by decide) ..
theorem RoundTrip.stW32 (d : BitVec 5) (a : BitVec 5) (off : Imm 10) : RoundTrip.Statement (.stW32 d a off) := by
  intro hw
  have arm : ∀ (w l : Nat) (ln : Bool), decodeLead1 (0x4A % 64) w l ln =
      chk true (immOk ln (fI10 w)) (.stW32 (fD w) (fA w) (immOf ln (fI10 w) l)) := fun _ _ _ => rfl
  refine ⟨fun _ wt => ⟨?_, ?_, ?_⟩, fun g => absurd g Bool.false_ne_true⟩
  · show decodeLead (packLM off.isLit wt 0x4A d a off.field) (off.litNat) = _
    rw [lead1_packLM (h := by decide) (g := rfl), arm]
    exact (chk_of (by cases off <;> simp_all) (by cases off <;> simp_all)).trans (by cases off <;> simp)
  · show bitAt (packLM off.isLit wt 0x4A d a off.field) 31 = _
    rw [bit31_packLM (h := by decide)]; rfl
  · exact wait_packLM (h := by decide) ..
theorem RoundTrip.stW64 (d : BitVec 5) (a : BitVec 5) (off : Imm 10) : RoundTrip.Statement (.stW64 d a off) := by
  intro hw
  have arm : ∀ (w l : Nat) (ln : Bool), decodeLead1 (0x4B % 64) w l ln =
      chk true (immOk ln (fI10 w)) (.stW64 (fD w) (fA w) (immOf ln (fI10 w) l)) := fun _ _ _ => rfl
  refine ⟨fun _ wt => ⟨?_, ?_, ?_⟩, fun g => absurd g Bool.false_ne_true⟩
  · show decodeLead (packLM off.isLit wt 0x4B d a off.field) (off.litNat) = _
    rw [lead1_packLM (h := by decide) (g := rfl), arm]
    exact (chk_of (by cases off <;> simp_all) (by cases off <;> simp_all)).trans (by cases off <;> simp)
  · show bitAt (packLM off.isLit wt 0x4B d a off.field) 31 = _
    rw [bit31_packLM (h := by decide)]; rfl
  · exact wait_packLM (h := by decide) ..
theorem RoundTrip.ldx (d : BitVec 5) (a : BitVec 5) (b : BitVec 5) (sc : Bool) (sz : LdSz) (off : Option (BitVec 32)) : RoundTrip.Statement (.ldx d a b sc sz off) := by
  intro hw
  have arm : ∀ (w l : Nat) (ln : Bool), decodeLead1 (0x4C % 64) w l ln =
      code (ldszOf (xlo (fX w))) fun z => chk true (!bitAt w 4) (.ldx (fD w) (fA w) (fB w) (bitAt w 3) z (offOf ln l)) := fun _ _ _ => rfl
  refine ⟨fun _ wt => ⟨?_, ?_, ?_⟩, fun g => absurd g Bool.false_ne_true⟩
  · show decodeLead (packLR off.isSome wt 0x4C d a b (x5 (bit1 sc) sz.code)) (litOf off) = _
    rw [lead1_packLR (h := by decide) (g := rfl), arm]
    refine (code_of (a := sz) (by simp)).trans ?_
    exact (chk_of (by cases off <;> simp_all) (by cases off <;> simp_all)).trans (by cases off <;> simp)
  · show bitAt (packLR off.isSome wt 0x4C d a b (x5 (bit1 sc) sz.code)) 31 = _
    rw [bit31_packLR (h := by decide)]; rfl
  · exact wait_packLR (h := by decide) ..
theorem RoundTrip.stx (d : BitVec 5) (a : BitVec 5) (b : BitVec 5) (sc : Bool) (sz : ESz) (off : Option (BitVec 32)) : RoundTrip.Statement (.stx d a b sc sz off) := by
  intro hw
  have arm : ∀ (w l : Nat) (ln : Bool), decodeLead1 (0x4D % 64) w l ln =
      code (stszOf (xlo (fX w))) fun z => chk true (!bitAt w 4) (.stx (fD w) (fA w) (fB w) (bitAt w 3) z (offOf ln l)) := fun _ _ _ => rfl
  refine ⟨fun _ wt => ⟨?_, ?_, ?_⟩, fun g => absurd g Bool.false_ne_true⟩
  · show decodeLead (packLR off.isSome wt 0x4D d a b (x5 (bit1 sc) sz.stCode)) (litOf off) = _
    rw [lead1_packLR (h := by decide) (g := rfl), arm]
    refine (code_of (a := sz) (by simp)).trans ?_
    exact (chk_of (by cases off <;> simp_all) (by cases off <;> simp_all)).trans (by cases off <;> simp)
  · show bitAt (packLR off.isSome wt 0x4D d a b (x5 (bit1 sc) sz.stCode)) 31 = _
    rw [bit31_packLR (h := by decide)]; rfl
  · exact wait_packLR (h := by decide) ..
theorem RoundTrip.vld (d : BitVec 5) (a : BitVec 5) (off : Imm 10) : RoundTrip.Statement (.vld d a off) := by
  intro hw
  have hw : (d != 31) = true := hw
  have arm : ∀ (w l : Nat) (ln : Bool), decodeLead1 (0x4E % 64) w l ln =
      chk (fD w != 31) (immOk ln (fI10 w)) (.vld (fD w) (fA w) (immOf ln (fI10 w) l)) := fun _ _ _ => rfl
  refine ⟨fun _ wt => ⟨?_, ?_, ?_⟩, fun g => absurd g Bool.false_ne_true⟩
  · show decodeLead (packLM off.isLit wt 0x4E d a off.field) (off.litNat) = _
    rw [lead1_packLM (h := by decide) (g := rfl), arm]
    exact (chk_of (by cases off <;> simp_all) (by cases off <;> simp_all)).trans (by cases off <;> simp)
  · show bitAt (packLM off.isLit wt 0x4E d a off.field) 31 = _
    rw [bit31_packLM (h := by decide)]; rfl
  · exact wait_packLM (h := by decide) ..
theorem RoundTrip.vst (d : BitVec 5) (a : BitVec 5) (off : Imm 10) : RoundTrip.Statement (.vst d a off) := by
  intro hw
  have arm : ∀ (w l : Nat) (ln : Bool), decodeLead1 (0x4F % 64) w l ln =
      chk true (immOk ln (fI10 w)) (.vst (fD w) (fA w) (immOf ln (fI10 w) l)) := fun _ _ _ => rfl
  refine ⟨fun _ wt => ⟨?_, ?_, ?_⟩, fun g => absurd g Bool.false_ne_true⟩
  · show decodeLead (packLM off.isLit wt 0x4F d a off.field) (off.litNat) = _
    rw [lead1_packLM (h := by decide) (g := rfl), arm]
    exact (chk_of (by cases off <;> simp_all) (by cases off <;> simp_all)).trans (by cases off <;> simp)
  · show bitAt (packLM off.isLit wt 0x4F d a off.field) 31 = _
    rw [bit31_packLM (h := by decide)]; rfl
  · exact wait_packLM (h := by decide) ..
theorem RoundTrip.vlds (d : BitVec 5) (a : BitVec 5) (b : BitVec 5) (e : ESz) (p : BitVec 3) (off : Option (BitVec 32)) : RoundTrip.Statement (.vlds d a b e p off) := by
  intro hw
  have hw : (d != 31) = true := hw
  have arm : ∀ (w l : Nat) (ln : Bool), decodeLead1 (0x50 % 64) w l ln =
      chk (fD w != 31) true (.vlds (fD w) (fA w) (fB w) (eszOf (xhi (fX w))) (xlo (fX w)) (offOf ln l)) := fun _ _ _ => rfl
  refine ⟨fun _ wt => ⟨?_, ?_, ?_⟩, fun g => absurd g Bool.false_ne_true⟩
  · show decodeLead (packLR off.isSome wt 0x50 d a b (x5 e.code p)) (litOf off) = _
    rw [lead1_packLR (h := by decide) (g := rfl), arm]
    exact (chk_of (by cases off <;> simp_all) (by cases off <;> simp_all)).trans (by cases off <;> simp)
  · show bitAt (packLR off.isSome wt 0x50 d a b (x5 e.code p)) 31 = _
    rw [bit31_packLR (h := by decide)]; rfl
  · exact wait_packLR (h := by decide) ..
theorem RoundTrip.vsts (d : BitVec 5) (a : BitVec 5) (b : BitVec 5) (e : ESz) (p : BitVec 3) (off : Option (BitVec 32)) : RoundTrip.Statement (.vsts d a b e p off) := by
  intro hw
  have arm : ∀ (w l : Nat) (ln : Bool), decodeLead1 (0x51 % 64) w l ln =
      chk true true (.vsts (fD w) (fA w) (fB w) (eszOf (xhi (fX w))) (xlo (fX w)) (offOf ln l)) := fun _ _ _ => rfl
  refine ⟨fun _ wt => ⟨?_, ?_, ?_⟩, fun g => absurd g Bool.false_ne_true⟩
  · show decodeLead (packLR off.isSome wt 0x51 d a b (x5 e.code p)) (litOf off) = _
    rw [lead1_packLR (h := by decide) (g := rfl), arm]
    exact (chk_of (by cases off <;> simp_all) (by cases off <;> simp_all)).trans (by cases off <;> simp)
  · show bitAt (packLR off.isSome wt 0x51 d a b (x5 e.code p)) 31 = _
    rw [bit31_packLR (h := by decide)]; rfl
  · exact wait_packLR (h := by decide) ..
theorem RoundTrip.vgat (d : BitVec 5) (a : BitVec 5) (b : BitVec 5) (e : ESz) (p : BitVec 3) (off : Option (BitVec 32)) : RoundTrip.Statement (.vgat d a b e p off) := by
  intro hw
  have hw : (d != 31 && e.wide) = true := hw
  have arm : ∀ (w l : Nat) (ln : Bool), decodeLead1 (0x52 % 64) w l ln =
      chk (fD w != 31 && (eszOf (xhi (fX w))).wide) true (.vgat (fD w) (fA w) (fB w) (eszOf (xhi (fX w))) (xlo (fX w)) (offOf ln l)) := fun _ _ _ => rfl
  refine ⟨fun _ wt => ⟨?_, ?_, ?_⟩, fun g => absurd g Bool.false_ne_true⟩
  · show decodeLead (packLR off.isSome wt 0x52 d a b (x5 e.code p)) (litOf off) = _
    rw [lead1_packLR (h := by decide) (g := rfl), arm]
    exact (chk_of (by cases off <;> simp_all) (by cases off <;> simp_all)).trans (by cases off <;> simp)
  · show bitAt (packLR off.isSome wt 0x52 d a b (x5 e.code p)) 31 = _
    rw [bit31_packLR (h := by decide)]; rfl
  · exact wait_packLR (h := by decide) ..
theorem RoundTrip.vsct (d : BitVec 5) (a : BitVec 5) (b : BitVec 5) (e : ESz) (p : BitVec 3) (off : Option (BitVec 32)) : RoundTrip.Statement (.vsct d a b e p off) := by
  intro hw
  have hw : (e.wide) = true := hw
  have arm : ∀ (w l : Nat) (ln : Bool), decodeLead1 (0x53 % 64) w l ln =
      chk (eszOf (xhi (fX w))).wide true (.vsct (fD w) (fA w) (fB w) (eszOf (xhi (fX w))) (xlo (fX w)) (offOf ln l)) := fun _ _ _ => rfl
  refine ⟨fun _ wt => ⟨?_, ?_, ?_⟩, fun g => absurd g Bool.false_ne_true⟩
  · show decodeLead (packLR off.isSome wt 0x53 d a b (x5 e.code p)) (litOf off) = _
    rw [lead1_packLR (h := by decide) (g := rfl), arm]
    exact (chk_of (by cases off <;> simp_all) (by cases off <;> simp_all)).trans (by cases off <;> simp)
  · show bitAt (packLR off.isSome wt 0x53 d a b (x5 e.code p)) 31 = _
    rw [bit31_packLR (h := by decide)]; rfl
  · exact wait_packLR (h := by decide) ..
theorem RoundTrip.vldb (d : BitVec 5) (a : BitVec 5) (e : ESz) (p : BitVec 3) (off : Option (BitVec 32)) : RoundTrip.Statement (.vldb d a e p off) := by
  intro hw
  have hw : (d != 31) = true := hw
  have arm : ∀ (w l : Nat) (ln : Bool), decodeLead1 (0x54 % 64) w l ln =
      chk (fD w != 31) (fB w == 0) (.vldb (fD w) (fA w) (eszOf (xhi (fX w))) (xlo (fX w)) (offOf ln l)) := fun _ _ _ => rfl
  refine ⟨fun _ wt => ⟨?_, ?_, ?_⟩, fun g => absurd g Bool.false_ne_true⟩
  · show decodeLead (packLR off.isSome wt 0x54 d a 0 (x5 e.code p)) (litOf off) = _
    rw [lead1_packLR (h := by decide) (g := rfl), arm]
    exact (chk_of (by cases off <;> simp_all) (by cases off <;> simp_all)).trans (by cases off <;> simp)
  · show bitAt (packLR off.isSome wt 0x54 d a 0 (x5 e.code p)) 31 = _
    rw [bit31_packLR (h := by decide)]; rfl
  · exact wait_packLR (h := by decide) ..
theorem RoundTrip.ldsync (d : BitVec 5) (a : BitVec 5) (sz : LdSz) (off : Option (BitVec 32)) : RoundTrip.Statement (.ldsync d a sz off) := by
  intro hw
  have arm : ∀ (w l : Nat) (ln : Bool), decodeLead1 (0x55 % 64) w l ln =
      code (ldszOf (xlo (fX w))) fun z => chk true (fB w == 0 && xhi (fX w) == 0) (.ldsync (fD w) (fA w) z (offOf ln l)) := fun _ _ _ => rfl
  refine ⟨fun _ wt => ⟨?_, ?_, ?_⟩, fun g => absurd g Bool.false_ne_true⟩
  · show decodeLead (packLR off.isSome wt 0x55 d a 0 (x5 0 sz.code)) (litOf off) = _
    rw [lead1_packLR (h := by decide) (g := rfl), arm]
    refine (code_of (a := sz) (by simp)).trans ?_
    exact (chk_of (by cases off <;> simp_all) (by cases off <;> simp_all)).trans (by cases off <;> simp)
  · show bitAt (packLR off.isSome wt 0x55 d a 0 (x5 0 sz.code)) 31 = _
    rw [bit31_packLR (h := by decide)]; rfl
  · exact wait_packLR (h := by decide) ..
theorem RoundTrip.vldsync (d : BitVec 5) (a : BitVec 5) (off : Imm 10) : RoundTrip.Statement (.vldsync d a off) := by
  intro hw
  have hw : (d != 31) = true := hw
  have arm : ∀ (w l : Nat) (ln : Bool), decodeLead1 (0x56 % 64) w l ln =
      chk (fD w != 31) (immOk ln (fI10 w)) (.vldsync (fD w) (fA w) (immOf ln (fI10 w) l)) := fun _ _ _ => rfl
  refine ⟨fun _ wt => ⟨?_, ?_, ?_⟩, fun g => absurd g Bool.false_ne_true⟩
  · show decodeLead (packLM off.isLit wt 0x56 d a off.field) (off.litNat) = _
    rw [lead1_packLM (h := by decide) (g := rfl), arm]
    exact (chk_of (by cases off <;> simp_all) (by cases off <;> simp_all)).trans (by cases off <;> simp)
  · show bitAt (packLM off.isLit wt 0x56 d a off.field) 31 = _
    rw [bit31_packLM (h := by decide)]; rfl
  · exact wait_packLM (h := by decide) ..
theorem RoundTrip.stfull (d : BitVec 5) (a : BitVec 5) (off : Imm 10) : RoundTrip.Statement (.stfull d a off) := by
  intro hw
  have arm : ∀ (w l : Nat) (ln : Bool), decodeLead1 (0x57 % 64) w l ln =
      chk true (immOk ln (fI10 w)) (.stfull (fD w) (fA w) (immOf ln (fI10 w) l)) := fun _ _ _ => rfl
  refine ⟨fun _ wt => ⟨?_, ?_, ?_⟩, fun g => absurd g Bool.false_ne_true⟩
  · show decodeLead (packLM off.isLit wt 0x57 d a off.field) (off.litNat) = _
    rw [lead1_packLM (h := by decide) (g := rfl), arm]
    exact (chk_of (by cases off <;> simp_all) (by cases off <;> simp_all)).trans (by cases off <;> simp)
  · show bitAt (packLM off.isLit wt 0x57 d a off.field) 31 = _
    rw [bit31_packLM (h := by decide)]; rfl
  · exact wait_packLM (h := by decide) ..
theorem RoundTrip.vstfull (d : BitVec 5) (a : BitVec 5) (off : Imm 10) : RoundTrip.Statement (.vstfull d a off) := by
  intro hw
  have arm : ∀ (w l : Nat) (ln : Bool), decodeLead1 (0x58 % 64) w l ln =
      chk true (immOk ln (fI10 w)) (.vstfull (fD w) (fA w) (immOf ln (fI10 w) l)) := fun _ _ _ => rfl
  refine ⟨fun _ wt => ⟨?_, ?_, ?_⟩, fun g => absurd g Bool.false_ne_true⟩
  · show decodeLead (packLM off.isLit wt 0x58 d a off.field) (off.litNat) = _
    rw [lead1_packLM (h := by decide) (g := rfl), arm]
    exact (chk_of (by cases off <;> simp_all) (by cases off <;> simp_all)).trans (by cases off <;> simp)
  · show bitAt (packLM off.isLit wt 0x58 d a off.field) 31 = _
    rw [bit31_packLM (h := by decide)]; rfl
  · exact wait_packLM (h := by decide) ..
theorem RoundTrip.femp (a : BitVec 5) (b : BitVec 5) (off : Option (BitVec 32)) : RoundTrip.Statement (.femp a b off) := by
  intro hw
  have arm : ∀ (w l : Nat) (ln : Bool), decodeLead1 (0x59 % 64) w l ln =
      chk true (fD w == 0 && fX w == 0) (.femp (fA w) (fB w) (offOf ln l)) := fun _ _ _ => rfl
  refine ⟨fun _ wt => ⟨?_, ?_, ?_⟩, fun g => absurd g Bool.false_ne_true⟩
  · show decodeLead (packLR off.isSome wt 0x59 0 a b 0) (litOf off) = _
    rw [lead1_packLR (h := by decide) (g := rfl), arm]
    exact (chk_of (by cases off <;> simp_all) (by cases off <;> simp_all)).trans (by cases off <;> simp)
  · show bitAt (packLR off.isSome wt 0x59 0 a b 0) 31 = _
    rw [bit31_packLR (h := by decide)]; rfl
  · exact wait_packLR (h := by decide) ..
theorem RoundTrip.ldacq (d : BitVec 5) (a : BitVec 5) (sz : ESz) (sc : Scope) (off : Option (BitVec 32)) : RoundTrip.Statement (.ldacq d a sz sc off) := by
  intro hw
  have arm : ∀ (w l : Nat) (ln : Bool), decodeLead1 (0x5A % 64) w l ln =
      code (scopeOf (xlo (fX w))) fun sc => chk true (fB w == 0) (.ldacq (fD w) (fA w) (eszOf (xhi (fX w))) sc (offOf ln l)) := fun _ _ _ => rfl
  refine ⟨fun _ wt => ⟨?_, ?_, ?_⟩, fun g => absurd g Bool.false_ne_true⟩
  · show decodeLead (packLR off.isSome wt 0x5A d a 0 (x5 sz.code sc.code)) (litOf off) = _
    rw [lead1_packLR (h := by decide) (g := rfl), arm]
    refine (code_of (a := sc) (by simp)).trans ?_
    exact (chk_of (by cases off <;> simp_all) (by cases off <;> simp_all)).trans (by cases off <;> simp)
  · show bitAt (packLR off.isSome wt 0x5A d a 0 (x5 sz.code sc.code)) 31 = _
    rw [bit31_packLR (h := by decide)]; rfl
  · exact wait_packLR (h := by decide) ..
theorem RoundTrip.strel (d : BitVec 5) (a : BitVec 5) (sz : ESz) (sc : Scope) (off : Option (BitVec 32)) : RoundTrip.Statement (.strel d a sz sc off) := by
  intro hw
  have arm : ∀ (w l : Nat) (ln : Bool), decodeLead1 (0x5B % 64) w l ln =
      code (scopeOf (xlo (fX w))) fun sc => chk true (fB w == 0) (.strel (fD w) (fA w) (eszOf (xhi (fX w))) sc (offOf ln l)) := fun _ _ _ => rfl
  refine ⟨fun _ wt => ⟨?_, ?_, ?_⟩, fun g => absurd g Bool.false_ne_true⟩
  · show decodeLead (packLR off.isSome wt 0x5B d a 0 (x5 sz.code sc.code)) (litOf off) = _
    rw [lead1_packLR (h := by decide) (g := rfl), arm]
    refine (code_of (a := sc) (by simp)).trans ?_
    exact (chk_of (by cases off <;> simp_all) (by cases off <;> simp_all)).trans (by cases off <;> simp)
  · show bitAt (packLR off.isSome wt 0x5B d a 0 (x5 sz.code sc.code)) 31 = _
    rw [bit31_packLR (h := by decide)]; rfl
  · exact wait_packLR (h := by decide) ..
theorem RoundTrip.afadd (d : BitVec 5) (a : BitVec 5) (b : BitVec 5) (t : ATy) (sc : Scope) (off : Option (BitVec 32)) : RoundTrip.Statement (.afadd d a b t sc off) := by
  intro hw
  have arm : ∀ (w l : Nat) (ln : Bool), decodeLead1 (0x5C % 64) w l ln =
      code (scopeOf (xlo (fX w))) fun sc => chk true true (.afadd (fD w) (fA w) (fB w) (atyOf (xhi (fX w))) sc (offOf ln l)) := fun _ _ _ => rfl
  refine ⟨fun _ wt => ⟨?_, ?_, ?_⟩, fun g => absurd g Bool.false_ne_true⟩
  · show decodeLead (packLR off.isSome wt 0x5C d a b (x5 t.code sc.code)) (litOf off) = _
    rw [lead1_packLR (h := by decide) (g := rfl), arm]
    refine (code_of (a := sc) (by simp)).trans ?_
    exact (chk_of (by cases off <;> simp_all) (by cases off <;> simp_all)).trans (by cases off <;> simp)
  · show bitAt (packLR off.isSome wt 0x5C d a b (x5 t.code sc.code)) 31 = _
    rw [bit31_packLR (h := by decide)]; rfl
  · exact wait_packLR (h := by decide) ..
theorem RoundTrip.afmin (d : BitVec 5) (a : BitVec 5) (b : BitVec 5) (t : ATy) (sc : Scope) (off : Option (BitVec 32)) : RoundTrip.Statement (.afmin d a b t sc off) := by
  intro hw
  have arm : ∀ (w l : Nat) (ln : Bool), decodeLead1 (0x5D % 64) w l ln =
      code (scopeOf (xlo (fX w))) fun sc => chk true true (.afmin (fD w) (fA w) (fB w) (atyOf (xhi (fX w))) sc (offOf ln l)) := fun _ _ _ => rfl
  refine ⟨fun _ wt => ⟨?_, ?_, ?_⟩, fun g => absurd g Bool.false_ne_true⟩
  · show decodeLead (packLR off.isSome wt 0x5D d a b (x5 t.code sc.code)) (litOf off) = _
    rw [lead1_packLR (h := by decide) (g := rfl), arm]
    refine (code_of (a := sc) (by simp)).trans ?_
    exact (chk_of (by cases off <;> simp_all) (by cases off <;> simp_all)).trans (by cases off <;> simp)
  · show bitAt (packLR off.isSome wt 0x5D d a b (x5 t.code sc.code)) 31 = _
    rw [bit31_packLR (h := by decide)]; rfl
  · exact wait_packLR (h := by decide) ..
theorem RoundTrip.afmax (d : BitVec 5) (a : BitVec 5) (b : BitVec 5) (t : ATy) (sc : Scope) (off : Option (BitVec 32)) : RoundTrip.Statement (.afmax d a b t sc off) := by
  intro hw
  have arm : ∀ (w l : Nat) (ln : Bool), decodeLead1 (0x5E % 64) w l ln =
      code (scopeOf (xlo (fX w))) fun sc => chk true true (.afmax (fD w) (fA w) (fB w) (atyOf (xhi (fX w))) sc (offOf ln l)) := fun _ _ _ => rfl
  refine ⟨fun _ wt => ⟨?_, ?_, ?_⟩, fun g => absurd g Bool.false_ne_true⟩
  · show decodeLead (packLR off.isSome wt 0x5E d a b (x5 t.code sc.code)) (litOf off) = _
    rw [lead1_packLR (h := by decide) (g := rfl), arm]
    refine (code_of (a := sc) (by simp)).trans ?_
    exact (chk_of (by cases off <;> simp_all) (by cases off <;> simp_all)).trans (by cases off <;> simp)
  · show bitAt (packLR off.isSome wt 0x5E d a b (x5 t.code sc.code)) 31 = _
    rw [bit31_packLR (h := by decide)]; rfl
  · exact wait_packLR (h := by decide) ..
theorem RoundTrip.afand (d : BitVec 5) (a : BitVec 5) (b : BitVec 5) (t : ATy) (sc : Scope) (off : Option (BitVec 32)) : RoundTrip.Statement (.afand d a b t sc off) := by
  intro hw
  have arm : ∀ (w l : Nat) (ln : Bool), decodeLead1 (0x5F % 64) w l ln =
      code (scopeOf (xlo (fX w))) fun sc => chk true true (.afand (fD w) (fA w) (fB w) (atyOf (xhi (fX w))) sc (offOf ln l)) := fun _ _ _ => rfl
  refine ⟨fun _ wt => ⟨?_, ?_, ?_⟩, fun g => absurd g Bool.false_ne_true⟩
  · show decodeLead (packLR off.isSome wt 0x5F d a b (x5 t.code sc.code)) (litOf off) = _
    rw [lead1_packLR (h := by decide) (g := rfl), arm]
    refine (code_of (a := sc) (by simp)).trans ?_
    exact (chk_of (by cases off <;> simp_all) (by cases off <;> simp_all)).trans (by cases off <;> simp)
  · show bitAt (packLR off.isSome wt 0x5F d a b (x5 t.code sc.code)) 31 = _
    rw [bit31_packLR (h := by decide)]; rfl
  · exact wait_packLR (h := by decide) ..
theorem RoundTrip.afor (d : BitVec 5) (a : BitVec 5) (b : BitVec 5) (t : ATy) (sc : Scope) (off : Option (BitVec 32)) : RoundTrip.Statement (.afor d a b t sc off) := by
  intro hw
  have arm : ∀ (w l : Nat) (ln : Bool), decodeLead1 (0x60 % 64) w l ln =
      code (scopeOf (xlo (fX w))) fun sc => chk true true (.afor (fD w) (fA w) (fB w) (atyOf (xhi (fX w))) sc (offOf ln l)) := fun _ _ _ => rfl
  refine ⟨fun _ wt => ⟨?_, ?_, ?_⟩, fun g => absurd g Bool.false_ne_true⟩
  · show decodeLead (packLR off.isSome wt 0x60 d a b (x5 t.code sc.code)) (litOf off) = _
    rw [lead1_packLR (h := by decide) (g := rfl), arm]
    refine (code_of (a := sc) (by simp)).trans ?_
    exact (chk_of (by cases off <;> simp_all) (by cases off <;> simp_all)).trans (by cases off <;> simp)
  · show bitAt (packLR off.isSome wt 0x60 d a b (x5 t.code sc.code)) 31 = _
    rw [bit31_packLR (h := by decide)]; rfl
  · exact wait_packLR (h := by decide) ..
theorem RoundTrip.afxor (d : BitVec 5) (a : BitVec 5) (b : BitVec 5) (t : ATy) (sc : Scope) (off : Option (BitVec 32)) : RoundTrip.Statement (.afxor d a b t sc off) := by
  intro hw
  have arm : ∀ (w l : Nat) (ln : Bool), decodeLead1 (0x61 % 64) w l ln =
      code (scopeOf (xlo (fX w))) fun sc => chk true true (.afxor (fD w) (fA w) (fB w) (atyOf (xhi (fX w))) sc (offOf ln l)) := fun _ _ _ => rfl
  refine ⟨fun _ wt => ⟨?_, ?_, ?_⟩, fun g => absurd g Bool.false_ne_true⟩
  · show decodeLead (packLR off.isSome wt 0x61 d a b (x5 t.code sc.code)) (litOf off) = _
    rw [lead1_packLR (h := by decide) (g := rfl), arm]
    refine (code_of (a := sc) (by simp)).trans ?_
    exact (chk_of (by cases off <;> simp_all) (by cases off <;> simp_all)).trans (by cases off <;> simp)
  · show bitAt (packLR off.isSome wt 0x61 d a b (x5 t.code sc.code)) 31 = _
    rw [bit31_packLR (h := by decide)]; rfl
  · exact wait_packLR (h := by decide) ..
theorem RoundTrip.aswap (d : BitVec 5) (a : BitVec 5) (b : BitVec 5) (t : ATy) (sc : Scope) (off : Option (BitVec 32)) : RoundTrip.Statement (.aswap d a b t sc off) := by
  intro hw
  have arm : ∀ (w l : Nat) (ln : Bool), decodeLead1 (0x62 % 64) w l ln =
      code (scopeOf (xlo (fX w))) fun sc => chk true true (.aswap (fD w) (fA w) (fB w) (atyOf (xhi (fX w))) sc (offOf ln l)) := fun _ _ _ => rfl
  refine ⟨fun _ wt => ⟨?_, ?_, ?_⟩, fun g => absurd g Bool.false_ne_true⟩
  · show decodeLead (packLR off.isSome wt 0x62 d a b (x5 t.code sc.code)) (litOf off) = _
    rw [lead1_packLR (h := by decide) (g := rfl), arm]
    refine (code_of (a := sc) (by simp)).trans ?_
    exact (chk_of (by cases off <;> simp_all) (by cases off <;> simp_all)).trans (by cases off <;> simp)
  · show bitAt (packLR off.isSome wt 0x62 d a b (x5 t.code sc.code)) 31 = _
    rw [bit31_packLR (h := by decide)]; rfl
  · exact wait_packLR (h := by decide) ..
theorem RoundTrip.affadd (d : BitVec 5) (a : BitVec 5) (b : BitVec 5) (sc : Scope) (off : Option (BitVec 32)) : RoundTrip.Statement (.affadd d a b sc off) := by
  intro hw
  have arm : ∀ (w l : Nat) (ln : Bool), decodeLead1 (0x63 % 64) w l ln =
      code (scopeOf (xlo (fX w))) fun sc => chk (xhi (fX w) == 0) true (.affadd (fD w) (fA w) (fB w) sc (offOf ln l)) := fun _ _ _ => rfl
  refine ⟨fun _ wt => ⟨?_, ?_, ?_⟩, fun g => absurd g Bool.false_ne_true⟩
  · show decodeLead (packLR off.isSome wt 0x63 d a b (x5 0 sc.code)) (litOf off) = _
    rw [lead1_packLR (h := by decide) (g := rfl), arm]
    refine (code_of (a := sc) (by simp)).trans ?_
    exact (chk_of (by cases off <;> simp_all) (by cases off <;> simp_all)).trans (by cases off <;> simp)
  · show bitAt (packLR off.isSome wt 0x63 d a b (x5 0 sc.code)) 31 = _
    rw [bit31_packLR (h := by decide)]; rfl
  · exact wait_packLR (h := by decide) ..
theorem RoundTrip.acas (d : BitVec 5) (a : BitVec 5) (b : BitVec 5) (t : ATy) (sc : Scope) (off : BitVec 24) (new : BitVec 5) : RoundTrip.Statement (.acas d a b t sc off new) := by
  intro hw
  have arm : ∀ (w l : Nat), decodeLead1 (0x64 % 64) w l true =
      code (scopeOf (xlo (fX w))) fun sc =>
      chk true (nOf 3 l 5 == 0) (.acas (fD w) (fA w) (fB w) (atyOf (xhi (fX w))) sc (nOf 24 l 8) (nOf 5 l 0)) := fun _ _ => rfl
  refine ⟨fun _ wt => ⟨?_, ?_, ?_⟩, fun g => absurd g Bool.false_ne_true⟩
  · show decodeLead (packLR true wt 0x64 d a b (x5 t.code sc.code)) (off.toNat * 2 ^ 8 + new.toNat) = _
    rw [lead1_packLR (h := by decide) (g := rfl), arm]
    refine (code_of (a := sc) (by simp)).trans ?_
    exact (chk_of (by simp_all) (by simp_all)).trans (by simp)
  · show bitAt (packLR true wt 0x64 d a b (x5 t.code sc.code)) 31 = _
    rw [bit31_packLR (h := by decide)]; rfl
  · exact wait_packLR (h := by decide) ..
theorem RoundTrip.pref (a : BitVec 5) (lvl : Lvl) (off : Option (BitVec 32)) : RoundTrip.Statement (.pref a lvl off) := by
  intro hw
  have arm : ∀ (w l : Nat) (ln : Bool), decodeLead1 (0x65 % 64) w l ln =
      code (lvlOf (nOf 2 w 0)) fun v => chk true (fD w == 0 && fB w == 0 && nOf 3 w 2 == 0) (.pref (fA w) v (offOf ln l)) := fun _ _ _ => rfl
  refine ⟨fun _ wt => ⟨?_, ?_, ?_⟩, fun g => absurd g Bool.false_ne_true⟩
  · show decodeLead (packLR off.isSome wt 0x65 0 a 0 (x5 0 (lvl.code.setWidth 3))) (litOf off) = _
    rw [lead1_packLR (h := by decide) (g := rfl), arm]
    refine (code_of (a := lvl) (by simp)).trans ?_
    exact (chk_of (by cases off <;> simp_all) (by cases off <;> simp_all)).trans (by cases off <;> simp)
  · show bitAt (packLR off.isSome wt 0x65 0 a 0 (x5 0 (lvl.code.setWidth 3))) 31 = _
    rw [bit31_packLR (h := by decide)]; rfl
  · exact wait_packLR (h := by decide) ..
theorem RoundTrip.pin (d : BitVec 5) (a : BitVec 5) (b : BitVec 5) (l3 : Bool) (off : Option (BitVec 32)) : RoundTrip.Statement (.pin d a b l3 off) := by
  intro hw
  have arm : ∀ (w l : Nat) (ln : Bool), decodeLead1 (0x66 % 64) w l ln =
      chk true (nOf 4 w 1 == 0) (.pin (fD w) (fA w) (fB w) (bitAt w 0) (offOf ln l)) := fun _ _ _ => rfl
  refine ⟨fun _ wt => ⟨?_, ?_, ?_⟩, fun g => absurd g Bool.false_ne_true⟩
  · show decodeLead (packLR off.isSome wt 0x66 d a b (x5 0 (bit3 l3))) (litOf off) = _
    rw [lead1_packLR (h := by decide) (g := rfl), arm]
    exact (chk_of (by cases off <;> simp_all) (by cases off <;> simp_all)).trans (by cases off <;> simp)
  · show bitAt (packLR off.isSome wt 0x66 d a b (x5 0 (bit3 l3))) 31 = _
    rw [bit31_packLR (h := by decide)]; rfl
  · exact wait_packLR (h := by decide) ..
theorem RoundTrip.unpin (a : BitVec 5) (b : BitVec 5) (l3 : Bool) (off : Option (BitVec 32)) : RoundTrip.Statement (.unpin a b l3 off) := by
  intro hw
  have arm : ∀ (w l : Nat) (ln : Bool), decodeLead1 (0x67 % 64) w l ln =
      chk true (fD w == 0 && nOf 4 w 1 == 0) (.unpin (fA w) (fB w) (bitAt w 0) (offOf ln l)) := fun _ _ _ => rfl
  refine ⟨fun _ wt => ⟨?_, ?_, ?_⟩, fun g => absurd g Bool.false_ne_true⟩
  · show decodeLead (packLR off.isSome wt 0x67 0 a b (x5 0 (bit3 l3))) (litOf off) = _
    rw [lead1_packLR (h := by decide) (g := rfl), arm]
    exact (chk_of (by cases off <;> simp_all) (by cases off <;> simp_all)).trans (by cases off <;> simp)
  · show bitAt (packLR off.isSome wt 0x67 0 a b (x5 0 (bit3 l3))) 31 = _
    rw [bit31_packLR (h := by decide)]; rfl
  · exact wait_packLR (h := by decide) ..
theorem RoundTrip.cflush (a : BitVec 5) (b : BitVec 5) (off : Option (BitVec 32)) : RoundTrip.Statement (.cflush a b off) := by
  intro hw
  have arm : ∀ (w l : Nat) (ln : Bool), decodeLead1 (0x68 % 64) w l ln =
      chk true (fD w == 0 && fX w == 0) (.cflush (fA w) (fB w) (offOf ln l)) := fun _ _ _ => rfl
  refine ⟨fun _ wt => ⟨?_, ?_, ?_⟩, fun g => absurd g Bool.false_ne_true⟩
  · show decodeLead (packLR off.isSome wt 0x68 0 a b 0) (litOf off) = _
    rw [lead1_packLR (h := by decide) (g := rfl), arm]
    exact (chk_of (by cases off <;> simp_all) (by cases off <;> simp_all)).trans (by cases off <;> simp)
  · show bitAt (packLR off.isSome wt 0x68 0 a b 0) 31 = _
    rw [bit31_packLR (h := by decide)]; rfl
  · exact wait_packLR (h := by decide) ..
theorem RoundTrip.cinv (a : BitVec 5) (b : BitVec 5) (off : Option (BitVec 32)) : RoundTrip.Statement (.cinv a b off) := by
  intro hw
  have arm : ∀ (w l : Nat) (ln : Bool), decodeLead1 (0x69 % 64) w l ln =
      chk true (fD w == 0 && fX w == 0) (.cinv (fA w) (fB w) (offOf ln l)) := fun _ _ _ => rfl
  refine ⟨fun _ wt => ⟨?_, ?_, ?_⟩, fun g => absurd g Bool.false_ne_true⟩
  · show decodeLead (packLR off.isSome wt 0x69 0 a b 0) (litOf off) = _
    rw [lead1_packLR (h := by decide) (g := rfl), arm]
    exact (chk_of (by cases off <;> simp_all) (by cases off <;> simp_all)).trans (by cases off <;> simp)
  · show bitAt (packLR off.isSome wt 0x69 0 a b 0) 31 = _
    rw [bit31_packLR (h := by decide)]; rfl
  · exact wait_packLR (h := by decide) ..
theorem RoundTrip.copy (h : BitVec 4) (d : BitVec 5) (s : BitVec 5) (n : BitVec 5) (fl : Option CopyFlags) : RoundTrip.Statement (.copy h d s n fl) := by
  intro hw
  have hw : (optAll fl fun f => f.dk || f.dcl == 0) = true := hw
  have arm : ∀ (w l : Nat) (ln : Bool), decodeLead2 (0x80 % 64) w l ln =
      match ln with
      | true =>
        code (copyDk (nOf 2 l 4)) fun dk => code (scopeOf (nOf 3 l 0)) fun sc =>
          chk (isH (fD w)) (decide (l / 2 ^ 10 = 0) && (dk || nOf 4 l 6 == 0))
            (.copy (hOf (fD w)) (fA w) (fB w) (fX w) (some ⟨nOf 4 l 6, dk, bitAt l 3, sc⟩))
      | false => chk (isH (fD w)) true (.copy (hOf (fD w)) (fA w) (fB w) (fX w) none) := fun _ _ _ => rfl
  refine ⟨fun _ wt => ⟨?_, ?_, ?_⟩, fun g => absurd g Bool.false_ne_true⟩
  · show decodeLead (packLR fl.isSome wt 0x80 (h5 h) d s n) (flagsNat fl) = _
    rw [lead2_packLR (h := by decide) (g := rfl), arm]
    cases fl with
    | none => exact (chk_of (by simp_all) rfl).trans (by simp)
    | some f =>
      obtain ⟨dcl, dk, ss, sc⟩ := f
      refine (code_of (a := dk) (by simp)).trans ?_
      refine (code_of (a := sc) (by simp)).trans ?_
      exact (chk_of (by simp_all) (by simp_all [optAll])).trans (by simp)
  · show bitAt (packLR fl.isSome wt 0x80 (h5 h) d s n) 31 = _
    rw [bit31_packLR (h := by decide)]; rfl
  · exact wait_packLR (h := by decide) ..
theorem RoundTrip.copy2 (h : BitVec 4) (d : BitVec 5) (s : BitVec 5) (k : BitVec 5) (fl : Option CopyFlags) : RoundTrip.Statement (.copy2 h d s k fl) := by
  intro hw
  have hw : (kTriple k && optAll fl fun f => f.dk || f.dcl == 0) = true := hw
  have arm : ∀ (w l : Nat) (ln : Bool), decodeLead2 (0x81 % 64) w l ln =
      match ln with
      | true =>
        code (copyDk (nOf 2 l 4)) fun dk => code (scopeOf (nOf 3 l 0)) fun sc =>
          chk (isH (fD w) && kTriple (fX w)) (decide (l / 2 ^ 10 = 0) && (dk || nOf 4 l 6 == 0))
            (.copy2 (hOf (fD w)) (fA w) (fB w) (fX w) (some ⟨nOf 4 l 6, dk, bitAt l 3, sc⟩))
      | false => chk (isH (fD w) && kTriple (fX w)) true (.copy2 (hOf (fD w)) (fA w) (fB w) (fX w) none) := fun _ _ _ => rfl
  refine ⟨fun _ wt => ⟨?_, ?_, ?_⟩, fun g => absurd g Bool.false_ne_true⟩
  · show decodeLead (packLR fl.isSome wt 0x81 (h5 h) d s k) (flagsNat fl) = _
    rw [lead2_packLR (h := by decide) (g := rfl), arm]
    cases fl with
    | none => exact (chk_of (by simp_all) rfl).trans (by simp)
    | some f =>
      obtain ⟨dcl, dk, ss, sc⟩ := f
      refine (code_of (a := dk) (by simp)).trans ?_
      refine (code_of (a := sc) (by simp)).trans ?_
      exact (chk_of (by simp_all) (by simp_all [optAll])).trans (by simp)
  · show bitAt (packLR fl.isSome wt 0x81 (h5 h) d s k) 31 = _
    rw [bit31_packLR (h := by decide)]; rfl
  · exact wait_packLR (h := by decide) ..
theorem RoundTrip.copym (h : BitVec 4) (d : BitVec 5) (s : BitVec 5) (n : BitVec 5) (fl : Option CopyFlags) : RoundTrip.Statement (.copym h d s n fl) := by
  intro hw
  have hw : (optAll fl fun f => f.dcl == 0) = true := hw
  have arm : ∀ (w l : Nat) (ln : Bool), decodeLead2 (0x82 % 64) w l ln =
      match ln with
      | true =>
        code (copyDk (nOf 2 l 4)) fun dk => code (scopeOf (nOf 3 l 0)) fun sc =>
          chk (isH (fD w)) (decide (l / 2 ^ 10 = 0) && (nOf 4 l 6 == 0))
            (.copym (hOf (fD w)) (fA w) (fB w) (fX w) (some ⟨nOf 4 l 6, dk, bitAt l 3, sc⟩))
      | false => chk (isH (fD w)) true (.copym (hOf (fD w)) (fA w) (fB w) (fX w) none) := fun _ _ _ => rfl
  refine ⟨fun _ wt => ⟨?_, ?_, ?_⟩, fun g => absurd g Bool.false_ne_true⟩
  · show decodeLead (packLR fl.isSome wt 0x82 (h5 h) d s n) (flagsNat fl) = _
    rw [lead2_packLR (h := by decide) (g := rfl), arm]
    cases fl with
    | none => exact (chk_of (by simp_all) rfl).trans (by simp)
    | some f =>
      obtain ⟨dcl, dk, ss, sc⟩ := f
      refine (code_of (a := dk) (by simp)).trans ?_
      refine (code_of (a := sc) (by simp)).trans ?_
      exact (chk_of (by simp_all) (by simp_all [optAll])).trans (by simp)
  · show bitAt (packLR fl.isSome wt 0x82 (h5 h) d s n) 31 = _
    rw [bit31_packLR (h := by decide)]; rfl
  · exact wait_packLR (h := by decide) ..
theorem RoundTrip.stage (n : BitVec 15) : RoundTrip.Statement (.stage n) := by
  intro hw
  have arm : ∀ (w l : Nat), decodeLead2 (0x83 % 64) w l false =
      chk true (fD w == 0) (.stage (fI15 w)) := fun _ _ => rfl
  refine ⟨fun _ wt => ⟨?_, ?_, ?_⟩, fun g => absurd g Bool.false_ne_true⟩
  · show decodeLead (packLI false wt 0x83 0 n) (0) = _
    rw [lead2_packLI (h := by decide) (g := rfl), arm]
    exact (chk_of (by simp_all) (by simp_all)).trans (by simp)
  · show bitAt (packLI false wt 0x83 0 n) 31 = _
    rw [bit31_packLI (h := by decide)]; rfl
  · exact wait_packLI (h := by decide) ..
theorem RoundTrip.mxld (h : BitVec 4) (a : BitVec 5) (off : Option (BitVec 32)) : RoundTrip.Statement (.mxld h a off) := by
  intro hw
  have arm : ∀ (w l : Nat) (ln : Bool), decodeLead2 (0x84 % 64) w l ln =
      chk (isH (fD w)) (fB w == 0 && fX w == 0) (.mxld (hOf (fD w)) (fA w) (offOf ln l)) := fun _ _ _ => rfl
  refine ⟨fun _ wt => ⟨?_, ?_, ?_⟩, fun g => absurd g Bool.false_ne_true⟩
  · show decodeLead (packLR off.isSome wt 0x84 (h5 h) a 0 0) (litOf off) = _
    rw [lead2_packLR (h := by decide) (g := rfl), arm]
    exact (chk_of (by cases off <;> simp_all) (by cases off <;> simp_all)).trans (by cases off <;> simp)
  · show bitAt (packLR off.isSome wt 0x84 (h5 h) a 0 0) 31 = _
    rw [bit31_packLR (h := by decide)]; rfl
  · exact wait_packLR (h := by decide) ..
theorem RoundTrip.mxmm (h : BitVec 4) (a : BitVec 5) (b : BitVec 5) (code : BitVec 5) (off : Option (BitVec 32)) : RoundTrip.Statement (.mxmm h a b code off) := by
  intro hw
  have hw : (decide (code ≤ 8)) = true := hw
  have arm : ∀ (w l : Nat) (ln : Bool), decodeLead2 (0x85 % 64) w l ln =
      chk (isH (fD w) && decide (fX w ≤ 8)) true (.mxmm (hOf (fD w)) (fA w) (fB w) (fX w) (offOf ln l)) := fun _ _ _ => rfl
  refine ⟨fun _ wt => ⟨?_, ?_, ?_⟩, fun g => absurd g Bool.false_ne_true⟩
  · show decodeLead (packLR off.isSome wt 0x85 (h5 h) a b code) (litOf off) = _
    rw [lead2_packLR (h := by decide) (g := rfl), arm]
    exact (chk_of (by cases off <;> simp_all) (by cases off <;> simp_all)).trans (by cases off <;> simp)
  · show bitAt (packLR off.isSome wt 0x85 (h5 h) a b code) 31 = _
    rw [bit31_packLR (h := by decide)]; rfl
  · exact wait_packLR (h := by decide) ..
theorem RoundTrip.mxsp (h : BitVec 4) (a : BitVec 5) (b : BitVec 5) (c : BitVec 5) (off : Option (BitVec 32)) : RoundTrip.Statement (.mxsp h a b c off) := by
  intro hw
  have arm : ∀ (w l : Nat) (ln : Bool), decodeLead2 (0x86 % 64) w l ln =
      chk (isH (fD w)) true (.mxsp (hOf (fD w)) (fA w) (fB w) (fX w) (offOf ln l)) := fun _ _ _ => rfl
  refine ⟨fun _ wt => ⟨?_, ?_, ?_⟩, fun g => absurd g Bool.false_ne_true⟩
  · show decodeLead (packLR off.isSome wt 0x86 (h5 h) a b c) (litOf off) = _
    rw [lead2_packLR (h := by decide) (g := rfl), arm]
    exact (chk_of (by cases off <;> simp_all) (by cases off <;> simp_all)).trans (by cases off <;> simp)
  · show bitAt (packLR off.isSome wt 0x86 (h5 h) a b c) 31 = _
    rw [bit31_packLR (h := by decide)]; rfl
  · exact wait_packLR (h := by decide) ..
theorem RoundTrip.mxgrp (h : BitVec 4) (a : BitVec 5) (b : BitVec 5) (k : BitVec 5) (off : Option (BitVec 32)) : RoundTrip.Statement (.mxgrp h a b k off) := by
  intro hw
  have hw : (kTriple k) = true := hw
  have arm : ∀ (w l : Nat) (ln : Bool), decodeLead2 (0x87 % 64) w l ln =
      chk (isH (fD w) && kTriple (fX w)) true (.mxgrp (hOf (fD w)) (fA w) (fB w) (fX w) (offOf ln l)) := fun _ _ _ => rfl
  refine ⟨fun _ wt => ⟨?_, ?_, ?_⟩, fun g => absurd g Bool.false_ne_true⟩
  · show decodeLead (packLR off.isSome wt 0x87 (h5 h) a b k) (litOf off) = _
    rw [lead2_packLR (h := by decide) (g := rfl), arm]
    exact (chk_of (by cases off <;> simp_all) (by cases off <;> simp_all)).trans (by cases off <;> simp)
  · show bitAt (packLR off.isSome wt 0x87 (h5 h) a b k) 31 = _
    rw [bit31_packLR (h := by decide)]; rfl
  · exact wait_packLR (h := by decide) ..
theorem RoundTrip.mxrot (h : BitVec 4) (lone : Bool) : RoundTrip.Statement (.mxrot h lone) := by
  intro hw
  have arm : ∀ (w l : Nat) (ln : Bool), decodeLead2 (0x88 % 64) w l ln =
      chk (isH (fD w)) (fI15 w == 0 && litZero ln l) (.mxrot (hOf (fD w)) ln) := fun _ _ _ => rfl
  refine ⟨fun _ wt => ⟨?_, ?_, ?_⟩, fun g => absurd g Bool.false_ne_true⟩
  · show decodeLead (packLR lone wt 0x88 (h5 h) 0 0 0) (0) = _
    rw [lead2_packLR (h := by decide) (g := rfl), arm]
    exact (chk_of (by cases lone <;> simp_all) (by cases lone <;> simp_all)).trans (by cases lone <;> simp)
  · show bitAt (packLR lone wt 0x88 (h5 h) 0 0 0) 31 = _
    rw [bit31_packLR (h := by decide)]; rfl
  · exact wait_packLR (h := by decide) ..
theorem RoundTrip.mxrd (h : BitVec 4) (a : BitVec 5) (b : BitVec 5) (c : BitVec 5) (lone : Bool) : RoundTrip.Statement (.mxrd h a b c lone) := by
  intro hw
  have arm : ∀ (w l : Nat) (ln : Bool), decodeLead2 (0x89 % 64) w l ln =
      chk (isH (fD w)) (litZero ln l) (.mxrd (hOf (fD w)) (fA w) (fB w) (fX w) ln) := fun _ _ _ => rfl
  refine ⟨fun _ wt => ⟨?_, ?_, ?_⟩, fun g => absurd g Bool.false_ne_true⟩
  · show decodeLead (packLR lone wt 0x89 (h5 h) a b c) (0) = _
    rw [lead2_packLR (h := by decide) (g := rfl), arm]
    exact (chk_of (by cases lone <;> simp_all) (by cases lone <;> simp_all)).trans (by cases lone <;> simp)
  · show bitAt (packLR lone wt 0x89 (h5 h) a b c) 31 = _
    rw [bit31_packLR (h := by decide)]; rfl
  · exact wait_packLR (h := by decide) ..
theorem RoundTrip.mxclr (h : BitVec 4) (b : BitVec 5) (lone : Bool) : RoundTrip.Statement (.mxclr h b lone) := by
  intro hw
  have arm : ∀ (w l : Nat) (ln : Bool), decodeLead2 (0x8A % 64) w l ln =
      chk (isH (fD w)) (fA w == 0 && fX w == 0 && litZero ln l) (.mxclr (hOf (fD w)) (fB w) ln) := fun _ _ _ => rfl
  refine ⟨fun _ wt => ⟨?_, ?_, ?_⟩, fun g => absurd g Bool.false_ne_true⟩
  · show decodeLead (packLR lone wt 0x8A (h5 h) 0 b 0) (0) = _
    rw [lead2_packLR (h := by decide) (g := rfl), arm]
    exact (chk_of (by cases lone <;> simp_all) (by cases lone <;> simp_all)).trans (by cases lone <;> simp)
  · show bitAt (packLR lone wt 0x8A (h5 h) 0 b 0) 31 = _
    rw [bit31_packLR (h := by decide)]; rfl
  · exact wait_packLR (h := by decide) ..
theorem RoundTrip.mxmeta (h : BitVec 4) (a : BitVec 5) (b : BitVec 5) (c : BitVec 5) (lone : Bool) : RoundTrip.Statement (.mxmeta h a b c lone) := by
  intro hw
  have arm : ∀ (w l : Nat) (ln : Bool), decodeLead2 (0x8B % 64) w l ln =
      chk (isH (fD w)) (litZero ln l) (.mxmeta (hOf (fD w)) (fA w) (fB w) (fX w) ln) := fun _ _ _ => rfl
  refine ⟨fun _ wt => ⟨?_, ?_, ?_⟩, fun g => absurd g Bool.false_ne_true⟩
  · show decodeLead (packLR lone wt 0x8B (h5 h) a b c) (0) = _
    rw [lead2_packLR (h := by decide) (g := rfl), arm]
    exact (chk_of (by cases lone <;> simp_all) (by cases lone <;> simp_all)).trans (by cases lone <;> simp)
  · show bitAt (packLR lone wt 0x8B (h5 h) a b c) 31 = _
    rw [bit31_packLR (h := by decide)]; rfl
  · exact wait_packLR (h := by decide) ..
theorem RoundTrip.mxcmd (h : BitVec 4) (a : BitVec 5) (b : BitVec 5) (cap : BitVec 32) : RoundTrip.Statement (.mxcmd h a b cap) := by
  intro hw
  have arm : ∀ (w l : Nat), decodeLead2 (0x8C % 64) w l true =
      chk (isH (fD w)) (fX w == 0) (.mxcmd (hOf (fD w)) (fA w) (fB w) (nOf 32 l 0)) := fun _ _ => rfl
  refine ⟨fun _ wt => ⟨?_, ?_, ?_⟩, fun g => absurd g Bool.false_ne_true⟩
  · show decodeLead (packLR true wt 0x8C (h5 h) a b 0) (cap.toNat) = _
    rw [lead2_packLR (h := by decide) (g := rfl), arm]
    exact (chk_of (by simp_all) (by simp_all)).trans (by simp)
  · show bitAt (packLR true wt 0x8C (h5 h) a b 0) 31 = _
    rw [bit31_packLR (h := by decide)]; rfl
  · exact wait_packLR (h := by decide) ..
theorem RoundTrip.msg (h : BitVec 4) (a : BitVec 5) (b : BitVec 5) (c : BitVec 5) (tag : Option (BitVec 32)) : RoundTrip.Statement (.msg h a b c tag) := by
  intro hw
  have arm : ∀ (w l : Nat) (ln : Bool), decodeLead2 (0x8D % 64) w l ln =
      chk (isH (fD w)) true (.msg (hOf (fD w)) (fA w) (fB w) (fX w) (offOf ln l)) := fun _ _ _ => rfl
  refine ⟨fun _ wt => ⟨?_, ?_, ?_⟩, fun g => absurd g Bool.false_ne_true⟩
  · show decodeLead (packLR tag.isSome wt 0x8D (h5 h) a b c) (litOf tag) = _
    rw [lead2_packLR (h := by decide) (g := rfl), arm]
    exact (chk_of (by cases tag <;> simp_all) (by cases tag <;> simp_all)).trans (by cases tag <;> simp)
  · show bitAt (packLR tag.isSome wt 0x8D (h5 h) a b c) 31 = _
    rw [bit31_packLR (h := by decide)]; rfl
  · exact wait_packLR (h := by decide) ..
theorem RoundTrip.recv (d : BitVec 5) (a : BitVec 5) : RoundTrip.Statement (.recv d a) := by
  intro hw
  have arm : ∀ (w l : Nat), decodeLead2 (0x8E % 64) w l false =
      chk true (fB w == 0 && fX w == 0) (.recv (fD w) (fA w)) := fun _ _ => rfl
  refine ⟨fun _ wt => ⟨?_, ?_, ?_⟩, fun g => absurd g Bool.false_ne_true⟩
  · show decodeLead (packLR false wt 0x8E d a 0 0) (0) = _
    rw [lead2_packLR (h := by decide) (g := rfl), arm]
    exact (chk_of (by simp_all) (by simp_all)).trans (by simp)
  · show bitAt (packLR false wt 0x8E d a 0 0) 31 = _
    rw [bit31_packLR (h := by decide)]; rfl
  · exact wait_packLR (h := by decide) ..
theorem RoundTrip.bar (level : BitVec 5) (map : Imm 15) : RoundTrip.Statement (.bar level map) := by
  intro hw
  have hw : (map.lit16 && decide (1 ≤ level ∧ level ≤ 4)) = true := hw
  have arm : ∀ (w l : Nat) (ln : Bool), decodeLead2 (0x8F % 64) w l ln =
      chk (decide (1 ≤ fD w ∧ fD w ≤ 4)) (immOk ln (fI15 w) && (immOf ln (fI15 w) l).lit16) (.bar (fD w) (immOf ln (fI15 w) l)) := fun _ _ _ => rfl
  refine ⟨fun _ wt => ⟨?_, ?_, ?_⟩, fun g => absurd g Bool.false_ne_true⟩
  · show decodeLead (packLI map.isLit wt 0x8F level map.field) (map.litNat) = _
    rw [lead2_packLI (h := by decide) (g := rfl), arm]
    exact (chk_of (by cases map <;> simp_all) (by cases map <;> simp_all)).trans (by cases map <;> simp)
  · show bitAt (packLI map.isLit wt 0x8F level map.field) 31 = _
    rw [bit31_packLI (h := by decide)]; rfl
  · exact wait_packLI (h := by decide) ..
theorem RoundTrip.barl : RoundTrip.Statement (.barl) := by
  intro hw
  have arm : ∀ (w l : Nat), decodeLead2 (0x90 % 64) w l false =
      chk true (fI20 w == 0) .barl := fun _ _ => rfl
  refine ⟨fun _ wt => ⟨?_, ?_, ?_⟩, fun g => absurd g Bool.false_ne_true⟩
  · show decodeLead (packLR false wt 0x90 0 0 0 0) (0) = _
    rw [lead2_packLR (h := by decide) (g := rfl), arm]
    exact (chk_of (by simp_all) (by simp_all)).trans (by simp)
  · show bitAt (packLR false wt 0x90 0 0 0 0) 31 = _
    rw [bit31_packLR (h := by decide)]; rfl
  · exact wait_packLR (h := by decide) ..
theorem RoundTrip.fence (sc : Scope) : RoundTrip.Statement (.fence sc) := by
  intro hw
  have arm : ∀ (w l : Nat), decodeLead2 (0x91 % 64) w l false =
      code (scopeOf (xlo (fX w))) fun sc => chk true (fD w == 0 && fA w == 0 && fB w == 0 && xhi (fX w) == 0) (.fence sc) := fun _ _ => rfl
  refine ⟨fun _ wt => ⟨?_, ?_, ?_⟩, fun g => absurd g Bool.false_ne_true⟩
  · show decodeLead (packLR false wt 0x91 0 0 0 (x5 0 sc.code)) (0) = _
    rw [lead2_packLR (h := by decide) (g := rfl), arm]
    refine (code_of (a := sc) (by simp)).trans ?_
    exact (chk_of (by simp_all) (by simp_all)).trans (by simp)
  · show bitAt (packLR false wt 0x91 0 0 0 (x5 0 sc.code)) 31 = _
    rw [bit31_packLR (h := by decide)]; rfl
  · exact wait_packLR (h := by decide) ..
theorem RoundTrip.gets (d : BitVec 5) (n : BitVec 15) : RoundTrip.Statement (.gets d n) := by
  intro hw
  have hw : (decide (n < 0x1E)) = true := hw
  have arm : ∀ (w : Nat), decodeLead3 (0xC0 % 64) w false =
      match decide (fI15 w < 0x1E) with | true => .ok (.gets (fD w) (fI15 w)) | false => .error .reservedSysReg := fun _ => rfl
  refine ⟨fun _ wt => ⟨?_, ?_, ?_⟩, fun g => absurd g Bool.false_ne_true⟩
  · show decodeLead (packLI false wt 0xC0 d n) (0) = _
    rw [lead3_packLI (h := by decide) (g := rfl), arm]
    simp only [fI15_packLI, fD_packLI, hw]
  · show bitAt (packLI false wt 0xC0 d n) 31 = _
    rw [bit31_packLI (h := by decide)]; rfl
  · exact wait_packLI (h := by decide) ..
theorem RoundTrip.puts (d : BitVec 5) (n : BitVec 15) : RoundTrip.Statement (.puts d n) := by
  intro hw
  have hw : (decide (n < 0x1E)) = true := hw
  have arm : ∀ (w : Nat), decodeLead3 (0xC1 % 64) w false =
      match decide (fI15 w < 0x1E) with | true => .ok (.puts (fD w) (fI15 w)) | false => .error .reservedSysReg := fun _ => rfl
  refine ⟨fun _ wt => ⟨?_, ?_, ?_⟩, fun g => absurd g Bool.false_ne_true⟩
  · show decodeLead (packLI false wt 0xC1 d n) (0) = _
    rw [lead3_packLI (h := by decide) (g := rfl), arm]
    simp only [fI15_packLI, fD_packLI, hw]
  · show bitAt (packLI false wt 0xC1 d n) 31 = _
    rw [bit31_packLI (h := by decide)]; rfl
  · exact wait_packLI (h := by decide) ..
theorem RoundTrip.hand (d : BitVec 5) (a : BitVec 5) : RoundTrip.Statement (.hand d a) := by
  intro hw
  have arm : ∀ (w : Nat), decodeLead3 (0xC2 % 64) w false =
      chk true (fB w == 0 && fX w == 0) (.hand (fD w) (fA w)) := fun _ => rfl
  refine ⟨fun _ wt => ⟨?_, ?_, ?_⟩, fun g => absurd g Bool.false_ne_true⟩
  · show decodeLead (packLR false wt 0xC2 d a 0 0) (0) = _
    rw [lead3_packLR (h := by decide) (g := rfl), arm]
    exact (chk_of (by simp_all) (by simp_all)).trans (by simp)
  · show bitAt (packLR false wt 0xC2 d a 0 0) 31 = _
    rw [bit31_packLR (h := by decide)]; rfl
  · exact wait_packLR (h := by decide) ..
theorem RoundTrip.hret (a : BitVec 5) : RoundTrip.Statement (.hret a) := by
  intro hw
  have arm : ∀ (w : Nat), decodeLead3 (0xC3 % 64) w false =
      chk true (fD w == 0 && fB w == 0 && fX w == 0) (.hret (fA w)) := fun _ => rfl
  refine ⟨fun _ wt => ⟨?_, ?_, ?_⟩, fun g => absurd g Bool.false_ne_true⟩
  · show decodeLead (packLR false wt 0xC3 0 a 0 0) (0) = _
    rw [lead3_packLR (h := by decide) (g := rfl), arm]
    exact (chk_of (by simp_all) (by simp_all)).trans (by simp)
  · show bitAt (packLR false wt 0xC3 0 a 0 0) 31 = _
    rw [bit31_packLR (h := by decide)]; rfl
  · exact wait_packLR (h := by decide) ..
theorem RoundTrip.rseed (a : BitVec 5) (b : BitVec 5) : RoundTrip.Statement (.rseed a b) := by
  intro hw
  have arm : ∀ (w : Nat), decodeLead3 (0xC4 % 64) w false =
      chk true (fD w == 0 && fX w == 0) (.rseed (fA w) (fB w)) := fun _ => rfl
  refine ⟨fun _ wt => ⟨?_, ?_, ?_⟩, fun g => absurd g Bool.false_ne_true⟩
  · show decodeLead (packLR false wt 0xC4 0 a b 0) (0) = _
    rw [lead3_packLR (h := by decide) (g := rfl), arm]
    exact (chk_of (by simp_all) (by simp_all)).trans (by simp)
  · show bitAt (packLR false wt 0xC4 0 a b 0) 31 = _
    rw [bit31_packLR (h := by decide)]; rfl
  · exact wait_packLR (h := by decide) ..
theorem RoundTrip.park (a : BitVec 5) : RoundTrip.Statement (.park a) := by
  intro hw
  have arm : ∀ (w : Nat), decodeLead3 (0xC5 % 64) w false =
      chk true (fD w == 0 && fB w == 0 && fX w == 0) (.park (fA w)) := fun _ => rfl
  refine ⟨fun _ wt => ⟨?_, ?_, ?_⟩, fun g => absurd g Bool.false_ne_true⟩
  · show decodeLead (packLR false wt 0xC5 0 a 0 0) (0) = _
    rw [lead3_packLR (h := by decide) (g := rfl), arm]
    exact (chk_of (by simp_all) (by simp_all)).trans (by simp)
  · show bitAt (packLR false wt 0xC5 0 a 0 0) 31 = _
    rw [bit31_packLR (h := by decide)]; rfl
  · exact wait_packLR (h := by decide) ..
theorem RoundTrip.arithNop : RoundTrip.Statement (.arithNop) := by
  exact fun _ => ⟨fun g => absurd g Bool.false_ne_true, fun _ => rfl⟩
theorem RoundTrip.add (p : BitVec 3) (d : BitVec 5) (a : BitVec 5) (b : BitVec 5) (t : ITy) : RoundTrip.Statement (.add p d a b t) := by
  intro hw
  have arm : ∀ w : Nat, decodeArithScalar 0x01 w =
      tyI w fun t => chk (aM w == 0) true (.add (aP w) (aD w) (aA w) (aB w) t) := fun _ => rfl
  refine ⟨fun g => absurd g Bool.false_ne_true, fun _ => ?_⟩
  · show decodeArith (packAR 0x01 p d a b t.code 0) = _
    rw [arith0_packAR (h := by decide) (g := rfl) (z := by decide), arm]
    refine (code_of (a := t) (by simp)).trans ?_
    exact (chk_of (by simp_all) (by simp_all)).trans (by simp)
theorem RoundTrip.sub (p : BitVec 3) (d : BitVec 5) (a : BitVec 5) (b : BitVec 5) (t : ITy) : RoundTrip.Statement (.sub p d a b t) := by
  intro hw
  have arm : ∀ w : Nat, decodeArithScalar 0x02 w =
      tyI w fun t => chk (aM w == 0) true (.sub (aP w) (aD w) (aA w) (aB w) t) := fun _ => rfl
  refine ⟨fun g => absurd g Bool.false_ne_true, fun _ => ?_⟩
  · show decodeArith (packAR 0x02 p d a b t.code 0) = _
    rw [arith0_packAR (h := by decide) (g := rfl) (z := by decide), arm]
    refine (code_of (a := t) (by simp)).trans ?_
    exact (chk_of (by simp_all) (by simp_all)).trans (by simp)
theorem RoundTrip.mul (p : BitVec 3) (d : BitVec 5) (a : BitVec 5) (b : BitVec 5) (t : ITy) : RoundTrip.Statement (.mul p d a b t) := by
  intro hw
  have arm : ∀ w : Nat, decodeArithScalar 0x03 w =
      tyI w fun t => chk (aM w == 0) true (.mul (aP w) (aD w) (aA w) (aB w) t) := fun _ => rfl
  refine ⟨fun g => absurd g Bool.false_ne_true, fun _ => ?_⟩
  · show decodeArith (packAR 0x03 p d a b t.code 0) = _
    rw [arith0_packAR (h := by decide) (g := rfl) (z := by decide), arm]
    refine (code_of (a := t) (by simp)).trans ?_
    exact (chk_of (by simp_all) (by simp_all)).trans (by simp)
theorem RoundTrip.mulh (p : BitVec 3) (d : BitVec 5) (a : BitVec 5) (b : BitVec 5) (t : ITy) : RoundTrip.Statement (.mulh p d a b t) := by
  intro hw
  have arm : ∀ w : Nat, decodeArithScalar 0x04 w =
      tyI w fun t => chk (aM w == 0) true (.mulh (aP w) (aD w) (aA w) (aB w) t) := fun _ => rfl
  refine ⟨fun g => absurd g Bool.false_ne_true, fun _ => ?_⟩
  · show decodeArith (packAR 0x04 p d a b t.code 0) = _
    rw [arith0_packAR (h := by decide) (g := rfl) (z := by decide), arm]
    refine (code_of (a := t) (by simp)).trans ?_
    exact (chk_of (by simp_all) (by simp_all)).trans (by simp)
theorem RoundTrip.div (p : BitVec 3) (d : BitVec 5) (a : BitVec 5) (b : BitVec 5) (t : ITy) : RoundTrip.Statement (.div p d a b t) := by
  intro hw
  have arm : ∀ w : Nat, decodeArithScalar 0x05 w =
      tyI w fun t => chk (aM w == 0) true (.div (aP w) (aD w) (aA w) (aB w) t) := fun _ => rfl
  refine ⟨fun g => absurd g Bool.false_ne_true, fun _ => ?_⟩
  · show decodeArith (packAR 0x05 p d a b t.code 0) = _
    rw [arith0_packAR (h := by decide) (g := rfl) (z := by decide), arm]
    refine (code_of (a := t) (by simp)).trans ?_
    exact (chk_of (by simp_all) (by simp_all)).trans (by simp)
theorem RoundTrip.rem (p : BitVec 3) (d : BitVec 5) (a : BitVec 5) (b : BitVec 5) (t : ITy) : RoundTrip.Statement (.rem p d a b t) := by
  intro hw
  have arm : ∀ w : Nat, decodeArithScalar 0x06 w =
      tyI w fun t => chk (aM w == 0) true (.rem (aP w) (aD w) (aA w) (aB w) t) := fun _ => rfl
  refine ⟨fun g => absurd g Bool.false_ne_true, fun _ => ?_⟩
  · show decodeArith (packAR 0x06 p d a b t.code 0) = _
    rw [arith0_packAR (h := by decide) (g := rfl) (z := by decide), arm]
    refine (code_of (a := t) (by simp)).trans ?_
    exact (chk_of (by simp_all) (by simp_all)).trans (by simp)
theorem RoundTrip.and (p : BitVec 3) (d : BitVec 5) (a : BitVec 5) (b : BitVec 5) (t : ITy) : RoundTrip.Statement (.and p d a b t) := by
  intro hw
  have arm : ∀ w : Nat, decodeArithScalar 0x07 w =
      tyI w fun t => chk (aM w == 0) true (.and (aP w) (aD w) (aA w) (aB w) t) := fun _ => rfl
  refine ⟨fun g => absurd g Bool.false_ne_true, fun _ => ?_⟩
  · show decodeArith (packAR 0x07 p d a b t.code 0) = _
    rw [arith0_packAR (h := by decide) (g := rfl) (z := by decide), arm]
    refine (code_of (a := t) (by simp)).trans ?_
    exact (chk_of (by simp_all) (by simp_all)).trans (by simp)
theorem RoundTrip.or (p : BitVec 3) (d : BitVec 5) (a : BitVec 5) (b : BitVec 5) (t : ITy) : RoundTrip.Statement (.or p d a b t) := by
  intro hw
  have arm : ∀ w : Nat, decodeArithScalar 0x08 w =
      tyI w fun t => chk (aM w == 0) true (.or (aP w) (aD w) (aA w) (aB w) t) := fun _ => rfl
  refine ⟨fun g => absurd g Bool.false_ne_true, fun _ => ?_⟩
  · show decodeArith (packAR 0x08 p d a b t.code 0) = _
    rw [arith0_packAR (h := by decide) (g := rfl) (z := by decide), arm]
    refine (code_of (a := t) (by simp)).trans ?_
    exact (chk_of (by simp_all) (by simp_all)).trans (by simp)
theorem RoundTrip.xor (p : BitVec 3) (d : BitVec 5) (a : BitVec 5) (b : BitVec 5) (t : ITy) : RoundTrip.Statement (.xor p d a b t) := by
  intro hw
  have arm : ∀ w : Nat, decodeArithScalar 0x09 w =
      tyI w fun t => chk (aM w == 0) true (.xor (aP w) (aD w) (aA w) (aB w) t) := fun _ => rfl
  refine ⟨fun g => absurd g Bool.false_ne_true, fun _ => ?_⟩
  · show decodeArith (packAR 0x09 p d a b t.code 0) = _
    rw [arith0_packAR (h := by decide) (g := rfl) (z := by decide), arm]
    refine (code_of (a := t) (by simp)).trans ?_
    exact (chk_of (by simp_all) (by simp_all)).trans (by simp)
theorem RoundTrip.andn (p : BitVec 3) (d : BitVec 5) (a : BitVec 5) (b : BitVec 5) (t : ITy) : RoundTrip.Statement (.andn p d a b t) := by
  intro hw
  have arm : ∀ w : Nat, decodeArithScalar 0x0A w =
      tyI w fun t => chk (aM w == 0) true (.andn (aP w) (aD w) (aA w) (aB w) t) := fun _ => rfl
  refine ⟨fun g => absurd g Bool.false_ne_true, fun _ => ?_⟩
  · show decodeArith (packAR 0x0A p d a b t.code 0) = _
    rw [arith0_packAR (h := by decide) (g := rfl) (z := by decide), arm]
    refine (code_of (a := t) (by simp)).trans ?_
    exact (chk_of (by simp_all) (by simp_all)).trans (by simp)
theorem RoundTrip.shl (p : BitVec 3) (d : BitVec 5) (a : BitVec 5) (b : BitVec 5) (t : ITy) : RoundTrip.Statement (.shl p d a b t) := by
  intro hw
  have arm : ∀ w : Nat, decodeArithScalar 0x0B w =
      tyI w fun t => chk (aM w == 0) true (.shl (aP w) (aD w) (aA w) (aB w) t) := fun _ => rfl
  refine ⟨fun g => absurd g Bool.false_ne_true, fun _ => ?_⟩
  · show decodeArith (packAR 0x0B p d a b t.code 0) = _
    rw [arith0_packAR (h := by decide) (g := rfl) (z := by decide), arm]
    refine (code_of (a := t) (by simp)).trans ?_
    exact (chk_of (by simp_all) (by simp_all)).trans (by simp)
theorem RoundTrip.shr (p : BitVec 3) (d : BitVec 5) (a : BitVec 5) (b : BitVec 5) (t : ITy) : RoundTrip.Statement (.shr p d a b t) := by
  intro hw
  have arm : ∀ w : Nat, decodeArithScalar 0x0C w =
      tyI w fun t => chk (aM w == 0) true (.shr (aP w) (aD w) (aA w) (aB w) t) := fun _ => rfl
  refine ⟨fun g => absurd g Bool.false_ne_true, fun _ => ?_⟩
  · show decodeArith (packAR 0x0C p d a b t.code 0) = _
    rw [arith0_packAR (h := by decide) (g := rfl) (z := by decide), arm]
    refine (code_of (a := t) (by simp)).trans ?_
    exact (chk_of (by simp_all) (by simp_all)).trans (by simp)
theorem RoundTrip.sra (p : BitVec 3) (d : BitVec 5) (a : BitVec 5) (b : BitVec 5) (t : ITy) : RoundTrip.Statement (.sra p d a b t) := by
  intro hw
  have arm : ∀ w : Nat, decodeArithScalar 0x0D w =
      tyI w fun t => chk (aM w == 0) true (.sra (aP w) (aD w) (aA w) (aB w) t) := fun _ => rfl
  refine ⟨fun g => absurd g Bool.false_ne_true, fun _ => ?_⟩
  · show decodeArith (packAR 0x0D p d a b t.code 0) = _
    rw [arith0_packAR (h := by decide) (g := rfl) (z := by decide), arm]
    refine (code_of (a := t) (by simp)).trans ?_
    exact (chk_of (by simp_all) (by simp_all)).trans (by simp)
theorem RoundTrip.rot (p : BitVec 3) (d : BitVec 5) (a : BitVec 5) (b : BitVec 5) (t : ITy) : RoundTrip.Statement (.rot p d a b t) := by
  intro hw
  have arm : ∀ w : Nat, decodeArithScalar 0x0E w =
      tyI w fun t => chk (aM w == 0) true (.rot (aP w) (aD w) (aA w) (aB w) t) := fun _ => rfl
  refine ⟨fun g => absurd g Bool.false_ne_true, fun _ => ?_⟩
  · show decodeArith (packAR 0x0E p d a b t.code 0) = _
    rw [arith0_packAR (h := by decide) (g := rfl) (z := by decide), arm]
    refine (code_of (a := t) (by simp)).trans ?_
    exact (chk_of (by simp_all) (by simp_all)).trans (by simp)
theorem RoundTrip.min (p : BitVec 3) (d : BitVec 5) (a : BitVec 5) (b : BitVec 5) (t : ITy) : RoundTrip.Statement (.min p d a b t) := by
  intro hw
  have arm : ∀ w : Nat, decodeArithScalar 0x0F w =
      tyI w fun t => chk (aM w == 0) true (.min (aP w) (aD w) (aA w) (aB w) t) := fun _ => rfl
  refine ⟨fun g => absurd g Bool.false_ne_true, fun _ => ?_⟩
  · show decodeArith (packAR 0x0F p d a b t.code 0) = _
    rw [arith0_packAR (h := by decide) (g := rfl) (z := by decide), arm]
    refine (code_of (a := t) (by simp)).trans ?_
    exact (chk_of (by simp_all) (by simp_all)).trans (by simp)
theorem RoundTrip.max (p : BitVec 3) (d : BitVec 5) (a : BitVec 5) (b : BitVec 5) (t : ITy) : RoundTrip.Statement (.max p d a b t) := by
  intro hw
  have arm : ∀ w : Nat, decodeArithScalar 0x10 w =
      tyI w fun t => chk (aM w == 0) true (.max (aP w) (aD w) (aA w) (aB w) t) := fun _ => rfl
  refine ⟨fun g => absurd g Bool.false_ne_true, fun _ => ?_⟩
  · show decodeArith (packAR 0x10 p d a b t.code 0) = _
    rw [arith0_packAR (h := by decide) (g := rfl) (z := by decide), arm]
    refine (code_of (a := t) (by simp)).trans ?_
    exact (chk_of (by simp_all) (by simp_all)).trans (by simp)
theorem RoundTrip.set (p : BitVec 3) (d : BitVec 5) (a : BitVec 5) (b : BitVec 5) (t : ITy) (c : ICc) : RoundTrip.Statement (.set p d a b t c) := by
  intro hw
  have arm : ∀ w : Nat, decodeArithScalar 0x11 w =
      tyI w fun t => code (iccOf (aM w)) fun c => .ok (.set (aP w) (aD w) (aA w) (aB w) t c) := fun _ => rfl
  refine ⟨fun g => absurd g Bool.false_ne_true, fun _ => ?_⟩
  · show decodeArith (packAR 0x11 p d a b t.code c.code) = _
    rw [arith0_packAR (h := by decide) (g := rfl) (z := by decide), arm]
    refine (code_of (a := t) (by simp)).trans ?_
    refine (code_of (a := c) (by simp)).trans ?_
    simp
theorem RoundTrip.sel (p : BitVec 3) (d : BitVec 5) (a : BitVec 5) (b : BitVec 5) (t : ITy) : RoundTrip.Statement (.sel p d a b t) := by
  intro hw
  have arm : ∀ w : Nat, decodeArithScalar 0x12 w =
      tyI w fun t => chk (aM w == 0) true (.sel (aP w) (aD w) (aA w) (aB w) t) := fun _ => rfl
  refine ⟨fun g => absurd g Bool.false_ne_true, fun _ => ?_⟩
  · show decodeArith (packAR 0x12 p d a b t.code 0) = _
    rw [arith0_packAR (h := by decide) (g := rfl) (z := by decide), arm]
    refine (code_of (a := t) (by simp)).trans ?_
    exact (chk_of (by simp_all) (by simp_all)).trans (by simp)
theorem RoundTrip.adds (p : BitVec 3) (d : BitVec 5) (a : BitVec 5) (b : BitVec 5) (t : ITy) : RoundTrip.Statement (.adds p d a b t) := by
  intro hw
  have arm : ∀ w : Nat, decodeArithScalar 0x13 w =
      tyI w fun t => chk (aM w == 0) true (.adds (aP w) (aD w) (aA w) (aB w) t) := fun _ => rfl
  refine ⟨fun g => absurd g Bool.false_ne_true, fun _ => ?_⟩
  · show decodeArith (packAR 0x13 p d a b t.code 0) = _
    rw [arith0_packAR (h := by decide) (g := rfl) (z := by decide), arm]
    refine (code_of (a := t) (by simp)).trans ?_
    exact (chk_of (by simp_all) (by simp_all)).trans (by simp)
theorem RoundTrip.clz (p : BitVec 3) (d : BitVec 5) (a : BitVec 5) (t : ITy) : RoundTrip.Statement (.clz p d a t) := by
  intro hw
  have arm : ∀ w : Nat, decodeArithScalar 0x14 w =
      tyI w fun t => chk (aM w == 0) (aB w == 0) (.clz (aP w) (aD w) (aA w) t) := fun _ => rfl
  refine ⟨fun g => absurd g Bool.false_ne_true, fun _ => ?_⟩
  · show decodeArith (packAR 0x14 p d a 0 t.code 0) = _
    rw [arith0_packAR (h := by decide) (g := rfl) (z := by decide), arm]
    refine (code_of (a := t) (by simp)).trans ?_
    exact (chk_of (by simp_all) (by simp_all)).trans (by simp)
theorem RoundTrip.popc (p : BitVec 3) (d : BitVec 5) (a : BitVec 5) (t : ITy) : RoundTrip.Statement (.popc p d a t) := by
  intro hw
  have arm : ∀ w : Nat, decodeArithScalar 0x15 w =
      tyI w fun t => chk (aM w == 0) (aB w == 0) (.popc (aP w) (aD w) (aA w) t) := fun _ => rfl
  refine ⟨fun g => absurd g Bool.false_ne_true, fun _ => ?_⟩
  · show decodeArith (packAR 0x15 p d a 0 t.code 0) = _
    rw [arith0_packAR (h := by decide) (g := rfl) (z := by decide), arm]
    refine (code_of (a := t) (by simp)).trans ?_
    exact (chk_of (by simp_all) (by simp_all)).trans (by simp)
theorem RoundTrip.bext (p : BitVec 3) (d : BitVec 5) (a : BitVec 5) (b : BitVec 5) (t : ITy) : RoundTrip.Statement (.bext p d a b t) := by
  intro hw
  have arm : ∀ w : Nat, decodeArithScalar 0x16 w =
      tyI w fun t => chk (aM w == 0) true (.bext (aP w) (aD w) (aA w) (aB w) t) := fun _ => rfl
  refine ⟨fun g => absurd g Bool.false_ne_true, fun _ => ?_⟩
  · show decodeArith (packAR 0x16 p d a b t.code 0) = _
    rw [arith0_packAR (h := by decide) (g := rfl) (z := by decide), arm]
    refine (code_of (a := t) (by simp)).trans ?_
    exact (chk_of (by simp_all) (by simp_all)).trans (by simp)
theorem RoundTrip.bins (p : BitVec 3) (d : BitVec 5) (a : BitVec 5) (b : BitVec 5) (t : ITy) : RoundTrip.Statement (.bins p d a b t) := by
  intro hw
  have arm : ∀ w : Nat, decodeArithScalar 0x17 w =
      tyI w fun t => chk (aM w == 0) true (.bins (aP w) (aD w) (aA w) (aB w) t) := fun _ => rfl
  refine ⟨fun g => absurd g Bool.false_ne_true, fun _ => ?_⟩
  · show decodeArith (packAR 0x17 p d a b t.code 0) = _
    rw [arith0_packAR (h := by decide) (g := rfl) (z := by decide), arm]
    refine (code_of (a := t) (by simp)).trans ?_
    exact (chk_of (by simp_all) (by simp_all)).trans (by simp)
theorem RoundTrip.mov (p : BitVec 3) (d : BitVec 5) (a : BitVec 5) (t : ITy) : RoundTrip.Statement (.mov p d a t) := by
  intro hw
  have arm : ∀ w : Nat, decodeArithScalar 0x18 w =
      tyI w fun t => chk (aM w == 0) (aB w == 0) (.mov (aP w) (aD w) (aA w) t) := fun _ => rfl
  refine ⟨fun g => absurd g Bool.false_ne_true, fun _ => ?_⟩
  · show decodeArith (packAR 0x18 p d a 0 t.code 0) = _
    rw [arith0_packAR (h := by decide) (g := rfl) (z := by decide), arm]
    refine (code_of (a := t) (by simp)).trans ?_
    exact (chk_of (by simp_all) (by simp_all)).trans (by simp)
theorem RoundTrip.addi (p : BitVec 3) (d : BitVec 5) (a : BitVec 5) (i : BitVec 12) : RoundTrip.Statement (.addi p d a i) := by
  intro hw
  have arm : ∀ w : Nat, decodeArithScalar 0x19 w =
      .ok (.addi (aP w) (aD w) (aA w) (nOf 12 w 0)) := fun _ => rfl
  refine ⟨fun g => absurd g Bool.false_ne_true, fun _ => ?_⟩
  · show decodeArith (packAI 0x19 p d a i) = _
    rw [arith0_packAI (h := by decide) (g := rfl) (z := by decide), arm]
    simp
theorem RoundTrip.andi (p : BitVec 3) (d : BitVec 5) (a : BitVec 5) (i : BitVec 12) : RoundTrip.Statement (.andi p d a i) := by
  intro hw
  have arm : ∀ w : Nat, decodeArithScalar 0x1A w =
      .ok (.andi (aP w) (aD w) (aA w) (nOf 12 w 0)) := fun _ => rfl
  refine ⟨fun g => absurd g Bool.false_ne_true, fun _ => ?_⟩
  · show decodeArith (packAI 0x1A p d a i) = _
    rw [arith0_packAI (h := by decide) (g := rfl) (z := by decide), arm]
    simp
theorem RoundTrip.ori (p : BitVec 3) (d : BitVec 5) (a : BitVec 5) (i : BitVec 12) : RoundTrip.Statement (.ori p d a i) := by
  intro hw
  have arm : ∀ w : Nat, decodeArithScalar 0x1B w =
      .ok (.ori (aP w) (aD w) (aA w) (nOf 12 w 0)) := fun _ => rfl
  refine ⟨fun g => absurd g Bool.false_ne_true, fun _ => ?_⟩
  · show decodeArith (packAI 0x1B p d a i) = _
    rw [arith0_packAI (h := by decide) (g := rfl) (z := by decide), arm]
    simp
theorem RoundTrip.xori (p : BitVec 3) (d : BitVec 5) (a : BitVec 5) (i : BitVec 12) : RoundTrip.Statement (.xori p d a i) := by
  intro hw
  have arm : ∀ w : Nat, decodeArithScalar 0x1C w =
      .ok (.xori (aP w) (aD w) (aA w) (nOf 12 w 0)) := fun _ => rfl
  refine ⟨fun g => absurd g Bool.false_ne_true, fun _ => ?_⟩
  · show decodeArith (packAI 0x1C p d a i) = _
    rw [arith0_packAI (h := by decide) (g := rfl) (z := by decide), arm]
    simp
theorem RoundTrip.shli (p : BitVec 3) (d : BitVec 5) (a : BitVec 5) (k : BitVec 6) : RoundTrip.Statement (.shli p d a k) := by
  intro hw
  have arm : ∀ w : Nat, decodeArithScalar 0x1D w =
      chk true (nOf 6 w 6 == 0) (.shli (aP w) (aD w) (aA w) (nOf 6 w 0)) := fun _ => rfl
  refine ⟨fun g => absurd g Bool.false_ne_true, fun _ => ?_⟩
  · show decodeArith (packAI 0x1D p d a (k.setWidth 12)) = _
    rw [arith0_packAI (h := by decide) (g := rfl) (z := by decide), arm]
    exact (chk_of (by simp_all) (by simp_all)).trans (by simp)
theorem RoundTrip.shri (p : BitVec 3) (d : BitVec 5) (a : BitVec 5) (k : BitVec 6) : RoundTrip.Statement (.shri p d a k) := by
  intro hw
  have arm : ∀ w : Nat, decodeArithScalar 0x1E w =
      chk true (nOf 6 w 6 == 0) (.shri (aP w) (aD w) (aA w) (nOf 6 w 0)) := fun _ => rfl
  refine ⟨fun g => absurd g Bool.false_ne_true, fun _ => ?_⟩
  · show decodeArith (packAI 0x1E p d a (k.setWidth 12)) = _
    rw [arith0_packAI (h := by decide) (g := rfl) (z := by decide), arm]
    exact (chk_of (by simp_all) (by simp_all)).trans (by simp)
theorem RoundTrip.vadd (p : BitVec 3) (d : BitVec 5) (a : BitVec 5) (b : BitVec 5) (t : ITy) : RoundTrip.Statement (.vadd p d a b t) := by
  intro hw
  have hw : (t.vec) = true := hw
  have arm : ∀ w : Nat, decodeArithVInt 0x20 w =
      tyI w fun t => chk (t.vec && aM w == 0) true (.vadd (aP w) (aD w) (aA w) (aB w) t) := fun _ => rfl
  refine ⟨fun g => absurd g Bool.false_ne_true, fun _ => ?_⟩
  · show decodeArith (packAR 0x20 p d a b t.code 0) = _
    rw [arith1_packAR (h := by decide) (g := rfl), arm]
    refine (code_of (a := t) (by simp)).trans ?_
    exact (chk_of (by simp_all) (by simp_all)).trans (by simp)
theorem RoundTrip.vsub (p : BitVec 3) (d : BitVec 5) (a : BitVec 5) (b : BitVec 5) (t : ITy) : RoundTrip.Statement (.vsub p d a b t) := by
  intro hw
  have hw : (t.vec) = true := hw
  have arm : ∀ w : Nat, decodeArithVInt 0x21 w =
      tyI w fun t => chk (t.vec && aM w == 0) true (.vsub (aP w) (aD w) (aA w) (aB w) t) := fun _ => rfl
  refine ⟨fun g => absurd g Bool.false_ne_true, fun _ => ?_⟩
  · show decodeArith (packAR 0x21 p d a b t.code 0) = _
    rw [arith1_packAR (h := by decide) (g := rfl), arm]
    refine (code_of (a := t) (by simp)).trans ?_
    exact (chk_of (by simp_all) (by simp_all)).trans (by simp)
theorem RoundTrip.vmul (p : BitVec 3) (d : BitVec 5) (a : BitVec 5) (b : BitVec 5) (t : ITy) : RoundTrip.Statement (.vmul p d a b t) := by
  intro hw
  have hw : (t.vec) = true := hw
  have arm : ∀ w : Nat, decodeArithVInt 0x22 w =
      tyI w fun t => chk (t.vec && aM w == 0) true (.vmul (aP w) (aD w) (aA w) (aB w) t) := fun _ => rfl
  refine ⟨fun g => absurd g Bool.false_ne_true, fun _ => ?_⟩
  · show decodeArith (packAR 0x22 p d a b t.code 0) = _
    rw [arith1_packAR (h := by decide) (g := rfl), arm]
    refine (code_of (a := t) (by simp)).trans ?_
    exact (chk_of (by simp_all) (by simp_all)).trans (by simp)
theorem RoundTrip.vmulh (p : BitVec 3) (d : BitVec 5) (a : BitVec 5) (b : BitVec 5) (t : ITy) : RoundTrip.Statement (.vmulh p d a b t) := by
  intro hw
  have hw : (t.vec) = true := hw
  have arm : ∀ w : Nat, decodeArithVInt 0x23 w =
      tyI w fun t => chk (t.vec && aM w == 0) true (.vmulh (aP w) (aD w) (aA w) (aB w) t) := fun _ => rfl
  refine ⟨fun g => absurd g Bool.false_ne_true, fun _ => ?_⟩
  · show decodeArith (packAR 0x23 p d a b t.code 0) = _
    rw [arith1_packAR (h := by decide) (g := rfl), arm]
    refine (code_of (a := t) (by simp)).trans ?_
    exact (chk_of (by simp_all) (by simp_all)).trans (by simp)
theorem RoundTrip.vaddsat (p : BitVec 3) (d : BitVec 5) (a : BitVec 5) (b : BitVec 5) (t : ITy) : RoundTrip.Statement (.vaddsat p d a b t) := by
  intro hw
  have hw : (t.vec) = true := hw
  have arm : ∀ w : Nat, decodeArithVInt 0x24 w =
      tyI w fun t => chk (t.vec && aM w == 0) true (.vaddsat (aP w) (aD w) (aA w) (aB w) t) := fun _ => rfl
  refine ⟨fun g => absurd g Bool.false_ne_true, fun _ => ?_⟩
  · show decodeArith (packAR 0x24 p d a b t.code 0) = _
    rw [arith1_packAR (h := by decide) (g := rfl), arm]
    refine (code_of (a := t) (by simp)).trans ?_
    exact (chk_of (by simp_all) (by simp_all)).trans (by simp)
theorem RoundTrip.vsubsat (p : BitVec 3) (d : BitVec 5) (a : BitVec 5) (b : BitVec 5) (t : ITy) : RoundTrip.Statement (.vsubsat p d a b t) := by
  intro hw
  have hw : (t.vec) = true := hw
  have arm : ∀ w : Nat, decodeArithVInt 0x25 w =
      tyI w fun t => chk (t.vec && aM w == 0) true (.vsubsat (aP w) (aD w) (aA w) (aB w) t) := fun _ => rfl
  refine ⟨fun g => absurd g Bool.false_ne_true, fun _ => ?_⟩
  · show decodeArith (packAR 0x25 p d a b t.code 0) = _
    rw [arith1_packAR (h := by decide) (g := rfl), arm]
    refine (code_of (a := t) (by simp)).trans ?_
    exact (chk_of (by simp_all) (by simp_all)).trans (by simp)
theorem RoundTrip.vand (p : BitVec 3) (d : BitVec 5) (a : BitVec 5) (b : BitVec 5) (t : ITy) : RoundTrip.Statement (.vand p d a b t) := by
  intro hw
  have hw : (t.vec) = true := hw
  have arm : ∀ w : Nat, decodeArithVInt 0x26 w =
      tyI w fun t => chk (t.vec && aM w == 0) true (.vand (aP w) (aD w) (aA w) (aB w) t) := fun _ => rfl
  refine ⟨fun g => absurd g Bool.false_ne_true, fun _ => ?_⟩
  · show decodeArith (packAR 0x26 p d a b t.code 0) = _
    rw [arith1_packAR (h := by decide) (g := rfl), arm]
    refine (code_of (a := t) (by simp)).trans ?_
    exact (chk_of (by simp_all) (by simp_all)).trans (by simp)
theorem RoundTrip.vor (p : BitVec 3) (d : BitVec 5) (a : BitVec 5) (b : BitVec 5) (t : ITy) : RoundTrip.Statement (.vor p d a b t) := by
  intro hw
  have hw : (t.vec) = true := hw
  have arm : ∀ w : Nat, decodeArithVInt 0x27 w =
      tyI w fun t => chk (t.vec && aM w == 0) true (.vor (aP w) (aD w) (aA w) (aB w) t) := fun _ => rfl
  refine ⟨fun g => absurd g Bool.false_ne_true, fun _ => ?_⟩
  · show decodeArith (packAR 0x27 p d a b t.code 0) = _
    rw [arith1_packAR (h := by decide) (g := rfl), arm]
    refine (code_of (a := t) (by simp)).trans ?_
    exact (chk_of (by simp_all) (by simp_all)).trans (by simp)
theorem RoundTrip.vxor (p : BitVec 3) (d : BitVec 5) (a : BitVec 5) (b : BitVec 5) (t : ITy) : RoundTrip.Statement (.vxor p d a b t) := by
  intro hw
  have hw : (t.vec) = true := hw
  have arm : ∀ w : Nat, decodeArithVInt 0x28 w =
      tyI w fun t => chk (t.vec && aM w == 0) true (.vxor (aP w) (aD w) (aA w) (aB w) t) := fun _ => rfl
  refine ⟨fun g => absurd g Bool.false_ne_true, fun _ => ?_⟩
  · show decodeArith (packAR 0x28 p d a b t.code 0) = _
    rw [arith1_packAR (h := by decide) (g := rfl), arm]
    refine (code_of (a := t) (by simp)).trans ?_
    exact (chk_of (by simp_all) (by simp_all)).trans (by simp)
theorem RoundTrip.vandn (p : BitVec 3) (d : BitVec 5) (a : BitVec 5) (b : BitVec 5) (t : ITy) : RoundTrip.Statement (.vandn p d a b t) := by
  intro hw
  have hw : (t.vec) = true := hw
  have arm : ∀ w : Nat, decodeArithVInt 0x29 w =
      tyI w fun t => chk (t.vec && aM w == 0) true (.vandn (aP w) (aD w) (aA w) (aB w) t) := fun _ => rfl
  refine ⟨fun g => absurd g Bool.false_ne_true, fun _ => ?_⟩
  · show decodeArith (packAR 0x29 p d a b t.code 0) = _
    rw [arith1_packAR (h := by decide) (g := rfl), arm]
    refine (code_of (a := t) (by simp)).trans ?_
    exact (chk_of (by simp_all) (by simp_all)).trans (by simp)
theorem RoundTrip.vshl (p : BitVec 3) (d : BitVec 5) (a : BitVec 5) (b : BitVec 5) (t : ITy) : RoundTrip.Statement (.vshl p d a b t) := by
  intro hw
  have hw : (t.vec) = true := hw
  have arm : ∀ w : Nat, decodeArithVInt 0x2A w =
      tyI w fun t => chk (t.vec && aM w == 0) true (.vshl (aP w) (aD w) (aA w) (aB w) t) := fun _ => rfl
  refine ⟨fun g => absurd g Bool.false_ne_true, fun _ => ?_⟩
  · show decodeArith (packAR 0x2A p d a b t.code 0) = _
    rw [arith1_packAR (h := by decide) (g := rfl), arm]
    refine (code_of (a := t) (by simp)).trans ?_
    exact (chk_of (by simp_all) (by simp_all)).trans (by simp)
theorem RoundTrip.vshr (p : BitVec 3) (d : BitVec 5) (a : BitVec 5) (b : BitVec 5) (t : ITy) : RoundTrip.Statement (.vshr p d a b t) := by
  intro hw
  have hw : (t.vec) = true := hw
  have arm : ∀ w : Nat, decodeArithVInt 0x2B w =
      tyI w fun t => chk (t.vec && aM w == 0) true (.vshr (aP w) (aD w) (aA w) (aB w) t) := fun _ => rfl
  refine ⟨fun g => absurd g Bool.false_ne_true, fun _ => ?_⟩
  · show decodeArith (packAR 0x2B p d a b t.code 0) = _
    rw [arith1_packAR (h := by decide) (g := rfl), arm]
    refine (code_of (a := t) (by simp)).trans ?_
    exact (chk_of (by simp_all) (by simp_all)).trans (by simp)
theorem RoundTrip.vsra (p : BitVec 3) (d : BitVec 5) (a : BitVec 5) (b : BitVec 5) (t : ITy) : RoundTrip.Statement (.vsra p d a b t) := by
  intro hw
  have hw : (t.vec) = true := hw
  have arm : ∀ w : Nat, decodeArithVInt 0x2C w =
      tyI w fun t => chk (t.vec && aM w == 0) true (.vsra (aP w) (aD w) (aA w) (aB w) t) := fun _ => rfl
  refine ⟨fun g => absurd g Bool.false_ne_true, fun _ => ?_⟩
  · show decodeArith (packAR 0x2C p d a b t.code 0) = _
    rw [arith1_packAR (h := by decide) (g := rfl), arm]
    refine (code_of (a := t) (by simp)).trans ?_
    exact (chk_of (by simp_all) (by simp_all)).trans (by simp)
theorem RoundTrip.vmin (p : BitVec 3) (d : BitVec 5) (a : BitVec 5) (b : BitVec 5) (t : ITy) : RoundTrip.Statement (.vmin p d a b t) := by
  intro hw
  have hw : (t.vec) = true := hw
  have arm : ∀ w : Nat, decodeArithVInt 0x2D w =
      tyI w fun t => chk (t.vec && aM w == 0) true (.vmin (aP w) (aD w) (aA w) (aB w) t) := fun _ => rfl
  refine ⟨fun g => absurd g Bool.false_ne_true, fun _ => ?_⟩
  · show decodeArith (packAR 0x2D p d a b t.code 0) = _
    rw [arith1_packAR (h := by decide) (g := rfl), arm]
    refine (code_of (a := t) (by simp)).trans ?_
    exact (chk_of (by simp_all) (by simp_all)).trans (by simp)
theorem RoundTrip.vmax (p : BitVec 3) (d : BitVec 5) (a : BitVec 5) (b : BitVec 5) (t : ITy) : RoundTrip.Statement (.vmax p d a b t) := by
  intro hw
  have hw : (t.vec) = true := hw
  have arm : ∀ w : Nat, decodeArithVInt 0x2E w =
      tyI w fun t => chk (t.vec && aM w == 0) true (.vmax (aP w) (aD w) (aA w) (aB w) t) := fun _ => rfl
  refine ⟨fun g => absurd g Bool.false_ne_true, fun _ => ?_⟩
  · show decodeArith (packAR 0x2E p d a b t.code 0) = _
    rw [arith1_packAR (h := by decide) (g := rfl), arm]
    refine (code_of (a := t) (by simp)).trans ?_
    exact (chk_of (by simp_all) (by simp_all)).trans (by simp)
theorem RoundTrip.vabs (p : BitVec 3) (d : BitVec 5) (a : BitVec 5) (t : ITy) : RoundTrip.Statement (.vabs p d a t) := by
  intro hw
  have hw : (t.vec) = true := hw
  have arm : ∀ w : Nat, decodeArithVInt 0x2F w =
      tyI w fun t => chk (t.vec && aM w == 0) (aB w == 0) (.vabs (aP w) (aD w) (aA w) t) := fun _ => rfl
  refine ⟨fun g => absurd g Bool.false_ne_true, fun _ => ?_⟩
  · show decodeArith (packAR 0x2F p d a 0 t.code 0) = _
    rw [arith1_packAR (h := by decide) (g := rfl), arm]
    refine (code_of (a := t) (by simp)).trans ?_
    exact (chk_of (by simp_all) (by simp_all)).trans (by simp)
theorem RoundTrip.vneg (p : BitVec 3) (d : BitVec 5) (a : BitVec 5) (t : ITy) : RoundTrip.Statement (.vneg p d a t) := by
  intro hw
  have hw : (t.vec) = true := hw
  have arm : ∀ w : Nat, decodeArithVInt 0x30 w =
      tyI w fun t => chk (t.vec && aM w == 0) (aB w == 0) (.vneg (aP w) (aD w) (aA w) t) := fun _ => rfl
  refine ⟨fun g => absurd g Bool.false_ne_true, fun _ => ?_⟩
  · show decodeArith (packAR 0x30 p d a 0 t.code 0) = _
    rw [arith1_packAR (h := by decide) (g := rfl), arm]
    refine (code_of (a := t) (by simp)).trans ?_
    exact (chk_of (by simp_all) (by simp_all)).trans (by simp)
theorem RoundTrip.vdot4 (p : BitVec 3) (d : BitVec 5) (a : BitVec 5) (b : BitVec 5) (t : ITy) (sat : Bool) : RoundTrip.Statement (.vdot4 p d a b t sat) := by
  intro hw
  have hw : (t == .i8 || t == .w8) = true := hw
  have arm : ∀ w : Nat, decodeArithVInt 0x31 w =
      tyI w fun t => chk ((t == .i8 || t == .w8) && nOf 3 w 1 == 0) true (.vdot4 (aP w) (aD w) (aA w) (aB w) t (bitAt w 0)) := fun _ => rfl
  refine ⟨fun g => absurd g Bool.false_ne_true, fun _ => ?_⟩
  · show decodeArith (packAR 0x31 p d a b t.code (bit4 sat)) = _
    rw [arith1_packAR (h := by decide) (g := rfl), arm]
    refine (code_of (a := t) (by simp)).trans ?_
    exact (chk_of (by simp_all) (by simp_all)).trans (by simp)
theorem RoundTrip.vcmp (p : BitVec 3) (d : BitVec 3) (a : BitVec 5) (b : BitVec 5) (t : ITy) (c : ICc) : RoundTrip.Statement (.vcmp p d a b t c) := by
  intro hw
  have hw : (t.vec) = true := hw
  have arm : ∀ w : Nat, decodeArithVInt 0x32 w =
      tyI w fun t => code (iccOf (aM w)) fun c => chk (t.vec && isP (aD w)) true (.vcmp (aP w) (pOf (aD w)) (aA w) (aB w) t c) := fun _ => rfl
  refine ⟨fun g => absurd g Bool.false_ne_true, fun _ => ?_⟩
  · show decodeArith (packAR 0x32 p (p5 d) a b t.code c.code) = _
    rw [arith1_packAR (h := by decide) (g := rfl), arm]
    refine (code_of (a := t) (by simp)).trans ?_
    refine (code_of (a := c) (by simp)).trans ?_
    exact (chk_of (by simp_all) (by simp_all)).trans (by simp)
theorem RoundTrip.vsel (p : BitVec 3) (d : BitVec 5) (a : BitVec 5) (b : BitVec 3) (t : ITy) : RoundTrip.Statement (.vsel p d a b t) := by
  intro hw
  have hw : (t.vec) = true := hw
  have arm : ∀ w : Nat, decodeArithVInt 0x33 w =
      tyI w fun t => chk (t.vec && aM w == 0 && isP (aB w)) true (.vsel (aP w) (aD w) (aA w) (pOf (aB w)) t) := fun _ => rfl
  refine ⟨fun g => absurd g Bool.false_ne_true, fun _ => ?_⟩
  · show decodeArith (packAR 0x33 p d a (p5 b) t.code 0) = _
    rw [arith1_packAR (h := by decide) (g := rfl), arm]
    refine (code_of (a := t) (by simp)).trans ?_
    exact (chk_of (by simp_all) (by simp_all)).trans (by simp)
theorem RoundTrip.vfadd (p : BitVec 3) (d : BitVec 5) (a : BitVec 5) (b : BitVec 5) (t : FTy) (m : FMod) : RoundTrip.Statement (.vfadd p d a b t m) := by
  intro hw
  have hw : (t.arith) = true := hw
  have arm : ∀ w : Nat, decodeArithVFloat 0x40 w =
      tyF w fun t => code (fmodOf (aM w)) fun m => chk t.arith true (.vfadd (aP w) (aD w) (aA w) (aB w) t m) := fun _ => rfl
  refine ⟨fun g => absurd g Bool.false_ne_true, fun _ => ?_⟩
  · show decodeArith (packAR 0x40 p d a b t.code m.code) = _
    rw [arith2_packAR (h := by decide) (g := rfl), arm]
    refine (code_of (a := t) (by simp)).trans ?_
    refine (code_of (a := m) (by simp)).trans ?_
    exact (chk_of (by simp_all) (by simp_all)).trans (by simp)
theorem RoundTrip.vfsub (p : BitVec 3) (d : BitVec 5) (a : BitVec 5) (b : BitVec 5) (t : FTy) (m : FMod) : RoundTrip.Statement (.vfsub p d a b t m) := by
  intro hw
  have hw : (t.arith) = true := hw
  have arm : ∀ w : Nat, decodeArithVFloat 0x41 w =
      tyF w fun t => code (fmodOf (aM w)) fun m => chk t.arith true (.vfsub (aP w) (aD w) (aA w) (aB w) t m) := fun _ => rfl
  refine ⟨fun g => absurd g Bool.false_ne_true, fun _ => ?_⟩
  · show decodeArith (packAR 0x41 p d a b t.code m.code) = _
    rw [arith2_packAR (h := by decide) (g := rfl), arm]
    refine (code_of (a := t) (by simp)).trans ?_
    refine (code_of (a := m) (by simp)).trans ?_
    exact (chk_of (by simp_all) (by simp_all)).trans (by simp)
theorem RoundTrip.vfmul (p : BitVec 3) (d : BitVec 5) (a : BitVec 5) (b : BitVec 5) (t : FTy) (m : FMod) : RoundTrip.Statement (.vfmul p d a b t m) := by
  intro hw
  have hw : (t.arith) = true := hw
  have arm : ∀ w : Nat, decodeArithVFloat 0x42 w =
      tyF w fun t => code (fmodOf (aM w)) fun m => chk t.arith true (.vfmul (aP w) (aD w) (aA w) (aB w) t m) := fun _ => rfl
  refine ⟨fun g => absurd g Bool.false_ne_true, fun _ => ?_⟩
  · show decodeArith (packAR 0x42 p d a b t.code m.code) = _
    rw [arith2_packAR (h := by decide) (g := rfl), arm]
    refine (code_of (a := t) (by simp)).trans ?_
    refine (code_of (a := m) (by simp)).trans ?_
    exact (chk_of (by simp_all) (by simp_all)).trans (by simp)
theorem RoundTrip.vfma (p : BitVec 3) (d : BitVec 5) (a : BitVec 5) (b : BitVec 5) (t : FTy) (m : FMod) : RoundTrip.Statement (.vfma p d a b t m) := by
  intro hw
  have hw : (t.arith) = true := hw
  have arm : ∀ w : Nat, decodeArithVFloat 0x43 w =
      tyF w fun t => code (fmodOf (aM w)) fun m => chk t.arith true (.vfma (aP w) (aD w) (aA w) (aB w) t m) := fun _ => rfl
  refine ⟨fun g => absurd g Bool.false_ne_true, fun _ => ?_⟩
  · show decodeArith (packAR 0x43 p d a b t.code m.code) = _
    rw [arith2_packAR (h := by decide) (g := rfl), arm]
    refine (code_of (a := t) (by simp)).trans ?_
    refine (code_of (a := m) (by simp)).trans ?_
    exact (chk_of (by simp_all) (by simp_all)).trans (by simp)
theorem RoundTrip.vfms (p : BitVec 3) (d : BitVec 5) (a : BitVec 5) (b : BitVec 5) (t : FTy) (m : FMod) : RoundTrip.Statement (.vfms p d a b t m) := by
  intro hw
  have hw : (t.arith) = true := hw
  have arm : ∀ w : Nat, decodeArithVFloat 0x44 w =
      tyF w fun t => code (fmodOf (aM w)) fun m => chk t.arith true (.vfms (aP w) (aD w) (aA w) (aB w) t m) := fun _ => rfl
  refine ⟨fun g => absurd g Bool.false_ne_true, fun _ => ?_⟩
  · show decodeArith (packAR 0x44 p d a b t.code m.code) = _
    rw [arith2_packAR (h := by decide) (g := rfl), arm]
    refine (code_of (a := t) (by simp)).trans ?_
    refine (code_of (a := m) (by simp)).trans ?_
    exact (chk_of (by simp_all) (by simp_all)).trans (by simp)
theorem RoundTrip.vfnma (p : BitVec 3) (d : BitVec 5) (a : BitVec 5) (b : BitVec 5) (t : FTy) (m : FMod) : RoundTrip.Statement (.vfnma p d a b t m) := by
  intro hw
  have hw : (t.arith) = true := hw
  have arm : ∀ w : Nat, decodeArithVFloat 0x45 w =
      tyF w fun t => code (fmodOf (aM w)) fun m => chk t.arith true (.vfnma (aP w) (aD w) (aA w) (aB w) t m) := fun _ => rfl
  refine ⟨fun g => absurd g Bool.false_ne_true, fun _ => ?_⟩
  · show decodeArith (packAR 0x45 p d a b t.code m.code) = _
    rw [arith2_packAR (h := by decide) (g := rfl), arm]
    refine (code_of (a := t) (by simp)).trans ?_
    refine (code_of (a := m) (by simp)).trans ?_
    exact (chk_of (by simp_all) (by simp_all)).trans (by simp)
theorem RoundTrip.vfmin (p : BitVec 3) (d : BitVec 5) (a : BitVec 5) (b : BitVec 5) (t : FTy) : RoundTrip.Statement (.vfmin p d a b t) := by
  intro hw
  have hw : (t.arith) = true := hw
  have arm : ∀ w : Nat, decodeArithVFloat 0x46 w =
      tyF w fun t => chk (t.arith && aM w == 0) true (.vfmin (aP w) (aD w) (aA w) (aB w) t) := fun _ => rfl
  refine ⟨fun g => absurd g Bool.false_ne_true, fun _ => ?_⟩
  · show decodeArith (packAR 0x46 p d a b t.code 0) = _
    rw [arith2_packAR (h := by decide) (g := rfl), arm]
    refine (code_of (a := t) (by simp)).trans ?_
    exact (chk_of (by simp_all) (by simp_all)).trans (by simp)
theorem RoundTrip.vfmax (p : BitVec 3) (d : BitVec 5) (a : BitVec 5) (b : BitVec 5) (t : FTy) : RoundTrip.Statement (.vfmax p d a b t) := by
  intro hw
  have hw : (t.arith) = true := hw
  have arm : ∀ w : Nat, decodeArithVFloat 0x47 w =
      tyF w fun t => chk (t.arith && aM w == 0) true (.vfmax (aP w) (aD w) (aA w) (aB w) t) := fun _ => rfl
  refine ⟨fun g => absurd g Bool.false_ne_true, fun _ => ?_⟩
  · show decodeArith (packAR 0x47 p d a b t.code 0) = _
    rw [arith2_packAR (h := by decide) (g := rfl), arm]
    refine (code_of (a := t) (by simp)).trans ?_
    exact (chk_of (by simp_all) (by simp_all)).trans (by simp)
theorem RoundTrip.vfabs (p : BitVec 3) (d : BitVec 5) (a : BitVec 5) (t : FTy) : RoundTrip.Statement (.vfabs p d a t) := by
  intro hw
  have hw : (t.arith) = true := hw
  have arm : ∀ w : Nat, decodeArithVFloat 0x48 w =
      tyF w fun t => chk (t.arith && aM w == 0) (aB w == 0) (.vfabs (aP w) (aD w) (aA w) t) := fun _ => rfl
  refine ⟨fun g => absurd g Bool.false_ne_true, fun _ => ?_⟩
  · show decodeArith (packAR 0x48 p d a 0 t.code 0) = _
    rw [arith2_packAR (h := by decide) (g := rfl), arm]
    refine (code_of (a := t) (by simp)).trans ?_
    exact (chk_of (by simp_all) (by simp_all)).trans (by simp)
theorem RoundTrip.vfneg (p : BitVec 3) (d : BitVec 5) (a : BitVec 5) (t : FTy) : RoundTrip.Statement (.vfneg p d a t) := by
  intro hw
  have hw : (t.arith) = true := hw
  have arm : ∀ w : Nat, decodeArithVFloat 0x49 w =
      tyF w fun t => chk (t.arith && aM w == 0) (aB w == 0) (.vfneg (aP w) (aD w) (aA w) t) := fun _ => rfl
  refine ⟨fun g => absurd g Bool.false_ne_true, fun _ => ?_⟩
  · show decodeArith (packAR 0x49 p d a 0 t.code 0) = _
    rw [arith2_packAR (h := by decide) (g := rfl), arm]
    refine (code_of (a := t) (by simp)).trans ?_
    exact (chk_of (by simp_all) (by simp_all)).trans (by simp)
theorem RoundTrip.vfcmp (p : BitVec 3) (d : BitVec 3) (a : BitVec 5) (b : BitVec 5) (t : FTy) (c : FCc) : RoundTrip.Statement (.vfcmp p d a b t c) := by
  intro hw
  have hw : (t.arith) = true := hw
  have arm : ∀ w : Nat, decodeArithVFloat 0x4A w =
      tyF w fun t => code (fccOf (aM w)) fun c => chk (t.arith && isP (aD w)) true (.vfcmp (aP w) (pOf (aD w)) (aA w) (aB w) t c) := fun _ => rfl
  refine ⟨fun g => absurd g Bool.false_ne_true, fun _ => ?_⟩
  · show decodeArith (packAR 0x4A p (p5 d) a b t.code c.code) = _
    rw [arith2_packAR (h := by decide) (g := rfl), arm]
    refine (code_of (a := t) (by simp)).trans ?_
    refine (code_of (a := c) (by simp)).trans ?_
    exact (chk_of (by simp_all) (by simp_all)).trans (by simp)
theorem RoundTrip.vfrcp (p : BitVec 3) (d : BitVec 5) (a : BitVec 5) (t : FTy) (m : FMod) : RoundTrip.Statement (.vfrcp p d a t m) := by
  intro hw
  have hw : (t.arith) = true := hw
  have arm : ∀ w : Nat, decodeArithVFloat 0x4B w =
      tyF w fun t => code (fmodOf (aM w)) fun m => chk t.arith (aB w == 0) (.vfrcp (aP w) (aD w) (aA w) t m) := fun _ => rfl
  refine ⟨fun g => absurd g Bool.false_ne_true, fun _ => ?_⟩
  · show decodeArith (packAR 0x4B p d a 0 t.code m.code) = _
    rw [arith2_packAR (h := by decide) (g := rfl), arm]
    refine (code_of (a := t) (by simp)).trans ?_
    refine (code_of (a := m) (by simp)).trans ?_
    exact (chk_of (by simp_all) (by simp_all)).trans (by simp)
theorem RoundTrip.vfrsq (p : BitVec 3) (d : BitVec 5) (a : BitVec 5) (t : FTy) (m : FMod) : RoundTrip.Statement (.vfrsq p d a t m) := by
  intro hw
  have hw : (t.arith) = true := hw
  have arm : ∀ w : Nat, decodeArithVFloat 0x4C w =
      tyF w fun t => code (fmodOf (aM w)) fun m => chk t.arith (aB w == 0) (.vfrsq (aP w) (aD w) (aA w) t m) := fun _ => rfl
  refine ⟨fun g => absurd g Bool.false_ne_true, fun _ => ?_⟩
  · show decodeArith (packAR 0x4C p d a 0 t.code m.code) = _
    rw [arith2_packAR (h := by decide) (g := rfl), arm]
    refine (code_of (a := t) (by simp)).trans ?_
    refine (code_of (a := m) (by simp)).trans ?_
    exact (chk_of (by simp_all) (by simp_all)).trans (by simp)
theorem RoundTrip.vfsqrt (p : BitVec 3) (d : BitVec 5) (a : BitVec 5) (t : FTy) (m : FMod) : RoundTrip.Statement (.vfsqrt p d a t m) := by
  intro hw
  have hw : (t.arith) = true := hw
  have arm : ∀ w : Nat, decodeArithVFloat 0x4D w =
      tyF w fun t => code (fmodOf (aM w)) fun m => chk t.arith (aB w == 0) (.vfsqrt (aP w) (aD w) (aA w) t m) := fun _ => rfl
  refine ⟨fun g => absurd g Bool.false_ne_true, fun _ => ?_⟩
  · show decodeArith (packAR 0x4D p d a 0 t.code m.code) = _
    rw [arith2_packAR (h := by decide) (g := rfl), arm]
    refine (code_of (a := t) (by simp)).trans ?_
    refine (code_of (a := m) (by simp)).trans ?_
    exact (chk_of (by simp_all) (by simp_all)).trans (by simp)
theorem RoundTrip.vfexp2 (p : BitVec 3) (d : BitVec 5) (a : BitVec 5) (t : FTy) (m : FMod) : RoundTrip.Statement (.vfexp2 p d a t m) := by
  intro hw
  have hw : (t.arith) = true := hw
  have arm : ∀ w : Nat, decodeArithVFloat 0x4E w =
      tyF w fun t => code (fmodOf (aM w)) fun m => chk t.arith (aB w == 0) (.vfexp2 (aP w) (aD w) (aA w) t m) := fun _ => rfl
  refine ⟨fun g => absurd g Bool.false_ne_true, fun _ => ?_⟩
  · show decodeArith (packAR 0x4E p d a 0 t.code m.code) = _
    rw [arith2_packAR (h := by decide) (g := rfl), arm]
    refine (code_of (a := t) (by simp)).trans ?_
    refine (code_of (a := m) (by simp)).trans ?_
    exact (chk_of (by simp_all) (by simp_all)).trans (by simp)
theorem RoundTrip.vflog2 (p : BitVec 3) (d : BitVec 5) (a : BitVec 5) (t : FTy) (m : FMod) : RoundTrip.Statement (.vflog2 p d a t m) := by
  intro hw
  have hw : (t.arith) = true := hw
  have arm : ∀ w : Nat, decodeArithVFloat 0x4F w =
      tyF w fun t => code (fmodOf (aM w)) fun m => chk t.arith (aB w == 0) (.vflog2 (aP w) (aD w) (aA w) t m) := fun _ => rfl
  refine ⟨fun g => absurd g Bool.false_ne_true, fun _ => ?_⟩
  · show decodeArith (packAR 0x4F p d a 0 t.code m.code) = _
    rw [arith2_packAR (h := by decide) (g := rfl), arm]
    refine (code_of (a := t) (by simp)).trans ?_
    refine (code_of (a := m) (by simp)).trans ?_
    exact (chk_of (by simp_all) (by simp_all)).trans (by simp)
theorem RoundTrip.vftanh (p : BitVec 3) (d : BitVec 5) (a : BitVec 5) (t : FTy) (m : FMod) : RoundTrip.Statement (.vftanh p d a t m) := by
  intro hw
  have hw : (t.arith) = true := hw
  have arm : ∀ w : Nat, decodeArithVFloat 0x50 w =
      tyF w fun t => code (fmodOf (aM w)) fun m => chk t.arith (aB w == 0) (.vftanh (aP w) (aD w) (aA w) t m) := fun _ => rfl
  refine ⟨fun g => absurd g Bool.false_ne_true, fun _ => ?_⟩
  · show decodeArith (packAR 0x50 p d a 0 t.code m.code) = _
    rw [arith2_packAR (h := by decide) (g := rfl), arm]
    refine (code_of (a := t) (by simp)).trans ?_
    refine (code_of (a := m) (by simp)).trans ?_
    exact (chk_of (by simp_all) (by simp_all)).trans (by simp)
theorem RoundTrip.vfsinpi (p : BitVec 3) (d : BitVec 5) (a : BitVec 5) (t : FTy) (m : FMod) : RoundTrip.Statement (.vfsinpi p d a t m) := by
  intro hw
  have hw : (t.arith) = true := hw
  have arm : ∀ w : Nat, decodeArithVFloat 0x51 w =
      tyF w fun t => code (fmodOf (aM w)) fun m => chk t.arith (aB w == 0) (.vfsinpi (aP w) (aD w) (aA w) t m) := fun _ => rfl
  refine ⟨fun g => absurd g Bool.false_ne_true, fun _ => ?_⟩
  · show decodeArith (packAR 0x51 p d a 0 t.code m.code) = _
    rw [arith2_packAR (h := by decide) (g := rfl), arm]
    refine (code_of (a := t) (by simp)).trans ?_
    refine (code_of (a := m) (by simp)).trans ?_
    exact (chk_of (by simp_all) (by simp_all)).trans (by simp)
theorem RoundTrip.vfcospi (p : BitVec 3) (d : BitVec 5) (a : BitVec 5) (t : FTy) (m : FMod) : RoundTrip.Statement (.vfcospi p d a t m) := by
  intro hw
  have hw : (t.arith) = true := hw
  have arm : ∀ w : Nat, decodeArithVFloat 0x52 w =
      tyF w fun t => code (fmodOf (aM w)) fun m => chk t.arith (aB w == 0) (.vfcospi (aP w) (aD w) (aA w) t m) := fun _ => rfl
  refine ⟨fun g => absurd g Bool.false_ne_true, fun _ => ?_⟩
  · show decodeArith (packAR 0x52 p d a 0 t.code m.code) = _
    rw [arith2_packAR (h := by decide) (g := rfl), arm]
    refine (code_of (a := t) (by simp)).trans ?_
    refine (code_of (a := m) (by simp)).trans ?_
    exact (chk_of (by simp_all) (by simp_all)).trans (by simp)
theorem RoundTrip.vfscale (p : BitVec 3) (d : BitVec 5) (a : BitVec 5) (b : BitVec 5) (t : FTy) (m : FMod) : RoundTrip.Statement (.vfscale p d a b t m) := by
  intro hw
  have hw : (t.arith) = true := hw
  have arm : ∀ w : Nat, decodeArithVFloat 0x53 w =
      tyF w fun t => code (fmodOf (aM w)) fun m => chk t.arith true (.vfscale (aP w) (aD w) (aA w) (aB w) t m) := fun _ => rfl
  refine ⟨fun g => absurd g Bool.false_ne_true, fun _ => ?_⟩
  · show decodeArith (packAR 0x53 p d a b t.code m.code) = _
    rw [arith2_packAR (h := by decide) (g := rfl), arm]
    refine (code_of (a := t) (by simp)).trans ?_
    refine (code_of (a := m) (by simp)).trans ?_
    exact (chk_of (by simp_all) (by simp_all)).trans (by simp)
theorem RoundTrip.vfdot2 (p : BitVec 3) (d : BitVec 5) (a : BitVec 5) (b : BitVec 5) (t : FTy) (m : FMod) : RoundTrip.Statement (.vfdot2 p d a b t m) := by
  intro hw
  have hw : (t == .bf16 || t == .f16) = true := hw
  have arm : ∀ w : Nat, decodeArithVFloat 0x54 w =
      tyF w fun t => code (fmodOf (aM w)) fun m => chk (t == .bf16 || t == .f16) true (.vfdot2 (aP w) (aD w) (aA w) (aB w) t m) := fun _ => rfl
  refine ⟨fun g => absurd g Bool.false_ne_true, fun _ => ?_⟩
  · show decodeArith (packAR 0x54 p d a b t.code m.code) = _
    rw [arith2_packAR (h := by decide) (g := rfl), arm]
    refine (code_of (a := t) (by simp)).trans ?_
    refine (code_of (a := m) (by simp)).trans ?_
    exact (chk_of (by simp_all) (by simp_all)).trans (by simp)
theorem RoundTrip.vcvt (p : BitVec 3) (d : BitVec 5) (a : BitVec 5) (q : BitVec 2) (ts : FTy) (td : FTy) (m : FMod) : RoundTrip.Statement (.vcvt p d a q ts td m) := by
  intro hw
  have hw : (decide (q.toNat < ratio ts.bits td.bits)) = true := hw
  have arm : ∀ w : Nat, decodeArithRest 0x60 w =
      tyF w fun t => code (ftyOf (nOf 3 w 7)) fun ts => code (fmodOf (aM w)) fun m =>
      chk (decide ((nOf 2 w 10).toNat < ratio ts.bits t.bits)) true (.vcvt (aP w) (aD w) (aA w) (nOf 2 w 10) ts t m) := fun _ => rfl
  refine ⟨fun g => absurd g Bool.false_ne_true, fun _ => ?_⟩
  · show decodeArith (packAR 0x60 p d a (x5 q ts.code) td.code m.code) = _
    rw [arith3_packAR (h := by decide) (g := rfl), arm]
    refine (code_of (a := td) (by simp)).trans ?_
    refine (code_of (a := ts) (by simp)).trans ?_
    refine (code_of (a := m) (by simp)).trans ?_
    exact (chk_of (by simp_all) (by simp_all)).trans (by simp)
theorem RoundTrip.vcvti (p : BitVec 3) (d : BitVec 5) (a : BitVec 5) (q : Bool) (toFloat : Bool) (f : FTy) (t : ITy) (m : FMod) : RoundTrip.Statement (.vcvti p d a q toFloat f t m) := by
  intro hw
  have hw : (widthPair f.bits t.bits && t.vec && (!q || f.bits != t.bits) && (toFloat || !m.sat)) = true := hw
  have arm : ∀ w : Nat, decodeArithRest 0x61 w =
      tyI w fun t => code (ftyOf (nOf 3 w 7)) fun f => code (fmodOf (aM w)) fun m =>
      chk (widthPair f.bits t.bits && t.vec && (!bitAt w 11 || f.bits != t.bits) && (bitAt w 10 || !m.sat)) true
        (.vcvti (aP w) (aD w) (aA w) (bitAt w 11) (bitAt w 10) f t m) := fun _ => rfl
  refine ⟨fun g => absurd g Bool.false_ne_true, fun _ => ?_⟩
  · show decodeArith (packAR 0x61 p d a (x5 (bit1 q * 2 + bit1 toFloat) f.code) t.code m.code) = _
    rw [arith3_packAR (h := by decide) (g := rfl), arm]
    refine (code_of (a := t) (by simp)).trans ?_
    refine (code_of (a := f) (by simp)).trans ?_
    refine (code_of (a := m) (by simp)).trans ?_
    exact (chk_of (by simp_all) (by simp_all)).trans (by simp)
theorem RoundTrip.vpack (p : BitVec 3) (d : BitVec 5) (a : BitVec 5) (b : BitVec 5) (t : FTy) (m : FMod) : RoundTrip.Statement (.vpack p d a b t m) := by
  intro hw
  have hw : (t != .f32) = true := hw
  have arm : ∀ w : Nat, decodeArithRest 0x62 w =
      tyF w fun t => code (fmodOf (aM w)) fun m => chk (t != .f32) true (.vpack (aP w) (aD w) (aA w) (aB w) t m) := fun _ => rfl
  refine ⟨fun g => absurd g Bool.false_ne_true, fun _ => ?_⟩
  · show decodeArith (packAR 0x62 p d a b t.code m.code) = _
    rw [arith3_packAR (h := by decide) (g := rfl), arm]
    refine (code_of (a := t) (by simp)).trans ?_
    refine (code_of (a := m) (by simp)).trans ?_
    exact (chk_of (by simp_all) (by simp_all)).trans (by simp)
theorem RoundTrip.vunpk (p : BitVec 3) (d : BitVec 5) (a : BitVec 5) (h : Bool) (t : FTy) : RoundTrip.Statement (.vunpk p d a h t) := by
  intro hw
  have hw : (t != .f32) = true := hw
  have arm : ∀ w : Nat, decodeArithRest 0x63 w =
      tyF w fun t => chk (t != .f32 && aM w == 0 && decide (aB w < 2)) true (.vunpk (aP w) (aD w) (aA w) (bitAt w 7) t) := fun _ => rfl
  refine ⟨fun g => absurd g Bool.false_ne_true, fun _ => ?_⟩
  · show decodeArith (packAR 0x63 p d a (x5 0 (bit3 h)) t.code 0) = _
    rw [arith3_packAR (h := by decide) (g := rfl), arm]
    refine (code_of (a := t) (by simp)).trans ?_
    exact (chk_of (by simp_all) (by simp_all)).trans (by simp)
theorem RoundTrip.scvt (p : BitVec 3) (d : BitVec 5) (a : BitVec 5) (k : ScvtKind) (t : FTy) (m : FMod) : RoundTrip.Statement (.scvt p d a k t m) := by
  intro hw
  have hw : (k != .toI64 || !m.sat) = true := hw
  have arm : ∀ w : Nat, decodeArithRest 0x64 w =
      tyF w fun t => code (scvtKindOf (nOf 2 w 10) (nOf 3 w 7)) fun k => code (fmodOf (aM w)) fun m =>
      chk (k != .toI64 || !m.sat) (scvtZero (nOf 2 w 10) (nOf 3 w 7)) (.scvt (aP w) (aD w) (aA w) k t m) := fun _ => rfl
  refine ⟨fun g => absurd g Bool.false_ne_true, fun _ => ?_⟩
  · show decodeArith (packAR 0x64 p d a (x5 k.kind k.fs) t.code m.code) = _
    rw [arith3_packAR (h := by decide) (g := rfl), arm]
    refine (code_of (a := t) (by simp)).trans ?_
    refine (code_of (a := k) (by simp)).trans ?_
    refine (code_of (a := m) (by simp)).trans ?_
    exact (chk_of (by simp_all) (by simp_all)).trans (by simp)
theorem RoundTrip.vbnd (p : BitVec 3) (d : BitVec 3) (a : BitVec 5) (b : BitVec 5) (t : ITy) : RoundTrip.Statement (.vbnd p d a b t) := by
  intro hw
  have hw : (t.vec) = true := hw
  have arm : ∀ w : Nat, decodeArithRest 0x65 w =
      tyI w fun t => chk (t.vec && aM w == 0 && isP (aD w)) true (.vbnd (aP w) (pOf (aD w)) (aA w) (aB w) t) := fun _ => rfl
  refine ⟨fun g => absurd g Bool.false_ne_true, fun _ => ?_⟩
  · show decodeArith (packAR 0x65 p (p5 d) a b t.code 0) = _
    rw [arith3_packAR (h := by decide) (g := rfl), arm]
    refine (code_of (a := t) (by simp)).trans ?_
    exact (chk_of (by simp_all) (by simp_all)).trans (by simp)
theorem RoundTrip.pand (p : BitVec 3) (d : BitVec 3) (a : BitVec 3) (b : BitVec 3) : RoundTrip.Statement (.pand p d a b) := by
  intro hw
  have arm : ∀ w : Nat, decodeArithRest 0x66 w =
      chk (aT w == 0 && aM w == 0 && isP (aD w) && isP (aA w) && isP (aB w)) true (.pand (aP w) (pOf (aD w)) (pOf (aA w)) (pOf (aB w))) := fun _ => rfl
  refine ⟨fun g => absurd g Bool.false_ne_true, fun _ => ?_⟩
  · show decodeArith (packAR 0x66 p (p5 d) (p5 a) (p5 b) 0 0) = _
    rw [arith3_packAR (h := by decide) (g := rfl), arm]
    exact (chk_of (by simp_all) (by simp_all)).trans (by simp)
theorem RoundTrip.por (p : BitVec 3) (d : BitVec 3) (a : BitVec 3) (b : BitVec 3) : RoundTrip.Statement (.por p d a b) := by
  intro hw
  have arm : ∀ w : Nat, decodeArithRest 0x67 w =
      chk (aT w == 0 && aM w == 0 && isP (aD w) && isP (aA w) && isP (aB w)) true (.por (aP w) (pOf (aD w)) (pOf (aA w)) (pOf (aB w))) := fun _ => rfl
  refine ⟨fun g => absurd g Bool.false_ne_true, fun _ => ?_⟩
  · show decodeArith (packAR 0x67 p (p5 d) (p5 a) (p5 b) 0 0) = _
    rw [arith3_packAR (h := by decide) (g := rfl), arm]
    exact (chk_of (by simp_all) (by simp_all)).trans (by simp)
theorem RoundTrip.pxor (p : BitVec 3) (d : BitVec 3) (a : BitVec 3) (b : BitVec 3) : RoundTrip.Statement (.pxor p d a b) := by
  intro hw
  have arm : ∀ w : Nat, decodeArithRest 0x68 w =
      chk (aT w == 0 && aM w == 0 && isP (aD w) && isP (aA w) && isP (aB w)) true (.pxor (aP w) (pOf (aD w)) (pOf (aA w)) (pOf (aB w))) := fun _ => rfl
  refine ⟨fun g => absurd g Bool.false_ne_true, fun _ => ?_⟩
  · show decodeArith (packAR 0x68 p (p5 d) (p5 a) (p5 b) 0 0) = _
    rw [arith3_packAR (h := by decide) (g := rfl), arm]
    exact (chk_of (by simp_all) (by simp_all)).trans (by simp)
theorem RoundTrip.pnot (p : BitVec 3) (d : BitVec 3) (a : BitVec 3) : RoundTrip.Statement (.pnot p d a) := by
  intro hw
  have arm : ∀ w : Nat, decodeArithRest 0x69 w =
      chk (aT w == 0 && aM w == 0 && isP (aD w) && isP (aA w)) (aB w == 0) (.pnot (aP w) (pOf (aD w)) (pOf (aA w))) := fun _ => rfl
  refine ⟨fun g => absurd g Bool.false_ne_true, fun _ => ?_⟩
  · show decodeArith (packAR 0x69 p (p5 d) (p5 a) 0 0 0) = _
    rw [arith3_packAR (h := by decide) (g := rfl), arm]
    exact (chk_of (by simp_all) (by simp_all)).trans (by simp)
theorem RoundTrip.pcnt (p : BitVec 3) (d : BitVec 5) (a : BitVec 3) : RoundTrip.Statement (.pcnt p d a) := by
  intro hw
  have arm : ∀ w : Nat, decodeArithRest 0x6A w =
      chk (aT w == 0 && aM w == 0 && isP (aA w)) (aB w == 0) (.pcnt (aP w) (aD w) (pOf (aA w))) := fun _ => rfl
  refine ⟨fun g => absurd g Bool.false_ne_true, fun _ => ?_⟩
  · show decodeArith (packAR 0x6A p d (p5 a) 0 0 0) = _
    rw [arith3_packAR (h := by decide) (g := rfl), arm]
    exact (chk_of (by simp_all) (by simp_all)).trans (by simp)
theorem RoundTrip.pfirst (p : BitVec 3) (d : BitVec 5) (a : BitVec 3) : RoundTrip.Statement (.pfirst p d a) := by
  intro hw
  have arm : ∀ w : Nat, decodeArithRest 0x6B w =
      chk (aT w == 0 && aM w == 0 && isP (aA w)) (aB w == 0) (.pfirst (aP w) (aD w) (pOf (aA w))) := fun _ => rfl
  refine ⟨fun g => absurd g Bool.false_ne_true, fun _ => ?_⟩
  · show decodeArith (packAR 0x6B p d (p5 a) 0 0 0) = _
    rw [arith3_packAR (h := by decide) (g := rfl), arm]
    exact (chk_of (by simp_all) (by simp_all)).trans (by simp)
theorem RoundTrip.pset (p : BitVec 3) (d : BitVec 3) (z : BitVec 2) (n : BitVec 9) : RoundTrip.Statement (.pset p d z n) := by
  intro hw
  have hw : (decide (n ≤ 256)) = true := hw
  have arm : ∀ w : Nat, decodeArithRest 0x6C w =
      chk (isP (aD w) && decide (nOf 9 w 0 ≤ 256)) (aA w == 0 && !bitAt w 9) (.pset (aP w) (pOf (aD w)) (nOf 2 w 10) (nOf 9 w 0)) := fun _ => rfl
  refine ⟨fun g => absurd g Bool.false_ne_true, fun _ => ?_⟩
  · show decodeArith (packAI 0x6C p (p5 d) 0 (z ++ (0 : BitVec 1) ++ n)) = _
    rw [arith3_packAI (h := by decide) (g := rfl), arm]
    exact (chk_of (by simp_all) (by simp_all)).trans (by simp)
theorem RoundTrip.vrsum (p : BitVec 3) (d : BitVec 5) (a : BitVec 5) (t : RTy) : RoundTrip.Statement (.vrsum p d a t) := by
  intro hw
  have hw : (t.reduce) = true := hw
  have arm : ∀ w : Nat, decodeArithRest 0x6D w =
      tyR w fun t => chk t.reduce (aB w == 0) (.vrsum (aP w) (aD w) (aA w) t) := fun _ => rfl
  refine ⟨fun g => absurd g Bool.false_ne_true, fun _ => ?_⟩
  · show decodeArith (packAR 0x6D p d a 0 t.code t.fam) = _
    rw [arith3_packAR (h := by decide) (g := rfl), arm]
    refine (code_of (a := t) (by simp)).trans ?_
    exact (chk_of (by simp_all) (by simp_all)).trans (by simp)
theorem RoundTrip.vrmax (p : BitVec 3) (d : BitVec 5) (a : BitVec 5) (t : RTy) : RoundTrip.Statement (.vrmax p d a t) := by
  intro hw
  have hw : (t.reduce) = true := hw
  have arm : ∀ w : Nat, decodeArithRest 0x6E w =
      tyR w fun t => chk t.reduce (aB w == 0) (.vrmax (aP w) (aD w) (aA w) t) := fun _ => rfl
  refine ⟨fun g => absurd g Bool.false_ne_true, fun _ => ?_⟩
  · show decodeArith (packAR 0x6E p d a 0 t.code t.fam) = _
    rw [arith3_packAR (h := by decide) (g := rfl), arm]
    refine (code_of (a := t) (by simp)).trans ?_
    exact (chk_of (by simp_all) (by simp_all)).trans (by simp)
theorem RoundTrip.vrmin (p : BitVec 3) (d : BitVec 5) (a : BitVec 5) (t : RTy) : RoundTrip.Statement (.vrmin p d a t) := by
  intro hw
  have hw : (t.reduce) = true := hw
  have arm : ∀ w : Nat, decodeArithRest 0x6F w =
      tyR w fun t => chk t.reduce (aB w == 0) (.vrmin (aP w) (aD w) (aA w) t) := fun _ => rfl
  refine ⟨fun g => absurd g Bool.false_ne_true, fun _ => ?_⟩
  · show decodeArith (packAR 0x6F p d a 0 t.code t.fam) = _
    rw [arith3_packAR (h := by decide) (g := rfl), arm]
    refine (code_of (a := t) (by simp)).trans ?_
    exact (chk_of (by simp_all) (by simp_all)).trans (by simp)
theorem RoundTrip.vramax (p : BitVec 3) (d : BitVec 5) (a : BitVec 5) (t : FTy) : RoundTrip.Statement (.vramax p d a t) := by
  intro hw
  have hw : (t.arith) = true := hw
  have arm : ∀ w : Nat, decodeArithRest 0x70 w =
      tyF w fun t => chk (t.arith && aM w == 8) (aB w == 0) (.vramax (aP w) (aD w) (aA w) t) := fun _ => rfl
  refine ⟨fun g => absurd g Bool.false_ne_true, fun _ => ?_⟩
  · show decodeArith (packAR 0x70 p d a 0 t.code 8) = _
    rw [arith3_packAR (h := by decide) (g := rfl), arm]
    refine (code_of (a := t) (by simp)).trans ?_
    exact (chk_of (by simp_all) (by simp_all)).trans (by simp)
theorem RoundTrip.vperm (p : BitVec 3) (d : BitVec 5) (a : BitVec 5) (b : BitVec 5) (t : ITy) : RoundTrip.Statement (.vperm p d a b t) := by
  intro hw
  have hw : (t.vec) = true := hw
  have arm : ∀ w : Nat, decodeArithRest 0x71 w =
      tyI w fun t => chk (t.vec && aM w == 0) true (.vperm (aP w) (aD w) (aA w) (aB w) t) := fun _ => rfl
  refine ⟨fun g => absurd g Bool.false_ne_true, fun _ => ?_⟩
  · show decodeArith (packAR 0x71 p d a b t.code 0) = _
    rw [arith3_packAR (h := by decide) (g := rfl), arm]
    refine (code_of (a := t) (by simp)).trans ?_
    exact (chk_of (by simp_all) (by simp_all)).trans (by simp)
theorem RoundTrip.vbcast (p : BitVec 3) (d : BitVec 5) (a : BitVec 5) (t : ITy) : RoundTrip.Statement (.vbcast p d a t) := by
  intro hw
  have hw : (t.vec) = true := hw
  have arm : ∀ w : Nat, decodeArithRest 0x72 w =
      tyI w fun t => chk (t.vec && aM w == 0) (aB w == 0) (.vbcast (aP w) (aD w) (aA w) t) := fun _ => rfl
  refine ⟨fun g => absurd g Bool.false_ne_true, fun _ => ?_⟩
  · show decodeArith (packAR 0x72 p d a 0 t.code 0) = _
    rw [arith3_packAR (h := by decide) (g := rfl), arm]
    refine (code_of (a := t) (by simp)).trans ?_
    exact (chk_of (by simp_all) (by simp_all)).trans (by simp)
theorem RoundTrip.vslide (p : BitVec 3) (d : BitVec 5) (a : BitVec 5) (b : BitVec 5) (t : ITy) : RoundTrip.Statement (.vslide p d a b t) := by
  intro hw
  have hw : (t.vec) = true := hw
  have arm : ∀ w : Nat, decodeArithRest 0x73 w =
      tyI w fun t => chk (t.vec && aM w == 0) true (.vslide (aP w) (aD w) (aA w) (aB w) t) := fun _ => rfl
  refine ⟨fun g => absurd g Bool.false_ne_true, fun _ => ?_⟩
  · show decodeArith (packAR 0x73 p d a b t.code 0) = _
    rw [arith3_packAR (h := by decide) (g := rfl), arm]
    refine (code_of (a := t) (by simp)).trans ?_
    exact (chk_of (by simp_all) (by simp_all)).trans (by simp)
theorem RoundTrip.vzip (p : BitVec 3) (d : BitVec 5) (a : BitVec 5) (b : BitVec 5) (t : ITy) (h : Bool) : RoundTrip.Statement (.vzip p d a b t h) := by
  intro hw
  have hw : (t.vec) = true := hw
  have arm : ∀ w : Nat, decodeArithRest 0x74 w =
      tyI w fun t => chk (t.vec && nOf 3 w 1 == 0) true (.vzip (aP w) (aD w) (aA w) (aB w) t (bitAt w 0)) := fun _ => rfl
  refine ⟨fun g => absurd g Bool.false_ne_true, fun _ => ?_⟩
  · show decodeArith (packAR 0x74 p d a b t.code (bit4 h)) = _
    rw [arith3_packAR (h := by decide) (g := rfl), arm]
    refine (code_of (a := t) (by simp)).trans ?_
    exact (chk_of (by simp_all) (by simp_all)).trans (by simp)
theorem RoundTrip.vunzip (p : BitVec 3) (d : BitVec 5) (a : BitVec 5) (b : BitVec 5) (t : ITy) (h : Bool) : RoundTrip.Statement (.vunzip p d a b t h) := by
  intro hw
  have hw : (t.vec) = true := hw
  have arm : ∀ w : Nat, decodeArithRest 0x75 w =
      tyI w fun t => chk (t.vec && nOf 3 w 1 == 0) true (.vunzip (aP w) (aD w) (aA w) (aB w) t (bitAt w 0)) := fun _ => rfl
  refine ⟨fun g => absurd g Bool.false_ne_true, fun _ => ?_⟩
  · show decodeArith (packAR 0x75 p d a b t.code (bit4 h)) = _
    rw [arith3_packAR (h := by decide) (g := rfl), arm]
    refine (code_of (a := t) (by simp)).trans ?_
    exact (chk_of (by simp_all) (by simp_all)).trans (by simp)
theorem RoundTrip.vcomp (p : BitVec 3) (d : BitVec 5) (a : BitVec 5) (b : BitVec 3) (t : ITy) : RoundTrip.Statement (.vcomp p d a b t) := by
  intro hw
  have hw : (t.vec) = true := hw
  have arm : ∀ w : Nat, decodeArithRest 0x76 w =
      tyI w fun t => chk (t.vec && aM w == 0 && isP (aB w)) true (.vcomp (aP w) (aD w) (aA w) (pOf (aB w)) t) := fun _ => rfl
  refine ⟨fun g => absurd g Bool.false_ne_true, fun _ => ?_⟩
  · show decodeArith (packAR 0x76 p d a (p5 b) t.code 0) = _
    rw [arith3_packAR (h := by decide) (g := rfl), arm]
    refine (code_of (a := t) (by simp)).trans ?_
    exact (chk_of (by simp_all) (by simp_all)).trans (by simp)
theorem RoundTrip.vscan (p : BitVec 3) (d : BitVec 5) (a : BitVec 5) (t : RTy) : RoundTrip.Statement (.vscan p d a t) := by
  intro hw
  have hw : (t.scan) = true := hw
  have arm : ∀ w : Nat, decodeArithRest 0x77 w =
      tyR w fun t => chk t.scan (aB w == 0) (.vscan (aP w) (aD w) (aA w) t) := fun _ => rfl
  refine ⟨fun g => absurd g Bool.false_ne_true, fun _ => ?_⟩
  · show decodeArith (packAR 0x77 p d a 0 t.code t.fam) = _
    rw [arith3_packAR (h := by decide) (g := rfl), arm]
    refine (code_of (a := t) (by simp)).trans ?_
    exact (chk_of (by simp_all) (by simp_all)).trans (by simp)
theorem RoundTrip.vmovs (p : BitVec 3) (d : BitVec 5) (a : BitVec 5) (b : BitVec 5) (t : ITy) : RoundTrip.Statement (.vmovs p d a b t) := by
  intro hw
  have hw : (t.vec) = true := hw
  have arm : ∀ w : Nat, decodeArithRest 0x78 w =
      tyI w fun t => chk (t.vec && aM w == 0) true (.vmovs (aP w) (aD w) (aA w) (aB w) t) := fun _ => rfl
  refine ⟨fun g => absurd g Bool.false_ne_true, fun _ => ?_⟩
  · show decodeArith (packAR 0x78 p d a b t.code 0) = _
    rw [arith3_packAR (h := by decide) (g := rfl), arm]
    refine (code_of (a := t) (by simp)).trans ?_
    exact (chk_of (by simp_all) (by simp_all)).trans (by simp)
theorem RoundTrip.vins (p : BitVec 3) (d : BitVec 5) (a : BitVec 5) (b : BitVec 5) (t : ITy) : RoundTrip.Statement (.vins p d a b t) := by
  intro hw
  have hw : (t.vec) = true := hw
  have arm : ∀ w : Nat, decodeArithRest 0x79 w =
      tyI w fun t => chk (t.vec && aM w == 0) true (.vins (aP w) (aD w) (aA w) (aB w) t) := fun _ => rfl
  refine ⟨fun g => absurd g Bool.false_ne_true, fun _ => ?_⟩
  · show decodeArith (packAR 0x79 p d a b t.code 0) = _
    rw [arith3_packAR (h := by decide) (g := rfl), arm]
    refine (code_of (a := t) (by simp)).trans ?_
    exact (chk_of (by simp_all) (by simp_all)).trans (by simp)
theorem RoundTrip.rand (p : BitVec 3) (d : BitVec 5) (t : ITy) : RoundTrip.Statement (.rand p d t) := by
  intro hw
  have hw : (t == .w32 || t == .i32 || t == .i64) = true := hw
  have arm : ∀ w : Nat, decodeArithRest 0x7A w =
      tyI w fun t => chk ((t == .w32 || t == .i32 || t == .i64) && aM w == 0) (aA w == 0 && aB w == 0) (.rand (aP w) (aD w) t) := fun _ => rfl
  refine ⟨fun g => absurd g Bool.false_ne_true, fun _ => ?_⟩
  · show decodeArith (packAR 0x7A p d 0 0 t.code 0) = _
    rw [arith3_packAR (h := by decide) (g := rfl), arm]
    refine (code_of (a := t) (by simp)).trans ?_
    exact (chk_of (by simp_all) (by simp_all)).trans (by simp)
theorem RoundTrip.randf (p : BitVec 3) (d : BitVec 5) (a : BitVec 5) (t : FTy) : RoundTrip.Statement (.randf p d a t) := by
  intro hw
  have hw : (t.arith) = true := hw
  have arm : ∀ w : Nat, decodeArithRest 0x7B w =
      tyF w fun t => chk (t.arith && aM w == 0) (aB w == 0) (.randf (aP w) (aD w) (aA w) t) := fun _ => rfl
  refine ⟨fun g => absurd g Bool.false_ne_true, fun _ => ?_⟩
  · show decodeArith (packAR 0x7B p d a 0 t.code 0) = _
    rw [arith3_packAR (h := by decide) (g := rfl), arm]
    refine (code_of (a := t) (by simp)).trans ?_
    exact (chk_of (by simp_all) (by simp_all)).trans (by simp)
theorem RoundTrip.vwid (p : BitVec 3) (d : BitVec 5) (t : ITy) : RoundTrip.Statement (.vwid p d t) := by
  intro hw
  have hw : (t.vec) = true := hw
  have arm : ∀ w : Nat, decodeArithRest 0x7C w =
      tyI w fun t => chk (t.vec && aM w == 0) (aA w == 0 && aB w == 0) (.vwid (aP w) (aD w) t) := fun _ => rfl
  refine ⟨fun g => absurd g Bool.false_ne_true, fun _ => ?_⟩
  · show decodeArith (packAR 0x7C p d 0 0 t.code 0) = _
    rw [arith3_packAR (h := by decide) (g := rfl), arm]
    refine (code_of (a := t) (by simp)).trans ?_
    exact (chk_of (by simp_all) (by simp_all)).trans (by simp)
theorem RoundTrip.storeDrain (core : Nat) : RoundTrip.Statement (.storeDrain core) := by
  exact fun _ => ⟨fun g => absurd g Bool.false_ne_true, fun g => absurd g Bool.false_ne_true⟩
theorem RoundTrip.loadReply (th : Nat) (ans : HomeAnswer) : RoundTrip.Statement (.loadReply th ans) := by
  exact fun _ => ⟨fun g => absurd g Bool.false_ne_true, fun g => absurd g Bool.false_ne_true⟩
theorem RoundTrip.syncLoadWake (th : Nat) : RoundTrip.Statement (.syncLoadWake th) := by
  exact fun _ => ⟨fun g => absurd g Bool.false_ne_true, fun g => absurd g Bool.false_ne_true⟩
theorem RoundTrip.homeErrorReport (rid : Nat) (code : BitVec 8) (x : StoreName) : RoundTrip.Statement (.homeErrorReport rid code x) := by
  exact fun _ => ⟨fun g => absurd g Bool.false_ne_true, fun g => absurd g Bool.false_ne_true⟩
theorem RoundTrip.takeLaterCondition (th : Nat) : RoundTrip.Statement (.takeLaterCondition th) := by
  exact fun _ => ⟨fun g => absurd g Bool.false_ne_true, fun g => absurd g Bool.false_ne_true⟩
theorem RoundTrip.parkRelease (core : Nat) (resume : BitVec 64) : RoundTrip.Statement (.parkRelease core resume) := by
  exact fun _ => ⟨fun g => absurd g Bool.false_ne_true, fun g => absurd g Bool.false_ne_true⟩
theorem RoundTrip.parkAbort (core : Nat) : RoundTrip.Statement (.parkAbort core) := by
  exact fun _ => ⟨fun g => absurd g Bool.false_ne_true, fun g => absurd g Bool.false_ne_true⟩
theorem RoundTrip.svcReply (th : Nat) (a : SvcAnswer) : RoundTrip.Statement (.svcReply th a) := by
  exact fun _ => ⟨fun g => absurd g Bool.false_ne_true, fun g => absurd g Bool.false_ne_true⟩
theorem RoundTrip.pickup (th : Nat) : RoundTrip.Statement (.pickup th) := by
  exact fun _ => ⟨fun g => absurd g Bool.false_ne_true, fun g => absurd g Bool.false_ne_true⟩
theorem RoundTrip.grantRecord (die : Nat) : RoundTrip.Statement (.grantRecord die) := by
  exact fun _ => ⟨fun g => absurd g Bool.false_ne_true, fun g => absurd g Bool.false_ne_true⟩
theorem RoundTrip.shadowFill (core : Nat) : RoundTrip.Statement (.shadowFill core) := by
  exact fun _ => ⟨fun g => absurd g Bool.false_ne_true, fun g => absurd g Bool.false_ne_true⟩
theorem RoundTrip.prefetchDone (core : Nat) (slot : Nat) : RoundTrip.Statement (.prefetchDone core slot) := by
  exact fun _ => ⟨fun g => absurd g Bool.false_ne_true, fun g => absurd g Bool.false_ne_true⟩
theorem RoundTrip.priorityAging (rid : Nat) : RoundTrip.Statement (.priorityAging rid) := by
  exact fun _ => ⟨fun g => absurd g Bool.false_ne_true, fun g => absurd g Bool.false_ne_true⟩
theorem RoundTrip.sqDbWrite (q : Nat) (tail : BitVec 16) : RoundTrip.Statement (.sqDbWrite q tail) := by
  exact fun _ => ⟨fun g => absurd g Bool.false_ne_true, fun g => absurd g Bool.false_ne_true⟩
theorem RoundTrip.cqDbWrite (q : Nat) (head : BitVec 16) : RoundTrip.Statement (.cqDbWrite q head) := by
  exact fun _ => ⟨fun g => absurd g Bool.false_ne_true, fun g => absurd g Bool.false_ne_true⟩
theorem RoundTrip.sqCfgWrite (q : Nat) (value : BitVec 64) : RoundTrip.Statement (.sqCfgWrite q value) := by
  exact fun _ => ⟨fun g => absurd g Bool.false_ne_true, fun g => absurd g Bool.false_ne_true⟩
theorem RoundTrip.cqCfgWrite (q : Nat) (value : BitVec 64) : RoundTrip.Statement (.cqCfgWrite q value) := by
  exact fun _ => ⟨fun g => absurd g Bool.false_ne_true, fun g => absurd g Bool.false_ne_true⟩
theorem RoundTrip.admitLaunch (q : Nat) : RoundTrip.Statement (.admitLaunch q) := by
  exact fun _ => ⟨fun g => absurd g Bool.false_ne_true, fun g => absurd g Bool.false_ne_true⟩
theorem RoundTrip.launchDispatch (launch : Nat) : RoundTrip.Statement (.launchDispatch launch) := by
  exact fun _ => ⟨fun g => absurd g Bool.false_ne_true, fun g => absurd g Bool.false_ne_true⟩
theorem RoundTrip.gangPlace (launch : Nat) : RoundTrip.Statement (.gangPlace launch) := by
  exact fun _ => ⟨fun g => absurd g Bool.false_ne_true, fun g => absurd g Bool.false_ne_true⟩
theorem RoundTrip.gangReserve (launch : Nat) : RoundTrip.Statement (.gangReserve launch) := by
  exact fun _ => ⟨fun g => absurd g Bool.false_ne_true, fun g => absurd g Bool.false_ne_true⟩
theorem RoundTrip.postCompletion (q : Nat) : RoundTrip.Statement (.postCompletion q) := by
  exact fun _ => ⟨fun g => absurd g Bool.false_ne_true, fun g => absurd g Bool.false_ne_true⟩
theorem RoundTrip.cqCoalTimer (q : Nat) : RoundTrip.Statement (.cqCoalTimer q) := by
  exact fun _ => ⟨fun g => absurd g Bool.false_ne_true, fun g => absurd g Bool.false_ne_true⟩
theorem RoundTrip.launchDone (launch : Nat) : RoundTrip.Statement (.launchDone launch) := by
  exact fun _ => ⟨fun g => absurd g Bool.false_ne_true, fun g => absurd g Bool.false_ne_true⟩
theorem RoundTrip.preemptHold (launch : Nat) : RoundTrip.Statement (.preemptHold launch) := by
  exact fun _ => ⟨fun g => absurd g Bool.false_ne_true, fun g => absurd g Bool.false_ne_true⟩
theorem RoundTrip.preemptRelease (launch : Nat) : RoundTrip.Statement (.preemptRelease launch) := by
  exact fun _ => ⟨fun g => absurd g Bool.false_ne_true, fun g => absurd g Bool.false_ne_true⟩
theorem RoundTrip.launchCancel (launch : Nat) : RoundTrip.Statement (.launchCancel launch) := by
  exact fun _ => ⟨fun g => absurd g Bool.false_ne_true, fun g => absurd g Bool.false_ne_true⟩
theorem RoundTrip.tlbiPage (part : Nat) (va : BitVec 40) : RoundTrip.Statement (.tlbiPage part va) := by
  exact fun _ => ⟨fun g => absurd g Bool.false_ne_true, fun g => absurd g Bool.false_ne_true⟩
theorem RoundTrip.tlbiPartition (part : Nat) : RoundTrip.Statement (.tlbiPartition part) := by
  exact fun _ => ⟨fun g => absurd g Bool.false_ne_true, fun g => absurd g Bool.false_ne_true⟩
theorem RoundTrip.tlbiDone : RoundTrip.Statement (.tlbiDone) := by
  exact fun _ => ⟨fun g => absurd g Bool.false_ne_true, fun g => absurd g Bool.false_ne_true⟩
theorem RoundTrip.partCluWrite (die : Nat) (clu : Nat) (value : BitVec 64) : RoundTrip.Statement (.partCluWrite die clu value) := by
  exact fun _ => ⟨fun g => absurd g Bool.false_ne_true, fun g => absurd g Bool.false_ne_true⟩
theorem RoundTrip.registerWrite (bank : Nat) (off : Nat) (value : BitVec 64) : RoundTrip.Statement (.registerWrite bank off value) := by
  exact fun _ => ⟨fun g => absurd g Bool.false_ne_true, fun g => absurd g Bool.false_ne_true⟩
theorem RoundTrip.cancelDelivery (launch : Nat) (task : Nat) (exempt : Nat) : RoundTrip.Statement (.cancelDelivery launch task exempt) := by
  exact fun _ => ⟨fun g => absurd g Bool.false_ne_true, fun g => absurd g Bool.false_ne_true⟩
theorem RoundTrip.lineageCancel (die : Nat) (launch : Nat) (task : Nat) (tag : BitVec 64) : RoundTrip.Statement (.lineageCancel die launch task tag) := by
  exact fun _ => ⟨fun g => absurd g Bool.false_ne_true, fun g => absurd g Bool.false_ne_true⟩
theorem RoundTrip.commitAtHome (id : Nat) : RoundTrip.Statement (.commitAtHome id) := by
  exact fun _ => ⟨fun g => absurd g Bool.false_ne_true, fun g => absurd g Bool.false_ne_true⟩
theorem RoundTrip.commitReply (id : Nat) : RoundTrip.Statement (.commitReply id) := by
  exact fun _ => ⟨fun g => absurd g Bool.false_ne_true, fun g => absurd g Bool.false_ne_true⟩
theorem RoundTrip.treadAtHome (id : Nat) : RoundTrip.Statement (.treadAtHome id) := by
  exact fun _ => ⟨fun g => absurd g Bool.false_ne_true, fun g => absurd g Bool.false_ne_true⟩
theorem RoundTrip.treadReply (id : Nat) : RoundTrip.Statement (.treadReply id) := by
  exact fun _ => ⟨fun g => absurd g Bool.false_ne_true, fun g => absurd g Bool.false_ne_true⟩
theorem RoundTrip.treadWatchdog (id : Nat) : RoundTrip.Statement (.treadWatchdog id) := by
  exact fun _ => ⟨fun g => absurd g Bool.false_ne_true, fun g => absurd g Bool.false_ne_true⟩
theorem RoundTrip.tverReply (th : Nat) (ans : HomeAnswer) : RoundTrip.Statement (.tverReply th ans) := by
  exact fun _ => ⟨fun g => absurd g Bool.false_ne_true, fun g => absurd g Bool.false_ne_true⟩
theorem RoundTrip.stragglerTest (die : Nat) : RoundTrip.Statement (.stragglerTest die) := by
  exact fun _ => ⟨fun g => absurd g Bool.false_ne_true, fun g => absurd g Bool.false_ne_true⟩
theorem RoundTrip.hedgeBudgetRequest (dev : Nat) (launch : Nat) (task : Nat) (attempt : Nat) : RoundTrip.Statement (.hedgeBudgetRequest dev launch task attempt) := by
  exact fun _ => ⟨fun g => absurd g Bool.false_ne_true, fun g => absurd g Bool.false_ne_true⟩
theorem RoundTrip.backupOffer (launch : Nat) (task : Nat) (attempt : Nat) (base : BitVec 32) : RoundTrip.Statement (.backupOffer launch task attempt base) := by
  exact fun _ => ⟨fun g => absurd g Bool.false_ne_true, fun g => absurd g Bool.false_ne_true⟩
theorem RoundTrip.backupOfferAnswer (launch : Nat) (task : Nat) (attempt : Nat) (accepted : Bool) : RoundTrip.Statement (.backupOfferAnswer launch task attempt accepted) := by
  exact fun _ => ⟨fun g => absurd g Bool.false_ne_true, fun g => absurd g Bool.false_ne_true⟩
theorem RoundTrip.endNotice (launch : Nat) (status : Nat) : RoundTrip.Statement (.endNotice launch status) := by
  exact fun _ => ⟨fun g => absurd g Bool.false_ne_true, fun g => absurd g Bool.false_ne_true⟩
theorem RoundTrip.hedgeDecay : RoundTrip.Statement (.hedgeDecay) := by
  exact fun _ => ⟨fun g => absurd g Bool.false_ne_true, fun g => absurd g Bool.false_ne_true⟩
theorem RoundTrip.rangeStealRequest (die : Nat) (victim : Nat) (launch : Nat) : RoundTrip.Statement (.rangeStealRequest die victim launch) := by
  exact fun _ => ⟨fun g => absurd g Bool.false_ne_true, fun g => absurd g Bool.false_ne_true⟩
theorem RoundTrip.rangeStealAnswer (die : Nat) (launch : Nat) (lo : Nat) (hi : Nat) : RoundTrip.Statement (.rangeStealAnswer die launch lo hi) := by
  exact fun _ => ⟨fun g => absurd g Bool.false_ne_true, fun g => absurd g Bool.false_ne_true⟩
theorem RoundTrip.idleScan (th : Nat) : RoundTrip.Statement (.idleScan th) := by
  exact fun _ => ⟨fun g => absurd g Bool.false_ne_true, fun g => absurd g Bool.false_ne_true⟩
theorem RoundTrip.theft (th : Nat) (victim : Nat) : RoundTrip.Statement (.theft th victim) := by
  exact fun _ => ⟨fun g => absurd g Bool.false_ne_true, fun g => absurd g Bool.false_ne_true⟩
theorem RoundTrip.thiefBlockRequest (die : Nat) (launch : Nat) (task : Nat) : RoundTrip.Statement (.thiefBlockRequest die launch task) := by
  exact fun _ => ⟨fun g => absurd g Bool.false_ne_true, fun g => absurd g Bool.false_ne_true⟩
theorem RoundTrip.thiefBlockGrant (die : Nat) (launch : Nat) (task : Nat) (block : Nat) : RoundTrip.Statement (.thiefBlockGrant die launch task block) := by
  exact fun _ => ⟨fun g => absurd g Bool.false_ne_true, fun g => absurd g Bool.false_ne_true⟩
theorem RoundTrip.barrierComplete (launch : Nat) (level : Nat) (inst : Nat) : RoundTrip.Statement (.barrierComplete launch level inst) := by
  exact fun _ => ⟨fun g => absurd g Bool.false_ne_true, fun g => absurd g Bool.false_ne_true⟩
theorem RoundTrip.barrierWatchdog (launch : Nat) (level : Nat) (inst : Nat) : RoundTrip.Statement (.barrierWatchdog launch level inst) := by
  exact fun _ => ⟨fun g => absurd g Bool.false_ne_true, fun g => absurd g Bool.false_ne_true⟩
theorem RoundTrip.copyPiece (op : Nat) (p : PieceAnswer) : RoundTrip.Statement (.copyPiece op p) := by
  exact fun _ => ⟨fun g => absurd g Bool.false_ne_true, fun g => absurd g Bool.false_ne_true⟩
theorem RoundTrip.copyDone (op : Nat) : RoundTrip.Statement (.copyDone op) := by
  exact fun _ => ⟨fun g => absurd g Bool.false_ne_true, fun g => absurd g Bool.false_ne_true⟩
theorem RoundTrip.schedEntry (launch : Nat) (idx : Nat) : RoundTrip.Statement (.schedEntry launch idx) := by
  exact fun _ => ⟨fun g => absurd g Bool.false_ne_true, fun g => absurd g Bool.false_ne_true⟩
theorem RoundTrip.mxeJobStart (clu : Nat) : RoundTrip.Statement (.mxeJobStart clu) := by
  exact fun _ => ⟨fun g => absurd g Bool.false_ne_true, fun g => absurd g Bool.false_ne_true⟩
theorem RoundTrip.mxeJobDone (clu : Nat) : RoundTrip.Statement (.mxeJobDone clu) := by
  exact fun _ => ⟨fun g => absurd g Bool.false_ne_true, fun g => absurd g Bool.false_ne_true⟩
theorem RoundTrip.latchArrive (clu : Nat) : RoundTrip.Statement (.latchArrive clu) := by
  exact fun _ => ⟨fun g => absurd g Bool.false_ne_true, fun g => absurd g Bool.false_ne_true⟩
theorem RoundTrip.mxcmdAccept (id : Nat) : RoundTrip.Statement (.mxcmdAccept id) := by
  exact fun _ => ⟨fun g => absurd g Bool.false_ne_true, fun g => absurd g Bool.false_ne_true⟩
theorem RoundTrip.msgDeliver (m : MsgArrival) : RoundTrip.Statement (.msgDeliver m) := by
  exact fun _ => ⟨fun g => absurd g Bool.false_ne_true, fun g => absurd g Bool.false_ne_true⟩
theorem RoundTrip.fillerBurst (clu : Nat) : RoundTrip.Statement (.fillerBurst clu) := by
  exact fun _ => ⟨fun g => absurd g Bool.false_ne_true, fun g => absurd g Bool.false_ne_true⟩
theorem RoundTrip.patternChange (die : Nat) : RoundTrip.Statement (.patternChange die) := by
  exact fun _ => ⟨fun g => absurd g Bool.false_ne_true, fun g => absurd g Bool.false_ne_true⟩
theorem RoundTrip.ropePolWrite (rope : Nat) (value : BitVec 64) : RoundTrip.Statement (.ropePolWrite rope value) := by
  exact fun _ => ⟨fun g => absurd g Bool.false_ne_true, fun g => absurd g Bool.false_ne_true⟩
theorem RoundTrip.ropeImbRefresh (x : RopeSupply) (i0 i1 i2 i3 : Nat) : RoundTrip.Statement (.ropeImbRefresh x i0 i1 i2 i3) := by
  exact fun _ => ⟨fun g => absurd g Bool.false_ne_true, fun g => absurd g Bool.false_ne_true⟩
theorem RoundTrip.ropePolicyEngage (rope : Nat) : RoundTrip.Statement (.ropePolicyEngage rope) := by
  exact fun _ => ⟨fun g => absurd g Bool.false_ne_true, fun g => absurd g Bool.false_ne_true⟩
theorem RoundTrip.throtEscalate (rope : Nat) : RoundTrip.Statement (.throtEscalate rope) := by
  exact fun _ => ⟨fun g => absurd g Bool.false_ne_true, fun g => absurd g Bool.false_ne_true⟩
theorem RoundTrip.ropePolicyDisengage (rope : Nat) : RoundTrip.Statement (.ropePolicyDisengage rope) := by
  exact fun _ => ⟨fun g => absurd g Bool.false_ne_true, fun g => absurd g Bool.false_ne_true⟩
theorem RoundTrip.railSample (rope : Nat) (v0 : Nat) (v1 : Nat) (v2 : Nat) (v3 : Nat) : RoundTrip.Statement (.railSample rope v0 v1 v2 v3) := by
  exact fun _ => ⟨fun g => absurd g Bool.false_ne_true, fun g => absurd g Bool.false_ne_true⟩
theorem RoundTrip.writeAssistChange (rope : Nat) : RoundTrip.Statement (.writeAssistChange rope) := by
  exact fun _ => ⟨fun g => absurd g Bool.false_ne_true, fun g => absurd g Bool.false_ne_true⟩
theorem RoundTrip.ropeClamp (rope : Nat) (cause : Nat) : RoundTrip.Statement (.ropeClamp rope cause) := by
  exact fun _ => ⟨fun g => absurd g Bool.false_ne_true, fun g => absurd g Bool.false_ne_true⟩
theorem RoundTrip.ropeUnclamp (rope : Nat) : RoundTrip.Statement (.ropeUnclamp rope) := by
  exact fun _ => ⟨fun g => absurd g Bool.false_ne_true, fun g => absurd g Bool.false_ne_true⟩
theorem RoundTrip.ropeLost (rope : Nat) : RoundTrip.Statement (.ropeLost rope) := by
  exact fun _ => ⟨fun g => absurd g Bool.false_ne_true, fun g => absurd g Bool.false_ne_true⟩
theorem RoundTrip.ropeHotChange (rope : Nat) (temp : Nat) : RoundTrip.Statement (.ropeHotChange rope temp) := by
  exact fun _ => ⟨fun g => absurd g Bool.false_ne_true, fun g => absurd g Bool.false_ne_true⟩
theorem RoundTrip.ropeOvbChange (rope : Nat) (power : Nat) : RoundTrip.Statement (.ropeOvbChange rope power) := by
  exact fun _ => ⟨fun g => absurd g Bool.false_ne_true, fun g => absurd g Bool.false_ne_true⟩
theorem RoundTrip.moduleCapInterval (watts : Nat) : RoundTrip.Statement (.moduleCapInterval watts) := by
  exact fun _ => ⟨fun g => absurd g Bool.false_ne_true, fun g => absurd g Bool.false_ne_true⟩
theorem RoundTrip.floorAccount (launch : Nat) : RoundTrip.Statement (.floorAccount launch) := by
  exact fun _ => ⟨fun g => absurd g Bool.false_ne_true, fun g => absurd g Bool.false_ne_true⟩
theorem RoundTrip.hbmThermalChange (die : Nat) (stack : Nat) (temp : Nat) : RoundTrip.Statement (.hbmThermalChange die stack temp) := by
  exact fun _ => ⟨fun g => absurd g Bool.false_ne_true, fun g => absurd g Bool.false_ne_true⟩
theorem RoundTrip.eccError (die array inst row unit : Nat) (correctable : Bool) : RoundTrip.Statement (.eccError die array inst row unit correctable) := by
  exact fun _ => ⟨fun g => absurd g Bool.false_ne_true, fun g => absurd g Bool.false_ne_true⟩
theorem RoundTrip.eccWindow (die : Nat) : RoundTrip.Statement (.eccWindow die) := by
  exact fun _ => ⟨fun g => absurd g Bool.false_ne_true, fun g => absurd g Bool.false_ne_true⟩
theorem RoundTrip.ccRecovery (die : Nat) (array : Nat) : RoundTrip.Statement (.ccRecovery die array) := by
  exact fun _ => ⟨fun g => absurd g Bool.false_ne_true, fun g => absurd g Bool.false_ne_true⟩
theorem RoundTrip.ccRecoveryDone (die : Nat) (e : RecoveryEnd) : RoundTrip.Statement (.ccRecoveryDone die e) := by
  exact fun _ => ⟨fun g => absurd g Bool.false_ne_true, fun g => absurd g Bool.false_ne_true⟩
theorem RoundTrip.dieLost (die : Nat) (cause : Nat) : RoundTrip.Statement (.dieLost die cause) := by
  exact fun _ => ⟨fun g => absurd g Bool.false_ne_true, fun g => absurd g Bool.false_ne_true⟩
theorem RoundTrip.moduleTrip (thermal : Bool) : RoundTrip.Statement (.moduleTrip thermal) := by
  exact fun _ => ⟨fun g => absurd g Bool.false_ne_true, fun g => absurd g Bool.false_ne_true⟩
theorem RoundTrip.cxlMemAccess (off : Nat) (len : Nat) (store : Option Nat) : RoundTrip.Statement (.cxlMemAccess off len store) := by
  exact fun _ => ⟨fun g => absurd g Bool.false_ne_true, fun g => absurd g Bool.false_ne_true⟩
theorem RoundTrip.spdmGetMeasurements (i : MeasIndex) : RoundTrip.Statement (.spdmGetMeasurements i) := by
  exact fun _ => ⟨fun g => absurd g Bool.false_ne_true, fun g => absurd g Bool.false_ne_true⟩
theorem RoundTrip.powerUp : RoundTrip.Statement (.powerUp) := by
  exact fun _ => ⟨fun g => absurd g Bool.false_ne_true, fun g => absurd g Bool.false_ne_true⟩
theorem RoundTrip.bootGo : RoundTrip.Statement (.bootGo) := by
  exact fun _ => ⟨fun g => absurd g Bool.false_ne_true, fun g => absurd g Bool.false_ne_true⟩
theorem RoundTrip.verifyDone : RoundTrip.Statement (.verifyDone) := by
  exact fun _ => ⟨fun g => absurd g Bool.false_ne_true, fun g => absurd g Bool.false_ne_true⟩
theorem RoundTrip.bringupReduced : RoundTrip.Statement (.bringupReduced) := by
  exact fun _ => ⟨fun g => absurd g Bool.false_ne_true, fun g => absurd g Bool.false_ne_true⟩
theorem RoundTrip.bringupFull (failed : FailedDies) : RoundTrip.Statement (.bringupFull failed) := by
  exact fun _ => ⟨fun g => absurd g Bool.false_ne_true, fun g => absurd g Bool.false_ne_true⟩
theorem RoundTrip.bringupDieTimeout (die : Nat) (hbm : Bool) : RoundTrip.Statement (.bringupDieTimeout die hbm) := by
  exact fun _ => ⟨fun g => absurd g Bool.false_ne_true, fun g => absurd g Bool.false_ne_true⟩
theorem RoundTrip.iluCfgWrite (value : BitVec 64) : RoundTrip.Statement (.iluCfgWrite value) := by
  exact fun _ => ⟨fun g => absurd g Bool.false_ne_true, fun g => absurd g Bool.false_ne_true⟩
theorem RoundTrip.iluRouteWrite (dev : Nat) (value : BitVec 64) : RoundTrip.Statement (.iluRouteWrite dev value) := by
  exact fun _ => ⟨fun g => absurd g Bool.false_ne_true, fun g => absurd g Bool.false_ne_true⟩
theorem RoundTrip.flitReceive (port : Nat) (f : Flit) : RoundTrip.Statement (.flitReceive port f) := by
  exact fun _ => ⟨fun g => absurd g Bool.false_ne_true, fun g => absurd g Bool.false_ne_true⟩
theorem RoundTrip.wavelengthLeave (port : Nat) (l : LamErrors) : RoundTrip.Statement (.wavelengthLeave port l) := by
  exact fun _ => ⟨fun g => absurd g Bool.false_ne_true, fun g => absurd g Bool.false_ne_true⟩
theorem RoundTrip.wavelengthRejoin (port : Nat) (lam : Nat) : RoundTrip.Statement (.wavelengthRejoin port lam) := by
  exact fun _ => ⟨fun g => absurd g Bool.false_ne_true, fun g => absurd g Bool.false_ne_true⟩
theorem RoundTrip.wavelengthFailed (port : Nat) (lam : Nat) : RoundTrip.Statement (.wavelengthFailed port lam) := by
  exact fun _ => ⟨fun g => absurd g Bool.false_ne_true, fun g => absurd g Bool.false_ne_true⟩
theorem RoundTrip.portDark (port : Nat) : RoundTrip.Statement (.portDark port) := by
  exact fun _ => ⟨fun g => absurd g Bool.false_ne_true, fun g => absurd g Bool.false_ne_true⟩
theorem RoundTrip.portLinkUp (port : Nat) (peer : Nat) (allowance : Nat) (lam : Nat) : RoundTrip.Statement (.portLinkUp port peer allowance lam) := by
  exact fun _ => ⟨fun g => absurd g Bool.false_ne_true, fun g => absurd g Bool.false_ne_true⟩
theorem RoundTrip.darkPortTimeout (port : Nat) : RoundTrip.Statement (.darkPortTimeout port) := by
  exact fun _ => ⟨fun g => absurd g Bool.false_ne_true, fun g => absurd g Bool.false_ne_true⟩
theorem RoundTrip.backupUnreachable (b : AttemptName) : RoundTrip.Statement (.backupUnreachable b) := by
  exact fun _ => ⟨fun g => absurd g Bool.false_ne_true, fun g => absurd g Bool.false_ne_true⟩
theorem RoundTrip.cutGo (id : Nat) (grp : Nat) : RoundTrip.Statement (.cutGo id grp) := by
  exact fun _ => ⟨fun g => absurd g Bool.false_ne_true, fun g => absurd g Bool.false_ne_true⟩
theorem RoundTrip.belayMarker (port : Nat) (id : Nat) (init : Nat) (grp : Nat) : RoundTrip.Statement (.belayMarker port id init grp) := by
  exact fun _ => ⟨fun g => absurd g Bool.false_ne_true, fun g => absurd g Bool.false_ne_true⟩
theorem RoundTrip.cutRel : RoundTrip.Statement (.cutRel) := by
  exact fun _ => ⟨fun g => absurd g Bool.false_ne_true, fun g => absurd g Bool.false_ne_true⟩
theorem RoundTrip.cutAbort : RoundTrip.Statement (.cutAbort) := by
  exact fun _ => ⟨fun g => absurd g Bool.false_ne_true, fun g => absurd g Bool.false_ne_true⟩
theorem RoundTrip.bivEnter (grp : Nat) : RoundTrip.Statement (.bivEnter grp) := by
  exact fun _ => ⟨fun g => absurd g Bool.false_ne_true, fun g => absurd g Bool.false_ne_true⟩
theorem RoundTrip.bivWriteback : RoundTrip.Statement (.bivWriteback) := by
  exact fun _ => ⟨fun g => absurd g Bool.false_ne_true, fun g => absurd g Bool.false_ne_true⟩
theorem RoundTrip.bivForcedStop (th : Nat) : RoundTrip.Statement (.bivForcedStop th) := by
  exact fun _ => ⟨fun g => absurd g Bool.false_ne_true, fun g => absurd g Bool.false_ne_true⟩
theorem RoundTrip.bivFlush : RoundTrip.Statement (.bivFlush) := by
  exact fun _ => ⟨fun g => absurd g Bool.false_ne_true, fun g => absurd g Bool.false_ne_true⟩
theorem RoundTrip.bivSelfref : RoundTrip.Statement (.bivSelfref) := by
  exact fun _ => ⟨fun g => absurd g Bool.false_ne_true, fun g => absurd g Bool.false_ne_true⟩
theorem RoundTrip.bivEntryFail : RoundTrip.Statement (.bivEntryFail) := by
  exact fun _ => ⟨fun g => absurd g Bool.false_ne_true, fun g => absurd g Bool.false_ne_true⟩
theorem RoundTrip.bivResume : RoundTrip.Statement (.bivResume) := by
  exact fun _ => ⟨fun g => absurd g Bool.false_ne_true, fun g => absurd g Bool.false_ne_true⟩
theorem RoundTrip.bivRestore : RoundTrip.Statement (.bivRestore) := by
  exact fun _ => ⟨fun g => absurd g Bool.false_ne_true, fun g => absurd g Bool.false_ne_true⟩
theorem RoundTrip.bivReplay : RoundTrip.Statement (.bivReplay) := by
  exact fun _ => ⟨fun g => absurd g Bool.false_ne_true, fun g => absurd g Bool.false_ne_true⟩
theorem RoundTrip.bivWakeFail : RoundTrip.Statement (.bivWakeFail) := by
  exact fun _ => ⟨fun g => absurd g Bool.false_ne_true, fun g => absurd g Bool.false_ne_true⟩
theorem RoundTrip.ethqCfgWrite (port : Nat) (q : Nat) (value : BitVec 64) : RoundTrip.Statement (.ethqCfgWrite port q value) := by
  exact fun _ => ⟨fun g => absurd g Bool.false_ne_true, fun g => absurd g Bool.false_ne_true⟩
theorem RoundTrip.ethqPtrWrite (port : Nat) (q : Nat) (value : BitVec 64) : RoundTrip.Statement (.ethqPtrWrite port q value) := by
  exact fun _ => ⟨fun g => absurd g Bool.false_ne_true, fun g => absurd g Bool.false_ne_true⟩
theorem RoundTrip.ethDescriptorFetch (port : Nat) (q : Nat) : RoundTrip.Statement (.ethDescriptorFetch port q) := by
  exact fun _ => ⟨fun g => absurd g Bool.false_ne_true, fun g => absurd g Bool.false_ne_true⟩
theorem RoundTrip.ethFrameSent (port : Nat) (q : Nat) : RoundTrip.Statement (.ethFrameSent port q) := by
  exact fun _ => ⟨fun g => absurd g Bool.false_ne_true, fun g => absurd g Bool.false_ne_true⟩
theorem RoundTrip.ethFrameReceived (port : Nat) (frame : List (BitVec 8)) (fcsOk : Bool) : RoundTrip.Statement (.ethFrameReceived port frame fcsOk) := by
  exact fun _ => ⟨fun g => absurd g Bool.false_ne_true, fun g => absurd g Bool.false_ne_true⟩
theorem RoundTrip.ethLinkDown (port : Nat) : RoundTrip.Statement (.ethLinkDown port) := by
  exact fun _ => ⟨fun g => absurd g Bool.false_ne_true, fun g => absurd g Bool.false_ne_true⟩
theorem RoundTrip.reservedCodeDecode (e : DecodeErr) (bundle : BitVec 64) : RoundTrip.Statement (.reservedCodeDecode e bundle) := by
  exact fun _ => ⟨fun g => absurd g Bool.false_ne_true, fun g => absurd g Bool.false_ne_true⟩
theorem RoundTrip.barrierNetworkFault (launch : Nat) (level : Nat) (inst : Nat) : RoundTrip.Statement (.barrierNetworkFault launch level inst) := by
  exact fun _ => ⟨fun g => absurd g Bool.false_ne_true, fun g => absurd g Bool.false_ne_true⟩
theorem RoundTrip.hedgeBudgetAnswer (launch : Nat) (task : Nat) (attempt : Nat) (granted : Option Nat) : RoundTrip.Statement (.hedgeBudgetAnswer launch task attempt granted) := by
  exact fun _ => ⟨fun g => absurd g Bool.false_ne_true, fun g => absurd g Bool.false_ne_true⟩
theorem RoundTrip.backupEndCharge (b : AttemptName) (cycles : Nat) : RoundTrip.Statement (.backupEndCharge b cycles) := by
  exact fun _ => ⟨fun g => absurd g Bool.false_ne_true, fun g => absurd g Bool.false_ne_true⟩
theorem RoundTrip.cxlCacheSnoop (h : HostLine) (invalidate : Bool) : RoundTrip.Statement (.cxlCacheSnoop h invalidate) := by
  exact fun _ => ⟨fun g => absurd g Bool.false_ne_true, fun g => absurd g Bool.false_ne_true⟩
theorem RoundTrip.ethLinkUp (port : Nat) : RoundTrip.Statement (.ethLinkUp port) := by
  exact fun _ => ⟨fun g => absurd g Bool.false_ne_true, fun g => absurd g Bool.false_ne_true⟩
theorem RoundTrip.pauseFrameReceived (port : Nat) (pfc : Option (BitVec 8)) (quanta : Nat) : RoundTrip.Statement (.pauseFrameReceived port pfc quanta) := by
  exact fun _ => ⟨fun g => absurd g Bool.false_ne_true, fun g => absurd g Bool.false_ne_true⟩
theorem RoundTrip.pauseHoldExpiry (port : Nat) : RoundTrip.Statement (.pauseHoldExpiry port) := by
  exact fun _ => ⟨fun g => absurd g Bool.false_ne_true, fun g => absurd g Bool.false_ne_true⟩
theorem RoundTrip.virtualDieRemap (vdie : Nat) (pdie : Nat) : RoundTrip.Statement (.virtualDieRemap vdie pdie) := by
  exact fun _ => ⟨fun g => absurd g Bool.false_ne_true, fun g => absurd g Bool.false_ne_true⟩

end Sys2Proof.Laws
end

