-- ==== Sys2Proof/Tests/Slice0.lean ====
section
/-! SUPPORT. Tests: for each statement with hypotheses, a theorem that shows concrete states and operands that meet them (`wit_…`);
for each check of WellFormed a term that it refuses; words written out from the encodings; and single steps of instructions. -/
namespace Sys2Proof.Tests
set_option linter.unusedVariables false
set_option Elab.async false
open Sys2Proof Sys2Proof.Machine

/-! Readings of outcomes, for the witnesses. -/

def okOr {ε α : Type} (d : α) (e : Except ε α) : α := match e with | .ok x => x | .error _ => d
/-- canEnter, as a value. -/
def entersB (s : State) (c : Cond) (pc : Word) : Bool :=
  decide (c.code.toNat < 0x70) && !s.thr.inHandler && (s.core (thCore s.cur)).parked.isNone && decide (s.thr.y.hand ≠ 0) && decide (s.thr.y.hand.toNat % 8 = 0) && (writeFull s s.cur pc).isOk
theorem canEnter_of_entersB (s : State) (c : Cond) (pc : Word) (h : entersB s c pc = true) : canEnter s c pc := by
  simp only [entersB, Bool.and_eq_true, decide_eq_true_eq, Bool.not_eq_true'] at h
  obtain ⟨⟨⟨⟨⟨h1, h2⟩, hp⟩, h3⟩, h4⟩, h5⟩ := h
  refine ⟨h1, h2, Option.isNone_iff_eq_none.mp hp, h3, h4, ?_⟩
  cases e : writeFull s s.cur pc with
  | ok s1 => exact ⟨s1, rfl⟩
  | error x => rw [e] at h5; simp [Except.isOk, Except.toBool] at h5
/-- CopyPlace, as a value. -/
def copyPlaceB (s : State) (a : Word) (n : Nat) (x : Word) : Bool :=
  decide (a.toNat / 2 ^ 56 = 0 ∧ a.toNat + n ≤ 2 ^ 56 ∧ x = a) ||
  decide (0xFF00000000000000 ≤ a.toNat ∧ a.toNat < 0xFF00000000040000 ∧ a.toNat - 0xFF00000000000000 + n ≤ s.limit ∧
    x = BitVec.ofNat 64 (0xFF01 * 2 ^ 48 + thCore s.cur % 128 * 0x400000 + (s.base + (a.toNat - 0xFF00000000000000))))
theorem copyPlace_of_copyPlaceB (s : State) (a : Word) (n : Nat) (x : Word) (h : copyPlaceB s a n x = true) : CopyPlace s a n x := by
  simp only [copyPlaceB, Bool.or_eq_true, decide_eq_true_eq] at h
  rcases h with h | ⟨h1, h2, h3, h4⟩
  · exact .inl h
  · exact .inr ⟨a.toNat - 0xFF00000000000000, by omega, by omega, h3, h4⟩
def nextB (o : Host.Outcome State Fault Refusal) (t : State) : Bool := match o with | .next x => decide (x = t) | _ => false
def someOr {α : Type} (d : α) (e : Option α) : α := e.getD d

/-! States. -/

/-- After power-up, before anything. -/
def off : State := State.reset
/-- RUN, with every die up. -/
def up : State := (List.range 8).foldl (fun s d => s.setReg0 (dieOff d + 0xB00) 1) (off.setReg2 0 6)
def aRope : RopeSt := { RopeSt.reset with sat := 3, unsat := 2, fill := 5, least := 2, ceil := 9 }
def engaged : State := ((up.setReg0 (ropeOff 0 + 0x20) 8).setReg0 (ropeOff 0 + 0x10) 0x100).setRope 0 aRope
def unbalanced : State := engaged.setReg0 (ropeOff 0) 0x1000000000
def settled : State := up.setRope 0 { aRope with ceil := 1, cause := 1 }
def tapering : State := settled.setReg0 (ropeOff 0 + 0x10) 0x101
def clamped : State := { (up.setReg0 (ropeOff 0 + 0x30) 1).setRope 0 { RopeSt.reset with goodAt := some 0 } with clock := 16384 }
def clampedLong : State := { clamped with clock := 65536 }
def limits : State := (up.setReg0 (ropeOff 0 + 0x28) 0x5000000000C8).setReg0 8 300
def aLaunch : Launch := { num := 3, key := 1, part := 0, prio := 0, queue := 0, sqhead := 0, addr := 0, l := (Vector.replicate 16 0).set 12 0x0000FFFF00000000, phase := .running, since := 0, limit := 8, disc := 0, ranges := [], tasks := [], counts := (0, 0, 0), frames := [], place := none, left := [], bars := [], stage := 0, stagers := [], sched := [], short := 7, watts := 0, got := 0, thieves := [] }
def floored : State := { up with sch := { up.sch with launches := [aLaunch] }, clock := 2048 }
def held2 : State := up.setReg0 (dieOff 2 + 0xB00) 2
def feHeld : State := { up with plat := { up.plat with feHeld := true } }
def counted : State := (up.setReg0 (cntOff 0 2) 0xFFFF00FFFFFF).setReg0 (cntOff 1 3) 0x100000001
def boot (st len : Nat) : State := off.setReg2 0 (BitVec.ofNat 64 (st * 2 + len * 2 ^ 32))
def verified (st : State) : State := { st with plat := { st.plat with verified := true } }
def oldUnits : State := { up with plat := { up.plat with units := [{ die := 2, array := 3, inst := 1, off := 0, n := 1 }, { die := 1, array := 3, inst := 1, off := 0, n := 1 }] } }
def biv (n : Nat) : State := up.setReg2 0x4100 (BitVec.ofNat 64 n)
def bivCut : State := (biv 1).setReg2 0x4008 2
def bivLate : State := { biv 1 with clock := 2 ^ 40 }
def hostSector : Sector := { die := 0, addr := 0x80000000040, data := 5, dirty := true, bad := none, own := 0 }
def sectorS : State := { up with mem := { up.mem with l2 := [hostSector] } }
def spare3 : State := { verified (boot 2 128) with plat := { (verified (boot 2 128)).plat with dieMap := (verified (boot 2 128)).plat.dieMap.set 3 8 } }
def words : RecWords := { fullf := false, spec := false, srch := false, waith := false, runnable := true, running := true, pc := 0, frame := 0x100, gang := false, thief := false, backup := false, pweight := 0, cls := 0, attempt := 0, task := 0, tile := 0, start := 0, work := 0, launch := 3, bound := none, part := 0, dies := 255, depth := 0, livemap := 0, key := 0, laddr := 0, resv := 0 }
def aRec : Rec := { id := 9, w := words, place := .rest, die := 0, base := none, handles := Vector.replicate 16 .free, waits := 0, raised := 0, since := 0, barred := none, tested := false, region := none, doms := Vector.replicate 4 0, gsize := 0, lineage := 0, vdepth := 0, vthread := 0, fresh := false, owed := [], crc := 0 }
def forced : State := { biv 2 with rest := [(5, { Thread.reset with rcd := some aRec })], clock := 2 ^ 40 }
def leaf (page : Nat) : Word := BitVec.ofNat 64 (0xF8 * 2 ^ 56 + page * 2 ^ 16)
/-- Virtual page 0 of partition 0 is page 0 of die 0, as an engine's TLB and that of the Ethernet ports hold it. -/
def pageFor (clu : Nat) (s : State) : State := { s with mem := { s.mem with tlb := s.mem.tlb ++ [{ clu := clu, part := 0, vpage := 0, bits := 16, leaf := leaf 0 }] } }
/-- Port 63 up to device 5, with a few wavelengths in use. -/
def linkedUp : State := ((up.setReg2 0x200 0x100).setReg2 (portOff 63) (0x05 * 2 ^ 56 + 2)).setPort 63 { PortSt.reset with lams := [0, 1, 2], retr := [(4, 0)], linked := true, seq := 7, dark := some 0 }
def heldPort : State := linkedUp.setReg2 (portOff 63) (0x05 * 2 ^ 56 + 10)
def heldLate : State := { heldPort with clock := 2 ^ 40 }
def inCut (n : Nat) : State := { (heldPort.setReg2 0x4008 (BitVec.ofNat 64 (7 * 2 ^ 48 + n))) with plat := { (heldPort.setReg2 0x4008 (BitVec.ofNat 64 (7 * 2 ^ 48 + n))).plat with cutInputs := if n = 1 then [63] else [] } }
def darkPort : State := { (linkedUp.setReg2 (portOff 63) (0x05 * 2 ^ 56)).setPort 63 { PortSt.reset with dark := some 0, waiting := [{ th := 5, route := .remote 5, key := 0, len := 1, value := 0, addr := 0, full := false, empties := false, rcd := 9, joined := false }] } with clock := 2 ^ 40 }
def eth (cfg : Word) : State := ((((pageFor 128 (up.setReg2 (ethOff 7) cfg)).setReg2 (ethOff 7 + 0x10) 1).setReg2 (ethQOff 7 15) (2 ^ 63)).setReg2 (ethQOff 7 15 + 0x18) 0x100000000).setReg2 (ethOff 7 + 0x40) 0x800F000000000000
def sends : State := ((eth 0x06000000000C0D).setReg2 (ethQOff 7 15 + 0x18) 0x100000001).setEthQ 7 15 { send := [(0, 0x3C * 2 ^ 64 + 0x1000)], recv := [(0, 0x40 * 2 ^ 64 + 0x2000)] }
def sendsP : State := (sends.setReg2 (ethOff 7 + 0x10) 3)
def sqOn : State := up.setReg0 (0x10000 + 63 * 0x40 + 8) 0x10000
/-- A module with a launch whose record the last thread holds; partition 0 is mapped for its cluster. -/
def launched : State := { pageFor 127 up with sch := { up.sch with launches := [aLaunch] } }
def worker : Thread := { Thread.reset with pc := 0x40, npc := 0x48, rcd := some aRec.sealed, y := { SysRegs.reset with hand := 0x200 } }
def withT (n : Nat) (t : Thread) (s : State) : State := s.setT n t
def issueWith (f : IssueSt → IssueSt) (t : Thread) : Thread := { t with i := f t.i }
def working : State := withT 4095 worker launched
def awaits (a : Access) : State := withT 4095 (issueWith (fun i => { i with replies := [{ dest := .s 1, key := 0x10, acc := a, scope := none, addr := 0x10 }] }) worker) { launched with mem := { launched.mem with cells := [(0x13, 0x80)] } }
def blockedOn (w : Why) : State := withT 4095 (issueWith (fun i => { i with blocked := some w }) worker) { launched with mem := { launched.mem with empty := [0x20] } }
def laterCond : Cond := { code := 0x71, detail := 9, flags := 4 }
def owes : State := withT 4095 (issueWith (fun i => { i with later := [(0, { code := 0x24, detail := 9, flags := 4 })] }) worker) launched
def parkedCore : CoreSt := { CoreSt.reset with parked := some 4095, parkLaunch := some 3 }
def parkedRec : Rec := ({ aRec with w := { words with fullf := true, bound := some 4095, running := false } } : Rec).sealed
def parkedS : State := { launched with cores := [(1023, parkedCore)], sch := { launched.sch with recs := [parkedRec] } }
def oneOp (k : OpKind) (s : State) : State := { s with sch := { s.sch with ops := [{ id := 1, th := 4095, rcd := 9, clu := 127, scope := .clu, part := 0, spec := false, k := k }] } }
def theOp (k : OpKind) : Op := { id := 1, th := 4095, rcd := 9, clu := 127, scope := .clu, part := 0, spec := false, k := k }
def nearPiece : Piece := { off := 0, row := 0, joined := false, src := 0xFF0100001FC3FFF0, dst := .addr 0xFF01000000000000, len := 16, st := .waiting }
def farPiece : Piece := { off := 0, row := 0, joined := false, src := 0x10000, dst := .addr 0xFF01000000000000, len := 16, st := .waiting }
def donePiece : Piece := { nearPiece with st := .done }
def badPiece : Piece := { nearPiece with st := .failed laterCond }
def copies (ps : List Piece) : State := oneOp (.copy ps 5 false .handle) (withT 4095 { worker with r := worker.r.setH 3 (.pending 1) } { launched with mem := { launched.mem with cells := [(lsKey 1023 0x3FFF0, 7)] } })
def copyS (ps : List Piece) : OpKind := .copy ps 5 false .handle
def owned (s : State) : State := s.setReg0 (dieOff 7 + 15 * 8) 0x80
/-- A gang of one member; its frames lie at 0x4000, its schedule at 0x8000. -/
def gangL : Launch := { aLaunch with l := ((((((Vector.replicate 16 0).set 0 0x500).set 1 0x8000000000000000).set 6 0x8000).set 10 0x4000).set 11 0x10018).set 12 0x0000FFFF00000000 }
def gangRec : Rec := ({ aRec with w := { words with gang := true, frame := 0x4000 } } : Rec).sealed
def gangPl : Placement := { dies := [7], y0 := 3, x0 := 3, threads := [4095] }
def ganged (f : Launch → Launch) (t : Thread → Thread) (s : State) : State := withT 4095 (t { worker with rcd := some gangRec }) (owned { s with sch := { s.sch with launches := [f gangL] } })
def placing : State := owned { launched with sch := { launched.sch with launches := [{ gangL with phase := .placing }] }, clock := 2 ^ 20 }
def atBar : BarInst := { level := 3, inst := 0, arrived := [0], since := 0 }
def barred : State := { ganged (fun l => { l with bars := [atBar] }) (issueWith (fun i => { i with blocked := some (.bar 3 0 0) })) launched with clock := 2 ^ 32 }
def aSched : SchedSt := { idx := 0, clu := 127, stage := 0, running := false, done := false, ss := false }
/-- The schedule's entry copies 16 bytes from 0xFF01...0000 of core 127 to the same core's 0x100. -/
def scheduled : State := ganged (fun l => { l with sched := [aSched], place := some gangPl }) id { launched with mem := { launched.mem with tlb := launched.mem.tlb ++ [{ clu := 0, part := 0, vpage := 0, bits := 16, leaf := leaf 0 }], cells := bytesFrom 32 0x8000 (0xFF0100001FC00000 + 0xFF0100001FC00100 * 2 ^ 64 + 16 * 2 ^ 128 + 1 * 2 ^ 176 + 1 * 2 ^ 192) } }
def job (k : MxOp) (remote : Bool) : MxJob := { op := 1, idx := 31, what := k, remote := remote, part := 0, device := 0 }
def engine (f : CluSt → CluSt) (k : MxOp) : State :=
  let s := oneOp (.mx 7 127) (withT 4095 { worker with r := worker.r.setH 3 (.pending 1) } (owned launched))
  { s with mem := { s.mem with cells := [(abKey 127 0x40, 3), (wbKey 127 0x1F8001, 5), (acbKey 127 0xF0001, 6), (latchInKey 127 7, 9)] } }.setClu 127 (f { CluSt.reset with jobs := [job k false] })
def filling : State := up.setReg0 (ropeOff 31 + 0x20) 0xB
def aMsg : Msg := { header := 5, len := 8, payload := 77 }
def sent (dest : Nat) : State := oneOp (.msg dest aMsg 3) (withT 4095 worker launched)
def cmd (cap : BitVec 32) (k : MxOp) : State := oneOp (.mxcmd 127 cap k false) (withT 4095 worker (owned launched))
/-- Partition 0 by page tables: one page of 1 GiB at address 0. -/
def tables : List Host.Cell := bytesFrom 8 0x100000 (2 ^ 63 + 0x110000) ++ bytesFrom 8 0x110000 (0xF8 * 2 ^ 56)
def walked : State := { up.setReg0 (partOff 0) 0x100000 with mem := { up.mem with cells := tables }, sch := { up.sch with launches := [aLaunch] } }
/-- A tile descriptor at 0x3000: 128 bytes at 0x4000, version 5. -/
def described : State := { walked with mem := { walked.mem with cells := bytesFrom 16 0x3000 (0x4000 + 1 * 2 ^ 64 + 5 * 2 ^ 96) ++ bytesFrom 3 0x4000 0x010203 ++ tables } }
def commitK (base : BitVec 32) (a : Option CommitAns) : OpKind := .commit 3 7 0x8001 base 0x3000 0x3000 128 0x99 0x40 a
def commits (base : BitVec 32) : State := oneOp (commitK base none) described
def replied (a : CommitAns) : State := oneOp (commitK 5 (some a)) { described with sch := { described.sch with recs := [{ aRec with handles := aRec.handles.set 15 (.pending 1) }] } }
def treadK (ver : BitVec 32) (home : Bool) (x : Option (Nat × Nat)) : OpKind := .tread 0x3000 0x3000 ver 31 (lsKey 1023 0x100) 128 0 home x
def reads (ver : BitVec 32) (home : Bool) (x : Option (Nat × Nat)) : State :=
  { oneOp (treadK ver home x) (withT 4095 (issueWith (fun i => { i with ilock := [(31, 1)] }) { worker with r := worker.r.setH 15 (.pending 1) }) described) with clock := 2 ^ 32 }
/-- A launch of tasks: its descriptors at 0x3000, its frames at 0x4000. -/
def taskL : Launch := { aLaunch with l := (((((Vector.replicate 16 0).set 0 0x500).set 4 0x3000).set 10 0x4000).set 11 0x10018).set 12 0x0000FFFF00000000 }
def tasked (f : Launch → Launch) (rs : List Rec) (s : State) : State := owned { s with sch := { s.sch with launches := [f taskL], recs := rs } }
def ready (p : Place) : Rec := ({ aRec with place := p, w := { words with running := false } } : Rec).sealed
def freshRec : Rec := ({ aRec with place := .granted 4095, fresh := true, base := some 5, w := { words with running := false } } : Rec).sealed
def dies7 : State := pageFor 112 (pageFor 127 up)
def pickable : State := tasked id [freshRec] dies7
def queued7 : State := { tasked id [ready (.queue 7)] dies7 with clock := 2 ^ 20 }
def indexed : State := tasked (fun l => { l with ranges := [(7, 0, 2)] }) [] dies7
def slotRec7 : Rec := ({ aRec with place := .slot 1023 1, w := { words with running := false, runnable := false } } : Rec).sealed
def slotted : State := tasked id [slotRec7] dies7
def prefetched : State := { slotted with sch := { (oneOp (.copy [donePiece] 5 false (.prefetch 1023 1)) slotted).sch with recs := [slotRec7] } }
def thieves : ThiefNums := { die := 7, task := 0, lo := 0x8001, hi := 0x8021, asked := false }
/-- Thread 4094 searches: one frame with two alternatives, neither tried. -/
def victim : Thread := { worker with q := { worker.q with depth := 1 }, y := { worker.y with srch := 2 * 2 ^ 10 + 16 * 2 ^ 19 + 16 * 2 ^ 29 + 32 * 2 ^ 39 + 4 * 2 ^ 49 } }
def searched : State :=
  withT 4094 victim (tasked (fun l => { l with thieves := [thieves] }) [] { dies7 with mem := { dies7.mem with cells := bytesFrom 4 0x204 3 ++ bytesFrom 64 (lsKey 1023 0x20440) (0x200 + 2 * 2 ^ 200 + 0x300 * 2 ^ 256 + 0x77 * 2 ^ 320) } })
/-- Thread 4095 runs a task of class 0, whose entry at 0x3800 asks for a quantile; the rate of its class is 100. -/
def hedgeL : Launch := { taskL with l := taskL.l.set 5 (0x3800 + 2 ^ 48) }
def hedged (f : Launch → Launch) (cfg : Word) : State :=
  let s := withT 4095 { worker with rcd := some ({ aRec with base := some 5 } : Rec).sealed } (tasked (fun _ => f hedgeL) [] (pageFor 0 dies7))
  { ((s.setReg0 (partOff 0 + 8) cfg).setReg0 (issOff 0) 10000) with mem := { s.mem with cells := bytesFrom 8 0x3800 (2 ^ 52) }, clock := 2 ^ 30, sch := { s.sch with rings := [{ die := 7, launch := 3, cls := 0, rates := [100] }] } }
def mirrorOf (l : Launch) : Launch := { l with l := l.l.set 1 (2 ^ 59) }
def anOffer : Offer := { launch := 3, task := 0, attempt := 2, base := 5, devs := [9] }
def anAway : Away := { launch := 3, key := 1, part := 0, task := 0, attempt := 2, dev := 9 }
def noThread (s : State) : State := { s with thr := Thread.reset, rest := [] }
def offered : State := { hedged id 0 with sch := { (hedged id 0).sch with offers := [anOffer] } }
def awayS : State := { hedged id 0 with sch := { (hedged id 0).sch with away := [anAway] } }
def sqd (cfg cq coal : Word) (x : QueueSt) (s : State) : State :=
  { (((((s.setReg0 (sqOff 63 + 8) cfg).setReg0 (sqOff 63 + 0x20) cq).setReg0 (sqOff 63 + 0x30) coal).setReg0 (sqOff 63) 0x1000).setReg0 (sqOff 63 + 0x18) 0x2000).setReg2 0x170 1 with sch := s.sch }.setReg2 0x178 0xFFFFFF |>.setQueue 63 x
def anEntry : CqEntry := { q := 63, c0 := 1, c1 := 2, c2 := 3, c3 := 4 }
/-- A ring of eight with a launch record of words `l` at its head. -/
def ringed (l : Vector Word 16) : State :=
  let s := sqd 0x13000 0x13000 0 { QueueSt.reset with sqHead := 7, sqTail := 0 } (pageFor 0 walked)
  { s with mem := { s.mem with cells := tables ++ bytesFrom 128 (spaceKey 1 0x1380) (packN 64 (fun i => (l.toList.getD i 0).toNat) 16) } }
def goodWords : Vector Word 16 := (((((((Vector.replicate 16 0).set 0 0x500).set 4 0x3000).set 7 0x100000000).set 9 0x3400).set 10 0x4000).set 11 0x10046).set 3 0x100000001
def posting (coal : Word) : State := sqd 0x13000 0x13000 coal { QueueSt.reset with cqTail := 7, unsig := 1, waiting := [anEntry], phase := true } { up with clock := 2000 }
def dispatchable : State := { tasked (fun l => { l with phase := .admitted, l := (l.l.set 2 0x3900).set 3 3 }) [] { pageFor 0 dies7 with mem := { (pageFor 0 dies7).mem with cells := [(0x3900, 5)] } } with clock := 0 }
def counted0 : State := tasked (fun l => { l with phase := .running, limit := 3, counts := (2, 1, 0) }) [] dies7
def heldS (f : Launch → Launch) : State := tasked (fun l => f { l with phase := .held }) [] dies7
def busyTlb : State := { pageFor 127 up with sch := { up.sch with tlbiBusy := true } }
def regs (l : List (BitVec 5 × Word)) (t : Thread) : Thread := { t with r := l.foldl (fun r x => r.setS x.1 x.2) t.r }
/-- The last thread in focus. -/
def focused (t : Thread) (s : State) : State := { s with cur := 4095, thr := t }
def issuing (l : List (BitVec 5 × Word)) : State := focused (regs l worker) (owned launched)
def inAttempt (t : Thread) : Thread := { t with rcd := t.rcd.map (fun r => { r with w := { r.w with spec := true } }) }
def pends (t : Thread) : Thread := { t with r := t.r.setH 15 (.pending 7) }
/-- Destination s1, source s2, length and shape from s3 on. -/
def copyRegs (d a c c1 c2 : Word) : List (BitVec 5 × Word) := [(1, d), (2, a), (29, c), (30, c1), (31, c2)]
def copying (d a c c1 c2 : Word) : State := issuing (copyRegs d a c c1 c2)
def inGang (f : Launch → Launch) : State := focused { worker with rcd := some gangRec } (ganged f id launched)
def fullQueue (s : State) : State := s.setClu 127 { CluSt.reset with jobs := (List.range 32).map (fun i => { job .rot false with idx := i }) }
def winRegs1 (w : Word) (t : Thread) : Thread := { t with y := { t.y with win := t.y.win.set 1 w } }
def winRegs (w : Word) (t : Thread) : Thread := { t with y := { t.y with win := t.y.win.set 7 w } }
def mxRegs (a b c c1 c2 : Word) : List (BitVec 5 × Word) := [(1, a), (2, b), (29, c), (30, c1), (31, c2)]
def winOf (w : Word) : Window := match windowOf w with | some (some (x, _)) => x | _ => { fmt := .int8, rnd := .rne, sat := false, scale := 0 }
/-- A command block of `mxld` in the own region. -/
def blocked0 (cells : List Host.Cell) (s : State) : State := { s with mem := { s.mem with cells := cells } }
def messaging (l : List (BitVec 5 × Word)) : State := focused (regs l worker) (blocked0 (bytesFrom 16 (lsKey 1023 0x3FFE0) 0x0102030405060708090A0B0C0D0E0F) (owned launched))
def receiving (l : List (BitVec 5 × Word)) (m : List Msg) : State := focused { regs l worker with inbox := m } (owned launched)
def commanding (v : Nat) (l : List (BitVec 5 × Word)) (f : Thread → Thread) : State := focused (f (regs l worker)) (blocked0 (bytesFrom 16 (lsKey 1023 0x3FFE0) v) (owned launched))
def lostDie3 (s : State) : State := s.setReg0 (dieOff 3 + 0xB00) 3
/-- The last thread at an access of its own region: these stores wait in its core's buffer, and the first bytes of its region are these. -/
def nearL (buf : List Store) (l : List (BitVec 5 × Word)) : State :=
  (issuing l).setCore 1023 { CoreSt.reset with buf := buf } |> blocked0 (bytesFrom 16 (lsKey 1023 0x30000) 0x8F8E8D8C8B8A89880706050403020180)
def ownBuf (off len v : Nat) : Store := { th := 4095, route := .near, key := lsKey 1023 (0x30000 + off), len := len, value := v, addr := 0xFF00000000000000 + BitVec.ofNat 64 off, full := false, empties := false, rcd := 9, joined := false }
def ownA : List (BitVec 5 × Word) := [(1, 0x123456789ABCDEF), (2, 0xFF00000000000000), (3, 8)]
def bufs32 : List Store := (List.range 32).map (fun i => ownBuf (8 * i) 8 i)
/-- Depth 1, with an arena of 128 bytes at 0, a stack of 1024 at 0x400 and a trail of 16 entries at 0x800. -/
def atDepth (trail : Nat) (s : State) : State := { s with thr := { s.thr with q := { s.thr.q with depth := 1, trcnt := trail }, y := { s.thr.y with srch := 2 * 2 ^ 10 + 16 * 2 ^ 19 + 16 * 2 ^ 29 + 32 * 2 ^ 39 + 4 * 2 ^ 49 } } }
/-- s2 points at the start of window 1, whose control word this is. -/
def windowed (w : Word) (v : Nat) : State :=
  focused (winRegs1 w (regs [(1, 7), (2, 0xFF00000000040000)] worker)) (owned launched) |> blocked0 (bytesFrom 16 (lsKey 1023 0x30000) v)
def windowedS (w v : Word) : State := let s := windowed w 0; { s with thr := { s.thr with r := s.thr.r.setS 1 v } }
/-- The same with a vector of values in v29 and one of byte offsets in v3, falling by 8 each lane. -/
def nearV (buf : List Store) (l : List (BitVec 5 × Word)) : State :=
  let s := nearL buf l
  { s with thr := { s.thr with r := (s.thr.r.setV 29 (BitVec.ofNat 2048 (0x81828384 * ((2 ^ 256) ^ 8 / 0xFFFFFFFF)))).setV 3 (BitVec.ofNat 2048 (packN 32 (fun i => 8 * (31 - i % 32)) 64)) } }
/-- Words at these offsets of the own region are empty. -/
def emptied (offs : List Nat) (s : State) : State := { s with mem := { s.mem with empty := offs.map (fun o => lsKey 1023 (0x30000 + o)) } }
/-- The die's L2 holds a dirty sector of its own HBM and a clean one. -/
def dirtied (s : State) : State := { s with mem := { s.mem with l2 := [{ die := 7, addr := 0x40, data := 5, dirty := true, bad := none, own := 0 }, { die := 7, addr := 0x80, data := 6, dirty := false, bad := none, own := 0 }] } }
/-- Page 0 of partition 0 has this leaf for the thread's cluster. -/
def granting (l : Word) (s : State) : State := { s with mem := { s.mem with tlb := [{ clu := 127, part := 0, vpage := 0, bits := 16, leaf := l }] } }
def condOf (s : State) (a : Nat) : Cond := match lookup s (thClu s.cur) s.part a with | .error (.cond c _) => c | _ => mkCond 0 0
def cellsAt (k n v : Nat) (s : State) : State := blocked0 (bytesFrom n k v) s
/-- A store that waits, to a cached place of the module's HBM. -/
def storeG (a len v : Nat) : Store := { th := 4095, route := .cached a 0, key := maKey a, len := len, value := v, addr := BitVec.ofNat 64 a, full := false, empties := false, rcd := 9, joined := false }
def nearG (buf : List Store) (l : List (BitVec 5 × Word)) : State := (issuing l).setCore 1023 { CoreSt.reset with buf := buf } |> cellsAt 0x40 16 0x112233445566778899AABBCCDDEEFF00
def pinned (l : List (Bool × Nat × Nat × Nat)) (s : State) : State := { s with mem := { s.mem with pins := l.map (fun x => { l3 := x.1, die := x.2.1, line := x.2.2.1, part := x.2.2.2, launch := 3 }) } }
/-- Fifteen lines of the set of line 0 of die 7's L2, pinned by another partition. -/
def fullSet : List (Bool × Nat × Nat × Nat) := (List.range 15).map (fun i => (false, 7, 16 * 1024 * (i + 1), 1))
/-- The last thread in a launch whose live-map table at 0x3400 has this map at index 0. -/
def mapL : Launch := { gangL with l := (((gangL.l.set 7 0x100000000).set 9 0x3400).set 4 0x3000) }
def mapV (smask vmask pmask handles : Nat) : Nat := smask + vmask * 2 ^ 32 + pmask * 2 ^ 64 + handles * 2 ^ 80
def atMap (v : Nat) (f : Launch → Launch) (t : Thread → Thread) : State :=
  focused (t worker) (owned { launched with mem := { launched.mem with cells := bytesFrom 16 0x3400 v ++ bytesFrom 8 0x5000 0x300000007 }, sch := { launched.sch with launches := [f mapL] } })
def asGang (t : Thread) : Thread := { t with rcd := some gangRec }
def hands (t : Thread) : Thread := { t with inHandler := true }
def preempts (t : Thread) : Thread := { t with preempt := true }
def withH (h : BitVec 4) (x : Handle) (t : Thread) : Thread := { t with r := t.r.setH h x }
def searches (depth top trcnt : Nat) (t : Thread) : Thread := { t with q := { t.q with depth := depth, top := top, trcnt := trcnt }, y := { t.y with srch := 2 * 2 ^ 10 + 16 * 2 ^ 19 + 16 * 2 ^ 29 + 32 * 2 ^ 39 + 4 * 2 ^ 49 } }
def cutOf (s : State) : State := match exec (.cut 0 0) s with | .next t => t | _ => s
def arenaT (t : Thread) : Thread := searches 0 0x440 0 t
/-- The state after a `try` of three alternatives whose table stands at 0x5000. -/
def tried : State := match exec (.tryChoice 2 0 3 0) (atMap (mapV 0x7E 2 0x6 0) id (fun t => arenaT (regs [(2, 0x5000), (4, 77)] t))) with | .next t => t | _ => State.reset
def rerun (f : Thread → Thread) (s : State) : State := { s with thr := f s.thr }
/-- A thread of a launch with a table of tiles: one descriptor of 128 bytes at 0x3000. -/
def tileL : Launch := { taskL with l := (((taskL.l.set 3 0x400000000).set 7 0x100000000).set 9 0x3400) }
def tiling (f : Thread → Thread) (h : Launch → Launch) : State :=
  focused (f worker) (owned { launched with sch := { launched.sch with launches := [h tileL] }, mem := { launched.mem with cells := bytesFrom 16 0x3000 (0x4000 + 1 * 2 ^ 64 + 5 * 2 ^ 96) ++ bytesFrom 16 0x3400 (mapV 0xFE 0 0 0x8000) } })
def spec (t : Thread) : Thread := { t with rcd := some ({ aRec with base := some 4, w := { words with spec := true, tile := 0x3000, attempt := 2 } } : Rec).sealed }
/-- The bundle after that of the last thread, at 0x48 (and that at 0x40), reads as `v`; the page's leaf is `l`. -/
def fetchingL (l : Word) (v : Nat) : State := focused worker (owned { launched with mem := { launched.mem with cells := bytesFrom 16 0x40 (v * (2 ^ 64 + 1)), tlb := [{ clu := 127, part := 0, vpage := 0, bits := 16, leaf := l }] } })
def fetching (v : Nat) : State := fetchingL (leaf 0) v
def mapOf (s : State) : Nat × State := match liveMap s 0 with | .ok x => x | .error _ => (0, s)
def entOf (s : State) : Word × State := match entryOf s (s.getS 2).toNat 0 with | .ok x => x | .error _ => (0, s)
/-- The L3 holds these lines. -/
def holding (l : List Nat) (s : State) : State := { s with mem := { s.mem with l3 := l.map (fun n => { line := n, own := 0, held := (List.range 8).map (·, 0), dirty := 0, hidden := [] }) } }
/-- A core's L1 and a die's L2 hold the sector at module address 0. -/
def l1At0 (s : State) : State := { s with mem := { s.mem with l1 := [{ core := 1023, addr := 0, data := 5 }] } }
def l2At0 (s : State) : State := { s with mem := { s.mem with l2 := [{ die := 7, addr := 0, data := 6, dirty := false, bad := none, own := 0 }] } }
/-- Device 5 is reached over port 63, which has an allowance of `n`. -/
def routed (n : Nat) (s : State) : State := (s.setReg2 (0x400 + 5 * 8) 0x13F).setReg2 (portOff 63) (BitVec.ofNat 64 (5 * 2 ^ 56 + n * 2 ^ 44 + 2))
/-- The tile table lies at device 5. -/
def farTiles (s : State) : State :=
  granting (leaf (5 * 2 ^ 28)) { s with mem := { s.mem with cells := s.mem.cells ++ bytesFrom 16 (9 * 2 ^ 64 + 5 * 2 ^ 44 + 0x3000) (0x4000 + 1 * 2 ^ 64 + 5 * 2 ^ 96) } }
/-- A store on its way to device 5. -/
def flying : Store := { ownBuf 0 8 7 with route := .remote 5, key := 9 * 2 ^ 64 + 5 * 2 ^ 44 + 0x40 }
def postedS : State := up.setCore 1023 { CoreSt.reset with posted := [(0, flying)] }
/-- Thread 4094 of the core repeats. -/
def repeating (s : State) : State := withT 4094 (issueWith (fun i => { i with rep := some { pc := 0x38, n := 3, j := 0, stepO := false, stepD := false, stepA := false, stepB := false } }) worker) s
def theWant : Want := { launch := 3, task := 0, attempt := 1, cls := 0, base := some 5, die := 7, core := 1023, backup := true }
def wanting : State := { hedged id 0x10003E8 with sch := { (hedged id 0x10003E8).sch with wants := [theWant] } }
def homed (s : State) : State := holding [0x60, 0x80] s
/-- HeldL3 and HeldPlaces, as values. -/
def heldL3B (s : State) (a n : Nat) : Bool :=
  (List.range ((a + n - 1) / 128 + 1 - a / 128)).all (fun i => s.mem.l3.any (fun x => x.line == a / 128 + i) &&
    (List.range 8).all (fun j => !(sectorMask (a / 128 + i) a n).getLsbD j || l3Has s (a / 128 + i) j))
theorem heldL3_of_heldL3B (s : State) (a n : Nat) (h : heldL3B s a n = true) : HeldL3 s a n := by
  intro line h1 h2
  have h3 := List.all_eq_true.mp h (line - a / 128) (List.mem_range.mpr (by omega))
  have e : a / 128 + (line - a / 128) = line := by omega
  rw [e, Bool.and_eq_true] at h3
  obtain ⟨x, hx, hl⟩ := List.any_eq_true.mp h3.1
  refine ⟨⟨x, hx, beq_iff_eq.mp hl⟩, fun j hj hm => ?_⟩
  have h4 := List.all_eq_true.mp h3.2 j (List.mem_range.mpr hj)
  simpa [hm] using h4
def heldPlacesB (s : State) (ps : List (Route × Nat × Nat)) : Bool :=
  ps.all (fun p => match p.1 with | .l3 ma _ => heldL3B s ma p.2.2 | _ => false)
theorem heldPlaces_of_heldPlacesB (s : State) (ps : List (Route × Nat × Nat)) (h : heldPlacesB s ps = true) : HeldPlaces s ps := by
  intro p hp
  have h1 := List.all_eq_true.mp h p hp
  split at h1
  · next ma own e => exact ⟨ma, own, e, heldL3_of_heldL3B s ma _ h1⟩
  · simp at h1

/-- Every HBM home is up, as a value. -/
def allUp (s : State) : Bool := decide (s.bootState ≠ 2) && (List.range 8).all (fun d => decide (s.dieState d ≠ 0))
theorem homes_up (s : State) (h : allUp s = true) : ∀ a, inHbm a = true → notYetUp s a = false := by
  intro a ha
  simp only [allUp, Bool.and_eq_true, decide_eq_true_eq] at h
  have hd : homeDie a < 8 := by
    have e : homeDie a = (if inInterleaved a = true then uninterleave a else a) / 103079215104 := rfl
    rw [e]; rw [inHbm, Bool.or_eq_true] at ha
    by_cases hi : inInterleaved a = true
    · have h2 := hi
      simp only [inInterleaved, Bool.and_eq_true, decide_eq_true_eq] at h2
      rw [if_pos hi, uninterleave]
      simp only [dieBytes]
      omega
    · rw [if_neg hi]
      have h3 := ha.resolve_right hi
      simp only [inLocalView, decide_eq_true_eq] at h3
      omega
  have := List.all_eq_true.mp h.2 _ (List.mem_range.mpr hd)
  simp_all [notYetUp]

/-- The frame of a record lies at consecutive module addresses from `ma` in one page, as a value. -/
def frameMapped (s : State) (r : Rec) (leaf : Word) (bits ma : Nat) : Bool :=
  (List.range 0x2300).all (fun i => decide (lookup s (thClu s.cur) r.w.part (r.w.frame.toNat + i) = .ok (leaf, bits)) &&
    decide (leafAddr leaf bits (r.w.frame.toNat + i) = s.device * 2 ^ 44 + ma + i))
theorem mapped_of_frameMapped (s : State) (r : Rec) (leaf : Word) (bits ma : Nat) (h : frameMapped s r leaf bits ma = true) : ∀ i, i < 0x2300 →
    lookup s (thClu s.cur) r.w.part (r.w.frame.toNat + i) = .ok (leaf, bits) ∧ leafAddr leaf bits (r.w.frame.toNat + i) = s.device * 2 ^ 44 + ma + i := by
  intro i hi
  have := List.all_eq_true.mp h i (List.mem_range.mpr hi)
  simpa only [Bool.and_eq_true, decide_eq_true_eq] using this


/-! Hypotheses that hold (one theorem per statement, or per clause of one). -/


theorem wit_DecodeEncodeRoundTrip :
    ((Instr.ldW32 8 4 (.imm 4)).wf = true ∧ (Instr.ldW32 8 4 (.imm 4)).isLead = true) ∧
    ((Instr.vfma 3 5 6 7 .f32 ⟨.ru, true⟩).wf = true ∧ (Instr.vfma 3 5 6 7 .f32 ⟨.ru, true⟩).isArith = true) ∧
    (⟨7, .tryChoice 2 0 3 5, .arithNop⟩ : Bundle).wf = true ∧ (⟨0, .ldW32 8 4 (.imm 4), .add 3 4 6 7 .w32⟩ : Bundle).wf = true ∧
    (⟨1, .rep 0 5 true true false false, .arithNop⟩ : Bundle).wf = true := by
  decide +kernel
theorem wit_ReservedEncodingsRefused :
    (0x03F00000 / 2 ^ 26 % 4 = 0 ∧ 0x1D ≤ 0x03F00000 / 2 ^ 20 % 64) ∧ (0x04700000 / 2 ^ 26 % 4 = 1 ∧ 0x04700000 / 2 ^ 20 % 64 = 0x07) ∧
    (0x06A00000 / 2 ^ 26 % 4 = 1 ∧ 0x2A ≤ 0x06A00000 / 2 ^ 20 % 64) ∧ (0x09200000 / 2 ^ 26 % 4 = 2 ∧ 0x12 ≤ 0x09200000 / 2 ^ 20 % 64) ∧
    (0x0C600000 / 2 ^ 26 % 4 = 3 ∧ 0x06 ≤ 0x0C600000 / 2 ^ 20 % 64) ∧ (0x7D000000 / 2 ^ 25 % 128 = 0x3E ∧ 0x34 ≤ 0x3E ∧ 0x3E ≤ 0x3F) ∧ 0x3E000000 / 2 ^ 25 % 128 = 0x1F ∧ 0xAA000000 / 2 ^ 25 % 128 = 0x55 ∧ 0x7D ≤ 0xFE000000 / 2 ^ 25 % 128 ∧
    (1 < 2 ^ 32 ∧ 1 / 2 ^ 25 = 0 ∧ 1 ≠ 0) ∧
    (bitAt 0x8C500000 31 = true ∧ 0x8C500000 / 2 ^ 26 % 4 = 3 ∧ 0x8C500000 / 2 ^ 20 % 64 = 0x05) ∧
    (bitAt 0x06400000 31 = false ∧ 0x06400000 / 2 ^ 26 % 4 = 1 ∧ 0x06400000 / 2 ^ 20 % 64 = 0x24) ∧
    (issuing []).thr.i.rep = none := by decide +kernel
/-- The last thread, as `t`, about to issue the bundle `v` at 0x40. -/
def steppingAs (t : Thread) (v : Nat) : State := withT 4095 { t with npc := 0x40 } { (fetching v) with cur := 0, thr := Thread.reset }
def stepping (v : Nat) : State := steppingAs worker v
def isNext (o : Host.Outcome State Fault Refusal) : Bool := match o with | .next _ => true | _ => false
def nextOr (o : Host.Outcome State Fault Refusal) : State := match o with | .next t => t | _ => State.reset
/-- The hypotheses that all clauses of StepRunsTheDecodedInstruction share, of a state whose next bundle is `v`, which decodes to `b`. -/
def runsDecoded (s : State) (v : Nat) (b : Bundle) : Bool :=
  let f := s.focus 4095
  let s1 := (okOr (0, s) (fetchBits (atIssue f) f.thr.pc)).2
  decide (s.bivState ≠ 5) && (match s.agenda with | [] => true | (d, _) :: _ => decide (s.clock < d)) && (selfEvent s).isNone && decide (nextReady s = some 4095) &&
  (owedConds f.thr).isEmpty && f.thr.i.rep.isNone && (match fetchBits (atIssue f) f.thr.pc with | .ok (w, _) => decide (w = v) | .error _ => false) &&
  s1.thr.i.rep.isNone && s1.taken.isNone && (match decodeValue v with | .ok x => decide (x = b) | .error _ => false) && (heldBack s1 b).isNone &&
  (checkedReads s1 b).isEmpty && !interlocked s1.thr b && !heldByReplies s1.thr b && (owedRead s1.thr b).isNone && (badRead s1 b).isNone && isNext (exec b.lead s1)
/-- The state that the lead word leaves, and the fetched state. -/
def fetched (s : State) : State := (okOr (0, s) (fetchBits (atIssue (s.focus 4095)) (s.focus 4095).thr.pc)).2
def afterLead (s : State) (b : Bundle) : State := nextOr (exec b.lead (fetched s))
/-- The lead word goes on, and the arithmetic word takes no condition. -/
def bothRun (s : State) (v : Nat) (b : Bundle) : Bool :=
  let x := exec b.arith ((fetched s).setGen (afterLead s b).gen)
  runsDecoded s v b && (afterLead s b).taken.isNone && !reissues (afterLead s b).thr.i.blocked && !suspends b.lead && isNext x && (nextOr x).taken.isNone && !reissues (nextOr x).thr.i.blocked
/-- The arithmetic word takes a condition. -/
def arithTakes (s : State) (v : Nat) (b : Bundle) : Bool :=
  let x := exec b.arith ((fetched s).setGen (afterLead s b).gen)
  runsDecoded s v b && (afterLead s b).taken.isNone && !reissues (afterLead s b).thr.i.blocked && !suspends b.lead && isNext x && (nextOr x).taken.isSome &&
  isNext (exec b.arith (fetched s)) && (s.focus 4095).thr.i.replies.isEmpty
/-- The lead word suspends the thread after the arithmetic word. -/
def suspendsAfter (s : State) (v : Nat) (b : Bundle) : Bool :=
  let x := exec b.arith (fetched s)
  let y := exec b.lead (arithFirst (fetched s) (nextOr x) b.arith)
  runsDecoded s v b && (afterLead s b).taken.isNone && !reissues (afterLead s b).thr.i.blocked && suspends b.lead && isNext x && (nextOr x).taken.isNone && !reissues (nextOr x).thr.i.blocked &&
  isNext y && (nextOr y).taken.isNone && (nextOr y).thr.rcd.isNone

theorem wit_StepRunsTheDecodedInstruction_both :
    bothRun (stepping 0xDEADBEEF81A20000) 0xDEADBEEF81A20000 ⟨0, .lit 4 (.lit 0xDEADBEEF), .arithNop⟩ = true ∧
    bothRun (stepping 0x02C8639000000000) 0x02C8639000000000 ⟨0, .nop, .add 3 4 6 7 .w32⟩ = true := by decide +kernel
theorem wit_StepRunsTheDecodedInstruction_takes :
    (let s := stepping 0xC12000A; let b : Bundle := ⟨0, .puts 4 0x0A, .arithNop⟩
     runsDecoded s 0xC12000A b = true ∧ (afterLead s b).taken.isSome = true ∧ (s.focus 4095).thr.i.replies = []) ∧
    arithTakes (stepping 0xA08639000000000) 0xA08639000000000 ⟨0, .nop, .div 0 4 6 7 .w32⟩ = true := by decide +kernel
theorem wit_StepRunsTheDecodedInstruction_waits :
    (let s := steppingAs (withH 15 (.pending 7) worker) 0xC03C00; let b : Bundle := ⟨0, .wait 15, .arithNop⟩
     runsDecoded s 0xC03C00 b = true ∧ (afterLead s b).taken = none ∧ reissues (afterLead s b).thr.i.blocked = true) := by decide +kernel
theorem wit_StepRunsTheDecodedInstruction_suspends :
    suspendsAfter (stepping 0xA00000) 0xA00000 ⟨0, .endCont, .arithNop⟩ = true ∧
    suspendsAfter (stepping 0x2C8639000A00000) 0x2C8639000A00000 ⟨0, .endCont, .add 3 4 6 7 .w32⟩ = true := by decide +kernel
theorem wit_StepKeepsMemoryForm : (stepping 0xDEADBEEF81A20000).MemOk ∧ isNext (step (stepping 0xDEADBEEF81A20000)) = true := by
  unfold State.MemOk; decide +kernel
theorem wit_ScalarDivision :
    (let s := issuing [(2, 7), (3, 5)]; narrow .w8 (s.getS 3) ≠ 0 ∧ s.on 0 = true) ∧
    (let s := issuing [(2, 7), (3, 0x100)]; narrow .w8 (s.getS 3) = 0 ∧ s.on 0 = true) ∧ (issuing []).on 1 = false := by decide +kernel
theorem wit_BitFields :
    (let s := issuing [(3, 0x2000)]; 1 ≤ (s.getS 3).toNat / 2 ^ 8 % 2 ^ 7 ∧ (s.getS 3).toNat % 2 ^ 6 + (s.getS 3).toNat / 2 ^ 8 % 2 ^ 7 ≤ ITy.bits .w32) ∧
    (let s := issuing [(3, 0x2001)]; ITy.bits .w32 < (s.getS 3).toNat % 2 ^ 6 + (s.getS 3).toNat / 2 ^ 8 % 2 ^ 7 ∧ s.on 0 = true) ∧
    (issuing [(3, 1)]).getS 3 = 1 := by decide +kernel
theorem wit_ArithmeticFrame :
    (let i := Instr.add 0 1 2 3 .w32; let s := issuing []; let t := nextOr (exec i s)
     i.isArith = true ∧ s.taken = none ∧ isNext (exec i s) = true ∧ t.taken = none ∧ scalarDest i ≠ some 2 ∧ predDest i ≠ some 0 ∧ vectorDest i ≠ some 31 ∧
      (vectorDest i).isNone = true ∧ draws i = false) ∧
    (let i := Instr.vadd 0 1 2 3 .w32; let s := issuing []; let t := nextOr (exec i s)
     i.isArith = true ∧ s.taken = none ∧ isNext (exec i s) = true ∧ t.taken = none ∧ vectorDest i ≠ some 2 ∧ (2 : BitVec 5) ≠ 31) := by decide +kernel
theorem wit_VectorIntegerResults : ITy.vec .i8 = true ∧ ITy.vec .w32 = true := by decide
theorem wit_VectorDotCompareSelect : (ITy.i8 = .i8 ∨ ITy.i8 = .w8) ∧ ITy.vec .w16 = true := by decide
theorem wit_FloatArithmeticResults : FTy.arith .f32 = true ∧ (FTy.arith .bf16 = true ∧ FTy.bf16 ≠ .f32) := by decide
theorem wit_FloatSelectionResults : FTy.arith .f16 = true := by decide
theorem wit_SpecialFunctionResults : FTy.arith .f32 = true ∧ 1 ≠ 0 := by decide
theorem wit_ReductionResults : ITy.vec .w8 = true ∧ FTy.arith .bf16 = true := by decide
theorem wit_RandomNumbers : (ITy.i32 = .w32 ∨ ITy.i32 = .i32) ∧ FTy.arith .f16 = true := by decide
theorem wit_ByteReadsAfterWrite : (0 < 4 ∧ (3 < 4 ∨ 4 + 4 ≤ 3)) ∧ (4 < 4 ∨ 0 + 4 ≤ 4) := by decide
theorem wit_ResetMachine : 31 < 32 ∧ 63 < 64 := by decide
theorem wit_RepresentableValuesAreExact :
    (FTy.e4m3 ≠ .pw8 ∧ 0x7F < 2 ^ FTy.bits .e4m3 ∧ widen .e4m3 0x7F = .nan) ∧ (FTy.f32 ≠ .pw8 ∧ 1 < 2 ^ FTy.bits .f32 ∧ widen .f32 1 ≠ .nan) := by decide +kernel
theorem wit_VectorConversions :
    (0x81 / 16 % 8 = 0 ∧ 0x81 % 8 ≠ 0) ∧ (3 : BitVec 2).toNat < ratio (FTy.bits .e4m3) (FTy.bits .f32) ∧ widthPair (FTy.bits .bf16) (ITy.bits .i32) = true ∧
    (widthPair (FTy.bits .f32) (ITy.bits .i32) = true ∧ (false = true → FTy.bits .f32 ≠ ITy.bits .i32)) ∧ FTy.bf16 ≠ .f32 := by decide +kernel
theorem wit_ScalarConversion :
    (issuing []).on 1 = false ∧
    (let s := issuing [(2, 0x40490FDB)]; s.on 0 = true ∧ badFF .f32 .pw8 ((s.getS 2).toNat % 2 ^ FTy.bits .f32) 0 = none ∧ badFI .f32 ((s.getS 2).toNat % 2 ^ FTy.bits .f32) 0 = none) ∧
    (let s := issuing [(2, 0x7FC00000)]; s.on 0 = true ∧ (badFF .f32 .pw8 ((s.getS 2).toNat % 2 ^ FTy.bits .f32) 0).isSome = true ∧ FTy.f32 ≠ .pw8 ∧
      widen .f32 ((s.getS 2).toNat % 2 ^ FTy.bits .f32) = .nan) := by decide +kernel
theorem wit_PredicateResults :
    (issuing []).getP 1 = 0 ∧ (0 < 256 ∧ ((issuing []).getP 0).getLsbD 0 = true ∧ ∀ i, i < 0 → ((issuing []).getP 0).getLsbD i = false) ∧ (256 : BitVec 9).toNat ≤ 256 := by decide +kernel
theorem wit_PermutationResults :
    (let s := issuing [(3, 63)]; (s.getS 3).toNat < 2048 / ITy.bits .w32 ∧ s.on 0 = true) ∧
    (let s := issuing [(3, 64)]; 2048 / ITy.bits .w32 ≤ (s.getS 3).toNat ∧ s.on 0 = true ∧ s.on 1 = false) := by decide +kernel
theorem wit_BranchesAndCalls :
    ((issuing []).getS 2 = 0 ∧ (∀ i, i < 256 → ((issuing []).getP 0).getLsbD i = true) ∧ (∀ i, i < 256 → ((issuing []).getP 1).getLsbD i = false)) ∧
    ((issuing [(2, 0x8000000000000000)]).getS 2).toInt < 0 ∧ 0 < ((issuing [(2, 5)]).getS 2).toInt ∧
    ((issuing [(2, 0x80)]).getS 2).toNat % 8 = 0 ∧ ((issuing [(2, 0x84)]).getS 2).toNat % 8 ≠ 0 := by decide +kernel
theorem wit_LiteralsIntoRegisters : 0x81CF8000 / 2 ^ 26 % 4 = 0 ∧ 0x81CF8000 / 2 ^ 20 % 64 = 0x1C ∧ 0x81CF8000 / 2 ^ 15 % 32 = 31 := by decide
/-- The last thread with h15 in a state. -/
def h15 (x : Handle) : State := focused (withH 15 x worker) launched
theorem wit_HandleInstructions :
    (h15 .free).getH 15 = .free ∧ (h15 (.pending 7)).getH 15 = .pending 7 ∧ (h15 (.done 5 none none false)).getH 15 = .done 5 none none false ∧
    (h15 (.done 5 none (some .mod) false)).getH 15 = .done 5 none (some .mod) false ∧ (h15 (.done 5 (some laterCond) none false)).getH 15 = .done 5 (some laterCond) none false ∧
    (h15 (.done 5 (some laterCond) (some .mod) false)).getH 15 = .done 5 (some laterCond) (some .mod) false ∧
    (h15 (.done 5 none none true)).getH 15 = .done 5 none none true := by decide +kernel
theorem wit_HandleInstructions_fcancel (v : Word) (c : Option Cond) (sc : Option Scope) : (h15 .free).getH 15 ≠ .done v c sc true := by
  have : (h15 .free).getH 15 = .free := by decide +kernel
  rw [this]; simp
theorem wit_SystemRegisters :
    (issuing []).thr.rcd = some aRec.sealed ∧ (issuing []).launch = some aLaunch ∧ 0x1E ≤ (0x7FFF : BitVec 15).toNat ∧ (0x12 : BitVec 15).toNat < 0x13 ∧
    ((issuing []).thr.q.depth = 0 ∧ srchOk ((issuing []).getS 1) = true) ∧ (atDepth 0 (issuing [])).thr.q.depth ≠ 0 ∧
    srchOk ((issuing [(1, 0xFFFFFFFFFFFFFFFF)]).getS 1) = false := by decide +kernel
theorem wit_NearLoad :
    (let s := nearL [] ownA; newestOwn s s.cur (ownKey s 0) 4 = none) ∧
    (let s := nearL [ownBuf 0 8 5] ownA; newestOwn s s.cur (ownKey s 4) 4 = some (ownBuf 0 8 5) ∧ (ownBuf 0 8 5).key ≤ ownKey s 4 ∧ ownKey s 4 + 4 ≤ (ownBuf 0 8 5).key + 8) ∧
    (let s := nearL [ownBuf 2 1 5] ownA; newestOwn s s.cur (ownKey s 0) 4 = some (ownBuf 2 1 5) ∧ ownKey s 0 < (ownBuf 2 1 5).key) := by decide +kernel
/-- A thread of core 6 waits at the queue, whose turn comes before that of core 7. -/
def crowded (s : State) : State := withT 4088 (issueWith (fun i => { i with blocked := some .mxe }) worker) s
def ownTurn (s : State) : Bool := queueTurn s 127 (7 :: queueWaits s 127) == some 7
theorem wit_QueuesJob :
    (let s := issuing []; (s.clu 127).jobs.length < 32 ∧ queueWaits s 127 = []) ∧
    (let s := (crowded (issuing [])).setClu 127 { CluSt.reset with turn := 7 }; (s.clu 127).jobs.length < 32 ∧ queueWaits s 127 = [6] ∧ ownTurn s = true) ∧
    (let s := crowded (issuing []); (s.clu 127).jobs.length < 32 ∧ ownTurn s = false) ∧ 32 ≤ ((fullQueue (issuing [])).clu 127).jobs.length := by decide +kernel
theorem wit_Converts :
    (let s := { issuing [] with thr := { (issuing []).thr with r := (issuing []).thr.r.setV 4 (BitVec.ofNat 2048 0x7FC00000) } }
     s.act 0 8 0 = true ∧ (badFF .f32 .pw8 (el 32 (s.getV 4) 0).toNat 0).isSome = true) ∧
    (badFF .f32 .pw8 (el 32 ((issuing []).getV 4) 0).toNat 0).isNone = true := by decide +kernel
theorem wit_OpEnds :
    (∀ k, (k ∈ (copies [donePiece]).holders ∧ thRid ((copies [donePiece]).getT k) = 9) ↔ k = 4095) ∧
    ((copies [donePiece]).getT 4095).r.getH 3 = .pending 1 := by
  have hl : (copies [donePiece]).holders = [4095] := by decide +kernel
  have ht : thRid ((copies [donePiece]).getT 4095) = 9 := by decide +kernel
  refine ⟨fun k => ?_, by decide +kernel⟩
  rw [hl, List.mem_singleton]
  exact ⟨fun h => h.1, fun h => ⟨h, h ▸ ht⟩⟩
/-- A search's state after `tried` and a store of eight bytes to the arena. -/
def trailed : State :=
  match exec (.stW64 10 9 (.imm 0)) (rerun (fun t => { t with r := (t.r.setS 9 0xFF00000000000000).setS 10 0x1122334455667788 }) tried) with | .next t => t | _ => State.reset
theorem wit_SearchInstructions_restored :
    (let s := trailed; let f := ((stackOf s s.cur).reverse.headD (0, 0)).2; let off := ((stackOf s s.cur).reverse.headD (0, 0)).1
     let d := drainAll (s.modI (fun i => { i with wrote := [] })) (thCore s.cur); let s0 := backInto d f; let r := regionsOf s.thr.y.srch
     let en := fun (j : Nat) => d.mem.get (ownKey s (r.trail + 16 * j)) 16
     searchHere s = .ok () ∧ searchUnits s s.thr.q.top = .ok () ∧ s.thr.q.trcnt = 1 ∧ fTrtop f = 0 ∧ en 0 % 2 ^ 18 = 0 ∧ 2 ^ (en 0 / 2 ^ 30 % 4) = 8 ∧
     apart 0 8 r.stack r.stlen = true ∧ apart 0 8 r.trail r.trlen = true ∧ 16 ≤ r.trlen ∧ r.stack ≤ fSave f ∧
     fSave f + saveSize (fSmask f) (fVmask f) (fPmask f) ≤ r.stack + r.stlen ∧ 64 ≤ r.stlen ∧ r.stack ≤ off ∧ off + 27 ≤ r.stack + r.stlen ∧
     (okOr (0, s) (entryOf (writeHeader s0) (fTable f) ((untried f).headD 0))).2.mem.cells = (writeHeader s0).mem.cells ∧ (bitsOf 32 (fSmask f))[0]? = some 1) := by
  decide +kernel
/-- A dirty sector whose line the L3 holds. -/
def backS : State := holding [0] (dirtied (issuing []))
theorem wit_BackInPlace : BackInPlace backS 7 ∧ ∃ x ∈ backS.mem.l2, x.die = 7 ∧ x.dirty = true := by
  have hl : backS.mem.l2 = [{ die := 7, addr := 0x40, data := 5, dirty := true, bad := none, own := 0 }, { die := 7, addr := 0x80, data := 6, dirty := false, bad := none, own := 0 }] := by decide +kernel
  refine ⟨fun x hx hd hy => ?_, by rw [hl]; decide⟩
  simp only [hl, List.mem_cons, List.not_mem_nil, or_false] at hx
  rcases hx with rfl | rfl
  · refine ⟨heldL3_of_heldL3B _ _ _ (by decide +kernel), fun y h1 _ h2 => .inl ?_⟩
    simp only [hl, List.mem_cons, List.not_mem_nil, or_false] at h1
    rcases h1 with rfl | rfl
    · rfl
    · cases h2
  · cases hy
theorem wit_CacheMaintenance_pref :
    (let s := granting 0xE000000000000000 (dirtied (nearG [] [(1, 7), (2, 0x80), (3, 2)]))
     let x := okOr (s, Tgt.glob 0 0) (resolve s (s.getS 2).toNat 1 1 .load)
     (s.getS 2).toNat / 2 ^ 56 = 0 ∧ (resolve s (s.getS 2).toNat 1 1 .load).isOk = true ∧ tgtRoute x.1 x.2 = .cached 0x80 0) := by decide +kernel





set_option maxRecDepth 20000 in
theorem wit_RepetitionAndFetch_0 :
    (let s : State := fetching (0 + 0x02C86390 * 2 ^ 32); let c : BitVec 5 := 4; let k : BitVec 6 := 0; let n := if c = 0 then k.toNat + 1 else (s.getS c).toNat; (n < 1 ∨ 64 < n)) ∧
    (let s : State := fetching (0x0010000A + 0 * 2 ^ 32); let c : BitVec 5 := 0; let k : BitVec 6 := 0; let o : Bool := false; let d : Bool := false; let a : Bool := false; let b : Bool := false; let n := if c = 0 then k.toNat + 1 else (s.getS c).toNat; let v := (okOr (0, State.reset) (fetchBits s (s.thr.pc + 8))).1; let x := (okOr ((⟨0, .nop, .arithNop⟩ : Bundle)) (decodeValue v)); let r : Rep := { pc := s.thr.pc, n := n, j := 0, stepO := o, stepD := d, stepA := a, stepB := b }; (1 ≤ n) ∧ (n ≤ 64) ∧ ((fetchBits s (s.thr.pc + 8)).isOk = true) ∧ ((decodeValue v).isOk = true) ∧ ((∀ j, j < n → (repBundle r j x).isOk = true)) ∧ (repLead x.lead = false)) ∧
    (let s : State := fetching (0x02C86390 * 2 ^ 32); let c : BitVec 5 := 0; let k : BitVec 6 := 1; let o : Bool := false; let d : Bool := true; let a : Bool := false; let b : Bool := false; let n := if c = 0 then k.toNat + 1 else (s.getS c).toNat; let v := (okOr (0, State.reset) (fetchBits s (s.thr.pc + 8))).1; let x := (okOr ((⟨0, .nop, .arithNop⟩ : Bundle)) (decodeValue v)); let r : Rep := { pc := s.thr.pc, n := n, j := 0, stepO := o, stepD := d, stepA := a, stepB := b }; (1 ≤ n) ∧ (n ≤ 64) ∧ ((fetchBits s (s.thr.pc + 8)).isOk = true) ∧ ((decodeValue v).isOk = true) ∧ ((∀ j, j < n → (repBundle r j x).isOk = true)) ∧ (repLead x.lead = true)) ∧
    (let s : State := fetching (0x02C86390 * 2 ^ 32); let c : BitVec 5 := 0; let k : BitVec 6 := 63; let o : Bool := false; let d : Bool := true; let a : Bool := false; let b : Bool := false; let n := if c = 0 then k.toNat + 1 else (s.getS c).toNat; let v := (okOr (0, State.reset) (fetchBits s (s.thr.pc + 8))).1; let x := (okOr ((⟨0, .nop, .arithNop⟩ : Bundle)) (decodeValue v)); let r : Rep := { pc := s.thr.pc, n := n, j := 0, stepO := o, stepD := d, stepA := a, stepB := b }; let j : Nat := 28; let c' : Cond := mkCond 0x12 32; (1 ≤ n) ∧ (n ≤ 64) ∧ ((fetchBits s (s.thr.pc + 8)).isOk = true) ∧ ((decodeValue v).isOk = true) ∧ (j < n) ∧ ((∀ i, i < j → (repBundle r i x).isOk = true)) ∧ (repBundle r j x = .error (.cond c' none))) := by
  and_intros <;> decide +kernel

set_option maxRecDepth 20000 in
theorem wit_RepetitionAndFetch_1 :
    (let s : State := rerun (fun t => { t with npc := 0x90, i := { t.i with rep := some { pc := 0x38, n := 3, j := 0, stepO := true, stepD := true, stepA := false, stepB := false } } }) (fetching 0); let r : Rep := { pc := 0x38, n := 3, j := 0, stepO := true, stepD := true, stepA := false, stepB := false }; let q : Rec := aRec.sealed; (s.thr.rcd = some q) ∧ (reissues s.thr.i.blocked = false) ∧ (s.thr.i.rep = some r) ∧ (s.thr.pc ≠ r.pc) ∧ (r.j + 1 < r.n)) ∧
    (let s : State := rerun (fun t => { t with npc := 0x90, i := { t.i with rep := some { pc := 0x38, n := 3, j := 2, stepO := true, stepD := true, stepA := false, stepB := false } } }) (fetching 0); let r : Rep := { pc := 0x38, n := 3, j := 2, stepO := true, stepD := true, stepA := false, stepB := false }; let q : Rec := aRec.sealed; (s.thr.rcd = some q) ∧ (reissues s.thr.i.blocked = false) ∧ (s.thr.i.rep = some r) ∧ (s.thr.pc ≠ r.pc) ∧ (r.n ≤ r.j + 1) ∧ (s.thr.cancel = false) ∧ ((s.core (thCore s.cur)).parked = none)) := by
  and_intros <;> decide +kernel

set_option maxRecDepth 20000 in
theorem wit_RepetitionAndFetch_2 :
    (let s : State := fetchingL 0xF000000000000000 0; let leaf := (okOr (0, 0) (lookup (atIssue s) (thClu s.cur) s.part s.thr.pc.toNat)).1; (s.thr.pc.toNat < 2 ^ 56) ∧ ((lookup (atIssue s) (thClu s.cur) s.part s.thr.pc.toNat).isOk = true) ∧ (leaf.getLsbD 59 = false) ∧ (owedConds s.thr = []) ∧ (s.thr.i.replies = [])) := by
  decide +kernel


set_option maxRecDepth 20000 in
theorem wit_ConditionEntry_0 :
    (let s : State := issuing []; let c : Cond := { code := 0x24, detail := 9, flags := 4 }; let pc : Word := 0x40; let n : BitVec 5 := 0; let r : Rec := aRec.sealed; let leaf : Word := leaf 0; let bits : Nat := 16; let ma : Nat := 0x100; let i : Nat := 0x22FF; (entersB s c pc) ∧ (n ≠ 1) ∧ (n ≠ 2) ∧ (n ≠ 3) ∧ ((s.thr.rcd).isSome = true) ∧ (s.thr.rcd = some r) ∧ (badRegs s s.cur = []) ∧ (r.w.frame.toNat + 0x2300 ≤ 2 ^ 56) ∧ (inHbm ma = true) ∧ (inHbm (ma + 0x22FF) = true) ∧ (frameMapped s r leaf bits ma = true) ∧ (i < 0x2300)) := by
  decide +kernel


set_option maxRecDepth 20000 in
theorem wit_ParkingTheCore_0_0 :
    (let s : State := issuing []; let c : Cond := mkCond 0x71 7; (0x70 ≤ c.code.toNat ∨ s.thr.inHandler = true ∨ s.thr.y.hand = 0)) := by
  decide +kernel

set_option maxRecDepth 20000 in
theorem wit_ParkingTheCore_0_1 :
    (let s : State := focused { worker with y := { worker.y with hand := 0x84 } } launched; let c : Cond := { code := 0x24, detail := 9, flags := 4 }; (c.code.toNat < 0x70) ∧ (s.thr.inHandler = false) ∧ (s.thr.y.hand.toNat % 8 ≠ 0)) := by
  decide +kernel

set_option maxRecDepth 20000 in
theorem wit_ParkingTheCore_2_0 :
    (let s : State := issuing []; let pc : Word := 0x40; let frame : Bool := true; let others := fun (p : Nat → Prop) => ∀ i, i < 4 → thCore s.cur * 4 + i ≠ s.cur → p (thCore s.cur * 4 + i); ((s.core (thCore s.cur)).parked = none) ∧ ((frame = true → frameWaits s pc = false)) ∧ ((s.core (thCore s.cur)).message = none) ∧ (allUp s = true) ∧ (others (fun k => (s.getT k).i.rep = none ∧ (s.getT k).i.replies = [])) ∧ ((s.thr.rcd).isSome = true) ∧ (frame = true) ∧ ((writeFull s s.cur pc).isOk = true)) := by
  decide +kernel

set_option maxRecDepth 20000 in
theorem wit_ParkingTheCore_2_1 :
    (let s : State := repeating (issuing []); let pc : Word := 0x40; let frame : Bool := true; let others := fun (p : Nat → Prop) => ∀ i, i < 4 → thCore s.cur * 4 + i ≠ s.cur → p (thCore s.cur * 4 + i); ((s.core (thCore s.cur)).parked = none) ∧ ((frame = true → frameWaits s pc = false)) ∧ ((s.core (thCore s.cur)).message = none) ∧ (¬ others (fun k => (s.getT k).rcd.isSome = true → (s.getT k).i.rep = none ∧ (s.getT k).i.replies = []))) := by
  decide +kernel

set_option maxRecDepth 20000 in
theorem wit_ParkingTheCore_3_0 :
    (let s : State := { issuing [] with cores := [(1023, parkedCore)] }; let n : Nat := 4095; ((s.core (thCore s.cur)).parked = some n)) := by
  decide +kernel

set_option maxRecDepth 20000 in
theorem wit_ParkingTheCore_3_1 :
    (let s : State := (issuing []).setReg0 (dieOff 0 + 0xB00) 0; let pc : Word := 0x40; ((s.core (thCore s.cur)).parked = none) ∧ (frameWaits s pc = true)) := by
  decide +kernel

set_option maxRecDepth 20000 in
theorem wit_ParkingTheCore_4 :
    (let s : State := issuing []; let r : Rec := aRec.sealed; let i : Nat := 0; (s.thr.rcd = some r) ∧ (r.w.part < 64) ∧ (s.physTh s.cur < 4096) ∧ (i < 8)) := by
  decide +kernel


set_option maxRecDepth 20000 in
theorem wit_FullFrameLayout_0 :
    (let w : Fin 8 := 1; let t : Thread := winRegs 7 (winRegs1 9 { worker with rcd := some { aRec with base := some 0x12345678 } }); let r := (someOr (aRec) (t.rcd)); let n : BitVec 5 := 0; (0 < w.val) ∧ ((t.rcd).isSome = true) ∧ ((r.base).isSome = true) ∧ (n ≠ 31)) := by
  decide +kernel


set_option maxRecDepth 20000 in
theorem wit_HandlerReturn_0 :
    (let s : State := focused (regs [(4,0x80)] (id (worker))) (cellsAt 0x108 24 (0x1122 + 7 * 2^64 + 99 * 2^128) (owned launched)); (s.thr.inHandler = false)) ∧
    (let s : State := focused (regs [(4,0x81)] (hands (worker))) (cellsAt 0x108 24 (0x1122 + 7 * 2^64 + 99 * 2^128) (owned launched)); let a : BitVec 5 := 4; (s.thr.inHandler = true) ∧ ((s.getS a).toNat % 8 ≠ 0)) ∧
    (let s : State := focused (regs [(4,0x80)] (hands worker)) (cellsAt 0x108 24 (0x1122 + 7 * 2^64 + 99 * 2^128) (owned launched)); let a : BitVec 5 := 4; let r := (someOr (aRec) (s.thr.rcd)); (s.thr.inHandler = true) ∧ ((s.getS a).toNat % 8 = 0) ∧ ((s.thr.rcd).isSome = true) ∧ ((vmRead s (thClu s.cur) r.w.part (r.w.frame.toNat + 8) 24).isOk = true) ∧ (r.w.gang = true ∨ r.base.isSome = true ∨ s.getS a ≠ r.w.pc)) ∧
    (let s : State := focused (regs [(4,0)] (hands worker)) (cellsAt 0x108 24 (0x1122 + 7 * 2^64 + 99 * 2^128) (owned launched)); let a : BitVec 5 := 4; let r := (someOr (aRec) (s.thr.rcd)); let s1 := (okOr (0, State.reset) (vmRead s (thClu s.cur) r.w.part (r.w.frame.toNat + 8) 24)).2; (s.thr.inHandler = true) ∧ ((s.getS a).toNat % 8 = 0) ∧ ((s.thr.rcd).isSome = true) ∧ ((vmRead s (thClu s.cur) r.w.part (r.w.frame.toNat + 8) 24).isOk = true) ∧ (r.w.gang = false) ∧ (r.base = none) ∧ (s.getS a = r.w.pc) ∧ ((vmRead s1 (thClu s.cur) r.w.part r.w.tile 16).isOk = true)) := by
  and_intros <;> decide +kernel


set_option maxRecDepth 20000 in
theorem wit_SuspensionAndEnd_0 :
    (let s : State := atMap (mapV 0xFFFFFFFE 0x2000000F 0xFE 0x8001) id (fun t => id t); let m : Imm 15 := .imm 0; ((liveMap s (immMap m)).isOk = true) ∧ ((s.thr.inHandler = true ∨ (thSpec s.thr = false ∧ s.thr.preempt = false))) ∧ ((s.thr.inHandler = true ∨ s.thr.preempt = false))) ∧
    (let s : State := atMap (mapV 0xFFFFFFFE 0x2000000F 0xFE 0x8001) id (fun t => preempts t); let m : Imm 15 := .imm 0; let v := (okOr (0, State.reset) (liveMap s (immMap m))).1; let s1 := (okOr (0, State.reset) (liveMap s (immMap m))).2; let i : Instr := .yield m; let waits : BitVec 16 := mapHandles v; ((liveMap s (immMap m)).isOk = true) ∧ (s.thr.inHandler = false) ∧ ((s1.thr.rcd).isSome = true) ∧ (((i = .yield m ∧ (thSpec s.thr = true ∨ s.thr.preempt = true) ∧ waits = mapHandles v) ∨ (i = .safe m ∧ s.thr.preempt = true ∧ waits = 0))) ∧ (suspendSearch s1 v = .ok ()) ∧ ((writeBack s1 v (immMap m) (s.thr.pc + 8) waits).isOk = true)) := by
  and_intros <;> decide +kernel

set_option maxRecDepth 20000 in
theorem wit_SuspensionAndEnd_1 :
    (let s : State := atMap (mapV 0xFFFFFFFE 0x2000000F 0xFE 0x8001) id (fun t => id t); let m : Imm 15 := .imm 1; (liveMap s (immMap m) = raise 0x17 (immMap m))) := by
  decide +kernel

set_option maxRecDepth 20000 in
theorem wit_SuspensionAndEnd_2 :
    (let s : State := atMap (mapV 0xFFFFFFFE 0x2000000F 0xFE 0x8001) id (fun t => id t); (s.thr.inHandler = false)) := by
  decide +kernel

set_option maxRecDepth 20000 in
theorem wit_SuspensionAndEnd_3 :
    (let s : State := atMap (mapV 0xFFFFFFFE 0x2000000F 0xFE 0x8001) id (fun t => hands t); (s.thr.inHandler = true)) := by
  decide +kernel

set_option maxRecDepth 20000 in
theorem wit_SuspensionAndEnd_4 :
    (let s : State := atMap (mapV 0xFFFFFFFE 0x2000000F 0xFE 0x8001) id (fun t => id t); let t : State := s; (s.thr.inHandler = false) ∧ ((thGang s.thr = false → nextB (exec (.cut 0 0) s) t = true)) ∧ ((thGang s.thr = true → s.thr.q.depth = 0 ∧ t = s))) := by
  decide +kernel

set_option maxRecDepth 20000 in
theorem wit_SuspensionAndEnd_5 :
    (let s : State := atMap (mapV 0xFFFFFFFE 0x2000000F 0xFE 0x8001) id (fun t => id t); (s.thr.inHandler = false)) := by
  decide +kernel


set_option maxRecDepth 20000 in
theorem wit_BarriersFencesServices_0 :
    (let s : State := atMap (mapV 0 0 0 0) (id) (fun t => id t); let m : Imm 15 := .imm 0; let s1 := (okOr (0, State.reset) (liveMap s (immMap m))).2; (s.thr.inHandler = false) ∧ ((liveMap s (immMap m)).isOk = true) ∧ (thGang s1.thr = false)) ∧
    (let s : State := atMap (mapV 0 0 0 0) (id) (fun t => asGang t); let n : BitVec 5 := 0; let m : Imm 15 := .imm 0; let s1 := (okOr (0, State.reset) (liveMap s (immMap m))).2; let l : Launch := mapL; let r : Rec := gangRec; (s.thr.inHandler = false) ∧ ((liveMap s (immMap m)).isOk = true) ∧ (s1.launch = some l) ∧ (s1.thr.rcd = some r) ∧ (r.w.gang = true) ∧ (l.shape.count n.toNat = 0)) ∧
    (let s : State := atMap (mapV 0 0 0 0) (fun l => { l with left := [0] }) (fun t => asGang t); let n : BitVec 5 := 3; let m : Imm 15 := .imm 0; let s1 := (okOr (0, State.reset) (liveMap s (immMap m))).2; let l : Launch := { mapL with left := [0] }; let r : Rec := gangRec; (s.thr.inHandler = false) ∧ ((liveMap s (immMap m)).isOk = true) ∧ (s1.launch = some l) ∧ (s1.thr.rcd = some r) ∧ (r.w.gang = true) ∧ (l.shape.count n.toNat ≠ 0) ∧ (r.w.task ∈ l.left)) ∧
    (let s : State := atMap (mapV 0 0 0 0) (fun l => { l with bars := [atBar] }) (fun t => asGang t); let n : BitVec 5 := 3; let m : Imm 15 := .imm 0; let s1 := (okOr (0, State.reset) (liveMap s (immMap m))).2; let l : Launch := { mapL with bars := [atBar] }; let r : Rec := gangRec; let inst := l.shape.key n.toNat r.w.task; let b := (someOr (atBar) (barFind l n.toNat inst)); (s.thr.inHandler = false) ∧ ((liveMap s (immMap m)).isOk = true) ∧ (s1.launch = some l) ∧ (s1.thr.rcd = some r) ∧ (r.w.gang = true) ∧ (l.shape.count n.toNat ≠ 0) ∧ (r.w.task ∉ l.left) ∧ ((barFind l n.toNat inst).isSome = true) ∧ (r.w.task ∈ b.arrived)) ∧
    (let s : State := atMap (mapV 0 0 0 0) (id) (fun t => asGang t); let n : BitVec 5 := 3; let m : Imm 15 := .imm 0; let s1 := (okOr (0, State.reset) (liveMap s (immMap m))).2; let l : Launch := mapL; let r : Rec := gangRec; let inst := l.shape.key n.toNat r.w.task; (s.thr.inHandler = false) ∧ ((liveMap s (immMap m)).isOk = true) ∧ (s1.launch = some l) ∧ (s1.thr.rcd = some r) ∧ (r.w.gang = true) ∧ (l.shape.count n.toNat ≠ 0) ∧ (r.w.task ∉ l.left) ∧ ((∀ b, barFind l n.toNat inst = some b → r.w.task ∉ b.arrived))) := by
  and_intros <;> decide +kernel

set_option maxRecDepth 20000 in
theorem wit_BarriersFencesServices_1 :
    (let s : State := atMap (mapV 0 0 0 0) (id) (fun t => asGang t); let l : Launch := mapL; let r : Rec := gangRec; (s.thr.inHandler = false) ∧ (s.thr.rcd = some r) ∧ (r.w.gang = true) ∧ (s.findLaunch r.w.launch = some l)) := by
  decide +kernel

set_option maxRecDepth 20000 in
theorem wit_BarriersFencesServices_2 :
    (let s : State := atMap (mapV 0 0 0 0) (id) (fun t => id t); (s.thr.inHandler = false) ∧ (thGang s.thr = false)) := by
  decide +kernel

set_option maxRecDepth 20000 in
theorem wit_BarriersFencesServices_3 :
    (let s : State := atMap (mapV 0 0 0 0) (id) (fun t => id t); let sc : Scope := .core; (MayRelease s sc)) := by
  unfold MayRelease
  decide +kernel

set_option maxRecDepth 20000 in
theorem wit_BarriersFencesServices_4 :
    (let s : State := atMap (mapV 0 0 0 0) (id) (fun t => id t); let r : Rec := aRec.sealed; (s.thr.rcd = some r) ∧ (r.w.part < 64) ∧ (s.physTh s.cur < 4096)) := by
  decide +kernel


set_option maxRecDepth 20000 in
theorem wit_SearchInstructions_0 :
    (let s : State := atMap (mapV 0x7E 2 0x6 0) id (fun t => arenaT (regs [(2, 0x5000), (3, 2), (4, 0)] t)); let s1 : State := (mapOf s).2; let s2 : State := (entOf s1).2; let a : BitVec 5 := 2; let b : BitVec 5 := 0; let n : BitVec 7 := 3; let map : BitVec 16 := 0; let v : Nat := (mapOf s).1; let e : Word := (entOf s1).1; let k := if b = 0 then n.toNat else (s1.getS b).toNat; let q := s2.thr.q; let r := regionsOf s2.thr.y.srch; let table := (s1.getS a).toNat; (s.thr.inHandler = false) ∧ (thGang s.thr = false) ∧ (liveMap s map.toNat = .ok (v, s1)) ∧ (anyWon s1.thr.r = false) ∧ (s1.thr.r = s.thr.r) ∧ (1 ≤ k) ∧ (k ≤ 64) ∧ (table % 4 = 0) ∧ (entryOf s1 table 0 = .ok (e, s2)) ∧ (s2.thr.y.srch ≠ 0) ∧ (q.depth < 255) ∧ (r.stack + 64 ≤ q.top) ∧ (r.stack + r.stlen ≤ 65535) ∧ (q.top + 64 + saveSize (getBytes v 0 4 / 2 * 2) (getBytes v 4 4) (getBytes v 8 1) ≤ r.stack + r.stlen) ∧ (savesAwaited s.thr v = none) ∧ ((maskRegs (getBytes v 0 4 / 2 * 2) (getBytes v 4 4) (getBytes v 8 1)).all (fun g => (regBad s2 s2.cur g).isNone) = true)) := by
  decide +kernel

set_option maxRecDepth 20000 in
theorem wit_SearchInstructions_1 :
    (let s : State := tried; let off : Nat := ((stackOf s s.cur).reverse.headD (0,0)).1; let f : Nat := ((stackOf s s.cur).reverse.headD (0,0)).2; let i : Nat := ((untried f).headD 0); let rest : List (Nat × Nat) := (stackOf s s.cur).reverse.tail; let more : List Nat := (untried f).tail; let d := drainAll (s.modI (fun i => { i with wrote := [] })) (thCore s.cur); let s0 := backInto d f; (searchHere s = .ok ()) ∧ (searchUnits s s.thr.q.top = .ok ()) ∧ ((stackOf s s.cur).reverse = (off, f) :: rest) ∧ (untried f = i :: more) ∧ ((entryOf (writeHeader s0) (fTable f) i).isOk = true)) := by
  decide +kernel

set_option maxRecDepth 20000 in
theorem wit_SearchInstructions_2 :
    (let s : State := atMap (mapV 0x7E 2 0x6 0) id (fun t => arenaT (regs [(2, 0x5000), (3, 2), (4, 0)] t)); (searchHere s = .ok ()) ∧ (searchUnits s s.thr.q.top = .ok ()) ∧ (s.thr.q.depth = 0) ∧ (s.thr.i.replies = [])) := by
  decide +kernel

set_option maxRecDepth 20000 in
theorem wit_SearchInstructions_3 :
    (let s : State := atMap (mapV 0x7E 2 0x6 0) id (fun t => arenaT (regs [(2, 0x5000), (3, 2), (4, 0)] t)); let d : BitVec 5 := 0; let x : BitVec 15 := 0; let k := if d = 0 then x.toNat else (s.getS d).toNat; (searchHere s = .ok ()) ∧ (s.thr.q.depth ≤ k)) ∧
    (let s : State := atMap (mapV 0x7E 2 0x6 0) id (fun t => searches 3 0x480 2 (regs [(2, 0x5000), (3, 2), (4, 0)] t)); let d : BitVec 5 := 0; let x : BitVec 15 := 0; let k := if d = 0 then x.toNat else (s.getS d).toNat; (searchHere s = .ok ()) ∧ (k < s.thr.q.depth)) := by
  and_intros <;> decide +kernel

set_option maxRecDepth 20000 in
theorem wit_SearchInstructions_4 :
    (let s : State := atMap (mapV 0x7E 2 0x6 0) id (fun t => arenaT (regs [(2, 0x5000), (3, 2), (4, 0)] t)); (thGang s.thr = false)) ∧
    (let s : State := atMap (mapV 0x7E 2 0x6 0) id (fun t => (arenaT ∘ asGang) (regs [(2, 0x5000), (3, 2), (4, 0)] t)); (thGang s.thr = true)) := by
  and_intros <;> decide +kernel

set_option maxRecDepth 20000 in
theorem wit_SearchInstructions_5 :
    (let s : State := atMap (mapV 0x7E 2 0x6 0) id (fun t => (arenaT ∘ hands) (regs [(2, 0x5000), (3, 2), (4, 0)] t)); (s.thr.inHandler = true)) ∧
    (let s : State := atMap (mapV 0x7E 2 0x6 0) id (fun t => (arenaT ∘ asGang) (regs [(2, 0x5000), (3, 2), (4, 0)] t)); (s.thr.inHandler = false) ∧ (thGang s.thr = true)) := by
  and_intros <;> decide +kernel


set_option maxRecDepth 20000 in
theorem wit_CommitAndVersionedReads_0 :
    (let s : State := tiling (fun t => spec (regs [(2, 0), (3, 0x80)] t)) id; let h : BitVec 4 := 15; let a : BitVec 5 := 2; let map : BitVec 16 := 0; let v := (okOr (0, State.reset) (liveMap s map.toNat)).1; let s1 := (okOr (0, State.reset) (liveMap s map.toNat)).2; let s2 := (okOr (State.reset) (commitIssue s1 h (s.getS a).toNat v)); (s.thr.inHandler = false) ∧ ((liveMap s map.toNat).isOk = true) ∧ ((s1.thr.rcd).isSome = true) ∧ ((commitIssue s1 h (s.getS a).toNat v).isOk = true) ∧ ((writeBack s2 v map.toNat (s.thr.pc + 8) (BitVec.ofNat 16 (2 ^ h.toNat))).isOk = true)) ∧
    (let s : State := tiling (fun t => id (regs [(2, 0), (3, 0x80)] t)) id; let map : BitVec 16 := 0; let s1 := (okOr (0, State.reset) (liveMap s map.toNat)).2; (s.thr.inHandler = false) ∧ ((liveMap s map.toNat).isOk = true) ∧ (thSpec s1.thr = false)) ∧
    (let s : State := tiling (fun t => (spec ∘ withH 14 (.done 0 none none true)) (regs [(2, 0), (3, 0x80)] t)) id; let map : BitVec 16 := 0; let s1 := (okOr (0, State.reset) (liveMap s map.toNat)).2; (s.thr.inHandler = false) ∧ ((liveMap s map.toNat).isOk = true) ∧ (thSpec s1.thr = true) ∧ (anyWon s1.thr.r = true)) := by
  and_intros <;> decide +kernel

set_option maxRecDepth 20000 in
theorem wit_CommitAndVersionedReads_1 :
    (let s : State := tiling (fun t => spec (regs [(2, 0), (3, 0x80)] t)) id; let a : BitVec 5 := 2; let b : BitVec 5 := 3; let h : BitVec 4 := 15; let x := (okOr ((⟨0, 0, 0, 0⟩ : Desc), State.reset) (tableDesc s (s.getS a).toNat)).1; let s1 := (okOr ((⟨0, 0, 0, 0⟩ : Desc), State.reset) (tableDesc s (s.getS a).toNat)).2; (anyWon s.thr.r = false) ∧ ((tableDesc s (s.getS a).toNat).isOk = true) ∧ ((s.getS b).toNat % 128 = 0) ∧ ((s.getS b).toNat + descSize x.val ≤ s.limit) ∧ (s.thr.q.depth = 0) ∧ (s1.getH h = .free)) := by
  decide +kernel

set_option maxRecDepth 20000 in
theorem wit_CommitAndVersionedReads_2 :
    (let s : State := tiling (fun t => (spec ∘ withH 14 (.done 0 none none true)) (regs [(2, 0), (3, 0x80)] t)) id; let l : Launch := tileL; (s.launch = some l) ∧ (anyWon s.thr.r = true)) ∧
    (let s : State := tiling (fun t => spec (regs [(2, 8), (3, 0)] t)) id; let a : BitVec 5 := 2; let l : Launch := tileL; let off := (s.getS a).toNat; (s.launch = some l) ∧ (anyWon s.thr.r = false) ∧ (off % 16 ≠ 0)) ∧
    (let s : State := tiling (fun t => spec (regs [(2, 0x80), (3, 0)] t)) id; let a : BitVec 5 := 2; let l : Launch := tileL; let off := (s.getS a).toNat; (s.launch = some l) ∧ (anyWon s.thr.r = false) ∧ (off % 16 = 0) ∧ (16 * l.ttlen ≤ off)) := by
  and_intros <;> decide +kernel

set_option maxRecDepth 20000 in
theorem wit_CommitAndVersionedReads_3 :
    (let s : State := tiling (fun t => spec (regs [(2, 0), (3, 0x80)] t)) id; let a : BitVec 5 := 2; let x := (okOr ((⟨0, 0, 0, 0⟩ : Desc), State.reset) (tableDesc s (s.getS a).toNat)).1; let s1 := (okOr ((⟨0, 0, 0, 0⟩ : Desc), State.reset) (tableDesc s (s.getS a).toNat)).2; let s2 : State := s1; ((tableDesc s (s.getS a).toNat).isOk = true) ∧ ((x.dev = s.device ∧ s2 = s1) ∨ (x.dev ≠ s.device ∧ sendAccess s1 (.remote x.dev) = .ok s2))) ∧
    (let s : State := farTiles (routed 1 (tiling (fun t => spec (regs [(2, 0), (3, 0x80)] t)) id)); let a : BitVec 5 := 2; let x := (okOr ((⟨0, 0, 0, 0⟩ : Desc), State.reset) (tableDesc s (s.getS a).toNat)).1; let s1 := (okOr ((⟨0, 0, 0, 0⟩ : Desc), State.reset) (tableDesc s (s.getS a).toNat)).2; let w : Why := .queue; ((tableDesc s (s.getS a).toNat).isOk = true) ∧ (x.dev ≠ s.device) ∧ (sendAccess s1 (.remote x.dev) = .error (.wait w))) := by
  and_intros <;> decide +kernel


set_option maxRecDepth 20000 in
theorem wit_OwnRegionLoads_0 :
    (let s : State := nearL [] ownA; let i : Instr := .ldW8 1 2 (.imm 0); let o : Nat := 0; let d : BitVec 5 := 1; let sg : Bool := false; let a := (someOr (0, 0, .load) (scalarAccess s i)).1; let z := (someOr (0, 0, .load) (scalarAccess s i)).2.1; (scalarAccess s i = some (a, z, .load)) ∧ (scalarLoad i = some (d, sg)) ∧ (OwnAt s a z o) ∧ (o % z = 0)) := by
  unfold OwnAt
  decide +kernel

set_option maxRecDepth 20000 in
theorem wit_OwnRegionLoads_1 :
    (let s : State := windowed 0x3F80000000000001 0x8F8E8D8C8B8A89880706050403020180; let a : BitVec 5 := 2; let off : Imm 10 := .imm 0; let w : Nat := 1; let o : Nat := 0; let x : Window := winOf 0x3F80000000000001; let v := s.mem.get (ownKey s o) x.fmt.bytes; (0 < w) ∧ (w < 8) ∧ (windowOf (s.win w) = some (some (x, true))) ∧ (x.rnd ≠ .rs) ∧ ((s.getS a + lmOff 4 off).toNat = 0xFF00000000000000 + w * 0x40000 + o) ∧ (o + x.fmt.bytes ≤ s.limit) ∧ (o % x.fmt.bytes = 0) ∧ (s.mem.poisoned (ownKey s o) x.fmt.bytes = false) ∧ (newestOwn s s.cur (ownKey s o) x.fmt.bytes = none) ∧ (winLoadBad x v = false)) ∧
    (let s : State := windowed 0x3F80000000000005 0x8F8E8D8C8B8A89880706050403020180; let a : BitVec 5 := 2; let off : Imm 10 := .imm 1; let w : Nat := 1; let o : Nat := 4; let x : Window := winOf 0x3F80000000000005; let v := s.mem.get (ownKey s o) x.fmt.bytes; (0 < w) ∧ (w < 8) ∧ (windowOf (s.win w) = some (some (x, true))) ∧ (x.rnd ≠ .rs) ∧ ((s.getS a + lmOff 4 off).toNat = 0xFF00000000000000 + w * 0x40000 + o) ∧ (o + x.fmt.bytes ≤ s.limit) ∧ (o % x.fmt.bytes = 0) ∧ (s.mem.poisoned (ownKey s o) x.fmt.bytes = false) ∧ (newestOwn s s.cur (ownKey s o) x.fmt.bytes = none) ∧ (winLoadBad x v = true)) := by
  and_intros <;> decide +kernel


set_option maxRecDepth 20000 in
theorem wit_OwnRegionStores_0 :
    (let s : State := nearL [] ownA; let i : Instr := .stW8 1 2 (.imm 0); let o : Nat := 0; let d : BitVec 5 := 1; let a := (someOr (0, 0, .store) (scalarAccess s i)).1; let z := (someOr (0, 0, .store) (scalarAccess s i)).2.1; (scalarAccess s i = some (a, z, .store)) ∧ (scalarStore i = some d) ∧ (OwnAt s a z o) ∧ (o % z = 0) ∧ (s.thr.q.depth = 0)) ∧
    (let s : State := atDepth 0 (nearL [] [(1, 0x123456789ABCDEF), (2, 0xFF00000000000400), (3, 8)]); let i : Instr := .stW8 1 2 (.imm 0); let o : Nat := 1024; let d : BitVec 5 := 1; let a := (someOr (0, 0, .store) (scalarAccess s i)).1; let z := (someOr (0, 0, .store) (scalarAccess s i)).2.1; let r := regionsOf s.thr.y.srch; (scalarAccess s i = some (a, z, .store)) ∧ (scalarStore i = some d) ∧ (OwnAt s a z o) ∧ (o % z = 0) ∧ (s.thr.q.depth ≠ 0) ∧ (s.thr.y.srch ≠ 0) ∧ (apart o z r.stack r.stlen = false ∨ apart o z r.trail r.trlen = false)) ∧
    (let s : State := atDepth 16 (nearL [] [(1, 0x123456789ABCDEF), (2, 0xFF00000000000000), (3, 8)]); let i : Instr := .stW8 1 2 (.imm 0); let o : Nat := 0; let d : BitVec 5 := 1; let a := (someOr (0, 0, .store) (scalarAccess s i)).1; let z := (someOr (0, 0, .store) (scalarAccess s i)).2.1; let r := regionsOf s.thr.y.srch; (scalarAccess s i = some (a, z, .store)) ∧ (scalarStore i = some d) ∧ (OwnAt s a z o) ∧ (o % z = 0) ∧ (s.thr.q.depth ≠ 0) ∧ (s.thr.y.srch ≠ 0) ∧ (apart o z r.stack r.stlen = true) ∧ (apart o z r.trail r.trlen = true) ∧ (r.arena ≤ o) ∧ (o + z ≤ r.arena + r.alen) ∧ (r.trlen / 16 ≤ s.thr.q.trcnt)) ∧
    (let s : State := atDepth 0 (nearL [ownBuf 8 8 5] [(1, 0x123456789ABCDEF), (2, 0xFF00000000000000), (3, 8)]); let i : Instr := .stW8 1 2 (.imm 0); let o : Nat := 0; let d : BitVec 5 := 1; let a := (someOr (0, 0, .store) (scalarAccess s i)).1; let z := (someOr (0, 0, .store) (scalarAccess s i)).2.1; let r := regionsOf s.thr.y.srch; (scalarAccess s i = some (a, z, .store)) ∧ (scalarStore i = some d) ∧ (OwnAt s a z o) ∧ (o % z = 0) ∧ (s.thr.q.depth ≠ 0) ∧ (s.thr.y.srch ≠ 0) ∧ (apart o z r.stack r.stlen = true) ∧ (apart o z r.trail r.trlen = true) ∧ (r.arena ≤ o) ∧ (o + z ≤ r.arena + r.alen) ∧ (s.thr.q.trcnt < r.trlen / 16) ∧ (r.stack + 64 ≤ r.trail ∨ r.trail + r.trlen ≤ r.stack)) := by
  unfold OwnAt
  and_intros <;> decide +kernel

set_option maxRecDepth 20000 in
theorem wit_OwnRegionStores_1 :
    (let s : State := windowedS 0x3F80000000000001 0x40490FDB; let d : BitVec 5 := 1; let a : BitVec 5 := 2; let off : Imm 10 := .imm 0; let w : Nat := 1; let o : Nat := 0; let x : Window := winOf 0x3F80000000000001; (0 < w) ∧ (w < 8) ∧ (windowOf (s.win w) = some (some (x, true))) ∧ (x.rnd ≠ .rs) ∧ ((s.getS a + lmOff 4 off).toNat = 0xFF00000000000000 + w * 0x40000 + o) ∧ (o + x.fmt.bytes ≤ s.limit) ∧ (o % x.fmt.bytes = 0) ∧ (s.thr.q.depth = 0) ∧ ((winStore x 0 ((s.getS d).toNat % 2 ^ 32)).isSome = true)) ∧
    (let s : State := windowedS 0x3F80000000000005 0x7FC00000; let d : BitVec 5 := 1; let a : BitVec 5 := 2; let off : Imm 10 := .imm 0; let w : Nat := 1; let o : Nat := 0; let x : Window := winOf 0x3F80000000000005; (0 < w) ∧ (w < 8) ∧ (windowOf (s.win w) = some (some (x, true))) ∧ (x.rnd ≠ .rs) ∧ ((s.getS a + lmOff 4 off).toNat = 0xFF00000000000000 + w * 0x40000 + o) ∧ (o + x.fmt.bytes ≤ s.limit) ∧ (o % x.fmt.bytes = 0) ∧ (s.thr.q.depth = 0) ∧ (winStore x 0 ((s.getS d).toNat % 2 ^ 32) = none)) := by
  and_intros <;> decide +kernel


set_option maxRecDepth 20000 in
theorem wit_OwnRegionVectorAccesses_0 :
    (let s : State := nearV [] [(1, 0x123456789ABCDEF), (2, 0xFF00000000000000), (3, 8)]; let a : BitVec 5 := 2; let off : Imm 10 := .imm 0; let o : Nat := 0; let A := s.getS a + lmOff 256 off; (OwnAt s A 256 o) ∧ (o % 8 = 0) ∧ (s.thr.q.depth = 0)) := by
  unfold OwnAt
  decide +kernel

set_option maxRecDepth 20000 in
theorem wit_OwnRegionVectorAccesses_1 :
    (let s : State := nearV [] [(1, 0x123456789ABCDEF), (2, 0xFF00000000000000), (3, 8)]; let a : BitVec 5 := 2; let b : BitVec 5 := 0; let e : ESz := .e1; let p : BitVec 3 := 0; let off : Option (BitVec 32) := none; let o : Nat → Nat := fun i => i; let A := s.getS a + lrOff off; let stride := fun (i : Nat) => A + BitVec.ofNat 64 i * (if b = 0 then BitVec.ofNat 64 e.bytes else s.getS b); let good := fun (f : Nat → Word) => ∀ i ∈ activeElems s p e.bytes, OwnAt s (f i) e.bytes (o i) ∧ o i % e.bytes = 0; let plain := fun (f : Nat → Word) => good f ∧ ∀ i, i < 256 / e.bytes → drawsAt s (f i).toNat = false; (addrFmt s A.toNat = none) ∧ ((s.core (thCore s.cur)).buf = []) ∧ (plain stride) ∧ (OwnAt s A e.bytes (o 0)) ∧ (o 0 % e.bytes = 0) ∧ (s.thr.q.depth = 0)) ∧
    (let s : State := nearV [] [(1, 0x123456789ABCDEF), (2, 0xFF00000000000000), (3, 8)]; let a : BitVec 5 := 2; let b : BitVec 5 := 0; let e : ESz := .e1; let p : BitVec 3 := 0; let off : Option (BitVec 32) := none; let o : Nat → Nat := fun _ => 0; let A := s.getS a + lrOff off; let index := fun (i : Nat) => A + (el 32 (s.getV b) i).setWidth 64; let good := fun (f : Nat → Word) => ∀ i ∈ activeElems s p e.bytes, OwnAt s (f i) e.bytes (o i) ∧ o i % e.bytes = 0; let plain := fun (f : Nat → Word) => good f ∧ ∀ i, i < 256 / e.bytes → drawsAt s (f i).toNat = false; (addrFmt s A.toNat = none) ∧ ((s.core (thCore s.cur)).buf = []) ∧ (plain index) ∧ (s.thr.q.depth = 0)) := by
  unfold OwnAt
  and_intros <;> decide +kernel


set_option maxRecDepth 20000 in
theorem wit_SynchronisingAndOrderedAccesses_0 :
    (let s : State := nearV [] [(1, 0x123456789ABCDEF), (2, 0xFF00000000000000), (3, 8)]; let a : BitVec 5 := 2; let sz : LdSz := .i8; let off : Option (BitVec 32) := none; let o : Nat := 0; let A := s.getS a + lrOff off; let t := drainAll s (thCore s.cur); (OwnAt s A sz.bytes o) ∧ (o % sz.bytes = 0) ∧ (t.mem.allFull (ownKey s o) sz.bytes = true)) ∧
    (let s : State := emptied [0] (nearV [] [(1, 0x123456789ABCDEF), (2, 0xFF00000000000000), (3, 0)]); let a : BitVec 5 := 2; let sz : LdSz := .i8; let off : Option (BitVec 32) := none; let o : Nat := 0; let A := s.getS a + lrOff off; let t := drainAll s (thCore s.cur); (OwnAt s A sz.bytes o) ∧ (o % sz.bytes = 0) ∧ (t.mem.allFull (ownKey s o) sz.bytes = false) ∧ ((∀ w ∈ t.mem.empty, w % 4 = 0))) := by
  unfold OwnAt
  and_intros <;> decide +kernel

set_option maxRecDepth 20000 in
theorem wit_SynchronisingAndOrderedAccesses_1 :
    (let s : State := nearV [] [(1, 0x123456789ABCDEF), (2, 0xFF00000000000000), (3, 8)]; let a : BitVec 5 := 2; let off : Imm 10 := .imm 0; let o : Nat := 0; let A := s.getS a + lmOff 256 off; let t := drainAll s (thCore s.cur); (OwnAt s A 256 o) ∧ (o % 8 = 0) ∧ (t.mem.allFull (ownKey s o) 256 = true) ∧ (s.thr.q.depth = 0)) ∧
    (let s : State := emptied [0] (nearV [] [(1, 0x123456789ABCDEF), (2, 0xFF00000000000000), (3, 0)]); let a : BitVec 5 := 2; let off : Imm 10 := .imm 0; let o : Nat := 0; let A := s.getS a + lmOff 256 off; let t := drainAll s (thCore s.cur); (OwnAt s A 256 o) ∧ (o % 8 = 0) ∧ (t.mem.allFull (ownKey s o) 256 = false) ∧ ((∀ w ∈ t.mem.empty, w % 4 = 0))) := by
  unfold OwnAt
  and_intros <;> decide +kernel

set_option maxRecDepth 20000 in
theorem wit_SynchronisingAndOrderedAccesses_2 :
    (let s : State := nearV [] [(1, 0x123456789ABCDEF), (2, 0xFF00000000000000), (3, 8)]; let a : BitVec 5 := 2; let off : Imm 10 := .imm 0; let o : Nat := 0; let A := s.getS a + lmOff 4 off; (OwnAt s A 4 o) ∧ (o % 4 = 0) ∧ (s.thr.q.depth = 0)) := by
  unfold OwnAt
  decide +kernel

set_option maxRecDepth 20000 in
theorem wit_SynchronisingAndOrderedAccesses_3 :
    (let s : State := emptied [0] (nearV [] [(1, 0x123456789ABCDEF), (2, 0xFF00000000000000), (3, 0)]); let b : BitVec 5 := 3; let n := (s.getS b).toNat; (n = 0)) ∧
    (let s : State := nearV [] [(1, 0x123456789ABCDEF), (2, 0xFF00000000000000), (3, 8)]; let a : BitVec 5 := 2; let b : BitVec 5 := 3; let off : Option (BitVec 32) := none; let o : Nat := 0; let A := s.getS a + lrOff off; let n := (s.getS b).toNat; (n ≠ 0) ∧ (OwnAt s A n o) ∧ (o % 4 = 0) ∧ (n % 4 = 0)) ∧
    (let s : State := nearV [] [(1, 0x123456789ABCDEF), (2, 0xFF00000000000000), (3, 8)]; let a : BitVec 5 := 2; let b : BitVec 5 := 3; let off : Option (BitVec 32) := some 2; let o : Nat := 2; let A := s.getS a + lrOff off; let n := (s.getS b).toNat; (n ≠ 0) ∧ (OwnAt s A n o) ∧ (o % 4 ≠ 0 ∨ n % 4 ≠ 0)) := by
  unfold OwnAt
  and_intros <;> decide +kernel

set_option maxRecDepth 20000 in
theorem wit_SynchronisingAndOrderedAccesses_4 :
    (let s : State := nearV [] [(1, 0x123456789ABCDEF), (2, 0xFF00000000000000), (3, 8)]; let a : BitVec 5 := 2; let sz : ESz := .e1; let off : Option (BitVec 32) := none; let o : Nat := 0; let A := s.getS a + lrOff off; let sc : Scope := .core; (OwnAt s A sz.bytes o) ∧ (o % sz.bytes = 0) ∧ (s.thr.q.depth = 0) ∧ (sc.wide = false)) ∧
    (let s : State := nearV [] [(1, 0x123456789ABCDEF), (2, 0xFF00000000000000), (3, 8)]; let a : BitVec 5 := 2; let sz : ESz := .e1; let sc : Scope := .mod; let off : Option (BitVec 32) := none; let o : Nat := 0; let A := s.getS a + lrOff off; (OwnAt s A sz.bytes o) ∧ (o % sz.bytes = 0) ∧ (s.thr.q.depth = 0) ∧ (sc.wide = true) ∧ (MayRelease s sc)) := by
  unfold MayRelease OwnAt
  and_intros <;> decide +kernel


set_option maxRecDepth 20000 in
theorem wit_AccessConditions_0 :
    (let s : State := issuing [(1,7),(2,0x0100000000000000),(3,0)]; let i : Instr := .stW8 1 2 (.imm 0); let ea := (someOr (0, 0, Need.load) (scalarAccess s i)).1; let a := ea.toNat; ((scalarAccess s i).isSome = true) ∧ (a / 2 ^ 56 ≠ 0) ∧ (a / 2 ^ 56 ≠ 0xFF)) ∧
    (let s : State := issuing [(1,7),(2,0xFF03000000000000),(3,0)]; let i : Instr := .stW8 1 2 (.imm 0); let ea := (someOr (0, 0, Need.load) (scalarAccess s i)).1; let a := ea.toNat; ((scalarAccess s i).isSome = true) ∧ (a / 2 ^ 56 = 0xFF) ∧ (3 ≤ a / 2 ^ 48 % 256)) ∧
    (let s : State := issuing [(1,7),(2,0xFF00000000010000),(3,0)]; let i : Instr := .stW8 1 2 (.imm 0); let ea := (someOr (0, 0, Need.load) (scalarAccess s i)).1; let z := (someOr (0, 0, Need.load) (scalarAccess s i)).2.1; let a := ea.toNat; let o : Nat := 65536; ((scalarAccess s i).isSome = true) ∧ (a = 0xFF00000000000000 + o) ∧ (o < 0x40000) ∧ (s.limit < o + z)) ∧
    (let s : State := issuing [(1,7),(2,0xFF00000000000001),(3,0)]; let i : Instr := .ldI16 1 2 (.imm 0); let ea := (someOr (0, 0, Need.load) (scalarAccess s i)).1; let z := (someOr (0, 0, Need.load) (scalarAccess s i)).2.1; let a := ea.toNat; let o : Nat := 1; ((scalarAccess s i).isSome = true) ∧ (a = 0xFF00000000000000 + o) ∧ (o + z ≤ s.limit) ∧ (o % z ≠ 0)) ∧
    (let s : State := issuing [(1,7),(2,0x1),(3,0)]; let i : Instr := .ldI16 1 2 (.imm 0); let ea := (someOr (0, 0, Need.load) (scalarAccess s i)).1; let z := (someOr (0, 0, Need.load) (scalarAccess s i)).2.1; let a := ea.toNat; ((scalarAccess s i).isSome = true) ∧ (a / 2 ^ 56 = 0) ∧ (a % z ≠ 0)) ∧
    (let s : State := issuing [(1,7),(2,0x0100000000000000),(3,0)]; let i : Instr := .ldx 1 2 3 true .w64 (some (-64)); let ea := (someOr (0, 0, Need.load) (scalarAccess s i)).1; let z := (someOr (0, 0, Need.load) (scalarAccess s i)).2.1; let a := ea.toNat; let c : Cond := condOf s a; ((scalarAccess s i).isSome = true) ∧ (a / 2 ^ 56 = 0) ∧ (a % z = 0) ∧ (lookup s (thClu s.cur) s.part a = .error (.cond c none))) ∧
    (let s : State := granting (0x8000000000000000) (issuing [(1,7),(2,0),(3,0)]); let i : Instr := .stW8 1 2 (.imm 0); let ea := (someOr (0, 0, Need.load) (scalarAccess s i)).1; let z := (someOr (0, 0, Need.load) (scalarAccess s i)).2.1; let need := (someOr (0, 0, Need.load) (scalarAccess s i)).2.2; let a := ea.toNat; let leaf := (okOr (0, 0) (lookup s (thClu s.cur) s.part a)).1; ((scalarAccess s i).isSome = true) ∧ (a / 2 ^ 56 = 0) ∧ (a % z = 0) ∧ ((lookup s (thClu s.cur) s.part a).isOk = true) ∧ (need.granted leaf = false)) ∧
    (let s : State := granting (0xF800040000020000) (issuing [(1,7),(2,0),(3,0)]); let i : Instr := .stW8 1 2 (.imm 0); let ea := (someOr (0, 0, Need.load) (scalarAccess s i)).1; let z := (someOr (0, 0, Need.load) (scalarAccess s i)).2.1; let need := (someOr (0, 0, Need.load) (scalarAccess s i)).2.2; let a := ea.toNat; let leaf := (okOr (0, 0) (lookup s (thClu s.cur) s.part a)).1; let bits := (okOr (0, 0) (lookup s (thClu s.cur) s.part a)).2; let fa := leafAddr leaf bits a; ((scalarAccess s i).isSome = true) ∧ (a / 2 ^ 56 = 0) ∧ (a % z = 0) ∧ ((lookup s (thClu s.cur) s.part a).isOk = true) ∧ (need.granted leaf = true) ∧ (reservedMa (fa % 2 ^ 44) = true)) ∧
    (let s : State := granting 0xF800000000000000 (focused (inAttempt (regs [(1,7),(2,0)] worker)) (owned launched)); let i : Instr := .stW8 1 2 (.imm 0); let ea := (someOr (0, 0, Need.load) (scalarAccess s i)).1; let z := (someOr (0, 0, Need.load) (scalarAccess s i)).2.1; let need := (someOr (0, 0, Need.load) (scalarAccess s i)).2.2; let a := ea.toNat; let leaf := (okOr (0, 0) (lookup s (thClu s.cur) s.part a)).1; let bits := (okOr (0, 0) (lookup s (thClu s.cur) s.part a)).2; let fa := leafAddr leaf bits a; ((scalarAccess s i).isSome = true) ∧ (a / 2 ^ 56 = 0) ∧ (a % z = 0) ∧ ((lookup s (thClu s.cur) s.part a).isOk = true) ∧ (need.granted leaf = true) ∧ (reservedMa (fa % 2 ^ 44) = false) ∧ (reachable s fa z = .ok ()) ∧ (bellOk s fa z need = true) ∧ (need = .store) ∧ (thSpec s.thr = true)) := by
  and_intros <;> decide +kernel


set_option maxRecDepth 20000 in
theorem wit_AtomicResults_0 :
    (let s : State := nearV [] [(1, 5), (2, 0xFF00000000000000), (3, 0)]; let a : BitVec 5 := 2; let t : ATy := .i32; let sc : Scope := .core; let off : Option (BitVec 32) := none; let o : Nat := 0; let A := s.getS a + lrOff off; let r := release s s.cur sc; let k : BitVec 24 := 0; (OwnAt s A t.bytes o) ∧ (o % t.bytes = 0) ∧ (s.thr.q.depth = 0) ∧ (MayRelease s sc) ∧ (r.mem.poisoned (ownKey s o) t.bytes = false) ∧ (OwnAt s A 4 o) ∧ (o % 4 = 0) ∧ (r.mem.poisoned (ownKey s o) 4 = false) ∧ (OwnAt s (s.getS a + BitVec.ofInt 64 k.toInt) t.bytes o)) := by
  unfold MayRelease OwnAt
  decide +kernel


set_option maxRecDepth 20000 in
theorem wit_CachedAccesses_0 :
    (let s : State := granting 0xE000000000000000 (issuing [(1,7),(2,0),(3,0)]); let i : Instr := .ldW8 1 2 (.imm 0); let d : BitVec 5 := 1; let sg : Bool := false; let leaf : Word := 0xE000000000000000; let bits : Nat := 16; let ma : Nat := 0; let ea := (someOr (0, 0, .load) (scalarAccess s i)).1; let z := (someOr (0, 0, .load) (scalarAccess s i)).2.1; let own := ownerOf s.part leaf; let a := ma / 16 * 16; (scalarAccess s i = some (ea, z, .load)) ∧ (scalarLoad i = some (d, sg)) ∧ (CachedAt s ea.toNat z leaf bits ma) ∧ (leaf.getLsbD 61 = true) ∧ (badPlace s (thDie s.cur) (.cached ma own) (maKey ma) z = none) ∧ (newestOwn s s.cur (maKey ma) z = none) ∧ (l1Find s (thCore s.cur) a = none) ∧ (l2Find s (thDie s.cur) a = none) ∧ (inTlb s ea.toNat leaf bits) ∧ (RoomFor s (thDie s.cur) own (ma / 128))) ∧
    (let s : State := l1At0 (granting 0xE000000000000000 (issuing [(1,7),(2,0),(3,0)])); let i : Instr := .ldW8 1 2 (.imm 0); let d : BitVec 5 := 1; let sg : Bool := false; let leaf : Word := 0xE000000000000000; let bits : Nat := 16; let ma : Nat := 0; let ea := (someOr (0, 0, .load) (scalarAccess s i)).1; let z := (someOr (0, 0, .load) (scalarAccess s i)).2.1; let own := ownerOf s.part leaf; let a := ma / 16 * 16; (scalarAccess s i = some (ea, z, .load)) ∧ (scalarLoad i = some (d, sg)) ∧ (CachedAt s ea.toNat z leaf bits ma) ∧ (leaf.getLsbD 61 = true) ∧ (badPlace s (thDie s.cur) (.cached ma own) (maKey ma) z = none) ∧ (newestOwn s s.cur (maKey ma) z = none) ∧ ((l1Find s (thCore s.cur) a).isSome = true)) ∧
    (let s : State := l2At0 (granting 0xE000000000000000 (issuing [(1,7),(2,0),(3,0)])); let i : Instr := .ldW8 1 2 (.imm 0); let d : BitVec 5 := 1; let sg : Bool := false; let leaf : Word := 0xE000000000000000; let bits : Nat := 16; let ma : Nat := 0; let ea := (someOr (0, 0, .load) (scalarAccess s i)).1; let z := (someOr (0, 0, .load) (scalarAccess s i)).2.1; let own := ownerOf s.part leaf; let a := ma / 16 * 16; (scalarAccess s i = some (ea, z, .load)) ∧ (scalarLoad i = some (d, sg)) ∧ (CachedAt s ea.toNat z leaf bits ma) ∧ (leaf.getLsbD 61 = true) ∧ (badPlace s (thDie s.cur) (.cached ma own) (maKey ma) z = none) ∧ (newestOwn s s.cur (maKey ma) z = none) ∧ (l1Find s (thCore s.cur) a = none) ∧ ((l2Find s (thDie s.cur) a).isSome = true)) := by
  unfold CachedAt inTlb RoomFor
  and_intros <;> decide +kernel

set_option maxRecDepth 20000 in
theorem wit_CachedAccesses_1 :
    (let s : State := dirtied (nearG [storeG 0x40 8 (2^70+5)] [(1,7),(2,0),(3,0)]); let core : Nat := 1023; let x : Store := storeG 0x40 8 (2^70+5); let rest : List Store := []; let ma : Nat := 0x40; let own : Nat := 0; let a := ma / 16 * 16; ((s.core core).buf = x :: rest) ∧ (joinedOf rest = []) ∧ ((s.core core).posted.any (landsNow s) = false) ∧ ((s.core core).parked = none) ∧ (x.route = .cached ma own) ∧ (1 ≤ x.len) ∧ (ma % 16 + x.len ≤ 16) ∧ ((l2Find s (thDie x.th) a).isSome = true)) ∧
    (let s : State := nearG [storeG 0x40 8 (2^70+5)] [(1,7),(2,0),(3,0)]; let core : Nat := 1023; let x : Store := storeG 0x40 8 (2^70+5); let rest : List Store := []; let ma : Nat := 0x40; let own : Nat := 0; let a := ma / 16 * 16; ((s.core core).buf = x :: rest) ∧ (joinedOf rest = []) ∧ ((s.core core).posted.any (landsNow s) = false) ∧ ((s.core core).parked = none) ∧ (x.route = .cached ma own) ∧ (1 ≤ x.len) ∧ (ma % 16 + x.len ≤ 16) ∧ (l2Find s (thDie x.th) a = none) ∧ (RoomFor s (thDie x.th) own (ma / 128))) := by
  unfold RoomFor
  and_intros <;> decide +kernel

set_option maxRecDepth 20000 in
theorem wit_CachedAccesses_2 :
    (let s : State := nearL [ownBuf 0 256 (2^2000+0x80)] ownA; let core : Nat := 1023; let x : Store := ownBuf 0 256 (2^2000+0x80); let rest : List Store := []; ((s.core core).buf = x :: rest) ∧ (joinedOf rest = []) ∧ ((s.core core).posted.any (landsNow s) = false) ∧ ((s.core core).parked = none) ∧ (x.route = .near)) := by
  decide +kernel

set_option maxRecDepth 20000 in
theorem wit_CachedAccesses_3 :
    (let s : State := postedS; let core : Nat := 1023; let d : Nat := 0; let x : Store := flying; ((s.core core).buf = []) ∧ ((s.core core).posted = [(d, x)]) ∧ (landsNow s (d, x) = true) ∧ ((s.core core).parked = none) ∧ (x.empties = false) ∧ (x.full = false)) := by
  decide +kernel


set_option maxRecDepth 20000 in
theorem wit_CacheMaintenance_1 :
    (let s : State := issuing [(1,7),(2,0x40),(3,1)]; let a : BitVec 5 := 2; let off : Option (BitVec 32) := none; let A := (s.getS a + lrOff off).toNat; (A % 128 ≠ 0)) ∧
    (let s : State := issuing [(1,7),(2,0),(3,0)]; let a : BitVec 5 := 2; let b : BitVec 5 := 3; let off : Option (BitVec 32) := none; let A := (s.getS a + lrOff off).toNat; let n := (s.getS b).toNat; (A % 128 = 0) ∧ (n = 0 ∨ 65536 < n)) ∧
    (let s : State := granting (0xE000000000000000) (pinned [] (dirtied (nearG [storeG 0x40 8 (2^70+5)] [(1,7),(2,0),(3,2)]))); let a : BitVec 5 := 2; let b : BitVec 5 := 3; let off : Option (BitVec 32) := none; let A := (s.getS a + lrOff off).toNat; let n := (s.getS b).toNat; (A % 128 = 0) ∧ (1 ≤ n) ∧ (n ≤ 65536) ∧ ((blockRoutes s (lineBlocks A n)).isOk = true)) := by
  and_intros <;> decide +kernel


set_option maxRecDepth 20000 in
theorem wit_CopiesAtIssue_0 :
    (let s : State := copying 0 0 0x10000000000 0 0; let c : BitVec 5 := 29; let n := (s.getS c).toNat; let len := (s.getS c).toNat; let N := (s.getS c).toNat % 2 ^ 48; (2 ^ 40 ≤ n) ∧ (len = 0 ∨ 2 ^ 24 < len) ∧ (0x200000 < N)) ∧
    (let s : State := copying 0 0 1 65537 0; let c : BitVec 5 := 29; let len := (s.getS c).toNat; let rows := (s.getS (c + 1)).toNat; (1 ≤ len) ∧ (len ≤ 2 ^ 24) ∧ (rows = 0 ∨ 65536 < rows)) ∧
    (let s : State := focused (pends (regs (copyRegs 0 0 0x10 1 0) worker)) (owned launched); let h : BitVec 4 := 15; let c : BitVec 5 := 29; let n := (s.getS c).toNat; let op : Nat := 7; let len := (s.getS c).toNat; let rows := (s.getS (c + 1)).toNat; let N := (s.getS c).toNat % 2 ^ 48; (s.getH h = .pending op) ∧ (n < 2 ^ 40) ∧ (1 ≤ len) ∧ (len ≤ 2 ^ 24) ∧ (1 ≤ rows) ∧ (rows ≤ 65536) ∧ (N ≤ 0x200000)) ∧
    (let s : State := focused (inAttempt (regs (copyRegs 0x100 0 16 1 0) worker)) (owned launched); let h : BitVec 4 := 15; let d : BitVec 5 := 1; let a : BitVec 5 := 2; let c : BitVec 5 := 29; let fl : Option CopyFlags := none; let D := s.getS d; let A := s.getS a; let n := (s.getS c).toNat; let wb := (fl.map (fun f => f.dk)).getD false; let A' : Word := 0; (s.getH h = .free) ∧ (s.thr.q.depth = 0) ∧ (n < 2 ^ 40) ∧ (copyPlaceB s A n A') ∧ (thSpec s.thr = true) ∧ (wb = false) ∧ (D.toNat / 2 ^ 56 = 0) ∧ (D.toNat + n ≤ 2 ^ 56)) ∧
    (let s : State := copying 0xFFFFFFFFFFFFF8 0xFFF8 16 1 0; let h : BitVec 4 := 15; let d : BitVec 5 := 1; let a : BitVec 5 := 2; let c : BitVec 5 := 29; let fl : Option CopyFlags := some { dcl := 14, dk := false, ss := true, scope := .sys }; let D := s.getS d; let A := s.getS a; let n := (s.getS c).toNat; let wb := (fl.map (fun f => f.dk)).getD false; let A' : Word := 0xFFF8; (s.getH h = .free) ∧ (s.thr.q.depth = 0) ∧ (n < 2 ^ 40) ∧ (copyPlaceB s A n A') ∧ (wb = false) ∧ (D.toNat / 2 ^ 56 = 0) ∧ (2 ^ 56 < D.toNat + n)) ∧
    (let s : State := copying 0xFF0000000000FFF0 0xFFF8 16 1 0; let h : BitVec 4 := 15; let a : BitVec 5 := 2; let c : BitVec 5 := 29; let fl : Option CopyFlags := some { dcl := 14, dk := true, ss := true, scope := .sys }; let A := s.getS a; let n := (s.getS c).toNat; let wb := (fl.map (fun f => f.dk)).getD false; let wclu := thDie s.cur * 16 + ((fl.map (fun f : CopyFlags => f.dcl)).getD 0).toNat; let A' : Word := 0xFFF8; let d : BitVec 5 := 1; let D := s.getS d; let N := (s.getS c).toNat % 2 ^ 48; (s.getH h = .free) ∧ (s.thr.q.depth = 0) ∧ (n < 2 ^ 40) ∧ (copyPlaceB s A n A') ∧ (wb = true) ∧ (s.owns s.part wclu = false) ∧ (N ≤ 0x200000) ∧ (copyPlaceB s A N A') ∧ (0x200000 < D.toNat + N)) ∧
    (let s : State := copying 0xFF0000000000FFF0 0xFFF8 16 1 0; let h : BitVec 4 := 15; let d : BitVec 5 := 1; let a : BitVec 5 := 2; let c : BitVec 5 := 29; let fl : Option CopyFlags := some { dcl := 15, dk := true, ss := false, scope := .mod }; let D := s.getS d; let A := s.getS a; let n := (s.getS c).toNat; let wb := (fl.map (fun f => f.dk)).getD false; let wclu := thDie s.cur * 16 + ((fl.map (fun f : CopyFlags => f.dcl)).getD 0).toNat; let A' : Word := 0xFFF8; (s.getH h = .free) ∧ (s.thr.q.depth = 0) ∧ (n < 2 ^ 40) ∧ (copyPlaceB s A n A') ∧ (wb = true) ∧ (s.owns s.part wclu = true) ∧ (s.ropeLost (cluRope wclu) = false) ∧ (0x200000 < D.toNat + n)) ∧
    (let s : State := copying 0x1FFFF0 0 16 1 0; let h : BitVec 4 := 15; let d : BitVec 5 := 1; let a : BitVec 5 := 2; let c : BitVec 5 := 29; let fl : Option CopyFlags := some { dcl := 15, dk := true, ss := false, scope := .mod }; let D := s.getS d; let A := s.getS a; let n := (s.getS c).toNat; let wb := (fl.map (fun f => f.dk)).getD false; let wclu := thDie s.cur * 16 + ((fl.map (fun f : CopyFlags => f.dcl)).getD 0).toNat; let A' : Word := 0; (s.getH h = .free) ∧ (s.thr.q.depth = 0) ∧ (n < 2 ^ 40) ∧ (copyPlaceB s A n A') ∧ (wb = true) ∧ (s.owns s.part wclu = true) ∧ (s.ropeLost (cluRope wclu) = false) ∧ (D.toNat + n ≤ 0x200000) ∧ (thSpec s.thr = false) ∧ (1 ≤ n)) ∧
    (let s : State := copying 0x100 0 0 0 0; let h : BitVec 4 := 15; let d : BitVec 5 := 1; let a : BitVec 5 := 2; let c : BitVec 5 := 29; let fl : Option CopyFlags := none; let D := s.getS d; let A := s.getS a; let n := (s.getS c).toNat; let wb := (fl.map (fun f => f.dk)).getD false; let A' : Word := 0; let D' : Word := 0x100; (s.getH h = .free) ∧ (s.thr.q.depth = 0) ∧ (n < 2 ^ 40) ∧ (copyPlaceB s A n A') ∧ (wb = false) ∧ (thSpec s.thr = false) ∧ (copyPlaceB s D n D') ∧ (n = 0)) ∧
    (let s : State := copying 0xFF0000000000FFF0 0xFFF8 16 1 0; let h : BitVec 4 := 15; let d : BitVec 5 := 1; let a : BitVec 5 := 2; let c : BitVec 5 := 29; let fl : Option CopyFlags := none; let D := s.getS d; let A := s.getS a; let n := (s.getS c).toNat; let wb := (fl.map (fun f => f.dk)).getD false; let A' : Word := 0xFFF8; let D' : Word := 0xFF0100001FC3FFF0; let len := (s.getS c).toNat; let rows := (s.getS (c + 1)).toNat; let sstep := (s.getS (c + 2)).toNat % 2 ^ 32; let dstep := (s.getS (c + 2)).toNat / 2 ^ 32; (s.getH h = .free) ∧ (s.thr.q.depth = 0) ∧ (n < 2 ^ 40) ∧ (copyPlaceB s A n A') ∧ (wb = false) ∧ (thSpec s.thr = false) ∧ (copyPlaceB s D n D') ∧ (1 ≤ n) ∧ (1 ≤ len) ∧ (len ≤ 2 ^ 24) ∧ (1 ≤ rows) ∧ (rows ≤ 65536) ∧ ((∀ i, i < rows → copyPlaceB s (A + BitVec.ofNat 64 (i * sstep)) len (A' + BitVec.ofNat 64 (i * sstep)) ∧ copyPlaceB s (D + BitVec.ofNat 64 (i * dstep)) len (D' + BitVec.ofNat 64 (i * dstep))))) ∧
    (let s : State := copying 0x1FFFF0 0 (2 ^ 48 + 16) 1 0; let h : BitVec 4 := 15; let d : BitVec 5 := 1; let a : BitVec 5 := 2; let c : BitVec 5 := 29; let D := s.getS d; let A := s.getS a; let N := (s.getS c).toNat % 2 ^ 48; let clus := ((List.range 16).filter (fun i => ((s.getS c).toNat / 2 ^ 48).testBit i)).map (fun i => thDie s.cur * 16 + i); let A' : Word := 0; (s.getH h = .free) ∧ (s.thr.q.depth = 0) ∧ (N ≤ 0x200000) ∧ (copyPlaceB s A N A') ∧ (D.toNat + N ≤ 0x200000) ∧ ((∃ k ∈ clus, s.owns s.part k = false))) ∧
    (let s : State := copying 0 0 (0x8000 * 2 ^ 48) 1 0; let h : BitVec 4 := 15; let d : BitVec 5 := 1; let a : BitVec 5 := 2; let c : BitVec 5 := 29; let D := s.getS d; let A := s.getS a; let N := (s.getS c).toNat % 2 ^ 48; let clus := ((List.range 16).filter (fun i => ((s.getS c).toNat / 2 ^ 48).testBit i)).map (fun i => thDie s.cur * 16 + i); let A' : Word := 0; (s.getH h = .free) ∧ (s.thr.q.depth = 0) ∧ (N ≤ 0x200000) ∧ (copyPlaceB s A N A') ∧ (D.toNat + N ≤ 0x200000) ∧ ((∀ k ∈ clus, s.owns s.part k = true ∧ s.ropeLost (cluRope k) = false)) ∧ (thSpec s.thr = false) ∧ (N = 0 ∨ clus = [])) ∧
    (let s : State := copying 0x1FFFF0 0 (0x8000 * 2 ^ 48 + 16) 1 0; let h : BitVec 4 := 15; let d : BitVec 5 := 1; let a : BitVec 5 := 2; let c : BitVec 5 := 29; let D := s.getS d; let A := s.getS a; let N := (s.getS c).toNat % 2 ^ 48; let clus := ((List.range 16).filter (fun i => ((s.getS c).toNat / 2 ^ 48).testBit i)).map (fun i => thDie s.cur * 16 + i); let A' : Word := 0; (s.getH h = .free) ∧ (s.thr.q.depth = 0) ∧ (N ≤ 0x200000) ∧ (copyPlaceB s A N A') ∧ (D.toNat + N ≤ 0x200000) ∧ ((∀ k ∈ clus, s.owns s.part k = true ∧ s.ropeLost (cluRope k) = false)) ∧ (thSpec s.thr = false) ∧ (1 ≤ N) ∧ (clus ≠ [])) := by
  and_intros <;> decide +kernel

set_option maxRecDepth 20000 in
theorem wit_CopiesAtIssue_1 :
    (let s : State := issuing []; (thGang s.thr = false)) ∧
    (let s : State := inGang id; let n : BitVec 15 := 32767; let l := (someOr (aLaunch) (s.launch)); (thGang s.thr = true) ∧ ((s.launch).isSome = true) ∧ (n.toNat ≤ l.stage ∨ l.l[7].toNat % 2 ^ 17 = 0)) ∧
    (let s : State := inGang (fun l => { l with l := l.l.set 7 1 }); let n : BitVec 15 := 32767; let l := (someOr (aLaunch) (s.launch)); (thGang s.thr = true) ∧ ((s.launch).isSome = true) ∧ (l.stage < n.toNat) ∧ (l.l[7].toNat % 2 ^ 17 ≠ 0)) := by
  and_intros <;> decide +kernel


set_option maxRecDepth 20000 in
theorem wit_MatrixJobsAtIssue_0 :
    (let s : State := focused (pends worker) (owned launched); let h : BitVec 4 := 15; let a : BitVec 5 := 1; let b : BitVec 5 := 2; let c : BitVec 5 := 29; let f : BitVec 5 := 8; let off : Option (BitVec 32) := none; let lone : Bool := false; let i : Instr := (.mxld 15 1 none : Instr); let op : Nat := 7; (i ∈ ([.mxld h a off, .mxmm h a b f off, .mxsp h a b c off, .mxgrp h a b c off, .mxrot h lone, .mxrd h a b c lone, .mxclr h b lone, .mxmeta h a b c lone] : List Instr)) ∧ (s.getH h = .pending op)) := by
  decide +kernel

set_option maxRecDepth 20000 in
theorem wit_MatrixJobsAtIssue_1 :
    (let s : State := focused (regs (mxRegs 0x1F8000 15 0 0 0) worker) (owned launched); let h : BitVec 4 := 15; let a : BitVec 5 := 1; let off : Option (BitVec 32) := none; let o := (s.getS a + lrOff off).toNat; let b : BitVec 5 := 2; let T := (s.getS b).toNat; (s.getH h = .free) ∧ (o % 1024 = 0) ∧ (o ≤ 0x1F8000) ∧ (o % 256 = 0) ∧ (o + 0x8000 ≤ 0x200000) ∧ (T ≤ 15)) ∧
    (let s : State := focused (regs (mxRegs 0x1F8000 15 0 0 0) worker) (owned launched); let h : BitVec 4 := 15; let a : BitVec 5 := 1; let off : Option (BitVec 32) := some 0x80000000; let o := (s.getS a + lrOff off).toNat; (s.getH h = .free) ∧ (o % 1024 ≠ 0 ∨ 0x1F8000 < o) ∧ (o % 256 ≠ 0 ∨ 0x200000 < o + 0x8000)) ∧
    (let s : State := focused (regs (mxRegs 0x1F8000 16 0 0 0) worker) (owned launched); let h : BitVec 4 := 15; let a : BitVec 5 := 1; let b : BitVec 5 := 2; let off : Option (BitVec 32) := none; let o := (s.getS a + lrOff off).toNat; let T := (s.getS b).toNat; (s.getH h = .free) ∧ (o % 256 = 0) ∧ (o + 0x8000 ≤ 0x200000) ∧ (15 < T)) ∧
    (let s : State := focused (regs (mxRegs 0x1F0000 15 0x88000 0x1F8000 0x200) worker) (owned launched); let h : BitVec 4 := 15; let a : BitVec 5 := 1; let b : BitVec 5 := 2; let c : BitVec 5 := 29; let off : Option (BitVec 32) := none; let o := (s.getS a + lrOff off).toNat; let T := (s.getS b).toNat; let v := (s.getS c).toNat; let K := fun (code : Nat) => if code ≤ 1 then 128 else 256; (s.getH h = .free) ∧ (o % 256 = 0) ∧ (o + 0x10000 ≤ 0x200000) ∧ (T ≤ 15) ∧ (v < 2 ^ 21) ∧ (v / 2 ^ 16 ≤ 8) ∧ (v % 64 = 0) ∧ (v % 2 ^ 16 + 32 * K (v / 2 ^ 16) ≤ 0x10000)) ∧
    (let s : State := focused (regs (mxRegs 0x80 15 0 0 0) worker) (owned launched); let h : BitVec 4 := 15; let a : BitVec 5 := 1; let off : Option (BitVec 32) := none; let o := (s.getS a + lrOff off).toNat; (s.getH h = .free) ∧ (o % 256 ≠ 0 ∨ 0x200000 < o + 0x10000)) ∧
    (let s : State := focused (regs (mxRegs 0 16 0 0 0) worker) (owned launched); let h : BitVec 4 := 15; let a : BitVec 5 := 1; let b : BitVec 5 := 2; let off : Option (BitVec 32) := none; let o := (s.getS a + lrOff off).toNat; let T := (s.getS b).toNat; (s.getH h = .free) ∧ (o % 256 = 0) ∧ (o + 0x10000 ≤ 0x200000) ∧ (15 < T)) ∧
    (let s : State := focused (regs (mxRegs 0 0 0x1FFFF1 0 0) worker) (owned launched); let h : BitVec 4 := 15; let a : BitVec 5 := 1; let b : BitVec 5 := 2; let c : BitVec 5 := 29; let off : Option (BitVec 32) := none; let o := (s.getS a + lrOff off).toNat; let T := (s.getS b).toNat; let v := (s.getS c).toNat; (s.getH h = .free) ∧ (o % 256 = 0) ∧ (o + 0x10000 ≤ 0x200000) ∧ (T ≤ 15) ∧ (2 ^ 21 ≤ v ∨ 8 < v / 2 ^ 16)) ∧
    (let s : State := focused (regs (mxRegs 0 15 1 0 0) worker) (owned launched); let h : BitVec 4 := 15; let a : BitVec 5 := 1; let b : BitVec 5 := 2; let c : BitVec 5 := 29; let off : Option (BitVec 32) := none; let o := (s.getS a + lrOff off).toNat; let T := (s.getS b).toNat; let v := (s.getS c).toNat; let K := fun (code : Nat) => if code ≤ 1 then 128 else 256; (s.getH h = .free) ∧ (o % 256 = 0) ∧ (o + 0x10000 ≤ 0x200000) ∧ (T ≤ 15) ∧ (v < 2 ^ 21) ∧ (v / 2 ^ 16 ≤ 8) ∧ (v % 64 ≠ 0 ∨ 0x10000 < v % 2 ^ 16 + 32 * K (v / 2 ^ 16))) ∧
    (let s : State := focused (regs (mxRegs 0x1F8000 15 0x1FFFFE 0x1F8000 0x200) worker) (owned launched); let h : BitVec 4 := 15; let a : BitVec 5 := 1; let b : BitVec 5 := 2; let c : BitVec 5 := 29; let off : Option (BitVec 32) := none; let o := (s.getS a + lrOff off).toNat; let T := (s.getS b).toNat; let v := (s.getS c).toNat; let v1 := (s.getS (c + 1)).toNat; let v2 := (s.getS (c + 2)).toNat; let G := v2 % 64 + 1; (s.getH h = .free) ∧ (o % 256 = 0) ∧ (o + 0x8000 ≤ 0x200000) ∧ (T ≤ 15) ∧ (v % 2 = 0) ∧ (v < 2 ^ 21) ∧ (v + 2 * G ≤ 0x200000) ∧ (v1 % 1024 = 0) ∧ (v1 < 2 ^ 21) ∧ (v2 < 2 ^ 11) ∧ (v2 / 64 ≤ 8) ∧ (v1 + G * 0x8000 ≤ 0x200000)) ∧
    (let s : State := focused (regs (mxRegs 0x1F8000 15 1 0 0) worker) (owned launched); let h : BitVec 4 := 15; let a : BitVec 5 := 1; let b : BitVec 5 := 2; let c : BitVec 5 := 29; let off : Option (BitVec 32) := none; let o := (s.getS a + lrOff off).toNat; let T := (s.getS b).toNat; let v := (s.getS c).toNat; let v2 := (s.getS (c + 2)).toNat; let G := v2 % 64 + 1; (s.getH h = .free) ∧ (o % 256 = 0) ∧ (o + 0x8000 ≤ 0x200000) ∧ (T ≤ 15) ∧ (2 ^ 21 ≤ v ∨ v % 2 ≠ 0 ∨ 0x200000 < v + 2 * G)) ∧
    (let s : State := focused (regs (mxRegs 0 15 0 1 0) worker) (owned launched); let h : BitVec 4 := 15; let a : BitVec 5 := 1; let b : BitVec 5 := 2; let c : BitVec 5 := 29; let off : Option (BitVec 32) := none; let o := (s.getS a + lrOff off).toNat; let T := (s.getS b).toNat; let v := (s.getS c).toNat; let v1 := (s.getS (c + 1)).toNat; let v2 := (s.getS (c + 2)).toNat; let G := v2 % 64 + 1; (s.getH h = .free) ∧ (o % 256 = 0) ∧ (o + 0x8000 ≤ 0x200000) ∧ (T ≤ 15) ∧ (v < 2 ^ 21) ∧ (v % 2 = 0) ∧ (v + 2 * G ≤ 0x200000) ∧ (2 ^ 21 ≤ v1 ∨ v1 % 1024 ≠ 0)) ∧
    (let s : State := focused (regs (mxRegs 0 15 0 0 0x800) worker) (owned launched); let h : BitVec 4 := 15; let a : BitVec 5 := 1; let b : BitVec 5 := 2; let c : BitVec 5 := 29; let off : Option (BitVec 32) := none; let o := (s.getS a + lrOff off).toNat; let T := (s.getS b).toNat; let v := (s.getS c).toNat; let v1 := (s.getS (c + 1)).toNat; let v2 := (s.getS (c + 2)).toNat; let G := v2 % 64 + 1; (s.getH h = .free) ∧ (o % 256 = 0) ∧ (o + 0x8000 ≤ 0x200000) ∧ (T ≤ 15) ∧ (v < 2 ^ 21) ∧ (v % 2 = 0) ∧ (v + 2 * G ≤ 0x200000) ∧ (v1 < 2 ^ 21) ∧ (v1 % 1024 = 0) ∧ (2 ^ 11 ≤ v2 ∨ 8 < v2 / 64)) ∧
    (let s : State := focused (regs (mxRegs 0 15 0 0x1FFC00 0) worker) (owned launched); let h : BitVec 4 := 15; let a : BitVec 5 := 1; let b : BitVec 5 := 2; let c : BitVec 5 := 29; let off : Option (BitVec 32) := none; let o := (s.getS a + lrOff off).toNat; let T := (s.getS b).toNat; let v := (s.getS c).toNat; let v1 := (s.getS (c + 1)).toNat; let v2 := (s.getS (c + 2)).toNat; let G := v2 % 64 + 1; (s.getH h = .free) ∧ (o % 256 = 0) ∧ (o + 0x8000 ≤ 0x200000) ∧ (T ≤ 15) ∧ (v < 2 ^ 21) ∧ (v % 2 = 0) ∧ (v + 2 * G ≤ 0x200000) ∧ (v1 < 2 ^ 21) ∧ (v1 % 1024 = 0) ∧ (v2 < 2 ^ 11) ∧ (v2 / 64 ≤ 8) ∧ (0x200000 < v1 + G * 0x8000)) ∧
    (let s : State := focused (regs (mxRegs 0 15 0 0 0) worker) (owned launched); let h : BitVec 4 := 15; let b : BitVec 5 := 2; let T := (s.getS b).toNat; (s.getH h = .free) ∧ (T ≤ 15)) ∧
    (let s : State := focused (regs (mxRegs 0x1FFFC0 0xFFC0 64 0 0) worker) (owned launched); let h : BitVec 4 := 15; let a : BitVec 5 := 1; let b : BitVec 5 := 2; let c : BitVec 5 := 29; let A := (s.getS a).toNat; let T := (s.getS b).toNat; let v := (s.getS c).toNat; (s.getH h = .free) ∧ (A % 64 = 0) ∧ (A + v ≤ 0x200000) ∧ (T % 64 = 0) ∧ (T + v ≤ 0x10000) ∧ (v % 64 = 0)) ∧
    (let s : State := focused (regs (mxRegs 0x1F8001 0 0 0 0) worker) (owned launched); let h : BitVec 4 := 15; let a : BitVec 5 := 1; let c : BitVec 5 := 29; let A := (s.getS a).toNat; let v := (s.getS c).toNat; (s.getH h = .free) ∧ (A % 64 ≠ 0 ∨ 0x200000 < A + v)) ∧
    (let s : State := focused (regs (mxRegs 0 1 64 0 0) worker) (owned launched); let h : BitVec 4 := 15; let a : BitVec 5 := 1; let b : BitVec 5 := 2; let c : BitVec 5 := 29; let A := (s.getS a).toNat; let T := (s.getS b).toNat; let v := (s.getS c).toNat; (s.getH h = .free) ∧ (A % 64 = 0) ∧ (A + v ≤ 0x200000) ∧ (T % 64 ≠ 0 ∨ 0x10000 < T + v)) ∧
    (let s : State := focused (regs (mxRegs 0 0 63 0 0) worker) (owned launched); let h : BitVec 4 := 15; let a : BitVec 5 := 1; let b : BitVec 5 := 2; let c : BitVec 5 := 29; let A := (s.getS a).toNat; let T := (s.getS b).toNat; let v := (s.getS c).toNat; (s.getH h = .free) ∧ (A % 64 = 0) ∧ (A + v ≤ 0x200000) ∧ (T % 64 = 0) ∧ (T + v ≤ 0x10000) ∧ (v % 64 ≠ 0)) ∧
    (let s : State := focused (regs (mxRegs 0 15 0xFF 0 0) worker) (owned launched); let h : BitVec 4 := 15; let b : BitVec 5 := 2; let c : BitVec 5 := 29; let T := (s.getS b).toNat; let v := (s.getS c).toNat; (s.getH h = .free) ∧ (T ≤ 15) ∧ (2 ^ 19 ≤ v ∨ v / 2 ^ 15 % 2 = 1 ∨ 128 < v % 128 + v / 2 ^ 7 % 256 + 1)) ∧
    (let s : State := focused (regs (mxRegs 0xFF0000000000FE00 15 0x7F 0 0) worker) (owned launched); let h : BitVec 4 := 15; let a : BitVec 5 := 1; let b : BitVec 5 := 2; let c : BitVec 5 := 29; let A := (s.getS a).toNat; let T := (s.getS b).toNat; let v := (s.getS c).toNat; let row := v % 128; let cnt := v / 2 ^ 7 % 256; let n := (cnt + 1) * 128; let q : Nat := 0xFE00; (s.getH h = .free) ∧ (T ≤ 15) ∧ (v < 2 ^ 19) ∧ (v / 2 ^ 15 % 2 = 0) ∧ (row + cnt + 1 ≤ 128) ∧ (s.thr.q.depth = 0) ∧ (A = 0xFF00000000000000 + q) ∧ (q < 0x40000) ∧ (v / 2 ^ 16 % 8 = 0) ∧ (q + n * 4 ≤ s.limit)) ∧
    (let s : State := focused (winRegs 0x3F80000000000001 (regs (mxRegs 0xFF00000000000000 15 0x7007F 0 0) worker)) (owned launched); let h : BitVec 4 := 15; let a : BitVec 5 := 1; let b : BitVec 5 := 2; let c : BitVec 5 := 29; let A := (s.getS a).toNat; let T := (s.getS b).toNat; let v := (s.getS c).toNat; let row := v % 128; let cnt := v / 2 ^ 7 % 256; let n := (cnt + 1) * 128; let q : Nat := 0; let x : Window := winOf 0x3F80000000000001; (s.getH h = .free) ∧ (T ≤ 15) ∧ (v < 2 ^ 19) ∧ (v / 2 ^ 15 % 2 = 0) ∧ (row + cnt + 1 ≤ 128) ∧ (s.thr.q.depth = 0) ∧ (A = 0xFF00000000000000 + q) ∧ (q < 0x40000) ∧ (v / 2 ^ 16 % 8 ≠ 0) ∧ (windowOf (s.win (v / 2 ^ 16 % 8)) = some (some (x, true))) ∧ (q + n * x.fmt.bytes ≤ s.limit)) ∧
    (let s : State := focused (winRegs 0 (regs (mxRegs 0xFF00000000000000 15 0x7007F 0 0) worker)) (owned launched); let h : BitVec 4 := 15; let a : BitVec 5 := 1; let b : BitVec 5 := 2; let c : BitVec 5 := 29; let A := (s.getS a).toNat; let T := (s.getS b).toNat; let v := (s.getS c).toNat; let row := v % 128; let cnt := v / 2 ^ 7 % 256; let n := (cnt + 1) * 128; let q : Nat := 0; (s.getH h = .free) ∧ (T ≤ 15) ∧ (v < 2 ^ 19) ∧ (v / 2 ^ 15 % 2 = 0) ∧ (row + cnt + 1 ≤ 128) ∧ (s.thr.q.depth = 0) ∧ (A = 0xFF00000000000000 + q) ∧ (q < 0x40000) ∧ (v / 2 ^ 16 % 8 ≠ 0) ∧ (windowOf (s.win (v / 2 ^ 16 % 8)) = some none) ∧ (q + n * 4 ≤ s.limit)) := by
  and_intros <;> decide +kernel


set_option maxRecDepth 20000 in
theorem wit_CommandsAndMessagesAtIssue_0 :
    (let s : State := commanding (4 + 0x1F8000 * 2 ^ 64) [(1, 128), (2, 0)] id; let h : BitVec 4 := 15; let a : BitVec 5 := 1; let A := (s.getS a).toNat; (s.getH h = .free) ∧ (128 ≤ A)) ∧
    (let s : State := commanding (4 + 0x1F8000 * 2 ^ 64) [(1, 0), (2, 0xFFE8)] id; let h : BitVec 4 := 15; let a : BitVec 5 := 1; let b : BitVec 5 := 2; let A := (s.getS a).toNat; let B := (s.getS b).toNat; (s.getH h = .free) ∧ (A < 128) ∧ (B % 8 ≠ 0 ∨ s.limit < B + 32)) ∧
    (let s : State := lostDie3 (commanding (4 + 0x1F8000 * 2 ^ 64) [(1, 63), (2, 0xFFE0)] id); let h : BitVec 4 := 15; let a : BitVec 5 := 1; let b : BitVec 5 := 2; let A := (s.getS a).toNat; let B := (s.getS b).toNat; (s.getH h = .free) ∧ (A < 128) ∧ (B % 8 = 0) ∧ (B + 32 ≤ s.limit) ∧ (s.dieLost (A / 16) = true)) ∧
    (let s : State := commanding 0 [(1, 127), (2, 0xFFE0)] id; let h : BitVec 4 := 15; let a : BitVec 5 := 1; let b : BitVec 5 := 2; let A := (s.getS a).toNat; let B := (s.getS b).toNat; let clu := A / 16 * 16 + A % 16; let t := drainAll s (thCore s.cur); (s.getH h = .free) ∧ (A < 128) ∧ (B % 8 = 0) ∧ (B + 32 ≤ s.limit) ∧ (s.dieLost (A / 16) = false) ∧ (s.ropeLost (cluRope clu) = false) ∧ (t.mem.poisoned (ownKey s B) 32 = false) ∧ (blockJob (t.mem.get (ownKey s B) 32) = none)) ∧
    (let s : State := commanding (4 + 0x1F8000 * 2 ^ 64) [(1, 0), (2, 0xFFE0)] inAttempt; let h : BitVec 4 := 15; let a : BitVec 5 := 1; let b : BitVec 5 := 2; let A := (s.getS a).toNat; let B := (s.getS b).toNat; let clu := A / 16 * 16 + A % 16; let t := drainAll s (thCore s.cur); (s.getH h = .free) ∧ (A < 128) ∧ (B % 8 = 0) ∧ (B + 32 ≤ s.limit) ∧ (s.dieLost (A / 16) = false) ∧ (s.ropeLost (cluRope clu) = false) ∧ (t.mem.poisoned (ownKey s B) 32 = false) ∧ ((blockJob (t.mem.get (ownKey s B) 32)).isSome = true) ∧ (thSpec s.thr = true)) ∧
    (let s : State := commanding (4 + 0x1F8000 * 2 ^ 64) [(1, 127), (2, 0xFFE0)] id; let h : BitVec 4 := 15; let a : BitVec 5 := 1; let b : BitVec 5 := 2; let A := (s.getS a).toNat; let B := (s.getS b).toNat; let clu := A / 16 * 16 + A % 16; let t := drainAll s (thCore s.cur); (s.getH h = .free) ∧ (A < 128) ∧ (B % 8 = 0) ∧ (B + 32 ≤ s.limit) ∧ (s.dieLost (A / 16) = false) ∧ (s.ropeLost (cluRope clu) = false) ∧ (t.mem.poisoned (ownKey s B) 32 = false) ∧ ((blockJob (t.mem.get (ownKey s B) 32)).isSome = true) ∧ (thSpec s.thr = false)) := by
  and_intros <;> decide +kernel

set_option maxRecDepth 20000 in
theorem wit_CommandsAndMessagesAtIssue_1 :
    (let s : State := messaging [(1, 0), (2, 0), (3, 264)]; let h : BitVec 4 := 15; let c : BitVec 5 := 3; let n := (s.getS c).toNat; let good : Prop := n % 8 = 0 ∧ 8 ≤ n ∧ n ≤ 256; (s.getH h = .free) ∧ (¬ good)) ∧
    (let s : State := messaging [(1, 0), (2, 0xFFF8), (3, 16)]; let h : BitVec 4 := 15; let b : BitVec 5 := 2; let c : BitVec 5 := 3; let B := (s.getS b).toNat; let n := (s.getS c).toNat; let good : Prop := n % 8 = 0 ∧ 8 ≤ n ∧ n ≤ 256; (s.getH h = .free) ∧ (good) ∧ (s.limit < B + n)) ∧
    (let s : State := messaging [(1, 0), (2, 4), (3, 16)]; let h : BitVec 4 := 15; let b : BitVec 5 := 2; let c : BitVec 5 := 3; let B := (s.getS b).toNat; let n := (s.getS c).toNat; let good : Prop := n % 8 = 0 ∧ 8 ≤ n ∧ n ≤ 256; (s.getH h = .free) ∧ (good) ∧ (B + n ≤ s.limit) ∧ (B % 8 ≠ 0)) ∧
    (let s : State := focused (inAttempt (regs [(3, 8)] worker)) (owned launched); let h : BitVec 4 := 15; let b : BitVec 5 := 2; let c : BitVec 5 := 3; let B := (s.getS b).toNat; let n := (s.getS c).toNat; let good : Prop := n % 8 = 0 ∧ 8 ≤ n ∧ n ≤ 256; (s.getH h = .free) ∧ (good) ∧ (B % 8 = 0) ∧ (B + n ≤ s.limit) ∧ (thSpec s.thr = true)) ∧
    (let s : State := messaging [(1, 0xFFF), (2, 0xFFE0), (3, 16)]; let h : BitVec 4 := 15; let a : BitVec 5 := 1; let b : BitVec 5 := 2; let c : BitVec 5 := 3; let B := (s.getS b).toNat; let n := (s.getS c).toNat; let dest := (s.getS a).toNat % 2 ^ 20; let good : Prop := n % 8 = 0 ∧ 8 ≤ n ∧ n ≤ 256; (s.getH h = .free) ∧ (good) ∧ (B % 8 = 0) ∧ (B + n ≤ s.limit) ∧ (thSpec s.thr = false) ∧ (dest / 4096 = s.device) ∧ (s.dieLost (dest % 4096 / 512) = false) ∧ (s.ropeLost (dest % 4096 / 128) = false)) ∧
    (let s : State := messaging [(1, 0x5000), (2, 0xFFE0), (3, 16)]; let h : BitVec 4 := 15; let a : BitVec 5 := 1; let b : BitVec 5 := 2; let c : BitVec 5 := 3; let B := (s.getS b).toNat; let n := (s.getS c).toNat; let dest := (s.getS a).toNat % 2 ^ 20; let good : Prop := n % 8 = 0 ∧ 8 ≤ n ∧ n ≤ 256; (s.getH h = .free) ∧ (good) ∧ (B % 8 = 0) ∧ (B + n ≤ s.limit) ∧ (thSpec s.thr = false) ∧ (dest / 4096 ≠ s.device) ∧ (s.portOf (dest / 4096) = none)) ∧
    (let s : State := routed 1 (messaging [(1, 0x5000), (2, 0xFFE0), (3, 16)]); let h : BitVec 4 := 15; let a : BitVec 5 := 1; let b : BitVec 5 := 2; let c : BitVec 5 := 3; let B := (s.getS b).toNat; let n := (s.getS c).toNat; let dest := (s.getS a).toNat % 2 ^ 20; let good : Prop := n % 8 = 0 ∧ 8 ≤ n ∧ n ≤ 256; (s.getH h = .free) ∧ (good) ∧ (B % 8 = 0) ∧ (B + n ≤ s.limit) ∧ (thSpec s.thr = false) ∧ (dest / 4096 ≠ s.device) ∧ ((s.portOf (dest / 4096)).isSome = true) ∧ (MayRelease s .fab)) := by
  unfold MayRelease
  and_intros <;> decide +kernel

set_option maxRecDepth 20000 in
theorem wit_CommandsAndMessagesAtIssue_2 :
    (let s : State := receiving [(1, 0xFF08)] []; let a : BitVec 5 := 1; let B := (s.getS a).toNat; (s.limit < B + 256)) ∧
    (let s : State := receiving [(1, 4)] []; let a : BitVec 5 := 1; let B := (s.getS a).toNat; (B + 256 ≤ s.limit) ∧ (B % 8 ≠ 0)) ∧
    (let s : State := receiving [(1, 0xFF00)] []; let a : BitVec 5 := 1; let B := (s.getS a).toNat; (B % 8 = 0) ∧ (B + 256 ≤ s.limit) ∧ (s.thr.inbox = [])) ∧
    (let s : State := receiving [(1, 0xFF00)] [aMsg]; let a : BitVec 5 := 1; let B := (s.getS a).toNat; let m : Msg := aMsg; let r : List Msg := []; (B % 8 = 0) ∧ (B + 256 ≤ s.limit) ∧ (s.thr.q.depth = 0) ∧ (s.thr.inbox = m :: r)) := by
  and_intros <;> decide +kernel


set_option maxRecDepth 20000 in
theorem wit_RepliesAndLaterConditions_0 :
    (let s : State := awaits (.load 4 true); let th : Nat := 4095; let r : Reply := { dest := .s 1, key := 0x10, acc := .load 4 true, scope := none, addr := 0x10 }; let d : BitVec 5 := 1; let s0 := settleFor (s.focus th) r; let n : Nat := 4; let sg : Bool := true; (d ≠ 0) ∧ ((s.getT th).i.replies = [r]) ∧ (r.dest = .s d) ∧ ((s.getT th).i.rep = none) ∧ ((s.core (thCore th)).parked = none) ∧ ((match r.acc with | .ver | .load _ _ => true | _ => false) = true) ∧ (replyDev s r.key = s.device ∨ hears s (replyDev s r.key) = some true) ∧ (keyLost s r.key = none) ∧ (r.acc = .load n sg) ∧ (s0.mem.poisoned r.key n = false)) ∧
    (let s : State := awaits .ver; let th : Nat := 4095; let r : Reply := { dest := .s 1, key := 0x10, acc := .ver, scope := none, addr := 0x10 }; let d : BitVec 5 := 1; let s0 := settleFor (s.focus th) r; (d ≠ 0) ∧ ((s.getT th).i.replies = [r]) ∧ (r.dest = .s d) ∧ ((s.getT th).i.rep = none) ∧ ((s.core (thCore th)).parked = none) ∧ ((match r.acc with | .ver | .load _ _ => true | _ => false) = true) ∧ (replyDev s r.key = s.device ∨ hears s (replyDev s r.key) = some true) ∧ (keyLost s r.key = none) ∧ (r.acc = .ver) ∧ (s0.mem.poisoned r.key 16 = false)) := by
  and_intros <;> decide +kernel

set_option maxRecDepth 20000 in
theorem wit_RepliesAndLaterConditions_1 :
    (let s : State := blockedOn (.sync [0x21]); let th : Nat := 4095; let ks : List Nat := [0x21]; ((s.getT th).i.blocked = some (.sync ks)) ∧ ((∀ k ∈ ks, k ∉ s.mem.empty))) ∧
    (let s : State := blockedOn (.sync [0x20]); let th : Nat := 4095; let ks : List Nat := [0x20]; ((s.getT th).i.blocked = some (.sync ks)) ∧ ((∃ k ∈ ks, k ∈ s.mem.empty))) ∧
    (let s : State := working; let rid : Nat := 9; let code : BitVec 8 := 0x72; let x : StoreName := ⟨9, 0⟩; let posted : Bool := s.cores.any (fun y => y.2.posted.any (named rid x)); (code ≠ 0x73) ∧ (¬ posted)) ∧
    (let s : State := working.setCore 1023 { CoreSt.reset with posted := [(0, ownBuf 0 8 5)] }; let th : Nat := 4095; let rid : Nat := 9; let code : BitVec 8 := 0x72; let x : StoreName := ⟨0xFF00000000000000, 0⟩; let posted : Bool := s.cores.any (fun y => y.2.posted.any (named rid x)); (code = 0x73 ∨ posted) ∧ (s.holders.find? (fun n => thRid (s.getT n) == rid) = some th)) ∧
    (let s : State := parkedS; let rid : Nat := 9; let code : BitVec 8 := 0x73; let x : StoreName := ⟨9, 0⟩; let posted : Bool := s.cores.any (fun y => y.2.posted.any (named rid x)); let r : Rec := parkedRec; (code = 0x73 ∨ posted) ∧ (s.holders.find? (fun n => thRid (s.getT n) == rid) = none) ∧ (r ∈ s.sch.recs) ∧ (r.id = rid)) ∧
    (let s : State := blockedOn (.svc 31); let th : Nat := 4095; let d : BitVec 5 := 31; ((s.getT th).i.blocked = some (.svc d))) ∧
    (let s : State := owes; let th : Nat := 4095; let n0 : Nat := 0; let c : Cond := { code := 0x24, detail := 9, flags := 4 }; let rest : List (Nat × Cond) := []; ((s.getT th).i.later = (n0, c) :: rest) ∧ ((s.getT th).rcd.isSome = true) ∧ ((s.getT th).i.replies = []) ∧ ((s.getT th).i.rep = none) ∧ ((s.getT th).i.blocked = none) ∧ ((s.getT th).i.blocked = none) ∧ ((s.core (thCore th)).parked = none) ∧ (entersB ((s.modT th (fun x => { x with i := { x.i with later := rest } })).focus th) c (s.getT th).pc)) := by
  and_intros <;> decide +kernel

set_option maxRecDepth 20000 in
theorem wit_RepliesAndLaterConditions_2 :
    (let s : State := parkedS; let core : Nat := 1023; let n : Nat := 4095; let r : Rec := parkedRec; ((s.core core).parked = some n) ∧ ((s.core core).message = none) ∧ (r.w.bound = some n) ∧ (thCore n = core) ∧ (r.place = .rest) ∧ (r.w.fullf = true) ∧ (r.good = true) ∧ (boundTo s core = [r]) ∧ (cancelled s (thDie n) r = false) ∧ (launchRuns s r.w.launch = true)) ∧
    (let s : State := parkedS; let core : Nat := 1023; let n : Nat := 4095; let r : Rec := parkedRec; let num : Nat := 3; let l : Launch := aLaunch; ((s.core core).parked = some n) ∧ ((s.core core).message = none) ∧ (r.w.bound = some n) ∧ (thCore n = core) ∧ ((s.core core).parkLaunch = some num) ∧ (s.findLaunch num = some l) ∧ (l.ends = false) ∧ (s.sch.recs = [r]) ∧ (r.place = .rest) ∧ (r.w.launch = num) ∧ ((∀ k ∈ s.holders, thLaunch (s.getT k) ≠ num)) ∧ (frameless r = false)) := by
  and_intros <;> decide +kernel


set_option maxRecDepth 20000 in
theorem wit_CopiesBarriersAndGangs_0 :
    (let s : State := copies [nearPiece]; let op : Nat := 1; let i : Nat := 0; let o : Op := theOp (copyS [nearPiece]); let ps : List Piece := [nearPiece]; let value : Nat := 5; let ss : Bool := false; let what : CopyFor := .handle; let p : Piece := nearPiece; let c1 : Nat := 127; let o1 : Nat := 0x3FFF0; let c2 : Nat := 0; let o2 : Nat := 0; (s.findOp op = some o) ∧ (o.k = .copy ps value ss what) ∧ (ps[i]? = some p) ∧ (p.st = .waiting) ∧ (1 ≤ p.len) ∧ (p.joined = false) ∧ ((∀ q, ps[i + 1]? = some q → q.joined = false)) ∧ (s.MemOk) ∧ (c1 < 128) ∧ (c2 < 128) ∧ (o1 + p.len ≤ 0x40000) ∧ (o2 + p.len ≤ 0x40000) ∧ (p.src.toNat = 0xFF01 * 2 ^ 48 + c1 * 0x400000 + o1) ∧ (p.dst = .addr (BitVec.ofNat 64 (0xFF01 * 2 ^ 48 + c2 * 0x400000 + o2))) ∧ (s.ropeLost (cluRope (o.clu / 16 * 16 + c1 / 8)) = false) ∧ (s.ropeLost (cluRope (o.clu / 16 * 16 + c2 / 8)) = false) ∧ (s.mem.poisoned (lsKey (o.clu / 16 * 128 + c1) o1) p.len = false)) ∧
    (let s : State := copies [farPiece]; let op : Nat := 1; let i : Nat := 0; let o : Op := theOp (copyS [farPiece]); let ps : List Piece := [farPiece]; let value : Nat := 5; let ss : Bool := false; let what : CopyFor := .handle; let p : Piece := farPiece; let c : Cond := mkCond 0x23 0x10000; (s.findOp op = some o) ∧ (o.k = .copy ps value ss what) ∧ (ps[i]? = some p) ∧ (p.st = .waiting) ∧ (1 ≤ p.len) ∧ (p.joined = false) ∧ ((∀ q, ps[i + 1]? = some q → q.joined = false)) ∧ (p.src.toNat / 2 ^ 56 = 0) ∧ (lookup s o.clu o.part p.src.toNat = .error (.cond c none))) := by
  unfold State.MemOk
  and_intros <;> decide +kernel

set_option maxRecDepth 20000 in
theorem wit_CopiesBarriersAndGangs_1 :
    (let s : State := copies [donePiece]; let op : Nat := 1; let o : Op := theOp (copyS [donePiece]); let ps : List Piece := [donePiece]; let value : Nat := 5; let ss : Bool := false; (s.findOp op = some o) ∧ (o.k = .copy ps value ss .handle) ∧ ((∀ p ∈ ps, p.st = .done))) ∧
    (let s : State := copies [badPiece]; let op : Nat := 1; let o : Op := theOp (copyS [badPiece]); let ps : List Piece := [badPiece]; let value : Nat := 5; let ss : Bool := false; let pre : List Piece := []; let p : Piece := badPiece; let post : List Piece := []; let c : Cond := laterCond; (s.findOp op = some o) ∧ (o.k = .copy ps value ss .handle) ∧ (ps = pre ++ p :: post) ∧ ((∀ q ∈ pre, q.st = .done)) ∧ (p.st = .failed c) ∧ ((∀ q ∈ post, q.st ≠ .waiting))) := by
  and_intros <;> decide +kernel

set_option maxRecDepth 20000 in
theorem wit_CopiesBarriersAndGangs_2 :
    (let s : State := scheduled; let num : Nat := 3; let idx : Nat := 0; let e : SchedSt := aSched; let pl : Placement := gangPl; let l := (someOr (aLaunch) (s.findLaunch num)); let v := (okOr (0, State.reset) (schedRead s l idx)).1; let s1 := (okOr (0, State.reset) (schedRead s l idx)).2; ((s.findLaunch num).isSome = true) ∧ (l.sched.find? (fun x => x.idx == idx) = some e) ∧ (l.place = some pl) ∧ ((nextEntry l e.clu).map (fun x => x.idx) = some idx) ∧ (l.phase = .running) ∧ ((schedRead s l idx).isOk = true) ∧ ((sePieces (asMember s1 l ((pl.threads.find? (fun n => thClu n == e.clu)).getD (e.clu * 32))) v).isOk = true)) := by
  decide +kernel

set_option maxRecDepth 20000 in
theorem wit_CopiesBarriersAndGangs_3 :
    (let s : State := barred; let num : Nat := 3; let level : Nat := 3; let inst : Nat := 0; let b : BarInst := atBar; let l := (someOr (aLaunch) (s.findLaunch num)); let n : Nat := 4095; let c : Cond := mkCond 0x53 65539; ((s.findLaunch num).isSome = true) ∧ (barFind l level inst = some b) ∧ (barFull l level inst = true) ∧ (ssPending s l b.arrived (arrivedThreads s num b) = false) ∧ ((∀ n ∈ arrivedThreads s num b, waitsOut s n false = false)) ∧ ((arrivedThreads s num b).Nodup) ∧ (arrivedThreads s num b = [n]) ∧ ((s.getT n).rcd.isSome = true) ∧ (entersB (((s.modLaunch num (fun x => dropBar x level inst)).modT n (fun x => { x with i := { x.i with blocked := none } })).focus n) c (s.getT n).pc) ∧ (b.since + 2 ^ 32 ≤ s.count) ∧ (c = mkCond 0x53 (b.arrived.length * 65536 + level))) ∧
    (let s : State := barred; let num : Nat := 3; let level : Nat := 3; let inst : Nat := 0; let b : BarInst := atBar; let l := (someOr (aLaunch) (s.findLaunch num)); let n : Nat := 4095; let c : Cond := mkCond 0x51 3; ((s.findLaunch num).isSome = true) ∧ (barFind l level inst = some b) ∧ (arrivedThreads s num b = [n]) ∧ ((s.getT n).rcd.isSome = true) ∧ (entersB (((s.modLaunch num (fun x => dropBar x level inst)).modT n (fun x => { x with i := { x.i with blocked := none } })).focus n) c (s.getT n).pc) ∧ (c = mkCond 0x51 level)) := by
  and_intros <;> decide +kernel

set_option maxRecDepth 20000 in
theorem wit_CopiesBarriersAndGangs_4 :
    (let s : State := placing; let num : Nat := 3; let l := (someOr (aLaunch) (s.findLaunch num)); let n : Nat := 4064; let f : Nat := 0; let p := (someOr (gangPl) ((positions l).findSome? (fitsNow s l (fun c => coreOpen s c && !keptForOther s num c) (gangThread s num)))); ((s.findLaunch num).isSome = true) ∧ (l.phase = .placing) ∧ (admitWaits s l = false) ∧ (((positions l).findSome? (fitsNow s l (fun c => coreOpen s c && !keptForOther s num c) (gangThread s num))).isSome = true) ∧ (l.shape.size = 1) ∧ (p.threads = [n]) ∧ ((∀ r ∈ s.sch.recs, r.w.launch ≠ num)) ∧ (l.freeFrame = some f) ∧ ((classWeight (gangImage s l p) l 0).2 = []) ∧ (l.since + 2 ^ 20 ≤ s.count) ∧ (((positions l).findSome? (fitsNow s l (fun c => !(s.core c).lost) (fun _ => true))).isSome = true)) := by
  decide +kernel


set_option maxRecDepth 20000 in
theorem wit_MatrixEngineSteps_0 :
    (let s : State := engine id (.ld 0x1F8000); let clu : Nat := 127; let j : MxJob := job (.ld 0x1F8000) false; let r : List MxJob := []; let off : Nat := 0x1F8000; ((s.clu clu).jobs = j :: r) ∧ ((s.clu clu).running = false) ∧ ((s.clu clu).filler ≤ s.effOf clu) ∧ (s.MemOk) ∧ (s.mem.poisoned (jobKey clu j.idx) 16 = false) ∧ (j.what = .ld off) ∧ (s.mem.poisoned (wbKey clu off) 0x8000 = false)) ∧
    (let s : State := engine id (.clr 15); let clu : Nat := 127; let j : MxJob := job (.clr 15) false; let r : List MxJob := []; let tile : Nat := 15; ((s.clu clu).jobs = j :: r) ∧ ((s.clu clu).running = false) ∧ ((s.clu clu).filler ≤ s.effOf clu) ∧ (s.MemOk) ∧ (s.mem.poisoned (jobKey clu j.idx) 16 = false) ∧ (j.what = .clr tile)) ∧
    (let s : State := engine id (.metaCopy 0x40 0xFFC0 64); let clu : Nat := 127; let j : MxJob := job (.metaCopy 0x40 0xFFC0 64) false; let r : List MxJob := []; let a : Nat := 0x40; let m : Nat := 0xFFC0; let n : Nat := 64; ((s.clu clu).jobs = j :: r) ∧ ((s.clu clu).running = false) ∧ ((s.clu clu).filler ≤ s.effOf clu) ∧ (s.MemOk) ∧ (s.mem.poisoned (jobKey clu j.idx) 16 = false) ∧ (j.what = .metaCopy a m n) ∧ (s.mem.poisoned (abKey clu a) n = false)) ∧
    (let s : State := engine id (.rd (abKey 127 0x1FFE00) 15 127 0 127 true []); let clu : Nat := 127; let j : MxJob := job (.rd (abKey 127 0x1FFE00) 15 127 0 127 true []) false; let r : List MxJob := []; let dst : Nat := abKey 127 0x1FFE00; let tile : Nat := 15; let row : Nat := 127; let cnt : Nat := 0; let ctl : Word := 127; let ds : List Nat := []; ((s.clu clu).jobs = j :: r) ∧ ((s.clu clu).running = false) ∧ ((s.clu clu).filler ≤ s.effOf clu) ∧ (s.MemOk) ∧ (s.mem.poisoned (jobKey clu j.idx) 16 = false) ∧ (j.what = .rd dst tile row cnt ctl true ds) ∧ (s.mem.poisoned (acbKey clu (tile * 0x10000 + row * 512)) ((cnt + 1) * 512) = false)) ∧
    (let s : State := engine (fun c => { c with full := true }) (.mm 0x1F8000 15 6); let clu : Nat := 127; let j : MxJob := job (.mm 0x1F8000 15 6) false; let r : List MxJob := []; let a : Nat := 0x1F8000; let tile : Nat := 15; let f : Nat := 6; ((s.clu clu).jobs = j :: r) ∧ ((s.clu clu).running = false) ∧ ((s.clu clu).filler ≤ s.effOf clu) ∧ (s.MemOk) ∧ (s.mem.poisoned (jobKey clu j.idx) 16 = false) ∧ (j.what = .mm a tile f) ∧ ((s.clu clu).full = true) ∧ (f ≤ 6) ∧ (s.mem.poisoned (latchKey clu 0) 0x8000 = false) ∧ (s.mem.poisoned (abKey clu a) 0x8000 = false)) ∧
    (let s : State := engine id (.mm 0x1F8000 15 6); let clu : Nat := 127; let j : MxJob := job (.mm 0x1F8000 15 6) false; let r : List MxJob := []; let a : Nat := 0x1F8000; let tile : Nat := 15; let f : Nat := 6; ((s.clu clu).jobs = j :: r) ∧ ((s.clu clu).running = false) ∧ ((s.clu clu).filler ≤ s.effOf clu) ∧ (s.MemOk) ∧ (s.mem.poisoned (jobKey clu j.idx) 16 = false) ∧ (j.what = .mm a tile f) ∧ ((s.clu clu).full = false) ∧ (j.remote = false) ∧ ((s.findOp j.op).isSome = true)) := by
  unfold State.MemOk
  and_intros <;> decide +kernel

set_option maxRecDepth 20000 in
theorem wit_MatrixEngineSteps_1 :
    (let s : State := engine (fun c => { c with running := true }) (.ld 0); let clu : Nat := 127; let j : MxJob := job (.ld 0) false; let r : List MxJob := []; ((s.clu clu).jobs = j :: r) ∧ ((s.clu clu).running = true) ∧ ((s.findOp j.op).isSome = true) ∧ (j.what ≠ .rot ∨ (s.clu clu).rcvd = true) ∧ ((s.clu clu).due ≤ s.effOf clu)) ∧
    (let s : State := engine (fun c => { c with running := true, sent := true, incoming := true, inFull := true }) .rot; let clu : Nat := 127; let j : MxJob := job .rot false; let r : List MxJob := []; ((s.clu clu).jobs = j :: r) ∧ ((s.clu clu).running = true) ∧ (clu < 128) ∧ (j.what = .rot) ∧ ((s.clu clu).sent = true) ∧ ((s.clu clu).rcvd = false) ∧ ((s.clu clu).incoming = true) ∧ (s.MemOk)) := by
  unfold State.MemOk
  and_intros <;> decide +kernel

set_option maxRecDepth 20000 in
theorem wit_MatrixEngineSteps_2 :
    (let s : State := filling; let clu : Nat := 127; ((s.clu clu).jobs = []) ∧ ((s.clu clu).filler ≤ s.effOf clu) ∧ ((s.clu clu).kept s.clock = true) ∧ ((s.reg0 (ropeOff (clu / 4) + 0x20)).getLsbD 3 = true) ∧ ((s.reg0 (ropeOff (clu / 4) + 0x20)).toNat % 4 = clu % 4)) := by
  decide +kernel

set_option maxRecDepth 20000 in
theorem wit_MatrixEngineSteps_3 :
    (let s : State := cmd 0x00030001 (.ld 0x1F8000); let id : Nat := 1; let o : Op := theOp (.mxcmd 127 0x00030001 (.ld 0x1F8000) false); let clu : Nat := 127; let cap : BitVec 32 := 0x00030001; let job : MxOp := .ld 0x1F8000; let j : MxOp := .ld 0x1F8000; (s.findOp id = some o) ∧ (o.k = .mxcmd clu cap job false) ∧ (s.ropeLost (cluRope clu) = false) ∧ (capOk s clu cap = true) ∧ ((s.clu clu).jobs.length < 32) ∧ (queueWaits s clu = []) ∧ (remoteChk clu job = .ok j)) ∧
    (let s : State := fullQueue (cmd 0x00030001 (.ld 0x1F8000)); let id : Nat := 1; let o : Op := theOp (.mxcmd 127 0x00030001 (.ld 0x1F8000) false); let clu : Nat := 127; let cap : BitVec 32 := 0x00030001; let job : MxOp := .ld 0x1F8000; (s.findOp id = some o) ∧ (o.k = .mxcmd clu cap job false) ∧ (s.ropeLost (cluRope clu) = false) ∧ (capOk s clu cap = true) ∧ (32 ≤ (s.clu clu).jobs.length)) ∧
    (let s : State := cmd 0x00030002 (.ld 0x1F8000); let id : Nat := 1; let o : Op := theOp (.mxcmd 127 0x00030002 (.ld 0x1F8000) false); let clu : Nat := 127; let cap : BitVec 32 := 0x00030002; let job : MxOp := .ld 0x1F8000; (s.findOp id = some o) ∧ (o.k = .mxcmd clu cap job false) ∧ (s.ropeLost (cluRope clu) = false) ∧ (capOk s clu cap = false)) := by
  and_intros <;> decide +kernel

set_option maxRecDepth 20000 in
theorem wit_MatrixEngineSteps_4 :
    (let s : State := sent 4095; let id : Nat := 1; let o : Op := theOp (.msg 4095 aMsg 3); let dest : Nat := 4095; let m : Msg := aMsg; let num : Nat := 3; (s.findOp id = some o) ∧ (o.k = .msg dest m num) ∧ (msgBefore s o dest = false) ∧ (dest / 4096 = s.device) ∧ (s.ropeLost (dest % 4096 / 128) = false) ∧ ((s.getT (dest % 4096)).rcd.isSome = true) ∧ (thLaunch (s.getT (dest % 4096)) = num) ∧ ((s.getT (dest % 4096)).inbox.length < 4)) ∧
    (let s : State := sent 0; let id : Nat := 1; let o : Op := theOp (.msg 0 aMsg 3); let dest : Nat := 0; let m : Msg := aMsg; let num : Nat := 3; (s.findOp id = some o) ∧ (o.k = .msg dest m num) ∧ (msgBefore s o dest = false) ∧ (dest / 4096 = s.device) ∧ (s.ropeLost (dest % 4096 / 128) = false) ∧ ((s.getT (dest % 4096)).rcd = none)) ∧
    (let s : State := routed 1 (sent 0x5000); let id : Nat := 1; let o : Op := theOp (.msg 0x5000 aMsg 3); let dest : Nat := 0x5000; let m : Msg := aMsg; let num : Nat := 3; let p : Nat := 63; (s.findOp id = some o) ∧ (o.k = .msg dest m num) ∧ (msgBefore s o dest = false) ∧ (dest / 4096 ≠ s.device) ∧ (s.portOf (dest / 4096) (flitsOf m.len) = some (p, false))) := by
  and_intros <;> decide +kernel


set_option maxRecDepth 20000 in
theorem wit_HomesAndCancels_0 :
    (let s : State := homed (commits 5); let id : Nat := 1; let o : Op := theOp (commitK 5 none); let launch : Nat := 3; let task : Nat := 7; let att : Nat := 0x8001; let base : BitVec 32 := 5; let desc : Word := 0x3000; let dkey : Nat := 0x3000; let dma : Nat := 0x3000; let own : Nat := 0; let size : Nat := 128; let data : Nat := 0x99; let pc : Word := 0x40; let ks : List (Route × Nat × Nat) := [(.l3 0x4000 0, 0x4000, 128)]; let ver := descVer (s.mem.get dkey 16); (s.findOp id = some o) ∧ (o.k = .commit launch task att base desc dkey size data pc none) ∧ (s.MemOk) ∧ (descRoute s o.part desc dkey = .l3 dma own) ∧ (heldL3B s dma 16 = true) ∧ (keyLost s dkey = none) ∧ (s.mem.poisoned dkey 16 = false) ∧ (descOk (s.mem.get dkey 16) = true) ∧ (descSize (s.mem.get dkey 16) = size) ∧ (tilePlaces s o.part s.device desc.toNat (descBase (s.mem.get dkey 16)) true (tilePieces (descBase (s.mem.get dkey 16)) size) = .ok ks) ∧ (heldPlacesB s ks = true) ∧ (ver = base.toNat) ∧ (((dkey, 16) :: ks.map (fun p => p.2)).Pairwise (fun x y => x.1 + x.2 ≤ y.1 ∨ y.1 + y.2 ≤ x.1))) ∧
    (let s : State := let x := homed (commits 4); { x with mem := { x.mem with cells := bytesFrom 16 0x3000 (0x4000 + 1 * 2 ^ 64 + 0x8001 * 2 ^ 80 + 5 * 2 ^ 96) ++ bytesFrom 3 0x4000 0x010203 ++ tables } }; let id : Nat := 1; let o : Op := theOp (commitK 4 none); let launch : Nat := 3; let task : Nat := 7; let att : Nat := 0x8001; let base : BitVec 32 := 4; let desc : Word := 0x3000; let dkey : Nat := 0x3000; let dma : Nat := 0x3000; let own : Nat := 0; let size : Nat := 128; let data : Nat := 0x99; let pc : Word := 0x40; let ks : List (Route × Nat × Nat) := [(.l3 0x4000 0, 0x4000, 128)]; let ver := descVer (s.mem.get dkey 16); let next := (base.toNat + 1) % 2 ^ 32; (s.findOp id = some o) ∧ (o.k = .commit launch task att base desc dkey size data pc none) ∧ (s.MemOk) ∧ (descRoute s o.part desc dkey = .l3 dma own) ∧ (heldL3B s dma 16 = true) ∧ (keyLost s dkey = none) ∧ (s.mem.poisoned dkey 16 = false) ∧ (descOk (s.mem.get dkey 16) = true) ∧ (descSize (s.mem.get dkey 16) = size) ∧ (tilePlaces s o.part s.device desc.toNat (descBase (s.mem.get dkey 16)) true (tilePieces (descBase (s.mem.get dkey 16)) size) = .ok ks) ∧ (heldPlacesB s ks = true) ∧ (ver ≠ base.toNat) ∧ (ver = next) ∧ (descAtt (s.mem.get dkey 16) = att)) ∧
    (let s : State := homed (commits 9); let id : Nat := 1; let o : Op := theOp (commitK 9 none); let launch : Nat := 3; let task : Nat := 7; let att : Nat := 0x8001; let base : BitVec 32 := 9; let desc : Word := 0x3000; let dkey : Nat := 0x3000; let dma : Nat := 0x3000; let own : Nat := 0; let size : Nat := 128; let data : Nat := 0x99; let pc : Word := 0x40; let ks : List (Route × Nat × Nat) := [(.l3 0x4000 0, 0x4000, 128)]; let ver := descVer (s.mem.get dkey 16); let next := (base.toNat + 1) % 2 ^ 32; (s.findOp id = some o) ∧ (o.k = .commit launch task att base desc dkey size data pc none) ∧ (s.MemOk) ∧ (descRoute s o.part desc dkey = .l3 dma own) ∧ (heldL3B s dma 16 = true) ∧ (keyLost s dkey = none) ∧ (s.mem.poisoned dkey 16 = false) ∧ (descOk (s.mem.get dkey 16) = true) ∧ (descSize (s.mem.get dkey 16) = size) ∧ (tilePlaces s o.part s.device desc.toNat (descBase (s.mem.get dkey 16)) true (tilePieces (descBase (s.mem.get dkey 16)) size) = .ok ks) ∧ (heldPlacesB s ks = true) ∧ (ver ≠ base.toNat) ∧ (ver ≠ next ∨ descAtt (s.mem.get dkey 16) ≠ att)) := by
  unfold State.MemOk
  and_intros <;> decide +kernel

set_option maxRecDepth 20000 in
theorem wit_HomesAndCancels_1 :
    (let s : State := replied .won; let id : Nat := 1; let launch : Nat := 3; let task : Nat := 7; let att : Nat := 0x8001; let base : BitVec 32 := 5; let desc : Word := 0x3000; let dkey : Nat := 0x3000; let size : Nat := 128; let data : Nat := 0x99; let pc : Word := 0x40; let a : CommitAns := .won; let h : Fin 16 := 15; let o := (someOr (theOp (.mx 0 0)) (s.findOp id)); let r := (someOr (aRec) (s.sch.recs.find? (fun x => x.id == o.rcd))); ((s.findOp id).isSome = true) ∧ (o.k = .commit launch task att base desc dkey size data pc (some a)) ∧ (hearsKey s dkey = .go) ∧ ((∀ n ∈ s.holders, thRid (s.getT n) ≠ o.rcd)) ∧ ((s.sch.recs.find? (fun x => x.id == o.rcd)).isSome = true) ∧ (r.place = .rest) ∧ (r.handles.get h = .pending id) ∧ (a = .won)) ∧
    (let s : State := replied .lost; let id : Nat := 1; let launch : Nat := 3; let task : Nat := 7; let att : Nat := 0x8001; let base : BitVec 32 := 5; let desc : Word := 0x3000; let dkey : Nat := 0x3000; let size : Nat := 128; let data : Nat := 0x99; let pc : Word := 0x40; let a : CommitAns := .lost; let h : Fin 16 := 15; let o := (someOr (theOp (.mx 0 0)) (s.findOp id)); let r := (someOr (aRec) (s.sch.recs.find? (fun x => x.id == o.rcd))); ((s.findOp id).isSome = true) ∧ (o.k = .commit launch task att base desc dkey size data pc (some a)) ∧ (hearsKey s dkey = .go) ∧ ((∀ n ∈ s.holders, thRid (s.getT n) ≠ o.rcd)) ∧ ((s.sch.recs.find? (fun x => x.id == o.rcd)).isSome = true) ∧ (r.place = .rest) ∧ (r.handles.get h = .pending id) ∧ (a = .lost)) ∧
    (let s : State := replied (.err laterCond); let id : Nat := 1; let launch : Nat := 3; let task : Nat := 7; let att : Nat := 0x8001; let base : BitVec 32 := 5; let desc : Word := 0x3000; let dkey : Nat := 0x3000; let size : Nat := 128; let data : Nat := 0x99; let pc : Word := 0x40; let a : CommitAns := .err laterCond; let h : Fin 16 := 15; let o := (someOr (theOp (.mx 0 0)) (s.findOp id)); let r := (someOr (aRec) (s.sch.recs.find? (fun x => x.id == o.rcd))); let c : Cond := laterCond; ((s.findOp id).isSome = true) ∧ (o.k = .commit launch task att base desc dkey size data pc (some a)) ∧ (hearsKey s dkey = .go) ∧ ((∀ n ∈ s.holders, thRid (s.getT n) ≠ o.rcd)) ∧ ((s.sch.recs.find? (fun x => x.id == o.rcd)).isSome = true) ∧ (r.place = .rest) ∧ (r.handles.get h = .pending id) ∧ (a = .err c)) := by
  and_intros <;> decide +kernel

set_option maxRecDepth 20000 in
theorem wit_HomesAndCancels_2 :
    (let s : State := homed (reads 6 false none); let id : Nat := 1; let desc : Word := 0x3000; let dkey : Nat := 0x3000; let dma : Nat := 0x3000; let own : Nat := 0; let ver : BitVec 32 := 6; let d : BitVec 5 := 31; let dst : Nat := lsKey 1023 0x100; let size : Nat := 128; let since : Nat := 0; let home : Bool := false; let o := (someOr (theOp (.mx 0 0)) (s.findOp id)); let v := s.mem.get dkey 16; ((s.findOp id).isSome = true) ∧ (o.k = .tread desc dkey ver d dst size since home none) ∧ (descRoute s o.part desc dkey = .l3 dma own) ∧ (heldL3B s dma 16 = true) ∧ (keyLost s dkey = none) ∧ (s.mem.poisoned dkey 16 = false) ∧ (descVer v < ver.toNat) ∧ (home = false)) ∧
    (let s : State := homed (reads 5 false none); let id : Nat := 1; let desc : Word := 0x3000; let dkey : Nat := 0x3000; let dma : Nat := 0x3000; let own : Nat := 0; let ver : BitVec 32 := 5; let d : BitVec 5 := 31; let dst : Nat := lsKey 1023 0x100; let size : Nat := 128; let since : Nat := 0; let home : Bool := false; let o := (someOr (theOp (.mx 0 0)) (s.findOp id)); let v := s.mem.get dkey 16; let ks : List (Route × Nat × Nat) := [(.l3 0x4000 0, 0x4000, 128)]; ((s.findOp id).isSome = true) ∧ (o.k = .tread desc dkey ver d dst size since home none) ∧ (descRoute s o.part desc dkey = .l3 dma own) ∧ (heldL3B s dma 16 = true) ∧ (keyLost s dkey = none) ∧ (s.mem.poisoned dkey 16 = false) ∧ (ver.toNat ≤ descVer v) ∧ (tilePlaces s o.part s.device desc.toNat (descBase v) false (tilePieces (descBase v) size) = .ok ks) ∧ ((engRead 0 ks s).isOk = true)) ∧
    (let s : State := homed (reads 6 true none); let id : Nat := 1; let desc : Word := 0x3000; let dkey : Nat := 0x3000; let dma : Nat := 0x3000; let own : Nat := 0; let ver : BitVec 32 := 6; let d : BitVec 5 := 31; let dst : Nat := lsKey 1023 0x100; let size : Nat := 128; let since : Nat := 0; let home : Bool := true; let o := (someOr (theOp (.mx 0 0)) (s.findOp id)); ((s.findOp id).isSome = true) ∧ (o.k = .tread desc dkey ver d dst size since home none) ∧ (descRoute s o.part desc dkey = .l3 dma own) ∧ (heldL3B s dma 16 = true) ∧ (home = true) ∧ (since + 2 ^ 32 ≤ s.count)) := by
  and_intros <;> decide +kernel

set_option maxRecDepth 20000 in
theorem wit_HomesAndCancels_3 :
    (let s : State := reads 5 true (some (5, 0x123456)); let id : Nat := 1; let desc : Word := 0x3000; let dkey : Nat := 0x3000; let ver : BitVec 32 := 5; let d : BitVec 5 := 31; let dst : Nat := lsKey 1023 0x100; let size : Nat := 128; let since : Nat := 0; let v : Nat := 5; let bytes : Nat := 0x123456; let home : Bool := true; let o := (someOr (theOp (.mx 0 0)) (s.findOp id)); ((s.findOp id).isSome = true) ∧ (o.k = .tread desc dkey ver d dst size since home (some (v, bytes))) ∧ (hearsKey s dkey = .go)) := by
  decide +kernel

set_option maxRecDepth 20000 in
theorem wit_HomesAndCancels_4 :
    (let s : State := described; let num : Nat := 3; (s.plat.feHeld = false) ∧ ((s.findLaunch num).isSome = true)) := by
  decide +kernel


set_option maxRecDepth 20000 in
theorem wit_DispensersAndTheft_0 :
    (let s : State := pickable; let th : Nat := 4095; let r := (someOr (aRec) (nextFor s th)); ((s.getT th).rcd = none) ∧ (coreOpen s (thCore th) = true) ∧ ((nextFor s th).isSome = true) ∧ ((s.findLaunch r.w.launch).isSome = true) ∧ (cancelled s (thDie th) r = false) ∧ (r.good = true) ∧ (r.fresh = true) ∧ (r.base.isSome = true) ∧ (creationBad r = none)) := by
  decide +kernel

set_option maxRecDepth 20000 in
theorem wit_DispensersAndTheft_1 :
    (let s : State := queued7; let die : Nat := 7; let r : Rec := ready (.queue 7); let rest : List Cand := []; (s.dieState die = 1) ∧ (candidates s die = .rcd r :: rest) ∧ (r ∈ s.sch.recs) ∧ (cancelled s die r = false) ∧ (r.w.fullf = false) ∧ ((chooseSpot s die r.w.part r.w.pweight r.barred).isSome = true)) ∧
    (let s : State := indexed; let die : Nat := 7; let l : Launch := { taskL with ranges := [(7, 0, 2)] }; let i : Nat := 0; let rest : List Cand := []; let f : Nat := 0; let d := (someOr ({ cls := 0, base := none, pweight := 0, bad := none }, State.reset) (readTask s l die i)).1; let s1 := (someOr ({ cls := 0, base := none, pweight := 0, bad := none }, State.reset) (readTask s l die i)).2; (s.dieState die = 1) ∧ (candidates s die = .idx l i :: rest) ∧ (l ∈ s.sch.launches) ∧ (l.freeFrame = some f) ∧ ((readTask s l die i).isSome = true) ∧ ((chooseSpot s1 die l.part d.pweight none).isSome = true)) := by
  and_intros <;> decide +kernel

set_option maxRecDepth 20000 in
theorem wit_DispensersAndTheft_2 :
    (let s : State := slotted; let core : Nat := 1023; let n : Nat := 4092; let idx : Nat := 1; let r := (someOr (aRec) (unfilled s core)); (coreOpen s core = true) ∧ ((unfilled s core).isSome = true) ∧ (r.place = .slot core idx) ∧ (((List.range 4).map (fun j => core * 4 + j)).find? (threadFree s) = some n) ∧ ((s.findLaunch r.w.launch).isSome = true)) := by
  decide +kernel

set_option maxRecDepth 20000 in
theorem wit_DispensersAndTheft_3 :
    (let s : State := prefetched; let core : Nat := 1023; let idx : Nat := 1; let o : Op := theOp (.copy [donePiece] 5 false (.prefetch 1023 1)); let ps : List Piece := [donePiece]; let value : Nat := 5; let ss : Bool := false; let r : Rec := slotRec7; (o.k = .copy ps value ss (.prefetch core idx)) ∧ ((∀ p ∈ ps, p.st = .done)) ∧ (s.sch.ops = [o]) ∧ (r ∈ s.sch.recs) ∧ (s.sch.recs.find? (fun x => x.id == o.rcd) = some r)) := by
  decide +kernel

set_option maxRecDepth 20000 in
theorem wit_DispensersAndTheft_4 :
    (let s : State := queued7; let rid : Nat := 9; let die : Nat := 7; let r : Rec := ready (.queue 7); (s.sch.recs.find? (fun x => x.id == rid) = some r) ∧ (r.place = .queue die) ∧ (r.w.runnable = true) ∧ (r.since + 2 ^ 20 * (r.raised + 1) ≤ s.count) ∧ ((Cand.rcd r).prio s < 7)) := by
  decide +kernel

set_option maxRecDepth 20000 in
theorem wit_DispensersAndTheft_5 :
    (let s : State := indexed; let die : Nat := 7; let victim : Nat := 7; let num : Nat := 3; let l := (someOr (aLaunch) (s.findLaunch num)); ((s.findLaunch num).isSome = true) ∧ (2 ≤ indexCount l victim) ∧ (l.phase = .running) ∧ (s.dieState victim = 1) ∧ (s.dieState die = 1)) ∧
    (let s : State := pickable; let die : Nat := 7; let num : Nat := 3; let l := (someOr (aLaunch) (s.findLaunch num)); ((s.findLaunch num).isSome = true) ∧ (l.ends = false) ∧ (s.dieLost die = false)) ∧
    (let s : State := pickable.setReg0 (dieOff 7 + 0xB00) 3; let die : Nat := 7; let num : Nat := 3; let l := (someOr (aLaunch) (s.findLaunch num)); ((s.findLaunch num).isSome = true) ∧ (l.ends = false) ∧ (s.dieLost die = true)) := by
  and_intros <;> decide +kernel

set_option maxRecDepth 20000 in
theorem wit_DispensersAndTheft_6 :
    (let s : State := searched; let th : Nat := 4095; let v : Nat := 4094; let vr := (someOr (aRec) ((s.getT v).rcd)); let l := (someOr (aLaunch) (s.findLaunch vr.w.launch)); let a := (someOr (0) (thiefNumber l (thDie th) vr.w.task)); let f := (someOr (0, 0, 0) (stealable s v)).2.1; let i := (someOr (0, 0, 0) (stealable s v)).2.2; let r1 := (someOr (aRec, State.reset) (thiefRec s th l vr a v f)).1; let s1 := (someOr (aRec, State.reset) (thiefRec s th l vr a v f)).2; (seeks s th = true) ∧ (((s.getT v).rcd).isSome = true) ∧ ((s.findLaunch vr.w.launch).isSome = true) ∧ ((thiefNumber l (thDie th) vr.w.task).isSome = true) ∧ ((scanOrder th).find? (victimOk s th) = some v) ∧ (victimOk s th v = true) ∧ ((s.core (thCore v)).buf = []) ∧ (holdable (s.getT v) = true) ∧ (th ≠ v) ∧ (s.sch.ops.any (opHits s (arenaKeys s v).1 (arenaKeys s v).2) = false) ∧ ((stealable s v).isSome = true) ∧ ((thiefRec s th l vr a v f).isSome = true) ∧ ((entryOf ((s1.setT th { s1.getT th with rcd := some r1, y := { (s1.getT th).y with win := SysRegs.reset.win } }).focus th) (fTable f) i).isOk = true) ∧ (s.mem.poisoned (arenaKeys s v).1 ((arenaKeys s v).2 - (arenaKeys s v).1) = false)) := by
  decide +kernel

set_option maxRecDepth 20000 in
theorem wit_DispensersAndTheft_7 :
    (let s : State := pickable; let num : Nat := 3; let task : Nat := 0; let l := (someOr (aLaunch) (s.findLaunch num)); let b : Nat := 1022; ((s.findLaunch num).isSome = true) ∧ (tileDev s l task = s.device) ∧ (blockOf s num task < 1023) ∧ (b < 1023)) := by
  decide +kernel


set_option maxRecDepth 20000 in
theorem wit_HedgingSteps_0 :
    (let s : State := hedged id 0; let die : Nat := 7; let n : Nat := 4095; let r := (someOr (aRec) ((s.getT n).rcd)); let l := (someOr (aLaunch) (s.findLaunch r.w.launch)); (s.count % 4096 = 0) ∧ (countStops s.bivState = false) ∧ (s.dieState die = 1 ∨ s.dieState die = 2) ∧ (holdersOn s die (fun _ => true) = [n]) ∧ (((s.getT n).rcd).isSome = true) ∧ ((s.findLaunch r.w.launch).isSome = true) ∧ (l.ends = false) ∧ (l.isMirror = false) ∧ (straggler s die l (s.getT n) r = true) ∧ (budgetOk s l r.w.task = false)) ∧
    (let s : State := hedged id 0x10003E8; let die : Nat := 7; let n : Nat := 4095; let r := (someOr (aRec) ((s.getT n).rcd)); let l := (someOr (aLaunch) (s.findLaunch r.w.launch)); let counted := addReg (markTested s n) (liveOff l.part) 1; let f : Nat := 0; let s1 := (someOr (0, State.reset) (takeNumber counted l.num r.w.task)).2; let l1 := (someOr (aLaunch) (s1.findLaunch l.num)); (s.count % 4096 = 0) ∧ (countStops s.bivState = false) ∧ (s.dieState die = 1 ∨ s.dieState die = 2) ∧ (holdersOn s die (fun _ => true) = [n]) ∧ (((s.getT n).rcd).isSome = true) ∧ ((s.findLaunch r.w.launch).isSome = true) ∧ (l.ends = false) ∧ (l.isMirror = false) ∧ (straggler s die l (s.getT n) r = true) ∧ (budgetOk s l r.w.task = true) ∧ (tileDev (markTested s n) l r.w.task = s.device) ∧ ((takeNumber counted l.num r.w.task).isSome = true) ∧ ((s1.findLaunch l.num).isSome = true) ∧ (fld (classWord s1 l1 r.w.cls) 59 58 = 0) ∧ (l1.freeFrame = some f)) := by
  and_intros <;> decide +kernel

set_option maxRecDepth 20000 in
theorem wit_HedgingSteps_1 :
    (let s : State := hedged id 0x10003E8; let num : Nat := 3; let l := (someOr (aLaunch) (s.findLaunch num)); let task : Nat := 0; let att : Nat := 0x7FFF; ((s.findLaunch num).isSome = true) ∧ (l.isMirror = false) ∧ (l.ends = false) ∧ (budgetOk s l task = true) ∧ (att < 0x8000) ∧ (tileDev s l task = s.device) ∧ ((takeNumber (addReg s (liveOff l.part) 1) num task).isSome = true)) ∧
    (let s : State := hedged id 0; let num : Nat := 3; let l := (someOr (aLaunch) (s.findLaunch num)); let task : Nat := 0; let f : Nat := 0; let d := (someOr (0) (freestDie s l.part none)); ((s.findLaunch num).isSome = true) ∧ (l.isMirror = false) ∧ (l.ends = false) ∧ (budgetOk s l task = false) ∧ (l.isGang = false) ∧ (admitWaits s l = false) ∧ ((freestDie s l.part none).isSome = true) ∧ ((readTask s l d task).isSome = true) ∧ (l.freeFrame = some f)) ∧
    (let s : State := wanting; let num : Nat := 3; let l := (someOr (aLaunch) (s.findLaunch num)); let w : Want := theWant; let f : Nat := 0; let erased := s.modSch (fun c => { c with wants := c.wants.erase w }); ((s.findLaunch num).isSome = true) ∧ (l.isMirror = false) ∧ (w.backup = true) ∧ (w.die < 8) ∧ (s.sch.wants.find? (fun x => x.launch == num && x.task == w.task && x.attempt == w.attempt) = some w) ∧ (fld (classWord erased l w.cls) 59 58 = 0) ∧ (l.freeFrame = some f)) ∧
    (let s : State := offered; let num : Nat := 3; let task : Nat := 0; let att : Nat := 2; let dev : Nat := 9; let base : BitVec 32 := 5; let devs : List Nat := []; let l := (someOr (aLaunch) (s.findLaunch num)); ((s.findLaunch num).isSome = true) ∧ (s.sch.offers = [{ launch := num, task := task, attempt := att, base := base, devs := dev :: devs }]) ∧ (devs = []) ∧ (l.isMirror = false)) ∧
    (let s : State := let s := routed 1 offered; { s with sch := { s.sch with offers := [{ anOffer with devs := [9, 5] }] } }; let num : Nat := 3; let task : Nat := 0; let att : Nat := 2; let dev : Nat := 9; let base : BitVec 32 := 5; let devs : List Nat := [5]; let d : Nat := 5; let rest : List Nat := []; ((s.findLaunch num).isSome = true) ∧ (s.sch.offers = [{ launch := num, task := task, attempt := att, base := base, devs := dev :: devs }]) ∧ (devs.filter (fun x => (s.portOf x).isSome) = d :: rest)) ∧
    (let s : State := noThread (hedged mirrorOf 0); let num : Nat := 3; let l := (someOr (aLaunch) (s.findLaunch num)); ((s.findLaunch num).isSome = true) ∧ (l.isMirror = true) ∧ (l.ends = false) ∧ ((∀ r ∈ s.sch.recs, r.w.launch ≠ num)) ∧ ((∀ k ∈ s.holders, thLaunch (s.getT k) ≠ num))) := by
  and_intros <;> decide +kernel

set_option maxRecDepth 20000 in
theorem wit_HedgingSteps_2 :
    (let s : State := awayS; let num : Nat := 3; let a : Away := anAway; let mirror := (s.findLaunch num).any (fun l => l.isMirror && l.key == a.key); (s.sch.away = [a]) ∧ (a.launch = num) ∧ (mirror = false) ∧ (s.portOf a.dev = none) ∧ ((match goneSince s a.dev with | some g => decide (g + unreachTime ≤ s.clock) | none => true) = true)) ∧
    (let s : State := { awayS with sch := { awayS.sch with launches := [mirrorOf hedgeL] } }; let num : Nat := 3; let a : Away := anAway; let mirror := (s.findLaunch num).any (fun l => l.isMirror && l.key == a.key); (s.sch.away = [a]) ∧ (a.launch = num) ∧ (mirror = true)) ∧
    (let s : State := { (awayS.setPort 0 { PortSt.reset with gone := some 0 }) with clock := 5 }; let num : Nat := 3; let a : Away := anAway; let g : Nat := 0; (s.sch.away = [a]) ∧ (a.launch = num) ∧ (s.portOf a.dev = none) ∧ (goneSince s a.dev = some g) ∧ (s.clock < g + unreachTime)) := by
  and_intros <;> decide +kernel

set_option maxRecDepth 20000 in
theorem wit_HedgingSteps_3 :
    (let s : State := hedged id 0; let p : Nat := 63; (p < 64) ∧ (s.count % 2 ^ 30 = 0) ∧ (countStops s.bivState = false)) := by
  decide +kernel


set_option maxRecDepth 20000 in
theorem wit_FrontEndSteps_0 :
    (let s : State := ringed goodWords; let q : Nat := 63; let tail : BitVec 16 := 0; let x := s.queue q; let n := 2 ^ ((sqCfg s q).toNat / 2 ^ 12 % 16); ((x.sqTail + n - x.sqHead % n) % n ≤ (tail.toNat % n + n - x.sqHead % n) % n) ∧ ((sqCfg s q).getLsbD 16 = true) ∧ ((cqCfg s q).getLsbD 16 = true)) ∧
    (let s : State := sqd 0x3000 0x3000 0 { QueueSt.reset with sqHead := 7, sqTail := 2, cqHead := 6, unread := 5 } up; let q : Nat := 63; let tail : BitVec 16 := 7; let x := s.queue q; let n := 2 ^ ((sqCfg s q).toNat / 2 ^ 12 % 16); ((tail.toNat % n + n - x.sqHead % n) % n < (x.sqTail + n - x.sqHead % n) % n) ∧ ((sqCfg s q).getLsbD 16 = false) ∧ ((cqCfg s q).getLsbD 16 = false)) := by
  and_intros <;> decide +kernel

set_option maxRecDepth 20000 in
theorem wit_FrontEndSteps_1 :
    (let s : State := ringed (goodWords.set 0 1); let n : Nat := 63; let x := s.queue n; let head := (x.sqHead + 1) % 2 ^ ((sqCfg s n).toNat / 2 ^ 12 % 16); let l := newLaunch s n (headAddr s n) head (s.mem.get (spaceKey 1 (headAddr s n)) 128); let taken := s.setQueue n { x with sqHead := head }; let st := admitStatus taken l; (feRuns s = true) ∧ (nextQueue s = some n) ∧ ((recordBad taken l = true ∨ tablesWait taken l = false)) ∧ (st ≠ 0)) ∧
    (let s : State := ringed goodWords; let n : Nat := 63; let x := s.queue n; let head := (x.sqHead + 1) % 2 ^ ((sqCfg s n).toNat / 2 ^ 12 % 16); let l := newLaunch s n (headAddr s n) head (s.mem.get (spaceKey 1 (headAddr s n)) 128); let taken := s.setQueue n { x with sqHead := head }; let st := admitStatus taken l; (feRuns s = true) ∧ (nextQueue s = some n) ∧ ((recordBad taken l = true ∨ tablesWait taken l = false)) ∧ (st = 0)) := by
  and_intros <;> decide +kernel

set_option maxRecDepth 20000 in
theorem wit_FrontEndSteps_2 :
    (let s : State := dispatchable; let num : Nat := 3; let l := (someOr (aLaunch) (s.findLaunch num)); ((s.findLaunch num).isSome = true) ∧ (l.phase = .admitted) ∧ (admitWaits s l = false) ∧ ((vmRead s 0 l.part l.l[2].toNat 4).isOk = true)) := by
  decide +kernel

set_option maxRecDepth 20000 in
theorem wit_FrontEndSteps_3 :
    (let s : State := posting 0x3000001; let q : Nat := 63; let e : CqEntry := anEntry; let rest : List CqEntry := []; let x := s.queue q; let hpa := (s.reg0 (sqOff q + 0x18)).toNat + 32 * x.cqTail; (x.waiting = e :: rest) ∧ (s.MemOk) ∧ (cqRoom s q = true) ∧ (s.hostAllowed hpa 32 = true) ∧ (fePosts s = true)) ∧
    (let s : State := posting 0x3000103; let q : Nat := 63; let x := s.queue q; let coal := s.reg0 (sqOff q + 0x30); (x.unsig ≠ 0) ∧ (coal.toNat / 2 ^ 8 % 2 ^ 16 ≠ 0) ∧ (x.oldest + coal.toNat / 2 ^ 8 % 2 ^ 16 * 1700 ≤ s.clock)) := by
  unfold State.MemOk
  and_intros <;> decide +kernel

set_option maxRecDepth 20000 in
theorem wit_FrontEndSteps_4 :
    (let s : State := counted0; let num : Nat := 3; let l := (someOr (aLaunch) (s.findLaunch num)); ((s.findLaunch num).isSome = true) ∧ (l.phase = .running) ∧ (l.isMirror = false) ∧ (l.isGang = false) ∧ (l.tasks = []) ∧ ((∀ k ∈ s.holders, thLaunch (s.getT k) ≠ num)) ∧ ((∀ r ∈ s.sch.recs, r.w.launch ≠ num)) ∧ (l.counts.1 + l.counts.2.1 + l.counts.2.2 = l.limit) ∧ (s.sch.preemptBusy = none) ∧ ((∀ k ∈ s.holders, thLaunch (s.getT k) = num → (s.getT k).i.blocked = none)) ∧ (l.ends = false)) ∧
    (let s : State := heldS id; let num : Nat := 3; let l := (someOr (aLaunch) (s.findLaunch num)); ((s.findLaunch num).isSome = true) ∧ (l.phase = .held) ∧ (s.sch.preemptBusy = none)) := by
  and_intros <;> decide +kernel

set_option maxRecDepth 20000 in
theorem wit_FrontEndSteps_5 :
    (let s : State := up; (s.sch.tlbiBusy = false)) := by
  decide +kernel

set_option maxRecDepth 20000 in
theorem wit_FrontEndSteps_7 :
    (let s : State := up; let die : Nat := 7; let clu : Nat := 15; (die < 8) ∧ (clu < 16) ∧ (cluHolds s (die * 16 + clu) = false)) ∧
    (let s : State := working; let die : Nat := 7; let clu : Nat := 15; (cluHolds s (die * 16 + clu) = true)) := by
  and_intros <;> decide +kernel


set_option maxRecDepth 20000 in
theorem wit_RopesClocksAndPower_0 :
    (let s : State := up; (s.clock % 16 = 0)) := by
  decide +kernel

set_option maxRecDepth 20000 in
theorem wit_RopesClocksAndPower_1 :
    (let s : State := up; let r : Nat := 31; let v : Word := 0; let stat := fun (t : State) (i : Nat) => (t.reg0 (ropeOff r + 0x20)).getLsbD i; let on := stat s 3 || stat s 4; (r < 32) ∧ (v.toNat % 4 < 2) ∧ (on = false)) ∧
    (let s : State := engaged; let r : Nat := 0; let v : Word := 0; let stat := fun (t : State) (i : Nat) => (t.reg0 (ropeOff r + 0x20)).getLsbD i; let on := stat s 3 || stat s 4; let hold := max 1 ((s.reg0 (ropeOff r + 0x10)).toNat / 2 ^ 8 % 256); (r < 32) ∧ (v.toNat % 4 < 2) ∧ (on = true) ∧ ((s.reg0 (ropeOff r)).toNat / 2 ^ 36 % 8 = 0) ∧ (stat s 3 = true) ∧ (stat s 4 = false) ∧ (2 * hold ≤ (s.rope r).fill) ∧ (hold ≤ (s.rope r).unsat)) ∧
    (let r : Nat := 31; let v : Word := 2; (r < 32) ∧ (2 ≤ v.toNat % 4)) ∧
    (let s : State := tapering; let r : Nat := 0; let stat := fun (t : State) (i : Nat) => (t.reg0 (ropeOff r + 0x20)).getLsbD i; let hold := max 1 ((s.reg0 (ropeOff r + 0x10)).toNat / 2 ^ 8 % 256); let on := stat s 3 || stat s 4; (r < 32) ∧ (on = false) ∧ (hold ≤ (s.rope r).sat) ∧ ((s.rope r).least < 4)) := by
  and_intros <;> decide +kernel

set_option maxRecDepth 20000 in
theorem wit_RopesClocksAndPower_2 :
    (let s : State := up; let r : Nat := 31; let i0 : Nat := 0; let i1 : Nat := 0; let i2 : Nat := 0; let i3 : Nat := 1; (r < 32) ∧ (s.ropeLost r = false) ∧ (i0 + i1 + i2 + i3 ≠ 0)) := by
  decide +kernel

set_option maxRecDepth 20000 in
theorem wit_RopesClocksAndPower_3 :
    (let s : State := up; let r : Nat := 31; let v0 : Nat := 65535; let v1 : Nat := 65535; let v2 : Nat := 65535; let v3 : Nat := 65535; (r < 32) ∧ (s.ropeLost r = false) ∧ (v0 < 65536) ∧ (v1 < 65536) ∧ (v2 < 65536) ∧ (v3 < 65536)) := by
  decide +kernel

set_option maxRecDepth 20000 in
theorem wit_RopesClocksAndPower_4 :
    (let s : State := up; let j : Nat := 0; (s.clock % 16 = 0) ∧ (j < 4)) := by
  decide +kernel

set_option maxRecDepth 20000 in
theorem wit_RopesClocksAndPower_5 :
    (let s : State := up; let r : Nat := 31; let cause : Nat := 4; (r < 32) ∧ (1 ≤ cause) ∧ (cause ≤ 4) ∧ (s.ropeState r = 0) ∧ (s.ropeLost r = false)) ∧
    (let s : State := clamped; let r : Nat := 0; let g := (someOr (0) ((s.rope r).goodAt)); (r < 32) ∧ (s.ropeState r = 1) ∧ (((s.rope r).goodAt).isSome = true) ∧ (g + 16384 ≤ s.count)) ∧
    (let s : State := clampedLong; let r : Nat := 0; (r < 32) ∧ (Idle s) ∧ (s.ropeState r = 1) ∧ ((s.rope r).clampAt + 65536 ≤ s.count)) := by
  unfold Idle
  and_intros <;> decide +kernel

set_option maxRecDepth 20000 in
theorem wit_RopesClocksAndPower_6 :
    (let s : State := up; let r : Nat := 31; let x : Nat := 100; let w := (s.reg0 (ropeOff r + 0x28)).toNat; (w / 2 ^ 40 % 256 ≤ x)) ∧
    (let s : State := up; let r : Nat := 31; let x : Nat := 31; let w := (s.reg0 (ropeOff r + 0x28)).toNat; (x + 2 < w / 2 ^ 40 % 256) ∧ (100 * x < 95 * (w % 2 ^ 16))) ∧
    (let s : State := up; let r : Nat := 31; let x : Nat := 1200; let w := (s.reg0 (ropeOff r + 0x28)).toNat; (w % 2 ^ 16 ≠ 0) ∧ (w % 2 ^ 16 < x)) := by
  and_intros <;> decide +kernel

set_option maxRecDepth 20000 in
theorem wit_RopesClocksAndPower_7 :
    (let s : State := limits; let watts : Nat := 1200; let r : Nat := 31; let lim := if (s.reg0 8).toNat % 2 ^ 16 = 0 then 2800 else (s.reg0 8).toNat % 2 ^ 16; (r < 32) ∧ (lim < watts)) ∧
    (let s : State := up; let watts : Nat := 31; let r : Nat := 31; let lim := if (s.reg0 8).toNat % 2 ^ 16 = 0 then 2800 else (s.reg0 8).toNat % 2 ^ 16; (r < 32) ∧ (100 * watts < 95 * lim)) := by
  and_intros <;> decide +kernel

set_option maxRecDepth 20000 in
theorem wit_RopesClocksAndPower_8 :
    (let s : State := floored; let num : Nat := 3; ((s.findLaunch num).isSome = true) ∧ (countStops s.bivState = false)) := by
  decide +kernel

set_option maxRecDepth 20000 in
theorem wit_RopesClocksAndPower_9 :
    (let die : Nat := 7; let stack : Nat := 1; let temp : Nat := 255; (die < 8) ∧ (stack < 2) ∧ (temp < 256)) := by
  decide +kernel


set_option maxRecDepth 20000 in
theorem wit_ErrorsBringUpAndBivouac_0 :
    (let die : Nat := 8; let array : Nat := 15; let unit : Nat := 7; (die < 9) ∧ (array < 16) ∧ (unit < 8)) ∧
    (let s : State := up; let die : Nat := 8; let array : Nat := 1; let inst : Nat := 0; let row : Nat := 0; let unit : Nat := 0; let off := row * 128 + unit * 16; (die < 9) ∧ (array < 16) ∧ (unit < 8) ∧ (cleanUnit s die array inst off = true)) ∧
    (let die : Nat := 0; let array : Nat := 2; let inst : Nat := 127; let row : Nat := 2047; let unit : Nat := 7; let off := row * 128 + unit * 16; (die < 9) ∧ (array < 16) ∧ (unit < 8) ∧ (2 ≤ array) ∧ (array ≤ 6) ∧ ((unitKey die array inst off).isSome = true)) := by
  and_intros <;> decide +kernel

set_option maxRecDepth 20000 in
theorem wit_ErrorsBringUpAndBivouac_1 :
    (let s : State := up; let die : Nat := 7; let array : Nat := 11; let cause : Nat := 15; (array = 10 ∨ array = 11) ∧ (ccErred s die array = false) ∧ (die < 8) ∧ (s.dieState die ≠ 3) ∧ (Idle s) ∧ (cause < 16) ∧ (s.bivState < 3 ∨ 7 < s.bivState)) ∧
    (let s : State := up; let die : Nat := 8; let array : Nat := 11; (array = 10 ∨ array = 11) ∧ (ccErred s die array = false) ∧ (die = 8)) ∧
    (let s : State := held2; let die : Nat := 2; (recovering s die = false) ∧ (die < 8) ∧ (s.dieState die = 2)) ∧
    (let s : State := feHeld; let die : Nat := 8; (recovering s die = false) ∧ (die = 8) ∧ (s.plat.feHeld = true)) ∧
    (let s : State := { held2 with agenda := [(9, .ccRecoveryDone 2 ⟨11, true⟩)] }; let die : Nat := 2; (recovering s die = true)) ∧
    (let s : State := biv 4; let die : Nat := 7; (die < 8) ∧ (Idle s) ∧ (s.dieState die ≠ 3) ∧ (3 ≤ s.bivState) ∧ (s.bivState ≤ 7)) ∧
    (let s : State := boot 2 128; let die : Nat := 7; let hbm : Bool := true; (die < 8) ∧ (Idle s) ∧ (s.bootState = 2) ∧ (s.dieState die = 0 ∨ (hbm = true ∧ s.dieState die ≠ 3))) := by
  unfold Idle
  and_intros <;> decide +kernel

set_option maxRecDepth 20000 in
theorem wit_ErrorsBringUpAndBivouac_2 :
    (let s : State := boot 4 3; (s.bootState = 0 ∨ s.bootState = 4)) ∧
    (let s : State := up; (s.bootState ≠ 0) ∧ (s.bootState ≠ 4)) ∧
    (let s : State := boot 1 127; let len := (s.reg2 0).toNat / 2 ^ 32; (s.bootState = 1) ∧ (s.plat.verified = false) ∧ (len < 128 ∨ 0x1000000 < len)) ∧
    (let s : State := boot 1 128; let len := (s.reg2 0).toNat / 2 ^ 32; (s.bootState = 1) ∧ (s.plat.verified = false) ∧ (128 ≤ len) ∧ (len ≤ 0x1000000)) ∧
    (let s : State := verified (boot 1 128); (s.bootState = 1) ∧ (s.plat.verified = true)) ∧
    (let s : State := verified (boot 2 128); (s.bootState = 2) ∧ (s.plat.physBad = [])) := by
  and_intros <;> decide +kernel

set_option maxRecDepth 20000 in
theorem wit_ErrorsBringUpAndBivouac_3 :
    (let s : State := biv 3; (cxlOn s = false)) ∧
    (let s : State := holding [2 ^ 33] up; let off : Nat := 0; let len : Nat := 16; let ma := 0x10000000000 + off; (cxlOn s = true) ∧ (off + len ≤ 0xC000000000) ∧ (s.dieState (homeDie ma) = 1) ∧ (notYetUp s ma = false) ∧ (heldL3B s ma len = true) ∧ (s.mem.poisoned (maKey ma) len = false) ∧ (s.MemOk)) ∧
    (let s : State := sectorS; let hpa : Nat := 0x7F; let x : Sector := hostSector; (s.MemOk) ∧ (s.mem.l2 = [x]) ∧ (x.die < 8) ∧ (x.dirty = true) ∧ (hostLine hpa x = true)) := by
  unfold State.MemOk
  and_intros <;> decide +kernel

set_option maxRecDepth 20000 in
theorem wit_ErrorsBringUpAndBivouac_4 :
    (let s : State := spare3; let vdie : Nat := 7; let pdie : Nat := 3; (s.MemOk) ∧ (vdie < 8) ∧ (pdie < 8) ∧ (pdie ∉ s.plat.physBad) ∧ (pdie ∉ s.plat.dieMap.toList) ∧ (s.bootState = 1 ∨ s.bootState = 2)) := by
  unfold State.MemOk
  decide +kernel

set_option maxRecDepth 20000 in
theorem wit_ErrorsBringUpAndBivouac_5 :
    (let s : State := up; (s.bivState = 0 ∨ s.bivState = 9)) ∧
    (let s : State := bivCut; (s.bivState = 1) ∧ (bivOwnCut s = true) ∧ (cutState s = 2) ∧ (s.holders = [])) ∧
    (let s : State := biv 2; (s.bivState = 2) ∧ (atRest s = true)) ∧
    (let s : State := biv 3; (s.bivState = 3)) ∧
    (let s : State := biv 4; (s.bivState = 4)) ∧
    (let s : State := biv 5; (s.bivState = 5)) ∧
    (let s : State := biv 6; (s.bivState = 6)) ∧
    (let s : State := biv 7; (s.bivState = 7 ∨ s.bivState = 8) ∧ (toPhase s = 0) ∧ (bivGone s = []) ∧ (cutState s ≠ 2)) ∧
    (let s : State := bivLate; (s.bivState = 1) ∧ (s.plat.bivSince + cutBound ≤ s.clock) ∧ (cutState s = 0 ∨ cutState s = 4)) := by
  and_intros <;> decide +kernel

set_option maxRecDepth 20000 in
theorem wit_ErrorsBringUpAndBivouac_6 :
    (let s : State := forced; let th : Nat := 5; let r : Rec := aRec; (s.bivState = 2) ∧ ((s.getT th).rcd = some r) ∧ (s.plat.bivSince + stopBound ≤ s.clock) ∧ ((s.getT th).i.rep = none) ∧ ((s.getT th).i.replies = []) ∧ (allUp s = true)) := by
  decide +kernel


set_option maxRecDepth 20000 in
theorem wit_FabricEthernetAndRegisters_0 :
    (let dev : Nat := 255; (dev < 256)) := by
  decide +kernel

set_option maxRecDepth 20000 in
theorem wit_FabricEthernetAndRegisters_1 :
    (let s : State := linkedUp; let n : Nat := 0; let ber : Bool := decide (2 ^ 32 < n * 10 ^ max 4 ((s.reg2 0x200).toNat / 2 ^ 12 % 16)); let p : Nat := 63; let lam : Nat := 4; let x := s.port p; let at0 : Nat := 0; (¬ ber) ∧ (portUp s p = true) ∧ ((lam, at0) ∈ x.retr)) ∧
    (let s : State := linkedUp; let p : Nat := 63; let lam : Nat := 2; let x := s.port p; let n : Nat := 429497; let ber : Bool := decide (2 ^ 32 < n * 10 ^ max 4 ((s.reg2 0x200).toNat / 2 ^ 12 % 16)); (ber) ∧ (portUp s p = true) ∧ (lam ∈ x.lams) ∧ (x.lams.erase lam ≠ [])) ∧
    (let s : State := heldLate; let p : Nat := 63; let lam : Nat := 4; let x := s.port p; let at0 : Nat := 0; ((lam, at0) ∈ x.retr) ∧ (at0 + relockTime ≤ s.clock)) := by
  and_intros <;> decide +kernel

set_option maxRecDepth 20000 in
theorem wit_FabricEthernetAndRegisters_2 :
    (let s : State := holding [0x17FFFFFFF] linkedUp; let p : Nat := 63; let ma : Nat := 0xBFFFFFFFFF; let len : Nat := 1; (portUp s p = true) ∧ ((s.port p).room ≠ 0) ∧ ((s.port p).behind = []) ∧ (s.MemOk) ∧ (captures s p = false) ∧ ((s.port p).captured = []) ∧ (inHbm ma = true) ∧ (s.dieLost (homeDie ma) = false) ∧ (heldL3B s ma len = true)) ∧
    (let s : State := inCut 1; let p : Nat := 63; (portUp s p = true) ∧ ((s.port p).room ≠ 0) ∧ ((s.port p).behind = []) ∧ (captures s p = true ∨ (s.port p).captured ≠ [])) := by
  unfold State.MemOk
  and_intros <;> decide +kernel

set_option maxRecDepth 20000 in
theorem wit_FabricEthernetAndRegisters_3 :
    (let s : State := up; (cutState s = 0 ∨ cutState s = 4)) ∧
    (let s : State := linkedUp; let p : Nat := 63; (portUp s p = true) ∧ ((s.port p).behind = []) ∧ (cutState s = 0) ∧ (s.plat.cutInputs = [])) ∧
    (let s : State := inCut 1; let id : Nat := 7; let p : Nat := 63; (portUp s p = true) ∧ ((s.port p).behind = []) ∧ (cutState s = 1) ∧ ((s.reg2 0x4008).toNat / 2 ^ 48 = id) ∧ (s.plat.cutInputs = [p]) ∧ ((List.range 64).filter (fun q => portHeld s q || !(s.port q).captured.isEmpty) = [p]) ∧ ((List.range 64).all (fun q => decide ((s.port q).behind = [])) = true) ∧ ((s.port p).captured = []) ∧ ((s.port p).waiting = []) ∧ (cutState s = 1 ∨ cutState s = 2)) ∧
    (let s : State := inCut 2; let p : Nat := 63; ((List.range 64).filter (fun q => portHeld s q || !(s.port q).captured.isEmpty) = [p]) ∧ ((List.range 64).all (fun q => decide ((s.port q).behind = [])) = true) ∧ ((s.port p).captured = []) ∧ ((s.port p).waiting = []) ∧ (cutState s = 2)) := by
  and_intros <;> decide +kernel

set_option maxRecDepth 20000 in
theorem wit_FabricEthernetAndRegisters_4 :
    (let s : State := linkedUp; let p : Nat := 63; ((portWord s p).toNat % 8 ≠ 0) ∧ (cutState s ≠ 1) ∧ (p < 64)) ∧
    (let s : State := darkPort; let p : Nat := 63; let at0 := (someOr (0) ((s.port p).dark)); (((s.port p).dark).isSome = true) ∧ (portHeld s p = false) ∧ (at0 + darkTime ≤ s.clock) ∧ (s.holders = []) ∧ (s.sch.ops = [])) ∧
    (let s : State := linkedUp; let p : Nat := 0; ((s.reg2 0x200).getLsbD 8 = true) ∧ (s.bootState = 3) ∧ (s.bivState ≠ 4) ∧ (s.bivState ≠ 5) ∧ (portUp s p = false) ∧ (portHeld s p = false) ∧ ((s.port p).waiting = []) ∧ (s.sch.heldCancels = []) ∧ (p < 64) ∧ ((s.port p).linked = false)) ∧
    (let s : State := linkedUp.setReg2 (portOff 63) (0x05 * 2 ^ 56); let p : Nat := 63; let peer : Nat := 5; ((s.reg2 0x200).getLsbD 8 = true) ∧ (s.bootState = 3) ∧ (s.bivState ≠ 4) ∧ (s.bivState ≠ 5) ∧ (portUp s p = false) ∧ (portHeld s p = false) ∧ ((s.port p).waiting = []) ∧ (s.sch.heldCancels = []) ∧ (p < 64) ∧ ((s.port p).linked = true) ∧ (portPeer s p = peer % 256) ∧ ((s.port p).owing = 0)) := by
  and_intros <;> decide +kernel

set_option maxRecDepth 20000 in
theorem wit_FabricEthernetAndRegisters_5 :
    (let s : State := sends; let port : Nat := 7; let q : Nat := 0; (port < 8) ∧ (q < 16) ∧ ((qCfg s port q).getLsbD 63 = false)) ∧
    (let s : State := sends; let port : Nat := 7; let q : Nat := 15; let v : Word := 0; let i : Nat := 0; let d : Nat := 0x3C*2^64+0x1000; let rest : List (Nat × Nat) := []; (port < 8) ∧ (q < 16) ∧ ((qCfg s port q).getLsbD 63 = true) ∧ (v.getLsbD 63 = false) ∧ (ethOn s port = true) ∧ (ethUp s port = true) ∧ (sendTurn s port = some q) ∧ ((s.ethQ port q).send = (i, d) :: rest) ∧ (sendOk d = true) ∧ ((getBytes d 12 1).testBit 0 = false) ∧ (1 ≤ getBytes d 8 2) ∧ (getBytes d 8 2 + 4 ≤ maxFrame s port) ∧ ((vmRead s ethClu (qPart s port q) (getBytes d 0 8) (getBytes d 8 2)).isOk = true) ∧ (ethRuns s = true) ∧ ((s.reg2 (ethOff port + 0x38)).toNat < 2 ^ 64 - 1)) ∧
    (let s : State := (eth 0x1).setEthQ 7 15 { send := [], recv := [] }; let port : Nat := 7; let q : Nat := 15; let h : Nat := 0; (port < 8) ∧ (q < 16) ∧ (qTakes s port q = true) ∧ (s.ethQ port q = { send := [], recv := [] }) ∧ ((qPtr s port q).toNat / 2 ^ 48 = h) ∧ (h < sendSize s port q) ∧ ((qPtr s port q).toNat / 2 ^ 32 % 2 ^ 16 = (h + 1) % sendSize s port q) ∧ ((qPtr s port q).toNat % 2 ^ 16 = (qPtr s port q).toNat / 2 ^ 16 % 2 ^ 16) ∧ ((vmRead s ethClu (qPart s port q) (ringAddr s port q false h) 32).isOk = true)) := by
  and_intros <;> decide +kernel

set_option maxRecDepth 20000 in
theorem wit_FabricEthernetAndRegisters_6 :
    (let s : State := sends; let port : Nat := 7; let pfc : Option (BitVec 8) := some 0x8C; (ethOn s port = true) ∧ (s.bootState = 3) ∧ (ethUp s port = true) ∧ (honoured s port pfc ≠ [])) ∧
    (let s : State := sendsP; let port : Nat := 7; (ethPaused s port = true) ∧ ((List.range 9).all (fun i => decide (heldUntil s port i ≤ s.clock)) = true)) := by
  and_intros <;> decide +kernel

set_option maxRecDepth 20000 in
theorem wit_FabricEthernetAndRegisters_7 :
    (let off : Nat := 9; let q : Nat := 63; let s : State := sqOn; (off % 8 ≠ 0) ∧ (q < 64) ∧ ((sqCfg s q).getLsbD 16 = true)) ∧
    (let s : State := up; let q : Nat := 63; let n : Nat := 7; (q < 64) ∧ ((sqCfg s q).getLsbD 16 = false) ∧ (n < 8) ∧ (s.plat.locked = false)) ∧
    (let s : State := { up with plat := { up.plat with locked := true } }; let n : Nat := 7; (n < 8) ∧ (s.plat.locked = true)) := by
  and_intros <;> decide +kernel


def received : State := fetchPair sends 7 15
def stored : State := okOr State.reset (vmWrite received ethClu 0 0x2000 60 (frameNum (List.replicate 60 255)))
theorem wit_FabricEthernetAndRegisters_receive :
    ethRuns sends = true ∧ ethOn sends 7 = true ∧ ethUp sends 7 = true ∧ 60 ≤ (List.replicate 60 (255 : BitVec 8)).length ∧ 60 + 4 ≤ maxFrame sends 7 ∧
    accepts sends 7 (frameNum (List.replicate 60 255)) = true ∧ steer sends 7 (frameNum (List.replicate 60 255)) = 15 ∧
    (ethCfg sends 7).getLsbD 1 = false ∧ qTakes received 7 15 = true ∧ (received.ethQ 7 15).recv = [(0, 0x40 * 2 ^ 64 + 0x2000)] ∧
    recvOk (0x40 * 2 ^ 64 + 0x2000) = true ∧ getBytes (0x40 * 2 ^ 64 + 0x2000) 8 2 = 64 ∧ getBytes (0x40 * 2 ^ 64 + 0x2000) 0 8 = 0x2000 ∧
    qPart received 7 15 = 0 ∧ (ethCfg received 7).getLsbD 1 = false ∧
    (vmWrite received ethClu 0 0x2000 60 (frameNum (List.replicate 60 255))).isOk = true := by decide +kernel
theorem vmWriteGo_one (s s1 : State) (clu part a n k v : Nat) (h : vmPlace s clu part a n .store = .ok (s1, k)) :
    vmWriteGo clu part [(a, n)] s v = .ok (s1.modM (·.put k n (v % 256 ^ n))) := by simp [vmWriteGo, h, bind, Except.bind]
def freed : State := { stored with free := stored.free + 1 }
def statusAt : State × Nat := okOr (State.reset, 0) (vmPlace freed ethClu 0 10 18 .store)
theorem wit_FabricEthernetAndRegisters_status (y : Nat) :
    ∃ s3, vmWrite freed ethClu 0 (ringAddr stored 7 15 true 0 + 10) 18 y = .ok s3 ∧ s3.plat = stored.plat := by
  have hl : splitRange (ringAddr stored 7 15 true 0 + 10) 18 = [(10, 18)] := by decide +kernel
  have hk : (vmPlace freed ethClu 0 10 18 .store).isOk = true := by decide +kernel
  have hp : vmPlace freed ethClu 0 10 18 .store = .ok (statusAt.1, statusAt.2) := by
    unfold statusAt
    cases e : vmPlace freed ethClu 0 10 18 .store with
    | ok x => rfl
    | error x => rw [e] at hk; cases hk
  have hq : statusAt.1.plat = stored.plat := by decide +kernel
  refine ⟨statusAt.1.modM (·.put statusAt.2 18 (y % 256 ^ 18)), ?_, by simp only [State.modM, hq]⟩
  rw [vmWrite, hl]; exact vmWriteGo_one _ _ _ _ _ _ _ _ hp
theorem wit_FrontEndSteps_6 :
    busyTlb.sch.tlbiBusy = true ∧ (∀ c, (busyTlb.core c).buf = []) ∧ (∀ n ∈ busyTlb.holders, (busyTlb.getT n).i.replies = []) ∧
    (∀ p ∈ busyTlb.plat.ports, p.2.waiting = []) ∧ (∀ c ∈ busyTlb.cores, c.2.posted = []) ∧ (∀ o ∈ busyTlb.sch.ops, translated o = false) := by
  have hc : busyTlb.cores = [] := by decide +kernel
  have hh : busyTlb.holders = [] := by decide +kernel
  have hp : busyTlb.plat.ports = [] := by decide +kernel
  have ho : busyTlb.sch.ops = [] := by decide +kernel
  refine ⟨by decide +kernel, fun c => ?_, ?_, ?_, ?_, ?_⟩
  · simp [State.core, hc, tabGet, CoreSt.reset]
  · simp [hh]
  · simp [hp]
  · simp [hc]
  · simp [ho]
/-- p1 takes the first two elements of e bytes. -/
def twoLanes (e : Nat) : State := let s := nearV [] ownA; { s with thr := { s.thr with r := s.thr.r.setP 1 (BitVec.ofNat 256 (1 + 2 ^ e)) } }
/-- Two lanes of eight bytes lie in two chunks; two lanes of one byte lie in one. -/
theorem wit_OwnRegionVectorAccesses_chunks :
    (let s := twoLanes 8; (activeElems s 1 8).Pairwise (fun i j => ¬ (8 < 8 ∧ ownKey s (8 * i) / 8 = ownKey s (8 * j) / 8)) ∧ activeElems s 1 8 = [0, 1]) ∧
    (let s := twoLanes 1; activeElems s 1 1 = [0, 1] ∧ ∀ j ∈ [1], 1 < 8 ∧ ownKey s (1 * 0) / 8 = ownKey s (1 * j) / 8) ∧
    (let s := twoLanes 1; ∀ i ∈ activeElems s 1 1, OwnAt s (0xFF00000000000000 + BitVec.ofNat 64 i) 1 i ∧ i % 1 = 0) := by
  unfold OwnAt
  exact ⟨by decide +kernel, by decide +kernel, by decide +kernel⟩

/-! Words written out from the encodings, one or more of each instruction: L, W, G, OP6 and the operand fields (R182, R191, R202-R204,
R208, R285, R305), OP7, predicate, d, a, b, T and M (R193, R197, R198, R205). -/

theorem test_decode_control :
    decodeBundle 0x50000000 0x00000000 = .ok ⟨5, .nop, .arithNop⟩ ∧
    decodeBundle 0x001FFFFE 0x00000000 = .ok ⟨0, .bra (.imm (-2)), .arithNop⟩ ∧
    decodeBundle 0x80100000 0x80000000 = .ok ⟨0, .bra (.lit 0x80000000), .arithNop⟩ ∧
    decodeBundle 0x002527FF 0x00000000 = .ok ⟨0, .bc .lez 4 (.imm (-1)), .arithNop⟩ ∧
    decodeBundle 0x80273000 0x00000009 = .ok ⟨0, .bc .pall 6 (.lit 9), .arithNop⟩ ∧
    decodeBundle 0x00312345 0x00000000 = .ok ⟨0, .call (.imm 0x12345), .arithNop⟩ ∧
    decodeBundle 0x00449000 0x00000000 = .ok ⟨0, .calli 9 4, .arithNop⟩ ∧
    decodeBundle 0x00507800 0x00000000 = .ok ⟨0, .ret 30, .arithNop⟩ ∧
    decodeBundle 0x00601000 0x00000000 = .ok ⟨0, .jmpi 4, .arithNop⟩ ∧
    decodeBundle 0x00700E0B 0x00000000 = .ok ⟨0, .rep 0 7 true false true true, .arithNop⟩ ∧
    decodeBundle 0x00800005 0x00000000 = .ok ⟨0, .yield (.imm 5), .arithNop⟩ ∧
    decodeBundle 0x80900000 0x0000FFFF = .ok ⟨0, .safe (.lit 0xFFFF), .arithNop⟩ ∧
    decodeBundle 0x00A00000 0x00000000 = .ok ⟨0, .endCont, .arithNop⟩ ∧
    decodeBundle 0x00B4FFFF 0x00000000 = .ok ⟨0, .work 9 (.imm 0x7FFF), .arithNop⟩ := by
  decide +kernel

theorem test_decode_handles_search_and_tasks :
    decodeBundle 0x00C03C00 0x00000000 = .ok ⟨0, .wait 15, .arithNop⟩ ∧
    decodeBundle 0x00D49000 0x00000000 = .ok ⟨0, .ftest 9 4, .arithNop⟩ ∧
    decodeBundle 0x00E48000 0x00000000 = .ok ⟨0, .fcancel 9, .arithNop⟩ ∧
    decodeBundle 0x00F49000 0x00000000 = .ok ⟨0, .fget 9 4, .arithNop⟩ ∧
    decodeBundle 0x01049000 0x00000000 = .ok ⟨0, .fput 9 4, .arithNop⟩ ∧
    decodeBundle 0x811010C0 0x00001234 = .ok ⟨0, .tryChoice 4 6 0 0x1234, .arithNop⟩ ∧
    decodeBundle 0x01200000 0x00000000 = .ok ⟨0, .fail, .arithNop⟩ ∧
    decodeBundle 0x01348000 0x00000000 = .ok ⟨0, .cut 9 0, .arithNop⟩ ∧
    decodeBundle 0x01448000 0x00000000 = .ok ⟨0, .mark 9, .arithNop⟩ ∧
    decodeBundle 0x81549000 0x00001234 = .ok ⟨0, .commit 9 4 0x1234, .arithNop⟩ ∧
    decodeBundle 0x816490CF 0x89ABCDEF = .ok ⟨0, .tread 9 4 6 15 0x89ABCDEF, .arithNop⟩ ∧
    decodeBundle 0x01749000 0x00000000 = .ok ⟨0, .tver 9 4, .arithNop⟩ ∧
    decodeBundle 0x01800000 0x00000000 = .ok ⟨0, .quit, .arithNop⟩ ∧
    decodeBundle 0x0194FFFF 0x00000000 = .ok ⟨0, .svc 9 (.imm 0x7FFF), .arithNop⟩ ∧
    decodeBundle 0x01A4FFFF 0x00000000 = .ok ⟨0, .lit 9 (.imm (-1)), .arithNop⟩ ∧
    decodeBundle 0x81B48000 0x12345678 = .ok ⟨0, .lithi 9 (.lit 0x12345678), .arithNop⟩ ∧
    decodeBundle 0x01CF0001 0x00000000 = .ok ⟨0, .vlit 30 (.imm 1), .arithNop⟩ := by
  decide +kernel

theorem test_decode_loads_and_stores :
    decodeBundle 0x04049200 0x00000000 = .ok ⟨0, .ldW8 9 4 (.imm (-512)), .arithNop⟩ ∧
    decodeBundle 0x84149000 0xFFFFFFFF = .ok ⟨0, .ldI8 9 4 (.lit 0xFFFFFFFF), .arithNop⟩ ∧
    decodeBundle 0x04249200 0x00000000 = .ok ⟨0, .ldW16 9 4 (.imm (-512)), .arithNop⟩ ∧
    decodeBundle 0x84349000 0xFFFFFFFF = .ok ⟨0, .ldI16 9 4 (.lit 0xFFFFFFFF), .arithNop⟩ ∧
    decodeBundle 0x04449200 0x00000000 = .ok ⟨0, .ldW32 9 4 (.imm (-512)), .arithNop⟩ ∧
    decodeBundle 0x84549000 0xFFFFFFFF = .ok ⟨0, .ldI32 9 4 (.lit 0xFFFFFFFF), .arithNop⟩ ∧
    decodeBundle 0x04649200 0x00000000 = .ok ⟨0, .ldW64 9 4 (.imm (-512)), .arithNop⟩ ∧
    decodeBundle 0x04849200 0x00000000 = .ok ⟨0, .stW8 9 4 (.imm (-512)), .arithNop⟩ ∧
    decodeBundle 0x84949000 0xFFFFFFFF = .ok ⟨0, .stW16 9 4 (.lit 0xFFFFFFFF), .arithNop⟩ ∧
    decodeBundle 0x04A49200 0x00000000 = .ok ⟨0, .stW32 9 4 (.imm (-512)), .arithNop⟩ ∧
    decodeBundle 0x84B49000 0xFFFFFFFF = .ok ⟨0, .stW64 9 4 (.lit 0xFFFFFFFF), .arithNop⟩ ∧
    decodeBundle 0x04E49200 0x00000000 = .ok ⟨0, .vld 9 4 (.imm (-512)), .arithNop⟩ ∧
    decodeBundle 0x84F49000 0xFFFFFFFF = .ok ⟨0, .vst 9 4 (.lit 0xFFFFFFFF), .arithNop⟩ ∧
    decodeBundle 0x05649200 0x00000000 = .ok ⟨0, .vldsync 9 4 (.imm (-512)), .arithNop⟩ ∧
    decodeBundle 0x85749000 0xFFFFFFFF = .ok ⟨0, .stfull 9 4 (.lit 0xFFFFFFFF), .arithNop⟩ ∧
    decodeBundle 0x05849200 0x00000000 = .ok ⟨0, .vstfull 9 4 (.imm (-512)), .arithNop⟩ ∧
    decodeBundle 0x04C490CD 0x00000000 = .ok ⟨0, .ldx 9 4 6 true .i32 none, .arithNop⟩ ∧
    decodeBundle 0x84D490C6 0x00000003 = .ok ⟨0, .stx 9 4 6 false .e8 (some 3), .arithNop⟩ ∧
    decodeBundle 0x050490CD 0x00000000 = .ok ⟨0, .vlds 9 4 6 .e2 5 none, .arithNop⟩ ∧
    decodeBundle 0x051490DD 0x00000000 = .ok ⟨0, .vsts 9 4 6 .e8 5 none, .arithNop⟩ ∧
    decodeBundle 0x052490D5 0x00000000 = .ok ⟨0, .vgat 9 4 6 .e4 5 none, .arithNop⟩ ∧
    decodeBundle 0x053490DD 0x00000000 = .ok ⟨0, .vsct 9 4 6 .e8 5 none, .arithNop⟩ ∧
    decodeBundle 0x85449007 0x00000010 = .ok ⟨0, .vldb 9 4 .e1 7 (some 0x10), .arithNop⟩ ∧
    decodeBundle 0x05549004 0x00000000 = .ok ⟨0, .ldsync 9 4 .w32 none, .arithNop⟩ ∧
    decodeBundle 0x059010C0 0x00000000 = .ok ⟨0, .femp 4 6 none, .arithNop⟩ ∧
    decodeBundle 0x05A49013 0x00000000 = .ok ⟨0, .ldacq 9 4 .e4 .mod none, .arithNop⟩ ∧
    decodeBundle 0x05B4901D 0x00000000 = .ok ⟨0, .strel 9 4 .e8 .sys none, .arithNop⟩ := by
  decide +kernel

theorem test_decode_atomics_and_caches :
    decodeBundle 0x05C490C0 0x00000000 = .ok ⟨0, .afadd 9 4 6 .w32 .core none, .arithNop⟩ ∧
    decodeBundle 0x05D490C9 0x00000000 = .ok ⟨0, .afmin 9 4 6 .i32 .clu none, .arithNop⟩ ∧
    decodeBundle 0x05E490D2 0x00000000 = .ok ⟨0, .afmax 9 4 6 .w64 .die none, .arithNop⟩ ∧
    decodeBundle 0x05F490DB 0x00000000 = .ok ⟨0, .afand 9 4 6 .i64 .mod none, .arithNop⟩ ∧
    decodeBundle 0x060490C4 0x00000000 = .ok ⟨0, .afor 9 4 6 .w32 .fab none, .arithNop⟩ ∧
    decodeBundle 0x061490CD 0x00000000 = .ok ⟨0, .afxor 9 4 6 .i32 .sys none, .arithNop⟩ ∧
    decodeBundle 0x062490D0 0x00000000 = .ok ⟨0, .aswap 9 4 6 .w64 .core none, .arithNop⟩ ∧
    decodeBundle 0x063490C2 0x00000000 = .ok ⟨0, .affadd 9 4 6 .die none, .arithNop⟩ ∧
    decodeBundle 0x06501002 0x00000000 = .ok ⟨0, .pref 4 .l3 none, .arithNop⟩ ∧
    decodeBundle 0x066490C1 0x00000000 = .ok ⟨0, .pin 9 4 6 true none, .arithNop⟩ ∧
    decodeBundle 0x867010C0 0x00000080 = .ok ⟨0, .unpin 4 6 false (some 0x80), .arithNop⟩ ∧
    decodeBundle 0x068010C0 0x00000000 = .ok ⟨0, .cflush 4 6 none, .arithNop⟩ ∧
    decodeBundle 0x069010C0 0x00000000 = .ok ⟨0, .cinv 4 6 none, .arithNop⟩ ∧
    decodeBundle 0x864490DB 0xFFFFF807 = .ok ⟨0, .acas 9 4 6 .i64 .mod 0xFFFFF8 7, .arithNop⟩ := by
  decide +kernel

theorem test_decode_engines_and_synchronisation :
    decodeBundle 0x080490C7 0x00000000 = .ok ⟨0, .copy 9 4 6 7 none, .arithNop⟩ ∧
    decodeBundle 0x081490C7 0x00000000 = .ok ⟨0, .copy2 9 4 6 7 none, .arithNop⟩ ∧
    decodeBundle 0x082490C7 0x00000000 = .ok ⟨0, .copym 9 4 6 7 none, .arithNop⟩ ∧
    decodeBundle 0x08300009 0x00000000 = .ok ⟨0, .stage 9, .arithNop⟩ ∧
    decodeBundle 0x88449000 0x00000400 = .ok ⟨0, .mxld 9 4 (some 0x400), .arithNop⟩ ∧
    decodeBundle 0x085490C2 0x00000000 = .ok ⟨0, .mxmm 9 4 6 2 none, .arithNop⟩ ∧
    decodeBundle 0x086490C7 0x00000000 = .ok ⟨0, .mxsp 9 4 6 7 none, .arithNop⟩ ∧
    decodeBundle 0x087490C7 0x00000000 = .ok ⟨0, .mxgrp 9 4 6 7 none, .arithNop⟩ ∧
    decodeBundle 0x08848000 0x00000000 = .ok ⟨0, .mxrot 9 false, .arithNop⟩ ∧
    decodeBundle 0x089490C7 0x00000000 = .ok ⟨0, .mxrd 9 4 6 7 false, .arithNop⟩ ∧
    decodeBundle 0x88A480C0 0x00000000 = .ok ⟨0, .mxclr 9 6 true, .arithNop⟩ ∧
    decodeBundle 0x08B490C7 0x00000000 = .ok ⟨0, .mxmeta 9 4 6 7 false, .arithNop⟩ ∧
    decodeBundle 0x88C490C0 0x0000CAFE = .ok ⟨0, .mxcmd 9 4 6 0xCAFE, .arithNop⟩ ∧
    decodeBundle 0x88D490C7 0x00000005 = .ok ⟨0, .msg 9 4 6 7 (some 5), .arithNop⟩ ∧
    decodeBundle 0x08E49000 0x00000000 = .ok ⟨0, .recv 9 4, .arithNop⟩ ∧
    decodeBundle 0x08F20003 0x00000000 = .ok ⟨0, .bar 4 (.imm 3), .arithNop⟩ ∧
    decodeBundle 0x09000000 0x00000000 = .ok ⟨0, .barl, .arithNop⟩ ∧
    decodeBundle 0x09100004 0x00000000 = .ok ⟨0, .fence .fab, .arithNop⟩ := by
  decide +kernel

theorem test_decode_system :
    decodeBundle 0x0C048013 0x00000000 = .ok ⟨0, .gets 9 0x13, .arithNop⟩ ∧
    decodeBundle 0x0C14801B 0x00000000 = .ok ⟨0, .puts 9 0x1B, .arithNop⟩ ∧
    decodeBundle 0x0C249000 0x00000000 = .ok ⟨0, .hand 9 4, .arithNop⟩ ∧
    decodeBundle 0x0C301000 0x00000000 = .ok ⟨0, .hret 4, .arithNop⟩ ∧
    decodeBundle 0x0C4010C0 0x00000000 = .ok ⟨0, .rseed 4 6, .arithNop⟩ ∧
    decodeBundle 0x0C501000 0x00000000 = .ok ⟨0, .park 4, .arithNop⟩ := by
  decide +kernel

theorem test_decode_scalar_arithmetic :
    decodeBundle 0x00000000 0x02864300 = .ok ⟨0, .nop, .add 2 3 4 6 .i32⟩ ∧
    decodeBundle 0x00000000 0x04864310 = .ok ⟨0, .nop, .sub 2 3 4 6 .w32⟩ ∧
    decodeBundle 0x00000000 0x06864320 = .ok ⟨0, .nop, .mul 2 3 4 6 .i16⟩ ∧
    decodeBundle 0x00000000 0x08864330 = .ok ⟨0, .nop, .mulh 2 3 4 6 .w16⟩ ∧
    decodeBundle 0x00000000 0x0A864340 = .ok ⟨0, .nop, .div 2 3 4 6 .i8⟩ ∧
    decodeBundle 0x00000000 0x0C864350 = .ok ⟨0, .nop, .rem 2 3 4 6 .w8⟩ ∧
    decodeBundle 0x00000000 0x0E864360 = .ok ⟨0, .nop, .and 2 3 4 6 .i64⟩ ∧
    decodeBundle 0x00000000 0x10864300 = .ok ⟨0, .nop, .or 2 3 4 6 .i32⟩ ∧
    decodeBundle 0x00000000 0x12864310 = .ok ⟨0, .nop, .xor 2 3 4 6 .w32⟩ ∧
    decodeBundle 0x00000000 0x14864320 = .ok ⟨0, .nop, .andn 2 3 4 6 .i16⟩ ∧
    decodeBundle 0x00000000 0x16864330 = .ok ⟨0, .nop, .shl 2 3 4 6 .w16⟩ ∧
    decodeBundle 0x00000000 0x18864340 = .ok ⟨0, .nop, .shr 2 3 4 6 .i8⟩ ∧
    decodeBundle 0x00000000 0x1A864350 = .ok ⟨0, .nop, .sra 2 3 4 6 .w8⟩ ∧
    decodeBundle 0x00000000 0x1C864360 = .ok ⟨0, .nop, .rot 2 3 4 6 .i64⟩ ∧
    decodeBundle 0x00000000 0x1E864300 = .ok ⟨0, .nop, .min 2 3 4 6 .i32⟩ ∧
    decodeBundle 0x00000000 0x20864310 = .ok ⟨0, .nop, .max 2 3 4 6 .w32⟩ ∧
    decodeBundle 0x00000000 0x22864365 = .ok ⟨0, .nop, .set 2 3 4 6 .i64 .ge⟩ ∧
    decodeBundle 0x00000000 0x24864350 = .ok ⟨0, .nop, .sel 2 3 4 6 .w8⟩ ∧
    decodeBundle 0x00000000 0x26864320 = .ok ⟨0, .nop, .adds 2 3 4 6 .i16⟩ ∧
    decodeBundle 0x00000000 0x28864030 = .ok ⟨0, .nop, .clz 2 3 4 .w16⟩ ∧
    decodeBundle 0x00000000 0x2A864040 = .ok ⟨0, .nop, .popc 2 3 4 .i8⟩ ∧
    decodeBundle 0x00000000 0x2C864300 = .ok ⟨0, .nop, .bext 2 3 4 6 .i32⟩ ∧
    decodeBundle 0x00000000 0x2E864310 = .ok ⟨0, .nop, .bins 2 3 4 6 .w32⟩ ∧
    decodeBundle 0x00000000 0x30864060 = .ok ⟨0, .nop, .mov 2 3 4 .i64⟩ ∧
    decodeBundle 0x00000000 0x32864801 = .ok ⟨0, .nop, .addi 2 3 4 0x801⟩ ∧
    decodeBundle 0x00000000 0x34864801 = .ok ⟨0, .nop, .andi 2 3 4 0x801⟩ ∧
    decodeBundle 0x00000000 0x36864801 = .ok ⟨0, .nop, .ori 2 3 4 0x801⟩ ∧
    decodeBundle 0x00000000 0x38864801 = .ok ⟨0, .nop, .xori 2 3 4 0x801⟩ ∧
    decodeBundle 0x00000000 0x3A86403F = .ok ⟨0, .nop, .shli 2 3 4 63⟩ ∧
    decodeBundle 0x00000000 0x3C864001 = .ok ⟨0, .nop, .shri 2 3 4 1⟩ := by
  decide +kernel

theorem test_decode_vector_integers :
    decodeBundle 0x00000000 0x40864300 = .ok ⟨0, .nop, .vadd 2 3 4 6 .i32⟩ ∧
    decodeBundle 0x00000000 0x42864310 = .ok ⟨0, .nop, .vsub 2 3 4 6 .w32⟩ ∧
    decodeBundle 0x00000000 0x44864320 = .ok ⟨0, .nop, .vmul 2 3 4 6 .i16⟩ ∧
    decodeBundle 0x00000000 0x46864330 = .ok ⟨0, .nop, .vmulh 2 3 4 6 .w16⟩ ∧
    decodeBundle 0x00000000 0x48864340 = .ok ⟨0, .nop, .vaddsat 2 3 4 6 .i8⟩ ∧
    decodeBundle 0x00000000 0x4A864350 = .ok ⟨0, .nop, .vsubsat 2 3 4 6 .w8⟩ ∧
    decodeBundle 0x00000000 0x4C864300 = .ok ⟨0, .nop, .vand 2 3 4 6 .i32⟩ ∧
    decodeBundle 0x00000000 0x4E864310 = .ok ⟨0, .nop, .vor 2 3 4 6 .w32⟩ ∧
    decodeBundle 0x00000000 0x50864320 = .ok ⟨0, .nop, .vxor 2 3 4 6 .i16⟩ ∧
    decodeBundle 0x00000000 0x52864330 = .ok ⟨0, .nop, .vandn 2 3 4 6 .w16⟩ ∧
    decodeBundle 0x00000000 0x54864340 = .ok ⟨0, .nop, .vshl 2 3 4 6 .i8⟩ ∧
    decodeBundle 0x00000000 0x56864350 = .ok ⟨0, .nop, .vshr 2 3 4 6 .w8⟩ ∧
    decodeBundle 0x00000000 0x58864300 = .ok ⟨0, .nop, .vsra 2 3 4 6 .i32⟩ ∧
    decodeBundle 0x00000000 0x5A864310 = .ok ⟨0, .nop, .vmin 2 3 4 6 .w32⟩ ∧
    decodeBundle 0x00000000 0x5C864320 = .ok ⟨0, .nop, .vmax 2 3 4 6 .i16⟩ ∧
    decodeBundle 0x00000000 0x5E864040 = .ok ⟨0, .nop, .vabs 2 3 4 .i8⟩ ∧
    decodeBundle 0x00000000 0x60864020 = .ok ⟨0, .nop, .vneg 2 3 4 .i16⟩ ∧
    decodeBundle 0x00000000 0x62864351 = .ok ⟨0, .nop, .vdot4 2 3 4 6 .w8 true⟩ ∧
    decodeBundle 0x00000000 0x64864303 = .ok ⟨0, .nop, .vcmp 2 3 4 6 .i32 .le⟩ ∧
    decodeBundle 0x00000000 0x66864310 = .ok ⟨0, .nop, .vsel 2 3 4 6 .w32⟩ := by
  decide +kernel

theorem test_decode_floats :
    decodeBundle 0x00000000 0x80864300 = .ok ⟨0, .nop, .vfadd 2 3 4 6 .f32 ⟨.rne, false⟩⟩ ∧
    decodeBundle 0x00000000 0x82864313 = .ok ⟨0, .nop, .vfsub 2 3 4 6 .bf16 ⟨.rz, true⟩⟩ ∧
    decodeBundle 0x00000000 0x84864324 = .ok ⟨0, .nop, .vfmul 2 3 4 6 .f16 ⟨.rd, false⟩⟩ ∧
    decodeBundle 0x00000000 0x86864307 = .ok ⟨0, .nop, .vfma 2 3 4 6 .f32 ⟨.ru, true⟩⟩ ∧
    decodeBundle 0x00000000 0x88864318 = .ok ⟨0, .nop, .vfms 2 3 4 6 .bf16 ⟨.rna, false⟩⟩ ∧
    decodeBundle 0x00000000 0x8A86432B = .ok ⟨0, .nop, .vfnma 2 3 4 6 .f16 ⟨.rs, true⟩⟩ ∧
    decodeBundle 0x00000000 0x8C864310 = .ok ⟨0, .nop, .vfmin 2 3 4 6 .bf16⟩ ∧
    decodeBundle 0x00000000 0x8E864320 = .ok ⟨0, .nop, .vfmax 2 3 4 6 .f16⟩ ∧
    decodeBundle 0x00000000 0x90864000 = .ok ⟨0, .nop, .vfabs 2 3 4 .f32⟩ ∧
    decodeBundle 0x00000000 0x92864010 = .ok ⟨0, .nop, .vfneg 2 3 4 .bf16⟩ ∧
    decodeBundle 0x00000000 0x94864326 = .ok ⟨0, .nop, .vfcmp 2 3 4 6 .f16 .un⟩ ∧
    decodeBundle 0x00000000 0x96864001 = .ok ⟨0, .nop, .vfrcp 2 3 4 .f32 ⟨.rne, true⟩⟩ ∧
    decodeBundle 0x00000000 0x98864012 = .ok ⟨0, .nop, .vfrsq 2 3 4 .bf16 ⟨.rz, false⟩⟩ ∧
    decodeBundle 0x00000000 0x9A864025 = .ok ⟨0, .nop, .vfsqrt 2 3 4 .f16 ⟨.rd, true⟩⟩ ∧
    decodeBundle 0x00000000 0x9C864006 = .ok ⟨0, .nop, .vfexp2 2 3 4 .f32 ⟨.ru, false⟩⟩ ∧
    decodeBundle 0x00000000 0x9E864019 = .ok ⟨0, .nop, .vflog2 2 3 4 .bf16 ⟨.rna, true⟩⟩ ∧
    decodeBundle 0x00000000 0xA086402A = .ok ⟨0, .nop, .vftanh 2 3 4 .f16 ⟨.rs, false⟩⟩ ∧
    decodeBundle 0x00000000 0xA2864001 = .ok ⟨0, .nop, .vfsinpi 2 3 4 .f32 ⟨.rne, true⟩⟩ ∧
    decodeBundle 0x00000000 0xA4864012 = .ok ⟨0, .nop, .vfcospi 2 3 4 .bf16 ⟨.rz, false⟩⟩ ∧
    decodeBundle 0x00000000 0xA686430A = .ok ⟨0, .nop, .vfscale 2 3 4 6 .f32 ⟨.rs, false⟩⟩ ∧
    decodeBundle 0x00000000 0xA8864327 = .ok ⟨0, .nop, .vfdot2 2 3 4 6 .f16 ⟨.ru, true⟩⟩ := by
  decide +kernel

theorem test_decode_conversions_and_predicates :
    decodeBundle 0x00000000 0xC0864831 = .ok ⟨0, .nop, .vcvt 2 3 4 2 .f32 .e4m3 ⟨.rne, true⟩⟩ ∧
    decodeBundle 0x00000000 0xC2864822 = .ok ⟨0, .nop, .vcvti 2 3 4 true false .f32 .i16 ⟨.rz, false⟩⟩ ∧
    decodeBundle 0x00000000 0xC2864655 = .ok ⟨0, .nop, .vcvti 2 3 4 false true .e5m2 .w8 ⟨.rd, true⟩⟩ ∧
    decodeBundle 0x00000000 0xC4864348 = .ok ⟨0, .nop, .vpack 2 3 4 6 .e5m2 ⟨.rna, false⟩⟩ ∧
    decodeBundle 0x00000000 0xC68640D0 = .ok ⟨0, .nop, .vunpk 2 3 4 true .pw8⟩ ∧
    decodeBundle 0x00000000 0xC88640B0 = .ok ⟨0, .nop, .scvt 2 3 4 (.ff .bf16) .e4m3 ⟨.rne, false⟩⟩ ∧
    decodeBundle 0x00000000 0xC8864407 = .ok ⟨0, .nop, .scvt 2 3 4 .fromI64 .f32 ⟨.ru, true⟩⟩ ∧
    decodeBundle 0x00000000 0xC8864822 = .ok ⟨0, .nop, .scvt 2 3 4 .toI64 .f16 ⟨.rz, false⟩⟩ ∧
    decodeBundle 0x00000000 0xCA864330 = .ok ⟨0, .nop, .vbnd 2 3 4 6 .w16⟩ ∧
    decodeBundle 0x00000000 0xCC864300 = .ok ⟨0, .nop, .pand 2 3 4 6⟩ ∧
    decodeBundle 0x00000000 0xCE864300 = .ok ⟨0, .nop, .por 2 3 4 6⟩ ∧
    decodeBundle 0x00000000 0xD0864300 = .ok ⟨0, .nop, .pxor 2 3 4 6⟩ ∧
    decodeBundle 0x00000000 0xD2864000 = .ok ⟨0, .nop, .pnot 2 3 4⟩ ∧
    decodeBundle 0x00000000 0xD4864000 = .ok ⟨0, .nop, .pcnt 2 3 4⟩ ∧
    decodeBundle 0x00000000 0xD6864000 = .ok ⟨0, .nop, .pfirst 2 3 4⟩ ∧
    decodeBundle 0x00000000 0xD8860D00 = .ok ⟨0, .nop, .pset 2 3 3 256⟩ := by
  decide +kernel

theorem test_decode_reductions_permutations_and_random_numbers :
    decodeBundle 0x00000000 0xDA864010 = .ok ⟨0, .nop, .vrsum 2 3 4 (.i .w32)⟩ ∧
    decodeBundle 0x00000000 0xDA864028 = .ok ⟨0, .nop, .vrsum 2 3 4 (.f .f16)⟩ ∧
    decodeBundle 0x00000000 0xDC864018 = .ok ⟨0, .nop, .vrmax 2 3 4 (.f .bf16)⟩ ∧
    decodeBundle 0x00000000 0xDE864050 = .ok ⟨0, .nop, .vrmin 2 3 4 (.i .w8)⟩ ∧
    decodeBundle 0x00000000 0xE0864008 = .ok ⟨0, .nop, .vramax 2 3 4 .f32⟩ ∧
    decodeBundle 0x00000000 0xE2864340 = .ok ⟨0, .nop, .vperm 2 3 4 6 .i8⟩ ∧
    decodeBundle 0x00000000 0xE6864340 = .ok ⟨0, .nop, .vslide 2 3 4 6 .i8⟩ ∧
    decodeBundle 0x00000000 0xE4864030 = .ok ⟨0, .nop, .vbcast 2 3 4 .w16⟩ ∧
    decodeBundle 0x00000000 0xE8864321 = .ok ⟨0, .nop, .vzip 2 3 4 6 .i16 true⟩ ∧
    decodeBundle 0x00000000 0xEA864300 = .ok ⟨0, .nop, .vunzip 2 3 4 6 .i32 false⟩ ∧
    decodeBundle 0x00000000 0xEC864350 = .ok ⟨0, .nop, .vcomp 2 3 4 6 .w8⟩ ∧
    decodeBundle 0x00000000 0xEE864008 = .ok ⟨0, .nop, .vscan 2 3 4 (.f .f32)⟩ ∧
    decodeBundle 0x00000000 0xEE864020 = .ok ⟨0, .nop, .vscan 2 3 4 (.i .i16)⟩ ∧
    decodeBundle 0x00000000 0xF0864310 = .ok ⟨0, .nop, .vmovs 2 3 4 6 .w32⟩ ∧
    decodeBundle 0x00000000 0xF2864340 = .ok ⟨0, .nop, .vins 2 3 4 6 .i8⟩ ∧
    decodeBundle 0x00000000 0xF4860060 = .ok ⟨0, .nop, .rand 2 3 .i64⟩ ∧
    decodeBundle 0x00000000 0xF4860010 = .ok ⟨0, .nop, .rand 2 3 .w32⟩ ∧
    decodeBundle 0x00000000 0xF6864020 = .ok ⟨0, .nop, .randf 2 3 4 .f16⟩ ∧
    decodeBundle 0x00000000 0xF8860050 = .ok ⟨0, .nop, .vwid 2 3 .w8⟩ := by
  decide +kernel

/-- The words that the spec's own tables of worked encodings give. -/
theorem test_decode_worked_encodings :
    decodeBundle 0x14639010 0x86081100 = .ok ⟨1, .ldW64 7 4 (.imm 16), .vfma 0 4 1 2 .f32 ⟨.rne, false⟩⟩ ∧
    decodeBundle 0x00211FFC 0x00000000 = .ok ⟨0, .bc .nez 3 (.imm (-4)), .arithNop⟩ ∧
    decodeBundle 0x81A48000 0x12345678 = .ok ⟨0, .lit 9 (.lit 0x12345678), .arithNop⟩ ∧
    decodeBundle 0x003FFED4 0x00000000 = .ok ⟨0, .call (.imm (-300)), .arithNop⟩ ∧
    decodeBundle 0x0080000C 0x00000000 = .ok ⟨0, .yield (.imm 12), .arithNop⟩ ∧
    decodeBundle 0x00C00400 0x00000000 = .ok ⟨0, .wait 1, .arithNop⟩ ∧
    decodeBundle 0x81101800 0x00030005 = .ok ⟨0, .tryChoice 6 0 3 5, .arithNop⟩ ∧
    decodeBundle 0x01300002 0x00000000 = .ok ⟨0, .cut 0 2, .arithNop⟩ ∧
    decodeBundle 0x8150B000 0x00000007 = .ok ⟨0, .commit 1 12 7, .arithNop⟩ ∧
    decodeBundle 0x81641982 0x00000001 = .ok ⟨0, .tread 8 6 12 2 1, .arithNop⟩ ∧
    decodeBundle 0x04C214CC 0x00000000 = .ok ⟨0, .ldx 4 5 6 true .w32 none, .arithNop⟩ ∧
    decodeBundle 0x04F29002 0x00000000 = .ok ⟨0, .vst 5 4 (.imm 2), .arithNop⟩ ∧
    decodeBundle 0x05C290C3 0x00000000 = .ok ⟨0, .afadd 5 4 6 .w32 .mod none, .arithNop⟩ ∧
    decodeBundle 0x86429013 0x00000006 = .ok ⟨0, .acas 5 4 0 .w64 .mod 0 6, .arithNop⟩ ∧
    decodeBundle 0x85B3101B 0x00000100 = .ok ⟨0, .strel 6 4 .e8 .mod (some 0x100), .arithNop⟩ ∧
    decodeBundle 0x080094C7 0x00000000 = .ok ⟨0, .copy 1 5 6 7 none, .arithNop⟩ ∧
    decodeBundle 0x880194C7 0x0000000A = .ok ⟨0, .copy 3 5 6 7 (some { dcl := 0, dk := false, ss := true, scope := .die }), .arithNop⟩ ∧
    decodeBundle 0x08512120 0x00000000 = .ok ⟨0, .mxmm 2 8 9 0 none, .arithNop⟩ ∧
    decodeBundle 0x0C020004 0x00000000 = .ok ⟨0, .gets 4 4, .arithNop⟩ ∧
    decodeBundle 0x0C4010A0 0x00000000 = .ok ⟨0, .rseed 4 5, .arithNop⟩ ∧
    decodeBundle 0x059014E0 0x00000000 = .ok ⟨0, .femp 5 7 none, .arithNop⟩ ∧
    decodeBundle 0x00000000 0x320E7001 = .ok ⟨0, .nop, .addi 0 7 7 1⟩ ∧
    decodeBundle 0x00000000 0x02064280 = .ok ⟨0, .nop, .add 0 3 4 5 .i32⟩ ∧
    decodeBundle 0x00000000 0x220C7412 = .ok ⟨0, .nop, .set 0 6 7 8 .w32 .lt⟩ ∧
    decodeBundle 0x00000000 0x86481100 = .ok ⟨0, .nop, .vfma 1 4 1 2 .f32 ⟨.rne, false⟩⟩ ∧
    decodeBundle 0x00000000 0x80061113 = .ok ⟨0, .nop, .vfadd 0 3 1 2 .bf16 ⟨.rz, true⟩⟩ ∧
    decodeBundle 0x00000000 0x64045302 = .ok ⟨0, .nop, .vcmp 0 2 5 6 .i32 .lt⟩ ∧
    decodeBundle 0x00000000 0xCA029500 = .ok ⟨0, .nop, .vbnd 0 1 9 10 .i32⟩ ∧
    decodeBundle 0x00000000 0xD8040810 = .ok ⟨0, .nop, .pset 0 2 2 16⟩ ∧
    decodeBundle 0x00000000 0xDA0A4008 = .ok ⟨0, .nop, .vrsum 0 5 4 (.f .f32)⟩ ∧
    decodeBundle 0x00000000 0xF4100010 = .ok ⟨0, .nop, .rand 0 8 .w32⟩ ∧
    decodeBundle 0x00000000 0xF8060020 = .ok ⟨0, .nop, .vwid 0 3 .i16⟩ := by
  decide +kernel
/-! Encodings that the references refuse, in the spec's own words: `vcmp.un.i32` has no code in M (R198), `vfadd.e4m3` and `rand.i16` no
such type (R197, R280), `shli` by 64 is a reserved field (R245); the no-operation word decodes (R205). -/

theorem test_decode_refuses :
    decodeBundle 0 0x64000006 = .error .reservedCode ∧ decodeBundle 0 0x80000030 = .error .reservedCode ∧
    decodeBundle 0 0xF4000020 = .error .reservedCode ∧ decodeBundle 0 0 = .ok ⟨0, .nop, .arithNop⟩ ∧
    decodeBundle 0x80B00000 0x8000 = .ok ⟨0, .work 0 (.lit 0x8000), .arithNop⟩ := by
  decide +kernel

/-! Terms that are not well formed: one for each check (R185, R194-R198, R202-R208, R245, R263, R285, R305). -/

theorem test_wf_refuses_lead :
    ([.vsct 0 0 0 .e2 0 none, .bar 1 (.lit 65536), .copy2 0 0 0 1 (some ⟨1, false, true, .clu⟩), .bar 5 (.imm 0), .vldsync 31 0 (.imm 0),
      .vgat 0 0 0 .e1 0 none, .bc .pany 8 (.imm 0), .copy 0 0 0 0 (some ⟨1, false, true, .clu⟩), .tryChoice 1 2 3 0,
      .copym 0 0 0 0 (some ⟨1, true, true, .clu⟩), .vlds 31 0 0 .e4 0 none, .svc 0 (.lit 65536), .puts 0 0x1E, .mxgrp 0 0 0 30 none, .gets 0 0x1E,
      .yield (.lit 65536), .copy2 0 0 0 30 none, .vlit 31 (.imm 0), .mxmm 0 0 0 9 none, .vgat 31 0 0 .e4 0 none, .cut 1 1, .copy2 0 0 0 0 none,
      .rep 1 1 false false false false, .cut 0 256, .bar 0 (.imm 0), .vld 31 0 (.imm 0), .vldb 31 0 .e1 0 none, .safe (.lit 65536)] : List Instr).all
      (fun i => !i.wf) = true := by
  decide +kernel

theorem test_wf_refuses_arithmetic :
    ([.vandn 0 0 0 0 .i64, .vfsqrt 0 0 0 .e4m3 ⟨.rne, false⟩, .vshr 0 0 0 0 .i64, .vperm 0 0 0 0 .i64, .vzip 0 0 0 0 .i64 false, .vsel 0 0 0 0 .i64,
      .vfcospi 0 0 0 .e4m3 ⟨.rne, false⟩, .vsubsat 0 0 0 0 .i64, .vscan 0 0 0 (.f .bf16), .randf 0 0 0 .e4m3, .vsra 0 0 0 0 .i64, .pset 0 0 0 257,
      .vfmax 0 0 0 0 .e4m3, .vcvti 0 0 0 true false .f32 .i32 ⟨.rne, false⟩, .vshl 0 0 0 0 .i64, .vbcast 0 0 0 .i64,
      .vpack 0 0 0 0 .f32 ⟨.rne, false⟩, .vcomp 0 0 0 0 .i64, .vfrsq 0 0 0 .e4m3 ⟨.rne, false⟩, .vand 0 0 0 0 .i64, .vfneg 0 0 0 .e4m3,
      .vscan 0 0 0 (.i .i64), .vcvti 0 0 0 false false .f32 .i32 ⟨.rne, true⟩, .vflog2 0 0 0 .e4m3 ⟨.rne, false⟩, .vunzip 0 0 0 0 .i64 false,
      .vor 0 0 0 0 .i64, .vmin 0 0 0 0 .i64, .vcvti 0 0 0 false false .f32 .i8 ⟨.rne, false⟩, .vfscale 0 0 0 0 .e4m3 ⟨.rne, false⟩,
      .vadd 0 0 0 0 .i64, .vfma 0 0 0 0 .e4m3 ⟨.rne, false⟩, .vfexp2 0 0 0 .e4m3 ⟨.rne, false⟩, .vbnd 0 0 0 0 .i64, .vcmp 0 0 0 0 .i64 .eq,
      .vfrcp 0 0 0 .e4m3 ⟨.rne, false⟩, .vfabs 0 0 0 .e4m3, .vslide 0 0 0 0 .i64, .vftanh 0 0 0 .e4m3 ⟨.rne, false⟩,
      .vfdot2 0 0 0 0 .f32 ⟨.rne, false⟩, .vcvt 0 0 0 2 .f16 .f32 ⟨.rne, false⟩, .vramax 0 0 0 .e4m3, .vfsub 0 0 0 0 .e5m2 ⟨.rne, false⟩,
      .vaddsat 0 0 0 0 .i64, .vunpk 0 0 0 false .f32, .vfcmp 0 0 0 0 .e4m3 .eq, .vmovs 0 0 0 0 .i64, .vfms 0 0 0 0 .e4m3 ⟨.rne, false⟩,
      .vsub 0 0 0 0 .i64, .vneg 0 0 0 .i64, .vrmin 0 0 0 (.f .pw8), .vcvt 0 0 0 1 .f32 .f32 ⟨.rne, false⟩,
      .vcvti 0 0 0 false false .f32 .i64 ⟨.rne, false⟩, .vdot4 0 0 0 0 .i32 false, .vxor 0 0 0 0 .i64, .vabs 0 0 0 .i64, .vrsum 0 0 0 (.i .i64),
      .vfmul 0 0 0 0 .pw8 ⟨.rne, false⟩, .vmulh 0 0 0 0 .i64, .vfnma 0 0 0 0 .e4m3 ⟨.rne, false⟩, .vmul 0 0 0 0 .i64, .vrmax 0 0 0 (.f .e4m3),
      .vfadd 0 0 0 0 .e4m3 ⟨.rne, false⟩, .vfsinpi 0 0 0 .e4m3 ⟨.rne, false⟩, .vmax 0 0 0 0 .i64, .scvt 0 0 0 .toI64 .f32 ⟨.rne, true⟩,
      .vfmin 0 0 0 0 .e4m3, .rand 0 0 .i16, .vwid 0 0 .i64, .vins 0 0 0 0 .i64] : List Instr).all (fun i => !i.wf) = true := by
  decide +kernel

theorem test_wf_refuses_events :
    ([.rangeStealRequest 8 0 0, .writeAssistChange 32, .sqDbWrite 64 0, .lineageCancel 8 0 0 0, .eccError 0 16 0 0 0 true, .ropeLost 32,
      .bringupDieTimeout 8 true, .stragglerTest 8, .cqDbWrite 64 0, .virtualDieRemap 0 8, .wavelengthRejoin 64 0, .portLinkUp 0 0 0 9,
      .tlbiPartition 64, .ropeImbRefresh ⟨32, 0⟩ 0 0 0 0, .theft 4096 0, .tverReply 4096 .ok, .storeDrain 1024, .hbmThermalChange 8 0 0, .mxeJobDone 128,
      .loadReply 4096 .ok, .bivForcedStop 4096, .flitReceive 64 .idle, .ropeOvbChange 32 0, .railSample 32 0 0 0 0, .portDark 64,
      .ethqCfgWrite 0 16 0, .idleScan 4096, .ethFrameSent 8 0, .fillerBurst 128, .ethFrameReceived 8 [] true, .belayMarker 64 0 0 0, .ethLinkUp 8,
      .svcReply 4096 ⟨0, []⟩, .portLinkUp 64 0 0 0, .pickup 4096, .ethDescriptorFetch 8 0, .eccWindow 9, .wavelengthLeave 0 ⟨8, 0⟩, .ethFrameSent 0 16,
      .postCompletion 64, .ethqPtrWrite 8 0 0, .ropePolWrite 32 0, .ropePolicyEngage 32, .virtualDieRemap 8 0, .ropeClamp 32 0,
      .ropePolicyDisengage 32, .wavelengthFailed 0 8, .parkAbort 1024, .registerWrite 2 0 0, .mxeJobStart 128, .prefetchDone 0 2,
      .hbmThermalChange 0 2 0, .cqCfgWrite 64 0, .sqCfgWrite 64 0, .pauseHoldExpiry 8, .thiefBlockGrant 8 0 0 0, .parkRelease 1024 0, .admitLaunch 64,
      .shadowFill 1024, .grantRecord 8, .wavelengthRejoin 0 8, .thiefBlockRequest 8 0 0, .partCluWrite 8 0 0, .patternChange 8,
      .wavelengthFailed 64 0, .tlbiPage 64 0, .partCluWrite 0 16 0, .cqCoalTimer 64, .ethqPtrWrite 0 16 0, .throtEscalate 32, .dieLost 8 0,
      .ropeUnclamp 32, .ropeHotChange 32 0, .rangeStealRequest 0 64 0, .ccRecovery 9 0, .rangeStealAnswer 8 0 0 0, .darkPortTimeout 64,
      .pauseFrameReceived 8 none 0, .ethqCfgWrite 8 0 0, .ethLinkDown 8, .eccError 9 0 0 0 0 true, .eccError 0 0 0 0 8 true, .wavelengthLeave 64 ⟨0, 0⟩, .prefetchDone 1024 0,
      .latchArrive 128, .theft 0 4096, .syncLoadWake 4096, .takeLaterCondition 4096, .ethDescriptorFetch 0 16, .ccRecoveryDone 9 ⟨10, true⟩] : List Instr).all
      (fun i => !i.wf) = true := by
  decide +kernel

/-- A lone bundle has no arithmetic word (R185), a repetition none but the no-operation (R206), and each half is of its own kind. -/
theorem test_wf_refuses_bundles :
    ([⟨0, .lit 1 (.lit 0), .add 0 1 1 1 .i64⟩, ⟨0, .rep 0 1 false false false false, .add 0 1 1 1 .i64⟩, ⟨0, .nop, .nop⟩, ⟨0, .arithNop, .arithNop⟩,
      ⟨0, .bar 0 (.imm 0), .arithNop⟩, ⟨0, .nop, .vadd 0 0 0 0 .i64⟩] : List Bundle).all (fun b => !b.wf) = true := by
  decide +kernel
/-! Single steps. The values are the spec's worked examples. -/

def after (i : Instr) (s : State) : State := match exec i s with | .next t => t | _ => State.reset
/-- The last thread with these vectors. -/
def vecs (l : List (BitVec 5 × Nat)) : State :=
  focused { worker with r := l.foldl (fun r x => r.setV x.1 (BitVec.ofNat 2048 x.2)) worker.r } (owned launched)
def drawing : State := let s := issuing []; { s with thr := { s.thr with r := { s.thr.r with genA := 1, genB := 2 } } }
/-- Element `i` of `w` bits of a vector of the result. -/
def elem (s : State) (v : BitVec 5) (w i : Nat) : Nat := ((s.thr.r.v[v.toNat]'v.isLt).toNat >>> (w * i)) % 2 ^ w

/-- R216: the two halves of a 64-bit constant. -/
theorem test_lit : (after (.lit 5 (.lit 0x89ABCDEF)) (issuing [])).getS 5 = 0xFFFFFFFF89ABCDEF := by decide +kernel
theorem test_lithi : (after (.lithi 5 (.lit 0x01234567)) (issuing [(5, 0xFFFFFFFF89ABCDEF)])).getS 5 = 0x0123456789ABCDEF := by decide +kernel
/-- R178, R280: the first draw from a = 1 and b = 2, and the generator after one step. -/
theorem test_rand_scalar : let t := after (.rand 0 8 .i64) drawing
    t.getS 8 = 0x00800045 ∧ t.thr.r.genA = 2 ∧ t.thr.r.genB = 0x800043 := by decide +kernel
theorem test_rand_vector : elem (after (.rand 0 8 .w32) drawing) 8 32 0 = 0x00800045 := by decide +kernel
/-- R281. -/
theorem test_randf : elem (after (.randf 0 9 8 .f32) (vecs [(8, 0x00800045)])) 9 32 0 = 0x3B000000 := by decide +kernel
/-- R254: a dot product of four signed bytes added to element 0. -/
theorem test_vdot4 : elem (after (.vdot4 0 3 1 2 .i8 false) (vecs [(1, 0x807FFF02), (2, 0x01010403), (3, 10)])) 3 32 0 = 11 := by decide +kernel
/-- R260: reciprocal square roots. -/
theorem test_vfrsq : let t := after (.vfrsq 0 5 4 .f32 ⟨.rne, false⟩) (vecs [(4, 0x3E800000 + 0x3D800000 * 2 ^ 32 + 0x40400000 * 2 ^ 64)])
    elem t 5 32 0 = 0x40000000 ∧ elem t 5 32 1 = 0x40800000 ∧ elem t 5 32 2 = 0x3F13CD3A := by decide +kernel
/-- R262: one rounding of an exact sum. -/
theorem test_vfdot2 : elem (after (.vfdot2 0 3 1 2 .bf16 ⟨.rne, false⟩) (vecs [(1, 0x33803380), (2, 0x3F803F80), (3, 0x3F800000)])) 3 32 0 = 0x3F800001 := by
  decide +kernel
/-- R264: -3.3, 1,000 and a NaN in the third part. -/
theorem test_vcvt : let t := after (.vcvt 0 6 3 2 .f32 .e4m3 ⟨.rne, true⟩) (vecs [(3, 0xC0533333 + 0x447A0000 * 2 ^ 32 + 0x7FC00000 * 2 ^ 64), (6, 9)])
    elem t 6 8 128 = 0xC5 ∧ elem t 6 8 129 = 0x7E ∧ elem t 6 8 130 = 0x7F ∧ elem t 6 8 0 = 9 := by decide +kernel
/-- R265: 70,000.5 and -2.9 truncated into the second part. -/
theorem test_vcvti : let t := after (.vcvti 0 7 2 true false .f32 .i16 ⟨.rz, false⟩) (vecs [(2, 0x4788B840 + 0xC039999A * 2 ^ 32)])
    elem t 7 16 64 = 32767 ∧ elem t 7 16 65 = 0xFFFE := by decide +kernel
/-- R268: 16,777,217 under two rounding modes. -/
theorem test_scvt : (after (.scvt 0 4 5 .fromI64 .f32 ⟨.rne, false⟩) (issuing [(5, 16777217)])).getS 4 = 0x4B800000 ∧
    (after (.scvt 0 4 5 .fromI64 .f32 ⟨.ru, false⟩) (issuing [(5, 16777217)])).getS 4 = 0x4B800001 := by decide +kernel
/-- R269: the last chunk of a row of 80. -/
theorem test_vbnd : (after (.vbnd 0 1 9 10 .i32) (issuing [(9, 64), (10, 80)])).thr.r.p[1] = BitVec.ofNat 256 (2 ^ 64 - 1) := by decide +kernel
/-- R175: the tree of an FP32 sum. -/
theorem test_vrsum : elem (after (.vrsum 0 5 4 (.f .f32)) (vecs [(4, 0x4B800000 + 0x3F800000 * (((2 ^ 256) ^ 8 - 2 ^ 32) / 0xFFFFFFFF))])) 5 32 63 = 0x4B80001F := by
  decide +kernel
/-- R274: a scan of the active elements. -/
theorem test_vscan : let s := vecs [(2, 3 + 1 * 2 ^ 32 + 4 * 2 ^ 64 + 1 * 2 ^ 96 + 5 * 2 ^ 128 + 7 * 2 ^ 160)]
    let s := { s with thr := { s.thr with r := s.thr.r.setP 1 0xFFFFF } }
    let t := after (.vscan 1 3 2 (.i .i32)) s
    (List.range 6).map (elem t 3 32) = [3, 4, 8, 9, 14, 0] := by decide +kernel
/-- R162: 0.3, -0.9, 0.01 and 2^-7 in PW8. -/
theorem test_vcvt_pw8 : let t := after (.vcvt 0 6 3 0 .f32 .pw8 ⟨.rne, false⟩) (vecs [(3, 0x3E99999A + 0xBF666666 * 2 ^ 32 + 0x3C23D70A * 2 ^ 64 + 0x3C000000 * 2 ^ 96)])
    (List.range 4).map (elem t 6 8) = [0x53, 0xF4, 0x10, 0x00] := by decide +kernel
/-- R164: 1 + 2^-9 to BF16 under RS with the draw 0x00800045. -/
theorem test_scvt_rs : (after (.scvt 0 4 5 (.ff .f32) .bf16 ⟨.rs, false⟩)
    { drawing with thr := { drawing.thr with r := drawing.thr.r.setS 5 0x3F804000 } }).getS 4 = 0x3F81 := by decide +kernel


end Sys2Proof.Tests
end

section
/-! The memory form at reset, and the bytes that a write gives. -/
namespace Sys2Proof.Machine
open Sys2Proof

/-- Settles O6: no byte is listed at reset. -/
theorem memoryFormAtReset : Obligations.MemoryFormAtReset := Mem.reset_wf

/-- Settles O8, from what a written list of bytes reads as, inside and outside the range written. -/
theorem byteReadsAfterWrite : Obligations.ByteReadsAfterWrite := by
  intro m k n v j
  refine ⟨fun hj => ?_, cellAt_cellsSet_ne m.cells k n v j, Mem.get_put m k n v⟩
  have h := cellAt_cellsSet m.cells k n v (k + j) (Nat.le_add_right k j) (Nat.add_lt_add_left hj k)
  rwa [Nat.add_sub_cancel_left] at h

end Sys2Proof.Machine
end

section
/-! Operations that leave memory alone: one lemma for each, in the order of the model. -/
namespace Sys2Proof.Machine
open Sys2Proof

@[simp] theorem mem_ite {c : Prop} [Decidable c] (s t : State) : (if c then s else t).mem = if c then s.mem else t.mem := apply_ite State.mem c s t
/-- A step over the elements of a list that leaves memory alone. -/
def KeepsMem {α : Type} (f : State → α → State) : Prop := ∀ s a, (f s a).mem = s.mem
@[simp] theorem keepsMem_iff {α : Type} {f : State → α → State} : KeepsMem f ↔ ∀ s a, (f s a).mem = s.mem := ⟨fun h => h, fun h => h⟩
@[simp] theorem foldl_mem {α : Type} {f : State → α → State} (hf : KeepsMem f) (l : List α) (s : State) : (l.foldl f s).mem = s.mem := by
  induction l generalizing s with
  | nil => rfl
  | cons a r ih => exact (ih (f s a)).trans (hf s a)
@[simp] theorem State.freeWord_mem (s : State) : (State.freeWord s).2.mem = s.mem := rfl
@[simp] theorem State.draws_mem (s : State) (n : Nat) : (State.draws s n).2.mem = s.mem := rfl
@[simp] theorem State.afterEff_mem (s : State) (clu n : Nat) (e : Event) : (State.afterEff s clu n e).mem = s.mem := rfl
@[simp] theorem touchDie_mem (s : State) (d : Nat) : (touchDie s d).mem = s.mem := rfl
@[simp] theorem sendStores_mem (s : State) (dev : Nat) (xs : List Store) : (sendStores s dev xs).mem = s.mem := by
  unfold sendStores; dsimp only; split
  · simp
  · simp [post_mem, send_mem]
  · split <;> simp
@[simp] theorem bindRest_mem (s : State) (n : Nat) : (bindRest s n).mem = s.mem := by unfold bindRest; dsimp only; split <;> simp
@[simp] theorem withdraw_mem (s : State) (num level inst rank : Nat) : (withdraw s num level inst rank).mem = s.mem := rfl
@[simp] theorem withdrawOf_mem (s : State) (n : Nat) : (withdrawOf s n).mem = s.mem := by unfold withdrawOf; dsimp only; split <;> simp
@[simp] theorem postPark_mem (s : State) (core : Nat) : (postPark s core).mem = s.mem := by unfold postPark; dsimp only; split <;> simp
@[simp] theorem oweCond_mem (s : State) (c : Cond) (pc : Word) : (oweCond s c pc).mem = s.mem := rfl
@[simp] theorem addOp_mem (s : State) (clu : Nat) (sc : Scope) (k : OpKind) : (addOp s clu sc k).2.mem = s.mem := rfl
@[simp] theorem opens_mem (s : State) (k : Nat) (f : State → State) : (opens s k f).mem = (f s).mem := by
  unfold opens; dsimp only; split <;> rfl
@[simp] theorem enqueue_mem (s : State) (r : Rec) : (enqueue s r).2.mem = s.mem := by simp [enqueue]
@[simp] theorem wakeQueue_mem (s : State) : (wakeQueue s).mem = s.mem := rfl
@[simp] theorem retryGangs_mem (s : State) : (retryGangs s).mem = s.mem := by simp [retryGangs]
@[simp] theorem retryTo_mem (s : State) (dest : Nat) : (retryTo s dest).mem = s.mem := by simp [retryTo]
@[simp] theorem retryMsgs_mem (s : State) (th : Nat) : (retryMsgs s th).mem = s.mem := retryTo_mem ..
@[simp] theorem freeThread_mem (s : State) (n : Nat) : (freeThread s n).mem = s.mem := by simp [freeThread]
@[simp] theorem winDraws_mem (s : State) (named : List Nat) (n : Nat) : (winDraws s named n).2.mem = s.mem := by unfold winDraws; split <;> rfl
@[simp] theorem addLaterAt_mem (s : State) (n : Nat) (c : Cond) : (addLaterAt s n c).mem = s.mem := rfl
@[simp] theorem addLater_mem (s : State) (c : Cond) : (addLater s c).mem = s.mem := rfl
@[simp] theorem awaitReply_mem (s : State) (r : Reply) : (awaitReply s r).mem = s.mem := rfl
@[simp] theorem vectorGot_mem (s : State) (d : BitVec 5) (a : Word) (g : Got) : (vectorGot s d a g).mem = s.mem := by unfold vectorGot; split <;> rfl
@[simp] theorem touchRecord_mem (s : State) (rid : Nat) (ks : List Nat) : (touchRecord s rid ks).mem = s.mem := by simp [touchRecord]
@[simp] theorem doneNow_mem (s : State) (h : BitVec 4) (sc : Scope) : (doneNow s h sc).mem = s.mem := rfl
@[simp] theorem applied_mem (s : State) (old : Word) : (applied s old).mem = s.mem := rfl
@[simp] theorem barArrive_mem (s : State) (l : Launch) (level inst rank : Nat) : (barArrive s l level inst rank).mem = s.mem := by simp [barArrive]
@[simp] theorem leaveBars_mem (s : State) (num rank : Nat) : (leaveBars s num rank).mem = s.mem := by unfold leaveBars; split <;> simp
@[simp] theorem addSample_mem (s : State) (die : Nat) (r : Rec) : (addSample s die r).mem = s.mem := rfl
@[simp] theorem modTask_mem (s : State) (num task : Nat) (f : TaskSt → TaskSt) : (modTask s num task f).mem = s.mem := rfl
@[simp] theorem lessAlive_mem (s : State) (num task : Nat) (backup : Bool) : (lessAlive s num task backup).mem = s.mem := rfl
@[simp] theorem addReg_mem (s : State) (off : Nat) (d : Int) : (addReg s off d).mem = s.mem := rfl
@[simp] theorem allGrants_mem (s : State) : (allGrants s).mem = s.mem := by simp [allGrants]
@[simp] theorem recordEnds_mem (s : State) (r : Rec) : (recordEnds s r).mem = s.mem := by
  unfold recordEnds
  split
  · rfl
  · simp [apply_ite State.mem]
@[simp] theorem sendLineage_mem (s : State) (die launch task : Nat) (tag : Word) : (sendLineage s die launch task tag).mem = s.mem := rfl
@[simp] theorem asThread_mem (s : State) (n : Nat) (f : State → State) : (asThread s n f).mem = (f (s.focus n)).mem := State.focus_mem ..
@[simp] theorem wakeScans_mem (s : State) : (wakeScans s).mem = s.mem := by simp [wakeScans]
@[simp] theorem cancelFrames_mem (launch task : Nat) (fs : List Nat) (s : State) : (cancelFrames launch task fs s).mem = s.mem := by
  simp [cancelFrames]
@[simp] theorem cancelOwn_mem (s : State) (fs : List (Nat × Nat)) : (cancelOwn s fs).mem = s.mem := by simp [cancelOwn]
@[simp] theorem cancelStolen_mem (s : State) : (cancelStolen s).mem = s.mem := by simp [cancelStolen]
@[simp] theorem mergeOne_mem (sA : State) (taken : List Reg) (s : State) (g : Reg) : (mergeOne sA taken s g).mem = s.mem := by simp [mergeOne]
@[simp] theorem mergeArith_mem (s sA : State) (old : Regs) (lead arith : Instr) : (mergeArith s sA old lead arith).mem = s.mem := by simp [mergeArith]
@[simp] theorem arithFirst_mem (s0 sA : State) (arith : Instr) : (arithFirst s0 sA arith).mem = sA.mem := rfl
@[simp] theorem stall_mem (s : State) (l : List Pend) : (stall s l).mem = s.mem := (State.modI_mem ..).trans (State.modY_mem ..)
@[simp] theorem atIssue_mem (s : State) : (atIssue s).mem = s.mem := rfl
@[simp] theorem chargeOne_mem (s : State) (dt : Nat) (n : Nat) : (chargeOne s dt n).mem = s.mem := by unfold chargeOne; split <;> simp
@[simp] theorem tick_mem (s : State) (dt : Nat) : (tick s dt).mem = s.mem := by simp [tick]
@[simp] theorem setPieces_mem (s : State) (op : Nat) (ps : List Piece) (value : Nat) (ss : Bool) (what : CopyFor) :
    (setPieces s op ps value ss what).mem = s.mem := by
  unfold setPieces; split <;> rfl
@[simp] theorem afterOp_mem (s : State) (o : Op) : (afterOp s o).mem = s.mem := rfl
@[simp] theorem retryCmds_mem (s : State) (clu : Nat) : (retryCmds s clu).mem = s.mem := by unfold retryCmds; split <;> rfl
@[simp] theorem quitJob_mem (s : State) (clu : Nat) : (quitJob s clu).mem = s.mem := by
  unfold quitJob; dsimp only
  split
  · rfl
  · simp only [mem_ite, State.afterEff_mem, retryCmds_mem, ite_self]
    split <;> simp
@[simp] theorem quitRots_mem (rids : List Nat) (s : State) : (quitRots rids s).mem = s.mem := by
  refine foldl_mem (keepsMem_iff.2 fun x k => ?_) ..
  split <;> simp
@[simp] theorem withFrame_mem (s : State) (img sm vm pm : Nat) (h : Vector Handle 16) : (withFrame s img sm vm pm h).mem = s.mem := by
  simp [withFrame]
@[simp] theorem addNew_mem (s : State) (l : Launch) (frame : Nat) (r : Rec) : (addNew s l frame r).mem = s.mem := by simp [addNew]
@[simp] theorem sendSteals_mem (s : State) (die : Nat) : (sendSteals s die).mem = s.mem := by
  refine foldl_mem (keepsMem_iff.2 fun x l => ?_) ..
  split
  · split <;> simp
  · rfl
@[simp] theorem slotDone_mem (s : State) (r : Rec) (c : Option Cond) : (slotDone s r c).mem = s.mem := by unfold slotDone; dsimp only; split <;> simp
@[simp] theorem dropWants_mem (s : State) (l : Launch) : (dropWants s l).mem = s.mem := by simp [dropWants]
@[simp] theorem askFar_mem (s : State) (dev : Nat) (w : Want) : (askFar s dev w).mem = s.mem := by unfold askFar; split <;> simp [owe_mem]
@[simp] theorem landNow_mem (s : State) (p : Reg) (v : Val) : (landNow s p v).mem = s.mem := rfl
@[simp] theorem refuseStore_mem (rid : Nat) (x : StoreName) (s : State) : (refuseStore rid x s).mem = s.mem := rfl
@[simp] theorem tellRecord_mem (s : State) (rid n : Nat) (c : Cond) : (tellRecord s rid n c).mem = s.mem := by
  unfold tellRecord; split <;> simp
@[simp] theorem unpark_mem (s : State) (core : Nat) : (unpark s core).mem = s.mem := by simp [unpark]
@[simp] theorem setWin_mem (s : State) (w : Nat) (v : Word) : (setWin s w v).mem = s.mem := by unfold setWin; split <;> rfl
@[simp] theorem stageKick_mem (s : State) (l : Launch) : (stageKick s l).mem = s.mem := by
  refine foldl_mem (keepsMem_iff.2 fun x c => ?_) ..
  split <;> simp
@[simp] theorem passBar_mem (s : State) (n : Nat) : (passBar s n).mem = s.mem := by simp [passBar]
@[simp] theorem retryBars_mem (s : State) (num : Nat) : (retryBars s num).mem = s.mem := by unfold retryBars; split <;> simp
@[simp] theorem asMember_mem (s : State) (l : Launch) (n : Nat) : (asMember s l n).mem = s.mem := by simp [asMember]
@[simp] theorem reportTo_mem (s : State) (num rank : Nat) (c : Cond) : (reportTo s num rank c).mem = s.mem := by
  unfold reportTo
  split
  · simp
  · split <;> simp
@[simp] theorem markSched_mem (s : State) (num idx : Nat) (running done : Bool) : (markSched s num idx running done).mem = s.mem := rfl
@[simp] theorem schedEnds_mem (s : State) (num idx rank : Nat) (c : Option Cond) : (schedEnds s num idx rank c).mem = s.mem := by
  unfold schedEnds; dsimp only
  split
  · simp; split <;> simp
  · split <;> simp
@[simp] theorem putMember_mem (num : Nat) (s : State) (x : Nat × Nat) : (putMember num s x).mem = s.mem := by unfold putMember; split <;> rfl
@[simp] theorem State.setQueue_mem (s : State) (q : Nat) (x : QueueSt) : (State.setQueue s q x).mem = s.mem := rfl
@[simp] theorem kickAdmit_mem (s : State) (q : Nat) : (kickAdmit s q).mem = s.mem := rfl
@[simp] theorem postEntry_mem (s : State) (q : Nat) (e : CqEntry) : (postEntry s q e).mem = s.mem := rfl
@[simp] theorem signal_mem (s : State) (q : Nat) : (signal s q).mem = s.mem := rfl
@[simp] theorem coalesce_mem (s : State) (q : Nat) : (coalesce s q).mem = s.mem := by simp [coalesce]
@[simp] theorem feRefused_mem (s : State) (q hpa : Nat) : (feRefused s q hpa).mem = s.mem := by simp [feRefused]
@[simp] theorem badHeads_mem (s : State) : (badHeads s).mem = s.mem := by simp [badHeads]
@[simp] theorem newKey_mem (s : State) : (newKey s).2.mem = s.mem := rfl
@[simp] theorem floorStart_mem (s : State) (l : Launch) : (floorStart s l).mem = s.mem := by simp [floorStart]
@[simp] theorem startMonitors_mem (s : State) : (startMonitors s).mem = s.mem := by simp [startMonitors]
@[simp] theorem enterLaunch_mem (s : State) (l : Launch) : (enterLaunch s l).mem = s.mem := by simp [enterLaunch]
@[simp] theorem noticeEnd_mem (s : State) (l : Launch) : (noticeEnd s l).mem = s.mem := by simp [noticeEnd, owe_mem]
@[simp] theorem settleLaunch_mem (s : State) (num : Nat) : (settleLaunch s num).mem = s.mem := by
  unfold settleLaunch; dsimp only
  split
  · rfl
  · split <;> rfl
@[simp] theorem setBusy_mem (s : State) (num : Nat) : (setBusy s num).mem = s.mem := rfl
@[simp] theorem unhold_mem (s : State) (r : Rec) : (unhold s r).mem = s.mem := by unfold unhold; split <;> simp
@[simp] theorem releaseLaunch_mem (s : State) (l : Launch) : (releaseLaunch s l).mem = s.mem := by simp [releaseLaunch]
@[simp] theorem dieIrq_mem (s : State) (d : Nat) : (dieIrq s d).mem = s.mem := by simp [dieIrq]
@[simp] theorem setDie_mem (s : State) (d st : Nat) (cause : Option Nat) : (setDie s d st cause).mem = s.mem := by simp [setDie]
@[simp] theorem setRopeState_mem (s : State) (r st : Nat) : (setRopeState s r st).mem = s.mem := by simp [setRopeState]
@[simp] theorem threadGone_mem (s : State) (n : Nat) : (threadGone s n).mem = s.mem := by simp [threadGone]
@[simp] theorem dropJobs_mem (ids : List Nat) (s : State) (k : Nat) : (dropJobs ids s k).mem = s.mem := by simp [dropJobs]
@[simp] theorem giveBack_mem (d : Nat) (s : State) (l : Launch) : (giveBack d s l).mem = s.mem := by simp [giveBack]
@[simp] theorem tellThread_mem (d : Nat) (s : State) (n : Nat) : (tellThread d s n).mem = s.mem := by simp [tellThread]
@[simp] theorem tellRec_mem (d : Nat) (s : State) (r : Rec) : (tellRec d s r).mem = s.mem := by simp [tellRec]
@[simp] theorem setStat_mem (s : State) (r hi lo v : Nat) : (setStat s r hi lo v).mem = s.mem := rfl
@[simp] theorem reaim_mem (s : State) (k : Nat) : (reaim s k).mem = s.mem := by simp [reaim]
@[simp] theorem takePattern_mem (s : State) (k : Nat) : (takePattern s k).mem = s.mem := by simp [takePattern]
@[simp] theorem soon_mem (s : State) (die : Nat) : (soon s die).mem = s.mem := by simp [soon]
@[simp] theorem soonAll_mem (s : State) : (soonAll s).mem = s.mem := by simp [soonAll]
@[simp] theorem engagePolicy_mem (s : State) (r : Nat) : (engagePolicy s r).mem = s.mem := by simp [engagePolicy]
@[simp] theorem endPolicy_mem (s : State) (r : Nat) : (endPolicy s r).mem = s.mem := rfl
@[simp] theorem countSat_mem (s : State) (r : Nat) : (countSat s r).mem = s.mem := by simp [countSat]
@[simp] theorem assistSample_mem (rope : Nat) (l : List Nat) (s : State) (j : Nat) : (assistSample rope l s j).mem = s.mem := by simp [assistSample]
@[simp] theorem assistOne_mem (rope : Nat) (s : State) (j : Nat) : (assistOne rope s j).mem = s.mem := by unfold assistOne; dsimp only; split <;> simp
@[simp] theorem capOne_mem (lower : Bool) (s : State) (r : Nat) : (capOne lower s r).mem = s.mem := by simp [capOne]
@[simp] theorem bump_mem (s : State) (d a hi lo : Nat) : (bump s d a hi lo).mem = s.mem := rfl
@[simp] theorem countCor_mem (s : State) (d a : Nat) : (countCor s d a).mem = s.mem := rfl
@[simp] theorem countUnc_mem (s : State) (d a : Nat) : (countUnc s d a).mem = s.mem := bump_mem ..
@[simp] theorem countRet_mem (s : State) (d a : Nat) : (countRet s d a).mem = s.mem := bump_mem ..
@[simp] theorem windowEnd_mem (s : State) (d : Nat) : (windowEnd s d).mem = s.mem := rfl
@[simp] theorem startWindow_mem (s : State) (d : Nat) : (startWindow s d).mem = s.mem := by simp [startWindow]
@[simp] theorem moveWindow_mem (s : State) (d : Nat) : (moveWindow s d).mem = s.mem := by simp [moveWindow]
@[simp] theorem logUnc_mem (s : State) (d a inst off : Nat) : (logUnc s d a inst off).mem = s.mem :=
  (State.setReg0_mem ..).trans (countUnc_mem ..)
@[simp] theorem ccNote_mem (s : State) (d a : Nat) : (ccNote s d a).mem = s.mem := by simp [ccNote]
@[simp] theorem kickAll_mem (s : State) : (kickAll s).mem = s.mem := by simp [kickAll]
@[simp] theorem markTask_mem (s : State) (num task : Nat) (f : TaskSt → TaskSt) : (markTask s num task f).mem = s.mem := by
  unfold markTask; split <;> simp
@[simp] theorem cancelFar_mem (s : State) (h : HeldCancel) : (cancelFar s h).mem = s.mem := by unfold cancelFar; split <;> simp [spend_mem]
@[simp] theorem sendCancel_mem (s : State) (num task exempt : Nat) : (sendCancel s num task exempt).mem = s.mem := by
  unfold sendCancel; split <;> simp
@[simp] theorem resendCancels_mem (s : State) : (resendCancels s).mem = s.mem := by simp [resendCancels]
@[simp] theorem setAns_mem (s : State) (id : Nat) (a : CommitAns) : (setAns s id a).mem = s.mem := rfl
@[simp] theorem retryReads_mem (s : State) (dkey : Nat) : (retryReads s dkey).mem = s.mem := by simp [retryReads]
@[simp] theorem freeScalar_mem (s : State) (o : Op) (d : BitVec 5) (v : Option Word) (owed : Option Cond) :
    (freeScalar s o d v owed).mem = s.mem := by
  unfold freeScalar; split <;> simp
@[simp] theorem denied_mem (s : State) (part : Nat) : (denied s part).mem = s.mem := rfl
@[simp] theorem unbudget_mem (s : State) (l : Launch) : (unbudget s l).mem = s.mem := by simp [unbudget, owe_mem]
@[simp] theorem offerBackup_mem (s : State) (l : Launch) (w : Want) (a : Nat) (ds : List Nat) : (offerBackup s l w a ds).mem = s.mem := by
  simp [offerBackup, owe_mem]
@[simp] theorem markTested_mem (s : State) (n : Nat) : (markTested s n).mem = s.mem := by simp [markTested]
@[simp] theorem comesHome_mem (s : State) (launch task attempt : Nat) : (comesHome s launch task attempt).mem = s.mem := by
  unfold comesHome; split <;> rfl
@[simp] theorem answerOffer_mem (s : State) (l : Launch) (task attempt : Nat) : (answerOffer s l task attempt).mem = s.mem := by
  unfold answerOffer; split
  · exact owe_mem ..
  · split
    · exact owe_mem ..
    · rfl
@[simp] theorem awayEnds_mem (s : State) (a : Away) : (awayEnds s a).mem = s.mem := by unfold awayEnds; dsimp only; split <;> simp
@[simp] theorem halve_mem (s : State) (off : Nat) : (halve s off).mem = s.mem := rfl
@[simp] theorem setPortWord_mem (s : State) (p hi lo v : Nat) : (setPortWord s p hi lo v).mem = s.mem := rfl
@[simp] theorem trainPorts_mem (s : State) : (trainPorts s).mem = s.mem := by simp [trainPorts]
@[simp] theorem setBoot_mem (s : State) (st err : Nat) : (setBoot s st err).mem = s.mem := by simp [setBoot]
@[simp] theorem setMeas_mem (s : State) (d : BitVec 256) : (setMeas s d).mem = s.mem := by simp [setMeas]
@[simp] theorem cxlAnswer_mem (s : State) (off len : Nat) (v : Option Nat) : (cxlAnswer s off len v).mem = s.mem := rfl
@[simp] theorem showLams_mem (s : State) (p : Nat) : (showLams s p).mem = s.mem := (setPortWord_mem ..).trans (setPortWord_mem ..)
@[simp] theorem payOwing_mem (s : State) (p : Nat) : (payOwing s p).mem = s.mem := by
  unfold payOwing; rw [send_mem, State.setPort_mem]
@[simp] theorem sendGo_mem (f p : Nat) (s : State) : (sendGo f p s).mem = s.mem := by
  induction f generalizing s with
  | zero => rfl
  | succ f ih =>
    unfold sendGo
    split
    · rfl
    · rw [mem_ite, ih, foldl_mem (keepsMem_iff.2 post_mem), send_mem, State.setPort_mem, ite_self]
@[simp] theorem sendWaiting_mem (s : State) (p : Nat) : (sendWaiting s p).mem = s.mem := by simp [sendWaiting]
@[simp] theorem kickDev_mem (s : State) (dev : Nat) : (kickDev s dev).mem = s.mem := by
  unfold kickDev; dsimp only
  rw [wakeQueue_mem, foldl_mem (keepsMem_iff.2 fun x o => ?_)]
  · simp
  · split <;> simp
@[simp] theorem failStore_mem (dev : Nat) (s : State) (x : Store) : (failStore dev s x).mem = s.mem := rfl
@[simp] theorem failPosted_mem (dev : Nat) (s : State) (core : Nat) : (failPosted dev s core).mem = s.mem := by simp [failPosted]
@[simp] theorem failAsked_mem (s : State) (dev : Nat) : (failAsked s dev).mem = s.mem := by simp [failAsked]
@[simp] theorem countCapt_mem (s : State) : (countCapt s).mem = s.mem := rfl
@[simp] theorem holdPort_mem (s : State) (p : Nat) : (holdPort s p).mem = s.mem := by simp [holdPort]
@[simp] theorem startCut_mem (s : State) (id init grp : Nat) (c0 : Option Nat) : (startCut s id init grp c0).mem = s.mem := by
  unfold startCut; dsimp only
  rw [State.setReg2_mem, foldl_mem (keepsMem_iff.2 holdPort_mem)]
@[simp] theorem markerIn_mem (s : State) (p : Nat) : (markerIn s p).mem = s.mem := by simp [markerIn]
@[simp] theorem takeMarker_mem (s : State) (p id init grp : Nat) : (takeMarker s p id init grp).mem = s.mem := by simp [takeMarker]
@[simp] theorem watchBackups_mem (s : State) (dev : Nat) : (watchBackups s dev).mem = s.mem := by simp [watchBackups]
@[simp] theorem setEthStat_mem (s : State) (port bit : Nat) (on : Bool) : (setEthStat s port bit on).mem = s.mem := rfl
@[simp] theorem ethCount_mem (s : State) (port o : Nat) : (ethCount s port o).mem = s.mem := rfl
@[simp] theorem State.setEthQ_mem (s : State) (port q : Nat) (x : EthQ) : (State.setEthQ s port q x).mem = s.mem := rfl
@[simp] theorem ethStop_mem (s : State) (port q code : Nat) : (ethStop s port q code).mem = s.mem := rfl
@[simp] theorem ethInt_mem (s : State) (port q : Nat) : (ethInt s port q).mem = s.mem := by simp [ethInt]
@[simp] theorem ethKick_mem (s : State) (port : Nat) : (ethKick s port).mem = s.mem := by simp [ethKick]
@[simp] theorem showPaused_mem (s : State) (port : Nat) : (showPaused s port).mem = s.mem := by simp [showPaused]
@[simp] theorem setBiv_mem (s : State) (st : Nat) : (setBiv s st).mem = s.mem := rfl
@[simp] theorem bivStartCut_mem (s : State) : (bivStartCut s).mem = s.mem := by simp [bivStartCut]
@[simp] theorem stopClocks_mem (s : State) : (stopClocks s).mem = s.mem := rfl
@[simp] theorem sleepPort_mem (s : State) (p : Nat) : (sleepPort s p).mem = s.mem := by simp [sleepPort]
@[simp] theorem sleepPorts_mem (s : State) : (sleepPorts s).mem = s.mem := by simp [sleepPorts]
@[simp] theorem bivRelease_mem (s : State) (num : Nat) : (bivRelease s num).mem = s.mem := by
  unfold bivRelease; split <;> simp
@[simp] theorem unmark_mem (s : State) (n : Nat) : (unmark s n).mem = s.mem := by simp [unmark]
@[simp] theorem startClocks_mem (s : State) : (startClocks s).mem = s.mem := rfl
@[simp] theorem wakePort_mem (s : State) (p : Nat) : (wakePort s p).mem = s.mem := by simp [wakePort]
@[simp] theorem goOn_mem (s : State) : (goOn s).mem = s.mem := by simp [goOn]
@[simp] theorem repairRows_mem (s : State) : (repairRows s).mem = s.mem := by simp [repairRows]
@[simp] theorem setBlock_mem (s : State) (num task b : Nat) : (setBlock s num task b).mem = s.mem := by simp [setBlock]
@[simp] theorem askBlock_mem (s : State) (num die task : Nat) : (askBlock s num die task).mem = s.mem := by unfold askBlock; split <;> simp
@[simp] theorem blockAnswer_mem (s : State) (die launch task : Nat) (new : List ThiefNums) : (blockAnswer s die launch task new).mem = s.mem := by
  simp [blockAnswer]
@[simp] theorem useNumber_mem (s : State) (num die task a : Nat) : (useNumber s num die task a).mem = s.mem := by
  unfold useNumber; dsimp only; split <;> simp
@[simp] theorem setHold_mem (s : State) (n : Nat) (b : Bool) : (setHold s n b).mem = s.mem := by simp [setHold]
@[simp] theorem masked0_mem (s : State) (off : Nat) (v mask : Word) : (masked0 s off v mask).mem = s.mem := rfl
@[simp] theorem masked2_mem (s : State) (off : Nat) (v mask : Word) : (masked2 s off v mask).mem = s.mem := rfl
@[simp] theorem rsDraws_mem (s : State) (m : FMod) (n : Nat) : (rsDraws s m n).2.mem = s.mem := by unfold rsDraws; split <;> rfl

end Sys2Proof.Machine
end

section
/-! What an outcome or a checked computation can give, and the instructions that leave memory alone. -/
namespace Sys2Proof.Machine
open Sys2Proof

/-- The next state, where there is one, has the memory of `s`. -/
structure KeepsNext (s : State) (o : Host.Outcome State Fault Refusal) : Prop where
  mem_eq : ∀ t, o = .next t → t.mem = s.mem
@[simp] theorem keepsNext_next {s t : State} : KeepsNext s (.next t) ↔ t.mem = s.mem :=
  ⟨fun h => h.mem_eq t rfl, fun h => ⟨fun _ e => by cases e; exact h⟩⟩
@[simp] theorem keepsNext_fault {s : State} {f : Fault} : KeepsNext s (.fault f) := ⟨fun _ e => by cases e⟩
@[simp] theorem keepsNext_refused {s : State} {f : Refusal} : KeepsNext s (.refused f) := ⟨fun _ e => by cases e⟩
@[simp] theorem keepsNext_ite {s : State} {c : Prop} [Decidable c] {o q : Host.Outcome State Fault Refusal} :
    KeepsNext s (if c then o else q) ↔ if c then KeepsNext s o else KeepsNext s q := by split <;> rfl
theorem KeepsNext.trans {s u : State} {o : Host.Outcome State Fault Refusal} (h : KeepsNext u o) (e : u.mem = s.mem) : KeepsNext s o :=
  ⟨fun t et => (h.mem_eq t et).trans e⟩

@[simp] theorem execNop_keeps (s : State) : KeepsNext s (execNop s) := by simp [execNop]
@[simp] theorem execBra_keeps (off : Imm 20) (s : State) : KeepsNext s (execBra off s) := by simp [execBra]
@[simp] theorem execBc_keeps (c : BCond) (r : BitVec 5) (off : Imm 11) (s : State) : KeepsNext s (execBc c r off s) := by simp [execBc]
@[simp] theorem execCall_keeps (off : Imm 20) (s : State) : KeepsNext s (execCall off s) := by simp [execCall]
@[simp] theorem execLit_keeps (d : BitVec 5) (v : Imm 15) (s : State) : KeepsNext s (execLit d v s) := by simp [execLit]
@[simp] theorem execLithi_keeps (d : BitVec 5) (v : Imm 15) (s : State) : KeepsNext s (execLithi d v s) := by simp [execLithi]
@[simp] theorem execVlit_keeps (d : BitVec 5) (v : Imm 15) (s : State) : KeepsNext s (execVlit d v s) := by simp [execVlit]
@[simp] theorem execWork_keeps (d : BitVec 5) (amount : Imm 15) (s : State) : KeepsNext s (execWork d amount s) := by simp [execWork]
@[simp] theorem execSvc_keeps (d : BitVec 5) (n : Imm 15) (s : State) : KeepsNext s (execSvc d n s) := by simp [execSvc]
@[simp] theorem execFillerBurst_keeps (clu : Nat) (s : State) : KeepsNext s (execFillerBurst clu s) := by simp [execFillerBurst]
@[simp] theorem execRangeStealRequest_keeps (die victim launch : Nat) (s : State) : KeepsNext s (execRangeStealRequest die victim launch s) := by
  unfold execRangeStealRequest; split <;> simp
@[simp] theorem execRangeStealAnswer_keeps (die launch lo hi : Nat) (s : State) : KeepsNext s (execRangeStealAnswer die launch lo hi s) := by
  unfold execRangeStealAnswer; split <;> simp
@[simp] theorem execPrefetchDone_keeps (core slot : Nat) (s : State) : KeepsNext s (execPrefetchDone core slot s) := by
  unfold execPrefetchDone; dsimp only
  split
  · simp
  · split <;> simp
@[simp] theorem execPriorityAging_keeps (rid : Nat) (s : State) : KeepsNext s (execPriorityAging rid s) := by
  unfold execPriorityAging
  split
  · simp
  · split <;> simp
@[simp] theorem execSyncLoadWake_keeps (th : Nat) (s : State) : KeepsNext s (execSyncLoadWake th s) := by unfold execSyncLoadWake; split <;> simp
@[simp] theorem execHomeErrorReport_keeps (rid : Nat) (code : BitVec 8) (x : StoreName) (s : State) :
    KeepsNext s (execHomeErrorReport rid code x s) := by
  simp [execHomeErrorReport]
@[simp] theorem execHand_keeps (d a : BitVec 5) (s : State) : KeepsNext s (execHand d a s) := by simp [execHand]
@[simp] theorem execRseed_keeps (a b : BitVec 5) (s : State) : KeepsNext s (execRseed a b s) := by simp [execRseed]
@[simp] theorem execSqDbWrite_keeps (q : Nat) (tail : BitVec 16) (s : State) : KeepsNext s (execSqDbWrite q tail s) := by simp [execSqDbWrite]
@[simp] theorem execCqDbWrite_keeps (q : Nat) (head : BitVec 16) (s : State) : KeepsNext s (execCqDbWrite q head s) := by simp [execCqDbWrite]
@[simp] theorem execSqCfgWrite_keeps (q : Nat) (value : BitVec 64) (s : State) : KeepsNext s (execSqCfgWrite q value s) := by simp [execSqCfgWrite]
@[simp] theorem execCqCfgWrite_keeps (q : Nat) (value : BitVec 64) (s : State) : KeepsNext s (execCqCfgWrite q value s) := by simp [execCqCfgWrite]
@[simp] theorem execCqCoalTimer_keeps (q : Nat) (s : State) : KeepsNext s (execCqCoalTimer q s) := by simp [execCqCoalTimer]
@[simp] theorem execPreemptRelease_keeps (launch : Nat) (s : State) : KeepsNext s (execPreemptRelease launch s) := by
  unfold execPreemptRelease; split <;> simp
@[simp] theorem execPartCluWrite_keeps (die clu : Nat) (value : BitVec 64) (s : State) : KeepsNext s (execPartCluWrite die clu value s) := by
  simp [execPartCluWrite]
@[simp] theorem execPatternChange_keeps (die : Nat) (s : State) : KeepsNext s (execPatternChange die s) := by simp [execPatternChange]
@[simp] theorem execRopePolWrite_keeps (rope : Nat) (value : BitVec 64) (s : State) : KeepsNext s (execRopePolWrite rope value s) := by
  simp [execRopePolWrite]
@[simp] theorem execRopeImbRefresh_keeps (x : RopeSupply) (i0 i1 i2 i3 : Nat) (s : State) : KeepsNext s (execRopeImbRefresh x i0 i1 i2 i3 s) := by
  unfold execRopeImbRefresh; dsimp only
  split
  · exact keepsNext_next.2 rfl
  · exact keepsNext_next.2 ((countSat_mem ..).trans ((State.setRope_mem ..).trans (State.setReg0_mem ..)))
@[simp] theorem execRopePolicyEngage_keeps (rope : Nat) (s : State) : KeepsNext s (execRopePolicyEngage rope s) := by simp [execRopePolicyEngage]
@[simp] theorem execThrotEscalate_keeps (rope : Nat) (s : State) : KeepsNext s (execThrotEscalate rope s) := by simp [execThrotEscalate]
@[simp] theorem execRopePolicyDisengage_keeps (rope : Nat) (s : State) : KeepsNext s (execRopePolicyDisengage rope s) := by
  simp [execRopePolicyDisengage]
@[simp] theorem execRailSample_keeps (rope v0 v1 v2 v3 : Nat) (s : State) : KeepsNext s (execRailSample rope v0 v1 v2 v3 s) := by
  unfold execRailSample; dsimp only
  split
  · exact keepsNext_next.2 rfl
  · refine keepsNext_next.2 ?_
    split
    · split
      · rw [State.after_mem, State.after_mem, foldl_mem (keepsMem_iff.2 (assistSample_mem rope _)), State.setRope_mem, State.setReg0_mem]
      · rw [State.after_mem, foldl_mem (keepsMem_iff.2 (assistSample_mem rope _)), State.setRope_mem, State.setReg0_mem]
    · split
      · rw [mem_ite, State.after_mem, ite_self, State.after_mem, foldl_mem (keepsMem_iff.2 (assistSample_mem rope _)), State.setRope_mem,
          State.setReg0_mem]
      · rw [State.after_mem, foldl_mem (keepsMem_iff.2 (assistSample_mem rope _)), State.setRope_mem, State.setReg0_mem]
@[simp] theorem execWriteAssistChange_keeps (rope : Nat) (s : State) : KeepsNext s (execWriteAssistChange rope s) := by simp [execWriteAssistChange]
@[simp] theorem execRopeClamp_keeps (rope cause : Nat) (s : State) : KeepsNext s (execRopeClamp rope cause s) := by
  unfold execRopeClamp; dsimp only
  split
  · exact keepsNext_next.2 rfl
  · split
    · refine keepsNext_next.2 ?_
      rw [State.after_mem, soon_mem, State.setRope_mem, setRopeState_mem, State.setReg0_mem]
    · split
      · refine keepsNext_next.2 ?_
        rw [mem_ite, State.after_mem, State.setRope_mem, ite_self]
      · exact keepsNext_next.2 rfl
@[simp] theorem execRopeUnclamp_keeps (rope : Nat) (s : State) : KeepsNext s (execRopeUnclamp rope s) := by unfold execRopeUnclamp; split <;> simp
@[simp] theorem execRopeHotChange_keeps (rope temp : Nat) (s : State) : KeepsNext s (execRopeHotChange rope temp s) := by simp [execRopeHotChange]
@[simp] theorem execRopeOvbChange_keeps (rope power : Nat) (s : State) : KeepsNext s (execRopeOvbChange rope power s) := by simp [execRopeOvbChange]
@[simp] theorem execModuleCapInterval_keeps (watts : Nat) (s : State) : KeepsNext s (execModuleCapInterval watts s) := by simp [execModuleCapInterval]
@[simp] theorem execFloorAccount_keeps (launch : Nat) (s : State) : KeepsNext s (execFloorAccount launch s) := by
  unfold execFloorAccount; split <;> simp
@[simp] theorem execHbmThermalChange_keeps (die stack temp : Nat) (s : State) : KeepsNext s (execHbmThermalChange die stack temp s) := by
  simp [execHbmThermalChange]
@[simp] theorem execEccWindow_keeps (die : Nat) (s : State) : KeepsNext s (execEccWindow die s) := by simp [execEccWindow]
@[simp] theorem execBackupOfferAnswer_keeps (launch task attempt : Nat) (accepted : Bool) (s : State) :
    KeepsNext s (execBackupOfferAnswer launch task attempt accepted s) := by
  unfold execBackupOfferAnswer; dsimp only
  split
  · refine keepsNext_ite.2 ?_
    split
    · simp
    · split <;> simp [owe_mem]
  · split <;> simp
@[simp] theorem execBackupEndCharge_keeps (b : AttemptName) (cycles : Nat) (s : State) : KeepsNext s (execBackupEndCharge b cycles s) := by
  unfold execBackupEndCharge; dsimp only
  split
  · simp
  · split <;> simp
@[simp] theorem execBackupUnreachable_keeps (b : AttemptName) (s : State) : KeepsNext s (execBackupUnreachable b s) := by
  unfold execBackupUnreachable
  split
  · refine keepsNext_ite.2 ?_
    split
    · simp
    · split <;> simp
  · simp
@[simp] theorem execHedgeDecay_keeps (s : State) : KeepsNext s (execHedgeDecay s) := by
  unfold execHedgeDecay
  split
  · exact keepsNext_next.2 (State.after_mem ..)
  · exact keepsNext_next.2 ((State.after_mem ..).trans
      (foldl_mem (keepsMem_iff.2 fun _ _ => (halve_mem ..).trans (halve_mem ..)) ..))
@[simp] theorem execBootGo_keeps (s : State) : KeepsNext s (execBootGo s) := by simp [execBootGo]
@[simp] theorem execVerifyDone_keeps (s : State) : KeepsNext s (execVerifyDone s) := by simp [execVerifyDone]
@[simp] theorem execBringupReduced_keeps (s : State) : KeepsNext s (execBringupReduced s) := by simp [execBringupReduced]
@[simp] theorem execSpdmGetMeasurements_keeps (i : MeasIndex) (s : State) : KeepsNext s (execSpdmGetMeasurements i s) := by
  simp [execSpdmGetMeasurements]
@[simp] theorem execIluCfgWrite_keeps (value : BitVec 64) (s : State) : KeepsNext s (execIluCfgWrite value s) := by simp [execIluCfgWrite]
@[simp] theorem execIluRouteWrite_keeps (dev : Nat) (value : BitVec 64) (s : State) : KeepsNext s (execIluRouteWrite dev value s) := by
  simp [execIluRouteWrite]
@[simp] theorem execWavelengthLeave_keeps (port : Nat) (l : LamErrors) (s : State) : KeepsNext s (execWavelengthLeave port l s) := by
  unfold execWavelengthLeave; dsimp only
  split
  · exact keepsNext_next.2 rfl
  · refine keepsNext_next.2 ?_
    rw [mem_ite, State.after_mem, State.after_mem, showLams_mem, State.setPort_mem, ite_self]
@[simp] theorem execWavelengthRejoin_keeps (port lam : Nat) (s : State) : KeepsNext s (execWavelengthRejoin port lam s) := by
  simp [execWavelengthRejoin]
@[simp] theorem execWavelengthFailed_keeps (port lam : Nat) (s : State) : KeepsNext s (execWavelengthFailed port lam s) := by
  simp [execWavelengthFailed]
@[simp] theorem execCutGo_keeps (id grp : Nat) (s : State) : KeepsNext s (execCutGo id grp s) := by simp [execCutGo]
@[simp] theorem execBelayMarker_keeps (port id init grp : Nat) (s : State) : KeepsNext s (execBelayMarker port id init grp s) := by
  simp [execBelayMarker]
@[simp] theorem execEthqCfgWrite_keeps (port q : Nat) (value : BitVec 64) (s : State) : KeepsNext s (execEthqCfgWrite port q value s) := by
  unfold execEthqCfgWrite; dsimp only
  split
  · refine keepsNext_next.2 ?_
    rw [mem_ite, State.setEthQ_mem, State.setReg2_mem, State.setReg2_mem, State.setReg2_mem, ite_self]
  · exact keepsNext_next.2 (State.setReg2_mem ..)
@[simp] theorem execEthqPtrWrite_keeps (port q : Nat) (value : BitVec 64) (s : State) : KeepsNext s (execEthqPtrWrite port q value s) :=
  keepsNext_next.2 ((setTail_mem ..).trans (setTail_mem ..))
@[simp] theorem execEthLinkDown_keeps (port : Nat) (s : State) : KeepsNext s (execEthLinkDown port s) := by simp [execEthLinkDown]
@[simp] theorem execEthLinkUp_keeps (port : Nat) (s : State) : KeepsNext s (execEthLinkUp port s) := by simp [execEthLinkUp]
@[simp] theorem execPauseFrameReceived_keeps (port : Nat) (pfc : Option (BitVec 8)) (quanta : Nat) (s : State) :
    KeepsNext s (execPauseFrameReceived port pfc quanta s) := by
  simp [execPauseFrameReceived]
@[simp] theorem execPauseHoldExpiry_keeps (port : Nat) (s : State) : KeepsNext s (execPauseHoldExpiry port s) := by simp [execPauseHoldExpiry]
@[simp] theorem execBivEnter_keeps (grp : Nat) (s : State) : KeepsNext s (execBivEnter grp s) := by simp [execBivEnter]
@[simp] theorem execBivResume_keeps (s : State) : KeepsNext s (execBivResume s) := by simp [execBivResume]
@[simp] theorem execBivRestore_keeps (s : State) : KeepsNext s (execBivRestore s) := by simp [execBivRestore]
@[simp] theorem execThiefBlockRequest_keeps (die launch task : Nat) (s : State) : KeepsNext s (execThiefBlockRequest die launch task s) := by
  unfold execThiefBlockRequest
  extract_lets b home
  clear_value home
  split
  · simp
  · split
    · split <;> simp [owe_mem]
    · simp [owe_mem]
@[simp] theorem execThiefBlockGrant_keeps (die launch task : Nat) (block : Nat) (s : State) :
    KeepsNext s (execThiefBlockGrant die launch task block s) := by
  simp [execThiefBlockGrant]
@[simp] theorem queueWrite_keeps (s : State) (q o : Nat) (v : Word) : KeepsNext s (queueWrite s q o v) := by unfold queueWrite; split <;> simp
@[simp] theorem ropeWrite_keeps (s : State) (r o : Nat) (v : Word) : KeepsNext s (ropeWrite s r o v) := by unfold ropeWrite; split <;> simp
@[simp] theorem dieWrite_keeps (s : State) (d o : Nat) (v : Word) : KeepsNext s (dieWrite s d o v) := by simp [dieWrite]
@[simp] theorem bootWrite_keeps (s : State) (v : Word) : KeepsNext s (bootWrite s v) := by
  unfold bootWrite; dsimp only
  split
  · exact (execBootGo_keeps _).trans (masked2_mem ..)
  · exact keepsNext_next.2 (masked2_mem ..)
@[simp] theorem bivWrite_keeps (s : State) (v : Word) : KeepsNext s (bivWrite s v) := by
  unfold bivWrite; dsimp only
  split
  · exact (execBivEnter_keeps ..).trans (masked2_mem ..)
  · split
    · exact (execBivResume_keeps _).trans (masked2_mem ..)
    · exact keepsNext_next.2 (masked2_mem ..)
@[simp] theorem ethWrite_keeps (s : State) (port o : Nat) (v : Word) : KeepsNext s (ethWrite s port o v) := by
  have kept (off : Nat) (mask : Word) : KeepsNext s (.next (masked2 s off v mask)) := keepsNext_next.2 (masked2_mem ..)
  unfold ethWrite; dsimp only
  split
  · refine keepsNext_next.2 ?_
    rw [mem_ite, setEthStat_mem, masked2_mem, ite_self]
  · split
    · exact kept ..
    · split
      · exact kept ..
      · split
        · exact kept ..
        · split
          · split
            · exact execEthqCfgWrite_keeps ..
            · exact kept ..
            · exact kept ..
            · exact execEthqPtrWrite_keeps ..
            · exact keepsNext_next.2 rfl
          · exact keepsNext_next.2 rfl
@[simp] theorem passTime_keeps (s : State) : KeepsNext s (passTime s) := by 
  refine keepsNext_ite.2 ?_
  split
  · simp
  · split <;> simp
@[simp] theorem vectorOut_keeps (s : State) (w : Nat) (p : BitVec 3) (d : BitVec 5) (f : Nat → Nat) : KeepsNext s (vectorOut s w p d f) := by
  simp [vectorOut]
@[simp] theorem vectorInt_keeps (s : State) (p : BitVec 3) (d a b : BitVec 5) (t : ITy) (f : Int → Int → Int) :
    KeepsNext s (vectorInt s p d a b t f) := by
  simp [vectorInt]
@[simp] theorem vectorBits_keeps (s : State) (p : BitVec 3) (d a b : BitVec 5) (t : ITy) (f : Nat → Nat → Nat) :
    KeepsNext s (vectorBits s p d a b t f) := by
  simp [vectorBits]
@[simp] theorem predOut_keeps (s : State) (w : Nat) (p d : BitVec 3) (c : Nat → Bool) : KeepsNext s (predOut s w p d c) := by simp [predOut]
@[simp] theorem execVadd_keeps (p : BitVec 3) (d a b : BitVec 5) (t : ITy) (s : State) : KeepsNext s (execVadd p d a b t s) := by simp [execVadd]
@[simp] theorem execVsub_keeps (p : BitVec 3) (d a b : BitVec 5) (t : ITy) (s : State) : KeepsNext s (execVsub p d a b t s) := by simp [execVsub]
@[simp] theorem execVmul_keeps (p : BitVec 3) (d a b : BitVec 5) (t : ITy) (s : State) : KeepsNext s (execVmul p d a b t s) := by simp [execVmul]
@[simp] theorem execVmulh_keeps (p : BitVec 3) (d a b : BitVec 5) (t : ITy) (s : State) : KeepsNext s (execVmulh p d a b t s) := by simp [execVmulh]
@[simp] theorem execVaddsat_keeps (p : BitVec 3) (d a b : BitVec 5) (t : ITy) (s : State) : KeepsNext s (execVaddsat p d a b t s) := by
  simp [execVaddsat]
@[simp] theorem execVsubsat_keeps (p : BitVec 3) (d a b : BitVec 5) (t : ITy) (s : State) : KeepsNext s (execVsubsat p d a b t s) := by
  simp [execVsubsat]
@[simp] theorem execVand_keeps (p : BitVec 3) (d a b : BitVec 5) (t : ITy) (s : State) : KeepsNext s (execVand p d a b t s) := by simp [execVand]
@[simp] theorem execVor_keeps (p : BitVec 3) (d a b : BitVec 5) (t : ITy) (s : State) : KeepsNext s (execVor p d a b t s) := by simp [execVor]
@[simp] theorem execVxor_keeps (p : BitVec 3) (d a b : BitVec 5) (t : ITy) (s : State) : KeepsNext s (execVxor p d a b t s) := by simp [execVxor]
@[simp] theorem execVandn_keeps (p : BitVec 3) (d a b : BitVec 5) (t : ITy) (s : State) : KeepsNext s (execVandn p d a b t s) := by simp [execVandn]
@[simp] theorem execVshl_keeps (p : BitVec 3) (d a b : BitVec 5) (t : ITy) (s : State) : KeepsNext s (execVshl p d a b t s) := by simp [execVshl]
@[simp] theorem execVshr_keeps (p : BitVec 3) (d a b : BitVec 5) (t : ITy) (s : State) : KeepsNext s (execVshr p d a b t s) := by simp [execVshr]
@[simp] theorem execVsra_keeps (p : BitVec 3) (d a b : BitVec 5) (t : ITy) (s : State) : KeepsNext s (execVsra p d a b t s) := by simp [execVsra]
@[simp] theorem execVmin_keeps (p : BitVec 3) (d a b : BitVec 5) (t : ITy) (s : State) : KeepsNext s (execVmin p d a b t s) := by simp [execVmin]
@[simp] theorem execVmax_keeps (p : BitVec 3) (d a b : BitVec 5) (t : ITy) (s : State) : KeepsNext s (execVmax p d a b t s) := by simp [execVmax]
@[simp] theorem execVabs_keeps (p : BitVec 3) (d a : BitVec 5) (t : ITy) (s : State) : KeepsNext s (execVabs p d a t s) := by simp [execVabs]
@[simp] theorem execVneg_keeps (p : BitVec 3) (d a : BitVec 5) (t : ITy) (s : State) : KeepsNext s (execVneg p d a t s) := by simp [execVneg]
@[simp] theorem execVdot4_keeps (p : BitVec 3) (d a b : BitVec 5) (t : ITy) (sat : Bool) (s : State) : KeepsNext s (execVdot4 p d a b t sat s) := by
  simp [execVdot4]
@[simp] theorem execVcmp_keeps (p d : BitVec 3) (a b : BitVec 5) (t : ITy) (c : ICc) (s : State) : KeepsNext s (execVcmp p d a b t c s) := by
  simp [execVcmp]
@[simp] theorem execVsel_keeps (p : BitVec 3) (d a : BitVec 5) (b : BitVec 3) (t : ITy) (s : State) : KeepsNext s (execVsel p d a b t s) := by
  simp [execVsel]
@[simp] theorem floatOut_keeps (s : State) (w : Nat) (p : BitVec 3) (d : BitVec 5) (m : FMod) (f : Nat → Nat → Nat) :
    KeepsNext s (floatOut s w p d m f) :=
  (vectorOut_keeps ..).trans (rsDraws_mem ..)
@[simp] theorem float2_keeps (s : State) (p : BitVec 3) (d a b : BitVec 5) (t : FTy) (m : FMod) (f : FTy → FMod → Nat → Nat → Nat → Nat) :
    KeepsNext s (float2 s p d a b t m f) :=
  floatOut_keeps ..
@[simp] theorem float3_keeps (s : State) (p : BitVec 3) (d a b : BitVec 5) (t : FTy) (m : FMod) (np nd : Bool) :
    KeepsNext s (float3 s p d a b t m np nd) :=
  floatOut_keeps ..
@[simp] theorem float1_keeps (s : State) (p : BitVec 3) (d a : BitVec 5) (t : FTy) (m : FMod) (f : XVal → XVal) :
    KeepsNext s (float1 s p d a t m f) :=
  floatOut_keeps ..
@[simp] theorem execVfadd_keeps (p : BitVec 3) (d a b : BitVec 5) (t : FTy) (m : FMod) (s : State) : KeepsNext s (execVfadd p d a b t m s) :=
  float2_keeps ..
@[simp] theorem execVfsub_keeps (p : BitVec 3) (d a b : BitVec 5) (t : FTy) (m : FMod) (s : State) : KeepsNext s (execVfsub p d a b t m s) :=
  float2_keeps ..
@[simp] theorem execVfmul_keeps (p : BitVec 3) (d a b : BitVec 5) (t : FTy) (m : FMod) (s : State) : KeepsNext s (execVfmul p d a b t m s) :=
  float2_keeps ..
@[simp] theorem execVfma_keeps (p : BitVec 3) (d a b : BitVec 5) (t : FTy) (m : FMod) (s : State) : KeepsNext s (execVfma p d a b t m s) :=
  float3_keeps ..
@[simp] theorem execVfms_keeps (p : BitVec 3) (d a b : BitVec 5) (t : FTy) (m : FMod) (s : State) : KeepsNext s (execVfms p d a b t m s) :=
  float3_keeps ..
@[simp] theorem execVfnma_keeps (p : BitVec 3) (d a b : BitVec 5) (t : FTy) (m : FMod) (s : State) : KeepsNext s (execVfnma p d a b t m s) :=
  float3_keeps ..
@[simp] theorem execVfmin_keeps (p : BitVec 3) (d a b : BitVec 5) (t : FTy) (s : State) : KeepsNext s (execVfmin p d a b t s) := by simp [execVfmin]
@[simp] theorem execVfmax_keeps (p : BitVec 3) (d a b : BitVec 5) (t : FTy) (s : State) : KeepsNext s (execVfmax p d a b t s) := by simp [execVfmax]
@[simp] theorem execVfabs_keeps (p : BitVec 3) (d a : BitVec 5) (t : FTy) (s : State) : KeepsNext s (execVfabs p d a t s) := by simp [execVfabs]
@[simp] theorem execVfneg_keeps (p : BitVec 3) (d a : BitVec 5) (t : FTy) (s : State) : KeepsNext s (execVfneg p d a t s) := by simp [execVfneg]
@[simp] theorem execVfcmp_keeps (p d : BitVec 3) (a b : BitVec 5) (t : FTy) (c : FCc) (s : State) : KeepsNext s (execVfcmp p d a b t c s) := by
  simp [execVfcmp]
@[simp] theorem execVfrcp_keeps (p : BitVec 3) (d a : BitVec 5) (t : FTy) (m : FMod) (s : State) : KeepsNext s (execVfrcp p d a t m s) :=
  float1_keeps ..
@[simp] theorem execVfrsq_keeps (p : BitVec 3) (d a : BitVec 5) (t : FTy) (m : FMod) (s : State) : KeepsNext s (execVfrsq p d a t m s) :=
  float1_keeps ..
@[simp] theorem execVfsqrt_keeps (p : BitVec 3) (d a : BitVec 5) (t : FTy) (m : FMod) (s : State) : KeepsNext s (execVfsqrt p d a t m s) :=
  float1_keeps ..
@[simp] theorem execVfexp2_keeps (p : BitVec 3) (d a : BitVec 5) (t : FTy) (m : FMod) (s : State) : KeepsNext s (execVfexp2 p d a t m s) :=
  float1_keeps ..
@[simp] theorem execVflog2_keeps (p : BitVec 3) (d a : BitVec 5) (t : FTy) (m : FMod) (s : State) : KeepsNext s (execVflog2 p d a t m s) :=
  float1_keeps ..
@[simp] theorem execVftanh_keeps (p : BitVec 3) (d a : BitVec 5) (t : FTy) (m : FMod) (s : State) : KeepsNext s (execVftanh p d a t m s) :=
  float1_keeps ..
@[simp] theorem execVfsinpi_keeps (p : BitVec 3) (d a : BitVec 5) (t : FTy) (m : FMod) (s : State) : KeepsNext s (execVfsinpi p d a t m s) :=
  float1_keeps ..
@[simp] theorem execVfcospi_keeps (p : BitVec 3) (d a : BitVec 5) (t : FTy) (m : FMod) (s : State) : KeepsNext s (execVfcospi p d a t m s) :=
  float1_keeps ..
@[simp] theorem execVfscale_keeps (p : BitVec 3) (d a b : BitVec 5) (t : FTy) (m : FMod) (s : State) : KeepsNext s (execVfscale p d a b t m s) :=
  float2_keeps ..
@[simp] theorem execVfdot2_keeps (p : BitVec 3) (d a b : BitVec 5) (t : FTy) (m : FMod) (s : State) : KeepsNext s (execVfdot2 p d a b t m s) :=
  floatOut_keeps ..
@[simp] theorem scalarOut_keeps (s : State) (p : BitVec 3) (d : BitVec 5) (x : Word) : KeepsNext s (scalarOut s p d x) := by simp [scalarOut]
@[simp] theorem execArithNop_keeps (s : State) : KeepsNext s (execArithNop s) := by simp [execArithNop]
@[simp] theorem execAdd_keeps (p : BitVec 3) (d a b : BitVec 5) (t : ITy) (s : State) : KeepsNext s (execAdd p d a b t s) := by simp [execAdd]
@[simp] theorem execSub_keeps (p : BitVec 3) (d a b : BitVec 5) (t : ITy) (s : State) : KeepsNext s (execSub p d a b t s) := by simp [execSub]
@[simp] theorem execMul_keeps (p : BitVec 3) (d a b : BitVec 5) (t : ITy) (s : State) : KeepsNext s (execMul p d a b t s) := by simp [execMul]
@[simp] theorem execMulh_keeps (p : BitVec 3) (d a b : BitVec 5) (t : ITy) (s : State) : KeepsNext s (execMulh p d a b t s) := by simp [execMulh]
@[simp] theorem execAnd_keeps (p : BitVec 3) (d a b : BitVec 5) (t : ITy) (s : State) : KeepsNext s (execAnd p d a b t s) := by simp [execAnd]
@[simp] theorem execOr_keeps (p : BitVec 3) (d a b : BitVec 5) (t : ITy) (s : State) : KeepsNext s (execOr p d a b t s) := by simp [execOr]
@[simp] theorem execXor_keeps (p : BitVec 3) (d a b : BitVec 5) (t : ITy) (s : State) : KeepsNext s (execXor p d a b t s) := by simp [execXor]
@[simp] theorem execAndn_keeps (p : BitVec 3) (d a b : BitVec 5) (t : ITy) (s : State) : KeepsNext s (execAndn p d a b t s) := by simp [execAndn]
@[simp] theorem execShl_keeps (p : BitVec 3) (d a b : BitVec 5) (t : ITy) (s : State) : KeepsNext s (execShl p d a b t s) := by simp [execShl]
@[simp] theorem execShr_keeps (p : BitVec 3) (d a b : BitVec 5) (t : ITy) (s : State) : KeepsNext s (execShr p d a b t s) := by simp [execShr]
@[simp] theorem execSra_keeps (p : BitVec 3) (d a b : BitVec 5) (t : ITy) (s : State) : KeepsNext s (execSra p d a b t s) := by simp [execSra]
@[simp] theorem execRot_keeps (p : BitVec 3) (d a b : BitVec 5) (t : ITy) (s : State) : KeepsNext s (execRot p d a b t s) := by simp [execRot]
@[simp] theorem execMin_keeps (p : BitVec 3) (d a b : BitVec 5) (t : ITy) (s : State) : KeepsNext s (execMin p d a b t s) := by simp [execMin]
@[simp] theorem execMax_keeps (p : BitVec 3) (d a b : BitVec 5) (t : ITy) (s : State) : KeepsNext s (execMax p d a b t s) := by simp [execMax]
@[simp] theorem execSet_keeps (p : BitVec 3) (d a b : BitVec 5) (t : ITy) (c : ICc) (s : State) : KeepsNext s (execSet p d a b t c s) := by
  simp [execSet]
@[simp] theorem execSel_keeps (p : BitVec 3) (d a b : BitVec 5) (t : ITy) (s : State) : KeepsNext s (execSel p d a b t s) := by simp [execSel]
@[simp] theorem execAdds_keeps (p : BitVec 3) (d a b : BitVec 5) (t : ITy) (s : State) : KeepsNext s (execAdds p d a b t s) := by simp [execAdds]
@[simp] theorem execClz_keeps (p : BitVec 3) (d a : BitVec 5) (t : ITy) (s : State) : KeepsNext s (execClz p d a t s) := by simp [execClz]
@[simp] theorem execPopc_keeps (p : BitVec 3) (d a : BitVec 5) (t : ITy) (s : State) : KeepsNext s (execPopc p d a t s) := by simp [execPopc]
@[simp] theorem execMov_keeps (p : BitVec 3) (d a : BitVec 5) (t : ITy) (s : State) : KeepsNext s (execMov p d a t s) := by simp [execMov]
@[simp] theorem execAddi_keeps (p : BitVec 3) (d a : BitVec 5) (i : BitVec 12) (s : State) : KeepsNext s (execAddi p d a i s) := by simp [execAddi]
@[simp] theorem execAndi_keeps (p : BitVec 3) (d a : BitVec 5) (i : BitVec 12) (s : State) : KeepsNext s (execAndi p d a i s) := by simp [execAndi]
@[simp] theorem execOri_keeps (p : BitVec 3) (d a : BitVec 5) (i : BitVec 12) (s : State) : KeepsNext s (execOri p d a i s) := by simp [execOri]
@[simp] theorem execXori_keeps (p : BitVec 3) (d a : BitVec 5) (i : BitVec 12) (s : State) : KeepsNext s (execXori p d a i s) := by simp [execXori]
@[simp] theorem execShli_keeps (p : BitVec 3) (d a : BitVec 5) (k : BitVec 6) (s : State) : KeepsNext s (execShli p d a k s) := by simp [execShli]
@[simp] theorem execShri_keeps (p : BitVec 3) (d a : BitVec 5) (k : BitVec 6) (s : State) : KeepsNext s (execShri p d a k s) := by simp [execShri]
@[simp] theorem execVperm_keeps (p : BitVec 3) (d a b : BitVec 5) (t : ITy) (s : State) : KeepsNext s (execVperm p d a b t s) := by simp [execVperm]
@[simp] theorem execVbcast_keeps (p : BitVec 3) (d a : BitVec 5) (t : ITy) (s : State) : KeepsNext s (execVbcast p d a t s) := by simp [execVbcast]
@[simp] theorem execVslide_keeps (p : BitVec 3) (d a b : BitVec 5) (t : ITy) (s : State) : KeepsNext s (execVslide p d a b t s) := by
  simp [execVslide]
@[simp] theorem execVzip_keeps (p : BitVec 3) (d a b : BitVec 5) (t : ITy) (h : Bool) (s : State) : KeepsNext s (execVzip p d a b t h s) := by
  simp [execVzip]
@[simp] theorem execVunzip_keeps (p : BitVec 3) (d a b : BitVec 5) (t : ITy) (h : Bool) (s : State) : KeepsNext s (execVunzip p d a b t h s) := by
  simp [execVunzip]
@[simp] theorem execVcomp_keeps (p : BitVec 3) (d a : BitVec 5) (b : BitVec 3) (t : ITy) (s : State) : KeepsNext s (execVcomp p d a b t s) := by
  simp [execVcomp]
@[simp] theorem execRand_keeps (p : BitVec 3) (d : BitVec 5) (t : ITy) (s : State) : KeepsNext s (execRand p d t s) := by
  unfold execRand
  split
  · exact (scalarOut_keeps ..).trans (State.draws_mem ..)
  · exact (vectorOut_keeps ..).trans (State.draws_mem ..)
@[simp] theorem execRandf_keeps (p : BitVec 3) (d a : BitVec 5) (t : FTy) (s : State) : KeepsNext s (execRandf p d a t s) := by simp [execRandf]
@[simp] theorem execVwid_keeps (p : BitVec 3) (d : BitVec 5) (t : ITy) (s : State) : KeepsNext s (execVwid p d t s) := by simp [execVwid]
@[simp] theorem wholePred_keeps (s : State) (p d : BitVec 3) (x : Pred) : KeepsNext s (wholePred s p d x) := by simp [wholePred]
@[simp] theorem execVbnd_keeps (p d : BitVec 3) (a b : BitVec 5) (t : ITy) (s : State) : KeepsNext s (execVbnd p d a b t s) := by simp [execVbnd]
@[simp] theorem execPand_keeps (p d a b : BitVec 3) (s : State) : KeepsNext s (execPand p d a b s) := by simp [execPand]
@[simp] theorem execPor_keeps (p d a b : BitVec 3) (s : State) : KeepsNext s (execPor p d a b s) := by simp [execPor]
@[simp] theorem execPxor_keeps (p d a b : BitVec 3) (s : State) : KeepsNext s (execPxor p d a b s) := by simp [execPxor]
@[simp] theorem execPnot_keeps (p d a : BitVec 3) (s : State) : KeepsNext s (execPnot p d a s) := by simp [execPnot]
@[simp] theorem execPcnt_keeps (p : BitVec 3) (d : BitVec 5) (a : BitVec 3) (s : State) : KeepsNext s (execPcnt p d a s) := by simp [execPcnt]
@[simp] theorem execPfirst_keeps (p : BitVec 3) (d : BitVec 5) (a : BitVec 3) (s : State) : KeepsNext s (execPfirst p d a s) := by simp [execPfirst]
@[simp] theorem execPset_keeps (p d : BitVec 3) (z : BitVec 2) (n : BitVec 9) (s : State) : KeepsNext s (execPset p d z n s) := by simp [execPset]
@[simp] theorem reduceOut_keeps (s : State) (p : BitVec 3) (d : BitVec 5) (y : Nat) : KeepsNext s (reduceOut s p d y) := by simp [reduceOut]
@[simp] theorem reduceF_keeps (s : State) (p : BitVec 3) (d a : BitVec 5) (t : FTy) (op : XVal → XVal → XVal) (id : XVal) (pre : XVal → XVal) :
    KeepsNext s (reduceF s p d a t op id pre) := by
  simp [reduceF]
@[simp] theorem reduceI_keeps (s : State) (p : BitVec 3) (d a : BitVec 5) (t : ITy) (op : Int → Int → Int) (id : Int) :
    KeepsNext s (reduceI s p d a t op id) := by
  simp [reduceI]
@[simp] theorem execVrsum_keeps (p : BitVec 3) (d a : BitVec 5) (t : RTy) (s : State) : KeepsNext s (execVrsum p d a t s) := by
  unfold execVrsum; split <;> simp
@[simp] theorem execVrmax_keeps (p : BitVec 3) (d a : BitVec 5) (t : RTy) (s : State) : KeepsNext s (execVrmax p d a t s) := by
  unfold execVrmax; split <;> simp
@[simp] theorem execVrmin_keeps (p : BitVec 3) (d a : BitVec 5) (t : RTy) (s : State) : KeepsNext s (execVrmin p d a t s) := by
  unfold execVrmin; split <;> simp
@[simp] theorem execVramax_keeps (p : BitVec 3) (d a : BitVec 5) (t : FTy) (s : State) : KeepsNext s (execVramax p d a t s) := by simp [execVramax]
@[simp] theorem execVscan_keeps (p : BitVec 3) (d a : BitVec 5) (t : RTy) (s : State) : KeepsNext s (execVscan p d a t s) := by
  unfold execVscan; split <;> simp

end Sys2Proof.Machine
end


section
/-! What a checked computation or an outcome gives, and the canonical form through both. -/
namespace Sys2Proof.Machine
open Sys2Proof

/-- What a checked computation gives, where it gives something, has the property `p`. -/
structure Gives {α : Type} (p : α → Prop) (r : Chk α) : Prop where
  of_ok : ∀ a, r = .ok a → p a

section
variable {α β : Type} {p : α → Prop} {q : β → Prop}

@[simp] theorem gives_ok {a : α} : Gives p (.ok a) ↔ p a := ⟨fun h => h.of_ok a rfl, fun h => ⟨fun _ e => by cases e; exact h⟩⟩
@[simp] theorem gives_error {e : Stop} : Gives p (.error e) := ⟨fun _ e => by cases e⟩
@[simp] theorem gives_raise {c d : Nat} : Gives p (raise c d) := gives_error
theorem Gives.pure {a : α} (h : p a) : Gives p (pure a) := gives_ok.2 h
theorem Gives.bind {x : Chk α} {k : α → Chk β} (hx : Gives p x) (hk : ∀ a, p a → Gives q (k a)) : Gives q (x >>= k) := by
  cases x with
  | error e => exact gives_error
  | ok a => exact hk a (gives_ok.1 hx)
/-- A check that gives no state. -/
theorem Gives.any {x : Chk α} {k : α → Chk β} (hk : ∀ a, Gives q (k a)) : Gives q (x >>= k) :=
  Gives.bind (p := fun _ => True) ⟨fun _ _ => trivial⟩ fun a _ => hk a
/-- A check under a condition. -/
theorem Gives.guard {c : Prop} [Decidable c] {x : Chk α} {k : Chk β} (hk : Gives q k) : Gives q (if c then x >>= fun _ => k else k) := by
  split
  · exact .any fun _ => hk
  · exact hk
theorem Gives.ite {c : Prop} [Decidable c] {x y : Chk α} (hx : Gives p x) (hy : Gives p y) : Gives p (if c then x else y) := by
  split <;> assumption
theorem Gives.map {x : Chk α} {f : α → β} (hx : Gives p x) (hf : ∀ a, p a → q (f a)) : Gives q (x.map f) := by
  cases x with
  | error e => exact gives_error
  | ok a => exact gives_ok.2 (hf a (gives_ok.1 hx))
end

/-- Memory is in canonical form in the next state, where there is one. -/
structure NextOk (o : Host.Outcome State Fault Refusal) : Prop where
  memOk : ∀ t, o = .next t → t.MemOk

@[simp] theorem nextOk_next {t : State} : NextOk (.next t) ↔ t.MemOk := ⟨fun h => h.memOk t rfl, fun h => ⟨fun _ e => by cases e; exact h⟩⟩
@[simp] theorem nextOk_fault {f : Fault} : NextOk (.fault f) := ⟨fun _ e => by cases e⟩
@[simp] theorem nextOk_refused {f : Refusal} : NextOk (.refused f) := ⟨fun _ e => by cases e⟩
theorem NextOk.ite {c : Prop} [Decidable c] {o q : Host.Outcome State Fault Refusal} (ho : NextOk o) (hq : NextOk q) :
    NextOk (if c then o else q) := by split <;> assumption
theorem KeepsNext.nextOk {s : State} {o : Host.Outcome State Fault Refusal} (h : s.MemOk) (k : KeepsNext s o) : NextOk o :=
  ⟨fun t e => memOk_of_mem h (k.mem_eq t e)⟩
/-- An instruction's outcome keeps what its effect keeps. -/
theorem finish_nextOk {s : State} {r : Chk State} (h : s.MemOk) (hr : Gives State.MemOk r) : NextOk (finish s r) :=
  ⟨fun _ e => finish_memOk h hr.of_ok e⟩
theorem suspend_nextOk {s : State} {r : Chk State} (h : s.MemOk) (hr : Gives State.MemOk r) : NextOk (suspend s r) :=
  ⟨fun _ e => suspend_memOk h hr.of_ok e⟩

theorem resolve_gives {s : State} (h : s.MemOk) (a len al : Nat) (need : Need) : Gives (fun r => r.1.MemOk) (resolve s a len al need) :=
  ⟨fun _ e => resolve_memOk h e⟩
theorem resolveAll_gives {s : State} (h : s.MemOk) (al : Nat) (need : Need) (l : List (Nat × Nat × Nat)) :
    Gives (fun r => r.1.MemOk) (resolveAll s al need l) := ⟨fun _ e => resolveAll_memOk l h e⟩
theorem place_gives {s : State} (h : s.MemOk) (a len al : Nat) (need : Need) : Gives (fun r => r.1.MemOk) (place s a len al need) :=
  ⟨fun _ e => place_memOk h e⟩
theorem translate_gives {s : State} (h : s.MemOk) (clu part va : Nat) (need : Need) :
    Gives (fun r => r.1.MemOk) (translate s clu part va need) := ⟨fun _ e => translate_memOk h e⟩
theorem vmRead_gives {s : State} (h : s.MemOk) (clu part va n : Nat) : Gives (fun r => r.2.MemOk) (vmRead s clu part va n) :=
  ⟨fun _ e => vmRead_memOk h e⟩
theorem vmWrite_gives {s : State} (h : s.MemOk) (clu part va n v : Nat) : Gives State.MemOk (vmWrite s clu part va n v) :=
  ⟨fun _ e => vmWrite_memOk h e⟩
theorem useHandle_gives {s : State} (h : s.MemOk) (n : BitVec 4) : Gives State.MemOk (useHandle s n) := ⟨fun _ e => useHandle_memOk h e⟩
theorem winDraws_memOk {s : State} (h : s.MemOk) (l : List Nat) (n : Nat) : (winDraws s l n).2.MemOk := memOk_of_mem h (winDraws_mem ..)
theorem sendAccess_gives {s : State} (h : s.MemOk) (r : Route) (n : Nat) : Gives State.MemOk (sendAccess s r n) := by
  unfold sendAccess
  split
  · split
    · exact gives_error
    · exact gives_ok.2 (memOk_of_mem h (spend_mem ..))
  · exact gives_ok.2 h

end Sys2Proof.Machine
end

section
/-! Loads, stores and atomics keep the canonical form. -/
namespace Sys2Proof.Machine
open Sys2Proof

/-- A change of memory that leaves its bytes. -/
theorem modM_memOk_of_cells {s : State} (h : s.MemOk) {f : Mem → Mem} (hf : ∀ m, (f m).cells = m.cells) : (s.modM f).MemOk :=
  memOk_of_cells h (hf _)
theorem snoop_memOk {s : State} (h : s.MemOk) (hpa : Nat) (inv : Bool) : (snoop s hpa inv).MemOk := by
  have h1 := memOk_foldl _ (fun _ d h => writeBackIf_memOk (hostLine hpa) h d) (List.range 8) h
  unfold snoop
  exact memOk_ite (modM_memOk_of_cells h1 fun _ => rfl) h1
theorem hostWrite_memOk {s : State} (h : s.MemOk) (w : HostWrite) : (hostWrite s w).MemOk :=
  memOk_ite h (modM_memOk (Mem.put_wf _ _ _ _ (memOk_foldl _ (fun _ _ h => snoop_memOk h ..) _ h)))
theorem cleanRegs_memOk {s : State} (h : s.MemOk) (n : Nat) (gs : List Reg) : (cleanRegs s n gs).MemOk := by
  unfold cleanRegs
  exact memOk_ite h (modM_memOk_of_cells h fun _ => rfl)
theorem readFar_gives {s : State} (h : s.MemOk) (r : Route) (k n : Nat) : Gives (fun x => x.2.MemOk) (readFar s r k n) :=
  .ite gives_error ((sendAccess_gives (drainAll_memOk h _) ..).map fun _ h => settle_memOk h ..)
theorem readSegs_gives (ds : Nat) (l : List Seg) {s : State} (h : s.MemOk) (g : Got) : Gives (fun r => r.2.MemOk) (readSegs ds l s g) := by
  induction l generalizing s g with
  | nil => exact gives_ok.2 h
  | cons x l ih =>
    unfold readSegs; dsimp only
    split
    · split
      · exact gives_error
      · next e => exact ih ((sendAccess_gives (drainAll_memOk h _) _ 0).of_ok _ e) _
    · split
      · exact gives_error
      · exact ih h _
      · have h1 := loadPlace_memOk h (tgtRoute s x.tgt) (tgtKey s x.tgt) x.len
        split
        · exact ih h1 _
        · split
          · exact gives_error
          · exact ih h1 _
theorem loadScalar_gives {s : State} (h : s.MemOk) (d : BitVec 5) (a : Word) (z : Nat) (sg sync : Bool) :
    Gives State.MemOk (loadScalar s d a z sg sync) := by
  unfold loadScalar
  refine .bind (resolve_gives h ..) fun ⟨s1, t⟩ h1 => .any fun _ => .guard ?_
  refine .bind (readSegs_gives _ _ (winDraws_memOk (memOk_ite (drainAll_memOk h1 _) h1) ..) _) fun ⟨g, s4⟩ h4 => ?_
  dsimp only
  split
  · exact .pure (memOk_of_mem h4 (addLater_mem ..))
  · exact .pure (memOk_of_mem h4 (awaitReply_mem ..))
  · exact .pure (memOk_of_mem h4 (State.setS_mem ..))
theorem pushSegs_memOk (full : Bool) (n : Nat) (l : List (Seg × Nat)) {s : State} (h : s.MemOk) : (pushSegs full n l s).MemOk := by
  induction n generalizing l s with
  | zero => exact h
  | succ n ih =>
    cases l with
    | nil => exact h
    | cons p r => exact ih _ (pushEntry_memOk h ..)
theorem storeSegs_gives {s : State} (h : s.MemOk) (ds x : Nat) (full : Bool) (l : List Seg) : Gives State.MemOk (storeSegs s ds x full l) :=
  .any fun _ => .any fun _ => .pure (pushSegs_memOk _ _ _ (trailAll_memOk h _))
theorem storeScalar_gives {s : State} (h : s.MemOk) (d : BitVec 5) (a : Word) (z : Nat) : Gives State.MemOk (storeScalar s d a z) :=
  .bind (resolve_gives h ..) fun ⟨_, _⟩ h1 => .any fun _ => storeSegs_gives (winDraws_memOk h1 ..) ..
theorem loadPieces_gives {s : State} (h : s.MemOk) (d : BitVec 5) (a : Word) (al n : Nat) (named : List Nat) (sync : Bool) (size : Chk Unit)
    (old : Nat) (ps : List (Nat × Nat × Nat)) : Gives State.MemOk (loadPieces s d a al n named sync size old ps) := by
  unfold loadPieces
  refine .bind (resolveAll_gives h ..) fun ⟨s1, l⟩ h1 => .any fun _ => .guard ?_
  exact .bind (readSegs_gives _ _ (winDraws_memOk (memOk_ite (drainAll_memOk h1 _) h1) ..) _) fun ⟨g, s4⟩ h4 =>
    .pure (memOk_of_mem h4 (vectorGot_mem ..))
theorem storePieces_gives {s : State} (h : s.MemOk) (d : BitVec 5) (al n : Nat) (named : List Nat) (size : Chk Unit) (ps : List (Nat × Nat × Nat)) :
    Gives State.MemOk (storePieces s d al n named size ps) :=
  .bind (resolveAll_gives h ..) fun ⟨_, _⟩ h1 => .any fun _ => storeSegs_gives (winDraws_memOk h1 ..) ..
theorem fullSegs_gives {s : State} (h : s.MemOk) (a : Word) (al x : Nat) (ps : List (Nat × Nat × Nat)) :
    Gives State.MemOk (fullSegs s a al x ps) := by
  refine .bind (resolveAll_gives h ..) fun ⟨s1, l⟩ h1 => ?_
  dsimp only
  split
  · exact gives_raise
  · exact .any fun _ => storeSegs_gives h1 ..
theorem broadcastLoad_gives {s : State} (h : s.MemOk) (d : BitVec 5) (a : Word) (e : ESz) (p : Pred) :
    Gives State.MemOk (broadcastLoad s d a e p) := by
  refine .bind (resolve_gives h ..) fun ⟨s1, t⟩ h1 => .any fun _ => ?_
  refine .bind (readSegs_gives _ _ (winDraws_memOk h1 ..) _) fun ⟨g, s3⟩ h3 => ?_
  dsimp only
  split
  · exact .pure (memOk_of_mem h3 (vectorGot_mem ..))
  · exact .pure (memOk_of_mem h3 (vectorGot_mem ..))
theorem emptyWords_gives {s : State} (h : s.MemOk) (a : Word) (n : Nat) : Gives State.MemOk (emptyWords s a n) := by
  refine .ite (gives_ok.2 h) (.bind (resolve_gives h ..) fun ⟨s1, t⟩ h1 => .any fun _ => ?_)
  split
  · exact gives_raise
  · exact .pure (pushStore_memOk h1 _)
theorem loadHome_memOk {s : State} (h : s.MemOk) (r : Route) (k n : Nat) : (loadHome s r k n).2.MemOk := by
  unfold loadHome
  split
  · exact loadPlace_memOk h ..
  · split
    · exact readPlace_memOk (flushSpan_memOk h ..) ..
    · exact readPlace_memOk h ..
theorem acquire_setS_memOk {s : State} (h : s.MemOk) (d : BitVec 5) (x : Word) (n : Nat) (sc : Scope) : (acquire (s.setS d x) n sc).MemOk :=
  acquire_memOk (s := s.setS d x) h ..
theorem loadAcquire_gives {s : State} (h : s.MemOk) (d : BitVec 5) (a : Word) (z : Nat) (sc : Scope) :
    Gives State.MemOk (loadAcquire s d a z sc) := by
  refine .bind (resolve_gives h ..) fun ⟨s1, t⟩ h1 => .any fun _ => .ite ?_ ?_
  · exact .bind (sendAccess_gives (drainAll_memOk h1 _) ..) fun _ h => .pure (memOk_of_mem h (awaitReply_mem ..))
  · extract_lets s2
    have h2 : s2.MemOk := by
      unfold s2; split
      · exact memOk_ite (flushSpan_memOk h1 ..) h1
      · exact h1
    clear_value s2
    split
    · exact gives_error
    · exact .pure (memOk_of_mem h2 (addLater_mem ..))
    · have h3 : (if sc.wide then loadHome s2 (tgtRoute s1 t) (tgtKey s1 t) z else loadPlace s2 (tgtRoute s1 t) (tgtKey s1 t) z).2.MemOk := by
        split
        · exact loadHome_memOk h2 ..
        · exact loadPlace_memOk h2 ..
      exact .pure (acquire_setS_memOk h3 ..)
theorem releaseChk_gives {s : State} (h : s.MemOk) (sc : Scope) : Gives State.MemOk (releaseChk s sc) :=
  .ite gives_error (.ite gives_error (gives_ok.2 (release_memOk h ..)))
theorem storeRelease_gives {s : State} (h : s.MemOk) (d : BitVec 5) (a : Word) (z : Nat) (sc : Scope) :
    Gives State.MemOk (storeRelease s d a z sc) := by
  refine .bind (resolve_gives h ..) fun ⟨s1, t⟩ h1 => .any fun _ => .ite ?_ (storeSegs_gives h1 ..)
  refine .bind (releaseChk_gives h1 sc) fun s2 h2 => ?_
  dsimp only
  split
  · exact .pure (modM_memOk (Mem.put_wf _ _ _ _ (l3Touch_memOk (flushSpan_memOk h2 ..) ..)))
  · exact storeSegs_gives h2 ..
theorem atomicAt_memOk {s : State} (h : s.MemOk) (r : Route) (k z : Nat) (op : AOp) (t : ATy) (x : Nat) : (atomicAt s r k z op t x).2.MemOk := by
  unfold atomicAt
  split
  · exact l2Write_memOk (l2Read_memOk h ..) ..
  · exact modM_memOk (Mem.put_wf _ _ _ _ (l3Touch_memOk h ..))
  · exact modM_memOk (Mem.put_wf _ _ _ _ h)
theorem applied_memOk {s : State} (h : s.MemOk) (x : Word) : (applied s x).MemOk := memOk_of_mem h (applied_mem ..)
theorem atomicLocal_gives {s : State} (h : s.MemOk) (d : BitVec 5) (r : Route) (k : Nat) (sc : Scope) (op : AOp) (t : ATy) (x : Nat) :
    Gives State.MemOk (atomicLocal s d r k sc op t x) := by
  unfold atomicLocal
  extract_lets home s1
  have h1 : s1.MemOk := by
    unfold s1; split
    · exact memOk_ite (flushSpan_memOk h ..) h
    · exact h
  clear_value s1
  split
  · exact .ite (gives_ok.2 (memOk_of_mem h1 (addLater_mem ..))) gives_error
  · have h2 := acquire_setS_memOk (atomicAt_memOk h1 (if home then homeRoute r else r) k t.bytes op t x) d
      (atomicOld op t (atomicAt s1 (if home then homeRoute r else r) k t.bytes op t x).1) s.cur sc
    exact gives_ok.2 (memOk_ite (applied_memOk h2 _) h2)
theorem atomicOp_gives {s : State} (h : s.MemOk) (d : BitVec 5) (a : Word) (sc : Scope) (op : AOp) (t : ATy) (x : Word) :
    Gives State.MemOk (atomicOp s d a sc op t x) := by
  refine .bind (place_gives h ..) fun ⟨s1, g⟩ h1 => .any fun _ => .any fun _ => .any fun us => .bind (releaseChk_gives h1 _) fun s2 h2 => ?_
  have h3 := trailAll_memOk h2 us
  dsimp only
  split
  · exact .bind (sendAccess_gives h3 ..) fun _ h => .pure (memOk_of_mem h (awaitReply_mem ..))
  · exact atomicLocal_gives h3 ..
theorem fillLine_memOk {s : State} (h : s.MemOk) (die own line : Nat) : (fillLine s die own line).MemOk :=
  memOk_foldl _ (fun _ _ h => l2Fill_memOk h ..) _ h
theorem pinLine_memOk {s t : State} (h : s.MemOk) {l3 : Bool} {die own line : Nat} (e : pinLine s l3 die own line = some t) : t.MemOk := by
  unfold pinLine at e; dsimp only at e
  split at e
  · cases e; exact h
  · split at e
    · cases e
      exact modM_memOk_of_cells (memOk_ite (l3Fill_memOk h ..) (fillLine_memOk h ..)) fun _ => rfl
    · cases e
theorem pinRun_memOk (l3 : Bool) (die own n line : Nat) {s : State} (h : s.MemOk) : (pinRun l3 die own n line s).2.2.MemOk := by
  induction n generalizing line s with
  | zero => exact h
  | succ n ih =>
    unfold pinRun
    split
    · exact h
    · next e => exact ih _ (pinLine_memOk h e)
theorem blockRoutes_gives (l : List (Nat × Nat)) {s : State} (h : s.MemOk) : Gives (fun r => r.1.MemOk) (blockRoutes s l) := by
  induction l generalizing s with
  | nil => exact gives_ok.2 h
  | cons x l ih => exact .bind (resolve_gives h ..) fun ⟨_, _⟩ h1 => .bind (ih h1) fun ⟨_, _⟩ h2 => .pure h2
theorem pinBlocks_memOk (l3 : Bool) (die : Nat) (l : List (Route × Nat × Nat)) {s : State} (h : s.MemOk) : (pinBlocks l3 die l s).2.MemOk := by
  induction l generalizing s with
  | nil => exact h
  | cons x l ih =>
    obtain ⟨rt, ma, n⟩ := x
    unfold pinBlocks
    have h1 := pinRun_memOk l3 die (routeOwn rt) n (ma / 128) h
    split
    · split
      · next e => rw [e] at h1; exact h1
      · next e => rw [e] at h1; exact ih h1
    · exact h
theorem pinRange_gives {s : State} (h : s.MemOk) (a : Word) (n : Nat) (l3 : Bool) : Gives (fun r => r.2.MemOk) (pinRange s a n l3) :=
  .any fun _ => .bind (blockRoutes_gives _ h) fun ⟨_, _⟩ h1 => .pure (pinBlocks_memOk _ _ _ h1)
theorem unpinRange_gives {s : State} (h : s.MemOk) (a : Word) (n : Nat) (l3 : Bool) : Gives State.MemOk (unpinRange s a n l3) :=
  .any fun _ => .bind (blockRoutes_gives _ h) fun ⟨_, _⟩ h1 => .pure (modM_memOk_of_cells h1 fun _ => rfl)
theorem flushBlocks_memOk (inv : Bool) (die : Nat) (l : List (Route × Nat × Nat)) {s : State} (h : s.MemOk) : (flushBlocks inv die l s).MemOk := by
  induction l generalizing s with
  | nil => exact h
  | cons x l ih =>
    unfold flushBlocks
    split
    · next e => cases e
    · next e =>
      cases e
      exact ih (memOk_ite (flushSpan_memOk h ..) (writeBackIf_memOk _ h _))
    · next e => cases e; exact ih h
theorem flushRange_gives {s : State} (h : s.MemOk) (a : Word) (n : Nat) (inv : Bool) : Gives State.MemOk (flushRange s a n inv) :=
  .any fun _ => .bind (blockRoutes_gives _ h) fun ⟨_, _⟩ h1 => .pure (flushBlocks_memOk _ _ _ (drainAll_memOk h1 _))

end Sys2Proof.Machine
end


section
/-! The places, reads and writes of the engines and of the fetch keep the canonical form. -/
namespace Sys2Proof.Machine
open Sys2Proof

theorem engPlace_gives {s : State} (h : s.MemOk) (clu part a n : Nat) (need : Need) : Gives (fun r => r.1.MemOk) (engPlace s clu part a n need) :=
  .ite (.any fun _ => .pure h) (.any fun _ => .bind (translate_gives h ..) fun ⟨_, _, _⟩ h1 => .any fun _ => .any fun _ => .pure h1)
theorem engPlaces_gives (clu part : Nat) (need : Need) (l : List (Nat × Nat)) {s : State} (h : s.MemOk) :
    Gives (fun r => r.1.MemOk) (engPlaces clu part need l s) := by
  induction l generalizing s with
  | nil => exact gives_ok.2 h
  | cons x l ih => exact .bind (engPlace_gives h ..) fun ⟨_, _, _⟩ h1 => .bind (ih h1) fun ⟨_, _⟩ h2 => .pure h2
theorem engRead_gives (die : Nat) (l : List (Route × Nat × Nat)) {s : State} (h : s.MemOk) : Gives (fun r => r.2.MemOk) (engRead die l s) := by
  induction l generalizing s with
  | nil => exact gives_ok.2 h
  | cons x l ih =>
    obtain ⟨rt, k, n⟩ := x
    unfold engRead
    dsimp only
    split
    · exact .any fun _ => .bind (ih (readPlace_memOk h ..)) fun ⟨_, _⟩ h2 => .pure h2
    · exact .bind (ih (readPlace_memOk h ..)) fun ⟨_, _⟩ h2 => .pure h2
theorem putFull_memOk {s : State} (h : s.MemOk) (k n v : Nat) : (putFull s k n v).MemOk :=
  modM_memOk (s := s) ((Mem.setFull_wf ..).trans (Mem.put_wf _ _ _ _ h))
theorem modM_put_memOk {s : State} (h : s.MemOk) (k n v : Nat) : (s.modM (·.put k n v)).MemOk := modM_memOk (s := s) (Mem.put_wf _ _ _ _ h)
theorem engPut_memOk {s : State} (h : s.MemOk) (die : Nat) (rt : Route) (k off n v : Nat) : (engPut s die rt k off n v).MemOk := by
  unfold engPut
  split
  · exact l2Write_memOk h ..
  · exact modM_put_memOk (l3Touch_memOk h ..) ..
  · exact modM_put_memOk h ..
theorem writeBits_memOk {s : State} (h : s.MemOk) (die : Nat) (bs : List Bit) : (writeBits die bs s).MemOk :=
  memOk_foldl _ (fun _ _ h => engPut_memOk h ..) _ h
theorem writeSector_memOk {s : State} (h : s.MemOk) (die : Nat) (bs : List Bit) (k : Nat) : (writeSector die bs s k).MemOk := by
  unfold writeSector; dsimp only
  split
  · next e => exact writeBits_memOk (memOk_of_mem h ((congrArg (fun p => p.2.mem) e).symm.trans (choose_mem ..))) ..
  · next e => exact memOk_of_mem h ((congrArg (fun p => p.2.mem) e).symm.trans (choose_mem ..))
theorem writeRows_memOk {s : State} (h : s.MemOk) (die : Nat) (bs : List Bit) : (writeRows die bs s).MemOk :=
  memOk_ite (writeBits_memOk h ..) (memOk_foldl _ (fun _ _ h => writeSector_memOk h ..) _ h)
theorem fullSpans_memOk {s : State} (h : s.MemOk) (ks bad : List (Nat × Nat)) : (fullSpans ks bad s).MemOk :=
  modM_memOk_of_cells h fun _ => rfl
theorem startCopy_memOk {s : State} (h : s.MemOk) (x : BitVec 4) (sc : Scope) (ps : List Piece) (value : Nat) (ss : Bool) :
    (startCopy s x sc ps value ss).MemOk := by
  unfold startCopy addOp; dsimp only
  exact memOk_of_mem (drainAll_memOk h (thCore s.cur)) (by rw [State.after_mem, State.setH_mem, State.modSch_mem])
theorem acceptJob_memOk {s : State} (h : s.MemOk) (clu who op : Nat) (what : MxOp) (part : Nat) : (acceptJob s clu who op what part).MemOk := by
  unfold acceptJob; dsimp only
  refine memOk_of_mem (modM_memOk_of_cells (f := fun m => { m with poison := m.poison.filter (fun u => u.1 != jobKey clu (freeIdx (s.clu clu))) }) h
    fun _ => rfl) ?_
  rw [mem_ite, State.afterEff_mem, ite_self, State.setClu_mem]
theorem queueJob_gives {s : State} (h : s.MemOk) (x : BitVec 4) (what : MxOp) : Gives State.MemOk (queueJob s x what) := by
  unfold queueJob addOp; dsimp only
  split
  · exact gives_error
  · exact gives_ok.2 (acceptJob_memOk (memOk_of_mem (drainAll_memOk h (thCore s.cur)) (by rw [State.setH_mem, State.modSch_mem])) ..)
theorem codeAt_memOk {s : State} (h : s.MemOk) (die : Nat) (r : Route) (k : Nat) : (codeAt s die r k).2.MemOk := by
  unfold codeAt
  split
  · split
    · exact h
    · exact readPlace_memOk h ..
  · exact readPlace_memOk h ..
theorem fetchPlace_gives {s : State} (h : s.MemOk) (a : Nat) : Gives (fun r => r.1.MemOk) (fetchPlace s a) :=
  .any fun _ => .any fun _ => .any fun ⟨_, _⟩ => .any fun _ => .any fun _ => .any fun _ => .pure (tlbEnter_memOk h ..)
theorem fetchBits_gives {s : State} (h : s.MemOk) (pc : Word) : Gives (fun r => r.2.MemOk) (fetchBits s pc) := by
  refine .bind (fetchPlace_gives h _) fun ⟨s1, t⟩ h1 => ?_
  dsimp only
  split
  · exact gives_raise
  · exact .bind (sendAccess_gives h1 ..) fun _ h2 => .pure (codeAt_memOk h2 ..)
theorem repIssue_gives {s : State} (h : s.MemOk) (creg : BitVec 5) (cnt : BitVec 6) (o d a b : Bool) :
    Gives State.MemOk (repIssue s creg cnt o d a b) := by
  refine .any fun _ => .bind (fetchBits_gives h _) fun ⟨v, s1⟩ h1 => ?_
  dsimp only
  split
  · exact gives_error
  · exact .any fun _ => .any fun _ => .pure (memOk_of_mem h1 (State.modI_mem ..))

end Sys2Proof.Machine
end


section
/-! Suspension, search and the issue of a bundle keep the canonical form. -/
namespace Sys2Proof.Machine
open Sys2Proof

theorem fillL1_memOk {s : State} (h : s.MemOk) (core own line : Nat) : (fillL1 s core own line).MemOk :=
  memOk_foldl _ (fun _ _ h => l1Fill_memOk h ..) _ h
theorem prefetchLine_memOk {s : State} (h : s.MemOk) (a : Word) (lvl : Lvl) : (prefetchLine s a lvl).MemOk := by
  unfold prefetchLine
  split
  · exact h
  · split
    · exact h
    · next s1 t e =>
      have h1 : s1.MemOk := resolve_memOk (r := (s1, t)) h e
      split
      · exact fillL1_memOk h1 ..
      · exact fillLine_memOk h1 ..
      · exact l3Fill_memOk h1 ..
      · exact h
theorem performSent_memOk {s : State} (h : s.MemOk) (r : Reply) : (performSent s r).MemOk := by
  unfold performSent
  split
  · exact memOk_ite h (atomicAt_memOk h ..)
  · exact h
theorem dropReplies_memOk {s : State} (h : s.MemOk) : (dropReplies s).MemOk := by
  unfold dropReplies; dsimp only
  exact memOk_of_mem (memOk_foldl _ (fun _ r h => performSent_memOk h r) s.thr.i.replies h) ((State.after_mem ..).trans (State.modI_mem ..))
theorem dropHeld_memOk {s : State} (h : s.MemOk) : (dropHeld s).MemOk := by
  unfold dropHeld
  split
  · exact h
  · exact freeThread_memOk (memOk_of_mem (dropReplies_memOk (drainAll_memOk h _)) (recordEnds_mem ..)) _
theorem endThread_memOk {s : State} (h : s.MemOk) : (endThread s).MemOk := by
  have h1 := drainAll_memOk h (thCore s.cur)
  unfold endThread; dsimp only
  split
  · exact freeThread_memOk h1 _
  · exact dropHeld_memOk (memOk_ite (memOk_of_mem h1 (leaveBars_mem ..)) (memOk_ite h1 (memOk_of_mem h1 (addSample_mem ..))))
theorem testHandle_gives {s : State} (h : s.MemOk) (d : BitVec 5) (x : BitVec 4) : Gives State.MemOk (testHandle s d x) := by
  unfold testHandle; dsimp only
  split
  · exact gives_ok.2 h
  · exact gives_ok.2 h
  · exact gives_raise
  · refine gives_ok.2 (memOk_of_mem ?_ (State.setS_mem ..))
    split
    · exact acquire_memOk h ..
    · exact h
theorem liveMap_gives {s : State} (h : s.MemOk) (idx : Nat) : Gives (fun r => r.2.MemOk) (liveMap s idx) := ⟨fun _ e => liveMap_memOk h e⟩
theorem withMap_nextOk {s : State} (h : s.MemOk) (idx : Nat) {k : Nat → State → Host.Outcome State Fault Refusal}
    (hk : ∀ v t, t.MemOk → NextOk (k v t)) : NextOk (withMap s idx k) := by
  unfold withMap
  split
  · next e => exact hk _ _ ((liveMap_gives h idx).of_ok _ e)
  · split
    · exact finish_nextOk h gives_error
    · exact nextOk_next.2 (parkCore_memOk h ..)
  · exact nextOk_next.2 (block_memOk h _)
theorem suspendIf_nextOk {s : State} (h : s.MemOk) (idx : Nat) (go wait : Bool) : NextOk (suspendIf s idx go wait) := by
  refine withMap_nextOk h idx fun v s1 h1 => ?_
  split
  · exact nextOk_next.2 h1
  · split
    · exact finish_nextOk h gives_error
    · exact suspend_nextOk h1 ⟨fun _ e => writeBack_memOk h1 e⟩
theorem undoGo_wf (trail base lo k : Nat) {m : Mem} (h : m.wf = true) : (undoGo trail base lo k m).wf = true := by
  induction k generalizing m with
  | zero => exact h
  | succ k ih => exact ih (Mem.put_wf _ _ _ _ h)
theorem undoTo_memOk {s : State} (h : s.MemOk) (lo : Nat) : (undoTo s lo).MemOk :=
  memOk_of_mem (modM_memOk (s := s) (undoGo_wf _ _ _ _ h)) (State.modQ_mem ..)
theorem entryOf_gives {s : State} (h : s.MemOk) (table i : Nat) : Gives (fun r => r.2.MemOk) (entryOf s table i) := by
  refine .bind (resolve_gives h ..) fun ⟨s1, t⟩ h1 => ?_
  dsimp only
  split
  · exact gives_error
  · refine .ite (.bind (readFar_gives h1 ..) ?_) (.bind (p := fun r => r.2.MemOk) (.pure (loadPlace_memOk h1 ..)) ?_)
    all_goals
      rintro ⟨v, s2⟩ h2
      dsimp only
      split
      · exact .pure h2
      · exact .any fun _ => .pure (winDraws_memOk h2 ..)
theorem pushFrame_gives {s : State} (h : s.MemOk) (v table n : Nat) (e : Word) : Gives State.MemOk (pushFrame s v table n e) := by
  have h1 := modM_put_memOk (drainAll_memOk h (thCore s.cur))
  unfold pushFrame; dsimp only
  split
  · exact gives_error
  · exact .any fun _ => .any fun _ => .pure (memOk_of_mem (setSearch_memOk (h1 ..) _) (wakeScans_mem _))
theorem backInto_memOk {s : State} (h : s.MemOk) (f : Nat) : (backInto s f).MemOk :=
  memOk_of_mem (undoTo_memOk h (fTrtop f)) ((State.modI_mem ..).trans (State.modR_mem ..))
theorem failGo_memOk (l : List (Nat × Nat)) {s : State} (h : s.MemOk) : (failGo l s).1.MemOk ∧ Gives State.MemOk (failGo l s).2 := by
  induction l generalizing s with
  | nil =>
    have h1 := setSearch_memOk h { s.thr.q with depth := 0 }
    exact ⟨h1, gives_ok.2 (memOk_of_mem h1 ((State.after_mem ..).trans (block_mem ..)))⟩
  | cons x l ih =>
    obtain ⟨off, f⟩ := x
    have h1 := backInto_memOk h f
    unfold failGo; dsimp only
    split
    · have h2 := writeHeader_memOk h1
      split
      · exact ⟨h2, gives_error⟩
      · next e =>
        have h3 := modM_put_memOk ((entryOf_gives h2 ..).of_ok _ e)
        exact ⟨memOk_of_mem (h3 ..) (State.modY_mem ..), gives_ok.2 (memOk_of_mem (h3 ..) ((State.setNext_mem ..).trans (State.modY_mem ..)))⟩
    · exact ih (setSearch_memOk h1 _)
theorem cutTo_memOk {s : State} (h : s.MemOk) (d : Nat) : (cutTo s d).MemOk :=
  setSearch_memOk (memOk_of_mem h (cancelOwn_mem ..)) _
theorem cancelRest_memOk {s : State} (h : s.MemOk) (die : Nat) (r : Rec) : (cancelRest s die r).MemOk :=
  memOk_ite (memOk_of_mem h (cancelFrames_mem ..)) h
theorem stopHere_memOk {s : State} (h : s.MemOk) : (stopHere s).MemOk := by
  unfold stopHere
  split
  · exact h
  · exact dropHeld_memOk (memOk_ite (memOk_of_mem h (cancelStolen_mem _)) h)
theorem deferBoth_memOk {s : State} (h : s.MemOk) (s0 : State) (b : Bundle) : (deferBoth s0 s b).MemOk :=
  cleanRegs_memOk (s := { s with thr := supersedeBoth s0 b (arithDefer s0 b.lead b.arith (leadDefer s0 b.lead s.thr)) }) h ..
theorem afterBundle_memOk {s : State} (h : s.MemOk) (e wait : Nat) : (afterBundle e wait s).MemOk := by
  unfold afterBundle; dsimp only
  split
  · exact h
  · split
    · exact h
    · split
      · exact h
      · split
        · exact stopHere_memOk (s := { s.setCore _ _ with thr := _ }) h
        · split
          · exact bindOther_memOk (s := { s.setCore _ _ with thr := _ }) h _
          · exact h
theorem takeLate_memOk {s0 s1 : State} (h0 : s0.MemOk) (h1 : s1.MemOk) : (takeLate s0 s1).MemOk := by
  unfold takeLate
  split
  · exact h1
  · exact memOk_ite h1 (block_memOk (memOk_ite (memOk_of_mem h0 (State.modRcd_mem ..)) h0) _)
theorem atIssue_memOk {s : State} (h : s.MemOk) : (atIssue s).MemOk := memOk_of_mem h (atIssue_mem _)
theorem heldBack_memOk {s t : State} (h : s.MemOk) {b : Bundle} (e : heldBack s b = some t) : t.MemOk := by
  unfold heldBack at e
  split at e
  · split at e
    · cases e; exact memOk_of_mem h (stall_mem ..)
    · cases e
  · split at e
    · cases e; exact memOk_of_mem h (State.modI_mem ..)
    · cases e
theorem execReservedCodeDecode_nextOk {s : State} (h : s.MemOk) (e : DecodeErr) (b : BitVec 64) : NextOk (execReservedCodeDecode e b s) :=
  finish_nextOk h gives_error

section
variable {ex : Exec} (hex : ∀ i s, s.MemOk → NextOk (ex i s))
include hex

theorem runBundle_nextOk {s : State} (h : s.MemOk) (b : Bundle) : NextOk (runBundle ex s b) := by
  have hl := hex b.lead s h
  unfold runBundle
  split
  · next s1 e =>
    have h1 := hl.memOk s1 e
    split
    · exact nextOk_next.2 h1
    · have ha : ∀ s0 : State, s0.mem = s.mem → NextOk (ex b.arith s0) := fun s0 e => hex _ _ (memOk_of_mem h e)
      have ha0 := ha (if suspends b.lead then s else s.setGen s1.gen) (by split <;> rfl)
      split
      · next sA eA =>
        have hA := ha0.memOk sA eA
        split
        · exact ha s rfl
        · split
          · have h2 := hex b.lead (arithFirst s sA b.arith) (memOk_of_mem hA (arithFirst_mem ..))
            split
            · next e2 => exact nextOk_next.2 (memOk_ite (memOk_of_mem (h2.memOk _ e2) rfl) (h2.memOk _ e2))
            · exact h2
          · exact nextOk_next.2 (deferBoth_memOk (memOk_of_mem h1 (mergeArith_mem ..)) ..)
      · exact ha0
  · exact hl
theorem issueBundle_nextOk {s : State} (h : s.MemOk) (b : Bundle) : NextOk (issueBundle ex s b) := by
  unfold issueBundle
  split
  · exact finish_nextOk h gives_raise
  · split
    · exact nextOk_next.2 (block_memOk h _)
    · split
      · exact nextOk_next.2 (block_memOk h _)
      · split
        · exact finish_nextOk h gives_error
        · split
          · exact finish_nextOk h gives_raise
          · exact runBundle_nextOk hex h b
end

/-- What follows a bundle keeps what the bundle kept. -/
theorem nextOk_map {o : Host.Outcome State Fault Refusal} {f : State → State} (h : NextOk o) (hf : ∀ t, t.MemOk → (f t).MemOk) :
    NextOk (match o with | .next x => .next (f x) | o => o) := by
  cases o with
  | next t => exact nextOk_next.2 (hf t (nextOk_next.1 h))
  | fault r => exact nextOk_fault
  | refused r => exact nextOk_refused
theorem issue_nextOk {ex : Exec} (hex : ∀ i s, s.MemOk → NextOk (ex i s)) {s : State} (h : s.MemOk) : NextOk (issue ex s) := by
  have h0 := atIssue_memOk h
  have after (e wait : Nat) : ∀ t, t.MemOk → (afterBundle e wait (takeLate (atIssue s) t)).MemOk :=
    fun _ ht => afterBundle_memOk (takeLate_memOk h0 ht) ..
  unfold issue; dsimp only
  split
  · exact nextOk_map (nextOk_next.2 (memOk_ite (block_memOk h0 _) (takeCondition_memOk (memOk_of_mem h0 (State.modRcd_mem ..)) ..))) (after _ _)
  · have hb := fetchBits_gives h0 (atIssue s).thr.pc
    split
    · exact nextOk_map (finish_nextOk h0 gives_error) (after _ _)
    · next v s1 e =>
      have h1 : s1.MemOk := hb.of_ok _ e
      split
      · exact nextOk_map (execReservedCodeDecode_nextOk h1 ..) (after _ _)
      · split
        · exact nextOk_map (finish_nextOk h1 gives_error) (after _ _)
        · split
          · next e => exact nextOk_next.2 (heldBack_memOk h1 e)
          · exact nextOk_map (issueBundle_nextOk hex h1 _) (after _ _)

end Sys2Proof.Machine
end


section
/-! The engines keep the canonical form: copies, matrix jobs, remote commands and messages. -/
namespace Sys2Proof.Machine
open Sys2Proof

theorem asThread_memOk {s : State} (h : s.MemOk) (n : Nat) {f : State → State} (hf : ∀ x, x.MemOk → (f x).MemOk) : (asThread s n f).MemOk :=
  memOk_of_mem (hf _ (memOk_of_mem h (State.focus_mem ..))) (asThread_mem ..)
theorem doneNow_memOk {s : State} (h : s.MemOk) (x : BitVec 4) (sc : Scope) : (doneNow s x sc).MemOk := memOk_of_mem h (doneNow_mem ..)
theorem copyIssue_gives {s : State} (h : s.MemOk) (x : BitVec 4) (dst src : Word) (n : Nat) (fl : Option CopyFlags) :
    Gives State.MemOk (copyIssue s x dst src n fl) :=
  .any fun _ => .bind (useHandle_gives h _) fun _ h1 => .any fun _ => .any fun _ => .ite (.pure (doneNow_memOk h1 ..)) (.pure (startCopy_memOk h1 ..))
theorem copy2Issue_gives {s : State} (h : s.MemOk) (x : BitVec 4) (dst src : Word) (k : BitVec 5) (fl : Option CopyFlags) :
    Gives State.MemOk (copy2Issue s x dst src k fl) :=
  .any fun _ => .any fun _ => .bind (useHandle_gives h _) fun _ h1 => .any fun _ => .pure (startCopy_memOk h1 ..)
theorem copymIssue_gives {s : State} (h : s.MemOk) (x : BitVec 4) (off src c : Word) (fl : Option CopyFlags) :
    Gives State.MemOk (copymIssue s x off src c fl) := by
  refine .any fun _ => .bind (useHandle_gives h _) fun s1 h1 => .any fun _ => .any fun _ => ?_
  split
  · exact gives_raise
  · split
    · exact gives_raise
    · exact .any fun _ => .ite (.pure (doneNow_memOk h1 ..)) (.pure (startCopy_memOk h1 ..))
theorem rdIssue_gives {s : State} (h : s.MemOk) (x : BitVec 4) (a : Word) (t c : Nat) : Gives State.MemOk (rdIssue s x a t c) := by
  refine .bind (useHandle_gives h _) fun s1 h1 => .any fun _ => .any fun _ => .any fun _ => .any fun _ => .any fun _ => .any fun _ => .any fun _ =>
    .any fun _ => ?_
  split
  next ds s2 e =>
  have h2 : s2.MemOk := by
    have hd : ((ds, s2) : Nat × State).2.mem = s1.mem := by
      rw [← e]
      split
      · split
        · exact State.draws_mem ..
        · rfl
      · rfl
    exact memOk_of_mem h1 hd
  exact queueJob_gives h2 ..
theorem cmdIssue_gives {s : State} (h : s.MemOk) (x : BitVec 4) (a b : Word) (cap : BitVec 32) : Gives State.MemOk (cmdIssue s x a b cap) := by
  refine .bind (useHandle_gives h _) fun s1 h1 => .any fun _ => .any fun _ => .any fun _ => .any fun _ => .any fun _ => ?_
  unfold addOp; dsimp only
  split
  · exact gives_raise
  · exact .any fun _ => .pure (memOk_of_mem (drainAll_memOk h1 (thCore s.cur))
      (by rw [State.after_mem, State.setH_mem, State.modSch_mem, touchDie_mem]))
theorem msgIssue_gives {s : State} (h : s.MemOk) (x : BitVec 4) (a b c : Word) (tag : Nat) : Gives State.MemOk (msgIssue s x a b c tag) := by
  refine .bind (useHandle_gives h _) fun s1 h1 => .any fun _ => .any fun _ => .any fun _ => .any fun _ => .guard (.guard (.guard ?_))
  refine .bind (releaseChk_gives h1 _) fun s2 h2 => .any fun _ => ?_
  unfold addOp; dsimp only
  exact .pure (memOk_of_mem h2 (by rw [State.after_mem, State.setH_mem, State.modSch_mem, mem_ite, touchDie_mem, ite_self]))
theorem recvTake_gives {s : State} (h : s.MemOk) (d : BitVec 5) (a : Word) : Gives State.MemOk (recvTake s d a) := by
  refine .any fun _ => .any fun _ => ?_
  split
  · exact gives_error
  · exact .any fun _ => .pure (memOk_of_mem (acquire_memOk (s := { putFull (drainAll s (thCore s.cur)) _ _ _ with thr := _ })
      (putFull_memOk (drainAll_memOk h _) ..) s.cur .mod) ((retryMsgs_mem ..).trans (State.setS_mem ..)))

theorem sideOf_ne_ready {side : Side} {e : Stop} {s : State} {ds : List Places} {v : Nat} {c : Option Cond} : sideOf side e ≠ .ready s ds v c := by
  cases e <;> simp [sideOf]
theorem touchRecord_memOk {s : State} (h : s.MemOk) (rid : Nat) (ks : List Nat) : (touchRecord s rid ks).MemOk := memOk_of_mem h (touchRecord_mem ..)
theorem readPiece_memOk {s t : State} (h : s.MemOk) {o : Op} {p : Piece} {ds : List Places} {v : Nat} {c : Option Cond}
    (e : readPiece s o p = .ready t ds v c) : t.MemOk := by
  unfold readPiece at e; dsimp only at e
  split at e
  · exact absurd e sideOf_ne_ready
  · next s1 ls e1 =>
    have h1 : s1.MemOk := (engPlaces_gives _ _ _ _ h).of_ok _ e1
    split at e
    · exact absurd e sideOf_ne_ready
    · next w s2 e2 =>
      have h2 : s2.MemOk := (engRead_gives _ _ h1).of_ok _ e2
      split at e
      · cases e; exact touchRecord_memOk h2 ..
      · split at e
        · exact absurd e sideOf_ne_ready
        · next s4 ld e4 =>
          cases e
          exact touchRecord_memOk ((engPlaces_gives _ _ _ _ (touchRecord_memOk h2 ..)).of_ok _ e4) ..
theorem readBatch_memOk {o : Op} {cut : Bool} (l : List Piece) {b c : Batch} (h : b.s.MemOk) (e : readBatch o cut l b = some c) : c.s.MemOk := by
  induction l generalizing b with
  | nil => cases e; exact h
  | cons p r ih =>
    unfold readBatch at e
    split at e
    · cases e
    · refine ih ?_ e; exact h
    · next e1 => refine ih ?_ e; exact readPiece_memOk h e1
@[simp] theorem sendPiece_mem (s : State) (o : Op) (p : Piece) (dev : Nat) : (sendPiece s o p dev).mem = s.mem := owe_mem ..
theorem pieceAway_mem {s t : State} {o : Op} {p q : Piece} (e : pieceAway s o p = some (q, t)) : t.mem = s.mem := by
  unfold pieceAway at e
  split at e
  · cases e; exact sendPiece_mem ..
  · cases e
@[simp] theorem batchAway_mem (o : Op) (l : List Piece) (s : State) : (batchAway o l s).2.1.mem = s.mem := by
  induction l generalizing s with
  | nil => rfl
  | cons p r ih =>
    unfold batchAway
    split
    · next q s1 e =>
      refine (ih s1).trans ?_
      split at e
      · exact pieceAway_mem e
      · cases e
    · exact ih s
theorem doPieces_memOk {s : State} (h : s.MemOk) (o : Op) (ps : List Piece) (k : Nat) (g : List Piece) (value : Nat) (ss : Bool) (what : CopyFor) :
    (doPieces s o ps k g value ss what).MemOk := by
  unfold doPieces
  split
  · exact memOk_of_mem h (State.after_mem ..)
  · next b e =>
    have hb : b.s.MemOk := readBatch_memOk _ h e
    exact memOk_of_mem (fullSpans_memOk (writeRows_memOk hb (o.clu / 16) b.bits) b.full b.left) (setPieces_mem ..)
theorem execCopyPiece_nextOk {s : State} (h : s.MemOk) (op : Nat) (a : PieceAnswer) : NextOk (execCopyPiece op a s) := by
  unfold execCopyPiece
  split
  · split
    · split
      · exact .ite (nextOk_next.2 (memOk_of_mem h (setPieces_mem ..))) (nextOk_next.2 h)
      · dsimp only
        split
        · exact nextOk_next.2 h
        · refine .ite (nextOk_next.2 h) (.ite (nextOk_next.2 h) (.ite (nextOk_next.2 (memOk_of_mem h (State.after_mem ..))) (.ite ?_ ?_)))
          · exact nextOk_next.2 (memOk_of_mem h ((State.after_mem ..).trans ((State.modOp_mem ..).trans (batchAway_mem ..))))
          · exact nextOk_next.2 (doPieces_memOk h ..)
    · exact nextOk_next.2 h
  · exact nextOk_next.2 h

theorem macRows_memOk {s : State} (h : s.MemOk) (clu tile code r0 n : Nat) (rows cols : Array (List Nat)) :
    (macRows s clu tile code r0 n rows cols).MemOk := modM_put_memOk h ..
theorem product_gives {s : State} (h : s.MemOk) (clu idx aoff tile code : Nat) (mdm : Option Nat) :
    Gives State.MemOk (product s clu idx aoff tile code mdm) := by
  refine .any fun _ => .any fun raw => .any fun m => .any fun _ => ?_
  dsimp only
  split
  · exact gives_error
  · exact .any fun _ => .pure (macRows_memOk h ..)
theorem groupRows_gives (clu tile code wb : Nat) (rows : Array (List Nat)) (l : List Nat) (g first : Nat) {s : State} (h : s.MemOk) :
    Gives State.MemOk (groupRows clu tile code wb rows l g first s) := by
  induction l generalizing g first s with
  | nil => exact gives_ok.2 h
  | cons c r ih => exact .ite (ih _ _ h) (.any fun _ => ih _ _ (macRows_memOk h ..))
theorem grouped_gives {s : State} (h : s.MemOk) (clu aoff tile code tab wb groups : Nat) :
    Gives State.MemOk (grouped s clu aoff tile code tab wb groups) := by
  refine .any fun _ => .any fun _ => ?_
  split
  · exact gives_error
  · exact .any fun _ => groupRows_gives _ _ _ _ _ _ _ _ h
theorem readOut_gives {s : State} (h : s.MemOk) (clu dst tile row cnt : Nat) (ctl : Word) (raw : Bool) (ds : Nat) :
    Gives State.MemOk (readOut s clu dst tile row cnt ctl raw ds) := by
  refine .any fun _ => ?_
  split
  · exact .any fun _ => .pure (putFull_memOk h ..)
  · exact .pure (putFull_memOk h ..)
theorem runJob_gives {s : State} (h : s.MemOk) (clu : Nat) (j : MxJob) : Gives (fun r => r.1.MemOk) (runJob s clu j) := by
  unfold runJob
  split
  · exact .any fun _ => .pure (memOk_of_mem (modM_put_memOk h (latchKey clu 0) 0x8000 _) (State.setClu_mem ..))
  · exact .bind (product_gives h ..) fun _ h => .pure h
  · exact .bind (product_gives h ..) fun _ h => .pure h
  · exact .bind (grouped_gives h ..) fun _ h => .pure h
  · exact .bind (readOut_gives h ..) fun _ h => .pure h
  · exact gives_ok.2 (modM_put_memOk h ..)
  · exact .any fun _ => .pure (modM_put_memOk h ..)
  · exact gives_ok.2 h
theorem endJob_memOk {s : State} (h : s.MemOk) (clu : Nat) (c : Option Cond) : (endJob s clu c).MemOk := by
  unfold endJob
  extract_lets q
  split
  · exact h
  · next j r _ =>
    extract_lets s1 c' s2 s3
    have h2 : s2.MemOk := by
      unfold s2
      split
      · exact memOk_of_mem (completeHandle_memOk (s := s1.dropOp j.op) h ..) (afterOp_mem ..)
      · exact h
    exact memOk_of_mem h2 (by rw [mem_ite, State.afterEff_mem, State.afterEff_mem, ite_self, retryCmds_mem])
theorem moveLatch_wf {m : Mem} (h : m.wf = true) (a b : Nat) : (moveLatch a b m).wf = true :=
  memWf_foldl _ (fun _ _ h => spoil_wf h ..) _ (Mem.put_wf _ _ _ _ (Mem.put_wf _ _ _ _ h))
theorem trySend_memOk {s : State} (h : s.MemOk) (clu : Nat) : (trySend s clu).MemOk := by
  unfold trySend
  extract_lets q
  split
  · split
    · extract_lets n s1 s2 s3 s4
      have h1 : s1.MemOk := modM_memOk (moveLatch_wf h ..)
      exact memOk_ite h (memOk_of_mem h1 (by
        rw [mem_ite, State.after_mem, ite_self, State.after_mem, State.setClu_mem, State.setClu_mem]))
    · exact h
  · exact h
theorem execMxeJobStart_nextOk {s : State} (h : s.MemOk) (clu : Nat) : NextOk (execMxeJobStart clu s) := by
  unfold execMxeJobStart; dsimp only
  split
  · exact nextOk_next.2 h
  · refine .ite (nextOk_next.2 h) (.ite (nextOk_next.2 (memOk_of_mem h (State.afterEff_mem ..)))
      (.ite (nextOk_next.2 (endJob_memOk h ..)) (.ite ?_ ?_)))
    · exact nextOk_next.2 (trySend_memOk (memOk_of_mem h (State.setClu_mem ..)) _)
    · split
      · next e => exact nextOk_next.2 (memOk_of_mem ((runJob_gives h ..).of_ok _ e) ((State.afterEff_mem ..).trans (State.setClu_mem ..)))
      · exact nextOk_next.2 (endJob_memOk h ..)
      · exact nextOk_next.2 h
theorem execMxeJobDone_nextOk {s : State} (h : s.MemOk) (clu : Nat) : NextOk (execMxeJobDone clu s) :=
  .ite (nextOk_next.2 h) (.ite (nextOk_next.2 (endJob_memOk h ..)) (.ite (nextOk_next.2 h) (nextOk_next.2 (memOk_of_mem h (State.afterEff_mem ..)))))
theorem execLatchArrive_nextOk {s : State} (h : s.MemOk) (clu : Nat) : NextOk (execLatchArrive clu s) := by
  unfold execLatchArrive; dsimp only
  split
  · refine .ite (nextOk_next.2 (memOk_of_mem ?_ (State.afterEff_mem ..))) (nextOk_next.2 h)
    exact memOk_foldl _ (fun _ c h => trySend_memOk h c) _
      (memOk_of_mem (modM_memOk (moveLatch_wf h (latchInKey clu 0) (latchKey clu 0))) (State.setClu_mem ..))
  · exact nextOk_next.2 h
theorem cmdRefused_memOk {s : State} (h : s.MemOk) (o : Op) (clu : Nat) (c : Cond) : (cmdRefused s o clu c).MemOk :=
  memOk_of_mem (completeHandle_memOk (s := (s.setClu clu _).dropOp o.id) h o.id o.rcd (.done 0 (some c) (some o.scope) false)) (retryCmds_mem ..)
theorem takeCmd_memOk {s : State} (h : s.MemOk) (o : Op) (clu : Nat) (cap : BitVec 32) (job : MxOp) : (takeCmd s o clu cap job).MemOk := by
  unfold takeCmd; dsimp only
  refine memOk_ite h (memOk_ite (memOk_of_mem h (State.after_mem ..)) ?_)
  split
  · exact cmdRefused_memOk h ..
  · exact h
  · next j _ =>
    exact memOk_of_mem (acceptJob_memOk (s := s.setClu clu { s.clu clu with waitingCmds := (s.clu clu).waitingCmds.tail }) h clu 8 o.id j
      (cap.toNat / 2 ^ 26)) (retryCmds_mem ..)
theorem execMxcmdAccept_nextOk {s : State} (h : s.MemOk) (id : Nat) : NextOk (execMxcmdAccept id s) := by
  unfold execMxcmdAccept; dsimp only
  split
  · split
    · exact .ite (nextOk_next.2 h) (.ite (nextOk_next.2 (cmdRefused_memOk h ..)) (.ite (nextOk_next.2 (takeCmd_memOk h ..))
        (.ite (nextOk_next.2 (cmdRefused_memOk h ..))
          (nextOk_next.2 (takeCmd_memOk (memOk_of_mem h ((State.setClu_mem ..).trans (State.modOp_mem ..))) ..)))))
    · exact nextOk_next.2 h
  · exact nextOk_next.2 h
theorem msgDone_memOk {s : State} (h : s.MemOk) (id rcd : Nat) (x : Handle) : (completeHandle (s.dropOp id) id rcd x).MemOk :=
  completeHandle_memOk (s := s.dropOp id) h ..
theorem execMsgDeliver_nextOk {s : State} (h : s.MemOk) (a : MsgArrival) : NextOk (execMsgDeliver a s) := by
  unfold execMsgDeliver; dsimp only
  split
  · split
    · refine .ite (nextOk_next.2 h) (.ite ?_ ?_)
      · split
        · exact nextOk_next.2 h
        · exact nextOk_next.2 (memOk_of_mem h (State.after_mem ..))
        · split
          · exact nextOk_next.2 (memOk_of_mem (msgDone_memOk (memOk_of_mem h (spend_mem ..)) ..) (retryTo_mem ..))
          · exact nextOk_next.2 (memOk_of_mem (msgDone_memOk (memOk_of_mem h (spend_mem ..)) ..) (retryTo_mem ..))
      · refine .ite ?_ (.ite ?_ (.ite (nextOk_next.2 h) ?_))
        · exact nextOk_next.2 (memOk_of_mem (msgDone_memOk h ..) (retryMsgs_mem ..))
        · exact nextOk_next.2 (memOk_of_mem (msgDone_memOk h ..) (retryMsgs_mem ..))
        · exact nextOk_next.2 (memOk_of_mem (msgDone_memOk (memOk_of_mem h (State.modT_mem ..)) ..) (retryMsgs_mem ..))
    · exact nextOk_next.2 h
  · exact nextOk_next.2 h

end Sys2Proof.Machine
end


section
/-! The dispensers, replies and barriers keep the canonical form. -/
namespace Sys2Proof.Machine
open Sys2Proof

theorem dropRest_memOk {s : State} (h : s.MemOk) (r : Rec) : (dropRest s r).MemOk := by
  have h1 := cancelRest_memOk h (restDie r) r
  have hf (x : State) (hx : x.MemOk) : (recordEnds (x.dropRec r.id) r).MemOk := memOk_of_mem hx (recordEnds_mem ..)
  unfold dropRest; dsimp only
  split
  · exact opens_memOk _ _ (hf _ h1)
  · exact memOk_of_mem (opens_memOk _ _ (hf _ h1)) (State.after_mem ..)
  · exact hf _ h1
theorem frameBytes_gives (clu part frame : Nat) (l : List (Nat × Nat)) {s : State} (h : s.MemOk) :
    Gives (fun r => r.2.MemOk) (frameBytes clu part frame l s) := by
  induction l generalizing s with
  | nil => exact gives_ok.2 h
  | cons x l ih => exact .bind (vmRead_gives h ..) fun ⟨_, _⟩ h1 => .bind (ih h1) fun ⟨_, _⟩ h2 => .pure h2
theorem loadImage_memOk {s : State} (h : s.MemOk) (l : Launch) (core off room : Nat) : (loadImage s l core off room).MemOk := by
  unfold loadImage; dsimp only
  exact memOk_ite h (modM_memOk ((Mem.setFull_wf ..).trans (Mem.put_wf _ _ _ _ h)))
theorem loadFrame_gives {s : State} (h : s.MemOk) (l : Launch) (r : Rec) : Gives (fun x => x.1.MemOk) (loadFrame s l r) := by
  unfold loadFrame; dsimp only
  refine .ite (.pure (memOk_ite ?_ (loadImage_memOk ?_ ..))) (.ite ?_ ?_)
  · exact h
  · exact h
  · exact .bind (frameBytes_gives _ _ _ _ h) fun ⟨_, _⟩ h1 => .pure (memOk_of_mem h1 (withFrame_mem ..))
  · refine .bind (liveMap_gives h _) fun ⟨v, s1⟩ h1 => .bind (frameBytes_gives _ _ _ _ h1) fun ⟨img, s2⟩ h2 => ?_
    have h3 := memOk_of_mem h2 (withFrame_mem s2 img (getBytes v 0 4) (getBytes v 4 4) (getBytes v 8 1) r.handles)
    refine .ite (.pure h3) (.bind (vmRead_gives h3 ..) fun ⟨x, s4⟩ h4 => .pure ?_)
    exact modM_memOk ((Mem.setFull_wf ..).trans (Mem.put_wf _ _ _ _ h4))
theorem withThr_memOk {s : State} (h : s.MemOk) (t : Thread) : ({ s with thr := t } : State).MemOk := h
theorem loadSearch_memOk {s : State} (h : s.MemOk) (l : Launch) (r : Rec) : (loadSearch s l r).MemOk := by
  have h1 := withThr_memOk h
  unfold loadSearch; dsimp only
  exact memOk_ite (memOk_of_mem (h1 _) ((State.modW_mem ..).trans (State.modQ_mem ..)))
    (memOk_ite (h1 _) (memOk_ite (freshSearch_memOk (h1 _)) (memOk_of_mem (h1 _) (State.modQ_mem ..))))
theorem cleanFile_memOk {s : State} (h : s.MemOk) (n : Nat) : (cleanFile s n).MemOk := by
  unfold cleanFile; dsimp only
  exact memOk_ite h (modM_memOk_of_cells h fun _ => rfl)
theorem startThread_gives {s : State} (h : s.MemOk) (l : Launch) (r0 : Rec) : Gives State.MemOk (startThread s l r0) := by
  refine .bind (p := fun x => x.2.MemOk) ⟨fun _ e => readBase_memOk h e⟩ fun ⟨r, s00⟩ h1 => ?_
  have h2 (t : Thread) := acquire_memOk (withThr_memOk (cleanFile_memOk h1 s.cur) t) s.cur .mod
  exact .bind (loadFrame_gives (h2 _) ..) fun ⟨s2, fb⟩ h3 => .pure (loadSearch_memOk (withThr_memOk h3 _) ..)
theorem parkPickup_memOk {s : State} (h : s.MemOk) (r : Rec) (c : Cond) : (parkPickup s r c).MemOk :=
  memOk_of_mem (parkCore_memOk (s := { s with thr := { s.thr.freed with rcd := some r, pc := r.w.pc, npc := r.w.pc } }) h c r.w.pc false false)
    (State.modRec_mem ..)
theorem pickUp_memOk {s : State} (h : s.MemOk) (r : Rec) : (pickUp s r).MemOk := by
  unfold pickUp
  extract_lets s0
  have h0 : s0.MemOk := opens_memOk _ _ (memOk_of_mem h (State.dropRec_mem ..))
  refine memOk_ite (memOk_of_mem (cancelRest_memOk h0 (thDie s.cur) r) ((State.after_mem ..).trans (recordEnds_mem ..))) ?_
  refine memOk_ite (parkPickup_memOk h0 ..) ?_
  split
  · exact h
  · exact parkPickup_memOk h0 ..
  · split
    · next s1 e =>
      have h1 : s1.MemOk := (startThread_gives h0 ..).of_ok _ e
      exact memOk_of_mem h1 (retryMsgs_mem ..)
    · exact parkPickup_memOk h0 ..
    · exact memOk_of_mem h (State.after_mem ..)
theorem execPickup_nextOk {s : State} (h : s.MemOk) (th : Nat) : NextOk (execPickup th s) := by
  refine .ite (nextOk_next.2 h) ?_
  split
  · exact nextOk_next.2 (asThread_memOk h _ fun _ hx => pickUp_memOk hx _)
  · exact .ite (nextOk_next.2 h) (.ite (nextOk_next.2 (memOk_of_mem h (State.after_mem ..))) (nextOk_next.2 (memOk_of_mem h (State.after_mem ..))))
theorem readTask_memOk {s t : State} (h : s.MemOk) {l : Launch} {die task : Nat} {d : Desc0} (e : readTask s l die task = some (d, t)) : t.MemOk := by
  unfold readTask at e
  split at e
  next c b s1 e1 =>
  have h1 : s1.MemOk := by
    split at e1
    · next e2 => cases e1; exact invalidateDie_memOk ((vmRead_gives h ..).of_ok _ e2) _
    · cases e1; exact h
    · cases e1; exact h
  split at e
  · cases e
  · split at e
    · cases e; exact h1
    · cases e; exact h1
    · cases e
theorem imageInto_memOk {s : State} (h : s.MemOk) (r : Rec) (n : Nat) : (imageInto s r n).MemOk := by
  refine memOk_ite h ?_
  split
  · exact h
  · exact memOk_of_mem (loadImage_memOk h _ (thCore n) (thIn n * 0x10000) 0x10000) (State.modRec_mem ..)
theorem putAt_memOk {s : State} (h : s.MemOk) (r : Rec) (p : Spot) : (putAt s r p).MemOk := by
  unfold putAt
  extract_lets start ready place core home s1 s2
  have h1 : s1.MemOk := memOk_of_mem h (State.modRec_mem ..)
  clear_value s1 home ready
  have h2 : s2.MemOk := by
    unfold s2; split
    · exact imageInto_memOk h1 ..
    · exact h1
  split
  · exact memOk_of_mem h2 (State.after_mem ..)
  · exact memOk_of_mem h2 (State.after_mem ..)
theorem addNew_memOk {s : State} (h : s.MemOk) (l : Launch) (frame : Nat) (r : Rec) : (addNew s l frame r).MemOk := memOk_of_mem h (addNew_mem ..)
theorem grantOne_memOk {s t : State} (h : s.MemOk) {die : Nat} {c : Cand} (e : grantOne s die c = some t) : t.MemOk := by
  unfold grantOne at e
  split at e
  · split at e
    · cases e; exact dropRest_memOk h _
    · split at e
      · cases e; exact putAt_memOk h ..
      · cases e
  · split at e
    · cases e
    · split at e
      · cases e
      · next e1 =>
        have h1 := readTask_memOk h e1
        dsimp only at e
        split at e
        · cases e
        · cases e; exact putAt_memOk (addNew_memOk (memOk_of_mem h1 (State.modLaunch_mem ..)) ..) ..
theorem execGrantRecord_nextOk {s : State} (h : s.MemOk) (die : Nat) : NextOk (execGrantRecord die s) := by
  refine .ite (nextOk_next.2 h) ?_
  split
  · next e =>
    obtain ⟨c, -, ec⟩ := List.exists_of_findSome?_eq_some e
    exact nextOk_next.2 (memOk_of_mem (grantOne_memOk h ec) (State.after_mem ..))
  · exact nextOk_next.2 (memOk_of_mem h (sendSteals_mem ..))
theorem readList_gives {s : State} (h : s.MemOk) (l : Launch) (n inlist : Nat) : Gives (fun r => r.2.2.MemOk) (readList s l n inlist) :=
  .bind (vmRead_gives h ..) fun ⟨_, _⟩ h1 => .bind (vmRead_gives h1 ..) fun ⟨_, _⟩ h2 => .pure h2
theorem slotDone_memOk {s : State} (h : s.MemOk) (r : Rec) (c : Option Cond) : (slotDone s r c).MemOk := memOk_of_mem h (slotDone_mem ..)
theorem startFill_memOk {s : State} (h : s.MemOk) (r : Rec) (l : Launch) (core idx n : Nat) : (startFill s r l core idx n).MemOk := by
  unfold startFill
  extract_lets r1 s1
  have h1 : s1.MemOk := imageInto_memOk (memOk_of_mem h (State.modRec_mem ..)) ..
  split
  · exact slotDone_memOk h1 ..
  · exact memOk_of_mem h (State.after_mem ..)
  · next k v s2 e =>
    have h2 : s2.MemOk := (readList_gives h1 ..).of_ok _ e
    split
    · exact slotDone_memOk h2 ..
    · refine memOk_of_mem h2 ((State.after_mem ..).trans ?_)
      split
      · exact (State.modRec_mem ..).trans (State.modSch_mem ..)
      · exact State.modSch_mem ..
theorem execShadowFill_nextOk {s : State} (h : s.MemOk) (core : Nat) : NextOk (execShadowFill core s) := by
  unfold execShadowFill
  refine .ite (nextOk_next.2 h) ?_
  extract_lets s1
  have h1 : s1.MemOk := memOk_foldl _ (fun _ _ h => memOk_ite h (memOk_of_mem h (State.after_mem ..))) _ h
  split
  · exact nextOk_next.2 h1
  · split
    · exact nextOk_next.2 (memOk_of_mem (startFill_memOk h1 ..) (State.after_mem ..))
    · exact nextOk_next.2 (memOk_of_mem (startFill_memOk h1 ..) (State.after_mem ..))
    · exact nextOk_next.2 h1
theorem quitRots_memOk {s : State} (h : s.MemOk) (l : List Nat) : (quitRots l s).MemOk := memOk_of_mem h (quitRots_mem ..)
theorem stopThread_memOk {s : State} (h : s.MemOk) (n : Nat) : (stopThread s n).MemOk :=
  memOk_ite h (memOk_ite (memOk_of_mem h (State.modT_mem ..)) (asThread_memOk (quitRots_memOk h _) n fun _ hx => stopHere_memOk hx))
theorem enterFilter_memOk {s : State} (h : s.MemOk) (f : Filter) : (enterFilter s f).MemOk := by
  have h1 : (if s.sch.filters.contains f then s else s.modSch (fun c => { c with filters := c.filters ++ [f] })).MemOk :=
    memOk_ite h (memOk_of_mem h (State.modSch_mem ..))
  have h2 := memOk_foldl dropRest (fun _ r h => dropRest_memOk h r)
  have h3 := memOk_foldl stopThread (fun _ n h => stopThread_memOk h n)
  exact memOk_of_mem (h3 _ (h2 _ h1)) (State.after_mem ..)
theorem cancelTask_memOk {s : State} (h : s.MemOk) (num task exempt : Nat) : (cancelTask s num task exempt).MemOk :=
  memOk_foldl _ (fun _ _ h => enterFilter_memOk h _) _ h
theorem endLaunch_memOk {s : State} (h : s.MemOk) (num status : Nat) : (endLaunch s num status).MemOk := by
  unfold endLaunch
  split
  · exact h
  · refine memOk_ite h ?_
    extract_lets s1 s2 s3
    have h1 : s1.MemOk := memOk_of_mem h ((dropWants_mem ..).trans (State.modLaunch_mem ..))
    have h2 : s2.MemOk := memOk_foldl dropRest (fun _ r h => dropRest_memOk h r) _ h1
    have h3 : s3.MemOk := quitRots_memOk (memOk_foldl stopThread (fun _ n h => stopThread_memOk h n) _ h2) _
    exact memOk_of_mem h3 ((State.after_mem ..).trans (allGrants_mem _))
theorem makeAttempt_mem {s t : State} {l : Launch} {die : Nat} {x : Seed} (e : makeAttempt s l die x = some t) : t.mem = s.mem := by
  unfold makeAttempt at e
  split at e
  · cases e
  · dsimp only at e
    cases e
    exact (State.modRec_mem ..).trans ((enqueue_mem ..).trans (addNew_mem ..))
@[simp] theorem getD_makeAttempt_mem (s : State) (l : Launch) (die : Nat) (x : Seed) : ((makeAttempt s l die x).getD s).mem = s.mem := by
  cases e : makeAttempt s l die x with
  | none => rfl
  | some t => exact makeAttempt_mem e
@[simp] theorem replaceAttempt_mem (s : State) (w : Want) (a : Nat) : (replaceAttempt s w a).mem = s.mem := by
  unfold replaceAttempt
  split
  · rfl
  · exact getD_makeAttempt_mem ..
theorem takeNumber_mem {s t : State} {num task a : Nat} (e : takeNumber s num task = some (a, t)) : t.mem = s.mem := by
  unfold takeNumber at e
  split at e
  · cases e
  · dsimp only at e
    split at e
    · cases e
    · cases e; exact modTask_mem ..
theorem dropAndReplace_memOk {s : State} (h : s.MemOk) (r : Rec) {drop : State → State} (hd : ∀ x, x.MemOk → (drop x).MemOk) :
    (dropAndReplace s r drop).MemOk := by
  unfold dropAndReplace
  refine memOk_ite (endLaunch_memOk (hd _ h) ..) (memOk_ite (hd _ h) ?_)
  extract_lets s1 w home s2
  have h1 : s1.MemOk := hd _ (memOk_of_mem h (modTask_mem ..))
  have h2 : s2.MemOk := by
    unfold s2; split
    · exact memOk_of_mem h1 (askFar_mem ..)
    · split
      · exact h1
      · next e => exact memOk_of_mem h1 ((replaceAttempt_mem ..).trans (takeNumber_mem e))
  exact memOk_of_mem h2 (lessAlive_mem ..)
theorem parkRest_memOk {s : State} (h : s.MemOk) (core : Nat) : (parkRest s core).MemOk :=
  memOk_ite (memOk_foldl _ (fun _ _ h => bindOther_memOk h _) _ h) h
theorem execStoreDrain_nextOk {s : State} (h : s.MemOk) (core : Nat) : NextOk (execStoreDrain core s) :=
  nextOk_next.2 (parkRest_memOk (drainOne_memOk (memOk_ite (memOk_of_mem (landPosted_memOk (landsNow s) h core) (wakeQueue_mem _)) h) _) _)
theorem landReg_memOk {s : State} (h : s.MemOk) (r : Reply) (v : Val) : (landReg s r v).MemOk := by
  have h1 := cleanRegs_memOk h s.cur [r.dest]
  exact memOk_ite (memOk_of_mem h1 (landNow_mem ..)) (memOk_of_mem h1 (State.modI_mem ..))
theorem acquireOf_memOk {s : State} (h : s.MemOk) (o : Option Scope) : (acquireOf s o).MemOk := by
  cases o with
  | none => exact h
  | some sc => exact acquire_memOk h ..
theorem addLaterAt_memOk {s : State} (h : s.MemOk) (n : Nat) (c : Cond) : (addLaterAt s n c).MemOk := memOk_of_mem h (addLaterAt_mem ..)
theorem landAtomic_memOk {s : State} (h : s.MemOk) (r : Reply) (op : AOp) (t : ATy) (x : Word) (bad : Bool) : (landAtomic s r op t x bad).MemOk := by
  have h1 := acquireOf_memOk (landReg_memOk (atomicAt_memOk h .direct r.key t.bytes op t x.toNat) r
    (.s (atomicOld op t (atomicAt s .direct r.key t.bytes op t x.toNat).1))) r.scope
  exact memOk_ite (addLaterAt_memOk (memOk_of_mem h1 (landNow_mem ..)) ..) h1
theorem spoilLine_memOk {s : State} (h : s.MemOk) (k : Nat) (d : Word) : (spoilLine s k d).MemOk := by
  unfold spoilLine; dsimp only
  exact memOk_ite h (modM_memOk (spoil_wf h ..))
theorem landOk_memOk {s : State} (h : s.MemOk) (r : Reply) : (landOk s r).MemOk := by
  unfold landOk
  split
  · exact addLaterAt_memOk h ..
  · split
    · split
      · exact addLaterAt_memOk h ..
      · exact acquireOf_memOk (landReg_memOk h ..) _
    · split
      · exact addLaterAt_memOk h ..
      · exact acquireOf_memOk (landReg_memOk h ..) _
    · split
      · exact addLaterAt_memOk h ..
      · exact landAtomic_memOk h ..
    · split
      · exact addLaterAt_memOk h ..
      · exact acquireOf_memOk (landReg_memOk h ..) _
theorem landAnswer_memOk {s : State} (h : s.MemOk) (r : Reply) (ans : HomeAnswer) : (landAnswer s r ans).MemOk := by
  unfold landAnswer
  split
  · exact landOk_memOk h r
  · exact addLaterAt_memOk h ..
  · split
    · exact landAtomic_memOk (spoilLine_memOk h ..) ..
    · exact addLaterAt_memOk h ..
theorem afterReply_memOk {s : State} (h : s.MemOk) : (afterReply s).MemOk := by
  have h1 := memOk_of_mem h (State.modI_mem s fun i => { i with blocked := if i.blocked = some .reply then none else i.blocked })
  exact memOk_ite h1 (bindOther_memOk h1 _)
theorem settleFor_memOk {s : State} (h : s.MemOk) (r : Reply) : (settleFor s r).MemOk := landPosted_memOk _ h _
theorem landReply_memOk {s : State} (h : s.MemOk) (ans : HomeAnswer) (r : Reply) : (landReply ans r s).MemOk :=
  afterReply_memOk (memOk_of_mem (landAnswer_memOk (memOk_of_mem (settleFor_memOk h r) (State.modI_mem ..)) r ans) (State.after_mem ..))
theorem replyTo_memOk {s : State} (h : s.MemOk) (th : Nat) (ver : Bool) (ans : HomeAnswer) (again : Event) : (replyTo s th ver ans again).MemOk := by
  have hl (r : Reply) : (asThread s th (landReply ans r)).MemOk := asThread_memOk h th fun _ hx => landReply_memOk hx ans r
  unfold replyTo; dsimp only
  split
  · exact h
  · split
    · exact memOk_ite h (memOk_ite (memOk_of_mem h (State.after_mem ..)) (hl _))
    · exact hl _
theorem takeAt_memOk {s : State} (h : s.MemOk) (n : Nat) (c : Cond) (pc : Word) : (takeAt s n c pc).MemOk :=
  asThread_memOk h n fun _ hx => memOk_ite (memOk_of_mem (takeCondition_memOk hx c pc) rfl) (takeCondition_memOk hx c pc)
theorem execTakeLaterCondition_nextOk {s : State} (h : s.MemOk) (th : Nat) : NextOk (execTakeLaterCondition th s) := by
  unfold execTakeLaterCondition; dsimp only
  split
  · exact nextOk_next.2 h
  · exact .ite (nextOk_next.2 h) (nextOk_next.2 (takeAt_memOk (memOk_of_mem h (State.modT_mem ..)) ..))
theorem execSvcReply_nextOk {s : State} (h : s.MemOk) (th : Nat) (a : SvcAnswer) : NextOk (execSvcReply th a s) := by
  unfold execSvcReply; dsimp only
  split
  · exact nextOk_next.2 (memOk_of_mem (memOk_foldl hostWrite (fun _ w h => hostWrite_memOk h w) a.writes h) (State.modT_mem ..))
  · exact nextOk_next.2 h
theorem resumeRec_memOk {s : State} (h : s.MemOk) (n : Nat) (r : Rec) (resume : Word) : (resumeRec s n r resume).2.MemOk := by
  unfold resumeRec; dsimp only
  split
  · next e => exact vmWrite_memOk h e
  · exact h
theorem releaseRec_memOk {s : State} (h : s.MemOk) (who : Nat) (resume : Word) (r : Rec) : (releaseRec who resume s r).MemOk := by
  unfold releaseRec
  refine memOk_ite (dropAndReplace_memOk h r fun _ hx => dropRest_memOk hx r) (memOk_ite (dropRest_memOk h r) ?_)
  split
  · exact h
  · next n _ =>
    refine memOk_ite h ?_
    have h1 : (if n = who then resumeRec s n r resume else (r, s)).2.MemOk := by
      split
      · exact resumeRec_memOk h ..
      · exact h
    exact memOk_ite (memOk_of_mem h1 ((State.after_mem ..).trans (State.modRec_mem ..))) (memOk_of_mem h1 (State.modRec_mem ..))
theorem execParkRelease_nextOk {s : State} (h : s.MemOk) (core : Nat) (resume : BitVec 64) : NextOk (execParkRelease core resume s) := by
  unfold execParkRelease
  split
  · exact nextOk_next.2 h
  · exact .ite (nextOk_next.2 h) (nextOk_next.2 (memOk_foldl _ (fun _ r h => releaseRec_memOk h _ _ r) _ (memOk_of_mem h (unpark_mem ..))))
theorem execParkAbort_nextOk {s : State} (h : s.MemOk) (core : Nat) : NextOk (execParkAbort core s) := by
  unfold execParkAbort; dsimp only
  split
  · exact nextOk_next.2 h
  · exact nextOk_next.2 (memOk_foldl _ (fun _ r h => releaseRec_memOk h _ _ r) _
      (memOk_foldl _ (fun _ l h => endLaunch_memOk h l 8) _ (memOk_of_mem h (unpark_mem ..))))
theorem execGets_nextOk {s : State} (h : s.MemOk) (d : BitVec 5) (n : BitVec 15) : NextOk (execGets d n s) := by
  unfold execGets
  split
  · exact nextOk_next.2 (memOk_of_mem h (State.setS_mem ..))
  · exact finish_nextOk h gives_raise
theorem sysWrite_gives {s : State} (h : s.MemOk) (n : Nat) (v : Word) : Gives State.MemOk (sysWrite s n v) := by
  unfold sysWrite
  refine .ite (.ite (gives_ok.2 (freshSearch_memOk (memOk_of_mem (drainAll_memOk h _) (State.modY_mem ..)))) gives_raise) ?_
  exact .ite (gives_ok.2 (memOk_of_mem h (setWin_mem ..))) (.ite (gives_ok.2 (memOk_of_mem h (State.modY_mem ..)))
    (.ite (gives_ok.2 (memOk_of_mem h (State.modY_mem ..))) (.ite gives_raise gives_raise)))
theorem execStage_nextOk {s : State} (h : s.MemOk) (n : BitVec 15) : NextOk (execStage n s) := by
  refine .ite (finish_nextOk h gives_raise) ?_
  split
  · exact nextOk_next.2 h
  · exact .ite (nextOk_next.2 h) (nextOk_next.2 (memOk_of_mem (drainAll_memOk h (thCore s.cur)) ((stageKick_mem ..).trans (State.modLaunch_mem ..))))
theorem barOrder_memOk {s : State} (h : s.MemOk) (level : Nat) (ths : List Nat) : (barOrder s level ths).MemOk :=
  memOk_ite (memOk_foldl _ (fun _ _ h => acquire_memOk h ..) _ (memOk_foldl _ (fun _ _ h => release_memOk h ..) _ h)) h
theorem execBarrierComplete_nextOk {s : State} (h : s.MemOk) (launch level inst : Nat) : NextOk (execBarrierComplete launch level inst s) := by
  unfold execBarrierComplete
  split
  · exact nextOk_next.2 h
  · split
    · exact nextOk_next.2 h
    · refine .ite (nextOk_next.2 h) (.ite (nextOk_next.2 h) (.ite (nextOk_next.2 (memOk_of_mem h (State.after_mem ..))) (nextOk_next.2 ?_)))
      exact memOk_of_mem (barOrder_memOk (memOk_of_mem h (State.modLaunch_mem ..)) level _) (foldl_mem (keepsMem_iff.2 passBar_mem) ..)
theorem breakBar_memOk {s : State} (h : s.MemOk) (launch level inst : Nat) (b : BarInst) (c : Cond) : (breakBar s launch level inst b c).MemOk := by
  refine memOk_foldl _ (fun _ n h => memOk_ite (takeAt_memOk h ..) h) _ (memOk_of_mem h ?_)
  exact (foldl_mem (keepsMem_iff.2 fun _ _ => State.modT_mem ..) ..).trans (State.modLaunch_mem ..)

end Sys2Proof.Machine
end


section
/-! Launches, schedules and the loss of hardware keep the canonical form. -/
namespace Sys2Proof.Machine
open Sys2Proof

theorem execBarrierWatchdog_nextOk {s : State} (h : s.MemOk) (launch level inst : Nat) : NextOk (execBarrierWatchdog launch level inst s) := by
  unfold execBarrierWatchdog
  split
  · exact nextOk_next.2 h
  · split
    · exact nextOk_next.2 h
    · exact .ite (nextOk_next.2 (memOk_of_mem h (State.after_mem ..))) (nextOk_next.2 (breakBar_memOk h ..))
theorem execBarrierNetworkFault_nextOk {s : State} (h : s.MemOk) (launch level inst : Nat) :
    NextOk (execBarrierNetworkFault launch level inst s) := by
  unfold execBarrierNetworkFault
  split
  · exact nextOk_next.2 h
  · split
    · exact nextOk_next.2 h
    · exact nextOk_next.2 (breakBar_memOk h ..)
theorem schedRead_gives {s : State} (h : s.MemOk) (l : Launch) (idx : Nat) : Gives (fun r => r.2.MemOk) (schedRead s l idx) := vmRead_gives h ..
theorem execSchedEntry_nextOk {s : State} (h : s.MemOk) (launch idx : Nat) : NextOk (execSchedEntry launch idx s) := by
  unfold execSchedEntry
  split
  · exact nextOk_next.2 h
  · split
    · refine .ite (nextOk_next.2 h) ?_
      dsimp only
      split
      · exact nextOk_next.2 (memOk_of_mem h (State.after_mem ..))
      · exact nextOk_next.2 (memOk_of_mem h (schedEnds_mem ..))
      · next e1 =>
        have h1 := (schedRead_gives h ..).of_ok _ e1
        split
        · exact nextOk_next.2 (memOk_of_mem h (State.after_mem ..))
        · exact nextOk_next.2 (memOk_of_mem h1 (schedEnds_mem ..))
        · exact nextOk_next.2 (memOk_of_mem h1 ((State.after_mem ..).trans ((markSched_mem ..).trans (State.modSch_mem ..))))
    · exact nextOk_next.2 h
theorem execCopyDone_nextOk {s : State} (h : s.MemOk) (op : Nat) : NextOk (execCopyDone op s) := by
  unfold execCopyDone
  split
  · exact nextOk_next.2 h
  next o _ =>
  split
  · refine .ite (nextOk_next.2 h) ?_
    extract_lets c s1
    have h1 : s1.MemOk := memOk_ite (writeBackDie_memOk h _) h
    clear_value s1
    split
    · exact nextOk_next.2 (memOk_of_mem h1 (State.after_mem ..))
    · exact nextOk_next.2 (memOk_of_mem h1 ((afterOp_mem ..).trans ((schedEnds_mem ..).trans (State.dropOp_mem ..))))
    · have h2 (x : Handle) : (afterOp (completeHandle (s1.dropOp op) op o.rcd x) o).MemOk :=
        memOk_of_mem (completeHandle_memOk (memOk_of_mem h1 (State.dropOp_mem ..)) ..) (afterOp_mem ..)
      exact nextOk_next.2 (memOk_foldl _ (fun _ _ h => memOk_of_mem h (retryBars_mem ..)) _ (h2 _))
  · exact nextOk_next.2 h
@[simp] theorem addMember_mem (num : Nat) (s : State) (rank : Nat) : (addMember num s rank).mem = s.mem := by
  unfold addMember
  split
  · rfl
  · split
    · rfl
    · exact addNew_mem ..
theorem gangImage_memOk {s : State} (h : s.MemOk) (l : Launch) (p : Placement) : (gangImage s l p).MemOk :=
  memOk_foldl _ (fun _ _ h => loadImage_memOk h ..) _ h
theorem takeMember_memOk (num : Nat) {s : State} (h : s.MemOk) (x : Nat × Nat) : (takeMember num s x).MemOk := by
  unfold takeMember
  split
  · exact h
  · exact memOk_ite (asThread_memOk h _ fun _ hx => pickUp_memOk hx _) h
theorem placeAt_memOk {s : State} (h : s.MemOk) (l : Launch) (p : Placement) : (placeAt s l p).MemOk := by
  unfold placeAt
  extract_lets first s1 s2 pairs s3
  have h1 : s1.MemOk := memOk_ite (memOk_of_mem (gangImage_memOk h l p) (foldl_mem (keepsMem_iff.2 (addMember_mem l.num)) ..)) h
  have h2 : s2.MemOk := memOk_of_mem h1 (State.modLaunch_mem ..)
  have h3 : s3.MemOk := memOk_foldl _ (fun _ x h => takeMember_memOk _ h x) _
    (memOk_of_mem h2 (foldl_mem (keepsMem_iff.2 (putMember_mem l.num)) ..))
  split
  · exact memOk_of_mem h3 (stageKick_mem ..)
  · exact h3
theorem execGangPlace_nextOk {s : State} (h : s.MemOk) (launch : Nat) : NextOk (execGangPlace launch s) := by
  unfold execGangPlace; dsimp only
  split
  · exact nextOk_next.2 h
  · refine .ite (.ite (nextOk_next.2 (memOk_of_mem h (State.after_mem ..))) ?_) (.ite ?_ (nextOk_next.2 h))
    · split
      · exact nextOk_next.2 (placeAt_memOk h ..)
      · exact nextOk_next.2 (memOk_ite h (endLaunch_memOk h ..))
    · split
      · exact nextOk_next.2 h
      · split
        · exact nextOk_next.2 (memOk_of_mem (placeAt_memOk h ..) (allGrants_mem _))
        · exact nextOk_next.2 (memOk_ite h (memOk_of_mem h ((State.after_mem ..).trans (State.modLaunch_mem ..))))
theorem execGangReserve_nextOk {s : State} (h : s.MemOk) (launch : Nat) : NextOk (execGangReserve launch s) := by
  unfold execGangReserve
  split
  · exact nextOk_next.2 h
  · refine .ite (nextOk_next.2 h) (.ite (nextOk_next.2 (memOk_of_mem h (State.after_mem ..))) ?_)
    split
    · exact nextOk_next.2 (memOk_of_mem h ((State.after_mem ..).trans (State.modLaunch_mem ..)))
    · exact nextOk_next.2 (memOk_ite (memOk_of_mem h (State.after_mem ..)) (endLaunch_memOk h ..))
theorem execPostCompletion_nextOk {s : State} (h : s.MemOk) (q : Nat) : NextOk (execPostCompletion q s) := by
  unfold execPostCompletion
  extract_lets x
  split
  · exact nextOk_next.2 (memOk_of_mem h (kickAdmit_mem ..))
  · refine .ite (nextOk_next.2 h) (.ite (nextOk_next.2 (memOk_of_mem h (feRefused_mem ..))) (nextOk_next.2 ?_))
    exact memOk_of_mem (modM_memOk (Mem.put_wf _ _ _ _ h)) ((State.after_mem ..).trans ((coalesce_mem ..).trans (State.setQueue_mem ..)))
theorem execAdmitLaunch_nextOk {s : State} (h : s.MemOk) (q : Nat) : NextOk (execAdmitLaunch q s) := by
  refine .ite (nextOk_next.2 h) ?_
  split
  · exact nextOk_next.2 (memOk_of_mem h (badHeads_mem _))
  · refine .ite (nextOk_next.2 (memOk_of_mem h (State.after_mem ..))) (nextOk_next.2 (memOk_of_mem ?_ (kickAdmit_mem ..)))
    have h1 (n : Nat) (x : QueueSt) : (s.setQueue n x).MemOk := memOk_of_mem h (State.setQueue_mem ..)
    exact memOk_ite (memOk_of_mem (h1 ..) (enterLaunch_mem ..)) (memOk_of_mem (h1 ..) (postEntry_mem ..))
theorem execLaunchDispatch_nextOk {s : State} (h : s.MemOk) (launch : Nat) : NextOk (execLaunchDispatch launch s) := by
  unfold execLaunchDispatch
  split
  · exact nextOk_next.2 h
  · refine .ite (nextOk_next.2 h) (.ite (nextOk_next.2 (memOk_of_mem h (State.after_mem ..))) ?_)
    extract_lets m go
    have hgo (n : Nat) {x : State} (hx : x.MemOk) : (go n x).MemOk :=
      memOk_of_mem hx ((startMonitors_mem _).trans ((State.after_mem ..).trans ((allGrants_mem _).trans (State.modLaunch_mem ..))))
    split
    · next e => exact nextOk_next.2 (hgo _ ((vmRead_gives h ..).of_ok _ e))
    · exact nextOk_next.2 (hgo _ h)
    · exact nextOk_next.2 (memOk_of_mem h (State.after_mem ..))
theorem forget_memOk {s : State} (h : s.MemOk) (num : Nat) : (forget s num).MemOk := memOk_of_cells h rfl
theorem finishLaunch_memOk {s : State} (h : s.MemOk) (l0 : Launch) (st : Nat) : (finishLaunch s l0 st).MemOk := by
  unfold finishLaunch
  extract_lets l c e s1 s2 s3
  have h1 : s1.MemOk := memOk_of_mem h (State.setReg0_mem ..)
  have h2 : s2.MemOk := memOk_of_mem (forget_memOk (memOk_of_mem h1 (noticeEnd_mem ..)) _) (retryGangs_mem _)
  have h3 : s3.MemOk := memOk_ite (memOk_of_mem h2 ((State.setReg0_mem ..).trans (State.modSch_mem ..))) h2
  exact memOk_of_mem h3 ((kickAdmit_mem ..).trans ((allGrants_mem _).trans (postEntry_mem ..)))
theorem execLaunchDone_nextOk {s : State} (h : s.MemOk) (launch : Nat) : NextOk (execLaunchDone launch s) := by
  have h1 := memOk_of_mem h (settleLaunch_mem s launch)
  unfold execLaunchDone; dsimp only
  split
  · exact nextOk_next.2 h1
  · split
    · exact nextOk_next.2 (finishLaunch_memOk h1 ..)
    · exact nextOk_next.2 h1
theorem writeBack_gives {s : State} (h : s.MemOk) (map idx : Nat) (pc : Word) (waits : BitVec 16) :
    Gives State.MemOk (writeBack s map idx pc waits) := ⟨fun _ e => writeBack_memOk h e⟩
theorem withdrawMember_memOk {s : State} (h : s.MemOk) (n : Nat) : (withdrawMember s n).MemOk := by
  unfold withdrawMember; dsimp only
  split
  · split
    · exact h
    · refine memOk_ite h (asThread_memOk (memOk_of_mem h (withdraw_mem ..)) n fun x hx => ?_)
      split
      · next e => exact (Gives.bind (liveMap_gives hx _) fun ⟨_, _⟩ hy => writeBack_gives hy ..).of_ok _ e
      · exact parkCore_memOk hx ..
      · exact hx
  · exact h
theorem withdrawAll_memOk {s : State} (h : s.MemOk) (num : Nat) : (withdrawAll s num).MemOk :=
  memOk_foldl _ (fun _ n h => withdrawMember_memOk h n) _ h
theorem execPreemptHold_nextOk {s : State} (h : s.MemOk) (launch : Nat) : NextOk (execPreemptHold launch s) := by
  have hm (x : State) (hx : x.MemOk) (f : Launch → Launch) : (x.modLaunch launch f).MemOk := memOk_of_mem hx (State.modLaunch_mem ..)
  have hp (f : Launch → Launch) : NextOk (.next (if busyElse s launch then s else settleLaunch (allGrants (s.modLaunch launch f)) launch)) :=
    nextOk_next.2 (memOk_ite h (memOk_of_mem (hm s h f) ((settleLaunch_mem ..).trans (allGrants_mem _))))
  unfold execPreemptHold
  split
  · exact nextOk_next.2 h
  · split
    · exact nextOk_next.2 (memOk_of_mem (withdrawAll_memOk h _) (State.after_mem ..))
    · exact nextOk_next.2 (memOk_ite h (memOk_of_mem h ((State.after_mem ..).trans (setBusy_mem ..))))
    · exact hp _
    · exact hp _
    · refine .ite (nextOk_next.2 h) (nextOk_next.2 (memOk_of_mem (withdrawAll_memOk (quitRots_memOk ?_ _) _) (State.after_mem ..)))
      exact memOk_foldl _ (fun _ _ h => memOk_of_mem h (State.modT_mem ..)) _ (memOk_of_mem (hm s h _) (setBusy_mem ..))
    · exact nextOk_next.2 h
theorem execLaunchCancel_nextOk {s : State} (h : s.MemOk) (launch : Nat) : NextOk (execLaunchCancel launch s) := by
  unfold execLaunchCancel
  split
  · exact nextOk_next.2 h
  · exact nextOk_next.2 (memOk_ite h (endLaunch_memOk (memOk_of_mem h (setBusy_mem ..)) ..))
theorem startTlbi_memOk {s : State} (h : s.MemOk) (hit : TlbEntry → Bool) : (startTlbi s hit).MemOk := by
  have h1 : (s.modM (fun m => { m with tlb := m.tlb.filter (fun e => !hit e) })).MemOk := modM_memOk_of_cells h fun _ => rfl
  exact memOk_ite h (memOk_of_mem h1 ((State.after_mem ..).trans ((State.setReg0_mem ..).trans (State.modSch_mem ..))))
theorem execTlbiPage_nextOk {s : State} (h : s.MemOk) (part : Nat) (va : BitVec 40) : NextOk (execTlbiPage part va s) :=
  nextOk_next.2 (startTlbi_memOk h _)
theorem execTlbiPartition_nextOk {s : State} (h : s.MemOk) (part : Nat) : NextOk (execTlbiPartition part s) :=
  nextOk_next.2 (startTlbi_memOk h _)
theorem execTlbiDone_nextOk {s : State} (h : s.MemOk) : NextOk (execTlbiDone s) := by
  have h1 := memOk_foldl drainAll (fun _ c h => drainAll_memOk h c) (s.cores.map (·.1)) h
  unfold execTlbiDone
  exact .ite (nextOk_next.2 h) (.ite (nextOk_next.2 (memOk_of_mem h1 (State.after_mem ..)))
    (nextOk_next.2 (memOk_of_mem h1 ((State.setReg0_mem ..).trans (State.modSch_mem ..)))))
theorem loseHeld_memOk {s : State} (h : s.MemOk) (n : Nat) : (loseHeld s n).MemOk := by
  unfold loseHeld
  split
  · exact h
  · exact dropAndReplace_memOk h _ fun _ hx => asThread_memOk hx n fun _ hy => dropHeld_memOk hy
theorem loseRest_memOk {s : State} (h : s.MemOk) (id : Nat) : (loseRest s id).MemOk := by
  unfold loseRest
  split
  · exact h
  · exact dropAndReplace_memOk h _ fun _ hx => dropRest_memOk hx _
theorem coreGone_memOk {s : State} (h : s.MemOk) (c : Nat) : (coreGone s c).MemOk :=
  modM_memOk_of_cells (memOk_of_mem h (State.setCore_mem ..)) fun _ => rfl
theorem failOp_memOk (c : Cond) {s : State} (h : s.MemOk) (id : Nat) : (failOp c s id).MemOk := by
  unfold failOp
  split
  · exact h
  · exact completeHandle_memOk (memOk_of_mem h (State.dropOp_mem ..)) ..
theorem loseCores_memOk {s : State} (h : s.MemOk) (cores : List Nat) : (loseCores s cores).MemOk := by
  unfold loseCores
  extract_lets s1 ths ids s2 s3 s4
  have h1 : s1.MemOk := memOk_foldl _ (fun _ c h => coreGone_memOk h c) _ h
  have h2 : s2.MemOk := memOk_of_mem h1 ((foldl_mem (keepsMem_iff.2 (dropJobs_mem ids)) ..).trans (State.modSch_mem ..))
  have h3 : s3.MemOk := memOk_foldl _ (fun _ n h => loseHeld_memOk h n) _ h2
  have h4 : s4.MemOk := memOk_foldl _ (fun _ i h => loseRest_memOk h i) _ h3
  exact memOk_of_mem h4 (foldl_mem (keepsMem_iff.2 threadGone_mem) ..)
theorem dropGangs_memOk {s : State} (h : s.MemOk) : (dropGangs s).MemOk := by
  refine memOk_foldl _ (fun x l h => memOk_ite (endLaunch_memOk h ..) ?_) _ h
  split
  · exact memOk_ite (memOk_of_mem h (State.modLaunch_mem ..)) h
  · exact h
theorem memGone_memOk {s : State} (h : s.MemOk) (k : Nat) : (memGone s k).MemOk :=
  modM_memOk (f := fun m => { m with
    cells := m.cells.filter (fun c => !keyOfClu k c.1), empty := m.empty.filter (fun w => !keyOfClu k w)
    poison := m.poison.filter (fun u => !keyOfClu k u.1), tlb := m.tlb.filter (fun e => e.clu != k) }) (cellsWf_filter _ _ h)
theorem cluGone_memOk {s : State} (h : s.MemOk) (k : Nat) : (cluGone s k).MemOk :=
  memGone_memOk (memOk_of_mem (memOk_foldl _ (fun _ i h => failOp_memOk _ h i) _ h) (State.setClu_mem ..)) k
theorem msgsGone_memOk {s : State} (h : s.MemOk) (k : Nat) : (msgsGone s k).MemOk := memOk_foldl _ (fun _ i h => failOp_memOk _ h i) _ h
theorem clusGone_memOk {s : State} (h : s.MemOk) (l : List Nat) : (l.foldl (fun x k => msgsGone (cluGone x k) k) s).MemOk :=
  memOk_foldl _ (fun _ k h => msgsGone_memOk (cluGone_memOk h k) k) _ h
theorem loseRope_memOk {s : State} (h : s.MemOk) (r : Nat) : (loseRope s r).MemOk := by
  have h1 := loseCores_memOk (memOk_of_mem h (setRopeState_mem s r 2)) (ropeCores r)
  have h3 := memOk_of_mem (clusGone_memOk h1 (ropeClus r)) ((wakeQueue_mem _).trans (allGrants_mem _))
  exact memOk_of_mem (dropGangs_memOk h3) (State.mailTo_mem ..)
theorem rehome_memOk (d : Nat) {s : State} (h : s.MemOk) (r : Rec) : (rehome d s r).MemOk :=
  memOk_ite h (memOk_ite (dropRest_memOk h r) (memOk_of_mem h (State.modRec_mem ..)))
theorem wf_foldl {α : Type} (f : Mem → α → Mem) (hf : ∀ m a, m.wf = true → (f m a).wf = true) (l : List α) {m : Mem} (h : m.wf = true) :
    (l.foldl f m).wf = true := by
  induction l generalizing m with
  | nil => exact h
  | cons a l ih => exact ih (hf _ a h)
theorem homeGone_wf (d : Nat) {m : Mem} (h : m.wf = true) (x : L3Line) : (homeGone d m x).wf = true := by
  unfold homeGone
  split
  · exact h
  · split
    · exact l3Evict_wf h x
    · exact wf_foldl _ (fun _ _ h => spoil_wf h ..) _ h
theorem dieMemGone_memOk {s : State} (h : s.MemOk) (d : Nat) : (dieMemGone s d).MemOk := by
  have h1 : (s.modM (fun m => m.l3.foldl (homeGone d) m)).MemOk := modM_memOk (wf_foldl (homeGone d) (fun _ x h => homeGone_wf d h x) _ h)
  exact modM_memOk_of_cells h1 fun _ => rfl
theorem loseDie_memOk {s : State} (h : s.MemOk) (d cause : Nat) : (loseDie s d cause).MemOk := by
  unfold loseDie
  extract_lets _ s0 s1 s2 s3 s4 s5 s6 s7 s8
  have h0 : s0.MemOk := h
  have h1 : s1.MemOk := memOk_of_mem h0 (setDie_mem ..)
  have h2 : s2.MemOk := loseCores_memOk (dieMemGone_memOk h1 d) _
  have h3 : s3.MemOk := clusGone_memOk h2 _
  have h4 : s4.MemOk := memOk_of_mem h3 (foldl_mem (keepsMem_iff.2 (tellThread_mem d)) ..)
  have h5 : s5.MemOk := memOk_of_mem h4 (foldl_mem (keepsMem_iff.2 (tellRec_mem d)) ..)
  have h6 : s6.MemOk := memOk_of_mem h5 (foldl_mem (keepsMem_iff.2 (giveBack_mem d)) ..)
  have h7 : s7.MemOk := memOk_foldl _ (fun _ r h => rehome_memOk d h r) _ h6
  exact dropGangs_memOk (memOk_of_mem h7 ((wakeQueue_mem _).trans ((allGrants_mem _).trans (State.modSch_mem ..))))
theorem withPlat_memOk {s : State} (h : s.MemOk) (p : Plat) : ({ s with plat := p } : State).MemOk := h
theorem execDieLost_nextOk {s : State} (h : s.MemOk) (die cause : Nat) : NextOk (execDieLost die cause s) :=
  .ite (nextOk_next.2 h) (.ite (nextOk_next.2 (withPlat_memOk h _)) (nextOk_next.2 (loseDie_memOk h ..)))
theorem execRopeLost_nextOk {s : State} (h : s.MemOk) (rope : Nat) : NextOk (execRopeLost rope s) :=
  .ite (nextOk_next.2 h) (.ite (nextOk_next.2 (loseRope_memOk h _)) (.ite (nextOk_next.2 h) (nextOk_next.2 (memOk_of_mem h (State.after_mem ..)))))

end Sys2Proof.Machine
end

section
/-! Errors of the memory's arrays keep the canonical form. -/
namespace Sys2Proof.Machine
open Sys2Proof

theorem tlbDrop_memOk {s : State} (h : s.MemOk) (e : Option TlbEntry) : (tlbDrop s e).MemOk := by
  cases e with
  | none => exact h
  | some x => exact modM_memOk_of_cells h fun _ => rfl
theorem dropClean_memOk {s : State} (h : s.MemOk) (d a inst off : Nat) : (dropClean s d a inst off).MemOk := by
  unfold dropClean
  refine memOk_ite ?_ (memOk_ite (tlbDrop_memOk h _) (memOk_ite ?_ h))
  · split
    · exact modM_memOk_of_cells h fun _ => rfl
    · exact h
  · split
    · exact modM_memOk_of_cells h fun _ => rfl
    · exact h
theorem l3EvictM_memOk {s : State} (h : s.MemOk) (x : L3Line) : (s.modM (fun m => l3Evict m x)).MemOk := modM_memOk (l3Evict_wf h x)
theorem poisonUnit_memOk {s : State} (h : s.MemOk) (d a inst off : Nat) : (poisonUnit s d a inst off).MemOk := by
  unfold poisonUnit; dsimp only
  refine memOk_ite ?_ (memOk_ite h ?_)
  · split
    · exact modM_memOk_of_cells h fun _ => rfl
    · exact h
  · have h1 : (match a, l3Unit s off with | 13, some x => s.modM (fun m => l3Evict m x) | _, _ => s).MemOk := by
      split
      · exact l3EvictM_memOk h _
      · exact h
    split
    · exact modM_memOk (spoil_wf h1 ..)
    · exact h1
theorem tlbTrim_memOk {s : State} (h : s.MemOk) (clu : Nat) : (tlbTrim s clu).MemOk := memOk_ite (tlbDrop_memOk h _) h
theorem leaveWay_memOk {s : State} (h : s.MemOk) (d a inst off : Nat) : (leaveWay s d a inst off).MemOk := by
  have hc {l : List Nat} {o : Option Nat} {t : State} (e : choose s l = (o, t)) : t.MemOk := memOk_of_mem h (by rw [← choose_mem s l, e])
  unfold leaveWay
  refine memOk_ite ?_ (memOk_ite ?_ (memOk_ite ?_ (memOk_ite (tlbTrim_memOk (tlbDrop_memOk h _) _) h)))
  · split
    · exact modM_memOk_of_cells h fun _ => rfl
    · exact h
  · split
    · exact h
    · refine memOk_ite (l2Evict_memOk h ..) (memOk_ite h ?_)
      split
      · next e => exact l2Evict_memOk (hc e) ..
      · next e => exact hc e
  · split
    · exact h
    · refine memOk_ite (l3EvictM_memOk h _) (memOk_ite h ?_)
      split
      · next e =>
        split
        · exact l3EvictM_memOk (hc e) _
        · exact hc e
      · next e => exact hc e
theorem retire_memOk {s : State} (h : s.MemOk) (d a inst off : Nat) : (retire s d a inst off).2.MemOk := by
  unfold retire; dsimp only
  split
  · exact h
  · split
    · exact withPlat_memOk h _
    · split
      · exact leaveWay_memOk (memOk_of_mem (withPlat_memOk h _) (countRet_mem ..)) ..
      · exact h
theorem track_memOk {s : State} (h : s.MemOk) (d a inst off : Nat) : (track s d a inst off).MemOk := by
  unfold track
  extract_lets same put others n s1
  have hp (x : State) (us : List EccUnit) (hx : x.MemOk) : (put x us).MemOk := hx
  have h1 : s1.MemOk := hp _ _ h
  have h2 := retire_memOk h1 d a inst off
  exact memOk_ite h (memOk_ite h1 (memOk_ite (hp _ _ h2) h2))
theorem corrected_memOk {s : State} (h : s.MemOk) (d a inst off : Nat) : (corrected s d a inst off).MemOk :=
  track_memOk (memOk_of_mem h ((startWindow_mem ..).trans (countCor_mem ..))) ..
theorem execEccError_nextOk {s : State} (h : s.MemOk) (die array inst row unit : Nat) (c : Bool) :
    NextOk (execEccError die array inst row unit c s) := by
  unfold execEccError
  extract_lets off s1 s2
  have h1 : s1.MemOk := memOk_of_mem h (logUnc_mem ..)
  clear_value s1
  have h2 : s2.MemOk := memOk_ite (memOk_of_mem h1 (State.mailTo_mem ..)) h1
  clear_value s2
  exact .ite (nextOk_next.2 h) (.ite (nextOk_next.2 (corrected_memOk h ..)) (.ite (nextOk_next.2 (corrected_memOk (dropClean_memOk h ..) ..))
    (.ite (nextOk_next.2 (memOk_of_mem h2 (State.after_mem ..))) (nextOk_next.2 (poisonUnit_memOk h2 ..)))))
theorem restart_memOk {s : State} (h : s.MemOk) (err : Nat) : (restart s err).MemOk := cellsWf_filter outside _ h
theorem execModuleTrip_nextOk {s : State} (h : s.MemOk) (thermal : Bool) : NextOk (execModuleTrip thermal s) := nextOk_next.2 (restart_memOk h _)
theorem execCcRecovery_nextOk {s : State} (h : s.MemOk) (die array : Nat) : NextOk (execCcRecovery die array s) := by
  have h1 (d : Nat) : (ccNote s d array).MemOk := memOk_of_mem h (ccNote_mem ..)
  have h2 := memOk_of_mem (h1 die) (setDie_mem _ die 2 none)
  unfold execCcRecovery
  refine .ite (nextOk_next.2 h) (.ite (.ite (nextOk_next.2 (restart_memOk h _)) ?_) (.ite (nextOk_next.2 h)
    (.ite (nextOk_next.2 (loseDie_memOk h ..)) ?_)))
  · exact nextOk_next.2 (memOk_of_mem (withPlat_memOk (h1 8) _) (State.after_mem ..))
  · exact nextOk_next.2 (memOk_of_mem (memOk_ite (memOk_of_mem h2 (State.modSch_mem ..)) h2) (State.after_mem ..))
theorem execCcRecoveryDone_nextOk {s : State} (h : s.MemOk) (die : Nat) (e : RecoveryEnd) : NextOk (execCcRecoveryDone die e s) := by
  unfold execCcRecoveryDone
  refine .ite (.ite (nextOk_next.2 h) (.ite (nextOk_next.2 h) (.ite (nextOk_next.2 ?_) (nextOk_next.2 (restart_memOk h _)))))
    (.ite (nextOk_next.2 h) (.ite (nextOk_next.2 ?_) (nextOk_next.2 (loseDie_memOk h ..))))
  · exact memOk_of_mem (withPlat_memOk h _) (kickAll_mem _)
  · refine memOk_of_mem ?_ ((retryGangs_mem _).trans (allGrants_mem _))
    exact memOk_foldl _ (fun _ _ h => memOk_ite (memOk_of_mem h (State.after_mem ..)) h) _ (memOk_of_mem h (setDie_mem ..))

end Sys2Proof.Machine
end


section
/-! Commits, tile reads and hedging keep the canonical form. -/
namespace Sys2Proof.Machine
open Sys2Proof

theorem loadDesc_gives {s : State} (h : s.MemOk) (a : Nat) : Gives (fun r => r.2.MemOk) (loadDesc s a) := by
  unfold loadDesc
  refine .bind (resolve_gives h ..) fun ⟨s1, t⟩ h1 => ?_
  dsimp only
  split
  · refine .any fun _ => ?_
    split
    · exact gives_error
    · split
      · exact .bind (readFar_gives h1 ..) fun ⟨_, _⟩ h2 => .any fun _ => .pure h2
      · exact .bind (p := fun r => r.2.MemOk) (.pure (loadPlace_memOk h1 ..)) fun ⟨_, _⟩ h2 => .any fun _ => .pure h2
  · exact gives_raise
theorem commitIssue_gives {s : State} (h : s.MemOk) (x : BitVec 4) (o v : Nat) : Gives State.MemOk (commitIssue s x o v) := by
  refine .any fun _ => .any fun _ => .bind (loadDesc_gives h _) fun ⟨d, s1⟩ h1 => .any fun _ => .any fun _ => .any fun _ => ?_
  refine .bind (useHandle_gives h1 _) fun s2 h2 => .bind (releaseChk_gives h2 _) fun s3 h3 => .any fun _ => .pure ?_
  exact memOk_of_mem h3 ((State.after_mem ..).trans ((State.setH_mem ..).trans (addOp_mem ..)))
theorem execCommit_nextOk {s : State} (h : s.MemOk) (x : BitVec 4) (a : BitVec 5) (map : BitVec 16) : NextOk (execCommit x a map s) := by
  refine .ite (finish_nextOk h gives_raise) (withMap_nextOk h _ fun v s1 h1 => ?_)
  split
  · exact finish_nextOk h gives_error
  · next s2 e =>
    have h2 : s2.MemOk := (commitIssue_gives h1 ..).of_ok _ e
    exact suspend_nextOk h2 (writeBack_gives h2 ..)
theorem tableDesc_gives {s : State} (h : s.MemOk) (off : Nat) : Gives (fun r => r.2.MemOk) (tableDesc s off) := by
  unfold tableDesc; dsimp only
  exact .ite gives_raise (.ite gives_raise (loadDesc_gives h _))
theorem treadIssue_gives {s : State} (h : s.MemOk) (d : BitVec 5) (off dst : Nat) (x : BitVec 4) (ver : BitVec 32) :
    Gives State.MemOk (treadIssue s d off dst x ver) := by
  refine .any fun _ => .bind (tableDesc_gives h _) fun ⟨_, s1⟩ h1 => .any fun _ => .any fun _ => .any fun _ => ?_
  refine .bind (useHandle_gives h1 _) fun s2 h2 => .pure (memOk_of_mem (drainAll_memOk h2 (thCore s.cur)) ?_)
  exact (State.after_mem ..).trans ((State.modI_mem ..).trans ((State.setH_mem ..).trans (addOp_mem ..)))
theorem execTread_nextOk {s : State} (h : s.MemOk) (d a b : BitVec 5) (x : BitVec 4) (ver : BitVec 32) : NextOk (execTread d a b x ver s) :=
  finish_nextOk h (treadIssue_gives h ..)
theorem tverIssue_gives {s : State} (h : s.MemOk) (d : BitVec 5) (off : Nat) : Gives State.MemOk (tverIssue s d off) := by
  have hk (s1 : State) (h1 : s1.MemOk) (f : IssueSt → IssueSt) (n : Nat) (e : Event) : Gives State.MemOk (pure ((s1.modI f).after n e)) :=
    .pure (memOk_of_mem h1 ((State.after_mem ..).trans (State.modI_mem ..)))
  refine .bind (tableDesc_gives h _) fun ⟨x, s0⟩ h0 => ?_
  dsimp only
  split
  · exact hk s0 h0 ..
  · exact .bind (sendAccess_gives h0 _ 0) fun s1 h1 => hk s1 h1 ..
theorem execTver_nextOk {s : State} (h : s.MemOk) (d a : BitVec 5) : NextOk (execTver d a s) := finish_nextOk h (tverIssue_gives h ..)
theorem execCancelDelivery_nextOk {s : State} (h : s.MemOk) (launch task exempt : Nat) : NextOk (execCancelDelivery launch task exempt s) := by
  unfold execCancelDelivery
  split
  · exact nextOk_next.2 h
  · exact .ite (nextOk_next.2 (memOk_of_mem h (State.after_mem ..))) (nextOk_next.2 (cancelTask_memOk (memOk_of_mem h (markTask_mem ..)) ..))
theorem execLineageCancel_nextOk {s : State} (h : s.MemOk) (die launch task : Nat) (tag : BitVec 64) :
    NextOk (execLineageCancel die launch task tag s) :=
  .ite (nextOk_next.2 (memOk_of_mem h (State.after_mem ..))) (nextOk_next.2 (enterFilter_memOk h _))
theorem writePlaces_memOk (l : List (Route × Nat × Nat)) (v : Nat) {s : State} (h : s.MemOk) : (writePlaces l v s).MemOk := by
  induction l generalizing v s with
  | nil => exact h
  | cons x l ih => exact ih _ (engPut_memOk h ..)
theorem applyCommit_memOk {s : State} (h : s.MemOk) (rt : Route) (dkey next att data : Nat) (ks : List (Route × Nat × Nat)) :
    (applyCommit s rt dkey next att data ks).MemOk := engPut_memOk (engPut_memOk (writePlaces_memOk ks data h) ..) ..
theorem homeCommit_memOk {s : State} (h : s.MemOk) (o : Op) (launch task att : Nat) (base : BitVec 32) (desc : Word) (dkey size data : Nat) :
    (homeCommit s o launch task att base desc dkey size data).2.MemOk := by
  unfold homeCommit; dsimp only
  split
  · exact h
  · exact h
  · have h1 := readPlace_memOk h 0 (descRoute s o.part desc dkey) dkey 16
    split
    · exact h1
    · split
      · exact h1
      · exact h1
      · split
        · exact memOk_of_mem (applyCommit_memOk h1 ..)
            ((retryReads_mem ..).trans ((sendCancel_mem ..).trans ((markTask_mem ..).trans (touchRecord_mem ..))))
        · split
          · exact h1
          · exact memOk_of_mem h1 ((sendCancel_mem ..).trans (markTask_mem ..))
theorem execCommitAtHome_nextOk {s : State} (h : s.MemOk) (id : Nat) : NextOk (execCommitAtHome id s) := by
  unfold execCommitAtHome
  split
  · exact nextOk_next.2 h
  · split
    · split
      · exact nextOk_next.2 (memOk_of_mem h (State.after_mem ..))
      · exact nextOk_next.2 h
      · refine .ite (nextOk_next.2 (memOk_of_mem h (State.after_mem ..))) (nextOk_next.2 ?_)
        exact memOk_of_mem (homeCommit_memOk (memOk_of_mem h (spend_mem ..)) ..) ((State.after_mem ..).trans (setAns_mem ..))
    · exact nextOk_next.2 h
theorem wonRecord_memOk {s : State} (h : s.MemOk) (o : Op) : (wonRecord s o).MemOk := by
  refine completeHandle_memOk ?_ ..
  split
  · exact memOk_of_mem h (addSample_mem ..)
  · exact h
theorem commitErr_memOk {s : State} (h : s.MemOk) (o : Op) (c : Cond) (pc : Word) : (commitErr s o c pc).MemOk :=
  memOk_of_mem (completeHandle_memOk (memOk_of_mem h ((State.modRec_mem ..).trans (State.dropOp_mem ..))) ..) (afterOp_mem ..)
theorem execCommitReply_nextOk {s : State} (h : s.MemOk) (id : Nat) : NextOk (execCommitReply id s) := by
  have h1 : (s.dropOp id).MemOk := memOk_of_mem h (State.dropOp_mem ..)
  unfold execCommitReply
  split
  · exact nextOk_next.2 h
  · split
    · split
      · exact nextOk_next.2 (memOk_of_mem h (State.after_mem ..))
      · exact nextOk_next.2 h
      · exact nextOk_next.2 (memOk_of_mem (wonRecord_memOk h1 _) (afterOp_mem ..))
      · refine nextOk_next.2 (memOk_of_mem ?_ (afterOp_mem ..))
        split
        · exact dropRest_memOk h1 _
        · exact h1
      · exact nextOk_next.2 (commitErr_memOk h ..)
    · exact nextOk_next.2 h
theorem acquireFor_memOk {s : State} (h : s.MemOk) (o : Op) : (acquireFor s o).MemOk := by
  unfold acquireFor
  split
  · exact acquire_memOk h ..
  · exact h
theorem endRead_memOk {s : State} (h : s.MemOk) (o : Op) (d : BitVec 5) (v : Option Word) (c : Option Cond) (owed : Bool) :
    (endRead s o d v c owed).MemOk := by
  have h0 : (s.dropOp o.id).MemOk := memOk_of_mem h (State.dropOp_mem ..)
  have h1 := memOk_ite (c := v.isSome = true) (acquireFor_memOk h0 o) h0
  exact memOk_of_mem (completeHandle_memOk (memOk_of_mem h1 (freeScalar_mem ..)) ..) ((wakeQueue_mem _).trans (afterOp_mem ..))
theorem execTreadAtHome_nextOk {s : State} (h : s.MemOk) (id : Nat) : NextOk (execTreadAtHome id s) := by
  unfold execTreadAtHome
  split
  · exact nextOk_next.2 h
  next o _ =>
  split
  · split
    · exact nextOk_next.2 (memOk_of_mem h (State.after_mem ..))
    · exact nextOk_next.2 h
    · split
      · exact nextOk_next.2 (endRead_memOk h ..)
      · exact nextOk_next.2 (endRead_memOk h ..)
      · split
        next desc dkey ver d dst size since home _ _ _ _ _ _ _ _ v s1 e =>
        have hs : (if home = true then s else s.spend (keyDev s dkey)).MemOk := memOk_ite h (memOk_of_mem h (spend_mem ..))
        have h1 : s1.MemOk := by
          have := readPlace_memOk hs 0 (descRoute s o.part desc dkey) dkey 16
          rwa [e] at this
        extract_lets since' put kept
        have hput (x : State) (hx : x.MemOk) (rdy : Option (Nat × Nat)) : (put x rdy).MemOk := memOk_of_mem hx (State.modOp_mem ..)
        have hkept : kept.MemOk := memOk_ite h1 (memOk_of_mem (hput _ h1 _) (State.after_mem ..))
        clear_value kept put
        refine .ite (nextOk_next.2 hkept) ?_
        split
        · exact nextOk_next.2 (endRead_memOk h1 ..)
        · exact nextOk_next.2 (memOk_of_mem hkept (State.after_mem ..))
        · split
          · exact nextOk_next.2 (endRead_memOk h1 ..)
          · exact nextOk_next.2 h1
          · next s2 e2 =>
            have h2 : s2.MemOk := (engRead_gives 0 _ h1).of_ok _ e2
            exact nextOk_next.2 (memOk_of_mem (hput _ (touchRecord_memOk h2 ..) _) (State.after_mem ..))
  · exact nextOk_next.2 h
theorem execTreadReply_nextOk {s : State} (h : s.MemOk) (id : Nat) : NextOk (execTreadReply id s) := by
  unfold execTreadReply
  split
  · exact nextOk_next.2 h
  · split
    · split
      · exact nextOk_next.2 (memOk_of_mem h (State.after_mem ..))
      · exact nextOk_next.2 h
      · exact nextOk_next.2 (endRead_memOk (putFull_memOk h ..) ..)
    · exact nextOk_next.2 h
theorem execTreadWatchdog_nextOk {s : State} (h : s.MemOk) (id : Nat) : NextOk (execTreadWatchdog id s) := by
  unfold execTreadWatchdog
  split
  · exact nextOk_next.2 h
  · split
    · exact .ite (nextOk_next.2 (memOk_of_mem h (State.after_mem ..))) (nextOk_next.2 (endRead_memOk h ..))
    · exact nextOk_next.2 h
@[simp] theorem getD_makeAttempt_unbudget_mem (s : State) (l l' : Launch) (die : Nat) (x : Seed) :
    ((makeAttempt s l die x).getD (unbudget s l')).mem = s.mem := by
  cases e : makeAttempt s l die x with
  | none => exact unbudget_mem ..
  | some t => exact makeAttempt_mem e
@[simp] theorem placeBackup_mem (s : State) (l : Launch) (w : Want) (a : Nat) : (placeBackup s l w a).mem = s.mem := by
  unfold placeBackup; dsimp only
  split
  · exact getD_makeAttempt_unbudget_mem ..
  · split
    · split
      · exact unbudget_mem ..
      · exact getD_makeAttempt_unbudget_mem ..
    · split
      · exact unbudget_mem ..
      · exact offerBackup_mem ..
@[simp] theorem numberBackup_mem (s : State) (w : Want) : (numberBackup s w).mem = s.mem := by
  unfold numberBackup
  split
  · split
    · exact unbudget_mem ..
    · rfl
  · next e =>
    split
    · exact (placeBackup_mem ..).trans (takeNumber_mem e)
    · exact takeNumber_mem e
@[simp] theorem grantBackup_mem (s : State) (l : Launch) (w : Want) : (grantBackup s l w).mem = s.mem := by simp [grantBackup]
@[simp] theorem testThread_mem (die : Nat) (s : State) (n : Nat) : (testThread die s n).mem = s.mem := by
  unfold testThread; dsimp only
  split
  · rfl
  · split
    · rfl
    · simp
theorem execStragglerTest_nextOk {s : State} (h : s.MemOk) (die : Nat) : NextOk (execStragglerTest die s) := by
  unfold execStragglerTest
  refine .ite (nextOk_next.2 (memOk_of_mem h (State.after_mem ..))) ?_
  extract_lets s1
  have h1 : s1.MemOk := memOk_ite (memOk_of_mem h (foldl_mem (keepsMem_iff.2 (testThread_mem die)) ..)) h
  exact nextOk_next.2 (memOk_ite (memOk_of_mem h1 (State.after_mem ..)) h1)
@[simp] theorem sendAway_mem (s : State) (l : Launch) (task a asker : Nat) : (sendAway s l task a asker).mem = s.mem := by simp [sendAway]
theorem execHedgeBudgetRequest_nextOk {s : State} (h : s.MemOk) (dev launch task attempt : Nat) :
    NextOk (execHedgeBudgetRequest dev launch task attempt s) := by
  unfold execHedgeBudgetRequest
  split
  · exact nextOk_next.2 h
  · refine .ite (nextOk_next.2 (memOk_of_mem h (owe_mem ..))) (.ite (nextOk_next.2 (memOk_ite (memOk_of_mem ?_ (owe_mem ..)) h))
      (.ite (nextOk_next.2 (memOk_of_mem h ((owe_mem ..).trans (denied_mem ..)))) ?_))
    · split
      · next e => exact memOk_of_mem h (takeNumber_mem e)
      · exact h
    · have h1 (off : Nat) (d : Int) : (addReg s off d).MemOk := memOk_of_mem h (addReg_mem ..)
      refine .ite (nextOk_next.2 (memOk_of_mem (h1 ..) (askFar_mem ..))) ?_
      split
      · exact nextOk_next.2 (memOk_of_mem (h1 ..) (unbudget_mem ..))
      · next e => exact nextOk_next.2 (memOk_of_mem (h1 ..) ((owe_mem ..).trans ((sendAway_mem ..).trans (takeNumber_mem e))))
@[simp] theorem ownAnswer_mem (s : State) (l : Launch) (w : Want) (o : Option Nat) : (ownAnswer s l w o).mem = s.mem := by
  cases o <;> simp [ownAnswer]
theorem execHedgeBudgetAnswer_nextOk {s : State} (h : s.MemOk) (launch task attempt : Nat) (granted : Option Nat) :
    NextOk (execHedgeBudgetAnswer launch task attempt granted s) := by
  have h1 (f : Sched → Sched) : (s.modSch f).MemOk := memOk_of_mem h (State.modSch_mem ..)
  unfold execHedgeBudgetAnswer
  split
  · refine .ite (nextOk_next.2 ?_) (nextOk_next.2 (memOk_of_mem (h1 _) ((State.after_mem ..).trans ((lessAlive_mem ..).trans (ownAnswer_mem ..)))))
    split
    · exact h1 _
    · exact memOk_ite (memOk_of_mem (h1 _) (replaceAttempt_mem ..))
        (memOk_ite (memOk_of_mem (h1 _) (numberBackup_mem ..)) (memOk_of_mem (h1 _) (placeBackup_mem ..)))
  · exact nextOk_next.2 h
theorem execBackupOffer_nextOk {s : State} (h : s.MemOk) (launch task attempt : Nat) (base : BitVec 32) :
    NextOk (execBackupOffer launch task attempt base s) := by
  have ha (l : Launch) : NextOk (.next (answerOffer s l task attempt)) := nextOk_next.2 (memOk_of_mem h (answerOffer_mem ..))
  unfold execBackupOffer
  split
  · exact nextOk_next.2 h
  · refine .ite (ha _) (.ite (nextOk_next.2 (memOk_of_mem h (State.after_mem ..))) ?_)
    split
    · exact ha _
    · split
      · exact nextOk_next.2 (memOk_of_mem h (State.after_mem ..))
      · next s1 e =>
        have h1 : s1.MemOk := readTask_memOk h e
        refine nextOk_next.2 (memOk_of_mem ?_ (answerOffer_mem ..))
        cases e2 : makeAttempt (comesHome s1 launch task attempt) _ _ _ with
        | none => exact h
        | some t => exact memOk_of_mem h1 ((makeAttempt_mem e2).trans (comesHome_mem ..))
theorem execEndNotice_nextOk {s : State} (h : s.MemOk) (launch status : Nat) : NextOk (execEndNotice launch status s) := by
  unfold execEndNotice
  split
  · exact nextOk_next.2 (memOk_ite (endLaunch_memOk h ..) h)
  · exact nextOk_next.2 (memOk_of_mem h (State.modSch_mem ..))

end Sys2Proof.Machine
end

section
/-! Bring-up, the move of a die's memory, and the host's cache keep the canonical form. -/
namespace Sys2Proof.Machine
open Sys2Proof

theorem execPowerUp_nextOk {s : State} (h : s.MemOk) : NextOk (execPowerUp s) := nextOk_next.2 (restart_memOk h 0)
theorem execBringupDieTimeout_nextOk {s : State} (h : s.MemOk) (die : Nat) (hbm : Bool) : NextOk (execBringupDieTimeout die hbm s) :=
  .ite (nextOk_next.2 (memOk_ite (memOk_of_mem h (setBoot_mem ..)) h)) (.ite (nextOk_next.2 (loseDie_memOk h ..)) (nextOk_next.2 h))

/-- The moved entries fill the span at `k2`: they keep their order and stand between the kept entries below and above it. -/
theorem moveCells_wf (k n k2 : Nat) {l : List Host.Cell} (h : cellsWf l = true) : cellsWf (moveCells k n k2 l) = true := by
  rw [cellsWf_iff] at h ⊢
  obtain ⟨hv, hs⟩ := h
  have hrest (p q : Host.Cell → Bool) {c : Host.Cell} (hc : c ∈ (l.filter p).filter q) : c ∈ l ∧ q c = true :=
    ⟨(List.mem_filter.1 (List.mem_filter.1 hc).1).1, (List.mem_filter.1 hc).2⟩
  have hpart {c : Host.Cell}
      (hc : c ∈ (l.filter (fun c => decide (k ≤ c.1) && decide (c.1 < k + n))).map (fun c => (c.1 - k + k2, c.2))) :
      c.2 ≠ unlisted ∧ k2 ≤ c.1 ∧ c.1 < k2 + n := by
    obtain ⟨b, hb, rfl⟩ := List.mem_map.1 hc
    obtain ⟨hb1, hb2⟩ := List.mem_filter.1 hb
    simp only [Bool.and_eq_true, decide_eq_true_eq] at hb2
    exact ⟨hv b hb1, by dsimp only; omega, by dsimp only; omega⟩
  have hsorted : ((l.filter (fun c => decide (k ≤ c.1) && decide (c.1 < k + n))).map (fun c => (c.1 - k + k2, c.2))).Pairwise
      (fun a b => a.1 < b.1) := by
    refine List.pairwise_map.2 ((hs.filter _).imp_of_mem fun {a b} ha _ hab => ?_)
    have := (List.mem_filter.1 ha).2
    simp only [Bool.and_eq_true, decide_eq_true_eq] at this
    dsimp only; omega
  simp only [moveCells, below, from']
  constructor
  · intro c hc
    rcases List.mem_append.1 hc with hc | hc
    · rcases List.mem_append.1 hc with hc | hc
      · exact hv c (hrest _ _ hc).1
      · exact (hpart hc).1
    · exact hv c (hrest _ _ hc).1
  · refine List.pairwise_append.2 ⟨List.pairwise_append.2 ⟨(hs.filter _).filter _, hsorted, fun a ha b hb => ?_⟩, (hs.filter _).filter _,
      fun a ha b hb => ?_⟩
    · have := of_decide_eq_true (hrest _ _ ha).2
      have := (hpart hb).2
      omega
    · have := of_decide_eq_true (hrest _ _ hb).2
      rcases List.mem_append.1 ha with ha | ha
      · have := of_decide_eq_true (hrest _ _ ha).2
        omega
      · have := (hpart ha).2
        omega
theorem moveHbm_wf (k k2 : Nat) {m : Mem} (h : m.wf = true) : (moveHbm k k2 m).wf = true := moveCells_wf k dieBytes k2 h
theorem leaveDie_wf (old : Vector Nat 8) {m : Mem} (h : m.wf = true) (d : Nat) : (leaveDie old m d).wf = true := by
  unfold leaveDie
  split
  · exact moveHbm_wf _ _ h
  · exact h
theorem enterDie_wf (new : Vector Nat 8) {m : Mem} (h : m.wf = true) (d : Nat) : (enterDie new m d).wf = true := by
  unfold enterDie
  show Mem.wf (if _ then _ else m) = true
  split
  · exact moveHbm_wf _ _ h
  · exact h
theorem takeMap_memOk {s : State} (h : s.MemOk) (new : Vector Nat 8) : (takeMap s new).MemOk :=
  wf_foldl (enterDie new) (fun _ d h => enterDie_wf new h d) _ (wf_foldl (leaveDie s.plat.dieMap) (fun _ d h => leaveDie_wf _ h d) _ h)
theorem failDies_memOk (cause : Nat) (bits : BitVec 8) {s : State} (h : s.MemOk) : (failDies cause bits s).MemOk := by
  refine memOk_foldl _ (fun x p h => ?_) _ h
  split
  · exact loseDie_memOk h ..
  · exact memOk_ite h (withPlat_memOk h _)
theorem dieUp_memOk {s : State} (h : s.MemOk) (d : Nat) : (dieUp s d).MemOk := by
  refine memOk_ite (memOk_ite h ?_) (memOk_ite (memOk_of_mem h (State.setReg0_mem ..)) (loseDie_memOk h ..))
  exact memOk_foldl _ (fun x c h => memOk_ite (memOk_of_mem h (State.setCore_mem ..)) h) _ (memOk_of_mem h (setDie_mem ..))
theorem execBringupFull_nextOk {s : State} (h : s.MemOk) (f : FailedDies) : NextOk (execBringupFull f s) := by
  have h0 := failDies_memOk 6 f.hbm (failDies_memOk 4 f.late h)
  have h1 (m : Vector Nat 8) := memOk_foldl dieUp (fun _ d h => dieUp_memOk h d) (List.range 8) (takeMap_memOk h0 m)
  unfold execBringupFull
  extract_lets s0 s1
  refine .ite (nextOk_next.2 h) (nextOk_next.2 (memOk_of_mem (h1 (mapDies s0)) ?_))
  have hg (x : State) : (allGrants (wakeQueue x)).mem = x.mem := (allGrants_mem _).trans (wakeQueue_mem _)
  exact (soonAll_mem _).trans ((retryGangs_mem _).trans ((hg _).trans ((trainPorts_mem _).trans (setBoot_mem ..))))
theorem execCxlMemAccess_nextOk {s : State} (h : s.MemOk) (off len : Nat) (store : Option Nat) : NextOk (execCxlMemAccess off len store s) := by
  unfold execCxlMemAccess
  refine .ite (nextOk_next.2 (memOk_ite (memOk_of_mem h (cxlAnswer_mem ..)) h)) (.ite (nextOk_next.2 (memOk_of_mem h (State.after_mem ..))) ?_)
  split
  · exact nextOk_next.2 (memOk_of_mem (l3Touch_memOk h ..) (cxlAnswer_mem ..))
  · exact nextOk_next.2 (modM_put_memOk (l3Touch_memOk h ..) ..)
theorem execCxlCacheSnoop_nextOk {s : State} (h : s.MemOk) (x : HostLine) (invalidate : Bool) : NextOk (execCxlCacheSnoop x invalidate s) :=
  nextOk_next.2 (memOk_foldl hostWrite (fun _ w h => hostWrite_memOk h w) x.writes (snoop_memOk h ..))
theorem execVirtualDieRemap_nextOk {s : State} (h : s.MemOk) (vdie pdie : Nat) : NextOk (execVirtualDieRemap vdie pdie s) := by
  unfold execVirtualDieRemap
  extract_lets boot run old s1 gone _ s2
  refine .ite (nextOk_next.2 h) ?_
  have h1 : s1.MemOk := takeMap_memOk h _
  have h2 : s2.MemOk := memOk_ite (withPlat_memOk h1 _) h1
  clear_value s2
  refine nextOk_next.2 (memOk_ite ?_ h2)
  exact memOk_of_mem (dieUp_memOk h2 vdie) ((retryGangs_mem _).trans ((allGrants_mem _).trans ((wakeQueue_mem _).trans (soon_mem ..))))

end Sys2Proof.Machine
end


section
/-! The fabric's ports and cuts, and Ethernet, keep the canonical form. -/
namespace Sys2Proof.Machine
open Sys2Proof

theorem failReplies_memOk (dev : Nat) {s : State} (h : s.MemOk) (n : Nat) : (failReplies dev s n).MemOk :=
  memOk_foldl _ (fun _ r h => asThread_memOk h n fun _ hx => landReply_memOk hx _ r) _ h
theorem failOpTo_memOk (dev : Nat) {s : State} (h : s.MemOk) (o : Op) : (failOpTo dev s o).MemOk := by
  unfold failOpTo; dsimp only
  split
  · exact commitErr_memOk h ..
  · exact endRead_memOk h ..
  · exact completeHandle_memOk (memOk_of_mem h (State.dropOp_mem ..)) ..
  · exact memOk_of_mem h (setPieces_mem ..)
  · exact h
theorem failPort_memOk {s : State} (h : s.MemOk) (p dev : Nat) : (failPort s p dev).MemOk := by
  unfold failPort
  extract_lets ws _ s1 s2 s3 s4
  have h1 : s1.MemOk := memOk_of_mem h ((foldl_mem (keepsMem_iff.2 (failStore_mem dev)) ..).trans (State.setPort_mem ..))
  have h2 : s2.MemOk := memOk_of_mem h1 (foldl_mem (keepsMem_iff.2 (failPosted_mem dev)) ..)
  have h3 : s3.MemOk := memOk_foldl _ (fun _ n h => failReplies_memOk dev h n) _ h2
  have h4 : s4.MemOk := memOk_foldl _ (fun _ o h => failOpTo_memOk dev h o) _ h3
  exact memOk_of_mem h4 ((wakeQueue_mem _).trans (failAsked_mem ..))
theorem peerWrite_memOk {s : State} (h : s.MemOk) (own ma len v : Nat) : (peerWrite s own ma len v).MemOk :=
  memOk_ite (memOk_ite (memOk_of_mem h (setTail_mem ..)) h)
    (memOk_ite h (memOk_ite h (memOk_ite h (modM_put_memOk (l3Touch_memOk h ..) ..))))
theorem performFlit_memOk {s : State} (h : s.MemOk) (p : Nat) (f : Flit) : (performFlit s p f).MemOk := by
  unfold performFlit; dsimp only
  split
  · exact peerWrite_memOk h ..
  · exact memOk_ite (l3Touch_memOk h ..) h
  · exact h
  · exact memOk_of_mem h ((resendCancels_mem _).trans ((kickDev_mem ..).trans ((sendWaiting_mem ..).trans (setPortWord_mem ..))))
  · exact memOk_ite h (atomicAt_memOk h ..)
  · exact memOk_ite h (homeCommit_memOk h ..)
  · exact memOk_of_mem h ((State.after_mem ..).trans (State.modSch_mem ..))
  · exact memOk_of_mem h (State.after_mem ..)
theorem applyFlit_memOk {s : State} (h : s.MemOk) (p : Nat) (f : Flit) : (applyFlit s p f).MemOk := by
  unfold applyFlit
  split
  · exact memOk_of_mem (performFlit_memOk h p f) (owe_mem ..)
  · exact performFlit_memOk h p f
theorem takeFlit_memOk {s : State} (h : s.MemOk) (p : Nat) (f : Flit) : (takeFlit s p f).MemOk :=
  memOk_ite (memOk_of_mem h (State.setPort_mem ..)) (memOk_ite (memOk_of_mem h ((countCapt_mem _).trans (State.setPort_mem ..)))
    (memOk_ite (memOk_of_mem h (State.setPort_mem ..)) (applyFlit_memOk h p f)))
theorem execFlitReceive_nextOk {s : State} (h : s.MemOk) (port : Nat) (f : Flit) : NextOk (execFlitReceive port f s) :=
  .ite (nextOk_next.2 h) (nextOk_next.2 (takeFlit_memOk (memOk_of_mem h (State.setPort_mem ..)) port f))
theorem unqueue_memOk {s : State} (h : s.MemOk) (p : Nat) : (unqueue s p).MemOk := by
  refine memOk_foldl _ (fun y a h => ?_) _ (memOk_of_mem h (State.setPort_mem ..))
  split
  · exact takeFlit_memOk h ..
  · exact memOk_of_mem h (takeMarker_mem ..)
theorem freePort_memOk {s : State} (h : s.MemOk) (p : Nat) : (freePort s p).MemOk := by
  unfold freePort
  extract_lets x s1 s2
  have h1 : s1.MemOk := memOk_foldl _ (fun _ f h => applyFlit_memOk h p f) _ (memOk_of_mem h (State.setPort_mem ..))
  have h2 : s2.MemOk := memOk_of_mem h1 (setPortWord_mem ..)
  exact memOk_ite h1 (memOk_ite (memOk_of_mem h2 ((kickDev_mem ..).trans (sendWaiting_mem ..)))
    (memOk_of_mem h2 ((State.after_mem ..).trans (State.setPort_mem ..))))
theorem releaseCut_memOk {s : State} (h : s.MemOk) (st : Nat) : (releaseCut s st).MemOk := by
  have h2 (l : List Nat) (off : Nat) (v : Word) : (l.foldl freePort (s.setReg2 off v)).MemOk :=
    memOk_foldl freePort (fun _ p h => freePort_memOk h p) l (memOk_of_mem h (State.setReg2_mem ..))
  unfold releaseCut
  extract_lets held s1 s2 s3
  have h3 : s3.MemOk := memOk_of_mem (h2 held ..) ((wakeQueue_mem _).trans (resendCancels_mem _))
  exact memOk_foldl unqueue (fun _ p h => unqueue_memOk h p) _ h3
theorem execCutRel_nextOk {s : State} (h : s.MemOk) : NextOk (execCutRel s) := nextOk_next.2 (memOk_ite (releaseCut_memOk h 0) h)
theorem execCutAbort_nextOk {s : State} (h : s.MemOk) : NextOk (execCutAbort s) := nextOk_next.2 (memOk_ite (releaseCut_memOk h 4) h)
theorem execPortDark_nextOk {s : State} (h : s.MemOk) (port : Nat) : NextOk (execPortDark port s) := by
  unfold execPortDark
  extract_lets x s1 s3
  have h1 : s1.MemOk := memOk_of_mem h ((showLams_mem ..).trans ((State.setPort_mem ..).trans (setPortWord_mem ..)))
  have h3 : s3.MemOk := memOk_of_mem h1 ((State.after_mem ..).trans (watchBackups_mem ..))
  exact .ite (nextOk_next.2 h) (nextOk_next.2 (memOk_ite (releaseCut_memOk h3 4) h3))
theorem execDarkPortTimeout_nextOk {s : State} (h : s.MemOk) (port : Nat) : NextOk (execDarkPortTimeout port s) := by
  unfold execDarkPortTimeout
  split
  · exact nextOk_next.2 h
  · exact .ite (nextOk_next.2 h) (nextOk_next.2 (failPort_memOk h ..))
theorem execPortLinkUp_nextOk {s : State} (h : s.MemOk) (port peer allowance lam : Nat) : NextOk (execPortLinkUp port peer allowance lam s) := by
  have h1 (off : Nat) (v : Word) (x : PortSt) : (showLams ((s.setReg2 off v).setPort port x) port).MemOk :=
    memOk_of_mem h ((showLams_mem ..).trans ((State.setPort_mem ..).trans (State.setReg2_mem ..)))
  unfold execPortLinkUp; dsimp only
  refine .ite (nextOk_next.2 h) (nextOk_next.2 (memOk_of_mem ?_ ((wakeQueue_mem _).trans (resendCancels_mem _))))
  have h2 (c : Bool) (off : Nat) (v : Word) (x : PortSt) (old : Nat) :
      (if c = true then failPort (showLams ((s.setReg2 off v).setPort port x) port) port old else
        showLams ((s.setReg2 off v).setPort port x) port).MemOk := memOk_ite (failPort_memOk (h1 ..) ..) (h1 ..)
  exact memOk_ite (h2 ..) (memOk_of_mem (h2 ..) ((kickDev_mem ..).trans (sendWaiting_mem ..)))
theorem fetchRing_memOk (port q : Nat) (rx : Bool) (size tail n i : Nat) {s : State} (h : s.MemOk) : (fetchRing port q rx size tail n i s).MemOk := by
  induction n generalizing i s with
  | zero => exact h
  | succ n ih =>
    unfold fetchRing
    refine memOk_ite h ?_
    split
    · exact memOk_of_mem h (ethStop_mem ..)
    · next e => exact ih _ (memOk_of_mem ((vmRead_gives h ..).of_ok _ e) (State.setEthQ_mem ..))
theorem fetchPair_memOk {s : State} (h : s.MemOk) (port q : Nat) : (fetchPair s port q).MemOk := by
  unfold fetchPair; dsimp only
  have h1 (size tail n i : Nat) := fetchRing_memOk port q false size tail n i h
  exact memOk_ite h (memOk_ite (h1 ..) (fetchRing_memOk _ _ _ _ _ _ _ (h1 ..)))
theorem execEthDescriptorFetch_nextOk {s : State} (h : s.MemOk) (port q : Nat) : NextOk (execEthDescriptorFetch port q s) :=
  nextOk_next.2 (memOk_of_mem (fetchPair_memOk h port q) (State.after_mem ..))
theorem putStatus_memOk {s : State} (h : s.MemOk) (port q : Nat) (rx : Bool) (i code : Nat) : (putStatus s port q rx i code).MemOk := by
  unfold putStatus
  split
  · exact memOk_of_mem h (ethStop_mem ..)
  · next s1 e =>
    have h1 : s1.MemOk := (vmWrite_gives h ..).of_ok _ e
    exact memOk_of_mem (memOk_ite (memOk_of_mem h1 (ethStop_mem ..)) h1) (ethInt_mem ..)
theorem sendOne_memOk {s : State} (h : s.MemOk) (port q i d : Nat) : (sendOne s port q i d).MemOk := by
  unfold sendOne
  extract_lets n
  refine memOk_ite (putStatus_memOk h ..) (memOk_ite (putStatus_memOk h ..) ?_)
  split
  · exact putStatus_memOk h ..
  · next v s1 e =>
    have h1 : s1.MemOk := (vmRead_gives h ..).of_ok _ e
    refine memOk_of_mem ?_ ((State.setEthQ_mem ..).trans (State.setReg2_mem ..))
    exact putStatus_memOk (memOk_of_mem (withPlat_memOk h1 _) (ethCount_mem ..)) ..
theorem execEthFrameSent_nextOk {s : State} (h : s.MemOk) (port q : Nat) : NextOk (execEthFrameSent port q s) := by
  unfold execEthFrameSent
  refine .ite (nextOk_next.2 h) (.ite (nextOk_next.2 (memOk_of_mem h (State.after_mem ..))) ?_)
  split
  · exact nextOk_next.2 h
  · exact nextOk_next.2 (memOk_of_mem (sendOne_memOk h ..) (State.after_mem ..))
theorem recvOne_memOk {s : State} (h : s.MemOk) (port q i d f n : Nat) : (recvOne s port q i d f n).MemOk := by
  unfold recvOne
  extract_lets strip len v part room
  refine memOk_ite (putStatus_memOk h ..) (memOk_ite (putStatus_memOk h ..) ?_)
  split
  · exact putStatus_memOk h ..
  · next s1 e =>
    have h2 := memOk_of_mem ((vmWrite_gives h ..).of_ok s1 e) (State.freeWord_mem s1)
    dsimp only
    split
    · exact memOk_of_mem h2 (ethStop_mem ..)
    · next s3 e3 =>
      have h3 : s3.MemOk := (vmWrite_gives h2 ..).of_ok _ e3
      exact memOk_of_mem h3 ((State.setEthQ_mem ..).trans ((State.setReg2_mem ..).trans ((ethInt_mem ..).trans (ethCount_mem ..))))
theorem execEthFrameReceived_nextOk {s : State} (h : s.MemOk) (port : Nat) (frame : List (BitVec 8)) (fcsOk : Bool) :
    NextOk (execEthFrameReceived port frame fcsOk s) := by
  unfold execEthFrameReceived
  extract_lets n f q s1
  have h1 : s1.MemOk := fetchPair_memOk h port q
  refine .ite (nextOk_next.2 h) (.ite (nextOk_next.2 (memOk_of_mem h (ethCount_mem ..))) (.ite (nextOk_next.2 h)
    (.ite (nextOk_next.2 (memOk_of_mem h1 (ethCount_mem ..))) ?_)))
  split
  · exact nextOk_next.2 (memOk_of_mem h1 (ethCount_mem ..))
  · exact nextOk_next.2 (recvOne_memOk h1 ..)

end Sys2Proof.Machine
end

section
/-! The bivouac, theft and register writes keep the canonical form. -/
namespace Sys2Proof.Machine
open Sys2Proof

theorem bivHold_memOk {s : State} (h : s.MemOk) (l : Launch) : (bivHold s l).MemOk := by
  unfold bivHold
  extract_lets s1 s2 s3
  have h1 : s1.MemOk := memOk_of_mem h (State.modLaunch_mem ..)
  have h2 : s2.MemOk := memOk_foldl _ (fun _ _ h => memOk_of_mem h (State.modT_mem ..)) _ h1
  have h3 : s3.MemOk := memOk_of_mem (withdrawAll_memOk h2 _) (State.after_mem ..)
  exact memOk_ite h (withPlat_memOk h3 _)
theorem execBivWriteback_nextOk {s : State} (h : s.MemOk) : NextOk (execBivWriteback s) := by
  unfold execBivWriteback
  extract_lets s1 s2 s3
  have h1 : s1.MemOk := memOk_of_mem h ((setBiv_mem ..).trans (stopClocks_mem _))
  have h2 : s2.MemOk := memOk_foldl _ (fun _ l h => bivHold_memOk h l) _ h1
  have h3 : s3.MemOk := memOk_foldl _ (fun _ _ h => memOk_of_mem h (State.after_mem ..)) _ h2
  exact .ite (nextOk_next.2 h) (.ite (nextOk_next.2 (memOk_of_mem h ((State.after_mem ..).trans (bivStartCut_mem _))))
    (nextOk_next.2 (memOk_of_mem h3 ((State.after_mem ..).trans (State.after_mem ..)))))
theorem execBivForcedStop_nextOk {s : State} (h : s.MemOk) (th : Nat) : NextOk (execBivForcedStop th s) := by
  have h1 := bindOther_memOk h th
  unfold execBivForcedStop; dsimp only
  exact .ite (nextOk_next.2 h) (.ite (nextOk_next.2 (memOk_of_mem h (State.after_mem ..))) (.ite
    (nextOk_next.2 (memOk_of_mem h1 (State.after_mem ..)))
      (nextOk_next.2 (memOk_of_mem h1 ((State.after_mem ..).trans ((opens_mem ..).trans (State.modT_mem ..)))))))
theorem flushL3_wf {m : Mem} (h : m.wf = true) : (flushL3 m).wf = true := wf_foldl l3Evict (fun _ x h => l3Evict_wf h x) _ h
theorem emptyCaches_wf {m : Mem} (h : m.wf = true) : ({ flushL3 { m with pins := [] } with l1 := [], l2 := [] } : Mem).wf = true := flushL3_wf h
theorem execBivFlush_nextOk {s : State} (h : s.MemOk) : NextOk (execBivFlush s) := by
  have h1 := memOk_foldl drainAll (fun _ c h => drainAll_memOk h c) (s.cores.map (·.1)) h
  have h2 := memOk_foldl writeBackDie (fun _ d h => writeBackDie_memOk h d) (List.range 8) h1
  unfold execBivFlush
  extract_lets s1 s2 s3
  have h3 : s3.MemOk := modM_memOk (emptyCaches_wf h2)
  clear_value s3
  exact .ite (nextOk_next.2 h) (.ite (nextOk_next.2 (memOk_of_mem h (State.after_mem ..)))
    (nextOk_next.2 (memOk_of_mem h3 ((State.after_mem ..).trans (setBiv_mem ..)))))
theorem execBivSelfref_nextOk {s : State} (h : s.MemOk) : NextOk (execBivSelfref s) :=
  .ite (nextOk_next.2 (memOk_of_mem h ((State.after_mem ..).trans (setBiv_mem ..))))
    (.ite (nextOk_next.2 (modM_memOk_of_cells (memOk_of_mem h ((sleepPorts_mem _).trans (setBiv_mem ..))) fun _ => rfl)) (nextOk_next.2 h))
theorem execBivEntryFail_nextOk {s : State} (h : s.MemOk) : NextOk (execBivEntryFail s) := by
  unfold execBivEntryFail
  extract_lets late s1 s2
  have h1 : s1.MemOk := memOk_ite (memOk_of_mem h (startClocks_mem _)) h
  have h2 : s2.MemOk := memOk_of_mem h1 (setBiv_mem ..)
  exact .ite (nextOk_next.2 h) (.ite (nextOk_next.2 (memOk_of_mem h (State.after_mem ..)))
    (nextOk_next.2 (memOk_of_mem (memOk_ite (releaseCut_memOk h2 4) h2) (goOn_mem _))))
theorem execBivReplay_nextOk {s : State} (h : s.MemOk) : NextOk (execBivReplay s) := by
  unfold execBivReplay
  extract_lets s1 s2 _ s3
  have h1 : s1.MemOk := memOk_of_mem h ((setBiv_mem ..).trans ((startClocks_mem _).trans (repairRows_mem _)))
  have h2 : s2.MemOk := memOk_foldl _ (fun _ _ h => memOk_ite h (loseDie_memOk h ..)) _ h1
  have h3 : s3.MemOk := withPlat_memOk h2 _
  clear_value s3
  exact .ite (nextOk_next.2 h) (.ite (nextOk_next.2 (memOk_of_mem h ((State.after_mem ..).trans (setBiv_mem ..))))
    (nextOk_next.2 (memOk_of_mem (memOk_ite (releaseCut_memOk h3 0) h3) ((goOn_mem _).trans (foldl_mem (keepsMem_iff.2 wakePort_mem) ..)))))
theorem execBivWakeFail_nextOk {s : State} (h : s.MemOk) : NextOk (execBivWakeFail s) := by
  have h2 (p : Plat) := withPlat_memOk (restart_memOk h 0) p
  exact .ite (nextOk_next.2 h) (nextOk_next.2 (memOk_of_mem (h2 _) ((setBiv_mem ..).trans (State.setReg2_mem ..))))
theorem scanList_memOk {s : State} (h : s.MemOk) (th : Nat) (l : List Nat) : (scanList s th l).MemOk := by
  unfold scanList
  split
  · exact memOk_ite (asThread_memOk h th fun _ hx => endThread_memOk hx) h
  · split
    · exact h
    · split
      · exact memOk_of_mem h (askBlock_mem ..)
      · exact memOk_of_mem h (State.after_mem ..)
theorem execIdleScan_nextOk {s : State} (h : s.MemOk) (th : Nat) : NextOk (execIdleScan th s) :=
  .ite (nextOk_next.2 h) (nextOk_next.2 (scanList_memOk h ..))
theorem carryOut_memOk {s : State} (h : s.MemOk) (th victim : Nat) (l : Launch) (r : Rec) (off f i : Nat) (pc : Word) :
    (carryOut s th victim l r off f i pc).MemOk := by
  unfold carryOut
  extract_lets vt g free s1 base src s2 s3 s4
  have h1 : s1.MemOk := memOk_ite (loadImage_memOk h ..) h
  have h2 : s2.MemOk := modM_memOk ((Mem.setFull_wf ..).trans (Mem.put_wf _ _ _ _ h1))
  have h3 : s3.MemOk := modM_memOk (undoGo_wf _ _ _ _ h2)
  have h4 : s4.MemOk := modM_put_memOk h3 ..
  exact asThread_memOk (memOk_of_mem h4 (State.setT_mem ..)) th fun _ hx => freshSearch_memOk hx
theorem thiefRec_mem {s t : State} {th : Nat} {l : Launch} {vr r : Rec} {a victim f : Nat} (e : thiefRec s th l vr a victim f = some (r, t)) :
    t.mem = s.mem := by
  unfold thiefRec at e; dsimp only at e
  split at e
  · cases e; simp
  · split at e
    · cases e
    · cases e; exact (modTask_mem ..).trans ((State.modLaunch_mem ..).trans (State.modSch_mem ..))
theorem stealFrom_memOk {s : State} (h : s.MemOk) (th victim : Nat) (rest : List Nat) (vr : Rec) (l : Launch) (a off f i : Nat) :
    (stealFrom s th victim rest vr l a off f i).MemOk := by
  have hh (b : Bool) : (setHold s victim b).MemOk := memOk_of_mem h (setHold_mem ..)
  unfold stealFrom
  split
  · exact hh _
  · next r s1 e =>
    have h1 : s1.MemOk := memOk_of_mem h (thiefRec_mem e)
    dsimp only
    split
    · exact memOk_of_mem h (State.after_mem ..)
    · exact scanList_memOk (hh _) ..
    · next x e2 =>
      have hx : x.MemOk := (entryOf_gives (memOk_of_mem h1 ((State.focus_mem ..).trans (State.setT_mem ..))) _ _).of_ok _ e2
      have h2 := memOk_of_mem hx ((State.setT_mem (x.focus s1.cur) th (s1.getT th)).trans (State.focus_mem ..))
      split
      · exact asThread_memOk (hh _) th fun _ hy => parkCore_memOk hy ..
      · exact memOk_of_mem (carryOut_memOk h2 ..) ((useNumber_mem ..).trans (setHold_mem ..))
theorem execTheft_nextOk {s : State} (h : s.MemOk) (th victim : Nat) : NextOk (execTheft th victim s) := by
  unfold execTheft
  extract_lets s0 keys t
  have h0 : s0.MemOk := drainAll_memOk h _
  have hh (b : Bool) : (setHold s0 victim b).MemOk := memOk_of_mem h0 (setHold_mem ..)
  clear_value s0
  refine .ite (nextOk_next.2 (memOk_of_mem (hh _) (State.after_mem ..))) (.ite (nextOk_next.2 (memOk_of_mem h0 (State.after_mem ..))) ?_)
  split
  · exact nextOk_next.2 h0
  · refine .ite (nextOk_next.2 (memOk_of_mem (hh _) (State.after_mem ..))) ?_
    split
    · split
      · exact nextOk_next.2 (stealFrom_memOk h0 ..)
      · exact nextOk_next.2 (memOk_of_mem (hh _) (State.after_mem ..))
    · exact nextOk_next.2 (hh _)
theorem preemptWrite_nextOk {s : State} (h : s.MemOk) (v : Word) : NextOk (preemptWrite s v) := by
  refine .ite (nextOk_next.2 h) ?_
  split
  · exact execPreemptHold_nextOk h _
  · exact (execPreemptRelease_keeps ..).nextOk h
  · exact execLaunchCancel_nextOk h _
  · exact nextOk_next.2 h
theorem tlbiWrite_nextOk {s : State} (h : s.MemOk) (v : Word) : NextOk (tlbiWrite s v) := by
  unfold tlbiWrite
  split
  · exact execTlbiPage_nextOk h ..
  · exact execTlbiPartition_nextOk h _
  · exact nextOk_next.2 h
theorem bar0Write_nextOk {s : State} (h : s.MemOk) (off : Nat) (v : Word) : NextOk (bar0Write s off v) := by
  have hm (mask : Word) : NextOk (.next (masked0 s off v mask)) := nextOk_next.2 (memOk_of_mem h (masked0_mem ..))
  unfold bar0Write
  refine .ite (nextOk_next.2 (memOk_of_mem h ((kickAll_mem _).trans (masked0_mem ..)))) (.ite (tlbiWrite_nextOk h v)
    (.ite (preemptWrite_nextOk h v) ?_))
  refine .ite (hm _) (.ite ((queueWrite_keeps ..).nextOk h) (.ite (hm _) (.ite ((dieWrite_keeps ..).nextOk h) (.ite ?_ (nextOk_next.2 h)))))
  exact nextOk_next.2 (memOk_of_mem h ((moveWindow_mem ..).trans (masked0_mem ..)))
theorem cutWrite_nextOk {s : State} (h : s.MemOk) (v : Word) : NextOk (cutWrite s v) := by
  have h1 := memOk_of_mem h (masked2_mem s 0x4000 v 0xFFFFFF0000000000)
  exact .ite (execCutAbort_nextOk h1) (.ite (execCutRel_nextOk h1) (.ite ((execCutGo_keeps ..).nextOk h1) (nextOk_next.2 h1)))
theorem bar2Write_nextOk {s : State} (h : s.MemOk) (off : Nat) (v : Word) : NextOk (bar2Write s off v) := by
  have hm (mask : Word) : (masked2 s off v mask).MemOk := memOk_of_mem h (masked2_mem ..)
  unfold bar2Write
  refine .ite ((bootWrite_keeps ..).nextOk h) (.ite (nextOk_next.2 (memOk_ite h (hm _))) (.ite ((execIluCfgWrite_keeps ..).nextOk h) ?_))
  refine .ite ((execIluRouteWrite_keeps ..).nextOk h) (.ite (nextOk_next.2 (memOk_of_mem h (State.setReg2_mem ..))) (.ite (cutWrite_nextOk h v) ?_))
  refine .ite (nextOk_next.2 (hm _)) (.ite ((bivWrite_keeps ..).nextOk h) (.ite ((ethWrite_keeps ..).nextOk h) ?_))
  exact .ite (nextOk_next.2 (modM_put_memOk h ..)) (nextOk_next.2 h)

end Sys2Proof.Machine
end


section
/-! Every instruction, every event and the step keep the canonical form. -/
namespace Sys2Proof.Machine
open Sys2Proof

theorem jumpTo_gives {s : State} (h : s.MemOk) (d : BitVec 5) (t : Word) : Gives State.MemOk (jumpTo s d t) :=
  .any fun _ => .pure (memOk_of_mem h ((State.setNext_mem ..).trans (State.setS_mem ..)))
theorem endThread_nextOk {s : State} (h : s.MemOk) {c : Chk Unit} {t : State} (ht : t.MemOk) :
    NextOk (finish s (c >>= fun _ => pure (endThread t))) :=
  finish_nextOk h (.any fun _ => .pure (endThread_memOk ht))
theorem execFcancel_nextOk {s : State} (h : s.MemOk) (x : BitVec 4) : NextOk (execFcancel x s) := by
  unfold execFcancel
  split
  · exact finish_nextOk h gives_raise
  · exact nextOk_next.2 (memOk_of_mem h ((State.modI_mem ..).trans (State.setH_mem ..)))
theorem execFget_nextOk {s : State} (h : s.MemOk) (d : BitVec 5) (x : BitVec 4) : NextOk (execFget d x s) :=
  finish_nextOk h (.bind (useHandle_gives h x) fun _ h1 => .pure (memOk_of_mem h1 (State.setS_mem ..)))
theorem execFput_nextOk {s : State} (h : s.MemOk) (x : BitVec 4) (a : BitVec 5) : NextOk (execFput x a s) :=
  finish_nextOk h (.bind (useHandle_gives h x) fun _ h1 => .pure (memOk_of_mem h1 (State.setH_mem ..)))
theorem execTryChoice_nextOk {s : State} (h : s.MemOk) (a b : BitVec 5) (n : BitVec 7) (map : BitVec 16) : NextOk (execTryChoice a b n map s) := by
  unfold execTryChoice
  split
  · exact finish_nextOk h gives_error
  · refine withMap_nextOk h _ fun v s1 h1 => finish_nextOk h ?_
    refine .any fun _ => .any fun _ => .any fun _ => .bind (entryOf_gives h1 ..) fun ⟨e, s2⟩ h2 => ?_
    dsimp only
    split
    · exact gives_error
    · exact pushFrame_gives h2 ..
theorem execFail_nextOk {s : State} (h : s.MemOk) : NextOk (execFail s) := by
  unfold execFail
  split
  · exact finish_nextOk h gives_error
  · have hd : (drainAll (s.modI (fun i => { i with wrote := [] })) (thCore s.cur)).MemOk := drainAll_memOk (memOk_of_mem h (State.modI_mem ..)) _
    obtain ⟨h1, h2⟩ := failGo_memOk (stackOf s s.cur).reverse hd
    exact .ite (nextOk_next.2 (block_memOk h _)) (finish_nextOk h1 h2)
theorem execCut_nextOk {s : State} (h : s.MemOk) (d : BitVec 5) (depth : BitVec 15) : NextOk (execCut d depth s) :=
  finish_nextOk h (.any fun _ => .ite (.pure h) (.pure (cutTo_memOk h _)))
theorem execMark_nextOk {s : State} (h : s.MemOk) (d : BitVec 5) : NextOk (execMark d s) :=
  finish_nextOk h (.any fun _ => .pure (memOk_of_mem h (State.setS_mem ..)))
theorem execBarl_nextOk {s : State} (h : s.MemOk) : NextOk (execBarl s) :=
  finish_nextOk h (.any fun _ => .any fun _ => .pure (memOk_of_mem h (leaveBars_mem ..)))
theorem execFence_nextOk {s : State} (h : s.MemOk) (sc : Scope) : NextOk (execFence sc s) :=
  finish_nextOk h (.bind (releaseChk_gives h sc) fun _ h1 => .pure (acquire_memOk h1 ..))
theorem execPin_nextOk {s : State} (h : s.MemOk) (d a b : BitVec 5) (l3 : Bool) (off : Option (BitVec 32)) : NextOk (execPin d a b l3 off s) :=
  finish_nextOk h ((pinRange_gives h ..).map fun _ h1 => memOk_of_mem h1 (State.setS_mem ..))
theorem execBar_nextOk {s : State} (h : s.MemOk) (level : BitVec 5) (map : Imm 15) : NextOk (execBar level map s) := by
  refine .ite (finish_nextOk h gives_raise) (withMap_nextOk h _ fun _ s1 h1 => ?_)
  have hr (n : Nat) (d : Nat) : NextOk (finish s (raise n d)) := finish_nextOk h gives_raise
  split
  · next l r _ _ =>
    refine .ite (hr ..) (.ite (hr ..) (.ite (hr ..) (nextOk_next.2 ?_)))
    have h2 (w : Why) (inst : Nat) : (barArrive (block (drainAll s1 (thCore s.cur)) w) l level.toNat inst r.w.task).MemOk :=
      memOk_of_mem (block_memOk (drainAll_memOk h1 _) w) (barArrive_mem ..)
    exact memOk_ite (memOk_of_mem (h2 ..) (State.after_mem ..)) (h2 ..)
  · exact hr ..
theorem handlerReturn_gives {s : State} (h : s.MemOk) (a : Word) : Gives State.MemOk (handlerReturn s a) := ⟨fun _ e => handlerReturn_memOk h e⟩
theorem scalarChk_nextOk {s : State} (h : s.MemOk) (p : BitVec 3) (d : BitVec 5) (x : Chk Word) : NextOk (scalarChk s p d x) :=
  .ite (finish_nextOk h (Gives.map (p := fun _ => True) ⟨fun _ _ => trivial⟩ fun _ _ => memOk_of_mem h (State.setS_mem ..))) (nextOk_next.2 h)
theorem vectorOut_nextOk {s : State} (h : s.MemOk) (w : Nat) (p : BitVec 3) (d : BitVec 5) (f : Nat → Nat) : NextOk (vectorOut s w p d f) :=
  (vectorOut_keeps ..).nextOk h
theorem convOut_nextOk {s : State} (h : s.MemOk) (w : Nat) (p : BitVec 3) (d : BitVec 5) (m : FMod) (n : Nat) (bad : Nat → Option Cond)
    (f : Nat → Nat → Nat) : NextOk (convOut s w p d m n bad f) := by
  unfold convOut
  split
  · exact nextOk_next.2 (takeCondition_memOk h ..)
  · exact vectorOut_nextOk (memOk_of_mem h (rsDraws_mem ..)) ..
theorem partOut_nextOk {s : State} (h : s.MemOk) (p : BitVec 3) (d a : BitVec 5) (ws wd q : Nat) (m : FMod) (bad : Nat → Nat → Option Cond)
    (f : Nat → Nat → Nat) : NextOk (partOut s p d a ws wd q m bad f) := by
  unfold partOut
  exact convOut_nextOk h ..
theorem execVcvt_nextOk {s : State} (h : s.MemOk) (p : BitVec 3) (d a : BitVec 5) (q : BitVec 2) (ts td : FTy) (m : FMod) :
    NextOk (execVcvt p d a q ts td m s) := by
  unfold execVcvt
  exact partOut_nextOk h ..
theorem execVpack_nextOk {s : State} (h : s.MemOk) (p : BitVec 3) (d a b : BitVec 5) (t : FTy) (m : FMod) : NextOk (execVpack p d a b t m s) := by
  unfold execVpack
  exact convOut_nextOk h ..
theorem execVunpk_nextOk {s : State} (h : s.MemOk) (p : BitVec 3) (d a : BitVec 5) (hi : Bool) (t : FTy) : NextOk (execVunpk p d a hi t s) := by
  unfold execVunpk
  exact convOut_nextOk h ..
theorem execVcvti_nextOk {s : State} (h : s.MemOk) (p : BitVec 3) (d a : BitVec 5) (q toFloat : Bool) (f : FTy) (t : ITy) (m : FMod) :
    NextOk (execVcvti p d a q toFloat f t m s) := .ite (partOut_nextOk h ..) (partOut_nextOk h ..)
theorem execScvt_nextOk {s : State} (h : s.MemOk) (p : BitVec 3) (d a : BitVec 5) (k : ScvtKind) (t : FTy) (m : FMod) :
    NextOk (execScvt p d a k t m s) := by
  have h1 := memOk_of_mem h (rsDraws_mem s m 1)
  refine .ite (finish_nextOk h ?_) (nextOk_next.2 h1)
  exact Gives.map (p := fun _ => True) ⟨fun _ _ => trivial⟩ fun _ _ => memOk_of_mem h1 (State.setS_mem ..)
theorem execVins_nextOk {s : State} (h : s.MemOk) (p : BitVec 3) (d a b : BitVec 5) (t : ITy) : NextOk (execVins p d a b t s) :=
  .ite (nextOk_next.2 (takeCondition_memOk h ..)) (vectorOut_nextOk h ..)
theorem execRegisterWrite_nextOk {s : State} (h : s.MemOk) (bank off : Nat) (value : BitVec 64) : NextOk (execRegisterWrite bank off value s) := by
  refine .ite (nextOk_next.2 h) ?_
  split
  · exact bar0Write_nextOk h ..
  · exact bar2Write_nextOk h ..
  · exact nextOk_next.2 h

end Sys2Proof.Machine
end


section
/-! The step keeps the canonical form. -/
namespace Sys2Proof.Machine
open Sys2Proof

/-- The instructions whose function never changes memory are in the last case. -/
theorem exec_nextOk (i : Instr) (s : State) (h : s.MemOk) : NextOk (exec i s) := by
  cases i with
  | calli | ret | jmpi => exact finish_nextOk h (jumpTo_gives h ..)
  | rep => exact finish_nextOk h (repIssue_gives h ..)
  | yield | safe => exact suspendIf_nextOk h ..
  | endCont => exact endThread_nextOk h h
  | wait => exact finish_nextOk h (useHandle_gives h _)
  | ftest => exact finish_nextOk h (testHandle_gives h ..)
  | quit => exact endThread_nextOk h (memOk_ite h (cutTo_memOk h _))
  | ldW8 | ldI8 | ldW16 | ldI16 | ldW32 | ldI32 | ldW64 | ldx | ldsync => exact finish_nextOk h (loadScalar_gives h ..)
  | stW8 | stW16 | stW32 | stW64 | stx => exact finish_nextOk h (storeScalar_gives h ..)
  | mxrot => exact finish_nextOk h (.bind (useHandle_gives h _) fun _ h1 => queueJob_gives h1 ..)
  | vld | vlds | vgat | vldsync => exact finish_nextOk h (loadPieces_gives h ..)
  | vst | vsts | vsct => exact finish_nextOk h (storePieces_gives h ..)
  | vldb => exact finish_nextOk h (broadcastLoad_gives h ..)
  | stfull | vstfull => exact finish_nextOk h (fullSegs_gives h ..)
  | femp => exact finish_nextOk h (emptyWords_gives h ..)
  | ldacq => exact finish_nextOk h (loadAcquire_gives h ..)
  | strel => exact finish_nextOk h (storeRelease_gives h ..)
  | afadd | afmin | afmax | afand | afor | afxor | aswap | affadd | acas => exact finish_nextOk h (atomicOp_gives h ..)
  | pref => exact nextOk_next.2 (prefetchLine_memOk h ..)
  | unpin => exact finish_nextOk h (unpinRange_gives h ..)
  | cflush | cinv => exact finish_nextOk h (flushRange_gives h ..)
  | copy => exact finish_nextOk h (copyIssue_gives h ..)
  | copy2 => exact finish_nextOk h (copy2Issue_gives h ..)
  | copym => exact finish_nextOk h (copymIssue_gives h ..)
  | mxld | mxclr | mxmeta => exact finish_nextOk h (.bind (useHandle_gives h _) fun _ h1 => .any fun _ => queueJob_gives h1 ..)
  | mxmm => exact finish_nextOk h (.bind (useHandle_gives h _) fun _ h1 => .any fun _ => .any fun _ => queueJob_gives h1 ..)
  | mxsp | mxgrp => exact finish_nextOk h (.bind (useHandle_gives h _) fun _ h1 => .any fun _ => .any fun _ => .any fun _ => queueJob_gives h1 ..)
  | mxrd => exact finish_nextOk h (rdIssue_gives h ..)
  | mxcmd => exact finish_nextOk h (cmdIssue_gives h ..)
  | msg => exact finish_nextOk h (msgIssue_gives h ..)
  | recv => exact finish_nextOk h (recvTake_gives h ..)
  | puts => exact finish_nextOk h (sysWrite_gives h ..)
  | hret => exact finish_nextOk h (handlerReturn_gives h ..)
  | park => exact nextOk_next.2 (parkCore_memOk h ..)
  | div | rem | bext | bins | vmovs => exact scalarChk_nextOk h ..
  | vcvt => exact execVcvt_nextOk h ..
  | vpack => exact execVpack_nextOk h ..
  | vunpk => exact execVunpk_nextOk h ..
  | loadReply | tverReply => exact nextOk_next.2 (replyTo_memOk h ..)
  | fcancel => exact execFcancel_nextOk h ..
  | fget => exact execFget_nextOk h ..
  | fput => exact execFput_nextOk h ..
  | tryChoice => exact execTryChoice_nextOk h ..
  | fail => exact execFail_nextOk h
  | cut => exact execCut_nextOk h ..
  | mark => exact execMark_nextOk h ..
  | commit => exact execCommit_nextOk h ..
  | tread => exact execTread_nextOk h ..
  | tver => exact execTver_nextOk h ..
  | stage => exact execStage_nextOk h ..
  | barl => exact execBarl_nextOk h
  | fence => exact execFence_nextOk h ..
  | pin => exact execPin_nextOk h ..
  | bar => exact execBar_nextOk h ..
  | gets => exact execGets_nextOk h ..
  | storeDrain => exact execStoreDrain_nextOk h ..
  | vcvti => exact execVcvti_nextOk h ..
  | scvt => exact execScvt_nextOk h ..
  | vins => exact execVins_nextOk h ..
  | takeLaterCondition => exact execTakeLaterCondition_nextOk h ..
  | parkRelease => exact execParkRelease_nextOk h ..
  | parkAbort => exact execParkAbort_nextOk h ..
  | svcReply => exact execSvcReply_nextOk h ..
  | pickup => exact execPickup_nextOk h ..
  | grantRecord => exact execGrantRecord_nextOk h ..
  | shadowFill => exact execShadowFill_nextOk h ..
  | admitLaunch => exact execAdmitLaunch_nextOk h ..
  | launchDispatch => exact execLaunchDispatch_nextOk h ..
  | gangPlace => exact execGangPlace_nextOk h ..
  | gangReserve => exact execGangReserve_nextOk h ..
  | postCompletion => exact execPostCompletion_nextOk h ..
  | tlbiPage => exact execTlbiPage_nextOk h ..
  | launchDone => exact execLaunchDone_nextOk h ..
  | preemptHold => exact execPreemptHold_nextOk h ..
  | launchCancel => exact execLaunchCancel_nextOk h ..
  | tlbiDone => exact execTlbiDone_nextOk h
  | tlbiPartition => exact execTlbiPartition_nextOk h ..
  | registerWrite => exact execRegisterWrite_nextOk h ..
  | cancelDelivery => exact execCancelDelivery_nextOk h ..
  | lineageCancel => exact execLineageCancel_nextOk h ..
  | commitAtHome => exact execCommitAtHome_nextOk h ..
  | commitReply => exact execCommitReply_nextOk h ..
  | treadAtHome => exact execTreadAtHome_nextOk h ..
  | treadReply => exact execTreadReply_nextOk h ..
  | treadWatchdog => exact execTreadWatchdog_nextOk h ..
  | stragglerTest => exact execStragglerTest_nextOk h ..
  | hedgeBudgetRequest => exact execHedgeBudgetRequest_nextOk h ..
  | backupOffer => exact execBackupOffer_nextOk h ..
  | endNotice => exact execEndNotice_nextOk h ..
  | idleScan => exact execIdleScan_nextOk h ..
  | theft => exact execTheft_nextOk h ..
  | barrierComplete => exact execBarrierComplete_nextOk h ..
  | barrierWatchdog => exact execBarrierWatchdog_nextOk h ..
  | copyPiece => exact execCopyPiece_nextOk h ..
  | copyDone => exact execCopyDone_nextOk h ..
  | schedEntry => exact execSchedEntry_nextOk h ..
  | mxeJobStart => exact execMxeJobStart_nextOk h ..
  | mxeJobDone => exact execMxeJobDone_nextOk h ..
  | latchArrive => exact execLatchArrive_nextOk h ..
  | mxcmdAccept => exact execMxcmdAccept_nextOk h ..
  | msgDeliver => exact execMsgDeliver_nextOk h ..
  | ropeLost => exact execRopeLost_nextOk h ..
  | eccError => exact execEccError_nextOk h ..
  | ccRecovery => exact execCcRecovery_nextOk h ..
  | ccRecoveryDone => exact execCcRecoveryDone_nextOk h ..
  | dieLost => exact execDieLost_nextOk h ..
  | moduleTrip => exact execModuleTrip_nextOk h ..
  | cxlMemAccess => exact execCxlMemAccess_nextOk h ..
  | powerUp => exact execPowerUp_nextOk h
  | bringupFull => exact execBringupFull_nextOk h ..
  | bringupDieTimeout => exact execBringupDieTimeout_nextOk h ..
  | flitReceive => exact execFlitReceive_nextOk h ..
  | cutRel => exact execCutRel_nextOk h
  | portDark => exact execPortDark_nextOk h ..
  | portLinkUp => exact execPortLinkUp_nextOk h ..
  | darkPortTimeout => exact execDarkPortTimeout_nextOk h ..
  | cutAbort => exact execCutAbort_nextOk h
  | bivWriteback => exact execBivWriteback_nextOk h
  | bivForcedStop => exact execBivForcedStop_nextOk h ..
  | bivFlush => exact execBivFlush_nextOk h
  | bivSelfref => exact execBivSelfref_nextOk h
  | bivEntryFail => exact execBivEntryFail_nextOk h
  | bivReplay => exact execBivReplay_nextOk h
  | bivWakeFail => exact execBivWakeFail_nextOk h
  | ethDescriptorFetch => exact execEthDescriptorFetch_nextOk h ..
  | ethFrameSent => exact execEthFrameSent_nextOk h ..
  | ethFrameReceived => exact execEthFrameReceived_nextOk h ..
  | reservedCodeDecode => exact execReservedCodeDecode_nextOk h ..
  | barrierNetworkFault => exact execBarrierNetworkFault_nextOk h ..
  | hedgeBudgetAnswer => exact execHedgeBudgetAnswer_nextOk h ..
  | cxlCacheSnoop => exact execCxlCacheSnoop_nextOk h ..
  | virtualDieRemap => exact execVirtualDieRemap_nextOk h ..
  | _ => exact KeepsNext.nextOk h (by simp only [exec]; simp)
/-- The events whose function never changes memory are in the last case. -/
theorem runEvent_nextOk (e : Event) {s : State} (h : s.MemOk) : NextOk (runEvent e s) := by
  cases e with
  | storeDrain => exact execStoreDrain_nextOk h ..
  | loadReply => exact nextOk_next.2 (replyTo_memOk h ..)
  | takeLaterCondition => exact execTakeLaterCondition_nextOk h ..
  | parkRelease => exact execParkRelease_nextOk h ..
  | parkAbort => exact execParkAbort_nextOk h ..
  | svcReply => exact execSvcReply_nextOk h ..
  | pickup => exact execPickup_nextOk h ..
  | grantRecord => exact execGrantRecord_nextOk h ..
  | shadowFill => exact execShadowFill_nextOk h ..
  | admitLaunch => exact execAdmitLaunch_nextOk h ..
  | launchDispatch => exact execLaunchDispatch_nextOk h ..
  | gangPlace => exact execGangPlace_nextOk h ..
  | gangReserve => exact execGangReserve_nextOk h ..
  | postCompletion => exact execPostCompletion_nextOk h ..
  | tlbiPage => exact execTlbiPage_nextOk h ..
  | launchDone => exact execLaunchDone_nextOk h ..
  | preemptHold => exact execPreemptHold_nextOk h ..
  | launchCancel => exact execLaunchCancel_nextOk h ..
  | tlbiDone => exact execTlbiDone_nextOk h
  | tlbiPartition => exact execTlbiPartition_nextOk h ..
  | registerWrite => exact execRegisterWrite_nextOk h ..
  | cancelDelivery => exact execCancelDelivery_nextOk h ..
  | lineageCancel => exact execLineageCancel_nextOk h ..
  | commitAtHome => exact execCommitAtHome_nextOk h ..
  | commitReply => exact execCommitReply_nextOk h ..
  | treadAtHome => exact execTreadAtHome_nextOk h ..
  | treadReply => exact execTreadReply_nextOk h ..
  | treadWatchdog => exact execTreadWatchdog_nextOk h ..
  | tverReply => exact nextOk_next.2 (replyTo_memOk h ..)
  | stragglerTest => exact execStragglerTest_nextOk h ..
  | hedgeBudgetRequest => exact execHedgeBudgetRequest_nextOk h ..
  | backupOffer => exact execBackupOffer_nextOk h ..
  | endNotice => exact execEndNotice_nextOk h ..
  | idleScan => exact execIdleScan_nextOk h ..
  | theft => exact execTheft_nextOk h ..
  | barrierComplete => exact execBarrierComplete_nextOk h ..
  | barrierWatchdog => exact execBarrierWatchdog_nextOk h ..
  | copyPiece => exact execCopyPiece_nextOk h ..
  | copyDone => exact execCopyDone_nextOk h ..
  | schedEntry => exact execSchedEntry_nextOk h ..
  | mxeJobStart => exact execMxeJobStart_nextOk h ..
  | mxeJobDone => exact execMxeJobDone_nextOk h ..
  | latchArrive => exact execLatchArrive_nextOk h ..
  | mxcmdAccept => exact execMxcmdAccept_nextOk h ..
  | msgDeliver => exact execMsgDeliver_nextOk h ..
  | ropeLost => exact execRopeLost_nextOk h ..
  | eccError => exact execEccError_nextOk h ..
  | ccRecovery => exact execCcRecovery_nextOk h ..
  | ccRecoveryDone => exact execCcRecoveryDone_nextOk h ..
  | dieLost => exact execDieLost_nextOk h ..
  | moduleTrip => exact execModuleTrip_nextOk h ..
  | cxlMemAccess => exact execCxlMemAccess_nextOk h ..
  | powerUp => exact execPowerUp_nextOk h
  | bringupFull => exact execBringupFull_nextOk h ..
  | bringupDieTimeout => exact execBringupDieTimeout_nextOk h ..
  | flitReceive => exact execFlitReceive_nextOk h ..
  | cutRel => exact execCutRel_nextOk h
  | portDark => exact execPortDark_nextOk h ..
  | portLinkUp => exact execPortLinkUp_nextOk h ..
  | darkPortTimeout => exact execDarkPortTimeout_nextOk h ..
  | cutAbort => exact execCutAbort_nextOk h
  | bivWriteback => exact execBivWriteback_nextOk h
  | bivForcedStop => exact execBivForcedStop_nextOk h ..
  | bivFlush => exact execBivFlush_nextOk h
  | bivSelfref => exact execBivSelfref_nextOk h
  | bivEntryFail => exact execBivEntryFail_nextOk h
  | bivReplay => exact execBivReplay_nextOk h
  | bivWakeFail => exact execBivWakeFail_nextOk h
  | ethDescriptorFetch => exact execEthDescriptorFetch_nextOk h ..
  | ethFrameSent => exact execEthFrameSent_nextOk h ..
  | ethFrameReceived => exact execEthFrameReceived_nextOk h ..
  | reservedCodeDecode => exact execReservedCodeDecode_nextOk h ..
  | barrierNetworkFault => exact execBarrierNetworkFault_nextOk h ..
  | hedgeBudgetAnswer => exact execHedgeBudgetAnswer_nextOk h ..
  | cxlCacheSnoop => exact execCxlCacheSnoop_nextOk h ..
  | virtualDieRemap => exact execVirtualDieRemap_nextOk h ..
  | _ => exact KeepsNext.nextOk h (by simp only [runEvent]; simp)
theorem betweenEvents_nextOk {ex : Exec} (hex : ∀ i s, s.MemOk → NextOk (ex i s)) {s : State} (h : s.MemOk) : NextOk (betweenEvents ex s) := by
  unfold betweenEvents
  split
  · exact runEvent_nextOk _ h
  · split
    · exact issue_nextOk hex (memOk_of_mem h (State.focus_mem ..))
    · exact (passTime_keeps s).nextOk h
theorem withAgenda_memOk {s : State} (h : s.MemOk) (l : List (Nat × Event)) : ({ s with agenda := l } : State).MemOk := h
theorem advance_nextOk {ex : Exec} (hex : ∀ i s, s.MemOk → NextOk (ex i s)) {s : State} (h : s.MemOk) : NextOk (advance ex s) := by
  unfold advance
  refine .ite nextOk_fault ?_
  split
  · exact .ite (runEvent_nextOk _ (withAgenda_memOk h _)) (betweenEvents_nextOk hex h)
  · exact betweenEvents_nextOk hex h
theorem step_nextOk {s : State} (h : s.MemOk) : NextOk (step s) := advance_nextOk exec_nextOk h

/-- Settles O7: every instruction and every event gives a state with memory in canonical form, and a step is one of them or the clock. -/
theorem stepKeepsMemoryForm : Obligations.StepKeepsMemoryForm := fun _ s' h e => (step_nextOk h).memOk s' e

end Sys2Proof.Machine
end

section
/-! A cached store over memory that lists one byte of its sector twice. Such a list is not canonical: its bytes read together as a number that
needs more than the 128 bits of an L2 sector, which keeps the low 128 of them. -/
namespace Sys2Proof.Machine
open Sys2Proof

/-- Byte 15 of sector 0 of the module's HBM stands in the list twice. -/
def byteListedTwice : Mem := { Mem.reset with cells := [(15, 0xFF), (15, 0xFF)] }

/-- A store of one byte to cached module address 0, by thread 0. -/
def storeToSectorZero : Store :=
  { th := 0, route := .cached 0 0, key := maKey 0, len := 1, value := 7, addr := 0, full := false, empties := false, rcd := 0, joined := false }

/-- The module at reset, but for that memory and that store in the buffer of core 0. -/
def storeOverByteListedTwice : State :=
  { State.reset with mem := byteListedTwice, cores := [(0, { CoreSt.reset with buf := [storeToSectorZero] })] }

/-- The state is outside those that `memoryFormAtReset` and `stepKeepsMemoryForm` allow a run from reset to reach. -/
theorem not_memOk_storeOverByteListedTwice : ¬ storeOverByteListedTwice.MemOk := by unfold State.MemOk; decide

theorem roomFor_storeOverByteListedTwice : RoomFor storeOverByteListedTwice 0 0 0 := by unfold RoomFor; decide +kernel

/-- Both listings of byte 15 count in the bytes that the statement expects. -/
theorem putBytes_get_byteListedTwice :
    putBytes (storeOverByteListedTwice.mem.get (maKey 0) 16) 0 storeToSectorZero.len storeToSectorZero.value = 2 * 0xFF * 256 ^ 15 + 7 := by
  decide +kernel

/-- The sector that the drain makes holds the low 128 bits of them. -/
theorem storeDrain_storeOverByteListedTwice : Answers (.storeDrain 0) storeOverByteListedTwice (fun t =>
    ∃ y, l2Find t 0 0 = some y ∧ y.data.toNat = (2 * 0xFF * 256 ^ 15 + 7) % 2 ^ 128) :=
  ⟨_, rfl, _, rfl, by decide +kernel⟩

/-- Refutes O46: the statement has no hypothesis that memory is canonical. In `storeOverByteListedTwice` the oldest store of core 0 is one
to a cached sector that the L2 lacks and has room for, and the sector that the drain makes does not hold the number that memory's bytes
give with the store's byte among them. -/
theorem not_cachedAccesses : ¬ Obligations.CachedAccesses := by
  unfold Obligations.CachedAccesses
  rintro ⟨-, hdrains, -⟩
  obtain ⟨-, hmiss⟩ := hdrains storeOverByteListedTwice 0 storeToSectorZero [] 0 0 rfl rfl rfl rfl rfl (by decide) (by decide)
  obtain ⟨t, hexec, -, y, hfind, -, hdata⟩ := hmiss rfl roomFor_storeOverByteListedTwice
  obtain ⟨t', hexec', y', hfind', hdata'⟩ := storeDrain_storeOverByteListedTwice
  obtain rfl : t = t' := Host.Outcome.next.inj (hexec.symm.trans hexec')
  obtain rfl : y = y' := Option.some.inj (hfind.symm.trans hfind')
  rw [putBytes_get_byteListedTwice] at hdata
  exact absurd (hdata.symm.trans hdata') (by decide +kernel)

end Sys2Proof.Machine
end

section
/-! The machine right after power-up. -/
namespace Sys2Proof.Machine
open Sys2Proof

/-- Nothing is listed at reset: thread 0 stands in front, and every other one has its reset value. -/
theorem getT_reset (n : Nat) : State.reset.getT n = Thread.reset := by
  unfold State.getT; split <;> rfl

theorem getH_reset (h : BitVec 4) : State.reset.getH h = .free := by
  simp [State.getH, Regs.getH, State.reset, Thread.reset, Regs.reset, Vector.get_eq_getElem]

/-- The registers of a rope after power-up (R376, R385). -/
theorem reg0_reset_rope (r : Nat) (hr : r < 32) : State.reset.reg0 (ropeOff r + 0x08) = 0x0320032003200320 ∧
    State.reset.reg0 (ropeOff r + 0x18) = 0xFFFFFFFFFFFFFFFF ∧ State.reset.reg0 (ropeOff r + 0x28) = 0x640000000258 := by
  decide +revert

/-- The configuration of a submission queue after power-up (R352). -/
theorem reg0_reset_sqCfg (q : Nat) (hq : q < 64) : State.reset.reg0 (sqOff q + 8) = 0x700 := by
  decide +revert

/-- Settles O5: every table is empty, so each place holds its reset value. -/
theorem resetMachine : Obligations.ResetMachine :=
  ⟨rfl, rfl, fun n => by rw [getT_reset]; exact ⟨rfl, rfl, rfl⟩, getH_reset, rfl, rfl, rfl, rfl, by decide, by decide, by decide,
    fun _ => ⟨rfl, rfl⟩, reg0_reset_rope, reg0_reset_sqCfg⟩

end Sys2Proof.Machine
end

section
/-! Bytes of a number that is put together from parts that do not overlap. -/
namespace Sys2Proof.Machine
open Sys2Proof

/-- Bytes below the place of the higher part come from the lower part. -/
theorem getBytes_add_low (a b k off n : Nat) (h : off + n ≤ k) : getBytes (a + b * 256 ^ k) off n = getBytes a off n := by
  obtain ⟨j, rfl⟩ := Nat.exists_eq_add_of_le h
  have e : b * 256 ^ (off + n + j) = 256 ^ off * (256 ^ n * (b * 256 ^ j)) := by ring
  rw [getBytes, e, Nat.add_mul_div_left _ _ (by positivity), Nat.add_mul_mod_self_left, getBytes]

/-- Bytes from the place of the higher part on come from it, where the lower part ends below that place. -/
theorem getBytes_add_high (a b k off n : Nat) (h : a < 256 ^ k) : getBytes (a + b * 256 ^ k) (k + off) n = getBytes b off n := by
  rw [getBytes, Nat.pow_add, ← Nat.div_div_eq_div_mul, Nat.add_mul_div_right _ _ (by positivity), Nat.div_eq_of_lt h, Nat.zero_add, getBytes]

theorem getBytes_self {v n : Nat} (h : v < 256 ^ n) : getBytes v 0 n = v := by
  rw [getBytes, Nat.pow_zero, Nat.div_one, Nat.mod_eq_of_lt h]

/-- No byte is left above a number's end. -/
theorem getBytes_above {v m off n : Nat} (h : v < 256 ^ m) (hm : m ≤ off) : getBytes v off n = 0 := by
  rw [getBytes, Nat.div_eq_of_lt (Nat.lt_of_lt_of_le h (Nat.pow_le_pow_right (by decide) hm)), Nat.zero_mod]

/-- Parts of given lengths, one after the other. -/
def packed : List (Nat × Nat) → Nat
  | [] => 0
  | x :: r => x.2 + packed r * 256 ^ x.1

/-- Each part keeps within its length. -/
def Fits (l : List (Nat × Nat)) : Prop := ∀ x ∈ l, x.2 < 256 ^ x.1

theorem fits_cons {x : Nat × Nat} {r : List (Nat × Nat)} : Fits (x :: r) ↔ x.2 < 256 ^ x.1 ∧ Fits r := List.forall_mem_cons
theorem fits_nil : Fits [] := fun _ h => nomatch h

/-- The length of the first i parts together. -/
def placeOf (l : List (Nat × Nat)) (i : Nat) : Nat := ((l.take i).map (fun x => x.1)).sum

theorem packed_lt {l : List (Nat × Nat)} (h : Fits l) : packed l < 256 ^ placeOf l l.length := by
  induction l with
  | nil => simp [packed, placeOf]
  | cons x r ih =>
    obtain ⟨hx, hr⟩ := fits_cons.1 h
    have e : placeOf (x :: r) (x :: r).length = placeOf r r.length + x.1 := by simp [placeOf, Nat.add_comm]
    rw [e, Nat.pow_add]
    calc packed (x :: r) < (packed r + 1) * 256 ^ x.1 := by rw [packed, Nat.succ_mul]; omega
      _ ≤ 256 ^ placeOf r r.length * 256 ^ x.1 := Nat.mul_le_mul_right _ (ih hr)

theorem packed_lt_of {l : List (Nat × Nat)} (h : Fits l) {m : Nat} (hm : placeOf l l.length = m) : packed l < 256 ^ m := hm ▸ packed_lt h

/-- Bytes within a part are those of the part. -/
theorem getBytes_packed {l : List (Nat × Nat)} (h : Fits l) {i n v : Nat} (hi : l[i]? = some (n, v)) {off m : Nat} (hm : off + m ≤ n) :
    getBytes (packed l) (placeOf l i + off) m = getBytes v off m := by
  induction l generalizing i with
  | nil => simp at hi
  | cons x r ih =>
    obtain ⟨hx, hr⟩ := fits_cons.1 h
    cases i with
    | zero =>
      obtain rfl : x = (n, v) := by simpa using hi
      simpa [packed, placeOf] using getBytes_add_low v (packed r) n off m hm
    | succ i =>
      have e : placeOf (x :: r) (i + 1) + off = x.1 + (placeOf r i + off) := by simp [placeOf, Nat.add_assoc]
      rw [e, packed, getBytes_add_high _ _ _ _ _ hx]
      exact ih hr (by simpa using hi)

/-- A whole part. -/
theorem getBytes_packed_whole {l : List (Nat × Nat)} (h : Fits l) {i n v : Nat} (hi : l[i]? = some (n, v)) :
    getBytes (packed l) (placeOf l i) n = v := by
  have hv : v < 256 ^ n := h _ (List.mem_of_getElem? hi)
  have e := getBytes_packed h hi (off := 0) (m := n) (Nat.le_of_eq (Nat.zero_add n))
  rwa [Nat.add_zero, getBytes_self hv] at e

theorem toNat_lt_pow256 (m : Nat) (x : BitVec (8 * m)) : x.toNat < 256 ^ m := by
  have h := x.isLt
  rwa [Nat.pow_mul] at h

theorem packN_lt_pow256 (m c : Nat) (f : Nat → Nat) : packN (8 * m) f c < 256 ^ (m * c) := by
  have h := packN_lt (8 * m) f c
  rwa [Nat.mul_assoc, Nat.pow_mul] at h

/-- Element i of an area of elements of m bytes. -/
theorem getBytes_packN (m : Nat) (f : Nat → Nat) {c i : Nat} (hi : i < c) (hf : f i < 256 ^ m) : getBytes (packN (8 * m) f c) (m * i) m = f i := by
  have h := elN_packN (8 * m) f c i hi
  rw [elN, Nat.mul_assoc, Nat.pow_mul 2 8, Nat.pow_mul 2 8] at h
  exact h.trans (Nat.mod_eq_of_lt hf)

end Sys2Proof.Machine
end

section
/-! The full frame as the areas that it is made of, and the statement of its layout (R31). -/
namespace Sys2Proof.Machine
open Sys2Proof

/-- The window words of the system area. -/
def winWord (t : Thread) (i : Nat) : Nat := if h : i + 1 < 8 then (t.y.win.get ⟨i + 1, h⟩).toNat else 0

/-- The base version that a frame holds, 0 where the thread's record has none. -/
def shownBase (t : Thread) : Nat := match t.rcd with | some r => (match r.base with | some v => v.toNat | none => 0) | none => 0

/-- The fields of the system area, in order. -/
def sysFields (t : Thread) : List (Nat × Nat) :=
  [(0x38, packN 64 (winWord t) 7), (8, t.y.hand.toNat), (8, t.y.sbchk.toNat), (8, t.r.genA.toNat), (8, t.r.genB.toNat), (8, t.y.alt.toNat),
    (4, shownBase t), (4, if t.inHandler then 1 else 0)]

/-- The areas of the frame, in order. -/
def frameAreas (t : Thread) (free : Nat) : List (Nat × Nat) :=
  [(0x100, sArea t.r), (0x100, pArea t.r), (0x80, tokenArea free), (0x80, sysArea t), (0x100, (t.r.getV 31).toNat), (0x1F00, vArea t.r)]

theorem sysArea_eq_packed (t : Thread) : sysArea t = packed (sysFields t) := by
  change packN 64 (winWord t) 7 + _ * 256 ^ 0x38 + _ * 256 ^ 0x40 + _ * 256 ^ 0x48 + _ * 256 ^ 0x50 + _ * 256 ^ 0x58 + shownBase t * 256 ^ 0x60 + _ * 256 ^ 0x64 = _
  simp only [sysFields, packed]
  generalize (256 : Nat) = b
  ring

theorem fullFrame_eq_packed (t : Thread) (free : Nat) : fullFrame t free = packed (frameAreas t free) := by
  have hpow (j k : Nat) : 256 ^ (j + k) = 256 ^ j * 256 ^ k := Nat.pow_add 256 j k
  simp only [fullFrame, frameAreas, packed]
  rw [show (0x400 : Nat) = 0x100 + (0x80 + (0x80 + (0x100 + 0x100))) from rfl, show (0x300 : Nat) = 0x80 + (0x80 + (0x100 + 0x100)) from rfl,
    show (0x280 : Nat) = 0x80 + (0x100 + 0x100) from rfl, show (0x200 : Nat) = 0x100 + 0x100 from rfl]
  simp only [hpow]
  generalize (256 : Nat) ^ 0x100 = x
  generalize (256 : Nat) ^ 0x80 = y
  generalize (256 : Nat) ^ 0x1F00 = z
  ring

theorem shownBase_lt (t : Thread) : shownBase t < 256 ^ 4 := by
  unfold shownBase; split
  · split
    · exact toNat_lt_pow256 4 _
    · decide
  · decide

theorem sysFields_fit (t : Thread) : Fits (sysFields t) := by
  have hw (x : Word) : x.toNat < 256 ^ 8 := toNat_lt_pow256 8 x
  have hflag : (if t.inHandler then 1 else 0) < 256 ^ 4 := by split <;> decide
  simp only [sysFields, fits_cons, fits_nil, and_true]
  exact ⟨packN_lt_pow256 8 7 _, hw _, hw _, hw _, hw _, hw _, shownBase_lt t, hflag⟩

theorem sysArea_lt (t : Thread) : sysArea t < 256 ^ 0x68 := by
  rw [sysArea_eq_packed]; exact packed_lt_of (sysFields_fit t) rfl

theorem frameAreas_fit (t : Thread) (free : Nat) : Fits (frameAreas t free) := by
  simp only [frameAreas, fits_cons, fits_nil, and_true]
  exact ⟨packN_lt_pow256 8 32 _, packN_lt_pow256 32 8 _, packN_lt_pow256 8 16 _,
    Nat.lt_of_lt_of_le (sysArea_lt t) (Nat.pow_le_pow_right (by decide) (by decide)), toNat_lt_pow256 0x100 _, packN_lt_pow256 256 31 _⟩

theorem fullFrame_lt (t : Thread) (free : Nat) : fullFrame t free < 256 ^ 0x2300 := by
  rw [fullFrame_eq_packed]; exact packed_lt_of (frameAreas_fit t free) (by simp [placeOf, frameAreas])

/-- The bytes of area i of a full frame, which stands at k. -/
theorem getBytes_fullFrame (t : Thread) (free : Nat) {i k n v : Nat} (hi : (frameAreas t free)[i]? = some (n, v)) (hk : placeOf (frameAreas t free) i = k)
    {off m : Nat} (hm : off + m ≤ n) : getBytes (fullFrame t free) (k + off) m = getBytes v off m := by
  rw [fullFrame_eq_packed, ← hk]; exact getBytes_packed (frameAreas_fit t free) hi hm

/-- The whole of area i. -/
theorem getBytes_fullFrame_whole (t : Thread) (free : Nat) {i k n v : Nat} (hi : (frameAreas t free)[i]? = some (n, v))
    (hk : placeOf (frameAreas t free) i = k) : getBytes (fullFrame t free) k n = v := by
  rw [fullFrame_eq_packed, ← hk]; exact getBytes_packed_whole (frameAreas_fit t free) hi

theorem getBytes_fullFrame_sysArea (t : Thread) (free : Nat) {off m : Nat} (hm : off + m ≤ 0x80) :
    getBytes (fullFrame t free) (0x280 + off) m = getBytes (sysArea t) off m := getBytes_fullFrame t free (i := 3) rfl (by simp [placeOf, frameAreas]) hm

/-- Field i of the system area of a full frame, which stands at k there. -/
theorem getBytes_fullFrame_sys (t : Thread) (free : Nat) {i k n v : Nat} (hi : (sysFields t)[i]? = some (n, v)) (hk : placeOf (sysFields t) i = k)
    (hn : k + n ≤ 0x80) : getBytes (fullFrame t free) (0x280 + k) n = v := by
  rw [getBytes_fullFrame_sysArea t free hn, sysArea_eq_packed, ← hk]
  exact getBytes_packed_whole (sysFields_fit t) hi

theorem getBytes_fullFrame_sArea (t : Thread) (free : Nat) {off m : Nat} (hm : off + m ≤ 0x100) :
    getBytes (fullFrame t free) off m = getBytes (sArea t.r) off m := by
  rw [← getBytes_fullFrame t free (i := 0) (k := 0) rfl rfl hm, Nat.zero_add]

/-- The frame begins with zeros where the scalars' area does. -/
theorem fullFrame_mod_of_sArea (t : Thread) (free : Nat) {m : Nat} (hm : m ≤ 0x100) (h : getBytes (sArea t.r) 0 m = 0) : fullFrame t free % 256 ^ m = 0 := by
  rw [← getBytes_fullFrame_sArea t free (by omega), getBytes, Nat.pow_zero, Nat.div_one] at h
  exact h

theorem getBytes_fullFrame_s (t : Thread) (free : Nat) (n : BitVec 5) : getBytes (fullFrame t free) (8 * n.toNat) 8 = (t.r.getS n).toNat := by
  have hn := n.isLt
  rw [getBytes_fullFrame_sArea t free (by omega)]
  refine (getBytes_packN 8 _ hn (toNat_lt_pow256 8 _)).trans ?_
  rw [BitVec.ofNat_toNat, BitVec.setWidth_eq]

theorem getBytes_fullFrame_p (t : Thread) (free : Nat) (n : BitVec 3) : getBytes (fullFrame t free) (0x100 + 32 * n.toNat) 32 = (t.r.getP n).toNat := by
  have hn := n.isLt
  rw [getBytes_fullFrame t free (i := 1) (k := 0x100) rfl (by simp [placeOf, frameAreas]) (by omega)]
  refine (getBytes_packN 32 _ hn (toNat_lt_pow256 32 _)).trans ?_
  rw [BitVec.ofNat_toNat, BitVec.setWidth_eq]

theorem getBytes_fullFrame_v (t : Thread) (free : Nat) (n : BitVec 5) (h31 : n ≠ 31) :
    getBytes (fullFrame t free) (0x400 + 256 * n.toNat) 256 = (t.r.getV n).toNat := by
  have hn : n.toNat < 31 := by bv_omega
  rw [getBytes_fullFrame t free (i := 5) (k := 0x400) rfl (by simp [placeOf, frameAreas]) (by omega)]
  refine (getBytes_packN 256 _ hn (toNat_lt_pow256 256 _)).trans ?_
  rw [BitVec.ofNat_toNat, BitVec.setWidth_eq]

theorem getBytes_fullFrame_lat (t : Thread) (free : Nat) : getBytes (fullFrame t free) 0x300 256 = (t.r.getV 31).toNat :=
  getBytes_fullFrame_whole t free (i := 4) rfl (by simp [placeOf, frameAreas])

theorem getBytes_fullFrame_win (t : Thread) (free : Nat) (w : Fin 8) (hw : 0 < w.val) :
    getBytes (fullFrame t free) (0x280 + 8 * (w.val - 1)) 8 = (t.y.win.get w).toNat := by
  have hlt := w.isLt
  have hfield := getBytes_packed (sysFields_fit t) (i := 0) rfl (off := 8 * (w.val - 1)) (m := 8) (by omega)
  rw [show placeOf (sysFields t) 0 = 0 from rfl, Nat.zero_add] at hfield
  rw [getBytes_fullFrame_sysArea t free (by omega), sysArea_eq_packed, hfield]
  have hword : winWord t (w.val - 1) = (t.y.win.get w).toNat := by
    have e : w.val - 1 + 1 = w.val := by omega
    simp only [winWord, e, hlt, dif_pos]
  refine (getBytes_packN 8 _ (by omega) ?_).trans hword
  rw [hword]; exact toNat_lt_pow256 8 _

/-- Settles O34: each register lies in its area of the frame, and the areas do not overlap. -/
theorem fullFrameLayout : Obligations.FullFrameLayout := by
  unfold Obligations.FullFrameLayout
  intro t free
  have hsys {i k n v : Nat} := getBytes_fullFrame_sys t free (i := i) (k := k) (n := n) (v := v)
  refine ⟨getBytes_fullFrame_s t free, getBytes_fullFrame_p t free, getBytes_fullFrame_win t free, hsys (i := 1) (k := 0x38) rfl rfl (by decide),
    hsys (i := 2) (k := 0x40) rfl rfl (by decide), hsys (i := 3) (k := 0x48) rfl rfl (by decide), hsys (i := 4) (k := 0x50) rfl rfl (by decide), hsys (i := 5) (k := 0x58) rfl rfl (by decide),
    fun r v hr hv => ?_, hsys (i := 7) (k := 0x64) rfl rfl (by decide), ?_, getBytes_fullFrame_lat t free, getBytes_fullFrame_v t free, rfl, fullFrame_lt t free⟩
  · exact (hsys (i := 6) (k := 0x60) rfl rfl (by decide)).trans (by simp only [shownBase, hr, hv])
  · exact (getBytes_fullFrame_sysArea t free (off := 0x68) (by decide)).trans (getBytes_above (sysArea_lt t) (Nat.le_refl _))

end Sys2Proof.Machine
end

section
/-! What the caches of the module and its own accesses to virtual memory leave alone. -/
namespace Sys2Proof.Machine
open Sys2Proof

/-- The state without the bytes, the poison and the contents of the caches and without the count of free choices: the rest of it, which no movement of
bytes between the levels of memory changes. -/
def beyondCaches (s : State) : State := { s with mem := { Mem.reset with empty := s.mem.empty, tlb := s.mem.tlb, pins := s.mem.pins }, free := 0 }

/-- Only bytes, poison and cache contents differ. -/
def CachesOnly (s t : State) : Prop := beyondCaches t = beyondCaches s

namespace CachesOnly

theorem refl (s : State) : CachesOnly s s := rfl
theorem trans {s t u : State} (h : CachesOnly s t) (k : CachesOnly t u) : CachesOnly s u := Eq.trans k h

section
variable {s t : State} (h : CachesOnly s t)
include h
theorem field {α : Type} (f : State → α) : f (beyondCaches t) = f (beyondCaches s) := congrArg f h
theorem cur : t.cur = s.cur := h.field (·.cur)
theorem thr : t.thr = s.thr := h.field (·.thr)
theorem rest : t.rest = s.rest := h.field (·.rest)
theorem cores : t.cores = s.cores := h.field (·.cores)
theorem clus : t.clus = s.clus := h.field (·.clus)
theorem clock : t.clock = s.clock := h.field (·.clock)
theorem sch : t.sch = s.sch := h.field (·.sch)
theorem plat : t.plat = s.plat := h.field (·.plat)
theorem agenda : t.agenda = s.agenda := h.field (·.agenda)
theorem taken : t.taken = s.taken := h.field (·.taken)
theorem tlb : t.mem.tlb = s.mem.tlb := h.field (·.mem.tlb)
theorem pins : t.mem.pins = s.mem.pins := h.field (·.mem.pins)
theorem empty : t.mem.empty = s.mem.empty := h.field (·.mem.empty)
theorem getT (n : Nat) : t.getT n = s.getT n := by rw [State.getT, State.getT, h.cur, h.thr, h.rest]
theorem core (n : Nat) : t.core n = s.core n := by rw [State.core, State.core, h.cores]
end

theorem ite {c : Prop} [Decidable c] {s t u : State} (ht : CachesOnly s t) (hu : CachesOnly s u) : CachesOnly s (if c then t else u) := by
  split <;> assumption
theorem foldl {α : Type} {f : State → α → State} (hf : ∀ s a, CachesOnly s (f s a)) (l : List α) (s : State) : CachesOnly s (l.foldl f s) := by
  induction l generalizing s with
  | nil => exact refl s
  | cons a r ih => exact (hf s a).trans (ih (f s a))

end CachesOnly

/-- A change of memory that leaves the full words, the TLB and the pins. -/
theorem modM_cachesOnly (s : State) {f : Mem → Mem} (he : (f s.mem).empty = s.mem.empty) (ht : (f s.mem).tlb = s.mem.tlb) (hp : (f s.mem).pins = s.mem.pins) :
    CachesOnly s (s.modM f) := by
  simp [CachesOnly, beyondCaches, State.modM, he, ht, hp]

/-- A sequence of checks succeeds where each of its parts does. -/
theorem chk_bind_ok {α β : Type} {x : Chk α} {f : α → Chk β} {b : β} : (x >>= f) = .ok b ↔ ∃ a, x = .ok a ∧ f a = .ok b := by
  cases x with
  | error e => exact ⟨(nomatch ·), fun ⟨_, h, _⟩ => nomatch h⟩
  | ok a => exact ⟨fun h => ⟨a, rfl, h⟩, fun ⟨_, h, k⟩ => Except.ok.inj h ▸ k⟩

/-! The L3. -/

/-- The full words, the TLB and the pins are the same. -/
def KeepsMarks (m n : Mem) : Prop := n.empty = m.empty ∧ n.tlb = m.tlb ∧ n.pins = m.pins
theorem KeepsMarks.refl (m : Mem) : KeepsMarks m m := ⟨rfl, rfl, rfl⟩
theorem KeepsMarks.trans {m n o : Mem} (h : KeepsMarks m n) (k : KeepsMarks n o) : KeepsMarks m o :=
  ⟨k.1.trans h.1, k.2.1.trans h.2.1, k.2.2.trans h.2.2⟩
theorem KeepsMarks.foldl {α : Type} {f : Mem → α → Mem} (hf : ∀ m a, KeepsMarks m (f m a)) (l : List α) (m : Mem) : KeepsMarks m (l.foldl f m) := by
  induction l generalizing m with
  | nil => exact .refl m
  | cons a r ih => exact (hf m a).trans (ih (f m a))
theorem KeepsMarks.modM {s : State} {f : Mem → Mem} (h : KeepsMarks s.mem (f s.mem)) : CachesOnly s (s.modM f) := modM_cachesOnly s h.1 h.2.1 h.2.2

theorem sealSector_keepsMarks (x : L3Line) (m : Mem) (i : Nat) : KeepsMarks m (sealSector x m i) := by
  unfold sealSector; dsimp only; split
  · exact ⟨rfl, rfl, rfl⟩
  · split <;> exact ⟨rfl, rfl, rfl⟩
theorem l3Evict_keepsMarks (m : Mem) (x : L3Line) : KeepsMarks m (l3Evict m x) := by
  have h : KeepsMarks m (if inHbm (x.line * 128) then (List.range 8).foldl (sealSector x) m else m) := by
    split
    · exact .foldl (sealSector_keepsMarks x) _ m
    · exact .refl m
  exact h
theorem fillSector_keepsMarks (own : Nat) (p : Tab Nat × Mem) (k : Nat) : KeepsMarks p.2 (fillSector own p k).2 := by
  unfold fillSector; dsimp only; split <;> exact ⟨rfl, rfl, rfl⟩
theorem fillOne_keepsMarks (own line : Nat) (mask : BitVec 8) (m : Mem) (i : Nat) : KeepsMarks m (fillOne own line mask m i) := by
  unfold fillOne; split
  · exact .refl m
  · split
    · exact .refl m
    · dsimp only; split
      · exact fillSector_keepsMarks own ([], m) _
      · exact .refl m

/-! The levels of memory. -/

theorem choose_cachesOnly (s : State) (l : List Nat) : CachesOnly s (choose s l).2 := by unfold choose; split <;> exact .refl _
theorem l3Room_cachesOnly (s : State) (part line : Nat) : CachesOnly s (l3Room s part line) := by
  unfold l3Room; dsimp only; split
  · exact .refl s
  · split
    · exact .refl s
    · split
      · exact (choose_cachesOnly s _).trans (KeepsMarks.modM (f := fun m => l3Evict m _) (l3Evict_keepsMarks _ _))
      · exact .refl s
theorem l3Line_cachesOnly (s : State) (own line : Nat) : CachesOnly s (l3Line s own line) := by
  unfold l3Line; split
  · exact .refl s
  · exact (l3Room_cachesOnly s (own / 64) line).trans (modM_cachesOnly _ rfl rfl rfl)
theorem l3Fill_cachesOnly (s : State) (own line : Nat) (mask : BitVec 8) : CachesOnly s (l3Fill s own line mask) :=
  (l3Line_cachesOnly s own line).trans (KeepsMarks.modM (f := fun m => (List.range 8).foldl (fillOne own line mask) m) (.foldl (fillOne_keepsMarks own line mask) _ _))
theorem l3Touch_cachesOnly (s : State) (own a n : Nat) (w : Bool) : CachesOnly s (l3Touch s own a n w) := by
  unfold l3Touch
  refine .ite (.refl s) (CachesOnly.foldl (fun t i => ?_) _ s)
  have hfill := l3Fill_cachesOnly t own (a / 128 + i) (sectorMask (a / 128 + i) a n)
  dsimp only
  generalize l3Fill t own (a / 128 + i) (sectorMask (a / 128 + i) a n) = u at hfill ⊢
  exact .ite (hfill.trans (modM_cachesOnly _ rfl rfl rfl)) hfill
theorem sectorBack_cachesOnly (s : State) (x : Sector) : CachesOnly s (sectorBack s x) := by
  unfold sectorBack; split
  · exact .refl s
  · refine (l3Touch_cachesOnly s x.own x.addr 16 true).trans (KeepsMarks.modM ?_)
    dsimp only; split <;> exact ⟨rfl, rfl, rfl⟩
theorem writeBackIf_cachesOnly (p : Sector → Bool) (s : State) (die : Nat) : CachesOnly s (writeBackIf p s die) :=
  (CachesOnly.foldl sectorBack_cachesOnly _ s).trans (modM_cachesOnly _ rfl rfl rfl)
theorem writeBackDie_cachesOnly (s : State) (die : Nat) : CachesOnly s (writeBackDie s die) := writeBackIf_cachesOnly _ s die
theorem invalidateDie_cachesOnly (s : State) (die : Nat) : CachesOnly s (invalidateDie s die) := modM_cachesOnly s rfl rfl rfl
theorem l1Drop_cachesOnly (s : State) (die ma n : Nat) (keep : Option Nat) : CachesOnly s (l1Drop s die ma n keep) := modM_cachesOnly s rfl rfl rfl
theorem flushSpan_cachesOnly (s : State) (die ma n : Nat) : CachesOnly s (flushSpan s die ma n) :=
  ((writeBackIf_cachesOnly _ s die).trans (l1Drop_cachesOnly _ die ma n none)).trans (modM_cachesOnly _ rfl rfl rfl)
theorem l2Evict_cachesOnly (s : State) (die line : Nat) : CachesOnly s (l2Evict s die line) :=
  (CachesOnly.foldl sectorBack_cachesOnly _ s).trans (modM_cachesOnly _ rfl rfl rfl)
theorem l2Room_cachesOnly (s : State) (die part line : Nat) : CachesOnly s (l2Room s die part line) := by
  unfold l2Room; dsimp only; split
  · exact .refl s
  · split
    · exact .refl s
    · exact (choose_cachesOnly s _).trans (l2Evict_cachesOnly _ die _)
theorem l2Fill_cachesOnly (s : State) (die own a : Nat) : CachesOnly s (l2Fill s die own a).2 := by
  unfold l2Fill; split
  · exact .refl s
  · exact ((l2Room_cachesOnly s die (own / 64) (a / 128)).trans (l3Touch_cachesOnly _ own a 16 false)).trans (modM_cachesOnly _ rfl rfl rfl)
theorem l2WriteGo_cachesOnly (die own n : Nat) (s : State) (a len v : Nat) : CachesOnly s (l2WriteGo die own n s a len v) := by
  induction n generalizing s a len v with
  | zero => exact .refl s
  | succ n ih =>
    unfold l2WriteGo; dsimp only; split
    · exact .refl s
    · exact ((l2Fill_cachesOnly s die own (a / 16 * 16)).trans (modM_cachesOnly _ rfl rfl rfl)).trans (ih _ _ _ _)
theorem l2Write_cachesOnly (s : State) (die own : Nat) (core : Option Nat) (a len v : Nat) : CachesOnly s (l2Write s die own core a len v) :=
  (l2WriteGo_cachesOnly die own _ s a len v).trans (l1Drop_cachesOnly _ die a len core)
theorem acquire_cachesOnly (s : State) (th : Nat) (sc : Scope) : CachesOnly s (acquire s th sc) :=
  .ite (invalidateDie_cachesOnly s _) (.refl s)

/-! The module's own accesses to virtual memory. -/

section
variable {clu part : Nat}

/-- What placing a piece at a home does to the levels of memory: for a home of this module, the die's copies of it leave and the L3 holds it. -/
def placedAt (s : State) (clu part : Nat) (fa : Nat) (leaf : Word) (n : Nat) (w : Bool) : State :=
  if fa / 2 ^ 44 = s.device then l3Touch (flushSpan s (clu / 16) (fa % 2 ^ 44) n) (ownerOf part leaf) (fa % 2 ^ 44) n w else s

theorem placedAt_cachesOnly (s : State) (fa : Nat) (leaf : Word) (n : Nat) (w : Bool) : CachesOnly s (placedAt s clu part fa leaf n w) :=
  .ite ((flushSpan_cachesOnly s _ _ n).trans (l3Touch_cachesOnly _ _ _ n w)) (.refl s)

/-- The checks of a piece that is placed, and where it is. -/
theorem vmPlace_ok {s t : State} {va n k : Nat} {need : Need} (h : vmPlace s clu part va n need = .ok (t, k)) :
    ∃ leaf bits, va / 2 ^ 56 = 0 ∧ lookup s clu part va = .ok (leaf, bits) ∧ need.granted leaf = true ∧
      reservedMa (leafAddr leaf bits va % 2 ^ 44) = false ∧ reachable s (leafAddr leaf bits va) n = .ok () ∧
      t = placedAt s clu part (leafAddr leaf bits va) leaf n need.writes ∧ k = tgtKey s (.glob (leafAddr leaf bits va) leaf) ∧
      (need.writes = true ∨ t.mem.poisoned k n = false) := by
  unfold vmPlace at h
  obtain ⟨_, hva, h⟩ := chk_bind_ok.1 h
  obtain ⟨⟨leaf, bits⟩, hl, h⟩ := chk_bind_ok.1 h
  obtain ⟨_, hg, h⟩ := chk_bind_ok.1 h
  obtain ⟨_, hr, h⟩ := chk_bind_ok.1 h
  obtain ⟨_, hreach, h⟩ := chk_bind_ok.1 h
  obtain ⟨_, hp, h⟩ := chk_bind_ok.1 h
  obtain ⟨ht, hk⟩ := Prod.mk.inj (Except.ok.inj h)
  have hclean := require_ok.1 hp
  rw [ht, hk, Bool.or_eq_true, Bool.not_eq_true'] at hclean
  have hhome := require_ok.1 hr
  rw [Bool.not_eq_true'] at hhome
  exact ⟨leaf, bits, beq_iff_eq.1 (require_ok.1 hva), hl, require_ok.1 hg, hhome, hreach, ht.symm, hk.symm, hclean⟩

theorem vmPlace_store {s : State} {va n : Nat} {leaf : Word} {bits : Nat} (hva : va / 2 ^ 56 = 0) (hl : lookup s clu part va = .ok (leaf, bits))
    (hg : leaf.getLsbD 60 = true) (hm : reservedMa (leafAddr leaf bits va % 2 ^ 44) = false) (hr : reachable s (leafAddr leaf bits va) n = .ok ()) :
    vmPlace s clu part va n .store = .ok (placedAt s clu part (leafAddr leaf bits va) leaf n true, tgtKey s (.glob (leafAddr leaf bits va) leaf)) := by
  have h1 : require (va / 2 ^ 56 == 0) 0x20 va = .ok () := require_ok.2 (by rw [hva]; rfl)
  have h2 : require (Need.granted .store leaf) 0x24 va = .ok () := require_ok.2 hg
  have h3 : require (!reservedMa (leafAddr leaf bits va % 2 ^ 44)) 0x25 (leafAddr leaf bits va) = .ok () := require_ok.2 (by rw [hm]; rfl)
  exact chk_bind_ok.2 ⟨(), h1, chk_bind_ok.2 ⟨(leaf, bits), hl, chk_bind_ok.2 ⟨(), h2, chk_bind_ok.2 ⟨(), h3, chk_bind_ok.2 ⟨(), hr,
    chk_bind_ok.2 ⟨(), rfl, rfl⟩⟩⟩⟩⟩⟩

theorem vmPlace_cachesOnly {s : State} {va n : Nat} {need : Need} {r : State × Nat} (h : vmPlace s clu part va n need = .ok r) : CachesOnly s r.1 := by
  obtain ⟨leaf, bits, -, -, -, -, -, ht, -⟩ := vmPlace_ok (t := r.1) (k := r.2) h
  rw [ht]; exact placedAt_cachesOnly ..
theorem vmReadGo_cachesOnly (l : List (Nat × Nat)) {s : State} {r : Nat × State} (h : vmReadGo clu part l s = .ok r) : CachesOnly s r.2 := by
  induction l generalizing s r with
  | nil => cases h; exact .refl _
  | cons x l ih =>
    obtain ⟨p, hplace, h⟩ := chk_bind_ok.1 h
    obtain ⟨q, hgo, h⟩ := chk_bind_ok.1 h
    cases h
    exact (vmPlace_cachesOnly hplace).trans (ih (r := (q.1, q.2)) hgo)
theorem vmRead_cachesOnly {s : State} {va n : Nat} {r : Nat × State} (h : vmRead s clu part va n = .ok r) : CachesOnly s r.2 := vmReadGo_cachesOnly _ h
theorem vmWriteGo_cachesOnly (l : List (Nat × Nat)) {s t : State} {v : Nat} (h : vmWriteGo clu part l s v = .ok t) : CachesOnly s t := by
  induction l generalizing s v with
  | nil => cases h; exact .refl _
  | cons x l ih =>
    obtain ⟨p, hplace, h⟩ := chk_bind_ok.1 h
    exact ((vmPlace_cachesOnly hplace).trans (modM_cachesOnly _ rfl rfl rfl)).trans (ih h)
/-- A piece that is placed is written, and then the rest. -/
theorem vmWriteGo_cons {s s1 : State} {a n k : Nat} (h : vmPlace s clu part a n .store = .ok (s1, k)) (r : List (Nat × Nat)) (v : Nat) :
    vmWriteGo clu part ((a, n) :: r) s v = vmWriteGo clu part r (s1.modM (·.put k n (v % 256 ^ n))) (v / 256 ^ n) := by
  rw [vmWriteGo, h]; rfl
theorem vmWrite_cachesOnly {s t : State} {va n v : Nat} (h : vmWrite s clu part va n v = .ok t) : CachesOnly s t := vmWriteGo_cachesOnly _ h
theorem spoilFrame_cachesOnly {frame : Nat} (l : List (Nat × Nat)) {s t : State} (h : spoilFrame clu part frame l s = .ok t) : CachesOnly s t := by
  induction l generalizing s with
  | nil => cases h; exact .refl _
  | cons x l ih =>
    obtain ⟨p, hplace, h⟩ := chk_bind_ok.1 h
    exact ((vmPlace_cachesOnly hplace).trans (modM_cachesOnly _ rfl rfl rfl)).trans (ih h)
theorem writePieces_cachesOnly {frame : Nat} (l : List (Nat × Nat × Nat)) {s t : State} (h : writePieces clu part frame l s = .ok t) : CachesOnly s t := by
  induction l generalizing s with
  | nil => cases h; exact .refl _
  | cons x l ih =>
    obtain ⟨p, hwrite, h⟩ := chk_bind_ok.1 h
    exact (vmWrite_cachesOnly hwrite).trans (ih h)

end

end Sys2Proof.Machine
end

section
/-! Entering a handler from a full frame that is written. -/
namespace Sys2Proof.Machine
open Sys2Proof

/-- A condition that can enter does: the state in which the frame is written, with the handler's next PC and the condition in s1 to s3 (R431). -/
theorem takeCondition_enters {s s1 : State} {c : Cond} {pc : Word} (h : canEnter s c pc) (hw : writeFull s s.cur pc = .ok s1) :
    takeCondition s c pc = { s1 with
      thr := { s1.thr with
        r := ((s1.thr.r.setS 1 (BitVec.ofNat 64 (c.flags.toNat * 256 + c.code.toNat))).setS 2 pc).setS 3 c.detail
        inHandler := true, npc := s.thr.y.hand, i := { s1.thr.i with rep := none, blocked := none, notBefore := 0 } }
      taken := some c } := by
  obtain ⟨hcode, hhand, hpark, hne, hal, -⟩ := h
  unfold takeCondition
  dsimp only
  rw [if_neg (by simpa [hhand, hcode] using hne), if_neg (by simp [hal]), if_neg (by simp [hpark]), hw]

end Sys2Proof.Machine
end

section
/-! A full frame whose first sector has a second line of the L3 over it: in the other view of HBM another module address reaches the same bytes (R111).
When the line leaves for a later page of the frame, the bytes behind it come back over those of the frame. -/
namespace Sys2Proof.Machine
open Sys2Proof

/-- The line of the interleaved view over module address 0x2DB7F80, clean, with other bytes of its last sector behind it in HBM (R112). -/
def lineOfOtherView : L3Line := { line := (2 ^ 40 + 8 * 0x2DB7000 + 0xF80) / 128, own := 0, held := [], dirty := 0, hidden := [(0x2DB7FF0, 1)] }

/-- A record whose frame lies at virtual address 0x7FF0. -/
def recFramed : Rec :=
  { id := 1, place := .rest, die := 0, base := none, handles := Vector.replicate 16 .free, waits := 0, raised := 0, since := 0, barred := none
    tested := false, region := none, doms := Vector.replicate 4 0, gsize := 0, lineage := 0, vdepth := 0, vthread := 0, fresh := false, owed := [], crc := 0
    w := { fullf := false, spec := false, srch := false, waith := false, runnable := false, running := true, pc := 0, frame := 0x7FF0, gang := false
           thief := false, backup := false, pweight := 0, cls := 0, attempt := 0, task := 0, tile := 0, start := 0, work := 0, launch := 0, bound := none
           part := 0, dies := 0, depth := 0, livemap := 0, key := 0, laddr := 0, resv := 0 } }

/-- A page of 64 KiB at module address 0x2DB0000 that may be read and written. -/
def framePage : Word := 0xF000000002DB0000

/-- Thread 0 runs that record and has a handler at 8; die 0 is up. Every way of the L3's set of module address 0x2DB8F80 is retired, and the line of the
other view is held in that set. -/
def frameUnderOtherView : State := { State.reset with
  thr := { Thread.reset with rcd := some recFramed, y := { SysRegs.reset with hand := 8 } }
  mem := { Mem.reset with tlb := [{ clu := 0, part := 0, vpage := 0, bits := 16, leaf := framePage }], l3 := [lineOfOtherView] }
  plat := { Plat.reset with bar0 := [(dieOff 0 + 0xB00, 1)], retired := [(retKey 8 12 (l3Slice 0x2DB8F80) (l3Set 0x2DB8F80), 16)] } }

theorem maKey_lineOfOtherView : maKey (lineOfOtherView.line * 128) + 16 * 7 = maKey 0x2DB7FF0 := by decide +kernel

/-- The first piece of a frame whose scalars begin with zeros. -/
theorem fullFrame_first {t : Thread} {free : Nat} (h : getBytes (sArea t.r) 0 16 = 0) : fullFrame t free % 256 ^ 16 = 0 :=
  fullFrame_mod_of_sArea t free (by decide) h

theorem scalars_frameUnderOtherView : getBytes (sArea (landAll frameUnderOtherView.thr).r) 0 16 = 0 := by decide +kernel

/-- The first piece of the frame, 16 bytes, is zero: s0 and s1. -/
theorem frame_first : fullFrame (landAll frameUnderOtherView.thr) frameUnderOtherView.free % 256 ^ 16 = 0 := fullFrame_first scalars_frameUnderOtherView

/-- The first byte of a frame that begins with 16 zeros. -/
theorem byte_zero_of_mod {f : Nat} (h : f % 256 ^ 16 = 0) : BitVec.ofNat 8 (f / 256 ^ 0) = 0 := by
  apply BitVec.eq_of_toNat_eq
  rw [Nat.pow_zero, Nat.div_one, BitVec.toNat_ofNat]
  show f % 2 ^ 8 = 0
  omega

/-- The state in which the first piece of the frame is placed, and that in which it is written. -/
def firstPlaced : State := match vmPlace frameUnderOtherView 0 0 0x7FF0 16 .store with | .ok r => r.1 | .error _ => frameUnderOtherView
def firstWritten : State := firstPlaced.modM (fun m => m.put 0x2DB7FF0 16 0)

theorem vmPlace_first : vmPlace frameUnderOtherView 0 0 0x7FF0 16 .store = .ok (firstPlaced, 0x2DB7FF0) := by decide +kernel

/-- The rest of the frame, over three pages more. -/
def restOfFrame : Chk State := vmWriteGo 0 0 [(0x8000, 0x1000), (0x9000, 0x1000), (0xA000, 0x2F0)] firstWritten ((fullFrame (landAll frameUnderOtherView.thr) frameUnderOtherView.free) / 256 ^ 16)

/-- Writing the rest of the frame brings back the byte behind the other view's line. -/
theorem restOfFrame_byte : (match restOfFrame with | .ok t => decide (t.byte 0x2DB7FF0 = 1) | .error _ => false) = true := by decide +kernel

theorem splitRange_frame : splitRange 0x7FF0 0x2300 = [(0x7FF0, 16), (0x8000, 0x1000), (0x9000, 0x1000), (0xA000, 0x2F0)] := by decide +kernel

theorem vmWrite_frame : vmWrite frameUnderOtherView 0 0 0x7FF0 0x2300 (fullFrame (landAll frameUnderOtherView.thr) frameUnderOtherView.free) = restOfFrame := by
  rw [vmWrite, splitRange_frame, vmWriteGo_cons vmPlace_first, frame_first, restOfFrame, firstWritten]

/-- The whole frame can be written, and its first byte is then not that of the frame. -/
theorem writeFull_frameUnderOtherView : ∃ t, writeFull frameUnderOtherView 0 0 = .ok t ∧ t.byte 0x2DB7FF0 = 1 := by
  have hbyte := restOfFrame_byte
  split at hbyte
  · rename_i t ht
    exact ⟨_, chk_bind_ok.2 ⟨t, vmWrite_frame.trans ht, rfl⟩,
      (congrArg (fun m : Mem => cellAt m.cells 0x2DB7FF0) (State.setT_mem t 0 _)).trans (of_decide_eq_true hbyte)⟩
  · cases hbyte

theorem canEnter_frameUnderOtherView : canEnter frameUnderOtherView (mkCond 1 0) 0 := by
  obtain ⟨t, ht, -⟩ := writeFull_frameUnderOtherView
  exact ⟨by decide, rfl, rfl, by decide, by decide, t, ht⟩

/-- The frame lies in one page at consecutive module addresses. -/
theorem lookup_frameUnderOtherView (i : Nat) (hi : i < 0x2300) :
    lookup frameUnderOtherView 0 0 (0x7FF0 + i) = .ok (framePage, 16) ∧ leafAddr framePage 16 (0x7FF0 + i) = frameUnderOtherView.device * 2 ^ 44 + 0x2DB7FF0 + i := by
  have hpage : (0x7FF0 + i) / 2 ^ 16 = 0 := by omega
  have hoff : (0x7FF0 + i) % 2 ^ 16 = 0x7FF0 + i := by omega
  have hbase : fld framePage 51 16 * 0x10000 = 0x2DB0000 := by decide
  have hdev : frameUnderOtherView.device = 0 := by decide
  have hhit : ((0x7FF0 + i) / 2 ^ 16 == 0) = true := by rw [hpage]; rfl
  refine ⟨?_, ?_⟩
  · rw [lookup, show frameUnderOtherView.mem.tlb = [{ clu := 0, part := 0, vpage := 0, bits := 16, leaf := framePage }] from rfl,
      List.find?_cons_of_pos (by simpa only [beq_self_eq_true, Bool.true_and] using hhit)]
  · calc leafAddr framePage 16 (0x7FF0 + i) = 0x2DB0000 + (0x7FF0 + i) := congrArg₂ (· + ·) hbase hoff
      _ = 0x2DB0000 + 0x7FF0 + i := (Nat.add_assoc _ _ _).symm
      _ = 0 * 2 ^ 44 + 0x2DB7FF0 + i := congrArg (· + i) (by decide)
      _ = frameUnderOtherView.device * 2 ^ 44 + 0x2DB7FF0 + i := by rw [hdev]

/-- Refutes O32, in its last clause: the statement holds no line of the L3 off the frame's bytes. In `frameUnderOtherView` such a line, of the other view of
HBM, hides the byte 1 behind it; it leaves for a later page of the frame, and the frame's first byte, which is that of s0, is then 1. -/
theorem not_conditionEntry : ¬ Obligations.ConditionEntry := by
  unfold Obligations.ConditionEntry
  intro h
  obtain ⟨t, hwrite, hbyte⟩ := writeFull_frameUnderOtherView
  obtain ⟨-, -, -, -, -, -, -, -, -, -, hframe⟩ := h _ _ _ canEnter_frameUnderOtherView
  have hzero := hframe recFramed framePage 16 0x2DB7FF0 rfl (by decide) (by decide) (by decide) (by decide) lookup_frameUnderOtherView 0 (by decide)
  rw [takeCondition_enters canEnter_frameUnderOtherView hwrite] at hzero
  exact absurd (hbyte.symm.trans (hzero.trans (byte_zero_of_mod frame_first))) (by decide)

end Sys2Proof.Machine
end

section
/-! Accesses of the module wait for no die when every home is up (R396). -/
namespace Sys2Proof.Machine
open Sys2Proof

/-- Every home of this module's HBM is up. -/
def HomesUp (s : State) : Prop := ∀ a, inHbm a = true → notYetUp s a = false

theorem HomesUp.of_plat {s t : State} (h : HomesUp s) (hp : t.plat = s.plat) : HomesUp t := by
  have e : ∀ a, notYetUp t a = notYetUp s a := fun a => by simp [notYetUp, State.dieState, State.bootState, State.reg0, State.reg2, hp]
  exact fun a ha => (e a).trans (h a ha)
theorem HomesUp.of_cachesOnly {s t : State} (h : HomesUp s) (hc : CachesOnly s t) : HomesUp t := h.of_plat hc.plat

/-- The checks do not end in a wait. -/
structure NoWait {α : Type} (x : Chk α) : Prop where
  out : ∀ w, x ≠ .error (.wait w)

namespace NoWait
variable {α β : Type}
theorem ok (a : α) : NoWait (.ok a : Chk α) := ⟨fun _ h => nomatch h⟩
theorem raise (c d : Nat) : NoWait (Machine.raise c d : Chk α) := ⟨fun _ h => nomatch h⟩
theorem require (b : Bool) (c d : Nat) : NoWait (Machine.require b c d) := by cases b <;> exact ⟨fun _ h => nomatch h⟩
theorem ite {c : Prop} [Decidable c] {x y : Chk α} (hx : NoWait x) (hy : NoWait y) : NoWait (if c then x else y) := by split <;> assumption
theorem bind {x : Chk α} {f : α → Chk β} (hx : NoWait x) (hf : ∀ a, x = .ok a → NoWait (f a)) : NoWait (x >>= f) := by
  cases x with
  | error e => exact ⟨fun w h => hx.out w (congrArg Except.error (Except.error.inj h))⟩
  | ok a => exact hf a rfl
end NoWait

/-- An entry of an aligned table of HBM lies in HBM (R107): the ends of its views are aligned too. -/
theorem inHbm_entry {tbl ib i : Nat} (h : inHbm tbl = true) (hal : tbl % 2 ^ (ib + 3) = 0) (hib : ib ≤ 13) (hi : i < 2 ^ ib) : inHbm (tbl + 8 * i) = true := by
  have below (k : Nat) (hk : tbl < 2 ^ 16 * k) : tbl + 8 * i < 2 ^ 16 * k := by
    have hunit : 2 ^ 16 * k = 2 ^ (ib + 3) * (2 ^ (13 - ib) * k) := by rw [← Nat.mul_assoc, ← Nat.pow_add]; congr 2; omega
    have htbl : 2 ^ (ib + 3) * (tbl / 2 ^ (ib + 3)) = tbl := Nat.mul_div_cancel' (Nat.dvd_of_mod_eq_zero hal)
    have hsize : 8 * i < 2 ^ (ib + 3) := by rw [Nat.pow_add]; omega
    rw [hunit] at hk ⊢
    generalize 2 ^ (ib + 3) = size at *
    have hq : tbl / size < 2 ^ (13 - ib) * k := Nat.lt_of_mul_lt_mul_left (htbl.symm ▸ hk)
    calc tbl + 8 * i < size * (tbl / size + 1) := by rw [Nat.mul_add, htbl]; omega
      _ ≤ size * (2 ^ (13 - ib) * k) := Nat.mul_le_mul_left _ hq
  simp only [inHbm, inLocalView, inInterleaved, Bool.or_eq_true, Bool.and_eq_true, decide_eq_true_eq] at h ⊢
  have hlocal := below 0xC00000
  have hinter := below 0x1C00000
  omega

section
variable {s : State} (hup : HomesUp s)
include hup

theorem walkGo_noWait (va : Nat) : ∀ (l : List (Nat × Nat)) (tbl : Nat) (top : Bool), (∀ x ∈ l, x.2 ≤ 13) → (∀ x ∈ l.head?, tbl % 2 ^ (x.2 + 3) = 0) →
    NoWait (walkGo s va l tbl top)
  | [], _, _, _, _ => .raise ..
  | (sh, ib) :: rest, tbl, top, hl, hal => by
    by_cases hin : inHbm tbl = true
    · have hentry := hup _ (inHbm_entry hin (hal _ rfl) (hl _ (List.mem_cons_self ..)) (Nat.mod_lt (va / 2 ^ sh) (Nat.two_pow_pos ib)))
      rw [walkGo, if_neg (by simp [hin])]
      dsimp only
      rw [hentry]
      rw [if_neg Bool.false_ne_true]
      refine .ite (.raise ..) (.ite (.raise ..) (.ite (.raise ..) (.ite (.ite (.raise ..) (.ok _)) ?_)))
      cases rest with
      | nil => exact .raise ..
      | cons y r =>
        dsimp only
        split
        · exact .raise ..
        · next hok =>
          simp only [Bool.or_eq_true, bne_iff_ne, ne_eq, not_or, Decidable.not_not] at hok
          refine walkGo_noWait va _ _ _ (fun x hx => hl x (List.mem_cons_of_mem _ hx)) (fun x hx => ?_)
          cases hx
          exact hok.2
    · rw [walkGo, if_pos (by simp [hin])]
      exact .raise ..

theorem lookup_noWait (clu part va : Nat) : NoWait (lookup s clu part va) := by
  unfold lookup
  split
  · exact .ok _
  · refine walkGo_noWait hup va ptLevels _ true (by decide) (fun x hx => ?_)
    cases hx
    exact Nat.mul_mod_left ..

theorem reachable_noWait (fa n : Nat) : NoWait (reachable s fa n) := by
  unfold reachable
  refine .ite (.require ..) (.ite (.require ..) ?_)
  split
  · next hin =>
    rw [hup _ hin, if_neg Bool.false_ne_true]
    exact .ite (.raise ..) (.ok _)
  · exact .ok _

theorem vmPlace_noWait (clu part va n : Nat) (need : Need) : NoWait (vmPlace s clu part va n need) :=
  .bind (.require ..) fun _ _ => .bind (lookup_noWait hup ..) fun _ _ => .bind (.require ..) fun _ _ => .bind (.require ..) fun _ _ =>
    .bind (reachable_noWait hup ..) fun _ _ => .bind (.require ..) fun _ _ => .ok _
end

theorem vmWriteGo_noWait (clu part : Nat) (l : List (Nat × Nat)) {s : State} (hup : HomesUp s) (v : Nat) : NoWait (vmWriteGo clu part l s v) := by
  induction l generalizing s v with
  | nil => exact .ok _
  | cons x l ih =>
    exact .bind (vmPlace_noWait hup ..) fun p hp => ih (s := p.1.modM _) ((hup.of_cachesOnly (vmPlace_cachesOnly hp)).of_plat rfl) _
theorem spoilFrame_noWait (clu part frame : Nat) (l : List (Nat × Nat)) {s : State} (hup : HomesUp s) : NoWait (spoilFrame clu part frame l s) := by
  induction l generalizing s with
  | nil => exact .ok _
  | cons x l ih =>
    exact .bind (vmPlace_noWait hup ..) fun p hp => ih (s := p.1.modM _) ((hup.of_cachesOnly (vmPlace_cachesOnly hp)).of_plat rfl)

/-- A full frame is written without a wait. -/
theorem writeFull_noWait {s : State} (hup : HomesUp s) (n : Nat) (pc : Word) : NoWait (writeFull s n pc) := by
  unfold writeFull
  dsimp only
  split
  · exact .ok _
  · exact .bind (vmWriteGo_noWait _ _ _ hup _) fun _ h0 =>
      .bind (spoilFrame_noWait _ _ _ _ (hup.of_cachesOnly (vmWriteGo_cachesOnly _ h0))) fun _ _ => .ok _

end Sys2Proof.Machine
end
section
/-! What it leaves of the state that threads of a core stop. -/
namespace Sys2Proof.Machine
open Sys2Proof

theorem State.getT_setT_self (s : State) (n : Nat) (t : Thread) : (s.setT n t).getT n = t := by
  unfold State.getT State.setT
  by_cases h : n = s.cur
  · rw [if_pos h]; exact if_pos h
  · rw [if_neg h]; exact (if_neg h).trans (tabGet_tabSet_self ..)
theorem State.getT_setT_ne (s : State) {n k : Nat} (t : Thread) (h : k ≠ n) : (s.setT n t).getT k = s.getT k := by
  unfold State.getT State.setT
  by_cases hn : n = s.cur
  · rw [if_pos hn, if_neg (hn ▸ h), if_neg (hn ▸ h)]
  · rw [if_neg hn]
    dsimp only
    split
    · rfl
    · exact tabGet_tabSet_ne _ _ _ _ _ h
theorem State.getT_cur (s : State) : s.getT s.cur = s.thr := if_pos rfl
theorem State.setT_plat (s : State) (n : Nat) (t : Thread) : (s.setT n t).plat = s.plat := by unfold State.setT; split <;> rfl
theorem State.setT_sch (s : State) (n : Nat) (t : Thread) : (s.setT n t).sch = s.sch := by unfold State.setT; split <;> rfl
theorem State.setT_cores (s : State) (n : Nat) (t : Thread) : (s.setT n t).cores = s.cores := by unfold State.setT; split <;> rfl
theorem State.setT_cur (s : State) (n : Nat) (t : Thread) : (s.setT n t).cur = s.cur := by unfold State.setT; split <;> rfl

/-- Threads that `p` selects have changed, and memory and the schedule with them; the cores and the platform have not, and every record at rest still is. -/
structure Stops (p : Nat → Prop) (s t : State) : Prop where
  cur : t.cur = s.cur
  cores : t.cores = s.cores
  plat : t.plat = s.plat
  others : ∀ k, ¬ p k → t.getT k = s.getT k
  recs : ∀ r ∈ s.sch.recs, r ∈ t.sch.recs

namespace Stops
variable {p q : Nat → Prop} {s t u : State}
theorem refl (p : Nat → Prop) (s : State) : Stops p s s := ⟨rfl, rfl, rfl, fun _ _ => rfl, fun _ h => h⟩
theorem trans (h : Stops p s t) (k : Stops p t u) : Stops p s u :=
  ⟨k.cur.trans h.cur, k.cores.trans h.cores, k.plat.trans h.plat, fun i hi => (k.others i hi).trans (h.others i hi), fun r hr => k.recs r (h.recs r hr)⟩
theorem mono (h : Stops p s t) (hpq : ∀ k, p k → q k) : Stops q s t := ⟨h.cur, h.cores, h.plat, fun k hk => h.others k (fun hp => hk (hpq k hp)), h.recs⟩
theorem core (h : Stops p s t) (c : Nat) : t.core c = s.core c := by rw [State.core, State.core, h.cores]
theorem thr (h : Stops p s t) (hn : ¬ p s.cur) : t.thr = s.thr := by
  rw [← State.getT_cur t, ← State.getT_cur s, h.cur]; exact h.others _ hn
theorem homesUp (h : Stops p s t) (hup : HomesUp s) : HomesUp t := hup.of_plat h.plat
theorem of_cachesOnly (h : CachesOnly s t) : Stops p s t := ⟨h.cur, h.cores, h.plat, fun k _ => h.getT k, fun r hr => by rw [h.sch]; exact hr⟩
theorem setT (s : State) {n : Nat} (t : Thread) (hn : p n) : Stops p s (s.setT n t) :=
  ⟨s.setT_cur n t, s.setT_cores n t, s.setT_plat n t, fun _ hk => s.getT_setT_ne t (fun e => hk (e ▸ hn)), fun _ hr => by rw [s.setT_sch]; exact hr⟩
theorem free (h : Stops p s t) (n : Nat) : Stops p s { t with free := n } := ⟨h.cur, h.cores, h.plat, h.others, h.recs⟩
theorem addRec (s : State) (r : Rec) : Stops p s (s.modSch (fun c => { c with recs := c.recs ++ [r] })) :=
  ⟨rfl, rfl, rfl, fun _ _ => rfl, fun _ h => List.mem_append_left _ h⟩
end Stops

theorem withdrawOf_stops (p : Nat → Prop) (s : State) (n : Nat) : Stops p s (withdrawOf s n) := by
  unfold withdrawOf
  dsimp only
  split
  · exact ⟨rfl, rfl, rfl, fun _ _ => rfl, fun _ h => h⟩
  · exact .refl p s
theorem withdrawOf_getT (s : State) (n k : Nat) : (withdrawOf s n).getT k = s.getT k := (withdrawOf_stops (fun _ => False) s n).others k id

/-- A thread whose full frame has been written: its results have landed, and its record is bound to it with FULLF (R37). -/
def withFullFrame (t : Thread) (n : Nat) (pc : Word) (r : Rec) : Thread :=
  { landAll t with rcd := some { r with w := { r.w with pc := pc, fullf := true, bound := some n, depth := t.q.depth }, handles := (landAll t).r.h } }

/-- Writing a full frame moves bytes, and changes the thread. -/
theorem writeFull_cases {s x : State} {n : Nat} {pc : Word} (h : writeFull s n pc = .ok x) :
    ((s.getT n).rcd = none ∧ x = s.setT n (landAll (s.getT n))) ∨
    (∃ r s1, (s.getT n).rcd = some r ∧ CachesOnly s s1 ∧ x = { s1.setT n (withFullFrame (s.getT n) n pc r) with free := s1.free + 16 }) := by
  unfold writeFull at h
  dsimp only at h
  split at h
  · next hnone => exact .inl ⟨hnone, (Except.ok.inj h).symm⟩
  · next r hsome =>
    obtain ⟨s0, hwrite, h⟩ := chk_bind_ok.1 h
    obtain ⟨s1, hspoil, h⟩ := chk_bind_ok.1 h
    exact .inr ⟨r, s1, hsome, (vmWrite_cachesOnly hwrite).trans (spoilFrame_cachesOnly _ hspoil), (Except.ok.inj h).symm⟩
theorem writeFull_stops {s x : State} {n : Nat} {pc : Word} (h : writeFull s n pc = .ok x) : Stops (· = n) s x := by
  obtain ⟨-, rfl⟩ | ⟨r, s1, -, hcaches, rfl⟩ := writeFull_cases h
  · exact .setT s _ rfl
  · have hset : Stops (· = n) s (s1.setT n (withFullFrame (s.getT n) n pc r)) := (Stops.of_cachesOnly hcaches).trans (.setT s1 _ rfl)
    exact hset.free _
theorem writeFull_getT {s x : State} {n : Nat} {pc : Word} {r : Rec} (h : writeFull s n pc = .ok x) (hr : (s.getT n).rcd = some r) :
    x.getT n = withFullFrame (s.getT n) n pc r := by
  obtain ⟨hnone, -⟩ | ⟨q, s1, hq, -, rfl⟩ := writeFull_cases h
  · rw [hr] at hnone; cases hnone
  · rw [hr] at hq; cases hq
    exact State.getT_setT_self s1 n _

theorem bindRest_stops (s : State) (n : Nat) : Stops (· = n) s (bindRest s n) := by
  unfold bindRest
  dsimp only
  split
  · exact .refl _ s
  · exact (Stops.setT (p := (· = n)) s _ rfl).trans (.addRec _ _)
theorem bindRest_rcd (s : State) (n : Nat) : ((bindRest s n).getT n).rcd = none := by
  unfold bindRest
  dsimp only
  split
  · assumption
  · exact congrArg Thread.rcd (State.getT_setT_self s n _)
/-- The record that a thread gives up is at rest, bound to the thread. -/
theorem bindRest_rec {s : State} {n : Nat} {r : Rec} (h : (s.getT n).rcd = some r) :
    ∃ r' ∈ (bindRest s n).sch.recs, r'.id = r.id ∧ r'.place = .rest ∧ r'.w = { r.w with running := false, runnable := false, bound := some n } := by
  unfold bindRest
  simp only [h]
  exact ⟨_, List.mem_append_right _ (List.mem_singleton.2 rfl), rfl, rfl, rfl⟩

/-- The message of a core waits while a thread of it holds a record. -/
theorem postPark_holds {s : State} {core i : Nat} (hi : i < 4) (h : (s.getT (core * 4 + i)).rcd.isSome = true) : postPark s core = s := by
  unfold postPark
  dsimp only
  split
  · exact if_pos (Bool.or_eq_true_iff.2 (.inr (List.any_eq_true.2 ⟨i, List.mem_range.2 hi, h⟩)))
  · rfl
theorem postPark_unparked {s : State} {core : Nat} (h : (s.core core).parked = none) : postPark s core = s := by
  unfold postPark
  dsimp only
  split
  · exact if_pos (by rw [h]; rfl)
  · rfl
/-- The message of a parked core without records is posted. -/
theorem postPark_posts {s : State} {core m n : Nat} (hm : (s.core core).message = some m) (hp : (s.core core).parked = some n)
    (h : ∀ i, i < 4 → (s.getT (core * 4 + i)).rcd = none) :
    postPark s core = (s.setCore core { s.core core with message := none }).mailTo (core / 128) m := by
  have hfree : (List.range 4).any (fun i => (s.getT (core * 4 + i)).rcd.isSome) = false :=
    List.any_eq_false.2 fun i hi => by rw [h i (List.mem_range.1 hi)]; decide
  unfold postPark
  simp only [hm, hp, hfree]
  rfl
/-- Posting the message leaves the threads, the records and who parked the core. -/
theorem postPark_leaves (s : State) (core : Nat) : (postPark s core).cur = s.cur ∧ (postPark s core).thr = s.thr ∧ (postPark s core).sch = s.sch ∧
    ((postPark s core).core core).parked = (s.core core).parked ∧ ((postPark s core).core core).parkLaunch = (s.core core).parkLaunch := by
  unfold postPark
  dsimp only
  split
  · split
    · exact ⟨rfl, rfl, rfl, rfl, rfl⟩
    · have hcore := State.core_setCore_self s core { s.core core with message := none }
      exact ⟨rfl, rfl, rfl, (congrArg CoreSt.parked hcore).trans rfl, (congrArg CoreSt.parkLaunch hcore).trans rfl⟩
  · exact ⟨rfl, rfl, rfl, rfl, rfl⟩

/-- Another thread of a parking core: it goes on where it must, or waits for its frame, or stops, and then the core's message may be posted. -/
theorem bindOther_cases (s : State) (n : Nat) :
    (((s.getT n).rcd = none ∨ (s.getT n).i.rep.isSome = true ∨ (s.getT n).i.replies ≠ []) ∧ bindOther s n = s) ∨
    ((∃ w, writeFull (withdrawOf s n) n (s.getT n).pc = .error (.wait w)) ∧ Stops (· = n) s (bindOther s n) ∧ (bindOther s n).getT n = s.getT n) ∨
    (∃ t, Stops (· = n) s t ∧ (t.getT n).rcd = none ∧ bindOther s n = postPark t (thCore n)) := by
  have hwith := withdrawOf_stops (· = n) s n
  unfold bindOther
  dsimp only
  split
  · next hskip =>
    refine .inl ⟨?_, rfl⟩
    simpa [or_assoc] using hskip
  · split
    · next s1 hok => exact .inr (.inr ⟨_, (hwith.trans (writeFull_stops hok)).trans (bindRest_stops s1 n), bindRest_rcd s1 n, rfl⟩)
    · next hwait => exact .inr (.inl ⟨⟨_, hwait⟩, ⟨rfl, rfl, rfl, fun _ _ => rfl, fun _ h => h⟩, rfl⟩)
    · exact .inr (.inr ⟨_, hwith.trans (bindRest_stops _ n), bindRest_rcd _ n, rfl⟩)

/-- A thread that must go on for now is left. -/
theorem bindOther_busy {s : State} {n : Nat} (hbusy : ¬ ((s.getT n).i.rep = none ∧ (s.getT n).i.replies = [])) : bindOther s n = s := by
  unfold bindOther
  dsimp only
  refine if_pos ?_
  rw [not_and_or, ← ne_eq, ← Option.isSome_iff_ne_none] at hbusy
  obtain h | h := hbusy <;> simp [h]

section
variable {s : State} {n : Nat} (hpark : (s.core (thCore n)).parked = none)
include hpark

theorem bindOther_stops : Stops (· = n) s (bindOther s n) := by
  obtain ⟨-, h⟩ | ⟨-, h, -⟩ | ⟨t, ht, -, h⟩ := bindOther_cases s n
  · rw [h]; exact .refl _ s
  · exact h
  · rw [h, postPark_unparked (by rw [ht.core, hpark])]; exact ht

/-- A thread that may stop holds no record any more. -/
theorem bindOther_rcd (hup : HomesUp s) (hidle : (s.getT n).rcd = none ∨ (s.getT n).i.rep = none ∧ (s.getT n).i.replies = []) :
    ((bindOther s n).getT n).rcd = none := by
  obtain ⟨hgo, h⟩ | ⟨⟨w, hw⟩, -⟩ | ⟨t, ht, hnone, h⟩ := bindOther_cases s n
  · rw [h]
    obtain hnone | ⟨hrep, hreplies⟩ := hidle
    · exact hnone
    · simpa [hrep, hreplies] using hgo
  · exact absurd hw ((writeFull_noWait ((withdrawOf_stops (· = n) s n).homesUp hup) _ _).out w)
  · rw [h, postPark_unparked (by rw [ht.core, hpark])]; exact hnone
end

/-! The threads of a core stop one after another. -/

/-- The named threads of a core stop. -/
def stopAll (core : Nat) (l : List Nat) (s : State) : State := l.foldl (fun x i => bindOther x (core * 4 + i)) s

theorem thCore_member {core i : Nat} (hi : i < 4) : thCore (core * 4 + i) = core := by unfold thCore; omega

section
variable {core : Nat} {l : List Nat} (hl : ∀ i ∈ l, i < 4)
include hl

theorem stopAll_stops {s : State} (hpark : (s.core core).parked = none) : Stops (fun k => ∃ i ∈ l, k = core * 4 + i) s (stopAll core l s) := by
  induction l generalizing s with
  | nil => exact .refl _ s
  | cons i r ih =>
    have hfirst := bindOther_stops (s := s) (n := core * 4 + i) (by rw [thCore_member (hl i (List.mem_cons_self ..))]; exact hpark)
    refine (hfirst.mono fun k hk => ⟨i, List.mem_cons_self .., hk⟩).trans ?_
    exact (ih (fun j hj => hl j (List.mem_cons_of_mem _ hj)) (by rw [hfirst.core, hpark])).mono fun k ⟨j, hj, hk⟩ => ⟨j, List.mem_cons_of_mem _ hj, hk⟩

theorem stopAll_busy {s : State} (hpark : (s.core core).parked = none) {k : Nat}
    (hbusy : ¬ ((s.getT k).i.rep = none ∧ (s.getT k).i.replies = [])) : (stopAll core l s).getT k = s.getT k := by
  induction l generalizing s with
  | nil => rfl
  | cons i r ih =>
    have hcore : (s.core (thCore (core * 4 + i))).parked = none := by rw [thCore_member (hl i (List.mem_cons_self ..))]; exact hpark
    have hfirst := bindOther_stops hcore
    have hsame : (bindOther s (core * 4 + i)).getT k = s.getT k := by
      by_cases hk : k = core * 4 + i
      · subst hk; rw [bindOther_busy hbusy]
      · exact hfirst.others k hk
    exact (ih (fun j hj => hl j (List.mem_cons_of_mem _ hj)) (by rw [hfirst.core, hpark]) (by rwa [hsame])).trans hsame

end

/-- A thread that holds no record, or may stop, still is such a one. -/
theorem bindOther_idle {s : State} {n k : Nat} (hpark : (s.core (thCore n)).parked = none) (hup : HomesUp s)
    (h : (s.getT k).rcd = none ∨ (s.getT k).i.rep = none ∧ (s.getT k).i.replies = []) :
    ((bindOther s n).getT k).rcd = none ∨ ((bindOther s n).getT k).i.rep = none ∧ ((bindOther s n).getT k).i.replies = [] := by
  by_cases hk : k = n
  · subst hk; exact .inl (bindOther_rcd hpark hup h)
  · rw [(bindOther_stops hpark).others k hk]; exact h

theorem stopAll_keeps_free {core : Nat} {l : List Nat} (hl : ∀ i ∈ l, i < 4) {s : State} (hpark : (s.core core).parked = none) (hup : HomesUp s) {k : Nat}
    (h : (s.getT k).rcd = none) : ((stopAll core l s).getT k).rcd = none := by
  induction l generalizing s with
  | nil => exact h
  | cons i r ih =>
    have hcore : (s.core (thCore (core * 4 + i))).parked = none := by rw [thCore_member (hl i (List.mem_cons_self ..))]; exact hpark
    have hfirst := bindOther_stops hcore
    refine ih (fun j hj => hl j (List.mem_cons_of_mem _ hj)) (by rw [hfirst.core, hpark]) (hfirst.homesUp hup) ?_
    by_cases hk : k = core * 4 + i
    · subst hk; exact bindOther_rcd hcore hup (.inl h)
    · rw [hfirst.others k hk]; exact h

theorem stopAll_rcd {core : Nat} {l : List Nat} (hl : ∀ i ∈ l, i < 4) {s : State} (hpark : (s.core core).parked = none) (hup : HomesUp s)
    (hidle : ∀ i ∈ l, (s.getT (core * 4 + i)).rcd = none ∨ (s.getT (core * 4 + i)).i.rep = none ∧ (s.getT (core * 4 + i)).i.replies = []) {i : Nat}
    (hi : i ∈ l) : ((stopAll core l s).getT (core * 4 + i)).rcd = none := by
  induction l generalizing s with
  | nil => cases hi
  | cons j r ih =>
    have hcore : (s.core (thCore (core * 4 + j))).parked = none := by rw [thCore_member (hl j (List.mem_cons_self ..))]; exact hpark
    have hfirst := bindOther_stops hcore
    have hr : ∀ x ∈ r, x < 4 := fun x hx => hl x (List.mem_cons_of_mem _ hx)
    have hpark' : ((bindOther s (core * 4 + j)).core core).parked = none := by rw [hfirst.core, hpark]
    obtain rfl | hi := List.mem_cons.1 hi
    · exact stopAll_keeps_free hr hpark' (hfirst.homesUp hup) (bindOther_rcd hcore hup (hidle _ (List.mem_cons_self ..)))
    · exact ih hr hpark' (hfirst.homesUp hup)
        (fun x hx => bindOther_idle hcore hup (hidle x (List.mem_cons_of_mem _ hx))) hi

end Sys2Proof.Machine
end

section
/-! The 32-byte fault message (R436). -/
namespace Sys2Proof.Machine
open Sys2Proof

/-- Bit `i` of a mask that is put together from bits. -/
theorem testBit_packN_one (f : Nat → Nat) (c i : Nat) : (packN 1 f c).testBit i = (decide (i < c) && (f i).testBit 0) := by
  induction c with
  | zero => simp [packN]
  | succ c ih =>
    have hsum : packN 1 f (c + 1) = 2 ^ c * (f c % 2) + packN 1 f c := by simp [packN]; ring
    have hlt : packN 1 f c < 2 ^ c := by simpa using packN_lt 1 f c
    rw [hsum, Nat.testBit_two_pow_mul_add _ hlt]
    split
    · next hi => rw [ih, decide_eq_true hi, decide_eq_true (Nat.lt_succ_of_lt hi)]
    · next hi =>
      obtain rfl | hne := eq_or_ne i c
      · simp
      · have hbit : f c % 2 < 2 := Nat.mod_lt _ (by decide)
        have hout : ¬ i < c + 1 := by omega
        rw [decide_eq_false hout, Bool.false_and]
        exact Nat.testBit_lt_two_pow (Nat.lt_of_lt_of_le hbit (Nat.le_self_pow (by omega) 2))

/-- The mask of a core's threads with records. -/
def heldMask (s : State) (core : Nat) : Nat := packN 1 (fun i => if (s.getT (core * 4 + i)).rcd.isSome then 1 else 0) 4

theorem heldMask_lt (s : State) (core : Nat) : heldMask s core < 16 := packN_lt 1 _ 4
theorem testBit_heldMask (s : State) (core i : Nat) : (heldMask s core).testBit i = (decide (i < 4) && (s.getT (core * 4 + i)).rcd.isSome) := by
  rw [heldMask, testBit_packN_one]
  congr 1
  cases (s.getT (core * 4 + i)).rcd.isSome <;> rfl

/-- Byte 1: INHANDLER, the flags and whether it was `park`. -/
def faultByte (t : Thread) (c : Cond) (byPark : Bool) : Nat := (if t.inHandler then 1 else 0) + 2 * c.flags.toNat + (if byPark then 16 else 0)
/-- Byte 4: the partition, SPEC and GANG. -/
def partByte (r : Rec) : Nat := r.w.part + (if r.w.spec then 64 else 0) + (if r.w.gang then 128 else 0)

theorem faultByte_lt (t : Thread) (c : Cond) (byPark : Bool) : faultByte t c byPark < 256 := by
  have hflags := c.flags.isLt
  unfold faultByte
  split <;> split <;> omega
theorem partByte_lt {r : Rec} (h : r.w.part < 64) : partByte r < 256 := by
  unfold partByte
  split <;> split <;> omega

/-- The fields of the message, with their lengths. -/
def faultFields (s : State) (c : Cond) (pc : Word) (byPark : Bool) (r : Rec) : List (Nat × Nat) :=
  [(1, c.code.toNat), (1, faultByte s.thr c byPark), (2, s.physTh s.cur), (1, partByte r), (1, heldMask s (thCore s.cur)), (2, 0), (8, pc.toNat),
   (8, c.detail.toNat), (8, r.w.frame.toNat)]

section
variable {s : State} {r : Rec} (hr : s.thr.rcd = some r) (c : Cond) (pc : Word) (byPark : Bool)
include hr

theorem parkMsg_eq_packed : parkMsg s s.cur c pc byPark = packed (faultFields s c pc byPark r) := by
  have hpart : thPart s.thr + (if thSpec s.thr then 64 else 0) + (if thGang s.thr then 128 else 0) = partByte r := by
    simp only [thPart, thSpec, thGang, partByte, hr]
  simp only [parkMsg, State.getT_cur, hpart, hr, faultFields, packed]
  change _ + faultByte s.thr c byPark * 2 ^ 8 + _ + _ + heldMask s (thCore s.cur) * 2 ^ 40 + _ + _ + _ = _
  ring

end

section
variable {s : State} {r : Rec} (hp : r.w.part < 64) (hth : s.physTh s.cur < 4096) (c : Cond) (pc : Word) (byPark : Bool)
include hp hth

theorem faultFields_fit : Fits (faultFields s c pc byPark r) := by
  have hpow : (256 : Nat) ^ 1 = 256 := rfl
  refine fits_cons.2 ⟨c.code.isLt, fits_cons.2 ⟨faultByte_lt _ _ _, fits_cons.2 ⟨?_, fits_cons.2 ⟨partByte_lt hp, fits_cons.2 ⟨?_, fits_cons.2 ⟨by decide,
    fits_cons.2 ⟨pc.isLt, fits_cons.2 ⟨c.detail.isLt, fits_cons.2 ⟨r.w.frame.isLt, fits_nil⟩⟩⟩⟩⟩⟩⟩⟩⟩
  · exact Nat.lt_trans hth (show 4096 < 256 ^ 2 by decide)
  · exact Nat.lt_trans (heldMask_lt s _) (show 16 < 256 ^ 1 by decide)

theorem getBytes_parkMsg (hr : s.thr.rcd = some r) {i n v k : Nat} (hi : (faultFields s c pc byPark r)[i]? = some (n, v)) (hk : placeOf (faultFields s c pc byPark r) i = k) :
    getBytes (parkMsg s s.cur c pc byPark) k n = v := by
  rw [parkMsg_eq_packed hr, ← hk]
  exact getBytes_packed_whole (faultFields_fit hp hth c pc byPark) hi

end

end Sys2Proof.Machine
end
section
/-! Parking a core (R436). -/
namespace Sys2Proof.Machine
open Sys2Proof

/-- The threads of its core other than thread n. -/
def siblings (n : Nat) : List Nat := (List.range 4).filter (fun i => thCore n * 4 + i != n)

theorem siblings_lt (n : Nat) : ∀ i ∈ siblings n, i < 4 := fun _ h => List.mem_range.1 (List.mem_filter.1 h).1
theorem mem_siblings {n i : Nat} : i ∈ siblings n ↔ i < 4 ∧ thCore n * 4 + i ≠ n := by simp [siblings]

/-- The state in which the parking thread has written its frame, where it can, and given up its record. -/
def selfStopped (s : State) (pc : Word) (frame : Bool) : State :=
  bindRest (if frame then (match writeFull s s.cur pc with | .ok x => x | .error _ => s) else s) s.cur
/-- The other threads of the core have stopped that may. -/
def allStopped (s : State) (pc : Word) (frame : Bool) : State := stopAll (thCore s.cur) (siblings s.cur) (selfStopped s pc frame)
/-- The core is parked, with its message. -/
def parkedAt (s : State) (c : Cond) (pc : Word) (byPark frame : Bool) : State :=
  (allStopped s pc frame).setCore (thCore s.cur) { (allStopped s pc frame).core (thCore s.cur) with
    parked := some s.cur, parkLaunch := if s.thr.rcd.isSome then some (thLaunch s.thr) else none, message := some (parkMsg s s.cur c pc byPark) }

theorem startPark_eq (s : State) (c : Cond) (pc : Word) (byPark frame : Bool) :
    startPark s c pc byPark frame = { postPark (parkedAt s c pc byPark frame) (thCore s.cur) with taken := some c } := rfl

theorem parkCore_starts {s : State} {c : Cond} {pc : Word} {byPark frame : Bool} (hp : (s.core (thCore s.cur)).parked = none)
    (hw : frame = true → frameWaits s pc = false) : parkCore s c pc byPark frame = startPark s c pc byPark frame := by
  unfold parkCore
  rw [hp, if_neg (by decide), if_neg]
  rw [Bool.and_eq_true]
  exact fun ⟨hf, hwait⟩ => absurd hwait (by rw [hw hf]; decide)
theorem parkCore_parked {s : State} {n : Nat} (c : Cond) (pc : Word) (byPark frame : Bool) (hp : (s.core (thCore s.cur)).parked = some n) :
    parkCore s c pc byPark frame = stopParked s c pc := if_pos (by rw [hp]; rfl)
theorem parkCore_waits {s : State} {pc : Word} (c : Cond) (byPark : Bool) (hp : (s.core (thCore s.cur)).parked = none) (hw : frameWaits s pc = true) :
    parkCore s c pc byPark true = block (if byPark then s else oweCond s c pc) .queue := by
  unfold parkCore
  rw [hp, if_neg (by decide), hw]
  rfl

section
variable (s : State) (c : Cond) (pc : Word) (byPark frame : Bool)

theorem selfStopped_stops : Stops (· = s.cur) s (selfStopped s pc frame) := by
  unfold selfStopped
  refine Stops.trans ?_ (bindRest_stops _ _)
  split
  · split
    · next hok => exact writeFull_stops hok
    · exact .refl _ s
  · exact .refl _ s
theorem selfStopped_rcd : (selfStopped s pc frame).thr.rcd = none := by
  rw [← State.getT_cur, (selfStopped_stops s pc frame).cur]
  exact bindRest_rcd _ _

variable {s} (hpark : (s.core (thCore s.cur)).parked = none)
include hpark

theorem allStopped_stops : Stops (fun k => ∃ i ∈ siblings s.cur, k = thCore s.cur * 4 + i) (selfStopped s pc frame) (allStopped s pc frame) :=
  stopAll_stops (siblings_lt s.cur) (by rw [(selfStopped_stops s pc frame).core, hpark])
theorem allStopped_plat : (allStopped s pc frame).plat = s.plat := (allStopped_stops pc frame hpark).plat.trans (selfStopped_stops s pc frame).plat
theorem allStopped_cur : (allStopped s pc frame).cur = s.cur := (allStopped_stops pc frame hpark).cur.trans (selfStopped_stops s pc frame).cur
theorem allStopped_rcd : (allStopped s pc frame).thr.rcd = none := by
  rw [(allStopped_stops pc frame hpark).thr ?_]
  · exact selfStopped_rcd s pc frame
  · rw [(selfStopped_stops s pc frame).cur]
    exact fun ⟨i, hi, hk⟩ => (mem_siblings.1 hi).2 hk.symm

end

section
variable {s : State} (c : Cond) (pc : Word) (byPark frame : Bool)

theorem core_parkedAt : (parkedAt s c pc byPark frame).core (thCore s.cur) = { (allStopped s pc frame).core (thCore s.cur) with
    parked := some s.cur, parkLaunch := if s.thr.rcd.isSome then some (thLaunch s.thr) else none, message := some (parkMsg s s.cur c pc byPark) } :=
  State.core_setCore_self ..

theorem startPark_parked : ((startPark s c pc byPark frame).core (thCore s.cur)).parked = some s.cur := by
  obtain ⟨-, -, -, hp, -⟩ := postPark_leaves (parkedAt s c pc byPark frame) (thCore s.cur)
  exact hp.trans (congrArg CoreSt.parked (core_parkedAt c pc byPark frame))

variable (hpark : (s.core (thCore s.cur)).parked = none)
include hpark

theorem startPark_rcd : (startPark s c pc byPark frame).thr.rcd = none := by
  obtain ⟨-, hthr, -⟩ := postPark_leaves (parkedAt s c pc byPark frame) (thCore s.cur)
  exact (congrArg Thread.rcd hthr).trans (allStopped_rcd pc frame hpark)

/-- The record of the thread that parks the core is at rest, as its frame's writing left it. -/
theorem startPark_rec {r : Rec} {x : State} (hr : s.thr.rcd = some r) (hx : writeFull s s.cur pc = .ok x) :
    ∃ r' ∈ (startPark s c pc byPark true).sch.recs, r'.id = r.id ∧ r'.place = .rest ∧ r'.w.fullf = true ∧ r'.w.bound = some s.cur ∧ r'.w.pc = pc ∧
      r'.w.running = false := by
  have hself : selfStopped s pc true = bindRest x s.cur := by rw [selfStopped, if_pos rfl, hx]
  have hget : x.getT s.cur = withFullFrame (s.getT s.cur) s.cur pc r := writeFull_getT hx (by rw [s.getT_cur]; exact hr)
  obtain ⟨r', hmem, hid, hplace, hw⟩ := bindRest_rec (s := x) (n := s.cur) (congrArg Thread.rcd hget)
  obtain ⟨-, -, hsch, -⟩ := postPark_leaves (parkedAt s c pc byPark true) (thCore s.cur)
  have hkept : r' ∈ (allStopped s pc true).sch.recs := (allStopped_stops pc true hpark).recs r' (by rw [hself]; exact hmem)
  exact ⟨r', (congrArg Sched.recs hsch).symm ▸ hkept, hid, hplace, by rw [hw], by rw [hw], by rw [hw], by rw [hw]⟩

/-- With every home up and no other thread of the core busy, the message is posted at once. -/
theorem startPark_posts (hup : HomesUp s)
    (hidle : ∀ i, i < 4 → thCore s.cur * 4 + i ≠ s.cur → (s.getT (thCore s.cur * 4 + i)).i.rep = none ∧ (s.getT (thCore s.cur * 4 + i)).i.replies = []) :
    (startPark s c pc byPark frame).plat.mail = s.plat.mail ++ [(thDie s.cur, parkMsg s s.cur c pc byPark)] := by
  have hself := selfStopped_stops s pc frame
  have hcore := core_parkedAt (s := s) c pc byPark frame
  have hfree (i : Nat) (hi : i < 4) : ((parkedAt s c pc byPark frame).getT (thCore s.cur * 4 + i)).rcd = none := by
    change ((allStopped s pc frame).getT (thCore s.cur * 4 + i)).rcd = none
    by_cases hme : thCore s.cur * 4 + i = s.cur
    · rw [hme, ← allStopped_cur pc frame hpark, State.getT_cur]
      exact allStopped_rcd pc frame hpark
    · refine stopAll_rcd (siblings_lt s.cur) (by rw [hself.core, hpark]) (hself.homesUp hup) (fun j hj => .inr ?_) (mem_siblings.2 ⟨hi, hme⟩)
      obtain ⟨hj, hne⟩ := mem_siblings.1 hj
      rw [hself.others _ hne]
      exact hidle j hj hne
  rw [startPark_eq, postPark_posts (congrArg CoreSt.message hcore) (congrArg CoreSt.parked hcore) hfree]
  have hdie : thCore s.cur / 128 = thDie s.cur := Nat.div_div_eq_div_mul ..
  rw [hdie]
  exact congrArg (fun p : Plat => p.mail ++ _) (allStopped_plat pc frame hpark)

/-- While another thread of the core that holds a record must go on, the message waits. -/
theorem startPark_holds {i : Nat} (hi : i < 4) (hne : thCore s.cur * 4 + i ≠ s.cur) (hrcd : (s.getT (thCore s.cur * 4 + i)).rcd.isSome = true)
    (hbusy : ¬ ((s.getT (thCore s.cur * 4 + i)).i.rep = none ∧ (s.getT (thCore s.cur * 4 + i)).i.replies = [])) :
    (startPark s c pc byPark frame).plat.mail = s.plat.mail ∧
    ((startPark s c pc byPark frame).core (thCore s.cur)).message = some (parkMsg s s.cur c pc byPark) := by
  have hself := selfStopped_stops s pc frame
  have hsame : (selfStopped s pc frame).getT (thCore s.cur * 4 + i) = s.getT (thCore s.cur * 4 + i) := hself.others _ hne
  have hkept : (allStopped s pc frame).getT (thCore s.cur * 4 + i) = s.getT (thCore s.cur * 4 + i) :=
    (stopAll_busy (siblings_lt s.cur) (by rw [hself.core, hpark]) (by rwa [hsame])).trans hsame
  have hposted : postPark (parkedAt s c pc byPark frame) (thCore s.cur) = parkedAt s c pc byPark frame :=
    postPark_holds hi ((congrArg (fun t : Thread => t.rcd.isSome) hkept).trans hrcd)
  rw [startPark_eq, hposted]
  exact ⟨congrArg Plat.mail (allStopped_plat pc frame hpark), congrArg CoreSt.message (core_parkedAt c pc byPark frame)⟩

end

/-- A thread that stops in a core already parked leaves who parked it. -/
theorem stopParked_core {s : State} {c : Cond} {pc : Word} : ((stopParked s c pc).core (thCore s.cur)).parked = (s.core (thCore s.cur)).parked ∧
    ((stopParked s c pc).core (thCore s.cur)).parkLaunch = (s.core (thCore s.cur)).parkLaunch := by
  have hkeeps (x : State) (hcore : ∀ k, x.core k = s.core k) (n : Nat) (hn : thCore n = thCore s.cur) :
      ((bindOther x n).core (thCore s.cur)).parked = (s.core (thCore s.cur)).parked ∧
      ((bindOther x n).core (thCore s.cur)).parkLaunch = (s.core (thCore s.cur)).parkLaunch := by
    obtain ⟨-, h⟩ | ⟨-, h, -⟩ | ⟨t, ht, -, h⟩ := bindOther_cases x n
    · rw [h, hcore]; exact ⟨rfl, rfl⟩
    · rw [h.core, hcore]; exact ⟨rfl, rfl⟩
    · obtain ⟨-, -, -, hp, hl⟩ := postPark_leaves t (thCore n)
      rw [h, ← hn, hp, hl, ht.core, hcore]; exact ⟨rfl, rfl⟩
  exact hkeeps { oweCond s c pc with thr := { (oweCond s c pc).thr with pc := pc, npc := pc } } (fun _ => rfl) s.cur rfl

/-- Settles O33: a core that begins to park stops its threads one by one, none of which changes the cores or the platform, and then holds the message or
posts it; its bytes are those of the list of its fields. -/
theorem parkingTheCore : Obligations.ParkingTheCore := by
  unfold Obligations.ParkingTheCore
  refine ⟨fun s c pc => ⟨fun h => if_pos h, fun hcode hin hal => ?_⟩, fun s a => rfl, fun s c pc byPark frame hpark hw => ?_,
    fun s c pc byPark => ⟨fun n hn frame => ?_, fun hpark hw => ?_⟩, fun s c pc byPark r hr hp hth => ?_⟩
  · have hhand : s.thr.y.hand ≠ 0 := fun h => hal (by rw [h]; rfl)
    unfold takeCondition
    dsimp only
    rw [if_neg (by rw [hin, not_or, not_or]; exact ⟨Nat.not_le.2 hcode, by decide, hhand⟩), if_pos hal]
  · rw [parkCore_starts hpark hw]
    refine ⟨startPark_parked c pc byPark frame, startPark_rcd c pc byPark frame hpark, fun _ => ⟨fun hup hidle => ?_, fun hbusy => ?_⟩, fun r x hr hf hx => ?_⟩
    · exact startPark_posts c pc byPark frame hpark hup hidle
    · simp only [not_forall] at hbusy
      obtain ⟨i, hi, hne, hrcd, hbusy⟩ := hbusy
      exact startPark_holds c pc byPark frame hpark hi hne hrcd hbusy
    · subst hf
      exact startPark_rec c pc byPark hpark hr hx
  · rw [parkCore_parked c pc byPark frame hn]
    obtain ⟨hp, hl⟩ := stopParked_core (s := s) (c := c) (pc := pc)
    exact ⟨hp.trans hn, hl⟩
  · rw [parkCore_waits c byPark hpark hw]
    cases byPark <;> exact ⟨hpark, rfl, rfl, rfl, rfl⟩
  · have hfield {i n v k : Nat} (hi : (faultFields s c pc byPark r)[i]? = some (n, v)) (hk : placeOf (faultFields s c pc byPark r) i = k) :=
      getBytes_parkMsg hp hth c pc byPark hr hi hk
    refine ⟨hfield (i := 0) rfl rfl, hfield (i := 1) rfl rfl, hfield (i := 2) rfl rfl, hfield (i := 3) rfl rfl, fun i _ => ?_, hfield (i := 5) rfl rfl,
      hfield (i := 6) rfl rfl, hfield (i := 7) rfl rfl, hfield (i := 8) rfl rfl⟩
    rw [hfield (i := 4) (k := 5) (v := heldMask s (thCore s.cur)) rfl rfl, testBit_heldMask]

end Sys2Proof.Machine
end

section
/-! What it leaves of the state that stores leave a core's buffer and perform (R134, R135). -/
namespace Sys2Proof.Machine
open Sys2Proof

/-- A core without its stores. -/
def CoreSt.noStores (c : CoreSt) : CoreSt := { c with buf := [], posted := [] }

/-- Stores have moved: memory, the platform and what is due may have changed, and of the cores only their stores. -/
structure StoresMove (s t : State) : Prop where
  cur : t.cur = s.cur
  thr : t.thr = s.thr
  rest : t.rest = s.rest
  sch : t.sch = s.sch
  clus : t.clus = s.clus
  clock : t.clock = s.clock
  taken : t.taken = s.taken
  cores : ∀ k, (t.core k).noStores = (s.core k).noStores

namespace StoresMove
variable {s t u : State}
theorem refl (s : State) : StoresMove s s := ⟨rfl, rfl, rfl, rfl, rfl, rfl, rfl, fun _ => rfl⟩
theorem trans (h : StoresMove s t) (k : StoresMove t u) : StoresMove s u :=
  ⟨k.cur.trans h.cur, k.thr.trans h.thr, k.rest.trans h.rest, k.sch.trans h.sch, k.clus.trans h.clus, k.clock.trans h.clock, k.taken.trans h.taken,
    fun i => (k.cores i).trans (h.cores i)⟩
theorem getT (h : StoresMove s t) (n : Nat) : t.getT n = s.getT n := by rw [State.getT, State.getT, h.cur, h.thr, h.rest]
theorem parked (h : StoresMove s t) (k : Nat) : (t.core k).parked = (s.core k).parked := by
  have e := congrArg CoreSt.parked (h.cores k)
  exact e
theorem findLaunch (h : StoresMove s t) (n : Nat) : t.findLaunch n = s.findLaunch n := congrArg (fun c : Sched => c.launches.find? _) h.sch
theorem of_cachesOnly (h : CachesOnly s t) : StoresMove s t :=
  ⟨h.cur, h.thr, h.rest, h.sch, h.clus, h.clock, h.taken, fun k => by rw [h.core]⟩
theorem setCore (s : State) (n : Nat) (c : CoreSt) (h : c.noStores = (s.core n).noStores) : StoresMove s (s.setCore n c) := by
  refine ⟨rfl, rfl, rfl, rfl, rfl, rfl, rfl, fun k => ?_⟩
  obtain rfl | hk := eq_or_ne k n
  · rw [State.core_setCore_self, h]
  · rw [State.core_setCore_ne _ _ _ _ hk]
end StoresMove

/-- The same, where no buffer changes. -/
structure Performs (s t : State) : Prop extends StoresMove s t where
  bufs : ∀ k, (t.core k).buf = (s.core k).buf

namespace Performs
variable {s t u : State}
theorem refl (s : State) : Performs s s := ⟨.refl s, fun _ => rfl⟩
theorem trans (h : Performs s t) (k : Performs t u) : Performs s u := ⟨h.toStoresMove.trans k.toStoresMove, fun i => (k.bufs i).trans (h.bufs i)⟩
theorem of_cachesOnly (h : CachesOnly s t) : Performs s t := ⟨.of_cachesOnly h, fun k => by rw [h.core]⟩
theorem after (s : State) (n : Nat) (e : Event) : Performs s (s.after n e) := ⟨⟨rfl, rfl, rfl, rfl, rfl, rfl, rfl, fun _ => rfl⟩, fun _ => rfl⟩
theorem modM (s : State) (f : Mem → Mem) : Performs s (s.modM f) := ⟨⟨rfl, rfl, rfl, rfl, rfl, rfl, rfl, fun _ => rfl⟩, fun _ => rfl⟩
theorem plat (s : State) (p : Plat) : Performs s { s with plat := p } := ⟨⟨rfl, rfl, rfl, rfl, rfl, rfl, rfl, fun _ => rfl⟩, fun _ => rfl⟩
theorem foldl {α : Type} {f : State → α → State} (hf : ∀ s a, Performs s (f s a)) (l : List α) (s : State) : Performs s (l.foldl f s) := by
  induction l generalizing s with
  | nil => exact refl s
  | cons a r ih => exact (hf s a).trans (ih (f s a))
end Performs

theorem putStore_performs (s : State) (x : Store) : Performs s (putStore s x) := by unfold putStore; split <;> exact .modM s _
theorem setTail_performs (s : State) (p q : Nat) (rx : Bool) (v : Nat) : Performs s (setTail s p q rx v) := (Performs.plat s _).trans (.after _ _ _)
theorem post_performs (s : State) (x : Store) : Performs s (post s x) := by
  refine Performs.trans ⟨.setCore s (thCore x.th) { s.core (thCore x.th) with posted := (s.core (thCore x.th)).posted ++ [(s.clock + Config.fabricTime, x)] } rfl,
    fun k => ?_⟩ (.after _ _ _)
  · obtain rfl | hk := eq_or_ne k (thCore x.th)
    · rw [State.core_setCore_self]
    · rw [State.core_setCore_ne _ _ _ _ hk]
theorem setPort_performs (s : State) (p : Nat) (x : PortSt) : Performs s (s.setPort p x) := .plat s _
theorem setReg2_performs (s : State) (off : Nat) (x : Word) : Performs s (s.setReg2 off x) := .plat s _
theorem send_performs (s : State) (p n : Nat) : Performs s (s.send p n) := by
  unfold State.send
  exact (setReg2_performs s _ _).trans (setPort_performs _ p _)
theorem sendStores_performs (s : State) (dev : Nat) (xs : List Store) : Performs s (sendStores s dev xs) := by
  unfold sendStores
  dsimp only
  generalize flitsOf (xs.map (fun x => x.len)).sum = n
  generalize s.portOf dev n = port
  generalize s.darkPort dev = dark
  match port, dark with
  | some (p, true), _ => exact setPort_performs s _ _
  | some (p, false), _ => exact (send_performs s _ _).trans (.foldl post_performs xs _)
  | none, some p => exact setPort_performs s _ _
  | none, none => exact .foldl (fun t x => .after t _ _) xs s
theorem perform_performs (s : State) (x : Store) : Performs s (perform s x) := by
  unfold perform
  split
  · exact putStore_performs s x
  · exact .of_cachesOnly (l2Write_cachesOnly ..)
  · exact (Performs.of_cachesOnly (l3Touch_cachesOnly ..)).trans (putStore_performs _ x)
  · exact post_performs s x
  · exact setTail_performs ..
  · exact sendStores_performs ..
theorem performAll_performs (s : State) (l : List Store) : Performs s (performAll s l) := by
  unfold performAll
  split
  · exact .refl s
  · split
    · exact sendStores_performs ..
    · exact .foldl perform_performs _ s

/-- The oldest entry leaves its buffer. -/
theorem drainOne_moves (s : State) (core : Nat) : StoresMove s (drainOne s core) ∧ ((drainOne s core).core core).buf = unjoined ((s.core core).buf.drop 1) := by
  cases h : (s.core core).buf with
  | nil => rw [drainOne_nil s core h, h]; exact ⟨.refl s, rfl⟩
  | cons x r =>
    rw [drainOne_cons s core x r h]
    have hp := performAll_performs (s.setCore core { s.core core with buf := unjoined r }) (x :: joinedOf r)
    refine ⟨(StoresMove.setCore s core { s.core core with buf := unjoined r } rfl).trans hp.toStoresMove, ?_⟩
    rw [hp.bufs, State.core_setCore_self]
    rfl

theorem unjoined_length (l : List Store) : (unjoined l).length ≤ l.length := l.length_dropWhile_le _

theorem drainN_moves (n : Nat) (s : State) (core : Nat) : StoresMove s (drainN n s core) ∧ ((s.core core).buf.length ≤ n → ((drainN n s core).core core).buf = []) := by
  induction n generalizing s with
  | zero => exact ⟨.refl s, fun h => List.eq_nil_of_length_eq_zero (Nat.le_zero.1 h)⟩
  | succ n ih =>
    obtain ⟨hmove, hbuf⟩ := drainOne_moves s core
    obtain ⟨hrest, hempty⟩ := ih (drainOne s core)
    refine ⟨hmove.trans hrest, fun h => hempty ?_⟩
    have hdrop := unjoined_length ((s.core core).buf.drop 1)
    rw [List.length_drop] at hdrop
    rw [hbuf]
    omega

theorem drainAll_moves (s : State) (core : Nat) : StoresMove s (drainAll s core) := (drainN_moves _ s core).1
/-- Every store of the core has left its buffer. -/
theorem drainAll_buf (s : State) (core : Nat) : ((drainAll s core).core core).buf = [] := (drainN_moves _ s core).2 (Nat.le_refl _)

end Sys2Proof.Machine
end

section
/-! A thread becomes free (R34, R220). -/
namespace Sys2Proof.Machine
open Sys2Proof

/-- Only what is due, and what clusters await, differ. -/
def Schedules (s t : State) : Prop := ∃ a c, t = { s with agenda := a, clus := c }

namespace Schedules
variable {s t u : State}
theorem refl (s : State) : Schedules s s := ⟨s.agenda, s.clus, rfl⟩
theorem trans (h : Schedules s t) (k : Schedules t u) : Schedules s u := by
  obtain ⟨a, c, rfl⟩ := h
  obtain ⟨a', c', rfl⟩ := k
  exact ⟨a', c', rfl⟩
theorem after (s : State) (n : Nat) (e : Event) : Schedules s (s.after n e) := ⟨_, s.clus, rfl⟩
theorem foldl {α : Type} {f : State → α → State} (hf : ∀ s a, Schedules s (f s a)) (l : List α) (s : State) : Schedules s (l.foldl f s) := by
  induction l generalizing s with
  | nil => exact refl s
  | cons a r ih => exact (hf s a).trans (ih (f s a))
theorem cur (h : Schedules s t) : t.cur = s.cur := by obtain ⟨a, c, rfl⟩ := h; rfl
theorem thr (h : Schedules s t) : t.thr = s.thr := by obtain ⟨a, c, rfl⟩ := h; rfl
theorem sch (h : Schedules s t) : t.sch = s.sch := by obtain ⟨a, c, rfl⟩ := h; rfl
theorem core (h : Schedules s t) (k : Nat) : t.core k = s.core k := by obtain ⟨a, c, rfl⟩ := h; rfl
theorem getT (h : Schedules s t) (n : Nat) : t.getT n = s.getT n := by obtain ⟨a, c, rfl⟩ := h; rfl
theorem findLaunch (h : Schedules s t) (n : Nat) : t.findLaunch n = s.findLaunch n := by obtain ⟨a, c, rfl⟩ := h; rfl
end Schedules

theorem opens_schedules (s : State) (k : Nat) (f : State → State) : Schedules (f s) (opens s k f) := by
  unfold opens
  dsimp only
  split
  · exact .refl _
  · exact ⟨(f s).agenda, _, rfl⟩
theorem retryTo_schedules (s : State) (dest : Nat) : Schedules s (retryTo s dest) := .foldl (fun t _ => .after t _ _) _ s
theorem retryGangs_schedules (s : State) : Schedules s (retryGangs s) := .foldl (fun t _ => .after t _ _) _ s

/-- A freed thread: it holds no record, a parked core may have come to rest, and others look for work. -/
theorem freeThread_schedules (s : State) (n : Nat) : ∃ t, Schedules (s.setT n (s.getT n).freed) t ∧ Schedules (postPark t (thCore n)) (freeThread s n) :=
  ⟨_, opens_schedules s (thClu n) (fun x => x.setT n (s.getT n).freed),
    ((((retryTo_schedules _ _).trans (.after _ _ _)).trans (.after _ _ _)).trans (.after _ _ _)).trans (retryGangs_schedules _)⟩

theorem postPark_buf (s : State) (core k : Nat) : ((postPark s core).core k).buf = (s.core k).buf := by
  unfold postPark
  dsimp only
  split
  · split
    · rfl
    · obtain rfl | hk := eq_or_ne k core
      · exact (congrArg CoreSt.buf (State.core_setCore_self s k { s.core k with message := none })).trans rfl
      · exact (congrArg CoreSt.buf (State.core_setCore_ne s core k { s.core core with message := none } hk)).trans rfl
  · rfl
theorem postPark_getT (s : State) (core k : Nat) : (postPark s core).getT k = s.getT k := by
  unfold postPark
  dsimp only
  split
  · split <;> rfl
  · rfl

section
variable (s : State) (n : Nat)
theorem freeThread_cur : (freeThread s n).cur = s.cur := by
  obtain ⟨t, hset, hpost⟩ := freeThread_schedules s n
  rw [hpost.cur, (postPark_leaves t _).1, hset.cur, State.setT_cur]
theorem freeThread_sch : (freeThread s n).sch = s.sch := by
  obtain ⟨t, hset, hpost⟩ := freeThread_schedules s n
  obtain ⟨-, -, hsch, -⟩ := postPark_leaves t (thCore n)
  rw [hpost.sch, hsch, hset.sch, State.setT_sch]
theorem freeThread_getT : (freeThread s n).getT n = (s.getT n).freed := by
  obtain ⟨t, hset, hpost⟩ := freeThread_schedules s n
  rw [hpost.getT, postPark_getT, hset.getT, State.getT_setT_self]
theorem freeThread_rcd : ((freeThread s n).getT n).rcd = none := by rw [freeThread_getT]; rfl
theorem freeThread_buf (k : Nat) : ((freeThread s n).core k).buf = (s.core k).buf := by
  obtain ⟨t, hset, hpost⟩ := freeThread_schedules s n
  rw [hpost.core, postPark_buf, hset.core, State.core, State.core, State.setT_cores]
end

end Sys2Proof.Machine
end
section
/-! The end of a continuation (R220, R221). -/
namespace Sys2Proof.Machine
open Sys2Proof

/-- The focused thread and the records at rest are the same, and a core whose buffer was empty still has none. -/
structure EndKeeps (core : Nat) (s t : State) : Prop where
  cur : t.cur = s.cur
  recs : t.sch.recs = s.sch.recs
  buf : (s.core core).buf = [] → (t.core core).buf = []

namespace EndKeeps
variable {core : Nat} {s t u : State}
theorem refl (core : Nat) (s : State) : EndKeeps core s s := ⟨rfl, rfl, id⟩
theorem trans (h : EndKeeps core s t) (k : EndKeeps core t u) : EndKeeps core s u := ⟨k.cur.trans h.cur, k.recs.trans h.recs, fun hb => k.buf (h.buf hb)⟩
theorem drainAll (s : State) (core : Nat) : EndKeeps core s (Machine.drainAll s core) :=
  ⟨(drainAll_moves s core).cur, congrArg Sched.recs (drainAll_moves s core).sch, fun _ => drainAll_buf s core⟩
theorem of_performs (h : Performs s t) : EndKeeps core s t := ⟨h.cur, congrArg Sched.recs h.sch, fun hb => (h.bufs core).trans hb⟩
theorem of_schedules (h : Schedules s t) : EndKeeps core s t := ⟨h.cur, congrArg Sched.recs h.sch, fun hb => by rw [h.core, hb]⟩
theorem freeThread (core : Nat) (s : State) (n : Nat) : EndKeeps core s (Machine.freeThread s n) :=
  ⟨freeThread_cur s n, congrArg Sched.recs (freeThread_sch s n), fun hb => (freeThread_buf s n core).trans hb⟩
theorem modLaunch (core : Nat) (s : State) (n : Nat) (f : Launch → Launch) : EndKeeps core s (s.modLaunch n f) := ⟨rfl, rfl, id⟩
theorem modI (core : Nat) (s : State) (f : IssueSt → IssueSt) : EndKeeps core s (s.modI f) := ⟨rfl, rfl, id⟩
end EndKeeps

section
variable (core : Nat)

theorem leaveBars_endKeeps (s : State) (num rank : Nat) : EndKeeps core s (leaveBars s num rank) := by
  unfold leaveBars
  split
  · exact .refl core s
  · split
    · exact .refl core s
    · refine (EndKeeps.modLaunch core s num _).trans (.of_schedules (.foldl (fun t b => ?_) _ _))
      split
      · exact .after t _ _
      · exact .refl t
theorem addSample_endKeeps (s : State) (die : Nat) (r : Rec) : EndKeeps core s (addSample s die r) := by
  refine ⟨rfl, ?_, id⟩
  unfold addSample State.modSch
  dsimp only
  split <;> rfl
theorem atomicAt_direct (s : State) (k z : Nat) (op : AOp) (t : ATy) (x : Nat) :
    (atomicAt s .direct k z op t x).2 = s.modM (·.put k z (atomicNew op t (s.mem.get k z) x)) := rfl
theorem performSent_performs (s : State) (r : Reply) : Performs s (performSent s r) := by
  unfold performSent
  split
  · split
    · exact .refl s
    · rw [atomicAt_direct]
      exact .modM s _
  · exact .refl s
theorem dropReplies_endKeeps (s : State) : EndKeeps core s (dropReplies s) := by
  have hsent : EndKeeps core s (s.thr.i.replies.foldl performSent s) := .of_performs (.foldl performSent_performs _ s)
  exact hsent.trans ⟨rfl, rfl, id⟩
theorem lessAlive_endKeeps (s : State) (num task : Nat) (backup : Bool) : EndKeeps core s (lessAlive s num task backup) := .modLaunch core s num _
theorem recordEnds_endKeeps (s : State) (r : Rec) : EndKeeps core s (recordEnds s r) := by
  unfold recordEnds
  split
  · exact .refl core s
  · next l _ =>
    have hframes := EndKeeps.modLaunch core s l.num (fun l => { l with frames := l.frames.erase (l.frameIdx r.w.frame) })
    have hgrants (x : State) : EndKeeps core x ((allGrants x).after Config.grantTime (.launchDone l.num)) :=
      .of_schedules ((Schedules.foldl (fun t d => .after t _ _) _ x).trans (.after _ _ _))
    dsimp only
    refine EndKeeps.trans ?_ (hgrants _)
    split <;> split
    · exact hframes.trans ⟨rfl, rfl, id⟩
    · exact (hframes.trans (lessAlive_endKeeps core _ _ _ _)).trans ⟨rfl, rfl, id⟩
    · exact hframes
    · exact hframes.trans (lessAlive_endKeeps core _ _ _ _)
end

/-- A thread that drops its record keeps none, and its stores have left. -/
theorem dropHeld_endKeeps (s : State) : EndKeeps (thCore s.cur) s (dropHeld s) ∧ (dropHeld s).thr.rcd = none := by
  unfold dropHeld
  split
  · next hnone => exact ⟨.refl _ s, hnone⟩
  · next r _ =>
    have hends := ((EndKeeps.drainAll s (thCore s.cur)).trans (dropReplies_endKeeps _ _)).trans (recordEnds_endKeeps _ _ r)
    refine ⟨hends.trans (.freeThread _ _ _), ?_⟩
    rw [← State.getT_cur, freeThread_cur, hends.cur]
    exact freeThread_rcd _ _

/-- A continuation that ends leaves its thread without a record, and its core without a buffered store. -/
theorem endThread_ends (s : State) : (endThread s).thr.rcd = none ∧ ((endThread s).core (thCore s.cur)).buf = [] ∧ (endThread s).sch.recs = s.sch.recs ∧
    (endThread s).cur = s.cur := by
  have hdrain := EndKeeps.drainAll s (thCore s.cur)
  have hbuf := drainAll_buf s (thCore s.cur)
  suffices h : EndKeeps (thCore s.cur) (drainAll s (thCore s.cur)) (endThread s) ∧ (endThread s).thr.rcd = none from
    ⟨h.2, h.1.buf hbuf, h.1.recs.trans hdrain.recs, h.1.cur.trans hdrain.cur⟩
  unfold endThread
  dsimp only
  split
  · refine ⟨.freeThread _ _ _, ?_⟩
    rw [← State.getT_cur, freeThread_cur, hdrain.cur]
    exact freeThread_rcd _ _
  · next r _ =>
    have hleave : EndKeeps (thCore s.cur) (drainAll s (thCore s.cur)) (if r.w.gang then leaveBars (drainAll s (thCore s.cur)) r.w.launch r.w.task
        else if anyWon (drainAll s (thCore s.cur)).thr.r then drainAll s (thCore s.cur) else addSample (drainAll s (thCore s.cur)) (thDie s.cur) r) := by
      split
      · exact leaveBars_endKeeps _ _ _ _
      · split
        · exact .refl _ _
        · exact addSample_endKeeps _ _ _ _
    generalize (if r.w.gang then leaveBars (drainAll s (thCore s.cur)) r.w.launch r.w.task
        else if anyWon (drainAll s (thCore s.cur)).thr.r then drainAll s (thCore s.cur) else addSample (drainAll s (thCore s.cur)) (thDie s.cur) r) = t at hleave ⊢
    obtain ⟨hkeeps, hrcd⟩ := dropHeld_endKeeps t
    rw [hleave.cur, hdrain.cur] at hkeeps
    exact ⟨hleave.trans hkeeps, hrcd⟩

end Sys2Proof.Machine
end

section
/-! The write-back of a suspended thread (R32, R35, R218, R219). -/
namespace Sys2Proof.Machine
open Sys2Proof

theorem landVal_h (r : Regs) (p : Pend) : (landVal r p).h = r.h := by
  unfold landVal
  split
  · unfold Regs.setS; split <;> rfl
  · unfold Regs.setV; rfl
  · unfold Regs.setP; split <;> rfl
  · rfl
theorem landAll_h (t : Thread) : (landAll t).r.h = t.r.h := by
  have h (l : List Pend) (r : Regs) : (l.foldl landVal r).h = r.h := by
    induction l generalizing r with
    | nil => rfl
    | cons p l ih => exact (ih _).trans (landVal_h r p)
  exact h _ _

/-- A record that waits at rest stays so while a handle that it waits on is pending, and else is runnable in its die's queue. -/
theorem wakeRecord_rest (s : State) {r : Rec} (hplace : r.place = .rest) (hwait : r.w.waith = true) (hrun : r.w.running = false) :
    Schedules s (wakeRecord s r).2 ∧ (wakeRecord s r).1.id = r.id ∧
    (wakeRecord s r).1.w.pc = r.w.pc ∧ (wakeRecord s r).1.w.livemap = r.w.livemap ∧ (wakeRecord s r).1.w.running = false ∧
    (waitsOn r.waits r.handles = true → (wakeRecord s r).1.w.waith = true ∧ (wakeRecord s r).1.place = .rest) ∧
    (waitsOn r.waits r.handles = false → (wakeRecord s r).1.w.runnable = true ∧ (wakeRecord s r).1.w.waith = false ∧ (wakeRecord s r).1.place = .queue r.die) := by
  cases hw : waitsOn r.waits r.handles with
  | true =>
    have h : wakeRecord s r = (r, s) := if_neg (by rw [hw, Bool.and_comm]; exact Bool.false_ne_true)
    rw [h]
    exact ⟨.refl s, rfl, rfl, rfl, hrun, fun _ => ⟨hwait, hplace⟩, fun h => by cases h⟩
  | false =>
    have h : wakeRecord s r = enqueue s r := by
      unfold wakeRecord
      rw [hwait, hw, hplace]
      rfl
    rw [h]
    refine ⟨?_, rfl, rfl, rfl, rfl, fun h => by (cases h), fun _ => ⟨rfl, rfl, rfl⟩⟩
    unfold enqueue
    dsimp only
    split
    · exact .after s _ _
    · exact (Schedules.after s _ _).trans (.after _ _ _)

/-- The record of a thread that has been written back, before it may be woken. -/
def writtenRec (s : State) (n : Nat) (r : Rec) (idx : Nat) (pc : Word) (waits : BitVec 16) : Rec :=
  { r.keeps s.thr.i with
    w := { r.w with pc := pc, livemap := idx, running := false, runnable := false, waith := true, depth := s.thr.q.depth }
    place := .rest
    die := thDie n, handles := s.thr.r.h, waits := waits, since := s.count
    lineage := s.thr.q.lineage, vdepth := s.thr.q.vdepth, vthread := s.thr.q.vthread }

/-- A record joins those that no thread holds, and its thread is free. -/
def recordLeaves (n : Nat) (p : Rec × State) : State := freeThread (p.2.modSch (fun c => { c with recs := c.recs ++ [p.1] })) n

/-- A write-back moves stores and bytes; then the record leaves the thread, which is free. -/
theorem writeBack_ok {s t : State} {map idx : Nat} {pc : Word} {waits : BitVec 16} {r : Rec} (hr : s.thr.rcd = some r)
    (h : writeBack s map idx pc waits = .ok t) :
    ∃ s3, StoresMove { s with thr := landAll s.thr } s3 ∧
      t = recordLeaves s.cur (wakeRecord { s3 with free := s3.free + 16 } (writtenRec s3 s.cur r idx pc waits).sealed) := by
  unfold writeBack at h
  have hland : (landAll s.thr).rcd = some r := hr
  simp only [hland] at h
  generalize badLive _ _ = bad at h
  cases bad with
  | some d => obtain ⟨_, hraise, -⟩ := chk_bind_ok.1 h; cases hraise
  | none =>
  obtain ⟨s2, hpieces, h⟩ := chk_bind_ok.1 h
  obtain ⟨s3, hextent, h⟩ := chk_bind_ok.1 h
  have hrelease : StoresMove { s with thr := landAll s.thr } (release { s with thr := landAll s.thr } s.cur .mod) := by
    rw [release_wide _ _ _ rfl]
    exact (drainAll_moves _ _).trans (.of_cachesOnly (writeBackDie_cachesOnly _ _))
  have hlast : CachesOnly s2 s3 := by
    split at hextent
    · cases hextent; exact .refl s2
    · exact vmWrite_cachesOnly hextent
  exact ⟨s3, hrelease.trans (.of_cachesOnly ((writePieces_cachesOnly _ hpieces).trans hlast)), (Except.ok.inj h).symm⟩

/-- A thread that has been written back holds no record; the record is at rest or in its die's queue. -/
theorem writeBack_suspends {s t : State} {map idx : Nat} {pc : Word} {waits : BitVec 16} {r : Rec} (hr : s.thr.rcd = some r)
    (h : writeBack s map idx pc waits = .ok t) : (t.getT s.cur).rcd = none ∧
    ∃ r' ∈ t.sch.recs, r'.id = r.id ∧ r'.w.pc = pc ∧ r'.w.livemap = idx ∧ r'.w.running = false ∧
      (waitsOn waits s.thr.r.h = true → r'.w.waith = true ∧ r'.place = .rest) ∧
      (waitsOn waits s.thr.r.h = false → r'.w.runnable = true ∧ r'.w.waith = false ∧ r'.place = .queue (thDie s.cur)) := by
  obtain ⟨s3, hmove, rfl⟩ := writeBack_ok hr h
  refine ⟨freeThread_rcd _ _, (wakeRecord { s3 with free := s3.free + 16 } (writtenRec s3 s.cur r idx pc waits).sealed).1, ?_, ?_⟩
  · rw [recordLeaves, freeThread_sch]
    exact List.mem_append_right _ (List.mem_singleton.2 rfl)
  · obtain ⟨-, hid, hpc, hmap, hrun, hrest, hqueue⟩ :=
      wakeRecord_rest { s3 with free := s3.free + 16 } (r := (writtenRec s3 s.cur r idx pc waits).sealed) rfl rfl rfl
    have hhandles : (writtenRec s3 s.cur r idx pc waits).sealed.handles = s.thr.r.h := (congrArg (fun x : Thread => x.r.h) hmove.thr).trans (landAll_h s.thr)
    rw [hhandles] at hrest hqueue
    exact ⟨hid, hpc, hmap, hrun, hrest, hqueue⟩

/-- A live map that is read leaves all but caches. -/
theorem liveMap_cachesOnly {s s1 : State} {idx v : Nat} (h : liveMap s idx = .ok (v, s1)) : CachesOnly s s1 := by
  unfold liveMap at h
  split at h
  · cases h
  · obtain ⟨_, -, h⟩ := chk_bind_ok.1 h
    obtain ⟨p, hread, h⟩ := chk_bind_ok.1 h
    obtain ⟨_, -, h⟩ := chk_bind_ok.1 h
    obtain ⟨-, rfl⟩ := Prod.mk.inj (Except.ok.inj h)
    exact vmRead_cachesOnly hread

theorem withMap_ok {s s1 : State} {idx v : Nat} (h : liveMap s idx = .ok (v, s1)) (k : Nat → State → Host.Outcome State Fault Refusal) :
    withMap s idx k = k v s1 := by
  unfold withMap
  rw [h]
theorem withMap_bad {s : State} {idx : Nat} (h : liveMap s idx = raise 0x17 idx) (k : Nat → State → Host.Outcome State Fault Refusal) :
    withMap s idx k = raises s 0x17 idx := by
  unfold withMap
  rw [h]
  rfl

section
variable {s s1 : State} {idx v : Nat} {go wait : Bool}
theorem suspendIf_stays (h : liveMap s idx = .ok (v, s1)) (hno : s.thr.inHandler = true ∨ go = false) : suspendIf s idx go wait = .next s1 := by
  rw [suspendIf, withMap_ok h]
  exact if_pos (by obtain e | e := hno <;> simp [e])
theorem suspendIf_suspends (h : liveMap s idx = .ok (v, s1)) (hin : s.thr.inHandler = false) (hgo : go = true) (hsearch : suspendSearch s1 v = .ok ()) :
    suspendIf s idx go wait = suspend s1 (writeBack s1 v idx (s.thr.pc + 8) (if wait then mapHandles v else 0)) := by
  rw [suspendIf, withMap_ok h]
  rw [if_neg (by simp [hin, hgo]), hsearch]
end

theorem execWork_eq (s : State) (d : BitVec 5) (m : Imm 15) :
    exec (.work d m) s = .next (s.modW (fun w => { w with work := min (2 ^ 48 - 1) (w.work + (s.getS d + BitVec.ofNat 64 (immU m)).toNat) })) := by
  have hsum : (s.getS d + BitVec.ofNat 64 (immU m)).toNat = ((s.getS d).toNat + immU m) % 2 ^ 64 := by
    rw [BitVec.toNat_add, BitVec.toNat_ofNat, Nat.add_mod_mod]
  rw [hsum]
  rfl

section
variable {s : State} (hin : s.thr.inHandler = false)
include hin
theorem execEndCont_eq : exec .endCont s = .next (endThread s) := by
  change finish s (require (!s.thr.inHandler) 0x18 s.thr.pc.toNat >>= fun _ => pure (endThread s)) = _
  rw [hin]
  rfl
theorem execQuit_eq : exec .quit s = .next (endThread (if s.thr.q.depth = 0 then s else cutTo s 0)) := by
  change finish s (require (!s.thr.inHandler) 0x18 s.thr.pc.toNat >>= fun _ => pure (endThread (if s.thr.q.depth = 0 then s else cutTo s 0))) = _
  rw [hin]
  rfl
theorem execCut_zero (hg : thGang s.thr = false) : exec (.cut 0 0) s = .next (if s.thr.q.depth = 0 then s else cutTo s 0) := by
  change finish s (searchHere s >>= fun _ => if s.thr.q.depth ≤ 0 then pure s else pure (cutTo s 0)) = _
  have hhere : searchHere s = .ok () := by
    unfold searchHere
    rw [hin, hg]
    rfl
  rw [hhere]
  by_cases h : s.thr.q.depth = 0
  · rw [if_pos h]
    change finish s (if s.thr.q.depth ≤ 0 then pure s else pure (cutTo s 0)) = _
    rw [if_pos (Nat.le_of_eq h)]
    rfl
  · rw [if_neg h]
    change finish s (if s.thr.q.depth ≤ 0 then pure s else pure (cutTo s 0)) = _
    rw [if_neg (by omega)]
    rfl
end

/-- Popping every frame leaves the records at rest, the buffers and the handler state. -/
theorem cutTo_keeps (s : State) (d : Nat) : (cutTo s d).cur = s.cur ∧ (cutTo s d).sch.recs = s.sch.recs ∧ (cutTo s d).thr.inHandler = s.thr.inHandler := by
  have hset (x : State) (q : Search) : (setSearch x q).cur = x.cur ∧ (setSearch x q).sch.recs = x.sch.recs ∧ (setSearch x q).thr.inHandler = x.thr.inHandler := by
    unfold setSearch writeHeader
    split <;> exact ⟨rfl, rfl, rfl⟩
  have hcancel (fs : List (Nat × Nat)) : Schedules s (cancelOwn s fs) := by
    refine .foldl (fun x f => ?_) _ s
    split
    · exact .refl x
    · exact .after x _ _
  obtain ⟨hcur, hrecs, hin⟩ := hset (cancelOwn s ((stackOf s s.cur).drop d)) _
  exact ⟨hcur.trans (hcancel _).cur, hrecs.trans (congrArg Sched.recs (hcancel _).sch), hin.trans (congrArg Thread.inHandler (hcancel _).thr)⟩

/-- Settles O36: a suspended thread's record leaves it as `writeBack_suspends` says, and the end of a continuation lets every store of its core leave
before the thread is free. -/
theorem suspensionAndEnd : Obligations.SuspensionAndEnd := by
  unfold Obligations.SuspensionAndEnd
  refine ⟨fun s s1 m v hmap => ⟨fun h => ?_, fun h => suspendIf_stays hmap h, fun i waits r t hin hr hi hsearch hback => ?_⟩, fun s m hbad => ⟨withMap_bad hbad _, withMap_bad hbad _⟩,
    fun s hin => ⟨_, execEndCont_eq hin, endThread_ends s⟩, fun s hin => ⟨?_, ?_⟩, fun s t hin htask hgang => ?_, fun s hin => ?_,
    fun s d m => ⟨_, execWork_eq s d m, rfl⟩⟩
  · refine suspendIf_stays hmap (h.imp_right fun ⟨hspec, hpre⟩ => ?_)
    rw [hspec, hpre]
    rfl
  · have hcur : s1.cur = s.cur := (liveMap_cachesOnly hmap).cur
    obtain ⟨hrcd, hrec⟩ := writeBack_suspends hr hback
    rw [hcur] at hrcd hrec
    refine ⟨?_, hrcd, hrec⟩
    obtain ⟨rfl, hgo, rfl⟩ | ⟨rfl, hgo, rfl⟩ := hi
    · exact (suspendIf_suspends hmap hin (by simpa using hgo) hsearch).trans (congrArg (suspend s1) hback)
    · exact (suspendIf_suspends hmap hin hgo hsearch).trans (congrArg (suspend s1) hback)
  · change finish s (require (!s.thr.inHandler) 0x18 s.thr.pc.toNat >>= _) = _
    rw [hin]
    rfl
  · change finish s (require (!s.thr.inHandler) 0x18 s.thr.pc.toNat >>= _) = _
    rw [hin]
    rfl
  · have ht : t = if s.thr.q.depth = 0 then s else cutTo s 0 := by
      cases hg : thGang s.thr with
      | false => exact (Host.Outcome.next.inj ((execCut_zero hin hg).symm.trans (htask hg))).symm
      | true =>
        obtain ⟨hdepth, rfl⟩ := hgang hg
        rw [if_pos hdepth]
    have htin : t.thr.inHandler = false := by
      rw [ht]
      split
      · exact hin
      · exact (cutTo_keeps s 0).2.2.trans hin
    rw [execQuit_eq hin, execEndCont_eq htin, ht]
  · rw [execQuit_eq hin]
    refine ⟨_, rfl, ?_⟩
    split
    · exact endThread_ends s
    · obtain ⟨hcur, hrecs, -⟩ := cutTo_keeps s 0
      obtain ⟨hrcd, hbuf, hrest, hend⟩ := endThread_ends (cutTo s 0)
      rw [hcur] at hbuf
      exact ⟨hrcd, hbuf, hrest.trans hrecs, hend.trans hcur⟩

end Sys2Proof.Machine
end

section
/-! Accesses to lines that the L3 holds (R19, R121). -/
namespace Sys2Proof.Machine
open Sys2Proof

/-- Only marks on lines of the L3 differ: each line stays with the sectors that it holds. -/
def L3Marked (s t : State) : Prop :=
  ∃ g : L3Line → L3Line, (∀ x, (g x).line = x.line ∧ (g x).held = x.held) ∧ t = s.modM (fun m => { m with l3 := m.l3.map g })

namespace L3Marked
variable {s t u : State}
theorem refl (s : State) : L3Marked s s := ⟨id, fun _ => ⟨rfl, rfl⟩, by simp [State.modM]⟩
theorem trans (h : L3Marked s t) (k : L3Marked t u) : L3Marked s u := by
  obtain ⟨g, hg, rfl⟩ := h
  obtain ⟨f, hf, rfl⟩ := k
  exact ⟨f ∘ g, fun x => ⟨(hf _).1.trans (hg x).1, (hf _).2.trans (hg x).2⟩, by simp [State.modM]⟩
theorem cells (h : L3Marked s t) : t.mem.cells = s.mem.cells := by obtain ⟨g, -, rfl⟩ := h; rfl
theorem get (h : L3Marked s t) (k n : Nat) : t.mem.get k n = s.mem.get k n := congrArg (cellsLE · k n) h.cells
theorem has (h : L3Marked s t) (line i : Nat) : l3Has t line i = l3Has s line i := by
  obtain ⟨g, hg, rfl⟩ := h
  have hline : (fun x : L3Line => x.line == line) ∘ g = fun x => x.line == line := funext fun x => congrArg (· == line) (hg x).1
  unfold l3Has State.modM
  dsimp only
  rw [List.find?_map, hline]
  cases s.mem.l3.find? (fun x => x.line == line) with
  | none => rfl
  | some x => exact congrArg (fun l : Tab Nat => l.any (fun h => h.1 == i)) (hg x).2
theorem holds (h : L3Marked s t) {line : Nat} (hx : ∃ x ∈ s.mem.l3, x.line = line) : ∃ x ∈ t.mem.l3, x.line = line := by
  obtain ⟨g, hg, rfl⟩ := h
  obtain ⟨x, hx, hline⟩ := hx
  exact ⟨g x, List.mem_map_of_mem hx, (hg x).1.trans hline⟩
theorem held (h : L3Marked s t) {ma n : Nat} (hs : HeldL3 s ma n) : HeldL3 t ma n := fun line hlo hhi =>
  ⟨h.holds (hs line hlo hhi).1, fun i hi hm => (h.has line i).trans ((hs line hlo hhi).2 i hi hm)⟩
end L3Marked

/-- What the L3 holds is not filled again. -/
theorem fillOne_has {s : State} {line i : Nat} {mask : BitVec 8} (own : Nat) (h : mask.getLsbD i = true → l3Has s line i = true) :
    fillOne own line mask s.mem i = s.mem := by
  unfold l3Has at h
  unfold fillOne
  split
  · rfl
  · next x hx =>
    rw [hx] at h
    refine if_pos ?_
    cases hm : mask.getLsbD i with
    | false => simp
    | true => rw [show x.has i = true from h hm]; rfl
theorem l3Fill_held {s : State} {line : Nat} {mask : BitVec 8} (own : Nat) (hline : ∃ x ∈ s.mem.l3, x.line = line)
    (hhas : ∀ i, i < 8 → mask.getLsbD i = true → l3Has s line i = true) : l3Fill s own line mask = s := by
  obtain ⟨x, hx, hxl⟩ := hline
  have hany : s.mem.l3.any (fun x => x.line == line) = true := List.any_eq_true.2 ⟨x, hx, beq_iff_eq.2 hxl⟩
  have hfill (l : List Nat) (hl : ∀ i ∈ l, i < 8) : l.foldl (fillOne own line mask) s.mem = s.mem := by
    induction l with
    | nil => rfl
    | cons i r ih =>
      rw [List.foldl_cons, fillOne_has own (hhas i (hl i (List.mem_cons_self ..)))]
      exact ih fun j hj => hl j (List.mem_cons_of_mem _ hj)
  unfold l3Fill l3Line
  rw [if_pos hany, State.modM, hfill _ fun i hi => List.mem_range.1 hi]

/-- An access to what the L3 holds only marks its lines. -/
theorem l3Touch_marks {s : State} {a n : Nat} (own : Nat) (w : Bool) (h : HeldL3 s a n) : L3Marked s (l3Touch s own a n w) := by
  unfold l3Touch
  split
  · exact .refl s
  · have hgo (l : List Nat) (hl : ∀ i ∈ l, i < (a + n - 1) / 128 - a / 128 + 1) (t : State) (ht : HeldL3 t a n) :
        L3Marked t (l.foldl (fun x i =>
          let line := a / 128 + i
          let x1 := l3Fill x own line (sectorMask line a n)
          if w then x1.modM (fun m => { m with l3 := m.l3.map (fun y => if y.line = line then { y with dirty := y.dirty ||| sectorMask line a n } else y) })
          else x1) t) := by
      induction l generalizing t with
      | nil => exact .refl t
      | cons i r ih =>
        obtain ⟨hline, hhas⟩ := ht (a / 128 + i) (Nat.le_add_right _ _) (by have := hl i (List.mem_cons_self ..); omega)
        rw [List.foldl_cons]
        dsimp only
        rw [l3Fill_held own hline hhas]
        refine L3Marked.trans (t := if w then _ else t) ?_ (ih (fun j hj => hl j (List.mem_cons_of_mem _ hj)) _ (L3Marked.held ?_ ht)) <;>
        · cases w
          · exact .refl t
          · exact ⟨_, fun x => by split <;> exact ⟨rfl, rfl⟩, rfl⟩
    exact hgo _ (fun i hi => List.mem_range.1 hi) s h

end Sys2Proof.Machine
end
section
/-! Dirty sectors that are written back in place (R122). -/
namespace Sys2Proof.Machine
open Sys2Proof

theorem sectorBack_dirty (s : State) {x : Sector} (hd : x.dirty = true) :
    (sectorBack s x).mem.cells = ((l3Touch s x.own x.addr 16 true).mem.put (maKey x.addr) 16 x.data.toNat).cells ∧
    (sectorBack s x).mem.l3 = (l3Touch s x.own x.addr 16 true).mem.l3 := by
  unfold sectorBack
  rw [if_neg (by rw [hd]; decide), State.modM]
  dsimp only
  split <;> exact ⟨rfl, rfl⟩

/-- A dirty sector that the L3 holds is written there: its bytes stand, and no other bytes and no lines change. -/
theorem sectorBack_held {s : State} {x : Sector} (hd : x.dirty = true) (h : HeldL3 s x.addr 16) :
    (sectorBack s x).mem.get (maKey x.addr) 16 = x.data.toNat ∧
    (∀ k, k + 16 ≤ maKey x.addr ∨ maKey x.addr + 16 ≤ k → (sectorBack s x).mem.get k 16 = s.mem.get k 16) ∧
    (∀ ma n, HeldL3 s ma n → HeldL3 (sectorBack s x) ma n) := by
  have hmark := l3Touch_marks x.own true h
  obtain ⟨hcells, hl3⟩ := sectorBack_dirty s hd
  refine ⟨?_, fun k hk => ?_, fun ma n hs => ?_⟩
  · refine (congrArg (cellsLE · _ _) hcells).trans ((Mem.get_put _ _ _ _).trans (Nat.mod_eq_of_lt ?_))
    exact Nat.lt_of_lt_of_eq x.data.isLt (by decide)
  · exact (congrArg (cellsLE · _ _) hcells).trans ((Mem.get_put_ne _ _ _ _ _ _ hk).trans (hmark.get k 16))
  · have hheld := hmark.held hs
    unfold HeldL3 l3Has at hheld ⊢
    rwa [hl3]

/-- Two sectors are the same one or share no byte. -/
def SameOrApart (x y : Sector) : Prop := y = x ∨ maKey y.addr + 16 ≤ maKey x.addr ∨ maKey x.addr + 16 ≤ maKey y.addr

/-- Sectors can be written back in place, one after another. -/
def InPlace (s : State) (l : List Sector) : Prop := ∀ x ∈ l, x.dirty = true ∧ HeldL3 s x.addr 16 ∧ ∀ y ∈ l, SameOrApart x y

theorem InPlace.tail {s : State} {x : Sector} {l : List Sector} (h : InPlace s (x :: l)) : InPlace (sectorBack s x) l := fun y hy => by
  obtain ⟨hxd, hxh, -⟩ := h x (List.mem_cons_self ..)
  obtain ⟨hd, hheld, hapart⟩ := h y (List.mem_cons_of_mem _ hy)
  exact ⟨hd, (sectorBack_held hxd hxh).2.2 _ _ hheld, fun z hz => hapart z (List.mem_cons_of_mem _ hz)⟩

/-- Bytes apart from all of them stay. -/
theorem foldl_sectorBack_apart {l : List Sector} {k : Nat} {s : State} (h : InPlace s l) (hk : ∀ y ∈ l, k + 16 ≤ maKey y.addr ∨ maKey y.addr + 16 ≤ k) :
    (l.foldl sectorBack s).mem.get k 16 = s.mem.get k 16 := by
  induction l generalizing s with
  | nil => rfl
  | cons x r ih =>
    obtain ⟨hd, hheld, -⟩ := h x (List.mem_cons_self ..)
    exact (ih h.tail fun y hy => hk y (List.mem_cons_of_mem _ hy)).trans ((sectorBack_held hd hheld).2.1 k (hk x (List.mem_cons_self ..)))

/-- The bytes of each stand at its home. -/
theorem foldl_sectorBack_get {l : List Sector} {s : State} (h : InPlace s l) {x : Sector} (hx : x ∈ l) :
    (l.foldl sectorBack s).mem.get (maKey x.addr) 16 = x.data.toNat := by
  induction l generalizing s with
  | nil => cases hx
  | cons y r ih =>
    by_cases hr : x ∈ r
    · exact ih h.tail hr
    · obtain rfl := (List.mem_cons.1 hx).resolve_right hr
      obtain ⟨hd, hheld, hapart⟩ := h x (List.mem_cons_self ..)
      refine (foldl_sectorBack_apart h.tail fun z hz => ?_).trans (sectorBack_held hd hheld).1
      obtain rfl | hlow | hhigh := hapart z (List.mem_cons_of_mem _ hz)
      · exact absurd hz hr
      · exact .inr hlow
      · exact .inl hhigh

/-- The selected dirty sectors of a die stand at their homes once they are written back, where the L3 holds them all. -/
theorem writeBackIf_writtenBack {s : State} {die : Nat} (p : Sector → Bool) (h : BackInPlace s die) {x : Sector} (hx : x ∈ s.mem.l2) (hdie : x.die = die)
    (hd : x.dirty = true) (hp : p x = true) : (writeBackIf p s die).mem.get (maKey x.addr) 16 = x.data.toNat := by
  have hmem {y : Sector} : y ∈ s.mem.l2.filter (fun x => x.die == die && x.dirty && p x) ↔ y ∈ s.mem.l2 ∧ (y.die = die ∧ y.dirty = true) ∧ p y = true := by
    rw [List.mem_filter, Bool.and_eq_true, Bool.and_eq_true, beq_iff_eq]
  refine foldl_sectorBack_get (fun y hy => ?_) (hmem.2 ⟨hx, ⟨hdie, hd⟩, hp⟩)
  obtain ⟨hy, ⟨hydie, hyd⟩, -⟩ := hmem.1 hy
  obtain ⟨hheld, hapart⟩ := h y hy hydie hyd
  refine ⟨hyd, hheld, fun z hz => ?_⟩
  obtain ⟨hz, ⟨hzdie, hzd⟩, -⟩ := hmem.1 hz
  exact hapart z hz hzdie hzd

/-- No dirty sector of the die is left in the L2. -/
theorem writeBackDie_clean (s : State) (die : Nat) {x : Sector} (hx : x ∈ (writeBackDie s die).mem.l2) (hdie : x.die = die) : x.dirty = false := by
  obtain ⟨y, -, rfl⟩ := List.mem_map.1 hx
  split at hdie
  · next hhit => rw [if_pos hhit]
  · next hhit =>
    rw [if_neg hhit]
    dsimp only at hhit
    rw [Bool.and_true, Bool.and_eq_true, beq_iff_eq, not_and, Bool.not_eq_true] at hhit
    exact hhit hdie

/-- A release and an acquire at `.mod` or wider leave no sector of the die in the L2. -/
theorem invalidateDie_writeBackDie_none (s : State) (die : Nat) : ∀ x ∈ (invalidateDie (writeBackDie s die) die).mem.l2, x.die ≠ die := by
  intro x hx hdie
  obtain ⟨hx, hkept⟩ := List.mem_filter.1 hx
  rw [writeBackDie_clean s die hx hdie, Bool.or_false, bne_iff_ne] at hkept
  exact hkept hdie

/-- `fence` where nothing must be waited for. -/
theorem execFence_eq {s : State} {sc : Scope} (h : MayRelease s sc) : exec (.fence sc) s = .next (acquire (release s s.cur sc) s.cur sc) := by
  obtain ⟨hfar, hout⟩ := h
  have hchk : releaseChk s sc = .ok (release s s.cur sc) := by
    unfold releaseChk
    rw [if_neg, if_neg (by rw [hout]; decide)]
    rw [Bool.and_eq_true, decide_eq_true_eq]
    exact fun ⟨hn, hw⟩ => absurd hw (by rw [hfar hn]; decide)
  change finish s (releaseChk s sc >>= fun s1 => pure (acquire s1 s.cur sc)) = _
  rw [hchk]
  rfl

theorem release_moves (s : State) (th : Nat) (sc : Scope) : StoresMove s (release s th sc) ∧ ((release s th sc).core (thCore th)).buf = [] := by
  unfold release
  dsimp only
  split
  · exact ⟨(drainAll_moves s _).trans (.of_cachesOnly (writeBackDie_cachesOnly _ _)), by rw [(writeBackDie_cachesOnly _ _).core]; exact drainAll_buf s _⟩
  · exact ⟨drainAll_moves s _, drainAll_buf s _⟩

end Sys2Proof.Machine
end

section
/-! Barriers (R45, R47, R240, R241). -/
namespace Sys2Proof.Machine
open Sys2Proof

theorem findLaunch_num {s : State} {n : Nat} {l : Launch} (h : s.findLaunch n = some l) : l.num = n := by
  unfold State.findLaunch at h
  exact beq_iff_eq.1 (List.find?_some (p := fun l : Launch => l.num == n) h)

/-- A launch that is put in the place of the one with its number is found. -/
theorem findLaunch_modLaunch {s : State} {n : Nat} {l l' : Launch} (h : s.findLaunch n = some l) (hnum : l'.num = n) :
    (s.modLaunch n (fun _ => l')).findLaunch n = some l' := by
  have hsome : ∀ ls : List Launch, ls.find? (fun x => x.num == n) = some l →
      (ls.map (fun x => if x.num = n then l' else x)).find? (fun x => x.num == n) = some l' := by
    intro ls
    induction ls with
    | nil => exact fun h => nomatch h
    | cons x r ih =>
      intro h
      rw [List.map_cons]
      by_cases hx : x.num = n
      · rw [if_pos hx, List.find?_cons_of_pos (by simp [hnum])]
      · rw [if_neg hx, List.find?_cons_of_neg (by simp [hx])]
        rw [List.find?_cons_of_neg (by simp [hx])] at h
        exact ih h
  exact hsome _ h

/-- The BarInst at which a member arrives. -/
def openBar (s : State) (l : Launch) (level inst : Nat) : BarInst := (barFind l level inst).getD { level := level, inst := inst, arrived := [], since := s.count }
/-- The launch with a member's arrival. -/
def withArrival (s : State) (l : Launch) (level inst rank : Nat) : Launch :=
  { dropBar l level inst with
    bars := (dropBar l level inst).bars ++ [{ openBar s l level inst with arrived := (openBar s l level inst).arrived ++ [rank] }] }

theorem openBar_key (s : State) (l : Launch) (level inst : Nat) : (openBar s l level inst).level = level ∧ (openBar s l level inst).inst = inst := by
  unfold openBar
  cases hf : barFind l level inst with
  | none => exact ⟨rfl, rfl⟩
  | some b =>
    have h := List.find?_some hf
    rwa [Bool.and_eq_true, beq_iff_eq, beq_iff_eq] at h

/-- What an arrival does: it is registered, and what follows from it is due. -/
theorem barArrive_schedules (s : State) (l : Launch) (level inst rank : Nat) :
    Schedules (s.modLaunch l.num (fun _ => withArrival s l level inst rank)) (barArrive s l level inst rank) := by
  unfold barArrive
  dsimp only
  split <;> split
  · exact (Schedules.after _ _ _).trans (.after _ _ _)
  · exact .after _ _ _
  · exact .after _ _ _
  · exact .refl _

/-- An arrival stands in its BarInst, and the thread stays. -/
theorem barArrive_arrives {s : State} {l : Launch} (hl : s.findLaunch l.num = some l) (level inst rank : Nat) :
    (barArrive s l level inst rank).thr = s.thr ∧
    ∃ l', (barArrive s l level inst rank).findLaunch l.num = some l' ∧ ∃ b ∈ l'.bars, b.level = level ∧ b.inst = inst ∧ rank ∈ b.arrived := by
  have hdue := barArrive_schedules s l level inst rank
  obtain ⟨hlevel, hinst⟩ := openBar_key s l level inst
  refine ⟨hdue.thr, withArrival s l level inst rank, ?_, _, List.mem_append_right _ (List.mem_singleton.2 rfl), hlevel, hinst,
    List.mem_append_right _ (List.mem_singleton.2 rfl)⟩
  exact (hdue.findLaunch l.num).trans (findLaunch_modLaunch hl rfl)

/-- The launch that a member has left. -/
def withLeft (l : Launch) (rank : Nat) : Launch := { l with left := l.left ++ [rank] }

/-- A member that leaves has left, and the thread stays. -/
theorem leaveBars_left {s : State} {num rank : Nat} {l : Launch} (hl : s.findLaunch num = some l) :
    (leaveBars s num rank).thr = s.thr ∧ ∃ l', (leaveBars s num rank).findLaunch num = some l' ∧ rank ∈ l'.left := by
  unfold leaveBars
  simp only [hl]
  split
  · next hin => exact ⟨rfl, l, hl, List.contains_iff_mem.1 hin⟩
  · have hdue : Schedules (s.modLaunch num (fun _ => withLeft l rank)) ((withLeft l rank).bars.foldl (fun x b =>
        if barFull (withLeft l rank) b.level b.inst then x.after Config.barTime (.barrierComplete num b.level b.inst) else x) (s.modLaunch num (fun _ => withLeft l rank))) := by
      refine .foldl (fun x b => ?_) _ _
      split
      · exact .after x _ _
      · exact .refl x
    refine ⟨hdue.thr, withLeft l rank, ?_, List.mem_append_right _ (List.mem_singleton.2 rfl)⟩
    exact (hdue.findLaunch num).trans (findLaunch_modLaunch hl (show (withLeft l rank).num = num from findLaunch_num (l := l) hl))
/-- One that has left leaves no more. -/
theorem leaveBars_again {s : State} {num rank : Nat} {l : Launch} (hl : s.findLaunch num = some l) (h : rank ∈ l.left) : leaveBars s num rank = s := by
  unfold leaveBars
  simp only [hl]
  exact if_pos (List.contains_iff_mem.2 h)

theorem execBarl_eq {s : State} {r : Rec} (hin : s.thr.inHandler = false) (hr : s.thr.rcd = some r) (hg : r.w.gang = true) :
    exec .barl s = .next (leaveBars s r.w.launch r.w.task) := by
  change finish s (require (!s.thr.inHandler) 0x18 s.thr.pc.toNat >>= fun _ => require (thGang s.thr) 0x50 0 >>= fun _ =>
    pure (leaveBars s (thLaunch s.thr) (match s.thr.rcd with | some r => r.w.task | none => 0))) = _
  have hgang : thGang s.thr = true := by rw [thGang, hr]; exact hg
  have hlaunch : thLaunch s.thr = r.w.launch := by rw [thLaunch, hr]
  rw [hin, hgang, hlaunch, hr]
  rfl

/-- The answer of `bar` for a member of a launch, in the order of its checks. -/
def barAnswer (s s1 : State) (l : Launch) (r : Rec) (n map : Nat) : Host.Outcome State Fault Refusal :=
  let inst := l.shape.key n r.w.task
  if !r.w.gang || l.shape.count n == 0 then raises s 0x50 n
  else if l.left.contains r.w.task then raises s 0x52 n
  else if (match barFind l n inst with | some b => b.arrived.contains r.w.task | none => false) then raises s 0x51 n
  else
    let s2 := barArrive (block (drainAll s1 (thCore s.cur)) (.bar n inst map)) l n inst r.w.task
    .next (if s.thr.preempt then s2.after Config.barTime (.preemptHold l.num) else s2)

section
variable {s s1 : State} {n : BitVec 5} {m : Imm 15} {v : Nat} (hin : s.thr.inHandler = false) (hmap : liveMap s (immMap m) = .ok (v, s1))
include hin hmap

theorem execBar_member {l : Launch} {r : Rec} (hl : s1.launch = some l) (hr : s1.thr.rcd = some r) :
    exec (.bar n m) s = barAnswer s s1 l r n.toNat (immMap m) := by
  change execBar n m s = _
  unfold execBar
  dsimp only
  rw [hin, if_neg (by decide), withMap_ok hmap, hl, hr]
  rfl
theorem execBar_noLaunch (hl : s1.launch = none) : exec (.bar n m) s = raises s 0x50 n.toNat := by
  change execBar n m s = _
  unfold execBar
  dsimp only
  rw [hin, if_neg (by decide), withMap_ok hmap, hl]
  rfl
theorem execBar_task (hg : thGang s1.thr = false) : exec (.bar n m) s = raises s 0x50 n.toNat := by
  cases hl : s1.launch with
  | none => exact execBar_noLaunch hin hmap hl
  | some l =>
    cases hr : s1.thr.rcd with
    | none => rw [State.launch, hr] at hl; cases hl
    | some r =>
      rw [execBar_member hin hmap hl hr, barAnswer]
      rw [thGang, hr] at hg
      exact if_pos (by rw [show r.w.gang = false from hg]; rfl)
end

end Sys2Proof.Machine
end
section
/-! The request of a service (R239). -/
namespace Sys2Proof.Machine
open Sys2Proof

/-- The fields of the request, with their lengths. -/
def svcFields (s : State) (d : BitVec 5) (n : Nat) (r : Rec) : List (Nat × Nat) :=
  [(2, n), (2, s.physTh s.cur), (1, partByte r), (3, 0), (8, (s.getS d).toNat), (8, (s.getS 4).toNat), (8, (s.getS 5).toNat)]

section
variable {s : State} {r : Rec} (d : BitVec 5) {n : Nat}

theorem svcMsg_eq_packed (hr : s.thr.rcd = some r) : svcMsg s d n = packed (svcFields s d n r) := by
  have hpart : s.part + (if thSpec s.thr then 64 else 0) + (if thGang s.thr then 128 else 0) = partByte r := by
    simp only [State.part, thPart, thSpec, thGang, partByte, hr]
  simp only [svcMsg, hpart, svcFields, packed]
  ring

theorem svcFields_fit (hn : n < 65536) (hp : r.w.part < 64) (hth : s.physTh s.cur < 4096) : Fits (svcFields s d n r) := by
  refine fits_cons.2 ⟨hn, fits_cons.2 ⟨?_, fits_cons.2 ⟨partByte_lt hp, fits_cons.2 ⟨by decide, fits_cons.2 ⟨(s.getS d).isLt, fits_cons.2 ⟨(s.getS 4).isLt,
    fits_cons.2 ⟨(s.getS 5).isLt, fits_nil⟩⟩⟩⟩⟩⟩⟩
  exact Nat.lt_trans hth (show 4096 < 256 ^ 2 by decide)

theorem getBytes_svcMsg (hr : s.thr.rcd = some r) (hn : n < 65536) (hp : r.w.part < 64) (hth : s.physTh s.cur < 4096) {i k z v : Nat}
    (hi : (svcFields s d n r)[i]? = some (z, v)) (hk : placeOf (svcFields s d n r) i = k) : getBytes (svcMsg s d n) k z = v := by
  rw [svcMsg_eq_packed d hr, ← hk]
  exact getBytes_packed_whole (svcFields_fit d hn hp hth) hi
end

/-- Settles O37: an arrival is registered, a member leaves once, a fence lets the stores of its core leave and writes the die's dirty sectors back before
it drops them, and a service posts the list of its fields. -/
theorem barriersFencesServices : Obligations.BarriersFencesServices := by
  unfold Obligations.BarriersFencesServices
  refine ⟨fun s s1 n m v hin hmap => ⟨execBar_task hin hmap, fun l r hl hr hg => ?_⟩, fun s l r hin hr hg hl => ?_, fun s hin hg => ?_, fun s sc hmay => ?_,
    fun s d n r hr hp hth => ?_⟩
  · have hnum : s1.findLaunch l.num = some l := by
      rw [State.launch, hr] at hl
      have hfound : s1.findLaunch (thLaunch s1.thr) = some l := hl
      rw [findLaunch_num hfound, hfound]
    rw [execBar_member hin hmap hl hr, barAnswer, hg]
    dsimp only
    refine ⟨fun hc => if_pos (by rw [hc]; rfl), fun hc hleft => ?_, fun hc hleft => ?_⟩
    · rw [if_neg (by simpa using hc), if_pos (List.contains_iff_mem.2 hleft)]
    · rw [if_neg (by simpa using hc), if_neg (by simpa using hleft)]
      refine ⟨fun b hb hin => by rw [hb]; exact if_pos (List.contains_iff_mem.2 hin), fun hnew => ?_⟩
      rw [if_neg]
      · have hmove := drainAll_moves s1 (thCore s.cur)
        obtain ⟨hthr, hbar⟩ := barArrive_arrives (s := block (drainAll s1 (thCore s.cur)) (.bar n.toNat (l.shape.key n.toNat r.w.task) (immMap m)))
          ((hmove.findLaunch l.num).trans hnum) n.toNat (l.shape.key n.toNat r.w.task) r.w.task
        refine ⟨_, rfl, ?_⟩
        have hafter (x : State) : Schedules x (if s.thr.preempt then x.after Config.barTime (.preemptHold l.num) else x) := by
          split
          · exact .after x _ _
          · exact .refl x
        rw [(hafter _).thr, (hafter _).findLaunch, hthr, hmove.thr.symm]
        exact ⟨rfl, rfl, hbar⟩
      · cases hf : barFind l n.toNat (l.shape.key n.toNat r.w.task) with
        | none => exact Bool.false_ne_true
        | some b => exact fun h => hnew b hf (List.contains_iff_mem.1 h)
  · obtain ⟨hthr, l', hl', hleft⟩ := leaveBars_left (rank := r.w.task) hl
    refine ⟨_, execBarl_eq hin hr hg, hthr, ⟨l', hl', hleft⟩, ?_⟩
    rw [execBarl_eq (by rw [hthr, hin]) (by rw [hthr, hr]) hg, leaveBars_again hl' hleft]
  · change finish s (require (!s.thr.inHandler) 0x18 s.thr.pc.toNat >>= fun _ => require (thGang s.thr) 0x50 0 >>= _) = _
    rw [hin, hg]
    rfl
  · obtain ⟨hmove, hbuf⟩ := release_moves s s.cur sc
    have hacq := acquire_cachesOnly (release s s.cur sc) s.cur sc
    refine ⟨_, execFence_eq hmay, by rw [hacq.thr, hmove.thr], by rw [hacq.core, hbuf], fun hwide => ?_⟩
    rw [acquire_wide _ _ _ hwide, release_wide _ _ _ hwide]
    exact ⟨invalidateDie_writeBackDie_none _ _, fun hback x hx hdie hd _ => writeBackIf_writtenBack _ hback hx hdie hd rfl⟩
  · have hn : immMap n < 65536 := Nat.mod_lt _ (by decide)
    have hfield {i k z v : Nat} (hi : (svcFields s d (immMap n) r)[i]? = some (z, v)) (hk : placeOf (svcFields s d (immMap n) r) i = k) :=
      getBytes_svcMsg d hr hn hp hth hi hk
    exact ⟨_, svcMsg s d (immMap n), rfl, rfl, rfl, rfl, rfl, hfield (i := 0) rfl rfl, hfield (i := 1) rfl rfl, hfield (i := 2) rfl rfl, hfield (i := 3) rfl rfl,
      hfield (i := 4) rfl rfl, hfield (i := 5) rfl rfl, hfield (i := 6) rfl rfl⟩

end Sys2Proof.Machine
end

section
/-! The fetch of a bundle leaves its thread (R181). -/
namespace Sys2Proof.Machine
open Sys2Proof

theorem walkTouch_cachesOnly (s : State) (part va : Nat) : CachesOnly s (walkTouch s part va) := .foldl (fun t a => l3Touch_cachesOnly t _ a 8 false) _ s
theorem tlbEnter_thr (s : State) (clu part va : Nat) (leaf : Word) (bits : Nat) : (tlbEnter s clu part va leaf bits).thr = s.thr := by
  unfold tlbEnter
  dsimp only
  split
  · rfl
  · exact (walkTouch_cachesOnly s part va).thr
theorem spend_thr (s : State) (dev n : Nat) : (s.spend dev n).thr = s.thr := by
  unfold State.spend
  split
  · rfl
  · split
    · exact (send_performs s _ _).thr
    · rfl
theorem sendAccess_thr {s t : State} {rt : Route} {n : Nat} (h : sendAccess s rt n = .ok t) : t.thr = s.thr := by
  unfold sendAccess at h
  split at h
  · split at h
    · cases h
    · cases h; exact spend_thr s _ _
  · cases h; rfl
theorem readPlace_l3_cachesOnly (s : State) (die ma own k n : Nat) : CachesOnly s (readPlace s die (.l3 ma own) k n).2 := l3Touch_cachesOnly s own ma n false
theorem codeAt_cachesOnly (s : State) (die : Nat) (r : Route) (k : Nat) : CachesOnly s (codeAt s die r k).2 := by
  cases r with
  | cached ma own =>
    unfold codeAt
    dsimp only
    split
    · exact .refl s
    · exact readPlace_l3_cachesOnly s die ma own k 8
  | l3 ma own => exact readPlace_l3_cachesOnly s die ma own k 8
  | near => exact .refl s
  | direct => exact .refl s
  | bell p q rx => exact .refl s
  | remote dev => exact .refl s

/-- A bundle that is fetched leaves the thread as it was. -/
theorem fetchBits_thr {s s1 : State} {pc : Word} {v : Nat} (h : fetchBits s pc = .ok (v, s1)) : s1.thr = s.thr := by
  unfold fetchBits at h
  obtain ⟨⟨s2, t⟩, hplace, h⟩ := chk_bind_ok.1 h
  have hs2 : s2.thr = s.thr := by
    unfold fetchPlace at hplace
    obtain ⟨_, -, hplace⟩ := chk_bind_ok.1 hplace
    obtain ⟨_, -, hplace⟩ := chk_bind_ok.1 hplace
    obtain ⟨⟨leaf, bits⟩, -, hplace⟩ := chk_bind_ok.1 hplace
    obtain ⟨_, -, hplace⟩ := chk_bind_ok.1 hplace
    obtain ⟨_, -, hplace⟩ := chk_bind_ok.1 hplace
    obtain ⟨_, -, hplace⟩ := chk_bind_ok.1 hplace
    obtain ⟨rfl, -⟩ := Prod.mk.inj (Except.ok.inj hplace)
    exact tlbEnter_thr ..
  dsimp only at h
  split at h
  · cases h
  · obtain ⟨s3, hsend, h⟩ := chk_bind_ok.1 h
    have hcode := (codeAt_cachesOnly s3 (thDie s.cur) (tgtRoute s2 t) (tgtKey s2 t)).thr
    rw [Except.ok.inj h] at hcode
    exact hcode.trans ((sendAccess_thr hsend).trans hs2)

end Sys2Proof.Machine
end
section
/-! A suspending lead instruction that leaves its thread with a record, takes no condition and need not be issued again has written no register (R209). -/
namespace Sys2Proof.Machine
open Sys2Proof

theorem suspends_cases {i : Instr} (h : suspends i = true) : (∃ m, i = .yield m) ∨ (∃ m, i = .safe m) ∨ (∃ n m, i = .bar n m) ∨ i = .endCont ∨ i = .quit := by
  unfold suspends at h
  split at h
  · exact .inl ⟨_, rfl⟩
  · exact .inr (.inl ⟨_, rfl⟩)
  · exact .inr (.inr (.inl ⟨_, _, rfl⟩))
  · exact .inr (.inr (.inr (.inl rfl)))
  · exact .inr (.inr (.inr (.inr rfl)))
  · cases h

/-- A condition has been taken, or the thread holds no record, or it has written what it had before. -/
def KeepsWrote (s t : State) : Prop := t.taken.isSome = true ∨ t.thr.rcd = none ∨ t.thr.i.wrote = s.thr.i.wrote

theorem KeepsWrote.of_thr {s t : State} (h : t.thr = s.thr) : KeepsWrote s t := .inr (.inr (by rw [h]))
theorem block_keepsWrote (s : State) (w : Why) : KeepsWrote s (block s w) := .inr (.inr rfl)
theorem parkCore_keepsWrote (s : State) (c : Cond) (pc : Word) (byPark frame : Bool) : KeepsWrote s (parkCore s c pc byPark frame) := by
  unfold parkCore
  split
  · exact .inl rfl
  · split
    · cases byPark <;> exact .inr (.inr rfl)
    · exact .inl rfl
theorem takeCondition_keepsWrote (s : State) (c : Cond) (pc : Word) : KeepsWrote s (takeCondition s c pc) := by
  obtain ⟨d, p, f, h⟩ | ⟨-, h⟩ | ⟨-, h⟩ | ⟨s1, -, -, -, -, -, h⟩ := takeCondition_cases s c pc <;> rw [h]
  · exact parkCore_keepsWrote ..
  · exact .inl rfl
  · exact .inr (.inr rfl)
  · exact .inl rfl
theorem freeHandle_wrote (s : State) (f : Option (BitVec 4)) : (freeHandle s f).thr.i.wrote = s.thr.i.wrote := by
  cases f with
  | none => rfl
  | some h =>
    have hacq : (handleAcquire s (s.getH h)).thr = s.thr := by
      unfold handleAcquire
      split
      · exact (acquire_cachesOnly ..).thr
      · rfl
    have hw := congrArg (fun t : Thread => t.i.wrote) hacq
    exact hw
theorem finish_error_keepsWrote {s t : State} {e : Stop} (h : finish s (.error e) = .next t) : KeepsWrote s t := by
  cases e with
  | cond c f =>
    cases h
    obtain hk | hk | hk := takeCondition_keepsWrote (freeHandle s f) c (faultPc s)
    · exact .inl hk
    · exact .inr (.inl hk)
    · exact .inr (.inr (hk.trans (freeHandle_wrote s f)))
  | wait w => cases h; exact block_keepsWrote s w
theorem withMap_keepsWrote {s t : State} {idx : Nat} {k : Nat → State → Host.Outcome State Fault Refusal} (h : withMap s idx k = .next t)
    (hk : ∀ v s1, liveMap s idx = .ok (v, s1) → k v s1 = .next t → KeepsWrote s t) : KeepsWrote s t := by
  unfold withMap at h
  split at h
  · next v s1 hmap => exact hk v s1 hmap h
  · split at h
    · exact finish_error_keepsWrote h
    · cases h; exact parkCore_keepsWrote ..
  · cases h; exact block_keepsWrote ..

/-- A write-back leaves its thread without a record. -/
theorem writeBack_rcd {s t : State} {map idx : Nat} {pc : Word} {waits : BitVec 16} (h : writeBack s map idx pc waits = .ok t) : t.thr.rcd = none := by
  cases hr : s.thr.rcd with
  | none =>
    have hland : (landAll s.thr).rcd = none := hr
    unfold writeBack at h
    simp only [hland] at h
    cases h
    rw [← State.getT_cur, freeThread_cur]
    exact freeThread_rcd { s with thr := landAll s.thr } s.cur
  | some r =>
    obtain ⟨s3, hmove, rfl⟩ := writeBack_ok hr h
    have hwake := (wakeRecord_rest { s3 with free := s3.free + 16 } (r := (writtenRec s3 s.cur r idx pc waits).sealed) rfl rfl rfl).1.cur
    rw [← State.getT_cur, recordLeaves, freeThread_cur, show ∀ (x : State) f, (x.modSch f).cur = x.cur from fun _ _ => rfl, hwake, hmove.cur]
    exact freeThread_rcd _ s.cur

theorem suspendIf_keepsWrote {s t : State} {idx : Nat} {go wait : Bool} (h : suspendIf s idx go wait = .next t) : KeepsWrote s t := by
  refine withMap_keepsWrote h fun v s1 hmap hk => ?_
  have hthr : s1.thr = s.thr := (liveMap_cachesOnly hmap).thr
  split at hk
  · cases hk; exact .of_thr hthr
  · split at hk
    · exact finish_error_keepsWrote hk
    · unfold suspend at hk
      split at hk
      · next hback => cases hk; exact .inr (.inl (writeBack_rcd hback))
      · cases hk
        obtain hp | hp | hp := parkCore_keepsWrote s1 _ s1.thr.pc false _
        · exact .inl hp
        · exact .inr (.inl hp)
        · exact .inr (.inr (hp.trans (by rw [hthr])))
      · cases hk
        have hw := congrArg (fun x : Thread => x.i.wrote) hthr
        exact .inr (.inr hw)

theorem execBar_keepsWrote {s t : State} {n : BitVec 5} {m : Imm 15} (h : exec (.bar n m) s = .next t) : KeepsWrote s t := by
  cases hin : s.thr.inHandler with
  | true =>
    have hraise : exec (.bar n m) s = raises s 0x18 s.thr.pc.toNat := by
      change execBar n m s = _
      exact if_pos hin
    rw [hraise] at h
    cases h; exact takeCondition_keepsWrote ..
  | false =>
    have hmapped := h
    change execBar n m s = .next t at hmapped
    unfold execBar at hmapped
    dsimp only at hmapped
    rw [hin, if_neg (by decide)] at hmapped
    refine withMap_keepsWrote hmapped fun v s1 hmap _ => ?_
    have hthr : s1.thr = s.thr := (liveMap_cachesOnly hmap).thr
    cases hg : thGang s1.thr with
    | false =>
      rw [execBar_task hin hmap hg] at h
      cases h; exact takeCondition_keepsWrote ..
    | true =>
      obtain ⟨r, hr⟩ : ∃ r, s1.thr.rcd = some r := by
        cases hr : s1.thr.rcd with
        | none => rw [thGang, hr] at hg; cases hg
        | some r => exact ⟨r, rfl⟩
      cases hl : s1.launch with
      | none =>
        rw [execBar_noLaunch hin hmap hl] at h
        cases h; exact takeCondition_keepsWrote ..
      | some l =>
        rw [execBar_member hin hmap hl hr, barAnswer] at h
        dsimp only at h
        have harrive (level inst rank : Nat) (w : Why) : (barArrive (block (drainAll s1 (thCore s.cur)) w) l level inst rank).thr.i.wrote = s.thr.i.wrote := by
          rw [(barArrive_schedules ..).thr, ← hthr]
          have hw := congrArg (fun x : Thread => x.i.wrote) (drainAll_moves s1 (thCore s.cur)).thr
          exact hw
        split_ifs at h
        · cases h; exact takeCondition_keepsWrote ..
        · cases h; exact takeCondition_keepsWrote ..
        · cases h; exact takeCondition_keepsWrote ..
        · cases h; exact .inr (.inr (harrive ..))
        · cases h; exact .inr (.inr (harrive ..))

theorem execEndCont_keepsWrote {s t : State} (h : exec .endCont s = .next t) : KeepsWrote s t := by
  cases hin : s.thr.inHandler with
  | true =>
    have hraise : exec .endCont s = raises s 0x18 s.thr.pc.toNat := by
      change finish s (require (!s.thr.inHandler) 0x18 s.thr.pc.toNat >>= _) = _
      rw [hin]
      rfl
    rw [hraise] at h
    cases h; exact takeCondition_keepsWrote ..
  | false =>
    rw [execEndCont_eq hin] at h
    cases h; exact .inr (.inl (endThread_ends s).1)
theorem execQuit_keepsWrote {s t : State} (h : exec .quit s = .next t) : KeepsWrote s t := by
  cases hin : s.thr.inHandler with
  | true =>
    have hraise : exec .quit s = raises s 0x18 s.thr.pc.toNat := by
      change finish s (require (!s.thr.inHandler) 0x18 s.thr.pc.toNat >>= _) = _
      rw [hin]
      rfl
    rw [hraise] at h
    cases h; exact takeCondition_keepsWrote ..
  | false =>
    rw [execQuit_eq hin] at h
    cases h; exact .inr (.inl (endThread_ends _).1)

theorem exec_suspends_keepsWrote {i : Instr} {s t : State} (hi : suspends i = true) (h : exec i s = .next t) : KeepsWrote s t := by
  obtain ⟨m, rfl⟩ | ⟨m, rfl⟩ | ⟨n, m, rfl⟩ | rfl | rfl := suspends_cases hi
  · exact suspendIf_keepsWrote h
  · exact suspendIf_keepsWrote h
  · exact execBar_keepsWrote h
  · exact execEndCont_keepsWrote h
  · exact execQuit_keepsWrote h

end Sys2Proof.Machine
end
section
/-! A step of a ready thread (R39, R184, R209). -/
namespace Sys2Proof.Machine
open Sys2Proof

theorem arithWrites_nop (r : Regs) : arithWrites r .arithNop = [] := rfl

/-- Beside an empty arithmetic word nothing is kept from landing. -/
theorem arithFirst_nop (s0 s : State) : arithFirst s0 s .arithNop = s := by
  have hkept : s.thr.i.pend.filter (fun _ => true) = s.thr.i.pend := List.filter_eq_self.2 fun _ _ => rfl
  unfold arithFirst State.modI
  rw [arithWrites_nop]
  simp only [List.contains_nil, Bool.not_false, hkept]

/-- What wrote nothing supersedes nothing. -/
theorem supersede_nil (n : Nat) (t : Thread) : supersede n [] t = t := by
  unfold supersede
  simp only [List.contains_nil, Bool.false_eq_true, if_false, Bool.not_false, List.map_id', List.take_append_drop, List.filter_true]

/-- A suspending instruction beside an empty arithmetic word leaves a thread that wrote nothing as it is. -/
theorem supersedeBoth_suspends {s0 : State} {b : Bundle} {t : Thread} (hs : suspends b.lead = true) (ha : b.arith = .arithNop) (hw : t.i.wrote = []) :
    supersedeBoth s0 b (arithDefer s0 b.lead b.arith t) = t := by
  obtain ⟨wait, lead, arith⟩ := b
  obtain rfl : arith = .arithNop := ha
  have hnone : supersede s0.thr.i.replies.length ([] ++ t.i.wrote ++ []) t = t := by rw [hw]; exact supersede_nil _ t
  obtain ⟨m, rfl⟩ | ⟨m, rfl⟩ | ⟨n, m, rfl⟩ | rfl | rfl := suspends_cases hs <;> exact hnone

theorem mergeArith_taken (s sA : State) (old : Regs) (lead arith : Instr) : (mergeArith s sA old lead arith).taken = s.taken := by
  have h (l : List Reg) (x : State) (taken : List Reg) : (l.foldl (mergeOne sA taken) x).taken = x.taken := by
    induction l generalizing x with
    | nil => rfl
    | cons g r ih =>
      refine (ih _).trans ?_
      unfold mergeOne
      split <;> rfl
  exact h _ s _
theorem deferBoth_taken (s0 s : State) (b : Bundle) : (deferBoth s0 s b).taken = s.taken := by
  unfold deferBoth cleanRegs
  dsimp only
  split <;> rfl

/-- A condition is taken at once where no reply is outstanding. -/
theorem takeLate_now {s0 s1 : State} (h : s0.thr.i.replies = []) : takeLate s0 s1 = s1 := by
  unfold takeLate
  split
  · rfl
  · exact if_pos (by rw [h]; rfl)
theorem takeLate_none {s0 s1 : State} (h : s1.taken = none) : takeLate s0 s1 = s1 := by
  unfold takeLate
  rw [h]

/-- A decoded bundle that nothing holds back runs both of its instructions. -/
theorem issueBundle_runs {ex : Exec} {s : State} {b : Bundle} (hc : checkedReads s b = []) (hi : interlocked s.thr b = false) (hr : heldByReplies s.thr b = false)
    (ho : owedRead s.thr b = none) (hb : badRead s b = none) : issueBundle ex s b = runBundle ex s b := by
  unfold issueBundle
  simp only [hc, hi, hr, ho, hb]
  rfl

/-- The step of a thread that is ready, up to the run of its bundle. -/
theorem step_issues {s : State} {n v : Nat} {s1 : State} {b : Bundle} (hbiv : s.bivState ≠ 5) (hag : ∀ d e r, s.agenda = (d, e) :: r → s.clock < d)
    (hself : selfEvent s = none) (hready : nextReady s = some n) (howed : owedConds (s.focus n).thr = [])
    (hfetch : fetchBits (atIssue (s.focus n)) (s.focus n).thr.pc = .ok (v, s1)) (hrep : s1.thr.i.rep = none) (hdec : decodeValue v = .ok b)
    (hheld : heldBack s1 b = none) {x : State} (hrun : issueBundle exec s1 b = .next x) :
    step s = .next (afterBundle (s.focus n).eff (max b.wait.toNat 1 + assistStore s1 b.lead) (takeLate (atIssue (s.focus n)) x)) := by
  have hbetween : step s = issue exec (s.focus n) := by
    have hevents : betweenEvents exec s = issue exec (s.focus n) := by
      unfold betweenEvents
      rw [hself, hready]
    unfold step advance
    rw [if_neg hbiv]
    cases hl : s.agenda with
    | nil => exact hevents
    | cons p r => exact (if_neg (Nat.not_le.2 (hag p.1 p.2 r hl))).trans hevents
  have hpc : (atIssue (s.focus n)).thr.pc = (s.focus n).thr.pc := rfl
  rw [hbetween]
  unfold issue
  simp only [howed, hpc, hfetch, hdec, hrep, hheld, hrun]

/-- What a bundle leaves whose lead instruction neither takes a condition, nor must be issued again, nor suspends. -/
theorem runBundle_both {s s1 sA : State} {b : Bundle} (hlead : exec b.lead s = .next s1) (ht : s1.taken = none) (hb : reissues s1.thr.i.blocked = false)
    (hs : suspends b.lead = false) (harith : exec b.arith (s.setGen s1.gen) = .next sA) :
    runBundle exec s b = if sA.taken.isSome || reissues sA.thr.i.blocked then exec b.arith s
      else .next (deferBoth s (mergeArith s1 sA s.thr.r b.lead b.arith) b) := by
  unfold runBundle
  simp only [hlead, ht, hb, hs, Option.isSome_none, Bool.or_false, Bool.false_eq_true, if_false, harith]
theorem runBundle_suspends {s s1 sA s2 : State} {b : Bundle} (hlead : exec b.lead s = .next s1) (ht : s1.taken = none) (hb : reissues s1.thr.i.blocked = false)
    (hs : suspends b.lead = true) (harith : exec b.arith s = .next sA) (htA : sA.taken = none) (hbA : reissues sA.thr.i.blocked = false)
    (hagain : exec b.lead (arithFirst s sA b.arith) = .next s2) :
    runBundle exec s b = .next (if s2.thr.rcd.isSome then { s2 with thr := supersedeBoth s b (arithDefer s b.lead b.arith s2.thr) } else s2) := by
  unfold runBundle
  simp only [hlead, ht, hb, hs, Option.isSome_none, Bool.or_false, Bool.false_eq_true, if_false, if_true, harith, htA, hbA, hagain]
theorem runBundle_lead {s s1 : State} {b : Bundle} (hlead : exec b.lead s = .next s1) (h : s1.taken.isSome = true ∨ reissues s1.thr.i.blocked = true) :
    runBundle exec s b = .next s1 := by
  unfold runBundle
  rw [hlead]
  exact if_pos (Bool.or_eq_true_iff.2 h)

/-- Settles O4: a step is the run of the bundle of the ready thread; in each case `runBundle` gives the state that is named, and no condition is held back. -/
theorem stepRunsTheDecodedInstruction : Obligations.StepRunsTheDecodedInstruction := by
  unfold Obligations.StepRunsTheDecodedInstruction
  intro s n v s1 t1 b hbiv hag hself hready f howed _ hfetch hrep htaken hdec hheld hchk hlock hreplies hread hbad hlead after
  have hrun {x : State} (h : runBundle exec s1 b = .next x) (hx : takeLate (atIssue f) x = x) : after x := by
    have hstep := step_issues hbiv hag hself hready howed hfetch hrep hdec hheld ((issueBundle_runs hchk hlock hreplies hread hbad).trans h)
    rwa [hx] at hstep
  have hthr : s1.thr = (atIssue f).thr := fetchBits_thr hfetch
  refine ⟨fun ht hout => hrun (runBundle_lead hlead (.inl ht)) (takeLate_now hout), fun ht hwait => hrun (runBundle_lead hlead (.inr hwait)) (takeLate_none ht),
    fun ht hgo => ⟨fun hs tA harith => ⟨fun htA hbA => ?_, fun tB hA harith2 hout => ?_⟩, fun hs => ⟨fun hnop => ?_, fun tA t2 harith htA hbA hagain ht2 hrcd => ?_⟩⟩⟩
  · refine hrun ((runBundle_both hlead ht hgo hs harith).trans (if_neg (by rw [htA, hbA]; decide))) (takeLate_none ?_)
    rw [deferBoth_taken, mergeArith_taken, ht]
  · exact hrun ((runBundle_both hlead ht hgo hs harith).trans ((if_pos (Bool.or_eq_true_iff.2 hA)).trans harith2)) (takeLate_now hout)
  · have harith : exec b.arith s1 = .next s1 := by rw [hnop]; rfl
    have hwrote : s1.thr.i.wrote = [] := by rw [hthr]; rfl
    have hblocked : reissues s1.thr.i.blocked = false := by rw [hthr]; rfl
    have hagain : exec b.lead (arithFirst s1 s1 b.arith) = .next t1 := by rw [hnop, arithFirst_nop]; exact hlead
    refine hrun ((runBundle_suspends hlead ht hgo hs harith htaken hblocked hagain).trans (congrArg _ ?_)) (takeLate_none ht)
    split
    · next hrcd =>
      obtain h | h | h := exec_suspends_keepsWrote hs hlead
      · rw [ht] at h; cases h
      · rw [h] at hrcd; cases hrcd
      · rw [supersedeBoth_suspends hs hnop (h.trans hwrote)]
    · rfl
  · refine hrun ((runBundle_suspends hlead ht hgo hs harith htA hbA hagain).trans (congrArg _ ?_)) (takeLate_none ht2)
    rw [hrcd]
    rfl

end Sys2Proof.Machine
end

section
/-! Bytes that are put at places whose lines the L3 holds (R19, R121). -/
namespace Sys2Proof.Machine
open Sys2Proof

theorem mem_agendaIns (d : Nat) (e : Event) (l : List (Nat × Event)) : (d, e) ∈ agendaIns d e l := by
  induction l with
  | nil => exact List.mem_singleton.2 rfl
  | cons c r ih =>
    unfold agendaIns
    split
    · exact List.mem_cons_self ..
    · exact List.mem_cons_of_mem _ ih
theorem dueIn_after {s t : State} (dt : Nat) (e : Event) (h : t.clock = s.clock) : DueIn s dt e (t.after dt e) := by
  unfold DueIn
  rw [← h]
  exact mem_agendaIns ..

/-- A sector in the mask of a range is in that of a longer one. -/
theorem sectorMask_mono {line a n b m i : Nat} (hlo : b ≤ a) (hhi : a + n ≤ b + m) (hi : i < 8) (h : (sectorMask line a n).getLsbD i = true) :
    (sectorMask line b m).getLsbD i = true := by
  have hbit (a n : Nat) : (sectorMask line a n).getLsbD i = decide (line * 128 + 16 * i < a + n ∧ a < line * 128 + 16 * i + 16) := by
    have hone (p : Prop) [Decidable p] : (if p then 1 else 0 : Nat).testBit 0 = decide p := by split <;> simp [*]
    rw [sectorMask, BitVec.getLsbD_ofNat, testBit_packN_one, hone, decide_eq_true hi, Bool.true_and, Bool.true_and]
  rw [hbit, decide_eq_true_eq] at h ⊢
  omega
theorem HeldL3.sub {s : State} {a n b m : Nat} (h : HeldL3 s b m) (hlo : b ≤ a) (hhi : a + n ≤ b + m) (hn : 0 < n) : HeldL3 s a n := fun line h1 h2 => by
  obtain ⟨hline, hhas⟩ := h line (Nat.le_trans (Nat.div_le_div_right hlo) h1) (Nat.le_trans h2 (Nat.div_le_div_right (by omega)))
  exact ⟨hline, fun i hi hm => hhas i hi (sectorMask_mono hlo hhi hi hm)⟩

/-- A read of what the L3 holds changes nothing. -/
theorem l3Touch_read {s : State} {a n : Nat} (own : Nat) (h : HeldL3 s a n) : l3Touch s own a n false = s := by
  unfold l3Touch
  refine (ite_eq_left_iff.2 fun _ => ?_)
  have hgo (l : List Nat) (hl : ∀ i ∈ l, i < (a + n - 1) / 128 - a / 128 + 1) :
      l.foldl (fun x i => l3Fill x own (a / 128 + i) (sectorMask (a / 128 + i) a n)) s = s := by
    induction l with
    | nil => rfl
    | cons i r ih =>
      obtain ⟨hline, hhas⟩ := h (a / 128 + i) (Nat.le_add_right _ _) (by have := hl i (List.mem_cons_self ..); omega)
      rw [List.foldl_cons, l3Fill_held own hline hhas]
      exact ih fun j hj => hl j (List.mem_cons_of_mem _ hj)
  exact hgo _ fun i hi => List.mem_range.1 hi
theorem readPlace_held {s : State} {ma n : Nat} (die own k : Nat) (h : HeldL3 s ma n) : readPlace s die (.l3 ma own) k n = (s.mem.get k n, s) := by
  unfold readPlace
  dsimp only
  rw [l3Touch_read own h]

/-- The bytes of `v` stand at `k`, and what the L3 holds it still holds. -/
structure PutAt (k n v : Nat) (s t : State) : Prop where
  cells : t.mem.cells = cellsSet s.mem.cells k n v
  caches : CachesOnly s t
  held : ∀ ma z, HeldL3 s ma z → HeldL3 t ma z

namespace PutAt
variable {k n v : Nat} {s t : State} (h : PutAt k n v s t)
include h
theorem byte_in {x : Nat} (hlo : k ≤ x) (hhi : x < k + n) : t.byte x = BitVec.ofNat 8 (v / 256 ^ (x - k)) := by
  rw [State.byte, h.cells]; exact cellAt_cellsSet _ _ _ _ _ hlo hhi
theorem byte_out {x : Nat} (hx : x < k ∨ k + n ≤ x) : t.byte x = s.byte x := by rw [State.byte, h.cells]; exact cellAt_cellsSet_ne _ _ _ _ _ hx
theorem get_in : t.mem.get k n = v % 256 ^ n := (congrArg (cellsLE · k n) h.cells).trans (Mem.get_put s.mem k n v)
theorem get_out {j z : Nat} (hj : j + z ≤ k ∨ k + n ≤ j) : t.mem.get j z = s.mem.get j z :=
  (congrArg (cellsLE · j z) h.cells).trans (Mem.get_put_ne s.mem k n v j z hj)
end PutAt

theorem engPut_held {s : State} {ma n : Nat} (die own k off v : Nat) (h : HeldL3 s (ma + off) n) : PutAt (k + off) n v s (engPut s die (.l3 ma own) k off n v) := by
  have hmark := l3Touch_marks own true h
  refine ⟨?_, (l3Touch_cachesOnly s own (ma + off) n true).trans (modM_cachesOnly _ rfl rfl rfl), fun a z ha => ?_⟩
  · exact congrArg (cellsSet · (k + off) n v) hmark.cells
  · exact hmark.held ha

/-- Byte i of the low n bytes. -/
theorem byte_mod_pow {v n i : Nat} (hi : i < n) : BitVec.ofNat 8 (v % 256 ^ n / 256 ^ i) = BitVec.ofNat 8 (v / 256 ^ i) := by
  have hpow : 256 ^ n = 256 ^ i * (256 * 256 ^ (n - i - 1)) := by rw [← Nat.pow_succ', ← Nat.pow_add]; congr 1; omega
  apply BitVec.eq_of_toNat_eq
  rw [BitVec.toNat_ofNat, BitVec.toNat_ofNat, hpow, Nat.mod_mul_right_div_self]
  exact Nat.mod_mul_right_mod ..

/-- Keys and lengths share no byte. -/
def ApartKeys (x y : Nat × Nat) : Prop := x.1 + x.2 ≤ y.1 ∨ y.1 + y.2 ≤ x.1

/-- Places that share no byte, whose lines the L3 holds, take the bytes of a value in order; no other byte changes. -/
theorem writePlaces_puts {ks : List (Route × Nat × Nat)} {v : Nat} {s : State} (hheld : HeldPlaces s ks) (hapart : (ks.map (fun p => p.2)).Pairwise ApartKeys) :
    CachesOnly s (writePlaces ks v s) ∧ (∀ ma z, HeldL3 s ma z → HeldL3 (writePlaces ks v s) ma z) ∧
    (∀ pre p post, ks = pre ++ p :: post → ∀ i, i < p.2.2 → (writePlaces ks v s).byte (p.2.1 + i) = BitVec.ofNat 8 (v / 256 ^ ((pre.map (fun q => q.2.2)).sum + i))) ∧
    (∀ x, (∀ p ∈ ks, x < p.2.1 ∨ p.2.1 + p.2.2 ≤ x) → (writePlaces ks v s).byte x = s.byte x) := by
  induction ks generalizing v s with
  | nil => exact ⟨.refl s, fun _ _ h => h, fun pre p post h => by simp at h, fun _ _ => rfl⟩
  | cons q r ih =>
    obtain ⟨rt, k, n⟩ := q
    obtain ⟨ma, own, hrt, hq⟩ := hheld _ (List.mem_cons_self ..)
    obtain rfl : rt = .l3 ma own := hrt
    have hput : PutAt k n (v % 256 ^ n) s (engPut s 0 (.l3 ma own) k 0 n (v % 256 ^ n)) := engPut_held 0 own k 0 _ hq
    obtain ⟨hfirst, hrest⟩ := List.pairwise_cons.1 hapart
    obtain ⟨hcaches, hkeep, hin, hout⟩ := ih (v := v / 256 ^ n) (s := engPut s 0 (.l3 ma own) k 0 n (v % 256 ^ n)) (fun p hp => by
      obtain ⟨ma', own', e, hp⟩ := hheld p (List.mem_cons_of_mem _ hp)
      exact ⟨ma', own', e, hput.held _ _ hp⟩) hrest
    refine ⟨hput.caches.trans hcaches, fun a z ha => hkeep a z (hput.held a z ha), fun pre p post hsplit i hi => ?_, fun x hx => ?_⟩
    · cases pre with
      | nil =>
        obtain ⟨rfl, rfl⟩ := List.cons.inj hsplit
        refine (hout (k + i) fun p hp => ?_).trans ((hput.byte_in (Nat.le_add_right _ _) (Nat.add_lt_add_left hi _)).trans ?_)
        · have := hfirst _ (List.mem_map_of_mem hp)
          unfold ApartKeys at this
          dsimp only at this hi
          omega
        · rw [Nat.add_sub_cancel_left, byte_mod_pow hi]
          simp
      | cons q pre =>
        obtain ⟨rfl, hr⟩ := List.cons.inj hsplit
        refine (hin pre p post hr i hi).trans ?_
        rw [Nat.div_div_eq_div_mul, ← Nat.pow_add, List.map_cons, List.sum_cons, Nat.add_assoc]
    · exact (hout x fun p hp => hx p (List.mem_cons_of_mem _ hp)).trans (hput.byte_out (hx _ (List.mem_cons_self ..)))

end Sys2Proof.Machine
end

section
/-! The home takes a commit (R64). -/
namespace Sys2Proof.Machine
open Sys2Proof

/-- Memory, the operations and the clock are the same. -/
structure Beside (s t : State) : Prop where
  mem : t.mem = s.mem
  ops : t.sch.ops = s.sch.ops
  clock : t.clock = s.clock

namespace Beside
variable {s t u : State}
theorem refl (s : State) : Beside s s := ⟨rfl, rfl, rfl⟩
theorem trans (h : Beside s t) (k : Beside t u) : Beside s u := ⟨k.mem.trans h.mem, k.ops.trans h.ops, k.clock.trans h.clock⟩
theorem foldl {α : Type} {f : State → α → State} (hf : ∀ s a, Beside s (f s a)) (l : List α) (s : State) : Beside s (l.foldl f s) := by
  induction l generalizing s with
  | nil => exact refl s
  | cons a r ih => exact (hf s a).trans (ih (f s a))
theorem after (s : State) (n : Nat) (e : Event) : Beside s (s.after n e) := ⟨rfl, rfl, rfl⟩
end Beside

theorem touchRecord_beside (s : State) (rid : Nat) (ks : List Nat) : Beside s (touchRecord s rid ks) := by
  unfold touchRecord
  dsimp only
  split
  · exact .refl s
  · exact ⟨rfl, rfl, rfl⟩
theorem markTask_beside (s : State) (num task : Nat) (f : TaskSt → TaskSt) : Beside s (markTask s num task f) := by
  unfold markTask
  split
  · split
    · exact ⟨rfl, rfl, rfl⟩
    · exact .refl s
  · exact .refl s
theorem setReg2_beside (s : State) (off : Nat) (v : Word) : Beside s (s.setReg2 off v) := ⟨rfl, rfl, rfl⟩
theorem setPort_beside (s : State) (p : Nat) (x : PortSt) : Beside s (s.setPort p x) := ⟨rfl, rfl, rfl⟩
theorem spend_beside (s : State) (dev n : Nat) : Beside s (s.spend dev n) := by
  unfold State.spend
  split
  · exact .refl s
  · split
    · unfold State.send
      exact (setReg2_beside _ _ _).trans (setPort_beside _ _ _)
    · exact .refl s
theorem cancelFar_beside (s : State) (h : HeldCancel) : Beside s (cancelFar s h) := by
  unfold cancelFar
  split
  · exact spend_beside s _ _
  · exact ⟨rfl, rfl, rfl⟩
theorem sendCancel_beside (s : State) (num task exempt : Nat) : Beside s (sendCancel s num task exempt) := by
  unfold sendCancel
  split
  · exact .refl s
  · exact (Beside.foldl cancelFar_beside _ s).trans (.after _ _ _)
theorem retryReads_beside (s : State) (dkey : Nat) : Beside s (retryReads s dkey) := by
  unfold retryReads
  exact .foldl (fun t (o : Op) => .after t 0 (.treadAtHome o.id)) _ s

/-- The operation found under a number after a change of those with that number. -/
theorem findOp_modOp {s : State} {id : Nat} {o : Op} {f : Op → Op} (h : s.findOp id = some o) (hf : ∀ x, (f x).id = x.id) : (s.modOp id f).findOp id = some (f o) := by
  have hgo : ∀ l : List Op, l.find? (fun o => o.id == id) = some o → (l.map (fun o => if o.id = id then f o else o)).find? (fun o => o.id == id) = some (f o) := by
    intro l
    induction l with
    | nil => exact fun h => nomatch h
    | cons x r ih =>
      intro h
      rw [List.map_cons]
      by_cases hx : x.id = id
      · rw [List.find?_cons_of_pos (by simpa using hx)] at h
        rw [if_pos hx, List.find?_cons_of_pos (by rw [hf]; simpa using hx), Option.some.inj h]
      · rw [List.find?_cons_of_neg (by simpa using hx)] at h
        rw [if_neg hx, List.find?_cons_of_neg (by simpa using hx)]
        exact ih h
  exact hgo _ h
theorem findOp_of_ops {s t : State} (h : t.sch.ops = s.sch.ops) (id : Nat) : t.findOp id = s.findOp id := by rw [State.findOp, State.findOp, h]
theorem findOp_id {s : State} {id : Nat} {o : Op} (h : s.findOp id = some o) : o.id = id := by
  unfold State.findOp at h
  exact beq_iff_eq.1 (List.find?_some (p := fun o : Op => o.id == id) h)

/-- An answer is on its way. -/
theorem setAns_answered {s u : State} {id : Nat} {o : Op} {launch task att : Nat} {base : BitVec 32} {desc : Word} {dkey size data : Nat} {pc : Word} (a : CommitAns)
    (hop : s.findOp id = some o) (hk : o.k = .commit launch task att base desc dkey size data pc none) (hops : u.sch.ops = s.sch.ops) (hclock : u.clock = s.clock) :
    DueIn s Config.commitTime (.commitReply id) ((setAns u id a).after Config.commitTime (.commitReply id)) ∧
    ∃ y, ((setAns u id a).after Config.commitTime (.commitReply id)).findOp id = some y ∧ y.k = .commit launch task att base desc dkey size data pc (some a) := by
  refine ⟨dueIn_after _ _ hclock, ?_⟩
  have hfound := (findOp_of_ops hops id).trans hop
  unfold setAns
  refine ⟨_, findOp_modOp hfound fun x => ?_, ?_⟩
  · split <;> rfl
  · rw [hk]

section
variable {s : State} {o : Op} {desc : Word} {dkey dma own size : Nat} {ks : List (Route × Nat × Nat)}
  (hroute : descRoute s o.part desc dkey = .l3 dma own) (hheld : HeldL3 s dma 16)

include hroute in
theorem keyDev_of_near : keyDev s dkey = s.device := by
  unfold descRoute at hroute
  split at hroute
  · cases hroute
  · next h => exact Decidable.not_not.1 h

variable (hlost : keyLost s dkey = none) (hpois : s.mem.poisoned dkey 16 = false) (hok : descOk (s.mem.get dkey 16) = true)
  (hsize : descSize (s.mem.get dkey 16) = size)
  (hplaces : tilePlaces s o.part s.device desc.toNat (descBase (s.mem.get dkey 16)) true (tilePieces (descBase (s.mem.get dkey 16)) size) = .ok ks)
include hroute hheld hlost hpois hok hsize hplaces

/-- What the home does with a commit at a good descriptor, by its version. -/
theorem homeCommit_good (launch task att : Nat) (base : BitVec 32) (data : Nat) :
    homeCommit s o launch task att base desc dkey size data =
      if descVer (s.mem.get dkey 16) = base.toNat then
        (.won, retryReads (sendCancel (markTask (touchRecord (applyCommit s (.l3 dma own) dkey ((base.toNat + 1) % 2 ^ 32) att data ks) o.rcd (ks.map (fun x => x.2.1)))
          launch task (fun t => { t with won := true })) launch task att) dkey)
      else if descVer (s.mem.get dkey 16) = (base.toNat + 1) % 2 ^ 32 ∧ descAtt (s.mem.get dkey 16) = att then (.won, s)
      else (.lost, sendCancel (markTask s launch task (fun t => { t with lost := true })) launch task (descAtt (s.mem.get dkey 16))) := by
  have hpoison : poisonAt s dkey 16 = none := if_neg (by rw [hpois]; decide)
  unfold homeCommit
  simp only [hroute, hlost, hpoison, readPlace_held 0 own dkey hheld, hok, hsize, keyDev_of_near hroute, hplaces]
  simp

omit hlost hpois in
theorem execCommitAtHome_good {id : Nat} {launch task att : Nat} {base : BitVec 32} {data : Nat} {pc : Word} (hop : s.findOp id = some o)
    (hk : o.k = .commit launch task att base desc dkey size data pc none) :
    exec (.commitAtHome id) s = .next ((setAns (homeCommit s o launch task att base desc dkey size data).2 id
      (homeCommit s o launch task att base desc dkey size data).1).after Config.commitTime (.commitReply id)) := by
  have hdev := keyDev_of_near hroute
  have hreach : reachKey s dkey size = .go := if_pos hdev
  have hspend : s.spend (keyDev s dkey) (flitsOf size) = s := if_pos hdev
  have hnowait : commitWaits s o desc dkey size = false := by
    unfold commitWaits
    simp only [hroute, readPlace_held 0 own dkey hheld, hdev, hok, hsize, hplaces]
    simp
  rw [exec_commitAtHome]
  unfold execCommitAtHome
  simp only [hop, hk, hreach, hnowait, hspend]
  simp
end

/-- The tile takes its bytes, and the descriptor its version and attempt; no other byte changes. -/
theorem applyCommit_bytes {s : State} {dma own dkey next att data : Nat} {ks : List (Route × Nat × Nat)} (hheld : HeldL3 s dma 16) (hks : HeldPlaces s ks)
    (hapart : ((dkey, 16) :: ks.map (fun p => p.2)).Pairwise ApartKeys) (hnext : next < 2 ^ 32) :
    CachesOnly s (applyCommit s (.l3 dma own) dkey next att data ks) ∧
    (applyCommit s (.l3 dma own) dkey next att data ks).mem.get (dkey + 12) 4 = next ∧
    (applyCommit s (.l3 dma own) dkey next att data ks).mem.get (dkey + 10) 2 = att % 65536 ∧
    (∀ pre p post, ks = pre ++ p :: post → ∀ i, i < p.2.2 →
      (applyCommit s (.l3 dma own) dkey next att data ks).byte (p.2.1 + i) = BitVec.ofNat 8 (data / 256 ^ ((pre.map (fun q => q.2.2)).sum + i))) ∧
    (∀ x, (∀ p ∈ ks, x < p.2.1 ∨ p.2.1 + p.2.2 ≤ x) → (x < dkey + 10 ∨ dkey + 16 ≤ x) → (applyCommit s (.l3 dma own) dkey next att data ks).byte x = s.byte x) := by
  obtain ⟨hdesc, htile⟩ := List.pairwise_cons.1 hapart
  obtain ⟨hcaches, hkeep, hin, hout⟩ := writePlaces_puts (v := data) hks htile
  have hver := engPut_held 0 own dkey 12 next (HeldL3.sub (a := dma + 12) (n := 4) (hkeep _ _ hheld) (by omega) (by omega) (by omega))
  have hatt := engPut_held 0 own dkey 10 (att % 65536) (HeldL3.sub (a := dma + 10) (n := 2) (hver.held _ _ (hkeep _ _ hheld)) (by omega) (by omega) (by omega))
  refine ⟨(hcaches.trans hver.caches).trans hatt.caches, ?_, ?_, fun pre p post hsplit i hi => ?_, fun x hx hd => ?_⟩
  · exact (hatt.get_out (by omega)).trans (hver.get_in.trans (Nat.mod_eq_of_lt hnext))
  · exact hatt.get_in.trans (Nat.mod_eq_of_lt (Nat.mod_lt _ (by decide)))
  · have hp : ApartKeys (dkey, 16) p.2 := hdesc _ (List.mem_map_of_mem (by rw [hsplit]; simp))
    unfold ApartKeys at hp
    dsimp only at hp
    exact (hatt.byte_out (by omega)).trans ((hver.byte_out (by omega)).trans (hin pre p post hsplit i hi))
  · exact (hatt.byte_out (by omega)).trans ((hver.byte_out (by omega)).trans (hout x hx))

end Sys2Proof.Machine
end

section
/-! The threads when an operation ends (R31, R224). -/
namespace Sys2Proof.Machine
open Sys2Proof

/-- A value that a table gives and that its default is not stands in it. -/
theorem tabGet_test {α : Type} {d : α} {p : α → Bool} (hd : p d = false) {l : Tab α} {n : Nat} (h : p (tabGet d l n) = true) : ∃ c ∈ l, c.1 = n ∧ p c.2 = true := by
  induction l with
  | nil => rw [tabGet, hd] at h; cases h
  | cons c r ih =>
    rw [tabGet] at h
    split at h
    · next hc => exact ⟨c, List.mem_cons_self, hc, h⟩
    · obtain ⟨c', hmem, hc'⟩ := ih h
      exact ⟨c', List.mem_cons_of_mem c hmem, hc'⟩

/-- Which keys have an entry that passes a test, when a value is put that passes it where the one it replaces does. -/
theorem mem_tabSet_test {α : Type} {d v : α} {p : α → Bool} {n : Nat} (hd : p d = false) (l : Tab α) (hv : p v = p (tabGet d l n)) (k : Nat) :
    (∃ c ∈ tabSet n v l, c.1 = k ∧ p c.2 = true) ↔ ∃ c ∈ l, c.1 = k ∧ p c.2 = true := by
  induction l with
  | nil => simp [tabSet, hv, tabGet, hd]
  | cons c r ih =>
    by_cases hlt : n < c.1
    · have hput : tabSet n v (c :: r) = (n, v) :: c :: r := if_pos hlt
      rw [hput, List.exists_mem_cons_iff, or_iff_right_of_imp]
      rintro ⟨rfl, hp⟩
      exact tabGet_test hd (hv.symm.trans hp)
    · by_cases hc : c.1 = n
      · have hput : tabSet n v (c :: r) = (n, v) :: r := (if_neg hlt).trans (if_pos hc.symm)
        rw [tabGet, if_pos hc] at hv
        rw [hput, List.exists_mem_cons_iff, List.exists_mem_cons_iff, hc, hv]
      · have hput : tabSet n v (c :: r) = c :: tabSet n v r := (if_neg hlt).trans (if_neg (Ne.symm hc))
        rw [tabGet, if_neg hc] at hv
        rw [hput, List.exists_mem_cons_iff, List.exists_mem_cons_iff, ih hv]

theorem mem_holders (s : State) (k : Nat) :
    k ∈ s.holders ↔ (k = s.cur ∧ s.thr.rcd.isSome = true) ∨ k ≠ s.cur ∧ ∃ c ∈ s.rest, c.1 = k ∧ c.2.rcd.isSome = true := by
  simp only [State.holders, List.mem_append, List.mem_map, List.mem_filter, Bool.and_eq_true, bne_iff_ne]
  refine or_congr ?_ ⟨?_, ?_⟩
  · split <;> simp [*]
  · rintro ⟨c, ⟨hmem, hsome, hne⟩, rfl⟩
    exact ⟨hne, c, hmem, rfl, hsome⟩
  · rintro ⟨hne, c, hmem, rfl, hsome⟩
    exact ⟨c, ⟨hmem, hsome, hne⟩, rfl⟩

/-- A thread that changes, but not in whether it holds a record, leaves the holders the same. -/
theorem mem_holders_setT {s : State} {n : Nat} {t : Thread} (h : t.rcd.isSome = (s.getT n).rcd.isSome) (k : Nat) : k ∈ (s.setT n t).holders ↔ k ∈ s.holders := by
  rw [mem_holders, mem_holders]
  by_cases hn : n = s.cur
  · rw [State.setT, if_pos hn, ← hn]
    rw [hn, State.getT_cur] at h
    dsimp only
    rw [h]
  · rw [State.setT, if_neg hn]
    rw [State.getT, if_neg hn] at h
    exact or_congr Iff.rfl (and_congr Iff.rfl (mem_tabSet_test (p := fun t : Thread => t.rcd.isSome) rfl s.rest h k))

/-- The thread that an operation of record `rid` finds is the one that holds it. -/
theorem find_holder {s : State} {rid n : Nat} (h : ∀ k, (k ∈ s.holders ∧ thRid (s.getT k) = rid) ↔ k = n) : s.holders.find? (fun k => thRid (s.getT k) == rid) = some n := by
  obtain ⟨hmem, hrid⟩ := (h n).2 rfl
  cases hf : s.holders.find? (fun k => thRid (s.getT k) == rid) with
  | none => exact absurd hrid (by simpa using List.find?_eq_none.1 hf n hmem)
  | some k => exact congrArg some ((h k).1 ⟨List.mem_of_find?_eq_some hf, beq_iff_eq.1 (List.find?_some (p := fun k => thRid (s.getT k) == rid) hf)⟩)

/-- Memory and the scheduler are the same; each thread has its handles and holds what it held. -/
structure Holds (s t : State) : Prop where
  mem : t.mem = s.mem
  sch : t.sch = s.sch
  rid : ∀ k, thRid (t.getT k) = thRid (s.getT k)
  holders : ∀ k, k ∈ t.holders ↔ k ∈ s.holders
  handles : ∀ k, (t.getT k).r.h = (s.getT k).r.h

theorem Holds.refl (s : State) : Holds s s := ⟨rfl, rfl, fun _ => rfl, fun _ => .rfl, fun _ => rfl⟩
theorem Holds.setT {s : State} {n : Nat} {t : Thread} (hrcd : t.rcd = (s.getT n).rcd) (hh : t.r.h = (s.getT n).r.h) : Holds s (s.setT n t) where
  mem := by unfold State.setT; split <;> rfl
  sch := State.setT_sch s n t
  rid := fun k => by
    by_cases hk : k = n
    · rw [hk, State.getT_setT_self, thRid, thRid, hrcd]
    · rw [State.getT_setT_ne s t hk]
  holders := mem_holders_setT (congrArg Option.isSome hrcd)
  handles := fun k => by
    by_cases hk : k = n
    · rw [hk, State.getT_setT_self, hh]
    · rw [State.getT_setT_ne s t hk]

theorem setS_h (r : Regs) (d : BitVec 5) (x : Word) : (r.setS d x).h = r.h := by unfold Regs.setS; split <;> rfl

theorem freeScalar_holds (s : State) (o : Op) (d : BitVec 5) (v : Option Word) (owed : Option Cond) : Holds s (freeScalar s o d v owed) := by
  unfold freeScalar
  split
  · exact .refl s
  · dsimp only
    split
    · exact .refl s
    · exact .setT rfl (by cases v with | none => rfl | some x => exact setS_h _ d x)

/-- The scalar has its value, and its interlock is gone. -/
theorem freeScalar_scalar {s : State} {o : Op} {d : BitVec 5} {x : Word} {owed : Option Cond} {n : Nat} (hd : d ≠ 0)
    (hn : s.holders.find? (fun n => thRid (s.getT n) == o.rcd) = some n) (hlock : (d, o.id) ∈ (s.getT n).i.ilock) :
    ((freeScalar s o d (some x) owed).getT n).r.getS d = x ∧ ∀ y, (d, y) ∉ ((freeScalar s o d (some x) owed).getT n).i.ilock := by
  have hcont : (s.getT n).i.ilock.contains (d, o.id) = true := List.contains_iff_mem.2 hlock
  unfold freeScalar
  simp only [hn, hcont, Bool.not_true, Bool.false_eq_true, if_false, State.getT_setT_self]
  refine ⟨by rw [Regs.getS_setS, if_pos ⟨rfl, hd⟩], fun y hy => ?_⟩
  simpa using (List.mem_filter.1 hy).2

/-- The thread whose operation `op` has the outcome `x`. -/
def finishedOp (op : Nat) (x : Handle) (t : Thread) : Thread :=
  let hit : Bool := match t.i.blocked with
    | some (.handle h) => decide (t.r.getH h = .pending op)
    | _ => false
  { t with r := { t.r with h := fillHandle op x t.r.h }, i := { t.i with blocked := if hit then none else t.i.blocked } }

theorem completeHandle_holder {s : State} {rid n : Nat} (op : Nat) (x : Handle) (h : s.holders.find? (fun k => thRid (s.getT k) == rid) = some n) :
    completeHandle s op rid x = s.setT n (finishedOp op x (s.getT n)) := by
  unfold completeHandle
  rw [h]
  rfl

theorem fillHandle_get {op : Nat} {x : Handle} {hs : Vector Handle 16} {h : Fin 16} (hp : hs.get h = .pending op) : (fillHandle op x hs).get h = x := by
  have hp' : hs[h.val] = .pending op := hp
  show (fillHandle op x hs)[h.val] = x
  simp [fillHandle, hp']

theorem putTokens_cachesOnly (s : State) (r : Rec) (op : Nat) : CachesOnly s (putTokens s r op) := by
  refine .foldl (fun t i => ?_) _ s
  split
  · next y hy =>
    have hfree : CachesOnly y { y with free := t.free + 1 } := rfl
    exact (vmWrite_cachesOnly hy).trans hfree
  · exact .refl t

/-- A record that is woken is queued at most; it keeps its number and its handles. -/
theorem wakeRecord_schedules (s : State) (r : Rec) : Schedules s (wakeRecord s r).2 ∧ (wakeRecord s r).1.id = r.id ∧ (wakeRecord s r).1.handles = r.handles ∧
    (wakeRecord s r).1.owed = r.owed := by
  unfold wakeRecord
  split
  · split
    · exact ⟨.after s _ _, rfl, rfl, rfl⟩
    · refine ⟨?_, rfl, rfl, rfl⟩
      unfold enqueue
      split
      · exact .after s _ _
      · exact (Schedules.after s _ _).trans (.after _ _ _)
  · exact ⟨.refl s, rfl, rfl, rfl⟩

theorem modRec_recs (s : State) (id : Nat) (f : Rec → Rec) : (s.modRec id f).sch.recs = s.sch.recs.map (fun r => if r.id = id then f r else r) := rfl

/-- The outcome of an operation whose record no thread holds stands in the record's handles. -/
theorem completeHandle_rest {s : State} {op rid : Nat} {x : Handle} {r : Rec} (hno : s.holders.find? (fun k => thRid (s.getT k) == rid) = none)
    (hr : s.sch.recs.find? (fun r => r.id == rid) = some r) :
    ∃ y ∈ (completeHandle s op rid x).sch.recs, y.id = r.id ∧ y.handles = fillHandle op x r.handles ∧ y.owed = r.owed := by
  have hrid : r.id = rid := beq_iff_eq.1 (List.find?_some (p := fun r : Rec => r.id == rid) hr)
  have hmem := List.mem_of_find?_eq_some hr
  unfold completeHandle
  simp only [hno, hr]
  obtain ⟨hs, hid, hh, ho⟩ := wakeRecord_schedules (putTokens s r op) (r.change (fun y => { y with handles := fillHandle op x y.handles }))
  refine ⟨_, ?_, hid, hh, ho⟩
  rw [modRec_recs, hs.sch, (putTokens_cachesOnly s r op).sch]
  exact List.mem_map.2 ⟨r, hmem, if_pos hrid⟩

/-- Which operations are in flight, and the scalars and interlocks of every thread, do not depend on an outcome. -/
theorem completeHandle_keeps (s : State) (op rid : Nat) (x : Handle) : (completeHandle s op rid x).sch.ops = s.sch.ops ∧
    ∀ k, (∀ d, ((completeHandle s op rid x).getT k).r.getS d = (s.getT k).r.getS d) ∧ ((completeHandle s op rid x).getT k).i.ilock = (s.getT k).i.ilock := by
  cases hf : s.holders.find? (fun k => thRid (s.getT k) == rid) with
  | some n =>
    rw [completeHandle_holder op x hf]
    refine ⟨congrArg Sched.ops (State.setT_sch s n _), fun k => ?_⟩
    by_cases hk : k = n
    · rw [hk, State.getT_setT_self]
      exact ⟨fun _ => rfl, rfl⟩
    · rw [State.getT_setT_ne s _ hk]
      exact ⟨fun _ => rfl, rfl⟩
  | none =>
    unfold completeHandle
    rw [hf]
    dsimp only
    split
    · exact ⟨rfl, fun _ => ⟨fun _ => rfl, rfl⟩⟩
    · next r hr =>
      obtain ⟨hs, -⟩ := wakeRecord_schedules (putTokens s r op) (r.change (fun y => { y with handles := fillHandle op x y.handles }))
      have hc := putTokens_cachesOnly s r op
      refine ⟨(congrArg Sched.ops hs.sch).trans (congrArg Sched.ops hc.sch), fun k => ?_⟩
      have hk := (hs.getT k).trans (hc.getT k)
      exact ⟨fun d => congrArg (fun t : Thread => t.r.getS d) hk, congrArg (fun t : Thread => t.i.ilock) hk⟩

/-- A thread that waits in a queue no more. -/
def unqueued (t : Thread) : Thread := if t.i.blocked = some .queue then { t with i := { t.i with blocked := none } } else t

theorem unqueued_keeps (t : Thread) : (unqueued t).r = t.r ∧ (unqueued t).i.ilock = t.i.ilock := by
  unfold unqueued
  split <;> exact ⟨rfl, rfl⟩

theorem tabGet_map {α : Type} {d : α} {f : α → α} (hd : f d = d) (l : Tab α) (k : Nat) : tabGet d (l.map (fun c => (c.1, f c.2))) k = f (tabGet d l k) := by
  induction l with
  | nil => exact hd.symm
  | cons c r ih =>
    rw [List.map_cons, tabGet, tabGet, ih]
    split <;> rfl

theorem wakeQueue_getT (s : State) (k : Nat) : (wakeQueue s).getT k = unqueued (s.getT k) := by
  have hcur : (wakeQueue s).cur = s.cur := rfl
  by_cases hk : k = s.cur
  · rw [State.getT, State.getT, hcur, if_pos hk, if_pos hk]
    rfl
  · rw [State.getT, State.getT, hcur, if_neg hk, if_neg hk]
    exact tabGet_map (f := unqueued) rfl s.rest k

theorem findOp_dropOp (s : State) (id : Nat) : (s.dropOp id).findOp id = none :=
  List.find?_eq_none.2 fun o ho => by simpa using (List.mem_filter.1 ho).2

theorem acquireFor_cachesOnly (s : State) (o : Op) : CachesOnly s (acquireFor s o) ∧ (acquireFor s o).mem.cells = s.mem.cells := by
  unfold acquireFor
  split
  · next n _ =>
    refine ⟨acquire_cachesOnly s n o.scope, ?_⟩
    unfold acquire
    split <;> rfl
  · exact ⟨.refl s, rfl⟩

theorem CachesOnly.holders {s t : State} (h : CachesOnly s t) : t.holders = s.holders := by rw [State.holders, State.holders, h.thr, h.rest, h.cur]

theorem afterOp_schedules (s : State) (o : Op) : Schedules s (afterOp s o) := (Schedules.after s _ _).trans (.after _ _ _)

/-- A versioned read ends: the operation is gone, with an acquire if it has its bytes; then its scalar and its handle have their outcome. -/
theorem endRead_eq (s : State) (o : Op) (d : BitVec 5) (v : Option Word) (c : Option Cond) (owed : Bool) :
    ∃ s0, CachesOnly (s.dropOp o.id) s0 ∧ s0.mem.cells = s.mem.cells ∧ endRead s o d v c owed =
      wakeQueue (afterOp (completeHandle (freeScalar s0 o d v (if owed then c else none)) o.id o.rcd (.done (v.getD 0) c (some o.scope) false)) o) := by
  obtain ⟨hc, hcells⟩ := acquireFor_cachesOnly (s.dropOp o.id) o
  cases v with
  | none => exact ⟨s.dropOp o.id, .refl _, rfl, rfl⟩
  | some x => exact ⟨_, hc, hcells, rfl⟩

section
variable {s s0 : State} {o : Op} {d : BitVec 5} {v : Option Word} {c : Option Cond} {owed : Bool}

theorem endRead_ends : OpEnds s (endRead s o d v c owed) o.id o.rcd (.done (v.getD 0) c (some o.scope) false) := by
  obtain ⟨s0, hc, -, heq⟩ := endRead_eq s o d v c owed
  rw [heq]
  have hfree := freeScalar_holds s0 o d v (if owed then c else none)
  generalize freeScalar s0 o d v (if owed then c else none) = s1 at hfree ⊢
  obtain ⟨hops, -⟩ := completeHandle_keeps s1 o.id o.rcd (.done (v.getD 0) c (some o.scope) false)
  have hget (k : Nat) : (s1.getT k).r.h = (s.getT k).r.h := (hfree.handles k).trans (congrArg (fun t : Thread => t.r.h) (hc.getT k))
  refine ⟨?_, fun n h huniq hpend => ?_⟩
  · have hsch : (wakeQueue (afterOp (completeHandle s1 o.id o.rcd (.done (v.getD 0) c (some o.scope) false)) o)).sch.ops = (s.dropOp o.id).sch.ops :=
      (congrArg Sched.ops (afterOp_schedules _ o).sch).trans (hops.trans (congrArg Sched.ops (hfree.sch.trans hc.sch)))
    exact (findOp_of_ops hsch o.id).trans (findOp_dropOp s o.id)
  · have hfound : s1.holders.find? (fun k => thRid (s1.getT k) == o.rcd) = some n := find_holder fun k => by
      rw [hfree.holders, hfree.rid, hc.holders, hc.getT]
      exact huniq k
    rw [wakeQueue_getT, (unqueued_keeps _).1, (afterOp_schedules _ o).getT, completeHandle_holder _ _ hfound, State.getT_setT_self]
    exact fillHandle_get ((congrArg (fun x : Vector Handle 16 => x.get ⟨h.toNat, h.isLt⟩) (hget n)).trans hpend)

/-- The end of a read that a thread waits for changes no byte. -/
theorem endRead_mem (hsome : s.holders.any (fun n => thRid (s.getT n) == o.rcd) = true) :
    (endRead s o d v c owed).mem.cells = s.mem.cells ∧ (endRead s o d v c owed).mem.empty = s.mem.empty := by
  obtain ⟨s0, hc, hcells, heq⟩ := endRead_eq s o d v c owed
  rw [heq]
  have hfree := freeScalar_holds s0 o d v (if owed then c else none)
  generalize freeScalar s0 o d v (if owed then c else none) = s1 at hfree ⊢
  obtain ⟨n, hn, hrid⟩ := List.any_eq_true.1 hsome
  have hsome1 : (s1.holders.find? (fun k => thRid (s1.getT k) == o.rcd)).isSome = true := by
    rw [List.find?_isSome]
    refine ⟨n, (hfree.holders n).2 (hc.holders.symm ▸ hn), ?_⟩
    rw [hfree.rid, hc.getT]
    exact hrid
  obtain ⟨k, hk⟩ := Option.isSome_iff_exists.1 hsome1
  rw [wakeQueue_mem, completeHandle_holder _ _ hk]
  have hmem : (afterOp (s1.setT k (finishedOp o.id (.done (v.getD 0) c (some o.scope) false) (s1.getT k))) o).mem = s0.mem := by
    refine Eq.trans ?_ hfree.mem
    unfold State.setT
    split <;> rfl
  rw [hmem]
  exact ⟨hcells, hc.empty⟩

theorem endRead_scalar {x : Word} {n : Nat} (hd : d ≠ 0) (hn : s.holders.find? (fun n => thRid (s.getT n) == o.rcd) = some n) (hlock : (d, o.id) ∈ (s.getT n).i.ilock) :
    ((endRead s o d (some x) c owed).getT n).r.getS d = x ∧ ∀ y, (d, y) ∉ ((endRead s o d (some x) c owed).getT n).i.ilock := by
  obtain ⟨s0, hc, -, heq⟩ := endRead_eq s o d (some x) c owed
  rw [heq]
  have hn0 : s0.holders.find? (fun n => thRid (s0.getT n) == o.rcd) = some n := by
    rw [hc.holders, funext hc.getT]
    exact hn
  have hlock0 : (d, o.id) ∈ (s0.getT n).i.ilock := by rw [hc.getT]; exact hlock
  obtain ⟨hval, hgone⟩ := freeScalar_scalar (x := x) (owed := if owed then c else none) hd hn0 hlock0
  generalize freeScalar s0 o d (some x) (if owed then c else none) = s1 at hval hgone ⊢
  obtain ⟨-, hkeep⟩ := completeHandle_keeps s1 o.id o.rcd (.done ((some x).getD 0) c (some o.scope) false)
  obtain ⟨hregs, hlocks⟩ := hkeep n
  rw [wakeQueue_getT, (unqueued_keeps _).1, (unqueued_keeps _).2, (afterOp_schedules _ o).getT, hregs, hlocks]
  exact ⟨hval, hgone⟩
end

end Sys2Proof.Machine
end

section
/-! The filters of cancels (R38, R67, R103). -/
namespace Sys2Proof.Machine
open Sys2Proof

/-- Every filter that was entered is there still. -/
def KeepsFilters (s t : State) : Prop := t.sch.filters = s.sch.filters

namespace KeepsFilters
variable {s t u : State}
theorem refl (s : State) : KeepsFilters s s := rfl
theorem trans (h : KeepsFilters s t) (k : KeepsFilters t u) : KeepsFilters s u := Eq.trans k h
theorem of_sch (h : t.sch = s.sch) : KeepsFilters s t := congrArg Sched.filters h
theorem of_schedules (h : Schedules s t) : KeepsFilters s t := .of_sch h.sch
theorem after (s : State) (n : Nat) (e : Event) : KeepsFilters s (s.after n e) := rfl
theorem foldl {α : Type} {f : State → α → State} (hf : ∀ s a, KeepsFilters s (f s a)) (l : List α) (s : State) : KeepsFilters s (l.foldl f s) := by
  induction l generalizing s with
  | nil => exact refl s
  | cons a r ih => exact (hf s a).trans (ih (f s a))
end KeepsFilters

theorem lessAlive_keepsFilters (s : State) (num task : Nat) (backup : Bool) : KeepsFilters s (lessAlive s num task backup) := rfl
theorem addReg_keepsFilters (s : State) (off : Nat) (d : Int) : KeepsFilters s (addReg s off d) := rfl
theorem recordEnds_keepsFilters (s : State) (r : Rec) : KeepsFilters s (recordEnds s r) := by
  unfold recordEnds
  split
  · exact .refl s
  · next l _ =>
    dsimp only
    refine KeepsFilters.trans ?_ ((KeepsFilters.foldl (fun t d => .after t _ _) _ _).trans (.after _ _ _))
    have hframes : KeepsFilters s (s.modLaunch l.num (fun l => { l with frames := l.frames.erase (l.frameIdx r.w.frame) })) := rfl
    split <;> split
    · exact hframes.trans (addReg_keepsFilters _ _ _)
    · exact (hframes.trans (lessAlive_keepsFilters _ _ _ _)).trans (addReg_keepsFilters _ _ _)
    · exact hframes
    · exact hframes.trans (lessAlive_keepsFilters _ _ _ _)
theorem dropReplies_keepsFilters (s : State) : KeepsFilters s (dropReplies s) := by
  have hsent : KeepsFilters s (s.thr.i.replies.foldl performSent s) := .foldl (fun t r => .of_sch (performSent_performs t r).sch) _ s
  exact hsent
theorem dropHeld_keepsFilters (s : State) : KeepsFilters s (dropHeld s) := by
  unfold dropHeld
  split
  · exact .refl s
  · next r _ =>
    have hdrain : KeepsFilters s (drainAll s (thCore s.cur)) := .of_sch (drainAll_moves s _).sch
    have hends := (hdrain.trans (dropReplies_keepsFilters _)).trans (recordEnds_keepsFilters _ r)
    exact hends.trans (.of_sch (freeThread_sch _ _))
theorem cancelFrames_schedules (launch task : Nat) (fs : List Nat) (s : State) : Schedules s (cancelFrames launch task fs s) := by
  unfold cancelFrames
  refine .foldl (fun t f => ?_) _ s
  split
  · exact .refl t
  · exact .after t _ _
theorem stopHere_keepsFilters (s : State) : KeepsFilters s (stopHere s) := by
  unfold stopHere
  split
  · exact .refl s
  · refine KeepsFilters.trans ?_ (dropHeld_keepsFilters _)
    split
    · exact .of_schedules (cancelFrames_schedules _ _ _ s)
    · exact .refl s
theorem quitJob_keepsFilters (s : State) (clu : Nat) : KeepsFilters s (quitJob s clu) := by
  unfold quitJob
  dsimp only
  split
  · exact .refl s
  · next j r _ =>
    have hretry (x : State) : KeepsFilters x (retryCmds x clu) := by unfold retryCmds; split <;> rfl
    have heff (x : State) (n : Nat) (e : Event) : KeepsFilters x (x.afterEff clu n e) := rfl
    have hset : KeepsFilters s (s.setClu clu { s.clu clu with jobs := r, running := false, due := 0, sent := false, rcvd := false }) := rfl
    generalize s.setClu clu { s.clu clu with jobs := r, running := false, due := 0, sent := false, rcvd := false } = s1 at hset ⊢
    have hop : KeepsFilters s1 (match s1.findOp j.op with | some o => afterOp (s1.dropOp j.op) o | none => s1) := by
      split
      · exact .of_schedules (s := s1.dropOp j.op) (afterOp_schedules _ _)
      · exact .refl s1
    have hall := (hset.trans hop).trans (hretry _)
    split
    · exact hall.trans (heff _ _ _)
    · exact hall.trans (heff _ _ _)
theorem quitRots_keepsFilters (rids : List Nat) (s : State) : KeepsFilters s (quitRots rids s) := by
  unfold quitRots
  refine .foldl (fun t clu => ?_) _ s
  split
  · split
    · exact quitJob_keepsFilters t clu
    · exact .refl t
  · exact .refl t
theorem focus_sch (s : State) (n : Nat) : (s.focus n).sch = s.sch := by unfold State.focus; split <;> rfl
theorem stopThread_keepsFilters (s : State) (n : Nat) : KeepsFilters s (stopThread s n) := by
  unfold stopThread
  dsimp only
  split
  · exact .refl s
  · split
    · exact .of_sch (State.setT_sch s n _)
    · unfold asThread
      exact (((quitRots_keepsFilters _ s).trans (.of_sch (focus_sch _ n))).trans (stopHere_keepsFilters _)).trans (.of_sch (focus_sch _ _))
theorem cancelRest_schedules (s : State) (die : Nat) (r : Rec) : Schedules s (cancelRest s die r) := by
  unfold cancelRest
  split
  · exact cancelFrames_schedules _ _ _ s
  · exact .refl s
theorem dropRest_keepsFilters (s : State) (r : Rec) : KeepsFilters s (dropRest s r) := by
  unfold dropRest
  dsimp only
  have hrest : KeepsFilters s (recordEnds ((cancelRest s (restDie r) r).dropRec r.id) r) :=
    have hdrop (x : State) : KeepsFilters x (x.dropRec r.id) := rfl
    ((KeepsFilters.of_schedules (cancelRest_schedules s (restDie r) r)).trans (hdrop _)).trans (recordEnds_keepsFilters _ r)
  split
  · exact hrest.trans (.of_schedules (opens_schedules _ _ _))
  · exact (hrest.trans (.of_schedules (opens_schedules _ _ _))).trans (.after _ _ _)
  · exact hrest

/-- A filter entered is there, and so are those that were. -/
theorem enterFilter_mem (s : State) (f g : Filter) (h : g = f ∨ g ∈ s.sch.filters) : g ∈ (enterFilter s f).sch.filters := by
  unfold enterFilter
  dsimp only
  have hin : g ∈ (if s.sch.filters.contains f then s else s.modSch (fun c => { c with filters := c.filters ++ [f] })).sch.filters := by
    split
    · next hc =>
      rcases h with rfl | h
      · exact List.contains_iff_mem.1 hc
      · exact h
    · rcases h with rfl | h
      · exact List.mem_append_right _ List.mem_cons_self
      · exact List.mem_append_left _ h
  generalize (if s.sch.filters.contains f then s else s.modSch (fun c => { c with filters := c.filters ++ [f] })) = s1 at hin ⊢
  have hdrop : KeepsFilters s1 ((s1.sch.recs.filter (fun r => placedOn f.die r && filterHits f f.die r)).foldl dropRest s1) := .foldl dropRest_keepsFilters _ s1
  generalize (s1.sch.recs.filter (fun r => placedOn f.die r && filterHits f f.die r)).foldl dropRest s1 = s2 at hdrop ⊢
  have hstop := hdrop.trans (KeepsFilters.foldl stopThread_keepsFilters (holdersOn s2 f.die (filterHits f f.die)) s2)
  exact (congrArg (g ∈ ·) hstop).mpr hin

/-- Filters entered one after the other are all there. -/
theorem enterFilters_mem {α : Type} (f : α → Filter) (l : List α) {s : State} {g : Filter} (h : g ∈ s.sch.filters ∨ ∃ a ∈ l, g = f a) :
    g ∈ (l.foldl (fun x a => enterFilter x (f a)) s).sch.filters := by
  induction l generalizing s with
  | nil => exact h.elim id fun ⟨a, ha, _⟩ => nomatch ha
  | cons a l ih =>
    refine ih ?_
    rcases h with h | ⟨b, hb, rfl⟩
    · exact .inl (enterFilter_mem s (f a) g (.inr h))
    · rcases List.mem_cons.1 hb with rfl | hb
      · exact .inl (enterFilter_mem s (f b) (f b) (.inl rfl))
      · exact .inr ⟨b, hb, rfl⟩

theorem cancelTask_mem (s : State) (num task exempt : Nat) {k : Nat} (hk : k < 8) :
    { die := k, launch := num, task := task, exempt := some exempt, tag := none } ∈ (cancelTask s num task exempt).sch.filters :=
  enterFilters_mem (fun d => ⟨d, num, task, some exempt, none⟩) (List.range 8) (.inr ⟨k, List.mem_range.2 hk, rfl⟩)

end Sys2Proof.Machine
end

section
/-! Commits, versioned reads and cancels at their homes (R38, R64 to R69, R454, R455). -/
namespace Sys2Proof.Machine
open Sys2Proof

/-! A commit's reply reaches its record (R65, R454). -/
section
variable {s : State} {id : Nat} {o : Op} {launch task att : Nat} {base : BitVec 32} {desc : Word} {dkey size data : Nat} {pc : Word} {a : CommitAns} {r : Rec}

theorem findRec_modRec {id : Nat} {f : Rec → Rec} (h : s.sch.recs.find? (fun r => r.id == id) = some r) (hf : ∀ x, (f x).id = x.id) :
    (s.modRec id f).sch.recs.find? (fun r => r.id == id) = some (f r) := by
  have hrid : r.id = id := beq_iff_eq.1 (List.find?_some (p := fun r : Rec => r.id == id) h)
  have hcomp : ((fun x : Rec => x.id == id) ∘ fun r => if r.id = id then f r else r) = fun r => r.id == id := by
    funext x
    dsimp only [Function.comp]
    split
    · rw [hf]
    · rfl
  rw [modRec_recs, List.find?_map, hcomp, h, Option.map_some, if_pos hrid]

theorem find_no_holder {rid : Nat} (h : ∀ n ∈ s.holders, thRid (s.getT n) ≠ rid) : s.holders.find? (fun k => thRid (s.getT k) == rid) = none :=
  List.find?_eq_none.2 fun n hn => by simpa using h n hn

variable (hop : s.findOp id = some o) (hk : o.k = .commit launch task att base desc dkey size data pc (some a)) (hhears : hearsKey s dkey = .go)
  (hno : ∀ n ∈ s.holders, thRid (s.getT n) ≠ o.rcd) (hr : s.sch.recs.find? (fun x => x.id == o.rcd) = some r)

/-- What the reply does with an answer. -/
def commitReplied (s : State) (id : Nat) (o : Op) (pc : Word) : CommitAns → State
  | .won => afterOp (wonRecord (s.dropOp id) o) o
  | .lost => afterOp (match s.sch.recs.find? (fun r => r.id == o.rcd) with | some r => dropRest (s.dropOp id) r | none => s.dropOp id) o
  | .err c => commitErr s o c pc

include hop hk hhears in
theorem execCommitReply_eq : exec (.commitReply id) s = .next (commitReplied s id o pc a) := by
  rw [exec_commitReply]
  unfold execCommitReply
  simp only [hop, hk, hhears]
  cases a <;> rfl

include hno hr in
theorem wonRecord_done {h : Fin 16} (hpend : r.handles.get h = .pending o.id) :
    ∃ x ∈ (wonRecord (s.dropOp id) o).sch.recs, x.id = r.id ∧ x.handles.get h = .done 1 none (some o.scope) true := by
  have hfound : (s.dropOp id).sch.recs.find? (fun r => r.id == o.rcd) = some r := hr
  have hsample := (addSample_endKeeps 0 (s.dropOp id) r.die r).recs
  unfold wonRecord
  rw [hfound]
  dsimp only
  obtain ⟨y, hy, hid, hh, -⟩ := completeHandle_rest (s := addSample (s.dropOp id) r.die r) (op := o.id) (x := .done 1 none (some o.scope) true) (find_no_holder hno)
    ((congrArg (List.find? _) hsample).trans hfound)
  exact ⟨y, hy, hid, by rw [hh]; exact fillHandle_get hpend⟩

theorem dropRest_gone (hrest : r.place = .rest) : ∀ x ∈ (dropRest s r).sch.recs, x.id ≠ r.id := by
  unfold dropRest
  simp only [hrest]
  rw [(recordEnds_endKeeps 0 _ r).recs]
  exact fun x hx => by simpa using (List.mem_filter.1 hx).2

include hno hr in
theorem commitErr_owed (c : Cond) {h : Fin 16} (hpend : r.handles.get h = .pending o.id) : ∃ x ∈ (commitErr s o c pc).sch.recs, x.id = r.id ∧
    x.handles.get h = .free ∧ x.owed = r.owed ++ [({ c with flags := c.flags ||| 2 }, pc)] := by
  unfold commitErr
  have hfound := findRec_modRec (s := s.dropOp o.id) (f := fun r => r.change (fun x => { x with owed := x.owed ++ [({ c with flags := c.flags ||| 2 }, pc)] })) hr fun _ => rfl
  obtain ⟨y, hy, hid, hh, ho⟩ := completeHandle_rest (op := o.id) (x := .free)
    (s := (s.dropOp o.id).modRec o.rcd (fun r => r.change (fun x => { x with owed := x.owed ++ [({ c with flags := c.flags ||| 2 }, pc)] }))) (find_no_holder hno) hfound
  exact ⟨y, hy, hid, by rw [hh]; exact fillHandle_get hpend, ho⟩
end

/-! Versioned reads (R69, R455). -/

theorem l2ReadGo_cachesOnly (die own n : Nat) (s : State) (a len : Nat) : CachesOnly s (l2ReadGo die own n s a len).2 := by
  induction n generalizing s a len with
  | zero => exact .refl s
  | succ n ih =>
    rw [l2ReadGo]
    split
    · exact .refl s
    · exact (l2Fill_cachesOnly s die own _).trans (ih _ _ _)
theorem readPlace_cachesOnly (s : State) (die : Nat) (rt : Route) (k n : Nat) : CachesOnly s (readPlace s die rt k n).2 := by
  unfold readPlace
  split
  · exact l2ReadGo_cachesOnly die _ _ s _ n
  · exact l3Touch_cachesOnly s _ _ n false
  · exact .refl s
theorem engRead_cachesOnly (die : Nat) (l : List (Route × Nat × Nat)) {s : State} {r : Nat × State} (h : engRead die l s = .ok r) : CachesOnly s r.2 := by
  induction l generalizing s r with
  | nil => cases h; exact .refl s
  | cons p l ih =>
    obtain ⟨rt, k, n⟩ := p
    rw [engRead] at h
    cases hbad : badPlace s die rt k n with
    | some u => rw [hbad] at h; cases h
    | none =>
    rw [hbad] at h
    obtain ⟨x, hx, h⟩ := chk_bind_ok.1 h
    cases h
    exact CachesOnly.trans (readPlace_cachesOnly s die rt k n) (ih (s := (readPlace s die rt k n).2) (r := x) hx)

section
variable {s : State} {id : Nat} {o : Op} {desc : Word} {dkey dma own : Nat} {ver : BitVec 32} {d : BitVec 5} {dst size since : Nat} {home : Bool}
  (hop : s.findOp id = some o) (hk : o.k = .tread desc dkey ver d dst size since home none)

include hop hk in
theorem treadWatchdog_ends (hhome : home = true) (hdue : since + 2 ^ 32 ≤ s.count) : Answers (.treadWatchdog id) s (fun t =>
    OpEnds s t id o.rcd (.done (BitVec.ofNat 64 (descVer (s.mem.get dkey 16))) (some (mkCond 0x33 desc.toNat)) (some o.scope) false)) := by
  subst hhome
  refine ⟨endRead s o d (some (BitVec.ofNat 64 (descVer (s.mem.get dkey 16)))) (some (mkCond 0x33 desc.toNat)) true, ?_, ?_⟩
  · have hlate : ¬ s.count < since + treadTime := Nat.not_lt.2 hdue
    rw [exec_treadWatchdog]
    unfold execTreadWatchdog
    simp only [hop, hk, hlate, if_false]
  · have hend := endRead_ends (s := s) (o := o) (d := d) (v := some (BitVec.ofNat 64 (descVer (s.mem.get dkey 16)))) (c := some (mkCond 0x33 desc.toNat)) (owed := true)
    rw [findOp_id hop] at hend
    exact hend

variable (hroute : descRoute s o.part desc dkey = .l3 dma own) (hheld : HeldL3 s dma 16) (hlost : keyLost s dkey = none) (hpois : s.mem.poisoned dkey 16 = false)
include hop hk hroute hheld hlost hpois

theorem treadAtHome_waits (hver : descVer (s.mem.get dkey 16) < ver.toNat) (hfirst : home = false) : Answers (.treadAtHome id) s (fun t =>
    DueIn s (2 ^ 32) (.treadWatchdog id) t ∧ ∃ y, t.findOp id = some y ∧ y.k = .tread desc dkey ver d dst size s.count true none) := by
  subst hfirst
  have hreach : reachKey s dkey 0 = .go := if_pos (keyDev_of_near hroute)
  have hspend : s.spend (keyDev s dkey) = s := if_pos (keyDev_of_near hroute)
  have hpoison : poisonAt s dkey 16 = none := if_neg (by rw [hpois]; decide)
  refine ⟨(s.modOp id (fun y => { y with k := .tread desc dkey ver d dst size s.count true none })).after treadTime (.treadWatchdog id), ?_, dueIn_after _ _ rfl,
    _, findOp_modOp hop fun _ => rfl, rfl⟩
  rw [exec_treadAtHome]
  unfold execTreadAtHome
  simp only [hop, hk, hreach, hlost, hpoison, hspend, readPlace_held 0 own dkey hheld, hroute, hver, if_true, if_false, Bool.false_eq_true]

theorem treadAtHome_delivers {ks : List (Route × Nat × Nat)} {x : Nat} {s2 : State} (hver : ver.toNat ≤ descVer (s.mem.get dkey 16))
    (hplaces : tilePlaces s o.part s.device desc.toNat (descBase (s.mem.get dkey 16)) false (tilePieces (descBase (s.mem.get dkey 16)) size) = .ok ks)
    (hread : engRead 0 ks s = .ok (x, s2)) : Answers (.treadAtHome id) s (fun t => DueIn s Config.commitTime (.treadReply id) t ∧
      ∃ y c, t.findOp id = some y ∧ y.k = .tread desc dkey ver d dst size c true (some (descVer (s.mem.get dkey 16), x))) := by
  have hdev := keyDev_of_near hroute
  have hreach : reachKey s dkey 0 = .go := if_pos hdev
  have hspend : (if home then s else s.spend s.device) = s := ite_eq_left_iff.2 fun _ => if_pos rfl
  have hpoison : poisonAt s dkey 16 = none := if_neg (by rw [hpois]; decide)
  have hcaches := engRead_cachesOnly 0 ks hread
  have hmark := touchRecord_beside s2 o.rcd (ks.map (fun y => y.2.1))
  have hfound := (findOp_of_ops (hmark.ops.trans (congrArg Sched.ops hcaches.sch)) id).trans hop
  let k' : OpKind := .tread desc dkey ver d dst size (if home then since else s.count) true (some (descVer (s.mem.get dkey 16), x))
  let t : State := (touchRecord s2 o.rcd (ks.map (fun y => y.2.1))).modOp id (fun y => { y with k := k' })
  have hclock : t.clock = s.clock := hmark.clock.trans hcaches.clock
  refine ⟨t.after Config.commitTime (.treadReply id), ?_, dueIn_after _ _ hclock, _, _, findOp_modOp hfound fun _ => rfl, rfl⟩
  rw [exec_treadAtHome]
  unfold execTreadAtHome
  simp only [hop, hk, hreach, hlost, hpoison, hspend, readPlace_held 0 own dkey hheld, hroute, hdev, Nat.not_lt.2 hver, if_false, hplaces, hread]
  rfl
end

theorem setFull_allFull (m : Mem) (k n : Nat) : (m.setFull k n).allFull k n = true := by
  rw [Mem.allFull, Bool.or_eq_true]
  right
  rw [Bool.not_eq_true', List.any_eq_false]
  exact fun w hw => Bool.not_eq_true _ ▸ Bool.not_eq_true' _ ▸ (List.mem_filter.1 hw).2

/-- The reply of a versioned read: its bytes, its scalar and its handle. -/
theorem treadReply_ends {s : State} {id : Nat} {o : Op} {desc : Word} {dkey : Nat} {ver : BitVec 32} {d : BitVec 5} {dst size since v bytes : Nat} {home : Bool}
    (hop : s.findOp id = some o) (hk : o.k = .tread desc dkey ver d dst size since home (some (v, bytes))) (hhears : hearsKey s dkey = .go) :
    Answers (.treadReply id) s (fun t =>
      OpEnds s t id o.rcd (.done (BitVec.ofNat 64 v) none (some o.scope) false) ∧
      (s.holders.any (fun n => thRid (s.getT n) == o.rcd) = true →
        (∀ i, i < size → t.byte (dst + i) = BitVec.ofNat 8 (bytes / 256 ^ i)) ∧ (∀ x, x < dst ∨ dst + size ≤ x → t.byte x = s.byte x) ∧
          t.mem.allFull dst size = true) ∧
      ∀ n, d ≠ 0 → s.holders.find? (fun k => thRid (s.getT k) == o.rcd) = some n → (d, id) ∈ (s.getT n).i.ilock →
        (t.getT n).r.getS d = BitVec.ofNat 64 v ∧ ∀ x, (d, x) ∉ (t.getT n).i.ilock) := by
  have hid := findOp_id hop
  refine ⟨endRead (putFull s dst size bytes) o d (some (BitVec.ofNat 64 v)) none false, ?_, ?_, fun hsome => ?_, fun n hd hn hlock => ?_⟩
  · rw [exec_treadReply]
    unfold execTreadReply
    simp only [hop, hk, hhears]
  · have hend := endRead_ends (s := putFull s dst size bytes) (o := o) (d := d) (v := some (BitVec.ofNat 64 v)) (c := none) (owed := false)
    rw [hid] at hend
    exact hend
  · obtain ⟨hcells, hempty⟩ := endRead_mem (s := putFull s dst size bytes) (o := o) (d := d) (v := some (BitVec.ofNat 64 v)) (c := none) (owed := false) hsome
    have hbyte (x : Nat) := congrArg (cellAt · x) hcells
    refine ⟨fun i hi => ?_, fun x hx => (hbyte x).trans (cellAt_cellsSet_ne _ _ _ _ _ hx), ?_⟩
    · refine (hbyte (dst + i)).trans ((cellAt_cellsSet _ _ _ _ _ (by omega) (by omega)).trans ?_)
      rw [Nat.add_sub_cancel_left]
    · exact (congrArg (fun e : List Nat => size == 0 || !e.any (fun w => decide (dst < w + 4 ∧ w < dst + size))) hempty).trans (setFull_allFull (s.mem.put dst size bytes) dst size)
  · exact endRead_scalar (s := putFull s dst size bytes) (c := none) (owed := false) hd hn (hid ▸ hlock)

section
variable {s : State} {id : Nat} {o : Op} {launch task att : Nat} {base : BitVec 32} {desc : Word} {dkey dma own size data : Nat} {pc : Word}
  {ks : List (Route × Nat × Nat)} (hop : s.findOp id = some o) (hk : o.k = .commit launch task att base desc dkey size data pc none)
  (hroute : descRoute s o.part desc dkey = .l3 dma own) (hheld : HeldL3 s dma 16) (hlost : keyLost s dkey = none) (hpois : s.mem.poisoned dkey 16 = false)
  (hok : descOk (s.mem.get dkey 16) = true) (hsize : descSize (s.mem.get dkey 16) = size)
  (hplaces : tilePlaces s o.part s.device desc.toNat (descBase (s.mem.get dkey 16)) true (tilePieces (descBase (s.mem.get dkey 16)) size) = .ok ks)
include hop hk hroute hheld hlost hpois hok hsize hplaces

/-- A commit on the descriptor's version wins. -/
theorem commitAtHome_wins (hks : HeldPlaces s ks) (hver : descVer (s.mem.get dkey 16) = base.toNat) (hapart : ((dkey, 16) :: ks.map (fun p => p.2)).Pairwise ApartKeys) :
    Answers (.commitAtHome id) s (fun t => (DueIn s Config.commitTime (.commitReply id) t ∧
        ∃ y, t.findOp id = some y ∧ y.k = .commit launch task att base desc dkey size data pc (some .won)) ∧
      t.mem.get (dkey + 12) 4 = (base.toNat + 1) % 2 ^ 32 ∧ t.mem.get (dkey + 10) 2 = att % 65536 ∧
      (∀ pre p post, ks = pre ++ p :: post → ∀ i, i < p.2.2 → t.byte (p.2.1 + i) = BitVec.ofNat 8 (data / 256 ^ ((pre.map (fun q => q.2.2)).sum + i))) ∧
      ∀ x, (∀ p ∈ ks, x < p.2.1 ∨ p.2.1 + p.2.2 ≤ x) → (x < dkey + 10 ∨ dkey + 16 ≤ x) → t.byte x = s.byte x) := by
  have hexec := execCommitAtHome_good hroute hheld hok hsize hplaces (id := id) (pc := pc) hop hk
  rw [homeCommit_good hroute hheld hlost hpois hok hsize hplaces launch task att base data, if_pos hver] at hexec
  have hnext : (base.toNat + 1) % 2 ^ 32 < 2 ^ 32 := Nat.mod_lt _ (Nat.two_pow_pos 32)
  generalize (base.toNat + 1) % 2 ^ 32 = next at hexec hnext ⊢
  obtain ⟨hcaches, hbytes⟩ := applyCommit_bytes (own := own) (next := next) (att := att) (data := data) hheld hks hapart hnext
  generalize applyCommit s (.l3 dma own) dkey next att data ks = t at hexec hcaches hbytes
  have hbeside := (((touchRecord_beside t o.rcd (ks.map (fun x => x.2.1))).trans (markTask_beside _ launch task (fun t => { t with won := true }))).trans
    (sendCancel_beside _ launch task att)).trans (retryReads_beside _ dkey)
  generalize retryReads _ dkey = u at hexec hbeside
  refine ⟨_, hexec, setAns_answered .won hop hk (hbeside.ops.trans (congrArg Sched.ops hcaches.sch)) (hbeside.clock.trans hcaches.clock), ?_⟩
  have hmem : ((setAns u id .won).after Config.commitTime (.commitReply id)).mem = t.mem := hbeside.mem
  simp only [State.byte, hmem]
  exact hbytes

/-- A commit that has won already changes nothing. -/
theorem commitAtHome_won (hver : descVer (s.mem.get dkey 16) ≠ base.toNat) (hnext : descVer (s.mem.get dkey 16) = (base.toNat + 1) % 2 ^ 32)
    (hatt : descAtt (s.mem.get dkey 16) = att) : Answers (.commitAtHome id) s (fun t => (DueIn s Config.commitTime (.commitReply id) t ∧
        ∃ y, t.findOp id = some y ∧ y.k = .commit launch task att base desc dkey size data pc (some .won)) ∧ t.mem = s.mem) := by
  have hexec := execCommitAtHome_good hroute hheld hok hsize hplaces (id := id) (pc := pc) hop hk
  rw [homeCommit_good hroute hheld hlost hpois hok hsize hplaces launch task att base data, if_neg hver, if_pos ⟨hnext, hatt⟩] at hexec
  exact ⟨_, hexec, setAns_answered .won hop hk rfl rfl, rfl⟩

/-- A commit on another version loses. -/
theorem commitAtHome_loses (hver : descVer (s.mem.get dkey 16) ≠ base.toNat)
    (hother : descVer (s.mem.get dkey 16) ≠ (base.toNat + 1) % 2 ^ 32 ∨ descAtt (s.mem.get dkey 16) ≠ att) :
    Answers (.commitAtHome id) s (fun t => (DueIn s Config.commitTime (.commitReply id) t ∧
        ∃ y, t.findOp id = some y ∧ y.k = .commit launch task att base desc dkey size data pc (some .lost)) ∧ t.mem = s.mem) := by
  have hexec := execCommitAtHome_good hroute hheld hok hsize hplaces (id := id) (pc := pc) hop hk
  rw [homeCommit_good hroute hheld hlost hpois hok hsize hplaces launch task att base data, if_neg hver, if_neg fun h => hother.elim (· h.1) (· h.2)] at hexec
  have hbeside := (markTask_beside s launch task (fun t => { t with lost := true })).trans (sendCancel_beside _ launch task (descAtt (s.mem.get dkey 16)))
  exact ⟨_, hexec, setAns_answered .lost hop hk hbeside.ops hbeside.clock, hbeside.mem⟩
end

/-- Settles O54: each event of a home is its function of the model at the descriptor's version. -/
theorem homesAndCancels : Obligations.HomesAndCancels := by
  unfold Obligations.HomesAndCancels
  refine ⟨?_, ?_, ?_, ?_, ?_⟩
  · intro s id o launch task att base desc dkey dma own size data pc ks hop hk hmem hroute hheld hlost hpois hok hsize hplaces hks
    exact ⟨commitAtHome_wins hop hk hroute hheld hlost hpois hok hsize hplaces hks, commitAtHome_won hop hk hroute hheld hlost hpois hok hsize hplaces,
      commitAtHome_loses hop hk hroute hheld hlost hpois hok hsize hplaces⟩
  · intro s id o launch task att base desc dkey size data pc a r h hop hk hhears hno hr hrest hpend
    have hid := findOp_id hop
    have hexec := execCommitReply_eq hop hk hhears
    have hrecs (x : State) : (afterOp x o).sch.recs = x.sch.recs := congrArg Sched.recs (afterOp_schedules x o).sch
    refine ⟨?_, ?_, ?_⟩
    · rintro rfl
      refine ⟨_, hexec, ?_⟩
      rw [commitReplied]
      dsimp only
      rw [hrecs]
      exact wonRecord_done hno hr (hid ▸ hpend)
    · rintro rfl
      refine ⟨_, hexec, ?_⟩
      rw [commitReplied, hr]
      dsimp only
      rw [hrecs]
      exact dropRest_gone hrest
    · rintro c rfl
      exact ⟨_, hexec, commitErr_owed hno hr c (hid ▸ hpend)⟩
  · intro s id o desc dkey dma own ver d dst size since home hop hk hroute hheld v
    refine ⟨fun hlost hpois => ⟨treadAtHome_waits hop hk hroute hheld hlost hpois, fun ks x s2 => treadAtHome_delivers hop hk hroute hheld hlost hpois⟩,
      treadWatchdog_ends hop hk⟩
  · intro s id o desc dkey ver d dst size since v bytes home hop hk hhears
    exact treadReply_ends hop hk hhears
  · intro s die num task exempt tag hheld
    refine ⟨fun l hl => ⟨cancelTask (markTask s num task (fun t => if t.lost then t else { t with won := true })) num task exempt, ?_, fun k hk => cancelTask_mem _ num task exempt hk⟩,
      enterFilter s ⟨die, num, task, none, some tag⟩, ?_, enterFilter_mem s _ _ (.inl rfl)⟩
    · rw [exec_cancelDelivery]
      unfold execCancelDelivery
      simp only [hl, hheld, Bool.false_eq_true, if_false]
    · rw [exec_lineageCancel]
      unfold execLineageCancel
      simp only [hheld, Bool.false_eq_true, if_false]

end Sys2Proof.Machine
end

section
/-! A copy with a piece that has failed and a piece that awaits the answer of a home (R448). -/
namespace Sys2Proof.Machine
open Sys2Proof

/-- 16 bytes of a copy. -/
def copied16 (off : Nat) (st : PieceSt) : Piece := { off := off, row := 0, src := BitVec.ofNat 64 off, dst := .addr (BitVec.ofNat 64 (0x1000 + off)), len := 16, joined := false, st := st }

/-- The condition of the first piece. -/
def copyFault : Cond := mkCond 0x23 0

/-- The first piece has no translation, and the second is on its way to device 1. -/
def failedThenAway : Op :=
  { id := 0, th := 0, rcd := 0, clu := 0, scope := .clu, part := 0, spec := false, k := .copy [copied16 0 (.failed copyFault), copied16 16 (.away 1)] 32 false .handle }

def copyAwaitsHome : State := State.reset.modSch (fun c => { c with ops := [failedThenAway] })

theorem copyAwaitsHome_findOp : copyAwaitsHome.findOp 0 = some failedThenAway := rfl

/-- The copy is not over: its end looks at it and goes by. -/
theorem copyDone_copyAwaitsHome : exec (.copyDone 0) copyAwaitsHome = .next copyAwaitsHome := by
  have hopen : nextPiece [copied16 0 (.failed copyFault), copied16 16 (.away 1)] = some 1 := rfl
  rw [exec_copyDone]
  unfold execCopyDone
  rw [copyAwaitsHome_findOp]
  unfold failedThenAway
  simp only [hopen, Option.isSome_some, if_true]

/-- Refutes O52, in the clause on the end of a copy: it asks of the pieces behind the first failed one only that none is waiting. A piece that awaits the answer
of its home is not waiting, but the last piece has not ended: in `copyAwaitsHome` the operation goes on. -/
theorem not_copiesBarriersAndGangs : ¬ Obligations.CopiesBarriersAndGangs := by
  unfold Obligations.CopiesBarriersAndGangs
  rintro ⟨-, hend, -⟩
  obtain ⟨-, hfailed⟩ := hend copyAwaitsHome 0 failedThenAway _ 32 false copyAwaitsHome_findOp rfl
  obtain ⟨t, hstep, hgone, -⟩ := hfailed [] (copied16 0 (.failed copyFault)) [copied16 16 (.away 1)] copyFault rfl (by simp) rfl (by simp [copied16])
  rw [copyDone_copyAwaitsHome] at hstep
  cases hstep
  exact absurd (copyAwaitsHome_findOp.symm.trans hgone) (by simp)

end Sys2Proof.Machine
end

section
/-! Sequences of checks: the first that fails gives the outcome. -/
namespace Sys2Proof.Machine
open Sys2Proof

theorem chk_bind_val {α β : Type} {x : Chk α} {a : α} (h : x = .ok a) (f : α → Chk β) : (x >>= f) = f a := by rw [h]; rfl
theorem chk_bind_stop {α β : Type} {x : Chk α} {e : Stop} (h : x = .error e) (f : α → Chk β) : (x >>= f) = .error e := by rw [h]; rfl
theorem require_true {b : Bool} (h : b = true) (c d : Nat) : require b c d = .ok () := require_ok.2 h
theorem require_false {b : Bool} (h : b = false) (c d : Nat) : require b c d = raise c d := require_error.2 ⟨h, rfl⟩
theorem finish_stop {s : State} {x : Chk State} {c : Cond} (h : x = .error (.cond c none)) : finish s x = .next (takeCondition s c (faultPc s)) := by
  rw [h]; rfl
theorem finish_raises {s : State} {x : Chk State} {c d : Nat} (h : x = raise c d) : finish s x = raises s c d := finish_stop h
theorem finish_val {s t : State} {x : Chk State} (h : x = .ok t) : finish s x = .next t := by rw [h]; rfl

end Sys2Proof.Machine
end


section
/-! The checks of a scalar access, in the order of R284. -/
namespace Sys2Proof.Machine
open Sys2Proof

/-! The address and the access (R283, R286, R287). -/

theorem offLM_eq (z : Nat) (o : Imm 10) : offLM z o = lmOff z o := by
  cases o with
  | imm v => exact (congrArg (BitVec.ofInt 64 v.toInt * ·) (BitVec.ofInt_natCast 64 z).symm).trans (BitVec.ofInt_mul ..).symm
  | lit v => rfl
theorem offLR_eq (o : Option (BitVec 32)) : offLR o = lrOff o := by cases o <;> rfl
theorem eaLM_eq (s : State) (a : BitVec 5) (z : Nat) (o : Imm 10) : eaLM s a z o = s.getS a + lmOff z o := congrArg (s.getS a + ·) (offLM_eq z o)
theorem indexed_eq (s : State) (a b : BitVec 5) (sc : Bool) (z : Nat) (o : Option (BitVec 32)) :
    indexed s a b sc z o = s.getS a + (if sc then s.getS b * BitVec.ofNat 64 z else s.getS b) + lrOff o := congrArg (_ + ·) (offLR_eq o)

/-- A plain scalar access is one load or one store. -/
inductive IsAccess (s : State) (i : Instr) (a : Word) (z : Nat) : Need → Prop
  | load (d : BitVec 5) (sg : Bool) (h : exec i s = finish s (loadScalar s d a z sg false)) : IsAccess s i a z .load
  | store (d : BitVec 5) (h : exec i s = finish s (storeScalar s d a z)) : IsAccess s i a z .store

theorem isAccess_of {s : State} {i : Instr} {a : Word} {z : Nat} {need : Need} (h : scalarAccess s i = some (a, z, need)) : IsAccess s i a z need := by
  unfold scalarAccess at h
  split at h <;> cases h
  case h_1 d a o => exact .load d false (by rw [← eaLM_eq]; rfl)
  case h_2 d a o => exact .load d true (by rw [← eaLM_eq]; rfl)
  case h_3 d a o => exact .load d false (by rw [← eaLM_eq]; rfl)
  case h_4 d a o => exact .load d true (by rw [← eaLM_eq]; rfl)
  case h_5 d a o => exact .load d false (by rw [← eaLM_eq]; rfl)
  case h_6 d a o => exact .load d true (by rw [← eaLM_eq]; rfl)
  case h_7 d a o => exact .load d false (by rw [← eaLM_eq]; rfl)
  case h_8 d a o => exact .store d (by rw [← eaLM_eq]; rfl)
  case h_9 d a o => exact .store d (by rw [← eaLM_eq]; rfl)
  case h_10 d a o => exact .store d (by rw [← eaLM_eq]; rfl)
  case h_11 d a o => exact .store d (by rw [← eaLM_eq]; rfl)
  case h_12 d a b sc sz o => exact .load d sz.signed (by rw [← indexed_eq]; rfl)
  case h_13 d a b sc sz o => exact .store d (by rw [← indexed_eq]; rfl)

theorem scalarAccess_size {s : State} {i : Instr} {a : Word} {z : Nat} {need : Need} (h : scalarAccess s i = some (a, z, need)) :
    z = 1 ∨ z = 2 ∨ z = 4 ∨ z = 8 := by
  unfold scalarAccess at h
  split at h <;> cases h
  case h_12 sz _ => cases sz <;> decide
  case h_13 sz _ => cases sz <;> decide
  all_goals decide

/-- What stops the checks stops the access. -/
theorem IsAccess.stops {s : State} {i : Instr} {a : Word} {z : Nat} {need : Need} {e : Stop} (h : IsAccess s i a z need)
    (he : resolve s a.toNat (accLen s a.toNat z) z need = .error e) : exec i s = finish s (.error e) := by
  cases h with
  | load d sg h => rw [h]; exact congrArg (finish s) (chk_bind_stop he _)
  | store d h => rw [h]; exact congrArg (finish s) (chk_bind_stop he _)

/-! Places (R106, R113, R284). -/

theorem addrFmt_rawWin {s : State} {a : Nat} (h : addrWin a = 0) : addrFmt s a = none := by
  unfold addrFmt
  split
  · exact if_pos h
  · rfl
theorem accLen_rawWin {s : State} {a : Nat} (h : addrWin a = 0) (z : Nat) : accLen s a z = z := by
  unfold accLen
  rw [addrFmt_rawWin h]
theorem addrWin_global {a : Nat} (h : a / 2 ^ 56 = 0) : addrWin a = 0 := by
  unfold addrWin
  rw [if_neg (by omega), if_neg (by omega)]
theorem addrWin_own {a o : Nat} (h : a = 0xFF00000000000000 + o) (ho : o < 0x40000) : addrWin a = 0 := by
  unfold addrWin
  rw [if_pos (by omega)]
  omega

section
variable {s : State} {a n al : Nat} {need : Need}

theorem place_noKind (h0 : a / 2 ^ 56 ≠ 0) (h1 : a / 2 ^ 56 ≠ 0xFF) : place s a n al need = raise 0x20 a :=
  chk_bind_stop (require_false (Bool.or_eq_false_iff.2 ⟨beq_eq_false_iff_ne.2 h0, beq_eq_false_iff_ne.2 h1⟩) _ _) _

theorem place_near_stop {e : Stop} (h : a / 2 ^ 56 = 0xFF) (he : nearTgt s a n = .error e) : place s a n al need = .error e := by
  unfold place
  rw [chk_bind_val (require_true (by rw [h]; rfl) _ _), if_pos h]
  exact chk_bind_stop he _

/-- A near place that no window scales. -/
theorem place_near_raw {t : Tgt} (h : a / 2 ^ 56 = 0xFF) (hraw : addrWin a = 0) (ht : nearTgt s a n = .ok t) : place s a n al need = (do
    require (a % al == 0) 0x22 a
    return (s, t)) := by
  unfold place
  rw [chk_bind_val (require_true (by rw [h]; rfl) _ _), if_pos h, chk_bind_val ht, hraw, addrFmt_rawWin hraw]
  exact chk_bind_val rfl _

theorem place_global (h : a / 2 ^ 56 = 0) : place s a n al need = (do
    require (a % al == 0) 0x22 a
    let (s', fa, leaf) ← translate s (thClu s.cur) s.part a need
    reachable s fa n
    require (bellOk s fa n need) 0x2B a
    return (touchTgt s' (.glob fa leaf), .glob fa leaf)) := by
  unfold place
  rw [chk_bind_val (require_true (by rw [h]; rfl) _ _), if_neg (by omega)]

/-- A near region that there is not. -/
theorem nearTgt_noRegion (h : 3 ≤ a / 2 ^ 48 % 256) : nearTgt s a n = raise 0x21 a := by
  unfold nearTgt
  dsimp only
  rw [if_neg (by omega), if_neg (by omega), if_neg (by omega)]

theorem nearTgt_own {o : Nat} (h : a = 0xFF00000000000000 + o) (ho : o < 0x40000) :
    nearTgt s a n = if o + n ≤ s.limit then .ok (.ls (thCore s.cur) (s.base + o) 0 true) else raise 0x21 a := by
  have hreg : a / 2 ^ 48 % 256 = 0 := by omega
  have hoff : a % 2 ^ 48 % 0x40000 = o := by omega
  have hwin : a % 2 ^ 48 / 0x40000 = 0 := by omega
  unfold nearTgt
  dsimp only
  rw [if_pos hreg, hoff, hwin]
  simp

theorem limit_le (s : State) : s.limit ≤ 0x40000 := by
  unfold State.limit thLimit
  split <;> decide
end

/-- Settles O44: the access runs the checks of R284, and the first that fails gives its condition. -/
theorem accessConditions : Obligations.AccessConditions := by
  unfold Obligations.AccessConditions
  intro s i ea z need h
  have hacc := isAccess_of h
  have hz := scalarAccess_size h
  dsimp only
  generalize ha : ea.toNat = a
  have hstop {e : Stop} (hlen : place s a (accLen s a z) z need = .error e) : exec i s = finish s (.error e) := by
    subst ha
    exact hacc.stops (chk_bind_stop hlen _)
  have hcond {c d : Nat} (hlen : place s a (accLen s a z) z need = raise c d) : exec i s = raises s c d := hstop hlen
  refine ⟨fun h0 h1 => hcond (place_noKind h0 h1), fun hnear hreg => hcond ?_, fun o ho hlt hlim => hcond ?_, fun o ho hlim hmis => hcond ?_, fun hglob hmis => hcond ?_,
    fun hglob hal => ?_⟩
  · exact place_near_stop hnear (nearTgt_noRegion hreg)
  · rw [accLen_rawWin (addrWin_own ho hlt)]
    exact place_near_stop (by omega) ((nearTgt_own ho hlt).trans (if_neg (by omega)))
  · have hlt : o < 0x40000 := by have := limit_le s; omega
    have hmis' : (a % z == 0) = false := beq_eq_false_iff_ne.2 (by rcases hz with rfl | rfl | rfl | rfl <;> omega)
    have hraw := addrWin_own ho hlt
    rw [accLen_rawWin hraw, place_near_raw (by omega) hraw ((nearTgt_own ho hlt).trans (if_pos hlim))]
    exact chk_bind_stop (require_false hmis' _ _) _
  · rw [place_global hglob]
    exact chk_bind_stop (require_false (beq_eq_false_iff_ne.2 hmis) _ _) _
  · have hraw := addrWin_global hglob
    have halign : require (a % z == 0) 0x22 a = .ok () := require_true (beq_iff_eq.2 hal) _ _
    refine ⟨fun c hl => ?_, fun leaf bits hl => ?_⟩
    · refine hstop (e := .cond c none) ?_
      rw [place_global hglob, chk_bind_val halign]
      exact chk_bind_stop (by unfold translate; rw [hl]) _
    · generalize hfa : leafAddr leaf bits a = fa
      have htr : translate s (thClu s.cur) s.part a need =
          if !need.granted leaf then raise 0x24 a else if reservedMa (fa % 2 ^ 44) then raise 0x25 fa else .ok (tlbEnter s (thClu s.cur) s.part a leaf bits, fa, leaf) := by
        unfold translate
        rw [hl, ← hfa]
      refine ⟨fun hg => hcond ?_, fun hg hres => hcond ?_, fun hg hres hreach hbell hneed hspec => ?_⟩
      · rw [place_global hglob, chk_bind_val halign]
        exact chk_bind_stop (htr.trans (if_pos (by rw [hg]; rfl))) _
      · rw [place_global hglob, chk_bind_val halign]
        exact chk_bind_stop (htr.trans ((if_neg (by rw [hg]; decide)).trans (if_pos hres))) _
      · subst hneed
        have hplace : place s a z z .store = .ok (touchTgt (tlbEnter s (thClu s.cur) s.part a leaf bits) (.glob fa leaf), .glob fa leaf) := by
          rw [place_global hglob, chk_bind_val halign, chk_bind_val (htr.trans ((if_neg (by rw [hg]; decide)).trans (if_neg (by rw [hres]; decide))))]
          dsimp only
          rw [chk_bind_val hreach, chk_bind_val (require_true hbell _ _)]
          rfl
        have hspec' : specCheck s a .store (.glob fa leaf) = raise 0x26 a := require_false (by rw [hspec]; rfl) _ _
        subst ha
        refine hacc.stops (e := .cond (mkCond 0x26 ea.toNat) none) ?_
        rw [accLen_rawWin hraw]
        exact (chk_bind_val hplace _).trans (chk_bind_stop hspec' _)

end Sys2Proof.Machine
end


section
/-! Commands and messages at issue (R322, R324, R325). -/
namespace Sys2Proof.Machine
open Sys2Proof

theorem useHandle_free {s : State} {h : BitVec 4} (hf : s.getH h = .free) : useHandle s h = .ok s := useHandle_ok.2 (.inl ⟨hf, rfl⟩)

/-- The operation that `addOp` puts in flight. -/
def newOp (s : State) (clu : Nat) (sc : Scope) (k : OpKind) : Op :=
  { id := s.sch.nextId, th := s.cur, rcd := thRid s.thr, clu := clu, scope := sc, part := s.part, spec := thSpec s.thr, k := k }
theorem newOp_mem_ops (s : State) (clu : Nat) (sc : Scope) (k : OpKind) : newOp s clu sc k ∈ (addOp s clu sc k).2.sch.ops :=
  List.mem_append_right _ (List.mem_singleton.2 rfl)

/-- `mxcmd` up to the checks of its block (R322, R440). -/
theorem cmdIssue_checks {s : State} {h : BitVec 4} {a b : Word} {cap : BitVec 32} (hf : s.getH h = .free) (ha : a.toNat < 128) (hb : b.toNat % 8 = 0)
    (hlim : b.toNat + 32 ≤ s.limit) : cmdIssue s h a b cap = (do
      require (!s.dieLost (a.toNat / 16)) 0x72 (a.toNat / 16)
      require (!s.ropeLost (cluRope (a.toNat / 16 * 16 + a.toNat % 16))) 0x74 (cluRope (a.toNat / 16 * 16 + a.toNat % 16))
      let s2 := drainAll s (thCore s.cur)
      require (!s2.mem.poisoned (ownKey s b.toNat) 32) 0x71 (s2.mem.eccAt (ownKey s b.toNat) 32)
      match blockJob (s2.mem.get (ownKey s b.toNat) 32) with
      | none => raise 0x04 (bundleAt s s.thr.pc)
      | some j =>
        require (!thSpec s.thr) 0x26 b.toNat
        let (id, s3) := addOp (touchDie s2 (a.toNat / 16)) (thClu s.cur) (if a.toNat / 16 = thDie s.cur then .die else .mod)
          (.mxcmd (a.toNat / 16 * 16 + a.toNat % 16) cap j false)
        return (s3.setH h (.pending id)).after Config.seamTime (.mxcmdAccept id)) := by
  have hdie : fld a 6 4 = a.toNat / 16 := by simp only [fld]; omega
  have hclu : fld a 3 0 = a.toNat % 16 := by simp only [fld]; omega
  unfold cmdIssue
  rw [chk_bind_val (useHandle_free hf), chk_bind_val (require_true (decide_eq_true ha) _ _), hdie, hclu]
  exact chk_bind_val (require_true (by simp [hb, hlim]) _ _) _

theorem touchDie_thr_congr {s t : State} (h : t.thr = s.thr) (d : Nat) : (touchDie t d).thr = (touchDie s d).thr := by
  unfold touchDie State.modW State.modRcd
  rw [h]

/-- What a release leaves: the threads, the operations, the clock. -/
theorem release_thr (s : State) (th : Nat) (sc : Scope) : (release s th sc).thr = s.thr :=
  (CachesOnly.ite (writeBackDie_cachesOnly _ _) (.refl _)).thr.trans (drainAll_moves s _).thr
theorem release_cur (s : State) (th : Nat) (sc : Scope) : (release s th sc).cur = s.cur :=
  (CachesOnly.ite (writeBackDie_cachesOnly _ _) (.refl _)).cur.trans (drainAll_moves s _).cur

/-- A release of a scope up to `.mod` does not wait. -/
theorem releaseChk_mod (s : State) : releaseChk s .mod = .ok (release s s.cur .mod) := rfl
theorem releaseChk_ok {s : State} {sc : Scope} (h : MayRelease s sc) : releaseChk s sc = .ok (release s s.cur sc) := by
  obtain ⟨hfar, hwait⟩ := h
  have hno : ¬ (decide (4 ≤ sc.num) && awaitsFar s.thr) = true := by
    simp only [Bool.and_eq_true, decide_eq_true_eq]
    exact fun hh => absurd hh.2 (by rw [hfar hh.1]; decide)
  unfold releaseChk
  rw [if_neg hno, if_neg (by rw [hwait]; decide)]

/-- The message that `msg` sends of a range of the own region (R324). -/
def sentMsg (s t : State) (B n tag : Nat) : Msg :=
  { header := BitVec.ofNat 64 (tag * 2 ^ 32 + s.device % 256 * 2 ^ 24 + s.cur * 2 ^ 12 + n), len := n, payload := t.mem.get (ownKey s B) n }
/-- `msg` in the state after its release: the operation goes out of `u`. -/
def msgSend (s t u : State) (h : BitVec 4) (dest B n tag dt : Nat) : Chk State := do
  require (!t.mem.poisoned (ownKey s B) n) 0x71 (t.mem.eccAt (ownKey s B) n)
  let (id, v) := addOp u (thClu s.cur) .mod (.msg dest (sentMsg s t B n tag) (thLaunch s.thr))
  return (v.setH h (.pending id)).after dt (.msgDeliver ⟨id, .ok⟩)

section
variable {s : State} {h : BitVec 4} {a b c : Word} {tag : Nat}

theorem msgIssue_length (hf : s.getH h = .free) (hn : ¬ (c.toNat % 8 = 0 ∧ 8 ≤ c.toNat ∧ c.toNat ≤ 256)) : msgIssue s h a b c tag = raise 0x12 c.toNat := by
  unfold msgIssue
  rw [chk_bind_val (useHandle_free hf)]
  exact chk_bind_stop (require_false (by simpa [and_assoc] using hn) _ _) _

/-- `msg` with a good length, up to the check of its range (R324). -/
theorem msgIssue_range (hf : s.getH h = .free) (hn : c.toNat % 8 = 0 ∧ 8 ≤ c.toNat ∧ c.toNat ≤ 256) : msgIssue s h a b c tag = (do
    require (decide (b.toNat + c.toNat ≤ s.limit)) 0x21 b.toNat
    require (b.toNat % 8 == 0) 0x22 b.toNat
    require (!thSpec s.thr) 0x26 b.toNat
    if fld a 19 12 ≠ s.device then require (s.portOf (fld a 19 12)).isSome 0x73 (fld a 19 12)
    if fld a 19 12 = s.device then require (!s.dieLost (thDie (fld a 11 0))) 0x72 (thDie (fld a 11 0))
    if fld a 19 12 = s.device then require (!s.ropeLost (cluRope (thClu (fld a 11 0)))) 0x74 (cluRope (thClu (fld a 11 0)))
    let t ← releaseChk s (if fld a 19 12 = s.device then .mod else .fab)
    msgSend s t (if fld a 19 12 = s.device then touchDie t (thDie (fld a 11 0)) else t) h (fld a 19 0) b.toNat c.toNat tag
      (if fld a 19 12 = s.device then Config.seamTime else Config.fabricTime)) := by
  unfold msgIssue
  rw [chk_bind_val (useHandle_free hf)]
  exact chk_bind_val (require_true (by simpa [and_assoc] using hn) _ _) _

/-- `msg` of a good range, up to the check of the attempt. -/
theorem msgIssue_ranged (hf : s.getH h = .free) (hn : c.toNat % 8 = 0 ∧ 8 ≤ c.toNat ∧ c.toNat ≤ 256) (hlim : b.toNat + c.toNat ≤ s.limit) (hb : b.toNat % 8 = 0) :
    msgIssue s h a b c tag = (do
    require (!thSpec s.thr) 0x26 b.toNat
    if fld a 19 12 ≠ s.device then require (s.portOf (fld a 19 12)).isSome 0x73 (fld a 19 12)
    if fld a 19 12 = s.device then require (!s.dieLost (thDie (fld a 11 0))) 0x72 (thDie (fld a 11 0))
    if fld a 19 12 = s.device then require (!s.ropeLost (cluRope (thClu (fld a 11 0)))) 0x74 (cluRope (thClu (fld a 11 0)))
    let t ← releaseChk s (if fld a 19 12 = s.device then .mod else .fab)
    msgSend s t (if fld a 19 12 = s.device then touchDie t (thDie (fld a 11 0)) else t) h (fld a 19 0) b.toNat c.toNat tag
      (if fld a 19 12 = s.device then Config.seamTime else Config.fabricTime)) := by
  rw [msgIssue_range hf hn, chk_bind_val (require_true (decide_eq_true hlim) _ _), chk_bind_val (require_true (beq_iff_eq.2 hb) _ _)]

/-- `msg` to a thread of this module (R324). -/
theorem msgIssue_here (hf : s.getH h = .free) (hn : c.toNat % 8 = 0 ∧ 8 ≤ c.toNat ∧ c.toNat ≤ 256) (hlim : b.toNat + c.toNat ≤ s.limit) (hb : b.toNat % 8 = 0)
    (hspec : thSpec s.thr = false) (hdev : fld a 19 12 = s.device) (hdie : s.dieLost (thDie (fld a 11 0)) = false)
    (hrope : s.ropeLost (cluRope (thClu (fld a 11 0))) = false) :
    msgIssue s h a b c tag = msgSend s (release s s.cur .mod) (touchDie (release s s.cur .mod) (thDie (fld a 11 0))) h (fld a 19 0) b.toNat c.toNat tag Config.seamTime := by
  rw [msgIssue_ranged hf hn hlim hb, chk_bind_val (require_true (by rw [hspec]; rfl) _ _)]
  simp only [hdev, ne_eq, not_true_eq_false, if_true, if_false]
  rw [chk_bind_val (require_true (by rw [hdie]; rfl) _ _), chk_bind_val (require_true (by rw [hrope]; rfl) _ _)]
  exact chk_bind_val (releaseChk_mod s) _

/-- `msg` to a thread of another module (R324). -/
theorem msgIssue_away (hf : s.getH h = .free) (hn : c.toNat % 8 = 0 ∧ 8 ≤ c.toNat ∧ c.toNat ≤ 256) (hlim : b.toNat + c.toNat ≤ s.limit) (hb : b.toNat % 8 = 0)
    (hspec : thSpec s.thr = false) (hdev : fld a 19 12 ≠ s.device) : msgIssue s h a b c tag = (do
      require (s.portOf (fld a 19 12)).isSome 0x73 (fld a 19 12)
      let t ← releaseChk s .fab
      msgSend s t t h (fld a 19 0) b.toNat c.toNat tag Config.fabricTime) := by
  rw [msgIssue_ranged hf hn hlim hb, chk_bind_val (require_true (by rw [hspec]; rfl) _ _)]
  simp only [hdev, ne_eq, not_false_eq_true, if_true, if_false]
end

/-- The message goes out with the bytes that memory holds after the release. -/
theorem msgSend_sends {s t u : State} {h : BitVec 4} {dest B n tag dt : Nat} (hpois : t.mem.poisoned (ownKey s B) n = false) (hcur : u.cur = s.cur)
    (hr : u.thr.r = s.thr.r) (hm : u.mem = t.mem) : ∃ v x, msgSend s t u h dest B n tag dt = .ok v ∧ v.thr = { u.thr with r := s.thr.r.setH h (.pending x.id) } ∧
      x ∈ v.sch.ops ∧ x.th = s.cur ∧ x.k = .msg dest (sentMsg s t B n tag) (thLaunch s.thr) ∧ v.mem = t.mem := by
  refine ⟨_, newOp u (thClu s.cur) .mod (.msg dest (sentMsg s t B n tag) (thLaunch s.thr)), chk_bind_val (require_true (by rw [hpois]; rfl) _ _) _, ?_, newOp_mem_ops _ _ _ _,
    hcur, rfl, hm⟩
  rw [← hr]
  rfl

/-- An empty stack of searches is guarded by nothing. -/
theorem stackGuard_depth {s : State} (h : s.thr.q.depth = 0) (t : Tgt) (n : Nat) : stackGuard s t n = .ok () := by
  unfold stackGuard
  split
  · rfl
  · exact require_true (by rw [h]; rfl) _ _

/-- The state in which `recv` has taken a message. -/
def received (s : State) (d : BitVec 5) (B : Nat) (m : Msg) (r : List Msg) : State :=
  let s1 := putFull (drainAll s (thCore s.cur)) (ownKey s B) m.len m.payload
  retryMsgs ((acquire { s1 with thr := { s1.thr with inbox := r } } s.cur .mod).setS d m.header) s.cur

/-- `recv` of a good range (R325). -/
theorem recvTake_ranged {s : State} {d : BitVec 5} {a : Word} (ha : a.toNat % 8 = 0) (hlim : a.toNat + 256 ≤ s.limit) : recvTake s d a = (match s.thr.inbox with
    | [] => .error (.wait .recv)
    | m :: r => do
      stackGuard s (.ls (thCore s.cur) (s.base + a.toNat) 0 true) m.len
      return received s d a.toNat m r) := by
  unfold recvTake
  rw [chk_bind_val (require_true (decide_eq_true hlim) _ _)]
  exact chk_bind_val (require_true (beq_iff_eq.2 ha) _ _) _

section
variable (s : State) (d : BitVec 5) (B : Nat) (m : Msg) (r : List Msg)

theorem received_thr : (received s d B m r).thr = { s.thr with inbox := r, r := s.thr.r.setS d m.header } := by
  unfold received retryMsgs
  rw [(retryTo_schedules _ _).thr]
  rw [show acquire _ s.cur .mod = invalidateDie _ _ from rfl]
  rw [← (drainAll_moves s (thCore s.cur)).thr]
  rfl
theorem received_mem : ∃ t, Schedules t (received s d B m r) ∧ t.mem.cells = (putFull (drainAll s (thCore s.cur)) (ownKey s B) m.len m.payload).mem.cells ∧
    t.mem.empty = (putFull (drainAll s (thCore s.cur)) (ownKey s B) m.len m.payload).mem.empty :=
  ⟨_, retryTo_schedules _ _, rfl, rfl⟩
theorem received_cells : (received s d B m r).mem.cells = cellsSet (drainAll s (thCore s.cur)).mem.cells (ownKey s B) m.len m.payload := by
  obtain ⟨t, ⟨_, _, h⟩, hc, -⟩ := received_mem s d B m r
  rw [h]
  exact hc
theorem received_full : (received s d B m r).mem.allFull (ownKey s B) m.len = true := by
  obtain ⟨t, ⟨_, _, h⟩, -, he⟩ := received_mem s d B m r
  rw [h]
  unfold Mem.allFull
  dsimp only
  rw [he]
  exact setFull_allFull _ _ _
end

/-- Settles O50: the three issue functions past their checks. -/
theorem commandsAndMessagesAtIssue : Obligations.CommandsAndMessagesAtIssue := by
  unfold Obligations.CommandsAndMessagesAtIssue
  refine ⟨?mxcmd, ?msg, ?recv⟩
  case mxcmd =>
    intro s h a b cap hf
    dsimp only
    have hstop {c d : Nat} (hi : cmdIssue s h (s.getS a) (s.getS b) cap = raise c d) : exec (.mxcmd h a b cap) s = raises s c d := finish_raises hi
    refine ⟨fun ha => hstop ?_, fun ha hb => hstop ?_, fun ha hb hlim hlost => hstop ?_, fun ha hb hlim hdie hrope hpois => ?_⟩
    · unfold cmdIssue
      rw [chk_bind_val (useHandle_free hf)]
      exact chk_bind_stop (require_false (decide_eq_false (by omega)) _ _) _
    · unfold cmdIssue
      rw [chk_bind_val (useHandle_free hf), chk_bind_val (require_true (decide_eq_true ha) _ _)]
      refine chk_bind_stop (require_false ?_ _ _) _
      rcases hb with hb | hb
      · simp [hb]
      · simp [Nat.not_le.2 hb]
    · rw [cmdIssue_checks hf ha hb hlim]
      exact chk_bind_stop (require_false (by rw [hlost]; rfl) _ _) _
    · have hchecks := cmdIssue_checks (cap := cap) hf ha hb hlim
      rw [chk_bind_val (require_true (by rw [hdie]; rfl) _ _), chk_bind_val (require_true (by rw [hrope]; rfl) _ _)] at hchecks
      dsimp only at hchecks
      rw [chk_bind_val (require_true (by rw [hpois]; rfl) _ _)] at hchecks
      refine ⟨fun hj => hstop ?_, fun j hj => ?_⟩
      · rw [hchecks, hj]
      · rw [hj] at hchecks
        refine ⟨fun hspec => hstop ?_, fun hspec => ?_⟩
        · rw [hchecks]
          exact chk_bind_stop (require_false (by rw [hspec]; rfl) _ _) _
        · dsimp only at hchecks
          rw [chk_bind_val (require_true (by rw [hspec]; rfl) _ _)] at hchecks
          have hmoves := drainAll_moves s (thCore s.cur)
          refine ⟨_, newOp (touchDie (drainAll s (thCore s.cur)) ((s.getS a).toNat / 16)) _ _ _, finish_val hchecks, ?_, newOp_mem_ops _ _ _ _, rfl, hmoves.cur, ?_⟩
          · rw [← touchDie_thr_congr hmoves.thr, ← hmoves.thr]
            rfl
          · rw [← hmoves.clock]
            exact mem_agendaIns _ _ _
  case msg =>
    intro s h a b c tag hf
    dsimp only
    have hrun : exec (.msg h a b c tag) s = finish s (msgIssue s h (s.getS a) (s.getS b) (s.getS c) ((tag.map (fun x => x.toNat)).getD 0)) := by
      cases tag <;> rfl
    have hstop {cd d : Nat} (hi : msgIssue s h (s.getS a) (s.getS b) (s.getS c) ((tag.map (fun x => x.toNat)).getD 0) = raise cd d) :
        exec (.msg h a b c tag) s = raises s cd d := hrun.trans (finish_raises hi)
    have hdev : fld (s.getS a) 19 12 = (s.getS a).toNat % 2 ^ 20 / 4096 := by simp only [fld]; omega
    have hth : fld (s.getS a) 11 0 = (s.getS a).toNat % 2 ^ 20 % 4096 := by simp only [fld]; omega
    have hrope : cluRope (thClu (fld (s.getS a) 11 0)) = (s.getS a).toNat % 2 ^ 20 % 4096 / 128 := by rw [hth]; simp only [cluRope, thClu]; omega
    have hdie : thDie (fld (s.getS a) 11 0) = (s.getS a).toNat % 2 ^ 20 % 4096 / 512 := by rw [hth]; rfl
    have hdest : fld (s.getS a) 19 0 = (s.getS a).toNat % 2 ^ 20 := by simp only [fld]; omega
    refine ⟨fun hn => hstop (msgIssue_length hf hn), fun hn hlim => hstop ?_, fun hn hlim hb => hstop ?_, fun hn hb hlim hspec => hstop ?_, fun hn hb hlim hspec => ⟨?_, ?_, ?_⟩⟩
    · rw [msgIssue_range hf hn]
      exact chk_bind_stop (require_false (decide_eq_false (by omega)) _ _) _
    · rw [msgIssue_range hf hn, chk_bind_val (require_true (decide_eq_true hlim) _ _)]
      exact chk_bind_stop (require_false (beq_eq_false_iff_ne.2 hb) _ _) _
    · rw [msgIssue_ranged hf hn hlim hb]
      exact chk_bind_stop (require_false (by rw [hspec]; rfl) _ _) _
    · intro hhere hd hr hpois
      have hthr := release_thr s s.cur .mod
      obtain ⟨v, x, hv, hvt, hx, hxt, hxk, hvm⟩ := msgSend_sends (h := h) (dest := fld (s.getS a) 19 0) (tag := (tag.map (fun x => x.toNat)).getD 0) (dt := Config.seamTime) hpois
        (u := touchDie (release s s.cur .mod) (thDie (fld (s.getS a) 11 0))) (release_cur s s.cur .mod) (congrArg (·.r) hthr) rfl
      refine ⟨v, x, _, hrun.trans (finish_val ((msgIssue_here hf hn hlim hb hspec (hdev.trans hhere) (hdie ▸ hd) (hrope ▸ hr)).trans hv)), ?_, hx, hxt, hdest ▸ hxk, rfl, rfl, hvm, rfl⟩
      rw [hvt, touchDie_thr_congr hthr, hdie]
    · intro haway hport
      refine hstop ?_
      rw [msgIssue_away hf hn hlim hb hspec (hdev ▸ haway), hdev]
      exact chk_bind_stop (require_false (by rw [hport]; rfl) _ _) _
    · intro haway hport hmay hpois
      have hthr := release_thr s s.cur .fab
      obtain ⟨v, x, hv, hvt, hx, hxt, hxk, hvm⟩ := msgSend_sends (h := h) (dest := fld (s.getS a) 19 0) (tag := (tag.map (fun x => x.toNat)).getD 0) (dt := Config.fabricTime) hpois
        (u := release s s.cur .fab) (release_cur s s.cur .fab) (congrArg Thread.r hthr) rfl
      have hi := msgIssue_away (tag := (tag.map (fun x => x.toNat)).getD 0) hf hn hlim hb hspec (hdev ▸ haway)
      rw [chk_bind_val (require_true (hdev ▸ hport) _ _), chk_bind_val (releaseChk_ok hmay)] at hi
      exact ⟨v, x, _, hrun.trans (finish_val (hi.trans hv)), hvt.trans (by rw [hthr]), hx, hxt, hdest ▸ hxk, rfl, rfl, hvm, rfl⟩
  case recv =>
    intro s d a
    dsimp only
    refine ⟨fun hlim => finish_raises ?_, fun hlim hb => finish_raises ?_, fun hb hlim hnone => ?_, fun hb hlim hdepth m r hin => ?_⟩
    · exact chk_bind_stop (require_false (decide_eq_false (by omega)) _ _) _
    · unfold recvTake
      rw [chk_bind_val (require_true (decide_eq_true hlim) _ _)]
      exact chk_bind_stop (require_false (beq_eq_false_iff_ne.2 hb) _ _) _
    · have htake := recvTake_ranged (d := d) hb hlim
      rw [hnone] at htake
      exact congrArg (finish s) htake
    · have htake := recvTake_ranged (d := d) hb hlim
      rw [hin] at htake
      have hthr := received_thr s d (s.getS a).toNat m r
      have hcells := received_cells s d (s.getS a).toNat m r
      refine ⟨_, finish_val (htake.trans (chk_bind_val (stackGuard_depth hdepth _ _) _)), by rw [hthr], fun hd => ?_, fun n hn => ?_, ?_, ?_, fun j hj => ?_,
        received_full .., fun x hx => ?_⟩
      · rw [State.getS, hthr]
        exact (Regs.getS_setS ..).trans (if_pos ⟨rfl, hd⟩)
      · rw [State.getS, hthr]
        exact (Regs.getS_setS ..).trans (if_neg (fun hh => hn hh.1))
      · rw [hthr]
        unfold Regs.setS
        split <;> rfl
      · rw [hthr]
        unfold Regs.setS
        split <;> rfl
      · rw [State.byte, hcells, cellAt_cellsSet _ _ _ _ _ (by omega) (by omega), Nat.add_sub_cancel_left]
      · rw [State.byte, hcells]
        exact cellAt_cellsSet_ne _ _ _ _ _ hx

end Sys2Proof.Machine
end

section
/-! The pieces of a copy (R307, R308). -/
namespace Sys2Proof.Machine
open Sys2Proof

/-- A piece that waits, takes byte b from `src b` to `dst b`, and does not cross a page of a global range. -/
structure PieceOf (s : State) (clu part : Nat) (src : Nat → Word) (dst : Nat → CopyDst) (p : Piece) : Prop where
  waits : p.st = .waiting
  len : 1 ≤ p.len
  src_eq : p.src = src p.off
  dst_eq : p.dst = dst p.off
  src_page : p.src.toNat / 2 ^ 56 = 0 → p.len ≤ pageLeft s clu part p.src.toNat
  dst_page : ∀ a, p.dst = .addr a → a.toNat / 2 ^ 56 = 0 → p.len ≤ pageLeft s clu part a.toNat

/-- Pieces of the bytes from `lo` to `hi`: in order, without overlap, and without a gap. -/
structure Cuts (s : State) (clu part lo hi : Nat) (src : Nat → Word) (dst : Nat → CopyDst) (ps : List Piece) : Prop where
  ordered : ps.Pairwise (fun p q => p.off + p.len ≤ q.off)
  covers : ∀ b, lo ≤ b → b < hi → ∃ p ∈ ps, p.off ≤ b ∧ b < p.off + p.len
  within : ∀ p ∈ ps, lo ≤ p.off ∧ p.off + p.len ≤ hi
  each : ∀ p ∈ ps, PieceOf s clu part src dst p

namespace Cuts
variable {s : State} {clu part lo mid hi : Nat} {src src' : Nat → Word} {dst dst' : Nat → CopyDst} {ps qs : List Piece}

theorem nil (s : State) (clu part lo : Nat) (src : Nat → Word) (dst : Nat → CopyDst) : Cuts s clu part lo lo src dst [] :=
  ⟨.nil, fun _ hl hh => absurd hh (by omega), nofun, nofun⟩

theorem append (h : Cuts s clu part lo mid src dst ps) (k : Cuts s clu part mid hi src dst qs) (hlo : lo ≤ mid) (hhi : mid ≤ hi) :
    Cuts s clu part lo hi src dst (ps ++ qs) where
  ordered := List.pairwise_append.2 ⟨h.ordered, k.ordered, fun p hp q hq => (h.within p hp).2.trans (k.within q hq).1⟩
  covers b hb hb' := by
    obtain hm | hm := Nat.lt_or_ge b mid
    · obtain ⟨p, hp, hpb⟩ := h.covers b hb hm
      exact ⟨p, List.mem_append_left _ hp, hpb⟩
    · obtain ⟨p, hp, hpb⟩ := k.covers b hm hb'
      exact ⟨p, List.mem_append_right _ hp, hpb⟩
  within p hp := by
    obtain hp | hp := List.mem_append.1 hp
    · exact ⟨(h.within p hp).1, (h.within p hp).2.trans hhi⟩
    · exact ⟨hlo.trans (k.within p hp).1, (k.within p hp).2⟩
  each p hp := (List.mem_append.1 hp).elim (h.each p) (k.each p)

theorem single {p : Piece} (hp : PieceOf s clu part src dst p) : Cuts s clu part p.off (p.off + p.len) src dst [p] where
  ordered := List.pairwise_singleton _ _
  covers _ hb hb' := ⟨p, List.mem_singleton.2 rfl, hb, hb'⟩
  within q hq := by cases List.mem_singleton.1 hq; exact ⟨Nat.le_refl _, Nat.le_refl _⟩
  each q hq := by cases List.mem_singleton.1 hq; exact hp

/-- Only where the pieces lie do the sources and destinations count. -/
theorem congr (h : Cuts s clu part lo hi src dst ps) (he : ∀ b, lo ≤ b → b < hi → src b = src' b ∧ dst b = dst' b) : Cuts s clu part lo hi src' dst' ps where
  ordered := h.ordered
  covers := h.covers
  within := h.within
  each p hp := by
    obtain ⟨hw, hl, hs, hd, hsp, hdp⟩ := h.each p hp
    have hin := h.within p hp
    obtain ⟨es, ed⟩ := he p.off hin.1 (by omega)
    exact ⟨hw, hl, hs.trans es, hd.trans ed, hsp, hdp⟩

end Cuts

theorem CopyDst.move_move (d : CopyDst) (k n : Nat) : (d.move k).move n = d.move (k + n) := by
  cases d with
  | addr a => exact congrArg CopyDst.addr (by rw [BitVec.add_assoc, BitVec.ofNat_add])
  | buf wb cs off => exact congrArg (CopyDst.buf wb cs) (Nat.add_assoc ..)
theorem CopyDst.move_zero (d : CopyDst) : d.move 0 = d := by
  cases d with
  | addr a => exact congrArg CopyDst.addr (BitVec.add_zero a)
  | buf wb cs off => rfl

theorem pageLeft_pos (s : State) (clu part a : Nat) : 1 ≤ pageLeft s clu part a := by
  unfold pageLeft
  split
  · next bits _ => have := Nat.mod_lt a (Nat.two_pow_pos bits); omega
  · omega

/-- The bytes of the first piece of a row of n. -/
def firstLen (s : State) (clu part : Nat) (src : Word) (dst : CopyDst) (n : Nat) : Nat :=
  min n (min (if src.toNat / 2 ^ 56 = 0 then pageLeft s clu part src.toNat else n) (dstLeft s clu part dst n))

section
variable (s : State) (clu part : Nat) (src : Word) (dst : CopyDst) (n : Nat)

theorem firstLen_le : firstLen s clu part src dst n ≤ n := Nat.min_le_left ..
theorem firstLen_pos (hn : n ≠ 0) : 1 ≤ firstLen s clu part src dst n := by
  have hs : 1 ≤ if src.toNat / 2 ^ 56 = 0 then pageLeft s clu part src.toNat else n := by
    split
    · exact pageLeft_pos ..
    · omega
  have hd : 1 ≤ dstLeft s clu part dst n := by
    unfold dstLeft
    split
    · split
      · exact pageLeft_pos ..
      · omega
    · omega
  exact Nat.le_min.2 ⟨by omega, Nat.le_min.2 ⟨hs, hd⟩⟩
theorem firstLen_src (h : src.toNat / 2 ^ 56 = 0) : firstLen s clu part src dst n ≤ pageLeft s clu part src.toNat := by
  unfold firstLen
  rw [if_pos h]
  omega
theorem firstLen_dst (a : Word) (hd : dst = .addr a) (h : a.toNat / 2 ^ 56 = 0) : firstLen s clu part src dst n ≤ pageLeft s clu part a.toNat := by
  subst hd
  have : dstLeft s clu part (.addr a) n = pageLeft s clu part a.toNat := if_pos h
  unfold firstLen
  omega
end

/-- A row of n bytes is cut without a gap. -/
theorem rowPieces_cuts (s : State) (clu part row : Nat) : ∀ (f n off : Nat) (src : Word) (dst : CopyDst), n ≤ f →
    Cuts s clu part off (off + n) (fun b => src + BitVec.ofNat 64 (b - off)) (fun b => dst.move (b - off)) (rowPieces s clu part row f off src dst n)
  | 0, n, off, src, dst, hn => by
    obtain rfl : n = 0 := by omega
    exact .nil ..
  | f + 1, n, off, src, dst, hn => by
    unfold rowPieces
    split
    · next h0 => subst h0; exact .nil ..
    · next h0 =>
      change Cuts _ _ _ _ _ _ _ ({ off := off, row := row, src := src, dst := dst, len := firstLen s clu part src dst n, joined := false, st := .waiting } ::
        rowPieces s clu part row f (off + firstLen s clu part src dst n) (src + BitVec.ofNat 64 (firstLen s clu part src dst n))
          (dst.move (firstLen s clu part src dst n)) (n - firstLen s clu part src dst n))
      have hpos := firstLen_pos s clu part src dst n h0
      have hle := firstLen_le s clu part src dst n
      have hfirst : PieceOf s clu part (fun b => src + BitVec.ofNat 64 (b - off)) (fun b => dst.move (b - off))
          { off := off, row := row, src := src, dst := dst, len := firstLen s clu part src dst n, joined := false, st := .waiting } :=
        ⟨rfl, hpos, by simp, by rw [Nat.sub_self, CopyDst.move_zero], firstLen_src s clu part src dst n, firstLen_dst s clu part src dst n⟩
      have hrest := rowPieces_cuts s clu part row f (n - firstLen s clu part src dst n) (off + firstLen s clu part src dst n)
        (src + BitVec.ofNat 64 (firstLen s clu part src dst n)) (dst.move (firstLen s clu part src dst n)) (by omega)
      rw [show off + firstLen s clu part src dst n + (n - firstLen s clu part src dst n) = off + n by omega] at hrest
      refine (Cuts.single hfirst).append (hrest.congr fun b hb _ => ⟨?_, ?_⟩) (by dsimp only; omega) (by dsimp only; omega)
      · rw [BitVec.add_assoc, ← BitVec.ofNat_add, show firstLen s clu part src dst n + (b - (off + firstLen s clu part src dst n)) = b - off by omega]
      · rw [CopyDst.move_move, show firstLen s clu part src dst n + (b - (off + firstLen s clu part src dst n)) = b - off by omega]

/-- A piece apart from whether it is joined to the one before it. -/
def Piece.unjoined (p : Piece) : Piece := { p with joined := false }

theorem joinGo_unjoined (before ps : List Piece) : (joinGo before ps).map Piece.unjoined = ps.map Piece.unjoined := by
  induction ps generalizing before with
  | nil => cases before <;> rfl
  | cons p r ih =>
    rw [joinGo, List.map_cons, List.map_cons, ih]
    rfl

theorem cuts_unjoined {s : State} {clu part lo hi : Nat} {src : Nat → Word} {dst : Nat → CopyDst} {ps : List Piece} :
    Cuts s clu part lo hi src dst (ps.map Piece.unjoined) ↔ Cuts s clu part lo hi src dst ps := by
  constructor
  · intro h
    refine ⟨List.pairwise_map.1 h.ordered, fun b hb hb' => ?_, fun p hp => h.within p.unjoined (List.mem_map_of_mem hp), fun p hp => ?_⟩
    · obtain ⟨_, hq, hpb⟩ := h.covers b hb hb'
      obtain ⟨p, hp, rfl⟩ := List.mem_map.1 hq
      exact ⟨p, hp, hpb⟩
    · obtain ⟨hw, hl, hs, hd, hsp, hdp⟩ := h.each _ (List.mem_map_of_mem hp)
      exact ⟨hw, hl, hs, hd, hsp, hdp⟩
  · intro h
    refine ⟨List.pairwise_map.2 h.ordered, fun b hb hb' => ?_, fun q hq => ?_, fun q hq => ?_⟩
    · obtain ⟨p, hp, hpb⟩ := h.covers b hb hb'
      exact ⟨_, List.mem_map_of_mem hp, hpb⟩
    · obtain ⟨p, hp, rfl⟩ := List.mem_map.1 hq
      exact h.within p hp
    · obtain ⟨p, hp, rfl⟩ := List.mem_map.1 hq
      obtain ⟨hw, hl, hs, hd, hsp, hdp⟩ := h.each p hp
      exact ⟨hw, hl, hs, hd, hsp, hdp⟩

theorem Cuts.joinPieces {s : State} {clu part lo hi : Nat} {src : Nat → Word} {dst : Nat → CopyDst} {ps : List Piece} (h : Cuts s clu part lo hi src dst ps) :
    Cuts s clu part lo hi src dst (joinPieces ps) := by
  rw [← cuts_unjoined] at h ⊢
  exact (joinGo_unjoined [] ps).symm ▸ h

/-- A copy whose pieces are cut so starts. -/
theorem startCopy_starts {s : State} {n : Nat} {src : Nat → Word} {dst : Nat → CopyDst} {ps : List Piece} (hps : Cuts s (thClu s.cur) s.part 0 n src dst ps)
    (h : BitVec 4) (sc : Scope) (ss : Bool) : StartsCopy (.next (startCopy s h sc ps n ss)) s h sc ss n src dst := by
  have hj := hps.joinPieces
  refine ⟨_, newOp (drainAll s (thCore s.cur)) (thClu s.cur) sc (.copy (joinPieces ps) n ss .handle), joinPieces ps, rfl, ?_, newOp_mem_ops .., rfl, rfl, rfl,
    hj.ordered, fun b hb => hj.covers b (Nat.zero_le b) hb, fun p hp => ?_⟩
  · rw [← (drainAll_moves s (thCore s.cur)).thr]
    rfl
  · obtain ⟨hw, hl, hs, hd, hsp, hdp⟩ := hj.each p hp
    exact ⟨hw, hl, (hj.within p hp).2, hs, hd, hsp, hdp⟩

/-! The checks of a copy at issue (R307, R113). -/

section
variable {s : State} {a x : Word} {n : Nat}

theorem globRange_ok {a n : Nat} (h : a + n ≤ 2 ^ 56) : globRange a n = .ok () := require_true (decide_eq_true h) _ _

/-- The near target of an own place and its absolute form. -/
theorem nearTgt_place {o : Nat} (ha : a.toNat = 0xFF00000000000000 + o) (ho : o < 0x40000) (hlim : o + n ≤ s.limit) :
    nearTgt s a.toNat n = .ok (.ls (thCore s.cur) (s.base + o) 0 true) := (nearTgt_own ha ho).trans (if_pos hlim)

theorem copySrc_place (h : CopyPlace s a n x) : copySrc s a n = .ok x := by
  unfold copySrc
  obtain ⟨hg, hn, rfl⟩ | ⟨o, ha, ho, hlim, rfl⟩ := h
  · rw [chk_bind_val (require_true (by rw [hg]; rfl) _ _), if_pos hg]
    exact chk_bind_val (globRange_ok hn) _
  · have hnear : a.toNat / 2 ^ 56 = 0xFF := by omega
    rw [chk_bind_val (require_true (by rw [hnear]; rfl) _ _), if_neg (by omega), chk_bind_val (require_true (beq_iff_eq.2 (addrWin_own ha ho)) _ _)]
    exact chk_bind_val (nearTgt_place ha ho hlim) _

/-- Outside an attempt every place may be written. -/
theorem specCheck_calm (h : thSpec s.thr = false) (a : Nat) (need : Need) (t : Tgt) : specCheck s a need t = .ok () :=
  require_true (by rw [h]; rfl) _ _

theorem copyDst_place (h : CopyPlace s a n x) (hspec : thSpec s.thr = false) (hdepth : s.thr.q.depth = 0) : copyDst s a n = .ok x := by
  unfold copyDst
  obtain ⟨hg, hn, rfl⟩ | ⟨o, ha, ho, hlim, rfl⟩ := h
  · rw [chk_bind_val (require_true (by rw [hg]; rfl) _ _), if_pos hg]
    exact (chk_bind_val (globRange_ok hn) _).trans (chk_bind_val (require_true (by rw [hspec]; rfl) _ _) _)
  · have hnear : a.toNat / 2 ^ 56 = 0xFF := by omega
    rw [chk_bind_val (require_true (by rw [hnear]; rfl) _ _), if_neg (by omega), chk_bind_val (require_true (beq_iff_eq.2 (addrWin_own ha ho)) _ _),
      chk_bind_val (nearTgt_place ha ho hlim), chk_bind_val (specCheck_calm hspec _ _ _)]
    exact chk_bind_val (stackGuard_depth hdepth _ _) _

/-- A global destination of an attempt (R54). -/
theorem copyDst_spec (hg : a.toNat / 2 ^ 56 = 0) (hn : a.toNat + n ≤ 2 ^ 56) (hspec : thSpec s.thr = true) : copyDst s a n = raise 0x26 a.toNat := by
  unfold copyDst
  rw [chk_bind_val (require_true (by rw [hg]; rfl) _ _), if_pos hg]
  exact (chk_bind_val (globRange_ok hn) _).trans (chk_bind_stop (require_false (by rw [hspec]; rfl) _ _) _)
/-- A global destination that runs past the 56 bits (R106). -/
theorem copyDst_past (hg : a.toNat / 2 ^ 56 = 0) (hn : 2 ^ 56 < a.toNat + n) : copyDst s a n = raise 0x20 (2 ^ 56) := by
  unfold copyDst
  rw [chk_bind_val (require_true (by rw [hg]; rfl) _ _), if_pos hg]
  exact chk_bind_stop (require_false (decide_eq_false (by omega)) _ _) _

/-- The flag DK and its cluster, as `copy` reads them (R306). -/
theorem copyTo_addr {fl : Option CopyFlags} (h : (fl.map (fun f => f.dk)).getD false = false) : copyTo s fl a n = (copyDst s a n).map .addr := by
  cases fl with
  | none => rfl
  | some f => exact if_neg (by rw [show f.dk = false from h]; decide)
theorem copyTo_wb {fl : Option CopyFlags} (h : (fl.map (fun f => f.dk)).getD false = true) :
    copyTo s fl a n = wbDst s a n ((fl.map (fun f : CopyFlags => f.dcl)).getD 0).toNat := by
  cases fl with
  | none => cases h
  | some f => exact if_pos h
theorem copyScope_eq (fl : Option CopyFlags) (dflt : Scope) : copyScope fl dflt = (fl.map (fun f => f.scope)).getD dflt := by cases fl <;> rfl
theorem copySs_eq (s : State) (fl : Option CopyFlags) : copySs s fl = ((fl.map (fun f => f.ss)).getD false && thGang s.thr) := by cases fl <;> rfl

theorem wbDst_owned {dcl : Nat} (hown : s.owns s.part (thDie s.cur * 16 + dcl) = true) (hrope : s.ropeLost (cluRope (thDie s.cur * 16 + dcl)) = false) :
    wbDst s a n dcl = (do
      require (decide (a.toNat + n ≤ 0x200000)) 0x60 a.toNat
      require (!thSpec s.thr) 0x26 a.toNat
      return .buf true [thDie s.cur * 16 + dcl] a.toNat) := by
  unfold wbDst
  rw [chk_bind_val (require_true hown _ _), chk_bind_val (require_true (by rw [hrope]; rfl) _ _)]
end

section
variable {s : State} {h : BitVec 4} {fl : Option CopyFlags}

/-- `copy` from a good place (R307). -/
theorem copyIssue_from {dst src x : Word} {n : Nat} (hn : n < 2 ^ 40) (hf : s.getH h = .free) (hsrc : CopyPlace s src n x) : copyIssue s h dst src n fl = (do
    let d ← copyTo s fl dst n
    if n = 0 then return doneNow s h (copyScope fl .clu)
    else return startCopy s h (copyScope fl .clu) (rowPieces s (thClu s.cur) s.part 0 (rowFuel n) 0 x d n) n (copySs s fl)) := by
  unfold copyIssue
  rw [chk_bind_val (require_true (decide_eq_true hn) _ _), chk_bind_val (useHandle_free hf)]
  exact chk_bind_val (copySrc_place hsrc) _

/-- The pieces of a row of its own. -/
theorem rowPieces_whole (s : State) (row : Nat) (x : Word) (d : CopyDst) (n : Nat) :
    Cuts s (thClu s.cur) s.part 0 n (fun b => x + BitVec.ofNat 64 b) d.move (rowPieces s (thClu s.cur) s.part row (rowFuel n) 0 x d n) := by
  have hrow := rowPieces_cuts s (thClu s.cur) s.part row (rowFuel n) n 0 x d (Nat.le_refl n)
  rw [Nat.zero_add] at hrow
  exact hrow

/-- The rows of `copy2` from row i on cover their bytes in row-major order (R308). -/
theorem copyRows_cuts {len : Nat} (hlen : 1 ≤ len) {src dst x y : Word} {sstep dstep : Nat} : ∀ r i,
    (∀ j, i ≤ j → j < i + r → copySrc s (src + BitVec.ofNat 64 (j * sstep)) len = .ok (x + BitVec.ofNat 64 (j * sstep)) ∧
      copyTo s fl (dst + BitVec.ofNat 64 (j * dstep)) len = .ok (.addr (y + BitVec.ofNat 64 (j * dstep)))) →
    ∃ ps, copyRows s fl len src dst sstep dstep r i = .ok ps ∧ Cuts s (thClu s.cur) s.part (i * len) ((i + r) * len)
      (fun b => x + BitVec.ofNat 64 (b / len * sstep) + BitVec.ofNat 64 (b % len))
      (fun b => .addr (y + BitVec.ofNat 64 (b / len * dstep) + BitVec.ofNat 64 (b % len))) ps
  | 0, i, _ => ⟨[], rfl, .nil ..⟩
  | r + 1, i, hrows => by
    obtain ⟨hsrc, hdst⟩ := hrows i (Nat.le_refl i) (by omega)
    obtain ⟨l, hl, hcuts⟩ := copyRows_cuts hlen r (i + 1) fun j hj hj' => hrows j (by omega) (by omega)
    have hrow := rowPieces_cuts s (thClu s.cur) s.part i (rowFuel len) len (i * len) (x + BitVec.ofNat 64 (i * sstep)) (.addr (y + BitVec.ofNat 64 (i * dstep))) (Nat.le_refl len)
    have hnext : (i + 1) * len = i * len + len := Nat.succ_mul i len
    have hend : (i + (r + 1)) * len = (i + 1 + r) * len := by rw [Nat.add_right_comm, Nat.add_assoc]
    refine ⟨_, (chk_bind_val hsrc _).trans ((chk_bind_val hdst _).trans (chk_bind_val hl _)), ?_⟩
    rw [hend]
    refine (hrow.congr fun b hb hb' => ?_).append (hnext ▸ hcuts) (by omega) (hnext ▸ Nat.mul_le_mul_right len (by omega))
    have hdiv : b / len = i := Nat.div_eq_of_lt_le hb (by rw [Nat.succ_mul]; exact hb')
    have hmod : b % len = b - i * len := by rw [Nat.mod_eq_sub_mul_div, hdiv, Nat.mul_comm]
    rw [hdiv, hmod]
    exact ⟨rfl, rfl⟩

/-- `copym` into the buffers of the clusters `cs`, past the check of its range (R309). -/
def copymInto (s : State) (h : BitVec 4) (off x : Word) (n : Nat) (cs : List Nat) (wb : Bool) (fl : Option CopyFlags) : Chk State :=
  match cs.find? (fun x => !s.owns s.part x) with
  | some _ => raise 0x21 off.toNat
  | none =>
    match cs.find? (fun x => s.ropeLost (cluRope x)) with
    | some x => raise 0x74 (cluRope x)
    | none => do
      require (!(thSpec s.thr && (wb || cs.any (fun x => x != thClu s.cur)))) 0x26 off.toNat
      if n = 0 ∨ cs = [] then return doneNow s h (copyScope fl .die)
      else return startCopy s h (copyScope fl .die) (rowPieces s (thClu s.cur) s.part 0 (rowFuel n) 0 x (.buf wb cs off.toNat) n) n (copySs s fl)

/-- The checks of `copy2`'s shape (R308). -/
theorem shape_ok {n m c d : Nat} (h : 1 ≤ n) (h' : n ≤ m) : require (decide (1 ≤ n) && decide (n ≤ m)) c d = .ok () := require_true (by simp [h, h']) _ _
theorem shape_bad {n m c d : Nat} (h : n = 0 ∨ m < n) : require (decide (1 ≤ n) && decide (n ≤ m)) c d = raise c d :=
  require_false (by rw [← Bool.decide_and]; exact decide_eq_false (by omega)) _ _

/-- `copy2` of a good shape (R308). -/
theorem copy2Issue_shaped {dst src : Word} {k : BitVec 5} (hlen : 1 ≤ (s.getS k).toNat) (hlen' : (s.getS k).toNat ≤ 2 ^ 24) (hrows : 1 ≤ (s.getS (k + 1)).toNat)
    (hrows' : (s.getS (k + 1)).toNat ≤ 65536) : copy2Issue s h dst src k fl = (do
      let s1 ← useHandle s h
      let ps ← copyRows s1 fl (s.getS k).toNat src dst ((s.getS (k + 2)).toNat % 2 ^ 32) ((s.getS (k + 2)).toNat / 2 ^ 32) (s.getS (k + 1)).toNat 0
      return startCopy s1 h (copyScope fl .clu) ps ((s.getS (k + 1)).toNat * (s.getS k).toNat) (copySs s fl)) := by
  have hlo : fld (s.getS (k + 2)) 31 0 = (s.getS (k + 2)).toNat % 2 ^ 32 := by simp only [fld]; omega
  have hhi : fld (s.getS (k + 2)) 63 32 = (s.getS (k + 2)).toNat / 2 ^ 32 := by simp only [fld]; omega
  rw [← hlo, ← hhi]
  exact (chk_bind_val (shape_ok hlen hlen') _).trans (chk_bind_val (shape_ok hrows hrows') _)

theorem finish_waits {x : Chk State} {w : Why} (h : x = .error (.wait w)) : finish s x = .next (block s w) := by rw [h]; rfl
theorem useHandle_waits {op : Nat} (hp : s.getH h = .pending op) : useHandle s h = .error (.wait (.handle h)) := by
  unfold useHandle
  rw [hp]

/-- `copym` of a good length from a good place (R309). -/
theorem copymIssue_from {off src c x : Word} (hn : c.toNat % 2 ^ 48 ≤ 0x200000) (hf : s.getH h = .free) (hsrc : CopyPlace s src (c.toNat % 2 ^ 48) x) :
    copymIssue s h off src c fl = (do
      require (decide (off.toNat + c.toNat % 2 ^ 48 ≤ 0x200000)) 0x60 off.toNat
      copymInto s h off x (c.toNat % 2 ^ 48) (maskClus s (c.toNat / 2 ^ 48)) ((fl.map (fun f => f.dk)).getD false) fl) := by
  have hlo : fld c 47 0 = c.toNat % 2 ^ 48 := by simp only [fld]; omega
  have hhi : fld c 63 48 = c.toNat / 2 ^ 48 := by simp only [fld]; omega
  unfold copymIssue
  rw [hlo, hhi]
  dsimp only
  rw [chk_bind_val (require_true (decide_eq_true hn) _ _), chk_bind_val (useHandle_free hf)]
  cases fl <;> exact chk_bind_val (copySrc_place hsrc) _

/-- A cluster of the mask that the partition does not own (R309, log 57). -/
theorem copymInto_notOwned {off x : Word} {n : Nat} {cs : List Nat} {wb : Bool} (hown : ∃ k ∈ cs, s.owns s.part k = false) :
    copymInto s h off x n cs wb fl = raise 0x21 off.toNat := by
  obtain ⟨k, hk, hko⟩ := hown
  obtain ⟨k', hk'⟩ := Option.isSome_iff_exists.1 (List.find?_isSome.2 ⟨k, hk, by rw [hko]; rfl⟩ : (cs.find? (fun x => !s.owns s.part x)).isSome)
  unfold copymInto
  rw [hk']
theorem copymInto_owned {off x : Word} {n : Nat} {cs : List Nat} {wb : Bool} (hown : ∀ k ∈ cs, s.owns s.part k = true ∧ s.ropeLost (cluRope k) = false)
    (hspec : thSpec s.thr = false) : copymInto s h off x n cs wb fl = .ok (if n = 0 ∨ cs = [] then doneNow s h (copyScope fl .die)
      else startCopy s h (copyScope fl .die) (rowPieces s (thClu s.cur) s.part 0 (rowFuel n) 0 x (.buf wb cs off.toNat) n) n (copySs s fl)) := by
  unfold copymInto
  rw [List.find?_eq_none.2 fun k hk => by simp [(hown k hk).1], List.find?_eq_none.2 fun k hk => by simp [(hown k hk).2]]
  refine (chk_bind_val (require_true (by rw [hspec]; rfl) _ _) _).trans ?_
  split <;> rfl
end

/-! `stage` (R312). -/

theorem stageKick_schedules (s : State) (l : Launch) : Schedules s (stageKick s l) := by
  refine .foldl (fun t c => ?_) _ s
  split
  · exact .after ..
  · exact .refl _

/-- The launch after a raise of its stage counter. -/
def stagedLaunch (s : State) (l : Launch) (n : Nat) : Launch :=
  { l with stage := n, stagers := l.stagers ++ [(n, match s.thr.rcd with | some r => r.w.task | none => 0)] }
/-- A raise of the stage counter of the thread's launch. -/
theorem stage_raises {s : State} {n : BitVec 15} {l : Launch} (hg : thGang s.thr = true) (hl : s.launch = some l) (hn : l.stage < n.toNat) (hs : l.l[7].toNat % 2 ^ 17 ≠ 0) :
    ∃ t l', exec (.stage n) s = .next t ∧ t.findLaunch l.num = some l' ∧ l'.stage = n.toNat ∧ t.thr = s.thr := by
  have hfind : s.findLaunch (thLaunch s.thr) = some l := by
    unfold State.launch at hl
    split at hl
    · exact hl
    · cases hl
  have hmoves := drainAll_moves s (thCore s.cur)
  have hfound : (drainAll s (thCore s.cur)).findLaunch l.num = some l := by rw [hmoves.findLaunch, findLaunch_num hfind, hfind]
  have hfld : fld l.l[7] 16 0 = l.l[7].toNat % 2 ^ 17 := by simp only [fld]; omega
  refine ⟨stageKick ((drainAll s (thCore s.cur)).modLaunch l.num fun _ => stagedLaunch s l n.toNat) (stagedLaunch s l n.toNat), stagedLaunch s l n.toNat, ?_, ?_, rfl, ?_⟩
  · change execStage n s = _
    unfold execStage
    rw [if_neg (by rw [hg]; decide), hl]
    exact if_neg (by rw [hfld]; omega)
  · rw [(stageKick_schedules _ _).findLaunch]
    exact findLaunch_modLaunch hfound rfl
  · rw [(stageKick_schedules _ _).thr]
    exact hmoves.thr

/-- Settles O48: the issue functions past their checks, and the pieces of a row. -/
theorem copiesAtIssue : Obligations.CopiesAtIssue := by
  unfold Obligations.CopiesAtIssue
  refine ⟨?_, fun s n => ⟨fun hg => ?_, fun hg l hl => ⟨fun hn => ?_, stage_raises hg hl⟩⟩⟩
  · intro s h d a c fl
    dsimp only
    generalize hwb : (fl.map (fun f => f.dk)).getD false = wb
    rw [← copyScope_eq, ← copyScope_eq, ← copySs_eq]
    have hN : fld (s.getS c) 47 0 = (s.getS c).toNat % 2 ^ 48 := by simp only [fld]; omega
    refine ⟨fun hn => finish_raises ?_, fun hlen => finish_raises ?_, fun hlen hlen' hrows => finish_raises ?_, fun hn => finish_raises ?_,
      fun op hop => ⟨fun hn => finish_waits ?_, fun hlen hlen' hrows hrows' => finish_waits ?_, fun hn => finish_waits ?_⟩, fun hf hdepth => ⟨?copy, ?copy2, ?copym⟩⟩
    · exact chk_bind_stop (require_false (decide_eq_false (by omega)) _ _) _
    · exact chk_bind_stop (shape_bad hlen) _
    · exact (chk_bind_val (shape_ok hlen hlen') _).trans (chk_bind_stop (shape_bad hrows) _)
    · unfold copymIssue
      rw [hN]
      exact chk_bind_stop (require_false (decide_eq_false (by omega)) _ _) _
    · exact (chk_bind_val (require_true (decide_eq_true hn) _ _) _).trans (chk_bind_stop (useHandle_waits hop) _)
    · rw [copy2Issue_shaped hlen hlen' hrows hrows']
      exact chk_bind_stop (useHandle_waits hop) _
    · unfold copymIssue
      rw [hN, chk_bind_val (require_true (decide_eq_true hn) _ _)]
      exact chk_bind_stop (useHandle_waits hop) _
    case copy =>
      intro hn A' hsrc
      have hi := copyIssue_from (dst := s.getS d) (fl := fl) hn hf hsrc
      have hto {e : Stop} (he : copyTo s fl (s.getS d) (s.getS c).toNat = .error e) : exec (.copy h d a c fl) s = finish s (.error e) :=
        congrArg (finish s) (hi.trans (chk_bind_stop he _))
      have hgo {x : CopyDst} (hx : copyTo s fl (s.getS d) (s.getS c).toNat = .ok x) (h1 : 1 ≤ (s.getS c).toNat) :
          StartsCopy (exec (.copy h d a c fl) s) s h (copyScope fl .clu) (copySs s fl) (s.getS c).toNat (fun b => A' + BitVec.ofNat 64 b) x.move := by
        have hrun : exec (.copy h d a c fl) s = _ := finish_val (hi.trans ((chk_bind_val hx _).trans (if_neg (by omega))))
        rw [hrun]
        exact startCopy_starts (rowPieces_whole s 0 A' x _) h _ _
      refine ⟨fun hspec hw hD hlim => ?_, fun hw hD hlim => ?_, fun hw hown => ?_, fun hw hown hrope hlim => ?_,
        fun hw hown hrope hlim hspec h1 => ?_, fun D' hw hspec hdst => ⟨fun h0 => ?_, fun h1 => ?_⟩⟩
      · exact hto (e := .cond (mkCond 0x26 _) none) ((copyTo_addr (hwb.trans hw)).trans (congrArg (Except.map CopyDst.addr) (copyDst_spec hD hlim hspec)))
      · exact hto (e := .cond (mkCond 0x20 _) none) ((copyTo_addr (hwb.trans hw)).trans (congrArg (Except.map CopyDst.addr) (copyDst_past hD hlim)))
      · exact hto (e := .cond (mkCond 0x21 _) none) ((copyTo_wb (hwb.trans hw)).trans (chk_bind_stop (require_false hown _ _) _))
      · exact hto (e := .cond (mkCond 0x60 _) none) ((copyTo_wb (hwb.trans hw)).trans ((wbDst_owned hown hrope).trans (chk_bind_stop (require_false (decide_eq_false (by omega)) _ _) _)))
      · exact hgo ((copyTo_wb (hwb.trans hw)).trans ((wbDst_owned hown hrope).trans
          ((chk_bind_val (require_true (decide_eq_true hlim) _ _) _).trans (chk_bind_val (require_true (by rw [hspec]; rfl) _ _) _)))) h1
      · have hx := (copyTo_addr (hwb.trans hw)).trans (congrArg (Except.map CopyDst.addr) (copyDst_place hdst hspec hdepth))
        exact finish_val (hi.trans ((chk_bind_val hx _).trans (if_pos h0)))
      · exact hgo ((copyTo_addr (hwb.trans hw)).trans (congrArg (Except.map CopyDst.addr) (copyDst_place hdst hspec hdepth))) h1
    case copy2 =>
      intro A' D' hlen hlen' hrows hrows' hw hspec hplaces
      obtain ⟨ps, hps, hcuts⟩ := copyRows_cuts (s := s) (fl := fl) (src := s.getS a) (dst := s.getS d) (x := A') (y := D') (sstep := (s.getS (c + 2)).toNat % 2 ^ 32)
        (dstep := (s.getS (c + 2)).toNat / 2 ^ 32) hlen (s.getS (c + 1)).toNat 0 fun j _ hj => ⟨copySrc_place (hplaces j (by omega)).1, (copyTo_addr (hwb.trans hw)).trans
          (congrArg (Except.map CopyDst.addr) (copyDst_place (hplaces j (by omega)).2 hspec hdepth))⟩
      have hrun : exec (.copy2 h d a c fl) s = _ :=
        finish_val ((copy2Issue_shaped hlen hlen' hrows hrows').trans ((chk_bind_val (useHandle_free hf) _).trans (chk_bind_val hps _)))
      rw [hrun]
      rw [Nat.zero_mul, Nat.zero_add] at hcuts
      exact startCopy_starts hcuts h _ _
    case copym =>
      intro A' hn hsrc
      have hi := copymIssue_from (off := s.getS d) (fl := fl) hn hf hsrc
      have hmask : ((List.range 16).filter (fun i => ((s.getS c).toNat / 2 ^ 48).testBit i)).map (fun i => thDie s.cur * 16 + i) =
        maskClus s ((s.getS c).toNat / 2 ^ 48) := rfl
      rw [hmask]
      refine ⟨fun hlim => finish_raises (hi.trans (chk_bind_stop (require_false (decide_eq_false (by omega)) _ _) _)), fun hlim hown => finish_raises ?_, fun hlim hown hspec => ?_⟩
      · exact hi.trans ((chk_bind_val (require_true (decide_eq_true hlim) _ _) _).trans (copymInto_notOwned hown))
      · have hall := hi.trans ((chk_bind_val (require_true (decide_eq_true hlim) _ _) _).trans (copymInto_owned hown hspec))
        rw [hwb] at hall
        refine ⟨fun h0 => finish_val (hall.trans (congrArg Except.ok (if_pos h0))), fun h1 hc => ?_⟩
        have hrun : exec (.copym h d a c fl) s = _ := finish_val (hall.trans (congrArg Except.ok (if_neg (by rintro (h0 | h0); exacts [by omega, hc h0]))))
        rw [hrun]
        exact startCopy_starts (rowPieces_whole s 0 A' (.buf wb _ _) _) h _ _
  · exact if_pos (by rw [hg]; rfl)
  · change execStage n s = _
    unfold execStage
    rw [if_neg (by rw [hg]; decide), hl]
    exact if_pos (by simp only [fld]; omega)

end Sys2Proof.Machine
end

section
/-! What the load of a descriptor leaves (R59, R284). -/
namespace Sys2Proof.Machine
open Sys2Proof

/-! The number of the module: no store, port or cache changes it. -/

theorem device_setReg2 (s : State) {off : Nat} (x : Word) (h : 0x200 ≠ off) : (s.setReg2 off x).device = s.device := by
  unfold State.device
  rw [State.reg2_setReg2_ne _ _ _ _ h]
theorem device_congr {s t : State} (h : t.plat.bar2 = s.plat.bar2) : t.device = s.device := by
  unfold State.device State.reg2
  rw [h]
theorem CachesOnly.device {s t : State} (h : CachesOnly s t) : t.device = s.device := device_congr (congrArg Plat.bar2 h.plat)
theorem device_after (s : State) (n : Nat) (e : Event) : (s.after n e).device = s.device := device_congr rfl
theorem device_setPort (s : State) (p : Nat) (x : PortSt) : (s.setPort p x).device = s.device := device_congr rfl
theorem device_post (s : State) (x : Store) : (post s x).device = s.device := device_congr rfl
theorem device_foldl {α : Type} {f : State → α → State} (hf : ∀ s a, (f s a).device = s.device) (l : List α) (s : State) : (l.foldl f s).device = s.device := by
  induction l generalizing s with
  | nil => rfl
  | cons a r ih => exact (ih (f s a)).trans (hf s a)

theorem device_putStore (s : State) (x : Store) : (putStore s x).device = s.device := by
  unfold putStore
  split <;> exact device_congr rfl
theorem device_setTail (s : State) (port q : Nat) (rx : Bool) (v : Nat) : (setTail s port q rx v).device = s.device := by
  have hoff : 0x200 ≠ ethQOff port q + 0x18 := by unfold ethQOff; omega
  unfold setTail
  exact (device_after ..).trans (device_setReg2 s _ hoff)
theorem device_send (s : State) (p n : Nat) : (s.send p n).device = s.device := by
  unfold State.send
  exact (device_setPort ..).trans (device_setReg2 s _ (by omega))
theorem device_spend (s : State) (dev n : Nat) : (s.spend dev n).device = s.device := by
  unfold State.spend
  split
  · rfl
  · split
    · exact device_send ..
    · rfl
theorem device_sendStores (s : State) (dev : Nat) (xs : List Store) : (sendStores s dev xs).device = s.device := by
  unfold sendStores
  dsimp only
  split
  · exact device_setPort ..
  · exact (device_foldl device_post xs _).trans (device_send ..)
  · split
    · exact device_setPort ..
    · exact device_foldl (fun y _ => device_after y _ _) xs s
theorem device_perform (s : State) (x : Store) : (perform s x).device = s.device := by
  unfold perform
  split
  · exact device_putStore ..
  · exact (l2Write_cachesOnly ..).device
  · exact (device_putStore ..).trans (l3Touch_cachesOnly ..).device
  · exact device_post ..
  · exact device_setTail ..
  · exact device_sendStores ..
theorem device_performAll (s : State) (l : List Store) : (performAll s l).device = s.device := by
  unfold performAll
  split
  · rfl
  · split
    · exact device_sendStores ..
    · exact device_foldl device_perform _ s
theorem device_drainOne (s : State) (core : Nat) : (drainOne s core).device = s.device := by
  unfold drainOne
  split
  · rfl
  · exact device_performAll ..
theorem device_drainN (n : Nat) (s : State) (core : Nat) : (drainN n s core).device = s.device := by
  induction n generalizing s with
  | zero => rfl
  | succ n ih => exact (ih (drainOne s core)).trans (device_drainOne s core)
theorem device_drainAll (s : State) (core : Nat) : (drainAll s core).device = s.device := device_drainN ..

/-- A load of the thread leaves the thread, but for the homes that its record reached, and the number of the module. -/
structure LoadLeaves (s t : State) : Prop where
  cur : t.cur = s.cur
  device : t.device = s.device
  spec : thSpec t.thr = thSpec s.thr
  rid : thRid t.thr = thRid s.thr
  rcd : t.thr.rcd.isSome = s.thr.rcd.isSome

namespace LoadLeaves
variable {s t u : State}
theorem of_thr (hc : t.cur = s.cur) (hd : t.device = s.device) (ht : t.thr = s.thr) : LoadLeaves s t := ⟨hc, hd, by rw [ht], by rw [ht], by rw [ht]⟩
theorem refl (s : State) : LoadLeaves s s := .of_thr rfl rfl rfl
theorem trans (h : LoadLeaves s t) (k : LoadLeaves t u) : LoadLeaves s u :=
  ⟨k.cur.trans h.cur, k.device.trans h.device, k.spec.trans h.spec, k.rid.trans h.rid, k.rcd.trans h.rcd⟩
theorem of_cachesOnly (h : CachesOnly s t) : LoadLeaves s t := .of_thr h.cur h.device h.thr
theorem drainAll (s : State) (core : Nat) : LoadLeaves s (drainAll s core) := .of_thr (drainAll_moves s core).cur (device_drainAll s core) (drainAll_moves s core).thr
end LoadLeaves

theorem touchTgt_leaves (s : State) (t : Tgt) : LoadLeaves s (touchTgt s t) := by
  have htouch (d : Nat) : LoadLeaves s (touchDie s d) := by
    refine ⟨rfl, device_congr rfl, ?_, ?_, Option.isSome_map⟩ <;> cases h : s.thr.rcd <;> simp [touchDie, State.modW, State.modRcd, thSpec, thRid, h]
  unfold touchTgt
  split
  · split
    · exact htouch _
    · exact .refl s
  · exact .refl s
theorem tlbEnter_leaves (s : State) (clu part va : Nat) (leaf : Word) (bits : Nat) : LoadLeaves s (tlbEnter s clu part va leaf bits) := by
  unfold tlbEnter
  dsimp only
  split
  · exact .refl s
  · exact (LoadLeaves.of_cachesOnly (walkTouch_cachesOnly s part va)).trans (.of_thr rfl (device_congr rfl) rfl)
theorem translate_leaves {s : State} {clu part va : Nat} {need : Need} {r : State × Nat × Word} (h : translate s clu part va need = .ok r) : LoadLeaves s r.1 := by
  unfold translate at h
  split at h
  · cases h
  · dsimp only at h
    split at h
    · cases h
    · split at h
      · cases h
      · cases h
        exact tlbEnter_leaves ..
theorem place_leaves {s : State} {a len al : Nat} {need : Need} {r : State × Tgt} (h : place s a len al need = .ok r) : LoadLeaves s r.1 := by
  unfold place at h
  obtain ⟨_, -, h⟩ := chk_bind_ok.1 h
  split at h
  · obtain ⟨t, -, h⟩ := chk_bind_ok.1 h
    obtain ⟨_, -, h⟩ := chk_bind_ok.1 h
    obtain ⟨_, -, h⟩ := chk_bind_ok.1 h
    cases h
    exact .refl s
  · obtain ⟨_, -, h⟩ := chk_bind_ok.1 h
    obtain ⟨⟨s1, fa, leaf⟩, htr, h⟩ := chk_bind_ok.1 h
    obtain ⟨_, -, h⟩ := chk_bind_ok.1 h
    obtain ⟨_, -, h⟩ := chk_bind_ok.1 h
    obtain rfl := Except.ok.inj h
    exact LoadLeaves.trans (t := s1) (translate_leaves htr) (touchTgt_leaves s1 (.glob fa leaf))
theorem resolve_leaves {s : State} {a len al : Nat} {need : Need} {r : State × Tgt} (h : resolve s a len al need = .ok r) : LoadLeaves s r.1 := by
  unfold resolve at h
  obtain ⟨⟨s1, t⟩, hp, h⟩ := chk_bind_ok.1 h
  obtain ⟨_, -, h⟩ := chk_bind_ok.1 h
  cases h
  exact place_leaves hp

theorem l1Room_cachesOnly (s : State) (core line : Nat) : CachesOnly s (l1Room s core line) := by
  unfold l1Room
  split
  · exact .refl s
  · dsimp only
    split
    · exact .refl s
    · exact (choose_cachesOnly ..).trans (modM_cachesOnly _ rfl rfl rfl)
theorem l1Fill_cachesOnly (s : State) (core own a : Nat) : CachesOnly s (l1Fill s core own a).2 := by
  unfold l1Fill
  split
  · exact .refl s
  · refine (l2Fill_cachesOnly s (core / 128) own a).trans ?_
    dsimp only
    split
    · exact .refl _
    · exact CachesOnly.trans (l1Room_cachesOnly ..) (modM_cachesOnly _ rfl rfl rfl)
theorem l1ReadGo_cachesOnly (core own n : Nat) (s : State) (a len : Nat) : CachesOnly s (l1ReadGo core own n s a len).2 := by
  induction n generalizing s a len with
  | zero => exact .refl s
  | succ n ih =>
    rw [l1ReadGo]
    split
    · exact .refl s
    · exact (l1Fill_cachesOnly s core own _).trans (ih _ _ _)
theorem readCore_cachesOnly (s : State) (core : Nat) (r : Route) (k n : Nat) : CachesOnly s (readCore s core r k n).2 := by
  unfold readCore
  split
  · exact l1ReadGo_cachesOnly ..
  · exact readPlace_cachesOnly ..
theorem loadPlace_leaves (s : State) (r : Route) (k n : Nat) : LoadLeaves s (loadPlace s r k n).2 := by
  unfold loadPlace
  split
  · exact .of_cachesOnly (readCore_cachesOnly ..)
  · split
    · exact .refl s
    · exact (LoadLeaves.drainAll s _).trans (.of_cachesOnly (readCore_cachesOnly ..))
theorem settle_leaves (s : State) (th : Nat) (r : Route) : LoadLeaves s (settle s th r) := by
  have hput (l : List Store) (t : State) : LoadLeaves t (l.foldl putStore t) := by
    have hp := Performs.foldl (f := putStore) putStore_performs l t
    exact .of_thr hp.cur (device_foldl device_putStore l t) hp.thr
  unfold settle landPosted
  refine (LoadLeaves.drainAll s (thCore th)).trans ?_
  dsimp only
  refine LoadLeaves.trans ?_ (hput _ _)
  exact .of_thr rfl (device_congr rfl) rfl
theorem device_sendAccess {s t : State} {rt : Route} {n : Nat} (h : sendAccess s rt n = .ok t) : t.device = s.device := by
  unfold sendAccess at h
  split at h
  · split at h
    · cases h
    · cases h; exact device_spend ..
  · cases h; rfl
theorem sendAccess_cur {s t : State} {rt : Route} {n : Nat} (h : sendAccess s rt n = .ok t) : t.cur = s.cur := by
  unfold sendAccess State.spend at h
  split at h
  · split at h
    · cases h
    · cases h
      split
      · rfl
      · split
        · exact (send_performs ..).cur
        · rfl
  · cases h; rfl
theorem readFar_leaves {s : State} {rt : Route} {k n : Nat} {r : Nat × State} (h : readFar s rt k n = .ok r) : LoadLeaves s r.2 := by
  unfold readFar at h
  split at h
  · cases h
  · cases hs : sendAccess (drainAll s (thCore s.cur)) rt with
    | error e => rw [hs] at h; cases h
    | ok x =>
      rw [hs] at h
      cases h
      exact ((LoadLeaves.drainAll s _).trans (.of_thr (sendAccess_cur hs) (device_sendAccess hs) (sendAccess_thr hs))).trans (settle_leaves x _ _)
theorem loadDesc_leaves {s : State} {a : Nat} {r : Desc × State} (h : loadDesc s a = .ok r) : LoadLeaves s r.2 := by
  unfold loadDesc at h
  obtain ⟨⟨s1, t⟩, hres, h⟩ := chk_bind_ok.1 h
  refine (resolve_leaves hres).trans ?_
  cases t with
  | ls core off win own => cases h
  | ab clu off => cases h
  | glob fa leaf =>
    obtain ⟨_, -, h⟩ := chk_bind_ok.1 h
    dsimp only at h
    split at h
    · cases h
    · split at h
      · obtain ⟨⟨v, s2⟩, hread, h⟩ := chk_bind_ok.1 h
        obtain ⟨_, -, h⟩ := chk_bind_ok.1 h
        obtain rfl := Except.ok.inj h
        exact readFar_leaves hread
      · obtain ⟨⟨v, s2⟩, hread, h⟩ := chk_bind_ok.1 h
        obtain ⟨_, -, h⟩ := chk_bind_ok.1 h
        obtain rfl := Except.ok.inj h
        have hleaves := loadPlace_leaves s1 (tgtRoute s1 (.glob fa leaf)) (tgtKey s1 (.glob fa leaf)) 16
        rw [Except.ok.inj hread] at hleaves
        exact hleaves

end Sys2Proof.Machine
end

section
/-! `commit`, `tread` and `tver` at issue (R236-R238). -/
namespace Sys2Proof.Machine
open Sys2Proof

/-- The thread waits on a pending handle that its mask names. -/
theorem waitsOn_single {s : State} {h : BitVec 4} {id : Nat} (hp : s.getH h = .pending id) : waitsOn (BitVec.ofNat 16 (2 ^ h.toNat)) s.thr.r.h = true := by
  refine List.any_eq_true.2 ⟨h.toNat, List.mem_range.2 h.isLt, ?_⟩
  have hget : s.thr.r.h.toList[h.toNat]? = some (.pending id) := by
    rw [← hp]
    simp [State.getH, Regs.getH, Vector.get, h.isLt]
  have hbit : (BitVec.ofNat 16 (2 ^ h.toNat)).getLsbD h.toNat = true := by
    rw [BitVec.getLsbD_ofNat, Nat.testBit_two_pow_self]
    simpa using h.isLt
  rw [hget, hbit]
  rfl

theorem useHandle_leaves {s t : State} {h : BitVec 4} (hok : useHandle s h = .ok t) : LoadLeaves s t := by
  obtain ⟨-, rfl⟩ | ⟨-, -, rfl⟩ | ⟨-, sc, -, rfl⟩ := useHandle_ok.1 hok
  · exact .refl _
  · exact .refl _
  · exact .of_cachesOnly (acquire_cachesOnly _ _ sc)
theorem release_leaves (s : State) (th : Nat) (sc : Scope) : LoadLeaves s (release s th sc) :=
  (LoadLeaves.drainAll s _).trans (.of_cachesOnly (CachesOnly.ite (writeBackDie_cachesOnly _ _) (.refl _)))
theorem releaseChk_leaves {s t : State} {sc : Scope} (hok : releaseChk s sc = .ok t) : LoadLeaves s t := by
  unfold releaseChk at hok
  split at hok
  · cases hok
  · split at hok
    · cases hok
    · cases hok
      exact release_leaves ..

/-- `commit` puts its request in flight, for the record that the thread holds (R236). -/
theorem commitIssue_issues {s t : State} {h : BitVec 4} {o v : Nat} {r : Rec} (hr : s.thr.rcd = some r) (hok : commitIssue s h o v = .ok t) :
    t.cur = s.cur ∧ thRid t.thr = r.id ∧ t.thr.rcd.isSome = true ∧ ∃ op ∈ t.sch.ops, op.rcd = r.id ∧ op.spec = true ∧ t.getH h = .pending op.id ∧
      ∃ desc dkey size data, op.k = .commit r.w.launch r.w.task r.w.attempt (r.base.getD 0) desc dkey size data s.thr.pc none := by
  unfold commitIssue at hok
  obtain ⟨_, hspec, hok⟩ := chk_bind_ok.1 hok
  obtain ⟨_, -, hok⟩ := chk_bind_ok.1 hok
  obtain ⟨⟨d, s1⟩, hdesc, hok⟩ := chk_bind_ok.1 hok
  obtain ⟨_, -, hok⟩ := chk_bind_ok.1 hok
  obtain ⟨_, -, hok⟩ := chk_bind_ok.1 hok
  obtain ⟨_, -, hok⟩ := chk_bind_ok.1 hok
  obtain ⟨s2, huse, hok⟩ := chk_bind_ok.1 hok
  obtain ⟨s3, hrel, hok⟩ := chk_bind_ok.1 hok
  obtain ⟨_, -, hok⟩ := chk_bind_ok.1 hok
  have hleaves : LoadLeaves s s3 := ((loadDesc_leaves hdesc).trans (useHandle_leaves huse)).trans (releaseChk_leaves hrel)
  have hrid : thRid s3.thr = r.id := hleaves.rid.trans (by rw [thRid, hr])
  have hlaunch : thLaunch s.thr = r.w.launch := by rw [thLaunch, hr]
  simp only [hr, hlaunch] at hok
  obtain rfl := Except.ok.inj hok
  exact ⟨hleaves.cur, hrid, hleaves.rcd.trans (by rw [hr]; rfl), newOp s3 _ _ _, newOp_mem_ops .., hrid, hleaves.spec.trans (require_ok.1 hspec), (Regs.getH_setH ..).trans (if_pos rfl),
    _, _, _, _, rfl⟩

/-- A write-back keeps the operations in flight. -/
theorem writeBack_ops {s t : State} {map idx : Nat} {pc : Word} {waits : BitVec 16} {r : Rec} (hr : s.thr.rcd = some r)
    (h : writeBack s map idx pc waits = .ok t) : t.sch.ops = s.sch.ops := by
  obtain ⟨s3, hmove, rfl⟩ := writeBack_ok hr h
  rw [recordLeaves, freeThread_sch]
  exact (congrArg Sched.ops (wakeRecord_schedules _ _).1.sch).trans (congrArg Sched.ops hmove.sch)

/-- The descriptor of the tile table is loaded (R59). -/
theorem tableDesc_leaves {s : State} {off : Nat} {r : Desc × State} (h : tableDesc s off = .ok r) : LoadLeaves s r.2 := by
  have hat (tiles len : Nat) (hin : (if off % 16 ≠ 0 then raise 0x22 (tiles + off) else if 16 * len ≤ off then raise 0x2A off else loadDesc s (tiles + off)) = .ok r) :
      LoadLeaves s r.2 := by
    split at hin
    · cases hin
    · split at hin
      · cases hin
      · exact loadDesc_leaves hin
  unfold tableDesc at h
  cases hl : s.launch with
  | none => rw [hl] at h; exact hat _ _ h
  | some l => rw [hl] at h; exact hat _ _ h

/-- The request of `tread` in flight, and its register interlocked (R237). -/
def treadSent (s : State) (x : Desc) (t : State) (d : BitVec 5) (dst : Nat) (h : BitVec 4) (ver : BitVec 32) : State :=
  let (id, u) := addOp (drainAll t (thCore s.cur)) (thClu s.cur) (homeScope s x) (.tread (BitVec.ofNat 64 x.addr) x.key ver d (ownKey s dst) (descSize x.val) 0 false none)
  ((u.setH h (.pending id)).modI (fun i => { i with ilock := (i.ilock.filter (fun p => p.1 != d)) ++ [(d, id)], owed := i.owed.filter (fun p => p.1 != d) })).after
    (homeTime s x) (.treadAtHome id)
theorem treadIssue_issues {s s1 : State} {d : BitVec 5} {off dst : Nat} {h : BitVec 4} {ver : BitVec 32} {x : Desc} (hwon : anyWon s.thr.r = false)
    (hdesc : tableDesc s off = .ok (x, s1)) (hal : dst % 128 = 0) (hlim : dst + descSize x.val ≤ s.limit) (hdepth : s.thr.q.depth = 0) (hfree : s1.getH h = .free) :
    treadIssue s d off dst h ver = .ok (treadSent s x s1 d dst h ver) := by
  unfold treadIssue
  rw [chk_bind_val (require_true (by rw [hwon]; rfl) _ _), chk_bind_val hdesc]
  dsimp only
  rw [chk_bind_val (require_true (beq_iff_eq.2 hal) _ _), chk_bind_val (require_true (decide_eq_true hlim) _ _), chk_bind_val (require_true (by rw [hdepth]; rfl) _ _)]
  exact chk_bind_val (useHandle_free hfree) _

/-- The reply that `tver` awaits (R238). -/
def verReply (s : State) (d : BitVec 5) (x : Desc) : Reply :=
  { dest := .s d, key := x.key, acc := .ver, scope := some (homeScope s x), addr := BitVec.ofNat 64 x.addr, sent := s.clock }

/-- The request of `tver` on its way from `t`. -/
def verAsked (s : State) (d : BitVec 5) (x : Desc) (t : State) : State :=
  (t.modI (fun i => { i with replies := i.replies ++ [verReply s d x] })).after (homeTime s x) (.tverReply s.cur .ok)

/-- Settles O39: the requests as they stand in flight once the checks pass. -/
theorem commitAndVersionedReads : Obligations.CommitAndVersionedReads := by
  unfold Obligations.CommitAndVersionedReads
  refine ⟨?commit, ?tread, ?treadBad, ?tver⟩
  case commit =>
    intro s s1 h a map v hin hmap
    have hthr := (liveMap_cachesOnly hmap).thr
    have hstop {c d : Nat} (hissue : commitIssue s1 h (s.getS a).toNat v = raise c d) : exec (.commit h a map) s = raises s c d := by
      change execCommit h a map s = _
      unfold execCommit
      rw [hin]
      refine (withMap_ok hmap _).trans ?_
      rw [hissue]
      exact finish_raises rfl
    have hgo {s2 : State} (hissue : commitIssue s1 h (s.getS a).toNat v = .ok s2) :
        exec (.commit h a map) s = suspend s2 (writeBack s2 v map.toNat (s.thr.pc + 8) (BitVec.ofNat 16 (2 ^ h.toNat))) := by
      change execCommit h a map s = _
      unfold execCommit
      rw [hin]
      refine (withMap_ok hmap _).trans ?_
      rw [hissue]
    refine ⟨fun s2 r t hr hissue hwrite => ?_, fun hspec => ?_, fun hspec hwon => ?_⟩
    · obtain ⟨hcur, hrid, hsome, op, hop, hoprcd, hopspec, hpend, hkind⟩ := commitIssue_issues hr hissue
      obtain ⟨r2, hr2⟩ := Option.isSome_iff_exists.1 hsome
      obtain ⟨hnone, r', hmem, hid, hpc, -, -, hwaits, -⟩ := writeBack_suspends hr2 hwrite
      obtain ⟨hwaith, hplace⟩ := hwaits (waitsOn_single hpend)
      have hid2 : r2.id = r.id := by rw [thRid, hr2] at hrid; exact hrid
      rw [hgo hissue, hwrite]
      refine ⟨rfl, ?_, ⟨op, (writeBack_ops hr2 hwrite) ▸ hop, hoprcd, hopspec, hpend, ?_⟩, r', hmem, hid.trans hid2, hplace, hwaith, hpc⟩
      · rw [← (liveMap_cachesOnly hmap).cur, ← hcur]
        exact hnone
      · rw [← hthr]
        exact hkind
    · exact hstop (chk_bind_stop (require_false hspec _ _) _)
    · exact hstop ((chk_bind_val (require_true hspec _ _) _).trans (chk_bind_stop (require_false (by rw [hwon]; rfl) _ _) _))
  case tread =>
    intro s s1 d a b h ver x hwon hdesc hal hlim hdepth hfree
    refine ⟨_, (drainAll s1 (thCore s.cur)).sch.nextId, finish_val (treadIssue_issues hwon hdesc hal hlim hdepth hfree), ?_⟩
    have hrcd := congrArg (fun t : Thread => t.rcd.isSome) (drainAll_moves s1 (thCore s.cur)).thr
    have hval := congrArg (fun t : Thread => t.r.getS d) (drainAll_moves s1 (thCore s.cur)).thr
    refine ⟨(Regs.getH_setH ..).trans (if_pos rfl), List.mem_append_right _ (List.mem_singleton.2 rfl), ?_, hrcd,
      newOp (drainAll s1 (thCore s.cur)) _ _ _, newOp_mem_ops .., rfl, rfl⟩
    exact hval
  case treadBad =>
    intro s d a b h ver l hl
    dsimp only
    have hstop {c e : Nat} (hwon : anyWon s.thr.r = false) (htab : tableDesc s (s.getS a).toNat = raise c e) : exec (.tread d a b h ver) s = raises s c e :=
      finish_raises ((chk_bind_val (require_true (by rw [hwon]; rfl) _ _) _).trans (chk_bind_stop htab _))
    refine ⟨fun hwon => finish_raises (chk_bind_stop (require_false (by rw [hwon]; rfl) _ _) _), fun hwon hoff => hstop hwon ?_, fun hwon hoff hlen => hstop hwon ?_⟩
    · unfold tableDesc
      rw [hl]
      exact if_pos hoff
    · unfold tableDesc
      rw [hl]
      exact (if_neg (by omega)).trans (if_pos hlen)
  case tver =>
    intro s s1 d a x hdesc
    have hleaves := tableDesc_leaves hdesc
    refine ⟨fun s2 hsend => ?_, fun w haway hsend => finish_waits ((chk_bind_val hdesc _).trans ((if_neg haway).trans (chk_bind_stop hsend _)))⟩
    have hgo : tverIssue s d (s.getS a).toNat = .ok (verAsked s d x s2) := by
      obtain ⟨hdev, rfl⟩ | ⟨haway, hsend⟩ := hsend
      · exact (chk_bind_val hdesc _).trans (if_pos hdev)
      · exact (chk_bind_val hdesc _).trans ((if_neg haway).trans (chk_bind_val hsend _))
    have hthr : s2.thr = s1.thr := by
      obtain ⟨-, rfl⟩ | ⟨-, hsend⟩ := hsend
      · rfl
      · exact sendAccess_thr hsend
    refine ⟨_, verReply s d x, finish_val hgo, rfl, rfl, rfl, rfl, ?_, congrArg (·.r) hthr⟩
    rw [hleaves.device]
    rfl

end Sys2Proof.Machine
end

section
/-! What the steps of hedging rest on: counters, numbers, new attempts (R76-R81). -/
namespace Sys2Proof.Machine
open Sys2Proof

/-! The counters of a partition (R80). -/

theorem reg0_congr {s t : State} (h : t.plat.bar0 = s.plat.bar0) (off : Nat) : t.reg0 off = s.reg0 off := by
  unfold State.reg0
  rw [h]
theorem addReg_self (s : State) (off : Nat) (d : Int) : (addReg s off d).reg0 off = s.reg0 off + BitVec.ofInt 64 d := by
  have hsum : BitVec.ofInt 64 ((s.reg0 off).toNat + d) = s.reg0 off + BitVec.ofInt 64 d := by
    rw [BitVec.ofInt_add, BitVec.ofInt_natCast, BitVec.ofNat_toNat, BitVec.setWidth_eq]
  rw [← hsum]
  exact State.reg0_setReg0_self ..
theorem addReg_ne (s : State) {off o : Nat} (d : Int) (h : o ≠ off) : (addReg s off d).reg0 o = s.reg0 o := State.reg0_setReg0_ne _ _ _ _ h
theorem addReg_neg_one (s : State) (off : Nat) : (addReg s off (-1)).reg0 off = s.reg0 off - 1 := by
  rw [addReg_self, BitVec.sub_eq_add_neg]
  rfl

theorem addReg_sch (s : State) (off : Nat) (d : Int) : (addReg s off d).sch = s.sch := State.setReg0_sch ..

theorem liveOff_ne_deniedOff (p q : Nat) : liveOff p ≠ deniedOff q := by unfold liveOff deniedOff hedgeOff partOff; omega
theorem liveOff_ne_issOff (p q : Nat) : liveOff p ≠ issOff q := by unfold liveOff issOff hedgeOff partOff; omega
theorem liveOff_ne_dupOff (p q : Nat) : liveOff p ≠ dupOff q := by unfold liveOff dupOff hedgeOff partOff; omega
theorem issOff_ne_dupOff (p q : Nat) : issOff p ≠ dupOff q := by unfold issOff dupOff hedgeOff partOff; omega
theorem issOff_inj {p q : Nat} (h : p ≠ q) : issOff p ≠ issOff q := by unfold issOff hedgeOff partOff; omega
theorem dupOff_inj {p q : Nat} (h : p ≠ q) : dupOff p ≠ dupOff q := by unfold dupOff hedgeOff partOff; omega

/-- A backup that no place took, of a launch of this module: LIVE falls, DENIED rises, and nothing else changes (R81, R358). -/
theorem unbudget_own {s : State} {l : Launch} (h : l.isMirror = false) : unbudget s l = addReg (addReg s (liveOff l.part) (-1)) (deniedOff l.part) 1 :=
  if_neg (by rw [h]; decide)
theorem unbudget_live {s : State} {l : Launch} (h : l.isMirror = false) : (unbudget s l).reg0 (liveOff l.part) = s.reg0 (liveOff l.part) - 1 := by
  rw [unbudget_own h, addReg_ne _ _ (liveOff_ne_deniedOff l.part l.part), addReg_neg_one]
theorem unbudget_denied {s : State} {l : Launch} (h : l.isMirror = false) : (unbudget s l).reg0 (deniedOff l.part) = s.reg0 (deniedOff l.part) + 1 := by
  rw [unbudget_own h, addReg_self, addReg_ne _ _ (liveOff_ne_deniedOff l.part l.part).symm]
  rfl
theorem unbudget_sch {s : State} {l : Launch} (h : l.isMirror = false) : (unbudget s l).sch = s.sch := by
  rw [unbudget_own h, addReg_sch, addReg_sch]

/-- What a port owes leaves the records and the host's registers. -/
theorem owe_leaves (s : State) (dev n : Nat) : (s.owe dev n).sch = s.sch ∧ (s.owe dev n).plat.bar0 = s.plat.bar0 := by
  have hsend (p : Nat) : (s.send p n).plat.bar0 = s.plat.bar0 := (State.setPort_plat_bar0 ..).trans (State.setReg2_plat_bar0 ..)
  unfold State.owe
  split
  · exact ⟨rfl, rfl⟩
  · split
    · exact ⟨(send_performs ..).sch, hsend _⟩
    · exact ⟨(setPort_performs ..).sch, State.setPort_plat_bar0 ..⟩
    · exact ⟨rfl, rfl⟩
theorem owe_sch (s : State) (dev n : Nat) : (s.owe dev n).sch = s.sch := (owe_leaves s dev n).1
theorem owe_reg0 (s : State) (dev n off : Nat) : (s.owe dev n).reg0 off = s.reg0 off := reg0_congr (owe_leaves s dev n).2 off

/-! Launches and their tasks. -/

theorem findLaunch_of_launches {s t : State} (h : t.sch.launches = s.sch.launches) (n : Nat) : t.findLaunch n = s.findLaunch n := by
  rw [State.findLaunch, State.findLaunch, h]
/-! A new attempt (R76, R77). -/

/-- A record of an attempt in the queue of a die, as its seed says. -/
structure FromSeed (x : Seed) (num die : Nat) (r : Rec) : Prop where
  backup : r.w.backup = x.backup
  task : r.w.task = x.task
  attempt : r.w.attempt = x.attempt
  launch : r.w.launch = num
  base : r.base = x.base
  barred : r.barred = x.barred
  place : r.place = .queue die

/-- Only records, launches and what is due differ. -/
structure OnlyJoins (s t : State) : Prop where
  plat : t.plat = s.plat
  threads : ∀ n, t.getT n = s.getT n
  wants : t.sch.wants = s.sch.wants
  away : t.sch.away = s.sch.away

namespace OnlyJoins
variable {s t u : State}
theorem trans (h : OnlyJoins s t) (k : OnlyJoins t u) : OnlyJoins s u :=
  ⟨k.plat.trans h.plat, fun n => (k.threads n).trans (h.threads n), k.wants.trans h.wants, k.away.trans h.away⟩
theorem of_schedules (h : Schedules s t) : OnlyJoins s t := by
  obtain ⟨a, c, rfl⟩ := h
  exact ⟨rfl, fun _ => rfl, rfl, rfl⟩
theorem modRec (s : State) (id : Nat) (f : Rec → Rec) : OnlyJoins s (s.modRec id f) := ⟨rfl, fun _ => rfl, rfl, rfl⟩
theorem modTask (s : State) (num task : Nat) (f : TaskSt → TaskSt) : OnlyJoins s (Machine.modTask s num task f) := ⟨rfl, fun _ => rfl, rfl, rfl⟩
theorem modLaunch (s : State) (num : Nat) (f : Launch → Launch) : OnlyJoins s (s.modLaunch num f) := ⟨rfl, fun _ => rfl, rfl, rfl⟩
theorem reg0 (h : OnlyJoins s t) (off : Nat) : t.reg0 off = s.reg0 off := reg0_congr (congrArg Plat.bar0 h.plat) off
end OnlyJoins

theorem addReg_getT (s : State) (off : Nat) (d : Int) (n : Nat) : (addReg s off d).getT n = s.getT n := by
  unfold State.getT addReg
  rw [State.setReg0_cur, State.setReg0_thr, State.setReg0_rest]

/-- The number that a task's counter gives next (R77). -/
theorem takeNumber_gives {s t : State} {num task a : Nat} {l : Launch} (hl : s.findLaunch num = some l) (h : takeNumber s num task = some (a, t)) :
    a = (l.task task).nextAttempt ∧ OnlyJoins s t := by
  unfold takeNumber at h
  rw [hl] at h
  dsimp only at h
  split at h
  · cases h
  · obtain ⟨rfl, rfl⟩ := Prod.mk.inj (Option.some.inj h)
    exact ⟨rfl, .modTask ..⟩

theorem enqueue_schedules (s : State) (r : Rec) : Schedules s (enqueue s r).2 := by
  unfold enqueue
  dsimp only
  split
  · exact .after ..
  · exact (Schedules.after s _ _).trans (.after ..)

/-- A new record joins those that no thread holds. -/
theorem addNew_joins (s : State) (l : Launch) (frame : Nat) (r : Rec) : OnlyJoins s (addNew s l frame r) ∧ r.sealed ∈ (addNew s l frame r).sch.recs := by
  have hrec : OnlyJoins s (s.modSch (fun c => { c with recs := c.recs ++ [r.sealed], nextId := c.nextId + 1 })) := ⟨rfl, fun _ => rfl, rfl, rfl⟩
  have hmem : r.sealed ∈ (s.modSch (fun c => { c with recs := c.recs ++ [r.sealed], nextId := c.nextId + 1 })).sch.recs :=
    List.mem_append_right _ (List.mem_singleton.2 rfl)
  unfold addNew
  dsimp only
  split
  · exact ⟨hrec.trans (.modLaunch ..), hmem⟩
  · exact ⟨(hrec.trans (.modLaunch ..)).trans (.modTask ..), hmem⟩

/-- The record that `makeAttempt` enters, before it is queued. -/
def seedRec (s : State) (l : Launch) (die frame : Nat) (x : Seed) : Rec :=
  let w : RecWords := { zeroWords with
    cls := x.cls, task := x.task, tile := (l.tiles + 16 * x.task) % 2 ^ 48, pweight := (classWeight s l x.cls).1
    attempt := x.attempt, backup := x.backup }
  Rec.sealed { newRec s l frame w with die := die, base := x.base, barred := x.barred, owed := (classWeight s l x.cls).2 }

theorem enqueue_seed (s t : State) (l : Launch) (die frame : Nat) (x : Seed) : FromSeed x l.num die (enqueue t (seedRec s l die frame x)).1 := ⟨rfl, rfl, rfl, rfl, rfl, rfl, rfl⟩

theorem sealed_id (r : Rec) : r.sealed.id = r.id := by
  unfold Rec.sealed
  rfl

theorem makeAttempt_makes {s : State} {l : Launch} {f : Nat} (hf : l.freeFrame = some f) (die : Nat) (x : Seed) :
    ∃ t, makeAttempt s l die x = some t ∧ OnlyJoins s t ∧ ∃ r ∈ t.sch.recs, FromSeed x l.num die r := by
  obtain ⟨hadd, hmem⟩ := addNew_joins s l f (seedRec s l die f x)
  have hqueue := enqueue_schedules (addNew s l f (seedRec s l die f x)) (seedRec s l die f x)
  have hseed := enqueue_seed s (addNew s l f (seedRec s l die f x)) l die f x
  cases hq : enqueue (addNew s l f (seedRec s l die f x)) (seedRec s l die f x) with
  | mk r' t =>
    rw [hq] at hqueue hseed
    have hmake : makeAttempt s l die x = some (t.modRec (seedRec s l die f x).id (fun _ => r')) := by
      unfold seedRec at hq ⊢
      unfold makeAttempt
      rw [hf]
      dsimp only at hq ⊢
      rw [hq]
    refine ⟨_, hmake, (hadd.trans (.of_schedules hqueue)).trans (.modRec ..), r', ?_, hseed⟩
    rw [modRec_recs, hqueue.sch]
    exact List.mem_map.2 ⟨_, hmem, if_pos (sealed_id _)⟩

/-! The budget reads registers, memory, launches and what attempts wait for, not the threads (R81). -/

section
variable {s t : State} (hm : t.mem = s.mem) (hp : t.plat = s.plat)
include hm hp

theorem walkGo_congr (va : Nat) : ∀ (l : List (Nat × Nat)) (tbl : Nat) (top : Bool), walkGo t va l tbl top = walkGo s va l tbl top
  | [], _, _ => rfl
  | (sh, ib) :: rest, tbl, top => by
    have hreg0 (off : Nat) : t.reg0 off = s.reg0 off := reg0_congr (congrArg Plat.bar0 hp) off
    have hdie (d : Nat) : t.dieState d = s.dieState d := by rw [State.dieState, State.dieState, hreg0]
    have hboot : t.bootState = s.bootState := by unfold State.bootState State.reg2; rw [hp]
    have hlost (d : Nat) : t.dieLost d = s.dieLost d := by rw [State.dieLost, State.dieLost, hdie]
    have hup (a : Nat) : notYetUp t a = notYetUp s a := by rw [notYetUp, notYetUp, hdie, hboot]
    cases rest with
    | nil =>
      unfold walkGo
      rw [hm]
      simp only [hlost, hup]
    | cons p r2 =>
      obtain ⟨sh2, ib2⟩ := p
      have hrest := walkGo_congr va ((sh2, ib2) :: r2)
      rw [walkGo, walkGo, hm]
      simp only [hlost, hup, hrest]

theorem tileDev_congr (l : Launch) (task : Nat) : tileDev t l task = tileDev s l task := by
  have hwalk (part va : Nat) : walk t part va = walk s part va := by
    unfold walk
    rw [walkGo_congr hm hp, reg0_congr (congrArg Plat.bar0 hp)]
  unfold tileDev
  dsimp only
  rw [hwalk, device_congr (congrArg Plat.bar2 hp)]

theorem budgetOk_congr (hs : t.sch = s.sch) (l : Launch) (task : Nat) : budgetOk t l task = budgetOk s l task := by
  have hreg0 (off : Nat) : t.reg0 off = s.reg0 off := reg0_congr (congrArg Plat.bar0 hp) off
  unfold budgetOk backupsOf hedgeCfg
  rw [hreg0, hreg0, hreg0, hreg0, tileDev_congr hm hp, device_congr (congrArg Plat.bar2 hp), hs]
end

theorem markTested_reg0 (s : State) (n off : Nat) : (markTested s n).reg0 off = s.reg0 off := reg0_congr (congrArg Plat.bar0 (State.setT_plat ..)) off
theorem markTested_device (s : State) (n : Nat) : (markTested s n).device = s.device := device_congr (congrArg Plat.bar2 (State.setT_plat ..))
theorem markTested_tests {s : State} {n : Nat} {r : Rec} (h : (s.getT n).rcd = some r) :
    ∃ x, ((markTested s n).getT n).rcd = some x ∧ x.tested = true := by
  refine ⟨{ r with tested := true }, ?_, rfl⟩
  unfold markTested State.modT
  rw [State.getT_setT_self]
  dsimp only
  rw [h]
  rfl

end Sys2Proof.Machine
end

section
/-! The steps of hedging (R75-R81, R358, R481). -/
namespace Sys2Proof.Machine
open Sys2Proof

/-- At distance 0 a backup enters the queue of its own die, barred from the straggler's core (R76). -/
theorem placeBackup_near {s : State} {l : Launch} {w : Want} {f : Nat} (hdist : fld (classWord s l w.cls) 59 58 = 0) (hf : l.freeFrame = some f) (a : Nat) :
    OnlyJoins s (placeBackup s l w a) ∧ ∃ r ∈ (placeBackup s l w a).sch.recs,
      FromSeed { task := w.task, cls := w.cls, attempt := a, base := w.base, backup := true, barred := some w.core } l.num w.die r := by
  obtain ⟨t, hmake, hjoin, hrec⟩ := makeAttempt_makes (s := s) hf w.die { task := w.task, cls := w.cls, attempt := a, base := w.base, backup := true, barred := some w.core }
  have hplace : placeBackup s l w a = t := by
    unfold placeBackup
    dsimp only
    rw [if_pos hdist, hmake]
    rfl
  rw [hplace]
  exact ⟨hjoin, hrec⟩

/-- At a test the one attempt that a die's threads hold is tested alone (R75). -/
theorem stragglerTest_one {s : State} {die n : Nat} (hcount : s.count % 4096 = 0) (hrun : countStops s.bivState = false) (hdie : s.dieState die = 1 ∨ s.dieState die = 2)
    (hone : holdersOn s die (fun _ => true) = [n]) : ∃ t, exec (.stragglerTest die) s = .next t ∧ Schedules (testThread die s n) t := by
  have htest : exec (.stragglerTest die) s = .next (if (testThread die s n).sch.launches.any (fun l => !l.isGang) then (testThread die s n).after monitorTime (.stragglerTest die)
      else testThread die s n) := by
    change execStragglerTest die s = _
    unfold execStragglerTest
    rw [if_neg (by rw [hrun]; exact fun h => h.elim (fun h => h hcount) (nomatch ·)), if_pos hdie, hone]
    rfl
  refine ⟨_, htest, ?_⟩
  split
  · exact .after ..
  · exact .refl _

/-- A straggler of a launch of this module (R75, R81). -/
theorem testThread_straggler {s : State} {die n : Nat} {r : Rec} {l : Launch} (hr : (s.getT n).rcd = some r) (hl : s.findLaunch r.w.launch = some l) (hends : l.ends = false)
    (hown : l.isMirror = false) (hslow : straggler s die l (s.getT n) r = true) : testThread die s n =
      if budgetOk s l r.w.task then grantBackup (markTested s n) l (wantOf r die (thCore n)) else denied (markTested s n) l.part := by
  have hbudget : budgetOk (markTested s n) l r.w.task = budgetOk s l r.w.task := budgetOk_congr (State.modT_mem ..) (State.setT_plat ..) (State.setT_sch ..) l _
  unfold testThread
  dsimp only
  rw [hr]
  dsimp only
  rw [hl]
  dsimp only
  rw [if_neg (by rw [hends, hslow]; decide), if_neg (by rw [hown]; decide), hbudget]
  cases budgetOk s l r.w.task <;> rfl

/-- A backup within the budget, numbered here, at distance 0 (R76, R77, R81). -/
theorem grantBackup_near {s s1 : State} {l l1 : Launch} {w : Want} {a f : Nat} (hhome : tileDev s l w.task = s.device)
    (hnum : takeNumber (addReg s (liveOff l.part) 1) w.launch w.task = some (a, s1)) (hl1 : s1.findLaunch w.launch = some l1) (hdist : fld (classWord s1 l1 w.cls) 59 58 = 0)
    (hf : l1.freeFrame = some f) : OnlyJoins s1 (grantBackup s l w) ∧ ∃ r ∈ (grantBackup s l w).sch.recs,
      FromSeed { task := w.task, cls := w.cls, attempt := a, base := w.base, backup := true, barred := some w.core } l1.num w.die r := by
  have hgrant : grantBackup s l w = placeBackup s1 l1 w a := by
    unfold grantBackup
    dsimp only
    rw [if_pos hhome]
    unfold numberBackup
    rw [hnum]
    dsimp only
    rw [hl1]
  rw [hgrant]
  exact placeBackup_near hdist hf a

section
variable {s : State} {die n : Nat} {r : Rec} {l : Launch} (hcount : s.count % 4096 = 0) (hrun : countStops s.bivState = false)
  (hdie : s.dieState die = 1 ∨ s.dieState die = 2) (hone : holdersOn s die (fun _ => true) = [n]) (hr : (s.getT n).rcd = some r)
  (hl : s.findLaunch r.w.launch = some l) (hends : l.ends = false) (hown : l.isMirror = false) (hslow : straggler s die l (s.getT n) r = true)
include hcount hrun hdie hone hr hl hends hown hslow

/-- A straggler without budget is tested and counted as denied (R81). -/
theorem stragglerTest_denied (hbudget : budgetOk s l r.w.task = false) : Answers (.stragglerTest die) s (fun t =>
    (∃ x, (t.getT n).rcd = some x ∧ x.tested = true) ∧ t.reg0 (deniedOff l.part) = s.reg0 (deniedOff l.part) + 1) := by
  obtain ⟨t, hstep, hsched⟩ := stragglerTest_one hcount hrun hdie hone
  have hthen : OnlyJoins (testThread die s n) t := .of_schedules hsched
  have htest : testThread die s n = denied (markTested s n) l.part := by
    rw [testThread_straggler hr hl hends hown hslow, hbudget]
    rfl
  obtain ⟨x, hx, hxt⟩ := markTested_tests hr
  refine ⟨t, hstep, ⟨x, ?_, hxt⟩, ?_⟩
  · rw [hthen.threads, htest, denied, addReg_getT]
    exact hx
  · rw [hthen.reg0, htest, denied, addReg_self, markTested_reg0]
    rfl

/-- A straggler within the budget has a backup in the queue of its die, under the next number (R76, R77, R81). -/
theorem stragglerTest_granted {a f : Nat} {s1 : State} {l1 : Launch} (hbudget : budgetOk s l r.w.task = true) (hhome : tileDev (markTested s n) l r.w.task = s.device)
    (htake : takeNumber (addReg (markTested s n) (liveOff l.part) 1) l.num r.w.task = some (a, s1)) (hl1 : s1.findLaunch l.num = some l1)
    (hdist : fld (classWord s1 l1 r.w.cls) 59 58 = 0) (hf : l1.freeFrame = some f) : Answers (.stragglerTest die) s (fun t =>
    (∃ x, (t.getT n).rcd = some x ∧ x.tested = true) ∧ t.reg0 (liveOff l.part) = s.reg0 (liveOff l.part) + 1 ∧
      ∃ x ∈ t.sch.recs, x.w.backup = true ∧ x.w.task = r.w.task ∧ x.w.launch = l.num ∧ x.w.attempt = (l.task r.w.task).nextAttempt ∧ x.base = r.base ∧
        x.barred = some (thCore n) ∧ x.place = .queue die) := by
  obtain ⟨t, hstep, hsched⟩ := stragglerTest_one hcount hrun hdie hone
  have hthen : OnlyJoins (testThread die s n) t := .of_schedules hsched
  have htest : testThread die s n = grantBackup (markTested s n) l (wantOf r die (thCore n)) := by
    rw [testThread_straggler hr hl hends hown hslow, if_pos hbudget]
  obtain ⟨x, hx, hxt⟩ := markTested_tests hr
  have hnum := findLaunch_num hl
  rw [hnum] at htake hl1
  have hcounted : (addReg (markTested s n) (liveOff l.part) 1).findLaunch r.w.launch = some l :=
    (findLaunch_of_launches (by rw [addReg_sch, markTested, State.modT, State.setT_sch]) _).trans hl
  obtain ⟨rfl, htaken⟩ := takeNumber_gives hcounted htake
  obtain ⟨hjoin, y, hy, hseed⟩ := grantBackup_near (w := wantOf r die (thCore n)) (hhome.trans (markTested_device s n).symm) htake hl1 hdist hf
  rw [← htest] at hjoin hy
  have hkeeps := (htaken.trans hjoin).trans hthen
  refine ⟨t, hstep, ⟨x, (congrArg Thread.rcd ((hkeeps.threads n).trans (addReg_getT ..))).trans hx, hxt⟩, ?_, y, hsched.sch ▸ hy, hseed.backup, hseed.task, ?_,
    hseed.attempt, hseed.base, hseed.barred, hseed.place⟩
  · rw [hkeeps.reg0, addReg_self, markTested_reg0]
    rfl
  · rw [hseed.launch, findLaunch_num hl1, hnum]
end

/-! Requests, answers and offers (R77, R81, R358). -/

theorem after_reg0 (s : State) (n : Nat) (e : Event) (off : Nat) : (s.after n e).reg0 off = s.reg0 off := reg0_congr rfl off

theorem lessAlive_joins (s : State) (num task : Nat) (b : Bool) : OnlyJoins s (lessAlive s num task b) := .modLaunch ..
theorem lessAlive_recs (s : State) (num task : Nat) (b : Bool) : (lessAlive s num task b).sch.recs = s.sch.recs := State.modLaunch_sch_recs ..
theorem lessAlive_offers (s : State) (num task : Nat) (b : Bool) : (lessAlive s num task b).sch.offers = s.sch.offers := State.modLaunch_sch_offers ..

theorem sendAway_away (s : State) (l : Launch) (task a asker : Nat) : (sendAway s l task a asker).sch.away =
    s.sch.away ++ [{ launch := l.num, key := l.key, part := l.part, task := task, attempt := a, dev := awayDev s l task asker }] := rfl
theorem sendAway_reg0 (s : State) (l : Launch) (task a asker off : Nat) : (sendAway s l task a asker).reg0 off = s.reg0 off := by
  have hplat : (sendAway s l task a asker).plat = s.plat := by
    unfold sendAway
    exact (State.modSch_plat ..).trans (OnlyJoins.modTask ..).plat
  exact reg0_congr (congrArg Plat.bar0 hplat) off

section
variable {s : State} {num : Nat} {l : Launch} (hl : s.findLaunch num = some l)
include hl

/-- A request within the budget: LIVE counts the backup, which is away from now on (R81, log 36). -/
theorem budgetRequest_granted {dev task att a : Nat} {s2 : State} (hown : l.isMirror = false) (hends : l.ends = false) (hbudget : budgetOk s l task = true)
    (hatt : att < 0x8000) (hhome : tileDev s l task = s.device) (htake : takeNumber (addReg s (liveOff l.part) 1) num task = some (a, s2)) :
    exec (.hedgeBudgetRequest dev num task att) s = .next ((sendAway s2 l task a dev).owe dev 1) := by
  change execHedgeBudgetRequest dev num task att s = _
  unfold execHedgeBudgetRequest
  rw [hl]
  dsimp only
  rw [if_neg (by rw [hends]; decide), if_neg (by rw [hown]; decide), if_neg (by rw [hbudget]; simp; omega), if_neg (fun h => h hhome), htake]
theorem budgetRequest_denied {dev task att : Nat} (hown : l.isMirror = false) (hends : l.ends = false) (hbudget : budgetOk s l task = false) :
    exec (.hedgeBudgetRequest dev num task att) s = .next ((denied s l.part).owe dev 1) := by
  change execHedgeBudgetRequest dev num task att s = _
  unfold execHedgeBudgetRequest
  rw [hl]
  dsimp only
  rw [if_neg (by rw [hends]; decide), if_neg (by rw [hown]; decide), if_pos (by rw [hbudget]; rfl)]

/-- The answer to a request of this module's own launch (R77, R81). -/
theorem budgetAnswer_own {w : Want} (hown : l.isMirror = false) (hw : s.sch.wants.find? (fun x => x.launch == num && x.task == w.task && x.attempt == w.attempt) = some w)
    (granted : Option Nat) : exec (.hedgeBudgetAnswer num w.task w.attempt granted) s =
      .next ((lessAlive (ownAnswer (s.modSch (fun c => { c with wants := c.wants.erase w })) l w granted) num w.task false).after Config.grantTime (.launchDone num)) := by
  change execHedgeBudgetAnswer num w.task w.attempt granted s = _
  unfold execHedgeBudgetAnswer
  rw [hw, hl]
  exact if_neg (by rw [hown]; decide)

/-- An offered backup that this module takes (R358). -/
theorem backupOffer_taken {task att d : Nat} {base : BitVec 32} {x : Desc0} {s1 : State} (hgang : l.isGang = false) (hends : l.ends = false) (hadmit : admitWaits s l = false)
    (hdie : freestDie s l.part none = some d) (hread : readTask s l d task = some (x, s1)) : exec (.backupOffer num task att base) s =
      .next (answerOffer ((makeAttempt (comesHome s1 num task att) l d
        { task := task, cls := x.cls, attempt := att, base := some base, backup := true, barred := none }).getD s) l task att) := by
  change execBackupOffer num task att base s = _
  unfold execBackupOffer
  rw [hl]
  dsimp only
  rw [if_neg (by rw [hgang, hends]; decide), if_neg (by rw [hadmit]; decide), hdie]
  dsimp only
  rw [hread]
end

theorem answerOffer_recs (s : State) (l : Launch) (task att : Nat) : (answerOffer s l task att).sch.recs = s.sch.recs := by
  unfold answerOffer
  split
  · exact congrArg Sched.recs (owe_sch ..)
  · split
    · exact congrArg Sched.recs (owe_sch ..)
    · rfl

/-! The answer to an offer (R358). -/

section
variable {s : State} {num task att dev : Nat} {l : Launch} {base : BitVec 32} {devs : List Nat}

/-- The offer of a backup to some modules in order. -/
def offerTo (num task att : Nat) (base : BitVec 32) (devs : List Nat) : Offer := { launch := num, task := task, attempt := att, base := base, devs := devs }

/-- The offer that is answered is gone. -/
def dropOffer (s : State) (o : Offer) : State := s.modSch (fun c => { c with offers := c.offers.filter (fun y => y != o) })
theorem dropOffer_only {o : Offer} (h : s.sch.offers = [o]) : (dropOffer s o).sch.offers = [] := by
  change s.sch.offers.filter _ = _
  rw [h]
  simp

variable (hl : s.findLaunch num = some l) (ho : s.sch.offers = [offerTo num task att base (dev :: devs)])
include hl ho

omit hl in
theorem findOffer_only : s.sch.offers.find? (fun o => o.launch == num && o.task == task && o.attempt == att) = some (offerTo num task att base (dev :: devs)) := by
  rw [ho]
  simp [offerTo]

theorem offerAnswer_accepted : exec (.backupOfferAnswer num task att true) s = .next ((dropOffer s (offerTo num task att base (dev :: devs))).modSch
    (fun c => { c with away := c.away ++ [{ launch := num, key := l.key, part := l.part, task := task, attempt := att, dev := dev }] })) := by
  change execBackupOfferAnswer num task att true s = _
  unfold execBackupOfferAnswer
  rw [findOffer_only ho, hl]
  exact if_pos rfl

/-- No module is left to which the backup may be offered. -/
theorem offerAnswer_denied (hown : l.isMirror = false) (hnone : devs = []) : exec (.backupOfferAnswer num task att false) s =
    .next ((unbudget (lessAlive (dropOffer s (offerTo num task att base (dev :: devs))) num task true) l).after Config.grantTime (.launchDone num)) := by
  subst hnone
  change execBackupOfferAnswer num task att false s = _
  unfold execBackupOfferAnswer
  rw [findOffer_only ho, hl]
  refine (if_neg (by decide)).trans ?_
  dsimp only [offerTo, List.drop, List.filter]
  rw [if_neg (by rw [hown]; decide)]
  rfl

theorem offerAnswer_next {d : Nat} {rest : List Nat} (hnext : devs.filter (fun x => (s.portOf x).isSome) = d :: rest) : exec (.backupOfferAnswer num task att false) s =
    .next ((s.modSch (fun c => { c with offers := c.offers.map (fun y => if y = offerTo num task att base (dev :: devs) then offerTo num task att base (d :: rest) else y) })).owe d 1) := by
  change execBackupOfferAnswer num task att false s = _
  unfold execBackupOfferAnswer
  rw [findOffer_only ho, hl]
  refine (if_neg (by decide)).trans ?_
  dsimp only [offerTo, List.drop]
  rw [hnext]
  rfl
end

/-! The end notice of a mirror (R358). -/

/-- A change of one launch, seen from any number. -/
theorem findLaunch_modLaunch_any {s : State} {n : Nat} {f : Launch → Launch} (hf : ∀ x, (f x).num = x.num) (m : Nat) :
    (s.modLaunch n f).findLaunch m = (s.findLaunch m).map (fun l => if l.num = n then f l else l) := by
  have hnum : ((fun l : Launch => l.num == m) ∘ fun l => if l.num = n then f l else l) = fun l => l.num == m := by
    funext l
    change ((if l.num = n then f l else l).num == m) = (l.num == m)
    split
    · rw [hf]
    · rfl
  change (s.sch.launches.map _).find? _ = _
  rw [List.find?_map, hnum]
  rfl

theorem quitRots_nil (s : State) : quitRots [] s = s := by
  unfold quitRots
  refine List.foldl_fixed' (fun c => ?_) _
  split
  · exact if_neg (by simp)
  · rfl

theorem allGrants_schedules (s : State) : Schedules s (allGrants s) := .foldl (fun t _ => .after t _ _) _ s

/-- A mirror in its end: nothing waits for a number of it. -/
def mirrorEnding (s : State) (num status : Nat) : State :=
  (s.modLaunch num (fun x => { x with phase := .ending status, ranges := [] })).modSch (fun c => { c with wants := c.wants.filter (fun w => w.launch != num) })
theorem mirrorEnding_findLaunch {s : State} {num : Nat} {l : Launch} (hl : s.findLaunch num = some l) (status : Nat) :
    (mirrorEnding s num status).findLaunch num = some { l with phase := .ending status, ranges := [] } := by
  have hmap := findLaunch_modLaunch_any (s := s) (n := num) (f := fun x => { x with phase := .ending status, ranges := [] }) (fun _ => rfl) num
  rw [hl, Option.map_some, if_pos (findLaunch_num hl)] at hmap
  exact (findLaunch_of_launches rfl num).trans hmap

/-- A mirror without records ends at once (R358, R364). -/
theorem endLaunch_mirror {s : State} {num : Nat} {l : Launch} (hl : s.findLaunch num = some l) (hmirror : l.isMirror = true) (hends : l.ends = false)
    (hrecs : ∀ r ∈ s.sch.recs, r.w.launch ≠ num) (hheld : ∀ k ∈ s.holders, thLaunch (s.getT k) ≠ num) (status : Nat) :
    Schedules (mirrorEnding s num status) (endLaunch s num status) := by
  have hdrop : dropWants (s.modLaunch num (fun x => { x with phase := .ending status, ranges := [] })) l = mirrorEnding s num status := by
    refine (if_pos (by rw [hmirror]; rfl)).trans ?_
    rw [findLaunch_num hl]
    rfl
  have hrest : (mirrorEnding s num status).sch.recs.filter (fun r => r.w.launch == num && !parkedRest (mirrorEnding s num status) r) = [] :=
    List.filter_eq_nil_iff.2 fun r hr => by simp [hrecs r hr]
  have hthreads : (mirrorEnding s num status).holders.filter (fun n => thLaunch ((mirrorEnding s num status).getT n) == num) = [] :=
    List.filter_eq_nil_iff.2 fun k hk => by
      have hk' : thLaunch ((mirrorEnding s num status).getT k) ≠ num := hheld k hk
      simp [hk']
  have hrids : launchRids (mirrorEnding s num status) num = [] := by
    rw [launchRids, hthreads, List.filter_eq_nil_iff.2 fun r hr => by simp [hrecs r hr]]
    rfl
  have hend : endLaunch s num status = (allGrants (mirrorEnding s num status)).after Config.grantTime (.launchDone num) := by
    unfold endLaunch
    rw [hl]
    dsimp only
    rw [if_neg (by rw [hends]; decide), hdrop]
    rw [hrids, quitRots_nil, hrest, List.foldl_nil, hthreads, List.foldl_nil]
  rw [hend]
  exact (allGrants_schedules _).trans (.after ..)

/-! The end of a backup that is away (R80, R358, R481). -/

section
variable {s : State} {num : Nat} {a : Away} (ha : s.sch.away = [a]) (hn : a.launch = num)
include ha

theorem findAway_only : findAway s a.launch a.task a.attempt = some a := by
  unfold findAway
  rw [ha]
  simp

/-- The entry is gone; the counters of this module's own launch fall (R80). -/
theorem awayEnds_own (hown : (s.findLaunch a.launch).any (fun l => l.isMirror && l.key == a.key) = false) :
    (awayEnds s a).sch.away = [] ∧ (awayEnds s a).plat = (addReg s (liveOff a.part) (-1)).plat := by
  unfold awayEnds
  dsimp only
  rw [hown]
  rw [if_neg (by decide)]
  have hsch := addReg_sch s (liveOff a.part) (-1)
  generalize addReg s (liveOff a.part) (-1) = u at hsch ⊢
  have hgone : (u.sch.away).erase a = [] := by rw [hsch, ha]; simp
  split
  · rw [if_neg (by decide)]
    split
    · exact ⟨hgone, rfl⟩
    · exact ⟨hgone, rfl⟩
  · exact ⟨hgone, rfl⟩
theorem awayEnds_mirror (hmirror : (s.findLaunch a.launch).any (fun l => l.isMirror && l.key == a.key) = true) :
    (awayEnds s a).sch.away = [] ∧ (awayEnds s a).plat = s.plat := by
  have hgone : (s.sch.away).erase a = [] := by rw [ha]; simp
  unfold awayEnds
  dsimp only
  rw [hmirror]
  split
  · exact ⟨hgone, rfl⟩
  · exact ⟨hgone, rfl⟩
end


/-- The cycles of a backup that ended elsewhere (R80). -/
def charged (s : State) (part cycles : Nat) : State := addReg (addReg s (dupOff part) cycles) (issOff part) cycles

theorem backupEnd_charges {s : State} {a : Away} (ha : s.sch.away = [a]) (cycles : Nat) : exec (.backupEndCharge ⟨a.launch, a.task, a.attempt⟩ cycles) s =
    .next (awayEnds (if (s.findLaunch a.launch).any (fun l => l.isMirror && l.key == a.key) then s
      else charged s a.part cycles) a) := by
  change execBackupEndCharge _ cycles s = _
  unfold execBackupEndCharge
  dsimp only
  rw [findAway_only ha]
  rfl
theorem backupUnreachable_waits {s : State} {a : Away} {g : Nat} (ha : s.sch.away = [a]) (hport : s.portOf a.dev = none) (hgone : goneSince s a.dev = some g)
    (hlt : s.clock < g + unreachTime) : exec (.backupUnreachable ⟨a.launch, a.task, a.attempt⟩) s =
      .next (s.after (g + unreachTime - s.clock) (.backupUnreachable ⟨a.launch, a.task, a.attempt⟩)) := by
  change execBackupUnreachable _ s = _
  unfold execBackupUnreachable
  rw [findAway_only ha]
  dsimp only
  rw [if_neg (by rw [hport]; decide), hgone]
  exact if_pos hlt
/-- One second without the module (R481). -/
theorem backupUnreachable_ends {s : State} {a : Away} (ha : s.sch.away = [a]) (hport : s.portOf a.dev = none)
    (hover : ∀ g, goneSince s a.dev = some g → g + unreachTime ≤ s.clock) : exec (.backupUnreachable ⟨a.launch, a.task, a.attempt⟩) s = .next (awayEnds s a) := by
  change execBackupUnreachable _ s = _
  unfold execBackupUnreachable
  rw [findAway_only ha]
  dsimp only
  rw [if_neg (by rw [hport]; decide)]
  split
  · next g hg => exact if_neg (Nat.not_lt.2 (hover g hg))
  · rfl

theorem endNotice_mirror {s : State} {num : Nat} {l : Launch} (hl : s.findLaunch num = some l) (hmirror : l.isMirror = true) (status : Nat) :
    exec (.endNotice num status) s = .next (endLaunch s num (if status = 0 then 0 else 7)) := by
  change execEndNotice num status s = _
  unfold execEndNotice
  rw [hl]
  dsimp only
  rw [if_pos hmirror]

/-! The decay of the counters (R80). -/

theorem halve_self (s : State) (off : Nat) : (halve s off).reg0 off = s.reg0 off >>> 1 := State.reg0_setReg0_self ..
theorem halve_ne (s : State) {off o : Nat} (h : o ≠ off) : (halve s off).reg0 o = s.reg0 o := State.reg0_setReg0_ne _ _ _ _ h
theorem halve_clock (s : State) (off : Nat) : (halve s off).clock = s.clock := State.setReg0_clock ..

/-- ISS and DUP of the partitions below n halved. -/
def halvedBelow (s : State) (n : Nat) : State := (List.range n).foldl (fun x p => halve (halve x (issOff p)) (dupOff p)) s
theorem halvedBelow_succ (s : State) (n : Nat) : halvedBelow s (n + 1) = halve (halve (halvedBelow s n) (issOff n)) (dupOff n) := by
  unfold halvedBelow
  rw [List.range_succ, List.foldl_append]
  rfl
theorem halvedBelow_clock (s : State) (n : Nat) : (halvedBelow s n).clock = s.clock := by
  induction n with
  | zero => rfl
  | succ n ih => rw [halvedBelow_succ, halve_clock, halve_clock, ih]
/-- Each is halved once. -/
theorem halvedBelow_reg0 (s : State) (p n : Nat) :
    (halvedBelow s n).reg0 (issOff p) = (if p < n then s.reg0 (issOff p) >>> 1 else s.reg0 (issOff p)) ∧
    (halvedBelow s n).reg0 (dupOff p) = (if p < n then s.reg0 (dupOff p) >>> 1 else s.reg0 (dupOff p)) := by
  induction n with
  | zero => exact ⟨rfl, rfl⟩
  | succ n ih =>
    obtain ⟨hiss, hdup⟩ := ih
    rw [halvedBelow_succ, halve_ne _ (issOff_ne_dupOff p n)]
    by_cases hp : p = n
    · subst hp
      rw [halve_self, halve_self, halve_ne _ (issOff_ne_dupOff p p).symm, hiss, hdup]
      simp
    · rw [halve_ne _ (issOff_inj hp), halve_ne _ (dupOff_inj hp), halve_ne _ (issOff_ne_dupOff n p).symm, hiss, hdup]
      have hlt : p < n + 1 ↔ p < n := by omega
      simp only [hlt, and_self]

/-- Settles O56: the steps one by one, by what each leaves of the counters, the records and the lists of offers and backups away. -/
theorem hedgingSteps : Obligations.HedgingSteps := by
  unfold Obligations.HedgingSteps
  refine ⟨fun s die n r l hcount hrun hdie hone hr hl hends hown hslow => ⟨stragglerTest_denied hcount hrun hdie hone hr hl hends hown hslow,
      fun a f s1 l1 => stragglerTest_granted hcount hrun hdie hone hr hl hends hown hslow⟩,
    fun s num l hl => ⟨fun dev task att hown hends => ⟨?granted, ?denied⟩, ?answer, ?offer, fun task att dev base devs ho => ⟨?accepted, ?refused, ?next⟩, ?ended⟩, ?away, ?decay⟩
  case granted =>
    intro a s2 hbudget hatt hhome htake
    have hcounted : (addReg s (liveOff l.part) 1).findLaunch num = some l := (findLaunch_of_launches (by rw [addReg_sch]) num).trans hl
    obtain ⟨-, htaken⟩ := takeNumber_gives hcounted htake
    refine ⟨_, budgetRequest_granted hl hown hends hbudget hatt hhome htake, ?_, ?_⟩
    · rw [owe_reg0, sendAway_reg0, htaken.reg0, addReg_self]
      rfl
    · rw [owe_sch, sendAway_away, htaken.away, addReg_sch, findLaunch_num hl]
  case denied =>
    intro hbudget
    refine ⟨_, budgetRequest_denied hl hown hends hbudget, ?_, ?_⟩
    · rw [owe_reg0, denied, addReg_self]
      rfl
    · rw [owe_sch, denied, addReg_sch]
  case answer =>
    intro w number f hown hbackup hdie hw
    refine ⟨fun hdist hf => ⟨_, budgetAnswer_own hl hown hw (some number), ?_⟩, _, budgetAnswer_own hl hown hw none, ?_⟩
    · have hplaced : ownAnswer (s.modSch (fun c => { c with wants := c.wants.erase w })) l w (some number) =
          placeBackup (s.modSch (fun c => { c with wants := c.wants.erase w })) l w number := by
        unfold ownAnswer
        dsimp only
        rw [if_neg (by rw [hbackup]; decide), if_neg (by omega)]
      obtain ⟨hjoin, x, hx, hseed⟩ := placeBackup_near hdist hf number
      have hless := lessAlive_joins (placeBackup (s.modSch (fun c => { c with wants := c.wants.erase w })) l w number) num w.task false
      rw [hplaced]
      dsimp only
      rw [State.after_sch]
      exact ⟨hless.wants.trans hjoin.wants, x, by rw [lessAlive_recs]; exact hx, hseed.backup, hseed.task, hseed.attempt, hseed.base, hseed.barred, hseed.place⟩
    · have hrefused : ownAnswer (s.modSch (fun c => { c with wants := c.wants.erase w })) l w none = unbudget (s.modSch (fun c => { c with wants := c.wants.erase w })) l :=
        if_pos hbackup
      have hless := lessAlive_joins (unbudget (s.modSch (fun c => { c with wants := c.wants.erase w })) l) num w.task false
      have hreg0 (off : Nat) : (s.modSch (fun c => { c with wants := c.wants.erase w })).reg0 off = s.reg0 off := reg0_congr rfl off
      rw [hrefused]
      dsimp only
      rw [State.after_sch, lessAlive_recs, hless.wants, unbudget_sch hown]
      refine ⟨rfl, rfl, ?_, ?_⟩
      · rw [after_reg0, hless.reg0, unbudget_live hown, hreg0]
      · rw [after_reg0, hless.reg0, unbudget_denied hown, hreg0]
  case offer =>
    intro task att d f base x s1 hgang hends hadmit hdie hread hf
    obtain ⟨t, hmake, -, y, hy, hseed⟩ := makeAttempt_makes (s := comesHome s1 num task att) hf d
      { task := task, cls := x.cls, attempt := att, base := some base, backup := true, barred := none }
    refine ⟨_, backupOffer_taken hl hgang hends hadmit hdie hread, y, ?_, hseed.backup, hseed.task, hseed.attempt, hseed.base, hseed.place⟩
    rw [answerOffer_recs, hmake]
    exact hy
  case accepted =>
    exact ⟨_, offerAnswer_accepted hl ho, dropOffer_only ho, rfl⟩
  case refused =>
    intro hnone hown
    have hless := lessAlive_joins (dropOffer s (offerTo num task att base (dev :: devs))) num task true
    have hreg0 (off : Nat) : (dropOffer s (offerTo num task att base (dev :: devs))).reg0 off = s.reg0 off := reg0_congr rfl off
    refine ⟨_, offerAnswer_denied hl ho hown hnone, ?_, ?_, ?_, ?_⟩
    · rw [State.after_sch, unbudget_sch hown, lessAlive_offers]
      exact dropOffer_only ho
    · rw [State.after_sch, unbudget_sch hown, hless.away]
      rfl
    · rw [after_reg0, unbudget_live hown, hless.reg0, hreg0]
    · rw [after_reg0, unbudget_denied hown, hless.reg0, hreg0]
  case next =>
    intro d rest hnext
    refine ⟨_, offerAnswer_next hl ho hnext, ?_, ?_, ?_⟩
    · rw [owe_sch]
      change s.sch.offers.map _ = _
      rw [ho]
      simp [offerTo]
    · rw [owe_sch]
      rfl
    · rw [owe_reg0]
      exact reg0_congr rfl _
  case ended =>
    intro status hmirror hends hrecs hheld
    refine ⟨_, endNotice_mirror hl hmirror status, { l with phase := .ending (if status = 0 then 0 else 7), ranges := [] }, ?_, rfl, rfl⟩
    rw [(endLaunch_mirror hl hmirror hends hrecs hheld _).findLaunch]
    exact mirrorEnding_findLaunch hl _
  case away =>
    intro s num cycles a ha hn
    subst hn
    dsimp only
    refine ⟨fun hown => ?_, fun hmirror => ?_, fun hport hown hover => ?_, fun g hport hgone hlt => ?_⟩
    · have hcharge : (charged s a.part cycles).sch = s.sch := by rw [charged, addReg_sch, addReg_sch]
      have hown' : ((charged s a.part cycles).findLaunch a.launch).any (fun l => l.isMirror && l.key == a.key) = false := by
        rw [findLaunch_of_launches (congrArg Sched.launches hcharge)]
        exact hown
      obtain ⟨hgone, hplat⟩ := awayEnds_own (hcharge ▸ ha) hown'
      have hreg0 (off : Nat) := reg0_congr (congrArg Plat.bar0 hplat) off
      refine ⟨_, (backupEnd_charges ha cycles).trans (congrArg (fun x => Host.Outcome.next (awayEnds x a)) (if_neg (by rw [hown]; decide))), hgone, ?_, ?_, ?_⟩
      · exact (hreg0 _).trans ((addReg_neg_one ..).trans (by rw [charged, addReg_ne _ _ (liveOff_ne_issOff _ _), addReg_ne _ _ (liveOff_ne_dupOff _ _)]))
      · refine (hreg0 _).trans ((addReg_ne _ _ (liveOff_ne_dupOff _ _).symm).trans ?_)
        rw [charged, addReg_ne _ _ (issOff_ne_dupOff _ _).symm, addReg_self, BitVec.ofInt_natCast]
      · refine (hreg0 _).trans ((addReg_ne _ _ (liveOff_ne_issOff _ _).symm).trans ?_)
        rw [charged, addReg_self, addReg_ne _ _ (issOff_ne_dupOff _ _), BitVec.ofInt_natCast]
    · refine ⟨_, (backupEnd_charges ha cycles).trans ?_, awayEnds_mirror ha hmirror⟩
      rw [if_pos hmirror]
    · obtain ⟨hgone, hplat⟩ := awayEnds_own ha hown
      refine ⟨_, backupUnreachable_ends ha hport hover, hgone, ?_⟩
      rw [reg0_congr (congrArg Plat.bar0 hplat), addReg_neg_one]
    · exact ⟨_, backupUnreachable_waits ha hport hgone hlt, rfl, mem_agendaIns ..⟩
  case decay =>
    intro s p hp hcount hrun
    obtain ⟨hiss, hdup⟩ := halvedBelow_reg0 s p 64
    rw [if_pos hp] at hiss hdup
    refine ⟨_, if_neg (by rw [hrun]; exact fun h => h.elim (fun h => h hcount) (nomatch ·)), (after_reg0 ..).trans hiss, (after_reg0 ..).trans hdup, ?_⟩
    exact dueIn_after _ _ (halvedBelow_clock s 64)

end Sys2Proof.Machine
end

section
/-! A step of one thread, whichever the module looks at. -/
namespace Sys2Proof.Machine
open Sys2Proof

section
variable (s : State) (n : Nat)
theorem focus_cur : (s.focus n).cur = n := by
  unfold State.focus
  split
  · next h => exact h.symm
  · rfl
theorem focus_thr : (s.focus n).thr = s.getT n := by
  unfold State.focus State.getT
  split <;> rfl
theorem focus_plat : (s.focus n).plat = s.plat := by unfold State.focus; split <;> rfl
theorem focus_core (k : Nat) : (s.focus n).core k = s.core k := by unfold State.focus; split <;> rfl
theorem focus_getT (k : Nat) : (s.focus n).getT k = s.getT k := by
  by_cases hn : n = s.cur
  · rw [State.focus, if_pos hn]
  · unfold State.focus State.getT
    rw [if_neg hn]
    dsimp only
    by_cases hk : k = n
    · rw [if_pos hk, hk, if_neg hn]
    · rw [if_neg hk, tabGet_tabDel_ne _ _ _ _ hk]
      by_cases hc : k = s.cur
      · rw [if_pos hc, hc, tabGet_tabSet_self]
      · rw [if_neg hc, tabGet_tabSet_ne _ _ _ _ _ hc]
end

theorem asThread_getT (s : State) (n : Nat) (f : State → State) (k : Nat) : (asThread s n f).getT k = (f (s.focus n)).getT k := focus_getT ..
theorem asThread_own {s : State} {n : Nat} {f : State → State} (h : (f (s.focus n)).cur = n) : (asThread s n f).getT n = (f (s.focus n)).thr := by
  rw [asThread_getT, State.getT, if_pos h.symm]

end Sys2Proof.Machine
end

section
/-! Replies (R189, R430, R238). -/
namespace Sys2Proof.Machine
open Sys2Proof

/-- Only a thread's wait for its replies may have ended. -/
theorem afterReply_open {s : State} (h : (s.core (thCore s.cur)).parked = none) :
    afterReply s = s.modI (fun i => { i with blocked := if i.blocked = some .reply then none else i.blocked }) := by
  unfold afterReply
  refine if_pos ?_
  rw [Bool.or_eq_true]
  exact .inr (by rw [show ((s.modI _).core (thCore (s.modI _).cur)).parked = none from h]; rfl)

theorem landPosted_performs (p : Nat × Store → Bool) (s : State) (core : Nat) : Performs s (landPosted p s core) := by
  unfold landPosted
  refine Performs.trans ⟨.setCore s core { s.core core with posted := (s.core core).posted.filter (fun x => !p x) } rfl, fun k => ?_⟩
    (.foldl (f := putStore) putStore_performs _ _)
  obtain rfl | hk := eq_or_ne k core
  · rw [State.core_setCore_self]
  · rw [State.core_setCore_ne _ _ _ _ hk]
theorem landPosted_plat (p : Nat × Store → Bool) (s : State) (core : Nat) : (landPosted p s core).plat = s.plat := by
  have hput (l : List Store) (t : State) : (l.foldl putStore t).plat = t.plat := by
    induction l generalizing t with
    | nil => rfl
    | cons x l ih =>
      refine (ih (putStore t x)).trans ?_
      unfold putStore
      split <;> rfl
  exact hput _ (s.setCore core _)

/-- What a value that reaches register s[d] of a thread does: at once, or as the newest result still in flight (R189). -/
structure ValueLands (d : BitVec 5) (v : Word) (ver : Bool) (x y : Thread) : Prop where
  replies : y.i.replies = x.i.replies
  now : ver = true ∨ (∀ p ∈ x.i.pend, p.reg ≠ .s d) → y.r.getS d = v ∧ ∀ p ∈ y.i.pend, p.reg ≠ .s d
  inFlight : ver = false → ∀ p ∈ x.i.pend, p.reg = .s d → (∀ q ∈ x.i.pend, q.reg = .s d → q.ready ≤ p.ready) → ({ p with val := .s v } : Pend) ∈ y.i.pend

theorem cleanRegs_thr (s : State) (n : Nat) (gs : List Reg) : (cleanRegs s n gs).thr = s.thr ∧ (cleanRegs s n gs).mem.cells = s.mem.cells := by
  unfold cleanRegs
  dsimp only
  split <;> exact ⟨rfl, rfl⟩

theorem landNow_thr (s : State) (d : BitVec 5) (v : Word) : (landNow s (.s d) (.s v)).thr =
    { s.thr with r := s.thr.r.setS d v, i := { s.thr.i with pend := s.thr.i.pend.filter (fun q => q.reg != .s d) } } := rfl

theorem landReg_lands {s : State} {r : Reply} {d : BitVec 5} (hd : d ≠ 0) (hdest : r.dest = .s d) (v : Word) :
    ValueLands d v r.acc.interlocked s.thr (landReg s r (.s v)).thr ∧ (landReg s r (.s v)).mem.cells = s.mem.cells := by
  obtain ⟨hthr, hcells⟩ := cleanRegs_thr s s.cur [r.dest]
  unfold landReg
  dsimp only
  rw [hdest] at hthr hcells ⊢
  generalize cleanRegs s s.cur [.s d] = t at hthr hcells ⊢
  split
  · next hnow =>
    rw [landNow_thr, hthr]
    refine ⟨⟨rfl, fun _ => ⟨(Regs.getS_setS ..).trans (if_pos ⟨rfl, hd⟩), fun p hp => by simpa using (List.mem_filter.1 hp).2⟩, fun hver p hp hreg _ => ?_⟩, hcells⟩
    rw [hver, Bool.false_or, Bool.not_eq_true', List.any_eq_false] at hnow
    exact absurd (beq_iff_eq.2 hreg) (hnow p hp)
  · next hlater =>
    simp only [Bool.or_eq_true, not_or, Bool.not_eq_true, Bool.not_eq_false', List.any_eq_true] at hlater
    obtain ⟨hver, p, hp, hreg⟩ := hlater
    refine ⟨⟨by rw [← hthr]; rfl, fun hno => ?_, fun _ p hp hreg hmax => ?_⟩, hcells⟩
    · obtain hno | hno := hno
      · rw [hver] at hno; cases hno
      · exact absurd (beq_iff_eq.1 hreg) (hno p hp)
    · refine List.mem_map.2 ⟨p, hthr ▸ hp, if_pos ⟨hreg, List.all_eq_true.2 fun x hx => ?_⟩⟩
      rw [hthr] at hx
      by_cases hxr : x.reg = .s d
      · simp [hmax x hx hxr]
      · simp [hxr]

/-- The thread of `s` after its earlier stores to the home, its reply no longer awaited. -/
def answered (s : State) (r : Reply) : State := (settleFor s r).modI (fun i => { i with replies := i.replies.erase r })

section
variable (s : State) (r : Reply)
theorem settleFor_performs : Performs s (settleFor s r) := landPosted_performs ..
theorem answered_cur : (answered s r).cur = s.cur := (settleFor_performs s r).cur
theorem answered_thr : (answered s r).thr = { s.thr with i := { s.thr.i with replies := s.thr.i.replies.erase r } } := by
  rw [← (settleFor_performs s r).thr]
  rfl
theorem answered_parked (k : Nat) : ((answered s r).core k).parked = (s.core k).parked := (settleFor_performs s r).parked k
theorem answered_plat : (answered s r).plat = s.plat := landPosted_plat ..
end

theorem keyLost_congr {s t : State} (h : t.plat = s.plat) (k : Nat) : keyLost t k = keyLost s k := by
  unfold keyLost State.dieLost State.dieState
  rw [reg0_congr (congrArg Plat.bar0 h)]

/-- The thread and its core while a reply lands. -/
structure LandsIn (s t : State) : Prop where
  cur : t.cur = s.cur
  parked : ∀ k, (t.core k).parked = (s.core k).parked

theorem LandsIn.trans {s t u : State} (h : LandsIn s t) (k : LandsIn t u) : LandsIn s u := ⟨k.cur.trans h.cur, fun i => (k.parked i).trans (h.parked i)⟩
theorem answered_landsIn (s : State) (r : Reply) : LandsIn s (answered s r) := ⟨answered_cur s r, answered_parked s r⟩
theorem landReg_landsIn (s : State) (r : Reply) (v : Val) : LandsIn s (landReg s r v) := by
  have hclean : LandsIn s (cleanRegs s s.cur [r.dest]) := by
    unfold cleanRegs
    dsimp only
    split <;> exact ⟨rfl, fun _ => rfl⟩
  refine hclean.trans ?_
  unfold landReg
  dsimp only
  split <;> exact ⟨rfl, fun _ => rfl⟩
theorem acquireOf_cachesOnly (s : State) (sc : Option Scope) : CachesOnly s (acquireOf s sc) := by
  cases sc with
  | none => exact .refl s
  | some sc => exact acquire_cachesOnly s s.cur sc
theorem acquireOf_cells (s : State) (sc : Option Scope) : (acquireOf s sc).mem.cells = s.mem.cells := by
  cases sc with
  | none => rfl
  | some sc =>
    unfold acquireOf acquire
    dsimp only
    split <;> rfl

/-- The end of a reply in the focused thread. -/
theorem landReply_ends {s : State} {r : Reply} {ans : HomeAnswer} (hin : LandsIn (answered s r) (landAnswer (answered s r) r ans))
    (hpark : (s.core (thCore s.cur)).parked = none) : (landReply ans r s).cur = s.cur ∧ (landReply ans r s).mem = (landAnswer (answered s r) r ans).mem ∧
      ∃ b, (landReply ans r s).thr = { (landAnswer (answered s r) r ans).thr with i := { (landAnswer (answered s r) r ans).thr.i with blocked := b } } := by
  have hall := (answered_landsIn s r).trans hin
  have hland : landReply ans r s = afterReply ((landAnswer (answered s r) r ans).after 0 (.storeDrain (thCore s.cur))) := rfl
  rw [hland, afterReply_open (s := (landAnswer (answered s r) r ans).after 0 (.storeDrain (thCore s.cur)))
    (by change ((landAnswer (answered s r) r ans).core (thCore (landAnswer (answered s r) r ans).cur)).parked = none; rw [hall.parked, hall.cur, hpark])]
  exact ⟨hall.cur, rfl, _, rfl⟩

/-- A value arrives for the one reply that a thread awaits (R189). -/
theorem reply_value {s : State} {th : Nat} {r : Reply} {d : BitVec 5} {v : Word} {ans : HomeAnswer} (hd : d ≠ 0) (hone : (s.getT th).i.replies = [r]) (hdest : r.dest = .s d)
    (hpark : (s.core (thCore th)).parked = none)
    (hval : landAnswer (answered (s.focus th) r) r ans = acquireOf (landReg (answered (s.focus th) r) r (.s v)) r.scope) :
    (asThread s th (landReply ans r)).mem.cells = (settleFor (s.focus th) r).mem.cells ∧
    ((asThread s th (landReply ans r)).getT th).i.replies = [] ∧
    ValueLands d v r.acc.interlocked { (s.getT th) with i := { (s.getT th).i with replies := [] } } ((asThread s th (landReply ans r)).getT th) := by
  have hthr : (answered (s.focus th) r).thr = { (s.getT th) with i := { (s.getT th).i with replies := [] } } := by
    rw [answered_thr, focus_thr, hone, List.erase_cons_head]
  obtain ⟨hlands, hcells⟩ := landReg_lands (s := answered (s.focus th) r) hd hdest v
  have hacq := acquireOf_cachesOnly (landReg (answered (s.focus th) r) r (.s v)) r.scope
  have hin : LandsIn (answered (s.focus th) r) (landAnswer (answered (s.focus th) r) r ans) := by
    rw [hval]
    exact (landReg_landsIn ..).trans ⟨hacq.cur, fun k => by rw [hacq.core]⟩
  obtain ⟨hcur, hmem, b, hend⟩ := landReply_ends hin (by rw [focus_core, focus_cur, hpark])
  rw [hthr] at hlands
  rw [hval, hacq.thr] at hend
  rw [asThread_own (hcur.trans (focus_cur s th)), asThread_mem, hmem, hend, hval, acquireOf_cells]
  exact ⟨hcells, hlands.replies, ⟨hlands.replies, hlands.now, hlands.inFlight⟩⟩

/-- A condition found later carries bit 10 (R430). -/
theorem addLaterAt_thr (s : State) (n : Nat) (code : BitVec 8) (x : Word) : (addLaterAt s n { code := code, detail := x, flags := 0 }).thr =
    { s.thr with i := { s.thr.i with later := insLater n { code := code, detail := x, flags := 4 } s.thr.i.later } } := by
  have hflags : ((0 : BitVec 3) ||| 4) = 4 := by decide
  exact congrArg (fun f => { s.thr with i := { s.thr.i with later := insLater n { code := code, detail := x, flags := f } s.thr.i.later } }) hflags

/-- A refused access leaves its destination; its condition is taken later (R430). -/
theorem reply_failed {s : State} {th : Nat} {r : Reply} (hone : (s.getT th).i.replies = [r]) (hpark : (s.core (thCore th)).parked = none) (code : BitVec 8) (x : Word) :
    ((asThread s th (landReply (.failed code x) r)).getT th).r = (s.getT th).r ∧ ((asThread s th (landReply (.failed code x) r)).getT th).i.replies = [] ∧
    ((asThread s th (landReply (.failed code x) r)).getT th).i.later = insLater r.sent { code := code, detail := x, flags := 4 } (s.getT th).i.later := by
  have hthr : (answered (s.focus th) r).thr = { (s.getT th) with i := { (s.getT th).i with replies := [] } } := by
    rw [answered_thr, focus_thr, hone, List.erase_cons_head]
  have hin : LandsIn (answered (s.focus th) r) (landAnswer (answered (s.focus th) r) r (.failed code x)) := ⟨rfl, fun _ => rfl⟩
  obtain ⟨hcur, -, b, hend⟩ := landReply_ends hin (by rw [focus_core, focus_cur, hpark])
  have hadd : (landAnswer (answered (s.focus th) r) r (.failed code x)).thr = { (answered (s.focus th) r).thr with
      i := { (answered (s.focus th) r).thr.i with later := insLater r.sent { code := code, detail := x, flags := 4 } (answered (s.focus th) r).thr.i.later } } :=
    addLaterAt_thr ..
  rw [asThread_own (hcur.trans (focus_cur s th)), hend, hadd, hthr]
  exact ⟨rfl, rfl, rfl⟩

section
variable {s : State} {th : Nat} {r : Reply} {ver : Bool} {again : Event} (hone : (s.getT th).i.replies = [r]) (hver : isVer r = ver)
include hone hver

/-- The reply of a load or a `tver` comes over a port that is up, or from this module (R411). -/
theorem replyTo_ok (hkeys : replyKeys r = [r.key]) (hhears : replyDev s r.key = s.device ∨ hears s (replyDev s r.key) = some true) :
    replyTo s th ver .ok again = asThread s th (landReply .ok r) := by
  have hfind : (s.getT th).i.replies.find? (fun r => isVer r == ver) = some r := by rw [hone, List.find?_cons_of_pos (by rw [hver]; exact beq_self_eq_true ver)]
  have hup : ∀ d ∈ ((replyKeys r).map (replyDev s)).filter (fun d => d != s.device), hears s d = some true := by
    intro d hmem
    rw [hkeys, List.map_cons, List.map_nil] at hmem
    obtain ⟨hd, hne⟩ := List.mem_filter.1 hmem
    obtain rfl := List.mem_singleton.1 hd
    exact hhears.resolve_left (by simpa using hne)
  unfold replyTo
  rw [hfind]
  dsimp only
  rw [if_neg (by rw [List.any_eq_true]; rintro ⟨d, hd, hh⟩; rw [hup d hd] at hh; cases hh), if_neg (by rw [List.any_eq_true]; rintro ⟨d, hd, hh⟩; rw [hup d hd] at hh; cases hh)]
theorem replyTo_failed (code : BitVec 8) (x : Word) : replyTo s th ver (.failed code x) again = asThread s th (landReply (.failed code x) r) := by
  have hfind : (s.getT th).i.replies.find? (fun r => isVer r == ver) = some r := by rw [hone, List.find?_cons_of_pos (by rw [hver]; exact beq_self_eq_true ver)]
  unfold replyTo
  rw [hfind]
end

/-- The home's good answer to a load and to a `tver` (R189, R238). -/
theorem landOk_load {s : State} {r : Reply} {n : Nat} {sg : Bool} (hacc : r.acc = .load n sg) (hlost : keyLost s r.key = none) (hgood : s.mem.poisoned r.key n = false) :
    landOk s r = acquireOf (landReg s r (.s (extLoad n sg (s.mem.get r.key n)))) r.scope := by
  unfold landOk
  rw [hlost, hacc]
  dsimp only
  rw [poisonAt, hgood]
  rfl
theorem landOk_ver {s : State} {r : Reply} (hacc : r.acc = .ver) (hlost : keyLost s r.key = none) (hgood : s.mem.poisoned r.key 16 = false) :
    landOk s r = acquireOf (landReg s r (.s (BitVec.ofNat 64 (getBytes (s.mem.get r.key 16) 12 4)))) r.scope := by
  unfold landOk
  rw [hlost, hacc]
  dsimp only
  rw [poisonAt, hgood]
  rfl

end Sys2Proof.Machine
end

section
/-! What else reaches a thread between its bundles (R151, R239, R430, R447, R489). -/
namespace Sys2Proof.Machine
open Sys2Proof

/-! Synchronising loads (R151). -/

section
variable {s : State} {th : Nat} {ks : List Nat} (hwait : (s.getT th).i.blocked = some (.sync ks))
include hwait
theorem syncLoadWake_full (hfull : ∀ k ∈ ks, k ∉ s.mem.empty) : exec (.syncLoadWake th) s = .next (s.modT th (fun t => { t with i := { t.i with blocked := none } })) := by
  have hall : ks.all (fun k => !s.mem.empty.contains k) = true := List.all_eq_true.2 fun k hk => by simpa using hfull k hk
  change execSyncLoadWake th s = _
  unfold execSyncLoadWake
  rw [hwait]
  dsimp only
  rw [if_pos hall]
theorem syncLoadWake_empty (hempty : ∃ k ∈ ks, k ∈ s.mem.empty) : exec (.syncLoadWake th) s = .next s := by
  obtain ⟨k, hk, hke⟩ := hempty
  have hall : ¬ ks.all (fun k => !s.mem.empty.contains k) = true := fun h => by simpa [hke] using List.all_eq_true.1 h k hk
  change execSyncLoadWake th s = _
  unfold execSyncLoadWake
  rw [hwait]
  dsimp only
  rw [if_neg hall]
end

/-! Reports of refused stores (R447, R481). -/

theorem unqueued_later (t : Thread) : (unqueued t).i.later = t.i.later := by
  unfold unqueued
  split <;> rfl

theorem change_id (r : Rec) (f : Rec → Rec) : (r.change f).id = (f r).id := by unfold Rec.change; rfl
theorem change_w (r : Rec) (f : Rec → Rec) : (r.change f).w = (f r).w := by unfold Rec.change; rfl
theorem change_place (r : Rec) (f : Rec → Rec) : (r.change f).place = (f r).place := by unfold Rec.change; rfl
theorem change_later (r : Rec) (f : Rec → Rec) : (r.change f).later = (f r).later := by unfold Rec.change; rfl

/-- The thread that holds the record takes the condition later. -/
theorem tellRecord_held {s : State} {rid th : Nat} (hheld : s.holders.find? (fun n => thRid (s.getT n) == rid) = some th) (n : Nat) (code : BitVec 8) (x : Word) :
    (tellRecord s rid n { code := code, detail := x, flags := 0 }).getT th =
      { s.getT th with i := { (s.getT th).i with later := insLater n { code := code, detail := x, flags := 4 } (s.getT th).i.later } } := by
  unfold tellRecord
  rw [hheld]
  dsimp only
  rw [asThread_own (focus_cur s th), addLaterAt_thr, focus_thr]
/-- A record at rest keeps the condition. -/
theorem tellRecord_rest {s : State} {rid : Nat} {r : Rec} (hheld : s.holders.find? (fun n => thRid (s.getT n) == rid) = none) (hr : r ∈ s.sch.recs) (hid : r.id = rid)
    (n : Nat) (code : BitVec 8) (x : Word) : ∃ y ∈ (tellRecord s rid n { code := code, detail := x, flags := 0 }).sch.recs, y.id = rid ∧ y.w = r.w ∧
      y.later = insLater n { code := code, detail := x, flags := 4 } r.later := by
  have hflags : ((0 : BitVec 3) ||| 4) = 4 := by decide
  unfold tellRecord
  rw [hheld]
  dsimp only
  rw [modRec_recs]
  refine ⟨_, List.mem_map.2 ⟨r, hr, if_pos hid⟩, (change_id ..).trans hid, change_w .., ?_⟩
  rw [change_later]
  dsimp only
  rw [hflags]

/-- Where a report of a refused store goes: to its record, without the store; one that names no store still on its way changes nothing (log 79). -/
theorem homeErrorReport_posted {s : State} {rid : Nat} {code : BitVec 8} {x : StoreName} (h : code = 0x73 ∨ ∃ y ∈ s.cores, y.2.posted.any (named rid x) = true) :
    ∃ c, exec (.homeErrorReport rid code x) s = .next (wakeQueue (tellRecord { s with cores := c } rid x.issued { code := code, detail := x.addr, flags := 0 })) := by
  change ∃ c, execHomeErrorReport rid code x s = _
  unfold execHomeErrorReport
  split
  · exact ⟨s.cores, rfl⟩
  · next hcode =>
    rw [if_pos (List.any_eq_true.2 (h.resolve_left hcode))]
    exact ⟨_, rfl⟩
theorem homeErrorReport_landed {s : State} {rid : Nat} {code : BitVec 8} {x : StoreName} (hcode : code ≠ 0x73) (h : ¬ ∃ y ∈ s.cores, y.2.posted.any (named rid x) = true) :
    exec (.homeErrorReport rid code x) s = .next s := by
  change execHomeErrorReport rid code x s = _
  unfold execHomeErrorReport
  rw [if_neg hcode, if_neg (fun hany => h (List.any_eq_true.1 hany))]

/-! Services (R239, R489). -/

theorem modM_getT (s : State) (f : Mem → Mem) (n : Nat) : (s.modM f).getT n = s.getT n := rfl
theorem snoop_cachesOnly (s : State) (a : Nat) : CachesOnly s (snoop s a true) := by
  unfold snoop
  dsimp only
  rw [if_pos rfl]
  have hdrop (m : Mem) : (dropHostLine a m).empty = m.empty ∧ (dropHostLine a m).tlb = m.tlb ∧ (dropHostLine a m).pins = m.pins := by
    unfold dropHostLine
    exact ⟨rfl, rfl, rfl⟩
  have hback : CachesOnly s ((List.range 8).foldl (writeBackIf (hostLine a)) s) := .foldl (fun y d => writeBackIf_cachesOnly (hostLine a) y d) _ s
  exact hback.trans (modM_cachesOnly _ (hdrop _).1 (hdrop _).2.1 (hdrop _).2.2)
theorem hostWrite_getT (s : State) (w : HostWrite) (n : Nat) : (hostWrite s w).getT n = s.getT n := by
  unfold hostWrite
  split
  · rfl
  · dsimp only
    rw [modM_getT]
    exact CachesOnly.getT (.foldl (fun x i => snoop_cachesOnly x _) _ s) n
theorem hostWrites_getT (l : List HostWrite) (s : State) (n : Nat) : (l.foldl hostWrite s).getT n = s.getT n := by
  induction l generalizing s with
  | nil => rfl
  | cons w l ih => exact (ih (hostWrite s w)).trans (hostWrite_getT s w n)
theorem hostWrite_get {s : State} {w : HostWrite} (hlen : w.len ≠ 0) (hend : w.addr + w.len ≤ 2 ^ 43) :
    (hostWrite s w).mem.get (spaceKey 1 w.addr) w.len = w.value % 256 ^ w.len := by
  unfold hostWrite
  rw [if_neg (by omega)]
  exact Mem.get_put ..

/-- The thread of a service goes on with the answer in s[d] (R239). -/
theorem svcReply_goesOn {s : State} {th : Nat} {d : BitVec 5} (hwait : (s.getT th).i.blocked = some (.svc d)) (a : SvcAnswer) : ∃ t, exec (.svcReply th a) s = .next t ∧
    t.mem = (a.writes.foldl hostWrite s).mem ∧ (t.getT th).r = (s.getT th).r.setS d a.value ∧ (t.getT th).pc = (s.getT th).pc + 8 ∧ (t.getT th).i.blocked = none := by
  have hrun : exec (.svcReply th a) s = .next ((a.writes.foldl hostWrite s).modT th (fun x => { x with
      r := x.r.setS d a.value, pc := (s.getT th).pc + 8, npc := (s.getT th).pc + 8
      i := { x.i with blocked := none, pend := x.i.pend.filter (fun p => p.reg != .s d) } })) := by
    change execSvcReply th a s = _
    unfold execSvcReply
    dsimp only
    rw [hwait]
  refine ⟨_, hrun, State.modT_mem .., ?_, ?_, ?_⟩
  · rw [State.modT, State.getT_setT_self, hostWrites_getT]
  · rw [State.modT, State.getT_setT_self]
  · rw [State.modT, State.getT_setT_self]

/-! Conditions taken later (R430, R431, R462). -/

theorem takeLater_takes {s : State} {th n0 : Nat} {c : Cond} {rest : List (Nat × Cond)} (hlater : (s.getT th).i.later = (n0, c) :: rest) (hrcd : (s.getT th).rcd.isSome = true)
    (hreplies : (s.getT th).i.replies = []) (hrep : (s.getT th).i.rep = none) (hbar : ∀ l n m, (s.getT th).i.blocked ≠ some (.bar l n m))
    (hsvc : ∀ d, (s.getT th).i.blocked ≠ some (.svc d)) (hpark : (s.core (thCore th)).parked = none) :
    exec (.takeLaterCondition th) s = .next (takeAt (s.modT th (fun x => { x with i := { x.i with later := rest } })) th c (s.getT th).pc) := by
  have hnone : (s.getT th).rcd.isNone = false := by rw [← Option.not_isSome, hrcd]; rfl
  change execTakeLaterCondition th s = _
  unfold execTakeLaterCondition
  dsimp only
  rw [hlater]
  dsimp only
  refine if_neg ?_
  -- `hbar` and `hsvc` leave the match its last arm
  simp [hnone, hreplies, hrep, hpark]

/-- The state in which the focused thread stands at its handler (R431). -/
def entered (s : State) (c : Cond) (pc hand : Word) : State :=
  { s with
    thr := { s.thr with
      r := ((s.thr.r.setS 1 (BitVec.ofNat 64 (c.flags.toNat * 256 + c.code.toNat))).setS 2 pc).setS 3 c.detail
      inHandler := true, pc := hand, npc := hand, i := { s.thr.i with rep := none, blocked := none, notBefore := 0 } }
    taken := some c }

/-- A thread that can enter its handler stands at it (R430, R431). -/
theorem takeAt_enters {s : State} {n : Nat} {c : Cond} {pc : Word} (hrcd : (s.getT n).rcd.isSome = true) (henter : canEnter (s.focus n) c pc) :
    ((takeAt s n c pc).getT n).inHandler = true ∧ ((takeAt s n c pc).getT n).pc = (s.getT n).y.hand ∧ ((takeAt s n c pc).getT n).i.later = (s.getT n).i.later ∧
      ((takeAt s n c pc).getT n).r.getS 1 = BitVec.ofNat 64 (c.flags.toNat * 256 + c.code.toNat) ∧ ((takeAt s n c pc).getT n).r.getS 2 = pc ∧
      ((takeAt s n c pc).getT n).r.getS 3 = c.detail := by
  obtain ⟨r, hr⟩ := Option.isSome_iff_exists.1 hrcd
  have hentry := henter
  obtain ⟨-, -, -, -, -, s1, hwrite⟩ := hentry
  have hcur : s1.cur = n := (writeFull_stops hwrite).cur.trans (focus_cur s n)
  have hthr : s1.thr = withFullFrame (s.getT n) n pc r := by
    have hget := writeFull_getT hwrite (r := r) (by rw [focus_cur, focus_getT, hr])
    rw [focus_cur, focus_getT] at hget
    rw [← hget, ← State.getT_cur s1, hcur]
  have hstands : takeAt s n c pc = (entered s1 c pc (s.getT n).y.hand).focus s.cur := by
    unfold takeAt asThread
    dsimp only
    rw [takeCondition_enters henter hwrite, focus_thr, if_pos (by rw [hthr]; rfl)]
    rfl
  have hown : (takeAt s n c pc).getT n = (entered s1 c pc (s.getT n).y.hand).thr := by
    rw [hstands, focus_getT, State.getT]
    exact if_pos hcur.symm
  rw [hown]
  unfold entered
  dsimp only
  have hne {i j : BitVec 5} (h : i ≠ j) (q : Regs) (x : Word) : (q.setS j x).getS i = q.getS i := (Regs.getS_setS ..).trans (if_neg (fun hh => h hh.1))
  refine ⟨rfl, rfl, by rw [hthr]; rfl, ?_, ?_, ?_⟩
  · rw [hne (by decide), hne (by decide)]
    exact (Regs.getS_setS ..).trans (if_pos ⟨rfl, by decide⟩)
  · rw [hne (by decide)]
    exact (Regs.getS_setS ..).trans (if_pos ⟨rfl, by decide⟩)
  · exact (Regs.getS_setS ..).trans (if_pos ⟨rfl, by decide⟩)

end Sys2Proof.Machine
end

section
/-! The end of a park (R437, R477, R505). -/
namespace Sys2Proof.Machine
open Sys2Proof

/-! The core takes grants again (R437). -/

theorem unpark_schedules (s : State) (core : Nat) : Schedules (s.setCore core { s.core core with parked := none, parkLaunch := none }) (unpark s core) := by
  unfold unpark
  dsimp only
  exact (((opens_schedules s (core / 8) (fun x => x.setCore core { x.core core with parked := none, parkLaunch := none })).trans (.foldl (fun t _ => .after t _ _) _ _)).trans
    (.after ..)).trans (retryGangs_schedules _)
theorem unpark_sch (s : State) (core : Nat) : (unpark s core).sch = s.sch := (unpark_schedules s core).sch
theorem unpark_core (s : State) (core : Nat) : ((unpark s core).core core).parked = none := by
  rw [(unpark_schedules s core).core, State.core_setCore_self]
theorem unpark_threads (s : State) (core : Nat) : (unpark s core).cur = s.cur ∧ (unpark s core).thr = s.thr ∧ (unpark s core).rest = s.rest := by
  obtain ⟨a, c, h⟩ := unpark_schedules s core
  rw [h]
  exact ⟨rfl, rfl, rfl⟩

theorem parkOpen_parked {s : State} {core n : Nat} (hpark : (s.core core).parked = some n) (hmsg : (s.core core).message = none) : parkOpen s core = some n := by
  unfold parkOpen
  rw [hmsg]
  exact hpark

/-! The release (R437). -/

theorem frameless_full {r : Rec} (h : r.w.fullf = true) : frameless r = false := by rw [frameless, h]; rfl
theorem mem_boundTo {s : State} {core : Nat} {r : Rec} (h : boundTo s core = [r]) : r ∈ s.sch.recs :=
  (List.mem_filter.1 (show r ∈ boundTo s core from h ▸ List.mem_singleton.2 rfl)).1
theorem cancelled_congr {s t : State} (h : t.sch = s.sch) (die : Nat) (r : Rec) : cancelled t die r = cancelled s die r := by
  unfold cancelled State.findLaunch
  rw [h]
theorem launchRuns_congr {s t : State} (h : t.sch = s.sch) (num : Nat) : launchRuns t num = launchRuns s num := by
  unfold launchRuns State.findLaunch
  rw [h]

theorem resumeRec_leaves (s : State) (n : Nat) (r : Rec) (resume : Word) : CachesOnly s (resumeRec s n r resume).2 ∧
    (resumeRec s n r resume).1.id = r.id ∧ (resumeRec s n r resume).1.w = { r.w with pc := resume } := by
  unfold resumeRec
  dsimp only
  refine ⟨?_, change_id .., change_w ..⟩
  split
  · next x hx => exact vmWrite_cachesOnly hx
  · exact .refl s

/-- The faulting thread's record is granted to its thread again, at the address named. -/
theorem releaseRec_resumes {s : State} {n : Nat} {r : Rec} {resume : Word} (hr : r ∈ s.sch.recs) (hbound : r.w.bound = some n) (hfull : r.w.fullf = true) (hgood : r.good = true)
    (hlive : cancelled s (thDie n) r = false) (hruns : launchRuns s r.w.launch = true) :
    (∀ k, (releaseRec n resume s r).core k = s.core k) ∧ ∃ x ∈ (releaseRec n resume s r).sch.recs, x.id = r.id ∧ x.place = .granted n ∧ x.w.pc = resume ∧ x.w.runnable = true := by
  obtain ⟨hcaches, hid, hw⟩ := resumeRec_leaves s n r resume
  unfold releaseRec
  simp only [hbound]
  rw [if_neg (by rw [hgood]; decide), if_neg (by rw [hlive]; decide), if_neg (by rw [hfull]; decide), if_pos hruns]
  simp only [if_true]
  generalize resumeRec s n r resume = p at hcaches hid hw ⊢
  obtain ⟨y, u⟩ := p
  refine ⟨fun k => hcaches.core k, _, List.mem_map.2 ⟨r, (congrArg Sched.recs hcaches.sch) ▸ hr, if_pos rfl⟩, (change_id ..).trans hid, change_place .., ?_, ?_⟩
  · rw [change_w]
    exact congrArg RecWords.pc hw
  · rw [change_w]

/-! The abort (R437). -/

/-- While a launch ends, threads, cores and the phases of launches stay, and no record comes. -/
structure LaunchStays (s t : State) : Prop where
  cur : t.cur = s.cur
  thr : t.thr = s.thr
  rest : t.rest = s.rest
  cores : t.cores = s.cores
  recs : t.sch.recs ⊆ s.sch.recs
  phases : ∀ m, (t.findLaunch m).map Launch.phase = (s.findLaunch m).map Launch.phase

namespace LaunchStays
variable {s t u : State}
theorem refl (s : State) : LaunchStays s s := ⟨rfl, rfl, rfl, rfl, fun _ h => h, fun _ => rfl⟩
theorem trans (h : LaunchStays s t) (k : LaunchStays t u) : LaunchStays s u :=
  ⟨k.cur.trans h.cur, k.thr.trans h.thr, k.rest.trans h.rest, k.cores.trans h.cores, fun _ hx => h.recs (k.recs hx), fun m => (k.phases m).trans (h.phases m)⟩
theorem of_schedules (h : Schedules s t) : LaunchStays s t := by
  obtain ⟨a, c, rfl⟩ := h
  exact ⟨rfl, rfl, rfl, rfl, fun _ h => h, fun _ => rfl⟩
theorem foldl {α : Type} {f : State → α → State} (hf : ∀ s a, LaunchStays s (f s a)) (l : List α) (s : State) : LaunchStays s (l.foldl f s) := by
  induction l generalizing s with
  | nil => exact refl s
  | cons a r ih => exact (hf s a).trans (ih (f s a))
theorem modLaunch (s : State) (n : Nat) {f : Launch → Launch} (hf : ∀ l, (f l).num = l.num ∧ (f l).phase = l.phase) : LaunchStays s (s.modLaunch n f) := by
  refine ⟨rfl, rfl, rfl, rfl, fun _ h => h, fun m => ?_⟩
  rw [findLaunch_modLaunch_any fun l => (hf l).1, Option.map_map]
  refine congrArg (fun g => (s.findLaunch m).map g) (funext fun l => ?_)
  change (if l.num = n then f l else l).phase = l.phase
  split
  · exact (hf l).2
  · rfl
theorem addReg (s : State) (off : Nat) (d : Int) : LaunchStays s (Machine.addReg s off d) :=
  ⟨State.setReg0_cur .., State.setReg0_thr .., State.setReg0_rest .., State.setReg0_cores .., fun _ h => (congrArg Sched.recs (addReg_sch s off d)) ▸ h,
    fun m => by rw [findLaunch_of_launches (congrArg Sched.launches (addReg_sch s off d))]⟩
theorem dropRec (s : State) (id : Nat) : LaunchStays s (s.dropRec id) := ⟨rfl, rfl, rfl, rfl, fun _ h => List.mem_of_mem_filter h, fun _ => rfl⟩
theorem getT (h : LaunchStays s t) (k : Nat) : t.getT k = s.getT k := by rw [State.getT, State.getT, h.cur, h.thr, h.rest]
theorem holders (h : LaunchStays s t) : t.holders = s.holders := by rw [State.holders, State.holders, h.cur, h.thr, h.rest]
theorem core (h : LaunchStays s t) (k : Nat) : t.core k = s.core k := by rw [State.core, State.core, h.cores]
end LaunchStays

theorem setTask_stays (l : Launch) (t : TaskSt) : (l.setTask t).num = l.num ∧ (l.setTask t).phase = l.phase := by
  unfold Launch.setTask
  split <;> exact ⟨rfl, rfl⟩
theorem finishTask_stays (l : Launch) (t : TaskSt) : (finishTask l t).num = l.num ∧ (finishTask l t).phase = l.phase := by
  unfold finishTask
  dsimp only
  split
  · exact setTask_stays ..
  · exact ⟨rfl, rfl⟩
theorem lessAlive_stays (s : State) (num task : Nat) (backup : Bool) : LaunchStays s (lessAlive s num task backup) := by
  refine .modLaunch s num fun l => ?_
  dsimp only
  split
  · exact finishTask_stays ..
  · exact setTask_stays ..
theorem recordEnds_stays (s : State) (r : Rec) : LaunchStays s (recordEnds s r) := by
  unfold recordEnds
  split
  · exact .refl s
  · next l _ =>
    have hframes : LaunchStays s (s.modLaunch l.num (fun l => { l with frames := l.frames.erase (l.frameIdx r.w.frame) })) := .modLaunch s _ fun _ => ⟨rfl, rfl⟩
    have hgrants (x : State) : LaunchStays x ((allGrants x).after Config.grantTime (.launchDone l.num)) := .of_schedules ((allGrants_schedules x).trans (.after ..))
    dsimp only
    refine LaunchStays.trans ?_ (hgrants _)
    split <;> split
    · exact hframes.trans (.addReg ..)
    · exact (hframes.trans (lessAlive_stays ..)).trans (.addReg ..)
    · exact hframes
    · exact hframes.trans (lessAlive_stays ..)
theorem dropRest_stays (s : State) (r : Rec) (h : r.place = .rest) : LaunchStays s (dropRest s r) := by
  unfold dropRest
  simp only [h]
  exact ((LaunchStays.of_schedules (cancelRest_schedules s (restDie r) r)).trans (.dropRec ..)).trans (recordEnds_stays ..)
theorem quitJob_stays (s : State) (clu : Nat) : LaunchStays s (quitJob s clu) := by
  unfold quitJob
  dsimp only
  split
  · exact .refl s
  · next j r _ =>
    have hretry (x : State) : LaunchStays x (retryCmds x clu) := by
      unfold retryCmds
      split
      · exact .refl x
      · exact .of_schedules (.after ..)
    have heff (x : State) (n : Nat) (e : Event) : LaunchStays x (x.afterEff clu n e) := .of_schedules (.after ..)
    have hset : LaunchStays s (s.setClu clu { s.clu clu with jobs := r, running := false, due := 0, sent := false, rcvd := false }) := ⟨rfl, rfl, rfl, rfl, fun _ h => h, fun _ => rfl⟩
    generalize s.setClu clu { s.clu clu with jobs := r, running := false, due := 0, sent := false, rcvd := false } = s1 at hset ⊢
    have hop : LaunchStays s1 (match s1.findOp j.op with | some o => afterOp (s1.dropOp j.op) o | none => s1) := by
      have hdrop : LaunchStays s1 (s1.dropOp j.op) := ⟨rfl, rfl, rfl, rfl, fun _ h => h, fun _ => rfl⟩
      split
      · exact hdrop.trans (.of_schedules (afterOp_schedules ..))
      · exact .refl s1
    have hall := (hset.trans hop).trans (hretry _)
    split
    · exact hall.trans (heff ..)
    · exact hall.trans (heff ..)
theorem quitRots_stays (rids : List Nat) (s : State) : LaunchStays s (quitRots rids s) := by
  unfold quitRots
  refine .foldl (fun t clu => ?_) _ s
  split
  · split
    · exact quitJob_stays t clu
    · exact .refl t
  · exact .refl t
theorem dropWants_stays (s : State) (l : Launch) : LaunchStays s (dropWants s l) := by
  have hwants : LaunchStays s (s.modSch (fun c => { c with wants := c.wants.filter (fun w => w.launch != l.num) })) := ⟨rfl, rfl, rfl, rfl, fun _ h => h, fun _ => rfl⟩
  unfold dropWants
  dsimp only
  split
  · exact hwants
  · exact hwants.trans (.addReg ..)

theorem dropWants_recs (s : State) (l : Launch) : (dropWants s l).sch.recs = s.sch.recs := by
  unfold dropWants
  dsimp only
  split
  · rfl
  · rw [addReg_sch]
    rfl

/-- A launch whose one record is at rest ends: the record is dropped (R364). -/
theorem endLaunch_only {s : State} {num status n : Nat} {l : Launch} {r : Rec} (hl : s.findLaunch num = some l) (hends : l.ends = false) (hrecs : s.sch.recs = [r])
    (hrest : r.place = .rest) (hnum : r.w.launch = num) (hbound : r.w.bound = some n) (hpark : (s.core (thCore n)).parked = none)
    (hheld : ∀ k ∈ s.holders, thLaunch (s.getT k) ≠ num) :
    (∀ k, (endLaunch s num status).core k = s.core k) ∧ (endLaunch s num status).sch.recs = [] ∧
      ∃ l', (endLaunch s num status).findLaunch num = some l' ∧ l'.phase = .ending status := by
  have hfound := findLaunch_modLaunch_any (s := s) (n := num) (f := fun x => { x with phase := .ending status, ranges := [] }) (fun _ => rfl) num
  have hcore (k : Nat) : (s.modLaunch num (fun x => { x with phase := .ending status, ranges := [] })).core k = s.core k := rfl
  rw [hl, Option.map_some, if_pos (findLaunch_num hl)] at hfound
  have hrecs' : (s.modLaunch num (fun x => { x with phase := .ending status, ranges := [] })).sch.recs = [r] := hrecs
  have hheld' : ∀ k ∈ (s.modLaunch num (fun x => { x with phase := .ending status, ranges := [] })).holders,
      thLaunch ((s.modLaunch num (fun x => { x with phase := .ending status, ranges := [] })).getT k) ≠ num := hheld
  unfold endLaunch
  rw [hl]
  dsimp only
  rw [if_neg (by rw [hends]; decide)]
  generalize s.modLaunch num (fun x => { x with phase := .ending status, ranges := [] }) = e at hfound hcore hrecs' hheld' ⊢
  have hwants := dropWants_stays e l
  have hwrecs := (dropWants_recs e l).trans hrecs'
  generalize dropWants e l = w at hwants hwrecs ⊢
  have hopen : parkedRest w r = false := by
    unfold parkedRest
    rw [hbound]
    dsimp only
    rw [hwants.core, hcore, hpark, Bool.and_comm]
    rfl
  rw [hwrecs, List.filter_cons_of_pos (by rw [hnum, hopen]; simp), List.filter_nil, List.foldl_cons, List.foldl_nil]
  have hdrop := hwants.trans (dropRest_stays w r hrest)
  have hgone : (dropRest w r).sch.recs = [] := List.eq_nil_iff_forall_not_mem.2 fun x hx => by
    have hxr := (dropRest_stays w r hrest).recs hx
    rw [hwrecs] at hxr
    exact dropRest_gone hrest x hx (congrArg Rec.id (List.mem_singleton.1 hxr))
  have hthreads : (dropRest w r).holders.filter (fun n => thLaunch ((dropRest w r).getT n) == num) = [] := List.filter_eq_nil_iff.2 fun k hk => by
    rw [hdrop.holders] at hk
    rw [hdrop.getT]
    simp [hheld' k hk]
  rw [hthreads, List.foldl_nil]
  have hquit := (quitRots_stays (launchRids w num) (dropRest w r)).trans (.of_schedules ((allGrants_schedules _).trans (.after _ Config.grantTime (.launchDone num))))
  have hall := hdrop.trans hquit
  refine ⟨fun k => (hall.core k).trans (hcore k), List.eq_nil_iff_forall_not_mem.2 fun x hx => ?_, ?_⟩
  · have hx' := hquit.recs hx
    rw [hgone] at hx'
    cases hx'
  · have hphase := hall.phases num
    rw [hfound] at hphase
    obtain ⟨l', hl', hp⟩ := Option.map_eq_some_iff.1 hphase
    exact ⟨l', hl', hp⟩

theorem parkRelease_one {s : State} {core n : Nat} {r : Rec} {resume : Word} (hopen : parkOpen s core = some n) (hone : boundTo s core = [r]) (hframe : frameless r = false) :
    exec (.parkRelease core resume) s = .next (releaseRec n resume (unpark s core) r) := by
  change execParkRelease core resume s = _
  unfold execParkRelease
  rw [hopen]
  dsimp only
  rw [hone, if_neg (by rw [List.any_cons, List.any_nil, hframe]; decide)]
  rfl
/-- The abort of the launch of the one record, which has its frame. -/
theorem parkAbort_one {s : State} {core n num : Nat} {r : Rec} (hopen : parkOpen s core = some n) (hlaunch : (s.core core).parkLaunch = some num) (hrecs : s.sch.recs = [r])
    (hframe : frameless r = false) (hgone : (endLaunch (unpark s core) num 8).sch.recs = []) :
    exec (.parkAbort core) s = .next (endLaunch (unpark s core) num 8) := by
  have hnone : (boundTo s core).filter frameless = [] := List.filter_eq_nil_iff.2 fun x hx => by
    have hxr := (List.mem_filter.1 hx).1
    rw [hrecs] at hxr
    rw [List.mem_singleton.1 hxr, hframe]
    decide
  have hrest : boundTo (endLaunch (unpark s core) num 8) core = [] := by rw [boundTo, hgone]; rfl
  change execParkAbort core s = _
  unfold execParkAbort
  rw [hopen]
  dsimp only
  rw [hlaunch, hnone]
  have hends : ([num] ++ ([] : List Rec).map (·.w.launch)).foldl (fun x l => endLaunch x l 8) (unpark s core) = endLaunch (unpark s core) num 8 := rfl
  rw [hends, hrest]
  rfl

/-- Settles O51: one lemma for each step, by what it leaves of its thread or its record. -/
theorem repliesAndLaterConditions : Obligations.RepliesAndLaterConditions := by
  unfold Obligations.RepliesAndLaterConditions
  refine ⟨?reply, fun s th => ⟨?sync, ?report, ?svc, ?later⟩, fun s core n r resume hpark hmsg hbound hcore => ⟨?release, ?abort⟩⟩
  case reply =>
    intro s th r d hd hone hdest hrep hpark hacc hhears hlost
    dsimp only
    have hlost' : keyLost (answered (s.focus th) r) r.key = none := (keyLost_congr ((answered_plat ..).trans (focus_plat s th)) _).trans hlost
    have hkeys : replyKeys r = [r.key] := by
      obtain hacc | ⟨n, sg, hacc⟩ := hacc <;> rw [replyKeys, hacc]
    refine ⟨fun n sg hload => ⟨fun hgood => ?_, fun code x => ?_⟩, fun hver hgood => ?_⟩
    · have hkind : isVer r = false := by rw [isVer, hload]
      have hplain : r.acc.interlocked = false := by rw [hload]; rfl
      obtain ⟨hcells, hnone, hlands⟩ := reply_value (ans := .ok) hd hone hdest hpark (landOk_load hload hlost' hgood)
      refine ⟨_, congrArg Host.Outcome.next (replyTo_ok hone hkind hkeys hhears), hnone, hcells, fun hno => hlands.now (.inr ?_), fun _ => hlands.inFlight hplain⟩
      exact hno.resolve_left (by rw [hload]; exact fun h => nomatch h)
    · have hkind : isVer r = false := by rw [isVer, hload]
      exact ⟨_, congrArg Host.Outcome.next (replyTo_failed hone hkind code x), reply_failed hone hpark code x⟩
    · have hkind : isVer r = true := by rw [isVer, hver]
      obtain ⟨hcells, hnone, hlands⟩ := reply_value (ans := .ok) hd hone hdest hpark (landOk_ver hver hlost' hgood)
      exact ⟨_, congrArg Host.Outcome.next (replyTo_ok hone hkind hkeys hhears), hnone, hcells, fun _ => hlands.now (.inl (by rw [hver]; rfl)), fun hno => absurd hver hno⟩
  case sync =>
    intro ks hwait
    refine ⟨fun hfull => ⟨_, syncLoadWake_full hwait hfull, ?_, ?_⟩, syncLoadWake_empty hwait⟩
    · rw [State.modT, State.getT_setT_self]
    · rw [State.modT, State.getT_setT_self]
  case report =>
    intro rid code x
    dsimp only
    refine ⟨homeErrorReport_landed, fun hposted => ⟨fun hheld => ?_, fun r hheld hr hid => ?_⟩⟩
    · obtain ⟨c, hrun⟩ := homeErrorReport_posted hposted
      have htold := tellRecord_held (s := { s with cores := c }) hheld x.issued code x.addr
      refine ⟨_, hrun, ?_, ?_⟩
      · rw [wakeQueue_getT, (unqueued_keeps _).1, htold]
        rfl
      · rw [wakeQueue_getT, unqueued_later, htold]
        rfl
    · obtain ⟨c, hrun⟩ := homeErrorReport_posted hposted
      exact ⟨_, hrun, tellRecord_rest (s := { s with cores := c }) hheld hr hid x.issued code x.addr⟩
  case svc =>
    intro d a hwait
    obtain ⟨t, hrun, hmem, hr, hpc, hblocked⟩ := svcReply_goesOn hwait a
    refine ⟨t, hrun, fun hd => ?_, fun n hn => ?_, hpc, hblocked, fun hno => ?_, fun w hw hlen hend => ?_⟩
    · rw [hr]
      exact (Regs.getS_setS ..).trans (if_pos ⟨rfl, hd⟩)
    · rw [hr]
      exact (Regs.getS_setS ..).trans (if_neg fun hh => hn hh.1)
    · rw [hmem, hno]
      rfl
    · rw [hmem, hw]
      exact hostWrite_get hlen hend
  case later =>
    intro n0 c rest hlater hrcd hreplies hrep hbar hsvc hopen henter
    have hself : (s.modT th (fun x => { x with i := { x.i with later := rest } })).getT th = { s.getT th with i := { (s.getT th).i with later := rest } } := by
      rw [State.modT, State.getT_setT_self]
    obtain ⟨hin, hpc, hkept, h1, h2, h3⟩ := takeAt_enters (by rw [hself]; exact hrcd) henter
    rw [hself] at hpc hkept
    exact ⟨_, takeLater_takes hlater hrcd hreplies hrep hbar hsvc hopen, hin, hpc, hkept, h1, h2, h3⟩
  case release =>
    intro hrest hfull hgood hone hlive hruns
    have hsch := unpark_sch s core
    obtain ⟨hcores, hrec⟩ := releaseRec_resumes (s := unpark s core) (resume := resume) (by rw [hsch]; exact mem_boundTo hone) hbound hfull hgood
      (by rw [cancelled_congr hsch]; exact hlive) (by rw [launchRuns_congr hsch]; exact hruns)
    exact ⟨_, parkRelease_one (parkOpen_parked hpark hmsg) hone (frameless_full hfull), by rw [hcores, unpark_core], hrec⟩
  case abort =>
    intro num l hlaunch hl hends hrecs hrest hnum hheld hframe
    have hsch := unpark_sch s core
    obtain ⟨hcur, hthr, hothers⟩ := unpark_threads s core
    have hholders : (unpark s core).holders = s.holders := by rw [State.holders, State.holders, hcur, hthr, hothers]
    have hgetT (k : Nat) : (unpark s core).getT k = s.getT k := by rw [State.getT, State.getT, hcur, hthr, hothers]
    obtain ⟨hcores, hgone, hphase⟩ := endLaunch_only (s := unpark s core) (status := 8) (by rw [findLaunch_of_launches (congrArg Sched.launches hsch)]; exact hl) hends (hsch ▸ hrecs)
      hrest hnum hbound (by rw [hcore, unpark_core]) (by rw [hholders]; exact fun k hk => by rw [hgetT]; exact hheld k hk)
    exact ⟨_, parkAbort_one (parkOpen_parked hpark hmsg) hlaunch hrecs hframe hgone, by rw [hcores, unpark_core], hgone, hphase⟩

end Sys2Proof.Machine
end

section
/-! System registers (R199, R327, R328, R434). -/
namespace Sys2Proof.Machine
open Sys2Proof

theorem exec_gets_of_sysRead {s : State} {n : BitVec 15} {v : Word} (d : BitVec 5) (h : sysRead s n.toNat = some v) :
    exec (.gets d n) s = .next (s.setS d v) := by
  rw [exec_gets, execGets, h]
theorem exec_gets_of_reserved {s : State} {n : BitVec 15} (d : BitVec 5) (h : sysRead s n.toNat = none) :
    exec (.gets d n) s = raises s 0x09 n.toNat := by
  rw [exec_gets, execGets, h]
  rfl
theorem exec_puts_of_sysWrite {s t : State} {n : BitVec 15} {d : BitVec 5} (h : sysWrite s n.toNat (s.getS d) = .ok t) :
    exec (.puts d n) s = .next t := finish_val h
theorem exec_puts_of_raise {s : State} {n : BitVec 15} {d : BitVec 5} {c x : Nat} (h : sysWrite s n.toNat (s.getS d) = raise c x) :
    exec (.puts d n) s = raises s c x := finish_raises h

/-! What each number reads. -/

/-- A number that names a field of the record. -/
theorem exec_gets_of_rcdVal {s : State} {n : BitVec 15} {r : Rec} (d : BitVec 5) (hr : s.thr.rcd = some r) (f : Rec → Nat)
    (h : sysRead s n.toNat = some (rcdVal s f)) : exec (.gets d n) s = .next (s.setS d (BitVec.ofNat 64 (f r))) := by
  rw [exec_gets_of_sysRead d h, rcdVal, hr]

theorem sysRead_dom (s : State) (i : Fin 4) : sysRead s (0x0C + i) = some (s.thr.y.dom.get i) := by
  obtain ⟨i, hi⟩ := i
  unfold sysRead
  iterate 12 rw [if_neg (by dsimp only; omega)]
  rw [dif_pos (by dsimp only; omega)]
  congr
  dsimp only
  omega

theorem sysRead_win (s : State) (w : Fin 8) (h : 0 < w.val) : sysRead s (0x13 + w) = some (winShown (s.thr.y.win.get w)) := by
  obtain ⟨w, hw⟩ := w
  have hwin : s.win (0x13 + w - 0x13) = s.thr.y.win.get ⟨w, hw⟩ := by
    rw [Nat.add_sub_cancel_left, State.win, dif_pos hw, if_neg (Nat.ne_of_gt h)]
  unfold sysRead
  dsimp only at *
  iterate 12 rw [if_neg (by omega)]
  rw [dif_neg (by omega)]
  iterate 4 rw [if_neg (by omega)]
  rw [if_pos (by omega), hwin]

theorem sysRead_reserved (s : State) {n : Nat} (h : 0x1E ≤ n) : sysRead s n = none := by
  unfold sysRead
  iterate 12 rw [if_neg (by omega)]
  rw [dif_neg (by omega)]
  iterate 8 rw [if_neg (by omega)]

/-! Fields that are kept (R114, R190). -/

/-- A mask that keeps the bits below `l` and those from 32 on. -/
theorem and_outerBits (x m : Word) (l : Nat) (hl : l ≤ 32) (hm : ∀ j : Fin 64, m.getLsbD j = decide (j.val < l ∨ 32 ≤ j.val)) :
    x &&& m = BitVec.ofNat 64 (2 ^ 32 * (x.toNat / 2 ^ 32) + x.toNat % 2 ^ l) := by
  refine BitVec.eq_of_getLsbD_eq fun j hj => ?_
  have hlow : x.toNat % 2 ^ l < 2 ^ 32 :=
    Nat.lt_of_lt_of_le (Nat.mod_lt _ (Nat.two_pow_pos l)) (Nat.pow_le_pow_right (by decide) hl)
  rw [BitVec.getLsbD_and, hm ⟨j, hj⟩, BitVec.getLsbD_ofNat, Nat.testBit_two_pow_mul_add _ hlow, Nat.testBit_mod_two_pow,
    Nat.testBit_div_two_pow, decide_eq_true hj, Bool.true_and]
  by_cases hj32 : j < 32
  · rw [if_pos hj32, Bool.and_comm]
    simp only [Nat.not_le.2 hj32, or_false]
    rfl
  · rw [if_neg hj32, show j - 32 + 32 = j by omega]
    simp only [Nat.not_lt.1 hj32, or_true, decide_true, Bool.and_true]
    rfl

theorem winShown_eq (v : Word) : winShown v = v &&& 0xFFFFFFFF000000FF := by
  rw [and_outerBits v _ 8 (by decide) (by decide)]
  unfold winShown putFld fld
  congr 1
  omega

/-! What `puts` writes. -/

theorem sysWrite_srch_ok {s : State} {v : Word} (hd : s.thr.q.depth = 0) (hv : srchOk v = true) :
    sysWrite s 0x13 v = .ok (freshSearch ((drainAll s (thCore s.cur)).modY (fun y => { y with srch := v }))) := by
  rw [sysWrite, if_pos rfl, if_pos ⟨hd, hv⟩]

theorem sysWrite_srch_refused {s : State} {v : Word} (h : s.thr.q.depth ≠ 0 ∨ srchOk v = false) : sysWrite s 0x13 v = raise 0x41 v.toNat := by
  rw [sysWrite, if_pos rfl, if_neg]
  rintro ⟨hd, hv⟩
  exact h.elim (· hd) (fun hf => by rw [hv] at hf; cases hf)

theorem sysWrite_win (s : State) (v : Word) (w : Fin 8) (h : 0 < w.val) :
    sysWrite s (0x13 + w) v = .ok (s.modY (fun y => { y with win := y.win.set w v })) := by
  have hw := w.isLt
  rw [sysWrite, if_neg (by omega), if_pos (by omega), Nat.add_sub_cancel_left, setWin, dif_pos hw]

theorem sysWrite_sbchk (s : State) (v : Word) : sysWrite s 0x1C v = .ok (s.modY (fun y => { y with sbchk := v &&& 0xFFFFFFFF00000003 })) := by
  rw [and_outerBits v _ 2 (by decide) (by decide), Nat.mul_comm (2 ^ 32)]
  rfl

theorem sysWrite_readOnly (s : State) (v : Word) {n : Nat} (h : n < 0x13 ∨ n = 0x1D) : sysWrite s n v = raise 0x16 n := by
  rw [sysWrite, if_neg (by omega), if_neg (by omega), if_neg (by omega), if_neg (by omega), if_pos (by omega)]

theorem sysWrite_reserved (s : State) (v : Word) {n : Nat} (h : 0x1E ≤ n) : sysWrite s n v = raise 0x09 n := by
  rw [sysWrite, if_neg (by omega), if_neg (by omega), if_neg (by omega), if_neg (by omega), if_neg (by omega)]

theorem toNat_ofNat15 {n : Nat} (h : n < 0x20) : (BitVec.ofNat 15 n).toNat = n := Nat.mod_eq_of_lt (by omega)

/-- Settles O30: `gets` and `puts` by what `sysRead` and `sysWrite` answer for each number. -/
theorem systemRegisters : Obligations.SystemRegisters := by
  unfold Obligations.SystemRegisters
  intro s d a
  refine ⟨exec_gets_of_sysRead d rfl, exec_gets_of_sysRead d rfl, exec_gets_of_sysRead d rfl, exec_gets_of_sysRead d rfl,
    exec_gets_of_sysRead d rfl, exec_gets_of_sysRead d rfl, fun r hr => ?_, exec_gets_of_sysRead d rfl, exec_gets_of_sysRead d rfl, fun i => ?_,
    exec_gets_of_sysRead d rfl, exec_gets_of_sysRead d rfl, exec_gets_of_sysRead d rfl, fun w hw => ?_, exec_gets_of_sysRead d rfl,
    exec_gets_of_sysRead d rfl, fun l hl => exec_gets_of_sysRead d ?_, fun n hn => ?_, fun n hn => ?_, fun hdepth hok => ?_, fun hbad => ?_, fun w hw => ?_, rfl, ?_, rfl⟩
  · exact ⟨exec_gets_of_rcdVal d hr (·.w.task) rfl, exec_gets_of_rcdVal d hr (·.w.attempt) rfl, exec_gets_of_rcdVal d hr (·.w.cls) rfl,
      exec_gets_of_rcdVal d hr (·.w.dies) rfl, exec_gets_of_rcdVal d hr (·.w.work) rfl⟩
  · refine exec_gets_of_sysRead d ?_
    rw [toNat_ofNat15 (by omega)]
    exact sysRead_dom s i
  · refine exec_gets_of_sysRead d ?_
    rw [toNat_ofNat15 (by omega), sysRead_win s w hw, winShown_eq]
  · show some (match s.launch with | some l => (genSeed l.l[13] l.l[14]).1 | none => 0) = _
    rw [hl]
    simp only [genSeed]
    split <;> rfl
  · exact ⟨exec_gets_of_reserved d (sysRead_reserved s hn), exec_puts_of_raise (sysWrite_reserved s _ hn)⟩
  · exact exec_puts_of_raise (sysWrite_readOnly s _ hn)
  · exact exec_puts_of_sysWrite (sysWrite_srch_ok hdepth hok)
  · exact exec_puts_of_raise (sysWrite_srch_refused hbad)
  · refine exec_puts_of_sysWrite ?_
    rw [toNat_ofNat15 (by omega)]
    exact sysWrite_win s _ w hw
  · exact exec_puts_of_sysWrite (sysWrite_sbchk s _)

end Sys2Proof.Machine
end

section
/-! Integers of an atomic type as bit vectors (R297). -/
namespace Sys2Proof.Machine
open Sys2Proof

theorem atyBits_pos (t : ATy) : 0 < 8 * t.bytes := by cases t <;> decide

/-- `Val` of the low bits of a number. -/
theorem atval_eq (t : ATy) (x : Nat) : atval t x = intOf t.signed (BitVec.ofNat (8 * t.bytes) x) := by
  unfold atval intOf
  split
  · rw [← sval_toNat (atyBits_pos t), BitVec.toNat_ofNat]
    exact (sval_lo _ x).symm
  · rw [BitVec.toNat_ofNat]
    rfl

theorem lo_eq_toNat (n x : Nat) : lo n x = (BitVec.ofNat n x).toNat := (BitVec.toNat_ofNat x n).symm

/-- The order of an atomic type. -/
def aless (t : ATy) {n : Nat} (u v : BitVec n) : Bool := if t.signed then u.slt v else u.ult v

theorem aless_iff (t : ATy) {n : Nat} (u v : BitVec n) : aless t u v = true ↔ intOf t.signed u < intOf t.signed v := by
  unfold aless intOf
  split <;> simp [BitVec.slt, BitVec.ult]

theorem atval_lt_iff (t : ATy) (x y : Nat) :
    atval t x < atval t y ↔ aless t (BitVec.ofNat (8 * t.bytes) x) (BitVec.ofNat (8 * t.bytes) y) = true := by
  rw [atval_eq, atval_eq, aless_iff]

/-! New values (R297, R300), where the location's `old` number and the operand are read as bit vectors of the type. -/

section
variable (t : ATy) (old : Nat) (x : Word)

theorem atomicNew_add : atomicNew .add t old x.toNat = (BitVec.ofNat (8 * t.bytes) old + x.setWidth (8 * t.bytes)).toNat := by
  rw [← BitVec.ofNat_toNat, ← BitVec.ofNat_add]
  exact lo_eq_toNat _ _
theorem atomicNew_min : atomicNew .min t old x.toNat =
    (if aless t (x.setWidth (8 * t.bytes)) (BitVec.ofNat (8 * t.bytes) old) then x.setWidth (8 * t.bytes) else BitVec.ofNat (8 * t.bytes) old).toNat := by
  simp only [atomicNew, atval_lt_iff, BitVec.ofNat_toNat, lo_eq_toNat]
  split <;> rfl
theorem atomicNew_max : atomicNew .max t old x.toNat =
    (if aless t (BitVec.ofNat (8 * t.bytes) old) (x.setWidth (8 * t.bytes)) then x.setWidth (8 * t.bytes) else BitVec.ofNat (8 * t.bytes) old).toNat := by
  simp only [atomicNew, atval_lt_iff, BitVec.ofNat_toNat, lo_eq_toNat]
  split <;> rfl
theorem atomicNew_and : atomicNew .and t old x.toNat = (BitVec.ofNat (8 * t.bytes) old &&& x.setWidth (8 * t.bytes)).toNat := by
  rw [← BitVec.ofNat_toNat, ← BitVec.ofNat_and]
  exact lo_eq_toNat _ _
theorem atomicNew_or : atomicNew .or t old x.toNat = (BitVec.ofNat (8 * t.bytes) old ||| x.setWidth (8 * t.bytes)).toNat := by
  rw [← BitVec.ofNat_toNat, ← BitVec.ofNat_or]
  exact lo_eq_toNat _ _
theorem atomicNew_xor : atomicNew .xor t old x.toNat = (BitVec.ofNat (8 * t.bytes) old ^^^ x.setWidth (8 * t.bytes)).toNat := by
  rw [← BitVec.ofNat_toNat, ← BitVec.ofNat_xor]
  exact lo_eq_toNat _ _
theorem atomicNew_swap : atomicNew .swap t old x.toNat = (x.setWidth (8 * t.bytes)).toNat := (BitVec.toNat_setWidth _ x).symm
theorem atomicNew_cas (e : Word) : atomicNew (.cas e) t old x.toNat =
    (if BitVec.ofNat (8 * t.bytes) old = e.setWidth (8 * t.bytes) then x.setWidth (8 * t.bytes) else BitVec.ofNat (8 * t.bytes) old).toNat := by
  simp only [atomicNew, lo_eq_toNat, BitVec.ofNat_toNat, BitVec.toNat_inj]
  split <;> rfl
end

/-- Widening FP32 reads the low 32 bits alone. -/
theorem widenF_f32_mod (x : Nat) : widenF fmtF32 (x % 2 ^ 32) = widenF fmtF32 x := by
  have hs : (x % 2 ^ 32).testBit (fmtF32.eb + fmtF32.fb) = x.testBit (fmtF32.eb + fmtF32.fb) := by
    rw [Nat.testBit_mod_two_pow]
    exact Bool.true_and _
  have he : x % 2 ^ 32 / 2 ^ fmtF32.fb % 2 ^ fmtF32.eb = x / 2 ^ fmtF32.fb % 2 ^ fmtF32.eb := by simp only [fmtF32]; omega
  have hf : x % 2 ^ 32 % 2 ^ fmtF32.fb = x % 2 ^ fmtF32.fb := by simp only [fmtF32]; omega
  simp only [widenF, hs, he, hf]

/-- The old value of an integer atomic, extended by its type (R298). -/
theorem atval_extends (t : ATy) (old : Nat) : BitVec.ofInt 64 (atval t old) =
    BitVec.ofNat 64 (if t.signed then (BitVec.ofNat (8 * t.bytes) old).signExtend 64 else (BitVec.ofNat (8 * t.bytes) old).setWidth 64).toNat := by
  rw [BitVec.ofNat_toNat, BitVec.setWidth_eq, atval_eq, intOf]
  split
  · rfl
  · rw [BitVec.ofInt_natCast, BitVec.ofNat_toNat]

/-- The float sum of an `affadd` (R299). -/
theorem atomicNew_fadd (t : ATy) (old : Nat) (x : Word) :
    atomicNew .fadd t old x.toNat = arith fmtF32 .rne false 0 (xsum false [widenF fmtF32 old, widenF fmtF32 (x.toNat % 2 ^ 32)]) := by
  rw [widenF_f32_mod]
  rfl

end Sys2Proof.Machine
end

section
/-! Atomics at the own region (R144, R298, R301). -/
namespace Sys2Proof.Machine
open Sys2Proof

theorem trailPlans_depth_zero {s : State} (h : s.thr.q.depth = 0) (l : List Seg) : trailPlans s l = .ok [] := if_pos (.inl h)

section
variable {s : State} {a : Word} {o : Nat}

theorem specCheck_own (n : Nat) (core off : Nat) (need : Need) : specCheck s n need (.ls core off 0 true) = .ok () := by
  refine require_true ?_ _ _
  have hmay : specMayWrite s need (.ls core off 0 true) = true := by simp [specMayWrite]
  rw [hmay]
  simp

theorem aligned_own {n z : Nat} (ha : n = 0xFF00000000000000 + o) (hz : z = 1 ∨ z = 2 ∨ z = 4 ∨ z = 8) (ho : o % z = 0) : n % z = 0 := by
  rcases hz with rfl | rfl | rfl | rfl <;> omega

/-- The place of an aligned access to the own region through window 0 (R113, R284). -/
theorem place_own {z : Nat} (need : Need) (h : OwnAt s a z o) (hz : z = 1 ∨ z = 2 ∨ z = 4 ∨ z = 8) (ho : o % z = 0) :
    addrWin a.toNat = 0 ∧ place s a.toNat z z need = .ok (s, .ls (thCore s.cur) (s.base + o) 0 true) := by
  obtain ⟨ha, hlim, -⟩ := h
  have hlt : o < 0x40000 := by have := limit_le s; omega
  have hraw := addrWin_own ha hlt
  refine ⟨hraw, ?_⟩
  rw [place_near_raw (by omega) hraw (nearTgt_place ha hlt hlim)]
  exact chk_bind_val (require_true (beq_iff_eq.2 (aligned_own ha hz ho)) _ _) _

theorem aty_size (t : ATy) : t.bytes = 1 ∨ t.bytes = 2 ∨ t.bytes = 4 ∨ t.bytes = 8 := by cases t <;> decide

/-- The state after an atomic of the own region: the location holds `new`, s[d] the old value, between the release and the acquire. -/
def afterAtomic (s : State) (d : BitVec 5) (sc : Scope) (o bytes new : Nat) (old : Word) : State :=
  acquire (((release s s.cur sc).modM (·.put (ownKey s o) bytes new)).setS d old) s.cur sc

/-- What stands at an offset of the own region once the release is over. -/
def afterRelease (s : State) (sc : Scope) (o bytes : Nat) : Nat := (release s s.cur sc).mem.get (ownKey s o) bytes

/-- An atomic whose place is near performs in the state that its release leaves. -/
theorem atomicLocal_near {s : State} {k : Nat} {t : ATy} (d : BitVec 5) (sc : Scope) (op : AOp) (x : Nat) (h : s.mem.poisoned k t.bytes = false) :
    atomicLocal s d .near k sc op t x =
      .ok (acquire ((s.modM (·.put k t.bytes (atomicNew op t (s.mem.get k t.bytes) x))).setS d (atomicOld op t (s.mem.get k t.bytes))) s.cur sc) := by
  have hbad : poisonVia s .near k t.bytes = none := by simp [poisonVia, badPlace, h]
  unfold atomicLocal
  dsimp only [atHome]
  rw [if_neg (by decide), hbad]
  rfl

/-- An atomic of the own region (R298), where its new and its old value are `new` and `old`. -/
theorem finish_atomicOp_own {t : ATy} {sc : Scope} {op : AOp} {x old : Word} {new : Nat} (h : OwnAt s a t.bytes o) (ho : o % t.bytes = 0)
    (hdepth : s.thr.q.depth = 0) (hrel : MayRelease s sc) (hgood : (release s s.cur sc).mem.poisoned (ownKey s o) t.bytes = false) (d : BitVec 5)
    (hnew : atomicNew op t (afterRelease s sc o t.bytes) x.toNat = new) (hold : atomicOld op t (afterRelease s sc o t.bytes) = old) :
    finish s (atomicOp s d a sc op t x) = .next (afterAtomic s d sc o t.bytes new old) := by
  obtain ⟨hraw, hplace⟩ := place_own .atomic h (aty_size t) ho
  refine finish_val ?_
  unfold atomicOp
  rw [accLen_rawWin hraw, chk_bind_val hplace]
  dsimp only [tgtRoute]
  rw [chk_bind_val (require_true (by rw [hraw]; rfl) _ _), chk_bind_val (specCheck_own _ _ _ _), chk_bind_val (trailPlans_depth_zero hdepth _),
    chk_bind_val (releaseChk_ok hrel)]
  refine (atomicLocal_near d sc op x.toNat hgood).trans ?_
  rw [release_cur, ← hnew, ← hold]
  rfl

end

/-- Settles O45: every atomic of the own region ends as `finish_atomicOp_own` says, with the new and the old value as bit vectors of its type. -/
theorem atomicResults : Obligations.AtomicResults := by
  unfold Obligations.AtomicResults
  intro s d a b t sc off o
  have hea : eaLR s a off = s.getS a + lrOff off := congrArg (s.getS a + ·) (offLR_eq off)
  refine ⟨fun hown hal hdepth hrel hgood => ?_, fun hown hal hdepth hrel hgood => ?_, fun k new hown hal hdepth hrel hgood => ?_⟩
  · rw [← hea] at hown
    have hends {op : AOp} {new : Nat} (hnew : atomicNew op t (afterRelease s sc o t.bytes) (s.getS b).toNat = new)
        (hold : atomicOld op t (afterRelease s sc o t.bytes) = BitVec.ofInt 64 (atval t (afterRelease s sc o t.bytes))) :=
      finish_atomicOp_own hown hal hdepth hrel hgood d hnew (hold.trans (atval_extends t _))
    exact ⟨hends (atomicNew_add t _ _) rfl, hends (atomicNew_min t _ _) rfl, hends (atomicNew_max t _ _) rfl, hends (atomicNew_and t _ _) rfl,
      hends (atomicNew_or t _ _) rfl, hends (atomicNew_xor t _ _) rfl, hends (atomicNew_swap t _ _) rfl⟩
  · rw [← hea] at hown
    exact finish_atomicOp_own (t := .w32) hown hal hdepth hrel hgood d (atomicNew_fadd .w32 _ _) rfl
  · exact finish_atomicOp_own hown hal hdepth hrel hgood d (atomicNew_cas t _ _ (s.getS b)) (atval_extends t _)

end Sys2Proof.Machine
end

section
/-! A store in a search, over memory that lists one byte of the place twice. Such a list is not canonical: its bytes read together as a number
that needs more than eight bytes, of which a trail entry keeps the low eight. -/
namespace Sys2Proof.Machine
open Sys2Proof

/-- An arena of 128 bytes at 0, a stack of 1024 bytes at 0x400, a trail of 256 bytes at 0x800 (R83). -/
def smallArena : Word := 2 * 2 ^ 10 + 16 * 2 ^ 19 + 16 * 2 ^ 29 + 32 * 2 ^ 39 + 4 * 2 ^ 49

/-- Thread 0 at depth 1 of a search; s1 points at the start of its own region. -/
def searcher : Thread :=
  { Thread.reset with
    r := Regs.reset.setS 1 0xFF00000000000000
    y := { SysRegs.reset with srch := smallArena }
    q := { Search.reset with depth := 1, top := 0x4C0 } }

/-- The module at reset, but for that thread and its byte 7, which stands in the list twice. -/
def trailOverByteListedTwice : State :=
  { State.reset with thr := searcher, mem := { Mem.reset with cells := [(lsKey 0 7, 0xFF), (lsKey 0 7, 0xFF)] } }

/-- The state is outside those that `memoryFormAtReset` and `stepKeepsMemoryForm` allow a run from reset to reach. -/
theorem not_memOk_trailOverByteListedTwice : ¬ trailOverByteListedTwice.MemOk := by unfold State.MemOk; decide

theorem ownAt_trailOverByteListedTwice : OwnAt trailOverByteListedTwice 0xFF00000000000000 8 0 := by unfold OwnAt; decide +kernel

/-- Both listings of byte 7 count in the old bytes that the statement expects. -/
theorem oldBytes_trailOverByteListedTwice :
    (drainAll trailOverByteListedTwice (thCore trailOverByteListedTwice.cur)).mem.get (ownKey trailOverByteListedTwice 0) 8 = 2 * 0xFF * 256 ^ 7 := by
  decide +kernel

/-- The entry that `st.w64` writes holds the low 64 bits of them. -/
theorem trailEntry_trailOverByteListedTwice : Answers (.stW64 0 1 (.imm 0)) trailOverByteListedTwice (fun t =>
    t.mem.get (ownKey trailOverByteListedTwice 0x800) 16 / 2 ^ 64 = 2 * 0xFF * 256 ^ 7 % 2 ^ 64) :=
  ⟨_, rfl, by decide +kernel⟩

/-- Refutes O41: the statement has no hypothesis that memory is canonical. In `trailOverByteListedTwice` a store of eight bytes to the arena meets
every check, and its trail entry does not hold the number that memory's bytes give. -/
theorem not_ownRegionStores : ¬ Obligations.OwnRegionStores := by
  unfold Obligations.OwnRegionStores
  rintro ⟨hscalar, -⟩
  obtain ⟨-, hsearch⟩ := hscalar trailOverByteListedTwice (.stW64 0 1 (.imm 0)) 0xFF00000000000000 8 0 0 (by decide +kernel) rfl ownAt_trailOverByteListedTwice rfl
  obtain ⟨-, harena⟩ := hsearch (by decide) (by decide)
  obtain ⟨-, htrail⟩ := harena (by decide +kernel) (by decide +kernel) (by decide +kernel) (by decide +kernel)
  obtain ⟨t, hexec, -, -, -, -, -, -, -, hold⟩ := htrail (by decide +kernel) (by decide +kernel)
  obtain ⟨t', hexec', hold'⟩ := trailEntry_trailOverByteListedTwice
  obtain rfl : t = t' := Host.Outcome.next.inj (hexec.symm.trans hexec')
  have hnum := (hold (by decide)).trans oldBytes_trailOverByteListedTwice
  exact absurd (hold'.symm.trans hnum) (by decide)

end Sys2Proof.Machine
end

section
/-! A `fail` over memory that lists one byte of the saved area twice. The area reads as one number in which that byte carries into the next
register; read for itself, the next register has no carry. -/
namespace Sys2Proof.Machine
open Sys2Proof

/-- A choice frame (R88) that saves s1 and s2 at 0x480, with alternative 1 of two untried and its table at 0. -/
def twoSavedFrame : Nat :=
  6 * 256 ^ 16 + 2 * 256 ^ 25 + 256 ^ 26 + 256 ^ 27 + 0x480 * 256 ^ 30

/-- The last byte of the saved s1 stands in the list twice. -/
def savedByteListedTwice : List Host.Cell := bytesFrom 64 (lsKey 0 0x440) twoSavedFrame ++ [(lsKey 0 0x487, 0xFF), (lsKey 0 0x487, 0xFF)]

/-- The module at reset, but for the searching thread, that memory, die 0 up, the page of the table in the thread's TLB, and the table's
sector in its core's L1. -/
def failOverByteListedTwice : State :=
  { State.reset with
    thr := searcher
    plat := { Plat.reset with bar0 := [(dieOff 0 + 0xB00, 1)] }
    mem := { Mem.reset with
      cells := savedByteListedTwice
      tlb := [{ clu := 0, part := 0, vpage := 0, bits := 16, leaf := 0xE000000000000000 }]
      l1 := [{ core := 0, addr := 0, data := 0 }] } }

/-- Nor can a run from reset reach this state. -/
theorem not_memOk_failOverByteListedTwice : ¬ failOverByteListedTwice.MemOk := by unfold State.MemOk; decide +kernel

/-- The frame is the one of the stack. -/
theorem stackOf_failOverByteListedTwice :
    (stackOf failOverByteListedTwice failOverByteListedTwice.cur).reverse = [(0x440, twoSavedFrame)] := by decide +kernel

theorem ok_of_isOk {α : Type} {x : Chk α} (h : x.isOk = true) : ∃ a, x = .ok a := by
  cases x with
  | ok a => exact ⟨a, rfl⟩
  | error e => cases h

/-- The state in which the entry of the table is read. -/
def backInTwoSaved : State :=
  backInto (drainAll (failOverByteListedTwice.modI (fun i => { i with wrote := [] })) (thCore failOverByteListedTwice.cur)) twoSavedFrame

theorem entryOf_backInTwoSaved : ∃ e s3, entryOf (writeHeader backInTwoSaved) (fTable twoSavedFrame) 1 = .ok (e, s3) := by
  obtain ⟨⟨e, s3⟩, h⟩ := ok_of_isOk (x := entryOf (writeHeader backInTwoSaved) (fTable twoSavedFrame) 1) (by decide +kernel)
  exact ⟨e, s3, h⟩

/-- The eight bytes of s2 in the saved area. -/
theorem savedBytes_failOverByteListedTwice :
    (drainAll (failOverByteListedTwice.modI (fun i => { i with wrote := [] })) (thCore failOverByteListedTwice.cur)).mem.get
      (ownKey failOverByteListedTwice (fSave twoSavedFrame) + 8 * 1) 8 = 0 := by decide +kernel

/-- `fail` gives s2 the carry of the byte that is listed twice. -/
theorem restored_failOverByteListedTwice : Answers .fail failOverByteListedTwice (fun t => t.getS 2 = 1) := ⟨_, rfl, by decide +kernel⟩

/-- Refutes O38, in its clause on `fail`: the statement has no hypothesis that memory is canonical. In `failOverByteListedTwice` the newest frame has
an untried alternative whose entry can be read, and s2 does not take the number that its eight saved bytes give. -/
theorem not_searchInstructions : ¬ Obligations.SearchInstructions := by
  unfold Obligations.SearchInstructions
  rintro ⟨-, hfail, -⟩
  obtain ⟨e, s3, hentry⟩ := entryOf_backInTwoSaved
  obtain ⟨t, hexec, -, -, -, -, -, -, -, -, hrestores⟩ := hfail failOverByteListedTwice s3 0x440 twoSavedFrame 1 e [] [] rfl (by decide +kernel)
    stackOf_failOverByteListedTwice (by decide +kernel) hentry
  obtain ⟨hscalars, -⟩ := hrestores (fun j hlo hhi => absurd hhi (Nat.not_lt_zero j)) (by decide +kernel) (by decide +kernel) (by decide +kernel)
  obtain ⟨t', hexec', hcarry⟩ := restored_failOverByteListedTwice
  obtain rfl : t = t' := Host.Outcome.next.inj (hexec.symm.trans hexec')
  have hs2 := (hscalars 1 2 (by decide +kernel) (by decide)).trans (congrArg (BitVec.ofNat 64) savedBytes_failOverByteListedTwice)
  exact absurd (hcarry.symm.trans hs2) (by decide)

end Sys2Proof.Machine
end


section
/-! Accesses to the thread's own region, raw and through a format window (R113, R115, R284). -/
namespace Sys2Proof.Machine
open Sys2Proof

/-- `Ext` of a loaded value as the statements write it. -/
theorem extLoad_eq_loaded {n : Nat} (hn : 0 < n) (sg : Bool) (v : Nat) : extLoad n sg v = loaded n sg v := by
  unfold extLoad loaded
  split
  · rw [← sval_lo, lo_eq_toNat, sval_toNat (by omega)]
    rfl
  · rw [lo, Nat.pow_mul]

/-- Putting bytes over a whole number leaves their low part. -/
theorem putBytes_zero (n v : Nat) : putBytes 0 0 n v = v % 256 ^ n := by
  simp [putBytes]

theorem loaded_mod (n : Nat) (sg : Bool) (v : Nat) : loaded n sg (v % 256 ^ n) = loaded n sg v := by
  have hpow : (256 : Nat) ^ n = 2 ^ (8 * n) := by rw [Nat.pow_mul]
  have hlow : BitVec.ofNat (8 * n) (v % 2 ^ (8 * n)) = BitVec.ofNat (8 * n) v := BitVec.eq_of_toNat_eq (by simp)
  unfold loaded
  rw [hpow, hlow, Nat.mod_mod]

section
variable {s : State} {a n al o w : Nat}

theorem addrWin_window (ha : a = 0xFF00000000000000 + w * 0x40000 + o) (hw : w < 8) (ho : o < 0x40000) : addrWin a = w := by
  unfold addrWin
  rw [if_pos (by omega)]
  omega

theorem nearTgt_window (ha : a = 0xFF00000000000000 + w * 0x40000 + o) (hw : w < 8) (ho : o < 0x40000) (hlim : o + n ≤ s.limit) :
    nearTgt s a n = .ok (.ls (thCore s.cur) (s.base + o) w true) := by
  have hreg : a / 2 ^ 48 % 256 = 0 := by omega
  have hoff : a % 2 ^ 48 % 0x40000 = o := by omega
  have hwin : a % 2 ^ 48 / 0x40000 = w := by omega
  unfold nearTgt
  dsimp only
  rw [if_pos hreg, hoff, hwin, if_pos ⟨by omega, hlim⟩]

/-- The format in use at an address of a window whose word is good. -/
theorem addrFmt_window {x : Window} {good : Bool} (hwin : addrWin a = w) (h0 : 0 < w) (hx : windowOf (s.win w) = some (some (x, good))) :
    addrFmt s a = some x := by
  unfold addrFmt
  rw [hwin, hx]
  exact if_neg (by omega)

/-- A store or a load is no atomic: an attempt may make it to its own region through every window (R54). -/
theorem specCheck_ownWindow {need : Need} (hneed : need ≠ .atomic) (core off w : Nat) : specCheck s a need (.ls core off w true) = .ok () := by
  refine require_true ?_ _ _
  have hmay : specMayWrite s need (.ls core off w true) = true := by simp [specMayWrite, hneed]
  rw [hmay]
  simp

/-- An aligned range of the own region passes the checks raw (R284). -/
theorem resolve_ownRange {ea : Word} (need : Need) (h : OwnAt s ea n o) (hn : 0 < n) (hal : al = 1 ∨ al = 2 ∨ al = 4 ∨ al = 8) (ho : o % al = 0) :
    addrWin ea.toNat = 0 ∧ resolve s ea.toNat n al need = .ok (s, .ls (thCore s.cur) (s.base + o) 0 true) := by
  obtain ⟨ha, hlim, -⟩ := h
  have hlt : o < 0x40000 := by have := limit_le s; omega
  have hraw := addrWin_own ha hlt
  refine ⟨hraw, ?_⟩
  unfold resolve
  rw [place_near_raw (by omega) hraw (nearTgt_place ha hlt hlim), chk_bind_val (require_true (beq_iff_eq.2 (aligned_own ha hal ho)) _ _)]
  exact chk_bind_val (specCheck_own _ _ _ _) _

/-- An aligned element of the own region passes the checks through a format window whose word is good (R115, R284). -/
theorem resolve_ownWindow {x : Window} {need : Need} (hneed : need ≠ .atomic) (ha : a = 0xFF00000000000000 + w * 0x40000 + o) (h0 : 0 < w) (hw : w < 8)
    (hx : windowOf (s.win w) = some (some (x, true))) (hlim : o + x.fmt.bytes ≤ s.limit) (ho : o % x.fmt.bytes = 0) :
    resolve s a x.fmt.bytes al need = .ok (s, .ls (thCore s.cur) (s.base + o) w true) := by
  have hz : x.fmt.bytes = 1 ∨ x.fmt.bytes = 2 ∨ x.fmt.bytes = 4 := by
    unfold WFmt.bytes
    split <;> simp
  have hlt : o < 0x40000 := by have := limit_le s; omega
  have hwin := addrWin_window ha hw hlt
  have hcheck : winCheck s w = .ok () := by
    unfold winCheck
    rw [if_neg (by omega), hx]
    rfl
  have halign : (a % x.fmt.bytes == 0) = true := beq_iff_eq.2 (by rcases hz with hz | hz | hz <;> rw [hz] at ho ⊢ <;> omega)
  unfold resolve place
  rw [chk_bind_val (require_true (by rw [show a / 2 ^ 56 = 0xFF by omega]; rfl) _ _), if_pos (by omega), chk_bind_val (nearTgt_window ha hw hlt hlim), hwin,
    chk_bind_val hcheck, addrFmt_window hwin h0 hx]
  dsimp only
  rw [chk_bind_val (require_true halign _ _)]
  exact chk_bind_val (specCheck_ownWindow hneed _ _ _) _

end

/-- The segment of an access to the own region. -/
def ownSeg (s : State) (o w n pos addr : Nat) : Seg := { tgt := .ls (thCore s.cur) (s.base + o) w true, len := n, pos := pos, addr := addr }

/-- What a load of the own region gives, and the state that it leaves (R134). -/
def ownGot (s : State) (k n : Nat) : Nat × State := loadPlace s .near k n

/-- A load of the own region that places its bytes by `put`, by where the bytes come from. -/
theorem nearLoad_ownGot (s : State) (k n : Nat) (put : Nat → State → State) : NearLoad (.next (put (ownGot s k n).1 (ownGot s k n).2)) s k n put := by
  unfold ownGot loadPlace
  refine ⟨fun h => ?_, fun x h hlo hhi => ?_, fun x h hpart => ?_⟩
  · rw [h]
    rfl
  · rw [h]
    dsimp only
    rw [if_pos ⟨hlo, hhi⟩]
    rfl
  · rw [h]
    dsimp only
    rw [if_neg (by omega)]
    rfl

theorem poisonVia_near {s : State} {k n : Nat} (h : s.mem.poisoned k n = false) : poisonVia s .near k n = none := by
  simp [poisonVia, badPlace, h]

section
variable {s : State} {o w n pos addr : Nat} {t : State} (ds : Nat) (g : Got)

/-- Reading one raw segment of the own region. `t` is the state in which the load performs. -/
theorem readSegs_ownRaw (hgood : t.mem.poisoned (ownKey s o) n = false) (hraw : addrFmt t addr = none) :
    readSegs ds [ownSeg s o w n pos addr] t g = .ok ({ g with val := putBytes g.val pos n (ownGot t (ownKey s o) n).1 }, (ownGot t (ownKey s o) n).2) := by
  have hpoison : poisonVia t .near (lsKey (thCore s.cur) (s.base + o)) n = none := poisonVia_near hgood
  simp only [readSegs, ownSeg, tgtRoute, tgtKey, routeWaits, Bool.false_eq_true, if_false, hpoison, hraw]
  rfl

/-- Reading one element of the own region through a format window. -/
theorem readSegs_ownWindow {x : Window} (hgood : t.mem.poisoned (ownKey s o) n = false) (hfmt : addrFmt t addr = some x) :
    readSegs ds [ownSeg s o w n pos addr] t g =
      match lanesLoad x ds (ownGot t (ownKey s o) n).1 (n / x.fmt.bytes) 0 (pos / 4) g.val with
      | .error e => .error e
      | .ok y => .ok ({ g with val := y }, (ownGot t (ownKey s o) n).2) := by
  have hpoison : poisonVia t .near (lsKey (thCore s.cur) (s.base + o)) n = none := poisonVia_near hgood
  simp only [readSegs, ownSeg, tgtRoute, tgtKey, routeWaits, Bool.false_eq_true, if_false, hpoison, hfmt]
  rfl
end

end Sys2Proof.Machine
end

section
/-! Scalar loads of the thread's own region (R286, R287). -/
namespace Sys2Proof.Machine
open Sys2Proof

/-- Which load an instruction is. -/
theorem exec_scalarLoad {s : State} {i : Instr} {a : Word} {z : Nat} {d : BitVec 5} {sg : Bool} (h : scalarAccess s i = some (a, z, .load))
    (hd : scalarLoad i = some (d, sg)) : exec i s = finish s (loadScalar s d a z sg false) := by
  unfold scalarAccess at h
  split at h <;> cases h <;> cases hd
  case h_12 => rw [← indexed_eq]; rfl
  all_goals rw [← eaLM_eq]; rfl

/-- An access through no window draws nothing. -/
theorem winDraws_raw {s : State} {a : Nat} (h : addrFmt s a = none) (n : Nat) : winDraws s [a] n = (0, s) := by
  simp [winDraws, drawsAt, h]

theorem winDraws_exact {s : State} {a : Nat} {x : Window} (h : addrFmt s a = some x) (hrnd : x.rnd ≠ .rs) (n : Nat) : winDraws s [a] n = (0, s) := by
  simp [winDraws, drawsAt, h, hrnd]

/-- A scalar load of the own region through window 0. -/
theorem loadScalar_own {s : State} {a : Word} {z o : Nat} (d : BitVec 5) (sg : Bool) (h : OwnAt s a z o) (hz : z = 1 ∨ z = 2 ∨ z = 4 ∨ z = 8) (ho : o % z = 0) :
    loadScalar s d a z sg false = .ok ((ownGot s (ownKey s o) z).2.setS d (loaded z sg (ownGot s (ownKey s o) z).1)) := by
  obtain ⟨hraw, hres⟩ := resolve_ownRange .load h (by omega) hz ho
  obtain ⟨-, -, hgood⟩ := h
  have hfmt := addrFmt_rawWin (s := s) hraw
  unfold loadScalar
  rw [accLen_rawWin hraw, chk_bind_val hres]
  dsimp only
  rw [chk_bind_val (require_true (by rw [hfmt]; rfl) _ _)]
  simp only [Bool.false_eq_true, if_false]
  rw [winDraws_raw hfmt]
  dsimp only
  refine (chk_bind_val (readSegs_ownRaw (s := s) (o := o) (w := 0) 0 _ hgood hfmt) _).trans ?_
  dsimp only
  rw [putBytes_zero, extLoad_eq_loaded (by omega), loaded_mod]
  rfl

/-! Windows read the bytes of one element alone (R115, R116). -/

theorem widenF_mod {f : FFmt} {n : Nat} (hn : f.eb + f.fb < n) (x : Nat) : widenF f (x % 2 ^ n) = widenF f x := by
  have hs : (x % 2 ^ n).testBit (f.eb + f.fb) = x.testBit (f.eb + f.fb) := by rw [Nat.testBit_mod_two_pow, decide_eq_true hn, Bool.true_and]
  have he : x % 2 ^ n / 2 ^ f.fb % 2 ^ f.eb = x / 2 ^ f.fb % 2 ^ f.eb := by
    obtain ⟨m, rfl⟩ : ∃ m, n = f.fb + (f.eb + m) := ⟨n - f.fb - f.eb, by omega⟩
    rw [Nat.pow_add, Nat.mod_mul_right_div_self, Nat.pow_add, Nat.mod_mul_right_mod]
  have hf : x % 2 ^ n % 2 ^ f.fb = x % 2 ^ f.fb := by
    obtain ⟨m, rfl⟩ : ∃ m, n = f.fb + m := ⟨n - f.fb, by omega⟩
    rw [Nat.pow_add, Nat.mod_mul_right_mod]
  simp only [widenF, hs, he, hf]

theorem widenPw8_mod (x : Nat) : widenPw8 (x % 256) = widenPw8 x := by
  have h7 : (x % 256).testBit 7 = x.testBit 7 := by rw [show (256 : Nat) = 2 ^ 8 from rfl, Nat.testBit_mod_two_pow]; simp
  have h3 : (x % 256).testBit 3 = x.testBit 3 := by rw [show (256 : Nat) = 2 ^ 8 from rfl, Nat.testBit_mod_two_pow]; simp
  have hhi : x % 256 / 16 % 8 = x / 16 % 8 := by omega
  have hlo : x % 256 % 8 = x % 8 := by omega
  simp only [widenPw8, h7, h3, hhi, hlo]

theorem widen_mod (t : FTy) (x : Nat) : widen t (x % 256 ^ (WFmt.f t).bytes) = widen t x := by
  cases t
  case f32 => exact widenF_mod (n := 32) (by decide) x
  case bf16 => exact widenF_mod (n := 16) (by decide) x
  case f16 => exact widenF_mod (n := 16) (by decide) x
  case e4m3 => exact widenF_mod (n := 8) (by decide) x
  case e5m2 => exact widenF_mod (n := 8) (by decide) x
  case pw8 => exact widenPw8_mod x

theorem winLoad_mod (w : Window) (u x : Nat) : winLoad w u (x % 256 ^ w.fmt.bytes) = winLoad w u x := by
  obtain ⟨fmt, rnd, sat, scale⟩ := w
  cases fmt with
  | f t => simp only [winLoad, widen_mod]
  | int8 =>
    have hval : sval 8 (x % 256 ^ WFmt.int8.bytes) = sval 8 x := sval_lo 8 x
    simp only [winLoad, hval]

theorem winLoadBad_mod (w : Window) (x : Nat) : winLoadBad w (x % 256 ^ w.fmt.bytes) = winLoadBad w x := by
  by_cases h : w.fmt = .f .pw8
  · have hhi : x % 256 / 16 % 8 = x / 16 % 8 := by omega
    have hlo : x % 256 % 8 = x % 8 := by omega
    simp only [winLoadBad, h, WFmt.bytes, pw8Reserved, Nat.pow_one, hhi, hlo]
  · simp only [winLoadBad, beq_eq_false_iff_ne.2 h, Bool.false_and]

/-- A reserved byte is one of a window of single bytes. -/
theorem bytes_of_winLoadBad {w : Window} {x : Nat} (h : winLoadBad w x = true) : w.fmt.bytes = 1 := by
  unfold winLoadBad at h
  rw [(beq_iff_eq.1 (Bool.and_eq_true_iff.1 h).1)]
  rfl

/-- One lane from the start of the bytes read, without draws. -/
theorem lanesLoad_one (w : Window) (v : Nat) : lanesLoad w 0 v 1 0 0 0 = if winLoadBad w v then raise 0x07 (v % 256) else .ok (winLoad w 0 v % 2 ^ 32) := by
  have hget : getBytes v (0 * w.fmt.bytes) w.fmt.bytes = v % 256 ^ w.fmt.bytes := by simp [getBytes]
  have hdraw : draw 0 0 = 0 := by decide
  unfold lanesLoad laneLoad
  rw [hget, hdraw, winLoad_mod, winLoadBad_mod]
  by_cases hbad : winLoadBad w v = true
  · rw [if_pos hbad, if_pos hbad, bytes_of_winLoadBad hbad]
    simp [raise]
  · rw [if_neg hbad, if_neg hbad]
    exact congrArg Except.ok (putBytes_zero 4 _)

/-- A load of one element through a format window, where no buffered store overlaps it. -/
theorem loadScalar_window {s : State} {a : Word} {w o : Nat} {x : Window} (d : BitVec 5) (ha : a.toNat = 0xFF00000000000000 + w * 0x40000 + o) (h0 : 0 < w)
    (hw : w < 8) (hx : windowOf (s.win w) = some (some (x, true))) (hrnd : x.rnd ≠ .rs) (hlim : o + x.fmt.bytes ≤ s.limit) (ho : o % x.fmt.bytes = 0)
    (hgood : s.mem.poisoned (ownKey s o) x.fmt.bytes = false) (hbuf : newestOwn s s.cur (ownKey s o) x.fmt.bytes = none) :
    loadScalar s d a 4 false false =
      if winLoadBad x (s.mem.get (ownKey s o) x.fmt.bytes) then raise 0x07 (s.mem.get (ownKey s o) x.fmt.bytes % 256)
      else .ok (s.setS d (BitVec.ofNat 64 (winLoad x 0 (s.mem.get (ownKey s o) x.fmt.bytes) % 2 ^ 32))) := by
  have hpos : 0 < x.fmt.bytes := by
    unfold WFmt.bytes
    split <;> decide
  have hlt : o < 0x40000 := by have := limit_le s; omega
  have hfmt := addrFmt_window (s := s) (addrWin_window ha hw hlt) h0 hx
  have hlen : accLen s a.toNat 4 = x.fmt.bytes := by
    unfold accLen
    rw [hfmt]
  have hgot : ownGot s (ownKey s o) x.fmt.bytes = (s.mem.get (ownKey s o) x.fmt.bytes, s) := by
    unfold ownGot loadPlace
    rw [hbuf]
    rfl
  unfold loadScalar
  rw [hlen, chk_bind_val (resolve_ownWindow (by decide) ha h0 hw hx hlim ho)]
  dsimp only
  rw [chk_bind_val (require_true (by simp) _ _)]
  simp only [Bool.false_eq_true, if_false]
  rw [winDraws_exact hfmt hrnd]
  dsimp only
  have hread := readSegs_ownWindow (s := s) (o := o) (w := w) (n := x.fmt.bytes) (pos := 0) 0 { val := 0, chunks := [], bad := none } hgood hfmt
  rw [Nat.div_self hpos, Nat.zero_div, hgot, lanesLoad_one] at hread
  by_cases hbad : winLoadBad x (s.mem.get (ownKey s o) x.fmt.bytes) = true
  · rw [if_pos hbad] at hread ⊢
    exact chk_bind_stop hread _
  · rw [if_neg hbad] at hread ⊢
    refine (chk_bind_val hread _).trans ?_
    dsimp only
    rw [extLoad_eq_loaded (by decide)]
    simp [loaded]
    rfl

/-- Settles O40: a load of the own region is the bytes that `loadPlace` gives, extended; through a window it is one lane. -/
theorem ownRegionLoads : Obligations.OwnRegionLoads := by
  unfold Obligations.OwnRegionLoads
  refine ⟨fun s i a z o d sg hacc hload hown ho => ?_, fun s d a off w o x h0 hw hx hrnd ha hlim ho hgood hbuf => ?_⟩
  · rw [exec_scalarLoad hacc hload, finish_val (loadScalar_own d sg hown (scalarAccess_size hacc) ho)]
    exact nearLoad_ownGot s (ownKey s o) z (fun v t => t.setS d (loaded z sg v))
  · have hload := loadScalar_window d ha h0 hw hx hrnd hlim ho hgood hbuf
    rw [← eaLM_eq] at hload
    refine ⟨fun hok => finish_val (hload.trans (if_neg (by rw [hok]; decide))), fun hbad => finish_raises (hload.trans (if_pos hbad))⟩

end Sys2Proof.Machine
end

section
/-! An acquire load of one byte that memory lists twice. Both listings count in what the byte reads as (`trailOverByteListedTwice`, whose list is not
canonical), and the load writes that number to its scalar whole: it is no number of eight bits. -/
namespace Sys2Proof.Machine
open Sys2Proof

theorem ownAt_byteListedTwice : OwnAt trailOverByteListedTwice (trailOverByteListedTwice.getS 1 + lrOff (some 7)) 1 7 := by unfold OwnAt; decide +kernel

/-- What memory gives for byte 7 of the region. -/
theorem byte_trailOverByteListedTwice : trailOverByteListedTwice.mem.get (ownKey trailOverByteListedTwice 7) 1 = 0x1FE := by decide +kernel

/-- `ldacq.w8` gives the number with its ninth bit. -/
theorem ldacq_trailOverByteListedTwice : Answers (.ldacq 2 1 .e1 .core (some 7)) trailOverByteListedTwice (fun t => t.getS 2 = 0x1FE) :=
  ⟨_, rfl, by decide +kernel⟩

/-- Refutes O43, in its clause on `ldacq`: the statement has no hypothesis that memory is canonical. In `trailOverByteListedTwice`, which
`not_memOk_trailOverByteListedTwice` puts outside what a run from reset reaches, an acquire load of one byte is not the byte zero-extended. -/
theorem not_synchronisingAndOrderedAccesses : ¬ Obligations.SynchronisingAndOrderedAccesses := by
  unfold Obligations.SynchronisingAndOrderedAccesses
  rintro ⟨-, -, -, -, hacquire⟩
  obtain ⟨⟨hmemory, -⟩, -⟩ := hacquire trailOverByteListedTwice 2 1 .e1 .core (some 7) 7 ownAt_byteListedTwice (by decide)
  obtain ⟨t, hexec, hnine⟩ := ldacq_trailOverByteListedTwice
  obtain rfl := Host.Outcome.next.inj (hexec.symm.trans (hmemory (by decide +kernel)))
  have height : ((trailOverByteListedTwice.setS 2 (loaded 1 false (trailOverByteListedTwice.mem.get (ownKey trailOverByteListedTwice 7) 1))).getS 2) = 0xFE := by
    rw [byte_trailOverByteListedTwice]
    decide
  exact absurd (hnine.symm.trans height) (by decide)

end Sys2Proof.Machine
end

section
/-! A matrix job enters the queue of its cluster (R313). -/
namespace Sys2Proof.Machine
open Sys2Proof

/-- While fewer than 32 jobs are queued, an index is free (R313). -/
theorem freeIdx_fresh {c : CluSt} (h : c.jobs.length < 32) : freeIdx c < 32 ∧ ∀ j ∈ c.jobs, j.idx ≠ freeIdx c := by
  have hsome : ((List.range 32).find? (fun i => !c.jobs.any (fun j => j.idx == i))).isSome = true := by
    rw [List.find?_isSome]
    by_contra hall
    push Not at hall
    have hsub : List.range 32 ⊆ c.jobs.map (fun j => j.idx) := fun i hi => by
      obtain ⟨j, hj, he⟩ : ∃ j ∈ c.jobs, j.idx = i := by simpa using hall i hi
      exact List.mem_map.2 ⟨j, hj, he⟩
    have hlen := (List.nodup_range.subperm hsub).length_le
    rw [List.length_range, List.length_map] at hlen
    omega
  obtain ⟨i, hi⟩ := Option.isSome_iff_exists.1 hsome
  have hfree : freeIdx c = i := by rw [freeIdx, hi]; rfl
  have hnone := List.find?_some hi
  rw [hfree]
  refine ⟨List.mem_range.1 (List.mem_of_find?_eq_some hi), fun j hj he => ?_⟩
  simp only [Bool.not_eq_true', List.any_eq_false, beq_iff_eq] at hnone
  exact hnone j hj he

/-- The first requester whose turn comes among those of one number is that number. -/
theorem queueTurn_alone (s : State) (clu : Nat) {who : Nat} (h : who < 9) : queueTurn s clu [who] = some who := by
  unfold queueTurn
  have hsome : (((List.range 9).map (fun i => ((s.clu clu).turn + i) % 9)).find? (fun i => [who].contains i)).isSome = true := by
    rw [List.find?_isSome]
    refine ⟨who, List.mem_map.2 ⟨(who + 9 - (s.clu clu).turn % 9) % 9, List.mem_range.2 (by omega), by omega⟩, by simp⟩
  obtain ⟨i, hi⟩ := Option.isSome_iff_exists.1 hsome
  have hwho : i = who := by simpa using List.find?_some hi
  rw [hi, hwho]

/-- The core of the focused thread has the turn at its cluster's queue. -/
def hasTurn (s : State) : Prop :=
  queueTurn s (thClu s.cur) (s.cur % 32 / 4 :: queueWaits s (thClu s.cur)) = some (s.cur % 32 / 4)

theorem mayQueue_iff (s : State) : mayQueue s (thClu s.cur) (s.cur % 32 / 4) = true ↔ (s.clu (thClu s.cur)).jobs.length < 32 ∧ hasTurn s := by
  simp [mayQueue, hasTurn]

/-- The generator of the focused thread plays no part at the queue. -/
theorem mayQueue_setGen (s : State) (g : Word × Word) (clu who : Nat) : mayQueue (s.setGen g) clu who = mayQueue s clu who := by
  have hwaits : queueWaits (s.setGen g) clu = queueWaits s clu := by
    have hblocked (n : Nat) : ((s.setGen g).getT n).i.blocked = (s.getT n).i.blocked := by
      rw [State.getT, State.getT, State.setGen_cur, State.setGen_rest]
      split
      · rfl
      · rfl
    simp only [queueWaits, hblocked]
    rfl
  unfold mayQueue
  rw [hwaits]
  rfl

/-- The state once the focused thread's job stands in the queue (R313). -/
def withJob (s : State) (h : BitVec 4) (what : MxOp) : State :=
  let clu := thClu s.cur
  let d := drainAll s (thCore s.cur)
  acceptJob ((addOp d clu .clu (.mx (thDie s.cur) clu)).2.setH h (.pending d.sch.nextId)) clu (s.cur % 32 / 4) d.sch.nextId what s.part

theorem queueJob_enters {s : State} {h : BitVec 4} {what : MxOp} (hmay : mayQueue s (thClu s.cur) (s.cur % 32 / 4) = true) :
    queueJob s h what = .ok (withJob s h what) := by
  unfold queueJob
  rw [if_neg (by rw [hmay]; decide)]
  rfl

theorem queueJob_waits {s : State} {h : BitVec 4} {what : MxOp} (hmay : mayQueue s (thClu s.cur) (s.cur % 32 / 4) = false) :
    queueJob s h what = .error (.wait .mxe) := by
  unfold queueJob
  exact if_pos (by rw [hmay]; rfl)

/-- What accepting a job changes: the queue; it leaves the focused thread and the operations. -/
theorem acceptJob_thr (s : State) (clu who op : Nat) (what : MxOp) (part : Nat) : (acceptJob s clu who op what part).thr = s.thr := by
  unfold acceptJob
  dsimp only
  split <;> rfl
theorem acceptJob_sch (s : State) (clu who op : Nat) (what : MxOp) (part : Nat) : (acceptJob s clu who op what part).sch = s.sch := by
  unfold acceptJob
  dsimp only
  split <;> rfl
theorem acceptJob_jobs (s : State) (clu who op : Nat) (what : MxOp) (part : Nat) : ((acceptJob s clu who op what part).clu clu).jobs =
    (s.clu clu).jobs ++ [{ op := op, idx := freeIdx (s.clu clu), what := what, remote := who == 8, part := part, device := s.device }] := by
  have hset : ∀ (t : State) (c : CluSt), (t.setClu clu c).clu clu = c := fun t c => State.clu_setClu_self t clu c
  unfold acceptJob
  dsimp only
  split
  · exact congrArg CluSt.jobs (hset _ _)
  · exact congrArg CluSt.jobs (hset _ _)

theorem withJob_thr (s : State) (h : BitVec 4) (what : MxOp) : (withJob s h what).thr = { s.thr with r := s.thr.r.setH h (.pending s.sch.nextId) } := by
  have hmove := drainAll_moves s (thCore s.cur)
  unfold withJob
  rw [acceptJob_thr, ← hmove.thr, ← hmove.sch]
  rfl

theorem withJob_ops (s : State) (h : BitVec 4) (what : MxOp) : ∃ x ∈ (withJob s h what).sch.ops, x.id = s.sch.nextId ∧ x.k = .mx (thDie s.cur) (thClu s.cur) := by
  have hmove := drainAll_moves s (thCore s.cur)
  unfold withJob
  rw [acceptJob_sch, ← hmove.sch]
  exact ⟨_, newOp_mem_ops _ _ _ _, rfl, rfl⟩

theorem withJob_jobs (s : State) (h : BitVec 4) (what : MxOp) : ∃ dev, ((withJob s h what).clu (thClu s.cur)).jobs = (s.clu (thClu s.cur)).jobs ++
    [{ op := s.sch.nextId, idx := freeIdx (s.clu (thClu s.cur)), what := what, remote := false, part := s.part, device := dev }] := by
  have hmove := drainAll_moves s (thCore s.cur)
  have hclu : ((addOp (drainAll s (thCore s.cur)) (thClu s.cur) .clu (.mx (thDie s.cur) (thClu s.cur))).2.setH h
      (.pending (drainAll s (thCore s.cur)).sch.nextId)).clu (thClu s.cur) = s.clu (thClu s.cur) := congrArg (tabGet CluSt.reset · (thClu s.cur)) hmove.clus
  have hcore : (s.cur % 32 / 4 == 8) = false := beq_eq_false_iff_ne.2 (by omega)
  refine ⟨(drainAll s (thCore s.cur)).device, ?_⟩
  unfold withJob
  rw [acceptJob_jobs, hclu, hcore, hmove.sch]
  rfl

/-- An instruction that comes to `queueJob` queues its job or waits, whatever the generator of the thread. -/
theorem queuesJob_setGen (s : State) (g : Word × Word) (h : BitVec 4) (what : MxOp) : QueuesJob (finish s (queueJob (s.setGen g) h what)) s h what := by
  refine ⟨fun hroom hturn => ?_, fun hwait => ?_⟩
  · have hturn' : hasTurn s := by
      obtain halone | hturn := hturn
      · unfold hasTurn
        rw [halone]
        exact queueTurn_alone s _ (by omega)
      · exact hturn
    have hmay : mayQueue (s.setGen g) (thClu s.cur) (s.cur % 32 / 4) = true := (mayQueue_setGen ..).trans ((mayQueue_iff s).2 ⟨hroom, hturn'⟩)
    have hthr := withJob_thr (s.setGen g) h what
    obtain ⟨dev, hjobs⟩ := withJob_jobs (s.setGen g) h what
    obtain ⟨hidx, hfresh⟩ := freeIdx_fresh hroom
    refine ⟨withJob (s.setGen g) h what, s.sch.nextId, freeIdx (s.clu (thClu s.cur)), finish_val (queueJob_enters hmay), ?_, fun k hk => ?_, ?_, ?_, ?_,
      withJob_ops (s.setGen g) h what, hidx, hfresh, _, hjobs, rfl, rfl, rfl, rfl, rfl⟩
    · rw [State.getH, hthr]
      exact (Regs.getH_setH ..).trans (if_pos rfl)
    · rw [State.getH, hthr]
      exact (Regs.getH_setH ..).trans (if_neg hk)
    · rw [hthr]
      rfl
    · rw [hthr]
      rfl
    · rw [hthr]
      rfl
  · have hmay : mayQueue (s.setGen g) (thClu s.cur) (s.cur % 32 / 4) = false := by
      rw [mayQueue_setGen, ← Bool.not_eq_true, mayQueue_iff]
      rintro ⟨hroom, hturn⟩
      exact hwait.elim (fun hfull => absurd hroom (by omega)) (fun hno => hno hturn)
    rw [queueJob_waits hmay]
    rfl

theorem queuesJob_of {s : State} {h : BitVec 4} {what : MxOp} {x : Chk State} (hx : x = queueJob s h what) : QueuesJob (finish s x) s h what := by
  rw [hx]
  exact queuesJob_setGen s s.gen h what

end Sys2Proof.Machine
end

section
/-! The operands of matrix instructions (R313 to R321). -/
namespace Sys2Proof.Machine
open Sys2Proof

section
variable {o t n v : Nat}

theorem ldChk_ok (h : o % 1024 = 0) (hlim : o ≤ 0x1F8000) : ldChk o = .ok () := require_true (by simp [h, hlim]) _ _
theorem ldChk_bad (h : o % 1024 ≠ 0 ∨ 0x1F8000 < o) : ldChk o = raise 0x60 o := require_false (by simp; omega) _ _
theorem aTile_ok (h : o % 256 = 0) (hlim : o + n ≤ 0x200000) : aTile o n = .ok () := require_true (by simp [h, hlim]) _ _
theorem aTile_bad (h : o % 256 ≠ 0 ∨ 0x200000 < o + n) : aTile o n = raise 0x60 o := require_false (by simp; omega) _ _
theorem tileNo_ok (h : t ≤ 15) : tileNo t = .ok () := require_true (decide_eq_true h) _ _
theorem tileNo_bad (h : 15 < t) : tileNo t = raise 0x60 t := require_false (decide_eq_false (by omega)) _ _

/-- An A tile at an offset of the activation buffer, and the number of a tile of the results (R316). -/
theorem tiled_ok (h : o % 256 = 0) (hlim : o + n ≤ 0x200000) (ht : t ≤ 15) (x : Chk State) : (do aTile o n; tileNo t; x) = x :=
  (chk_bind_val (aTile_ok h hlim) _).trans (chk_bind_val (tileNo_ok ht) _)

/-- The control word of `mxsp` (R317). -/
theorem spChk_ok (hv : v < 2 ^ 21) (hfmt : v / 2 ^ 16 ≤ 8) (hal : v % 64 = 0) (hlim : v % 2 ^ 16 + 32 * fmtK (v / 2 ^ 16) ≤ 0x10000) : spChk v = .ok () := by
  have hword : (v / 2 ^ 21 == 0 && fmtOk (v / 2 ^ 16)) = true := by simp only [fmtOk, Bool.and_eq_true, beq_iff_eq, decide_eq_true_eq]; omega
  have hmeta : (v % 2 ^ 16 % 64 == 0 && decide (v % 2 ^ 16 + 32 * fmtK (v / 2 ^ 16) ≤ 0x10000)) = true := by
    simp only [Bool.and_eq_true, beq_iff_eq, decide_eq_true_eq]
    exact ⟨by omega, hlim⟩
  exact (chk_bind_val (require_true hword _ _) _).trans (require_true hmeta _ _)
theorem spChk_word (h : 2 ^ 21 ≤ v ∨ 8 < v / 2 ^ 16) : spChk v = raise 0x60 v :=
  chk_bind_stop (require_false (by simp [fmtOk]; omega) _ _) _
theorem spChk_meta (hv : v < 2 ^ 21) (hfmt : v / 2 ^ 16 ≤ 8) (h : v % 64 ≠ 0 ∨ 0x10000 < v % 2 ^ 16 + 32 * fmtK (v / 2 ^ 16)) :
    spChk v = raise 0x60 (v % 2 ^ 16) := by
  have hword : (v / 2 ^ 21 == 0 && fmtOk (v / 2 ^ 16)) = true := by simp only [fmtOk, Bool.and_eq_true, beq_iff_eq, decide_eq_true_eq]; omega
  have hmeta : (v % 2 ^ 16 % 64 == 0 && decide (v % 2 ^ 16 + 32 * fmtK (v / 2 ^ 16) ≤ 0x10000)) = false := by
    simp only [Bool.and_eq_false_iff, beq_eq_false_iff_ne, decide_eq_false_iff_not]
    exact h.imp (by omega) (by omega)
  exact (chk_bind_val (require_true hword _ _) _).trans (require_false hmeta _ _)

end

section
variable {tab wb ctl : Nat}

/-- The control words of `mxgrp` (R318). -/
theorem grpChk_tab (h : 2 ^ 21 ≤ tab ∨ tab % 2 ≠ 0 ∨ 0x200000 < tab + 2 * (ctl % 64 + 1)) : grpChk tab wb ctl = raise 0x60 tab :=
  chk_bind_stop (require_false (by simp; omega) _ _) _
theorem grpChk_tabOk (h : tab < 2 ^ 21) (hal : tab % 2 = 0) (hlim : tab + 2 * (ctl % 64 + 1) ≤ 0x200000) : grpChk tab wb ctl = (do
    require (wb / 2 ^ 21 == 0 && wb % 1024 == 0) 0x60 wb
    require (ctl / 2 ^ 11 == 0 && fmtOk (ctl / 64)) 0x60 ctl
    require (decide (wb + (ctl % 64 + 1) * 0x8000 ≤ 0x200000)) 0x60 wb) :=
  chk_bind_val (require_true (by simp [hal, hlim]; omega) _ _) _
theorem wbWord_ok (h : wb < 2 ^ 21) (hal : wb % 1024 = 0) : require (wb / 2 ^ 21 == 0 && wb % 1024 == 0) 0x60 wb = .ok () :=
  require_true (by simp [hal]; omega) _ _
theorem wbWord_bad (h : 2 ^ 21 ≤ wb ∨ wb % 1024 ≠ 0) : require (wb / 2 ^ 21 == 0 && wb % 1024 == 0) 0x60 wb = raise 0x60 wb :=
  require_false (by simp; omega) _ _
theorem grpCtl_ok (h : ctl < 2 ^ 11) (hfmt : ctl / 64 ≤ 8) : require (ctl / 2 ^ 11 == 0 && fmtOk (ctl / 64)) 0x60 ctl = .ok () :=
  require_true (by simp [fmtOk, hfmt]; omega) _ _
theorem grpCtl_bad (h : 2 ^ 11 ≤ ctl ∨ 8 < ctl / 64) : require (ctl / 2 ^ 11 == 0 && fmtOk (ctl / 64)) 0x60 ctl = raise 0x60 ctl :=
  require_false (by simp [fmtOk]; omega) _ _

end

section
variable {a m n : Nat}

/-- The operands of `mxmeta` (R321). -/
theorem metaChk_src (h : a % 64 ≠ 0 ∨ 0x200000 < a + n) : metaChk a m n = raise 0x60 a := chk_bind_stop (require_false (by simp; omega) _ _) _
theorem metaChk_srcOk (h : a % 64 = 0) (hlim : a + n ≤ 0x200000) : metaChk a m n = (do
    require (m % 64 == 0 && decide (m + n ≤ 0x10000)) 0x60 m
    require (n % 64 == 0) 0x60 n) := chk_bind_val (require_true (by simp [h, hlim]) _ _) _
theorem metaDst_bad (h : m % 64 ≠ 0 ∨ 0x10000 < m + n) : require (m % 64 == 0 && decide (m + n ≤ 0x10000)) 0x60 m = raise 0x60 m :=
  require_false (by simp; omega) _ _
theorem metaDst_ok (h : m % 64 = 0) (hlim : m + n ≤ 0x10000) : require (m % 64 == 0 && decide (m + n ≤ 0x10000)) 0x60 m = .ok () :=
  require_true (by simp [h, hlim]) _ _

end

/-- The control scalar of `mxrd` (R320). -/
theorem rdChk_ok {c : Nat} (h : c < 2 ^ 19) (h15 : c / 2 ^ 15 % 2 = 0) (hrows : c % 128 + c / 2 ^ 7 % 256 + 1 ≤ 128) : rdChk c = .ok () :=
  require_true (by simp [rdRow, rdCnt]; omega) _ _
theorem rdChk_bad {c : Nat} (h : 2 ^ 19 ≤ c ∨ c / 2 ^ 15 % 2 = 1 ∨ 128 < c % 128 + c / 2 ^ 7 % 256 + 1) : rdChk c = raise 0x60 c :=
  require_false (by simp [rdRow, rdCnt]; omega) _ _

end Sys2Proof.Machine
end

section
/-! `mxrd` to the own region (R320). -/
namespace Sys2Proof.Machine
open Sys2Proof

/-- The format that `mxrd` converts to, of its window's control word. -/
def rdFmt (ctl : Word) : Option Window := match windowOf ctl with | some (some (w, _)) => some w | _ => none

/-- The bytes of one element that `mxrd` writes. -/
def rdBytes (ctl : Word) : Nat := match rdFmt ctl with | some w => w.fmt.bytes | none => 4

/-- The draws of `mxrd` at issue, and the state after them. -/
def rdDraws (s : State) (ctl : Word) (n : Nat) : Nat × State := match rdFmt ctl with | some w => if w.rnd = .rs then s.draws n else (0, s) | none => (0, s)

theorem rdDraws_setGen (s : State) (ctl : Word) (n : Nat) : ∃ g, (rdDraws s ctl n).2 = s.setGen g := by
  unfold rdDraws
  split
  · split
    · exact ⟨_, rfl⟩
    · exact ⟨s.gen, rfl⟩
  · exact ⟨s.gen, rfl⟩

theorem rdIssue_eq (s : State) (h : BitVec 4) (a : Word) (t c : Nat) : rdIssue s h a t c = (do
    let s1 ← useHandle s h
    tileNo t
    rdChk c
    winCheck s1 (rdWin c)
    require (a.toNat / 2 ^ 56 == 0xFF) 0x60 a.toNat
    let g ← nearTgt s1 a.toNat ((rdCnt c + 1) * 128 * rdBytes (s1.win (rdWin c)))
    require (rdTarget s1 g) 0x60 a.toNat
    require (!thSpec s1.thr || rdOwn g) 0x26 a.toNat
    stackGuard s1 g ((rdCnt c + 1) * 128 * rdBytes (s1.win (rdWin c)))
    let d := rdDraws s1 (s1.win (rdWin c)) ((rdCnt c + 1) * 128)
    queueJob d.2 h (.rd (tgtKey d.2 g) t (rdRow c) (rdCnt c) (s1.win (rdWin c)) (rdFmt (s1.win (rdWin c))).isNone [d.1])) := rfl

section
variable {s : State} {h : BitVec 4} {a : Word} {t c q : Nat}

theorem rdIssue_tile (hf : s.getH h = .free) (ht : 15 < t) : rdIssue s h a t c = raise 0x60 t := by
  rw [rdIssue_eq, chk_bind_val (useHandle_free hf)]
  exact chk_bind_stop (tileNo_bad ht) _

theorem rdIssue_control (hf : s.getH h = .free) (ht : t ≤ 15) (hc : rdChk c = raise 0x60 c) : rdIssue s h a t c = raise 0x60 c := by
  rw [rdIssue_eq, chk_bind_val (useHandle_free hf), chk_bind_val (tileNo_ok ht)]
  exact chk_bind_stop hc _

/-- `mxrd` to the own region at depth 0: one job, with the draws of its window. -/
theorem queuesJob_rdOwn (hf : s.getH h = .free) (ht : t ≤ 15) (hc : rdChk c = .ok ()) (hwin : winCheck s (rdWin c) = .ok ()) (hdepth : s.thr.q.depth = 0)
    (ha : a.toNat = 0xFF00000000000000 + q) (hq : q < 0x40000) (hlim : q + (rdCnt c + 1) * 128 * rdBytes (s.win (rdWin c)) ≤ s.limit) :
    QueuesJob (finish s (rdIssue s h a t c)) s h (.rd (ownKey s q) t (rdRow c) (rdCnt c) (s.win (rdWin c)) (rdFmt (s.win (rdWin c))).isNone
      [(rdDraws s (s.win (rdWin c)) ((rdCnt c + 1) * 128)).1]) := by
  have hkind : (a.toNat / 2 ^ 56 == 0xFF) = true := beq_iff_eq.2 (by omega)
  have htarget : rdTarget s (.ls (thCore s.cur) (s.base + q) 0 true) = true := by
    have hclu : thCore s.cur / 8 = thClu s.cur := by simp only [thCore, thClu]; omega
    simp [rdTarget, hclu]
  rw [rdIssue_eq, chk_bind_val (useHandle_free hf), chk_bind_val (tileNo_ok ht), chk_bind_val hc, chk_bind_val hwin, chk_bind_val (require_true hkind _ _),
    chk_bind_val (nearTgt_place ha hq hlim), chk_bind_val (require_true htarget _ _), chk_bind_val (require_true (by simp [rdOwn]) _ _),
    chk_bind_val (stackGuard_depth hdepth _ _)]
  dsimp only
  obtain ⟨g, hg⟩ := rdDraws_setGen s (s.win (rdWin c)) ((rdCnt c + 1) * 128)
  rw [hg]
  exact queuesJob_setGen s g h _

end

end Sys2Proof.Machine
end

section
/-! Matrix instructions at issue (R313, R315 to R321). -/
namespace Sys2Proof.Machine
open Sys2Proof

/-- A pending handle holds the thread before any operand is looked at (R225). -/
theorem useHandle_pending {s : State} {h : BitVec 4} {op : Nat} (hp : s.getH h = .pending op) : useHandle s h = .error (.wait (.handle h)) := by
  unfold useHandle
  rw [hp]

section
variable {s : State} {h : BitVec 4}

theorem execMxld_free (hf : s.getH h = .free) (a : BitVec 5) (off : Option (BitVec 32)) : exec (.mxld h a off) s = finish s (do
    ldChk (s.getS a + lrOff off).toNat
    queueJob s h (.ld (s.getS a + lrOff off).toNat)) := by
  rw [← offLR_eq]
  exact congrArg (finish s) (chk_bind_val (useHandle_free hf) _)
theorem execMxmm_free (hf : s.getH h = .free) (a b f : BitVec 5) (off : Option (BitVec 32)) : exec (.mxmm h a b f off) s = finish s (do
    aTile (s.getS a + lrOff off).toNat 0x8000
    tileNo (s.getS b).toNat
    queueJob s h (.mm (s.getS a + lrOff off).toNat (s.getS b).toNat f.toNat)) := by
  rw [← offLR_eq]
  exact congrArg (finish s) (chk_bind_val (useHandle_free hf) _)
theorem execMxsp_free (hf : s.getH h = .free) (a b c : BitVec 5) (off : Option (BitVec 32)) : exec (.mxsp h a b c off) s = finish s (do
    aTile (s.getS a + lrOff off).toNat 0x10000
    tileNo (s.getS b).toNat
    spChk (s.getS c).toNat
    queueJob s h (.sp (s.getS a + lrOff off).toNat (s.getS b).toNat ((s.getS c).toNat / 2 ^ 16) ((s.getS c).toNat % 2 ^ 16))) := by
  rw [← offLR_eq]
  exact congrArg (finish s) (chk_bind_val (useHandle_free hf) _)
theorem execMxgrp_free (hf : s.getH h = .free) (a b c : BitVec 5) (off : Option (BitVec 32)) : exec (.mxgrp h a b c off) s = finish s (do
    aTile (s.getS a + lrOff off).toNat 0x8000
    tileNo (s.getS b).toNat
    grpChk (s.getS c).toNat (s.getS (c + 1)).toNat (s.getS (c + 2)).toNat
    queueJob s h (.grp (s.getS a + lrOff off).toNat (s.getS b).toNat ((s.getS (c + 2)).toNat / 64) (s.getS c).toNat (s.getS (c + 1)).toNat
      ((s.getS (c + 2)).toNat % 64 + 1))) := by
  rw [← offLR_eq]
  exact congrArg (finish s) (chk_bind_val (useHandle_free hf) _)
theorem execMxclr_free (hf : s.getH h = .free) (b : BitVec 5) (lone : Bool) : exec (.mxclr h b lone) s = finish s (do
    tileNo (s.getS b).toNat
    queueJob s h (.clr (s.getS b).toNat)) := congrArg (finish s) (chk_bind_val (useHandle_free hf) _)
theorem execMxmeta_free (hf : s.getH h = .free) (a b c : BitVec 5) (lone : Bool) : exec (.mxmeta h a b c lone) s = finish s (do
    metaChk (s.getS a).toNat (s.getS b).toNat (s.getS c).toNat
    queueJob s h (.metaCopy (s.getS a).toNat (s.getS b).toNat (s.getS c).toNat)) := congrArg (finish s) (chk_bind_val (useHandle_free hf) _)

end

/-- Settles O49: the operands pass their checks in order, and the job enters the queue or the thread waits; the first operand out of range is the
detail of 0x60. -/
theorem matrixJobsAtIssue : Obligations.MatrixJobsAtIssue := by
  unfold Obligations.MatrixJobsAtIssue
  refine ⟨fun s h a b c f off lone i op hi hp => ?_, fun s h a b c f off lone hf => ?_⟩
  · simp only [List.mem_cons, List.not_mem_nil, or_false] at hi
    rcases hi with rfl | rfl | rfl | rfl | rfl | rfl | rfl | rfl <;> exact congrArg (finish s) (chk_bind_stop (useHandle_pending hp) _)
  intro o A T v v1 v2 K G
  rw [execMxld_free hf, execMxmm_free hf, execMxsp_free hf, execMxgrp_free hf, execMxclr_free hf, execMxmeta_free hf]
  refine ⟨fun hal hlim => ?_, fun hbad => ?_, fun hal hlim ht => ?_, fun hbad => ?_, fun hal hlim ht => ?_,
    fun hal hlim ht hv hfmt hmeta hend => ?_, fun hbad => ?_, fun hal hlim ht => ?_, fun hal hlim ht hword => ?_, fun hal hlim ht hv hfmt hmeta => ?_,
    fun hal hlim ht hvl hv hvend hwal hw hc hfmt hend => ?_, fun hbad => ?_, fun hal hlim ht => ?_, fun hal hlim ht => ⟨fun htab => ?_, fun hv hvl hvend =>
      ⟨fun hwb => ?_, fun hw hwal => ⟨fun hctl => ?_, fun hc hfmt hend => ?_⟩⟩⟩, ?_, fun ht => ?_, fun ht => ?_, fun hal hlim hmal hmlim hn => ?_, fun hsrc => ?_,
    fun hal hlim => ⟨fun hdst => ?_, fun hmal hmlim hn => ?_⟩, fun ht => ?_, fun ht hc => ?_, fun ht hv h15 hrows hdepth q hA hq => ⟨fun hraw hend => ?_,
      fun x hwin hx hend => ?_, fun hwin hx hend => ?_⟩⟩
  -- `mxld`
  · exact queuesJob_of (chk_bind_val (ldChk_ok hal hlim) _)
  · exact finish_raises (chk_bind_stop (ldChk_bad hbad) _)
  -- `mxmm`
  · exact queuesJob_of (tiled_ok hal hlim ht _)
  · exact finish_raises (chk_bind_stop (aTile_bad hbad) _)
  · exact finish_raises ((chk_bind_val (aTile_ok hal hlim) _).trans (chk_bind_stop (tileNo_bad ht) _))
  -- `mxsp`
  · exact queuesJob_of ((tiled_ok hal hlim ht _).trans (chk_bind_val (spChk_ok hv hfmt hmeta hend) _))
  · exact finish_raises (chk_bind_stop (aTile_bad hbad) _)
  · exact finish_raises ((chk_bind_val (aTile_ok hal hlim) _).trans (chk_bind_stop (tileNo_bad ht) _))
  · exact finish_raises ((tiled_ok hal hlim ht _).trans (chk_bind_stop (spChk_word hword) _))
  · exact finish_raises ((tiled_ok hal hlim ht _).trans (chk_bind_stop (spChk_meta hv hfmt hmeta) _))
  -- `mxgrp`
  · have hwords : grpChk v v1 v2 = .ok () := by
      rw [grpChk_tabOk hv hvl hvend, chk_bind_val (wbWord_ok hw hwal), chk_bind_val (grpCtl_ok hc hfmt)]
      exact require_true (decide_eq_true hend) _ _
    exact queuesJob_of ((tiled_ok hal hlim ht _).trans (chk_bind_val hwords _))
  · exact finish_raises (chk_bind_stop (aTile_bad hbad) _)
  · exact finish_raises ((chk_bind_val (aTile_ok hal hlim) _).trans (chk_bind_stop (tileNo_bad ht) _))
  · exact finish_raises ((tiled_ok hal hlim ht _).trans (chk_bind_stop (grpChk_tab htab) _))
  · refine finish_raises ((tiled_ok hal hlim ht _).trans (chk_bind_stop (e := .cond (mkCond 0x60 v1) none) ?_ _))
    rw [grpChk_tabOk hv hvl hvend]
    exact chk_bind_stop (wbWord_bad hwb) _
  · refine finish_raises ((tiled_ok hal hlim ht _).trans (chk_bind_stop (e := .cond (mkCond 0x60 v2) none) ?_ _))
    rw [grpChk_tabOk hv hvl hvend, chk_bind_val (wbWord_ok hw hwal)]
    exact chk_bind_stop (grpCtl_bad hctl) _
  · refine finish_raises ((tiled_ok hal hlim ht _).trans (chk_bind_stop (e := .cond (mkCond 0x60 v1) none) ?_ _))
    rw [grpChk_tabOk hv hvl hvend, chk_bind_val (wbWord_ok hw hwal), chk_bind_val (grpCtl_ok hc hfmt)]
    exact require_false (decide_eq_false (by omega)) _ _
  -- `mxrot`
  · exact queuesJob_of (chk_bind_val (useHandle_free hf) _)
  -- `mxclr`
  · exact queuesJob_of (chk_bind_val (tileNo_ok ht) _)
  · exact finish_raises (chk_bind_stop (tileNo_bad ht) _)
  -- `mxmeta`
  · have hwords : metaChk A T v = .ok () := by
      rw [metaChk_srcOk hal hlim, chk_bind_val (metaDst_ok hmal hmlim)]
      exact require_true (beq_iff_eq.2 hn) _ _
    exact queuesJob_of (chk_bind_val hwords _)
  · exact finish_raises (chk_bind_stop (metaChk_src hsrc) _)
  · refine finish_raises (chk_bind_stop (e := .cond (mkCond 0x60 T) none) ?_ _)
    rw [metaChk_srcOk hal hlim]
    exact chk_bind_stop (metaDst_bad hdst) _
  · refine finish_raises (chk_bind_stop (e := .cond (mkCond 0x60 v) none) ?_ _)
    rw [metaChk_srcOk hal hlim, chk_bind_val (metaDst_ok hmal hmlim)]
    exact require_false (beq_eq_false_iff_ne.2 hn) _ _
  -- `mxrd`
  · exact finish_raises (rdIssue_tile hf ht)
  · exact finish_raises (rdIssue_control hf ht (rdChk_bad hc))
  · have hctl : s.win (rdWin v) = 0 := by rw [rdWin, hraw]; rfl
    have hcheck : winCheck s (rdWin v) = .ok () := by rw [rdWin, hraw]; rfl
    have hjob := queuesJob_rdOwn (a := s.getS a) hf ht (rdChk_ok hv h15 hrows) hcheck hdepth hA hq (by rw [hctl]; exact hend)
    rw [hctl] at hjob
    exact hjob
  · have hfmt : rdFmt (s.win (rdWin v)) = some x := by rw [rdFmt, rdWin, hx]
    have hcheck : winCheck s (rdWin v) = .ok () := by
      rw [rdWin, winCheck, if_neg hwin, hx]
      rfl
    have hjob := queuesJob_rdOwn (a := s.getS a) hf ht (rdChk_ok hv h15 hrows) hcheck hdepth hA hq (by rw [rdBytes, hfmt]; exact hend)
    have hdraws : (rdDraws s (s.win (rdWin v)) ((rdCnt v + 1) * 128)).1 = if x.rnd = .rs then (s.draws ((rdCnt v + 1) * 128)).1 else 0 := by
      rw [rdDraws, hfmt]
      exact apply_ite Prod.fst _ _ _
    rw [hfmt, hdraws] at hjob
    exact hjob
  · have hfmt : rdFmt (s.win (rdWin v)) = none := by rw [rdFmt, rdWin, hx]
    have hcheck : winCheck s (rdWin v) = .ok () := by rw [rdWin, winCheck, if_neg hwin, hx]
    have hjob := queuesJob_rdOwn (a := s.getS a) hf ht (rdChk_ok hv h15 hrows) hcheck hdepth hA hq (by rw [rdBytes, hfmt]; exact hend)
    have hdraws : (rdDraws s (s.win (rdWin v)) ((rdCnt v + 1) * 128)).1 = 0 := by rw [rdDraws, hfmt]
    rw [hfmt, hdraws] at hjob
    exact hjob

end Sys2Proof.Machine
end

section
/-! The front end's queues and their configuration (R352, R353, R355). -/
namespace Sys2Proof.Machine
open Sys2Proof

@[simp] theorem State.queue_setQueue_self (s : State) (q : Nat) (x : QueueSt) : (s.setQueue q x).queue q = x := tabGet_tabSet_self ..

/-- What is due and what clusters await do not touch the queues or the registers. -/
theorem Schedules.queue {s t : State} (h : Schedules s t) (q : Nat) : t.queue q = s.queue q := by obtain ⟨a, c, rfl⟩ := h; rfl
theorem Schedules.reg0 {s t : State} (h : Schedules s t) (o : Nat) : t.reg0 o = s.reg0 o := by obtain ⟨a, c, rfl⟩ := h; rfl
theorem Schedules.mem {s t : State} (h : Schedules s t) : t.mem = s.mem := by obtain ⟨a, c, rfl⟩ := h; rfl

theorem fld_zero (x : Word) (h : Nat) : fld x h 0 = x.toNat % 2 ^ (h + 1) := by rw [fld, Nat.pow_zero, Nat.div_one, Nat.sub_zero]

theorem kickAdmit_schedules (s : State) (q : Nat) : Schedules s (kickAdmit s q) := .after ..

/-- A bit of a number whose bit 16 is exchanged for `b`. -/
theorem testBit_setBit16 (x b i : Nat) (hb : b < 2) :
    (x - x / 2 ^ 16 % 2 * 2 ^ 16 + b * 2 ^ 16).testBit i = if i = 16 then decide (b = 1) else x.testBit i := by
  have hx : x = 2 ^ 16 * (x / 2 ^ 16) + x % 2 ^ 16 := (Nat.div_add_mod ..).symm
  have hy : x - x / 2 ^ 16 % 2 * 2 ^ 16 + b * 2 ^ 16 = 2 ^ 16 * (2 * (x / 2 ^ 16 / 2) + b) + x % 2 ^ 16 := by omega
  have hlow : x % 2 ^ 16 < 2 ^ 16 := Nat.mod_lt _ (by decide)
  conv_rhs => rw [hx]
  rw [hy, Nat.testBit_two_pow_mul_add _ hlow, Nat.testBit_two_pow_mul_add _ hlow]
  obtain hi | rfl | ⟨k, rfl⟩ : i < 16 ∨ i = 16 ∨ ∃ k, i = 16 + (k + 1) := by
    by_cases h : 16 < i
    · exact .inr (.inr ⟨i - 17, by omega⟩)
    · omega
  · rw [if_pos hi, if_pos hi, if_neg (by omega)]
  · rw [if_neg (by decide), if_pos rfl, Nat.sub_self, Nat.testBit_zero]
    exact decide_eq_decide.2 (by omega)
  · have hhalf : (2 * (x / 2 ^ 16 / 2) + b) / 2 = x / 2 ^ 16 / 2 := by omega
    rw [if_neg (by omega), if_neg (by omega), if_neg (by omega), Nat.add_sub_cancel_left, Nat.testBit_add_one, Nat.testBit_add_one, hhalf]

/-- Bit 16 of a word is replaced by that of another. -/
theorem putFld_bit16 (x v : Word) (i : Nat) (hi : i < 64) :
    (putFld x 16 16 (fld v 16 16)).getLsbD i = if i = 16 then v.getLsbD 16 else x.getLsbD i := by
  have hv : fld v 16 16 % 2 < 2 := Nat.mod_lt _ (by decide)
  have hbit : decide (fld v 16 16 % 2 = 1) = v.getLsbD 16 := by
    rw [← BitVec.testBit_toNat, Nat.testBit_eq_decide_div_mod_eq]
    exact decide_eq_decide.2 (by unfold fld; omega)
  have hput : putFld x 16 16 (fld v 16 16) = BitVec.ofNat 64 (x.toNat - x.toNat / 2 ^ 16 % 2 * 2 ^ 16 + fld v 16 16 % 2 * 2 ^ 16) := rfl
  rw [hput, BitVec.getLsbD_ofNat, decide_eq_true hi, Bool.true_and, testBit_setBit16 _ _ _ hv, hbit, BitVec.testBit_toNat]

theorem cfgWrite_off {old : Word} (h : old.getLsbD 16 = false) (v : Word) (mask : Nat) : cfgWrite old v mask = v &&& BitVec.ofNat 64 mask := by
  have hclear : ¬ cfgOn old = true := by rw [cfgOn, h]; decide
  refine (if_neg hclear).trans (BitVec.eq_of_getLsbD_eq fun i hi => ?_)
  rw [BitVec.getLsbD_and, BitVec.getLsbD_ofNat, BitVec.getLsbD_ofNat, Nat.testBit_and, BitVec.testBit_toNat, decide_eq_true hi, Bool.true_and, Bool.true_and]
theorem cfgWrite_on {old : Word} (h : old.getLsbD 16 = true) (v : Word) (mask : Nat) :
    (cfgWrite old v mask).getLsbD 16 = v.getLsbD 16 ∧ ∀ i, i < 64 → i ≠ 16 → (cfgWrite old v mask).getLsbD i = old.getLsbD i := by
  have hput : cfgWrite old v mask = putFld old 16 16 (fld v 16 16) := if_pos h
  rw [hput]
  exact ⟨(putFld_bit16 old v 16 (by decide)).trans (if_pos rfl), fun i hi hne => (putFld_bit16 old v i hi).trans (if_neg hne)⟩

theorem sqDbWrite_within {s : State} {q : Nat} {tail : BitVec 16}
    (h : ((s.queue q).sqTail + ringOf (sqCfg s q) - (s.queue q).sqHead % ringOf (sqCfg s q)) % ringOf (sqCfg s q) ≤
      (tail.toNat % ringOf (sqCfg s q) + ringOf (sqCfg s q) - (s.queue q).sqHead % ringOf (sqCfg s q)) % ringOf (sqCfg s q)) :
    exec (.sqDbWrite q tail) s = .next (kickAdmit (s.setQueue q { s.queue q with sqTail := tail.toNat % ringOf (sqCfg s q) }) q) := by
  rw [exec_sqDbWrite]
  exact if_neg (Nat.not_lt.2 h)
theorem sqDbWrite_passing {s : State} {q : Nat} {tail : BitVec 16}
    (h : (tail.toNat % ringOf (sqCfg s q) + ringOf (sqCfg s q) - (s.queue q).sqHead % ringOf (sqCfg s q)) % ringOf (sqCfg s q) <
      ((s.queue q).sqTail + ringOf (sqCfg s q) - (s.queue q).sqHead % ringOf (sqCfg s q)) % ringOf (sqCfg s q)) :
    exec (.sqDbWrite q tail) s = .next (s.mailTo 8 (0x75 + fld (sqCfg s q) 5 0 * 2 ^ 32 + (q % 256 + tail.toNat * 2 ^ 16) * 2 ^ 128)) := by
  rw [exec_sqDbWrite]
  exact if_pos h

theorem sqCfg_sqCfgWrite (s : State) (q : Nat) (v : Word) : Answers (.sqCfgWrite q v) s (fun t => sqCfg t q = cfgWrite (sqCfg s q) v 0x1F73F) :=
  ⟨_, rfl, State.reg0_setReg0_self ..⟩
theorem cqCfg_cqCfgWrite (s : State) (q : Nat) (v : Word) : Answers (.cqCfgWrite q v) s (fun t => cqCfg t q = cfgWrite (cqCfg s q) v 0x1F000) :=
  ⟨_, rfl, State.reg0_setReg0_self ..⟩

end Sys2Proof.Machine
end

section
/-! Admission and dispatch (R48, R357-R363). -/
namespace Sys2Proof.Machine
open Sys2Proof

theorem startMonitors_schedules (s : State) : Schedules s (startMonitors s) := by
  refine .foldl (fun t d => ?_) _ s
  split
  · exact .refl t
  · exact .after ..
theorem floorStart_schedules (s : State) (l : Launch) : Schedules s (floorStart s l) := by
  unfold floorStart
  split
  · exact .refl s
  · exact .after ..

/-- The key found is one of 65,536. -/
theorem firstKey_lt (used : List Nat) (n : Nat) {k : Nat} (h : k < 65536) : firstKey used n k < 65536 := by
  induction n generalizing k with
  | zero => exact h
  | succ n ih =>
    unfold firstKey
    split
    · exact ih (Nat.mod_lt _ (by decide))
    · exact h

/-- The launch that an admission enters: with its key, its floor's watts and its first phase. -/
def residentOf (s : State) (l : Launch) : Launch :=
  { l with key := (newKey s).1, watts := floorWatts (newKey s).2 l, phase := if l.isMirror then .running else if l.isGang then .placing else .admitted }

theorem newKey_lt (s : State) : (newKey s).1 < 65536 := firstKey_lt _ _ (Nat.mod_lt _ (by decide))

/-- The launch stands last, its watts are held, and its ADMIT entry waits (R360, R361). -/
def withResident (s : State) (l : Launch) : State :=
  let y := residentOf s l
  let s2 := (newKey s).2.modSch (fun c => { c with launches := c.launches ++ [y] })
  postEntry (s2.setReg0 0x10 (BitVec.ofNat 64 (fld (s2.reg0 0x10) 15 0 + y.watts))) y.queue (entry y 0 0 (y.num * 65536 + y.key) 0 0)

theorem enterLaunch_eq (s : State) (l : Launch) : enterLaunch s l =
    if l.isMirror then startMonitors (floorStart (withResident s l) (residentOf s l))
    else if l.isGang then ((floorStart (withResident s l) (residentOf s l)).after Config.grantTime (.gangPlace l.num)).after agingTime (.gangReserve l.num)
    else (floorStart (withResident s l) (residentOf s l)).after Config.grantTime (.launchDispatch l.num) := rfl
theorem enterLaunch_schedules (s : State) (l : Launch) : Schedules (withResident s l) (enterLaunch s l) := by
  have hfloor := floorStart_schedules (withResident s l) (residentOf s l)
  rw [enterLaunch_eq]
  generalize floorStart (withResident s l) (residentOf s l) = t at hfloor
  split
  · exact hfloor.trans (startMonitors_schedules t)
  · split
    · exact (hfloor.trans (.after ..)).trans (.after ..)
    · exact hfloor.trans (.after ..)
theorem withResident_launches (s : State) (l : Launch) : (withResident s l).sch.launches = s.sch.launches ++ [residentOf s l] := rfl
theorem withResident_queue (s : State) (l : Launch) : (withResident s l).queue l.queue =
    { s.queue l.queue with waiting := (s.queue l.queue).waiting ++ [entry (residentOf s l) 0 0 ((residentOf s l).num * 65536 + (residentOf s l).key) 0 0] } :=
  State.queue_setQueue_self ..

theorem postEntry_posts (s : State) (q : Nat) (e : CqEntry) :
    (postEntry s q e).sch.launches = s.sch.launches ∧ (postEntry s q e).queue q = { s.queue q with waiting := (s.queue q).waiting ++ [e] } :=
  ⟨rfl, State.queue_setQueue_self ..⟩

/-- A launch record that is taken is refused or residentOf. -/
theorem admitLaunch_takes {s : State} {n : Nat} (q : Nat) (hruns : feRuns s = true) (hn : nextQueue s = some n) {head : Nat} {l : Launch} {taken : State}
    (hhead : head = ((s.queue n).sqHead + 1) % ringOf (sqCfg s n)) (hl : l = newLaunch s n (headAddr s n) head (s.mem.get (spaceKey 1 (headAddr s n)) 128))
    (ht : taken = s.setQueue n { s.queue n with sqHead := head }) (hgo : recordBad taken l = true ∨ tablesWait taken l = false) :
    exec (.admitLaunch q) s = .next (kickAdmit (if admitStatus taken l = 0 then enterLaunch taken l else postEntry taken n (entry l 2 (admitStatus taken l) 0 0 0)) q) := by
  subst hhead hl ht
  rw [exec_admitLaunch]
  unfold execAdmitLaunch
  rw [hruns, hn]
  refine (if_neg (by decide)).trans (if_neg ?_)
  obtain hbad | hno := hgo
  · simp [hbad]
  · simp [hno]

/-- What the front end answers of a launch whose record it takes (R359, R361). -/
theorem admitLaunch_answers {s : State} {n : Nat} (q : Nat) (hruns : feRuns s = true) (hn : nextQueue s = some n) {head : Nat} {l : Launch} {taken : State}
    (hhead : head = ((s.queue n).sqHead + 1) % ringOf (sqCfg s n)) (hl : l = newLaunch s n (headAddr s n) head (s.mem.get (spaceKey 1 (headAddr s n)) 128))
    (ht : taken = s.setQueue n { s.queue n with sqHead := head }) (hgo : recordBad taken l = true ∨ tablesWait taken l = false) :
    (admitStatus taken l ≠ 0 → Answers (.admitLaunch q) s (fun t => t.sch.launches = s.sch.launches ∧ (t.queue n).sqHead = head ∧
      (t.queue n).waiting = (s.queue n).waiting ++ [entry l 2 (admitStatus taken l) 0 0 0])) ∧
    (admitStatus taken l = 0 → Answers (.admitLaunch q) s (fun t => ∃ y, t.sch.launches = s.sch.launches ++ [y] ∧ y.num = l.num ∧ y.l = l.l ∧ y.key < 65536 ∧
      (t.queue n).sqHead = head ∧ (t.queue n).waiting = (s.queue n).waiting ++ [entry y 0 0 (y.num * 65536 + y.key) 0 0])) := by
  have hrun := admitLaunch_takes q hruns hn hhead hl ht hgo
  have hqueue : taken.queue n = { s.queue n with sqHead := head } := by rw [ht, State.queue_setQueue_self]
  have hlaunches : taken.sch.launches = s.sch.launches := by rw [ht]; rfl
  have hln : l.queue = n := by rw [hl]; rfl
  refine ⟨fun hst => ?_, fun hst => ?_⟩
  · rw [if_neg hst] at hrun
    refine ⟨_, hrun, ?_⟩
    obtain ⟨hsame, hposted⟩ := postEntry_posts taken n (entry l 2 (admitStatus taken l) 0 0 0)
    have hkick := kickAdmit_schedules (postEntry taken n (entry l 2 (admitStatus taken l) 0 0 0)) q
    rw [hkick.sch, hkick.queue, hposted, hqueue]
    exact ⟨hsame.trans hlaunches, rfl, rfl⟩
  · rw [if_pos hst] at hrun
    refine ⟨_, hrun, residentOf taken l, ?_⟩
    have hkick := (enterLaunch_schedules taken l).trans (kickAdmit_schedules (enterLaunch taken l) q)
    have hposted := withResident_queue taken l
    rw [hln, hqueue] at hposted
    rw [hkick.sch, hkick.queue, hposted, withResident_launches, hlaunches]
    exact ⟨rfl, rfl, rfl, newKey_lt taken, rfl, rfl⟩

/-- A launch whose count has been read as `n`: its indices are split among the dies. -/
def dispatched (s : State) (l : Launch) (n : Nat) (x : Launch) : Launch :=
  { x with phase := .running, limit := min n (fld l.l[3] 31 0), disc := n - fld l.l[3] 31 0, ranges := rangesOf s l.part (min n (fld l.l[3] 31 0)) 0 }

/-- The launch of a dispatch runs, with the lesser of its count and MAX, split among the dies (R48, R363). -/
theorem launchDispatch_splits {s s1 : State} {num n : Nat} {l : Launch} (hl : s.findLaunch num = some l) (hphase : l.phase = .admitted) (hopen : admitWaits s l = false)
    (hread : vmRead s 0 l.part l.l[2].toNat 4 = .ok (n, s1)) : Answers (.launchDispatch num) s (fun t => t.findLaunch num = some (dispatched s1 l n l)) := by
  have hfound := findLaunch_modLaunch_any (s := s1) (n := num) (f := dispatched s1 l n) (fun _ => rfl) num
  rw [findLaunch_of_launches (congrArg Sched.launches (vmRead_cachesOnly hread).sch), hl, Option.map_some, if_pos (findLaunch_num hl)] at hfound
  have hrun : exec (.launchDispatch num) s = .next (startMonitors ((allGrants (s1.modLaunch num (dispatched s1 l n))).after Config.grantTime (.launchDone num))) := by
    rw [exec_launchDispatch]
    unfold execLaunchDispatch
    simp only [hl, hphase, hopen, hread]
    rfl
  have hlast := ((allGrants_schedules (s1.modLaunch num (dispatched s1 l n))).trans (.after _ Config.grantTime (.launchDone num))).trans (startMonitors_schedules _)
  exact ⟨_, hrun, (hlast.findLaunch num).trans hfound⟩

end Sys2Proof.Machine
end

section
/-! Completion entries and their interrupts (R355, R356). -/
namespace Sys2Proof.Machine
open Sys2Proof

theorem signal_queue (s : State) (q : Nat) : (signal s q).queue q = { s.queue q with unsig := 0 } := State.queue_setQueue_self ..
theorem signal_irqs (s : State) (q : Nat) : (signal s q).sch.irqs = s.sch.irqs ++ [fld (s.reg0 (sqOff q + 0x30)) 34 24] := rfl

/-- The time that a queue's entries wait for others (R356). -/
def coalTime (s : State) (q : Nat) : Nat := fld (s.reg0 (sqOff q + 0x30)) 23 8 * microsecond

/-- The entries of a queue are due to be signalled: enough of them, or the oldest long enough. -/
def signalDue (s : State) (q : Nat) : Prop :=
  max 1 (fld (s.reg0 (sqOff q + 0x30)) 7 0) ≤ (s.queue q).unsig ∨ coalTime s q ≠ 0 ∧ (s.queue q).oldest + coalTime s q ≤ s.clock

theorem coalesce_due {s : State} {q : Nat} (hunsig : (s.queue q).unsig ≠ 0) (h : signalDue s q) : coalesce s q = signal s q := by
  unfold coalesce
  refine (if_neg hunsig).trans ?_
  obtain hmany | ⟨htimer, hold⟩ := h
  · exact if_pos hmany
  · split
    · rfl
    · exact (if_neg htimer).trans (if_pos hold)
theorem coalesce_early {s : State} {q : Nat} (h : ¬ signalDue s q) : Schedules s (coalesce s q) := by
  unfold coalesce
  dsimp only
  split
  · exact .refl s
  · split
    · next hmany => exact absurd (.inl hmany) h
    · split
      · exact .refl s
      · next htimer =>
        split
        · next hold => exact absurd (.inr ⟨htimer, hold⟩) h
        · exact .after ..

/-- The entry stands in the host's ring, and the queue has counted it. -/
def written (s : State) (q : Nat) (e : CqEntry) (rest : List CqEntry) : State :=
  let x := s.queue q
  (s.modM (·.put (spaceKey 1 ((s.reg0 (sqOff q + 0x18)).toNat + 32 * x.cqTail)) 32
      (e.c0.toNat + e.c1.toNat * 2 ^ 64 + e.c2.toNat * 2 ^ 128 + (e.c3.toNat + (if x.phase then 2 ^ 63 else 0)) * 2 ^ 192))).setQueue q { x with
    waiting := rest, unread := x.unread + 1, cqTail := (x.cqTail + 1) % ringOf (cqCfg s q)
    phase := if (x.cqTail + 1) % ringOf (cqCfg s q) = 0 then !x.phase else x.phase
    unsig := x.unsig + 1, oldest := if x.unsig = 0 then s.clock else x.oldest }

theorem postCompletion_writes {s : State} {q : Nat} {e : CqEntry} {rest : List CqEntry} (hw : (s.queue q).waiting = e :: rest) (hroom : cqRoom s q = true)
    (hhost : s.hostAllowed ((s.reg0 (sqOff q + 0x18)).toNat + 32 * (s.queue q).cqTail) 32 = true) (hposts : fePosts s = true) :
    exec (.postCompletion q) s = .next ((coalesce (written s q e rest) q).after 0 (.postCompletion q)) := by
  rw [exec_postCompletion]
  unfold execPostCompletion
  simp only [hw, hroom, hhost, hposts]
  rfl

/-- Coalescing leaves what waits, what is unread and the place of the next entry. -/
theorem coalesce_queue (s : State) (q : Nat) : ∃ u, (coalesce s q).queue q = { s.queue q with unsig := u } := by
  by_cases hdue : signalDue s q
  · by_cases hunsig : (s.queue q).unsig = 0
    · exact ⟨_, congrArg (fun t => State.queue t q) (if_pos hunsig : coalesce s q = s)⟩
    · rw [coalesce_due hunsig hdue, signal_queue]
      exact ⟨0, rfl⟩
  · rw [(coalesce_early hdue).queue]
    exact ⟨_, rfl⟩

section
variable (s : State) (q : Nat) (e : CqEntry) (rest : List CqEntry)
theorem written_queue : (written s q e rest).queue q = { s.queue q with
    waiting := rest, unread := (s.queue q).unread + 1, cqTail := ((s.queue q).cqTail + 1) % ringOf (cqCfg s q)
    phase := if ((s.queue q).cqTail + 1) % ringOf (cqCfg s q) = 0 then !(s.queue q).phase else (s.queue q).phase
    unsig := (s.queue q).unsig + 1, oldest := if (s.queue q).unsig = 0 then s.clock else (s.queue q).oldest } := State.queue_setQueue_self ..

/-- An entry that is written is due to be signalled when it is one of enough, or when an older one has waited its time. -/
theorem signalDue_written : signalDue (written s q e rest) q ↔ max 1 ((s.reg0 (sqOff q + 0x30)).toNat % 256) ≤ (s.queue q).unsig + 1 ∨
    coalTime s q ≠ 0 ∧ (s.queue q).unsig ≠ 0 ∧ (s.queue q).oldest + coalTime s q ≤ s.clock := by
  have htime : coalTime (written s q e rest) q = coalTime s q := rfl
  have hclock : (written s q e rest).clock = s.clock := rfl
  have hreg : (written s q e rest).reg0 (sqOff q + 0x30) = s.reg0 (sqOff q + 0x30) := rfl
  unfold signalDue
  rw [written_queue, htime, hclock, hreg, fld_zero]
  refine or_congr Iff.rfl (and_congr_right fun ht => ?_)
  dsimp only
  split
  · next h0 => exact ⟨fun h => by omega, fun h => absurd h0 h.1⟩
  · next h0 => exact ⟨fun h => ⟨h0, h⟩, fun h => h.2⟩
end

/-- An entry is written to the host's ring, and signalled when enough are gathered or when their time is over (R355, R356). -/
theorem postCompletion_answers {s : State} {q : Nat} {e : CqEntry} {rest : List CqEntry} (hw : (s.queue q).waiting = e :: rest) (hroom : cqRoom s q = true)
    (hhost : s.hostAllowed ((s.reg0 (sqOff q + 0x18)).toNat + 32 * (s.queue q).cqTail) 32 = true) (hposts : fePosts s = true) :
    Answers (.postCompletion q) s (fun t =>
      t.mem.get (spaceKey 1 ((s.reg0 (sqOff q + 0x18)).toNat + 32 * (s.queue q).cqTail)) 32 =
        (e.c0.toNat + e.c1.toNat * 2 ^ 64 + e.c2.toNat * 2 ^ 128 + (e.c3.toNat + (if (s.queue q).phase then 2 ^ 63 else 0)) * 2 ^ 192) % 2 ^ 256 ∧
      (t.queue q).waiting = rest ∧ (t.queue q).unread = (s.queue q).unread + 1 ∧ (t.queue q).cqTail = ((s.queue q).cqTail + 1) % ringOf (cqCfg s q) ∧
      (signalDue (written s q e rest) q → t.sch.irqs = s.sch.irqs ++ [fld (s.reg0 (sqOff q + 0x30)) 34 24]) ∧
      (¬ signalDue (written s q e rest) q → t.sch.irqs = s.sch.irqs)) := by
  refine ⟨_, postCompletion_writes hw hroom hhost hposts, ?_⟩
  obtain ⟨u, hu⟩ := coalesce_queue (written s q e rest) q
  rw [written_queue] at hu
  have hlast := Schedules.after (coalesce (written s q e rest) q) 0 (.postCompletion q)
  rw [hlast.mem, coalesce_mem, hlast.queue, hu, hlast.sch]
  refine ⟨Mem.get_put .., rfl, rfl, rfl, fun hdue => ?_, fun hearly => ?_⟩
  · have hunsig : ((written s q e rest).queue q).unsig ≠ 0 := by rw [written_queue]; exact Nat.succ_ne_zero _
    rw [coalesce_due hunsig hdue]
    rfl
  · rw [(coalesce_early hearly).sch]
    rfl

/-- The time of the oldest entry is over: the interrupt (R356). -/
theorem cqCoalTimer_signals {s : State} {q : Nat} (hunsig : (s.queue q).unsig ≠ 0) (htime : coalTime s q ≠ 0) (hold : (s.queue q).oldest + coalTime s q ≤ s.clock) :
    exec (.cqCoalTimer q) s = .next (signal s q) := by
  rw [exec_cqCoalTimer]
  exact congrArg _ (if_pos ⟨hunsig, htime, hold⟩)

end Sys2Proof.Machine
end

section
/-! The end, the holding, the release and the cancel of a launch (R354, R369). -/
namespace Sys2Proof.Machine
open Sys2Proof

/-! The entry of a launch (R354). -/

theorem entry_kind (l : Launch) {kind : Nat} (status c1 c2 short : Nat) (h : kind < 16) :
    (entry l kind status c1 c2 short).c0.toNat / 16 % 16 = kind ∧ (entry l kind status c1 c2 short).c0.toNat / 2 ^ 32 = l.l[12].toNat / 2 ^ 32 := by
  have hword := l.l[12].isLt
  have hc0 : (entry l kind status c1 c2 short).c0.toNat =
      (l.l[12].toNat / 2 ^ 32 % 2 ^ 32 * 2 ^ 32 + l.sqhead % 65536 * 2 ^ 16 + l.queue % 256 * 2 ^ 8 + kind * 16) % 2 ^ 64 := BitVec.toNat_ofNat ..
  omega
theorem entry_status (l : Launch) (kind c1 c2 : Nat) {status short : Nat} (hst : status < 256) (h : short < 2 ^ 56) :
    (entry l kind status c1 c2 short).c3.toNat / 2 ^ 56 = status := by
  have hc3 : (entry l kind status c1 c2 short).c3.toNat = (status * 2 ^ 56 + short) % 2 ^ 64 := BitVec.toNat_ofNat ..
  omega

/-! BUSY of `FE_PREEMPT` (R369). -/

/-- A request on the launch is over. -/
def unbusy (s : State) (num : Nat) : State :=
  if s.sch.preemptBusy = some num then (s.modSch (fun x => { x with preemptBusy := none })).setReg0 0x20 0 else s

section
variable (s : State) (num : Nat)
theorem unbusy_queue (q : Nat) : (unbusy s num).queue q = s.queue q := by
  unfold unbusy
  split
  · rw [State.queue, State.setReg0_sch]
    rfl
  · rfl
theorem unbusy_findLaunch (n : Nat) : (unbusy s num).findLaunch n = s.findLaunch n := by
  refine findLaunch_of_launches ?_ n
  unfold unbusy
  split
  · rw [State.setReg0_sch]
    rfl
  · rfl
theorem unbusy_recs : (unbusy s num).sch.recs = s.sch.recs := by
  unfold unbusy
  split
  · rw [State.setReg0_sch]
    rfl
  · rfl
theorem unbusy_threads : (unbusy s num).cur = s.cur ∧ (unbusy s num).thr = s.thr ∧ (unbusy s num).rest = s.rest := by
  unfold unbusy
  split <;> exact ⟨rfl, rfl, rfl⟩

end

theorem launchHeld_false {s : State} {num : Nat} (h : ∀ k ∈ s.holders, thLaunch (s.getT k) ≠ num) : launchHeld s num = false :=
  List.any_eq_false.2 fun k hk => by simp [h k hk]
/-- Which threads hold a record of a launch depends on the threads alone. -/
theorem launchHeld_congr {s t : State} (hcur : t.cur = s.cur) (hthr : t.thr = s.thr) (hrest : t.rest = s.rest) (num : Nat) : launchHeld t num = launchHeld s num := by
  have hget : t.getT = s.getT := by funext k; rw [State.getT, State.getT, hcur, hthr, hrest]
  have hhold : t.holders = s.holders := by rw [State.holders, State.holders, hcur, hthr, hrest]
  rw [launchHeld, launchHeld, hget, hhold]

/-! The end (R354, R358). -/

/-- A launch of which no thread holds a record, and that was not to be held, settles as it is. -/
theorem settleLaunch_running {s : State} {num : Nat} {l : Launch} (hl : s.findLaunch num = some l) (hphase : l.phase = .running)
    (hheld : launchHeld s num = false) :
    (settleLaunch s num).findLaunch num = some l ∧ (settleLaunch s num).sch.recs = s.sch.recs ∧ launchHeld (settleLaunch s num) num = false ∧
      ∀ q, (settleLaunch s num).queue q = s.queue q := by
  have hsame := findLaunch_modLaunch_any (s := s) (n := num) (f := fun x => if x.phase = .holding then { x with phase := .held } else x) (fun x => by split <;> rfl) num
  rw [hl, Option.map_some, if_pos (findLaunch_num hl), if_neg (by rw [hphase]; decide)] at hsame
  have heq : settleLaunch s num = unbusy (s.modLaunch num (fun x => if x.phase = .holding then { x with phase := .held } else x)) num :=
    if_neg (by rw [hheld]; decide)
  obtain ⟨hcur, hthr, hrest⟩ := unbusy_threads (s.modLaunch num (fun x => if x.phase = .holding then { x with phase := .held } else x)) num
  rw [heq, unbusy_findLaunch, unbusy_recs, launchHeld_congr hcur hthr hrest]
  exact ⟨hsame, rfl, hheld, fun q => unbusy_queue _ num q⟩

/-- A task launch that runs, with all its tasks counted, can end (R354). -/
theorem endStatus_counted {s : State} {l : Launch} (hphase : l.phase = .running) (hmirror : l.isMirror = false) (hgang : l.isGang = false)
    (hheld : launchHeld s l.num = false) (hrecs : ∀ r ∈ s.sch.recs, r.w.launch ≠ l.num) (hcount : l.counts.1 + l.counts.2.1 + l.counts.2.2 = l.limit) :
    endStatus s l = some 0 := by
  have hnone : s.sch.recs.any (fun r => r.w.launch == l.num) = false := List.any_eq_false.2 fun r hr => by simp [hrecs r hr]
  unfold endStatus
  simp [hphase, hmirror, hgang, hheld, hnone, hcount]

/-- The entry of a task launch that ends (R354). -/
def doneEntry (l : Launch) (st : Nat) : CqEntry :=
  entry l 1 st (l.counts.2.1 * 2 ^ 32 + l.counts.1 % 2 ^ 26) (l.disc % 2 ^ 32 * 2 ^ 32 + l.counts.2.2) (min (2 ^ 32 - 1) (l.short / 2 ^ 20))

theorem noticeEnd_sch {l : Launch} (s : State) (hmirror : l.isMirror = false) : (noticeEnd s l).sch = s.sch := by
  have hfold (ds : List Nat) (s : State) : (ds.foldl (fun x d => x.owe d 1) s).sch = s.sch := by
    induction ds generalizing s with
    | nil => rfl
    | cons d ds ih => exact (ih (s.owe d 1)).trans (owe_sch s d 1)
  unfold noticeEnd
  rw [hmirror]
  exact hfold ..

/-- Once DONE waits, the launch is gone (R354, R358). -/
theorem finishLaunch_gone (s : State) {l : Launch} (st : Nat) (htasks : l.tasks = []) (hmirror : l.isMirror = false) (hgang : l.isGang = false) :
    (finishLaunch s l st).findLaunch l.num = none ∧
      ((finishLaunch s l st).queue l.queue).waiting = (s.queue l.queue).waiting ++ [doneEntry l st] := by
  have hall : finishAll l = l := by rw [finishAll, htasks]; rfl
  have heq : finishLaunch s l st = kickAdmit (allGrants (postEntry (unbusy (retryGangs (forget (noticeEnd
      (s.setReg0 0x10 (BitVec.ofNat 64 (fld (s.reg0 0x10) 15 0 - l.watts))) l) l.num)) l.num) l.queue (doneEntry l st))) l.queue := by
    unfold finishLaunch
    dsimp only
    rw [hall, hmirror, hgang]
    rfl
  have hnotice := noticeEnd_sch (s.setReg0 0x10 (BitVec.ofNat 64 (fld (s.reg0 0x10) 15 0 - l.watts))) hmirror
  rw [State.setReg0_sch] at hnotice
  rw [heq]
  generalize noticeEnd (s.setReg0 0x10 (BitVec.ofNat 64 (fld (s.reg0 0x10) 15 0 - l.watts))) l = t at hnotice
  have hgone : (forget t l.num).findLaunch l.num = none := List.find?_eq_none.2 fun x hx => by
    have hne := (List.mem_filter.1 hx).2
    simpa using hne
  have hqueue : (forget t l.num).queue l.queue = s.queue l.queue := by rw [State.queue, State.queue, ← hnotice]; rfl
  have hretry := retryGangs_schedules (forget t l.num)
  have hlast (x : State) := (allGrants_schedules x).trans (kickAdmit_schedules (allGrants x) l.queue)
  obtain ⟨hlaunches, hposted⟩ := postEntry_posts (unbusy (retryGangs (forget t l.num)) l.num) l.queue (doneEntry l st)
  rw [(hlast _).findLaunch, (hlast _).queue, findLaunch_of_launches hlaunches, hposted, unbusy_findLaunch, unbusy_queue, hretry.findLaunch, hretry.queue, hqueue]
  exact ⟨hgone, rfl⟩

/-- A task launch with all its tasks counted is removed, and posts DONE (R354). -/
theorem launchDone_counted {s : State} {num : Nat} {l : Launch} (hl : s.findLaunch num = some l) (hphase : l.phase = .running) (hmirror : l.isMirror = false)
    (hgang : l.isGang = false) (htasks : l.tasks = []) (hheld : ∀ k ∈ s.holders, thLaunch (s.getT k) ≠ num) (hrecs : ∀ r ∈ s.sch.recs, r.w.launch ≠ num)
    (hcount : l.counts.1 + l.counts.2.1 + l.counts.2.2 = l.limit) :
    Answers (.launchDone num) s (fun t => t.findLaunch num = none ∧ (t.queue l.queue).waiting = (s.queue l.queue).waiting ++ [doneEntry l 0]) := by
  have hnum := findLaunch_num hl
  obtain ⟨hfound, hsrecs, hsheld, hsqueue⟩ := settleLaunch_running hl hphase (launchHeld_false hheld)
  have hend : endStatus (settleLaunch s num) l = some 0 :=
    endStatus_counted hphase hmirror hgang (by rw [hnum]; exact hsheld) (by rw [hsrecs, hnum]; exact hrecs) hcount
  have hrun : exec (.launchDone num) s = .next (finishLaunch (settleLaunch s num) l 0) := by
    rw [exec_launchDone]
    unfold execLaunchDone
    simp only [hfound, hend]
  obtain ⟨hgone, hposted⟩ := finishLaunch_gone (settleLaunch s num) 0 htasks hmirror hgang
  rw [hnum] at hgone
  rw [hsqueue] at hposted
  exact ⟨_, hrun, hgone, hposted⟩

/-! A cancel (R369). -/

/-- A launch without records or threads ends by what its queue still waits for alone. -/
theorem endLaunch_bare {s : State} {num : Nat} {l : Launch} (hl : s.findLaunch num = some l) (hends : l.ends = false)
    (hrecs : ∀ r ∈ s.sch.recs, r.w.launch ≠ num) (hheld : ∀ k ∈ s.holders, thLaunch (s.getT k) ≠ num) (status : Nat) :
    Schedules (dropWants (s.modLaunch num (fun x => { x with phase := .ending status, ranges := [] })) l) (endLaunch s num status) := by
  have hwants := dropWants_stays (s.modLaunch num (fun x => { x with phase := .ending status, ranges := [] })) l
  have hwrecs := dropWants_recs (s.modLaunch num (fun x => { x with phase := .ending status, ranges := [] })) l
  unfold endLaunch
  simp only [hl, hends]
  generalize dropWants (s.modLaunch num (fun x => { x with phase := .ending status, ranges := [] })) l = w at hwants hwrecs ⊢
  have hwrecs' : ∀ r ∈ w.sch.recs, r.w.launch ≠ num := by rw [hwrecs]; exact hrecs
  have hrest : w.sch.recs.filter (fun r => r.w.launch == num && !parkedRest w r) = [] := List.filter_eq_nil_iff.2 fun r hr => by simp [hwrecs' r hr]
  have hthreads : w.holders.filter (fun n => thLaunch (w.getT n) == num) = [] := List.filter_eq_nil_iff.2 fun k hk => by
    rw [hwants.holders] at hk
    rw [hwants.getT]
    exact fun h => hheld k hk (beq_iff_eq.1 h)
  have hrids : launchRids w num = [] := by
    rw [launchRids, hthreads, List.filter_eq_nil_iff.2 fun r hr => by simp [hwrecs' r hr]]
    rfl
  rw [hrest, List.foldl_nil, hthreads, List.foldl_nil, hrids, quitRots_nil]
  exact (allGrants_schedules w).trans (.after ..)

theorem dropWants_launches (s : State) (l : Launch) : (dropWants s l).sch.launches = s.sch.launches := by
  unfold dropWants
  dsimp only
  split
  · rfl
  · rw [addReg_sch]
    rfl
theorem dropWants_reg0 (s : State) (l : Launch) {o : Nat} (ho : o < 0x20000) : (dropWants s l).reg0 o = s.reg0 o := by
  unfold dropWants
  dsimp only
  split
  · rfl
  · refine addReg_ne _ _ ?_
    unfold liveOff hedgeOff partOff
    omega

theorem setBusy_bit (s : State) (num : Nat) : ((setBusy s num).reg0 0x20).getLsbD 31 = true := by
  rw [setBusy, State.reg0_setReg0_self]
  rfl

/-- A cancel ends a launch without records or threads with status 7 (R369). -/
theorem launchCancel_bare {s : State} {num : Nat} {l : Launch} (hl : s.findLaunch num = some l) (hfree : s.sch.preemptBusy = none) (hends : l.ends = false)
    (hrecs : ∀ r ∈ s.sch.recs, r.w.launch ≠ num) (hheld : ∀ k ∈ s.holders, thLaunch (s.getT k) ≠ num) :
    Answers (.launchCancel num) s (fun t => (∃ y, t.findLaunch num = some y ∧ y.phase = .ending 7 ∧ y.ranges = []) ∧ (t.reg0 0x20).getLsbD 31 = true) := by
  have hbusy : (setBusy s num).findLaunch num = some l := by
    rw [← hl]
    exact findLaunch_of_launches (congrArg Sched.launches (State.setReg0_sch ..)) num
  have hbare := endLaunch_bare hbusy hends (by rw [setBusy, State.setReg0_sch]; exact hrecs) hheld 7
  have hfound := findLaunch_modLaunch_any (s := setBusy s num) (n := num) (f := fun x => { x with phase := .ending 7, ranges := [] }) (fun _ => rfl) num
  rw [hbusy, Option.map_some, if_pos (findLaunch_num hl)] at hfound
  have hrun : exec (.launchCancel num) s = .next (endLaunch (setBusy s num) num 7) := by
    rw [exec_launchCancel]
    unfold execLaunchCancel
    simp only [hl, hfree]
    rfl
  refine ⟨_, hrun, ⟨{ l with phase := .ending 7, ranges := [] }, ?_, rfl, rfl⟩, ?_⟩
  · exact (hbare.findLaunch num).trans ((findLaunch_of_launches (dropWants_launches ..) num).trans hfound)
  · rw [hbare.reg0, dropWants_reg0 _ _ (by decide)]
    exact setBusy_bit s num

/-! A release (R369). -/

theorem unhold_launches (s : State) (r : Rec) : (unhold s r).sch.launches = s.sch.launches := by
  unfold unhold
  split
  · split <;> rfl
  · rfl
theorem foldl_unhold_launches (rs : List Rec) (s : State) : (rs.foldl unhold s).sch.launches = s.sch.launches := by
  induction rs generalizing s with
  | nil => rfl
  | cons r rs ih => exact (ih (unhold s r)).trans (unhold_launches s r)

/-- A released launch runs, and a gang is placed, again (R43, R369). -/
theorem releaseLaunch_phase {s : State} {l : Launch} (hl : s.findLaunch l.num = some l) :
    ∃ y, (releaseLaunch s l).findLaunch l.num = some y ∧ y.phase = if l.isGang then .placing else .running := by
  unfold releaseLaunch
  split
  · have hfound := findLaunch_modLaunch_any (s := s) (n := l.num) (f := fun x => { x with phase := .placing, since := s.count }) (fun _ => rfl) l.num
    rw [hl, Option.map_some, if_pos rfl] at hfound
    exact ⟨_, hfound, rfl⟩
  · have hfound := findLaunch_modLaunch_any (s := s) (n := l.num) (f := fun x => { x with phase := .running }) (fun _ => rfl) l.num
    rw [hl, Option.map_some, if_pos rfl] at hfound
    dsimp only
    generalize s.modLaunch l.num (fun x => { x with phase := .running }) = s1 at hfound
    have hunheld := foldl_unhold_launches (s1.sch.recs.filter (fun r => r.w.launch == l.num && r.place == .rest && r.w.fullf)) s1
    generalize (s1.sch.recs.filter (fun r => r.w.launch == l.num && r.place == .rest && r.w.fullf)).foldl unhold s1 = s2 at hunheld ⊢
    generalize s2.sch.recs.filterMap (fun r => match r.place with | .granted n => some n | .slot c _ => some (c * 4) | _ => none) = ths
    have hthreads : Schedules s2 (ths.foldl (fun x n => (x.after Config.grantTime (.pickup n)).after Config.grantTime (.shadowFill (thCore n))) s2) :=
      .foldl (fun t _ => (Schedules.after t _ _).trans (.after _ _ _)) ths s2
    have hlast := hthreads.trans ((allGrants_schedules _).trans (.after _ Config.grantTime (.launchDone l.num)))
    exact ⟨_, (hlast.findLaunch l.num).trans ((findLaunch_of_launches hunheld l.num).trans hfound), rfl⟩

theorem preemptRelease_held {s : State} {num : Nat} {l : Launch} (hl : s.findLaunch num = some l) (hphase : l.phase = .held) (hfree : s.sch.preemptBusy = none) :
    Answers (.preemptRelease num) s (fun t => ∃ y, t.findLaunch num = some y ∧ y.phase = (if l.isGang then .placing else .running)) := by
  have hnum := findLaunch_num hl
  have hrun : exec (.preemptRelease num) s = .next (releaseLaunch s l) := by
    rw [exec_preemptRelease]
    unfold execPreemptRelease
    simp only [hl, hphase, hfree]
    rfl
  subst hnum
  exact ⟨_, hrun, releaseLaunch_phase hl⟩

/-! A hold (R369). -/

/-- A job that ends without its latch leaves the registers and the requests. -/
structure RequestStays (s t : State) : Prop where
  plat : t.plat = s.plat
  busy : t.sch.preemptBusy = s.sch.preemptBusy

namespace RequestStays
variable {s t u : State}
theorem refl (s : State) : RequestStays s s := ⟨rfl, rfl⟩
theorem trans (h : RequestStays s t) (k : RequestStays t u) : RequestStays s u := ⟨k.plat.trans h.plat, k.busy.trans h.busy⟩
theorem of_schedules (h : Schedules s t) : RequestStays s t := by
  obtain ⟨a, c, rfl⟩ := h
  exact ⟨rfl, rfl⟩
theorem foldl {α : Type} {f : State → α → State} (hf : ∀ s a, RequestStays s (f s a)) (l : List α) (s : State) : RequestStays s (l.foldl f s) := by
  induction l generalizing s with
  | nil => exact refl s
  | cons a r ih => exact (hf s a).trans (ih (f s a))
end RequestStays

theorem retryCmds_schedules (s : State) (clu : Nat) : Schedules s (retryCmds s clu) := by
  unfold retryCmds
  split
  · exact .refl s
  · exact .after ..
theorem quitJob_requestStays (s : State) (clu : Nat) : RequestStays s (quitJob s clu) := by
  unfold quitJob
  dsimp only
  split
  · exact .refl s
  · next j r _ =>
    have hset : RequestStays s (s.setClu clu { s.clu clu with jobs := r, running := false, due := 0, sent := false, rcvd := false }) := ⟨rfl, rfl⟩
    generalize s.setClu clu { s.clu clu with jobs := r, running := false, due := 0, sent := false, rcvd := false } = s1 at hset ⊢
    have hop : RequestStays s1 (match s1.findOp j.op with | some o => afterOp (s1.dropOp j.op) o | none => s1) := by
      have hdrop : RequestStays s1 (s1.dropOp j.op) := ⟨rfl, rfl⟩
      split
      · exact hdrop.trans (.of_schedules (afterOp_schedules (s1.dropOp j.op) _))
      · exact .refl s1
    have hall := (hset.trans hop).trans (.of_schedules (retryCmds_schedules _ clu))
    split
    · exact hall.trans (.of_schedules (.after ..))
    · exact hall.trans (.of_schedules (.after ..))
theorem quitRots_requestStays (rids : List Nat) (s : State) : RequestStays s (quitRots rids s) := by
  unfold quitRots
  refine .foldl (fun t clu => ?_) _ s
  split
  · split
    · exact quitJob_requestStays t clu
    · exact .refl t
  · exact .refl t

/-- The thread is to stop for a hold at its next boundary. -/
def markHeld (s : State) (n : Nat) : State := s.modT n (fun t => { t with preempt := true })

/-- The threads have what they had; of those among `ns` it is recorded that they are to stop. -/
structure Marked (ns : List Nat) (s t : State) : Prop where
  plat : t.plat = s.plat
  sch : t.sch = s.sch
  holders : ∀ k, k ∈ t.holders ↔ k ∈ s.holders
  launch : ∀ k, thLaunch (t.getT k) = thLaunch (s.getT k)
  blocked : ∀ k, (t.getT k).i.blocked = (s.getT k).i.blocked
  preempt : ∀ k ∈ ns, (t.getT k).preempt = true
  kept : ∀ k, (s.getT k).preempt = true → (t.getT k).preempt = true

theorem markHeld_getT (s : State) (n k : Nat) : (markHeld s n).getT k = if k = n then { s.getT k with preempt := true } else s.getT k := by
  split
  · next h => rw [h]; exact State.getT_setT_self ..
  · next h => exact State.getT_setT_ne _ _ h
theorem markHeld_marked (s : State) (n : Nat) : Marked [n] s (markHeld s n) := by
  refine ⟨State.setT_plat .., State.setT_sch .., mem_holders_setT rfl, fun k => ?_, fun k => ?_, fun k hk => ?_, fun k hk => ?_⟩
  all_goals rw [markHeld_getT]
  · split <;> rfl
  · split <;> rfl
  · rw [if_pos (List.mem_singleton.1 hk)]
  · split
    · rfl
    · exact hk
theorem foldl_markHeld (ns : List Nat) (s : State) : Marked ns s (ns.foldl markHeld s) := by
  induction ns generalizing s with
  | nil => exact ⟨rfl, rfl, fun _ => Iff.rfl, fun _ => rfl, fun _ => rfl, fun _ h => (nomatch h), fun _ h => h⟩
  | cons n ns ih =>
    have h1 := markHeld_marked s n
    have h2 := ih (markHeld s n)
    refine ⟨h2.plat.trans h1.plat, h2.sch.trans h1.sch, fun k => (h2.holders k).trans (h1.holders k), fun k => (h2.launch k).trans (h1.launch k),
      fun k => (h2.blocked k).trans (h1.blocked k), fun k hk => ?_, fun k hk => h2.kept k (h1.kept k hk)⟩
    obtain rfl | hk := List.mem_cons.1 hk
    · exact h2.kept k (h1.preempt k List.mem_cons_self)
    · exact h2.preempt k hk

/-- A thread that does not wait at a barrier is not withdrawn from one. -/
theorem withdrawMember_unbarred {s : State} {n : Nat} (h : ∀ a b c, (s.getT n).i.blocked ≠ some (.bar a b c)) : withdrawMember s n = s := by
  unfold withdrawMember
  dsimp only
  split
  · next hb _ => exact absurd hb (h _ _ _)
  · rfl
theorem withdrawAll_unbarred {s : State} {num : Nat} (h : ∀ k ∈ s.holders, thLaunch (s.getT k) = num → ∀ a b c, (s.getT k).i.blocked ≠ some (.bar a b c)) :
    withdrawAll s num = s := by
  have hfold (ns : List Nat) (hns : ∀ k ∈ ns, withdrawMember s k = s) : ns.foldl withdrawMember s = s := by
    induction ns with
    | nil => rfl
    | cons n ns ih =>
      rw [List.foldl_cons, hns n List.mem_cons_self]
      exact ih fun k hk => hns k (List.mem_cons_of_mem n hk)
  refine hfold _ fun k hk => ?_
  obtain ⟨hmem, hnum⟩ := List.mem_filter.1 hk
  exact withdrawMember_unbarred (h k hmem (beq_iff_eq.1 hnum))

/-- A launch that is to be held: it holds, its threads are to stop, and BUSY reads 1. -/
def holding (s : State) (num : Nat) : State :=
  let s1 := setBusy (s.modLaunch num (fun x => { x with phase := .holding })) num
  (s1.holders.filter (fun n => thLaunch (s1.getT n) == num)).foldl markHeld s1

section
variable (s : State) (num : Nat)
theorem holding_marked : Marked (s.holders.filter (fun n => thLaunch (s.getT n) == num)) (setBusy (s.modLaunch num (fun x => { x with phase := .holding })) num)
    (holding s num) := foldl_markHeld _ _
theorem holding_findLaunch {s : State} {num : Nat} {l : Launch} (hl : s.findLaunch num = some l) : (holding s num).findLaunch num = some { l with phase := .holding } := by
  have hfound := findLaunch_modLaunch_any (s := s) (n := num) (f := fun x => { x with phase := .holding }) (fun _ => rfl) num
  rw [hl, Option.map_some, if_pos (findLaunch_num hl)] at hfound
  rw [← hfound]
  exact findLaunch_of_launches ((congrArg Sched.launches (holding_marked s num).sch).trans (congrArg Sched.launches (State.setReg0_sch ..))) num
theorem holding_busy : (holding s num).sch.preemptBusy = some num ∧ ((holding s num).reg0 0x20).getLsbD 31 = true := by
  have hmark := holding_marked s num
  have hreg : (holding s num).reg0 0x20 = (setBusy (s.modLaunch num (fun x => { x with phase := .holding })) num).reg0 0x20 :=
    reg0_congr (congrArg Plat.bar0 hmark.plat) _
  rw [hmark.sch, hreg]
  exact ⟨congrArg Sched.preemptBusy (State.setReg0_sch ..), setBusy_bit ..⟩
end

/-- A hold marks the launch's threads, and its request is in progress (R369). -/
theorem preemptHold_running {s : State} {num : Nat} {l : Launch} (hl : s.findLaunch num = some l) (hphase : l.phase = .running) (hfree : s.sch.preemptBusy = none)
    (hbar : ∀ k ∈ s.holders, thLaunch (s.getT k) = num → ∀ a b c, (s.getT k).i.blocked ≠ some (.bar a b c)) :
    Answers (.preemptHold num) s (fun t => (∃ y, t.findLaunch num = some y ∧ y.phase = .holding) ∧ (t.reg0 0x20).getLsbD 31 = true ∧ t.sch.preemptBusy = some num ∧
      ∀ k ∈ s.holders, thLaunch (s.getT k) = num → (t.getT k).preempt = true) := by
  have hmark := holding_marked s num
  have hstays := quitRots_stays (launchRids (holding s num) num) (holding s num)
  have hrequest := quitRots_requestStays (launchRids (holding s num) num) (holding s num)
  have hrun : exec (.preemptHold num) s =
      .next ((withdrawAll (quitRots (launchRids (holding s num) num) (holding s num)) num).after Config.grantTime (.launchDone num)) := by
    rw [exec_preemptHold]
    unfold execPreemptHold busyElse
    simp only [hl, hphase, hfree]
    rfl
  generalize quitRots (launchRids (holding s num) num) (holding s num) = u at hstays hrequest hrun
  have hnone : withdrawAll u num = u := withdrawAll_unbarred fun k hk hnum => by
    rw [hstays.holders, hmark.holders] at hk
    rw [hstays.getT, hmark.launch] at hnum
    rw [hstays.getT, hmark.blocked]
    exact hbar k hk hnum
  rw [hnone] at hrun
  obtain ⟨hbusy, hbit⟩ := holding_busy s num
  have hphases := hstays.phases num
  rw [holding_findLaunch hl] at hphases
  refine ⟨_, hrun, Option.map_eq_some_iff.1 hphases, ?_, hrequest.busy.trans hbusy, fun k hk hnum => ?_⟩
  · have hreg : u.reg0 0x20 = (holding s num).reg0 0x20 := reg0_congr (congrArg Plat.bar0 hrequest.plat) _
    exact (congrArg (·.getLsbD 31) hreg).trans hbit
  · have hmem : k ∈ s.holders.filter (fun n => thLaunch (s.getT n) == num) := List.mem_filter.2 ⟨hk, beq_iff_eq.2 hnum⟩
    exact (congrArg Thread.preempt (hstays.getT k)).trans (hmark.preempt k hmem)

end Sys2Proof.Machine
end

section
/-! Invalidation and ownership (R130, R370, R371). -/
namespace Sys2Proof.Machine
open Sys2Proof

/-- The translations that `hit` names are gone, and the invalidation is in progress (R371). -/
theorem startTlbi_drops {s : State} {hit : TlbEntry → Bool} {p : TlbEntry → Prop} (hfree : s.sch.tlbiBusy = false) (hp : ∀ e, hit e = true ↔ p e) :
    (∀ e, e ∈ (startTlbi s hit).mem.tlb ↔ e ∈ s.mem.tlb ∧ ¬ p e) ∧ (startTlbi s hit).sch.tlbiBusy = true ∧ ((startTlbi s hit).reg0 0x18).getLsbD 63 = true ∧
      DueIn s Config.seamTime .tlbiDone (startTlbi s hit) := by
  have heq : startTlbi s hit = ((((s.modM (fun m => { m with tlb := m.tlb.filter (fun e => !hit e) })).modSch (fun c => { c with tlbiBusy := true })).setReg0 0x18
      (BitVec.ofNat 64 (2 ^ 63))).after Config.seamTime .tlbiDone) := if_neg (by rw [hfree]; decide)
  rw [heq]
  refine ⟨fun e => ?_, rfl, ?_, dueIn_after _ _ rfl⟩
  · refine List.mem_filter.trans (and_congr_right fun _ => ?_)
    rw [← hp]
    simp
  · have hreg := State.reg0_setReg0_self ((s.modM (fun m => { m with tlb := m.tlb.filter (fun e => !hit e) })).modSch (fun c => { c with tlbiBusy := true })) 0x18
      (BitVec.ofNat 64 (2 ^ 63))
    exact (congrArg (·.getLsbD 63) hreg).trans rfl

/-- An invalidation of which no access is left completes (R130). -/
theorem tlbiDone_clear {s : State} (hbusy : s.sch.tlbiBusy = true) (hbufs : ∀ c, (s.core c).buf = []) (hreplies : ∀ n ∈ s.holders, (s.getT n).i.replies = [])
    (hports : ∀ p ∈ s.plat.ports, p.2.waiting = []) (hposted : ∀ c ∈ s.cores, c.2.posted = []) (hops : ∀ o ∈ s.sch.ops, translated o = false) :
    Answers .tlbiDone s (fun t => t.sch.tlbiBusy = false ∧ t.reg0 0x18 = 0) := by
  have hdrain : (s.cores.map (·.1)).foldl drainAll s = s := List.foldl_fixed' (fun c => drainAll_nil s c (hbufs c)) _
  have hr : s.holders.any (fun n => !(s.getT n).i.replies.isEmpty) = false := List.any_eq_false.2 fun n hn => by simp [hreplies n hn]
  have hp : s.plat.ports.any (fun p => !p.2.waiting.isEmpty) = false := List.any_eq_false.2 fun p hp => by simp [hports p hp]
  have hc : s.cores.any (fun c => !c.2.posted.isEmpty) = false := List.any_eq_false.2 fun c hc => by simp [hposted c hc]
  have ho : s.sch.ops.any translated = false := List.any_eq_false.2 fun o ho => by simp [hops o ho]
  have hrun : exec .tlbiDone s = .next ((s.modSch (fun c => { c with tlbiBusy := false })).setReg0 0x18 0) := by
    rw [exec_tlbiDone]
    unfold execTlbiDone
    simp only [hdrain, hbusy, hr, hp, hc, ho]
    rfl
  exact ⟨_, hrun, congrArg Sched.tlbiBusy (State.setReg0_sch ..), State.reg0_setReg0_self ..⟩

/-- The owner of a cluster that holds no record is set, whatever it leaves a partition with (R370, log 64). -/
theorem partCluWrite_sets {s : State} {die clu : Nat} (v : Word) (hdie : die < 8) (hclu : clu < 16) (hempty : cluHolds s (die * 16 + clu) = false) :
    Answers (.partCluWrite die clu v) s (fun t => t.reg0 (dieOff die + clu * 8) = v &&& 0xBF) := by
  have hgo : ¬ (8 ≤ die ∨ 16 ≤ clu ∨ cluHolds s (die * 16 + clu) = true) := by
    rw [hempty]
    rintro (h | h | h)
    · omega
    · omega
    · cases h
  refine ⟨_, if_neg hgo, ?_⟩
  have hopens := opens_schedules (if (rotWaits s (die * 16 + clu)).isSome then quitJob s (die * 16 + clu) else s) (die * 16 + clu)
    (fun x => x.setReg0 (dieOff die + clu * 8) (v &&& 0xBF))
  have hlast := (hopens.trans (allGrants_schedules _)).trans (retryGangs_schedules _)
  exact (hlast.reg0 _).trans (State.reg0_setReg0_self ..)
theorem partCluWrite_held {s : State} {die clu : Nat} (v : Word) (hholds : cluHolds s (die * 16 + clu) = true) : exec (.partCluWrite die clu v) s = .next s := by
  rw [exec_partCluWrite]
  exact if_pos (.inr (.inr hholds))

end Sys2Proof.Machine
end

section
/-! The steps of the front end. -/
namespace Sys2Proof.Machine
open Sys2Proof

theorem Answers.mono {i : Instr} {s : State} {p p' : State → Prop} (h : Answers i s p) (hp : ∀ t, p t → p' t) : Answers i s p' := by
  obtain ⟨t, ht, hpt⟩ := h
  exact ⟨t, ht, hp t hpt⟩

/-- Settles O57: each step is taken apart by the lemmas on it, and what a step only schedules leaves the queues, the registers and the launches. -/
theorem frontEndSteps : Obligations.FrontEndSteps := by
  unfold Obligations.FrontEndSteps
  refine ⟨fun s q tail head v => ⟨fun h => ?_, fun h => ?_, ?_, fun h => ?_, fun h => ?_, fun h => ?_, fun h => ?_⟩, fun s q n hruns hn hgo => ?_, ?_, ?_, ?_, ?_, ?_, ?_⟩
  · refine ⟨_, sqDbWrite_within h, ?_, dueIn_after _ _ rfl⟩
    rw [(kickAdmit_schedules _ _).queue, State.queue_setQueue_self]
    rfl
  · exact ⟨_, sqDbWrite_passing h, rfl, _, rfl, by omega⟩
  · exact ⟨_, rfl, State.queue_setQueue_self ..⟩
  · exact (sqCfg_sqCfgWrite s q v).mono fun t hcfg => hcfg.trans (cfgWrite_off h v _)
  · exact (sqCfg_sqCfgWrite s q v).mono fun t hcfg => by rw [hcfg]; exact cfgWrite_on h v _
  · exact (cqCfg_cqCfgWrite s q v).mono fun t hcfg => hcfg.trans (cfgWrite_off h v _)
  · exact (cqCfg_cqCfgWrite s q v).mono fun t hcfg => by rw [hcfg]; exact cfgWrite_on h v _
  · exact admitLaunch_answers q hruns hn rfl rfl rfl hgo
  · intro s s1 num n l hl hphase hopen hread
    have hmax : fld l.l[3] 31 0 = l.l[3].toNat % 2 ^ 32 := fld_zero ..
    exact (launchDispatch_splits hl hphase hopen hread).mono fun t ht => ⟨dispatched s1 l n l, ht, rfl, by rw [← hmax]; rfl, by rw [← hmax]; rfl, by rw [← hmax]; rfl⟩
  · intro s q e rest
    refine ⟨fun hw _ hroom hhost hposts => ?_, fun hunsig htime hold => ?_⟩
    · refine (postCompletion_answers hw hroom hhost hposts).mono fun t ht => ?_
      obtain ⟨hentry, hwait, hunread, htail, hdue, hearly⟩ := ht
      exact ⟨hentry, hwait, hunread, htail, fun h => hdue ((signalDue_written s q e rest).2 h), fun hfew hnot => hearly fun h =>
        ((signalDue_written s q e rest).1 h).elim (Nat.not_le.2 hfew) hnot⟩
    · have htime' : coalTime s q ≠ 0 := Nat.mul_ne_zero htime (by decide)
      exact ⟨_, cqCoalTimer_signals hunsig htime' hold, signal_irqs s q, congrArg QueueSt.unsig (signal_queue s q)⟩
  · intro s num l hl
    refine ⟨fun hphase hmirror hgang htasks hheld hrecs hcount => ?_, fun hphase hfree hbar => preemptHold_running hl hphase hfree hbar,
      fun hphase hfree => preemptRelease_held hl hphase hfree, fun hfree hends hrecs hheld => launchCancel_bare hl hfree hends hrecs hheld⟩
    refine (launchDone_counted hl hphase hmirror hgang htasks hheld hrecs hcount).mono fun t ⟨hgone, hposted⟩ => ⟨hgone, doneEntry l 0, hposted, ?_⟩
    obtain ⟨hkind, hctx⟩ := entry_kind l 0 (l.counts.2.1 * 2 ^ 32 + l.counts.1 % 2 ^ 26) (l.disc % 2 ^ 32 * 2 ^ 32 + l.counts.2.2) (min (2 ^ 32 - 1) (l.short / 2 ^ 20))
      (show 1 < 16 by decide)
    exact ⟨hkind, hctx, rfl, entry_status l 1 _ _ (by decide) (by omega)⟩
  · intro s part va hfree
    exact ⟨⟨_, rfl, startTlbi_drops hfree fun e => by simp⟩, ⟨_, rfl, startTlbi_drops hfree fun e => by simp⟩⟩
  · exact fun s hbusy hbufs hreplies hports hposted hops => tlbiDone_clear hbusy hbufs hreplies hports hposted hops
  · exact fun s die clu v => ⟨fun hdie hclu hempty => partCluWrite_sets v hdie hclu hempty, fun hholds => partCluWrite_held v hholds⟩

end Sys2Proof.Machine
end

section
/-! What the checks of an access leave, and what the levels of memory leave of a die's L2. -/
namespace Sys2Proof.Machine
open Sys2Proof

/-- The checks of an access enter a translation and note a home at most: registers, pins and cores are as before. -/
structure AccessLeaves (s t : State) : Prop where
  cur : t.cur = s.cur
  regs : t.thr.r = s.thr.r
  npc : t.thr.npc = s.thr.npc
  part : t.part = s.part
  pins : t.mem.pins = s.mem.pins
  cores : t.cores = s.cores
  taken : t.taken = s.taken

namespace AccessLeaves
variable {s t u : State}
theorem refl (s : State) : AccessLeaves s s := ⟨rfl, rfl, rfl, rfl, rfl, rfl, rfl⟩
theorem trans (h : AccessLeaves s t) (k : AccessLeaves t u) : AccessLeaves s u :=
  ⟨k.cur.trans h.cur, k.regs.trans h.regs, k.npc.trans h.npc, k.part.trans h.part, k.pins.trans h.pins, k.cores.trans h.cores, k.taken.trans h.taken⟩
theorem of_cachesOnly (h : CachesOnly s t) : AccessLeaves s t :=
  ⟨h.cur, by rw [h.thr], by rw [h.thr], by rw [State.part, State.part, h.thr], h.pins, h.cores, h.taken⟩
end AccessLeaves

theorem touchTgt_access (s : State) (t : Tgt) : AccessLeaves s (touchTgt s t) := by
  have htouch (d : Nat) : AccessLeaves s (touchDie s d) := by
    refine ⟨rfl, rfl, rfl, ?_, rfl, rfl, rfl⟩
    cases h : s.thr.rcd <;> simp [touchDie, State.modW, State.modRcd, State.part, thPart, h]
  unfold touchTgt
  split
  · split
    · exact htouch _
    · exact .refl s
  · exact .refl s
theorem tlbEnter_access (s : State) (clu part va : Nat) (leaf : Word) (bits : Nat) : AccessLeaves s (tlbEnter s clu part va leaf bits) := by
  unfold tlbEnter
  dsimp only
  split
  · exact .refl s
  · exact (AccessLeaves.of_cachesOnly (walkTouch_cachesOnly s part va)).trans ⟨rfl, rfl, rfl, rfl, rfl, rfl, rfl⟩
theorem translate_access {s : State} {clu part va : Nat} {need : Need} {r : State × Nat × Word} (h : translate s clu part va need = .ok r) : AccessLeaves s r.1 := by
  unfold translate at h
  split at h
  · cases h
  · dsimp only at h
    split at h
    · cases h
    · split at h
      · cases h
      · cases h
        exact tlbEnter_access ..
theorem resolve_access {s : State} {a len al : Nat} {need : Need} {r : State × Tgt} (h : resolve s a len al need = .ok r) : AccessLeaves s r.1 := by
  unfold resolve at h
  obtain ⟨⟨s1, t⟩, hp, h⟩ := chk_bind_ok.1 h
  obtain ⟨_, -, h⟩ := chk_bind_ok.1 h
  cases h
  unfold place at hp
  obtain ⟨_, -, hp⟩ := chk_bind_ok.1 hp
  split at hp
  · obtain ⟨_, -, hp⟩ := chk_bind_ok.1 hp
    obtain ⟨_, -, hp⟩ := chk_bind_ok.1 hp
    obtain ⟨_, -, hp⟩ := chk_bind_ok.1 hp
    cases hp
    exact .refl s
  · obtain ⟨_, -, hp⟩ := chk_bind_ok.1 hp
    obtain ⟨⟨s2, fa, leaf⟩, htr, hp⟩ := chk_bind_ok.1 hp
    obtain ⟨_, -, hp⟩ := chk_bind_ok.1 hp
    obtain ⟨_, -, hp⟩ := chk_bind_ok.1 hp
    cases hp
    exact AccessLeaves.trans (t := s2) (translate_access htr) (touchTgt_access s2 (.glob fa leaf))

/-! The L3 and its fills leave the L2. -/

theorem foldl_l2 {α : Type} {f : Mem → α → Mem} (hf : ∀ m a, (f m a).l2 = m.l2) (l : List α) (m : Mem) : (l.foldl f m).l2 = m.l2 := by
  induction l generalizing m with
  | nil => rfl
  | cons a r ih => exact (ih (f m a)).trans (hf m a)
theorem foldl_mem_l2 {α : Type} {f : State → α → State} (hf : ∀ s a, (f s a).mem.l2 = s.mem.l2) (l : List α) (s : State) : (l.foldl f s).mem.l2 = s.mem.l2 := by
  induction l generalizing s with
  | nil => rfl
  | cons a r ih => exact (ih (f s a)).trans (hf s a)
theorem sealSector_l2 (x : L3Line) (m : Mem) (i : Nat) : (sealSector x m i).l2 = m.l2 := by
  unfold sealSector
  dsimp only
  split
  · rfl
  · split <;> rfl
theorem l3Evict_l2 (m : Mem) (x : L3Line) : (l3Evict m x).l2 = m.l2 := by
  unfold l3Evict
  dsimp only
  split
  · exact foldl_l2 (sealSector_l2 x) _ m
  · rfl
theorem fillSector_l2 (own : Nat) (p : Tab Nat × Mem) (k : Nat) : (fillSector own p k).2.l2 = p.2.l2 := by
  unfold fillSector
  dsimp only
  split <;> rfl
theorem fillOne_l2 (own line : Nat) (mask : BitVec 8) (m : Mem) (i : Nat) : (fillOne own line mask m i).l2 = m.l2 := by
  unfold fillOne
  split
  · rfl
  · split
    · rfl
    · dsimp only
      split
      · exact fillSector_l2 own ([], m) _
      · rfl
theorem l3Room_l2 (s : State) (part line : Nat) : (l3Room s part line).mem.l2 = s.mem.l2 := by
  unfold l3Room
  split
  · rfl
  · dsimp only
    split
    · rfl
    · split
      · exact (l3Evict_l2 _ _).trans (congrArg Mem.l2 (choose_mem ..))
      · rfl
theorem l3Line_l2 (s : State) (own line : Nat) : (l3Line s own line).mem.l2 = s.mem.l2 := by
  unfold l3Line
  split
  · rfl
  · exact l3Room_l2 s (own / 64) line
theorem l3Fill_l2 (s : State) (own line : Nat) (mask : BitVec 8) : (l3Fill s own line mask).mem.l2 = s.mem.l2 :=
  (foldl_l2 (fillOne_l2 own line mask) _ _).trans (l3Line_l2 s own line)
theorem l3Touch_l2 (s : State) (own a n : Nat) (w : Bool) : (l3Touch s own a n w).mem.l2 = s.mem.l2 := by
  unfold l3Touch
  split
  · rfl
  · refine foldl_mem_l2 (fun t i => ?_) _ s
    have hfill := l3Fill_l2 t own (a / 128 + i) (sectorMask (a / 128 + i) a n)
    dsimp only
    generalize l3Fill t own (a / 128 + i) (sectorMask (a / 128 + i) a n) = u at hfill ⊢
    split
    · exact hfill
    · exact hfill
theorem sectorBack_l2 (s : State) (x : Sector) : (sectorBack s x).mem.l2 = s.mem.l2 := by
  unfold sectorBack
  split
  · rfl
  · have htouch := l3Touch_l2 s x.own x.addr 16 true
    generalize l3Touch s x.own x.addr 16 true = u at htouch ⊢
    rw [← htouch, State.modM]
    dsimp only
    split <;> rfl

/-! Fills. -/

theorem fillSector_l3 (own : Nat) (p : Tab Nat × Mem) (k : Nat) : (fillSector own p k).2.l3 = p.2.l3 := by
  unfold fillSector
  dsimp only
  split <;> rfl
theorem fillOne_keepsLine {m : Mem} {x : L3Line} (own line : Nat) (mask : BitVec 8) (i : Nat) (hx : x ∈ m.l3) : ∃ y ∈ (fillOne own line mask m i).l3, y.line = x.line := by
  unfold fillOne
  split
  · exact ⟨x, hx, rfl⟩
  · split
    · exact ⟨x, hx, rfl⟩
    · have hq : ∀ c : Bool, (if c then fillSector own ([], m) (maKey (line * 128) + 16 * i) else ([], m)).2.l3 = m.l3 := by
        intro c
        split
        · exact fillSector_l3 ..
        · rfl
      dsimp only
      rw [hq]
      refine ⟨_, List.mem_map_of_mem hx, ?_⟩
      split <;> rfl

/-- A line that is filled into the L3 is there (R19, R126). -/
theorem l3Fill_line (s : State) (own line : Nat) (mask : BitVec 8) : ∃ x ∈ (l3Fill s own line mask).mem.l3, x.line = line := by
  have hline : ∃ x ∈ (l3Line s own line).mem.l3, x.line = line := by
    unfold l3Line
    split
    · next h =>
      obtain ⟨x, hx, he⟩ := List.any_eq_true.1 h
      exact ⟨x, hx, beq_iff_eq.1 he⟩
    · exact ⟨_, List.mem_append_right _ (List.mem_singleton.2 rfl), rfl⟩
  have hfold (is : List Nat) (m : Mem) (h : ∃ x ∈ m.l3, x.line = line) : ∃ x ∈ (is.foldl (fillOne own line mask) m).l3, x.line = line := by
    induction is generalizing m with
    | nil => exact h
    | cons i is ih =>
      obtain ⟨x, hx, hxl⟩ := h
      obtain ⟨y, hy, hyl⟩ := fillOne_keepsLine own line mask i hx
      exact ih _ ⟨y, hy, hyl.trans hxl⟩
  exact hfold _ _ hline

theorem l2Find_isSome {s : State} {die a : Nat} : (l2Find s die a).isSome = true ↔ ∃ x ∈ s.mem.l2, x.die = die ∧ x.addr = a := by
  rw [l2Find, List.find?_isSome]
  simp

/-- A line that occupies a way of its set needs no room (R126). -/
theorem l2Room_present {s : State} {die part line : Nat} (h : ∃ x ∈ s.mem.l2, x.die = die ∧ x.addr / 128 = line) : l2Room s die part line = s := by
  have hin : (l2InSet s die line).contains line = true := by
    obtain ⟨x, hx, hdie, hline⟩ := h
    have hsame : sameSet false (x.addr / 128) line = true := by simp [hline, sameSet]
    have hmem : line ∈ l2Lines s.mem (fun x => x.die == die && sameSet false (x.addr / 128) line) :=
      List.mem_map.2 ⟨x, List.mem_filter.2 ⟨hx, by rw [hsame, hdie]; simp⟩, hline⟩
    rw [List.contains_iff_mem, l2InSet, List.mem_eraseDups]
    exact List.mem_append_left _ hmem
  unfold l2Room
  rw [hin]
  exact if_pos rfl

/-- A fill leaves the sectors of its line. -/
theorem l2Fill_keepsLine {s : State} {die own a : Nat} {x : Sector} (hx : x ∈ s.mem.l2) (hdie : x.die = die) (hline : x.addr / 128 = a / 128) :
    x ∈ (l2Fill s die own a).2.mem.l2 := by
  unfold l2Fill
  split
  · exact hx
  · rw [l2Room_present ⟨x, hx, hdie, hline⟩]
    refine List.mem_append_left _ ?_
    rw [l3Touch_l2]
    exact hx
theorem l2Fill_fills (s : State) (die own a : Nat) : ∃ x ∈ (l2Fill s die own a).2.mem.l2, x.die = die ∧ x.addr = a := by
  unfold l2Fill
  split
  · next x h => exact l2Find_isSome.1 (by rw [h]; rfl)
  · exact ⟨_, List.mem_append_right _ (List.mem_singleton.2 rfl), rfl, rfl⟩

section
variable (die own line : Nat)

theorem foldl_l2Fill_keeps (is : List Nat) (his : ∀ j ∈ is, j < 8) (s : State) {x : Sector} (hx : x ∈ s.mem.l2) (hdie : x.die = die) (hline : x.addr / 128 = line) :
    x ∈ (is.foldl (fun t i => (l2Fill t die own (line * 128 + 16 * i)).2) s).mem.l2 := by
  induction is generalizing s with
  | nil => exact hx
  | cons j is ih =>
    have hj := his j List.mem_cons_self
    exact ih (fun k hk => his k (List.mem_cons_of_mem j hk)) _ (l2Fill_keepsLine hx hdie (by omega))
theorem foldl_l2Fill_fills (is : List Nat) (his : ∀ j ∈ is, j < 8) (s : State) {i : Nat} (hi : i ∈ is) :
    ∃ x ∈ (is.foldl (fun t i => (l2Fill t die own (line * 128 + 16 * i)).2) s).mem.l2, x.die = die ∧ x.addr = line * 128 + 16 * i := by
  induction is generalizing s with
  | nil => cases hi
  | cons j is ih =>
    have hrest := fun k hk => his k (List.mem_cons_of_mem j hk)
    have hj := his j List.mem_cons_self
    obtain rfl | hi := List.mem_cons.1 hi
    · obtain ⟨x, hx, hdie, haddr⟩ := l2Fill_fills s die own (line * 128 + 16 * i)
      exact ⟨x, foldl_l2Fill_keeps die own line is hrest _ hx hdie (by omega), hdie, haddr⟩
    · exact ih hrest _ hi

/-- A line that is filled into the L2 has its eight sectors there (R302). -/
theorem fillLine_fills (s : State) {i : Nat} (hi : i < 8) : (l2Find (fillLine s die own line) die (line * 128 + 16 * i)).isSome = true := by
  rw [l2Find_isSome]
  unfold fillLine
  exact foldl_l2Fill_fills die own line _ (fun j hj => List.mem_range.1 hj) s (List.mem_range.2 hi)
end

theorem fillLine_cachesOnly (s : State) (die own line : Nat) : CachesOnly s (fillLine s die own line) := by
  unfold fillLine
  exact .foldl (fun t _ => l2Fill_cachesOnly t die own _) _ s
theorem fillL1_cachesOnly (s : State) (core own line : Nat) : CachesOnly s (fillL1 s core own line) := by
  unfold fillL1
  exact .foldl (fun t _ => l1Fill_cachesOnly t core own _) _ s

end Sys2Proof.Machine
end

section
/-! Prefetch (R302). -/
namespace Sys2Proof.Machine
open Sys2Proof

theorem prefetchLine_ok {s s1 : State} {a : Word} {g : Tgt} (lvl : Lvl) (ha : a.toNat / 2 ^ 56 = 0) (hres : resolve s a.toNat 1 1 .load = .ok (s1, g)) {ma own : Nat}
    (hroute : tgtRoute s1 g = .cached ma own) : prefetchLine s a lvl = match lvl with
      | .l1 => fillL1 s1 (thCore s.cur) own (ma / 128)
      | .l2 => fillLine s1 (thDie s.cur) own (ma / 128)
      | .l3 => l3Fill s1 own (ma / 128) 0xFF := by
  unfold prefetchLine
  rw [if_neg (not_not_intro ha), hres]
  dsimp only
  rw [hroute]
  cases lvl <;> rfl

/-- A prefetch moves bytes between the levels of memory alone. -/
theorem prefetchLine_access (s : State) (a : Word) (lvl : Lvl) : AccessLeaves s (prefetchLine s a lvl) := by
  unfold prefetchLine
  split
  · exact .refl s
  · split
    · exact .refl s
    · next s1 g hres =>
      have h1 := resolve_access hres
      split
      · exact h1.trans (.of_cachesOnly (fillL1_cachesOnly ..))
      · exact h1.trans (.of_cachesOnly (fillLine_cachesOnly ..))
      · exact h1.trans (.of_cachesOnly (l3Fill_cachesOnly ..))
      · exact .refl s

end Sys2Proof.Machine
end

section
/-! Ranges of lines, and the pins on them (R127, R303). -/
namespace Sys2Proof.Machine
open Sys2Proof

/-! The blocks of a range. -/

/-- A range of whole lines is cut into pieces of whole lines that cover it, where the count of pieces suffices. -/
theorem splitGo_lines {k a len : Nat} (ha : a % 128 = 0) (hlen : len % 128 = 0) (hk : len ≠ 0 → len + a % 4096 ≤ 4096 * k) :
    (∀ p ∈ splitGo k a len, p.2 % 128 = 0 ∧ p.2 ≠ 0) ∧ ((splitGo k a len).map (fun p => p.2)).sum = len := by
  induction k generalizing a len with
  | zero =>
    have h0 : len = 0 := by omega
    exact ⟨fun p hp => absurd hp List.not_mem_nil, h0.symm⟩
  | succ k ih =>
    unfold splitGo
    split
    · next h0 => exact ⟨fun p hp => absurd hp List.not_mem_nil, h0.symm⟩
    · next h0 =>
      dsimp only
      obtain ⟨hlines, hsum⟩ := ih (a := a + min len (4096 - a % 4096)) (len := len - min len (4096 - a % 4096)) (by omega) (by omega) (fun _ => by have := hk h0; omega)
      refine ⟨fun p hp => ?_, ?_⟩
      · obtain rfl | hp := List.mem_cons.1 hp
        · exact ⟨by dsimp only; omega, by dsimp only; omega⟩
        · exact hlines p hp
      · rw [List.map_cons, List.sum_cons, hsum]
        omega
theorem lineBlocks_lines {a : Nat} (n : Nat) (ha : a % 128 = 0) : (∀ p ∈ lineBlocks a n, 1 ≤ p.2) ∧ ((lineBlocks a n).map (fun p => p.2)).sum = n := by
  obtain ⟨hlines, hsum⟩ := splitGo_lines (k := n / 32 + 2) (a := a) (len := 128 * n) ha (by omega) (fun _ => by omega)
  refine ⟨fun p hp => ?_, ?_⟩
  · obtain ⟨q, hq, rfl⟩ := List.mem_map.1 hp
    obtain ⟨hmod, hne⟩ := hlines q hq
    dsimp only
    omega
  · have hdiv : ∀ l : List (Nat × Nat), (∀ p ∈ l, p.2 % 128 = 0 ∧ p.2 ≠ 0) → 128 * (l.map (fun p => p.2 / 128)).sum = (l.map (fun p => p.2)).sum := by
      intro l hl
      induction l with
      | nil => rfl
      | cons p l ih =>
        have hp := (hl p List.mem_cons_self).1
        have hrest := ih fun q hq => hl q (List.mem_cons_of_mem p hq)
        simp only [List.map_cons, List.sum_cons]
        omega
    have hall := hdiv _ hlines
    rw [lineBlocks, List.map_map]
    change ((splitGo (n / 32 + 2) a (128 * n)).map (fun p => p.2 / 128)).sum = n
    omega

/-- The routes of blocks are found one after another, each with its block's lines. -/
theorem blockRoutes_lines {s s1 : State} {bs : List (Nat × Nat)} {l : List (Route × Nat × Nat)} (h : blockRoutes s bs = .ok (s1, l)) :
    AccessLeaves s s1 ∧ l.map (fun x => x.2.2) = bs.map (fun p => p.2) := by
  induction bs generalizing s s1 l with
  | nil =>
    cases h
    exact ⟨.refl s, rfl⟩
  | cons b bs ih =>
    obtain ⟨a, n⟩ := b
    unfold blockRoutes at h
    obtain ⟨⟨s2, g⟩, hres, h⟩ := chk_bind_ok.1 h
    obtain ⟨⟨s3, l'⟩, hrest, h⟩ := chk_bind_ok.1 h
    cases h
    obtain ⟨hleaves, hlens⟩ := ih hrest
    exact ⟨(resolve_access hres).trans hleaves, congrArg (n :: ·) hlens⟩

theorem blockLines_cons (rt : Route) (ma n : Nat) (l : List (Route × Nat × Nat)) :
    blockLines ((rt, ma, n) :: l) = (List.range n).map (fun i => (rt, ma / 128 + i)) ++ blockLines l := rfl
theorem blockLines_length (l : List (Route × Nat × Nat)) : (blockLines l).length = (l.map (fun x => x.2.2)).sum := by
  induction l with
  | nil => rfl
  | cons x l ih => rw [blockLines_cons, List.length_append, List.length_map, List.length_range, ih]; rfl
theorem blockLines_head {rt : Route} {ma n j : Nat} (l : List (Route × Nat × Nat)) (hj : j < n) : (blockLines ((rt, ma, n) :: l))[j]? = some (rt, ma / 128 + j) := by
  rw [blockLines_cons, List.getElem?_append_left (by simpa using hj)]
  simp [hj]
theorem blockLines_tail (rt : Route) (ma n j : Nat) (l : List (Route × Nat × Nat)) : (blockLines ((rt, ma, n) :: l))[n + j]? = (blockLines l)[j]? := by
  rw [blockLines_cons, List.getElem?_append_right (by simp)]
  simp

end Sys2Proof.Machine
end

section
/-! The pins that a range is granted (R127, R303). -/
namespace Sys2Proof.Machine
open Sys2Proof

/-- A partition's pin on a line of a die's L2, or of the L3. -/
def PinOf (t : State) (l3 : Bool) (die part line : Nat) : Prop := ∃ q ∈ t.mem.pins, q.l3 = l3 ∧ q.die = die ∧ q.line = line ∧ q.part = part

theorem pinOf_iff {t : State} {l3 : Bool} {die part line : Nat} :
    t.mem.pins.any (fun p => p.l3 == l3 && p.die == die && p.line == line && p.part == part) = true ↔ PinOf t l3 die part line := by
  simp [PinOf, and_assoc]

/-- A pin that cannot be granted: the line is not pinned, and its set holds 14 lines that are (R127, log 68). -/
def PinRefused (t : State) (l3 : Bool) (die part line : Nat) : Prop :=
  ¬ PinOf t l3 die part line ∧ line ∉ pinsInSet t l3 die line ∧ 14 ≤ (pinsInSet t l3 die line).length

/-- Pins have been granted at a level: every pin stays, and no set has more than 14 pinned ways that had not more before. -/
structure PinsGrow (l3 : Bool) (s t : State) : Prop where
  thr : t.thr = s.thr
  pins : ∀ q ∈ s.mem.pins, q ∈ t.mem.pins
  bound : ∀ die line, (pinsInSet t l3 die line).length ≤ max 14 (pinsInSet s l3 die line).length

namespace PinsGrow
variable {l3 : Bool} {s t u : State}
theorem of_pins (hthr : t.thr = s.thr) (h : t.mem.pins = s.mem.pins) : PinsGrow l3 s t :=
  ⟨hthr, fun q hq => h ▸ hq, fun die line => by rw [pinsInSet, pinsInSet, pinLines, pinLines, h]; exact le_max_right ..⟩
theorem refl (l3 : Bool) (s : State) : PinsGrow l3 s s := of_pins rfl rfl
theorem trans (h : PinsGrow l3 s t) (k : PinsGrow l3 t u) : PinsGrow l3 s u :=
  ⟨k.thr.trans h.thr, fun q hq => k.pins q (h.pins q hq), fun die line => by have h1 := h.bound die line; have h2 := k.bound die line; omega⟩
theorem part (h : PinsGrow l3 s t) : t.part = s.part := by rw [State.part, State.part, h.thr]
theorem pinOf (h : PinsGrow l3 s t) {die part line : Nat} (hp : PinOf s l3 die part line) : PinOf t l3 die part line := by
  obtain ⟨q, hq, hrest⟩ := hp
  exact ⟨q, h.pins q hq, hrest⟩
end PinsGrow

theorem dedup_snoc_length (l : List Nat) (a : Nat) : (l ++ [a]).dedup.length ≤ l.dedup.length + 1 ∧ (a ∈ l → (l ++ [a]).dedup.length = l.dedup.length) := by
  have hset : (l ++ [a]).toFinset = insert a l.toFinset := by ext x; simp
  rw [← List.card_toFinset, ← List.card_toFinset, hset]
  exact ⟨Finset.card_insert_le .., fun h => by rw [Finset.insert_eq_of_mem (List.mem_toFinset.2 h)]⟩

/-- Lines of one set share it with the same lines. -/
theorem sameSet_congr {l3 : Bool} {x y : Nat} (h : sameSet l3 x y = true) (z : Nat) : sameSet l3 z x = sameSet l3 z y := by
  cases l3 <;>
  · simp only [sameSet, Bool.false_eq_true, if_false, if_true, Bool.and_eq_true, beq_iff_eq] at h ⊢
    rw [h.1, h.2]

/-- A pin more, on a line whose set is not full or that is pinned there already. -/
theorem snocPin_grows {s : State} {e : PinEntry} (h : e.line ∈ pinsInSet s e.l3 e.die e.line ∨ (pinsInSet s e.l3 e.die e.line).length + 1 ≤ 14) :
    PinsGrow e.l3 s (s.modM (fun m => { m with pins := m.pins ++ [e] })) := by
  refine ⟨rfl, fun q hq => List.mem_append_left _ hq, fun die line => ?_⟩
  have hlines : pinsInSet (s.modM (fun m => { m with pins := m.pins ++ [e] })) e.l3 die line =
      (pinLines s.mem (fun p => p.l3 == e.l3 && p.die == die && sameSet e.l3 p.line line) ++
        if e.die == die && sameSet e.l3 e.line line then [e.line] else []).dedup := by
    unfold pinsInSet pinLines State.modM
    rw [List.filter_append, List.map_append, List.filter_singleton]
    cases hin : e.die == die && sameSet e.l3 e.line line <;> simp [hin]
  rw [hlines]
  split
  · next hin =>
    obtain ⟨hdie, hset⟩ := Bool.and_eq_true_iff.1 hin
    obtain rfl := beq_iff_eq.1 hdie
    have hsame : pinsInSet s e.l3 e.die e.line = pinsInSet s e.l3 e.die line := by simp only [pinsInSet, sameSet_congr hset]
    rw [hsame] at h
    obtain ⟨hle, hmem⟩ := dedup_snoc_length (pinLines s.mem (fun p => p.l3 == e.l3 && p.die == e.die && sameSet e.l3 p.line line)) e.line
    obtain hin | hroom := h
    · rw [hmem (List.mem_dedup.1 hin)]
      exact le_max_right ..
    · exact le_max_of_le_left (hle.trans hroom)
  · rw [List.append_nil]
    exact le_max_right ..

/-- Whether a line is granted a pin (R127). -/
theorem pinLine_some {s s1 : State} {l3 : Bool} {die own line : Nat} (h : pinLine s l3 die own line = some s1) : PinsGrow l3 s s1 ∧ PinOf s1 l3 die s.part line := by
  unfold pinLine at h
  dsimp only at h
  split at h
  · next hmine =>
    cases h
    exact ⟨.refl l3 s, pinOf_iff.1 hmine⟩
  · split at h
    · next hroom =>
      have hfill : CachesOnly s (if l3 then l3Fill s own line 0xFF else fillLine s die own line) := .ite (l3Fill_cachesOnly ..) (fillLine_cachesOnly ..)
      have hgrow := PinsGrow.of_pins (l3 := l3) hfill.thr hfill.pins
      have hset : pinsInSet (if l3 then l3Fill s own line 0xFF else fillLine s die own line) l3 die line = pinsInSet s l3 die line := by
        rw [pinsInSet, pinsInSet, pinLines, pinLines, hfill.pins]
      generalize (if l3 then l3Fill s own line 0xFF else fillLine s die own line) = u at h hgrow hset
      cases h
      rw [Bool.or_eq_true, List.contains_iff_mem, decide_eq_true_eq, ← hset] at hroom
      exact ⟨hgrow.trans (snocPin_grows (e := { l3 := l3, die := die, line := line, part := s.part, launch := thLaunch s.thr }) hroom),
        _, List.mem_append_right _ (List.mem_singleton.2 rfl), rfl, rfl, rfl, rfl⟩
    · cases h
theorem pinLine_none {s : State} {l3 : Bool} {die own line : Nat} (h : pinLine s l3 die own line = none) : PinRefused s l3 die s.part line := by
  unfold pinLine at h
  dsimp only at h
  split at h
  · cases h
  · next hmine =>
    split at h
    · cases h
    · next hroom =>
      rw [Bool.or_eq_true, List.contains_iff_mem, decide_eq_true_eq, not_or] at hroom
      exact ⟨fun hp => hmine (pinOf_iff.2 hp), hroom.1, by omega⟩

/-- Lines are pinned in order until one is refused (R303). -/
theorem pinRun_spec (l3 : Bool) (die own n : Nat) (line : Nat) (s : State) :
    let r := pinRun l3 die own n line s
    PinsGrow l3 s r.2.2 ∧ (∀ j, j < r.1 → PinOf r.2.2 l3 die s.part (line + j)) ∧ (r.2.1 = true → r.1 = n) ∧
      (r.2.1 = false → r.1 < n ∧ PinRefused r.2.2 l3 die s.part (line + r.1)) := by
  induction n generalizing line s with
  | zero => exact ⟨.refl l3 s, fun j hj => absurd hj (Nat.not_lt_zero j), fun _ => rfl, fun h => nomatch h⟩
  | succ n ih =>
    unfold pinRun
    split
    · next hnone => exact ⟨.refl l3 s, fun j hj => absurd hj (Nat.not_lt_zero j), fun h => (nomatch h), fun _ => ⟨Nat.succ_pos n, pinLine_none hnone⟩⟩
    · next s1 hsome =>
      obtain ⟨hgrow, hmine⟩ := pinLine_some hsome
      obtain ⟨hgrow', hpins, hall, hstop⟩ := ih (line + 1) s1
      rw [hgrow.part] at hpins hstop
      dsimp only
      refine ⟨hgrow.trans hgrow', fun j hj => ?_, fun h => congrArg (· + 1) (hall h), fun h => ?_⟩
      · cases j with
        | zero => exact hgrow'.pinOf hmine
        | succ j =>
          have hj' := hpins j (by omega)
          rwa [Nat.add_right_comm, Nat.add_assoc] at hj'
      · obtain ⟨hlt, hrefused⟩ := hstop h
        rw [Nat.add_right_comm, Nat.add_assoc] at hrefused
        exact ⟨by omega, hrefused⟩

/-- The lines of the blocks are pinned in order until one is refused or cannot be pinned at the level (R127, R303). -/
theorem pinBlocks_spec (l3 : Bool) (die : Nat) {l : List (Route × Nat × Nat)} (hl : ∀ x ∈ l, 1 ≤ x.2.2) (s : State) :
    let r := pinBlocks l3 die l s
    PinsGrow l3 s r.2 ∧ r.1 ≤ (blockLines l).length ∧
      (∀ j, j < r.1 → ∃ rt line, (blockLines l)[j]? = some (rt, line) ∧ pinable l3 rt = true ∧ PinOf r.2 l3 die s.part line) ∧
      (r.1 = (blockLines l).length ∨ ∃ rt line, (blockLines l)[r.1]? = some (rt, line) ∧ (pinable l3 rt = false ∨ PinRefused r.2 l3 die s.part line)) := by
  induction l generalizing s with
  | nil => exact ⟨.refl l3 s, Nat.le_refl 0, fun j hj => absurd hj (Nat.not_lt_zero j), .inl rfl⟩
  | cons x l ih =>
    obtain ⟨rt, ma, n⟩ := x
    have hn : 1 ≤ n := hl _ List.mem_cons_self
    have hrun := pinRun_spec l3 die (routeOwn rt) n (ma / 128) s
    unfold pinBlocks
    split
    · next hpin =>
      obtain ⟨hgrow, hpins, hall, hstop⟩ := hrun
      have hlen : (blockLines ((rt, ma, n) :: l)).length = n + (blockLines l).length := by simp [blockLines_cons]
      have hhead (j : Nat) (hj : j < n) {t : State} (hp : PinOf t l3 die s.part (ma / 128 + j)) :
          ∃ rt' line, (blockLines ((rt, ma, n) :: l))[j]? = some (rt', line) ∧ pinable l3 rt' = true ∧ PinOf t l3 die s.part line :=
        ⟨rt, ma / 128 + j, blockLines_head l hj, hpin, hp⟩
      split
      · next k s1 hrun =>
        rw [hrun] at hgrow hpins hstop
        obtain ⟨hk, hrefused⟩ := hstop rfl
        exact ⟨hgrow, by dsimp only at hk ⊢; omega, fun j hj => hhead j (Nat.lt_trans hj hk) (hpins j hj), .inr ⟨rt, ma / 128 + k, blockLines_head l hk, .inr hrefused⟩⟩
      · next k s1 hrun =>
        rw [hrun] at hgrow hpins hall
        obtain rfl : k = n := hall rfl
        obtain ⟨hgrow', hle, hpins', hend⟩ := ih (fun x hx => hl x (List.mem_cons_of_mem _ hx)) s1
        rw [hgrow.part] at hpins' hend
        dsimp only at hpins ⊢
        refine ⟨hgrow.trans hgrow', by omega, fun j hj => ?_, ?_⟩
        · by_cases hjk : j < k
          · exact hhead j hjk (hgrow'.pinOf (hpins j hjk))
          · obtain ⟨rt', line, hat, hrest⟩ := hpins' (j - k) (by omega)
            refine ⟨rt', line, ?_, hrest⟩
            rw [← hat, ← blockLines_tail rt ma k (j - k) l, Nat.add_sub_cancel' (Nat.not_lt.1 hjk)]
        · obtain hend | ⟨rt', line, hat, hrest⟩ := hend
          · exact .inl (by omega)
          · exact .inr ⟨rt', line, (blockLines_tail rt ma k _ l).trans hat, hrest⟩
    · next hpin =>
      exact ⟨.refl l3 s, Nat.zero_le _, fun j hj => absurd hj (Nat.not_lt_zero j), .inr ⟨rt, ma / 128 + 0, blockLines_head l hn, .inl (Bool.not_eq_true _ ▸ hpin)⟩⟩

end Sys2Proof.Machine
end

section
/-! Lines that are written back, and dropped (R304). -/
namespace Sys2Proof.Machine
open Sys2Proof

/-- The sectors of a block. -/
def inBlock (ma n : Nat) (x : Sector) : Bool := decide (ma ≤ x.addr) && decide (x.addr < ma + 128 * n)

/-- The blocks that are cached, each by its module address and its lines. -/
def cachedSpans (l : List (Route × Nat × Nat)) : List (Nat × Nat) := l.filterMap (fun y => match y.1 with | .cached ma _ => some (ma, y.2.2) | _ => none)
theorem mem_cachedSpans {l : List (Route × Nat × Nat)} {b : Nat × Nat} : b ∈ cachedSpans l ↔ ∃ y ∈ l, ∃ own, y.1 = .cached b.1 own ∧ y.2.2 = b.2 := by
  refine List.mem_filterMap.trans (exists_congr fun y => and_congr_right fun _ => ?_)
  obtain ⟨rt, ma, n⟩ := y
  cases rt <;> simp [Prod.ext_iff]

/-- One block is written back, and for `inv` dropped. -/
def flushOne (inv : Bool) (die : Nat) (s : State) (b : Nat × Nat) : State :=
  if inv then flushSpan s die b.1 (128 * b.2) else writeBackIf (inBlock b.1 b.2) s die
theorem flushBlocks_eq (inv : Bool) (die : Nat) (l : List (Route × Nat × Nat)) (s : State) : flushBlocks inv die l s = (cachedSpans l).foldl (flushOne inv die) s := by
  induction l generalizing s with
  | nil => rfl
  | cons y l ih =>
    obtain ⟨rt, ma', n⟩ := y
    cases rt with
    | cached ma own => exact ih _
    | _ => exact ih s

theorem flushOne_cachesOnly (inv : Bool) (die : Nat) (s : State) (b : Nat × Nat) : CachesOnly s (flushOne inv die s b) := by
  unfold flushOne
  split
  · exact flushSpan_cachesOnly ..
  · exact writeBackIf_cachesOnly ..
theorem flushBlocks_cachesOnly (inv : Bool) (die : Nat) (l : List (Route × Nat × Nat)) (s : State) : CachesOnly s (flushBlocks inv die l s) := by
  rw [flushBlocks_eq]
  exact .foldl (flushOne_cachesOnly inv die) _ s

/-! Writing back. -/

theorem writeBackIf_l2 (p : Sector → Bool) (s : State) (die : Nat) :
    (writeBackIf p s die).mem.l2 = s.mem.l2.map (fun x => if x.die == die && x.dirty && p x then { x with dirty := false } else x) := by
  have hback := foldl_mem_l2 sectorBack_l2 (s.mem.l2.filter (fun x => x.die == die && x.dirty && p x)) s
  exact congrArg (List.map _) hback

/-- The dirty sectors that are left are those that were not written back. -/
theorem mem_writeBackIf_dirty {p : Sector → Bool} {s : State} {die : Nat} {x : Sector} (hdie : x.die = die) (hd : x.dirty = true) :
    x ∈ (writeBackIf p s die).mem.l2 ↔ x ∈ s.mem.l2 ∧ p x = false := by
  rw [writeBackIf_l2, List.mem_map]
  constructor
  · rintro ⟨y, hy, rfl⟩
    split at hd
    · cases hd
    · next hhit =>
      rw [if_neg hhit] at hdie
      rw [if_neg hhit]
      rw [hdie, hd] at hhit
      exact ⟨hy, by simpa using hhit⟩
  · rintro ⟨hx, hp⟩
    exact ⟨x, hx, if_neg (by rw [hp, Bool.and_false]; decide)⟩

/-- Once blocks are written back, no sector in them is dirty. -/
theorem foldl_flushOne_clean {die : Nat} {bs : List (Nat × Nat)} {s : State} {x : Sector} (hx : x ∈ (bs.foldl (flushOne false die) s).mem.l2) (hdie : x.die = die)
    (hd : x.dirty = true) : x ∈ s.mem.l2 ∧ ∀ b ∈ bs, inBlock b.1 b.2 x = false := by
  induction bs generalizing s with
  | nil => exact ⟨hx, fun b hb => absurd hb List.not_mem_nil⟩
  | cons b bs ih =>
    obtain ⟨hkept, hrest⟩ := ih hx
    obtain ⟨hmem, hout⟩ := (mem_writeBackIf_dirty hdie hd).1 hkept
    exact ⟨hmem, List.forall_mem_cons.2 ⟨hout, hrest⟩⟩

theorem foldl_sectorBack_heldL3 {l : List Sector} {s : State} (h : InPlace s l) {ma n : Nat} (hs : HeldL3 s ma n) : HeldL3 (l.foldl sectorBack s) ma n := by
  induction l generalizing s with
  | nil => exact hs
  | cons x l ih =>
    obtain ⟨hd, hheld, -⟩ := h x List.mem_cons_self
    exact ih h.tail ((sectorBack_held hd hheld).2.2 ma n hs)

section
variable {s : State} {die : Nat} (h : BackInPlace s die)
include h

theorem BackInPlace.inPlace (p : Sector → Bool) : InPlace s (s.mem.l2.filter (fun x => x.die == die && x.dirty && p x)) := by
  have hmem {y : Sector} (hy : y ∈ s.mem.l2.filter (fun x => x.die == die && x.dirty && p x)) : y ∈ s.mem.l2 ∧ y.die = die ∧ y.dirty = true := by
    simp only [List.mem_filter, Bool.and_eq_true, beq_iff_eq] at hy
    exact ⟨hy.1, hy.2.1⟩
  intro x hx
  obtain ⟨hx, hdie, hd⟩ := hmem hx
  obtain ⟨hheld, hapart⟩ := h x hx hdie hd
  refine ⟨hd, hheld, fun y hy => ?_⟩
  obtain ⟨hy, hydie, hyd⟩ := hmem hy
  exact hapart y hy hydie hyd

/-- The sectors that are left dirty can still be written back in place. -/
theorem BackInPlace.writeBackIf (p : Sector → Bool) : BackInPlace (Machine.writeBackIf p s die) die := by
  intro x hx hdie hd
  obtain ⟨hmem, -⟩ := (mem_writeBackIf_dirty hdie hd).1 hx
  obtain ⟨hheld, hapart⟩ := h x hmem hdie hd
  exact ⟨foldl_sectorBack_heldL3 (h.inPlace p) hheld, fun y hy hydie hyd => hapart y ((mem_writeBackIf_dirty hydie hyd).1 hy).1 hydie hyd⟩

theorem BackInPlace.get_apart (p : Sector → Bool) {k : Nat} (hk : ∀ y ∈ s.mem.l2, y.die = die → y.dirty = true → k + 16 ≤ maKey y.addr ∨ maKey y.addr + 16 ≤ k) :
    (Machine.writeBackIf p s die).mem.get k 16 = s.mem.get k 16 := by
  refine foldl_sectorBack_apart (h.inPlace p) fun y hy => ?_
  simp only [List.mem_filter, Bool.and_eq_true, beq_iff_eq] at hy
  exact hk y hy.1 hy.2.1.1 hy.2.1.2
end

/-- Bytes apart from every dirty sector stay. -/
theorem foldl_flushOne_apart {die : Nat} (bs : List (Nat × Nat)) {s : State} (h : BackInPlace s die) {k : Nat}
    (hk : ∀ y ∈ s.mem.l2, y.die = die → y.dirty = true → k + 16 ≤ maKey y.addr ∨ maKey y.addr + 16 ≤ k) :
    (bs.foldl (flushOne false die) s).mem.get k 16 = s.mem.get k 16 := by
  induction bs generalizing s with
  | nil => rfl
  | cons b bs ih =>
    exact (ih (h.writeBackIf _) fun y hy hdie hd => hk y ((mem_writeBackIf_dirty hdie hd).1 hy).1 hdie hd).trans (h.get_apart _ hk)

/-- The dirty sectors of blocks stand at their homes once the blocks have been written back in place. -/
theorem foldl_flushOne_written {die : Nat} {bs : List (Nat × Nat)} {s : State} (h : BackInPlace s die) {x : Sector} (hx : x ∈ s.mem.l2) (hdie : x.die = die)
    (hd : x.dirty = true) (hin : ∃ b ∈ bs, inBlock b.1 b.2 x = true) : (bs.foldl (flushOne false die) s).mem.get (maKey x.addr) 16 = x.data.toNat := by
  induction bs generalizing s with
  | nil => obtain ⟨b, hb, -⟩ := hin; cases hb
  | cons b bs ih =>
    cases hsel : inBlock b.1 b.2 x with
    | true =>
      refine (foldl_flushOne_apart bs (h.writeBackIf _) fun y hy hydie hyd => ?_).trans (writeBackIf_writtenBack (inBlock b.1 b.2) h hx hdie hd hsel)
      obtain ⟨hmem, hout⟩ := (mem_writeBackIf_dirty hydie hyd).1 hy
      obtain rfl | hapart := (h x hx hdie hd).2 y hmem hydie hyd
      · rw [hsel] at hout
        cases hout
      · exact hapart.symm
    | false =>
      refine ih (h.writeBackIf _) ((mem_writeBackIf_dirty hdie hd).2 ⟨hx, hsel⟩) ?_
      obtain ⟨c, hc, hcin⟩ := hin
      obtain rfl | hc := List.mem_cons.1 hc
      · rw [hsel] at hcin
        cases hcin
      · exact ⟨c, hc, hcin⟩

/-! Dropping. -/

theorem flushSpan_gone {s : State} {die ma n : Nat} {x : Sector} (hx : x ∈ (flushSpan s die ma n).mem.l2) (hdie : x.die = die) :
    (∃ z ∈ s.mem.l2, z.die = die ∧ z.addr = x.addr) ∧ inSpan ma n x.addr = false := by
  obtain ⟨hx, hout⟩ := List.mem_filter.1 hx
  have hback : x ∈ (writeBackIf (fun x => inSpan ma n x.addr) s die).mem.l2 := hx
  rw [writeBackIf_l2] at hback
  obtain ⟨z, hz, rfl⟩ := List.mem_map.1 hback
  rw [hdie] at hout
  refine ⟨⟨z, hz, ?_, ?_⟩, by simpa using hout⟩
  · rw [← hdie]
    split <;> rfl
  · split <;> rfl
/-- Once blocks are dropped, no sector of them is left, and none has come. -/
theorem foldl_flushOne_gone {die : Nat} {bs : List (Nat × Nat)} {s : State} {x : Sector} (hx : x ∈ (bs.foldl (flushOne true die) s).mem.l2) (hdie : x.die = die) :
    (∃ z ∈ s.mem.l2, z.die = die ∧ z.addr = x.addr) ∧ ∀ b ∈ bs, inSpan b.1 (128 * b.2) x.addr = false := by
  induction bs generalizing s with
  | nil => exact ⟨⟨x, hx, hdie, rfl⟩, fun b hb => absurd hb List.not_mem_nil⟩
  | cons b bs ih =>
    obtain ⟨⟨y, hy, hydie, haddr⟩, hrest⟩ := ih hx
    obtain ⟨hz, hout⟩ := flushSpan_gone hy hydie
    rw [haddr] at hz hout
    exact ⟨hz, List.forall_mem_cons.2 ⟨hout, hrest⟩⟩

end Sys2Proof.Machine
end

section
/-! Prefetch, pins and cache operations. -/
namespace Sys2Proof.Machine
open Sys2Proof

theorem linesChk_misaligned {a : Nat} (n : Nat) (h : a % 128 ≠ 0) : linesChk a n = raise 0x22 a := by
  unfold linesChk
  rw [beq_false_of_ne h]
  rfl
theorem linesChk_count {a n : Nat} (ha : a % 128 = 0) (hn : n = 0 ∨ 65536 < n) : linesChk a n = raise 0x12 n := by
  have hbad : (decide (1 ≤ n) && decide (n ≤ 65536)) = false := by
    rw [Bool.and_eq_false_iff, decide_eq_false_iff_not, decide_eq_false_iff_not]
    omega
  unfold linesChk
  rw [beq_iff_eq.2 ha, hbad]
  rfl
theorem linesChk_good {a n : Nat} (ha : a % 128 = 0) (h1 : 1 ≤ n) (hn : n ≤ 65536) : linesChk a n = .ok () := by
  unfold linesChk
  rw [beq_iff_eq.2 ha, decide_eq_true h1, decide_eq_true hn]
  rfl

/-- A range that fails its checks stops each of the four instructions (R303, R304). -/
theorem rangeOps_stop {s : State} {d a b : BitVec 5} {l3 : Bool} {off : Option (BitVec 32)} {code detail : Nat}
    (h : linesChk (s.getS a + lrOff off).toNat (s.getS b).toNat = raise code detail) :
    exec (.pin d a b l3 off) s = raises s code detail ∧ exec (.unpin a b l3 off) s = raises s code detail ∧
      exec (.cflush a b off) s = raises s code detail ∧ exec (.cinv a b off) s = raises s code detail := by
  rw [exec_pin, exec_unpin, exec_cflush, exec_cinv]
  unfold execPin execUnpin execCflush execCinv
  rw [eaLR, offLR_eq]
  refine ⟨finish_raises ?_, finish_raises ?_, finish_raises ?_, finish_raises ?_⟩
  · exact congrArg (Except.map _) (chk_bind_stop h _)
  all_goals exact chk_bind_stop h _

section
variable {s s1 : State} {a b : BitVec 5} {off : Option (BitVec 32)} {l : List (Route × Nat × Nat)}
  (hchk : linesChk (s.getS a + lrOff off).toNat (s.getS b).toNat = .ok ()) (hl : blockRoutes s (lineBlocks (s.getS a + lrOff off).toNat (s.getS b).toNat) = .ok (s1, l))
include hchk hl

theorem pin_runs (d : BitVec 5) (l3 : Bool) : exec (.pin d a b l3 off) s =
    .next ((pinBlocks l3 (if l3 then 0 else thDie s.cur) l s1).2.setS d (BitVec.ofNat 64 (pinBlocks l3 (if l3 then 0 else thDie s.cur) l s1).1)) := by
  rw [exec_pin]
  unfold execPin
  rw [eaLR, offLR_eq]
  refine finish_val (congrArg (Except.map _) (a₂ := .ok (pinBlocks l3 (if l3 then 0 else thDie s.cur) l s1)) ?_)
  exact (chk_bind_val hchk _).trans (chk_bind_val hl _)
/-- The pins of the partition on the range are those that `unpin` ends (R303). -/
theorem unpin_ends (l3 : Bool) : ∃ t, exec (.unpin a b l3 off) s = .next t ∧ t.thr.r = s1.thr.r ∧ t.mem.cells = s1.mem.cells ∧ (∀ q ∈ t.mem.pins, q ∈ s1.mem.pins) ∧
    ∀ q ∈ t.mem.pins, ∀ x ∈ l, q.l3 = l3 → q.part = s.part → q.die = (if l3 then 0 else thDie s.cur) → pinable l3 x.1 = true →
      q.line < x.2.1 / 128 ∨ x.2.1 / 128 + x.2.2 ≤ q.line := by
  have hrun : ∃ hit : PinEntry → Bool, exec (.unpin a b l3 off) s = .next (s1.modM (fun m => { m with pins := m.pins.filter (fun p => !hit p) })) ∧
      ∀ q, hit q = (q.l3 == l3 && q.die == (if l3 then 0 else thDie s.cur) && q.part == s.part &&
        l.any (fun x => pinable l3 x.1 && decide (x.2.1 / 128 ≤ q.line) && decide (q.line < x.2.1 / 128 + x.2.2))) := by
    refine ⟨_, ?_, fun q => rfl⟩
    rw [exec_unpin]
    unfold execUnpin
    rw [eaLR, offLR_eq]
    exact finish_val ((chk_bind_val hchk _).trans (chk_bind_val hl _))
  obtain ⟨hit, hrun, hhit⟩ := hrun
  refine ⟨_, hrun, rfl, rfl, fun q hq => (List.mem_filter.1 hq).1, fun q hq x hx hlevel hpart hdie hpin => ?_⟩
  by_contra hin
  rw [not_or, Nat.not_lt, Nat.not_le] at hin
  have hany : l.any (fun x => pinable l3 x.1 && decide (x.2.1 / 128 ≤ q.line) && decide (q.line < x.2.1 / 128 + x.2.2)) = true :=
    List.any_eq_true.2 ⟨x, hx, by rw [hpin, decide_eq_true hin.1, decide_eq_true hin.2]; rfl⟩
  have hkept := (List.mem_filter.1 hq).2
  rw [hhit, hany, hlevel, hpart, hdie] at hkept
  simp at hkept
theorem flush_runs (inv : Bool) : exec (if inv then .cinv a b off else .cflush a b off) s = .next (flushBlocks inv (thDie s.cur) l (drainAll s1 (thCore s.cur))) := by
  have hrun : finish s (flushRange s (eaLR s a off) (s.getS b).toNat inv) = .next (flushBlocks inv (thDie s.cur) l (drainAll s1 (thCore s.cur))) := by
    rw [eaLR, offLR_eq]
    exact finish_val ((chk_bind_val hchk _).trans (chk_bind_val hl _))
  cases inv <;> exact hrun

/-- `cflush` writes the dirty sectors of the cached blocks back, and leaves none of them dirty (R304). -/
theorem cflush_writes :
    let c := drainAll s1 (thCore s.cur)
    let within := fun (x : Nat) => ∃ y ∈ l, ∃ ma own, y.1 = .cached ma own ∧ ma ≤ x ∧ x + 16 ≤ ma + 128 * y.2.2
    ∃ t, exec (.cflush a b off) s = .next t ∧ t.thr.r = s1.thr.r ∧ (BackInPlace c (thDie s.cur) → WrittenBack c t (thDie s.cur) within) ∧
      ∀ x ∈ t.mem.l2, x.die = thDie s.cur → x.dirty = true → ∀ y ∈ l, ∀ ma own, y.1 = .cached ma own → x.addr < ma ∨ ma + 128 * y.2.2 ≤ x.addr := by
  have hcaches := flushBlocks_cachesOnly false (thDie s.cur) l (drainAll s1 (thCore s.cur))
  have heq := flushBlocks_eq false (thDie s.cur) l (drainAll s1 (thCore s.cur))
  refine ⟨_, flush_runs hchk hl false, ?_, fun hplace x hx hdie hd hin => ?_, fun x hx hdie hd y hy ma own he => ?_⟩
  · rw [hcaches.thr, (drainAll_moves s1 (thCore s.cur)).thr]
  · obtain ⟨y, hy, ma, own, he, hlo, hhi⟩ := hin
    have hsel : inBlock ma y.2.2 x = true := by
      rw [inBlock, decide_eq_true hlo, decide_eq_true (by omega)]
      rfl
    rw [heq]
    exact foldl_flushOne_written hplace hx hdie hd ⟨(ma, y.2.2), mem_cachedSpans.2 ⟨y, hy, own, he, rfl⟩, hsel⟩
  · rw [heq] at hx
    have hout := (foldl_flushOne_clean hx hdie hd).2 (ma, y.2.2) (mem_cachedSpans.2 ⟨y, hy, own, he, rfl⟩)
    rw [inBlock, Bool.and_eq_false_iff, decide_eq_false_iff_not, decide_eq_false_iff_not] at hout
    omega

/-- `cinv` leaves no sector of the cached blocks in the die's L2 (R304). -/
theorem cinv_drops : ∃ t, exec (.cinv a b off) s = .next t ∧ t.thr.r = s1.thr.r ∧
    ∀ x ∈ t.mem.l2, x.die = thDie s.cur → ∀ y ∈ l, ∀ ma own, y.1 = .cached ma own → x.addr + 16 ≤ ma ∨ ma + 128 * y.2.2 ≤ x.addr := by
  have hcaches := flushBlocks_cachesOnly true (thDie s.cur) l (drainAll s1 (thCore s.cur))
  have heq := flushBlocks_eq true (thDie s.cur) l (drainAll s1 (thCore s.cur))
  refine ⟨_, flush_runs hchk hl true, ?_, fun x hx hdie y hy ma own he => ?_⟩
  · rw [hcaches.thr, (drainAll_moves s1 (thCore s.cur)).thr]
  · rw [heq] at hx
    have hout := (foldl_flushOne_gone hx hdie).2 (ma, y.2.2) (mem_cachedSpans.2 ⟨y, hy, own, he, rfl⟩)
    rw [inSpan, decide_eq_false_iff_not] at hout
    omega
end

/-- A line is filled into the level that `pref` names (R302, log 43). -/
theorem pref_answers (s : State) (a : BitVec 5) (lvl : Lvl) (off : Option (BitVec 32)) : ∃ t, exec (.pref a lvl off) s = .next t ∧ AccessLeaves s t ∧
    ∀ s1 g ma own, (s.getS a + lrOff off).toNat / 2 ^ 56 = 0 → resolve s (s.getS a + lrOff off).toNat 1 1 .load = .ok (s1, g) → tgtRoute s1 g = .cached ma own →
      (lvl = .l2 → ∀ i, i < 8 → (l2Find t (thDie s.cur) (ma / 128 * 128 + 16 * i)).isSome = true) ∧ (lvl = .l3 → ∃ x ∈ t.mem.l3, x.line = ma / 128) := by
  have hrun : exec (.pref a lvl off) s = .next (prefetchLine s (s.getS a + lrOff off) lvl) := by
    rw [exec_pref, ← offLR_eq]
    rfl
  refine ⟨_, hrun, prefetchLine_access .., fun s1 g ma own ha hres hroute => ?_⟩
  rw [prefetchLine_ok lvl ha hres hroute]
  refine ⟨fun hlvl i hi => ?_, fun hlvl => ?_⟩
  · rw [hlvl]
    exact fillLine_fills _ _ _ s1 hi
  · rw [hlvl]
    exact l3Fill_line s1 own (ma / 128) 0xFF

/-- Settles O47: the fills, pins and flushes are followed line by line and block by block. -/
theorem cacheMaintenance : Obligations.CacheMaintenance := by
  unfold Obligations.CacheMaintenance
  refine ⟨fun s a lvl off => ?_, fun s d a b l3 off => ⟨fun ha => rangeOps_stop (linesChk_misaligned _ ha), fun ha hn => rangeOps_stop (linesChk_count ha hn), fun ha h1 hn s1 l hl => ?_⟩⟩
  · obtain ⟨t, hrun, hleaves, hfilled⟩ := pref_answers s a lvl off
    exact ⟨t, hrun, hleaves.regs, hleaves.pins, hleaves.cores, hleaves.npc, hleaves.taken, hfilled⟩
  have hchk := linesChk_good ha h1 hn
  obtain ⟨hleaves, hlens⟩ := blockRoutes_lines hl
  obtain ⟨hlines, hsum⟩ := lineBlocks_lines (s.getS b).toNat ha
  refine ⟨?_, ?_, ?_, ?_⟩
  · have hne : ∀ x ∈ l, 1 ≤ x.2.2 := fun x hx => by
      have hmem : x.2.2 ∈ l.map (fun x => x.2.2) := List.mem_map_of_mem hx
      rw [hlens] at hmem
      obtain ⟨p, hp, he⟩ := List.mem_map.1 hmem
      exact he ▸ hlines p hp
    have hlen : (blockLines l).length = (s.getS b).toNat := by rw [blockLines_length, hlens, hsum]
    obtain ⟨hgrow, hle, hpins, hend⟩ := pinBlocks_spec l3 (if l3 then 0 else thDie s.cur) hne s1
    rw [hleaves.part] at hpins hend
    rw [hlen] at hle hend
    refine ⟨_, _, pin_runs hchk hl d l3, hle, congrArg Thread.r hgrow.thr, hpins, ?_, hgrow.pins, hgrow.bound⟩
    exact hend
  · exact unpin_ends hchk hl l3
  · exact cflush_writes hchk hl
  · exact cinv_drops hchk hl

end Sys2Proof.Machine
end
